-- ==== Sys2Proof/Word.lean ====
section
/-!
DEFINITION. The machine's word types.

A set-up register is 64 bits (R542), an address register of the tile sequencer 32 bits (Table 3-4), a step 128 bits
(R77), a queue slot 512 bits (64 bytes, R313).  Byte 0 of a record is its least significant byte (R4).
-/

namespace Sys2Proof

/-- A set-up register's value (R542). -/
abbrev Word := BitVec 64
/-- A 32-bit value: an address register, a loop counter, an FP32 encoding. -/
abbrev W32 := BitVec 32
/-- One byte. -/
abbrev Byte := BitVec 8
/-- One step of a tile program, 16 bytes (R77). -/
abbrev StepWord := BitVec 128
/-- One 64-byte slot, operation or access granule (R106, R313). -/
abbrev Line := BitVec 512

end Sys2Proof
end

