-- ==== Sys2Proof/Syntax.lean ====
section
/-!
DEFINITION. The commands of the block: one constructor for each row of the spec's opcode table.

Operands name who or what the command is about; everything else a command needs stands in the state.  Conventions:
`q` a queue; `c` a physical core (d × 672 + index, R14); `s` a stack; `d`, `dp` a die pair; `a` an asterism; `port` a
CXL port; `fn` a virtual function, port × 256 + half × 128 + VF; `path` a set-up access path (0 to 3 BAR0 of
function 0 of a CXL port, 4 the module controller, R543); `id` a command in flight; `i` a position in the list of messages the command is
about; `m` a management command firmware has taken.  Measured quantities (a temperature, a power, an energy) are
operands, for they come from outside the block.
-/

namespace Sys2Proof

/-- An answer to ENTER (R410): accept, delay by microseconds, or refuse with a reason of Table 13-3. -/
inductive EnterAnswer where
  | accept
  | delay (us : Nat)
  | refuse (reason : Nat)
  deriving DecidableEq, Repr

/-- What the manifest of a firmware image says, and what its signatures prove (Tables 16-2, 16-5).  The arithmetic of the
signatures is not restated here, so whether one verifies is an operand. -/
structure Manifest where
  /-- Check 2 finds its layout right, the floors and the length apart. -/
  wellFormed : Bool
  devKey : Bool
  /-- DORSYN_SIG verifies under the key that DEVKEY names. -/
  dorsynOk : Bool
  ownerSig : Bool
  /-- OWNER_SIG verifies under OWNER_KEY, whose SHA-512 is `ownerHash`. -/
  ownerOk : Bool
  ownerHash : Nat
  svnB : Nat
  svnR : Nat
  floorB : Nat
  floorR : Nat
  total : Nat
  /-- BOOT_HASH, RUN_HASH and POL_HASH, as one number. -/
  hashes : Nat
  deriving DecidableEq, Repr

/-- A Dorsyn production image with security versions and floors 0 and no owner signature. -/
def Manifest.plain : Manifest where
  wellFormed := true
  devKey := false
  dorsynOk := true
  ownerSig := false
  ownerOk := false
  ownerHash := 0
  svnB := 0
  svnR := 0
  floorB := 0
  floorR := 0
  total := 65536
  hashes := 0

/-- What ECC finds in a codeword as it is read (R144, R145): the DRAM's doing, hence an operand. -/
inductive Ecc where
  | clean
  | corrected
  | uncorrectable
  deriving DecidableEq, Repr

/-- A command: one row of the opcode table. -/
inductive Instr where
  /-- NOP (R318): A NOP command is admitted and reaches its completion point at once. -/
  | nop (q : Nat)
  /-- TILE (R69): A TILE command is checked, admitted or refused, and queued for dispatch of its tiles. -/
  | tile (q : Nat)
  /-- XFER_STORE (R128): An XFER command with MODE 0 is checked, admitted and divided into segment tiles that store to the destination. -/
  | xferStore (q : Nat)
  /-- XFER_ADD (R128): An XFER command with MODE 1 is checked, admitted and divided into segment tiles that add FP32 into the destination. -/
  | xferAdd (q : Nat)
  /-- SWEEP (R213): A SWEEP command is checked against Table 7-3, admitted or refused, and handed to the sweep distributor. -/
  | sweep (q : Nat)
  /-- SIGNAL_SET (R323): SIGNAL with OP SET sets its event's value, clears ABANDONED and re-evaluates parked WAITs. -/
  | signalSet (q : Nat)
  /-- SIGNAL_ADD (R323): SIGNAL with OP ADD adds to its event's value modulo 2^63 and re-evaluates parked WAITs. -/
  | signalAdd (q : Nat)
  /-- SIGNAL_MAX (R323): SIGNAL with OP MAX raises its event's value to the operand and re-evaluates parked WAITs. -/
  | signalMax (q : Nat)
  /-- WAIT (R324): WAIT parks until its condition holds on its event or ABANDONED is set, holding later commands of its queue. -/
  | wait (q : Nat)
  /-- WAIT_TIMEOUT (R324): TIMEOUT_US of a parked WAIT elapses and the WAIT completes ABORTED with TIMED_OUT. -/
  | waitTimeout (id : Nat)
  /-- ACQUIRE (R325): ACQUIRE takes a semaphore unit when one is free, or waits and may start priority inheritance. -/
  | acquire (q : Nat)
  /-- ACQUIRE_TIMEOUT (R325): TIMEOUT_US of a waiting ACQUIRE elapses and it completes ABORTED with TIMED_OUT, holding no unit. -/
  | acquireTimeout (id : Nat)
  /-- RELEASE (R325): RELEASE returns the oldest unit its context holds and gives freed units to waiting ACQUIREs. -/
  | release (q : Nat)
  /-- BARRIER (R326): BARRIER collects arrivals of the preceding work and holds the tiles of its SPAN following commands for release waves. -/
  | barrier (q : Nat)
  /-- HINT (R428): HINT books POWER_W of leave for its context after the reservation and buffer tests, or is refused with ENERGY. -/
  | hint (q : Nat)
  /-- HINT_OPEN (R428): LEAD_US after acceptance a HINT booking opens and its context's leave is granted from it first. -/
  | hintOpen (b : Nat)
  /-- HINT_CLOSE (R428): A HINT booking closes after HOLD_US or once ENERGY_MJ has been drawn. -/
  | hintClose (b : Nat)
  /-- ABORT (R327): ABORT names a command by queue and position and races it at the command's outcome latch. -/
  | abort (q : Nat)
  /-- CALL (R322): CALL checks its objects and buffer range, raises in-flight counts and admits the called commands in its place. -/
  | call (q : Nat)
  /-- FREE_OBJECT (R338): FREE_OBJECT sets a LIVE or LOST object RETIRING and completes at once. -/
  | freeObject (q : Nat)
  /-- MAP (R187): MAP checks every page in every named stack and writes COUNT translation entries from one template. -/
  | map (q : Nat)
  /-- UNMAP (R190): UNMAP clears the entries in its scope, optionally writes dirty pool pages back, and runs the invalidation broadcast. -/
  | unmap (q : Nat)
  /-- INVALIDATE (R191): INVALIDATE drops cached entries in its scope and waits until requests translated under them have finished. -/
  | invalidate (q : Nat)
  /-- BIND (R279): BIND applies its delta to the staged map after the checks of Table 9-6 and, with APPLY, queues a publication. -/
  | bind (m : Nat)
  /-- UNBIND (R279): UNBIND removes units from the staged map, or dissolves the asterism, after the checks of Table 9-6. -/
  | unbind (m : Nat)
  /-- ATTACH (R292): ATTACH binds a virtual function of a port to an asterism, or is refused with POLICY and 0x05C1. -/
  | attach (m : Nat)
  /-- DETACH (R293): DETACH without FORCE closes the function's window and detaches it, or is refused with NOT_QUIESCED. -/
  | detach (m : Nat)
  /-- DETACH_FORCE (R294): DETACH with FORCE revokes every context of the function, closes its window and disables it. -/
  | detachForce (m : Nat) (rest : List Line)
  /-- QUIESCE (R296): QUIESCE stops fetch from every queue of the asterism and waits for it to become quiescent. -/
  | quiesce (m : Nat)
  /-- QUIESCENT (R296): The asterism becomes quiescent, enters QUIESCED and the waiting QUIESCE completes COMPLETED. -/
  | quiescent (a : Nat)
  /-- QUIESCE_TIMEOUT (R296): TIMEOUT_MS of a QUIESCE elapses and it completes REFUSED with 0x05C5, leaving the asterism QUIESCING. -/
  | quiesceTimeout (a : Nat)
  /-- RESUME (R297): RESUME restarts fetching for every queue and makes the asterism ACTIVE. -/
  | resume (m : Nat)
  /-- COMMIT_MODE (R300): COMMIT_MODE checks the staged mode, stamps a mode epoch, pauses dispatch and sends pause and adopt to the units. -/
  | commitMode (m : Nat)
  /-- MODE_ACK (R300): A unit's acknowledgement of adoption arrives and on the last one firmware sends commit and resumes dispatch. -/
  | modeAck (unit : Nat)
  /-- MODE_CHANGE_ROLLED_BACK (R300): An acknowledgement missing at 100 us makes every unit revert, records 0x05C9 and resets the laggards. -/
  | modeChangeRolledBack
  /-- SPARE_SWAP (R291): SPARE_SWAP fences a core, starts a channel repair or a slice substitution for a unit in service. -/
  | spareSwap (m : Nat)
  /-- CONTEXT_REVOKE (R346): CONTEXT_REVOKE, from the management ring or CTL_OP, sets the context REVOKING and runs the revocation of Table 10-17. -/
  | contextRevoke (src : Option Nat) (m : Nat) (op : Line) (rest : List Line)
  /-- REVOKE_FINAL (R346): Once the context's objects are freed the queues are destroyed, the KIND 2 final record written and the context set FREE. -/
  | revokeFinal (ctx : Nat)
  /-- REVOKE_TIMEOUT (R451): Step 5 of a revocation not done 10 ms after step 1 escalates to an asterism reset with 0x0A03. -/
  | revokeTimeout (ctx : Nat)
  /-- SET_CAP (R433): SET_CAP records the fabric manager's cap and starts obeying a lowered active cap by Table 13-10. -/
  | setCap (m : Nat)
  /-- CAP_HOLD_STEP (R433): Every 50 us while input exceeds the cap less half the margin, the held fraction h rises by 1/16 and admission re-tests. -/
  | capHoldStep
  /-- CAP_RELEASE_STEP (R434): Every 1 ms while input is below the cap less twice the margin, h falls by 1/16 and BELOW clears below 16/16. -/
  | capReleaseStep
  /-- CAP_SETTLED (R433): Input staying at or below the cap for 100 us completes SET_CAP COMPLETED. -/
  | capSettled
  /-- FLOOR_RECOMPUTE (R434): Every 1 ms FLOOR_W is recomputed from the projected minimum input. -/
  | floorRecompute (watts : Nat)
  /-- CTX_CREATE (R311): CTX_CREATE allocates a context in the function's asterism and returns its identifier. -/
  | ctxCreate (fn : Nat) (op : Line)
  /-- CTX_RESUME (R340): CTX_RESUME returns a FAULTED or FAULTED_RETAINED context to ACTIVE and restores fetch and dispatch. -/
  | ctxResume (fn : Nat) (op : Line)
  /-- QUEUE_CREATE (R311): QUEUE_CREATE allocates a queue with its rings and returns its number and doorbell index. -/
  | queueCreate (fn : Nat) (op : Line)
  /-- QUEUE_DESTROY (R312): QUEUE_DESTROY removes an empty queue with no commands outstanding. -/
  | queueDestroy (fn : Nat) (op : Line)
  /-- OBJ_CREATE (R311): OBJ_CREATE allocates a LIVE memory object and returns its handle. -/
  | objCreate (fn : Nat) (op : Line)
  /-- EVENT_CREATE (R311): EVENT_CREATE allocates a counter or semaphore event and returns its handle. -/
  | eventCreate (fn : Nat) (op : Line)
  /-- EVENT_DESTROY (R312): EVENT_DESTROY removes an event with no waiters and no held units. -/
  | eventDestroy (fn : Nat) (op : Line)
  /-- QUERY (R311): QUERY returns the state of a context, queue, object or event in CTL_VALUE and CTL_VALUE2. -/
  | query (fn : Nat) (op : Line)
  /-- DB_TAIL_WRITE (R315): A write of a queue's DB_TAIL is accepted under R315 and hands the covered slots to the device, or is ignored with 0x0605. -/
  | dbTailWrite (fn : Nat) (dbidx : Nat) (value : Nat)
  /-- CQ_HEAD_WRITE (R316): A write of CQ_HEAD frees completion-ring space, writes held records with CQ_HELD and resumes fetch. -/
  | cqHeadWrite (fn : Nat) (dbidx : Nat) (value : Nat)
  /-- QUEUE_FETCH (R316): The home dispatcher fetches up to 16 slots of a resident queue in position order for admission. -/
  | queueFetch (q : Nat) (slots : List Line)
  /-- CONTEXT_LOAD (R342): A context or queue with waiting work is loaded into a resident slot of its home die pair. -/
  | contextLoad (q : Nat)
  /-- TIME_SLICE (R344): A time slice expires and unpinned resident slots rotate to the next asterisms and contexts with waiting work. -/
  | timeSlice (a : Nat)
  /-- FAULT_QUEUE_CHECK (R376): Every 10 us the commands of FAULT_BLOCKED contexts are checked and shed with FAULT_QUEUE when they can no longer meet their deadline. -/
  | faultQueueCheck
  /-- DELIVERABLE_CHANGE (R155): A stack's report of a changed deliverable fraction reaches every admission controller, which re-tests its channels and sheds with MEMORY. -/
  | deliverableChange (s : Nat) (d : Nat)
  /-- BRIDGE_RATE_CHANGE (R239): A die bridge's new rate reaches every admission controller, which re-tests bridge traffic and sheds with MEMORY. -/
  | bridgeRateChange (b : Nat) (d : Nat)
  /-- ADM_DERATE_WRITE (R375): A lowered ADM_DERATE re-tests every channel and bridge limit and sheds what no longer fits. -/
  | admDerateWrite (path : Nat) (value : Nat)
  /-- INFL_DECAY (R368): After 64 x DECAY consecutive tile ends without overrun a context's INFL falls by 1. -/
  | inflDecay (ctx : Nat)
  /-- TILE_DISPATCH (R371): A free core receives the next tile by the dispatch order once its leave, credits and release wave allow. -/
  | tileDispatch (id : Nat) (c : Nat)
  /-- TILE_START (R72): The core has loaded the step list and registers, sets the sequencer state of Table 3-4 and enters RUNNING. -/
  | tileStart (c : Nat)
  /-- TILE_END (R86): END has issued, every step completed and every XOUT acknowledged: the core reports MC, returns credits and leave and the completion point may record. -/
  | tileEnd (c : Nat) (cycles : Nat) (uj : Nat)
  /-- TILE_WATCHDOG (R92): A tile's watchdog reaches 400 ticks, the tile is aborted with 0x0102 and its core reset. -/
  | tileWatchdog (c : Nat)
  /-- TILE_REPLAY (R96): An aborted replayable tile is dispatched again from step 0 ahead of the command's undispatched tiles. -/
  | tileReplay (id : Nat) (c : Nat)
  /-- SPAD_UE (R63): A double-bit scratchpad error aborts the tile with 0x0104 and resets the core. -/
  | spadUe (c : Nat) (line : Nat)
  /-- ENGINE_PARITY (R63): A parity error in an accumulator file or engine datapath aborts the tile with 0x0105 and resets the core. -/
  | engineParity (c : Nat) (eng : Nat) (row : Nat)
  /-- CORE_RESET (R102): A core reset closes its port gate, cancels its requests, aborts its tile, cycles and self-tests the core and returns it to IDLE. -/
  | coreReset (c : Nat)
  /-- CORE_RESET_TIMEOUT (R103): A core reset not done at 2 ms, or a failed self-test, sets the core FAILED and records it in the Almanac. -/
  | coreResetTimeout (c : Nat)
  /-- FENCE_UNCONFIRMED (R451): A port gate not confirming its fence within 10 us records 0x0A07 and starts a package reset. -/
  | fenceUnconfirmed (c : Nat)
  /-- CORE_NIGHT_EXIT (R407): A Night core receiving a tile wakes within 40 us and the waiting dispatch proceeds. -/
  | coreNightExit (c : Nat)
  /-- CORE_NIGHT (R407): A core that has been in Dusk for NIGHT_AFTER_US enters Night unless its asterism keeps it awake. -/
  | coreNight (c : Nat)
  /-- STEP_NOP (R77): The NOP step has no effect. -/
  | stepNop (c : Nat)
  /-- END (R77): END ends issue, stops the inbound streams, and the tile ends when R86 is met. -/
  | stepEnd (c : Nat)
  /-- LOOP (R77): LOOP loads a loop counter and skips past the matching ENDL when it is zero. -/
  | loopStart (c : Nat)
  /-- ENDL (R77): ENDL decrements a loop counter and branches back after the matching LOOP while it is nonzero. -/
  | loopEnd (c : Nat)
  /-- SETA (R77): SETA loads an address register with an immediate. -/
  | seta (c : Nat)
  /-- ADDA (R77): ADDA adds an immediate to an address register modulo 2^32. -/
  | adda (c : Nat)
  /-- MULA (R77): MULA multiplies an address register by an immediate, keeping the low 32 bits. -/
  | mula (c : Nat)
  /-- WRAPA (R77): WRAPA adds an immediate to an address register modulo IMM2. -/
  | wrapa (c : Nat)
  /-- FENCE (R78): FENCE holds issue until every earlier step of the units in its mask has completed. -/
  | stepFence (c : Nat)
  /-- WAITC (R84): WAITC holds issue until an inbound stream's delivered count reaches its threshold, or aborts the tile with 0x0103. -/
  | waitc (c : Nat)
  /-- CONS (R85): CONS raises an inbound stream's consumed count, releasing ring chunks, or aborts the tile with 0x0103. -/
  | cons (c : Nat)
  /-- XDRAIN (R77): XDRAIN holds issue until every earlier XOUT on the outbound streams in its mask is acknowledged. -/
  | xdrain (c : Nat)
  /-- TRAP (R77): TRAP aborts the tile with error 0x0108 and its code. -/
  | trap (c : Nat)
  /-- STAMP (R77): STAMP writes the cost-cycle counter and the stalled cycles to a scratchpad word. -/
  | stamp (c : Nat)
  /-- LDA (R77): LDA loads an address register from a scratchpad word. -/
  | lda (c : Nat)
  /-- XSTOP (R87): XSTOP stops an inbound stream, discards its later data and sets T to CC. -/
  | xstop (c : Nat)
  /-- XIN (R83): XIN reads and checks its descriptor and starts an inbound stream into a scratchpad ring. -/
  | xin (c : Nat)
  /-- XOUT_STORE (R79): XOUT with MODE 0 sends scratchpad bytes on an outbound stream as stores. -/
  | xoutStore (c : Nat)
  /-- XOUT_ADD (R112): XOUT with MODE 1 adds each FP32 element of the stream into memory or a slice. -/
  | xoutAdd (c : Nat)
  /-- XOUT_REDUCE (R112): XOUT with MODE 2 hands each FP32 element to in-network reduction. -/
  | xoutReduce (c : Nat)
  /-- MMA (R51): MMA accumulates a product of A rows and B columns into accumulator rows by groups with one rounding per group. -/
  | mma (c : Nat)
  /-- ACCLD (R81): ACCLD loads FP32 values from scratchpad into accumulator rows unchanged. -/
  | accld (c : Nat)
  /-- ACCRD (R50): ACCRD writes alpha times accumulator rows to scratchpad, rounded once into the target format. -/
  | accrd (c : Nat)
  /-- ACCZ (R77): ACCZ sets accumulator rows to +0. -/
  | accz (c : Nat)
  /-- FMA (R56): Vector FMA computes a x b + c with one rounding. -/
  | fma (c : Nat)
  /-- ADD (R56): Vector ADD adds with one rounding. -/
  | add (c : Nat)
  /-- SUB (R56): Vector SUB subtracts with one rounding. -/
  | sub (c : Nat)
  /-- MUL (R56): Vector MUL multiplies with one rounding. -/
  | mul (c : Nat)
  /-- MAX (R56): Vector MAX gives the larger input, NaN if either is NaN. -/
  | max (c : Nat)
  /-- MIN (R56): Vector MIN gives the smaller input, NaN if either is NaN. -/
  | min (c : Nat)
  /-- ABS (R56): Vector ABS gives the magnitude exactly. -/
  | abs (c : Nat)
  /-- NEG (R56): Vector NEG negates exactly. -/
  | neg (c : Nat)
  /-- CMP (R56): Vector CMP writes a lane mask of the step's condition. -/
  | cmp (c : Nat)
  /-- SEL (R56): Vector SEL selects lanes of a or b by a mask. -/
  | sel (c : Nat)
  /-- SCALE (R56): Vector SCALE multiplies by 2^n with one rounding. -/
  | scale (c : Nat)
  /-- CVT (R45): Vector CVT converts between non-block formats with the step's rounding and saturation. -/
  | cvt (c : Nat)
  /-- QBS (R41): Vector QBS quantizes groups of 32 FP32 values into block-scaled blocks with their scales. -/
  | qbs (c : Nat)
  /-- DQBS (R42): Vector DQBS dequantizes block-scaled elements to FP32. -/
  | dqbs (c : Nat)
  /-- RSUM (R57): Vector RSUM sums a row held across lanes. -/
  | rsum (c : Nat)
  /-- RMAX (R56): Vector RMAX gives the maximum of a row held across lanes. -/
  | rmax (c : Nat)
  /-- EXP2 (R58): Vector EXP2 computes 2^x within 2 ulp. -/
  | exp2 (c : Nat)
  /-- EXP (R58): Vector EXP computes e^x within 3 ulp. -/
  | exp (c : Nat)
  /-- LOG2 (R58): Vector LOG2 computes the base-2 logarithm within 2 ulp. -/
  | log2 (c : Nat)
  /-- LOG (R58): Vector LOG computes the natural logarithm within 3 ulp. -/
  | log (c : Nat)
  /-- RCP (R58): Vector RCP computes 1/x within 1 ulp. -/
  | rcp (c : Nat)
  /-- RSQRT (R58): Vector RSQRT computes the reciprocal square root within 2 ulp. -/
  | rsqrt (c : Nat)
  /-- SQRT (R58): Vector SQRT computes the square root within 1 ulp. -/
  | sqrt (c : Nat)
  /-- TANH (R58): Vector TANH computes the hyperbolic tangent. -/
  | tanh (c : Nat)
  /-- SIGMOID (R58): Vector SIGMOID computes the logistic function. -/
  | sigmoid (c : Nat)
  /-- SIN (R58): Vector SIN computes the sine. -/
  | sin (c : Nat)
  /-- COS (R58): Vector COS computes the cosine. -/
  | cos (c : Nat)
  /-- FLAGS (R59): Vector FLAGS writes the core's exception-flag word to scratchpad. -/
  | flags (c : Nat)
  /-- VMOV (R82): VMOV copies a block of rows, transposed if TR is set. -/
  | vmov (c : Nat)
  /-- VFILL (R82): VFILL fills a block of rows with a constant. -/
  | vfill (c : Nat)
  /-- VGATH (R82): VGATH gathers rows by an index list. -/
  | vgath (c : Nat)
  /-- VSCAT (R82): VSCAT scatters rows by an index list in increasing order. -/
  | vscat (c : Nat)
  /-- XFER_REQUEST_ISSUE (R107): A transfer engine issues a stream's next requests, routed by the interleave table, when ring window, budget and credits allow. -/
  | xferRequestIssue (c : Nat) (inb : Bool) (k : Nat)
  /-- XFER_READ_RESPONSE (R84): Read data of a stream request arrives, lands in the ring and advances CC over complete prefix chunks. -/
  | xferReadResponse (i : Nat) (host : Option Line)
  /-- XFER_WRITE_ACK (R115): A write acknowledgement arrives; an XOUT whose writes are all acknowledged is acknowledged. -/
  | xferWriteAck (i : Nat) (host : Bool)
  /-- AGE_ESCALATION (R258): A guaranteed-class transaction's AGE reaches a threshold and its effective priority rises one step. -/
  | ageEscalation (i : Nat)
  /-- SOFT_FAULT_RESPONSE (R130): A soft-fault response stops the stream, records its resume point and may stall the tile. -/
  | softFaultResponse (i : Nat) (host : Bool)
  /-- HARD_FAULT_RESPONSE (R135): A hard-fault response aborts the tile or ends the SWEEP, completing the command FAULTED or POOL_LOST. -/
  | hardFaultResponse (i : Nat)
  /-- RETRY_REISSUE (R181): 16 us after a RETRY answer the transfer engine reissues the request. -/
  | retryReissue (c : Nat) (inb : Bool) (k : Nat)
  /-- BLOCKED_RESPONSE (R198): A BLOCKED answer holds the stream at its resume point as for a soft fault. -/
  | blockedResponse (i : Nat)
  /-- PRESENCE_NOTICE (R183): A presence notice reaches the die pairs and every holder of the token resumes its stream or set-aside block. -/
  | presenceNotice (i : Nat)
  /-- GONE_NOTICE (R184): A gone notice makes holders of the token reissue, and the reissued requests fault hard. -/
  | goneNotice (i : Nat)
  /-- RESET_NOTICE (R184): A reset notice of a stack makes every holder of that stack's tokens reissue its requests. -/
  | resetNotice (i : Nat)
  /-- FAULT_UNBLOCK (R200): An unblock notice reaches a FAULT_BLOCKED context and its BLOCKED requests are reissued. -/
  | faultUnblock (i : Nat)
  /-- XFER_STALL_LIMIT (R133): A tile's stalled time reaches 625 ticks: 0x0110 is recorded and the tile is replayed or kept stalled faulted-retained. -/
  | xferStallLimit (c : Nat)
  /-- STACK_READ (R140): A stack translates, checks, reads, corrects and decrypts one granule and returns it. -/
  | stackRead (i : Nat) (ecc : Ecc)
  /-- STACK_WRITE (R140): A stack translates, checks, encrypts and writes one full granule. -/
  | stackWrite (i : Nat) (ecc : Ecc)
  /-- STACK_MASKED_WRITE (R142): A stack reads, merges the masked bytes and writes back one granule. -/
  | stackMaskedWrite (i : Nat) (ecc : Ecc)
  /-- STACK_ADD (R112): A stack performs a MODE 1 add into one granule as a read-modify-write. -/
  | stackAdd (i : Nat) (ecc : Ecc)
  /-- FETCH_AND_ADD (R121): A stack atomically adds 1 to a segment FILL counter and returns the old value. -/
  | fetchAndAdd (i : Nat) (ecc : Ecc)
  /-- WALK_COMPLETE (R174): A table walk finishes and the waiting request proceeds with the entry found or as a miss. -/
  | walkComplete (s : Nat) (i : Nat) (ecc : Ecc)
  /-- PULL_COMPLETE (R182): Every granule of a pulled page is in place; P is set and a presence notice is sent. -/
  | pullComplete (s : Nat) (token : Nat)
  /-- POOL_TIMEOUT (R400): A pool read or write without completion at 50 ms ends its pull, stream or write-back and records 0x0705. -/
  | poolTimeout (i : Nat)
  /-- POOL_COMPLETION (R400): A pool completion arrives; an error or poison status ends the pull as a pull error. -/
  | poolCompletion (i : Nat) (ok : Bool) (data : List Line)
  /-- HOST_WINDOW_READ (R386): A host-window read is translated and checked and served or answered with poison and a fault record. -/
  | hostWindowRead (fn : Nat) (addr : Nat) (own : Bool) (ecc : Ecc)
  /-- HOST_WINDOW_WRITE (R386): A host-window write is translated and checked and written or dropped with a fault record. -/
  | hostWindowWrite (fn : Nat) (addr : Nat) (data : Line) (mask : Nat) (ecc : Ecc)
  /-- BI_RESPONSE (R387): A host's back-invalidation response arrives and the waiting device write is served. -/
  | biResponse (i : Nat)
  /-- BI_TIMEOUT (R387): A back-invalidation response missing at 10 ms records 0x0707, takes the host LOST and serves the waiting request. -/
  | biTimeout (i : Nat)
  /-- PATROL_READ (R147): The logic die reads a granule in its patrol and corrects or poisons it. -/
  | patrolRead (s : Nat) (ecc : Ecc)
  /-- TARGETED_REFRESH (R148): A row activated 32,768 times within one refresh interval has its neighbours refreshed. -/
  | targetedRefresh (s : Nat) (row : Nat)
  /-- THERMAL_READ (R154): Every 100 us the logic die reads its DRAM temperatures and sets the thermal band. -/
  | thermalRead (s : Nat) (temps : List Nat)
  /-- KEY_SLOT_LOAD (R151): A wrapped key load reaches a logic die and takes effect between requests with KGEN incremented. -/
  | keySlotLoad (i : Nat)
  /-- KEY_SLOT_CLEAR (R150): A domain key slot is cleared and made not VALID. -/
  | keySlotClear (s : Nat) (n : Nat)
  /-- KEY_LOAD_FAILED (R478): A slot load unacknowledged at 100 us records 0x0909, resets the logic die and retries once or abandons the publication. -/
  | keyLoadFailed (i : Nat)
  /-- SCRUB_COMPLETE (R477): A scrub ends and the crossing resource proceeds to its key load and publication. -/
  | scrubComplete (u : Nat)
  /-- ROW_SPARED (R157): A row reaching its correction limit or an uncorrectable error is copied to a spare row and redirected. -/
  | rowSpared (s : Nat) (row : Nat)
  /-- LANE_SPARED (R157): A failing data lane is replaced by a spare trained in the background and switched in a refresh window. -/
  | laneSpared (s : Nat) (lane : Nat)
  /-- BANK_COPY (R158): A bank repair trigger starts a copy of the bank to a spare bank behind a copy pointer. -/
  | bankCopy (s : Nat) (chan : Nat) (bank : Nat)
  /-- BANK_SPARED (R157): A bank copy ends, the bank is redirected and 0x0204 recorded. -/
  | bankSpared (s : Nat) (ue : List Nat)
  /-- CHANNEL_COPY (R158): A channel repair trigger starts a copy of the channel to a spare channel behind a copy pointer. -/
  | channelCopy (s : Nat) (slot : Nat)
  /-- CHANNEL_SPARED (R158): A channel copy ends, the slot is switched over within 2 us and 0x0206 recorded. -/
  | channelSpared (s : Nat) (ue : List Nat)
  /-- SLOT_RETIRED (R160): A channel copy needed with no spare left, or a channel that stops responding, retires the slot with 0x0207. -/
  | slotRetired (s : Nat) (slot : Nat) (dead : Bool)
  /-- PRIVATE_LOST (R161): Loss of a channel's private region holding live tables records 0x020D and starts a package reset. -/
  | privateLost (s : Nat) (chan : Nat)
  /-- INVALIDATION_MESSAGE (R192): A translation unit receives an invalidation, drops cached entries in scope and waits for their requests to finish before acknowledging. -/
  | invalidationMessage (i : Nat)
  /-- INVALIDATION_ACK (R192): An acknowledgement reaches the admission controller and on the last one the command completes. -/
  | invalidationAck (i : Nat)
  /-- TRN_INV_TIMEOUT (R194): A unit unacknowledged at 45 us is closed to the asterism, 0x030B recorded and the command completed FENCED. -/
  | trnInvTimeout (id : Nat)
  /-- PURGE_COMPLETE (R190): The background clearing of a purged context tag finishes and the tag leaves the purge list. -/
  | purgeComplete (s : Nat) (a : Nat) (ctx : Nat)
  /-- FAULT_RECORD (R197): A fault record reaches the fault collector and is written to its ring, merged or held. -/
  | faultRecord
  /-- FAULT_HEAD_WRITE (R200): A write of a function's FAULT_HEAD drains held records and unblocks contexts when the share falls to 34. -/
  | faultHeadWrite (fn : Nat) (value : Nat)
  /-- FAULT_BASE_WRITE (R196): A write of FAULT_BASE that sets EN lets held records drain into the function's fault ring. -/
  | faultBaseWrite (fn : Nat) (value : Word) (cfg : Option Word)
  /-- HIF_FAULTQ_HEAD_WRITE (R202): A write of the management fault ring's HEAD drains held device-agent records. -/
  | hifFaultqHeadWrite (path : Nat) (value : Nat)
  /-- HIF_INV_DOORBELL_AST (R192): A HIF_INV_DOORBELL write with SCOPE 0 runs an invalidation of a whole asterism. -/
  | hifInvDoorbellAst (path : Nat) (a : Nat)
  /-- HIF_INV_DOORBELL_CTX (R192): A HIF_INV_DOORBELL write with SCOPE 1 runs an invalidation of one context. -/
  | hifInvDoorbellCtx (path : Nat) (a : Nat) (ctx : Nat)
  /-- SWEEP_JOB_START (R206): A waiting SWEEP takes a freed job slot at a sweep unit. -/
  | sweepJobStart (job : Nat) (s : Nat)
  /-- SWEEP_GRANT (R215): The distributor reads list entries, routes each and sends a grant to the stack once its grant queue and leave allow. -/
  | sweepGrant (job : Nat)
  /-- SWEEP_BLOCK (R216): A sweep unit scores a granted block whose data has arrived and updates each row's m, l and o. -/
  | sweepBlock (job : Nat) (s : Nat)
  /-- SWEEP_MAXIMA (R221): A participant's row maxima reach the distributor, which on the last sends mm back or falls back to SPLIT. -/
  | sweepMaxima (i : Nat)
  /-- SWEEP_MM (R221): A sweep unit receives mm, computes its weights and sends its scaled partials as in-network reduction. -/
  | sweepMm (i : Nat)
  /-- MERGE_CONTRIBUTION (R248): A merge contribution reaches a counted entry of the home crossbar; when every entry is complete the merged record is written. -/
  | mergeContribution (i : Nat)
  /-- SWEEP_RECORD_WRITTEN (R218): Every participant's record is written and the distributor writes the summary header, reaching the completion point. -/
  | sweepRecordWritten (job : Nat)
  /-- SWEEP_STALL_LIMIT (R225): Waiting on soft faults reaches 625 ticks: 0x0121 is recorded and the guarantee voided with FAULT_STALL. -/
  | sweepStallLimit (job : Nat)
  /-- SLICE_ACCESS (R233): A slice serves one request to one granule whole, including MODE 1 adds. -/
  | sliceAccess (i : Nat) (ecc : Ecc)
  /-- SLICE_SCRUB (R236): A slice is scrubbed to zeros with its poison bits cleared. -/
  | sliceScrub (k : Nat)
  /-- SLICE_COPY (R290): A slice substitution copy ends and a service change puts the spare at the same window position. -/
  | sliceCopy (old : Nat) (new : Nat)
  /-- FLIT_REPLAY (R238): A bridge flit failing its CRC is replayed from the sender's replay buffer. -/
  | flitReplay (b : Nat) (up : Bool)
  /-- BRIDGE_LANE_SPARED (R239): A failing bridge lane is replaced by a spare with a traffic pause of at most 100 ns. -/
  | bridgeLaneSpared (b : Nat) (up : Bool) (lane : Nat)
  /-- BRIDGE_DOWN (R242): A bridge going DOWN re-routes its destinations and resends its replay buffers over the detour. -/
  | bridgeDown (b : Nat)
  /-- REDUCTION_ADD (R246): A MODE 2 add reaching a crossbar is combined into an entry, takes a free entry or passes on. -/
  | reductionAdd (i : Nat) (dp : Nat)
  /-- REDUCTION_FLUSH (R246): A combining entry is sent onward 1 us after it was taken. -/
  | reductionFlush (dp : Nat) (id : Nat)
  /-- REDUCTION_ACK (R247): An onward add is acknowledged and the crossbar acknowledges each of its contributors. -/
  | reductionAck (dp : Nat) (id : Nat)
  /-- BARRIER_ARRIVAL (R250): A dispatcher's arrival reaches the home controller, which on the last asks the governor for a wave plan. -/
  | barrierArrival (i : Nat)
  /-- WAVE_PLAN (R429): The governor grants a barrier group's leave whole and returns a wave plan. -/
  | wavePlan (id : Nat)
  /-- BARRIER_RELEASE (R250): The controller sends the next release wave no sooner than DELTA after the previous one. -/
  | barrierRelease (id : Nat)
  /-- RELEASE_MESSAGE (R251): A dispatcher receives a release, acts on it once, starts its wave's tiles and acknowledges. -/
  | releaseMessage (i : Nat)
  /-- RELEASE_ACK (R251): A release acknowledgement reaches the controller; the last one completes the BARRIER. -/
  | releaseAck (i : Nat)
  /-- RELEASE_RETRANSMIT (R251): An acknowledgement missing 2 us after a release makes the controller send it again. -/
  | releaseRetransmit (id : Nat) (dp : Nat)
  /-- FLAG_NOTICE (R252): A flag notice reaches a dispatcher with a parked WAIT, which reads the event again. -/
  | flagNotice (i : Nat)
  /-- MAINT_LINK_DOWN (R255): A maintenance ring link breaks, traffic goes the other way round and 0x0408 is recorded. -/
  | maintLinkDown (net : Nat) (link : Nat)
  /-- PUBLICATION (R274): Once the previous epoch has drained firmware publishes a staged change as a new map epoch by Table 9-3. -/
  | publication
  /-- EPOCH_DRAINED (R273): Every die-pair service reports zero for the previous epoch and the resources that left are released. -/
  | epochDrained
  /-- COMP_DRAIN_TIMEOUT (R276): An epoch not drained 100 ms after adoption records 0x05C8 and its holders are fenced. -/
  | compDrainTimeout
  /-- MOVE_COPY (R286): The logic die of a move's source copies a present page to the target, re-encrypting under the target's tweak. -/
  | moveCopy (i : Nat)
  /-- COMP_MOVE_BLOCKED (R287): A move with a page skipped for 10 ms records 0x05C7. -/
  | compMoveBlocked (i : Nat)
  /-- MOVE_COMPLETE (R288): Every page of a move is copied and firmware stages a service change naming the target. -/
  | moveComplete (i : Nat)
  /-- SPARE_SUBSTITUTION (R290): A spare core joins the failed core's asterism in a service change and 0x05CA is recorded. -/
  | spareSubstitution (c : Nat)
  /-- METER_SUM (R302): Firmware sums the metering counters of every asterism at least every 1 ms. -/
  | meterSum
  /-- METER_SNAPSHOT (R302): Every 60 s firmware writes the metering counters to the flash log. -/
  | meterSnapshot
  /-- LEAVE_GRANT (R425): A waiting leave request passes the cap and buffer tests and is granted from the share or through the primary. -/
  | leaveGrant (i : Nat)
  /-- GOVERNOR_SAMPLE (R425): Every 10 us the governor measures P_base, P_g and the gap G. -/
  | governorSample (mv : Nat) (ma : Nat) (mj : Nat)
  /-- SHARE_REDISTRIBUTE (R425): Every 50 us the primary redistributes free headroom among die pairs by unmet requests. -/
  | shareRedistribute
  /-- ENERGY_SAMPLE (R435): Every 10 us each die pair measures rail energy and calibrates its cores' activity estimates. -/
  | energySample (d : Nat) (uj : Nat)
  /-- OP_CHANGE (R417): A die pair's operating-point change completes and running tiles' leave is recomputed. -/
  | opChange (d : Nat)
  /-- OP_RAISE (R418): After 1 ms with twice the needed headroom the governor raises a die pair's point. -/
  | opRaise (d : Nat)
  /-- DIE_PAIR_NIGHT (R408): A die pair unbound for 1 ms is put into Night. -/
  | diePairNight (d : Nat)
  /-- STATE_REQ_RUN (R413): A write of PWR_STATE_REQ with Run wakes the package or die pairs. -/
  | stateReqRun (path : Nat) (mask : Nat)
  /-- STATE_REQ_DIE_PAIR_NIGHT (R410): A write of PWR_STATE_REQ with die-pair Night starts the entry handshake for DPMASK. -/
  | stateReqDiePairNight (path : Nat) (mask : Nat)
  /-- STATE_REQ_DEEP_NIGHT (R410): A write of PWR_STATE_REQ with Deep Night starts the entry handshake for the package. -/
  | stateReqDeepNight (path : Nat)
  /-- STATE_REQ_DARK (R410): A write of PWR_STATE_REQ with Dark starts the entry handshake for the module. -/
  | stateReqDark (path : Nat)
  /-- ENTER_ANSWER (R410): A block's ACCEPT, DELAY or REFUSE arrives; a refusal cancels, and all accepts sequence the blocks down. -/
  | enterAnswer (unit : Nat) (ans : EnterAnswer)
  /-- ENTER_DELAY_EXPIRY (R410): A block's DELAY ends and it is asked again. -/
  | enterDelayExpiry (unit : Nat)
  /-- STATE_TIMEOUT (R411): A block silent 10 ms after ENTER cancels the entry with TIMED_OUT and 0x0803. -/
  | stateTimeout
  /-- WAKE_TIMER (R413): CLK_WATCH_COUNT reaches PWR_WAKE_TIMER and the package wakes. -/
  | wakeTimer
  /-- BUFFER_LOW (R422): Usable buffer energy below RESERVE / 2 brakes every core clock and records 0x0804 once per episode. -/
  | bufferLow (mj : Nat)
  /-- BRAKE_RELEASE (R422): Buffer energy back above RESERVE releases the brake. -/
  | brakeRelease (mj : Nat)
  /-- DROOP_STRETCH (R431): A rail droop below threshold doubles every core clock period of the die pair. -/
  | droopStretch (d : Nat) (ns : Nat)
  /-- JUNCTION_THROTTLE (R418): A die pair at TJ_THROTTLE drops one point per 1 ms until 3 C below the threshold. -/
  | junctionThrottle (d : Nat) (temp : Nat)
  /-- JUNCTION_LIMIT (R418): A die pair at 105 C goes to OP0, brakes and records 0x0806. -/
  | junctionLimit (d : Nat) (temp : Nat)
  /-- INPUT_RANGE (R522): An input outside 48 to 58 V for 1 ms records 0x0809. -/
  | inputRange (mv : Nat)
  /-- INPUT_LOCKOUT (R522): An input below 44 V or above 60 V opens the input stage and the buffer carries a controlled stop to Dark. -/
  | inputLockout (mv : Nat)
  /-- ERROR_RECORD (R443): Firmware receives an error record from a unit and writes it to the error queue, the flash log or counts it lost. -/
  | errorRecord
  /-- NOTICE_RESEND (R396): With 256 notices unacknowledged firmware resends the oldest every second. -/
  | noticeResend
  /-- RAS_ERRQ_HEAD_WRITE (R445): A write of RAS_ERRQ_HEAD frees error-queue slots and may end an overflow episode. -/
  | rasErrqHeadWrite (path : Nat) (value : Nat)
  /-- HANG_CYCLE (R449): Every PERIOD_MS the detector finds deadlocked sets, records 0x0A01 and with ACTION 1 breaks one wait per set. -/
  | hangCycle
  /-- HANG_NO_PROGRESS (R450): A parked queue with no edge that has waited NOPROG_MS records 0x0A02. -/
  | hangNoProgress (q : Nat)
  /-- STACK_RESET (R453): A stack logic die reset holds its ingress, fences inner requests, restarts the die and sends the reset notice. -/
  | stackReset (s : Nat)
  /-- SERVICE_RESET (R454): A die-pair service reset fences every core, aborts running tiles, restarts control logic and resumes dispatch. -/
  | serviceReset (d : Nat)
  /-- ASTERISM_RESET (R455): An asterism reset fences its cores, revokes every context, invalidates and leaves the asterism QUIESCED. -/
  | asterismReset (a : Nat) (rest : List Line)
  /-- PACKAGE_RESET (R456): A package reset closes every gate, dumps, holds the dies in reset and brings the package up again. -/
  | packageReset (low : Bool) (bad : List Nat)
  /-- POWER_CYCLE_REQUEST (R457): A package reset not done at 4 s records 0x0A06 and requests a power cycle over PLDM. -/
  | powerCycleRequest
  /-- DUMP (R458): The dump engine writes register state into the dump area, or skips while VALID, and records 0x0A0A. -/
  | dump (path : Nat) (value : Word)
  /-- DUMP_RELEASE (R460): Writing 1 to RAS_DUMP_BASE.VALID releases the dump area. -/
  | dumpRelease (path : Nat)
  /-- ALMANAC_MONITOR_READ (R464): Every second the Almanac reads the ageing monitors, grows stress hours and may raise AGE or retire a unit. -/
  | almanacMonitorRead (d : Nat) (margin : Bool) (cores : List Nat)
  /-- ALMANAC_PREDICT (R468): Every day the Almanac recomputes its projections, RUL_DAYS and HEALTH. -/
  | almanacPredict
  /-- ALMANAC_WRITE (R463): Every hour firmware writes the whole Almanac to flash. -/
  | almanacWrite (mj : Nat)
  /-- LC_TRANSITION (R495): GO with ACTION 1 verifies the token and runs the life-cycle transition of Table 15-10. -/
  | lcTransition (path : Nat) (arm : Bool) (sig : Bool) (dev : Bool) (cut : Nat)
  /-- OWNER_INSTALL (R488): GO with ACTION 2 programs the next owner row, revokes older rows and may set OWNER_REQ. -/
  | ownerInstall (path : Nat) (arm : Bool) (sig : Bool) (dev : Bool)
  /-- DEBUG_UNLOCK (R498): GO with ACTION 3 raises the debug level as far as the state permits and records 0x0905. -/
  | debugUnlock (path : Nat) (sig : Bool) (dev : Bool)
  /-- DEBUG_LOCK (R498): GO with ACTION 4 returns the debug level to 0 without a token. -/
  | debugLock (path : Nat)
  /-- ENTROPY_FAILURE (R479): A noise-source health test fails, the DRBG stops and 0x090B is recorded. -/
  | entropyFailure (test : Nat)
  /-- DRBG_RETRY (R479): One second after a health-test failure firmware retries the DRBG; three failures start a package reset. -/
  | drbgRetry (ok : Bool)
  /-- DRBG_RESEED (R479): After 2^20 requests the DRBG is reseeded. -/
  | drbgReseed
  /-- GET_CERTIFICATE (R485): An SPDM GET_CERTIFICATE returns a certificate chain of a slot. -/
  | getCertificate (rsp : Nat) (slot : Nat)
  /-- CHALLENGE (R485): An SPDM CHALLENGE is answered with a signature by Alias_R. -/
  | challenge (rsp : Nat) (slot : Nat)
  /-- GET_MEASUREMENTS (R486): An SPDM GET_MEASUREMENTS returns the signed measurement blocks of Table 15-4. -/
  | getMeasurements (rsp : Nat)
  /-- KEY_EXCHANGE (R485): An SPDM KEY_EXCHANGE opens a secured session or is answered Busy. -/
  | keyExchange (rsp : Nat)
  /-- FINISH (R485): An SPDM FINISH completes the session handshake. -/
  | finish (rsp : Nat) (id : Nat)
  /-- END_SESSION (R485): An SPDM END_SESSION closes a secured session. -/
  | endSession (rsp : Nat) (id : Nat)
  /-- SET_CERTIFICATE (R484): An SPDM SET_CERTIFICATE writes slot 0 in Test or slot 1 under the active owner row. -/
  | setCertificate (rsp : Nat) (slot : Nat) (chain : Nat) (root : Nat)
  /-- TDI_LOCK_REQUEST (R499): A TSP request to lock a VF's TDI is accepted or, while debug is above 0, answered with an error. -/
  | tdiLockRequest (fn : Nat)
  /-- IDE_KEY_SET (R482): IDE_KM over a secured session sets a port's IDE keys and restores the link's credits. -/
  | ideKeySet (port : Nat) (half : Bool) (id : Nat)
  /-- IDE_FAILURE (R398): An IDE integrity failure stops the link, records 0x0704, retrains and completes in-flight commands PEER_LOST. -/
  | ideFailure (port : Nat) (half : Bool) (stream : Nat)
  /-- CXL_LINK_DOWN (R391): A CXL link goes DOWN, its credit total becomes 0 and partners reached only through it become SUSPECT. -/
  | cxlLinkDown (port : Nat) (half : Bool)
  /-- CXL_LANE_LOST (R391): A lane lost on an unsplit port degrades it to x8 with credit total 1,024 and 0x0702. -/
  | cxlLaneLost (port : Nat) (lane : Nat)
  /-- LINK_TRAINED (R392): A port reaches L0 and proceeds through the readiness sequence of Table 12-4. -/
  | linkTrained (port : Nat) (half : Bool) (width : Nat) (rate : Nat)
  /-- L0P_NARROW (R390): After 100 us below 15 % use the device requests L0p narrowing of a link. -/
  | l0pNarrow (port : Nat) (half : Bool)
  /-- L0P_WIDEN (R390): A credit grant or a full outbound queue makes the device request full width again. -/
  | l0pWiden (port : Nat) (half : Bool)
  /-- L0P_HOST_REQUEST (R390): A host's L0p narrowing request is accepted within the guaranteed-credit limit. -/
  | l0pHostRequest (port : Nat) (half : Bool) (lanes : Nat)
  /-- PAGE_RESPONSE (R389): A PRI page response reissues the redirected request or turns it into a hard fault with 0x070A. -/
  | pageResponse (port : Nat) (half : Bool) (ok : Bool)
  /-- ATS_INVALIDATION (R389): A host's ATS invalidation completes once no request using the dropped translation remains. -/
  | atsInvalidation (port : Nat) (half : Bool) (page : Nat)
  /-- HOT_INSERTION (R394): A host is hot-inserted on a port and its partner entry becomes LIVE. -/
  | hotInsertion (e : Nat) (port : Nat) (half : Bool) (pid : Nat)
  /-- HOST_REMOVED (R394): A host's hot removal takes its partner entry LOST and stops its VFs with 0x0708. -/
  | hostRemoved (e : Nat)
  /-- PARTNER_RECOVER (R394): A SUSPECT partner with 1 s without a further failure returns to LIVE. -/
  | partnerRecover (e : Nat)
  /-- PARTNER_SUSPECT_TIMEOUT (R394): A partner SUSPECT for 100 ms on a DOWN link becomes LOST. -/
  | partnerSuspectTimeout (e : Nat)
  /-- REFCLK_LOST (R529): A reference clock lost while the link is UP takes the link DOWN for retraining. -/
  | refclkLost (port : Nat)
  /-- MGT_SUBMIT (R395): A fabric-manager MGT_SUBMIT runs one management command and returns its completion record. -/
  | mgtSubmit (port : Nat) (slot : Line) (delta : List Line)
  /-- PARTNER_SET_ADD (R394): PARTNER_SET with action ADD makes a FREE entry LIVE, or is refused with 0x070C. -/
  | partnerSetAdd (e : Nat) (w0 : Nat) (w1 : Nat)
  /-- PARTNER_SET_LOST (R394): PARTNER_SET with action LOST takes an entry LOST. -/
  | partnerSetLost (e : Nat)
  /-- PARTNER_SET_CLEAR (R394): PARTNER_SET with action CLEAR returns a SUSPECT entry to LIVE. -/
  | partnerSetClear (e : Nat)
  /-- PARTNER_GET (R395): PARTNER_GET returns partner-table entries. -/
  | partnerGet (first : Nat) (count : Nat)
  /-- METER_READ (R395): METER_READ returns CMP_AST_STATE and the metering counters of asterisms. -/
  | meterRead (first : Nat) (count : Nat)
  /-- NOTICE_ACK (R395): NOTICE_ACK releases an unacknowledged notice. -/
  | noticeAck (seq : Nat)
  /-- IDENTIFY (R395): The fabric-manager API Identify command returns the device's identity. -/
  | identify
  /-- CXP_HDM_MAP_WRITE (R385): A write of CXP_HDM_MAP binds a decoder to a VF, or is ignored with 0x0709 when 32 are bound. -/
  | cxpHdmMapWrite (path : Nat) (p : Nat) (n : Nat) (value : Word)
  /-- COLD_BOOT (R502): PWR_EN rising, or a wake from Dark, brings the module up by Table 16-1. -/
  | coldBoot (src : Nat) (bad : List Nat)
  /-- MEMORY_PASS_2_DONE (R504): Memory pass 2 ends, every granule is scrubbed and Memory_Info_Valid is set. -/
  | memoryPass2Done (bad : List Nat)
  /-- REQUEST_UPDATE (R514): A PLDM RequestUpdate or first Transfer FW starts an image update, or is answered busy. -/
  | requestUpdate (mailbox : Bool) (port : Nat)
  /-- UPDATE_COMPONENT (R514): The update's manifest is received and checked; a failure refuses with 0x0913. -/
  | updateComponent (man : Manifest)
  /-- FW_BLOCK (R514): A 64 KiB image block arrives and is written; after the last the image is checked and set VALID. -/
  | fwBlock (bad : Nat) (pol : List Nat)
  /-- UPDATE_FAILED (R514): A 60 s gap between blocks fails the update, writes EMPTY and records 0x0915. -/
  | updateFailed
  /-- ACTIVATE_FIRMWARE (R515): ActivateFirmware, or Activate FW, reports that the image takes effect at the next reset. -/
  | activateFirmware (mailbox : Bool) (port : Nat) (online : Bool)
  /-- GET_FW_INFO (R513): The mailbox Get FW Info returns one firmware slot. -/
  | getFwInfo (port : Nat)
  /-- GET_TID (R516): PLDM GetTID returns the terminus identifier. -/
  | getTid
  /-- SET_TID (R516): PLDM SetTID sets the terminus identifier. -/
  | setTid (tid : Nat)
  /-- GET_PLDM_TYPES (R516): PLDM GetPLDMTypes returns the supported types. -/
  | getPldmTypes
  /-- GET_PLDM_COMMANDS (R516): PLDM GetPLDMCommands returns the supported commands. -/
  | getPldmCommands (kind : Nat)
  /-- GET_PLDM_VERSION (R516): PLDM GetPLDMVersion returns a type's version. -/
  | getPldmVersion (kind : Nat)
  /-- TRAY_CAP (R432): The PLDM tray-cap effecter sets the tray controller's cap and the lower cap is obeyed. -/
  | trayCap (w : Nat)
  /-- PLDM_STATE_REQUEST (R516): The PLDM state effecter requests Run, Deep Night or Dark. -/
  | pldmStateRequest (req : Nat)
  /-- PLDM_FILE_READ (R516): PLDM file transfer reads the Almanac, the flash log or the last dump summary. -/
  | pldmFileRead (file : Nat)
  /-- FORCED_POWER_DOWN (R528): PWR_EN falling outside Dark withdraws leave, removes rails, records 0x080B and enters Dark. -/
  | forcedPowerDown
  /-- RESET_RELEASE (R526): RESET_n rising lets a held package reset continue from step 5. -/
  | resetRelease (bad : List Nat)
  /-- WAKE (R526): WAKE_n falling is wake source 0x4 and wakes the package or starts a cold boot. -/
  | wake (bad : List Nat)
  /-- PERST_LOW (R526): PERST_n of a port going low holds its link in reset, DOWN, with 0x0701. -/
  | perstLow (port : Nat)
  /-- PERST_RISE (R526): PERST_n of a port rising starts training and the readiness steps. -/
  | perstRise (port : Nat)
  /-- HOT_INSERTION_PRECHARGE (R523): On hot insertion the input stage precharges the input capacitance and brings up the standby rail. -/
  | hotInsertionPrecharge (mv : Nat)
  /-- THERMAL_TRIP (R533): A trip source pulls THERMTRIP_n low, stops every core clock, turns package rails off and latches. -/
  | thermalTrip (unit : Nat) (temp : Nat)
  /-- COOLANT (R532): Flow below 8 L/min or inlet above 40 C for 10 s, or a leak, records 0x080D and asserts ALERT_n. -/
  | coolant
  /-- COOLANT_SAMPLE (R531): Every 1 s firmware reads inlet, outlet, flow and the leak trace. -/
  | coolantSample (flow : Nat) (inlet : Nat) (outlet : Nat)
  /-- LEAK_DETECT (R531): Fluid on the leak trace pulls LEAK_n low within 1 s. -/
  | leakDetect
  /-- MGT_DOORBELL_WRITE (R549): A write of MGT_DOORBELL posts management commands, or is ignored, and wakes the package. -/
  | mgtDoorbellWrite (path : Nat) (value : Nat)
  /-- MGT_RING_ENABLE (R549): A write setting MGT_RING_BASE.EN makes its path the ring owner and zeroes the ring positions. -/
  | mgtRingEnable (path : Nat) (value : Word)
  /-- MGT_RING_DISABLE (R549): A write clearing MGT_RING_BASE.EN stops fetch of the management ring. -/
  | mgtRingDisable (path : Nat) (value : Word)
  /-- MGT_CQ_HEAD_WRITE (R549): A write of MGT_CQ_HEAD frees management completion space and resumes fetch. -/
  | mgtCqHeadWrite (path : Nat) (value : Nat)
  /-- MGT_RING_FETCH (R549): Firmware fetches a management slot in position order and runs it or refuses it with 0x0601. -/
  | mgtRingFetch (slot : Line) (delta : List Line)
  /-- MGT_LOCKDOWN (R544): Boot code sets MGT_LOCKDOWN.LOCK and every RWB field becomes read-only until package reset. -/
  | mgtLockdown
  /-- REGISTER_WRITE (R545): A write to a set-up register with no behaviour of its own is checked against WMASK and lockdown and applied. -/
  | registerWrite (path : Nat) (off : Nat) (size : Nat) (value : Word)
  /-- LEAK_TRACE_DRY (R531): The leak trace dries, LEAK_n is released and ALERT_n is released once no other condition holds. -/
  | leakTraceDry
  /-- THERMAL_TRIP_LATCH_CLEAR (R534): Once PWR_EN has been low for at least 1 s the thermal-trip latch clears. -/
  | thermalTripLatchClear
  /-- INPUT_RETURN (R522): The input comes back above 46 V or below 59 V after a lockout, and the input stage and standby rail come back on. -/
  | inputReturn (mv : Nat)
  /-- CAP_HOLD_ROTATE (R433): Every 100 us the dispatchers rotate which cores of each die pair are held idle in Dusk under the held fraction h. -/
  | capHoldRotate
  /-- HIF_FAULTQ_ENABLE (R202): A write setting HIF_FAULTQ_BASE.EN lets device-agent records held in the shared buffer drain into the management fault ring. -/
  | hifFaultqEnable (path : Nat) (value : Word)
  /-- RAS_ERRQ_ENABLE (R506): A write setting RAS_ERRQ_BASE.EN makes firmware write the up to 256 records held since boot, in order. -/
  | rasErrqEnable (path : Nat) (value : Word)
  /-- TDI_RUN_REQUEST (R397): A TSP request moves a VF's locked TDI into RUN. -/
  | tdiRunRequest (fn : Nat)
  /-- TDI_RELEASE (R397): The host releases a VF's TDI, returning it from CONFIG_LOCKED, RUN or ERROR to CONFIG_UNLOCKED. -/
  | tdiRelease (fn : Nat)
  /-- PLDM_EVENT_ACK (R527): The tray controller acknowledges a held PLDM event, and ALERT_n is released once no other condition holds. -/
  | pldmEventAck
  /-- NEGOTIATE_ALGORITHMS (R485): An SPDM responder negotiates only P-521, SHA-512, SECP_521_R1 and AES-256-GCM with a requester. -/
  | negotiateAlgorithms (rsp : Nat) (ok : Bool)
  /-- MCTP_SET_ENDPOINT_ID (R516): The tray controller, as bus owner, assigns the module controller's MCTP endpoint ID. -/
  | mctpSetEndpointId (eid : Nat)
  /-- REGULATION_FAULT (R413): A regulation fault raises a RAS alarm that wakes the package from Deep Night. -/
  | regulationFault
  deriving DecidableEq, Repr

end Sys2Proof
end

