-- ==== Sys2Proof/Config.lean ====
section
/-!
DEFINITION. What an implementation fixes and what the spec leaves open.

The free values are opaque: no proof can see what they are, so a claim holds for every one of them.  A free value is
applied to the count of free values drawn so far (`fresh` of the state) and, where one command needs several, to an
index within the command.
-/

namespace Sys2Proof

/-- What a free value stands for; each constructor names the rule that leaves the value open. -/
inductive Free where
  /-- R47, R48: a 13-bit draw of a stochastic-rounding generator. -/
  | srDraw
  /-- R53: which group of an MMA is added next. -/
  | groupOrder
  /-- R53, R57: which two terms a vector sum, a merge or a reduction adds next. -/
  | sumOrder
  /-- R58, Table 2-10: the deviation of a transcendental result within its bound. -/
  | ulpError
  /-- Table 2-10: SIN or COS of an argument beyond 65,536, a value in [−1, 1]. -/
  | trigFar
  /-- R75: the bytes two units of a core race over, and the outputs drawn from them; R96, R123: the bytes an aborted tile
  leaves at its outputs; R227: the destination of a sweep that did not complete. -/
  | undefinedByte
  /-- R140: the plaintext of a granule read under a key it was not written under. -/
  | wrongKey
  /-- R311: which free identifier a creation takes. -/
  | allocId
  /-- R311: a handle, token or nonce whose value the spec does not give. -/
  | handle
  /-- A key, nonce, challenge or other draw of the DRBG (R479). -/
  | drbg
  /-- A signature, certificate or digest the spec names but does not compute here. -/
  | crypto
  /-- A choice among equals that the spec leaves open. -/
  | choice
  deriving DecidableEq, Repr

/-- The free values: kind, count of free values drawn so far, index within the command. -/
opaque Config.free : Free → Nat → Nat → Nat

/-- A number that an error record or a field carries and the spec names without giving its value: the error code or the
offset of the field, and which of its meanings. -/
opaque Config.code : Nat → Nat → Nat

/-- The 512-bit digest of a signed image, certificate or owner key: one number per bytes digested. -/
opaque Config.digest : List Nat → Nat

end Sys2Proof
end

