-- ==== Sys2Proof/Machine/Bits.lean ====
section
/-!
DEFINITION. Bit fields, byte order and sparse tables: the helpers every other file uses.

Fields are named as the manual names them: a byte offset, then a bit range inside the little-endian value that starts
at that byte (R4).
-/

namespace Sys2Proof.Machine

/-- Bits `[lo + w - 1 : lo]` of `x`. -/
def bits (x lo w : Nat) : Nat := x / 2 ^ lo % 2 ^ w

/-- `x` with bits `[lo + w - 1 : lo]` replaced by the low `w` bits of `v`. -/
def setBits (x lo w v : Nat) : Nat :=
  x - bits x lo w * 2 ^ lo + v % 2 ^ w * 2 ^ lo

/-- Bit `i` of `x`. -/
def bit (x i : Nat) : Bool := x / 2 ^ i % 2 == 1

/-- The number of set bits among bits `0` to `n - 1` of `x`. -/
def popCount (x : Nat) : Nat → Nat
  | 0 => 0
  | n + 1 => popCount x n + (x / 2 ^ n % 2)

/-- Field of a record: `w` bits from bit `lo` of the little-endian value at byte offset `o` (R4). -/
def fld {n : Nat} (r : BitVec n) (o lo w : Nat) : Nat := bits r.toNat (8 * o + lo) w

/-- The value of a `w`-bit two's-complement field. -/
def signed (w v : Nat) : Int := if 2 * (v % 2 ^ w) ≥ 2 ^ w then (v % 2 ^ w : Int) - 2 ^ w else (v % 2 ^ w : Int)

/-- Does every bit range `(offset, low bit, width)` of the list hold zero in `r`?  (reserved fields, R5) -/
def allZero {n : Nat} (r : BitVec n) (l : List (Nat × Nat × Nat)) : Bool :=
  l.all fun (o, lo, w) => fld r o lo w == 0

/-- `x` divided by `y`, rounded up. -/
def ceilDiv (x y : Nat) : Nat := (x + y - 1) / y

/-- The little-endian value of a list of bytes (R4). -/
def ofBytes : List Byte → Nat
  | [] => 0
  | b :: bs => b.toNat + 256 * ofBytes bs

/-- The low `n` bytes of a value, lowest-addressed first (R4). -/
def toBytes : Nat → Nat → List Byte
  | 0, _ => []
  | n + 1, v => BitVec.ofNat 8 v :: toBytes n (v / 256)

/-- Saturating addition of `k` into a `w`-bit counter. -/
def satAdd (w x k : Nat) : Nat := min (x + k) (2 ^ w - 1)

/-- Wrapping addition into a `w`-bit counter. -/
def wrapAdd (w x k : Nat) : Nat := (x + k) % 2 ^ w

/-- `l` with element `i` replaced by `f` of it (unchanged when there is none). -/
def modifyAt {α : Type} : List α → Nat → (α → α) → List α
  | [], _, _ => []
  | a :: l, 0, f => f a :: l
  | a :: l, n + 1, f => a :: modifyAt l n f

/-- `l` without its element `i`. -/
def dropAt {α : Type} : List α → Nat → List α
  | [], _ => []
  | _ :: l, 0 => l
  | a :: l, n + 1 => a :: dropAt l n

/-- The first element that `p` holds of, and the list without it. -/
def takeFirst {α : Type} (p : α → Bool) : List α → Option (α × List α)
  | [] => none
  | a :: l => if p a then some (a, l) else (takeFirst p l).map fun (x, r) => (x, a :: r)

/-- Index of the first element that `p` holds of. -/
def indexWhere {α : Type} (p : α → Bool) : List α → Option Nat
  | [] => none
  | a :: l => if p a then some 0 else (indexWhere p l).map (· + 1)

/-- Insertion into a list kept rising under `le` (structural, so that the kernel evaluates it). -/
def insertBy {α : Type} (le : α → α → Bool) (a : α) : List α → List α
  | [] => [a]
  | b :: l => if le a b then a :: b :: l else b :: insertBy le a l

/-- A stable sort by insertion. -/
def sortBy {α : Type} (le : α → α → Bool) : List α → List α
  | [] => []
  | a :: l => insertBy le a (sortBy le l)

/-! ### Sparse tables

A table is a list of (key, value) pairs whose keys strictly rise.  `put` keeps that order; `putD` also keeps out every
entry equal to what an unlisted key reads as, so that equal tables are equal lists. -/

/-- A sparse table: keys strictly rising. -/
abbrev Tbl (α : Type) := List (Nat × α)

/-- The value at key `k`, if one is listed. -/
def Tbl.find {α : Type} : Tbl α → Nat → Option α
  | [], _ => none
  | (i, a) :: t, k => if i = k then some a else Tbl.find t k

/-- The value at key `k`; an unlisted key reads as `d`. -/
def Tbl.look {α : Type} (d : α) (t : Tbl α) (k : Nat) : α := (Tbl.find t k).getD d

/-- Remove key `k`. -/
def Tbl.del {α : Type} : Tbl α → Nat → Tbl α
  | [], _ => []
  | (i, a) :: t, k => if i = k then Tbl.del t k else (i, a) :: Tbl.del t k

/-- Set key `k` to `v`, keys kept rising. -/
def Tbl.put {α : Type} : Tbl α → Nat → α → Tbl α
  | [], k, v => [(k, v)]
  | (i, a) :: t, k, v =>
    if k < i then (k, v) :: (i, a) :: t
    else if k = i then (k, v) :: t
    else (i, a) :: Tbl.put t k v

/-- Set key `k` to `v` where an unlisted key reads as `d`: the canonical write. -/
def Tbl.putD {α : Type} [DecidableEq α] (d : α) (t : Tbl α) (k : Nat) (v : α) : Tbl α :=
  if v = d then Tbl.del t k else Tbl.put t k v

/-- Change the value at key `k`, an unlisted key counting as `d`. -/
def Tbl.upd {α : Type} (d : α) (t : Tbl α) (k : Nat) (f : α → α) : Tbl α :=
  Tbl.put t k (f (Tbl.look d t k))

/-- Change the value at key `k` if one is listed. -/
def Tbl.adj {α : Type} : Tbl α → Nat → (α → α) → Tbl α
  | [], _, _ => []
  | (i, a) :: t, k, f => if i = k then (i, f a) :: t else (i, a) :: Tbl.adj t k f

/-- Change every listed value. -/
def Tbl.mapV {α : Type} (f : Nat → α → α) (t : Tbl α) : Tbl α := t.map fun (k, a) => (k, f k a)

/-- The lowest key at or above `k` that is not listed, looking at no more than `n` keys. -/
def Tbl.firstFree {α : Type} (t : Tbl α) : Nat → Nat → Option Nat
  | 0, _ => none
  | n + 1, k => if (Tbl.find t k).isNone then some k else Tbl.firstFree t n (k + 1)

/-- Do the keys strictly rise, with every key above `lo`? -/
def Tbl.risingFrom {α : Type} : Nat → Tbl α → Bool
  | _, [] => true
  | lo, (i, _) :: t => decide (lo ≤ i) && Tbl.risingFrom (i + 1) t

/-- The canonical form of a sparse memory whose unlisted keys read as `d`: keys strictly rising, no entry equal to
`d`. -/
def Tbl.canon {α : Type} [DecidableEq α] (d : α) (t : Tbl α) : Bool :=
  Tbl.risingFrom 0 t && t.all fun p => decide (p.2 ≠ d)

end Sys2Proof.Machine
end

