-- ==== Sys2Proof/Machine/Regs.lean ====
section
/-!
DEFINITION. The set-up register space (chapter Set-Up Register Space, with the register tables of every chapter).

A register field is named as the manual names it: register, then field; its value is an offset in the set-up space and
a bit range.  `RegSpec` holds what a register's table says of its access and of its value at reset (R541 to R547).
Reset words that Table 18-3 takes from the part or from flash and the manual does not state are those of a new part
(assumption log, entry 12): DESIGN CHOICE.
-/

namespace Sys2Proof.Machine

/-- A register field: offset of its register in the set-up space, low bit, width. -/
structure Fld where
  off : Nat
  lo : Nat
  w : Nat
  deriving DecidableEq, Repr

/-! ### Values at reset that a table gives for each instance -/

/-- VTEST of operating point k, mV: the typical column of Table 13-6 (log entry 12). -/
def vtestTypical (k : Nat) : Nat := [600, 640, 670, 705, 740, 775, 815, 860].getD k 0
/-- VMAX of operating point k, mV (Table 13-6). -/
def vmax (k : Nat) : Nat := [700, 740, 770, 805, 840, 875, 915, 960].getD k 0

/-- Bridge at port j (0 east, 1 west, 2 vertical) of die pair d, 15 when the port is absent (Table 0-7). -/
def brgBridge (d j : Nat) : Nat :=
  match j with
  | 0 => if d % 4 < 3 then d / 4 * 3 + d % 4 else 15
  | 1 => if 0 < d % 4 then d / 4 * 3 + d % 4 - 1 else 15
  | _ => 6 + d % 4

/-- Next hop from die pair d to die pair e (R240): 0 east, 1 west, 2 vertical, 3 local. -/
def brgNext (d e : Nat) : Nat :=
  if d % 4 < e % 4 then 0 else if e % 4 < d % 4 then 1 else if d / 4 ≠ e / 4 then 2 else 3

/-- Table 8-6, by class. -/
def classGuar (k : Nat) : Nat := if k < 4 then 1 else 0
/-- Table 8-6, BASEPRI. -/
def classBasePri (k : Nat) : Nat := [12, 10, 8, 6, 4, 3, 2, 1].getD k 0
/-- Table 8-6, TARGET in 8 ns. -/
def classTarget (k : Nat) : Nat := [250, 500, 1000, 2000].getD k 4095
/-- Table 8-6, READ_BUDGET. -/
def classReads (k : Nat) : Nat := if k < 4 then 2048 else if k < 6 then 1024 else 512
/-- Table 8-6, WRITE_BUDGET. -/
def classWrites (k : Nat) : Nat := if k < 4 then 1024 else if k < 6 then 512 else 256
/-- Table 8-6, CHAN_CREDITS. -/
def classCredits (k : Nat) : Nat := if k < 4 then 32 else if k < 6 then 16 else 8
/-- Table 8-6, BE_SHARE. -/
def classShare (k : Nat) : Nat := if k < 4 then 0 else 1

/-! ### Fields -/

/-- Offset of MGT_ID. -/
def MGT_ID.off : Nat := 0x0
/-- MGT_ID [15:0] VENDOR. -/
def MGT_ID.VENDOR : Fld := ⟨MGT_ID.off, 0, 16⟩
/-- MGT_ID [31:16] PART. -/
def MGT_ID.PART : Fld := ⟨MGT_ID.off, 16, 16⟩
/-- MGT_ID [35:32] STEP. -/
def MGT_ID.STEP : Fld := ⟨MGT_ID.off, 32, 4⟩
/-- MGT_ID [39:36] FAMGEN. -/
def MGT_ID.FAMGEN : Fld := ⟨MGT_ID.off, 36, 4⟩
/-- Offset of MGT_CAP. -/
def MGT_CAP.off : Nat := 0x8
/-- MGT_CAP [3:0] DIEPAIRS. -/
def MGT_CAP.DIEPAIRS : Fld := ⟨MGT_CAP.off, 0, 4⟩
/-- MGT_CAP [9:4] STACKS. -/
def MGT_CAP.STACKS : Fld := ⟨MGT_CAP.off, 4, 6⟩
/-- MGT_CAP [12:10] PORTS. -/
def MGT_CAP.PORTS : Fld := ⟨MGT_CAP.off, 10, 3⟩
/-- MGT_CAP [19:13] ASTERISMS. -/
def MGT_CAP.ASTERISMS : Fld := ⟨MGT_CAP.off, 13, 7⟩
/-- MGT_CAP [24:20] DOMAINS. -/
def MGT_CAP.DOMAINS : Fld := ⟨MGT_CAP.off, 20, 5⟩
/-- MGT_CAP [34:25] CORES_DP. -/
def MGT_CAP.CORES_DP : Fld := ⟨MGT_CAP.off, 25, 10⟩
/-- MGT_CAP [40:35] CHANS_STACK. -/
def MGT_CAP.CHANS_STACK : Fld := ⟨MGT_CAP.off, 35, 6⟩
/-- MGT_CAP [47:41] SLICES_DP. -/
def MGT_CAP.SLICES_DP : Fld := ⟨MGT_CAP.off, 41, 7⟩
/-- Offset of MGT_STATUS. -/
def MGT_STATUS.off : Nat := 0x10
/-- MGT_STATUS [0] LOCKED. -/
def MGT_STATUS.LOCKED : Fld := ⟨MGT_STATUS.off, 0, 1⟩
/-- MGT_STATUS [1] READY. -/
def MGT_STATUS.READY : Fld := ⟨MGT_STATUS.off, 1, 1⟩
/-- MGT_STATUS [2] RECOVERY. -/
def MGT_STATUS.RECOVERY : Fld := ⟨MGT_STATUS.off, 2, 1⟩
/-- MGT_STATUS [3] PKG_DOWN. -/
def MGT_STATUS.PKG_DOWN : Fld := ⟨MGT_STATUS.off, 3, 1⟩
/-- MGT_STATUS [31:16] BAD_ACCESS. -/
def MGT_STATUS.BAD_ACCESS : Fld := ⟨MGT_STATUS.off, 16, 16⟩
/-- MGT_STATUS [47:32] RING_DENIED. -/
def MGT_STATUS.RING_DENIED : Fld := ⟨MGT_STATUS.off, 32, 16⟩
/-- Offset of MGT_RING_BASE. -/
def MGT_RING_BASE.off : Nat := 0x100
/-- MGT_RING_BASE [0] EN. -/
def MGT_RING_BASE.EN : Fld := ⟨MGT_RING_BASE.off, 0, 1⟩
/-- MGT_RING_BASE [3:1] SPACE. -/
def MGT_RING_BASE.SPACE : Fld := ⟨MGT_RING_BASE.off, 1, 3⟩
/-- MGT_RING_BASE [63:12] BASE. -/
def MGT_RING_BASE.BASE : Fld := ⟨MGT_RING_BASE.off, 12, 52⟩
/-- Offset of MGT_RING_SIZE. -/
def MGT_RING_SIZE.off : Nat := 0x108
/-- MGT_RING_SIZE [4:0] LOG2N. -/
def MGT_RING_SIZE.LOG2N : Fld := ⟨MGT_RING_SIZE.off, 0, 5⟩
/-- MGT_RING_SIZE [12:8] CLOG2N. -/
def MGT_RING_SIZE.CLOG2N : Fld := ⟨MGT_RING_SIZE.off, 8, 5⟩
/-- MGT_RING_SIZE [26:16] VECTOR. -/
def MGT_RING_SIZE.VECTOR : Fld := ⟨MGT_RING_SIZE.off, 16, 11⟩
/-- Offset of MGT_DOORBELL. -/
def MGT_DOORBELL.off : Nat := 0x110
/-- MGT_DOORBELL [31:0] TAIL. -/
def MGT_DOORBELL.TAIL : Fld := ⟨MGT_DOORBELL.off, 0, 32⟩
/-- Offset of MGT_CQ_BASE. -/
def MGT_CQ_BASE.off : Nat := 0x118
/-- MGT_CQ_BASE [63:12] BASE. -/
def MGT_CQ_BASE.BASE : Fld := ⟨MGT_CQ_BASE.off, 12, 52⟩
/-- Offset of MGT_RING_HEAD. -/
def MGT_RING_HEAD.off : Nat := 0x120
/-- MGT_RING_HEAD [31:0] HEAD. -/
def MGT_RING_HEAD.HEAD : Fld := ⟨MGT_RING_HEAD.off, 0, 32⟩
/-- Offset of MGT_CQ_HEAD. -/
def MGT_CQ_HEAD.off : Nat := 0x128
/-- MGT_CQ_HEAD [31:0] HEAD. -/
def MGT_CQ_HEAD.HEAD : Fld := ⟨MGT_CQ_HEAD.off, 0, 32⟩
/-- Offset of MGT_CQ_TAIL. -/
def MGT_CQ_TAIL.off : Nat := 0x130
/-- MGT_CQ_TAIL [31:0] TAIL. -/
def MGT_CQ_TAIL.TAIL : Fld := ⟨MGT_CQ_TAIL.off, 0, 32⟩
/-- Offset of MGT_LOCKDOWN. -/
def MGT_LOCKDOWN.off : Nat := 0x200
/-- MGT_LOCKDOWN [0] LOCK. -/
def MGT_LOCKDOWN.LOCK : Fld := ⟨MGT_LOCKDOWN.off, 0, 1⟩
/-- Offset of MGT_BOOT_STATUS. -/
def MGT_BOOT_STATUS.off : Nat := 0x300
/-- MGT_BOOT_STATUS [3:0] STAGE. -/
def MGT_BOOT_STATUS.STAGE : Fld := ⟨MGT_BOOT_STATUS.off, 0, 4⟩
/-- MGT_BOOT_STATUS [4] RECOVERED. -/
def MGT_BOOT_STATUS.RECOVERED : Fld := ⟨MGT_BOOT_STATUS.off, 4, 1⟩
/-- MGT_BOOT_STATUS [5] RAM_COPY. -/
def MGT_BOOT_STATUS.RAM_COPY : Fld := ⟨MGT_BOOT_STATUS.off, 5, 1⟩
/-- MGT_BOOT_STATUS [6] OWNER_SIG. -/
def MGT_BOOT_STATUS.OWNER_SIG : Fld := ⟨MGT_BOOT_STATUS.off, 6, 1⟩
/-- MGT_BOOT_STATUS [7] DEVKEY. -/
def MGT_BOOT_STATUS.DEVKEY : Fld := ⟨MGT_BOOT_STATUS.off, 7, 1⟩
/-- MGT_BOOT_STATUS [23:8] SVN_B. -/
def MGT_BOOT_STATUS.SVN_B : Fld := ⟨MGT_BOOT_STATUS.off, 8, 16⟩
/-- MGT_BOOT_STATUS [39:24] SVN_R. -/
def MGT_BOOT_STATUS.SVN_R : Fld := ⟨MGT_BOOT_STATUS.off, 24, 16⟩
/-- MGT_BOOT_STATUS [63:40] BOOT_MS. -/
def MGT_BOOT_STATUS.BOOT_MS : Fld := ⟨MGT_BOOT_STATUS.off, 40, 24⟩
/-- Offset of MGT_FW_UPDATE. -/
def MGT_FW_UPDATE.off : Nat := 0x308
/-- MGT_FW_UPDATE [1:0] IMAGE_STATE. -/
def MGT_FW_UPDATE.IMAGE_STATE : Fld := ⟨MGT_FW_UPDATE.off, 0, 2⟩
/-- MGT_FW_UPDATE [3:2] PATH. -/
def MGT_FW_UPDATE.PATH : Fld := ⟨MGT_FW_UPDATE.off, 2, 2⟩
/-- MGT_FW_UPDATE [5:4] PORT. -/
def MGT_FW_UPDATE.PORT : Fld := ⟨MGT_FW_UPDATE.off, 4, 2⟩
/-- MGT_FW_UPDATE [6] PENDING. -/
def MGT_FW_UPDATE.PENDING : Fld := ⟨MGT_FW_UPDATE.off, 6, 1⟩
/-- MGT_FW_UPDATE [15:8] CAUSE. -/
def MGT_FW_UPDATE.CAUSE : Fld := ⟨MGT_FW_UPDATE.off, 8, 8⟩
/-- MGT_FW_UPDATE [31:16] PROGRESS. -/
def MGT_FW_UPDATE.PROGRESS : Fld := ⟨MGT_FW_UPDATE.off, 16, 16⟩
/-- MGT_FW_UPDATE [47:32] FLOOR_B. -/
def MGT_FW_UPDATE.FLOOR_B : Fld := ⟨MGT_FW_UPDATE.off, 32, 16⟩
/-- MGT_FW_UPDATE [63:48] FLOOR_R. -/
def MGT_FW_UPDATE.FLOOR_R : Fld := ⟨MGT_FW_UPDATE.off, 48, 16⟩
/-- Offset of LCS_STATE. -/
def LCS_STATE.off : Nat := 0x10000
/-- LCS_STATE [1:0] STATE. -/
def LCS_STATE.STATE : Fld := ⟨LCS_STATE.off, 0, 2⟩
/-- LCS_STATE [2] OWNER_REQ. -/
def LCS_STATE.OWNER_REQ : Fld := ⟨LCS_STATE.off, 2, 1⟩
/-- LCS_STATE [3] OWNER_SET. -/
def LCS_STATE.OWNER_SET : Fld := ⟨LCS_STATE.off, 3, 1⟩
/-- LCS_STATE [5:4] OWNER_ROW. -/
def LCS_STATE.OWNER_ROW : Fld := ⟨LCS_STATE.off, 4, 2⟩
/-- LCS_STATE [7:6] DEBUG. -/
def LCS_STATE.DEBUG : Fld := ⟨LCS_STATE.off, 6, 2⟩
/-- LCS_STATE [8] LC_ARM. -/
def LCS_STATE.LC_ARM : Fld := ⟨LCS_STATE.off, 8, 1⟩
/-- LCS_STATE [9] IDENTITY. -/
def LCS_STATE.IDENTITY : Fld := ⟨LCS_STATE.off, 9, 1⟩
/-- LCS_STATE [31:16] DENIED. -/
def LCS_STATE.DENIED : Fld := ⟨LCS_STATE.off, 16, 16⟩
/-- Offset of LCS_TRANSITION. -/
def LCS_TRANSITION.off : Nat := 0x10008
/-- LCS_TRANSITION [2:0] ACTION. -/
def LCS_TRANSITION.ACTION : Fld := ⟨LCS_TRANSITION.off, 0, 3⟩
/-- LCS_TRANSITION [3] GO. -/
def LCS_TRANSITION.GO : Fld := ⟨LCS_TRANSITION.off, 3, 1⟩
/-- LCS_TRANSITION [10:8] STATUS. -/
def LCS_TRANSITION.STATUS : Fld := ⟨LCS_TRANSITION.off, 8, 3⟩
/-- LCS_TRANSITION [19:16] CAUSE. -/
def LCS_TRANSITION.CAUSE : Fld := ⟨LCS_TRANSITION.off, 16, 4⟩
/-- Offset of LCS_JOURNAL. -/
def LCS_JOURNAL.off : Nat := 0x10010
/-- LCS_JOURNAL [3:0] INTENTS. -/
def LCS_JOURNAL.INTENTS : Fld := ⟨LCS_JOURNAL.off, 0, 4⟩
/-- LCS_JOURNAL [7:4] COMMITS. -/
def LCS_JOURNAL.COMMITS : Fld := ⟨LCS_JOURNAL.off, 4, 4⟩
/-- LCS_JOURNAL [11:8] VOIDS. -/
def LCS_JOURNAL.VOIDS : Fld := ⟨LCS_JOURNAL.off, 8, 4⟩
/-- LCS_JOURNAL [12] ROLLED. -/
def LCS_JOURNAL.ROLLED : Fld := ⟨LCS_JOURNAL.off, 12, 1⟩
/-- Offset of PWR_CAP. -/
def PWR_CAP.off : Nat := 0x20000
/-- PWR_CAP [12:0] CAP_W. -/
def PWR_CAP.CAP_W : Fld := ⟨PWR_CAP.off, 0, 13⟩
/-- PWR_CAP [28:16] FM_CAP_W. -/
def PWR_CAP.FM_CAP_W : Fld := ⟨PWR_CAP.off, 16, 13⟩
/-- PWR_CAP [44:32] TRAY_CAP_W. -/
def PWR_CAP.TRAY_CAP_W : Fld := ⟨PWR_CAP.off, 32, 13⟩
/-- PWR_CAP [57:48] MARGIN_W. -/
def PWR_CAP.MARGIN_W : Fld := ⟨PWR_CAP.off, 48, 10⟩
/-- Offset of PWR_FLOOR. -/
def PWR_FLOOR.off : Nat := 0x20008
/-- PWR_FLOOR [12:0] FLOOR_W. -/
def PWR_FLOOR.FLOOR_W : Fld := ⟨PWR_FLOOR.off, 0, 13⟩
/-- PWR_FLOOR [13] BELOW. -/
def PWR_FLOOR.BELOW : Fld := ⟨PWR_FLOOR.off, 13, 1⟩
/-- PWR_FLOOR [20:16] HOLD. -/
def PWR_FLOOR.HOLD : Fld := ⟨PWR_FLOOR.off, 16, 5⟩
/-- Offset of PWR_SLEW_LIMIT. -/
def PWR_SLEW_LIMIT.off : Nat := 0x20010
/-- PWR_SLEW_LIMIT [7:0] LIMIT. -/
def PWR_SLEW_LIMIT.LIMIT : Fld := ⟨PWR_SLEW_LIMIT.off, 0, 8⟩
/-- PWR_SLEW_LIMIT [31:16] SLEW. -/
def PWR_SLEW_LIMIT.SLEW : Fld := ⟨PWR_SLEW_LIMIT.off, 16, 16⟩
/-- Offset of PWR_BUFFER_ENERGY. -/
def PWR_BUFFER_ENERGY.off : Nat := 0x20018
/-- PWR_BUFFER_ENERGY [15:0] ENERGY. -/
def PWR_BUFFER_ENERGY.ENERGY : Fld := ⟨PWR_BUFFER_ENERGY.off, 0, 16⟩
/-- PWR_BUFFER_ENERGY [31:16] MIN. -/
def PWR_BUFFER_ENERGY.MIN : Fld := ⟨PWR_BUFFER_ENERGY.off, 16, 16⟩
/-- PWR_BUFFER_ENERGY [39:32] SETPOINT. -/
def PWR_BUFFER_ENERGY.SETPOINT : Fld := ⟨PWR_BUFFER_ENERGY.off, 32, 8⟩
/-- PWR_BUFFER_ENERGY [47:40] RESERVE. -/
def PWR_BUFFER_ENERGY.RESERVE : Fld := ⟨PWR_BUFFER_ENERGY.off, 40, 8⟩
/-- PWR_BUFFER_ENERGY [48] BRAKE. -/
def PWR_BUFFER_ENERGY.BRAKE : Fld := ⟨PWR_BUFFER_ENERGY.off, 48, 1⟩
/-- Offset of PWR_INPUT. -/
def PWR_INPUT.off : Nat := 0x20020
/-- PWR_INPUT [15:0] VIN. -/
def PWR_INPUT.VIN : Fld := ⟨PWR_INPUT.off, 0, 16⟩
/-- PWR_INPUT [31:16] IIN. -/
def PWR_INPUT.IIN : Fld := ⟨PWR_INPUT.off, 16, 16⟩
/-- PWR_INPUT [47:32] PIN. -/
def PWR_INPUT.PIN : Fld := ⟨PWR_INPUT.off, 32, 16⟩
/-- Offset of PWR_GRANTED. -/
def PWR_GRANTED.off : Nat := 0x20028
/-- PWR_GRANTED [15:0] LEAVE_W. -/
def PWR_GRANTED.LEAVE_W : Fld := ⟨PWR_GRANTED.off, 0, 16⟩
/-- PWR_GRANTED [31:16] BASE_W. -/
def PWR_GRANTED.BASE_W : Fld := ⟨PWR_GRANTED.off, 16, 16⟩
/-- PWR_GRANTED [47:32] RESERVED_W. -/
def PWR_GRANTED.RESERVED_W : Fld := ⟨PWR_GRANTED.off, 32, 16⟩
/-- PWR_GRANTED [63:48] BOOKED_W. -/
def PWR_GRANTED.BOOKED_W : Fld := ⟨PWR_GRANTED.off, 48, 16⟩
/-- Offset of PWR_WAVE. -/
def PWR_WAVE.off : Nat := 0x20030
/-- PWR_WAVE [9:0] STEP_W. -/
def PWR_WAVE.STEP_W : Fld := ⟨PWR_WAVE.off, 0, 10⟩
/-- PWR_WAVE [23:16] DELTA. -/
def PWR_WAVE.DELTA : Fld := ⟨PWR_WAVE.off, 16, 8⟩
/-- Offset of PWR_CTRL. -/
def PWR_CTRL.off : Nat := 0x20038
/-- PWR_CTRL [2:0] OPMAX. -/
def PWR_CTRL.OPMAX : Fld := ⟨PWR_CTRL.off, 0, 3⟩
/-- PWR_CTRL [31:16] NIGHT_AFTER_US. -/
def PWR_CTRL.NIGHT_AFTER_US : Fld := ⟨PWR_CTRL.off, 16, 16⟩
/-- PWR_CTRL [39:32] TJ_THROTTLE. -/
def PWR_CTRL.TJ_THROTTLE : Fld := ⟨PWR_CTRL.off, 32, 8⟩
/-- Offset of PWR_DROOP. -/
def PWR_DROOP.off : Nat := 0x20040
/-- PWR_DROOP [6:0] THRESH. -/
def PWR_DROOP.THRESH : Fld := ⟨PWR_DROOP.off, 0, 7⟩
/-- PWR_DROOP [63:32] EVENTS. -/
def PWR_DROOP.EVENTS : Fld := ⟨PWR_DROOP.off, 32, 32⟩
/-- Offset of PWR_STATE_REQ. -/
def PWR_STATE_REQ.off : Nat := 0x20100
/-- PWR_STATE_REQ [2:0] REQ. -/
def PWR_STATE_REQ.REQ : Fld := ⟨PWR_STATE_REQ.off, 0, 3⟩
/-- PWR_STATE_REQ [15:8] DPMASK. -/
def PWR_STATE_REQ.DPMASK : Fld := ⟨PWR_STATE_REQ.off, 8, 8⟩
/-- PWR_STATE_REQ [18:16] STATUS. -/
def PWR_STATE_REQ.STATUS : Fld := ⟨PWR_STATE_REQ.off, 16, 3⟩
/-- PWR_STATE_REQ [35:20] UNIT. -/
def PWR_STATE_REQ.UNIT : Fld := ⟨PWR_STATE_REQ.off, 20, 16⟩
/-- PWR_STATE_REQ [39:36] REASON. -/
def PWR_STATE_REQ.REASON : Fld := ⟨PWR_STATE_REQ.off, 36, 4⟩
/-- PWR_STATE_REQ [42:40] STATE. -/
def PWR_STATE_REQ.STATE : Fld := ⟨PWR_STATE_REQ.off, 40, 3⟩
/-- Offset of PWR_LAST_WAKE. -/
def PWR_LAST_WAKE.off : Nat := 0x20108
/-- PWR_LAST_WAKE [3:0] SOURCE. -/
def PWR_LAST_WAKE.SOURCE : Fld := ⟨PWR_LAST_WAKE.off, 0, 4⟩
/-- PWR_LAST_WAKE [7:4] FROM. -/
def PWR_LAST_WAKE.FROM : Fld := ⟨PWR_LAST_WAKE.off, 4, 4⟩
/-- PWR_LAST_WAKE [63:8] TICKS. -/
def PWR_LAST_WAKE.TICKS : Fld := ⟨PWR_LAST_WAKE.off, 8, 56⟩
/-- Offset of PWR_WAKE_TIMER. -/
def PWR_WAKE_TIMER.off : Nat := 0x20110
/-- PWR_WAKE_TIMER [55:0] TICKS. -/
def PWR_WAKE_TIMER.TICKS : Fld := ⟨PWR_WAKE_TIMER.off, 0, 56⟩
/-- Offset of PWR_ENERGY. -/
def PWR_ENERGY.off : Nat := 0x20118
/-- PWR_ENERGY [63:0] INPUT_MJ. -/
def PWR_ENERGY.INPUT_MJ : Fld := ⟨PWR_ENERGY.off, 0, 64⟩
/-- Offset of PWR_ENERGY_UNATTR. -/
def PWR_ENERGY_UNATTR.off : Nat := 0x20120
/-- PWR_ENERGY_UNATTR [63:0] UNATTR_MJ. -/
def PWR_ENERGY_UNATTR.UNATTR_MJ : Fld := ⟨PWR_ENERGY_UNATTR.off, 0, 64⟩
/-- Offset of CLK_WATCH_COUNT. -/
def CLK_WATCH_COUNT.off : Nat := 0x30000
/-- CLK_WATCH_COUNT [63:0] TICKS. -/
def CLK_WATCH_COUNT.TICKS : Fld := ⟨CLK_WATCH_COUNT.off, 0, 64⟩
/-- Offset of CLK_STATUS. -/
def CLK_STATUS.off : Nat := 0x30008
/-- CLK_STATUS [7:0] CORE_LOCK. -/
def CLK_STATUS.CORE_LOCK : Fld := ⟨CLK_STATUS.off, 0, 8⟩
/-- CLK_STATUS [15:8] XBR_LOCK. -/
def CLK_STATUS.XBR_LOCK : Fld := ⟨CLK_STATUS.off, 8, 8⟩
/-- CLK_STATUS [47:16] STK_LOCK. -/
def CLK_STATUS.STK_LOCK : Fld := ⟨CLK_STATUS.off, 16, 32⟩
/-- CLK_STATUS [48] MAINT_LOCK. -/
def CLK_STATUS.MAINT_LOCK : Fld := ⟨CLK_STATUS.off, 48, 1⟩
/-- CLK_STATUS [49] OSC_OK. -/
def CLK_STATUS.OSC_OK : Fld := ⟨CLK_STATUS.off, 49, 1⟩
/-- Offset of RAS_ERRQ_BASE. -/
def RAS_ERRQ_BASE.off : Nat := 0x40000
/-- RAS_ERRQ_BASE [0] EN. -/
def RAS_ERRQ_BASE.EN : Fld := ⟨RAS_ERRQ_BASE.off, 0, 1⟩
/-- RAS_ERRQ_BASE [3:1] SPACE. -/
def RAS_ERRQ_BASE.SPACE : Fld := ⟨RAS_ERRQ_BASE.off, 1, 3⟩
/-- RAS_ERRQ_BASE [63:6] BASE. -/
def RAS_ERRQ_BASE.BASE : Fld := ⟨RAS_ERRQ_BASE.off, 6, 58⟩
/-- Offset of RAS_ERRQ_SIZE. -/
def RAS_ERRQ_SIZE.off : Nat := 0x40008
/-- RAS_ERRQ_SIZE [4:0] LOG2N. -/
def RAS_ERRQ_SIZE.LOG2N : Fld := ⟨RAS_ERRQ_SIZE.off, 0, 5⟩
/-- RAS_ERRQ_SIZE [14:8] RESV. -/
def RAS_ERRQ_SIZE.RESV : Fld := ⟨RAS_ERRQ_SIZE.off, 8, 7⟩
/-- RAS_ERRQ_SIZE [26:16] VECTOR. -/
def RAS_ERRQ_SIZE.VECTOR : Fld := ⟨RAS_ERRQ_SIZE.off, 16, 11⟩
/-- Offset of RAS_ERRQ_HEAD. -/
def RAS_ERRQ_HEAD.off : Nat := 0x40010
/-- RAS_ERRQ_HEAD [31:0] HEAD. -/
def RAS_ERRQ_HEAD.HEAD : Fld := ⟨RAS_ERRQ_HEAD.off, 0, 32⟩
/-- Offset of RAS_ERRQ_TAIL. -/
def RAS_ERRQ_TAIL.off : Nat := 0x40018
/-- RAS_ERRQ_TAIL [31:0] TAIL. -/
def RAS_ERRQ_TAIL.TAIL : Fld := ⟨RAS_ERRQ_TAIL.off, 0, 32⟩
/-- Offset of RAS_ERRQ_LOST. -/
def RAS_ERRQ_LOST.off : Nat := 0x40020
/-- RAS_ERRQ_LOST [31:0] LOST. -/
def RAS_ERRQ_LOST.LOST : Fld := ⟨RAS_ERRQ_LOST.off, 0, 32⟩
/-- RAS_ERRQ_LOST [47:32] CRIT_LOST. -/
def RAS_ERRQ_LOST.CRIT_LOST : Fld := ⟨RAS_ERRQ_LOST.off, 32, 16⟩
/-- RAS_ERRQ_LOST [63:48] EPISODES. -/
def RAS_ERRQ_LOST.EPISODES : Fld := ⟨RAS_ERRQ_LOST.off, 48, 16⟩
/-- Offset of RAS_RESET_CTRL. -/
def RAS_RESET_CTRL.off : Nat := 0x40100
/-- RAS_RESET_CTRL [2:0] LEVEL. -/
def RAS_RESET_CTRL.LEVEL : Fld := ⟨RAS_RESET_CTRL.off, 0, 3⟩
/-- RAS_RESET_CTRL [3] DUMP. -/
def RAS_RESET_CTRL.DUMP : Fld := ⟨RAS_RESET_CTRL.off, 3, 1⟩
/-- RAS_RESET_CTRL [31:16] UNIT. -/
def RAS_RESET_CTRL.UNIT : Fld := ⟨RAS_RESET_CTRL.off, 16, 16⟩
/-- RAS_RESET_CTRL [37:32] ASTID. -/
def RAS_RESET_CTRL.ASTID : Fld := ⟨RAS_RESET_CTRL.off, 32, 6⟩
/-- Offset of RAS_RESET_STATUS. -/
def RAS_RESET_STATUS.off : Nat := 0x40108
/-- RAS_RESET_STATUS [0] BUSY. -/
def RAS_RESET_STATUS.BUSY : Fld := ⟨RAS_RESET_STATUS.off, 0, 1⟩
/-- RAS_RESET_STATUS [3:1] LEVEL. -/
def RAS_RESET_STATUS.LEVEL : Fld := ⟨RAS_RESET_STATUS.off, 1, 3⟩
/-- RAS_RESET_STATUS [31:16] CAUSE. -/
def RAS_RESET_STATUS.CAUSE : Fld := ⟨RAS_RESET_STATUS.off, 16, 16⟩
/-- RAS_RESET_STATUS [47:32] PKG_RESETS. -/
def RAS_RESET_STATUS.PKG_RESETS : Fld := ⟨RAS_RESET_STATUS.off, 32, 16⟩
/-- RAS_RESET_STATUS [63:48] AST_RESETS. -/
def RAS_RESET_STATUS.AST_RESETS : Fld := ⟨RAS_RESET_STATUS.off, 48, 16⟩
/-- Offset of RAS_DUMP_BASE. -/
def RAS_DUMP_BASE.off : Nat := 0x40200
/-- RAS_DUMP_BASE [0] EN. -/
def RAS_DUMP_BASE.EN : Fld := ⟨RAS_DUMP_BASE.off, 0, 1⟩
/-- RAS_DUMP_BASE [1] ASTDUMP. -/
def RAS_DUMP_BASE.ASTDUMP : Fld := ⟨RAS_DUMP_BASE.off, 1, 1⟩
/-- RAS_DUMP_BASE [2] VALID. -/
def RAS_DUMP_BASE.VALID : Fld := ⟨RAS_DUMP_BASE.off, 2, 1⟩
/-- RAS_DUMP_BASE [19:4] PAGE. -/
def RAS_DUMP_BASE.PAGE : Fld := ⟨RAS_DUMP_BASE.off, 4, 16⟩
/-- RAS_DUMP_BASE [63:32] PAGES. -/
def RAS_DUMP_BASE.PAGES : Fld := ⟨RAS_DUMP_BASE.off, 32, 32⟩
/-- Offset of RAS_HANG_CTRL. -/
def RAS_HANG_CTRL.off : Nat := 0x40300
/-- RAS_HANG_CTRL [0] EN. -/
def RAS_HANG_CTRL.EN : Fld := ⟨RAS_HANG_CTRL.off, 0, 1⟩
/-- RAS_HANG_CTRL [1] ACTION. -/
def RAS_HANG_CTRL.ACTION : Fld := ⟨RAS_HANG_CTRL.off, 1, 1⟩
/-- RAS_HANG_CTRL [15:8] PERIOD_MS. -/
def RAS_HANG_CTRL.PERIOD_MS : Fld := ⟨RAS_HANG_CTRL.off, 8, 8⟩
/-- RAS_HANG_CTRL [31:16] NOPROG_MS. -/
def RAS_HANG_CTRL.NOPROG_MS : Fld := ⟨RAS_HANG_CTRL.off, 16, 16⟩
/-- Offset of RAS_HANG_STATUS. -/
def RAS_HANG_STATUS.off : Nat := 0x40308
/-- RAS_HANG_STATUS [15:0] SETS. -/
def RAS_HANG_STATUS.SETS : Fld := ⟨RAS_HANG_STATUS.off, 0, 16⟩
/-- RAS_HANG_STATUS [31:16] BROKEN. -/
def RAS_HANG_STATUS.BROKEN : Fld := ⟨RAS_HANG_STATUS.off, 16, 16⟩
/-- RAS_HANG_STATUS [47:32] NOPROG. -/
def RAS_HANG_STATUS.NOPROG : Fld := ⟨RAS_HANG_STATUS.off, 32, 16⟩
/-- Offset of ALM_SUMMARY. -/
def ALM_SUMMARY.off : Nat := 0x50000
/-- ALM_SUMMARY [2:0] HEALTH. -/
def ALM_SUMMARY.HEALTH : Fld := ⟨ALM_SUMMARY.off, 0, 3⟩
/-- ALM_SUMMARY [23:8] RUL_DAYS. -/
def ALM_SUMMARY.RUL_DAYS : Fld := ⟨ALM_SUMMARY.off, 8, 16⟩
/-- ALM_SUMMARY [26:24] LIMITER. -/
def ALM_SUMMARY.LIMITER : Fld := ⟨ALM_SUMMARY.off, 24, 3⟩
/-- ALM_SUMMARY [47:32] LIMIT_UNIT. -/
def ALM_SUMMARY.LIMIT_UNIT : Fld := ⟨ALM_SUMMARY.off, 32, 16⟩
/-- Offset of ALM_CTRL. -/
def ALM_CTRL.off : Nat := 0x50008
/-- ALM_CTRL [15:0] HORIZON_DAYS. -/
def ALM_CTRL.HORIZON_DAYS : Fld := ⟨ALM_CTRL.off, 0, 16⟩
/-- ALM_CTRL [23:16] CORE_UE_LIMIT. -/
def ALM_CTRL.CORE_UE_LIMIT : Fld := ⟨ALM_CTRL.off, 16, 8⟩
/-- ALM_CTRL [31:24] SLICE_CE_LIMIT. -/
def ALM_CTRL.SLICE_CE_LIMIT : Fld := ⟨ALM_CTRL.off, 24, 8⟩
/-- ALM_CTRL [32] AUTO_RETIRE. -/
def ALM_CTRL.AUTO_RETIRE : Fld := ⟨ALM_CTRL.off, 32, 1⟩
/-- Offset of ALM_SPARE_STATUS. -/
def ALM_SPARE_STATUS.off : Nat := 0x50010
/-- ALM_SPARE_STATUS [5:0] CORE_MIN. -/
def ALM_SPARE_STATUS.CORE_MIN : Fld := ⟨ALM_SPARE_STATUS.off, 0, 6⟩
/-- ALM_SPARE_STATUS [8:6] CORE_DP. -/
def ALM_SPARE_STATUS.CORE_DP : Fld := ⟨ALM_SPARE_STATUS.off, 6, 3⟩
/-- ALM_SPARE_STATUS [11:9] SLICE_MIN. -/
def ALM_SPARE_STATUS.SLICE_MIN : Fld := ⟨ALM_SPARE_STATUS.off, 9, 3⟩
/-- ALM_SPARE_STATUS [14:12] SLICE_DP. -/
def ALM_SPARE_STATUS.SLICE_DP : Fld := ⟨ALM_SPARE_STATUS.off, 12, 3⟩
/-- ALM_SPARE_STATUS [16:15] CHAN_MIN. -/
def ALM_SPARE_STATUS.CHAN_MIN : Fld := ⟨ALM_SPARE_STATUS.off, 15, 2⟩
/-- ALM_SPARE_STATUS [21:17] CHAN_STACK. -/
def ALM_SPARE_STATUS.CHAN_STACK : Fld := ⟨ALM_SPARE_STATUS.off, 17, 5⟩
/-- ALM_SPARE_STATUS [28:22] LANE_MIN. -/
def ALM_SPARE_STATUS.LANE_MIN : Fld := ⟨ALM_SPARE_STATUS.off, 22, 7⟩
/-- ALM_SPARE_STATUS [33:29] LANE_STACK. -/
def ALM_SPARE_STATUS.LANE_STACK : Fld := ⟨ALM_SPARE_STATUS.off, 29, 5⟩
/-- ALM_SPARE_STATUS [35:34] BLANE_MIN. -/
def ALM_SPARE_STATUS.BLANE_MIN : Fld := ⟨ALM_SPARE_STATUS.off, 34, 2⟩
/-- ALM_SPARE_STATUS [39:36] BLANE_BRIDGE. -/
def ALM_SPARE_STATUS.BLANE_BRIDGE : Fld := ⟨ALM_SPARE_STATUS.off, 36, 4⟩
/-- ALM_SPARE_STATUS [40] EXHAUSTED. -/
def ALM_SPARE_STATUS.EXHAUSTED : Fld := ⟨ALM_SPARE_STATUS.off, 40, 1⟩
/-- Offset of ALM_HOURS. -/
def ALM_HOURS.off : Nat := 0x50018
/-- ALM_HOURS [31:0] POH. -/
def ALM_HOURS.POH : Fld := ⟨ALM_HOURS.off, 0, 32⟩
/-- Offset of ADM_CTRL. -/
def ADM_CTRL.off : Nat := 0x80000
/-- ADM_CTRL [2:0] PLAN_OP. -/
def ADM_CTRL.PLAN_OP : Fld := ⟨ADM_CTRL.off, 0, 3⟩
/-- ADM_CTRL [3] GUAR_EN. -/
def ADM_CTRL.GUAR_EN : Fld := ⟨ADM_CTRL.off, 3, 1⟩
/-- ADM_CTRL [23:4] MAX_BOUND_US. -/
def ADM_CTRL.MAX_BOUND_US : Fld := ⟨ADM_CTRL.off, 4, 20⟩
/-- ADM_CTRL [31:24] DECAY. -/
def ADM_CTRL.DECAY : Fld := ⟨ADM_CTRL.off, 24, 8⟩
/-- Offset of ADM_DERATE. -/
def ADM_DERATE.off : Nat := 0x80008
/-- ADM_DERATE [9:0] DERATE. -/
def ADM_DERATE.DERATE : Fld := ⟨ADM_DERATE.off, 0, 10⟩
/-- Offset of ADM_TILE_LIMIT. -/
def ADM_TILE_LIMIT.off : Nat := 0x80010
/-- ADM_TILE_LIMIT [15:0] DCOST_MAX. -/
def ADM_TILE_LIMIT.DCOST_MAX : Fld := ⟨ADM_TILE_LIMIT.off, 0, 16⟩
/-- ADM_TILE_LIMIT [31:16] WATCHDOG. -/
def ADM_TILE_LIMIT.WATCHDOG : Fld := ⟨ADM_TILE_LIMIT.off, 16, 16⟩
/-- ADM_TILE_LIMIT [47:32] STALL. -/
def ADM_TILE_LIMIT.STALL : Fld := ⟨ADM_TILE_LIMIT.off, 32, 16⟩
/-- ADM_TILE_LIMIT [51:48] REPLAY_MAX. -/
def ADM_TILE_LIMIT.REPLAY_MAX : Fld := ⟨ADM_TILE_LIMIT.off, 48, 4⟩
/-- Offset of ADM_STATUS. -/
def ADM_STATUS.off : Nat := 0x80018
/-- ADM_STATUS [0] CAP_FLOOR. -/
def ADM_STATUS.CAP_FLOOR : Fld := ⟨ADM_STATUS.off, 0, 1⟩
/-- ADM_STATUS [31:16] SHED_EPISODES. -/
def ADM_STATUS.SHED_EPISODES : Fld := ⟨ADM_STATUS.off, 16, 16⟩
/-- ADM_STATUS [63:32] MISSES. -/
def ADM_STATUS.MISSES : Fld := ⟨ADM_STATUS.off, 32, 32⟩
/-- Offset of ADM_CTX_SEL. -/
def ADM_CTX_SEL.off : Nat := 0x80060
/-- ADM_CTX_SEL [15:0] CTX. -/
def ADM_CTX_SEL.CTX : Fld := ⟨ADM_CTX_SEL.off, 0, 16⟩
/-- ADM_CTX_SEL [21:16] ASTID. -/
def ADM_CTX_SEL.ASTID : Fld := ⟨ADM_CTX_SEL.off, 16, 6⟩
/-- Offset of ADM_CTX_INFO. -/
def ADM_CTX_INFO.off : Nat := 0x80068
/-- ADM_CTX_INFO [8:0] INFL. -/
def ADM_CTX_INFO.INFL : Fld := ⟨ADM_CTX_INFO.off, 0, 9⟩
/-- ADM_CTX_INFO [31:16] OVERRUNS. -/
def ADM_CTX_INFO.OVERRUNS : Fld := ⟨ADM_CTX_INFO.off, 16, 16⟩
/-- ADM_CTX_INFO [47:32] CLEAN. -/
def ADM_CTX_INFO.CLEAN : Fld := ⟨ADM_CTX_INFO.off, 32, 16⟩
/-- Offset of CMP_MAP_EPOCH. -/
def CMP_MAP_EPOCH.off : Nat := 0xC0000
/-- CMP_MAP_EPOCH [15:0] CURRENT. -/
def CMP_MAP_EPOCH.CURRENT : Fld := ⟨CMP_MAP_EPOCH.off, 0, 16⟩
/-- CMP_MAP_EPOCH [31:16] PREVIOUS. -/
def CMP_MAP_EPOCH.PREVIOUS : Fld := ⟨CMP_MAP_EPOCH.off, 16, 16⟩
/-- CMP_MAP_EPOCH [32] TWO_LIVE. -/
def CMP_MAP_EPOCH.TWO_LIVE : Fld := ⟨CMP_MAP_EPOCH.off, 32, 1⟩
/-- CMP_MAP_EPOCH [47:40] WAITING. -/
def CMP_MAP_EPOCH.WAITING : Fld := ⟨CMP_MAP_EPOCH.off, 40, 8⟩
/-- CMP_MAP_EPOCH [63:48] MODE_EPOCH. -/
def CMP_MAP_EPOCH.MODE_EPOCH : Fld := ⟨CMP_MAP_EPOCH.off, 48, 16⟩
/-- Offset of CMP_STATUS. -/
def CMP_STATUS.off : Nat := 0xC0008
/-- CMP_STATUS [6:0] ASTERISMS. -/
def CMP_STATUS.ASTERISMS : Fld := ⟨CMP_STATUS.off, 0, 7⟩
/-- CMP_STATUS [17:8] MOVES. -/
def CMP_STATUS.MOVES : Fld := ⟨CMP_STATUS.off, 8, 10⟩
/-- CMP_STATUS [18] MODE_BUSY. -/
def CMP_STATUS.MODE_BUSY : Fld := ⟨CMP_STATUS.off, 18, 1⟩
/-- CMP_STATUS [19] DRAIN_LATE. -/
def CMP_STATUS.DRAIN_LATE : Fld := ⟨CMP_STATUS.off, 19, 1⟩
/-- Offset of CMP_DRAIN. -/
def CMP_DRAIN.off : Nat := 0xC0010
/-- CMP_DRAIN [31:0] LAST_DRAIN_US. -/
def CMP_DRAIN.LAST_DRAIN_US : Fld := ⟨CMP_DRAIN.off, 0, 32⟩
/-- CMP_DRAIN [63:32] LAST_PUBLISH_US. -/
def CMP_DRAIN.LAST_PUBLISH_US : Fld := ⟨CMP_DRAIN.off, 32, 32⟩
/-- Offset of CMP_VIEW. -/
def CMP_VIEW.off : Nat := 0xC0020
/-- CMP_VIEW [5:0] ASTID. -/
def CMP_VIEW.ASTID : Fld := ⟨CMP_VIEW.off, 0, 6⟩
/-- CMP_VIEW [7:6] COPY. -/
def CMP_VIEW.COPY : Fld := ⟨CMP_VIEW.off, 6, 2⟩
/-- Offset of HIF_CTX_TABLE_BASE. -/
def HIF_CTX_TABLE_BASE.off : Nat := 0x100000
/-- HIF_CTX_TABLE_BASE [17:0] UNIT. -/
def HIF_CTX_TABLE_BASE.UNIT : Fld := ⟨HIF_CTX_TABLE_BASE.off, 0, 18⟩
/-- Offset of HIF_QUEUE_TABLE_BASE. -/
def HIF_QUEUE_TABLE_BASE.off : Nat := 0x100008
/-- HIF_QUEUE_TABLE_BASE [17:0] UNIT. -/
def HIF_QUEUE_TABLE_BASE.UNIT : Fld := ⟨HIF_QUEUE_TABLE_BASE.off, 0, 18⟩
/-- Offset of HIF_OBJ_TABLE_BASE. -/
def HIF_OBJ_TABLE_BASE.off : Nat := 0x100010
/-- HIF_OBJ_TABLE_BASE [17:0] UNIT. -/
def HIF_OBJ_TABLE_BASE.UNIT : Fld := ⟨HIF_OBJ_TABLE_BASE.off, 0, 18⟩
/-- Offset of HIF_EVENT_TABLE_BASE. -/
def HIF_EVENT_TABLE_BASE.off : Nat := 0x100018
/-- HIF_EVENT_TABLE_BASE [17:0] UNIT. -/
def HIF_EVENT_TABLE_BASE.UNIT : Fld := ⟨HIF_EVENT_TABLE_BASE.off, 0, 18⟩
/-- Offset of HIF_FAULTQ_BASE. -/
def HIF_FAULTQ_BASE.off : Nat := 0x100100
/-- HIF_FAULTQ_BASE [0] EN. -/
def HIF_FAULTQ_BASE.EN : Fld := ⟨HIF_FAULTQ_BASE.off, 0, 1⟩
/-- HIF_FAULTQ_BASE [63:6] BASE. -/
def HIF_FAULTQ_BASE.BASE : Fld := ⟨HIF_FAULTQ_BASE.off, 6, 58⟩
/-- Offset of HIF_FAULTQ_SIZE. -/
def HIF_FAULTQ_SIZE.off : Nat := 0x100108
/-- HIF_FAULTQ_SIZE [4:0] LOG2N. -/
def HIF_FAULTQ_SIZE.LOG2N : Fld := ⟨HIF_FAULTQ_SIZE.off, 0, 5⟩
/-- HIF_FAULTQ_SIZE [24:8] HEAD. -/
def HIF_FAULTQ_SIZE.HEAD : Fld := ⟨HIF_FAULTQ_SIZE.off, 8, 17⟩
/-- HIF_FAULTQ_SIZE [48:32] TAIL. -/
def HIF_FAULTQ_SIZE.TAIL : Fld := ⟨HIF_FAULTQ_SIZE.off, 32, 17⟩
/-- Offset of HIF_FAULT_HOLD. -/
def HIF_FAULT_HOLD.off : Nat := 0x100110
/-- HIF_FAULT_HOLD [9:0] HELD. -/
def HIF_FAULT_HOLD.HELD : Fld := ⟨HIF_FAULT_HOLD.off, 0, 10⟩
/-- HIF_FAULT_HOLD [24:16] SHARED_FREE. -/
def HIF_FAULT_HOLD.SHARED_FREE : Fld := ⟨HIF_FAULT_HOLD.off, 16, 9⟩
/-- HIF_FAULT_HOLD [31:25] HOSTDROP. -/
def HIF_FAULT_HOLD.HOSTDROP : Fld := ⟨HIF_FAULT_HOLD.off, 25, 7⟩
/-- HIF_FAULT_HOLD [47:32] BLOCKED. -/
def HIF_FAULT_HOLD.BLOCKED : Fld := ⟨HIF_FAULT_HOLD.off, 32, 16⟩
/-- HIF_FAULT_HOLD [63:48] EPISODES. -/
def HIF_FAULT_HOLD.EPISODES : Fld := ⟨HIF_FAULT_HOLD.off, 48, 16⟩
/-- Offset of HIF_INV_DOORBELL. -/
def HIF_INV_DOORBELL.off : Nat := 0x100200
/-- HIF_INV_DOORBELL [5:0] ASTID. -/
def HIF_INV_DOORBELL.ASTID : Fld := ⟨HIF_INV_DOORBELL.off, 0, 6⟩
/-- HIF_INV_DOORBELL [7:6] SCOPE. -/
def HIF_INV_DOORBELL.SCOPE : Fld := ⟨HIF_INV_DOORBELL.off, 6, 2⟩
/-- HIF_INV_DOORBELL [23:8] CTX. -/
def HIF_INV_DOORBELL.CTX : Fld := ⟨HIF_INV_DOORBELL.off, 8, 16⟩
/-- Offset of HIF_INV_STATUS. -/
def HIF_INV_STATUS.off : Nat := 0x100208
/-- HIF_INV_STATUS [0] BUSY. -/
def HIF_INV_STATUS.BUSY : Fld := ⟨HIF_INV_STATUS.off, 0, 1⟩
/-- HIF_INV_STATUS [1] TIMEOUT. -/
def HIF_INV_STATUS.TIMEOUT : Fld := ⟨HIF_INV_STATUS.off, 1, 1⟩
/-- HIF_INV_STATUS [39:8] LATE. -/
def HIF_INV_STATUS.LATE : Fld := ⟨HIF_INV_STATUS.off, 8, 32⟩
/-- Offset of CXP_STATUS. -/
def CXP_STATUS.off (p : Nat) : Nat := 0x180000 + 0x10000 * p + 0x0
/-- CXP_STATUS [1:0] STATE0. -/
def CXP_STATUS.STATE0 (p : Nat) : Fld := ⟨CXP_STATUS.off p, 0, 2⟩
/-- CXP_STATUS [3:2] STATE1. -/
def CXP_STATUS.STATE1 (p : Nat) : Fld := ⟨CXP_STATUS.off p, 2, 2⟩
/-- CXP_STATUS [8:4] WIDTH0. -/
def CXP_STATUS.WIDTH0 (p : Nat) : Fld := ⟨CXP_STATUS.off p, 4, 5⟩
/-- CXP_STATUS [13:9] WIDTH1. -/
def CXP_STATUS.WIDTH1 (p : Nat) : Fld := ⟨CXP_STATUS.off p, 9, 5⟩
/-- CXP_STATUS [16:14] RATE0. -/
def CXP_STATUS.RATE0 (p : Nat) : Fld := ⟨CXP_STATUS.off p, 14, 3⟩
/-- CXP_STATUS [19:17] RATE1. -/
def CXP_STATUS.RATE1 (p : Nat) : Fld := ⟨CXP_STATUS.off p, 17, 3⟩
/-- CXP_STATUS [20] L0P0. -/
def CXP_STATUS.L0P0 (p : Nat) : Fld := ⟨CXP_STATUS.off p, 20, 1⟩
/-- CXP_STATUS [21] L0P1. -/
def CXP_STATUS.L0P1 (p : Nat) : Fld := ⟨CXP_STATUS.off p, 21, 1⟩
/-- CXP_STATUS [22] READY. -/
def CXP_STATUS.READY (p : Nat) : Fld := ⟨CXP_STATUS.off p, 22, 1⟩
/-- CXP_STATUS [23] MEM_ACTIVE. -/
def CXP_STATUS.MEM_ACTIVE (p : Nat) : Fld := ⟨CXP_STATUS.off p, 23, 1⟩
/-- CXP_STATUS [39:24] LOST. -/
def CXP_STATUS.LOST (p : Nat) : Fld := ⟨CXP_STATUS.off p, 24, 16⟩
/-- CXP_STATUS [46:40] VFS. -/
def CXP_STATUS.VFS (p : Nat) : Fld := ⟨CXP_STATUS.off p, 40, 7⟩
/-- Offset of CXP_CTRL. -/
def CXP_CTRL.off (p : Nat) : Nat := 0x180000 + 0x10000 * p + 0x8
/-- CXP_CTRL [0] SPLIT. -/
def CXP_CTRL.SPLIT (p : Nat) : Fld := ⟨CXP_CTRL.off p, 0, 1⟩
/-- CXP_CTRL [3:1] MAXRATE. -/
def CXP_CTRL.MAXRATE (p : Nat) : Fld := ⟨CXP_CTRL.off p, 1, 3⟩
/-- CXP_CTRL [4] L0P_EN. -/
def CXP_CTRL.L0P_EN (p : Nat) : Fld := ⟨CXP_CTRL.off p, 4, 1⟩
/-- Offset of CXP_COUNTS. -/
def CXP_COUNTS.off (p : Nat) : Nat := 0x180000 + 0x10000 * p + 0x10
/-- CXP_COUNTS [15:0] RETRAINS. -/
def CXP_COUNTS.RETRAINS (p : Nat) : Fld := ⟨CXP_COUNTS.off p, 0, 16⟩
/-- CXP_COUNTS [31:16] IDE_FAIL. -/
def CXP_COUNTS.IDE_FAIL (p : Nat) : Fld := ⟨CXP_COUNTS.off p, 16, 16⟩
/-- CXP_COUNTS [47:32] POOL_FAIL. -/
def CXP_COUNTS.POOL_FAIL (p : Nat) : Fld := ⟨CXP_COUNTS.off p, 32, 16⟩
/-- CXP_COUNTS [63:48] BI_TIMEOUT. -/
def CXP_COUNTS.BI_TIMEOUT (p : Nat) : Fld := ⟨CXP_COUNTS.off p, 48, 16⟩
/-- Offset of XBR_STATUS. -/
def XBR_STATUS.off (d : Nat) : Nat := 0x400000 + 0x100000 * d + 0x0
/-- XBR_STATUS [12:0] RED_USED. -/
def XBR_STATUS.RED_USED (d : Nat) : Fld := ⟨XBR_STATUS.off d, 0, 13⟩
/-- XBR_STATUS [28:16] RED_COUNTED. -/
def XBR_STATUS.RED_COUNTED (d : Nat) : Fld := ⟨XBR_STATUS.off d, 16, 13⟩
/-- XBR_STATUS [30:29] MERGES. -/
def XBR_STATUS.MERGES (d : Nat) : Fld := ⟨XBR_STATUS.off d, 29, 2⟩
/-- XBR_STATUS [39:32] MERGE_WAIT. -/
def XBR_STATUS.MERGE_WAIT (d : Nat) : Fld := ⟨XBR_STATUS.off d, 32, 8⟩
/-- Offset of XBR_RED. -/
def XBR_RED.off (d : Nat) : Nat := 0x400000 + 0x100000 * d + 0x8
/-- XBR_RED [31:0] COMBINED. -/
def XBR_RED.COMBINED (d : Nat) : Fld := ⟨XBR_RED.off d, 0, 32⟩
/-- XBR_RED [63:32] PASSED. -/
def XBR_RED.PASSED (d : Nat) : Fld := ⟨XBR_RED.off d, 32, 32⟩
/-- Offset of XBR_MISS. -/
def XBR_MISS.off (d : Nat) : Nat := 0x400000 + 0x100000 * d + 0x10
/-- XBR_MISS [7:0] PENDING. -/
def XBR_MISS.PENDING (d : Nat) : Fld := ⟨XBR_MISS.off d, 0, 8⟩
/-- XBR_MISS [26:16] VECTOR. -/
def XBR_MISS.VECTOR (d : Nat) : Fld := ⟨XBR_MISS.off d, 16, 11⟩
/-- Offset of XBR_SLICE. -/
def XBR_SLICE.off (d : Nat) : Nat := 0x400000 + 0x100000 * d + 0x18
/-- XBR_SLICE [31:0] CE. -/
def XBR_SLICE.CE (d : Nat) : Fld := ⟨XBR_SLICE.off d, 0, 32⟩
/-- XBR_SLICE [47:32] UE. -/
def XBR_SLICE.UE (d : Nat) : Fld := ⟨XBR_SLICE.off d, 32, 16⟩
/-- XBR_SLICE [63:48] POISONED. -/
def XBR_SLICE.POISONED (d : Nat) : Fld := ⟨XBR_SLICE.off d, 48, 16⟩
/-- Offset of XBR_MAINT. -/
def XBR_MAINT.off (d : Nat) : Nat := 0x400000 + 0x100000 * d + 0x20
/-- XBR_MAINT [1:0] CTRL_PREV. -/
def XBR_MAINT.CTRL_PREV (d : Nat) : Fld := ⟨XBR_MAINT.off d, 0, 2⟩
/-- XBR_MAINT [3:2] CTRL_NEXT. -/
def XBR_MAINT.CTRL_NEXT (d : Nat) : Fld := ⟨XBR_MAINT.off d, 2, 2⟩
/-- XBR_MAINT [5:4] BULK_PREV. -/
def XBR_MAINT.BULK_PREV (d : Nat) : Fld := ⟨XBR_MAINT.off d, 4, 2⟩
/-- XBR_MAINT [7:6] BULK_NEXT. -/
def XBR_MAINT.BULK_NEXT (d : Nat) : Fld := ⟨XBR_MAINT.off d, 6, 2⟩
/-- XBR_MAINT [9:8] SYNC_PREV. -/
def XBR_MAINT.SYNC_PREV (d : Nat) : Fld := ⟨XBR_MAINT.off d, 8, 2⟩
/-- XBR_MAINT [11:10] SYNC_NEXT. -/
def XBR_MAINT.SYNC_NEXT (d : Nat) : Fld := ⟨XBR_MAINT.off d, 10, 2⟩
/-- Offset of COR_STATE. -/
def COR_STATE.off (d c : Nat) : Nat := 0x420000 + 0x100000 * d + 0x40 * c + 0x0
/-- COR_STATE [3:0] SVC. -/
def COR_STATE.SVC (d c : Nat) : Fld := ⟨COR_STATE.off d c, 0, 4⟩
/-- COR_STATE [6:4] PWR. -/
def COR_STATE.PWR (d c : Nat) : Fld := ⟨COR_STATE.off d c, 4, 3⟩
/-- COR_STATE [13:8] ASTID. -/
def COR_STATE.ASTID (d c : Nat) : Fld := ⟨COR_STATE.off d c, 8, 6⟩
/-- COR_STATE [14] BOUND. -/
def COR_STATE.BOUND (d c : Nat) : Fld := ⟨COR_STATE.off d c, 14, 1⟩
/-- COR_STATE [31:16] CTX. -/
def COR_STATE.CTX (d c : Nat) : Fld := ⟨COR_STATE.off d c, 16, 16⟩
/-- COR_STATE [37:32] STEP. -/
def COR_STATE.STEP (d c : Nat) : Fld := ⟨COR_STATE.off d c, 32, 6⟩
/-- COR_STATE [55:48] RESETS. -/
def COR_STATE.RESETS (d c : Nat) : Fld := ⟨COR_STATE.off d c, 48, 8⟩
/-- Offset of COR_TILE. -/
def COR_TILE.off (d c : Nat) : Nat := 0x420000 + 0x100000 * d + 0x40 * c + 0x8
/-- COR_TILE [31:0] TILE. -/
def COR_TILE.TILE (d c : Nat) : Fld := ⟨COR_TILE.off d c, 0, 32⟩
/-- COR_TILE [49:32] QUEUE. -/
def COR_TILE.QUEUE (d c : Nat) : Fld := ⟨COR_TILE.off d c, 32, 18⟩
/-- COR_TILE [63:56] REPLAYS. -/
def COR_TILE.REPLAYS (d c : Nat) : Fld := ⟨COR_TILE.off d c, 56, 8⟩
/-- Offset of COR_COST. -/
def COR_COST.off (d c : Nat) : Nat := 0x420000 + 0x100000 * d + 0x40 * c + 0x10
/-- COR_COST [31:0] LAST_MC. -/
def COR_COST.LAST_MC (d c : Nat) : Fld := ⟨COR_COST.off d c, 0, 32⟩
/-- COR_COST [63:32] CY. -/
def COR_COST.CY (d c : Nat) : Fld := ⟨COR_COST.off d c, 32, 32⟩
/-- Offset of COR_COUNTS. -/
def COR_COUNTS.off (d c : Nat) : Nat := 0x420000 + 0x100000 * d + 0x40 * c + 0x18
/-- COR_COUNTS [31:0] TILES. -/
def COR_COUNTS.TILES (d c : Nat) : Fld := ⟨COR_COUNTS.off d c, 0, 32⟩
/-- COR_COUNTS [47:32] OVERRUNS. -/
def COR_COUNTS.OVERRUNS (d c : Nat) : Fld := ⟨COR_COUNTS.off d c, 32, 16⟩
/-- COR_COUNTS [55:48] SPAD_CE. -/
def COR_COUNTS.SPAD_CE (d c : Nat) : Fld := ⟨COR_COUNTS.off d c, 48, 8⟩
/-- COR_COUNTS [63:56] ABORTS. -/
def COR_COUNTS.ABORTS (d c : Nat) : Fld := ⟨COR_COUNTS.off d c, 56, 8⟩
/-- Offset of COR_CFG. -/
def COR_CFG.off (d c : Nat) : Nat := 0x420000 + 0x100000 * d + 0x40 * c + 0x20
/-- COR_CFG [0] EXCLUDE. -/
def COR_CFG.EXCLUDE (d c : Nat) : Fld := ⟨COR_CFG.off d c, 0, 1⟩
/-- Offset of DSP_STATUS. -/
def DSP_STATUS.off (d : Nat) : Nat := 0x440000 + 0x100000 * d + 0x0
/-- DSP_STATUS [5:0] CTX_RES. -/
def DSP_STATUS.CTX_RES (d : Nat) : Fld := ⟨DSP_STATUS.off d, 0, 6⟩
/-- DSP_STATUS [11:6] Q_RES. -/
def DSP_STATUS.Q_RES (d : Nat) : Fld := ⟨DSP_STATUS.off d, 6, 6⟩
/-- DSP_STATUS [16:12] CTX_PINNED. -/
def DSP_STATUS.CTX_PINNED (d : Nat) : Fld := ⟨DSP_STATUS.off d, 12, 5⟩
/-- DSP_STATUS [22:17] Q_PINNED. -/
def DSP_STATUS.Q_PINNED (d : Nat) : Fld := ⟨DSP_STATUS.off d, 17, 6⟩
/-- Offset of DSP_COUNTS. -/
def DSP_COUNTS.off (d : Nat) : Nat := 0x440000 + 0x100000 * d + 0x8
/-- DSP_COUNTS [31:0] DISPATCHED. -/
def DSP_COUNTS.DISPATCHED (d : Nat) : Fld := ⟨DSP_COUNTS.off d, 0, 32⟩
/-- DSP_COUNTS [47:32] REPLAYS. -/
def DSP_COUNTS.REPLAYS (d : Nat) : Fld := ⟨DSP_COUNTS.off d, 32, 16⟩
/-- DSP_COUNTS [63:48] WATCHDOGS. -/
def DSP_COUNTS.WATCHDOGS (d : Nat) : Fld := ⟨DSP_COUNTS.off d, 48, 16⟩
/-- Offset of PMU_STATUS. -/
def PMU_STATUS.off (d : Nat) : Nat := 0x450000 + 0x100000 * d + 0x0
/-- PMU_STATUS [2:0] OP. -/
def PMU_STATUS.OP (d : Nat) : Fld := ⟨PMU_STATUS.off d, 0, 3⟩
/-- PMU_STATUS [3] CHANGING. -/
def PMU_STATUS.CHANGING (d : Nat) : Fld := ⟨PMU_STATUS.off d, 3, 1⟩
/-- PMU_STATUS [5:4] STATE. -/
def PMU_STATUS.STATE (d : Nat) : Fld := ⟨PMU_STATUS.off d, 4, 2⟩
/-- PMU_STATUS [15:8] TJ. -/
def PMU_STATUS.TJ (d : Nat) : Fld := ⟨PMU_STATUS.off d, 8, 8⟩
/-- PMU_STATUS [25:16] VSET. -/
def PMU_STATUS.VSET (d : Nat) : Fld := ⟨PMU_STATUS.off d, 16, 10⟩
/-- PMU_STATUS [26] BRAKED. -/
def PMU_STATUS.BRAKED (d : Nat) : Fld := ⟨PMU_STATUS.off d, 26, 1⟩
/-- PMU_STATUS [31:27] HOLD. -/
def PMU_STATUS.HOLD (d : Nat) : Fld := ⟨PMU_STATUS.off d, 27, 5⟩
/-- PMU_STATUS [63:32] STRETCH. -/
def PMU_STATUS.STRETCH (d : Nat) : Fld := ⟨PMU_STATUS.off d, 32, 32⟩
/-- Offset of PMU_LEAVE. -/
def PMU_LEAVE.off (d : Nat) : Nat := 0x450000 + 0x100000 * d + 0x8
/-- PMU_LEAVE [15:0] SHARE_W. -/
def PMU_LEAVE.SHARE_W (d : Nat) : Fld := ⟨PMU_LEAVE.off d, 0, 16⟩
/-- PMU_LEAVE [31:16] GRANTED_W. -/
def PMU_LEAVE.GRANTED_W (d : Nat) : Fld := ⟨PMU_LEAVE.off d, 16, 16⟩
/-- PMU_LEAVE [47:32] WAITING. -/
def PMU_LEAVE.WAITING (d : Nat) : Fld := ⟨PMU_LEAVE.off d, 32, 16⟩
/-- Offset of PMU_ENERGY. -/
def PMU_ENERGY.off (d : Nat) : Nat := 0x450000 + 0x100000 * d + 0x10
/-- PMU_ENERGY [63:0] RAIL_MJ. -/
def PMU_ENERGY.RAIL_MJ (d : Nat) : Fld := ⟨PMU_ENERGY.off d, 0, 64⟩
/-- Offset of STK_ID. -/
def STK_ID.off (s : Nat) : Nat := 0xC00000 + 0x40000 * s + 0x0
/-- STK_ID [4:0] STACK. -/
def STK_ID.STACK (s : Nat) : Fld := ⟨STK_ID.off s, 0, 5⟩
/-- STK_ID [17:7] LCH_BASE. -/
def STK_ID.LCH_BASE (s : Nat) : Fld := ⟨STK_ID.off s, 7, 11⟩
/-- Offset of STK_STATUS. -/
def STK_STATUS.off (s : Nat) : Nat := 0xC00000 + 0x40000 * s + 0x8
/-- STK_STATUS [7:0] TEMP. -/
def STK_STATUS.TEMP (s : Nat) : Fld := ⟨STK_STATUS.off s, 0, 8⟩
/-- STK_STATUS [10:8] BAND. -/
def STK_STATUS.BAND (s : Nat) : Fld := ⟨STK_STATUS.off s, 8, 3⟩
/-- STK_STATUS [25:16] DELIV. -/
def STK_STATUS.DELIV (s : Nat) : Fld := ⟨STK_STATUS.off s, 16, 10⟩
/-- STK_STATUS [26] COPYING. -/
def STK_STATUS.COPYING (s : Nat) : Fld := ⟨STK_STATUS.off s, 26, 1⟩
/-- Offset of STK_KEYSTAT. -/
def STK_KEYSTAT.off (s : Nat) : Nat := 0xC00000 + 0x40000 * s + 0x10
/-- STK_KEYSTAT [15:0] VALID. -/
def STK_KEYSTAT.VALID (s : Nat) : Fld := ⟨STK_KEYSTAT.off s, 0, 16⟩
/-- STK_KEYSTAT [16] DEV_VALID. -/
def STK_KEYSTAT.DEV_VALID (s : Nat) : Fld := ⟨STK_KEYSTAT.off s, 16, 1⟩
/-- Offset of STK_ECC_CTRL. -/
def STK_ECC_CTRL.off (s : Nat) : Nat := 0xC00000 + 0x40000 * s + 0x18
/-- STK_ECC_CTRL [7:0] ROW_CE_LIMIT. -/
def STK_ECC_CTRL.ROW_CE_LIMIT (s : Nat) : Fld := ⟨STK_ECC_CTRL.off s, 0, 8⟩
/-- STK_ECC_CTRL [23:8] CHAN_CE_LIMIT. -/
def STK_ECC_CTRL.CHAN_CE_LIMIT (s : Nat) : Fld := ⟨STK_ECC_CTRL.off s, 8, 16⟩
/-- STK_ECC_CTRL [31:24] PATROL_H. -/
def STK_ECC_CTRL.PATROL_H (s : Nat) : Fld := ⟨STK_ECC_CTRL.off s, 24, 8⟩
/-- Offset of STK_THERM_CTRL. -/
def STK_THERM_CTRL.off (s : Nat) : Nat := 0xC00000 + 0x40000 * s + 0x20
/-- STK_THERM_CTRL [7:0] T1. -/
def STK_THERM_CTRL.T1 (s : Nat) : Fld := ⟨STK_THERM_CTRL.off s, 0, 8⟩
/-- STK_THERM_CTRL [15:8] T2. -/
def STK_THERM_CTRL.T2 (s : Nat) : Fld := ⟨STK_THERM_CTRL.off s, 8, 8⟩
/-- STK_THERM_CTRL [23:16] T3. -/
def STK_THERM_CTRL.T3 (s : Nat) : Fld := ⟨STK_THERM_CTRL.off s, 16, 8⟩
/-- STK_THERM_CTRL [31:24] T4. -/
def STK_THERM_CTRL.T4 (s : Nat) : Fld := ⟨STK_THERM_CTRL.off s, 24, 8⟩
/-- STK_THERM_CTRL [39:32] TRIP. -/
def STK_THERM_CTRL.TRIP (s : Nat) : Fld := ⟨STK_THERM_CTRL.off s, 32, 8⟩
/-- Offset of STK_ECC_COUNT. -/
def STK_ECC_COUNT.off (s : Nat) : Nat := 0xC00000 + 0x40000 * s + 0x28
/-- STK_ECC_COUNT [31:0] CE. -/
def STK_ECC_COUNT.CE (s : Nat) : Fld := ⟨STK_ECC_COUNT.off s, 0, 32⟩
/-- STK_ECC_COUNT [47:32] UE. -/
def STK_ECC_COUNT.UE (s : Nat) : Fld := ⟨STK_ECC_COUNT.off s, 32, 16⟩
/-- Offset of STK_SPARE. -/
def STK_SPARE.off (s : Nat) : Nat := 0xC00000 + 0x40000 * s + 0x30
/-- STK_SPARE [15:0] ROWS. -/
def STK_SPARE.ROWS (s : Nat) : Fld := ⟨STK_SPARE.off s, 0, 16⟩
/-- STK_SPARE [22:16] BANKS. -/
def STK_SPARE.BANKS (s : Nat) : Fld := ⟨STK_SPARE.off s, 16, 7⟩
/-- STK_SPARE [30:24] LANES. -/
def STK_SPARE.LANES (s : Nat) : Fld := ⟨STK_SPARE.off s, 24, 7⟩
/-- STK_SPARE [33:32] CHANS. -/
def STK_SPARE.CHANS (s : Nat) : Fld := ⟨STK_SPARE.off s, 32, 2⟩
/-- Offset of STK_KGEN0. -/
def STK_KGEN0.off (s : Nat) : Nat := 0xC00000 + 0x40000 * s + 0x38
/-- STK_KGEN0 [63:0] KGEN_LO. -/
def STK_KGEN0.KGEN_LO (s : Nat) : Fld := ⟨STK_KGEN0.off s, 0, 64⟩
/-- Offset of STK_KGEN1. -/
def STK_KGEN1.off (s : Nat) : Nat := 0xC00000 + 0x40000 * s + 0x40
/-- STK_KGEN1 [63:0] KGEN_HI. -/
def STK_KGEN1.KGEN_HI (s : Nat) : Fld := ⟨STK_KGEN1.off s, 0, 64⟩
/-- Offset of TRN_STATUS. -/
def TRN_STATUS.off (s : Nat) : Nat := 0xC10000 + 0x40000 * s + 0x0
/-- TRN_STATUS [18:0] CACHED. -/
def TRN_STATUS.CACHED (s : Nat) : Fld := ⟨TRN_STATUS.off s, 0, 19⟩
/-- TRN_STATUS [34:20] NODES. -/
def TRN_STATUS.NODES (s : Nat) : Fld := ⟨TRN_STATUS.off s, 20, 15⟩
/-- TRN_STATUS [44:36] PENDING. -/
def TRN_STATUS.PENDING (s : Nat) : Fld := ⟨TRN_STATUS.off s, 36, 9⟩
/-- TRN_STATUS [56:48] PURGING. -/
def TRN_STATUS.PURGING (s : Nat) : Fld := ⟨TRN_STATUS.off s, 48, 9⟩
/-- TRN_STATUS [57] CLOSED. -/
def TRN_STATUS.CLOSED (s : Nat) : Fld := ⟨TRN_STATUS.off s, 57, 1⟩
/-- Offset of TRN_HITS. -/
def TRN_HITS.off (s : Nat) : Nat := 0xC10000 + 0x40000 * s + 0x8
/-- TRN_HITS [63:0] HITS. -/
def TRN_HITS.HITS (s : Nat) : Fld := ⟨TRN_HITS.off s, 0, 64⟩
/-- Offset of TRN_MISSES. -/
def TRN_MISSES.off (s : Nat) : Nat := 0xC10000 + 0x40000 * s + 0x10
/-- TRN_MISSES [63:0] MISSES. -/
def TRN_MISSES.MISSES (s : Nat) : Fld := ⟨TRN_MISSES.off s, 0, 64⟩
/-- Offset of TRN_FAULTS. -/
def TRN_FAULTS.off (s : Nat) : Nat := 0xC10000 + 0x40000 * s + 0x18
/-- TRN_FAULTS [31:0] SOFT. -/
def TRN_FAULTS.SOFT (s : Nat) : Fld := ⟨TRN_FAULTS.off s, 0, 32⟩
/-- TRN_FAULTS [63:32] HARD. -/
def TRN_FAULTS.HARD (s : Nat) : Fld := ⟨TRN_FAULTS.off s, 32, 32⟩
/-- Offset of SWP_STATUS. -/
def SWP_STATUS.off (s : Nat) : Nat := 0xC20000 + 0x40000 * s + 0x0
/-- SWP_STATUS [2:0] JOBS. -/
def SWP_STATUS.JOBS (s : Nat) : Fld := ⟨SWP_STATUS.off s, 0, 3⟩
/-- SWP_STATUS [11:4] WAITING. -/
def SWP_STATUS.WAITING (s : Nat) : Fld := ⟨SWP_STATUS.off s, 4, 8⟩
/-- SWP_STATUS [12] STREAMING. -/
def SWP_STATUS.STREAMING (s : Nat) : Fld := ⟨SWP_STATUS.off s, 12, 1⟩
/-- Offset of SWP_BLOCKS. -/
def SWP_BLOCKS.off (s : Nat) : Nat := 0xC20000 + 0x40000 * s + 0x8
/-- SWP_BLOCKS [63:0] BLOCKS. -/
def SWP_BLOCKS.BLOCKS (s : Nat) : Fld := ⟨SWP_BLOCKS.off s, 0, 64⟩
/-- Offset of SWP_POOL. -/
def SWP_POOL.off (s : Nat) : Nat := 0xC20000 + 0x40000 * s + 0x10
/-- SWP_POOL [63:0] POOLBLK. -/
def SWP_POOL.POOLBLK (s : Nat) : Fld := ⟨SWP_POOL.off s, 0, 64⟩
/-- Offset of SWP_BUSY. -/
def SWP_BUSY.off (s : Nat) : Nat := 0xC20000 + 0x40000 * s + 0x18
/-- SWP_BUSY [63:0] CYCLES. -/
def SWP_BUSY.CYCLES (s : Nat) : Fld := ⟨SWP_BUSY.off s, 0, 64⟩
/-- Offset of SWP_HELD. -/
def SWP_HELD.off (s : Nat) : Nat := 0xC20000 + 0x40000 * s + 0x20
/-- SWP_HELD [18:0] HELD. -/
def SWP_HELD.HELD (s : Nat) : Fld := ⟨SWP_HELD.off s, 0, 19⟩
/-- SWP_HELD [47:32] STALLS. -/
def SWP_HELD.STALLS (s : Nat) : Fld := ⟨SWP_HELD.off s, 32, 16⟩
/-- Offset of LCS_POLICY_DOM_A. -/
def LCS_POLICY_DOM_A.off (n : Nat) : Nat := 0x11000 + 0x10 * n
/-- LCS_POLICY_DOM_A [0] EN. -/
def LCS_POLICY_DOM_A.EN (n : Nat) : Fld := ⟨LCS_POLICY_DOM_A.off n, 0, 1⟩
/-- LCS_POLICY_DOM_A [8:1] DPMASK. -/
def LCS_POLICY_DOM_A.DPMASK (n : Nat) : Fld := ⟨LCS_POLICY_DOM_A.off n, 1, 8⟩
/-- LCS_POLICY_DOM_A [12:9] PORTS. -/
def LCS_POLICY_DOM_A.PORTS (n : Nat) : Fld := ⟨LCS_POLICY_DOM_A.off n, 9, 4⟩
/-- LCS_POLICY_DOM_A [13] FORCE_DETACH. -/
def LCS_POLICY_DOM_A.FORCE_DETACH (n : Nat) : Fld := ⟨LCS_POLICY_DOM_A.off n, 13, 1⟩
/-- LCS_POLICY_DOM_A [14] SCRUB_ALWAYS. -/
def LCS_POLICY_DOM_A.SCRUB_ALWAYS (n : Nat) : Fld := ⟨LCS_POLICY_DOM_A.off n, 14, 1⟩
/-- Offset of LCS_POLICY_DOM_B. -/
def LCS_POLICY_DOM_B.off (n : Nat) : Nat := 0x11008 + 0x10 * n
/-- LCS_POLICY_DOM_B [31:0] STACKS. -/
def LCS_POLICY_DOM_B.STACKS (n : Nat) : Fld := ⟨LCS_POLICY_DOM_B.off n, 0, 32⟩
/-- Offset of LCS_POLICY_PORT. -/
def LCS_POLICY_PORT.off (q : Nat) : Nat := 0x11100 + 0x8 * q
/-- LCS_POLICY_PORT [10:0] WMASK. -/
def LCS_POLICY_PORT.WMASK (q : Nat) : Fld := ⟨LCS_POLICY_PORT.off q, 0, 11⟩
/-- LCS_POLICY_PORT [11] DEBUG. -/
def LCS_POLICY_PORT.DEBUG (q : Nat) : Fld := ⟨LCS_POLICY_PORT.off q, 11, 1⟩
/-- Offset of LCS_OWNER_STATE. -/
def LCS_OWNER_STATE.off (row : Nat) : Nat := 0x10240 + 0x80 * row
/-- LCS_OWNER_STATE [0] VALID. -/
def LCS_OWNER_STATE.VALID (row : Nat) : Fld := ⟨LCS_OWNER_STATE.off row, 0, 1⟩
/-- LCS_OWNER_STATE [1] REVOKED. -/
def LCS_OWNER_STATE.REVOKED (row : Nat) : Fld := ⟨LCS_OWNER_STATE.off row, 1, 1⟩
/-- Offset of PWR_OPP_TABLE. -/
def PWR_OPP_TABLE.off (dk : Nat) : Nat := 0x21000 + 0x8 * dk
/-- PWR_OPP_TABLE [9:0] VTEST. -/
def PWR_OPP_TABLE.VTEST (dk : Nat) : Fld := ⟨PWR_OPP_TABLE.off dk, 0, 10⟩
/-- PWR_OPP_TABLE [21:16] AGE. -/
def PWR_OPP_TABLE.AGE (dk : Nat) : Fld := ⟨PWR_OPP_TABLE.off dk, 16, 6⟩
/-- PWR_OPP_TABLE [41:32] VSET. -/
def PWR_OPP_TABLE.VSET (dk : Nat) : Fld := ⟨PWR_OPP_TABLE.off dk, 32, 10⟩
/-- PWR_OPP_TABLE [57:48] VMAX. -/
def PWR_OPP_TABLE.VMAX (dk : Nat) : Fld := ⟨PWR_OPP_TABLE.off dk, 48, 10⟩
/-- PWR_OPP_TABLE [63] AVAIL. -/
def PWR_OPP_TABLE.AVAIL (dk : Nat) : Fld := ⟨PWR_OPP_TABLE.off dk, 63, 1⟩
/-- Offset of ALM_STRESS. -/
def ALM_STRESS.off (i : Nat) : Nat := 0x50020 + 0x8 * i
/-- ALM_STRESS [31:0] STRESS_H. -/
def ALM_STRESS.STRESS_H (i : Nat) : Fld := ⟨ALM_STRESS.off i, 0, 32⟩
/-- Offset of ALM_UNIT_HEALTH. -/
def ALM_UNIT_HEALTH.off (i : Nat) : Nat := 0x51000 + 0x8 * i
/-- ALM_UNIT_HEALTH [2:0] STATE. -/
def ALM_UNIT_HEALTH.STATE (i : Nat) : Fld := ⟨ALM_UNIT_HEALTH.off i, 0, 3⟩
/-- ALM_UNIT_HEALTH [15:8] WEAR. -/
def ALM_UNIT_HEALTH.WEAR (i : Nat) : Fld := ⟨ALM_UNIT_HEALTH.off i, 8, 8⟩
/-- ALM_UNIT_HEALTH [31:16] EVENTS. -/
def ALM_UNIT_HEALTH.EVENTS (i : Nat) : Fld := ⟨ALM_UNIT_HEALTH.off i, 16, 16⟩
/-- ALM_UNIT_HEALTH [47:32] RUL_DAYS. -/
def ALM_UNIT_HEALTH.RUL_DAYS (i : Nat) : Fld := ⟨ALM_UNIT_HEALTH.off i, 32, 16⟩
/-- Offset of ADM_PORTCRED. -/
def ADM_PORTCRED.off (ph : Nat) : Nat := 0x80020 + 0x8 * ph
/-- ADM_PORTCRED [11:0] TOTAL. -/
def ADM_PORTCRED.TOTAL (ph : Nat) : Fld := ⟨ADM_PORTCRED.off ph, 0, 12⟩
/-- ADM_PORTCRED [23:12] GUAR. -/
def ADM_PORTCRED.GUAR (ph : Nat) : Fld := ⟨ADM_PORTCRED.off ph, 12, 12⟩
/-- ADM_PORTCRED [35:24] BE. -/
def ADM_PORTCRED.BE (ph : Nat) : Fld := ⟨ADM_PORTCRED.off ph, 24, 12⟩
/-- Offset of ADM_MEMRES. -/
def ADM_MEMRES.off (ac : Nat) : Nat := 0x81000 + 0x8 * ac
/-- ADM_MEMRES [9:0] RATE. -/
def ADM_MEMRES.RATE (ac : Nat) : Fld := ⟨ADM_MEMRES.off ac, 0, 10⟩
/-- ADM_MEMRES [10] ACTIVE. -/
def ADM_MEMRES.ACTIVE (ac : Nat) : Fld := ⟨ADM_MEMRES.off ac, 10, 1⟩
/-- ADM_MEMRES [28:16] COMMITTED. -/
def ADM_MEMRES.COMMITTED (ac : Nat) : Fld := ⟨ADM_MEMRES.off ac, 16, 13⟩
/-- Offset of ADM_LINKRES. -/
def ADM_LINKRES.off (a : Nat) : Nat := 0x82000 + 0x8 * a
/-- ADM_LINKRES [11:0] L0. -/
def ADM_LINKRES.L0 (a : Nat) : Fld := ⟨ADM_LINKRES.off a, 0, 12⟩
/-- ADM_LINKRES [23:12] L1. -/
def ADM_LINKRES.L1 (a : Nat) : Fld := ⟨ADM_LINKRES.off a, 12, 12⟩
/-- ADM_LINKRES [35:24] L2. -/
def ADM_LINKRES.L2 (a : Nat) : Fld := ⟨ADM_LINKRES.off a, 24, 12⟩
/-- ADM_LINKRES [47:36] L3. -/
def ADM_LINKRES.L3 (a : Nat) : Fld := ⟨ADM_LINKRES.off a, 36, 12⟩
/-- Offset of ADM_AST_BOOK0. -/
def ADM_AST_BOOK0.off (a : Nat) : Nat := 0x83000 + 0x40 * a
/-- ADM_AST_BOOK0 [12:0] COMMITTED. -/
def ADM_AST_BOOK0.COMMITTED (a : Nat) : Fld := ⟨ADM_AST_BOOK0.off a, 0, 13⟩
/-- ADM_AST_BOOK0 [63:32] NEXT_DL_US. -/
def ADM_AST_BOOK0.NEXT_DL_US (a : Nat) : Fld := ⟨ADM_AST_BOOK0.off a, 32, 32⟩
/-- Offset of ADM_AST_BOOK1. -/
def ADM_AST_BOOK1.off (a : Nat) : Nat := 0x83008 + 0x40 * a
/-- ADM_AST_BOOK1 [63:0] ACCEPTED. -/
def ADM_AST_BOOK1.ACCEPTED (a : Nat) : Fld := ⟨ADM_AST_BOOK1.off a, 0, 64⟩
/-- Offset of ADM_AST_BOOK2. -/
def ADM_AST_BOOK2.off (a : Nat) : Nat := 0x83010 + 0x40 * a
/-- ADM_AST_BOOK2 [31:0] REFUSED. -/
def ADM_AST_BOOK2.REFUSED (a : Nat) : Fld := ⟨ADM_AST_BOOK2.off a, 0, 32⟩
/-- ADM_AST_BOOK2 [63:32] SHED. -/
def ADM_AST_BOOK2.SHED (a : Nat) : Fld := ⟨ADM_AST_BOOK2.off a, 32, 32⟩
/-- Offset of ADM_AST_BOOK3. -/
def ADM_AST_BOOK3.off (a : Nat) : Nat := 0x83018 + 0x40 * a
/-- ADM_AST_BOOK3 [31:0] VOIDED. -/
def ADM_AST_BOOK3.VOIDED (a : Nat) : Fld := ⟨ADM_AST_BOOK3.off a, 0, 32⟩
/-- ADM_AST_BOOK3 [63:32] MISSED. -/
def ADM_AST_BOOK3.MISSED (a : Nat) : Fld := ⟨ADM_AST_BOOK3.off a, 32, 32⟩
/-- Offset of ADM_AST_BOOK4. -/
def ADM_AST_BOOK4.off (a : Nat) : Nat := 0x83020 + 0x40 * a
/-- ADM_AST_BOOK4 [31:0] INHERITS. -/
def ADM_AST_BOOK4.INHERITS (a : Nat) : Fld := ⟨ADM_AST_BOOK4.off a, 0, 32⟩
/-- Offset of ADM_CHAN_LIMIT. -/
def ADM_CHAN_LIMIT.off (l : Nat) : Nat := 0x84000 + 0x8 * l
/-- ADM_CHAN_LIMIT [9:0] LIMIT. -/
def ADM_CHAN_LIMIT.LIMIT (l : Nat) : Fld := ⟨ADM_CHAN_LIMIT.off l, 0, 10⟩
/-- ADM_CHAN_LIMIT [26:16] ACTIVE. -/
def ADM_CHAN_LIMIT.ACTIVE (l : Nat) : Fld := ⟨ADM_CHAN_LIMIT.off l, 16, 11⟩
/-- Offset of ADM_CLASS_TABLE. -/
def ADM_CLASS_TABLE.off (l : Nat) : Nat := 0x80100 + 0x8 * l
/-- ADM_CLASS_TABLE [2:0] CLASS. -/
def ADM_CLASS_TABLE.CLASS (l : Nat) : Fld := ⟨ADM_CLASS_TABLE.off l, 0, 3⟩
/-- ADM_CLASS_TABLE [3] VALID. -/
def ADM_CLASS_TABLE.VALID (l : Nat) : Fld := ⟨ADM_CLASS_TABLE.off l, 3, 1⟩
/-- ADM_CLASS_TABLE [7:4] PORTS. -/
def ADM_CLASS_TABLE.PORTS (l : Nat) : Fld := ⟨ADM_CLASS_TABLE.off l, 4, 4⟩
/-- Offset of ADM_CLASS_PARAM_A. -/
def ADM_CLASS_PARAM_A.off (k : Nat) : Nat := 0x80300 + 0x10 * k
/-- ADM_CLASS_PARAM_A [0] GUAR. -/
def ADM_CLASS_PARAM_A.GUAR (k : Nat) : Fld := ⟨ADM_CLASS_PARAM_A.off k, 0, 1⟩
/-- ADM_CLASS_PARAM_A [4:1] BASEPRI. -/
def ADM_CLASS_PARAM_A.BASEPRI (k : Nat) : Fld := ⟨ADM_CLASS_PARAM_A.off k, 1, 4⟩
/-- ADM_CLASS_PARAM_A [19:8] TARGET. -/
def ADM_CLASS_PARAM_A.TARGET (k : Nat) : Fld := ⟨ADM_CLASS_PARAM_A.off k, 8, 12⟩
/-- ADM_CLASS_PARAM_A [43:32] READ_BUDGET. -/
def ADM_CLASS_PARAM_A.READ_BUDGET (k : Nat) : Fld := ⟨ADM_CLASS_PARAM_A.off k, 32, 12⟩
/-- ADM_CLASS_PARAM_A [58:48] WRITE_BUDGET. -/
def ADM_CLASS_PARAM_A.WRITE_BUDGET (k : Nat) : Fld := ⟨ADM_CLASS_PARAM_A.off k, 48, 11⟩
/-- Offset of ADM_CLASS_PARAM_B. -/
def ADM_CLASS_PARAM_B.off (k : Nat) : Nat := 0x80308 + 0x10 * k
/-- ADM_CLASS_PARAM_B [7:0] CHAN_CREDITS. -/
def ADM_CLASS_PARAM_B.CHAN_CREDITS (k : Nat) : Fld := ⟨ADM_CLASS_PARAM_B.off k, 0, 8⟩
/-- ADM_CLASS_PARAM_B [13:8] BE_SHARE. -/
def ADM_CLASS_PARAM_B.BE_SHARE (k : Nat) : Fld := ⟨ADM_CLASS_PARAM_B.off k, 8, 6⟩
/-- Offset of ADM_CLASS_PORT. -/
def ADM_CLASS_PORT.off (q : Nat) : Nat := 0x80380 + 0x8 * q
/-- ADM_CLASS_PORT [5:0] FALLBACK. -/
def ADM_CLASS_PORT.FALLBACK (q : Nat) : Fld := ⟨ADM_CLASS_PORT.off q, 0, 6⟩
/-- ADM_CLASS_PORT [13:8] HOST. -/
def ADM_CLASS_PORT.HOST (q : Nat) : Fld := ⟨ADM_CLASS_PORT.off q, 8, 6⟩
/-- Offset of ADM_CLASS_FB. -/
def ADM_CLASS_FB.off (q : Nat) : Nat := 0x80800 + 0x8 * q
/-- ADM_CLASS_FB [31:0] FALLBACKS. -/
def ADM_CLASS_FB.FALLBACKS (q : Nat) : Fld := ⟨ADM_CLASS_FB.off q, 0, 32⟩
/-- Offset of ADM_CLASS_TABLE_ACT. -/
def ADM_CLASS_TABLE_ACT.off (l : Nat) : Nat := 0x80500 + 0x8 * l
/-- ADM_CLASS_TABLE_ACT [2:0] CLASS. -/
def ADM_CLASS_TABLE_ACT.CLASS (l : Nat) : Fld := ⟨ADM_CLASS_TABLE_ACT.off l, 0, 3⟩
/-- ADM_CLASS_TABLE_ACT [3] VALID. -/
def ADM_CLASS_TABLE_ACT.VALID (l : Nat) : Fld := ⟨ADM_CLASS_TABLE_ACT.off l, 3, 1⟩
/-- ADM_CLASS_TABLE_ACT [7:4] PORTS. -/
def ADM_CLASS_TABLE_ACT.PORTS (l : Nat) : Fld := ⟨ADM_CLASS_TABLE_ACT.off l, 4, 4⟩
/-- Offset of ADM_CLASS_PARAM_A_ACT. -/
def ADM_CLASS_PARAM_A_ACT.off (k : Nat) : Nat := 0x80700 + 0x10 * k
/-- ADM_CLASS_PARAM_A_ACT [0] GUAR. -/
def ADM_CLASS_PARAM_A_ACT.GUAR (k : Nat) : Fld := ⟨ADM_CLASS_PARAM_A_ACT.off k, 0, 1⟩
/-- ADM_CLASS_PARAM_A_ACT [4:1] BASEPRI. -/
def ADM_CLASS_PARAM_A_ACT.BASEPRI (k : Nat) : Fld := ⟨ADM_CLASS_PARAM_A_ACT.off k, 1, 4⟩
/-- ADM_CLASS_PARAM_A_ACT [19:8] TARGET. -/
def ADM_CLASS_PARAM_A_ACT.TARGET (k : Nat) : Fld := ⟨ADM_CLASS_PARAM_A_ACT.off k, 8, 12⟩
/-- ADM_CLASS_PARAM_A_ACT [43:32] READ_BUDGET. -/
def ADM_CLASS_PARAM_A_ACT.READ_BUDGET (k : Nat) : Fld := ⟨ADM_CLASS_PARAM_A_ACT.off k, 32, 12⟩
/-- ADM_CLASS_PARAM_A_ACT [58:48] WRITE_BUDGET. -/
def ADM_CLASS_PARAM_A_ACT.WRITE_BUDGET (k : Nat) : Fld := ⟨ADM_CLASS_PARAM_A_ACT.off k, 48, 11⟩
/-- Offset of ADM_CLASS_PARAM_B_ACT. -/
def ADM_CLASS_PARAM_B_ACT.off (k : Nat) : Nat := 0x80708 + 0x10 * k
/-- ADM_CLASS_PARAM_B_ACT [7:0] CHAN_CREDITS. -/
def ADM_CLASS_PARAM_B_ACT.CHAN_CREDITS (k : Nat) : Fld := ⟨ADM_CLASS_PARAM_B_ACT.off k, 0, 8⟩
/-- ADM_CLASS_PARAM_B_ACT [13:8] BE_SHARE. -/
def ADM_CLASS_PARAM_B_ACT.BE_SHARE (k : Nat) : Fld := ⟨ADM_CLASS_PARAM_B_ACT.off k, 8, 6⟩
/-- Offset of ADM_CLASS_PORT_ACT. -/
def ADM_CLASS_PORT_ACT.off (q : Nat) : Nat := 0x80780 + 0x8 * q
/-- ADM_CLASS_PORT_ACT [5:0] FALLBACK. -/
def ADM_CLASS_PORT_ACT.FALLBACK (q : Nat) : Fld := ⟨ADM_CLASS_PORT_ACT.off q, 0, 6⟩
/-- ADM_CLASS_PORT_ACT [13:8] HOST. -/
def ADM_CLASS_PORT_ACT.HOST (q : Nat) : Fld := ⟨ADM_CLASS_PORT_ACT.off q, 8, 6⟩
/-- Offset of CMP_CHAN_OWNER. -/
def CMP_CHAN_OWNER.off (l : Nat) : Nat := 0xC8000 + 0x8 * l
/-- CMP_CHAN_OWNER [5:0] ASTID. -/
def CMP_CHAN_OWNER.ASTID (l : Nat) : Fld := ⟨CMP_CHAN_OWNER.off l, 0, 6⟩
/-- CMP_CHAN_OWNER [8:6] STATE. -/
def CMP_CHAN_OWNER.STATE (l : Nat) : Fld := ⟨CMP_CHAN_OWNER.off l, 6, 3⟩
/-- CMP_CHAN_OWNER [12:9] LASTDOM. -/
def CMP_CHAN_OWNER.LASTDOM (l : Nat) : Fld := ⟨CMP_CHAN_OWNER.off l, 9, 4⟩
/-- Offset of CMP_SLICE_OWNER. -/
def CMP_SLICE_OWNER.off (l : Nat) : Nat := 0xCA000 + 0x8 * l
/-- CMP_SLICE_OWNER [5:0] ASTID. -/
def CMP_SLICE_OWNER.ASTID (l : Nat) : Fld := ⟨CMP_SLICE_OWNER.off l, 0, 6⟩
/-- CMP_SLICE_OWNER [8:6] STATE. -/
def CMP_SLICE_OWNER.STATE (l : Nat) : Fld := ⟨CMP_SLICE_OWNER.off l, 6, 3⟩
/-- CMP_SLICE_OWNER [12:9] LASTDOM. -/
def CMP_SLICE_OWNER.LASTDOM (l : Nat) : Fld := ⟨CMP_SLICE_OWNER.off l, 9, 4⟩
/-- CMP_SLICE_OWNER [24:16] POSITION. -/
def CMP_SLICE_OWNER.POSITION (l : Nat) : Fld := ⟨CMP_SLICE_OWNER.off l, 16, 9⟩
/-- Offset of CMP_AST_STATE. -/
def CMP_AST_STATE.off (a : Nat) : Nat := 0xC1000 + 0x100 * a
/-- CMP_AST_STATE [2:0] STATE. -/
def CMP_AST_STATE.STATE (a : Nat) : Fld := ⟨CMP_AST_STATE.off a, 0, 3⟩
/-- CMP_AST_STATE [6:3] DOM. -/
def CMP_AST_STATE.DOM (a : Nat) : Fld := ⟨CMP_AST_STATE.off a, 3, 4⟩
/-- CMP_AST_STATE [9:7] HOME. -/
def CMP_AST_STATE.HOME (a : Nat) : Fld := ⟨CMP_AST_STATE.off a, 7, 3⟩
/-- CMP_AST_STATE [10] STAGED. -/
def CMP_AST_STATE.STAGED (a : Nat) : Fld := ⟨CMP_AST_STATE.off a, 10, 1⟩
/-- CMP_AST_STATE [31:16] EPOCH. -/
def CMP_AST_STATE.EPOCH (a : Nat) : Fld := ⟨CMP_AST_STATE.off a, 16, 16⟩
/-- Offset of CMP_AST_COUNTS. -/
def CMP_AST_COUNTS.off (a : Nat) : Nat := 0xC1008 + 0x100 * a
/-- CMP_AST_COUNTS [12:0] CORES. -/
def CMP_AST_COUNTS.CORES (a : Nat) : Fld := ⟨CMP_AST_COUNTS.off a, 0, 13⟩
/-- CMP_AST_COUNTS [23:13] CHANNELS. -/
def CMP_AST_COUNTS.CHANNELS (a : Nat) : Fld := ⟨CMP_AST_COUNTS.off a, 13, 11⟩
/-- CMP_AST_COUNTS [33:24] SLICES. -/
def CMP_AST_COUNTS.SLICES (a : Nat) : Fld := ⟨CMP_AST_COUNTS.off a, 24, 10⟩
/-- Offset of CMP_AST_FUNCS. -/
def CMP_AST_FUNCS.off (a : Nat) : Nat := 0xC1010 + 0x100 * a
/-- CMP_AST_FUNCS [6:0] VF_0. -/
def CMP_AST_FUNCS.VF_0 (a : Nat) : Fld := ⟨CMP_AST_FUNCS.off a, 0, 7⟩
/-- CMP_AST_FUNCS [7] HALF_0. -/
def CMP_AST_FUNCS.HALF_0 (a : Nat) : Fld := ⟨CMP_AST_FUNCS.off a, 7, 1⟩
/-- CMP_AST_FUNCS [14:8] VF_1. -/
def CMP_AST_FUNCS.VF_1 (a : Nat) : Fld := ⟨CMP_AST_FUNCS.off a, 8, 7⟩
/-- CMP_AST_FUNCS [15] HALF_1. -/
def CMP_AST_FUNCS.HALF_1 (a : Nat) : Fld := ⟨CMP_AST_FUNCS.off a, 15, 1⟩
/-- CMP_AST_FUNCS [22:16] VF_2. -/
def CMP_AST_FUNCS.VF_2 (a : Nat) : Fld := ⟨CMP_AST_FUNCS.off a, 16, 7⟩
/-- CMP_AST_FUNCS [23] HALF_2. -/
def CMP_AST_FUNCS.HALF_2 (a : Nat) : Fld := ⟨CMP_AST_FUNCS.off a, 23, 1⟩
/-- CMP_AST_FUNCS [30:24] VF_3. -/
def CMP_AST_FUNCS.VF_3 (a : Nat) : Fld := ⟨CMP_AST_FUNCS.off a, 24, 7⟩
/-- CMP_AST_FUNCS [31] HALF_3. -/
def CMP_AST_FUNCS.HALF_3 (a : Nat) : Fld := ⟨CMP_AST_FUNCS.off a, 31, 1⟩
/-- Offset of CMP_AST_MODE_S. -/
def CMP_AST_MODE_S.off (a : Nat) : Nat := 0xC1018 + 0x100 * a
/-- CMP_AST_MODE_S [15:0] TSLICE_US. -/
def CMP_AST_MODE_S.TSLICE_US (a : Nat) : Fld := ⟨CMP_AST_MODE_S.off a, 0, 16⟩
/-- Offset of CMP_AST_MODE. -/
def CMP_AST_MODE.off (a : Nat) : Nat := 0xC1020 + 0x100 * a
/-- CMP_AST_MODE [15:0] TSLICE_US. -/
def CMP_AST_MODE.TSLICE_US (a : Nat) : Fld := ⟨CMP_AST_MODE.off a, 0, 16⟩
/-- Offset of HIF_QUOTA_A. -/
def HIF_QUOTA_A.off (a : Nat) : Nat := 0x100400 + 0x10 * a
/-- HIF_QUOTA_A [16:0] CTX_LIMIT. -/
def HIF_QUOTA_A.CTX_LIMIT (a : Nat) : Fld := ⟨HIF_QUOTA_A.off a, 0, 17⟩
/-- HIF_QUOTA_A [48:32] QUEUE_LIMIT. -/
def HIF_QUOTA_A.QUEUE_LIMIT (a : Nat) : Fld := ⟨HIF_QUOTA_A.off a, 32, 17⟩
/-- Offset of HIF_QUOTA_B. -/
def HIF_QUOTA_B.off (a : Nat) : Nat := 0x100408 + 0x10 * a
/-- HIF_QUOTA_B [24:0] OBJ_LIMIT. -/
def HIF_QUOTA_B.OBJ_LIMIT (a : Nat) : Fld := ⟨HIF_QUOTA_B.off a, 0, 25⟩
/-- HIF_QUOTA_B [52:32] EVT_LIMIT. -/
def HIF_QUOTA_B.EVT_LIMIT (a : Nat) : Fld := ⟨HIF_QUOTA_B.off a, 32, 21⟩
/-- Offset of CXP_HDM_MAP. -/
def CXP_HDM_MAP.off (p n : Nat) : Nat := 0x180000 + 0x10000 * p + 0x100 + 0x8 * n
/-- CXP_HDM_MAP [6:0] VF. -/
def CXP_HDM_MAP.VF (p n : Nat) : Fld := ⟨CXP_HDM_MAP.off p n, 0, 7⟩
/-- CXP_HDM_MAP [7] HALF. -/
def CXP_HDM_MAP.HALF (p n : Nat) : Fld := ⟨CXP_HDM_MAP.off p n, 7, 1⟩
/-- Offset of CXP_VF_WIN. -/
def CXP_VF_WIN.off (p n : Nat) : Nat := 0x180000 + 0x10000 * p + 0x408 + 0x8 * n
/-- CXP_VF_WIN [0] EN. -/
def CXP_VF_WIN.EN (p n : Nat) : Fld := ⟨CXP_VF_WIN.off p n, 0, 1⟩
/-- CXP_VF_WIN [55:21] DVBASE. -/
def CXP_VF_WIN.DVBASE (p n : Nat) : Fld := ⟨CXP_VF_WIN.off p n, 21, 35⟩
/-- Offset of XBR_CLASS_CNT0. -/
def XBR_CLASS_CNT0.off (d k : Nat) : Nat := 0x400000 + 0x100000 * d + 0x1000 + 0x20 * k
/-- XBR_CLASS_CNT0 [63:0] TXNS. -/
def XBR_CLASS_CNT0.TXNS (d k : Nat) : Fld := ⟨XBR_CLASS_CNT0.off d k, 0, 64⟩
/-- Offset of XBR_CLASS_CNT1. -/
def XBR_CLASS_CNT1.off (d k : Nat) : Nat := 0x400000 + 0x100000 * d + 0x1008 + 0x20 * k
/-- XBR_CLASS_CNT1 [63:0] BYTES. -/
def XBR_CLASS_CNT1.BYTES (d k : Nat) : Fld := ⟨XBR_CLASS_CNT1.off d k, 0, 64⟩
/-- Offset of XBR_CLASS_CNT2. -/
def XBR_CLASS_CNT2.off (d k : Nat) : Nat := 0x400000 + 0x100000 * d + 0x1010 + 0x20 * k
/-- XBR_CLASS_CNT2 [63:0] LATSUM. -/
def XBR_CLASS_CNT2.LATSUM (d k : Nat) : Fld := ⟨XBR_CLASS_CNT2.off d k, 0, 64⟩
/-- Offset of XBR_CLASS_CNT3. -/
def XBR_CLASS_CNT3.off (d k : Nat) : Nat := 0x400000 + 0x100000 * d + 0x1018 + 0x20 * k
/-- XBR_CLASS_CNT3 [15:0] ESC50. -/
def XBR_CLASS_CNT3.ESC50 (d k : Nat) : Fld := ⟨XBR_CLASS_CNT3.off d k, 0, 16⟩
/-- XBR_CLASS_CNT3 [31:16] ESC75. -/
def XBR_CLASS_CNT3.ESC75 (d k : Nat) : Fld := ⟨XBR_CLASS_CNT3.off d k, 16, 16⟩
/-- XBR_CLASS_CNT3 [47:32] ESC90. -/
def XBR_CLASS_CNT3.ESC90 (d k : Nat) : Fld := ⟨XBR_CLASS_CNT3.off d k, 32, 16⟩
/-- XBR_CLASS_CNT3 [63:48] MISSES. -/
def XBR_CLASS_CNT3.MISSES (d k : Nat) : Fld := ⟨XBR_CLASS_CNT3.off d k, 48, 16⟩
/-- Offset of BRG_LINK. -/
def BRG_LINK.off (d j : Nat) : Nat := 0x410000 + 0x100000 * d + 0x0 + 0x8 * j
/-- BRG_LINK [3:0] BRIDGE. -/
def BRG_LINK.BRIDGE (d j : Nat) : Fld := ⟨BRG_LINK.off d j, 0, 4⟩
/-- BRG_LINK [5:4] STATE. -/
def BRG_LINK.STATE (d j : Nat) : Fld := ⟨BRG_LINK.off d j, 4, 2⟩
/-- BRG_LINK [12:8] LANES_OUT. -/
def BRG_LINK.LANES_OUT (d j : Nat) : Fld := ⟨BRG_LINK.off d j, 8, 5⟩
/-- BRG_LINK [17:16] SPARES_OUT. -/
def BRG_LINK.SPARES_OUT (d j : Nat) : Fld := ⟨BRG_LINK.off d j, 16, 2⟩
/-- BRG_LINK [31:20] RATE_OUT. -/
def BRG_LINK.RATE_OUT (d j : Nat) : Fld := ⟨BRG_LINK.off d j, 20, 12⟩
/-- BRG_LINK [63:32] RETRIES. -/
def BRG_LINK.RETRIES (d j : Nat) : Fld := ⟨BRG_LINK.off d j, 32, 32⟩
/-- Offset of BRG_ROUTE. -/
def BRG_ROUTE.off (d e : Nat) : Nat := 0x410000 + 0x100000 * d + 0x100 + 0x8 * e
/-- BRG_ROUTE [1:0] NEXT. -/
def BRG_ROUTE.NEXT (d e : Nat) : Fld := ⟨BRG_ROUTE.off d e, 0, 2⟩
/-- BRG_ROUTE [2] DETOUR. -/
def BRG_ROUTE.DETOUR (d e : Nat) : Fld := ⟨BRG_ROUTE.off d e, 2, 1⟩
/-- BRG_ROUTE [3] UNREACH. -/
def BRG_ROUTE.UNREACH (d e : Nat) : Fld := ⟨BRG_ROUTE.off d e, 3, 1⟩
/-- Offset of STK_SLOT_MAP. -/
def STK_SLOT_MAP.off (s k : Nat) : Nat := 0xC00000 + 0x40000 * s + 0x100 + 0x8 * k
/-- STK_SLOT_MAP [5:0] PHYS. -/
def STK_SLOT_MAP.PHYS (s k : Nat) : Fld := ⟨STK_SLOT_MAP.off s k, 0, 6⟩
/-- STK_SLOT_MAP [7:6] STATE. -/
def STK_SLOT_MAP.STATE (s k : Nat) : Fld := ⟨STK_SLOT_MAP.off s k, 6, 2⟩
/-- STK_SLOT_MAP [13:8] TARGET. -/
def STK_SLOT_MAP.TARGET (s k : Nat) : Fld := ⟨STK_SLOT_MAP.off s k, 8, 6⟩
/-- STK_SLOT_MAP [56:32] COPY_PTR. -/
def STK_SLOT_MAP.COPY_PTR (s k : Nat) : Fld := ⟨STK_SLOT_MAP.off s k, 32, 25⟩
/-- Offset of STK_CHAN_HEALTH. -/
def STK_CHAN_HEALTH.off (s k : Nat) : Nat := 0xC00000 + 0x40000 * s + 0x200 + 0x8 * k
/-- STK_CHAN_HEALTH [15:0] CE_24H. -/
def STK_CHAN_HEALTH.CE_24H (s k : Nat) : Fld := ⟨STK_CHAN_HEALTH.off s k, 0, 16⟩
/-- STK_CHAN_HEALTH [23:16] UE_24H. -/
def STK_CHAN_HEALTH.UE_24H (s k : Nat) : Fld := ⟨STK_CHAN_HEALTH.off s k, 16, 8⟩
/-- STK_CHAN_HEALTH [25:24] BANKS_SPARED. -/
def STK_CHAN_HEALTH.BANKS_SPARED (s k : Nat) : Fld := ⟨STK_CHAN_HEALTH.off s k, 24, 2⟩
/-- STK_CHAN_HEALTH [30:28] PSTATE. -/
def STK_CHAN_HEALTH.PSTATE (s k : Nat) : Fld := ⟨STK_CHAN_HEALTH.off s k, 28, 3⟩
/-- Offset of TRN_QUOTA. -/
def TRN_QUOTA.off (s a : Nat) : Nat := 0xC10000 + 0x40000 * s + 0x100 + 0x8 * a
/-- TRN_QUOTA [15:0] LIMIT. -/
def TRN_QUOTA.LIMIT (s a : Nat) : Fld := ⟨TRN_QUOTA.off s a, 0, 16⟩
/-- TRN_QUOTA [31:16] USED. -/
def TRN_QUOTA.USED (s a : Nat) : Fld := ⟨TRN_QUOTA.off s a, 16, 16⟩

/-! ### Access and reset of every register -/

/-- What a register's table says: block offset, stride and number of instances, the bits that are RW, RWB, W1C and WO
(all others are RO), and the word after reset for block instance i and register instance k. -/
structure RegSpec where
  base : Nat
  stride : Nat
  count : Nat
  rw : Nat
  rwb : Nat
  w1c : Nat
  wo : Nat
  reset : Nat → Nat → Nat

/-- Registers of the MGT block. -/
def regsMgt : List RegSpec :=
  [⟨0x0, 0x8, 1, 0x0, 0x0, 0x0, 0x0, fun _ _ => 0x2051200000⟩,
   ⟨0x8, 0x8, 1, 0x0, 0x0, 0x0, 0x0, fun _ _ => 0x891541081208⟩,
   ⟨0x10, 0x8, 1, 0x0, 0x0, 0x0, 0x0, fun _ _ => 0x0⟩,
   ⟨0x100, 0x8, 1, 0xFFFFFFFFFFFFF001, 0x0, 0x0, 0x0, fun _ _ => 0x0⟩,
   ⟨0x108, 0x8, 1, 0x7FF1F1F, 0x0, 0x0, 0x0, fun _ _ => 0x606⟩,
   ⟨0x110, 0x8, 1, 0xFFFFFFFF, 0x0, 0x0, 0x0, fun _ _ => 0x0⟩,
   ⟨0x118, 0x8, 1, 0xFFFFFFFFFFFFF000, 0x0, 0x0, 0x0, fun _ _ => 0x0⟩,
   ⟨0x120, 0x8, 1, 0x0, 0x0, 0x0, 0x0, fun _ _ => 0x0⟩,
   ⟨0x128, 0x8, 1, 0xFFFFFFFF, 0x0, 0x0, 0x0, fun _ _ => 0x0⟩,
   ⟨0x130, 0x8, 1, 0x0, 0x0, 0x0, 0x0, fun _ _ => 0x0⟩,
   ⟨0x200, 0x8, 1, 0x0, 0x1, 0x0, 0x0, fun _ _ => 0x0⟩,
   ⟨0x300, 0x8, 1, 0x0, 0x0, 0x0, 0x0, fun _ _ => 0x0⟩,
   ⟨0x308, 0x8, 1, 0x0, 0x0, 0x0, 0x0, fun _ _ => 0x0⟩]

/-- Registers of the LCS block. -/
def regsLcs : List RegSpec :=
  [⟨0x0, 0x8, 1, 0x0, 0x0, 0x0, 0x0, fun _ _ => 0x0⟩,
   ⟨0x8, 0x8, 1, 0x7, 0x0, 0x0, 0x8, fun _ _ => 0x0⟩,
   ⟨0x10, 0x8, 1, 0x0, 0x0, 0x0, 0x0, fun _ _ => 0x0⟩,
   ⟨0x1000, 0x10, 16, 0x0, 0x7FFF, 0x0, 0x0, fun _ _ => 0x0⟩,
   ⟨0x1008, 0x10, 16, 0x0, 0xFFFFFFFF, 0x0, 0x0, fun _ _ => 0x0⟩,
   ⟨0x1100, 0x8, 4, 0x0, 0xFFF, 0x0, 0x0, fun _ _ => 0x0⟩,
   ⟨0x240, 0x80, 3, 0x0, 0x0, 0x0, 0x0, fun _ _ => 0x0⟩]

/-- Registers of the PWR block. -/
def regsPwr : List RegSpec :=
  [⟨0x0, 0x8, 1, 0x3FF000000000000, 0x0, 0x0, 0x0, fun _ _ => 0x961D4C1D4C1D4C⟩,
   ⟨0x8, 0x8, 1, 0x0, 0x0, 0x0, 0x0, fun _ _ => 0x0⟩,
   ⟨0x10, 0x8, 1, 0x0, 0xFF, 0x0, 0x0, fun _ _ => 0x8700FA⟩,
   ⟨0x18, 0x8, 1, 0x0, 0xFFFF00000000, 0x0, 0x0, fun _ _ => 0x61800000000⟩,
   ⟨0x20, 0x8, 1, 0x0, 0x0, 0x0, 0x0, fun _ _ => 0x0⟩,
   ⟨0x28, 0x8, 1, 0x0, 0x0, 0x0, 0x0, fun _ _ => 0x0⟩,
   ⟨0x30, 0x8, 1, 0xFF03FF, 0x0, 0x0, 0x0, fun _ _ => 0x1400C8⟩,
   ⟨0x38, 0x8, 1, 0xFFFF0007, 0xFF00000000, 0x0, 0x0, fun _ _ => 0x6401F40007⟩,
   ⟨0x40, 0x8, 1, 0x0, 0x7F, 0x0, 0x0, fun _ _ => 0x28⟩,
   ⟨0x100, 0x8, 1, 0xFF07, 0x0, 0x0, 0x0, fun _ _ => 0x0⟩,
   ⟨0x108, 0x8, 1, 0x0, 0x0, 0x0, 0x0, fun _ _ => 0x0⟩,
   ⟨0x110, 0x8, 1, 0xFFFFFFFFFFFFFF, 0x0, 0x0, 0x0, fun _ _ => 0x0⟩,
   ⟨0x118, 0x8, 1, 0x0, 0x0, 0x0, 0x0, fun _ _ => 0x0⟩,
   ⟨0x120, 0x8, 1, 0x0, 0x0, 0x0, 0x0, fun _ _ => 0x0⟩,
   ⟨0x1000, 0x8, 64, 0x0, 0x0, 0x0, 0x0, fun _ k => 0x8000000000000000 + vtestTypical (k % 8) + ((vtestTypical (k % 8) + 15)) * 2 ^ 32 + (vmax (k % 8)) * 2 ^ 48⟩]

/-- Registers of the CLK block. -/
def regsClk : List RegSpec :=
  [⟨0x0, 0x8, 1, 0x0, 0x0, 0x0, 0x0, fun _ _ => 0x0⟩,
   ⟨0x8, 0x8, 1, 0x0, 0x0, 0x0, 0x0, fun _ _ => 0x0⟩]

/-- Registers of the RAS block. -/
def regsRas : List RegSpec :=
  [⟨0x0, 0x8, 1, 0xFFFFFFFFFFFFFFCF, 0x0, 0x0, 0x0, fun _ _ => 0x0⟩,
   ⟨0x8, 0x8, 1, 0x7FF7F1F, 0x0, 0x0, 0x0, fun _ _ => 0x80A⟩,
   ⟨0x10, 0x8, 1, 0xFFFFFFFF, 0x0, 0x0, 0x0, fun _ _ => 0x0⟩,
   ⟨0x18, 0x8, 1, 0x0, 0x0, 0x0, 0x0, fun _ _ => 0x0⟩,
   ⟨0x20, 0x8, 1, 0x0, 0x0, 0x0, 0x0, fun _ _ => 0x0⟩,
   ⟨0x100, 0x8, 1, 0x0, 0x0, 0x0, 0x3FFFFF000F, fun _ _ => 0x0⟩,
   ⟨0x108, 0x8, 1, 0x0, 0x0, 0x0, 0x0, fun _ _ => 0x0⟩,
   ⟨0x200, 0x8, 1, 0xFFFF3, 0x0, 0x4, 0x0, fun _ _ => 0x1⟩,
   ⟨0x300, 0x8, 1, 0xFFFFFF03, 0x0, 0x0, 0x0, fun _ _ => 0x3E80A03⟩,
   ⟨0x308, 0x8, 1, 0x0, 0x0, 0x0, 0x0, fun _ _ => 0x0⟩]

/-- Registers of the ALM block. -/
def regsAlm : List RegSpec :=
  [⟨0x0, 0x8, 1, 0x0, 0x0, 0x0, 0x0, fun _ _ => 0xFFFF00⟩,
   ⟨0x8, 0x8, 1, 0x1FFFFFFFF, 0x0, 0x0, 0x0, fun _ _ => 0x14002016D⟩,
   ⟨0x10, 0x8, 1, 0x0, 0x0, 0x0, 0x0, fun _ _ => 0x810010820⟩,
   ⟨0x18, 0x8, 1, 0x0, 0x0, 0x0, 0x0, fun _ _ => 0x0⟩,
   ⟨0x20, 0x8, 8, 0x0, 0x0, 0x0, 0x0, fun _ _ => 0x0⟩,
   ⟨0x1000, 0x8, 7063, 0x0, 0x0, 0x0, 0x0, fun _ _ => 0xFFFF00000000⟩]

/-- Registers of the ADM block. -/
def regsAdm : List RegSpec :=
  [⟨0x0, 0x8, 1, 0xFFFFFFFF, 0x0, 0x0, 0x0, fun _ _ => 0x4F4240C⟩,
   ⟨0x8, 0x8, 1, 0x3FF, 0x0, 0x0, 0x0, fun _ _ => 0x352⟩,
   ⟨0x10, 0x8, 1, 0x0, 0x0, 0x0, 0x0, fun _ _ => 0x3027101907D00⟩,
   ⟨0x18, 0x8, 1, 0x0, 0x0, 0x0, 0x0, fun _ _ => 0x0⟩,
   ⟨0x60, 0x8, 1, 0x3FFFFF, 0x0, 0x0, 0x0, fun _ _ => 0x0⟩,
   ⟨0x68, 0x8, 1, 0x0, 0x0, 0x0, 0x0, fun _ _ => 0x40⟩,
   ⟨0x20, 0x8, 8, 0x0, 0x0, 0x0, 0x0, fun _ _ => 0x0⟩,
   ⟨0x1000, 0x8, 512, 0x3FF, 0x0, 0x0, 0x0, fun _ _ => 0x0⟩,
   ⟨0x2000, 0x8, 64, 0xFFFFFFFFFFFF, 0x0, 0x0, 0x0, fun _ _ => 0x40040040040⟩,
   ⟨0x3000, 0x40, 64, 0x0, 0x0, 0x0, 0x0, fun _ _ => 0x0⟩,
   ⟨0x3008, 0x40, 64, 0x0, 0x0, 0x0, 0x0, fun _ _ => 0x0⟩,
   ⟨0x3010, 0x40, 64, 0x0, 0x0, 0x0, 0x0, fun _ _ => 0x0⟩,
   ⟨0x3018, 0x40, 64, 0x0, 0x0, 0x0, 0x0, fun _ _ => 0x0⟩,
   ⟨0x3020, 0x40, 64, 0x0, 0x0, 0x0, 0x0, fun _ _ => 0x0⟩,
   ⟨0x4000, 0x8, 1024, 0x0, 0x0, 0x0, 0x0, fun _ _ => 0x352⟩,
   ⟨0x100, 0x8, 64, 0xFF, 0x0, 0x0, 0x0, fun _ k => 0xF8 + k / 8⟩,
   ⟨0x300, 0x10, 8, 0x7FF0FFF000FFF1F, 0x0, 0x0, 0x0, fun _ k => classGuar k + (classBasePri k) * 2 ^ 1 + (classTarget k) * 2 ^ 8 + (classReads k) * 2 ^ 32 + (classWrites k) * 2 ^ 48⟩,
   ⟨0x308, 0x10, 8, 0x3FFF, 0x0, 0x0, 0x0, fun _ k => classCredits k + (classShare k) * 2 ^ 8⟩,
   ⟨0x380, 0x8, 4, 0x3F3F, 0x0, 0x0, 0x0, fun _ _ => 0x2038⟩,
   ⟨0x800, 0x8, 4, 0x0, 0x0, 0x0, 0x0, fun _ _ => 0x0⟩,
   ⟨0x500, 0x8, 64, 0x0, 0x0, 0x0, 0x0, fun _ k => 0xF8 + k / 8⟩,
   ⟨0x700, 0x10, 8, 0x0, 0x0, 0x0, 0x0, fun _ k => classGuar k + (classBasePri k) * 2 ^ 1 + (classTarget k) * 2 ^ 8 + (classReads k) * 2 ^ 32 + (classWrites k) * 2 ^ 48⟩,
   ⟨0x708, 0x10, 8, 0x0, 0x0, 0x0, 0x0, fun _ k => classCredits k + (classShare k) * 2 ^ 8⟩,
   ⟨0x780, 0x8, 4, 0x0, 0x0, 0x0, 0x0, fun _ _ => 0x2038⟩]

/-- Registers of the CMP block. -/
def regsCmp : List RegSpec :=
  [⟨0x0, 0x8, 1, 0x0, 0x0, 0x0, 0x0, fun _ _ => 0x0⟩,
   ⟨0x8, 0x8, 1, 0x0, 0x0, 0x0, 0x0, fun _ _ => 0x0⟩,
   ⟨0x10, 0x8, 1, 0x0, 0x0, 0x0, 0x0, fun _ _ => 0x0⟩,
   ⟨0x20, 0x8, 1, 0xFF, 0x0, 0x0, 0x0, fun _ _ => 0x40⟩,
   ⟨0x8000, 0x8, 1024, 0x0, 0x0, 0x0, 0x0, fun _ _ => 0x0⟩,
   ⟨0xA000, 0x8, 544, 0x0, 0x0, 0x0, 0x0, fun _ _ => 0x0⟩,
   ⟨0x1000, 0x100, 64, 0x0, 0x0, 0x0, 0x0, fun _ _ => 0x0⟩,
   ⟨0x1008, 0x100, 64, 0x0, 0x0, 0x0, 0x0, fun _ _ => 0x0⟩,
   ⟨0x1010, 0x100, 64, 0x0, 0x0, 0x0, 0x0, fun _ _ => 0x0⟩,
   ⟨0x1018, 0x100, 64, 0xFFFF, 0x0, 0x0, 0x0, fun _ _ => 0x7D0⟩,
   ⟨0x1020, 0x100, 64, 0x0, 0x0, 0x0, 0x0, fun _ _ => 0x7D0⟩]

/-- Registers of the HIF block. -/
def regsHif : List RegSpec :=
  [⟨0x0, 0x8, 1, 0x0, 0x3FFFF, 0x0, 0x0, fun _ _ => 0x0⟩,
   ⟨0x8, 0x8, 1, 0x0, 0x3FFFF, 0x0, 0x0, fun _ _ => 0x400⟩,
   ⟨0x10, 0x8, 1, 0x0, 0x3FFFF, 0x0, 0x0, fun _ _ => 0x1400⟩,
   ⟨0x18, 0x8, 1, 0x0, 0x3FFFF, 0x0, 0x0, fun _ _ => 0x21400⟩,
   ⟨0x100, 0x8, 1, 0xFFFFFFFFFFFFFFC1, 0x0, 0x0, 0x0, fun _ _ => 0x0⟩,
   ⟨0x108, 0x8, 1, 0x1FFFF1F, 0x0, 0x0, 0x0, fun _ _ => 0x6⟩,
   ⟨0x110, 0x8, 1, 0x0, 0x0, 0x0, 0x0, fun _ _ => 0x1000000⟩,
   ⟨0x200, 0x8, 1, 0x0, 0x0, 0x0, 0xFFFFFF, fun _ _ => 0x0⟩,
   ⟨0x208, 0x8, 1, 0x0, 0x0, 0x2, 0x0, fun _ _ => 0x0⟩,
   ⟨0x400, 0x10, 64, 0x1FFFF0001FFFF, 0x0, 0x0, 0x0, fun _ _ => 0x100000000400⟩,
   ⟨0x408, 0x10, 64, 0x1FFFFF01FFFFFF, 0x0, 0x0, 0x0, fun _ _ => 0x400000040000⟩]

/-- Registers of the CXP block. -/
def regsCxp : List RegSpec :=
  [⟨0x0, 0x8, 1, 0x0, 0x0, 0x0, 0x0, fun _ _ => 0x0⟩,
   ⟨0x8, 0x8, 1, 0x10, 0xF, 0x0, 0x0, fun _ _ => 0x1A⟩,
   ⟨0x10, 0x8, 1, 0x0, 0x0, 0x0, 0x0, fun _ _ => 0x0⟩,
   ⟨0x100, 0x8, 32, 0xFF, 0x0, 0x0, 0x0, fun _ _ => 0x0⟩,
   ⟨0x408, 0x8, 128, 0xFFFFFFFFE00001, 0x0, 0x0, 0x0, fun _ _ => 0x0⟩]

/-- Registers of the XBR block. -/
def regsXbr : List RegSpec :=
  [⟨0x0, 0x8, 1, 0x0, 0x0, 0x0, 0x0, fun _ _ => 0x0⟩,
   ⟨0x8, 0x8, 1, 0x0, 0x0, 0x0, 0x0, fun _ _ => 0x0⟩,
   ⟨0x10, 0x8, 1, 0x7FF0000, 0x0, 0xFF, 0x0, fun _ _ => 0x0⟩,
   ⟨0x18, 0x8, 1, 0x0, 0x0, 0x0, 0x0, fun _ _ => 0x0⟩,
   ⟨0x20, 0x8, 1, 0x0, 0x0, 0x0, 0x0, fun _ _ => 0x0⟩,
   ⟨0x1000, 0x20, 8, 0x0, 0x0, 0x0, 0x0, fun _ _ => 0x0⟩,
   ⟨0x1008, 0x20, 8, 0x0, 0x0, 0x0, 0x0, fun _ _ => 0x0⟩,
   ⟨0x1010, 0x20, 8, 0x0, 0x0, 0x0, 0x0, fun _ _ => 0x0⟩,
   ⟨0x1018, 0x20, 8, 0x0, 0x0, 0x0, 0x0, fun _ _ => 0x0⟩]

/-- Registers of the BRG block. -/
def regsBrg : List RegSpec :=
  [⟨0x0, 0x8, 3, 0x0, 0x0, 0x0, 0x0, fun i k => 0x28001E00 + brgBridge i k + ((if brgBridge i k = 15 then 3 else 0)) * 2 ^ 4⟩,
   ⟨0x100, 0x8, 8, 0x0, 0x0, 0x0, 0x0, fun i k => brgNext i k⟩]

/-- Registers of the COR block. -/
def regsCor : List RegSpec :=
  [⟨0x0, 0x8, 1, 0x0, 0x0, 0x0, 0x0, fun _ _ => 0x21⟩,
   ⟨0x8, 0x8, 1, 0x0, 0x0, 0x0, 0x0, fun _ _ => 0x0⟩,
   ⟨0x10, 0x8, 1, 0x0, 0x0, 0x0, 0x0, fun _ _ => 0x0⟩,
   ⟨0x18, 0x8, 1, 0x0, 0x0, 0x0, 0x0, fun _ _ => 0x0⟩,
   ⟨0x20, 0x8, 1, 0x0, 0x1, 0x0, 0x0, fun _ _ => 0x0⟩]

/-- Registers of the DSP block. -/
def regsDsp : List RegSpec :=
  [⟨0x0, 0x8, 1, 0x0, 0x0, 0x0, 0x0, fun _ _ => 0x0⟩,
   ⟨0x8, 0x8, 1, 0x0, 0x0, 0x0, 0x0, fun _ _ => 0x0⟩]

/-- Registers of the PMU block. -/
def regsPmu : List RegSpec :=
  [⟨0x0, 0x8, 1, 0x0, 0x0, 0x0, 0x0, fun _ _ => 0x0⟩,
   ⟨0x8, 0x8, 1, 0x0, 0x0, 0x0, 0x0, fun _ _ => 0x0⟩,
   ⟨0x10, 0x8, 1, 0x0, 0x0, 0x0, 0x0, fun _ _ => 0x0⟩]

/-- Registers of the STK block. -/
def regsStk : List RegSpec :=
  [⟨0x0, 0x8, 1, 0x0, 0x0, 0x0, 0x0, fun i _ => i + (32 * i) * 2 ^ 7⟩,
   ⟨0x8, 0x8, 1, 0x0, 0x0, 0x0, 0x0, fun _ _ => 0x3BB0000⟩,
   ⟨0x10, 0x8, 1, 0x0, 0x0, 0x0, 0x0, fun _ _ => 0x0⟩,
   ⟨0x18, 0x8, 1, 0x0, 0xFFFFFFFF, 0x0, 0x0, fun _ _ => 0x18100003⟩,
   ⟨0x20, 0x8, 1, 0x0, 0xFFFFFFFFFF, 0x0, 0x0, fun _ _ => 0x625F5D5A55⟩,
   ⟨0x28, 0x8, 1, 0x0, 0x0, 0x0, 0x0, fun _ _ => 0x0⟩,
   ⟨0x30, 0x8, 1, 0x0, 0x0, 0x0, 0x0, fun _ _ => 0x0⟩,
   ⟨0x38, 0x8, 1, 0x0, 0x0, 0x0, 0x0, fun _ _ => 0x0⟩,
   ⟨0x40, 0x8, 1, 0x0, 0x0, 0x0, 0x0, fun _ _ => 0x0⟩,
   ⟨0x100, 0x8, 32, 0x0, 0x0, 0x0, 0x0, fun _ k => k⟩,
   ⟨0x200, 0x8, 34, 0x0, 0x0, 0x0, 0x0, fun _ k => ((if k ≤ 31 then 0 else 1)) * 2 ^ 28⟩]

/-- Registers of the TRN block. -/
def regsTrn : List RegSpec :=
  [⟨0x0, 0x8, 1, 0x0, 0x0, 0x0, 0x0, fun _ _ => 0x0⟩,
   ⟨0x8, 0x8, 1, 0x0, 0x0, 0x0, 0x0, fun _ _ => 0x0⟩,
   ⟨0x10, 0x8, 1, 0x0, 0x0, 0x0, 0x0, fun _ _ => 0x0⟩,
   ⟨0x18, 0x8, 1, 0x0, 0x0, 0x0, 0x0, fun _ _ => 0x0⟩,
   ⟨0x100, 0x8, 64, 0x0, 0x0, 0x0, 0x0, fun _ _ => 0x0⟩]

/-- Registers of the SWP block. -/
def regsSwp : List RegSpec :=
  [⟨0x0, 0x8, 1, 0x0, 0x0, 0x0, 0x0, fun _ _ => 0x0⟩,
   ⟨0x8, 0x8, 1, 0x0, 0x0, 0x0, 0x0, fun _ _ => 0x0⟩,
   ⟨0x10, 0x8, 1, 0x0, 0x0, 0x0, 0x0, fun _ _ => 0x0⟩,
   ⟨0x18, 0x8, 1, 0x0, 0x0, 0x0, 0x0, fun _ _ => 0x0⟩,
   ⟨0x20, 0x8, 1, 0x0, 0x0, 0x0, 0x0, fun _ _ => 0x0⟩]

/-- The register of a list that lies at block offset `r`, and its number. -/
def regAt : List RegSpec → Nat → Option (RegSpec × Nat)
  | [], _ => none
  | s :: l, r =>
    if s.base ≤ r ∧ (r - s.base) % s.stride = 0 ∧ (r - s.base) / s.stride < s.count then
      some (s, (r - s.base) / s.stride)
    else regAt l r

/-- Blocks, as WMASK counts them (Table 15-1): the bit that permits the block, whether R546 takes it away in Deep Night
and during a package reset, its register list, the instance and the offset within the block. -/
structure RegPlace where
  bit : Nat
  down : Bool
  regs : List RegSpec
  inst : Nat
  rel : Nat

/-- The block of an offset (Tables 18-1, 18-2); none where no block lies. -/
def regPlace (off : Nat) : Option RegPlace :=
  if off < 0x10000 then some ⟨0, false, regsMgt, 0, off⟩
  else if off < 0x20000 then some ⟨1, false, regsLcs, 0, off - 0x10000⟩
  else if off < 0x30000 then some ⟨2, false, regsPwr, 0, off - 0x20000⟩
  else if off < 0x40000 then some ⟨3, false, regsClk, 0, off - 0x30000⟩
  else if off < 0x50000 then some ⟨4, false, regsRas, 0, off - 0x40000⟩
  else if off < 0x60000 then some ⟨4, false, regsAlm, 0, off - 0x50000⟩
  else if off < 0x80000 then none
  else if off < 0xC0000 then some ⟨5, false, regsAdm, 0, off - 0x80000⟩
  else if off < 0x100000 then some ⟨6, false, regsCmp, 0, off - 0xC0000⟩
  else if off < 0x180000 then some ⟨7, false, regsHif, 0, off - 0x100000⟩
  else if off < 0x1C0000 then some ⟨8, false, regsCxp, (off - 0x180000) / 0x10000, off % 0x10000⟩
  else if off < 0x400000 then none
  else if off < 0xC00000 then
    let d := (off - 0x400000) / 0x100000
    let r := off % 0x100000
    if r < 0x10000 then some ⟨9, true, regsXbr, d, r⟩
    else if r < 0x20000 then some ⟨9, true, regsBrg, d, r - 0x10000⟩
    else if r < 0x2A800 then some ⟨9, true, regsCor, d * 672 + (r - 0x20000) / 0x40, r % 0x40⟩
    else if r < 0x40000 then none
    else if r < 0x50000 then some ⟨9, true, regsDsp, d, r - 0x40000⟩
    else if r < 0x60000 then some ⟨9, true, regsPmu, d, r - 0x50000⟩
    else none
  else if off < 0x1400000 then
    let s := (off - 0xC00000) / 0x40000
    let r := off % 0x40000
    if r < 0x10000 then some ⟨10, false, regsStk, s, r⟩
    else if r < 0x20000 then some ⟨10, true, regsTrn, s, r - 0x10000⟩
    else if r < 0x30000 then some ⟨10, true, regsSwp, s, r - 0x20000⟩
    else none
  else none

/-- The register at an 8-byte-aligned offset, if a chapter lists one there (R541, R551). -/
def regSpec (off : Nat) : Option (RegSpec × Nat × Nat) :=
  (regPlace off).bind fun p => (regAt p.regs p.rel).map fun (s, k) => (s, p.inst, k)

/-- A register's word after reset; a reserved offset reads as zero (R541, R547). -/
def resetWord (off : Nat) : Nat :=
  match regSpec off with
  | some (s, i, k) => s.reset i k % 2 ^ 64
  | none => 0

end Sys2Proof.Machine
end

