-- ==== Sys2Proof/Machine/StateTile.lean ====
section
/-!
DEFINITION. State of the cores: service states, the tile sequencer, streams, scratchpad, accumulators and the
transfer engine (chapters Cores and the Tile Machine, and Transfer Engine and Multi-Dimensional Movement).
-/

namespace Sys2Proof.Machine

/-- Core service states (Table 3-13), in the order of their SVC codes. -/
inductive Svc where
  | excluded | spare | idle | loading | running | stalled | draining | fenced | resetting | failed | retired
  deriving DecidableEq, Repr

/-- SVC code of a service state (Table 3-13). -/
def Svc.code : Svc → Nat
  | .excluded => 0 | .spare => 1 | .idle => 2 | .loading => 3 | .running => 4 | .stalled => 5 | .draining => 6
  | .fenced => 7 | .resetting => 8 | .failed => 9 | .retired => 10

/-- Power states (Table 13-1), in the order of the codes of COR_STATE.PWR. -/
inductive Pwr where
  | run | dusk | night | deepNight | dark
  deriving DecidableEq, Repr

/-- Code of a power state (Table 3-14). -/
def Pwr.code : Pwr → Nat
  | .run => 0 | .dusk => 1 | .night => 2 | .deepNight => 3 | .dark => 4

/-- A transfer descriptor with its extension, as read from the program object (Tables 4-1, 4-2). -/
structure Desc where
  ndim : Nat
  kind : Nat
  elem : Nat
  space : Nat
  base : Nat
  n0 : Nat
  n1 : Nat
  n2 : Nat
  n3 : Nat
  n4 : Nat
  s1 : Int
  s2 : Int
  s3 : Int
  s4 : Int
  idxSpa : Nat
  cntSpa : Nat
  idxLimit : Nat
  segTable : Nat
  nseg : Nat
  deriving DecidableEq, Repr

/-- A segment-table entry the engine has read (Table 4-4; FILL stays in memory). -/
structure Seg where
  sbase : Nat
  cap : Nat
  deriving DecidableEq, Repr

/-- Why a stream is held at its resume point (R130, R198). -/
inductive Hold where
  /-- A soft fault whose presence notice carries this token of this stack. -/
  | soft (stack token : Nat)
  /-- A BLOCKED answer; the context's unblock notice releases it (R198, R200). -/
  | blocked
  /-- A RETRY answer, reissued 16 µs after `at` (R181). -/
  | retry (at_ : Nat)
  /-- A host page-request that waits for its page response (R389). -/
  | host (page : Nat)
  /-- A sweep unit's block whose fault the translation unit or the fault collector has yet to answer (R225). -/
  | asked
  deriving DecidableEq, Repr

/-- An inbound stream (R83 to R88, R130, R131). -/
structure InStream where
  /-- An XIN has been issued on the stream in this tile (R84). -/
  issued : Bool
  /-- XINs issued on the stream and not yet executed: pending starts (R84). -/
  pending : Nat
  /-- The transfer being run, with its memory-side base after AR[OFFREG] × OFFMUL (R79, R109). -/
  desc : Option Desc
  ring : Nat
  win : Nat
  total : Nat
  /-- The next stream byte to request. -/
  next : Nat
  /-- Requests outstanding. -/
  out : Nat
  /-- Bytes that have landed beyond the complete prefix, as (first, length) pieces. -/
  landed : List (Nat × Nat)
  /-- Length in bytes of the complete prefix. -/
  done : Nat
  /-- Delivered, consumed and total chunk counts (Table 3-4). -/
  cc : Nat
  cr : Nat
  t : Nat
  /-- XSTOP or END has stopped the stream (R87). -/
  stopped : Bool
  /-- The resume point, when the stream is held (R130). -/
  resume : Option Nat
  holds : List Hold
  /-- The number of XINs executed on the stream: responses of an earlier run are discarded. -/
  run : Nat
  /-- Segment-table entries read so far, and one being read (R120). -/
  segs : Tbl Seg
  asking : Bool
  deriving DecidableEq, Repr

/-- A write of an outbound stream that has been issued and not yet settled (R115, R130). -/
structure OutPiece where
  xout : Nat
  pos : Nat
  len : Nat
  data : Line
  addr : Nat
  acked : Bool
  /-- To be issued again after a fault (R131). -/
  again : Bool
  deriving DecidableEq, Repr

/-- One XOUT on an outbound stream. -/
structure Xout where
  id : Nat
  desc : Desc
  spa : Nat
  mode : Nat
  total : Nat
  /-- The next stream byte to send. -/
  next : Nat
  /-- Segment-table entries read so far (R120). -/
  segs : Tbl Seg
  /-- A segment-table read or fetch-and-add is outstanding (R120, R121). -/
  asking : Bool
  drops : Nat
  deriving DecidableEq, Repr

/-- An outbound stream (R107, R115, R130, R131). -/
structure OutStream where
  xouts : List Xout
  pieces : List OutPiece
  /-- Outstanding XOUT count (Table 3-4). -/
  count : Nat
  /-- The resume point: an XOUT and a stream byte (R130). -/
  resume : Option (Nat × Nat)
  holds : List Hold
  deriving DecidableEq, Repr

/-- A transfer-engine step issued and not yet executed (R75), with the register values read at issue (R74). -/
structure XStep where
  /-- An XSTOP; its other fields but `stream` are then 0. -/
  stop : Bool
  inbound : Bool
  stream : Nat
  mode : Nat
  win : Nat
  spa : Nat
  desc : Nat
  /-- AR[OFFREG] × OFFMUL. -/
  off : Nat
  /-- The address registers, for the SPAs of the descriptor's extension. -/
  ars : List W32
  step : Nat
  /-- Its number among the tile's issued steps. -/
  nth : Nat
  deriving DecidableEq, Repr

/-- Bytes from an address on; at `accBase` and above, accumulator rows of 64 bytes each. -/
abbrev Span := Nat × Nat

/-- What orders the accesses of a step before the steps that issue later (R75, R78, R84). -/
inductive Ends where
  /-- A FENCE on the unit. -/
  | unit (u : Nat)
  /-- The source bytes of an XOUT on the stream are read: a FENCE on the transfer engine, or an XDRAIN. -/
  | sent (k : Nat)
  /-- XOUT `id` on the stream is acknowledged: an XDRAIN. -/
  | acked (k id : Nat)
  /-- A WAITC on the inbound stream. -/
  | waited (k : Nat)
  deriving DecidableEq, Repr

/-- The accesses of one issued step, while steps may still race with it (R75). -/
structure Touch where
  nth : Nat
  /-- Engines 0 to 3, vector unit 4, transfer engine 5, as FENCE numbers them. -/
  unit : Nat
  reads : List Span
  writes : List Span
  /-- Exception flags that the step was the first to set. -/
  flags : Nat
  ends : Ends
  /-- The number of the step that orders all later ones after it, once there is one. -/
  after : Option Nat
  deriving DecidableEq, Repr

/-- What is known of the order between the units of a tile (R75). -/
structure Order where
  /-- Steps issued so far. -/
  nth : Nat
  log : List Touch
  /-- The highest threshold a WAITC has passed in the stream's run, for each inbound stream. -/
  waited : List Nat
  /-- Bytes of the stream's run that raced and may yet land, for each inbound stream, as positions in the stream. -/
  raced : List (List Span)
  /-- Scratchpad bytes that an outstanding XOUT may yet write and that raced, by XOUT. -/
  out : Tbl (List Span)
  deriving DecidableEq, Repr

/-- Nothing has issued. -/
def Order.init : Order where
  nth := 0
  log := []
  waited := List.replicate 8 0
  raced := List.replicate 8 []
  out := []

/-- Bytes in memory that an XOUT of a tile writes: SPACE, address, length. -/
structure Target where
  space : Nat
  va : Nat
  len : Nat
  deriving DecidableEq, Repr

/-- A matrix engine's ramp (R93): when it last executed an MMA, and the engine cycles it has spent. -/
structure Engine where
  lastMma : Option Nat
  cycles : Nat
  ramps : Nat
  deriving DecidableEq, Repr

/-- What a segment tile of an XFER moves (R129). -/
structure SegJob where
  src : Desc
  dst : Desc
  lo : Nat
  hi : Nat
  mode : Nat
  deriving DecidableEq, Repr

/-- Who a tile runs for: what its requests carry (R23, R106) and what it reports to (R27). -/
structure TileOwner where
  /-- The command in flight (its identifier in `Adm.cmds`). -/
  cmd : Nat
  /-- The tile's number t within the command. -/
  t : Nat
  ast : Nat
  dom : Nat
  ctx : Nat
  queue : Nat
  /-- Service class of its requests. -/
  cls : Nat
  /-- A guaranteed-class command. -/
  guar : Bool
  replay : Bool
  dcost : Nat
  progObj : Nat
  progOff : Nat
  progLen : Nat
  deriving DecidableEq, Repr

/-- The tile on a core (Table 3-4, R72), its transfer engine and what the dispatcher keeps of it. -/
structure Tile where
  own : TileOwner
  prog : List StepWord
  seg : Option SegJob
  /-- Index of the next step to issue. -/
  step : Nat
  ar : List W32
  lc : List W32
  ins : List InStream
  outs : List OutStream
  xq : List XStep
  flags : Nat
  /-- Seeds of the stochastic-rounding generators (R48). -/
  seed : Nat
  spad : Tbl Byte
  /-- Scratchpad lines with their written bit set (R62). -/
  written : List Nat
  /-- Accumulators of engine e: key e × 4096 + row × 16 + column. -/
  acc : Tbl Nat
  /-- Accumulator rows with their valid bit set: e × 256 + row (R62). -/
  valid : List Nat
  engines : List Engine
  cy : Nat
  /-- Watchdog count and stalled time in ticks of 320 ns (R92, R133), stalled cycles (Table 3-5). -/
  wdTicks : Nat
  stallTicks : Nat
  stallCycles : Nat
  /-- END has issued (R86). -/
  ended : Bool
  /-- A step holds issue, waiting on a faulted stream (R132). -/
  held : Bool
  replays : Nat
  /-- Link credits granted and in use, per port (R124, R125). -/
  credits : List Nat
  used : List Nat
  /-- Leave held (R425, R426), in milliwatts. -/
  leave : Nat
  /-- The booking the leave was drawn from (R428). -/
  booking : Option Nat
  /-- Kept stalled after the allowance was spent, until the driver resumes the context (R133). -/
  retained : Bool
  /-- XOUTs executed so far: identifies them. -/
  xouts : Nat
  /-- Requests held back by the link-credit wait or sent: activity measured for energy (R435). -/
  activity : Nat
  /-- The order between its units (R75). -/
  order : Order
  /-- Where its XOUTs have written so far (R96). -/
  sent : List Target
  deriving DecidableEq, Repr

/-- Cause of a core reset (R102, Table 3-17: detail of 0x0106). -/
inductive ResetCause where
  | watchdog | spadUe | parity | sparSwap | resetCtrl | recovery | service
  deriving DecidableEq, Repr

/-- Code of a reset cause in the detail of 0x0106. -/
def ResetCause.code : ResetCause → Nat
  | .watchdog => 0 | .spadUe => 1 | .parity => 2 | .sparSwap => 3 | .resetCtrl => 4 | .recovery => 5 | .service => 6

/-- One physical core (R99 to R103). -/
structure Core where
  svc : Svc
  pwr : Pwr
  /-- The asterism that holds the core (COR_STATE.ASTID, BOUND). -/
  bound : Option Nat
  tile : Option Tile
  /-- The port gate on the base die is closed (R12). -/
  gate : Bool
  exclude : Bool
  resets : Nat
  lastMc : Nat
  tiles : Nat
  overruns : Nat
  spadCe : Nat
  aborts : Nat
  /-- Time the core entered Dusk (R407). -/
  duskAt : Nat
  /-- Held idle in Dusk by the cap's held fraction (R433). -/
  capHeld : Bool
  /-- Trigger time and cause of a reset under way (R102, R103). -/
  resetAt : Option Nat
  resetCause : ResetCause
  /-- A tile has been sent and waits for the core to leave Night (R407). -/
  waking : Bool
  /-- Leave kept for the next tile of a command (R426): command, milliwatts, booking. -/
  kept : Option (Nat × Nat × Option Nat)
  deriving DecidableEq, Repr

/-- A core after package reset (Tables 3-14, 3-15): a spare in Night, bound to nothing. -/
def Core.reset : Core where
  svc := .spare
  pwr := .night
  bound := none
  tile := none
  gate := false
  exclude := false
  resets := 0
  lastMc := 0
  tiles := 0
  overruns := 0
  spadCe := 0
  aborts := 0
  duskAt := 0
  capHeld := false
  resetAt := none
  resetCause := .watchdog
  waking := false
  kept := none

/-- An inbound stream at tile start (Table 3-4). -/
def InStream.init : InStream where
  issued := false
  pending := 0
  desc := none
  ring := 0
  win := 0
  total := 0
  next := 0
  out := 0
  landed := []
  done := 0
  cc := 0
  cr := 0
  t := 0
  stopped := false
  resume := none
  holds := []
  run := 0
  segs := []
  asking := false

/-- An outbound stream at tile start (Table 3-4). -/
def OutStream.init : OutStream where
  xouts := []
  pieces := []
  count := 0
  resume := none
  holds := []

/-- A matrix engine at tile start. -/
def Engine.init : Engine where
  lastMma := none
  cycles := 0
  ramps := 0

end Sys2Proof.Machine
end

