-- ==== Sys2Proof/Machine/StateMem.lean ====
section
/-!
DEFINITION. State of the memory stacks, their translation units, the shared slices and the messages that travel
between units (chapters Memory Stacks, Translation, Crossbar).
-/

namespace Sys2Proof.Machine

/-! ### Stored granules -/

/-- One granule as a stack stores it (Table 5-3).  The data is held in the clear together with the identity `key` of
the key it was encrypted under; reading it under another key gives a free value. -/
structure Gran where
  data : Line
  dom : Nat
  clr : Bool
  poison : Bool
  dev : Bool
  kgen : Nat
  key : Nat
  deriving DecidableEq, Repr

/-- A cleared granule: what a scrub leaves (R153), and what an unlisted granule is. -/
def Gran.cleared : Gran where
  data := 0
  dom := 0
  clr := true
  poison := false
  dev := false
  kgen := 0
  key := 0

/-- A granule of a channel whose data was lost (R160, R289). -/
def Gran.lost : Gran := { Gran.cleared with poison := true }

/-- The granules of all physical channels: key = physical channel (0 to 1,087) × 2^25 + G (R139), in canonical form
over `Gran.cleared`, or `Gran.lost` in a lost range. -/
abbrev Memory := Tbl Gran

/-- One granule of a shared slice (R233). -/
structure SliceGran where
  data : Line
  poison : Bool
  deriving DecidableEq, Repr

/-- A scrubbed slice granule (R236). -/
def SliceGran.zero : SliceGran where
  data := 0
  poison := false

/-- The granules of all physical slices: key = slice (0 to 543) × 2^16 + granule, canonical over `SliceGran.zero`. -/
abbrev SliceMem := Tbl SliceGran

/-! ### Translation -/

/-- A translation entry (Table 6-2). -/
structure TEntry where
  p : Bool
  ps : Bool
  rd : Bool
  wr : Bool
  hw : Bool
  shr : Bool
  pool : Bool
  dirty : Bool
  ast : Nat
  dom : Nat
  ctx : Nat
  share : Nat
  frame : Nat
  pidx : Nat
  pgen : Nat
  ppn : Nat
  deriving DecidableEq, Repr

/-- The tags and the route of a request (R23, R168): what it carries besides its address. -/
structure Tags where
  ast : Nat
  dom : Nat
  ctx : Nat
  cls : Nat
  epoch : Nat
  /-- A host-window request: no context tag, HW needed (R178). -/
  host : Bool
  deriving DecidableEq, Repr

/-- Who issued a request and where its answer goes. -/
inductive Agent where
  /-- A core's transfer engine: core, inbound or outbound, stream, run or XOUT, stream byte, length. -/
  | engine (core : Nat) (inb : Bool) (stream run pos len : Nat)
  /-- A core's segment-table read or fetch-and-add for a row of a stream (R120, R121). -/
  | alloc (core : Nat) (inb : Bool) (stream run row seg : Nat)
  /-- A host window access through a virtual function, or a read the device makes for one of its commands. -/
  | window (fn : Nat)
  /-- A crossbar's onward add: die pair and entry number (R246, R247). -/
  | reducer (dp entry : Nat)
  /-- The sweep distributor or a sweep unit writing a partial. -/
  | sweep (job stack : Nat)
  deriving DecidableEq, Repr

/-- Access kinds of a request, as Table 6-8's ACC needs them. -/
inductive Acc where
  | read | write | masked | add | fetchAdd | sweepRead
  deriving DecidableEq, Repr

/-- Where a request is routed. -/
inductive Dest where
  /-- Logical channel L with region number and share index r (R168). -/
  | chan (l region r : Nat)
  /-- Physical slice and granule (R234). -/
  | slice (s g : Nat)
  /-- Host address through a link, port × 2 + half (R388). -/
  | host (link addr : Nat)
  deriving DecidableEq, Repr

/-- One request in the network (R106, R231). -/
structure Req where
  who : Agent
  acc : Acc
  va : Nat
  tags : Tags
  dest : Dest
  data : Line
  /-- Byte mask of a write, element bytes of an add. -/
  mask : Nat
  /-- MODE 2: the crossbar the request reaches next and is combined at (R245), if it has one still to cross. -/
  hop : Option Nat
  guar : Bool
  born : Nat
  /-- Escalation steps taken (R258). -/
  esc : Nat
  queue : Nat
  slot : Nat
  deriving DecidableEq, Repr

/-- How a request was answered. -/
inductive Status where
  | ok
  /-- Soft fault with the token of R180. -/
  | soft (stack token : Nat)
  | retry
  | hard (code : Nat)
  /-- The collector's BLOCKED answer (R198). -/
  | blocked
  /-- A poisoned slice granule (R237). -/
  | poison
  /-- Completed by the crossbar because the core was fenced (R102). -/
  | fenced
  /-- The page lies in host memory: reissue there through a link (R388). -/
  | redirect (link addr : Nat)
  deriving DecidableEq, Repr

/-- An answer in the network. -/
structure Resp where
  req : Req
  status : Status
  data : Line
  deriving DecidableEq, Repr

/-- Control messages of virtual channel 2, the sync network and the control network (R249, Table 8-2). -/
inductive Note where
  | presence (stack token : Nat)
  | gone (stack token : Nat)
  | reset (stack : Nat)
  | unblock (ctx : Nat)
  | inval (id stack : Nat)
  | invAck (id stack : Nat)
  | adopt (dp epoch : Nat)
  | arrival (barrier dp : Nat)
  | release (barrier wave dp : Nat)
  | releaseAck (barrier wave dp : Nat)
  | flag (dp event : Nat)
  | maxima (job stack : Nat)
  | mm (job stack : Nat)
  | merge (job stack : Nat)
  | modeAck (unit : Nat)
  | deliverable (stack dp : Nat)
  | bridgeRate (bridge dp : Nat)
  deriving DecidableEq, Repr

/-- A pending page of a translation unit (R180). -/
structure Pend where
  ast : Nat
  /-- The page's key (asterism and page number) in the stack's tables. -/
  page : Nat
  count : Nat
  /-- The pull of a pool-backed page: units of 256 bytes of the page still to come (R182, R399). -/
  pull : Option (List Nat)
  /-- The page's record was written or held; a BLOCKED answer takes this back (R180, R198). -/
  reported : Bool
  /-- Requests answered with the token, which a pull's error makes hard faults (R182). -/
  waiting : List Req
  deriving DecidableEq, Repr

/-- A request waiting for a table walk (R174). -/
structure Walk where
  req : Req
  at_ : Nat
  deriving DecidableEq, Repr

/-- A bank or channel copy (R158). -/
inductive CopyKind where
  | bank (chan bank : Nat)
  | channel (slot : Nat)
  deriving DecidableEq, Repr

/-- The copy running in a stack: what, its target and its pointer P. -/
structure Copy where
  kind : CopyKind
  target : Nat
  ptr : Nat
  deriving DecidableEq, Repr

/-- A request counted for a rate-limited record: time of the last record and faults since (R145, R165). -/
structure Rate where
  last : Nat
  since : Nat
  deriving DecidableEq, Repr

/-- One stack's logic die beyond its registers. -/
structure Stack where
  /-- Translation entries: key = ASTID × 2^40 + VA[55:16] of the page's first 64 KiB. -/
  table : Tbl TEntry
  /-- Cached entries (R172), same keys. -/
  cache : Tbl TEntry
  walks : List Walk
  pend : Tbl Pend
  /-- Context tags being purged, as (ASTID, CTX) (R190). -/
  purge : List (Nat × Nat)
  /-- Asterisms the stack is closed to (R194). -/
  closed : List Nat
  /-- Requests held back by an access still waiting for a back-invalidation (R387). -/
  biWait : List Req
  /-- Granules a host has read through its window with ownership, oldest first: granule key and function (R387). -/
  biFilter : List (Nat × Nat)
  /-- Key identities of the 16 domain slots and, at 16, the device slot (R150). -/
  keys : Tbl Nat
  /-- Row activations in the present refresh interval: row keys (R148). -/
  acts : Tbl Nat
  /-- Neighbour rows refreshed by targeted refresh (R148). -/
  refreshed : Nat
  /-- Corrections per row in 24 h (row history, R145). -/
  rowCe : Tbl Nat
  /-- Redirected rows: row key to spare row number (R139, R157). -/
  rowMap : Tbl Nat
  /-- Spare rows used per bank: channel × 128 + bank. -/
  rowsUsed : Tbl Nat
  /-- Row-repair triggers that found no spare row, and uncorrectable errors in 24 h, per bank (Table 5-5). -/
  noSpare : Tbl Nat
  bankUe : Tbl Nat
  /-- Redirected banks: channel × 128 + bank to spare bank (64 or 65). -/
  bankMap : Tbl Nat
  copy : Option Copy
  waiting : List CopyKind
  /-- Patrol pointer (R147): the granule key read next. -/
  patrol : Nat
  /-- Rate limits: 0x0201 per channel, 0x0208 to 0x020C per code × 64 + ASTID. -/
  rates : Tbl Rate
  /-- Rows in which an uncorrectable error was found and that are not yet spared (Table 5-5). -/
  rowBad : List Nat
  /-- The input to the package thermal-trip path (R156). -/
  trips : Bool
  /-- Held requests while the logic die resets (R453). -/
  ingress : Bool
  deriving DecidableEq, Repr

/-- A stack after package reset. -/
def Stack.reset : Stack where
  table := []
  cache := []
  walks := []
  pend := []
  purge := []
  closed := []
  biWait := []
  biFilter := []
  keys := []
  acts := []
  refreshed := 0
  rowCe := []
  rowMap := []
  rowsUsed := []
  noSpare := []
  bankUe := []
  bankMap := []
  copy := none
  waiting := []
  patrol := 0
  rates := []
  rowBad := []
  trips := false
  ingress := true

/-! ### Faults -/

/-- A fault record (Table 6-8), with the ring it goes to. -/
structure FaultRec where
  va : Nat
  count : Nat
  ctx : Nat
  ast : Nat
  dom : Nat
  fcode : Nat
  unit : Nat
  acc : Nat
  soft : Bool
  pull : Bool
  held : Bool
  blocked : Bool
  stream : Nat
  epoch : Nat
  src : Nat
  queue : Nat
  slot : Nat
  /-- The ring: a function number, or none for the management fault ring (R196, R202). -/
  ring : Option Nat
  /-- A device agent's record, which names no asterism (R202). -/
  device : Bool
  deriving DecidableEq, Repr

/-- A record on its way to the fault collector, with the request it is for (answered BLOCKED when the share is full)
and the answer it gets otherwise; a read the device makes for itself has no request that waits. -/
structure FaultMsg where
  fr : FaultRec
  req : Option Req
  status : Status
  deriving DecidableEq, Repr

/-- An invalidation (R192). -/
structure Inval where
  id : Nat
  ast : Nat
  /-- Context scope, or a range of 64 KiB page numbers, or the whole asterism. -/
  ctx : Option Nat
  lo : Nat
  hi : Nat
  /-- Stacks that have not acknowledged. -/
  wait : List Nat
  at_ : Nat
  /-- The command in flight that waits, if any; none for a doorbell. -/
  cmd : Option Nat
  doorbell : Bool
  /-- Stacks that timed out (R194). -/
  late : List Nat
  deriving DecidableEq, Repr

/-! ### Interconnect -/

/-- A combining entry of a crossbar's reduction store (R246, R247). -/
structure RedEntry where
  id : Nat
  req : Req
  parts : List Req
  at_ : Nat
  /-- Sent onward and waiting for its acknowledgement. -/
  sent : Bool
  deriving DecidableEq, Repr

/-- A die bridge (R238, R239): serving lanes and spares in use, low-to-high and back, and flit replays. -/
structure Bridge where
  lanesUp : Nat
  lanesDn : Nat
  sparesUp : Nat
  sparesDn : Nat
  down : Bool
  retriesUp : Nat
  retriesDn : Nat
  deriving DecidableEq, Repr

/-- A bridge after training. -/
def Bridge.reset : Bridge where
  lanesUp := 30
  lanesDn := 30
  sparesUp := 0
  sparesDn := 0
  down := false
  retriesUp := 0
  retriesDn := 0

/-- A release not yet acknowledged (R251). -/
structure Unacked where
  wave : Nat
  dp : Nat
  at_ : Nat
  tries : Nat
  deriving DecidableEq, Repr

/-- A barrier group (R250, R326, R429). -/
structure Barrier where
  id : Nat
  cmd : Nat
  ast : Nat
  ctx : Nat
  queue : Nat
  home : Nat
  /-- Die pairs that have not sent their arrival, and those whose arrival has not reached the controller. -/
  toSend : List Nat
  waitArr : List Nat
  /-- Following commands still to be admitted under the barrier. -/
  left : Nat
  /-- The plan: cores per die pair for each wave, and Δ in ns. -/
  waves : List (List Nat)
  delta : Nat
  planned : Bool
  sent : Nat
  lastAt : Nat
  unacked : List Unacked
  span : Nat
  deriving DecidableEq, Repr

/-- Releases a dispatcher has acted on: barrier, wave, die pair (R251). -/
structure Network where
  reqs : List Req
  resps : List Resp
  notes : List Note
  faults : List FaultMsg
  /-- Reduction stores of the eight crossbars: key = die pair. -/
  red : Tbl (List RedEntry)
  redId : Nat
  bridges : Tbl Bridge
  barriers : List Barrier
  barrierId : Nat
  acted : List (Nat × Nat × Nat)
  /-- Tiles a barrier's released waves may still start: (barrier, die pair, cores). -/
  wave : List (Nat × Nat × Nat)
  /-- Broken maintenance-ring links: network (0 control, 1 bulk, 2 sync) and link 0 to 7 (R254, R255). -/
  broken : List (Nat × Nat)
  invals : List Inval
  invId : Nat
  /-- Counted merges holding entries, and waiting, per home die pair: sweep job ids (R248). -/
  merges : Tbl (List Nat)
  mergeWait : Tbl (List Nat)
  /-- Misses since the last 0x0405: key = die pair × 8 + class; last record time, count, largest AGE (R261). -/
  misses : Tbl (Nat × Nat × Nat)
  /-- Slice correction records: last record time and count per slice (R237). -/
  sliceCe : Tbl Rate
  deriving DecidableEq, Repr

/-- The networks after package reset: nothing in flight. -/
def Network.reset : Network where
  reqs := []
  resps := []
  notes := []
  faults := []
  red := []
  redId := 0
  bridges := []
  barriers := []
  barrierId := 0
  acted := []
  wave := []
  broken := []
  invals := []
  invId := 0
  merges := []
  mergeWait := []
  misses := []
  sliceCe := []

/-! ### Attention sweep -/

/-- One row's running partial (R216): m, l, o as FP32 encodings. -/
structure SweepRow where
  m : Nat
  l : Nat
  o : List Nat
  deriving DecidableEq, Repr

/-- A grant: head, block number and address, with the epoch it was routed under (R215). -/
structure Grant where
  head : Nat
  blk : Nat
  va : Nat
  epoch : Nat
  hold : Option Hold
  deriving DecidableEq, Repr

/-- One stack's part of a sweep (R206, R215, R216). -/
structure SweepPart where
  stack : Nat
  /-- The stack has taken the job; otherwise it waits in arrival order (R206). -/
  active : Bool
  queue : List Grant
  aside : List Grant
  /-- Grants being streamed from a pool (R223), and the staging buffer: granules by head × 2^46 + block × 64 + line. -/
  stream : List Grant
  staging : Tbl Line
  rows : List SweepRow
  blocks : Nat
  poolBlk : Nat
  faults : Nat
  /-- Row maxima sent; mm received (R221). -/
  maxSent : Bool
  gotMm : Bool
  deriving DecidableEq, Repr

/-- Where a sweep stands (R215, R221). -/
inductive SweepPhase where
  | granting | merging | writing | over
  deriving DecidableEq, Repr

/-- A SWEEP command in work at its distributor. -/
structure SweepJob where
  cmd : Nat
  tags : Tags
  home : Nat
  /-- The command's slot (Table 7-2). -/
  slot : Line
  /-- Query rows as read, one list of bytes per row in head-major order. -/
  query : List (List Byte)
  queried : Bool
  head : Nat
  blk : Nat
  phase : SweepPhase
  parts : List SweepPart
  /-- Row maxima mm once selected. -/
  mm : List Nat
  /-- Contributions received at the counted entries. -/
  merged : List Nat
  sums : List SweepRow
  split : Bool
  stallTicks : Nat
  voided : Bool
  deriving DecidableEq, Repr

end Sys2Proof.Machine
end

