-- ==== Sys2Proof/Machine/StateHost.lean ====
section
/-!
DEFINITION. State of the composition (chapter Asterisms), of the host interface (chapter Queues, Objects and the
Driver's Duties) and of the commands in flight (chapter Admission and the Time Guarantee).
-/

namespace Sys2Proof.Machine

/-! ### Composition -/

/-- Asterism states (Table 9-1), in the order of their codes. -/
inductive AstState where
  | free | composing | active | quiescing | quiesced | dissolving | resetting
  deriving DecidableEq, Repr

/-- STATE code (Table 9-1). -/
def AstState.code : AstState → Nat
  | .free => 0 | .composing => 1 | .active => 2 | .quiescing => 3 | .quiesced => 4 | .dissolving => 5
  | .resetting => 6

/-- A valid interleave region (Table 6-1): base and size in bytes, channel count, first list entry, page size. -/
structure Region where
  vbase : Nat
  size : Nat
  n : Nat
  loff : Nat
  ps : Bool
  deriving DecidableEq, Repr

/-- A move of a list entry (R284): target channel, RELEASE, and the command that started it. -/
structure MoveEnt where
  target : Nat
  release : Bool
  deriving DecidableEq, Repr

/-- A composition map (Table 9-2).  Cores are physical (d × 672 + c), channels logical, slices physical in window
order; `list` holds the channel list entries (unlisted: 0). -/
structure CMap where
  dom : Nat
  home : Nat
  cores : List Nat
  chans : List Nat
  slices : List Nat
  regions : Tbl Region
  list : Tbl Nat
  moves : Tbl MoveEnt
  /-- Units staged to be scrubbed at release (Table 9-5, SCRUB): 8192 + channel, and 16384 + slice. -/
  scrub : List Nat
  deriving DecidableEq, Repr

/-- The map of an asterism just created. -/
def CMap.empty (dom home : Nat) : CMap where
  dom := dom
  home := home
  cores := []
  chans := []
  slices := []
  regions := []
  list := []
  moves := []
  scrub := []

/-- The eight metering counters (Table 9-12). -/
structure Meters where
  coreBound : Nat
  chanBound : Nat
  sliceBound : Nat
  funcBound : Nat
  coreBusy : Nat
  energy : Nat
  commands : Nat
  granules : Nat
  deriving DecidableEq, Repr

/-- One asterism. -/
structure Ast where
  state : AstState
  /-- Maps of the current and of the previous epoch (R269). -/
  cur : Option CMap
  prev : Option CMap
  staged : CMap
  /-- Epoch of the publication that last changed it. -/
  epoch : Nat
  /-- Attached virtual function (1 to 64; 0 none) and half, per port. -/
  funcs : List (Nat × Bool)
  meters : Meters
  /-- Measured ticks not yet summed by firmware (R302). -/
  pendMeters : Meters
  /-- The waiting QUIESCE: management command and deadline (0 for none) (R296). -/
  quiesce : Option (Nat × Nat)
  /-- Dispatch paused by a mode change (R300). -/
  paused : Bool
  /-- Time a tile was last dispatched for it (R407). -/
  tileAt : Option Nat
  deriving DecidableEq, Repr

/-- All counters zero. -/
def Meters.zero : Meters where
  coreBound := 0
  chanBound := 0
  sliceBound := 0
  funcBound := 0
  coreBusy := 0
  energy := 0
  commands := 0
  granules := 0

/-- A FREE asterism. -/
def Ast.reset : Ast where
  state := .free
  cur := none
  prev := none
  staged := CMap.empty 0 0
  epoch := 0
  funcs := [(0, false), (0, false), (0, false), (0, false)]
  meters := Meters.zero
  pendMeters := Meters.zero
  quiesce := none
  paused := false
  tileAt := none

/-- Owner of a channel or slice (Table 9-11). -/
structure Owner where
  ast : Nat
  /-- 0 FREE, 1 BOUND, 2 RELEASING, 3 SCRUBBING, 4 MOVE_SOURCE, 5 MOVE_TARGET, 6 STAGED. -/
  st : Nat
  lastDom : Nat
  /-- The contents must be scrubbed before another domain uses them. -/
  dirty : Bool
  /-- The last owner's domain has retired: they must be scrubbed before any use (R476). -/
  always : Bool
  deriving DecidableEq, Repr

/-- An unowned channel or slice. -/
def Owner.free : Owner where
  ast := 0
  st := 0
  lastDom := 0
  dirty := false
  always := false

/-- A change that the device stages for a spare or a move (R272). -/
inductive SvcEdit where
  /-- A spare core for a failed one (R290). -/
  | core (old new : Nat)
  /-- A spare slice at the window position of another (R290). -/
  | slice (old new : Nat)
  /-- The switch of a move at a list entry: the new channel, and the one unbound with RELEASE (R288). -/
  | move (idx dst : Nat) (release : Option Nat)
  deriving DecidableEq, Repr

/-- A change waiting to be published (R272): a service change, or the staged map of a BIND or UNBIND. -/
structure Publ where
  ast : Nat
  edit : Option SvcEdit
  map : CMap
  dissolve : Bool
  shed : Bool
  /-- The management command that completes with it. -/
  cmd : Option Nat
  deriving DecidableEq, Repr

/-- A SPARE_SWAP under way (R291): a core to be fenced once idle, or failing; a slice whose copy is to be made. -/
structure Swap where
  slice : Bool
  /-- Physical core or slice, and the spare slice. -/
  unit : Nat
  spare : Nat
  /-- A core still to be fenced, once it is idle; a slice whose contents have been copied. -/
  wait : Bool
  copied : Bool
  cmd : Option Nat
  deriving DecidableEq, Repr

/-- A running move (R286 to R288). -/
structure MoveRun where
  ast : Nat
  idx : Nat
  src : Nat
  dst : Nat
  release : Bool
  started : Bool
  /-- Granule ranges of the source copied so far: first, one past the last. -/
  copied : List (Nat × Nat)
  /-- Copy pointer, in granules. -/
  ptr : Nat
  /-- Since when a page is skipped. -/
  skipped : Option Nat
  recorded : Bool
  /-- Every page is copied: the switch waits to be published, or to drain. -/
  done : Bool
  switched : Bool
  cmd : Option Nat
  deriving DecidableEq, Repr

/-- A mode change in progress (R300). -/
structure ModeRun where
  cmd : Nat
  /-- none: package-wide; some a: asterism a. -/
  scope : Option Nat
  /-- Units that have not acknowledged adoption. -/
  wait : List Nat
  at_ : Nat
  deriving DecidableEq, Repr

/-- Composition of the package. -/
structure Comp where
  epoch : Nat
  prevEpoch : Nat
  twoLive : Bool
  modeEpoch : Nat
  asts : Tbl Ast
  chans : Tbl Owner
  slices : Tbl Owner
  /-- Die pairs that have adopted CURRENT (R273). -/
  adopted : List Nat
  adoptAt : Nat
  drainLate : Bool
  waiting : List Publ
  moves : List MoveRun
  mode : Option ModeRun
  /-- Units whose release awaits the drain, their tile's end or their scrub: cores, 8192 + channel, 16384 + slice, with
  the asterism left and whether they are scrubbed at release. -/
  leaving : List (Nat × Nat × Bool)
  /-- Units being scrubbed, same numbering. -/
  scrubbing : List Nat
  lastDrainUs : Nat
  lastPublishUs : Nat
  /-- Time of the last periodic metering snapshot, and the snapshots in the flash log, newest first: time, asterism,
  counters (R302). -/
  snapAt : Nat
  snaps : List (Nat × Nat × Meters)
  /-- SPARE_SWAPs under way. -/
  swaps : List Swap
  /-- Slices that have left service, and spare slices that have entered it (R10, R290). -/
  sliceOut : List Nat
  sliceIn : List Nat
  deriving DecidableEq, Repr

/-- Composition after package reset: no asterism, epoch 0. -/
def Comp.reset : Comp where
  epoch := 0
  prevEpoch := 0
  twoLive := false
  modeEpoch := 0
  asts := []
  chans := []
  slices := []
  adopted := [0, 1, 2, 3, 4, 5, 6, 7]
  adoptAt := 0
  drainLate := false
  waiting := []
  moves := []
  mode := none
  leaving := []
  scrubbing := []
  lastDrainUs := 0
  lastPublishUs := 0
  snapAt := 0
  snaps := []
  swaps := []
  sliceOut := []
  sliceIn := []

/-! ### Host interface -/

/-- Context states (Table 10-16). -/
inductive CtxState where
  | free | active | faulted | retained | revoking
  deriving DecidableEq, Repr

/-- STATE code (Table 10-16). -/
def CtxState.code : CtxState → Nat
  | .free => 0 | .active => 1 | .faulted => 2 | .retained => 3 | .revoking => 4

/-- Completion statuses (Table 10-11). -/
inductive CStatus where
  | completed | aborted | revoked | refused | faulted | shed | void | poolLost | peerLost | fenced
  deriving DecidableEq, Repr

/-- Value of a completion status (Table 10-11). -/
def CStatus.code : CStatus → Nat
  | .completed => 0 | .aborted => 1 | .revoked => 2 | .refused => 3 | .faulted => 4 | .shed => 5 | .void => 6
  | .poolLost => 7 | .peerLost => 8 | .fenced => 9

/-- Reason codes (Table 10-12). -/
inductive Reason where
  | none | coreTime | memory | link | energy | power | faultStall | faultQueue | retiring | notResident | policy
  deriving DecidableEq, Repr

/-- Value of a reason (Table 10-12). -/
def Reason.code : Reason → Nat
  | .none => 0 | .coreTime => 1 | .memory => 2 | .link => 3 | .energy => 4 | .power => 5 | .faultStall => 6
  | .faultQueue => 7 | .retiring => 8 | .notResident => 9 | .policy => 10

/-- A completion record (Table 10-10). -/
structure CRec where
  pos : Nat
  index : Nat
  status : CStatus
  reason : Reason
  kind : Nat
  phase : Bool
  user : Nat
  elapsed : Nat
  boundUs : Nat
  error : Nat
  abandoned : Bool
  timedOut : Bool
  won : Bool
  notFound : Bool
  inherited : Bool
  replayed : Bool
  cqHeld : Bool
  energy : Nat
  aux : Nat
  deriving DecidableEq, Repr

/-- How a revocation was asked for, and how far it is (Table 10-17). -/
structure Revoke where
  at_ : Nat
  /-- The queue that gets the final record, or the management command. -/
  report : Option Nat
  mgt : Option Nat
  /-- A forced DETACH waits for it: management command. -/
  detach : Option Nat
  /-- Invalidation of step 5 still running. -/
  inval : Option Nat
  /-- Step 5 is done; objects may be freed. -/
  step5 : Bool
  objs : Nat
  deriving DecidableEq, Repr

/-- A context. -/
structure Ctx where
  ast : Nat
  /-- The function it was created through. -/
  fn : Nat
  state : CtxState
  blocked : Bool
  /-- Its next record carries BLOCKED (R200). -/
  flagNext : Bool
  prio : Nat
  pasid : Nat
  pasidEn : Bool
  resident : Bool
  /-- Time it was last made resident, and time it began to wait for residency (R344). -/
  resAt : Nat
  waitAt : Nat
  /-- Energy over its life, µJ (R436). -/
  energy : Nat
  /-- Learned inflation in 1/64, overruns, tile ends since the last overrun, time of the last 0x050A (R368). -/
  infl : Nat
  overruns : Nat
  clean : Nat
  /-- Decays of INFL since the last overrun (R368). -/
  decays : Nat
  inflRec : Option Nat
  revoke : Option Revoke
  /-- Priority inherited while it holds units (R373). -/
  inherit : Option Nat
  deriving DecidableEq, Repr

/-- A command slot handed to the device and not yet admitted: position, index in a called buffer (0xFFFF for a ring
command), the CALL it stands for, and its 64 bytes. -/
structure Fetched where
  pos : Nat
  index : Nat
  call : Option Nat
  slot : Line
  deriving DecidableEq, Repr

/-- A queue (Table 10-6) with its fetched commands and the records that wait for ring space. -/
structure Queue where
  ctx : Nat
  fn : Nat
  dbidx : Nat
  log2n : Nat
  clog2n : Nat
  vector : Nat
  ring : Nat
  cq : Nat
  tail : Nat
  head : Nat
  cqHead : Nat
  cqTail : Nat
  fetched : List Fetched
  /-- Records that wait for ring space, with INTR of their commands. -/
  held : List (CRec × Bool)
  /-- The MAP at the head, by position, that waits for a purged tag, and whether the tag was listed again (R190). -/
  mapTag : Option (Nat × Bool)
  resident : Bool
  /-- Time it was last made resident. -/
  resAt : Nat
  lastIntr : Option Nat
  /-- A 0x0606 was recorded for the present episode. -/
  cqEpisode : Bool
  deriving DecidableEq, Repr

/-- Object states (Table 10-2). -/
inductive ObjState where
  | free | live | retiring | lost
  deriving DecidableEq, Repr

/-- STATE code (Table 10-2). -/
def ObjState.code : ObjState → Nat
  | .free => 0 | .live => 1 | .retiring => 2 | .lost => 3

/-- A memory object (Table 10-2). -/
structure Obj where
  va : Nat
  size : Nat
  ast : Nat
  state : ObjState
  ctx : Nat
  shared : Bool
  poolb : Bool
  pidx : Nat
  inflight : Nat
  /-- The FREE_OBJECT that retired it: queue and position (R338). -/
  freer : Option (Nat × Nat)
  deriving DecidableEq, Repr

/-- An event (Table 10-3). -/
structure Event where
  value : Nat
  abandoned : Bool
  ast : Nat
  sem : Bool
  holders : List Nat
  waiters : Nat
  deriving DecidableEq, Repr

/-- TDI states of a virtual function (R397). -/
inductive Tdi where
  | unlocked | locked | run | error
  deriving DecidableEq, Repr

/-- A virtual function: its attachment, its control page (Table 10-4) and its fault ring (R196).
Key: port × 256 + half × 128 + VF. -/
structure Fn where
  enabled : Bool
  ast : Option Nat
  busy : Bool
  done : Bool
  status : Nat
  reason : Nat
  err : Nat
  value : Nat
  value2 : Nat
  frBase : Nat
  frEn : Bool
  frLog2n : Nat
  pullRec : Bool
  vector : Nat
  frHead : Nat
  frTail : Nat
  lastIntr : Option Nat
  tdi : Tdi
  /-- Closed by a DETACH that waits for back-invalidations: management command (R295). -/
  closing : Option Nat
  deriving DecidableEq, Repr

/-- A virtual function after reset. -/
def Fn.reset : Fn where
  enabled := false
  ast := none
  busy := false
  done := false
  status := 0
  reason := 0
  err := 0
  value := 0
  value2 := 0
  frBase := 0
  frEn := false
  frLog2n := 6
  pullRec := false
  vector := 0
  frHead := 0
  frTail := 0
  lastIntr := none
  tdi := .unlocked
  closing := none

/-! ### Commands in flight -/

/-- Where an admitted command stands. -/
inductive CPhase where
  /-- Waits on the ordering of R320 before it takes effect. -/
  | ordered
  /-- A parked WAIT or ACQUIRE. -/
  | parked
  /-- Dispatching or running tiles, a sweep, an invalidation, a booking or called commands. -/
  | running
  /-- Its outcome has been written at the completion point. -/
  | over
  deriving DecidableEq, Repr

/-- A tile waiting to be dispatched again: number, replays done, the core it was aborted on (R96). -/
structure Replay where
  t : Nat
  replays : Nat
  core : Nat
  deriving DecidableEq, Repr

/-- What a command is accounted at and what it has reserved (R357, R358, R362, R363, R366, R367). -/
structure Resv where
  /-- Accounted cost per tile at OP7, in 1/64 ns, and the planning clock in MHz. -/
  acc : Nat
  fMhz : Nat
  /-- Concurrency r_c. -/
  conc : Nat
  /-- Link credits reserved per port. -/
  credits : List Nat
  /-- Energy reserved, nJ, and reservation power, mW. -/
  energy : Nat
  power : Nat
  /-- Sweep work per stack, ns (R363), and blocks accounted per stack. -/
  sweep : Tbl Nat
  blocks : Nat
  deriving DecidableEq, Repr

/-- Nothing reserved. -/
def Resv.none : Resv where
  acc := 0
  fMhz := 2700
  conc := 1
  credits := [0, 0, 0, 0]
  energy := 0
  power := 0
  sweep := []
  blocks := 0

/-- A command the admission controller has taken. -/
structure Cmd where
  queue : Nat
  pos : Nat
  index : Nat
  call : Option Nat
  slot : Line
  ctx : Nat
  ast : Nat
  dom : Nat
  label : Nat
  cls : Nat
  guar : Bool
  phase : CPhase
  acceptAt : Nat
  boundUs : Nat
  /-- Deadline in ns; the order of dispatch for best effort too. -/
  deadline : Nat
  resv : Resv
  /-- In its asterism's book (R359). -/
  inBook : Bool
  /-- Guarantee shed (true) or voided at once (false), with the reason (R351, R352). -/
  shed : Option (Bool × Reason)
  /-- The first void-on-miss exception noted (R351). -/
  noted : Option Reason
  /-- Effective priority lent to it by inheritance: the waiting ACQUIRE, its class BASEPRI and PRIO (R373). -/
  lent : Option (Nat × Nat × Nat)
  /-- The outcome it must end with once its tiles have ended (R98). -/
  forced : Option CStatus
  err : Nat
  inherited : Bool
  replayed : Bool
  energy : Nat
  objs : List Nat
  /-- Tile program: header and steps (R69, R70); descriptors of an XFER. -/
  hdr : Line
  prog : List StepWord
  segs : Option SegJob
  tiles : Nat
  next : Nat
  running : Nat
  ended : Nat
  redo : List Replay
  /-- Link credits reserved and granted, per port (R125). -/
  granted : List Nat
  /-- The barrier whose release waves dispatch its tiles (R326). -/
  barrier : Option Nat
  /-- Timeout of a parked command, in ns of `now`; 0 for none. -/
  timeoutAt : Nat
  abandoned : Bool
  timedOut : Bool
  /-- Called commands of a CALL not yet over, the failing status first in buffer order, and those never run. -/
  kids : Nat
  kidStatus : Option (Nat × CStatus)
  notRun : Nat
  /-- INVALIDATE and the like: the invalidation awaited. -/
  inval : Option Nat
  /-- Pages an UNMAP could not write back, as stack and page key: they keep their entries (R401). -/
  keepPages : List (Nat × Nat)
  deriving DecidableEq, Repr

/-- A management command firmware has taken (R280, R334). -/
structure Mgt where
  /-- Ring position, or the port of an MGT_SUBMIT. -/
  pos : Nat
  submit : Option Nat
  slot : Line
  delta : List (BitVec 256)
  at_ : Nat
  /-- It has started and waits for its effect. -/
  started : Bool
  /-- Contexts that a forced DETACH revokes (0x05CB). -/
  count : Nat
  deriving DecidableEq, Repr

/-- Everything the host interface holds. -/
structure Hif where
  ctxs : Tbl Ctx
  queues : Tbl Queue
  objs : Tbl Obj
  events : Tbl Event
  fns : Tbl Fn
  cmds : Tbl Cmd
  nextCmd : Nat
  /-- Completion records in host memory: key = queue × 2^16 + slot. -/
  cq : Tbl CRec
  /-- Fault records in host memory: key = function × 2^16 + slot. -/
  fr : Tbl FaultRec
  /-- The holding buffer, oldest first (R197), and the asterisms in a 0x030C episode. -/
  hold : List FaultRec
  /-- Contexts blocked, in order (R200). -/
  blockedQ : List Nat
  episodes : List Nat
  nEpisodes : Nat
  hostDrop : Nat
  /-- The management fault ring, in firmware's memory: key = slot. -/
  mfr : Tbl FaultRec
  /-- Management ring: fetched commands, completion records, held records. -/
  mgt : Tbl Mgt
  nextMgt : Nat
  mcq : Tbl CRec
  mheld : List CRec
  /-- CLOG2N of the old completion ring once EN has been cleared, while records are due; last management interrupt. -/
  mold : Option Nat
  mgtIntr : Option Nat
  /-- Answers to MGT_SUBMIT, newest first: port and record. -/
  submitted : List (Nat × CRec)
  /-- MSI-X interrupts raised, newest first: function (0 for function 0 of port p as 1024 + p) and vector. -/
  intr : List (Nat × Nat)
  deriving DecidableEq, Repr

/-- The host interface after package reset: every table empty. -/
def Hif.reset : Hif where
  ctxs := []
  queues := []
  objs := []
  events := []
  fns := []
  cmds := []
  nextCmd := 0
  cq := []
  fr := []
  hold := []
  blockedQ := []
  episodes := []
  nEpisodes := 0
  hostDrop := 0
  mfr := []
  mgt := []
  nextMgt := 0
  mcq := []
  mheld := []
  mold := none
  mgtIntr := none
  submitted := []
  intr := []

end Sys2Proof.Machine
end

