-- ==== Sys2Proof/Machine/StatePower.lean ====
section
/-!
DEFINITION. State of the leave governor, clocks and power states (chapter Power States, Clocks and Energy Leave) and of
the CXL ports, partners and pools (chapter CXL Attachment, Partners and Pools), beyond their registers.
-/

namespace Sys2Proof.Machine

/-! ### Power -/

/-- Why a leave request is made (R423, R424, R429). -/
inductive LeaveFor where
  /-- A tile of a command, for a core: the tile then starts there. -/
  | tile (cmd core : Nat)
  /-- A stack's sweep unit, for a job (R424). -/
  | sweep (job stack : Nat)
  /-- A barrier group, granted whole (R429). -/
  | barrier (id : Nat)
  deriving DecidableEq, Repr

/-- A leave request that waits (R425). -/
structure LeaveReq where
  why : LeaveFor
  dp : Nat
  ctx : Nat
  /-- Leave power in mW. -/
  p : Nat
  committed : Bool
  deriving DecidableEq, Repr

/-- Leave granted and not yet used by the waiting start: what it is for, where, power, the booking it was drawn from. -/
structure LeaveGrant where
  why : LeaveFor
  dp : Nat
  p : Nat
  booking : Option Nat
  deriving DecidableEq, Repr

/-- A HINT booking (R428). -/
structure Booking where
  id : Nat
  cmd : Nat
  ast : Nat
  ctx : Nat
  powerMw : Nat
  openAt : Nat
  closeAt : Nat
  opened : Bool
  /-- Leave now drawn from it, mW, and energy drawn, pJ, against ENERGY_MJ. -/
  drawn : Nat
  usedPj : Nat
  limitMj : Nat
  deriving DecidableEq, Repr

/-- A die pair's power management unit. -/
structure Pmu where
  pwr : Pwr
  op : Nat
  /-- The point the running change leads to, with its end (R417). -/
  goal : Option (Nat × Nat)
  tj : Nat
  throttling : Bool
  limited : Bool
  /-- Share of headroom and leave in force, mW (R425). -/
  share : Nat
  leave : Nat
  /-- Unbound since (R408). -/
  unboundAt : Option Nat
  /-- Core clock periods are doubled until (R431); stretches since `stretchAt`, the start of the present 1 ms. -/
  stretchEnd : Nat
  stretches : Nat
  stretchAt : Nat
  lowUntil : Nat
  droopRec : Option Nat
  /-- Held fraction of cores in sixteenths (R433). -/
  held : Nat
  /-- Time the point may next be lowered, and since when a raise has had headroom (R418). -/
  lowerAt : Nat
  raiseAt : Option Nat
  deriving DecidableEq, Repr

/-- A die pair's unit after package reset, as the Reset column of Table 13-12 gives it: in Run, at OP0. -/
def Pmu.reset : Pmu where
  pwr := .run
  op := 0
  goal := none
  tj := 0
  throttling := false
  limited := false
  share := 0
  leave := 0
  unboundAt := none
  stretchEnd := 0
  stretches := 0
  stretchAt := 0
  lowUntil := 0
  droopRec := none
  held := 0
  lowerAt := 0
  raiseAt := none

/-- An entry handshake in progress (R410). -/
structure Entry where
  req : Nat
  dpmask : Nat
  at_ : Nat
  /-- Unit identifiers of the blocks that have not accepted, with the delay each has asked for in all (µs) and when it is
  asked again. -/
  wait : List (Nat × Nat × Option Nat)
  deriving DecidableEq, Repr

/-- The governor and the package's power. -/
structure Power where
  pmus : Tbl Pmu
  pkg : Pwr
  entry : Option Entry
  reqs : List LeaveReq
  grants : List LeaveGrant
  bookings : List Booking
  nextBook : Nat
  /-- P_base and the input as last measured, mW (R425). -/
  pBase : Nat
  inputMw : Nat
  /-- Leave held by stacks for sweeps, mW, with the booking it was drawn from: key = stack. -/
  sweepLeave : Tbl (Nat × Option Nat)
  /-- 0x0804 recorded in the present episode. -/
  bufEpisode : Bool
  /-- SET_CAPs that wait for the input to settle, and since when the input is at or below the cap (R433). -/
  capWait : List Nat
  capBelowAt : Option Nat
  /-- Last change of the held fraction; how often the held cores have rotated, and when last (R433, R434). -/
  capAt : Nat
  rotate : Nat
  rotateAt : Nat
  /-- 0x0809 recorded in the present excursion; input stage opened (R522). -/
  rangeRec : Bool
  lockout : Bool
  /-- A buffer energy has been measured since package reset: MIN holds it. -/
  measured : Bool
  /-- Energies below 1 mJ not yet counted: input (nJ), unattributed (µJ), rails of each die pair (µJ). -/
  inputNj : Nat
  unattrUj : Nat
  railUj : Tbl Nat
  deriving DecidableEq, Repr

/-- The governor after package reset. -/
def Power.reset : Power where
  pmus := []
  pkg := .run
  entry := none
  reqs := []
  grants := []
  bookings := []
  nextBook := 0
  pBase := 0
  inputMw := 0
  sweepLeave := []
  bufEpisode := false
  capWait := []
  capBelowAt := none
  capAt := 0
  rotate := 0
  rotateAt := 0
  rangeRec := false
  lockout := false
  measured := false
  inputNj := 0
  unattrUj := 0
  railUj := []

/-! ### CXL -/

/-- Partner states (R393). -/
inductive PState where
  | free | live | suspect | lost
  deriving DecidableEq, Repr

/-- STATE code (Table 12-5). -/
def PState.code : PState → Nat
  | .free => 0 | .live => 1 | .suspect => 2 | .lost => 3

/-- A partner-table entry (Table 12-5). -/
structure Partner where
  state : PState
  kind : Nat
  gen : Nat
  port : Nat
  half : Bool
  host : Nat
  pid : Nat
  fails : Nat
  base : Nat
  ast : Nat
  /-- Consecutive pull timeouts, and time of the last failure (Table 12-6). -/
  timeouts : Nat
  failAt : Nat
  deriving DecidableEq, Repr

/-- A FREE entry. -/
def Partner.reset : Partner where
  state := .free
  kind := 0
  gen := 0
  port := 0
  half := false
  host := 0
  pid := 0
  fails := 0
  base := 0
  ast := 0
  timeouts := 0
  failAt := 0

/-- What a pool transaction serves (R399). -/
inductive PoolFor where
  /-- A pull: pending index and unit of 256 bytes of the page. -/
  | pull (token u : Nat)
  /-- A sweep stream: job, set-aside grant (head, block) and unit of the block. -/
  | stream (job head blk u : Nat)
  /-- A write-back of an UNMAP: command, page key and unit (R401). -/
  | writeBack (cmd page u : Nat)
  deriving DecidableEq, Repr

/-- A pool read or write of 256 bytes (R399, R400): issued at `at_`, or waiting for its link; what a read brought, while
it waits for back-invalidations (R387). -/
structure PoolReq where
  why : PoolFor
  stack : Nat
  pidx : Nat
  addr : Nat
  at_ : Option Nat
  data : List Line
  deriving DecidableEq, Repr

/-- A back-invalidation awaited (R387). -/
structure BiReq where
  stack : Nat
  /-- Channel granule key. -/
  gran : Nat
  fn : Nat
  at_ : Nat
  deriving DecidableEq, Repr

/-- One CXL link: port and half. -/
structure Link where
  /-- 0 DOWN, 1 UP, 2 DEGRADED. -/
  state : Nat
  width : Nat
  rate : Nat
  l0p : Bool
  /-- Lanes in use: fewer than the width while narrowed by L0p. -/
  lanes : Nat
  refclk : Bool
  downAt : Nat
  trainedAt : Option Nat
  /-- IDE: keys set, insecure. -/
  ideKeys : Bool
  insecure : Bool
  /-- Host addresses translated by ATS (page numbers), requests waiting for a page response. -/
  atc : List Nat
  pri : List (Nat × Req)
  deriving DecidableEq, Repr

/-- A link after reset: DOWN. -/
def Link.reset : Link where
  state := 0
  width := 0
  rate := 0
  l0p := false
  lanes := 0
  refclk := true
  downAt := 0
  trainedAt := none
  ideKeys := false
  insecure := false
  atc := []
  pri := []

/-- Ports, partners, pools, windows. -/
structure Cxl where
  /-- Links: key = port × 2 + half. -/
  links : Tbl Link
  partners : Tbl Partner
  pool : List PoolReq
  /-- The stack served last on each link (round-robin, R399). -/
  poolTurn : Tbl Nat
  bi : List BiReq
  /-- Window requests answered: newest first, (function, poisoned, data). -/
  answers : List (Nat × Bool × Line)
  memInfoValid : Bool
  /-- Measurement logs of TDIs: the values of measurement 16 that service changes have appended, oldest first (R397, R486):
  key = function. -/
  tdiLog : Tbl (List Nat)
  deriving DecidableEq, Repr

/-- CXL after package reset. -/
def Cxl.reset : Cxl where
  links := []
  partners := []
  pool := []
  poolTurn := []
  bi := []
  answers := []
  memInfoValid := false
  tdiLog := []

end Sys2Proof.Machine
end

