-- ==== Sys2Proof/Machine/StateSys.lean ====
section
/-!
DEFINITION. State of error reporting, reset and the Almanac (chapter Errors, Reset and the Almanac), of security and
life cycle, of boot, update and management transports, and of the module's pins and conditions, beyond their registers.
-/

namespace Sys2Proof.Machine

/-! ### Errors and the Almanac -/

/-- An error record (Table 14-1). -/
structure ErrRec where
  code : Nat
  unit : Nat
  sub : Nat
  sev : Nat
  crit : Bool
  notice : Bool
  astv : Bool
  flash : Bool
  phase : Bool
  ast : Nat
  ctx : Nat
  seq : Nat
  /-- CLK_WATCH_COUNT when the error was found. -/
  ticks : Nat
  detail : List Nat
  deriving DecidableEq, Repr

/-- A notice (R396, R462): its sequence number, the error record it carries, values that go with it (RAS_RESET_STATUS
and the dump's SEQ in the second notice of a package reset), and the time it was last sent. -/
structure Notice where
  seq : Nat
  err : Option ErrRec
  extra : List Nat
  at_ : Nat
  deriving DecidableEq, Repr

/-- A reset in progress or waiting (Table 14-3). -/
structure ResetRun where
  /-- As RAS_RESET_CTRL.LEVEL codes it: 2 stack, 3 die-pair service, 4 asterism, 5 package. -/
  level : Nat
  unit : Nat
  cause : Nat
  at_ : Nat
  step : Nat
  deriving DecidableEq, Repr

/-- The header of a dump (Table 14-6). -/
structure DumpHdr where
  level : Nat
  cause : Nat
  unit : Nat
  ast : Nat
  seq : Nat
  pages : Nat
  at_ : Nat
  deriving DecidableEq, Repr

/-- Errors, notices, resets, dump and hang detector. -/
structure Ras where
  /-- Records found by units and not yet received by firmware, oldest first (R443). -/
  box : List ErrRec
  /-- The error queue's slots in host memory. -/
  ring : Tbl ErrRec
  /-- Records held before RAS_ERRQ_BASE.EN (R506). -/
  heldBoot : List ErrRec
  /-- The flash log, newest first (R461). -/
  flash : List ErrRec
  seq : Nat
  /-- Records lost in the present overflow episode (R445). -/
  lost : Nat
  critLost : Nat
  overflow : Bool
  /-- Notices unacknowledged, oldest first, and those sent, newest first (R396). -/
  notices : List Notice
  noticeSeq : Nat
  noticeBox : List Notice
  /-- Last time firmware wrote a rate-limited code: key = code × 2^16 + unit. -/
  rates : Tbl Nat
  /-- The dump held in the dump area, and the summaries in the flash log, newest first (R458, R461). -/
  dump : Option DumpHdr
  dumps : List DumpHdr
  /-- Deadlocked sets already recorded, as lists of queues; parked commands already recorded (R449, R450). -/
  sets : List (List Nat)
  noProg : List Nat
  resets : List ResetRun
  /-- A power cycle has been requested (R457). -/
  powerCycle : Bool
  deriving DecidableEq, Repr

/-- Error reporting after power-up. -/
def Ras.reset : Ras where
  box := []
  ring := []
  heldBoot := []
  flash := []
  seq := 0
  lost := 0
  critLost := 0
  overflow := false
  notices := []
  noticeSeq := 0
  noticeBox := []
  rates := []
  dump := none
  dumps := []
  sets := []
  noProg := []
  resets := []
  powerCycle := false

/-- Marks that the Almanac sets on a unit beside its being in service or spare (Table 14-11). -/
inductive Mark where
  | watch | failed | retired | excluded | degraded
  deriving DecidableEq, Repr

/-- A unit's health (Table 14-11) with what it is judged by (Table 14-8). -/
structure Health where
  mark : Option Mark
  /-- Percent of the unit's limit consumed, errors and repairs recorded, projection in days (0xFFFF: none). -/
  wear : Nat
  events : Nat
  rul : Nat
  /-- Errors in the present 24 h, and whether a slice has had an uncorrectable one. -/
  day : Nat
  ue : Bool
  deriving DecidableEq, Repr

/-- A unit with nothing recorded. -/
def Health.new : Health where
  mark := none
  wear := 0
  events := 0
  rul := 0xFFFF
  day := 0
  ue := false

/-- One day's figures for the projections of R467: AGE and stress hours (1/10^9 h) of each die pair, spares left of each
group, the buffer's capacity in mJ. -/
structure AlmDay where
  age : List Nat
  stress : List Nat
  cores : List Nat
  slices : List Nat
  chans : List Nat
  lanes : List Nat
  blanes : List Nat
  buffer : Nat
  deriving DecidableEq, Repr

/-- The Almanac (R463 to R468): kept in module flash, each change written within 1 s. -/
structure Alm where
  /-- By unit identifier; an unlisted unit has nothing recorded. -/
  units : Tbl Health
  /-- AGE of each die pair in mV (R416) and its stress hours in 1/10^9 h (R464). -/
  age : List Nat
  stress : List Nat
  /-- Power-on seconds and thermal trips. -/
  poh : Nat
  trips : Nat
  /-- Repairs, substitutions and retirements, oldest first: unit and error code of the record. -/
  repairs : List (Nat × Nat)
  /-- Groups whose last spare has entered service (R466): side, kind and holding unit. -/
  exhausted : List Nat
  /-- Daily figures, newest first, and the buffer's capacity as last measured, mJ. -/
  days : List AlmDay
  buffer : Nat
  /-- RUL_DAYS is below HORIZON_DAYS, and the last 0x0A0D (R468). -/
  eolAt : Option Nat
  /-- The whole record was last written (R463), the projections last computed. -/
  lastWrite : Nat
  lastPredict : Nat
  deriving DecidableEq, Repr

/-- An Almanac with no history. -/
def Alm.reset : Alm where
  units := []
  age := List.replicate 8 0
  stress := List.replicate 8 0
  poh := 0
  trips := 0
  repairs := []
  exhausted := []
  days := []
  buffer := 36000
  eolAt := none
  lastWrite := 0
  lastPredict := 0

/-! ### Security -/

/-- An SPDM session (R485): its responder, its identifier, and whether FINISH has completed the handshake. -/
structure Session where
  responder : Nat
  id : Nat
  up : Bool
  deriving DecidableEq, Repr

/-- A journal row pair (R496) whose intent row is not blank. -/
structure JRow where
  target : Nat
  /-- WIPES: bit k − 1 for wipe Wk. -/
  wipes : Nat
  valid : Bool
  void : Bool
  commit : Bool
  deriving DecidableEq, Repr

/-- A programmed owner row (R487). -/
structure OwnerRow where
  hash : Nat
  revoked : Bool
  deriving DecidableEq, Repr

/-- Security, life cycle and keys. -/
structure Lcs where
  /-- Journal row pairs and owner rows in OTP, row 0 first: at most 8 and 3. -/
  journal : List JRow
  owners : List OwnerRow
  ownerReq : Bool
  /-- Development signatures withdrawn (W4); UDS destroyed (W5). -/
  devGone : Bool
  udsGone : Bool
  /-- SHA-512 of the DeviceID certificate, fused. -/
  certHash : Option Nat
  /-- Certificate slots 0 and 1 in flash: the digest of the chain. -/
  certs : Tbl Nat
  /-- Present debug level, and the highest since package reset (R498, R499). -/
  debug : Nat
  debugMax : Nat
  /-- LCS_DEBUG_CHALLENGE (R493), and the bytes of LCS_TOKEN. -/
  challenge : Nat
  token : Tbl Byte
  /-- A new challenge waits for the DRBG (R479). -/
  chalDue : Bool
  /-- The owner row and OWNER_REQ that govern image verification and measurement since the last boot (R488). -/
  bootOwner : Option OwnerRow
  bootReq : Bool
  /-- What the DICE layers measured at the last boot: STATE and the debug level (R483). -/
  bootState : Nat
  bootDebug : Nat
  sessions : List Session
  nextSession : Nat
  /-- Responders that have negotiated algorithms (R485). -/
  negotiated : List Nat
  drbgUp : Bool
  drbgReqs : Nat
  drbgFails : Nat
  drbgFailAt : Nat
  /-- Identities given to memory keys so far (fresh keys, R475). -/
  nextKey : Nat
  /-- Slot loads awaiting acknowledgement: stack × 32 + slot, sent at, retried, key identity. -/
  loads : List (Nat × Nat × Bool × Nat)
  deriving DecidableEq, Repr

/-- Security of a module whose OTP holds nothing but the UDS. -/
def Lcs.reset : Lcs where
  journal := []
  owners := []
  ownerReq := false
  devGone := false
  udsGone := false
  certHash := none
  certs := []
  debug := 2
  debugMax := 2
  challenge := 0
  token := []
  chalDue := false
  bootOwner := none
  bootReq := false
  bootState := 0
  bootDebug := 2
  sessions := []
  nextSession := 0
  negotiated := []
  drbgUp := true
  drbgReqs := 0
  drbgFails := 0
  drbgFailAt := 0
  nextKey := 1
  loads := []

/-! ### Boot, update and management transports -/

/-- A firmware image in flash or in RAM (R509, R510): its manifest, the later check it fails as a whole, and its policy
record, empty for none. -/
structure Image where
  man : Manifest
  bad : Option Nat
  policy : List Nat
  deriving DecidableEq, Repr

/-- An update in progress (R514). -/
structure Update where
  /-- The port of its Transfer FW; none for PLDM. -/
  port : Option Nat
  /-- The manifest received and accepted. -/
  manifest : Option Manifest
  /-- 64 KiB blocks written, and when the last came. -/
  blocks : Nat
  lastAt : Nat
  deriving DecidableEq, Repr

/-- Boot firmware and management transports. -/
structure Fw where
  /-- IMAGE_STATE: 0 EMPTY, 1 WRITING, 2 VALID; the image in flash; the RAM copy the controller runs. -/
  imageState : Nat
  image : Image
  ram : Image
  /-- Fused floors (R515). -/
  floorB : Nat
  floorR : Nat
  update : Option Update
  /-- Last step of Table 16-1 done, when the boot began, and whether it is a cold boot. -/
  bootStep : Nat
  bootAt : Nat
  cold : Bool
  /-- Boot has stopped (R505). -/
  stopped : Bool
  /-- Recovery runs (R512), with the images it has refused. -/
  recovery : Bool
  refused : Nat
  tid : Nat
  eid : Nat
  /-- PLDM events held until acknowledged (R527): codes, newest first. -/
  events : List Nat
  /-- The last management answer: kind and values. -/
  answer : Option (Nat × List Nat)
  deriving DecidableEq, Repr

/-- Management after power-up, with a VALID image in flash. -/
def Fw.reset : Fw where
  imageState := 2
  image := ⟨Manifest.plain, none, []⟩
  ram := ⟨Manifest.plain, none, []⟩
  floorB := 0
  floorR := 0
  update := none
  bootStep := 0
  bootAt := 0
  cold := false
  stopped := false
  recovery := false
  refused := 0
  tid := 0
  eid := 0
  events := []
  answer := none

/-! ### The module -/

/-- Pins and conditions of the module (R520 to R534). -/
structure Mod where
  pwrEn : Bool
  resetN : Bool
  lcArm : Bool
  perst : List Bool
  /-- A WAKE_n edge that came while RESET_n was low (R535). -/
  wakeHeld : Bool
  /-- Standby rail, precharged input capacitance, input stage (R523). -/
  standby : Bool
  precharged : Bool
  inputOn : Bool
  vinMv : Nat
  /-- Thermal trip latch, and since when PWR_EN has been low. -/
  tripLatch : Bool
  pwrEnLowAt : Option Nat
  /-- Coolant readings (°C × 10, L/min × 10) and since when a condition holds (R532). -/
  inlet : Nat
  outlet : Nat
  flow : Nat
  coolAt : Option Nat
  coolRec : Bool
  /-- Fluid on the leak trace: LEAK_n is low (R531). -/
  leak : Bool
  alertN : Bool
  /-- Conditions that hold ALERT_n low. -/
  alerts : List Nat
  deriving DecidableEq, Repr

/-- The module's pins as they stand at reset: powered, with nothing asserted. -/
def Mod.reset : Mod where
  pwrEn := true
  resetN := true
  lcArm := false
  perst := [true, true, true, true]
  wakeHeld := false
  standby := true
  precharged := true
  inputOn := true
  vinMv := 54000
  tripLatch := false
  pwrEnLowAt := none
  inlet := 0
  outlet := 0
  flow := 0
  coolAt := none
  coolRec := false
  leak := false
  alertN := true
  alerts := []

end Sys2Proof.Machine
end

