-- ==== Sys2Proof/Machine/State.lean ====
section
/-!
DEFINITION. The state of the whole block: the commands that wait, the time, and the device.

Every piece of state is plain data.  The device's parts are the structures of the State… files; set-up registers
without a typed home are words of `regs`.
-/

namespace Sys2Proof.Machine

/-- The device. -/
structure Dev where
  /-- Set-up registers written since reset; the others hold their reset word: key = byte offset in the set-up space
  (R539). -/
  regs : Tbl Word
  /-- The model's own: free values drawn so far. -/
  fresh : Nat
  /-- Cores by physical index d × 672 + c (R14). -/
  core : Tbl Core
  mem : Memory
  /-- Ranges of granules, first and one past the last, whose unlisted granules read as poisoned (R160, R289). -/
  lost : List (Nat × Nat)
  slice : SliceMem
  stk : Tbl Stack
  net : Network
  sweeps : Tbl SweepJob
  comp : Comp
  hif : Hif
  pwr : Power
  cxl : Cxl
  ras : Ras
  alm : Alm
  lcs : Lcs
  fw : Fw
  mod : Mod
  deriving DecidableEq, Repr

/-- The device after reset: every register at its reset word, every table empty, every memory cleared. -/
def Dev.reset : Dev where
  regs := []
  fresh := 0
  core := []
  mem := []
  lost := []
  slice := []
  stk := []
  net := Network.reset
  sweeps := []
  comp := Comp.reset
  hif := Hif.reset
  pwr := Power.reset
  cxl := Cxl.reset
  ras := Ras.reset
  alm := Alm.reset
  lcs := Lcs.reset
  fw := Fw.reset
  mod := Mod.reset

/-- The machine's state. -/
structure State where
  /-- The model's own: commands that wait, first in, first out. -/
  pending : List Instr
  /-- Time since power-up in ns, advanced by the tick of an idle step (assumption log, entry 2). -/
  now : Nat
  dev : Dev
  deriving DecidableEq, Repr

/-- The state after reset. -/
def State.reset : State where
  pending := []
  now := 0
  dev := Dev.reset

/-- Faults: none.  The block has no access outside what its spec lays out that stops it: every failing access is
answered as a rule says (an error record, a refusal record, poison). -/
inductive Fault where
  deriving DecidableEq, Repr

/-- Refusals. -/
inductive Refusal where
  /-- Raised by an arm of `exec` whose command has no meaning yet; safe, for nothing is claimed of the command. -/
  | notModelled (mnemonic : String)
  deriving DecidableEq, Repr

/-- Run an effect on the device: the queue and the time are no command's to change. -/
def State.run (s : State) (f : Nat → Dev → Dev) : Host.Outcome State Fault Refusal :=
  .next { s with dev := f s.now s.dev }

end Sys2Proof.Machine
end

