-- ==== Sys2Proof/Machine/Ops.lean ====
section
/-!
DEFINITION. The named operations every meaning is built from: registers, geometry, free values, error records, fault
records, cores and maps.
-/

namespace Sys2Proof.Machine

/-! ### Set-up registers (R539 to R547) -/

/-- The word of a register: the one written last, else its reset word. -/
def Dev.reg (d : Dev) (off : Nat) : Nat :=
  match Tbl.find d.regs off with
  | some w => w.toNat
  | none => resetWord off

/-- The value of a field. -/
def Dev.get (d : Dev) (f : Fld) : Nat := bits (d.reg f.off) f.lo f.w

/-- A one-bit field as a Bool. -/
def Dev.flag (d : Dev) (f : Fld) : Bool := d.get f == 1

/-- Set a whole register. -/
def Dev.setReg (d : Dev) (off w : Nat) : Dev := { d with regs := Tbl.put d.regs off (BitVec.ofNat 64 w) }

/-- Set a field, keeping the register's other bits. -/
def Dev.set (d : Dev) (f : Fld) (v : Nat) : Dev := d.setReg f.off (setBits (d.reg f.off) f.lo f.w v)

/-- Add to a counter that saturates. -/
def Dev.sat (d : Dev) (f : Fld) (k : Nat) : Dev := d.set f (satAdd f.w (d.get f) k)

/-- Add to a counter that wraps. -/
def Dev.wrap (d : Dev) (f : Fld) (k : Nat) : Dev := d.set f (wrapAdd f.w (d.get f) k)

/-! ### Free values -/

/-- Draw one free value. -/
def Dev.draw (d : Dev) (k : Free) : Nat × Dev := (Config.free k d.fresh 0, { d with fresh := d.fresh + 1 })

/-! ### Geometry (R7 to R14) -/

/-- A unit identifier: KIND and INDEX (Table 0-5). -/
def unitId (kind index : Nat) : Nat := kind * 2 ^ 13 + index % 2 ^ 13

/-- Die pair of a physical core. -/
def coreDp (c : Nat) : Nat := c / 672
/-- Die pair of a stack. -/
def stackDp (s : Nat) : Nat := s / 4
/-- Die pair of a CXL port (R14). -/
def portDp (p : Nat) : Nat := [0, 3, 4, 7].getD p 0
/-- Stack of a logical channel (R137). -/
def chanStack (l : Nat) : Nat := l / 32
/-- Port, half and VF of a function number. -/
def fnPort (fn : Nat) : Nat := fn / 256
/-- The x8 link of a function. -/
def fnHalf (fn : Nat) : Bool := fn / 128 % 2 == 1
/-- Number of a virtual function on its link, 1 to 64. -/
def fnVf (fn : Nat) : Nat := fn % 128
/-- The function number of a port, half and VF. -/
def fnOf (port : Nat) (half : Bool) (vf : Nat) : Nat := port * 256 + (if half then 128 else 0) + vf

/-- Watch-clock ticks as the register holds them. -/
def Dev.ticks (d : Dev) : Nat := d.get CLK_WATCH_COUNT.TICKS

/-! ### Error records (R440 to R442) -/

/-- Severities (Table 14-1). -/
inductive Sev where
  | info | corrected | degraded | contained | fatal
  deriving DecidableEq, Repr

/-- SEV code. -/
def Sev.code : Sev → Nat
  | .info => 0 | .corrected => 1 | .degraded => 2 | .contained => 3 | .fatal => 4

/-- A unit raises an error: its record travels to firmware (R443).  `who` is the asterism and context concerned. -/
def Dev.raise (d : Dev) (code unit sub : Nat) (sev : Sev) (detail : List Nat) (who : Option (Nat × Nat) := none) :
    Dev :=
  { d with ras := { d.ras with box := d.ras.box ++ [{
      code := code, unit := unit, sub := sub, sev := sev.code
      crit := sev.code ≥ 3 || code == 0x030C || code == 0x0A0B
      notice := false, astv := who.isSome, flash := false, phase := false
      ast := (who.map (·.1)).getD 0, ctx := (who.map (·.2)).getD 0, seq := 0
      ticks := d.ticks, detail := detail }] } }

/-- Raise an error at most once per `ns` nanoseconds for one key (a rate its rule sets); an error held back leaves no
record. -/
def Dev.raiseLimited (d : Dev) (now key ns : Nat) (f : Dev → Dev) : Dev :=
  match Tbl.find d.ras.rates key with
  | some t => if now < t + ns then d else f { d with ras := { d.ras with rates := Tbl.put d.ras.rates key now } }
  | none => f { d with ras := { d.ras with rates := Tbl.put d.ras.rates key now } }

/-- One second in nanoseconds. -/
def second : Nat := 1000000000

/-- A list item of a detail: the count, then entries of `w` bits packed into words (R441). -/
def packList (w : Nat) : List Nat → List Nat
  | [] => []
  | x :: l =>
    let per := 64 / w
    let rec go : Nat → Nat → Nat → List Nat → List Nat
      | _, acc, i, [] => if i = 0 then [] else [acc]
      | k, acc, i, y :: ys =>
        if i + 1 = k then (acc + y % 2 ^ w * 2 ^ (w * i)) :: go k 0 0 ys
        else go k (acc + y % 2 ^ w * 2 ^ (w * i)) (i + 1) ys
    go per 0 0 (x :: l)

/-- A list item: its count and its packed entries (R441). -/
def listItem (w : Nat) (l : List Nat) : List Nat := l.length :: packList w l

/-! ### Tables of the device -/

/-- A core (an unlisted one is as reset left it). -/
def Dev.coreAt (d : Dev) (c : Nat) : Core := Tbl.look Core.reset d.core c
/-- Change a core. -/
def Dev.onCore (d : Dev) (c : Nat) (f : Core → Core) : Dev := { d with core := Tbl.upd Core.reset d.core c f }
/-- Change the tile on a core, if there is one. -/
def Dev.onTile (d : Dev) (c : Nat) (f : Tile → Tile) : Dev :=
  d.onCore c fun k => { k with tile := k.tile.map f }

/-- A stack. -/
def Dev.stack (d : Dev) (s : Nat) : Stack := Tbl.look Stack.reset d.stk s
/-- Change a stack. -/
def Dev.onStack (d : Dev) (s : Nat) (f : Stack → Stack) : Dev := { d with stk := Tbl.upd Stack.reset d.stk s f }

/-- An asterism. -/
def Dev.ast (d : Dev) (a : Nat) : Ast := Tbl.look Ast.reset d.comp.asts a
/-- Change an asterism. -/
def Dev.onAst (d : Dev) (a : Nat) (f : Ast → Ast) : Dev :=
  { d with comp := { d.comp with asts := Tbl.upd Ast.reset d.comp.asts a f } }

/-- A die pair's power management unit. -/
def Dev.pmu (d : Dev) (p : Nat) : Pmu := Tbl.look Pmu.reset d.pwr.pmus p
/-- Change a die pair's power management unit. -/
def Dev.onPmu (d : Dev) (p : Nat) (f : Pmu → Pmu) : Dev :=
  { d with pwr := { d.pwr with pmus := Tbl.upd Pmu.reset d.pwr.pmus p f } }

/-- A link: port × 2 + half. -/
def Dev.link (d : Dev) (k : Nat) : Link := Tbl.look Link.reset d.cxl.links k
/-- Change a link. -/
def Dev.onLink (d : Dev) (k : Nat) (f : Link → Link) : Dev :=
  { d with cxl := { d.cxl with links := Tbl.upd Link.reset d.cxl.links k f } }

/-- A partner-table entry. -/
def Dev.partner (d : Dev) (e : Nat) : Partner := Tbl.look Partner.reset d.cxl.partners e
/-- Change a partner-table entry. -/
def Dev.onPartner (d : Dev) (e : Nat) (f : Partner → Partner) : Dev :=
  { d with cxl := { d.cxl with partners := Tbl.upd Partner.reset d.cxl.partners e f } }

/-- A virtual function. -/
def Dev.fn (d : Dev) (n : Nat) : Fn := Tbl.look Fn.reset d.hif.fns n
/-- Change a virtual function. -/
def Dev.onFn (d : Dev) (n : Nat) (f : Fn → Fn) : Dev :=
  { d with hif := { d.hif with fns := Tbl.upd Fn.reset d.hif.fns n f } }

/-- Change the host interface's tables. -/
def Dev.onHif (d : Dev) (f : Hif → Hif) : Dev := { d with hif := f d.hif }
/-- Change a context, if it exists. -/
def Dev.onCtx (d : Dev) (k : Nat) (f : Ctx → Ctx) : Dev := d.onHif fun h => { h with ctxs := Tbl.adj h.ctxs k f }
/-- Change a queue, if it exists. -/
def Dev.onQueue (d : Dev) (k : Nat) (f : Queue → Queue) : Dev :=
  d.onHif fun h => { h with queues := Tbl.adj h.queues k f }
/-- Change a memory object, if it exists. -/
def Dev.onObj (d : Dev) (k : Nat) (f : Obj → Obj) : Dev := d.onHif fun h => { h with objs := Tbl.adj h.objs k f }
/-- Change an event, if it exists. -/
def Dev.onEvent (d : Dev) (k : Nat) (f : Event → Event) : Dev :=
  d.onHif fun h => { h with events := Tbl.adj h.events k f }
/-- Change a command in flight, if it exists. -/
def Dev.onCmd (d : Dev) (k : Nat) (f : Cmd → Cmd) : Dev := d.onHif fun h => { h with cmds := Tbl.adj h.cmds k f }

/-- Change the networks. -/
def Dev.onNet (d : Dev) (f : Network → Network) : Dev := { d with net := f d.net }
/-- Send a request. -/
def Dev.sendReq (d : Dev) (r : Req) : Dev := d.onNet fun n => { n with reqs := n.reqs ++ [r] }
/-- Send an answer. -/
def Dev.answer (d : Dev) (r : Req) (st : Status) (data : Line := 0) : Dev :=
  d.onNet fun n => { n with resps := n.resps ++ [⟨r, st, data⟩] }
/-- Send control messages. -/
def Dev.notes (d : Dev) (l : List Note) : Dev := d.onNet fun n => { n with notes := n.notes ++ l }

/-- The die pairs. -/
def diePairs : List Nat := [0, 1, 2, 3, 4, 5, 6, 7]
/-- The stacks. -/
def allStacks : List Nat := List.range 32

/-! ### Composition maps (R166, R268, R269) -/

/-- The map of asterism `a` under map epoch `e`: the current one, or the previous one while two are live. -/
def Dev.mapOf (d : Dev) (a e : Nat) : Option CMap :=
  if e = d.comp.epoch then (d.ast a).cur
  else if d.comp.twoLive && e == d.comp.prevEpoch then
    (match (d.ast a).prev with | some m => some m | none => (d.ast a).cur)
  else none

/-- The asterism's map under the current epoch. -/
def Dev.curMap (d : Dev) (a : Nat) : Option CMap := (d.ast a).cur

/-- Home die pair of an asterism. -/
def Dev.home (d : Dev) (a : Nat) : Nat := ((d.curMap a).map (·.home)).getD (d.ast a).staged.home

/-- Domain of an asterism. -/
def Dev.domOf (d : Dev) (a : Nat) : Nat := ((d.curMap a).map (·.dom)).getD (d.ast a).staged.dom

/-- Unit identifier of a die-pair service. -/
def svcUnit (dp : Nat) : Nat := unitId 6 dp
/-- Unit identifier of a stack's logic die. -/
def stackUnit (s : Nat) : Nat := unitId 4 s
/-- Unit identifier of the module. -/
def moduleUnit : Nat := unitId 7 0

/-! ### Resets asked for (R451, R452) -/

/-- Does a reset already in progress take in the scope of another? -/
def ResetRun.absorbs (r : ResetRun) (level unit : Nat) : Bool := r.level == 5 || (r.level == level && r.unit == unit)

/-- A reset of level 2 or above is triggered; within the scope of one in progress nothing starts, and a package reset
absorbs every other (R452).  The ingress of a stack being reset holds what comes (R453, step 1).  `unit` is the stack, die
pair or asterism; for a package reset the identifier of the unit that triggers it. -/
def Dev.requestReset (d : Dev) (now level unit cause : Nat) : Dev :=
  if d.ras.resets.any fun r => r.absorbs level unit then d
  else
    let others := if level = 5 then [] else d.ras.resets
    let d := { d with ras := { d.ras with resets := others ++ [⟨level, unit, cause, now, 0⟩] } }
    if level = 2 then d.onStack unit fun t => { t with ingress := false } else d

/-! ### Fault records -/

/-- Send a record to the fault collector, with the answer its request gets unless it is BLOCKED (R197, R198). -/
def Dev.fault (d : Dev) (m : FaultMsg) : Dev := d.onNet fun n => { n with faults := n.faults ++ [m] }

end Sys2Proof.Machine
end

