-- ==== Sys2Proof/Machine/Access.lean ====
section
/-!
DEFINITION. Who may write a set-up register: the paths (R543), the isolation policy's write masks (R474) and the blocks
that are down (R546).

A path is 0 to 3 for BAR0 of function 0 of a CXL port and 4 for the module-controller path.
-/

namespace Sys2Proof.Machine

/-- MGT_ID: VENDOR and STEP are fused, with no value in the spec (Table 18-4). -/
def mgtIdWord : Nat :=
  setBits (setBits (resetWord MGT_ID.off) 0 16 (Config.code MGT_ID.off 0)) 32 4 (Config.code MGT_ID.off 1)

/-- WMASK bit of the block at an offset (Table 15-1). -/
def wmaskBit (off : Nat) : Option Nat := (regPlace off).map (·.bit)

/-- LCS_STATE.STATE: the target of the last committed journal row pair, else Blank (R490). -/
def Lcs.state (l : Lcs) : Nat := (((l.journal.filter (·.commit)).getLast?).map (·.target)).getD 0

/-- Is a life-cycle transition between its commit and the package reset that it starts (R495)? -/
def Dev.lcBusy (d : Dev) : Bool := d.ras.resets.any fun r => r.level == 5 && r.cause == 0x0901 && r.step == 0

/-- May a path write the block at an offset? -/
def Dev.mayWrite (d : Dev) (path off : Nat) : Bool :=
  4 ≤ path || (match wmaskBit off with
    | some b => bit (d.get (LCS_POLICY_PORT.WMASK path)) b
    | none => true)

/-- Is the block at an offset unavailable (R546)? -/
def Dev.blockDown (d : Dev) (off : Nat) : Bool :=
  d.flag MGT_STATUS.PKG_DOWN && (match regPlace off with | some p => p.down | none => false)

/-- Key of the 0x0908 rate of a port. -/
def deniedKey (path : Nat) : Nat := 0x0908 * 2 ^ 16 + path

/-- A denied write: dropped, counted, and recorded at most once per second and port. -/
def Dev.deny (d : Dev) (now path off : Nat) : Dev :=
  (d.sat LCS_STATE.DENIED 1).raiseLimited now (deniedKey path) second fun d =>
    d.raise 0x0908 moduleUnit 0x00 .info [path, (wmaskBit off).getD 0, off]

/-- A write to a register through a path: it takes effect where the policy permits it and the block is up. -/
def Dev.writeThrough (d : Dev) (now path off : Nat) (f : Dev → Dev) : Dev :=
  if !d.mayWrite path off then d.deny now path off
  else if d.blockDown off then d
  else f d

end Sys2Proof.Machine
end

