-- ==== Sys2Proof/Machine/Number.lean ====
section
/-!
DEFINITION. Number formats, rounding and saturation (chapter Number Formats and Arithmetic, R32 to R47).

Every value is held exactly, as a sign, a natural magnitude and a power of two; an operation is computed exactly and
narrowed once, at the end, so that overflow, saturation and the flags are comparisons of the exact with the narrowed
value.
-/

namespace Sys2Proof.Machine

/-- The formats of Table 2-1, and the two element formats of Table 2-2 that only a block carries. -/
inductive Fmt where
  | fp32 | fp16 | bf16 | e4m3 | e5m2 | int8 | bs8 | bs6 | bs4 | e2m3 | e2m1
  deriving DecidableEq, Repr

/-- The format a 4-bit format code names (Table 2-1); 0x9 to 0xF are reserved. -/
def Fmt.ofCode : Nat → Option Fmt
  | 0 => some .fp32 | 1 => some .fp16 | 2 => some .bf16 | 3 => some .e4m3 | 4 => some .e5m2
  | 5 => some .int8 | 6 => some .bs8 | 7 => some .bs6 | 8 => some .bs4 | _ => none

/-- Stored bits per element (Table 2-1). -/
def Fmt.width : Fmt → Nat
  | .fp32 => 32 | .fp16 => 16 | .bf16 => 16 | .e4m3 => 8 | .e5m2 => 8 | .int8 => 8
  | .bs8 => 8 | .bs6 => 6 | .bs4 => 4 | .e2m3 => 6 | .e2m1 => 4

/-- Is the format block-scaled? -/
def Fmt.block : Fmt → Bool
  | .bs8 | .bs6 | .bs4 => true
  | _ => false

/-- The element encoding of a block-scaled format (Table 2-3). -/
def Fmt.elem : Fmt → Fmt
  | .bs8 => .e4m3 | .bs6 => .e2m3 | .bs4 => .e2m1 | f => f

/-- The exponent of the largest power of two of a block's element format (Table 2-3). -/
def Fmt.eMax : Fmt → Nat
  | .bs8 => 8 | _ => 2

/-- Exponent bits (Table 2-2). -/
def Fmt.eBits : Fmt → Nat
  | .fp32 => 8 | .fp16 => 5 | .bf16 => 8 | .e4m3 => 4 | .e5m2 => 5 | .e2m3 => 2 | .e2m1 => 2 | _ => 0

/-- Fraction bits (Table 2-2). -/
def Fmt.mBits : Fmt → Nat
  | .fp32 => 23 | .fp16 => 10 | .bf16 => 7 | .e4m3 => 3 | .e5m2 => 2 | .e2m3 => 3 | .e2m1 => 1 | _ => 0

/-- Exponent bias (Table 2-2). -/
def Fmt.bias : Fmt → Nat
  | .fp32 => 127 | .fp16 => 15 | .bf16 => 127 | .e4m3 => 7 | .e5m2 => 15 | .e2m3 => 1 | .e2m1 => 1 | _ => 0

/-- Has the format an infinity, coded as in IEEE 754?  (Table 2-2) -/
def Fmt.ieee : Fmt → Bool
  | .fp32 | .fp16 | .bf16 | .e5m2 => true
  | _ => false

/-- The encoding of the largest finite value without its sign (Table 2-2). -/
def Fmt.maxCode : Fmt → Nat
  | .fp32 => 0x7F7FFFFF | .fp16 => 0x7BFF | .bf16 => 0x7F7F | .e4m3 => 0x7E | .e5m2 => 0x7B
  | .e2m3 => 0x1F | .e2m1 => 0x7 | _ => 127

/-- The NaN the device writes (Table 2-2, R34). -/
def Fmt.nanCode : Fmt → Nat
  | .fp32 => 0x7FC00000 | .fp16 => 0x7E00 | .bf16 => 0x7FC0 | .e4m3 => 0x7F | .e5m2 => 0x7F | _ => 0

/-- The encoding of positive infinity where the format has one. -/
def Fmt.infCode : Fmt → Nat
  | .fp32 => 0x7F800000 | .fp16 => 0x7C00 | .bf16 => 0x7F80 | .e5m2 => 0x7C | _ => 0

/-- An exact value: NaN, an infinity, or (−1)^neg × m × 2^e.  Zero is m = 0 and keeps its sign. -/
inductive Num where
  | nan
  | inf (neg : Bool)
  | fin (neg : Bool) (m : Nat) (e : Int)
  deriving DecidableEq, Repr

/-- Is the value NaN? -/
def Num.isNan : Num → Bool | .nan => true | _ => false
/-- Is the value a NaN or an infinity? -/
def Num.special : Num → Bool | .fin _ _ _ => false | _ => true
/-- The sign; NaN counts as positive. -/
def Num.neg : Num → Bool | .nan => false | .inf s => s | .fin s _ _ => s
/-- Is the value a zero? -/
def Num.isZero : Num → Bool | .fin _ m _ => m == 0 | _ => false
/-- Zero of a sign. -/
def Num.zero (neg : Bool) : Num := .fin neg 0 0

/-- The value an encoding stands for (R33, R34, R36); an INT8 zero is positive.  Subnormals keep their value (R35). -/
def Fmt.decode (f : Fmt) (c : Nat) : Num :=
  match f with
  | .int8 =>
    let v := signed 8 c
    .fin (decide (v < 0)) v.natAbs 0
  | _ =>
    let mb := f.mBits
    let s := bit c (f.width - 1)
    let e := bits c mb f.eBits
    let m := bits c 0 mb
    if f.ieee && e == 2 ^ f.eBits - 1 then (if m == 0 then .inf s else .nan)
    else if f == .e4m3 && e == 15 && m == 7 then .nan
    else if e == 0 then .fin s m (1 - (f.bias : Int) - mb)
    else .fin s (m + 2 ^ mb) ((e : Int) - f.bias - mb)

/-- The exponent of the leading bit of a nonzero magnitude. -/
def leadExp (m : Nat) (e : Int) : Int := (Nat.log2 m : Int) + e

/-- `m × 2^e` as a pair with exponent at most `q`: the same value. -/
def alignTo (m : Nat) (e q : Int) : Nat := m * 2 ^ (e - q).toNat

/-- Compare two magnitudes: is `m₁ × 2^e₁ ≤ m₂ × 2^e₂`? -/
def magLe (m₁ : Nat) (e₁ : Int) (m₂ : Nat) (e₂ : Int) : Bool :=
  let q := min e₁ e₂
  decide (alignTo m₁ e₁ q ≤ alignTo m₂ e₂ q)

/-- The product of two values (∞ × 0 is NaN). -/
def Num.mul : Num → Num → Num
  | .nan, _ => .nan
  | _, .nan => .nan
  | .inf s, y => if y.isZero then .nan else .inf (s != y.neg)
  | x, .inf s => if x.isZero then .nan else .inf (x.neg != s)
  | .fin s m e, .fin s' m' e' => .fin (s != s') (m * m') (e + e')

/-- The sum of two values (∞ − ∞ is NaN).  An exact zero keeps the sign when both terms are zeros of one sign;
otherwise it is −0 under `rd` and +0 else (IEEE 754-2019, R51). -/
def Num.add (rd : Bool) : Num → Num → Num
  | .nan, _ => .nan
  | _, .nan => .nan
  | .inf s, .inf s' => if s == s' then .inf s else .nan
  | .inf s, _ => .inf s
  | _, .inf s => .inf s
  | .fin s m e, .fin s' m' e' =>
    let q := min e e'
    let a := alignTo m e q
    let b := alignTo m' e' q
    if s == s' then .fin s (a + b) q
    else if a == b then .fin rd 0 0
    else if b < a then .fin s (a - b) q else .fin s' (b - a) q

/-- The negated value. -/
def Num.negate : Num → Num
  | .nan => .nan
  | .inf s => .inf (!s)
  | .fin s m e => .fin (!s) m e

/-- The magnitude. -/
def Num.abs : Num → Num
  | .nan => .nan
  | .inf _ => .inf false
  | .fin _ m e => .fin false m e

/-- Multiplication by 2^k. -/
def Num.scale (k : Int) : Num → Num
  | .fin s m e => .fin s m (e + k)
  | x => x

/-- Ordered comparison `x < y` of values that are not NaN; −0 equals +0. -/
def Num.lt : Num → Num → Bool
  | .nan, _ => false
  | _, .nan => false
  | .inf s, y => s && !(y == .inf true)
  | x, .inf s => !s && !(x == .inf false)
  | .fin s m e, .fin s' m' e' =>
    if m == 0 && m' == 0 then false
    else if m == 0 then !s'
    else if m' == 0 then s
    else match s, s' with
      | true, false => true
      | false, true => false
      | false, false => !magLe m' e' m e
      | true, true => !magLe m e m' e'

/-- Equality of values; NaN equals nothing, −0 equals +0. -/
def Num.eqv (x y : Num) : Bool := !x.isNan && !y.isNan && !Num.lt x y && !Num.lt y x

/-! ### Rounding -/

/-- The rounding modes of Table 2-5. -/
inductive Rnd where
  | rne | rz | rd | ru | sr
  deriving DecidableEq, Repr

/-- The mode a 3-bit RND code names (Table 2-5). -/
def Rnd.ofCode : Nat → Option Rnd
  | 0 => some .rne | 1 => some .rz | 2 => some .rd | 3 => some .ru | 4 => some .sr | _ => none

/-- Does a matrix-engine accumulation accept the mode?  (Table 2-5) -/
def Rnd.mmaOk : Rnd → Bool | .rne | .rz => true | _ => false
/-- Does vector arithmetic accept the mode?  (Table 2-5) -/
def Rnd.arithOk : Rnd → Bool | .sr => false | _ => true

/-- `m × 2^e` in units of `2^q`, rounded to an integer (R44, R47).  `draw` is the 13-bit draw of stochastic
rounding. -/
def roundInt (r : Rnd) (draw : Nat) (neg : Bool) (m : Nat) (e q : Int) : Nat :=
  if q ≤ e then m * 2 ^ (e - q).toNat
  else
    let s := (q - e).toNat
    let t := m / 2 ^ s
    let rem := m % 2 ^ s
    let up : Bool := match r with
      | .rne => decide (2 * rem > 2 ^ s) || (decide (2 * rem = 2 ^ s) && decide (t % 2 = 1))
      | .rz => false
      | .rd => neg && decide (rem ≠ 0)
      | .ru => !neg && decide (rem ≠ 0)
      | .sr => decide (rem * 8192 / 2 ^ s + draw % 8192 ≥ 8192)
    if up then t + 1 else t

/-- The weight of the last kept bit of a nonzero `m × 2^e` in format `f`, with unbounded exponent above and subnormal
spacing below the smallest normal. -/
def Fmt.ulpExp (f : Fmt) (m : Nat) (e : Int) : Int :=
  max (1 - (f.bias : Int) - f.mBits) (leadExp m e - f.mBits)

/-- The encoding, without its sign, of a value `t × 2^q` that format `f` represents. -/
def Fmt.encodeMag (f : Fmt) (t : Nat) (q : Int) : Nat :=
  if t = 0 then 0
  else
    let mb := f.mBits
    let (t, q) := if t ≥ 2 ^ (mb + 1) then (t / 2, q + 1) else (t, q)
    if t < 2 ^ mb then t
    else (q + mb + f.bias).toNat * 2 ^ mb + (t - 2 ^ mb)

/-- The sign bit of format `f` when `neg`. -/
def Fmt.signBit (f : Fmt) (neg : Bool) : Nat := if neg then 2 ^ (f.width - 1) else 0

/-- Bits of the exception-flag word (Table 2-12): NV, OF, SA, UF, BN. -/
def flagNV : Nat := 1
/-- OF of Table 2-12. -/
def flagOF : Nat := 2
/-- SA of Table 2-12. -/
def flagSA : Nat := 4
/-- UF of Table 2-12. -/
def flagUF : Nat := 8
/-- BN of Table 2-12. -/
def flagBN : Nat := 16

/-- Does `t × 2^q` exceed the largest finite value of `f`? -/
def Fmt.beyond (f : Fmt) (t : Nat) (q : Int) : Bool :=
  match f.decode f.maxCode with
  | .fin _ m e => !magLe t q m e
  | _ => false

/-- Conversion of an exact value into a format with a rounding mode and SAT: the encoding and the flags raised
(R36, R43, R45, R46, R47, Table 2-6).  `elem` says that the target is a block element, which always saturates.
A finite value beyond FP32 (which only the exact result of an arithmetic step can be) overflows as R46 and R51 set. -/
def Fmt.convert (f : Fmt) (elem : Bool) (r : Rnd) (sat : Bool) (draw : Nat) (x : Num) : Nat × Nat :=
  match f with
  | .int8 =>
    match x with
    | .nan => (0, flagNV)
    | .inf s => (if s then 0x80 else 0x7F, flagSA)
    | .fin s m e =>
      let t := roundInt r draw s m e 0
      if s then (if t > 128 then (0x80, flagSA) else ((256 - t) % 256, 0))
      else (if t > 127 then (0x7F, flagSA) else (t, 0))
  | _ =>
    match x with
    | .nan => (f.nanCode, 0)
    | .inf s =>
      if f == .fp32 then (f.infCode + f.signBit s, 0)
      else if sat || elem then (f.maxCode + f.signBit s, flagSA)
      else if f.ieee then (f.infCode + f.signBit s, 0)
      else (f.nanCode, flagNV)
    | .fin s m e =>
      if m = 0 then (f.signBit s, 0)
      else
        let q := f.ulpExp m e
        let t := roundInt r draw s m e q
        -- a block element saturates when its magnitude is above the largest finite value (R43, Table 2-4);
        -- any other value is beyond the range when its rounding with unbounded exponent is (R45)
        if elem && f.beyond m e then (f.maxCode + f.signBit s, flagSA)
        else if f.beyond t q then
          let held := match r with
            | .rz => true
            | .rd => !s
            | .ru => s
            | _ => false
          if held then (f.maxCode + f.signBit s, flagOF)
          else if sat && f != .fp32 then (f.maxCode + f.signBit s, flagSA)
          else if f.ieee then (f.infCode + f.signBit s, flagOF)
          else (f.nanCode, flagOF)
        else (f.encodeMag t q + f.signBit s, 0)

end Sys2Proof.Machine
end

