-- ==== Sys2Proof/Machine/Flags.lean ====
section
/-!
DEFINITION. Every arithmetic result and every flag it raises: matrix accumulation (R49 to R53), vector operations
(R56 to R58), block scaling (R38 to R43), the FP32 adds of memory, slices and crossbars (R57, R61).

A result is a pair: the encoding, and the bits it sets in the exception-flag word of Table 2-12.
-/

namespace Sys2Proof.Machine

/-- A result and the flags it raises. -/
abbrev Flagged := Nat × Nat

/-- The FP32 value of an encoding. -/
def fp32 (c : Nat) : Num := Fmt.fp32.decode c

/-- Is an encoding of `f` subnormal? -/
def Fmt.subnormal (f : Fmt) (c : Nat) : Bool :=
  f != .int8 && bits c f.mBits f.eBits == 0 && bits c 0 f.mBits != 0

/-- FTZ of a floating-point value: a subnormal becomes the zero of its sign and sets UF (R56). -/
def Fmt.flush (f : Fmt) (ftz : Bool) (c : Nat) : Flagged :=
  if ftz && f.subnormal c then (f.signBit (bit c (f.width - 1)), flagUF) else (c % 2 ^ f.width, 0)

/-- NV when a NaN result comes from inputs none of which is NaN (Table 2-12). -/
def nvIf (inputs : List Num) (r : Num) : Nat :=
  if r.isNan && inputs.all (fun x => !x.isNan) then flagNV else 0

/-- An exact value rounded once into FP32, then flushed if FTZ (R56). -/
def roundF32 (r : Rnd) (ftz : Bool) (x : Num) : Flagged :=
  let (c, f) := Fmt.fp32.convert false r false 0 x
  let (c', f') := Fmt.fp32.flush ftz c
  (c', f ||| f')

/-- A rounding vector operation over FP32 inputs: flush the inputs, compute exactly, round once (R56). -/
def arithF32 (r : Rnd) (ftz : Bool) (op : List Num → Num) (xs : List Nat) : Flagged :=
  let ins := xs.map (Fmt.fp32.flush ftz)
  let vs := ins.map fun p => fp32 p.1
  let y := op vs
  let (c, f) := roundF32 r ftz y
  (c, (ins.foldl (fun a p => a ||| p.2) 0) ||| f ||| nvIf vs y)

/-- FMA: a × b + c with one rounding. -/
def vFma (r : Rnd) (ftz : Bool) (a b c : Nat) : Flagged :=
  arithF32 r ftz (fun | [x, y, z] => Num.add (r == .rd) (Num.mul x y) z | _ => .nan) [a, b, c]
/-- ADD with one rounding. -/
def vAdd (r : Rnd) (ftz : Bool) (a b : Nat) : Flagged :=
  arithF32 r ftz (fun | [x, y] => Num.add (r == .rd) x y | _ => .nan) [a, b]
/-- SUB with one rounding. -/
def vSub (r : Rnd) (ftz : Bool) (a b : Nat) : Flagged :=
  arithF32 r ftz (fun | [x, y] => Num.add (r == .rd) x y.negate | _ => .nan) [a, b]
/-- MUL with one rounding. -/
def vMul (r : Rnd) (ftz : Bool) (a b : Nat) : Flagged :=
  arithF32 r ftz (fun | [x, y] => Num.mul x y | _ => .nan) [a, b]
/-- SCALE by 2^n with one rounding. -/
def vScale (r : Rnd) (ftz : Bool) (n : Int) (a : Nat) : Flagged :=
  arithF32 r ftz (fun | [x] => Num.scale n x | _ => .nan) [a]

/-- The larger of two values, +0 above −0, NaN if either is NaN (R56). -/
def numMax (x y : Num) : Num :=
  if x.isNan || y.isNan then .nan
  else if x.isZero && y.isZero then (if x.neg then y else x)
  else if Num.lt x y then y else x
/-- The smaller of two values, −0 below +0, NaN if either is NaN (R56). -/
def numMin (x y : Num) : Num :=
  if x.isNan || y.isNan then .nan
  else if x.isZero && y.isZero then (if x.neg then x else y)
  else if Num.lt x y then x else y

/-- MAX. -/
def vMax (ftz : Bool) (a b : Nat) : Flagged :=
  arithF32 .rne ftz (fun | [x, y] => numMax x y | _ => .nan) [a, b]
/-- MIN. -/
def vMin (ftz : Bool) (a b : Nat) : Flagged :=
  arithF32 .rne ftz (fun | [x, y] => numMin x y | _ => .nan) [a, b]
/-- ABS. -/
def vAbs (ftz : Bool) (a : Nat) : Flagged :=
  arithF32 .rne ftz (fun | [x] => x.abs | _ => .nan) [a]
/-- NEG. -/
def vNeg (ftz : Bool) (a : Nat) : Flagged :=
  arithF32 .rne ftz (fun | [x] => x.negate | _ => .nan) [a]

/-- CMP of one lane: 0 LT, 1 LE, 2 EQ, 3 NE; a NaN operand gives false, except NE, which gives true (Table 2-10). -/
def vCmp (ftz : Bool) (cond a b : Nat) : Bool × Nat :=
  let (a, fa) := Fmt.fp32.flush ftz a
  let (b, fb) := Fmt.fp32.flush ftz b
  let x := fp32 a
  let y := fp32 b
  let r := match cond with
    | 0 => Num.lt x y
    | 1 => Num.lt x y || Num.eqv x y
    | 2 => Num.eqv x y
    | _ => !Num.eqv x y
  (r, fa ||| fb)

/-- SEL of one lane.  Both inputs are read, so FTZ acts on both; a NaN is written canonical (R34). -/
def vSel (ftz : Bool) (m : Bool) (a b : Nat) : Flagged :=
  let (a, fa) := Fmt.fp32.flush ftz a
  let (b, fb) := Fmt.fp32.flush ftz b
  let c := if m then a else b
  (if (fp32 c).isNan then Fmt.fp32.nanCode else c, fa ||| fb)

/-- CVT of one element from format `fs` to format `fd`, neither block-scaled (R45, Table 2-6; FTZ by R56). -/
def vCvt (fs fd : Fmt) (r : Rnd) (sat ftz : Bool) (draw : Nat) (a : Nat) : Flagged :=
  let (a, fa) := fs.flush ftz a
  let (c, fc) := fd.convert false r sat draw (fs.decode a)
  let (c', fc') := fd.flush ftz c
  (c', fa ||| fc ||| fc')

/-! ### Block scaling -/

/-- The value of a block element under scale code `s` (R39, R40). -/
def blockValue (f : Fmt) (s c : Nat) : Num :=
  if s == 0xFF then .nan else Num.scale ((s : Int) - 127) (f.elem.decode c)

/-- DQBS of one element (R42): exact, flushed below the smallest FP32 normal, infinite above the largest. -/
def vDqbs (f : Fmt) (s c : Nat) : Flagged :=
  match blockValue f s c with
  | .fin n m e =>
    if m = 0 then (Fmt.fp32.signBit n, 0)
    else if leadExp m e < -126 then (Fmt.fp32.signBit n, flagUF)
    else if leadExp m e > 127 then (Fmt.fp32.infCode + Fmt.fp32.signBit n, flagOF)
    else (Fmt.fp32.convert false .rne false 0 (.fin n m e)).1 |> fun c => (c, 0)
  | _ => (Fmt.fp32.nanCode, 0)

/-- The largest magnitude of a list of finite values. -/
def maxMag : List Num → Num
  | [] => .zero false
  | x :: l => let y := maxMag l; if Num.lt y x.abs then x.abs else y

/-- QBS of one block of 32 FP32 values: scale byte, element encodings and flags (R41, R43).  `draw i` is the draw of
element `i`. -/
def vQbs (f : Fmt) (r : Rnd) (ftz : Bool) (draw : Nat → Nat) (xs : List Nat) : Nat × List Nat × Nat :=
  let ins := xs.map (Fmt.fp32.flush ftz)
  let fin := ins.foldl (fun a p => a ||| p.2) 0
  let vs := ins.map fun p => fp32 p.1
  if vs.any Num.special then (0xFF, vs.map fun _ => 0, fin ||| flagBN)
  else match maxMag vs with
    | .fin _ m e =>
      if m = 0 then (0, vs.map fun _ => 0, fin)
      else
        let c := (min (max (leadExp m e - f.eMax + 127) 0) 254).toNat
        let es := (vs.zipIdx).map fun (v, i) =>
          f.elem.convert true r true (draw i) (Num.scale (127 - (c : Int)) v)
        (c, es.map (·.1), es.foldl (fun a p => a ||| p.2) fin)
    | _ => (0, vs.map fun _ => 0, fin)

/-! ### Sums in an unspecified order (R53, R57) -/

/-- Combine the elements of a list two at a time, which two being chosen by `pick`: every binary order of the
additions is some choice of `pick`.  The first argument bounds the additions. -/
def reduceFree (pick : Nat → Nat) (op : Nat → Nat → Flagged) : Nat → Nat → List Nat → Nat → Flagged
  | 0, _, l, fl => (l.headD 0, fl)
  | n + 1, i, l, fl =>
    match l with
    | [] => (0, fl)
    | [x] => (x, fl)
    | _ =>
      let k := pick (2 * i) % l.length
      let a := l.getD k 0
      let l := dropAt l k
      let k := pick (2 * i + 1) % l.length
      let b := l.getD k 0
      let l := dropAt l k
      let (s, f) := op a b
      reduceFree pick op n (i + 1) (s :: l) (fl ||| f)

/-- RSUM of a row: each addition rounded with the step's mode, inputs and result flushed under FTZ (R56, R57). -/
def vRsum (r : Rnd) (ftz : Bool) (pick : Nat → Nat) (xs : List Nat) : Flagged :=
  let ins := xs.map (Fmt.fp32.flush ftz)
  let fin := ins.foldl (fun a p => a ||| p.2) 0
  let canon := ins.map fun p => if (fp32 p.1).isNan then Fmt.fp32.nanCode else p.1
  let (s, f) := reduceFree pick (vAdd r false) xs.length 0 canon fin
  let (s', f') := Fmt.fp32.flush ftz s
  (s', f ||| f')

/-- RMAX of a row (R56). -/
def vRmax (ftz : Bool) (xs : List Nat) : Flagged :=
  match xs with
  | [] => (0, 0)
  | x :: l => l.foldl (fun (a, f) b => let (c, g) := vMax ftz a b; (c, f ||| g)) (vMax ftz x x)

/-- The FP32 add of memory, slices, crossbars and merges: one rounding under RNE (R57, R61, R112). -/
def addF32 (a b : Nat) : Nat := (vAdd .rne false a b).1

/-! ### The matrix engine -/

/-- The group size g of an operand pair, if Table 2-7 has the pair. -/
def pairGroup (a b : Fmt) : Option Nat :=
  match a, b with
  | .bs6, .bs6 | .bs6, .bs4 | .bs4, .bs6 | .bs4, .bs4 => some 32
  | .e4m3, .e4m3 | .e4m3, .e5m2 | .e5m2, .e4m3 | .e5m2, .e5m2 => some 32
  | .bs8, .bs8 => some 32
  | .int8, .int8 => some 32
  | .bf16, .bf16 | .fp16, .fp16 => some 16
  | .fp32, .fp32 => some 2
  | _, _ => none

/-- kc of an operand pair: elements of K consumed per cycle (Table 2-7). -/
def pairKc (a b : Fmt) : Nat :=
  match a, b with
  | .bs6, _ | .bs4, _ => 64
  | .bf16, .bf16 | .fp16, .fp16 => 16
  | .fp32, .fp32 => 2
  | _, _ => 32

/-- Does the pair form its products and group sums exactly (Table 2-7)? -/
def pairExact (a : Fmt) : Bool :=
  match a with
  | .bf16 | .fp16 | .fp32 => false
  | _ => true

/-- One product of A and B elements; an INT8 product is an integer and has no signed zero (R37). -/
def mmaProduct (f : Fmt) (a b : Num) : Num :=
  match f, Num.mul a b with
  | .int8, .fin s m e => .fin (s && m != 0) m e
  | _, p => p

/-- Exact sum of a list of values: a sum of zeros of one sign keeps it, any other zero is +0 (R51). -/
def sumExact : List Num → Num
  | [] => .zero false
  | x :: l => l.foldl (Num.add false) x

/-- The exponent e of a group's largest-magnitude product (R51). -/
def groupExp (ps : List Num) : Int :=
  match maxMag ps with
  | .fin _ m e => leadExp m e
  | _ => 0

/-- A product's magnitude without its bits of weight below 2^(e − 30) (R51). -/
def truncateAt (e : Int) : Num → Num
  | .fin s m x =>
    let q := e - 30
    if q ≤ x then .fin s m x else .fin s (m / 2 ^ (q - x).toNat) q
  | p => p

/-- The group sum of a list of products: exact, or aligned and truncated (R51). -/
def groupSum (exact : Bool) (ps : List Num) : Num :=
  if exact || ps.any Num.special || ps.all Num.isZero then sumExact ps
  else sumExact (ps.map (truncateAt (groupExp ps)))

/-- A new accumulator value: one rounding to FP32 in the accumulation mode, overflowed by R46; a rounded sum of magnitude
below 2^−126 that is not an exact zero is flushed and sets UF (R51; assumption log, entry 120). -/
def accRound (rz : Bool) (x : Num) : Flagged :=
  let r := Fmt.fp32.convert false (if rz then .rz else .rne) false 0 x
  match x with
  | .fin s m _ => if m ≠ 0 ∧ bits r.1 23 8 = 0 then (Fmt.fp32.signBit s, flagUF) else r
  | _ => r

/-- Add one group sum to an accumulator value (R51).  `nanIn` says that some operand of the group is NaN. -/
def accAdd (rz : Bool) (acc : Nat) (g : Num) (nanIn : Bool) : Flagged :=
  let a := fp32 acc
  let y := Num.add false a g
  let (c, f) := accRound rz y
  (c, f ||| (if y.isNan && !a.isNan && !nanIn then flagNV else 0))

/-- Fold groups into an accumulator in an order chosen by `pick` (R53); one group needs no choice. -/
def accGroups (rz : Bool) (pick : Nat → Nat) : Nat → Nat → List (Num × Bool) → Nat → Nat → Flagged
  | 0, _, _, acc, fl => (acc, fl)
  | n + 1, i, gs, acc, fl =>
    match gs with
    | [] => (acc, fl)
    | [g] => let (c, f) := accAdd rz acc g.1 g.2; (c, fl ||| f)
    | _ =>
      let k := pick i % gs.length
      let g := gs.getD k (.zero false, false)
      let (c, f) := accAdd rz acc g.1 g.2
      accGroups rz pick n (i + 1) (dropAt gs k) c (fl ||| f)

/-- One operand row or column: its elements, and for a block-scaled format the scale code of each block of 32. -/
structure MmaLine where
  elems : List Num
  scales : List Nat
  deriving DecidableEq, Repr

/-- The groups of one dot product (R50, R51): operands padded with zeros to a multiple of `g`; block-scaled group sums
scaled by 2^(ca + cb − 254); a NaN block makes its group NaN. -/
def dotGroups (f : Fmt) (g : Nat) (blk exact : Bool) : Nat → List Num → List Num → List Nat → List Nat →
    List (Num × Bool)
  | 0, _, _, _, _ => []
  | n + 1, a, b, sa, sb =>
    let za := a.take g ++ List.replicate (g - (a.take g).length) (Num.zero false)
    let zb := b.take g ++ List.replicate (g - (b.take g).length) (Num.zero false)
    let ca := sa.headD 127
    let cb := sb.headD 127
    let nanBlock := blk && (ca == 0xFF || cb == 0xFF)
    let s := groupSum exact (List.zipWith (mmaProduct f) za zb)
    let s := if nanBlock then .nan else if blk then Num.scale ((ca : Int) + cb - 254) s else s
    (s, nanBlock || (za ++ zb).any Num.isNan) ::
      dotGroups f g blk exact n (a.drop g) (b.drop g) (sa.drop 1) (sb.drop 1)

/-- One accumulator element of an MMA (R51). -/
def mmaDot (fa fb : Fmt) (rz : Bool) (pick : Nat → Nat) (a b : MmaLine) (acc : Nat) : Flagged :=
  let g := (pairGroup fa fb).getD 32
  let n := ceilDiv a.elems.length g
  let gs := dotGroups fa g fa.block (pairExact fa) n a.elems b.elems a.scales b.scales
  accGroups rz pick (n + 1) 0 gs acc 0

/-- ACC_READ of one accumulator element: α × acc rounded once into the target (R50, Table 2-6). -/
def accRead (f : Fmt) (r : Rnd) (sat : Bool) (draw alpha acc : Nat) : Flagged :=
  let a := fp32 alpha
  let x := fp32 acc
  let y := Num.mul a x
  let (c, fl) := f.convert false r sat draw y
  (c, fl ||| nvIf [a, x] y)

/-- Engine cycles of an MMA after the dawn ramp (R54). -/
def mmaCycles (fa fb : Fmt) (m k : Nat) : Nat := max m 16 * ceilDiv k (pairKc fa fb)

end Sys2Proof.Machine
end

