-- ==== Sys2Proof/Machine/Wake.lean ====
section
/-!
DEFINITION. Leaving the deeper power states (R406, R413, R419, R546): what every wake source does.
-/

namespace Sys2Proof.Machine

/-- The package is in a power state: PWR_STATE_REQ.STATE shows it, and the blocks of R546 are down in Deep Night. -/
def Dev.setPkg (d : Dev) (p : Pwr) : Dev :=
  (({ d with pwr := { d.pwr with pkg := p } }).set PWR_STATE_REQ.STATE p.code).set MGT_STATUS.PKG_DOWN
    (if p = Pwr.deepNight then 1 else 0)

/-- PWR_LAST_WAKE records a wake: its source, the state left and the watch count (R413). -/
def Dev.lastWake (d : Dev) (src : Nat) (left : Pwr) : Dev :=
  ((d.set PWR_LAST_WAKE.SOURCE src).set PWR_LAST_WAKE.FROM left.code).set PWR_LAST_WAKE.TICKS d.ticks

/-- Links that carry traffic run at a number of lanes, narrowed or in full (R390, R406). -/
def Dev.allLanes (d : Dev) (narrow : Bool) : Dev :=
  let f := fun (_ : Nat) (l : Link) =>
    if l.state = 0 then l else if narrow then { l with l0p := true, lanes := 2 } else { l with l0p := false, lanes := l.width }
  { d with cxl := { d.cxl with links := Tbl.mapV f d.cxl.links } }

/-- A wake source takes the package out of Deep Night. -/
def Dev.wakePkg (d : Dev) (src : Nat) : Dev :=
  if d.pwr.pkg = .deepNight then ((d.lastWake src .deepNight).setPkg .run).allLanes false else d

/-- A wake source takes a die pair out of Night; it may return 1 ms later (R408). -/
def Dev.wakeDp (d : Dev) (now src dp : Nat) : Dev :=
  if (d.pmu dp).pwr = .night then
    (d.onPmu dp fun u => { u with pwr := .run, unboundAt := some now }).lastWake src .night
  else d

end Sys2Proof.Machine
end

