-- ==== Sys2Proof/Machine/Memory.lean ====
section
/-!
DEFINITION. The memory behind the stacks: where a granule lies, ECC and metadata checks, encryption, and the reads,
writes and adds of one granule (R137 to R153); the shared slices (R233, R237).
-/

namespace Sys2Proof.Machine

/-! ### Placement (R137, R139) -/

/-- Granule index of a channel offset. -/
def granOf (off : Nat) : Nat := off / 64
/-- Bank of a granule: G[9:4] XOR G[15:10]. -/
def bankOf (g : Nat) : Nat := Nat.xor (bits g 4 6) (bits g 10 6)
/-- Row of a granule: G[24:10]. -/
def rowOf (g : Nat) : Nat := bits g 10 15
/-- DRAM die of a granule. -/
def dieOf (g : Nat) : Nat := bankOf g / 4
/-- First byte of the device-private region of every channel (R152). -/
def privateBase : Nat := 0x5FC00000
/-- Bytes of a channel: 1.5 GiB. -/
def chanBytes : Nat := 0x60000000
/-- XTS tweak of a granule (R149). -/
def tweak (l g : Nat) : Nat := l * 2 ^ 25 + g

/-- Physical channel (0 to 1,087) that serves a logical channel. -/
def Dev.physChan (d : Dev) (l : Nat) : Nat := l / 32 * 34 + d.get (STK_SLOT_MAP.PHYS (l / 32) (l % 32))
/-- Is the slot RETIRED (R160)? -/
def Dev.retired (d : Dev) (l : Nat) : Bool := d.get (STK_SLOT_MAP.STATE (l / 32) (l % 32)) == 2
/-- Memory key of a granule of a physical channel. -/
def granKey (phys g : Nat) : Nat := phys * 2 ^ 25 + g
/-- Bank key of a granule of a physical channel. -/
def bankKey (phys g : Nat) : Nat := phys * 128 + bankOf g
/-- Row key of a granule of a physical channel. -/
def rowKey (phys g : Nat) : Nat := bankKey phys g * 2 ^ 15 + rowOf g

/-- What an unlisted granule reads as: lost in a lost range, else cleared. -/
def blankOf (l : List (Nat × Nat)) (key : Nat) : Gran :=
  if l.any fun r => decide (r.1 ≤ key ∧ key < r.2) then Gran.lost else Gran.cleared
/-- A stored granule. -/
def Dev.gran (d : Dev) (key : Nat) : Gran := Tbl.look (blankOf d.lost key) d.mem key
/-- Store a granule; the table stays canonical. -/
def Dev.setGran (d : Dev) (key : Nat) (g : Gran) : Dev := { d with mem := Tbl.putD (blankOf d.lost key) d.mem key g }

/-- A range without the keys from `lo` to `hi`. -/
def cutRange (lo hi : Nat) (r : Nat × Nat) : List (Nat × Nat) :=
  [(r.1, min r.2 lo), (max r.1 hi, r.2)].filter fun p => decide (p.1 < p.2)

/-- Every granule of a key range becomes cleared, or lost. -/
def Dev.wipe (d : Dev) (lo hi : Nat) (lost : Bool) : Dev :=
  { d with
    mem := d.mem.filter fun e => !(decide (lo ≤ e.1) && decide (e.1 < hi))
    lost := d.lost.flatMap (cutRange lo hi) ++ (if lost then [(lo, hi)] else []) }

/-- The granules of a key range are carried, each changed by `f`, to a range of the same length at `base`, with what of
the range is lost. -/
def Dev.copyGrans (d : Dev) (lo hi base : Nat) (f : Gran → Gran) : Dev :=
  let d := d.wipe base (base + (hi - lo)) false
  let lost := d.lost.filterMap fun r =>
    let a := max r.1 lo
    let b := min r.2 hi
    if a < b then some (a - lo + base, b - lo + base) else none
  let d := { d with lost := d.lost ++ lost }
  (d.mem.filter fun e => decide (lo ≤ e.1) && decide (e.1 < hi)).foldl (fun d e => d.setGran (e.1 - lo + base) (f e.2)) d

/-- The canonical form of the stacks' memory: keys strictly rising, no entry equal to what an unlisted granule reads
as. -/
def Memory.wf (lost : List (Nat × Nat)) (m : Memory) : Bool :=
  Tbl.risingFrom 0 m && m.all fun e => decide (e.2 ≠ blankOf lost e.1)

/-! ### Key slots (R150) -/

/-- Is domain n's slot VALID in stack s? -/
def Dev.slotValid (d : Dev) (s n : Nat) : Bool := bit (d.get (STK_KEYSTAT.VALID s)) n
/-- KGEN of domain n's slot in stack s. -/
def Dev.kgen (d : Dev) (s n : Nat) : Nat :=
  if n < 8 then bits (d.get (STK_KGEN0.KGEN_LO s)) (8 * n) 8 else bits (d.get (STK_KGEN1.KGEN_HI s)) (8 * (n - 8)) 8
/-- Set KGEN of domain n's slot. -/
def Dev.setKgen (d : Dev) (s n v : Nat) : Dev :=
  if n < 8 then d.set (STK_KGEN0.KGEN_LO s) (setBits (d.get (STK_KGEN0.KGEN_LO s)) (8 * n) 8 v)
  else d.set (STK_KGEN1.KGEN_HI s) (setBits (d.get (STK_KGEN1.KGEN_HI s)) (8 * (n - 8)) 8 v)
/-- Identity of the key in a slot: 0 to 15 the domains, 16 the device slot. -/
def Dev.keyIn (d : Dev) (s n : Nat) : Nat := Tbl.look 0 (d.stack s).keys n

/-! ### Error records of memory (R145, R165) -/

/-- Unit of a physical channel. -/
def chanUnit (phys : Nat) : Nat := unitId 3 phys

/-- A record that a stack writes at most once per stack, asterism and code in any second, its detail ending with the
faults since the last one (R165). -/
def Dev.stackRate (d : Dev) (now s a code : Nat) (detail : List Nat) (ctx : Nat) : Dev :=
  let k := code * 64 + a
  match Tbl.find (d.stack s).rates k with
  | some r =>
    if now < r.last + second then
      d.onStack s fun t => { t with rates := Tbl.put t.rates k ⟨r.last, r.since + 1⟩ }
    else
      (d.onStack s fun t => { t with rates := Tbl.put t.rates k ⟨now, 0⟩ }).raise code (stackUnit s) 0x02 .contained
        (detail ++ [r.since + 1]) (some (a, ctx))
  | none =>
    (d.onStack s fun t => { t with rates := Tbl.put t.rates k ⟨now, 0⟩ }).raise code (stackUnit s) 0x02 .contained
      (detail ++ [1]) (some (a, ctx))

/-- A corrected error (R145): counted, the row's history kept, 0x0201 at most once per channel per second. -/
def Dev.eccCorrected (d : Dev) (now s phys g : Nat) : Dev :=
  let k := phys % 34
  let d := d.wrap (STK_ECC_COUNT.CE s) 1
  let d := d.sat (STK_CHAN_HEALTH.CE_24H s k) 1
  let d := d.onStack s fun t => { t with rowCe := Tbl.upd 0 t.rowCe (rowKey phys g) (· + 1) }
  let rk := 0x0201 * 64 + k
  let since := ((Tbl.find (d.stack s).rates rk).map (·.since)).getD 0 + 1
  let due := match Tbl.find (d.stack s).rates rk with
    | some r => decide (r.last + second ≤ now)
    | none => true
  if due then
    (d.onStack s fun t => { t with rates := Tbl.put t.rates rk ⟨now, 0⟩ }).raise 0x0201 (chanUnit phys) (dieOf g)
      .corrected [since, rowOf g, bankOf g]
  else
    d.onStack s fun t => { t with rates := Tbl.upd ⟨now, 0⟩ t.rates rk fun r => { r with since := since } }

/-- An uncorrectable error found in a granule: POISON set, counted, 0x0202 recorded once (R145, R165); it wakes the package
(R413). -/
def Dev.eccPoison (d : Dev) (s phys g : Nat) : Dev :=
  let key := granKey phys g
  let d := d.sat (STK_ECC_COUNT.UE s) 1
  let d := d.sat (STK_CHAN_HEALTH.UE_24H s (phys % 34)) 1
  let d := d.onStack s fun t => { t with
    bankUe := Tbl.upd 0 t.bankUe (bankKey phys g) (· + 1), rowBad := t.rowBad ++ [rowKey phys g] }
  ((d.setGran key { d.gran key with poison := true }).raise 0x0202 (chanUnit phys) (dieOf g) .contained
    [g * 64, rowOf g, bankOf g]).wakePkg 7

/-- What ECC finds as a codeword is read: an error is corrected, or the granule becomes POISON (R145).  A granule
already poisoned records nothing further. -/
def Dev.eccRead (d : Dev) (now s phys g : Nat) : Ecc → Dev
  | .clean => d
  | .corrected => d.eccCorrected now s phys g
  | .uncorrectable => if (d.gran (granKey phys g)).poison then d else d.eccPoison s phys g

/-- One row activation (R148). -/
def Dev.activate (d : Dev) (s phys g : Nat) : Dev :=
  d.onStack s fun t => { t with acts := Tbl.upd 0 t.acts (rowKey phys g) (· + 1) }

/-! ### Reading and writing one granule -/

/-- Who accesses memory: a requester of an asterism and domain, or one of the device's own agents (R146, R152). -/
inductive Access where
  | tagged (a dom ctx : Nat)
  | device
  deriving DecidableEq, Repr

/-- The plaintext of a stored granule under the key now in the slot that encrypted it (R149); under another key it is
a free value. -/
def Dev.plain (d : Dev) (s : Nat) (g : Gran) : Line :=
  if g.clr then 0
  else if g.key = d.keyIn s (if g.dev then 16 else g.dom) then g.data
  else BitVec.ofNat 512 (Config.free .wrongKey d.fresh 0)

/-- The checks of R146 and R152 on a granule that a request of domain `dom` reads or merges into, in order: the
private region, the slot, POISON, DOM, KGEN.  A failing code is returned; `none` lets the access through. -/
def Dev.metaCheck (d : Dev) (s off : Nat) (g : Gran) : Access → Option Nat
  | .device => if g.poison then some 0x0202 else none
  | .tagged _ dom _ =>
    if privateBase ≤ off then some 0x020C
    else if !d.slotValid s dom then some 0x0209
    else if g.poison then some 0x0202
    else if g.clr then none
    else if g.dev || g.dom != dom then some 0x0208
    else if g.kgen != d.kgen s dom then some 0x020A
    else none

/-- The error record a failing check leaves (R145, R165); 0x0202 was recorded when the granule was poisoned. -/
def Dev.metaRecord (d : Dev) (now s off : Nat) (g : Gran) (code : Nat) : Access → Dev
  | .device => d
  | .tagged a dom ctx =>
    match code with
    | 0x0208 => d.stackRate now s a code [off, g.dom, dom] ctx
    | 0x0209 => d.stackRate now s a code [dom] ctx
    | 0x020A => d.stackRate now s a code [dom, g.kgen, d.kgen s dom] ctx
    | 0x020C => d.stackRate now s a code [a, off] ctx
    | _ => d

/-- The slot check that comes before the DRAM is read (R146, R152). -/
def Dev.slotCheck (d : Dev) (s off : Nat) : Access → Option Nat
  | .device => none
  | .tagged _ dom _ =>
    if privateBase ≤ off then some 0x020C else if !d.slotValid s dom then some 0x0209 else none

/-- Read one granule of logical channel `l` (R140): the slot is checked, the DRAM read, ECC applied, the metadata
checked, the data decrypted.  A failed check gives its code and no data. -/
def Dev.readGran (d : Dev) (now l off : Nat) (who : Access) (ecc : Ecc) : Dev × (Nat ⊕ Line) :=
  let s := chanStack l
  let phys := d.physChan l
  let g := granOf off
  match d.slotCheck s off who with
  | some code => (d.metaRecord now s off (d.gran (granKey phys g)) code who, .inl code)
  | none =>
    let d := (d.activate s phys g).eccRead now s phys g ecc
    let gr := d.gran (granKey phys g)
    match d.metaCheck s off gr who with
    | some code => (d.metaRecord now s off gr code who, .inl code)
    | none => (d, .inr (d.plain s gr))

/-- A granule encrypted for a requester: its domain's key and generation, or the device slot (R143, R152). -/
def Dev.encrypt (d : Dev) (s : Nat) (data : Line) : Access → Gran
  | .device => { data := data, dom := 0, clr := false, poison := false, dev := true, kgen := 0, key := d.keyIn s 16 }
  | .tagged _ dom _ =>
    { data := data, dom := dom, clr := false, poison := false, dev := false, kgen := d.kgen s dom,
      key := d.keyIn s dom }

/-- Put a granule into a channel, and below the copy pointer into the copy's target as well (R158). -/
def Dev.putSlot (d : Dev) (l g : Nat) (gr : Gran) : Dev :=
  let s := chanStack l
  let phys := d.physChan l
  let d := d.setGran (granKey phys g) gr
  match (d.stack s).copy with
  | some c =>
    match c.kind with
    | .channel slot => if slot = l % 32 ∧ g < c.ptr then d.setGran (granKey (s * 34 + c.target) g) gr else d
    | .bank _ _ => d
  | none => d

/-- Has a move carried granule g of its source across, so that writes go to both channels (R286, R288)? -/
def MoveRun.mirrors (m : MoveRun) (l g : Nat) : Bool :=
  m.src == l && m.started && (m.done || m.copied.any fun r => decide (r.1 ≤ g) && decide (g < r.2))

/-- A granule of channel `l` as a move writes it in its target: under the domain's key there (R286).  What the source
would not serve to its domain is carried across as it is. -/
def Dev.recrypt (d : Dev) (l dst : Nat) (gr : Gran) : Gran :=
  let s := chanStack l
  let t := chanStack dst
  if gr.clr || gr.dev || gr.kgen != d.kgen s gr.dom || gr.key != d.keyIn s gr.dom then gr
  else { gr with kgen := d.kgen t gr.dom, key := d.keyIn t gr.dom }

/-- Put a granule into a channel, and into the target of a move that has carried it across. -/
def Dev.putGran (d : Dev) (l g : Nat) (gr : Gran) : Dev :=
  (d.comp.moves.filter fun m => m.mirrors l g).foldl (fun d m => d.putSlot m.dst g (d.recrypt l m.dst gr)) (d.putSlot l g gr)

/-- Write one whole granule (R140): a full-granule write fails no metadata check, and clears POISON (R145, R146). -/
def Dev.writeGran (d : Dev) (now l off : Nat) (who : Access) (data : Line) : Dev × Option Nat :=
  let s := chanStack l
  let phys := d.physChan l
  let g := granOf off
  match d.slotCheck s off who with
  | some code => (d.metaRecord now s off (d.gran (granKey phys g)) code who, some code)
  | none => ((d.activate s phys g).putGran l g (d.encrypt s data who), none)

/-- `old` with the bytes of `mask` taken from `new`. -/
def mergeBytes (mask : Nat) (old new : Line) : Line :=
  (List.range 64).foldl (fun acc i => if bit mask i then
    BitVec.ofNat 512 (setBits acc.toNat (8 * i) 8 (fld new i 0 8)) else acc) old

/-- MODE 1 add of the FP32 elements whose bytes `mask` names (R112). -/
def addElems (mask : Nat) (old new : Line) : Line :=
  (List.range 16).foldl (fun acc i => if bit mask (4 * i) then
    BitVec.ofNat 512 (setBits acc.toNat (32 * i) 32 (addF32 (fld old (4 * i) 0 32) (fld new (4 * i) 0 32))) else acc) old

/-- A read-modify-write of one granule (R142): nothing is written where a check fails. -/
def Dev.rmwGran (d : Dev) (now l off : Nat) (who : Access) (ecc : Ecc) (f : Line → Line) : Dev × (Nat ⊕ Line) :=
  match d.readGran now l off who ecc with
  | (d, .inl code) => (d, .inl code)
  | (d, .inr old) => (d.putGran l (granOf off) (d.encrypt (chanStack l) (f old) who), .inr old)

/-- Scrub one granule: zeros, CLR, DOM 0, KGEN 0 (R153). -/
def Dev.scrubGran (d : Dev) (phys g : Nat) : Dev := d.setGran (granKey phys g) Gran.cleared

/-- Scrub every bindable granule of a physical channel (R153). -/
def Dev.scrubChan (d : Dev) (phys : Nat) : Dev :=
  d.wipe (granKey phys 0) (granKey phys (granOf privateBase)) false

/-! ### Shared slices (R233, R236, R237) -/

/-- Memory key of granule g of physical slice k. -/
def sliceKey (k g : Nat) : Nat := k * 2 ^ 16 + g
/-- A stored slice granule. -/
def Dev.sgran (d : Dev) (key : Nat) : SliceGran := Tbl.look SliceGran.zero d.slice key
/-- Store a granule of one slice; the table stays canonical. -/
def Dev.setSgran1 (d : Dev) (key : Nat) (g : SliceGran) : Dev :=
  { d with slice := Tbl.putD SliceGran.zero d.slice key g }
/-- Store a slice granule, and in the spare that is replacing its slice (R290). -/
def Dev.setSgran (d : Dev) (key : Nat) (g : SliceGran) : Dev :=
  (d.comp.swaps.filter fun w => w.slice && w.copied && w.unit == key / 2 ^ 16).foldl
    (fun d w => d.setSgran1 (sliceKey w.spare (key % 2 ^ 16)) g) (d.setSgran1 key g)
/-- Scrub a whole slice: zeros, poison bits cleared (R236). -/
def Dev.scrubSlice (d : Dev) (k : Nat) : Dev :=
  { d with slice := d.slice.filter fun e => !(sliceKey k 0 ≤ e.1 && e.1 < sliceKey (k + 1) 0) }
/-- A slice's granules are carried to another slice (R290). -/
def Dev.copySlice (d : Dev) (old new : Nat) : Dev :=
  let d := d.scrubSlice new
  let own := d.slice.filter fun e => decide (sliceKey old 0 ≤ e.1) && decide (e.1 < sliceKey (old + 1) 0)
  own.foldl (fun d e => d.setSgran1 (sliceKey new (e.1 - sliceKey old 0)) e.2) d

/-- The canonical form of the slices' memory. -/
def SliceMem.wf (m : SliceMem) : Bool := Tbl.canon SliceGran.zero m

end Sys2Proof.Machine
end

