-- ==== Sys2Proof/Machine/Translate.lean ====
section
/-!
DEFINITION. From a virtual address to a granule: interleave regions (R166 to R168), translation entries and tables
(R170 to R175), the checks at the stack (R177, R178), and reads the device makes on its own behalf through them.
-/

namespace Sys2Proof.Machine

/-! ### Interleave (R168) -/

/-- Page size in bytes. -/
def pageBytes (ps : Bool) : Nat := if ps then 2097152 else 65536

/-- Where R168 sends an address: region number, page size, channel, share index, SHARE, page base. -/
structure Route where
  region : Nat
  ps : Bool
  l : Nat
  r : Nat
  share : Nat
  page : Nat
  /-- Granule number within the page, q − q0. -/
  q : Nat
  deriving DecidableEq, Repr

/-- The valid region that holds an address. -/
def CMap.regionOf (m : CMap) (va : Nat) : Option (Nat × Region) :=
  m.regions.find? fun e => decide (e.2.vbase ≤ va ∧ va < e.2.vbase + e.2.size)

/-- R168 for one region. -/
def CMap.place (m : CMap) (k : Nat) (g : Region) (va : Nat) : Route :=
  let p := pageBytes g.ps
  let o := va - g.vbase
  let q := o / 4096
  let q0 := o / p * (p / 4096)
  let l := Tbl.look 0 m.list (g.loff + q % g.n)
  { region := k, ps := g.ps, l := l, r := (q - q0) / g.n, share := ceilDiv p (4096 * g.n),
    page := g.vbase + o / p * p, q := q - q0 }

/-- R168: the route of an address, if it lies in a valid region. -/
def CMap.route (m : CMap) (va : Nat) : Option Route := (m.regionOf va).map fun (k, g) => m.place k g va

/-! ### Tables (R170 to R175) -/

/-- Table key of an asterism's 64 KiB page. -/
def tkey (a va : Nat) : Nat := a * 2 ^ 40 + va / 65536
/-- Asterism of a table key. -/
def tkeyAst (k : Nat) : Nat := k / 2 ^ 40
/-- First address of a table key's page. -/
def tkeyVa (k : Nat) : Nat := k % 2 ^ 40 * 65536
/-- Table key of an address under a page size. -/
def pkey (a : Nat) (ps : Bool) (va : Nat) : Nat := tkey a (va / pageBytes ps * pageBytes ps)

/-- The valid entry that covers an address, with its key. -/
def entryAt (t : Tbl TEntry) (a va : Nat) : Option (Nat × TEntry) :=
  match Tbl.find t (pkey a true va) with
  | some e => if e.ps then some (pkey a true va, e) else (Tbl.find t (pkey a false va)).map fun e => (pkey a false va, e)
  | none => (Tbl.find t (pkey a false va)).map fun e => (pkey a false va, e)

/-- The distinct values of a rising list, counted. -/
def countRuns : Option Nat → List Nat → Nat
  | _, [] => 0
  | p, x :: l => (if p = some x then 0 else 1) + countRuns (some x) l

/-- Nodes an asterism holds in a stack (R173, R175): its root, and one node for each span below it in use. -/
def nodesUsed (t : Tbl TEntry) (a : Nat) : Nat :=
  let ks := (t.filter fun e => tkeyAst e.1 == a).map fun e => e.1 % 2 ^ 40
  1 + countRuns none (ks.map (· / 2 ^ 32)) + countRuns none (ks.map (· / 2 ^ 24)) +
    countRuns none (ks.map (· / 2 ^ 16)) + countRuns none (ks.map (· / 2 ^ 8))

/-- Slots of a stack bound to an asterism under the current epoch. -/
def Dev.slotsOf (d : Dev) (a s : Nat) : Nat :=
  match d.curMap a with
  | some m => (m.chans.filter fun l => chanStack l == s).length
  | none => 0

/-- Does a live map of the asterism hold a slot of the stack? -/
def Dev.holdsStack (d : Dev) (a s : Nat) : Bool :=
  let has := fun (m : Option CMap) => match m with | some m => m.chans.any fun l => chanStack l == s | none => false
  has (d.curMap a) || (d.comp.twoLive && has (d.ast a).prev)

/-- Stacks with a slot bound to an asterism under a live epoch. -/
def Dev.stacksOf (d : Dev) (a : Nat) : List Nat := allStacks.filter (d.holdsStack a)

/-- Nodes of a stack's pool: 768 for each slot that boot filled; a stack has slots left unfilled only when more than
two of its channels were EXCLUDED (R164, R173). -/
def Dev.nodePool (d : Dev) (s : Nat) : Nat :=
  768 * (32 - (((List.range 34).filter fun k => d.get (STK_CHAN_HEALTH.PSTATE s k) == 4).length - 2))

/-! ### Partners (R393, check 6 of Table 6-4) -/

/-- Entry number of a pool index. -/
def poolEntry (pidx : Nat) : Nat := 32 + pidx
/-- Check 6: the pool is LIVE or SUSPECT with the entry's generation. -/
def Dev.poolLive (d : Dev) (pidx pgen : Nat) : Bool :=
  let p := d.partner (poolEntry pidx)
  (p.state == .live || p.state == .suspect) && p.gen == pgen
/-- A COMPAT pool (Table 12-5). -/
def Dev.poolCompat (d : Dev) (pidx : Nat) : Bool := (d.partner (poolEntry pidx)).kind == 1
/-- A HOSTMEM slot (Table 12-5). -/
def Dev.poolHost (d : Dev) (pidx : Nat) : Bool := (d.partner (poolEntry pidx)).kind == 2

/-! ### Checks at the stack (R177, R178) -/

/-- What the checks of Table 6-4 answer. -/
inductive Verdict where
  /-- Served at this offset of the channel. -/
  | serve (l off : Nat)
  /-- Host memory: link (port × 2 + half) and host address (R388). -/
  | redirect (link addr : Nat)
  | soft (code : Nat)
  | hard (code : Nat)
  deriving DecidableEq, Repr

/-- Do RD, WR and HW permit the access (check 5)?  A COMPAT page is read only (R402). -/
def Dev.permits (d : Dev) (e : TEntry) (host : Bool) (acc : Acc) : Bool :=
  let write := match acc with | .read | .sweepRead => false | _ => true
  e.rd && (!write || (e.wr && !(e.pool && d.poolCompat e.pidx))) && (!host || e.hw)

/-- Check 1: the slot is bound to the asterism under the request's epoch, `l` is the channel that R168 gives for the
address, and the stack is not closed to the asterism (R194). -/
def Dev.slotOk (d : Dev) (t : Tags) (l va : Nat) : Option Route :=
  match d.mapOf t.ast t.epoch with
  | none => none
  | some m =>
    match m.route va with
    | none => none
    | some r =>
      if r.l = l ∧ m.chans.contains l ∧ !((d.stack (chanStack l)).closed.contains t.ast) then some r else none

/-- Checks 2 to 7 of Table 6-4 on the entry found. -/
def Dev.entryVerdict (d : Dev) (t : Tags) (acc : Acc) (l va : Nat) (r : Route) (e : Option TEntry) : Verdict :=
  match e with
  | none => .hard 0x0302
  | some e =>
    if (d.stack (chanStack l)).purge.contains (e.ast, e.ctx) && !e.shr then .hard 0x0302
    else if e.ps != r.ps || e.share ≤ r.r then .hard 0x0305
    else if e.ast != t.ast || e.dom != t.dom || (!t.host && !e.shr && e.ctx != t.ctx) then .hard 0x0304
    else if !d.permits e t.host acc then .hard 0x0303
    else
      let salvage := t.host && acc == .read && e.p
      if e.pool && !d.poolLive e.pidx e.pgen && !salvage then .hard 0x0307
      else if !e.p then .soft (if e.pool then 0x030E else 0x030D)
      else if e.pool && d.poolHost e.pidx then
        .redirect (2 * (d.partner (poolEntry e.pidx)).port + (d.partner (poolEntry e.pidx)).half.toNat)
          (e.ppn * 65536 + (va - r.page))
      else .serve l ((e.frame + r.r) * 4096 + va % 4096)

/-- The checks of Table 6-4 against the stack's table. -/
def Dev.verdict (d : Dev) (t : Tags) (acc : Acc) (l va : Nat) : Verdict :=
  match d.slotOk t l va with
  | none => .hard 0x0306
  | some r => d.entryVerdict t acc l va r ((entryAt (d.stack (chanStack l)).table t.ast va).map (·.2))

/-- The memory access a translated request makes. -/
def Tags.access (t : Tags) : Access := .tagged t.ast t.dom t.ctx

/-! ### Reads the device makes for a command: programs, buffers, lists, query rows -/

/-- Read the granule that holds an address, for a command's context: the bytes, or the code of the fault. -/
def Dev.peek (d : Dev) (t : Tags) (va : Nat) : Nat ⊕ Line :=
  match (d.curMap t.ast).bind (·.route va) with
  | none => .inl 0x0301
  | some r =>
    match d.verdict t .read r.l va with
    | .serve l off =>
      let s := chanStack l
      let g := d.gran (granKey (d.physChan l) (granOf off))
      (match d.metaCheck s off g t.access with
       | some code => .inl code
       | none => .inr (d.plain s g))
    | .redirect _ _ => .inl 0x0303
    | .soft code => .inl code
    | .hard code => .inl code

/-- Read `n` granules from an aligned address: all of them, or the first fault and its address. -/
def Dev.peeks (d : Dev) (t : Tags) : Nat → Nat → (Nat × Nat) ⊕ List Line
  | 0, _ => .inr []
  | n + 1, va =>
    match d.peek t va with
    | .inl c => .inl (c, va)
    | .inr x =>
      match d.peeks t n (va + 64) with
      | .inl c => .inl c
      | .inr l => .inr (x :: l)

/-- Bytes of a list of granules. -/
def lineBytes (l : List Line) : List Byte := l.flatMap fun g => toBytes 64 g.toNat

/-- Read `n` bytes from any address. -/
def Dev.peekBytes (d : Dev) (t : Tags) (va n : Nat) : (Nat × Nat) ⊕ List Byte :=
  match d.peeks t (ceilDiv (va % 64 + n) 64) (va / 64 * 64) with
  | .inl c => .inl c
  | .inr l => .inr (((lineBytes l).drop (va % 64)).take n)

/-! ### Fault records (R195, R196, R202) -/

/-- The function whose ring takes a record of a context: the one the context was created through, while it is attached
to the asterism (R196); `none` is the management fault ring (R202). -/
def Dev.ringOf (d : Dev) (a ctx : Nat) : Option Nat :=
  match Tbl.find d.hif.ctxs ctx with
  | some c => if (d.fn c.fn).ast = some a then some c.fn else none
  | none => none

/-- ACC code of Table 6-8. -/
def accCode (host : Bool) : Acc → Nat
  | .read => if host then 5 else 0
  | .write | .masked => if host then 6 else 1
  | .add => 2
  | .fetchAdd => 3
  | .sweepRead => 4

/-- STREAM and SRC of a requester (Table 6-8). -/
def Agent.stream : Agent → Nat
  | .engine _ inb s .. => if inb then s else 8 + s
  | .alloc _ inb s .. => if inb then s else 8 + s
  | _ => 0xFF
/-- Unit identifier of the first requester (Table 6-8): core, or stack for a sweep unit. -/
def Agent.src : Agent → Nat
  | .engine c .. | .alloc c .. => unitId 0 c
  | .sweep _ s => unitId 4 s
  | .window fn => unitId 5 (fnPort fn)
  | .reducer dp _ => unitId 6 dp

/-- The fault record of a request (Table 6-8). -/
def Dev.faultRec (d : Dev) (r : Req) (code unit : Nat) (soft pull : Bool) : FaultRec where
  va := r.va / 64 * 64
  count := 1
  ctx := if r.tags.host then 0 else r.tags.ctx
  ast := r.tags.ast
  dom := r.tags.dom
  fcode := code
  unit := unit
  acc := accCode r.tags.host r.acc
  soft := soft
  pull := pull
  held := false
  blocked := false
  stream := r.who.stream
  epoch := r.tags.epoch
  src := r.who.src
  queue := r.queue
  slot := r.slot
  ring := match r.who with
    | .window fn => if (d.fn fn).ast = some r.tags.ast then some fn else none
    | _ => d.ringOf r.tags.ast r.tags.ctx
  device := false

/-- A request ends as a hard fault (R135, R195): its record goes to the collector, which answers it. -/
def Dev.hardFault (d : Dev) (r : Req) (code unit : Nat) : Dev :=
  d.fault ⟨d.faultRec r code unit false false, some r, .hard code⟩

end Sys2Proof.Machine
end

