-- ==== Sys2Proof/Machine/Outcome.lean ====
section
/-!
DEFINITION. How a command ends: its completion point, completion event and record (R327 to R333, R337, R338), the
guarantee's verdict (R350 to R353), what an event's change sets going (R320 to R325), and the arrivals at a barrier
(R326).
-/

namespace Sys2Proof.Machine

/-! ### The common header (Table 10-7) -/

/-- OPCODE. -/
def hOp (x : Line) : Nat := fld x 0 0 8
/-- LABEL. -/
def hLabel (x : Line) : Nat := fld x 1 0 6
/-- FENCE. -/
def hFence (x : Line) : Bool := fld x 2 0 1 == 1
/-- QUIET. -/
def hQuiet (x : Line) : Bool := fld x 2 1 1 == 1
/-- INTR. -/
def hIntr (x : Line) : Bool := fld x 2 2 1 == 1
/-- EVENT. -/
def hEvent (x : Line) : Nat := fld x 4 0 20
/-- LIMIT_US. -/
def hLimit (x : Line) : Nat := fld x 8 0 32
/-- USER. -/
def hUser (x : Line) : Nat := fld x 12 0 32
/-- The header's reserved bits are zero. -/
def hClean (x : Line) : Bool := allZero x [(1, 6, 2), (2, 3, 13), (4, 20, 12)]

/-! ### Completion records (R329, R333) -/

/-- A record with every field zero. -/
def CRec.blank : CRec where
  pos := 0
  index := 0xFFFF
  status := .completed
  reason := .none
  kind := 0
  phase := false
  user := 0
  elapsed := 0
  boundUs := 0
  error := 0
  abandoned := false
  timedOut := false
  won := false
  notFound := false
  inherited := false
  replayed := false
  cqHeld := false
  energy := 0
  aux := 0

/-- The 32 bytes of a completion record (Table 10-10). -/
def CRec.encode (r : CRec) : BitVec 256 := BitVec.ofNat 256 (
  r.pos % 2 ^ 32 + (r.index % 2 ^ 16) * 2 ^ 32 + r.status.code * 2 ^ 48 + r.reason.code * 2 ^ 56 +
  (r.kind % 8) * 2 ^ 60 + r.phase.toNat * 2 ^ 63 + (r.user % 2 ^ 32) * 2 ^ 64 + (r.elapsed % 2 ^ 32) * 2 ^ 96 +
  (r.boundUs % 2 ^ 32) * 2 ^ 128 + (r.error % 2 ^ 16) * 2 ^ 160 + r.abandoned.toNat * 2 ^ 176 +
  r.timedOut.toNat * 2 ^ 177 + r.won.toNat * 2 ^ 178 + r.notFound.toNat * 2 ^ 179 + r.inherited.toNat * 2 ^ 180 +
  r.replayed.toNat * 2 ^ 181 + r.cqHeld.toNat * 2 ^ 182 + (r.energy % 2 ^ 32) * 2 ^ 192 + (r.aux % 2 ^ 32) * 2 ^ 224)

/-- PHASE of a ring position: 1 on the first pass, inverted on each wrap (Tables 6-8, 10-10, 14-1). -/
def phaseOf (log2n pos : Nat) : Bool := pos / 2 ^ log2n % 2 == 0

/-- Raise an MSI-X vector of a function, at most once per `gap` ns (R197, R333). -/
def Dev.interrupt (d : Dev) (fn vec : Nat) : Dev := d.onHif fun h => { h with intr := (fn, vec) :: h.intr }

/-- Key of a record slot in host memory. -/
def cqKey (q slot : Nat) : Nat := q * 2 ^ 16 + slot

/-- Is there room for one more record in a queue's completion ring? -/
def Queue.cqRoom (q : Queue) : Bool := (q.cqTail + 2 ^ 32 - q.cqHead) % 2 ^ 32 < 2 ^ q.clog2n

/-- Write a record into the ring; with INTR the vector is raised, at most once per µs (R333). -/
def Dev.putRec (d : Dev) (now q : Nat) (r : CRec) (intr : Bool) : Dev :=
  match Tbl.find d.hif.queues q with
  | none => d
  | some k =>
    let r := { r with phase := phaseOf k.clog2n k.cqTail }
    let d := d.onHif fun h => { h with cq := Tbl.put h.cq (cqKey q (k.cqTail % 2 ^ k.clog2n)) r }
    let d := d.onQueue q fun k => { k with cqTail := (k.cqTail + 1) % 2 ^ 32 }
    let d := d.onAst ((Tbl.find d.hif.ctxs k.ctx).map (·.ast) |>.getD 0) fun a =>
      { a with pendMeters := { a.pendMeters with commands := a.pendMeters.commands + 1 } }
    let due := match k.lastIntr with | some t => decide (t + 1000 ≤ now) | none => true
    if intr && due then
      (d.onQueue q fun k => { k with lastIntr := some now }).interrupt k.fn k.vector
    else d

/-- Write a record, or hold it while the ring is full; the first wait of an episode records 0x0606. -/
def Dev.writeRec (d : Dev) (now q : Nat) (r : CRec) (intr : Bool) : Dev :=
  match Tbl.find d.hif.queues q with
  | none => d
  | some k =>
    if k.held.isEmpty && k.cqRoom then d.putRec now q r intr
    else
      let d := d.onQueue q fun k => { k with held := k.held ++ [({ r with cqHeld := true }, intr)], cqEpisode := true }
      if k.cqEpisode then d
      else
        let a := ((Tbl.find d.hif.ctxs k.ctx).map (·.ast)).getD 0
        d.raise 0x0606 (svcUnit (d.home a)) 0 .info [q] (some (a, k.ctx))

/-! ### Events (R323 to R328) -/

/-- An event changed: a flag notice goes to the die pair where a WAIT on it is parked (R252). -/
def Dev.flagEvent (d : Dev) (e : Nat) : Dev :=
  let dps := ((d.hif.cmds.filter fun c => c.2.phase == .parked && hOp c.2.slot == 5 &&
    fld c.2.slot 0x10 0 20 == e).map fun c => d.home c.2.ast).dedup
  d.notes (dps.map fun dp => .flag dp e)

/-- Add to a counter modulo 2^63, as by SIGNAL ADD (R323, R333); ABANDONED may be set beside. -/
def Dev.addEvent (d : Dev) (e k : Nat) (aband : Bool) : Dev :=
  (d.onEvent e fun v => { v with value := (v.value + k) % 2 ^ 63, abandoned := v.abandoned || aband }).flagEvent e

/-- The completion event of a command: 1 is added, and ABANDONED set for REVOKED; a name that is no counter of the
asterism receives nothing (R328, R333). -/
def Dev.completionEvent (d : Dev) (a ctx : Nat) (x : Line) (q pos : Nat) (admitted : Bool) (st : CStatus) : Dev :=
  if hEvent x = 0 then d
  else match Tbl.find d.hif.events (hEvent x) with
    | some v =>
      if v.ast = a then (if v.sem then d else d.addEvent (hEvent x) 1 (st == .revoked))
      else if admitted then d.raise 0x0603 (svcUnit (d.home a)) 0 .info [3, hEvent x, q, pos] (some (a, ctx)) else d
    | none => if admitted then d.raise 0x0603 (svcUnit (d.home a)) 0 .info [3, hEvent x, q, pos] (some (a, ctx)) else d

/-! ### Contexts -/

/-- A hard fault or a command ending FAULTED faults its context (Table 10-16). -/
def Dev.faultCtx (d : Dev) (ctx : Nat) : Dev :=
  d.onCtx ctx fun c => if c.state = .active then { c with state := .faulted } else c

/-! ### A called command's end -/

/-- Is a status one that a CALL reports (R322)? -/
def CStatus.fails : CStatus → Bool
  | .aborted | .refused | .faulted | .poolLost | .peerLost | .fenced => true
  | _ => false

/-- A called command has reached its completion point. -/
def Dev.kidDone (d : Dev) (call : Option Nat) (index : Nat) (st : CStatus) : Dev :=
  match call with
  | none => d
  | some p => d.onCmd p fun c => { c with
      kids := c.kids - 1
      kidStatus := if st.fails then
          (match c.kidStatus with
           | some (i, s) => if i < index then some (i, s) else some (index, st)
           | none => some (index, st))
        else c.kidStatus }

/-! ### Memory objects (R337 to R339) -/

/-- INFLIGHT of an object falls by one; a RETIRING object at zero becomes FREE, and its FREE_OBJECT's queue gets a
KIND 1 record (R338). -/
def Dev.dropObj (d : Dev) (now o : Nat) : Dev :=
  match Tbl.find d.hif.objs o with
  | none => d
  | some b =>
    let d := d.onObj o fun b => { b with inflight := b.inflight - 1 }
    if b.state = .retiring ∧ b.inflight ≤ 1 then
      let d := d.onHif fun h => { h with objs := Tbl.del h.objs o }
      match b.freer with
      | some (q, pos) => d.writeRec now q { CRec.blank with pos := pos, kind := 1, aux := o } false
      | none => d
    else d

/-- INFLIGHT of an object rises by one (R337). -/
def Dev.holdObj (d : Dev) (o : Nat) : Dev := d.onObj o fun b => { b with inflight := b.inflight + 1 }

/-! ### The completion point (R331, R333, R352, R353) -/

/-- Does the command reach its completion point after its deadline? -/
def Cmd.late (c : Cmd) (now : Nat) : Bool := c.guar && decide (c.deadline < now)

/-- The status, reason and error of a command whose own outcome is `st` (R331, R352, R353). -/
def Cmd.verdict (c : Cmd) (now : Nat) (st : CStatus) : CStatus × Reason × Nat :=
  match st with
  | .completed =>
    (match c.shed with
     | some (true, r) => (.shed, r, 0x0507)
     | some (false, r) => (.void, r, 0x0508)
     | none =>
       if c.late now then
         (match c.noted with
          | some r => (.void, r, 0x0508)
          | none => (.void, .none, 0x0509))
       else (.completed, .none, 0))
  | st =>
    (st, (match c.shed with
      | some (_, r) => r
      | none => if c.late now then c.noted.getD .none else .none), 0)

/-- The record of an admitted command's end (Table 10-10). -/
def Cmd.record (c : Cmd) (now : Nat) (st : CStatus) (aux : Nat) : CRec :=
  let v := c.verdict now st
  { CRec.blank with
    pos := c.pos, index := c.index, status := v.1, reason := v.2.1, user := hUser c.slot
    elapsed := min ((now - c.acceptAt) / 100) (2 ^ 32 - 1)
    boundUs := c.boundUs,
    error := if c.err ≠ 0 then c.err else v.2.2
    abandoned := c.abandoned, timedOut := c.timedOut, inherited := c.inherited, replayed := c.replayed
    energy := min c.energy (2 ^ 32 - 1), aux := aux }

/-- Energy and reservations an ended command gives back: its energy goes to its context, and a miss is counted
(R353, R436). -/
def Dev.settle (d : Dev) (now : Nat) (c : Cmd) (st : CStatus) : Dev :=
  let d := d.onCtx c.ctx fun k => { k with energy := k.energy + c.energy }
  if st == .completed && c.shed.isNone && c.noted.isNone && c.late now then
    let d := d.sat ADM_STATUS.MISSES 1
    let d := d.wrap (ADM_AST_BOOK3.MISSED c.ast) 1
    d.raise 0x0509 (svcUnit (d.home c.ast)) 0 .degraded [c.queue, c.pos, min ((now - c.acceptAt) / 100) (2 ^ 32 - 1),
      c.boundUs] (some (c.ast, c.ctx))
  else d

/-- Loans made for a waiting ACQUIRE end with it (R373). -/
def Dev.endLoan (d : Dev) (id : Nat) : Dev :=
  let f := fun (_ : Nat) (c : Cmd) => match c.lent with
    | some (w, _) => if w = id then { c with lent := none } else c
    | none => c
  d.onHif fun h => { h with cmds := Tbl.mapV f h.cmds }

/-- The energy of a command's stack traffic, in µJ, is measured in the stacks and stated nowhere: a free value (R436). -/
def Dev.withTraffic (d : Dev) (c : Cmd) : Cmd × Dev :=
  if c.tiles = 0 && c.resv.blocks = 0 then (c, d)
  else
    let (v, d) := d.draw .choice
    ({ c with energy := c.energy + v % 2 ^ 32 }, d)

/-- An admitted command reaches its completion point with its own outcome `st`: it leaves the tables, its completion
event and objects are served, its record is written, its CALL told. -/
def Dev.finish (d : Dev) (now id : Nat) (st : CStatus) (aux : Nat := 0) (edit : CRec → CRec := fun r => r) : Dev :=
  match Tbl.find d.hif.cmds id with
  | none => d
  | some c =>
    let (c, d) := d.withTraffic c
    let r := edit (c.record now st aux)
    let d := d.onHif fun h => { h with cmds := Tbl.del h.cmds id }
    let d := (d.settle now c st).endLoan id
    let d := if st == .faulted then d.faultCtx c.ctx else d
    let d := d.completionEvent c.ast c.ctx c.slot c.queue c.pos true st
    let d := if hQuiet c.slot && r.status == .completed then d else d.writeRec now c.queue r (hIntr c.slot)
    let d := c.objs.foldl (fun d o => d.dropObj now o) d
    d.kidDone c.call c.index r.status

/-- A fetched command ends without being admitted: refused, malformed, misplaced, pool lost, revoked (R318, R322,
R328, R354). -/
def Dev.endFetched (d : Dev) (now q : Nat) (f : Fetched) (st : CStatus) (rsn : Reason) (err : Nat) (aux : Nat := 0) :
    Dev :=
  match Tbl.find d.hif.queues q with
  | none => d
  | some k =>
    let a := ((Tbl.find d.hif.ctxs k.ctx).map (·.ast)).getD 0
    let d := if st == .faulted then d.faultCtx k.ctx else d
    let d := d.completionEvent a k.ctx f.slot q f.pos false st
    let d := d.writeRec now q { CRec.blank with
      pos := f.pos, index := f.index, status := st, reason := rsn, user := hUser f.slot, error := err, aux := aux }
      (hIntr f.slot)
    d.kidDone f.call f.index st

/-! ### What an ended command sets going -/

/-- Is command `id` the CALL that command `c` stands under? -/
def Cmd.under (c : Cmd) (id : Nat) : Bool := c.call == some id

/-- Has every earlier command of the queue of command `id` reached its completion point?  (its own CALL apart) -/
def Dev.earlierOver (d : Dev) (id : Nat) (c : Cmd) : Bool :=
  d.hif.cmds.all fun e => !(e.1 < id && e.2.queue == c.queue) || c.under e.1

/-- SIGNAL's operation on a value (Table 10-9, R323). -/
def signalOp (op v x : Nat) : Nat :=
  match op with
  | 0 => x % 2 ^ 63
  | 1 => (v + x) % 2 ^ 63
  | _ => max v (x % 2 ^ 63)

/-- A SIGNAL applies its operation to its event (R323). -/
def Dev.applySignal (d : Dev) (x : Line) (aband : Bool) : Dev :=
  let e := fld x 0x10 0 20
  let op := fld x 0x10 20 2
  (d.onEvent e fun v => { v with
    value := signalOp op v.value (fld x 0x18 0 63)
    abandoned := if aband then true else if op = 0 then false else v.abandoned }).flagEvent e

/-- RELEASE returns the oldest unit its context holds (R325). -/
def Event.release (v : Event) (ctx : Nat) : Event :=
  let h := v.holders.erase ctx
  { v with value := (v.value + 1) % 2 ^ 63, holders := h, abandoned := if h.isEmpty then false else v.abandoned }

/-- A context's RELEASE of a semaphore takes effect: loans to it for that semaphore end (R373). -/
def Dev.endLoanTo (d : Dev) (ctx e : Nat) : Dev :=
  let forE := fun (w : Nat) => match Tbl.find d.hif.cmds w with
    | some m => fld m.slot 0x10 0 20 == e
    | none => true
  let f := fun (_ : Nat) (c : Cmd) => match c.lent with
    | some (w, _) => if c.ctx == ctx && forE w then { c with lent := none } else c
    | none => c
  d.onHif fun h => { h with cmds := Tbl.mapV f h.cmds }

/-- An ordered SIGNAL or RELEASE takes effect, or faults on an event that no longer fits (R323, R325, R328). -/
def Dev.takeEffect (d : Dev) (now id : Nat) (c : Cmd) : Dev :=
  let e := fld c.slot 0x10 0 20
  let bad := fun (d : Dev) (code : Nat) (det : List Nat) =>
    ((d.onCmd id fun c => { c with err := code }).raise code (svcUnit (d.home c.ast)) 0 .contained det
      (some (c.ast, c.ctx))).finish now id .faulted
  match Tbl.find d.hif.events e with
  | none => bad d 0x0603 [3, e]
  | some v =>
    if v.ast ≠ c.ast then bad d 0x0603 [3, e]
    else if hOp c.slot = 4 then
      if v.sem then bad d 0x0607 [e, 4] else (d.applySignal c.slot false).finish now id .completed
    else
      if !v.sem || !v.holders.contains c.ctx then bad d 0x0607 [e, 7]
      else ((d.onEvent e fun v => v.release c.ctx).endLoanTo c.ctx e).finish now id .completed

/-- Effective priority of a command: book, class BASEPRI, context PRIO; a loan raises it (R371, R373). -/
def Dev.rank (d : Dev) (c : Cmd) : Nat :=
  let own := d.get (ADM_CLASS_PARAM_A_ACT.BASEPRI c.cls) * 8 + ((Tbl.find d.hif.ctxs c.ctx).map (·.prio)).getD 0
  let lent := match c.lent with | some (_, b, p) => b * 8 + p | none => 0
  (if c.inBook then 1024 else 0) + max own lent

/-- The waiting ACQUIRE of an event that takes a freed unit: by effective priority, then by arrival (R373). -/
def Dev.nextWaiter (d : Dev) (e : Nat) : Option Nat :=
  let ws := d.hif.cmds.filter fun c => c.2.phase == .parked && hOp c.2.slot == 6 && fld c.2.slot 0x10 0 20 == e
  (ws.foldl (fun best c => match best with
    | none => some (c.1, d.rank c.2)
    | some (i, r) => if d.rank c.2 > r then some (c.1, d.rank c.2) else some (i, r)) none).map (·.1)

/-- A unit is free to be taken: VALUE ≥ 1 and NHOLD < 8 (R325). -/
def Event.free (v : Event) : Bool := v.sem && decide (1 ≤ v.value) && decide (v.holders.length < 8)

/-- A context takes a unit. -/
def Event.take (v : Event) (ctx : Nat) : Event := { v with value := v.value - 1, holders := v.holders ++ [ctx] }

/-- A waiting ACQUIRE takes its unit and completes (R325, R377). -/
def Dev.acquireTake (d : Dev) (now id e : Nat) : Dev :=
  match Tbl.find d.hif.cmds id, Tbl.find d.hif.events e with
  | some c, some v =>
    let d := d.onEvent e fun v => { v.take c.ctx with waiters := v.waiters - 1 }
    (d.onCmd id fun c => { c with abandoned := v.abandoned }).finish now id .completed
  | _, _ => d

/-- One thing that an end has set going: an ordered SIGNAL or RELEASE whose earlier commands are over, a CALL whose
called commands are over, or a waiting ACQUIRE with a free unit. -/
inductive Ready where
  | effect (id : Nat)
  | call (id : Nat)
  | unit (id event : Nat)
  deriving DecidableEq, Repr

/-- The first thing ready. -/
def Dev.ready (d : Dev) : Option Ready :=
  match d.hif.cmds.find? fun c => (c.2.phase == .ordered && d.earlierOver c.1 c.2) ||
      (hOp c.2.slot == 0x0B && c.2.kids == 0 && c.2.phase == .running) with
  | some c => some (if c.2.phase == .ordered then .effect c.1 else .call c.1)
  | none =>
    (d.hif.events.findSome? fun e => if e.2.free then (d.nextWaiter e.1).map fun i => (i, e.1) else none).map
      fun (i, e) => .unit i e

/-- A CALL reaches its completion point (R322). -/
def Dev.finishCall (d : Dev) (now id : Nat) : Dev :=
  match Tbl.find d.hif.cmds id with
  | some c =>
    let st := match c.forced with
      | some s => s
      | none => (match c.kidStatus with | some (_, s) => s | none => .completed)
    d.finish now id st c.notRun
  | none => d

/-- Do everything that is ready; the fuel bounds the commands in flight. -/
def Dev.advanceN (now : Nat) : Nat → Dev → Dev
  | 0, d => d
  | n + 1, d =>
    match d.ready with
    | none => d
    | some (.effect id) =>
      (match Tbl.find d.hif.cmds id with
       | some c => Dev.advanceN now n (d.takeEffect now id c)
       | none => d)
    | some (.call id) => Dev.advanceN now n (d.finishCall now id)
    | some (.unit id e) => Dev.advanceN now n (d.acquireTake now id e)

/-- Do everything that an end has set going. -/
def Dev.advance (d : Dev) (now : Nat) : Dev := Dev.advanceN now d.hif.cmds.length d

/-! ### Leave that has no further use (R426) -/

/-- Leave goes back to its die pair's share, or to the booking it was drawn from (R426, R428). -/
def Dev.returnLeave (d : Dev) (dp p : Nat) (booking : Option Nat) : Dev :=
  let d := d.onPmu dp fun u => { u with
    leave := u.leave - p, share := if booking.isNone then u.share + p else u.share }
  match booking with
  | none => d
  | some b => { d with pwr := { d.pwr with bookings := d.pwr.bookings.map fun x =>
      if x.id = b then { x with drawn := x.drawn - p } else x } }

/-- A stack's leave for sweeps goes back (R424). -/
def Dev.dropSweepLeave (d : Dev) (s : Nat) : Dev :=
  match Tbl.find d.pwr.sweepLeave s with
  | none => d
  | some (p, b) =>
    { d with pwr := { d.pwr with
      sweepLeave := Tbl.del d.pwr.sweepLeave s
      bookings := d.pwr.bookings.map fun x => if some x.id = b then { x with drawn := x.drawn - p } else x } }

/-- May a command still dispatch a tile? -/
def Cmd.moreTiles (m : Cmd) : Bool :=
  m.phase == .running && m.forced.isNone && (decide (m.next < m.tiles) || !m.redo.isEmpty)

/-- Leave kept on cores, requested or granted for tiles that are not to come goes back to the share. -/
def Dev.dropLeave (d : Dev) : Dev :=
  let more := fun (id : Nat) => match Tbl.find d.hif.cmds id with | some m => m.moreTiles | none => false
  let back := fun (d : Dev) (e : Nat × Core) => match e.2.kept with
    | some (id, p, b) => if more id then d
        else (d.returnLeave (coreDp e.1) p b).onCore e.1 fun k => { k with kept := none }
    | none => d
  let d := d.core.foldl back d
  let waves := fun (b : Nat) => (d.net.barriers.any fun x => x.id == b) ||
    d.hif.cmds.any fun e => e.2.barrier == some b && e.2.moreTiles
  let live := fun (w : LeaveFor) => match w with
    | .tile id _ => more id
    | .barrier b => waves b
    | .sweep _ _ => true
  let d := (d.pwr.grants.filter fun g => !live g.why).foldl (fun d g => d.returnLeave g.dp g.p g.booking) d
  { d with
    pwr := { d.pwr with
      reqs := d.pwr.reqs.filter fun r => live r.why
      grants := d.pwr.grants.filter fun g => live g.why }
    net := { d.net with
      wave := d.net.wave.filter fun w => waves w.1
      acted := d.net.acted.filter fun w => waves w.1 } }

/-! ### Arrivals at a barrier (R250, R326) -/

/-- Is a tile of an earlier command of the barrier's queue still to run or running on die pair `dp`? -/
def Dev.workBefore (d : Dev) (b : Barrier) (dp : Nat) : Bool :=
  (d.hif.cmds.any fun c => c.1 < b.cmd && c.2.queue == b.queue && (c.2.next < c.2.tiles || !c.2.redo.isEmpty)) ||
  (d.core.any fun c => coreDp c.1 == dp && (match c.2.tile with
    | some t => t.own.queue == b.queue && decide (t.own.cmd < b.cmd)
    | none => false))

/-- Dispatchers whose part of the preceding work has ended send their arrivals. -/
def Dev.sendArrivals (d : Dev) : Dev :=
  d.net.barriers.foldl (fun d b =>
    let now := b.toSend.filter fun dp => !d.workBefore b dp
    (d.notes (now.map fun dp => .arrival b.id dp)).onNet fun n => { n with barriers := n.barriers.map fun x =>
      if x.id = b.id then { x with toSend := x.toSend.filter fun dp => !now.contains dp } else x }) d

/-- Everything that the end of tiles or commands sets going. -/
def Dev.after (d : Dev) (now : Nat) : Dev := (d.advance now).sendArrivals.dropLeave

end Sys2Proof.Machine
end

