-- ==== Sys2Proof/Machine/Release.lean ====
section
/-!
DEFINITION. What becomes of the resources an asterism lets go (R273, R274, R282, R283, R476): their release, the end of
a dissolved asterism, and its metering counters (R302).
-/

namespace Sys2Proof.Machine

/-! ### Units and their owners -/

/-- Number of a logical channel among the units that leave or are scrubbed; a core is its own number. -/
def chanNo (l : Nat) : Nat := 8192 + l
/-- Number of a slice among the units that leave or are scrubbed. -/
def sliceNo (k : Nat) : Nat := 16384 + k

/-- Change the composition. -/
def Dev.onComp (d : Dev) (f : Comp → Comp) : Dev := { d with comp := f d.comp }
/-- Owner of a logical channel. -/
def Dev.chanOwner (d : Dev) (l : Nat) : Owner := Tbl.look Owner.free d.comp.chans l
/-- Owner of a slice. -/
def Dev.sliceOwner (d : Dev) (k : Nat) : Owner := Tbl.look Owner.free d.comp.slices k
/-- Change the owner of a unit, by its number; a core's is in its own entry. -/
def Dev.onOwner (d : Dev) (u : Nat) (f : Owner → Owner) : Dev :=
  if u < 8192 then d
  else if u < 16384 then d.onComp fun c => { c with chans := Tbl.upd Owner.free c.chans (u - 8192) f }
  else d.onComp fun c => { c with slices := Tbl.upd Owner.free c.slices (u - 16384) f }
/-- Owner of a channel or slice, by its number. -/
def Dev.ownerOf (d : Dev) (u : Nat) : Owner := if u < 16384 then d.chanOwner (u - 8192) else d.sliceOwner (u - 16384)

/-- Is a unit still being released or scrubbed by a previous owner (R280)? -/
def Dev.unitBusy (d : Dev) (u : Nat) : Bool := (d.comp.leaving.any fun e => e.1 == u) || d.comp.scrubbing.contains u

/-! ### Metering (R302) -/

/-- Whole microseconds in ticks of 320 ns, 8 for every 25; the rest stays to be counted. -/
def tickUs (t : Nat) : Nat := t / 25 * 8

/-- Firmware sums an asterism's counters. -/
def Ast.sumMeters (x : Ast) : Ast :=
  let m := x.meters
  let p := x.pendMeters
  { x with
    meters := {
      coreBound := wrapAdd 64 m.coreBound (tickUs p.coreBound), chanBound := wrapAdd 64 m.chanBound (tickUs p.chanBound)
      sliceBound := wrapAdd 64 m.sliceBound (tickUs p.sliceBound), funcBound := wrapAdd 64 m.funcBound (tickUs p.funcBound)
      coreBusy := wrapAdd 64 m.coreBusy (tickUs p.coreBusy), energy := wrapAdd 64 m.energy (p.energy / 1000)
      commands := wrapAdd 64 m.commands p.commands, granules := wrapAdd 64 m.granules p.granules }
    pendMeters := {
      coreBound := p.coreBound % 25, chanBound := p.chanBound % 25, sliceBound := p.sliceBound % 25
      funcBound := p.funcBound % 25, coreBusy := p.coreBusy % 25, energy := p.energy % 1000, commands := 0
      granules := 0 } }

/-- Firmware writes an asterism's counters to the flash log. -/
def Dev.snapshot (d : Dev) (now a : Nat) : Dev :=
  let d := d.onAst a Ast.sumMeters
  d.onComp fun c => { c with snaps := (now, a, (d.ast a).meters) :: c.snaps }

/-! ### The end of an asterism -/

/-- Has domain n retired: is no asterism of it outside FREE (R476)? -/
def Dev.domRetired (d : Dev) (n : Nat) : Bool :=
  d.comp.asts.all fun e => e.2.state == .free || d.domOf e.1 != n

/-- An asterism becomes FREE, its counters frozen; what its domain leaves behind is marked when the domain retires. -/
def Dev.astFree (d : Dev) (a : Nat) : Dev :=
  let n := d.domOf a
  let d := d.onAst a fun x => { x.sumMeters with
    state := .free, cur := none, prev := none, staged := CMap.empty 0 0, quiesce := none, paused := false, tileAt := none }
  if d.domRetired n then
    let mark := fun (_ : Nat) (o : Owner) => if o.lastDom = n ∧ o.dirty then { o with always := true } else o
    d.onComp fun c => { c with chans := Tbl.mapV mark c.chans, slices := Tbl.mapV mark c.slices }
  else d

/-- A dissolved asterism whose resources are all released is FREE (Table 9-1). -/
def Dev.settleAst (d : Dev) (a : Nat) : Dev :=
  if (d.ast a).state = .dissolving ∧ !d.comp.twoLive ∧ !(d.comp.leaving.any fun e => e.2.1 == a) then d.astFree a else d

/-! ### Release -/

/-- A unit leaves the list of those that await release. -/
def Dev.unlist (d : Dev) (u : Nat) : Dev := d.onComp fun c => { c with leaving := c.leaving.filter fun e => e.1 != u }

/-- A core that has left an asterism is released once the epoch has drained and its tile has ended (R282). -/
def Dev.releaseCore (d : Dev) (c : Nat) : Dev :=
  if d.comp.twoLive ∨ (d.coreAt c).tile.isSome then d
  else match d.comp.leaving.find? fun e => e.1 == c with
  | some (_, a, _) => ((d.unlist c).onCore c fun k => { k with bound := none }).settleAst a
  | none => d

/-- A channel or slice that has left an asterism is free, or is scrubbed first (R283, R473). -/
def Dev.releaseMem (d : Dev) (u a : Nat) (scrub : Bool) : Dev :=
  if scrub then
    (d.onOwner u fun o => { o with st := 3 }).onComp fun c => { c with
      scrubbing := if c.scrubbing.contains u then c.scrubbing else c.scrubbing ++ [u] }
  else ((d.unlist u).onOwner u fun o => { o with ast := 0, st := 0 }).settleAst a

end Sys2Proof.Machine
end

