-- ==== Sys2Proof/Machine/Operands.lean ====
section
/-!
DEFINITION. Operand forms: the fields of a step (Tables 3-6 to 3-10), of a tile program's header (Table 3-2) and of a
transfer descriptor (Tables 4-1, 4-2), the addresses they form (R73, R109), and the checks of Table 3-3 and R113.
-/

namespace Sys2Proof.Machine

/-! ### Step fields -/

/-- OP of a step. -/
def sOp (w : StepWord) : Nat := fld w 0 0 8
/-- FA of a control step. -/
def sFA (w : StepWord) : Nat := fld w 1 0 8
/-- FB of a control step. -/
def sFB (w : StepWord) : Nat := fld w 2 0 8
/-- The SPA of LDA and STAMP, bytes 2 and 3. -/
def sCSpa (w : StepWord) : Nat := fld w 2 0 16
/-- IMM of a control step. -/
def sImm (w : StepWord) : Nat := fld w 4 0 32
/-- IMM2 of a control step. -/
def sImm2 (w : StepWord) : Nat := fld w 8 0 32
/-- STREAM of a transfer step. -/
def sStream (w : StepWord) : Nat := fld w 1 0 3
/-- MODE of a transfer step. -/
def sMode (w : StepWord) : Nat := fld w 1 4 2
/-- WIN of XIN. -/
def sWin (w : StepWord) : Nat := fld w 2 0 8
/-- OFFREG of a transfer step. -/
def sOffReg (w : StepWord) : Nat := fld w 3 0 4
/-- The SPA at offset 4: transfer, accumulator SPA, MMA's A, D of the vector and data forms. -/
def sSpa (w : StepWord) : Nat := fld w 4 0 16
/-- The field at offset 6: MMA's B, PITCH of accumulator steps, A or S of the vector and data forms. -/
def sSix (w : StepWord) : Nat := fld w 6 0 16
/-- The field at offset 8: MMA's SA, B or AUX of the vector and data forms. -/
def sEight (w : StepWord) : Nat := fld w 8 0 16
/-- The field at offset 0xA: MMA's SB, C or ROWS of the vector and data forms. -/
def sTen (w : StepWord) : Nat := fld w 0xA 0 16
/-- DESC of a transfer step. -/
def sDesc (w : StepWord) : Nat := fld w 8 0 32
/-- OFFMUL of a transfer step. -/
def sOffMul (w : StepWord) : Nat := fld w 0xC 0 32
/-- ENG of a matrix or accumulator step. -/
def sEng (w : StepWord) : Nat := fld w 1 0 2
/-- ZERO of MMA. -/
def sZero (w : StepWord) : Bool := fld w 1 2 1 == 1
/-- RND of MMA. -/
def sMmaRnd (w : StepWord) : Nat := fld w 1 3 3
/-- RND of ACCRD. -/
def sAccRnd (w : StepWord) : Nat := fld w 1 2 3
/-- SAT of ACCRD. -/
def sAccSat (w : StepWord) : Bool := fld w 1 5 1 == 1
/-- FMTA of MMA, FMT of ACCRD. -/
def sFmtA (w : StepWord) : Nat := fld w 2 0 4
/-- FMTB of MMA. -/
def sFmtB (w : StepWord) : Nat := fld w 2 4 4
/-- DOFF of an accumulator step. -/
def sDoff (w : StepWord) : Nat := fld w 3 0 6
/-- ALPHA of ACCRD. -/
def sAlpha (w : StepWord) : Nat := fld w 8 0 32
/-- M of a matrix or accumulator step: MM1 + 1. -/
def sM (w : StepWord) : Nat := fld w 0xC 0 8 + 1
/-- I0 of a matrix or accumulator step. -/
def sI0 (w : StepWord) : Nat := fld w 0xD 0 8
/-- K of MMA. -/
def sK (w : StepWord) : Nat := fld w 0xE 0 16
/-- VOP code. -/
def sVop (w : StepWord) : Nat := fld w 1 0 6
/-- COND of CMP. -/
def sCond (w : StepWord) : Nat := fld w 1 6 2
/-- RND of a vector step. -/
def sVRnd (w : StepWord) : Nat := fld w 2 0 3
/-- FTZ of a vector step. -/
def sFtz (w : StepWord) : Bool := fld w 2 3 1 == 1
/-- SAT of a vector step. -/
def sVSat (w : StepWord) : Bool := fld w 2 4 1 == 1
/-- BCB of a vector step. -/
def sBcb (w : StepWord) : Bool := fld w 2 5 1 == 1
/-- BCC of a vector step. -/
def sBcc (w : StepWord) : Bool := fld w 2 6 1 == 1
/-- FMTS of a vector step. -/
def sFmtS (w : StepWord) : Nat := fld w 3 0 4
/-- FMTD of a vector step. -/
def sFmtD (w : StepWord) : Nat := fld w 3 4 4
/-- N of a vector step, COLS of a data step. -/
def sN (w : StepWord) : Nat := fld w 0xC 0 16
/-- IMM16 of a vector step, PITCH of a data step. -/
def sImm16 (w : StepWord) : Nat := fld w 0xE 0 16
/-- ESZ of a data step. -/
def sEsz (w : StepWord) : Nat := fld w 1 0 2
/-- TR of VMOV. -/
def sTr (w : StepWord) : Bool := fld w 1 2 1 == 1
/-- VALHI of VFILL. -/
def sValHi (w : StepWord) : Nat := fld w 2 0 16

/-- What executes a step (Table 3-5). -/
inductive SUnit where
  | seq
  | eng (e : Nat)
  | vec
  | xfer
  deriving DecidableEq, Repr

/-- The unit of a step, if its OP is in Table 3-5. -/
def stepUnit (w : StepWord) : Option SUnit :=
  match sOp w with
  | 0x0F | 0x10 | 0x11 => some .xfer
  | 0x20 | 0x21 | 0x22 | 0x23 => some (.eng (sEng w))
  | 0x30 | 0x31 | 0x32 | 0x33 | 0x34 => some .vec
  | op => if op ≤ 0x0E then some .seq else none

/-! ### Check 4: reserved fields (R69, R78 to R82, R56) -/

/-- Vector operations that round with the step's RND (R56). -/
def vopRounds (op : Nat) : Bool := op ≤ 0x03 || op == 0x0A || op == 0x0B || op == 0x0C || op == 0x0E
/-- Operations to which BCB applies (R82). -/
def vopBcb (op : Nat) : Bool := op ≤ 0x05 || op == 0x08 || op == 0x09
/-- Operations to which BCC applies (R82). -/
def vopBcc (op : Nat) : Bool := op == 0x00 || op == 0x09
/-- Is the code one of Table 2-10? -/
def vopOk (op : Nat) : Bool := op ≤ 0x1A || op == 0x3F

/-- Are a step's reserved fields zero, as check 4 counts them? -/
def stepClean (w : StepWord) : Bool :=
  match sOp w with
  | 0x00 | 0x01 => allZero w [(1, 0, 120)]
  | 0x02 => allZero w [(1, 2, 6), (2, 4, 4), (3, 0, 8), (8, 0, 64)]
  | 0x03 => allZero w [(1, 2, 6), (2, 0, 112)]
  | 0x04 => allZero w [(1, 4, 4), (2, 0, 16), (8, 0, 64)]
  | 0x05 | 0x06 => allZero w [(1, 4, 4), (2, 4, 4), (3, 0, 8), (8, 0, 64)]
  | 0x07 => allZero w [(1, 4, 4), (2, 4, 4), (3, 0, 8), (0xC, 0, 32)]
  | 0x08 => allZero w [(1, 6, 2), (2, 0, 112)]
  | 0x09 => allZero w [(1, 3, 5), (2, 4, 4), (3, 0, 8), (8, 0, 64)]
  | 0x0A => allZero w [(1, 3, 5), (2, 0, 16), (8, 0, 64)]
  | 0x0B => allZero w [(2, 0, 112)]
  | 0x0C => allZero w [(1, 0, 24), (8, 0, 64)]
  | 0x0D => allZero w [(1, 0, 8), (8, 0, 64)]
  | 0x0E => allZero w [(1, 4, 4), (8, 0, 64)]
  | 0x0F => allZero w [(1, 3, 5), (2, 0, 112)]
  | 0x10 => allZero w [(1, 3, 5), (3, 4, 4), (6, 0, 16)]
  | 0x11 => allZero w [(1, 3, 1), (1, 6, 2), (2, 0, 8), (3, 4, 4), (6, 0, 16)] && sMode w != 3
  | 0x20 => allZero w [(1, 6, 2), (3, 0, 8)]
  | 0x21 => allZero w [(1, 2, 6), (2, 0, 8), (3, 6, 2), (8, 0, 32), (0xE, 0, 16)]
  | 0x22 => allZero w [(1, 6, 2), (2, 4, 4), (3, 6, 2), (0xE, 0, 16)]
  | 0x23 => allZero w [(1, 2, 6), (2, 0, 80), (0xE, 0, 16)]
  | 0x30 =>
    let op := sVop w
    fld w 2 7 1 == 0 &&
    (!vopOk op || ((op == 0x08 || sCond w == 0) && (op == 0x0B || !sVSat w) && (op == 0x0A || sImm16 w == 0) &&
      (op == 0x0B || op == 0x0D || sFmtS w == 0) && (op == 0x0B || op == 0x0C || sFmtD w == 0) &&
      (vopRounds op || sVRnd w == 0) && (vopBcb op || !sBcb w) && (vopBcc op || !sBcc w)))
  | 0x31 => allZero w [(1, 3, 5), (2, 0, 16)] && sEsz w != 3
  | 0x32 => allZero w [(1, 2, 6), (6, 0, 16)] && sEsz w != 3
  | 0x33 | 0x34 => allZero w [(1, 2, 6), (2, 0, 16)] && sEsz w != 3
  | _ => false

/-! ### Checks 5 to 11 -/

/-- Check 5: format, rounding and VOP codes. -/
def stepCodes (w : StepWord) : Bool :=
  match sOp w with
  | 0x20 =>
    (match Fmt.ofCode (sFmtA w), Fmt.ofCode (sFmtB w) with
     | some a, some b => (pairGroup a b).isSome
     | _, _ => false) && sMmaRnd w ≤ 1
  | 0x22 => sFmtA w ≤ 5 && sAccRnd w ≤ 4
  | 0x30 =>
    let op := sVop w
    vopOk op && (!vopRounds op || sVRnd w ≤ (if op == 0x0B || op == 0x0C then 4 else 3)) &&
    (op != 0x0B || (sFmtS w ≤ 5 && sFmtD w ≤ 5)) &&
    (op != 0x0C || (6 ≤ sFmtD w && sFmtD w ≤ 8)) && (op != 0x0D || (6 ≤ sFmtS w && sFmtS w ≤ 8))
  | _ => true

/-- Check 6: the header names the step's unit. -/
def stepUnits (engines : Nat) (vector xfer : Bool) (w : StepWord) : Bool :=
  match stepUnit w with
  | some (.eng e) => bit engines e
  | some .vec => vector
  | some .xfer => xfer
  | _ => true

/-- Check 7: accumulator rows and K. -/
def stepRows (w : StepWord) : Bool :=
  match sOp w with
  | 0x20 => sI0 w + sM w ≤ 256 && sK w != 0 && (sFmtA w < 6 || sK w % 32 == 0)
  | 0x21 | 0x22 | 0x23 => sI0 w + sM w ≤ 256
  | _ => true

/-- Check 8: LOOP and ENDL pair by counter, nest four deep at most, no counter reused inside its own loop; the index of
the first step at fault.  `open_` holds the open loops, innermost first, as (counter, index). -/
def loopsBad : List StepWord → Nat → List (Nat × Nat) → Option Nat
  | [], _, open_ => open_.head?.map (·.2)
  | w :: l, i, open_ =>
    match sOp w with
    | 0x02 =>
      if open_.length == 4 || open_.any (fun p => p.1 == sFA w) then some i else loopsBad l (i + 1) ((sFA w, i) :: open_)
    | 0x03 =>
      (match open_ with
       | (k, _) :: rest => if k = sFA w then loopsBad l (i + 1) rest else some i
       | [] => some i)
    | _ => loopsBad l (i + 1) open_

/-- Check 9: AR15, WRAPA's modulus, XIN's ring. -/
def stepRegs (w : StepWord) : Bool :=
  match sOp w with
  | 0x04 | 0x05 | 0x06 | 0x0E => sFA w != 15
  | 0x07 => sFA w != 15 && sImm2 w != 0
  | 0x10 => 1 ≤ sWin w && sWin w ≤ 96
  | _ => true

/-- Is the step an XIN or XOUT? -/
def stepMoves (w : StepWord) : Bool := sOp w == 0x10 || sOp w == 0x11

/-! ### The program header (Table 3-2) -/

/-- NSTEPS. -/
def pSteps (h : Line) : Nat := fld h 1 0 8
/-- REPLAY. -/
def pReplay (h : Line) : Bool := fld h 2 0 1 == 1
/-- ENGINES. -/
def pEngines (h : Line) : Nat := fld h 3 0 4
/-- VECTOR. -/
def pVector (h : Line) : Bool := fld h 3 4 1 == 1
/-- XFER. -/
def pXfer (h : Line) : Bool := fld h 3 5 1 == 1
/-- DCOST_NS. -/
def pCost (h : Line) : Nat := fld h 4 0 16
/-- DENERGY, in 0.125 µJ. -/
def pEnergy (h : Line) : Nat := fld h 6 0 16
/-- PROG_LEN. -/
def pLen (h : Line) : Nat := fld h 8 0 32

/-- Index of the first step of which a check fails. -/
def firstBad (p : StepWord → Bool) (steps : List StepWord) : Option Nat := indexWhere (fun w => !p w) steps

/-- Checks 3 to 12 of Table 3-3, in order: number of the first that fails and index of the step. -/
def checkProgram (h : Line) (steps : List StepWord) : Option (Nat × Nat) :=
  if fld h 0 0 8 != 1 || pSteps h == 0 || 64 < pSteps h || pCost h == 0 || 32000 < pCost h ||
      !allZero h [(2, 1, 7), (3, 6, 2), (0xC, 0, 32)] then some (3, 0)
  else
    let run (n : Nat) (p : StepWord → Bool) (rest : Option (Nat × Nat)) : Option (Nat × Nat) :=
      match firstBad p steps with
      | some i => some (n, i)
      | none => rest
    run 4 (fun w => (stepUnit w).isSome && stepClean w) <|
    run 5 stepCodes <|
    run 6 (stepUnits (pEngines h) (pVector h) (pXfer h)) <|
    run 7 stepRows <|
    match loopsBad steps 0 [] with
    | some i => some (8, i)
    | none =>
      run 9 stepRegs <|
      run 10 (fun w => !stepMoves w || (sDesc w % 64 == 0 && sDesc w + 64 ≤ pLen h)) <|
      run 11 (fun w => !(pReplay h && sOp w == 0x11 && sMode w != 0)) <|
      if (steps.getLast?.map sOp) = some 0x01 then none else some (12, pSteps h - 1)

/-! ### Scratchpad addresses (R73) -/

/-- Bytes of scratchpad. -/
def spadBytes : Nat := 393216

/-- Register n of a tile; AR15 reads 0 (Table 3-4). -/
def arOf (ars : List W32) (n : Nat) : Nat := if n = 15 then 0 else (ars.getD n 0).toNat

/-- The effective address of an SPA: AR[n] + offset × 64. -/
def spaAddr (ars : List W32) (spa : Nat) : Nat := arOf ars (bits spa 12 4) + bits spa 0 12 * 64

/-- Is an operand of `n` bytes at an effective address `a` aligned and inside the scratchpad? -/
def spaOk (a n : Nat) : Bool := a % 64 == 0 && a + n ≤ spadBytes

/-! ### Descriptors (R108 to R113) -/

/-- A descriptor and its extension, as they lie in memory. -/
def Desc.parse (lo hi : Line) : Desc where
  ndim := fld lo 1 0 3
  kind := fld lo 2 0 2
  elem := fld lo 3 0 2
  space := fld lo 3 2 1
  base := fld lo 8 0 56
  n0 := fld lo 4 0 25
  n1 := fld lo 0x10 0 25
  n2 := fld lo 0x14 0 25
  n3 := fld lo 0x18 0 25
  n4 := fld lo 0x1C 0 25
  s1 := signed 48 (fld lo 0x20 0 48)
  s2 := signed 48 (fld lo 0x28 0 48)
  s3 := signed 48 (fld lo 0x30 0 48)
  s4 := signed 48 (fld lo 0x38 0 48)
  idxSpa := fld hi 0 0 16
  cntSpa := fld hi 2 0 16
  idxLimit := fld hi 4 0 32
  segTable := fld hi 8 0 56
  nseg := fld hi 0x10 0 8

/-- The largest extent. -/
def maxExtent : Nat := 16777216

/-- The extent of a dimension as a factor: an unused dimension counts 1 (R109). -/
def extent (n : Nat) : Nat := if n = 0 then 1 else n

/-- A transfer's total in bytes (R109). -/
def Desc.total (d : Desc) : Nat := d.n0 * extent d.n1 * extent d.n2 * extent d.n3 * extent d.n4

/-- The first field of a descriptor that fails R108 to R113, named by its byte offset (log entry 20).  `mode` is the
XOUT mode. -/
def descBad (lo hi : Line) (xout : Bool) (mode off progLen : Nat) : Option Nat :=
  let d := Desc.parse lo hi
  let e := 2 ^ d.elem
  let dim (i n : Nat) (s : Int) : Bool :=
    if i < d.ndim then 1 ≤ n && n ≤ maxExtent && s % e == 0 else n == 0 && s == 0
  let bad : List (Nat × Bool) := [
    (0x00, fld lo 0 0 8 != 1),
    (0x01, d.ndim == 0 || 5 < d.ndim || fld lo 1 3 5 != 0 || (d.kind != 0 && d.ndim < 2)),
    (0x02, d.kind == 3 || fld lo 2 2 6 != 0 || (mode == 2 && d.kind != 0)),
    (0x03, fld lo 3 3 5 != 0 || (mode != 0 && d.elem != 2) || (mode == 2 && d.space != 0)),
    (0x04, d.n0 == 0 || maxExtent < d.n0 || d.n0 % e != 0 || fld lo 4 25 7 != 0 || 2 ^ 40 < d.total),
    (0x08, d.base % e != 0 || fld lo 8 56 8 != 0),
    (0x10, !dim 1 d.n1 d.s1 || fld lo 0x10 25 7 != 0 || fld lo 0x20 48 16 != 0),
    (0x14, !dim 2 d.n2 d.s2 || fld lo 0x14 25 7 != 0 || fld lo 0x28 48 16 != 0),
    (0x18, !dim 3 d.n3 d.s3 || fld lo 0x18 25 7 != 0 || fld lo 0x30 48 16 != 0),
    (0x1C, !dim 4 d.n4 d.s4 || fld lo 0x1C 25 7 != 0 || fld lo 0x38 48 16 != 0)]
  let ext : List (Nat × Bool) := if d.kind == 0 then [] else [
    (0x40, progLen < off + 128),
    (0x42, d.cntSpa != 0 && !(d.kind == 2 && xout)),
    (0x44, (d.kind == 1 && d.idxLimit == 0) || (d.kind == 2 && d.idxLimit != 0)),
    (0x48, (d.kind == 1 && d.segTable != 0) || d.segTable % 64 != 0 || fld hi 8 56 8 != 0),
    (0x50, (d.kind == 1 && d.nseg != 0) || (d.kind == 2 && d.nseg == 0) || fld hi 0x10 8 24 != 0),
    (0x54, !allZero hi [(0x14, 0, 352)])]
  ((bad ++ ext).find? (·.2)).map (·.1)

/-- Index values (i0, i1, i2, i3, i4) of a stream byte (R109). -/
def Desc.index (d : Desc) (b : Nat) : Nat × Nat × Nat × Nat × Nat :=
  let r := b / d.n0
  let e1 := extent d.n1
  let e2 := extent d.n2
  let e3 := extent d.n3
  (b % d.n0, r % e1, r / e1 % e2, r / e1 / e2 % e3, r / e1 / e2 / e3)

/-- Memory-side address of a stream byte, given its dimension-1 term j1 (R109), modulo 2^56. -/
def Desc.addr (d : Desc) (b : Nat) (j1 : Int) : Nat :=
  let (i0, _, i2, i3, i4) := d.index b
  (((d.base : Int) + j1 + i2 * d.s2 + i3 * d.s3 + i4 * d.s4 + i0) % 2 ^ 56).toNat

/-- j1 of a strided descriptor (Table 4-3). -/
def Desc.j1 (d : Desc) (b : Nat) : Int := (d.index b).2.1 * d.s1

/-- The lowest and highest memory-side byte of a strided or indexed descriptor before wrapping: for the window check of
R111, with the largest index of dimension 1 given. -/
def Desc.span (d : Desc) (top1 : Nat) : Int × Int :=
  let lo (n : Nat) (s : Int) : Int := min 0 (((extent n : Int) - 1) * s)
  let hi (n : Nat) (s : Int) : Int := max 0 (((extent n : Int) - 1) * s)
  let l1 := min 0 ((top1 : Int) * d.s1)
  let h1 := max 0 ((top1 : Int) * d.s1)
  (d.base + l1 + lo d.n2 d.s2 + lo d.n3 d.s3 + lo d.n4 d.s4,
   d.base + h1 + hi d.n2 d.s2 + hi d.n3 d.s3 + hi d.n4 d.s4 + d.n0 - 1)

/-- The skip entry of an index list (R117). -/
def skipEntry : Nat := 0xFFFFFFFF

/-- Bytes of one chunk (R114). -/
def chunkBytes : Nat := 4096

/-! ### TILE and XFER (Tables 3-1, 4-5) -/

/-- PROG_OBJ of TILE, DESC_OBJ of XFER. -/
def tObj (x : Line) : Nat := fld x 0x10 0 24
/-- PROG_OFF of TILE, SRC_OFF of XFER. -/
def tOff (x : Line) : Nat := fld x 0x14 0 32
/-- TILE_COUNT. -/
def tCount (x : Line) : Nat := fld x 0x18 0 32
/-- TILE_BASE. -/
def tBase (x : Line) : Nat := fld x 0x1C 0 32
/-- ARG. -/
def tArg (x : Line) : Nat := fld x 0x20 0 32
/-- SEED. -/
def tSeed (x : Line) : Nat := fld x 0x24 0 32
/-- CORES_MAX of TILE. -/
def tCoresMax (x : Line) : Nat := fld x 0x28 0 16
/-- DPMASK of TILE. -/
def tDpMask (x : Line) : Nat := fld x 0x2A 0 8
/-- Table 3-1's reserved bytes are zero. -/
def tClean (x : Line) : Bool := allZero x [(0x13, 0, 8), (0x2B, 0, 168)]
/-- DST_OFF of XFER. -/
def xDst (x : Line) : Nat := fld x 0x18 0 32
/-- MODE of XFER. -/
def xMode (x : Line) : Nat := fld x 0x1C 0 2
/-- NOOVL of XFER. -/
def xNoOvl (x : Line) : Bool := fld x 0x1C 2 1 == 1
/-- CORES_MAX of XFER. -/
def xCoresMax (x : Line) : Nat := fld x 0x20 0 16
/-- DPMASK of XFER. -/
def xDpMask (x : Line) : Nat := fld x 0x22 0 8
/-- Table 4-5's reserved bits are zero. -/
def xClean (x : Line) : Bool := allZero x [(0x13, 0, 8), (0x1C, 3, 29), (0x23, 0, 232)] && xMode x < 2

/-- Bytes of one segment tile (R129). -/
def segBytes : Nat := 2097152

/-! ### SWEEP (Tables 7-1, 7-2) -/

/-- LIST. -/
def wList (x : Line) : Nat := fld x 0x10 0 56
/-- QADDR. -/
def wQaddr (x : Line) : Nat := fld x 0x18 0 56
/-- DEST. -/
def wDest (x : Line) : Nat := fld x 0x20 0 56
/-- DSPACE. -/
def wSlice (x : Line) : Bool := fld x 0x20 63 1 == 1
/-- LEN. -/
def wLen (x : Line) : Nat := fld x 0x28 0 40
/-- MAXBLK. -/
def wMaxBlk (x : Line) : Nat := fld x 0x28 40 24
/-- FIRST. -/
def wFirst (x : Line) : Nat := fld x 0x30 0 40
/-- NHEAD. -/
def wHeads (x : Line) : Nat := fld x 0x30 40 6 + 1
/-- QROWS. -/
def wRows (x : Line) : Nat := fld x 0x30 46 5 + 1
/-- DSEL. -/
def wDsel (x : Line) : Nat := fld x 0x30 51 2
/-- Head dimension D. -/
def wD (x : Line) : Nat := 64 * 2 ^ wDsel x
/-- FMT. -/
def wFmt (x : Line) : Nat := fld x 0x30 53 4
/-- MERGE. -/
def wMerge (x : Line) : Bool := fld x 0x30 57 1 == 1
/-- PULL. -/
def wPull (x : Line) : Bool := fld x 0x30 58 1 == 1
/-- SCALE. -/
def wScale (x : Line) : Nat := fld x 0x38 0 32

/-- Element bytes per vector E (Table 7-1). -/
def wE (x : Line) : Nat := if wFmt x = 2 then 2 * wD x else wD x
/-- Scale bytes per vector C. -/
def wC (x : Line) : Nat := if wFmt x = 6 then wD x / 32 else 0
/-- Tokens per block TPB: as many as fit in 4 KiB. -/
def wTpb (x : Line) : Nat := 2048 / (wE x + wC x)
/-- NBLK (R210). -/
def wNblk (x : Line) : Nat := ceilDiv (wLen x) (wTpb x)
/-- First block in range. -/
def wLo (x : Line) : Nat := wFirst x / wTpb x
/-- Blocks in range of one head (R210); nothing is distributed when FIRST = LEN. -/
def wCount (x : Line) : Nat := if wFirst x = wLen x then 0 else (wLen x - 1) / wTpb x + 1 - wLo x
/-- Bytes of a query row with its padding (R211). -/
def wPitch (x : Line) : Nat := ceilDiv (wE x + wC x) 64 * 64
/-- Row entries of a record. -/
def wEntries (x : Line) : Nat := wHeads x * wRows x
/-- RSZ (R217). -/
def wRsz (x : Line) : Nat := 64 + wEntries x * (16 + 4 * wD x)
/-- Table 7-2's reserved bits and codes, check 1 of Table 7-3. -/
def wClean (x : Line) : Bool :=
  allZero x [(0x10, 56, 8), (0x18, 56, 8), (0x20, 56, 7), (0x30, 59, 5), (0x3C, 0, 32)] && wDsel x != 3 &&
  (wFmt x == 2 || wFmt x == 3 || wFmt x == 4 || wFmt x == 6)

end Sys2Proof.Machine
end

