-- ==== Sys2Proof/Machine/Targets.lean ====
section
/-!
DEFINITION. A tile's scratchpad (R62), the rows its transfers name (R116 to R121), and the bytes that the spec leaves
undefined in memory: those an aborted tile's XOUTs target (R96, R123, R135) and the destination of a sweep that did not
complete (R227, R378).
-/

namespace Sys2Proof.Machine

/-! ### Scratchpad (R62) -/

/-- Read `n` bytes; a line the tile has not written reads as zeros. -/
def Tile.rd (t : Tile) (a n : Nat) : List Byte := (List.range n).map fun i => Tbl.look 0 t.spad (a + i)

/-- The value of `n` bytes. -/
def Tile.val (t : Tile) (a n : Nat) : Nat := ofBytes (t.rd a n)

/-- Insert into a rising list without repeats. -/
def insertNew (x : Nat) : List Nat → List Nat
  | [] => [x]
  | y :: l => if x < y then x :: y :: l else if x = y then y :: l else y :: insertNew x l

/-- Write bytes from an address on, setting the lines' written bits. -/
def Tile.wr (t : Tile) (a : Nat) (bs : List Byte) : Tile :=
  { t with
    spad := (bs.zipIdx).foldl (fun m (b, i) => Tbl.putD 0 m (a + i) b) t.spad
    written := (List.range (ceilDiv (a % 64 + bs.length) 64)).foldl (fun l i => insertNew (a / 64 + i) l) t.written }

/-- Write a value of `n` bytes. -/
def Tile.put (t : Tile) (a n v : Nat) : Tile := t.wr a (toBytes n v)

/-! ### Tags, slices and rows -/

/-- The map epoch under which a die pair issues requests (R273). -/
def Dev.epochAt (d : Dev) (dp : Nat) : Nat :=
  if d.comp.twoLive ∧ !d.comp.adopted.contains dp then d.comp.prevEpoch else d.comp.epoch

/-- The tags of a tile's requests (R23). -/
def Dev.tileTags (d : Dev) (c : Nat) (t : Tile) : Tags where
  ast := t.own.ast
  dom := t.own.dom
  ctx := t.own.ctx
  cls := t.own.cls
  epoch := d.epochAt (coreDp c)
  host := false

/-- Bytes of a slice (R233). -/
def sliceBytes : Nat := 3145728

/-- The slice and granule at an offset of an asterism's slice window (R234). -/
def Dev.sliceAt (d : Dev) (a e off : Nat) : Option (Nat × Nat) :=
  (d.mapOf a e).bind fun m => m.slices[off / sliceBytes]?.map fun k => (k, off % sliceBytes / 64)

/-- Byte offset added to stream positions: a segment tile starts at its first byte (R129). -/
def Tile.base (t : Tile) : Nat := (t.seg.map (·.lo)).getD 0

/-- What a row of a transfer needs before its bytes have addresses. -/
inductive Row where
  | skip
  | at_ (j1 : Int)
  /-- The segment-table entry is not yet known. -/
  | table (seg row : Nat)
  /-- A slot is to be allocated. -/
  | alloc (seg row : Nat)
  | bad (row entry : Nat)
  deriving DecidableEq, Repr

/-- The row of stream byte `b`. -/
def Tile.rowOf (t : Tile) (x : Desc) (segs : Tbl Seg) (inb : Bool) (b : Nat) : Row :=
  let i1 := (x.index b).2.1
  let e := t.val (x.idxSpa + 4 * i1) 4
  match x.kind with
  | 0 => .at_ (x.j1 b)
  | 1 => if e = skipEntry then .skip else if x.idxLimit ≤ e then .bad i1 e else .at_ ((e : Int) * x.s1)
  | _ =>
    let g := e / 2 ^ 24
    let w : Nat := e % 2 ^ 24
    if e = skipEntry then .skip
    else if x.nseg ≤ g ∨ (inb ∧ w = 0xFFFFFF) then .bad i1 e
    else match Tbl.find segs g with
      | none => .table g i1
      | some s => if w = 0xFFFFFF then .alloc g i1 else .at_ ((s.sbase : Int) + (w : Int) * x.s1)

/-- A granule holding `bs` from byte `o` on. -/
def placeBytes (o : Nat) (bs : List Byte) : Line := BitVec.ofNat 512 (ofBytes bs * 2 ^ (8 * o))

/-- Byte mask of `len` bytes from byte `o` on. -/
def maskOf (o len : Nat) : Nat := (2 ^ len - 1) * 2 ^ o

/-! ### Undefined bytes in memory (R96, R123, R135, R227, R378) -/

/-- Where the byte at a virtual address of a requester lies in device memory, when it may be written there: the page is
the requester's, writable and present, and not a window onto host memory (Table 6-4). -/
def Dev.homeOf (d : Dev) (t : Tags) (va : Nat) : Option (Nat × Nat) :=
  match (d.mapOf t.ast t.epoch).bind (·.route va) with
  | none => none
  | some r =>
    match entryAt (d.stack (chanStack r.l)).table t.ast va with
    | none => none
    | some (_, e) =>
      if e.ast = t.ast ∧ e.dom = t.dom ∧ (e.shr = true ∨ e.ctx = t.ctx) ∧ e.wr = true ∧ e.p = true ∧ e.ps = r.ps ∧
          r.r < e.share ∧ (e.pool && d.poolHost e.pidx) = false then
        some (r.l, (e.frame + r.r) * 4096 + va % 4096)
      else none

/-- Bytes of one granule take a free value; a granule that its owner may not read stays as it is (log entry 122). -/
def Dev.spoilLine (d : Dev) (t : Tags) (space va len : Nat) : Dev :=
  let (v, d) := d.draw .undefinedByte
  let mask := maskOf (va % 64) len
  let mix := fun (old : Line) => mergeBytes mask old (BitVec.ofNat 512 v)
  if space = 0 then
    match d.homeOf t va with
    | none => d
    | some (l, off) =>
      let g := d.gran (granKey (d.physChan l) (granOf off))
      if (d.metaCheck (chanStack l) off g t.access).isSome then d
      else d.putGran l (granOf off) (d.encrypt (chanStack l) (mix (d.plain (chanStack l) g)) t.access)
  else match d.sliceAt t.ast t.epoch va with
    | none => d
    | some (k, g) =>
      let old := d.sgran (sliceKey k g)
      if old.poison then d else d.setSgran (sliceKey k g) ⟨mix old.data, false⟩

/-- A target's bytes take free values, granule by granule; the first argument bounds their number. -/
def Dev.spoil (t : Tags) : Nat → Target → Dev → Dev
  | 0, _, d => d
  | n + 1, g, d =>
    if g.len = 0 then d
    else
      let k := min g.len (64 - g.va % 64)
      Dev.spoil t n { g with va := (g.va + k) % 2 ^ 56, len := g.len - k } (d.spoilLine t g.space g.va k)

/-- Targets one after another. -/
def Dev.spoilAll (d : Dev) (t : Tags) (l : List Target) : Dev := l.foldl (fun d g => Dev.spoil t g.len g d) d

/-- A target that goes on where the last one ended makes one with it. -/
def addTarget (l : List Target) (g : Target) : List Target :=
  match l.getLast? with
  | some x => if x.space = g.space ∧ x.va + x.len = g.va then l.dropLast ++ [{ x with len := x.len + g.len }] else l ++ [g]
  | none => [g]

/-- What an XOUT still has to write from stream byte `b` on; rows that name no place have none.  The first argument bounds
the rows. -/
def Tile.ahead (t : Tile) (x : Xout) : Nat → Nat → List Target
  | 0, _ => []
  | n + 1, b =>
    if x.total ≤ b then []
    else
      let room := min (x.desc.n0 - (x.desc.index (t.base + b)).1) (x.total - b)
      match t.rowOf x.desc x.segs false (t.base + b) with
      | .at_ j1 => ⟨x.desc.space, x.desc.addr (t.base + b) j1, room⟩ :: t.ahead x n (b + room)
      | _ => t.ahead x n (b + room)

/-- What a tile's executed XOUTs target: what they have sent, and what they have not. -/
def Tile.targets (t : Tile) : List Target :=
  t.sent ++ t.outs.flatMap fun o => o.xouts.flatMap fun x => t.ahead x x.total x.next

/-- An aborted tile leaves free values where its XOUTs go (R96). -/
def Dev.spoilTile (d : Dev) (c : Nat) (t : Tile) : Dev := d.spoilAll (d.tileTags c t) t.targets

end Sys2Proof.Machine
end

