-- ==== Sys2Proof/Machine/Abort.lean ====
section
/-!
DEFINITION. The end of a tile on its core: what its leaving gives back (R89, R102), the end of its command (R86, R98),
and the one abort operation (Table 3-12, R96, R97).
-/

namespace Sys2Proof.Machine

/-- Unit identifier of a core. -/
def coreUnit (c : Nat) : Nat := unitId 0 c

/-- Is a request the core's own? -/
def Req.ofCore (r : Req) (c : Nat) : Bool :=
  match r.who with
  | .engine k .. | .alloc k .. => k == c
  | _ => false

/-- Every outstanding request of a core is completed, and matching answers are discarded (R102). -/
def Dev.cancelCore (d : Dev) (c : Nat) : Dev :=
  let d := d.onNet fun n => { n with
    reqs := n.reqs.filter fun r => !r.ofCore c
    resps := n.resps.filter fun r => !r.req.ofCore c
    faults := n.faults.map fun m => match m.req with
      | some r => if r.ofCore c then { m with req := none } else m
      | none => m
    red := Tbl.mapV (fun _ l => l.map fun e => { e with parts := e.parts.filter fun r => !r.ofCore c }) n.red }
  { d with
    stk := Tbl.mapV (fun _ (t : Stack) => { t with
      walks := t.walks.filter fun w => !w.req.ofCore c
      biWait := t.biWait.filter fun r => !r.ofCore c
      pend := Tbl.mapV (fun _ p => { p with waiting := p.waiting.filter fun r => !r.ofCore c }) t.pend }) d.stk
    cxl := { d.cxl with links := Tbl.mapV (fun _ l => { l with pri := l.pri.filter fun p => !p.2.ofCore c }) d.cxl.links } }

/-- A core that a SPARE_SWAP waits for is fenced, its reset started, once it is idle (R291). -/
def Dev.swapIdle (d : Dev) (now c : Nat) : Dev :=
  if (d.coreAt c).tile.isNone && d.comp.swaps.any fun w => !w.slice && w.wait && w.unit == c then
    (d.onComp fun x => { x with swaps := x.swaps.map fun w => if !w.slice && w.unit == c then { w with wait := false } else w })
      |>.onCore c fun k => { k with gate := true, svc := .fenced, resetAt := some now, resetCause := .sparSwap }
  else d

/-- The tile leaves its core: requests cancelled, credits and leave returned, the core in service state `svc` in Dusk,
one tile of its command fewer running (R13, R89, R407); a core that has left its asterism is released. -/
def Dev.dropTile (d : Dev) (now c : Nat) (t : Tile) (svc : Svc) : Dev :=
  let d := (d.cancelCore c).returnLeave (coreDp c) t.leave t.booking
  let d := d.onCmd t.own.cmd fun m => { m with
    running := m.running - 1
    granted := List.zipWith (· - ·) m.granted t.credits }
  let d := d.onCore c fun k => { k with tile := none, svc := svc, pwr := .dusk, duskAt := now }
  (d.releaseCore c).swapIdle now c

/-- Are all of a command's tiles over?  With an outcome already forced, no further tile is dispatched (R98). -/
def Cmd.tilesOver (m : Cmd) : Bool :=
  m.phase == .running && m.running == 0 && decide (0 < m.tiles) &&
    (m.forced.isSome || (decide (m.tiles ≤ m.next) && m.redo.isEmpty))

/-- A command whose tiles are over reaches its completion point (R86, R98). -/
def Dev.endTiles (d : Dev) (now id : Nat) : Dev :=
  match Tbl.find d.hif.cmds id with
  | some m => if m.tilesOver then d.finish now id (m.forced.getD .completed) else d
  | none => d

/-- An outcome is noted for a command once; later ones change nothing (R98). -/
def Cmd.force (m : Cmd) (st : CStatus) (err : Nat) : Cmd :=
  if m.forced.isSome then m else { m with forced := some st, err := err }

/-- Causes of tile abort (Table 3-12). -/
inductive Abort where
  /-- A hard fault: FAULTED or POOL_LOST. -/
  | hard (st : CStatus)
  /-- The watchdog. -/
  | watchdog
  /-- Scratchpad double-bit error or engine parity. -/
  | error
  /-- The core is fenced for any other reason. -/
  | fence
  /-- TRAP, stream misuse, scratchpad range and the like. -/
  | misuse
  /-- A poisoned slice granule. -/
  | poison
  /-- The stall allowance spent, REPLAY = 1. -/
  | stall
  /-- The command's context is revoked while the tile is stalled (Table 10-17). -/
  | revoked
  /-- A host that the tile reached over CXL is lost, or its link insecure (R398). -/
  | peer
  deriving DecidableEq, Repr

/-- Does Table 3-12 replay a replayable tile for this cause? -/
def Abort.replays : Abort → Bool
  | .watchdog | .error | .fence | .stall => true
  | _ => false

/-- The command's outcome where the tile is not replayed (Table 3-12). -/
def Abort.outcome : Abort → CStatus
  | .hard st => st
  | .watchdog | .misuse | .stall => .faulted
  | .error | .fence | .poison => .fenced
  | .revoked => .revoked
  | .peer => .peerLost

/-- Does the outcome fault the context? -/
def Abort.faults : Abort → Bool
  | .hard _ | .watchdog | .misuse | .stall => true
  | _ => false

/-- The cause of a core reset that the abort brings with it (R102). -/
def Abort.reset : Abort → Option ResetCause
  | .watchdog => some .watchdog
  | .error => some .spadUe
  | _ => none

/-- A tile is aborted: what its XOUTs target is undefined, it leaves its core, and is queued for replay or ends its command
(R96 to R98). -/
def Dev.abortTile (d : Dev) (now c : Nat) (k : Abort) (err : Nat) (svc : Svc := .idle) : Dev :=
  match (d.coreAt c).tile with
  | none => d
  | some t =>
    let id := t.own.cmd
    let d := ((d.spoilTile c t).dropTile now c t svc).onCore c fun x => { x with aborts := satAdd 8 x.aborts 1 }
    let again := k.replays && t.own.replay
    let d := if again && decide (3 ≤ t.replays) then
        d.raise 0x0107 (coreUnit c) 0x06 .contained [] (some (t.own.ast, t.own.ctx)) else d
    let d := if again && decide (t.replays < 3) then
        d.onCmd id fun m => { m with
          redo := m.redo ++ [⟨t.own.t, t.replays + 1, c⟩], replayed := true }
      else
        let d := d.onCmd id fun m => m.force k.outcome err
        if k.faults then d.faultCtx t.own.ctx else d
    ((d.endTiles now id).after now)

/-- A core starts its reset: fenced, its gate closed, its tile aborted (Table 3-16, steps 1 to 3). -/
def Dev.startReset (d : Dev) (now c : Nat) (cause : ResetCause) (k : Abort) (err : Nat) : Dev :=
  let d := d.onCore c fun x => { x with gate := true }
  let d := (d.cancelCore c).abortTile now c k err .fenced
  d.onCore c fun x => { x with svc := .fenced, resetAt := some now, resetCause := cause }

end Sys2Proof.Machine
end

