-- ==== Sys2Proof/Machine/Plan.lean ====
section
/-!
DEFINITION. What admission, dispatch and the leave governor reckon with: clocks and leave power (R415, R423),
concurrency and link credits (R125, R366), the demand test (R358 to R361), the sweep book (R363), memory rates and
bridge traffic (R364, R365), energy (R427), and the shed order (R375).
-/

namespace Sys2Proof.Machine

/-! ### Clocks and leave power -/

/-- Core clock of an operating point, MHz (Table 13-6). -/
def opMhz (k : Nat) : Nat := [1000, 1350, 1600, 1850, 2100, 2300, 2500, 2700].getD k 1000

/-- VSET of a die pair at an operating point, mV (R415). -/
def Dev.vset (d : Dev) (dp k : Nat) : Nat := d.get (PWR_OPP_TABLE.VSET (8 * dp + k))

/-- Leave power of a tile at its die pair's point, rounded up to 1 mW (R423). -/
def Dev.leavePower (d : Dev) (denergy dcost dp : Nat) : Nat :=
  let k := (d.pmu dp).op
  let v := d.vset dp k
  let v7 := d.vset dp 7
  ceilDiv (denergy * 125000 * v * v * opMhz k) (v7 * v7 * dcost * 2700)

/-- Leave power of a command's tiles on a die pair; 0 for a tile that takes none. -/
def Dev.cmdLeave (d : Dev) (m : Cmd) (dp : Nat) : Nat :=
  if m.segs.isSome || pEngines m.hdr == 0 then 0 else d.leavePower (pEnergy m.hdr) (pCost m.hdr) dp

/-! ### Cores -/

/-- Does a DPMASK allow a die pair?  (0 allows every one) -/
def maskAllows (mask dp : Nat) : Bool := mask == 0 || bit mask dp
/-- Cores of an asterism under the current epoch. -/
def Dev.coresOf (d : Dev) (a : Nat) : List Nat := ((d.curMap a).map (·.cores)).getD []
/-- Those of them on the die pairs that a DPMASK allows. -/
def Dev.coresIn (d : Dev) (a mask : Nat) : List Nat := (d.coresOf a).filter fun c => maskAllows mask (coreDp c)
/-- Is a core in service and not FENCED, RESETTING or FAILED?  (R358) -/
def Core.serving (k : Core) : Bool :=
  match k.svc with
  | .idle | .loading | .running | .stalled | .draining => true
  | _ => false
/-- N, or N_c for a mask (R358); the cores that the cap holds idle are left out, N × (1 − h) by die pair (R433). -/
def Dev.servingIn (d : Dev) (a mask : Nat) : Nat :=
  let l := (d.coresIn a mask).filter fun c => (d.coreAt c).serving
  diePairs.foldl (fun n p => n + (l.filter fun c => coreDp c == p).length * (16 - (d.pmu p).held) / 16) 0
/-- DPMASK of a TILE or XFER. -/
def cmdMask (x : Line) : Nat := if hOp x = 1 then tDpMask x else xDpMask x
/-- CORES_MAX of a TILE or XFER. -/
def cmdCores (x : Line) : Nat := if hOp x = 1 then tCoresMax x else xCoresMax x

/-- R of R125: the tiles that may run at once. -/
def Dev.concurrency (d : Dev) (a tiles : Nat) (x : Line) : Nat :=
  let n := min tiles (d.coresIn a (cmdMask x)).length
  if cmdCores x = 0 then n else min n (cmdCores x)

/-! ### Link credits (R125, R366) -/

/-- The link (port × 2 + half) through which an asterism is attached on a port. -/
def Dev.linkOf (d : Dev) (a p : Nat) : Option Nat :=
  match (d.ast a).funcs.getD p (0, false) with
  | (0, _) => none
  | (_, half) => some (p * 2 + half.toNat)
/-- ADM_LINKRES of a port. -/
def Dev.linkRes (d : Dev) (a p : Nat) : Nat := bits (d.reg (ADM_LINKRES.off a)) (12 * p) 12
/-- L_p: 0 where the asterism has no function attached. -/
def Dev.lp (d : Dev) (a p : Nat) : Nat := if (d.linkOf a p).isSome then d.linkRes a p else 0
/-- Credit total of a link (Table 12-2): 0 while it is DOWN, or without new IDE keys after an IDE failure (R398). -/
def Dev.linkTotal (d : Dev) (k : Nat) : Nat :=
  let l := d.link k
  if l.state = 0 ∨ l.insecure then 0 else if 16 ≤ l.width then 2048 else 1024
/-- Credits of a link reserved by guaranteed commands; a shed command keeps its reservation. -/
def Dev.linkGuar (d : Dev) (k : Nat) : Nat :=
  d.hif.cmds.foldl (fun n e =>
    if e.2.guar && d.linkOf e.2.ast (k / 2) == some k then n + e.2.resv.credits.getD (k / 2) 0 else n) 0
/-- Credits of a link held by best-effort tiles. -/
def Dev.linkBe (d : Dev) (k : Nat) : Nat :=
  d.core.foldl (fun n e => match e.2.tile with
    | some t => if !t.own.guar && d.linkOf t.own.ast (k / 2) == some k then n + t.credits.getD (k / 2) 0 else n
    | none => n) 0

/-- The credits a tile of a command is granted at dispatch, per port; none while they are not free. -/
def Dev.tileCredits (d : Dev) (m : Cmd) : Option (List Nat) :=
  let r := max 1 (d.concurrency m.ast m.tiles m.slot)
  let want := (List.range 4).map fun p =>
    let l := if m.guar then m.resv.credits.getD p 0 else d.lp m.ast p
    if l = 0 then 0 else max 1 (l / r)
  let free := (List.range 4).all fun p =>
    let c := want.getD p 0
    if c = 0 then true
    else if m.guar then decide (m.granted.getD p 0 + c ≤ m.resv.credits.getD p 0)
    else match d.linkOf m.ast p with
      | some k => decide (d.linkGuar k + d.linkBe k + c ≤ d.linkTotal k)
      | none => true
  if free then some want else none

/-! ### The demand test (R356 to R361) -/

/-- Time is reckoned in units of 1/152,499,200 ns, in which every tile time is whole: 64 for INFL, 2,382,800 for the
eight core clocks. -/
def unitsPerNs : Nat := 152499200
/-- Tile time t in those units: an accounted cost in 1/64 ns, stated at 2.70 GHz, run at `f` MHz. -/
def tileUnits (acc f : Nat) : Nat := acc * (2700 * 2382800 / f)

/-- A command as the demand test sees it: deadline in ns, tile time, and work × D in core-units. -/
structure Job where
  deadline : Nat
  t : Nat
  work : Nat
  deriving DecidableEq, Repr

/-- Is the command one whose tiles run on cores? -/
def Cmd.onCores (m : Cmd) : Bool := hOp m.slot == 1 || hOp m.slot == 2
/-- Tiles not yet dispatched. -/
def Cmd.toGo (m : Cmd) : Nat := if m.forced.isSome then 0 else m.tiles - m.next + m.redo.length

/-- Remaining accounted time of a running tile, in units; past its accounted time it counts 0 (R359). -/
def Tile.remaining (t : Tile) (r : Resv) : Nat := tileUnits (r.acc - ceilDiv (t.cy * 10) 27 * 64) r.fMhz

/-- Remaining accounted time of the running tiles of the commands that `p` holds of. -/
def Dev.runningUnits (d : Dev) (p : Nat → Cmd → Bool) : Nat :=
  d.core.foldl (fun n e => match e.2.tile with
    | some t => (match Tbl.find d.hif.cmds t.own.cmd with
        | some m => if p t.own.cmd m then n + t.remaining m.resv else n
        | none => n)
    | none => n) 0

/-- N_c of a command. -/
def Dev.nc (d : Dev) (m : Cmd) : Nat := d.servingIn m.ast (cmdMask m.slot)

/-- A committed command as a job, over the common denominator `den` of the N_c. -/
def Dev.jobOf (d : Dev) (den id : Nat) (m : Cmd) : Job :=
  if m.onCores then
    let t := tileUnits m.resv.acc m.resv.fMhz
    let c := max 1 (d.nc m)
    { deadline := m.deadline, t := t
      work := m.toGo * t * d.servingIn m.ast 0 * (den / c) + d.runningUnits (fun i _ => i == id) * den }
  else { deadline := m.deadline, t := 0, work := 0 }

/-- The book of an asterism (R359). -/
def Dev.book (d : Dev) (a : Nat) : List (Nat × Cmd) := d.hif.cmds.filter fun e => e.2.inBook && e.2.ast == a

/-- Least common multiple of a list of positive numbers. -/
def lcmAll (l : List Nat) : Nat := l.foldl (fun x y => Nat.lcm x (max 1 y)) 1

/-- Jobs of a list of commands in the order of the demand test: by deadline, then by acceptance. -/
def Dev.jobs (d : Dev) (den : Nat) (l : List (Nat × Cmd)) : List Job :=
  (sortBy (fun x y => decide (x.2.deadline ≤ y.2.deadline)) l).map fun e => d.jobOf den e.1 e.2

/-- b + Σ W ≤ N × (d − now − t) for one job, all × D. -/
def Job.ok (j : Job) (now n den sum : Nat) : Bool :=
  decide (now ≤ j.deadline) && decide (sum + n * den * j.t ≤ n * den * ((j.deadline - now) * unitsPerNs))

/-- The demand test over jobs in order, `sum` being b and the work before them (R360). -/
def jobsOk (now n den : Nat) : Nat → List Job → Bool
  | _, [] => true
  | sum, j :: l => j.ok now n den (sum + j.work) && jobsOk now n den (sum + j.work) l

/-- The smallest B of R361 for a job of work `w` and tile time `t`, no smaller than `lo`; `prev` is the deadline before
its place. -/
def findBound (now n den w t lo : Nat) : Nat → Nat → List Job → Option Nat
  | sum, prev, rest =>
    let own := ceilDiv (t * n * den + sum + w) (n * den * (1000 * unitsPerNs))
    let b := max lo (max (ceilDiv (prev - now) 1000) own)
    match rest with
    | [] => some b
    | j :: l =>
      if now + b * 1000 < j.deadline && jobsOk now n den (sum + w) (j :: l) then some b
      else if j.ok now n den (sum + j.work) then findBound now n den w t lo (sum + j.work) j.deadline l
      else none

/-- The blocking term b of an asterism, × D (R359). -/
def Dev.blocking (d : Dev) (a den : Nat) : Nat := d.runningUnits (fun _ m => m.ast == a && !m.inBook) * den

/-- Does the book of an asterism pass the demand test? -/
def Dev.bookOk (d : Dev) (now a : Nat) : Bool :=
  let l := d.book a
  let den := lcmAll ((l.filter (·.2.onCores)).map fun e => d.nc e.2)
  jobsOk now (d.servingIn a 0) den (d.blocking a den) (d.jobs den l)

/-- S_c in units (R358). -/
def spanUnits (tiles conc t : Nat) : Nat := ceilDiv tiles (max 1 conc) * t + 2000 * unitsPerNs

/-- B within LIMIT_US, when nonzero, and MAX_BOUND_US. -/
def Dev.boundFits (d : Dev) (limit b : Nat) : Bool :=
  (limit == 0 || decide (b ≤ limit)) && decide (b ≤ d.get ADM_CTRL.MAX_BOUND_US)

/-- The bound of a new TILE or XFER command, or none (R361, R362). -/
def Dev.chooseBound (d : Dev) (now : Nat) (m : Cmd) : Option Nat :=
  let l := d.book m.ast
  let nc := d.nc m
  let n := d.servingIn m.ast 0
  if n = 0 ∨ nc = 0 then none
  else
    let den := lcmAll (nc :: (l.filter (·.2.onCores)).map fun e => d.nc e.2)
    let t := tileUnits m.resv.acc m.resv.fMhz
    let w := m.tiles * t * n * (den / nc)
    let lo := max 1 (ceilDiv (spanUnits m.tiles m.resv.conc t) (1000 * unitsPerNs))
    match findBound now n den w t lo (d.blocking m.ast den) now (d.jobs den l) with
    | some b => if d.boundFits (hLimit m.slot) b then some b else none
    | none => none

/-! ### The sweep book (R363) -/

/-- Stack work W_s in ns, rounded up: MAXBLK × INFL / 4 × T, with T the larger of the compute time and two
transactions at the class's rate. -/
def sweepWork (x : Line) (infl rate : Nat) : Nat :=
  let f := if wFmt x = 2 then 2 else 1
  let comp := wRows x * wTpb x * wD x * f
  let t := if rate = 0 then 2 ^ 40 else max comp (ceilDiv (2048 * 12288) rate)
  ceilDiv (wMaxBlk x * infl * t) (4 * 12288)

/-- A job of a stack: deadline, work, guaranteed. -/
structure StackJob where
  deadline : Nat
  work : Nat
  guar : Bool
  deriving DecidableEq, Repr

/-- The jobs of a stack, guaranteed ones by deadline first. -/
def Dev.stackJobs (d : Dev) (s : Nat) : List StackJob :=
  let l := d.hif.cmds.filterMap fun e => match Tbl.find e.2.resv.sweep s with
    | some w => some { deadline := e.2.deadline, work := w, guar := e.2.inBook : StackJob }
    | none => none
  sortBy (fun x y => x.guar && (!y.guar || decide (x.deadline ≤ y.deadline))) l

/-- Does every guaranteed job of a stack fit?  `sum` is the work of the jobs of earlier deadline. -/
def stackOk (now : Nat) : Nat → List StackJob → Bool
  | _, [] => true
  | sum, j :: l =>
    (!j.guar || (decide (now ≤ j.deadline) &&
      decide (sum + j.work + l.foldl (fun n k => n + min k.work j.work) 0 ≤ j.deadline - now))) &&
      stackOk now (sum + j.work) l

/-- The smallest whole µs at which a new job of work `w` keeps a stack's book passing. -/
def stackBound (now w : Nat) : Nat → Nat → List StackJob → Option Nat
  | sum, prev, rest =>
    let own := sum + w + rest.foldl (fun n k => n + min k.work w) 0
    let b := max (ceilDiv (prev - now) 1000) (ceilDiv own 1000)
    match rest with
    | [] => some (max 1 b)
    | j :: l =>
      if !j.guar then some (max 1 b)
      else if now + b * 1000 < j.deadline && stackOk now (sum + w) (j :: l) then some (max 1 b)
      else if decide (now ≤ j.deadline) &&
          decide (sum + j.work + l.foldl (fun n k => n + min k.work j.work) 0 ≤ j.deadline - now) then
        stackBound now w (sum + j.work) j.deadline l
      else none

/-- The bound of a new guaranteed SWEEP: the largest of the stacks', plus the list read time and 10 µs (R363). -/
def Dev.sweepBound (d : Dev) (now : Nat) (m : Cmd) : Option Nat :=
  let bs := m.resv.sweep.map fun e => stackBound now e.2 0 now (d.stackJobs e.1)
  if bs.any (·.isNone) then none
  else
    let top := bs.foldl (fun n b => max n (b.getD 0)) 0
    let b := top + ceilDiv (wCount m.slot * wHeads m.slot) 14400 + 10
    if d.boundFits (hLimit m.slot) b then some b else none

/-! ### Memory rates (R364) and bridge traffic (R365) -/

/-- RATE of an asterism and class. -/
def Dev.rate (d : Dev) (a k : Nat) : Nat := d.get (ADM_MEMRES.RATE (8 * a + k))

/-- The active pairs: those of a command in a book; a guaranteed ACQUIRE activates none. -/
def Dev.activePairs (d : Dev) : List (Nat × Nat) :=
  ((d.hif.cmds.filter fun e => e.2.inBook && hOp e.2.slot != 6).map fun e => (e.2.ast, e.2.cls)).dedup

/-- The limit of a logical channel. -/
def Dev.chanLimit (d : Dev) (l : Nat) : Nat := min (d.get ADM_DERATE.DERATE) (d.get (STK_STATUS.DELIV (chanStack l)))
/-- The active rates of an asterism together, for given pairs. -/
def Dev.activeRate (d : Dev) (a : Nat) (ps : List (Nat × Nat)) : Nat :=
  (ps.filter fun p => p.1 == a).foldl (fun n p => n + d.rate a p.2) 0
/-- Channels of an asterism under the current epoch. -/
def Dev.chansOf (d : Dev) (a : Nat) : List Nat := ((d.curMap a).map (·.chans)).getD []
/-- The rates of given pairs fit on one channel. -/
def Dev.chanOk (d : Dev) (a l : Nat) (ps : List (Nat × Nat)) : Bool := decide (d.activeRate a ps ≤ d.chanLimit l)

/-- The bridge between two neighbouring die pairs (Table 0-7). -/
def bridgeOf (x y : Nat) : Nat := if x / 4 = y / 4 then x / 4 * 3 + min (x % 4) (y % 4) else 6 + x % 4
/-- A bridge. -/
def Dev.bridge (d : Dev) (b : Nat) : Bridge := Tbl.look Bridge.reset d.net.bridges b
/-- Columns after `a` up to and including `b`, in order. -/
def colsTo (a b : Nat) : List Nat :=
  if a ≤ b then (List.range (b - a)).map (a + 1 + ·) else (List.range (a - b)).map (a - 1 - ·)
/-- Die pairs visited after `x` on the way to `y`, horizontally first (R240). -/
def viaRow (x y : Nat) : List Nat :=
  (colsTo (x % 4) (y % 4)).map (fun c => x / 4 * 4 + c) ++ (if x / 4 = y / 4 then [] else [y])
/-- Vertically first (R241). -/
def viaCol (x y : Nat) : List Nat :=
  (if x / 4 = y / 4 then [] else [y / 4 * 4 + x % 4]) ++ (colsTo (x % 4) (y % 4)).map (fun c => y / 4 * 4 + c)
/-- Through the other row, or for die pairs of one column through the next column east (west from column 3). -/
def viaOther (x y : Nat) : List Nat :=
  let o := 1 - x / 4
  if x / 4 = y / 4 then (o * 4 + x % 4) :: ((colsTo (x % 4) (y % 4)).map (fun c => o * 4 + c) ++ [y])
  else
    let c := if x % 4 < 3 then x % 4 + 1 else 2
    [x / 4 * 4 + c, y / 4 * 4 + c, y]
/-- Bridges crossed on a way, with the direction (true from the lower die pair to the higher). -/
def crossed : Nat → List Nat → List (Nat × Bool)
  | _, [] => []
  | x, y :: l => (bridgeOf x y, decide (x < y)) :: crossed y l
/-- No bridge of a way is DOWN. -/
def Dev.wayUp (d : Dev) (x : Nat) (l : List Nat) : Bool := (crossed x l).all fun b => !(d.bridge b.1).down
/-- The way from die pair x to die pair y (R240, R241); none where two bridges down leave no way. -/
def Dev.way (d : Dev) (x y : Nat) : Option (List Nat) :=
  [viaRow x y, viaCol x y, viaOther x y].find? (d.wayUp x)

/-- Serving lanes of a bridge direction. -/
def Bridge.lanes (b : Bridge) (up : Bool) : Nat := if b.down then 0 else if up then b.lanesUp else b.lanesDn

/-- Traffic counted on a bridge direction, in RATE × 62.5 GB/s × 10, over the common denominator of the asterisms'
core counts. -/
def Dev.bridgeLoad (d : Dev) (den : Nat) (ps : List (Nat × Nat)) (b : Nat × Bool) : Nat :=
  ps.foldl (fun n p =>
    let cs := d.coresOf p.1
    let per := d.rate p.1 p.2 * 625 * (den / max 1 cs.length)
    let ls := d.chansOf p.1
    diePairs.foldl (fun n x =>
      let k := (cs.filter fun c => coreDp c == x).length
      if k = 0 then n else diePairs.foldl (fun n y =>
        let c := (ls.filter fun l => stackDp (chanStack l) == y).length
        let hits := (((d.way x y).map (crossed x)).getD []).count b + (((d.way y x).map (crossed y)).getD []).count b
        n + hits * c * k * per) n) n) 0

/-- The ten bridges in both directions. -/
def bridgeDirs : List (Nat × Bool) := (List.range 10).flatMap fun b => [(b, true), (b, false)]

/-- Does the traffic of given pairs fit on a bridge direction? -/
def Dev.bridgeOk (d : Dev) (ps : List (Nat × Nat)) (b : Nat × Bool) : Bool :=
  let den := lcmAll (ps.map fun p => (d.coresOf p.1).length)
  decide (d.bridgeLoad den ps b ≤ d.get ADM_DERATE.DERATE * (d.bridge b.1).lanes b.2 * 2133 * den)

/-! ### Energy (R427) -/

/-- Reservation powers of committed commands, mW. -/
def Dev.reservedMw (d : Dev) : Nat := d.hif.cmds.foldl (fun n e => n + e.2.resv.power) 0
/-- Booked HINT powers, mW. -/
def Dev.bookedMw (d : Dev) : Nat := d.pwr.bookings.foldl (fun n b => n + b.powerMw) 0
/-- The governor's reservation test, with `extra` mW added. -/
def Dev.energyOk (d : Dev) (extra : Nat) : Bool :=
  decide (d.get PWR_FLOOR.FLOOR_W * 1000 + d.reservedMw + d.bookedMw + extra ≤
    (d.get PWR_CAP.CAP_W - d.get PWR_CAP.MARGIN_W) * 1000)

/-- Leave in force, mW. -/
def Dev.leaveMw (d : Dev) : Nat :=
  diePairs.foldl (fun n p => n + (d.pmu p).leave) 0 + d.pwr.sweepLeave.foldl (fun n e => n + e.2.1) 0
/-- Powers of the bookings whose window is open, mW. -/
def Dev.openMw (d : Dev) : Nat := (d.pwr.bookings.filter (·.opened)).foldl (fun n b => n + b.powerMw) 0
/-- P_g in mW (R425). -/
def Dev.pg (d : Dev) : Nat := d.pwr.pBase + d.leaveMw + d.openMw
/-- The cap test of R425. -/
def Dev.capTest (d : Dev) (p : Nat) : Bool :=
  decide (d.pg + p ≤ (d.get PWR_CAP.CAP_W - d.get PWR_CAP.MARGIN_W) * 1000)
/-- The slew in mW per µs: LIMIT in mA per µs × V_in in units of 10 mV (R420). -/
def Dev.slew (d : Dev) : Nat := d.get PWR_SLEW_LIMIT.LIMIT * d.get PWR_INPUT.VIN / 100
/-- G in mW: what P_g exceeds the input by (R425). -/
def Dev.gap (d : Dev) : Nat := d.pg - d.pwr.inputMw
/-- The buffer test of R425: (G + p)² / (2S) ≤ E_buf − RESERVE, energies in mJ and J; no leave below RESERVE (R422). -/
def Dev.bufferTest (d : Dev) (p : Nat) : Bool :=
  let e := d.get PWR_BUFFER_ENERGY.ENERGY
  let r := d.get PWR_BUFFER_ENERGY.RESERVE * 1000
  decide (r ≤ e) && decide ((d.gap + p) * (d.gap + p) ≤ 2 * d.slew * ((e - r) * 1000000))

/-- The open booking of a context that still covers a power p (R428). -/
def Dev.openBooking (d : Dev) (ctx p : Nat) : Option Nat :=
  (d.pwr.bookings.find? fun b => b.opened && b.ctx == ctx && decide (b.drawn + p ≤ b.powerMw)).map (·.id)
/-- Leave is drawn from a booking. -/
def Dev.drawBooking (d : Dev) (b : Option Nat) (p : Nat) : Dev :=
  match b with
  | none => d
  | some b => { d with pwr := { d.pwr with bookings := d.pwr.bookings.map fun x =>
      if x.id = b then { x with drawn := x.drawn + p } else x } }

/-! ### Shedding (R352, R375) -/

/-- A command is shed: its reservations are released but for its link credits, and it leaves the book. -/
def Dev.shed (d : Dev) (id : Nat) (r : Reason) : Dev :=
  match Tbl.find d.hif.cmds id with
  | none => d
  | some m =>
    if m.shed.isSome then d
    else (d.onCmd id fun m => { m with
      shed := some (true, r), inBook := false, resv := { m.resv with energy := 0, power := 0, sweep := [] } }).wrap
        (ADM_AST_BOOK2.SHED m.ast) 1

/-- A guarantee is voided at once (R352). -/
def Dev.voidNow (d : Dev) (id : Nat) (r : Reason) : Dev :=
  match Tbl.find d.hif.cmds id with
  | none => d
  | some m =>
    if !m.guar || m.shed.isSome then d
    else (d.onCmd id fun m => { m with
      shed := some (false, r), inBook := false, resv := { m.resv with energy := 0, power := 0, sweep := [] } }).wrap
        (ADM_AST_BOOK3.VOIDED m.ast) 1

/-- A void-on-miss exception is noted (R351). -/
def Cmd.note (m : Cmd) (r : Reason) : Cmd := if m.guar && m.noted.isNone then { m with noted := some r } else m

/-- The command of a list that is shed first: lowest BASEPRI, then the higher class, then the latest acceptance. -/
def Dev.shedFirst (d : Dev) (l : List (Nat × Cmd)) : Option Nat :=
  let pri := fun (m : Cmd) => d.get (ADM_CLASS_PARAM_A_ACT.BASEPRI m.cls)
  let before := fun (x y : Nat × Cmd) =>
    pri x.2 < pri y.2 || (pri x.2 == pri y.2 && (x.2.cls > y.2.cls || (x.2.cls == y.2.cls && x.1 > y.1)))
  (l.foldl (fun best e => match best with
    | none => some e
    | some b => if before e b then some e else some b) none).map (·.1)

/-- Shed one command at a time while a test fails; the number shed. -/
def Dev.shedLoop (r : Reason) (test : Dev → Bool) (users : Dev → List (Nat × Cmd)) : Nat → Dev → Nat × Dev
  | 0, d => (0, d)
  | n + 1, d =>
    if test d then (0, d)
    else match d.shedFirst (users d) with
      | none => (0, d)
      | some id =>
        let (k, d) := Dev.shedLoop r test users n (d.shed id r)
        (k + 1, d)

/-- One shed episode: the broken test is repeated, and one 0x0507 is recorded when anything was shed (R375, R376). -/
def Dev.shedEpisode (d : Dev) (dp resource : Nat) (r : Reason) (test : Dev → Bool) (users : Dev → List (Nat × Cmd)) :
    Dev :=
  let (n, d) := Dev.shedLoop r test users d.hif.cmds.length d
  if n = 0 then d
  else (d.sat ADM_STATUS.SHED_EPISODES 1).raise 0x0507 (svcUnit dp) 0 .degraded [resource, r.code, n]

/-- Commands of the books. -/
def Dev.committed (d : Dev) : List (Nat × Cmd) := d.hif.cmds.filter fun e => e.2.inBook

/-- Repeat the channel tests of one asterism (R364). -/
def Dev.shedChannels (d : Dev) (a : Nat) (only : Nat → Bool) : Dev :=
  ((d.chansOf a).filter only).foldl (fun d l =>
    d.shedEpisode (d.home a) (chanUnit (d.physChan l)) .memory (fun d => d.chanOk a l d.activePairs)
      fun d => d.committed.filter fun e => e.2.ast == a && hOp e.2.slot != 6) d

/-- Repeat the bridge tests for the asterisms homed on a die pair (R365). -/
def Dev.shedBridges (d : Dev) (dp : Nat) : Dev :=
  bridgeDirs.foldl (fun d b =>
    d.shedEpisode dp (unitId 2 b.1) .memory (fun d => d.bridgeOk d.activePairs b)
      fun d => d.committed.filter fun e => hOp e.2.slot != 6 && d.home e.2.ast == dp &&
        decide (0 < d.bridgeLoad (max 1 (d.coresOf e.2.ast).length) [(e.2.ast, e.2.cls)] b)) d

/-- Credits of a link that commands of the books reserve. -/
def Dev.linkCommitted (d : Dev) (k : Nat) : Nat :=
  d.committed.foldl (fun n e => if d.linkOf e.2.ast (k / 2) == some k then n + e.2.resv.credits.getD (k / 2) 0 else n) 0
/-- Reserved credits stay within three quarters of a link's total (R366). -/
def Dev.linkFits (d : Dev) (k extra : Nat) : Bool := decide ((d.linkCommitted k + extra) * 4 ≤ d.linkTotal k * 3)

/-- A link's total has fallen below the credits reserved on it: the test of R366 is repeated. -/
def Dev.shedLink (d : Dev) (k : Nat) : Dev :=
  if d.linkCommitted k ≤ d.linkTotal k then d
  else d.shedEpisode (portDp (k / 2)) (unitId 5 (k / 2)) .link (fun d => d.linkFits k 0)
    fun d => d.committed.filter fun e => d.linkOf e.2.ast (k / 2) == some k && decide (0 < e.2.resv.credits.getD (k / 2) 0)

/-- Repeat the governor's reservation test (R427). -/
def Dev.shedPower (d : Dev) : Dev :=
  d.shedEpisode 0 moduleUnit .power (fun d => d.energyOk 0) fun d => d.committed.filter fun e => decide (0 < e.2.resv.energy)

/-- Repeat the demand test of an asterism's book (R360). -/
def Dev.shedCores (d : Dev) (now a : Nat) : Dev :=
  d.shedEpisode (d.home a) (svcUnit (d.home a)) .coreTime (fun d => d.bookOk now a) fun d => d.book a

end Sys2Proof.Machine
end

