-- ==== Sys2Proof/Machine/Residency.lean ====
section
/-!
DEFINITION. Residency and time slicing (R342 to R345).
-/

namespace Sys2Proof.Machine

/-- Context slots and queue slots of a die pair, and how many of each may be pinned (R342, R343). -/
def ctxSlots : Nat := 32
/-- Queue slots of a die pair. -/
def queueSlots : Nat := 48
/-- Context slots that may be pinned. -/
def ctxPins : Nat := 24
/-- Queue slots that may be pinned. -/
def queuePins : Nat := 40

/-- Has a queue admitted commands that have not reached their completion points? -/
def Dev.hasAdmitted (d : Dev) (q : Nat) : Bool := d.hif.cmds.any fun e => e.2.queue == q

/-- Has a queue waiting work (R344)? -/
def Dev.queueWaits (d : Dev) (q : Nat) (k : Queue) : Bool := k.tail != k.head || !k.fetched.isEmpty || d.hasAdmitted q

/-- Has a context waiting work? -/
def Dev.ctxWaits (d : Dev) (x : Nat) : Bool := d.hif.queues.any fun e => e.2.ctx == x && d.queueWaits e.1 e.2

/-- Is a context pinned (R343)? -/
def Dev.pinned (d : Dev) (x : Nat) : Bool :=
  (d.hif.cmds.any fun e => e.2.ctx == x && e.2.inBook) ||
  (d.core.any fun e => e.2.svc == .stalled && (match e.2.tile with | some t => t.own.ctx == x | none => false)) ||
  (match Tbl.find d.hif.ctxs x with | some c => c.state == .revoking | none => false)

/-- Is a context homed on a die pair? -/
def Dev.homedOn (d : Dev) (dp : Nat) (c : Ctx) : Bool := d.home c.ast == dp

/-- Resident contexts of a die pair. -/
def Dev.residents (d : Dev) (dp : Nat) : List (Nat × Ctx) :=
  d.hif.ctxs.filter fun e => e.2.resident && d.homedOn dp e.2
/-- Resident queues of a die pair. -/
def Dev.residentQueues (d : Dev) (dp : Nat) : List (Nat × Queue) :=
  d.hif.queues.filter fun e => e.2.resident && (match Tbl.find d.hif.ctxs e.2.ctx with
    | some c => d.homedOn dp c
    | none => false)

/-- A context and its queues leave their slots; its running tiles run to their end (R345). -/
def Dev.unload (d : Dev) (now x : Nat) : Dev :=
  (d.onCtx x fun c => { c with resident := false, waitAt := now }).onHif fun h => { h with
    queues := Tbl.mapV (fun _ k => if k.ctx = x then { k with resident := false } else k) h.queues }

/-- A context takes a slot. -/
def Dev.loadCtx (d : Dev) (now x : Nat) : Dev := d.onCtx x fun c => { c with resident := true, resAt := now }

/-- A queue takes a slot, if one is free. -/
def Dev.loadQueue (d : Dev) (now dp q : Nat) : Dev :=
  if (d.residentQueues dp).length < queueSlots then
    d.onQueue q fun k => { k with resident := true, resAt := now }
  else d

/-- The unpinned resident context of lowest PRIO, then longest resident. -/
def Dev.lowestUnpinned (d : Dev) (dp : Nat) : Option Nat :=
  (((d.residents dp).filter fun e => !d.pinned e.1).foldl (fun best e => match best with
    | none => some e
    | some b => if e.2.prio < b.2.prio || (e.2.prio == b.2.prio && e.2.resAt < b.2.resAt) then some e else some b)
    none).map (·.1)

/-- Make a context resident, displacing the lowest-ranked unpinned one if it must (R373). -/
def Dev.makeResident (d : Dev) (now x : Nat) : Dev :=
  match Tbl.find d.hif.ctxs x with
  | none => d
  | some c =>
    if c.resident then d
    else
      let dp := d.home c.ast
      let d := if (d.residents dp).length < ctxSlots then d
        else match d.lowestUnpinned dp with
          | some v => d.unload now v
          | none => d
      let d := d.loadCtx now x
      (d.hif.queues.filter fun e => e.2.ctx == x && d.queueWaits e.1 e.2).foldl (fun d e => d.loadQueue now dp e.1) d

/-- Asterisms homed on a die pair that wait for a context slot. -/
def Dev.waitingAsts (d : Dev) (dp : Nat) : List Nat :=
  ((d.hif.ctxs.filter fun e => !e.2.resident && d.homedOn dp e.2 && e.2.state == .active && d.ctxWaits e.1).map
    fun e => e.2.ast).dedup

/-- Unpinned slots an asterism holds. -/
def Dev.unpinnedOf (d : Dev) (dp a : Nat) : Nat :=
  ((d.residents dp).filter fun e => e.2.ast == a && !d.pinned e.1).length

/-- The asterism the next free slot is dealt to: fewest slots first, then the lowest ASTID (R344). -/
def Dev.nextAst (d : Dev) (dp : Nat) : Option Nat :=
  ((d.waitingAsts dp).foldl (fun best a => match best with
    | none => some a
    | some b =>
      if d.unpinnedOf dp a < d.unpinnedOf dp b || (d.unpinnedOf dp a == d.unpinnedOf dp b && a < b) then some a
      else some b) none)

/-- The waiting context of an asterism by PRIO, then longest wait, then number. -/
def Dev.nextCtx (d : Dev) (a : Nat) : Option Nat :=
  ((d.hif.ctxs.filter fun e => !e.2.resident && e.2.ast == a && e.2.state == .active && d.ctxWaits e.1).foldl
    (fun best e => match best with
      | none => some e
      | some b => if e.2.prio > b.2.prio || (e.2.prio == b.2.prio && e.2.waitAt < b.2.waitAt) then some e else some b)
    none).map (·.1)

/-- Deal the free slots of a die pair to waiting contexts; the fuel bounds the slots. -/
def Dev.deal (now dp : Nat) : Nat → Dev → Dev
  | 0, d => d
  | n + 1, d =>
    if ctxSlots ≤ (d.residents dp).length then d
    else match (d.nextAst dp).bind d.nextCtx with
      | some x => Dev.deal now dp n (d.makeResident now x)
      | none => d

/-- CONTEXT_LOAD: a context, or a further queue of a resident context, takes a slot. -/
def Dev.contextLoad (d : Dev) (now q : Nat) : Dev :=
  match Tbl.find d.hif.queues q with
  | none => d
  | some k =>
    match Tbl.find d.hif.ctxs k.ctx with
    | none => d
    | some c =>
      let dp := d.home c.ast
      if !d.queueWaits q k || k.resident then d
      else if c.resident then d.loadQueue now dp q
      else if (d.residents dp).length < ctxSlots ∧ (d.nextAst dp).bind d.nextCtx = some k.ctx then
        (d.makeResident now k.ctx).loadQueue now dp q
      else d

/-- CONTEXT_LOAD. -/
def execContextLoad (q : Nat) (s : State) := s.run fun now d => d.contextLoad now q

/-- One queue of a resident context that has held its slot for a slice gives it to one that waits (R344). -/
def Dev.rotateQueue (d : Dev) (now dp slice x : Nat) : Dev :=
  let qs := d.hif.queues.filter fun e => e.2.ctx == x && d.queueWaits e.1 e.2
  match qs.find? (fun e => !e.2.resident), qs.find? (fun e => e.2.resident && decide (e.2.resAt + slice ≤ now)) with
  | some w, some r =>
    if (d.residentQueues dp).length < queueSlots then d.loadQueue now dp w.1
    else (d.onQueue r.1 fun k => { k with resident := false }).loadQueue now dp w.1
  | some w, none => d.loadQueue now dp w.1
  | none, _ => d

/-- TIME_SLICE: contexts of an asterism that have held an unpinned slot for a time slice give it up while others of
its die pair wait, and the free slots are dealt (R344). -/
def Dev.timeSlice (d : Dev) (now a : Nat) : Dev :=
  let dp := d.home a
  let slice := d.get (CMP_AST_MODE.TSLICE_US a) * 1000
  let d := ((d.residents dp).filter fun e => e.2.ast == a && !d.pinned e.1).foldl
    (fun d e => d.rotateQueue now dp slice e.1) d
  if (d.waitingAsts dp).isEmpty then d
  else
    let out := (d.residents dp).filter fun e => e.2.ast == a && !d.pinned e.1 && decide (e.2.resAt + slice ≤ now)
    Dev.deal now dp ctxSlots (out.foldl (fun d e => d.unload now e.1) d)

/-- TIME_SLICE. -/
def execTimeSlice (a : Nat) (s : State) := s.run fun now d => d.timeSlice now a

end Sys2Proof.Machine
end

