-- ==== Sys2Proof/Machine/Steps.lean ====
section
/-!
DEFINITION. The control steps of the tile sequencer (R72 to R78, R84 to R87), and what every step row has in common.

A step row acts on the next step of a RUNNING core when that step is of the row's operation; otherwise the command has
no occasion and changes nothing (Issue.lean).  Engine, vector and data steps are executed as they issue, and what the units
leave undefined where they race is in Races.lean (R75); transfer steps are queued and executed by the transfer engine
(Transfer.lean).
-/

namespace Sys2Proof.Machine

/-! ### The frame of a step -/

/-- What a step does to the tile that issues it. -/
inductive StepOut where
  /-- It issued; the tile after it. -/
  | go (t : Tile)
  /-- Issue waits; `stalled` when only requests that a soft fault holds keep it (R132). -/
  | hold (stalled : Bool)
  /-- The tile is aborted. -/
  | abort (k : Abort) (code sub : Nat) (detail : List Nat)

/-- The next step of a tile. -/
def Tile.cur (t : Tile) : Option StepWord := if t.ended then none else t.prog[t.step]?

/-- Set a register of the sequencer. -/
def Tile.setAr (t : Tile) (n v : Nat) : Tile := { t with ar := modifyAt t.ar n fun _ => BitVec.ofNat 32 v }

/-- The tile with its next step counted as issued. -/
def Tile.bump (t : Tile) : Tile := { t with step := t.step + 1, held := false }

/-- The tile on a core that may issue: RUNNING, or STALLED and looking again at the step that holds it. -/
def Dev.issuer (d : Dev) (c : Nat) : Option Tile :=
  let k := d.coreAt c
  if k.svc = .running ∨ k.svc = .stalled then k.tile else none

/-- A step of operation code `op`. -/
def isOp (op : Nat) (w : StepWord) : Bool := sOp w == op

/-- 0x0109: an effective address breaks R73. -/
def spadRange (t : Tile) (sub a : Nat) : StepOut := .abort .misuse 0x0109 sub [t.step, a]

/-! ### Control steps -/

/-- NOP has no effect (R77). -/
def doNop (t : Tile) (_ : StepWord) : StepOut := .go t.bump

/-- Index of the ENDL that matches a LOOP on counter `k`, looking from step `i`. -/
def findEndl (k : Nat) : List StepWord → Nat → Nat
  | [], i => i
  | w :: l, i => if sOp w == 0x03 && sFA w == k then i else findEndl k l (i + 1)

/-- Index of the LOOP on counter `k` nearest before step `i`. -/
def findLoop (k : Nat) (prog : List StepWord) : Nat → Nat
  | 0 => 0
  | i + 1 => match prog[i]? with
    | some w => if sOp w == 0x02 && sFA w == k then i else findLoop k prog i
    | none => findLoop k prog i

/-- LOOP: LC[FA] := AR[FB] + IMM; if 0, issue continues after the matching ENDL. -/
def doLoop (t : Tile) (w : StepWord) : StepOut :=
  let v := (arOf t.ar (sFB w) + sImm w) % 2 ^ 32
  let t' := { t with lc := modifyAt t.lc (sFA w) fun _ => BitVec.ofNat 32 v, held := false }
  if v = 0 then .go { t' with step := findEndl (sFA w) (t.prog.drop (t.step + 1)) (t.step + 1) + 1 }
  else .go { t' with step := t.step + 1 }

/-- ENDL: LC[FA] := LC[FA] − 1; if nonzero, issue continues after the matching LOOP. -/
def doEndl (t : Tile) (w : StepWord) : StepOut :=
  let v := (t.lc.getD (sFA w) 0) - 1
  let t' := { t with lc := modifyAt t.lc (sFA w) fun _ => v, held := false }
  if v = 0 then .go { t' with step := t.step + 1 }
  else .go { t' with step := findLoop (sFA w) t.prog t.step + 1 }

/-- SETA: AR[FA] := IMM. -/
def doSeta (t : Tile) (w : StepWord) : StepOut := .go (t.setAr (sFA w) (sImm w)).bump
/-- ADDA: AR[FA] := AR[FB] + IMM, modulo 2^32. -/
def doAdda (t : Tile) (w : StepWord) : StepOut := .go (t.setAr (sFA w) (arOf t.ar (sFB w) + sImm w)).bump
/-- MULA: AR[FA] := low 32 bits of AR[FB] × IMM. -/
def doMula (t : Tile) (w : StepWord) : StepOut := .go (t.setAr (sFA w) (arOf t.ar (sFB w) * sImm w)).bump
/-- WRAPA: AR[FA] := (AR[FB] + IMM) mod IMM2; the sum is not wrapped before the modulus. -/
def doWrapa (t : Tile) (w : StepWord) : StepOut := .go (t.setAr (sFA w) ((arOf t.ar (sFB w) + sImm w) % sImm2 w)).bump

/-- Every source byte of every XOUT of a stream has been read (R78). -/
def OutStream.sourced (o : OutStream) : Bool := o.xouts.all fun x => decide (x.total ≤ x.next)

/-- Is the stream held by a fault? -/
def OutStream.faulted (o : OutStream) : Bool := !o.holds.isEmpty
/-- Is the stream held by a fault? -/
def InStream.faulted (o : InStream) : Bool := !o.holds.isEmpty

/-- FENCE: engines and the vector unit have completed what they were issued; bit [5] waits for the source bytes of
every earlier XOUT. -/
def doFence (t : Tile) (w : StepWord) : StepOut :=
  if bit (sFA w) 5 && (t.xq.any (fun x => !x.inbound && !x.stop) || t.outs.any fun o => !o.sourced) then
    .hold (t.xq.all (fun x => x.inbound || x.stop) && t.outs.all fun o => o.sourced || o.faulted)
  else .go t.bump

/-- Detail of 0x0103: stream, threshold and T. -/
def misuse (s thr tt : Nat) : StepOut := .abort .misuse 0x0103 0x06 [s, thr, tt]

/-- WAITC: holds issue until CC[FA] ≥ AR[FB] + IMM (R84). -/
def doWaitc (t : Tile) (w : StepWord) : StepOut :=
  let s := sFA w
  let thr := (arOf t.ar (sFB w) + sImm w) % 2 ^ 32
  let st := t.ins.getD s InStream.init
  if !st.issued then misuse s thr st.t
  else if st.pending != 0 then .hold false
  else if st.t < thr then misuse s thr st.t
  else if thr ≤ st.cc then .go t.bump
  else .hold st.faulted

/-- CONS: CR[FA] := CR[FA] + IMM, no further than CC[FA] (R85). -/
def doCons (t : Tile) (w : StepWord) : StepOut :=
  let s := sFA w
  let st := t.ins.getD s InStream.init
  if st.pending != 0 then .hold false
  else if st.cc < st.cr + sImm w then misuse s (sImm w) st.t
  else .go ({ t with ins := modifyAt t.ins s fun x => { x with cr := x.cr + sImm w } }).bump

/-- Streams of a mask. -/
def maskStreams (m : Nat) : List Nat := (List.range 8).filter (bit m)

/-- XDRAIN: holds issue until every earlier XOUT on the masked streams is acknowledged. -/
def doXdrain (t : Tile) (w : StepWord) : StepOut :=
  let ss := maskStreams (sFA w)
  let busy := ss.filter fun s => (t.outs.getD s OutStream.init).count != 0
  if busy.isEmpty then .go t.bump
  else .hold (busy.all fun s => (t.outs.getD s OutStream.init).faulted)

/-- TRAP aborts the tile with error 0x0108 and its code. -/
def doTrap (_ : Tile) (w : StepWord) : StepOut := .abort .misuse 0x0108 0x06 [sImm w % 2 ^ 16]

/-- The address of LDA and STAMP: SPA(FB:FC) + IMM, of which the SPA part obeys R73 and IMM is a multiple of the
word's size (log entry 21). -/
def wordAddr (t : Tile) (w : StepWord) (n : Nat) : Option Nat :=
  let a := spaAddr t.ar (sCSpa w)
  if a % 64 = 0 ∧ sImm w % n = 0 ∧ a + sImm w + n ≤ spadBytes then some (a + sImm w) else none

/-- STAMP writes CY and the stalled cycles. -/
def doStamp (t : Tile) (w : StepWord) : StepOut :=
  match wordAddr t w 8 with
  | none => spadRange t 0x06 (spaAddr t.ar (sCSpa w) + sImm w)
  | some a => .go (t.put a 8 (t.cy % 2 ^ 32 + t.stallCycles % 2 ^ 32 * 2 ^ 32)).bump

/-- LDA: AR[FA] := the 32-bit word at the address. -/
def doLda (t : Tile) (w : StepWord) : StepOut :=
  match wordAddr t w 4 with
  | none => spadRange t 0x06 (spaAddr t.ar (sCSpa w) + sImm w)
  | some a => .go (t.setAr (sFA w) (t.val a 4)).bump

/-! ### Stopping inbound streams (R87) -/

/-- A stopped stream: no further request, later data discarded, T := CC. -/
def InStream.stop (s : InStream) : InStream :=
  { s with stopped := true, t := s.cc, resume := none, holds := [] }

end Sys2Proof.Machine
end

