-- ==== Sys2Proof/Machine/Matrix.lean ====
section
/-!
DEFINITION. The matrix and accumulator steps (R49 to R54, R80, R81, R93).
-/

namespace Sys2Proof.Machine

/-- Key of an accumulator. -/
def accKey (e row col : Nat) : Nat := e * 4096 + row * 16 + col

/-- Value of an accumulator; a row not written or loaded reads as +0 (R62). -/
def Tile.accAt (t : Tile) (e row col : Nat) : Nat := Tbl.look 0 t.acc (accKey e row col)

/-- Set the 16 accumulators of a row and its valid bit. -/
def Tile.setRow (t : Tile) (e row : Nat) (vs : List Nat) : Tile :=
  { t with
    acc := (vs.zipIdx).foldl (fun m (v, j) => Tbl.putD 0 m (accKey e row j) v) t.acc
    valid := insertNew (e * 256 + row) t.valid }

/-- Set flags in the exception-flag word (R59). -/
def Tile.raiseFlags (t : Tile) (f : Nat) : Tile := { t with flags := t.flags ||| f }

/-- Row pitch of an MMA operand: ceil(K × w / 64) × 64 bytes (R80). -/
def mmaPitch (f : Fmt) (k : Nat) : Nat := ceilDiv (k * f.width) 512 * 64

/-- Bytes an operand row uses. -/
def mmaRowBytes (f : Fmt) (k : Nat) : Nat := ceilDiv (k * f.width) 8

/-- Pitch of a scale array: ceil(K / 2,048) × 64 bytes (R80). -/
def scalePitch (k : Nat) : Nat := ceilDiv k 2048 * 64

/-- Row `i` of A, or column `i` of B, with its scales. -/
def Tile.mmaLine (t : Tile) (f : Fmt) (a sa k i : Nat) : MmaLine where
  elems :=
    let v := t.val (a + i * mmaPitch f k) (mmaRowBytes f k)
    (List.range k).map fun x => f.elem.decode (bits v (x * f.width) f.width)
  scales := if f.block then (t.rd (sa + i * scalePitch k) (k / 32)).map BitVec.toNat else []

/-- The first operand of an MMA that breaks R73. -/
def mmaRange (t : Tile) (w : StepWord) (fa fb : Fmt) : Option Nat :=
  let k := sK w
  let m := sM w
  let l : List (Nat × Nat × Bool) := [
    (spaAddr t.ar (sSpa w), (m - 1) * mmaPitch fa k + mmaRowBytes fa k, true),
    (spaAddr t.ar (sSix w), 15 * mmaPitch fb k + mmaRowBytes fb k, true),
    (spaAddr t.ar (sEight w), (m - 1) * scalePitch k + k / 32, fa.block),
    (spaAddr t.ar (sTen w), 15 * scalePitch k + k / 32, fb.block)]
  (l.find? fun x => x.2.2 && !spaOk x.1 x.2.1).map (·.1)

/-- A dawn ramp costs 56 engine cycles of issue (R93). -/
def rampCost : Nat := 56

/-- The engine after an MMA: it ramps at its first MMA of the tile and after 256 idle core cycles (R93). -/
def Engine.run (e : Engine) (cy cycles : Nat) : Engine :=
  let ramp := match e.lastMma with
    | none => true
    | some c => decide (c + 256 ≤ cy)
  { lastMma := some cy
    cycles := e.cycles + cycles + (if ramp then rampCost else 0)
    ramps := e.ramps + ramp.toNat }

/-- One row of an MMA: its 16 new accumulator values and the flags they raise. -/
def Tile.mmaRow (t : Tile) (w : StepWord) (fa fb : Fmt) (n : Nat) (bs : List MmaLine) (i : Nat) : List Flagged :=
  let row := t.mmaLine fa (spaAddr t.ar (sSpa w)) (spaAddr t.ar (sEight w)) (sK w) i
  (bs.zipIdx).map fun (b, j) =>
    let old := if sZero w then 0 else t.accAt (sEng w) (sI0 w + i) j
    mmaDot fa fb (sMmaRnd w == 1) (fun g => Config.free .groupOrder n ((i * 16 + j) * 4096 + g)) row b old

/-- MMA (R50, R51). -/
def doMma (n : Nat) (t : Tile) (w : StepWord) : StepOut :=
  match Fmt.ofCode (sFmtA w), Fmt.ofCode (sFmtB w) with
  | some fa, some fb =>
    match mmaRange t w fa fb with
    | some a => spadRange t (sEng w) a
    | none =>
      let bs := (List.range 16).map (t.mmaLine fb (spaAddr t.ar (sSix w)) (spaAddr t.ar (sTen w)) (sK w))
      let t' := (List.range (sM w)).foldl (fun acc i =>
        let r := t.mmaRow w fa fb n bs i
        (acc.setRow (sEng w) (sI0 w + i) (r.map (·.1))).raiseFlags (r.foldl (fun f x => f ||| x.2) 0)) t
      let cyc := mmaCycles fa fb (sM w) (sK w)
      .go { t' with
        engines := modifyAt t.engines (sEng w) fun e => e.run t.cy cyc
        activity := t.activity + cyc }.bump
  | _, _ => .go t.bump

/-- Bytes between accumulator rows in scratchpad (R81). -/
def accPitch (w : StepWord) (width : Nat) : Nat := if sSix w = 0 then 16 * width else sSix w

/-- Address of row `i` of an accumulator step. -/
def accRowAddr (t : Tile) (w : StepWord) (width i : Nat) : Nat :=
  spaAddr t.ar (sSpa w) + sDoff w + i * accPitch w width

/-- Does an accumulator step's operand obey R73? -/
def accRange (t : Tile) (w : StepWord) (width : Nat) : Bool :=
  spaAddr t.ar (sSpa w) % 64 == 0 && accRowAddr t w width (sM w - 1) + 16 * width ≤ spadBytes

/-- ACCLD loads FP32 values unchanged (R81). -/
def doAccld (t : Tile) (w : StepWord) : StepOut :=
  if accRange t w 4 then
    .go ((List.range (sM w)).foldl (fun acc i =>
      acc.setRow (sEng w) (sI0 w + i) ((List.range 16).map fun j => t.val (accRowAddr t w 4 i + 4 * j) 4)) t).bump
  else spadRange t (sEng w) (spaAddr t.ar (sSpa w))

/-- ACCRD writes α × acc, rounded once into FMT (R50). -/
def doAccrd (n : Nat) (t : Tile) (w : StepWord) : StepOut :=
  match Fmt.ofCode (sFmtA w), Rnd.ofCode (sAccRnd w) with
  | some f, some r =>
    let wd := f.width / 8
    if accRange t w wd then
      .go ((List.range (sM w)).foldl (fun acc i =>
        let vs := (List.range 16).map fun j =>
          accRead f r (sAccSat w) (Config.free .srDraw n (i * 16 + j)) (sAlpha w) (t.accAt (sEng w) (sI0 w + i) j)
        (acc.wr (accRowAddr t w wd i) (vs.flatMap fun v => toBytes wd v.1)).raiseFlags
          (vs.foldl (fun a v => a ||| v.2) 0)) t).bump
    else spadRange t (sEng w) (spaAddr t.ar (sSpa w))
  | _, _ => .go t.bump

/-- ACCZ sets accumulator rows to +0. -/
def doAccz (t : Tile) (w : StepWord) : StepOut :=
  .go ((List.range (sM w)).foldl (fun acc i => acc.setRow (sEng w) (sI0 w + i) (List.replicate 16 0)) t).bump

end Sys2Proof.Machine
end

