-- ==== Sys2Proof/Machine/Transc.lean ====
section
/-!
DEFINITION. The transcendental operations of the vector unit (R58, Tables 2-10 and 2-11).

The spec gives the result within a bound, so the result is a free value within that bound.  The exact function is
computed in integers scaled by 2^200 (the error of that is below 2^−180 and is not counted), a free deviation within
the bound is added, and the sum is rounded to FP32; where rounding would leave the bound the nearest FP32 value is
taken.
-/

namespace Sys2Proof.Machine

/-- Fractional bits of the scaled integers used here. -/
def fixP : Nat := 200
/-- One, scaled. -/
def fixOne : Int := 2 ^ fixP
/-- Product of scaled integers. -/
def fixMul (a b : Int) : Int := a * b / fixOne

/-- Σ t^(2k+1)/(2k+1) with alternating sign if `alt`: atanh t, or atan t. -/
def fixAtan (alt : Bool) (t2 : Int) : Nat → Nat → Int → Int
  | 0, _, _ => 0
  | n + 1, k, p => (if alt && k % 2 == 1 then -(p / (2 * k + 1)) else p / (2 * k + 1)) +
      fixAtan alt t2 n (k + 1) (fixMul p t2)
/-- atanh of a scaled t with |t| ≤ 1/3. -/
def fixAtanh (t : Int) : Int := fixAtan false (fixMul t t) 70 0 t
/-- ln 2, scaled. -/
def fixLn2 : Int := 2 * fixAtanh (fixOne / 3)
/-- π, scaled, by Machin's formula. -/
def fixPi : Int :=
  let a := fixOne / 5
  let b := fixOne / 239
  16 * fixAtan true (fixMul a a) 100 0 a - 4 * fixAtan true (fixMul b b) 30 0 b
/-- Σ r^k/k! from term `k`, with the sign and step of exp, sin or cos given by `sgn` and `d`. -/
def fixTaylor (mul : Int) (d : Nat) : Nat → Nat → Int → Int
  | 0, _, _ => 0
  | n + 1, k, p =>
    p + fixTaylor mul d n (k + d) (if d = 1 then fixMul p mul / (k + 1) else fixMul p mul / ((k + 1) * (k + 2)))
/-- exp of a scaled r with |r| ≤ 1. -/
def fixExp (r : Int) : Int := fixTaylor r 1 60 0 fixOne
/-- sin of a scaled r with |r| ≤ 4. -/
def fixSin (r : Int) : Int := fixTaylor (-(fixMul r r)) 2 50 1 r
/-- cos of a scaled r with |r| ≤ 4. -/
def fixCos (r : Int) : Int := fixTaylor (-(fixMul r r)) 2 50 0 fixOne

/-- A scaled integer as an exact value. -/
def fixNum (x : Int) (sh : Int) : Num := .fin (decide (x < 0)) x.natAbs (sh - fixP)

/-- A value as a scaled integer (exact for FP32, which has no bit below 2^−149). -/
def toFix (s : Bool) (m : Nat) (e : Int) : Int :=
  let v : Int := (m * 2 ^ (e + fixP).toNat / 2 ^ (-(e + fixP)).toNat : Nat)
  if s then -v else v

/-- Integer square root by bits: the largest r below 2^n with r² ≤ x. -/
def isqrt (x : Nat) : Nat → Nat → Nat
  | 0, r => r
  | n + 1, r => let r' := r + 2 ^ n; isqrt x n (if r' * r' ≤ x then r' else r)

/-- e^x of a scaled x with |x| below 2^10. -/
def expNum (x : Int) : Num :=
  let k := x / fixLn2
  fixNum (fixExp (x - k * fixLn2)) k

/-- The exact function, as near as the scaling goes, for a finite argument outside Table 2-11. -/
def transcExact (op : Nat) (s : Bool) (m : Nat) (e : Int) : Num :=
  let big := leadExp m e ≥ 9
  let x := toFix s m e
  match op with
  | 0x10 => -- EXP2
    if big then (if s then .fin false 1 (-1000) else .fin false 1 1000)
    else let k := x / fixOne; fixNum (fixExp (fixMul (x - k * fixOne) fixLn2)) k
  | 0x11 => -- EXP
    if big then (if s then .fin false 1 (-1000) else .fin false 1 1000) else expNum x
  | 0x12 | 0x13 => -- LOG2, LOG
    let l := Nat.log2 m
    let t := ((m : Int) - 2 ^ l) * fixOne / ((m : Int) + 2 ^ l)
    let ln := 2 * fixAtanh t + (e + l) * fixLn2
    fixNum (if op = 0x12 then ln * fixOne / fixLn2 else ln) 0
  | 0x14 => .fin s (2 ^ (fixP + Nat.log2 m) / m) (-e - fixP - Nat.log2 m)
  | 0x15 | 0x16 => -- RSQRT, SQRT: an even exponent first
    let (m, e) := if e % 2 = 0 then (m, e) else (2 * m, e - 1)
    let r := isqrt (m * 2 ^ (2 * fixP)) (fixP + 20) 0
    if op = 0x16 then .fin false r (e / 2 - fixP)
    else .fin false (2 ^ (2 * fixP + 40) / r) (-(e / 2) - fixP - 40)
  | 0x17 => -- TANH
    if leadExp m e ≥ 6 then .fin s 1 0
    else if leadExp m e < -20 then .fin s m e
    else let u := match expNum (2 * x) with
            | .fin _ a b => toFix false a b
            | _ => 0
      fixNum ((u - fixOne) * fixOne / (u + fixOne)) 0
  | 0x18 => -- SIGMOID
    if leadExp m e ≥ 6 then (if s then .fin false 1 (-60) else .fin false 1 0)
    else let u := match expNum (-x) with
            | .fin _ a b => toFix false a b
            | _ => 0
      fixNum (fixOne * fixOne / (fixOne + u)) 0
  | _ => -- SIN, COS
    let r := x % (2 * fixPi)
    let r := if r > fixPi then r - 2 * fixPi else r
    fixNum (if op = 0x19 then fixSin r else fixCos r) 0

/-- The accuracy bound of an operation at the exact value y, as a magnitude (Table 2-10). -/
def transcBound (op : Nat) (m : Nat) (e : Int) : Num :=
  let ulp := if m = 0 then (-149 : Int) else Fmt.fp32.ulpExp m e
  match op with
  | 0x10 | 0x12 | 0x15 => .fin false 2 ulp
  | 0x11 | 0x13 => .fin false 3 ulp
  | 0x14 | 0x16 => .fin false 1 ulp
  | 0x17 | 0x18 => if ulp + 2 ≥ -24 then .fin false 4 ulp else .fin false 1 (-24)
  | _ => .fin false 1 (-21)

/-- An FP32 value within the bound of the exact value y, chosen by the free value `fr` (R58). -/
def transcPick (op fr : Nat) (y : Num) : Flagged :=
  match y with
  | .fin _ m e =>
    let near := Fmt.fp32.convert false .rne false 0 y
    let b := transcBound op m e
    let j : Int := (fr % (2 ^ 41 + 1) : Nat) - 2 ^ 40
    let dev := match b with
      | .fin _ bm be => Num.fin (decide (j < 0)) (bm * j.natAbs) (be - 40)
      | v => v
    let cand := (Fmt.fp32.convert false .rne false 0 (Num.add false y dev)).1
    let v := fp32 cand
    if v.special || near.2 != 0 then near
    else if Num.lt b (Num.add false v y.negate).abs then near else (cand, 0)
  | _ => (Fmt.fp32.nanCode, 0)

/-- The result of a transcendental operation (R58): Table 2-11 for special inputs, else a value within the bound;
FTZ flushes the input and the result (R56). -/
def vTransc (op fr : Nat) (ftz : Bool) (a : Nat) : Flagged :=
  let (a, fa) := Fmt.fp32.flush ftz a
  let inf (s : Bool) := Fmt.fp32.infCode + Fmt.fp32.signBit s
  let one := 0x3F800000
  let nan : Flagged := (Fmt.fp32.nanCode, flagNV)
  let neg0 := 0x80000000
  let (c, fc) : Flagged := match fp32 a with
    | .nan => (Fmt.fp32.nanCode, 0)
    | .inf s =>
      match op with
      | 0x10 | 0x11 => if s then (0, 0) else (inf false, 0)
      | 0x12 | 0x13 => if s then nan else (inf false, 0)
      | 0x14 => (if s then neg0 else 0, 0)
      | 0x15 => if s then nan else (0, 0)
      | 0x16 => if s then nan else (inf false, 0)
      | 0x17 => (one + Fmt.fp32.signBit s, 0)
      | 0x18 => (if s then 0 else one, 0)
      | _ => nan
    | .fin s m e =>
      if m = 0 then
        match op with
        | 0x10 | 0x11 => (one, 0)
        | 0x12 | 0x13 => (inf true, 0)
        | 0x14 | 0x15 => (inf s, 0)
        | 0x16 | 0x17 | 0x19 => (Fmt.fp32.signBit s, 0)
        | 0x18 => (0x3F000000, 0)
        | _ => (one, 0)
      else if s && (op == 0x12 || op == 0x13 || op == 0x15 || op == 0x16) then nan
      else if (op == 0x19 || op == 0x1A) && !magLe m e 65536 0 then
        -- no accuracy promise: any value in [−1, 1]
        (fr / 2 % (one + 1) + Fmt.fp32.signBit (fr % 2 == 1), 0)
      else transcPick op fr (transcExact op s m e)
  let (c', f') := Fmt.fp32.flush ftz c
  (c', fa ||| fc ||| f')

end Sys2Proof.Machine
end

