-- ==== Sys2Proof/Machine/Vector.lean ====
section
/-!
DEFINITION. The vector and data steps (R56 to R59, R82, Tables 2-10 and 3-10).

A step reads all its operands before it writes (log entry 22).
-/

namespace Sys2Proof.Machine

/-- A vector step of VOP code `op`. -/
def isVop (op : Nat) (w : StepWord) : Bool := sOp w == 0x30 && sVop w == op

/-- The first operand that breaks R73. -/
def badSpan (l : List Span) : Option Nat := (l.find? fun x => !spaOk x.1 x.2).map (·.1)

/-- Bytes of N groups of elements of `width` bits. -/
def groupBytes (n width : Nat) : Nat := n * 8 * width

/-- D of a vector or data step. -/
def opD (t : Tile) (w : StepWord) : Nat := spaAddr t.ar (sSpa w)
/-- A of a vector step, S of a data step. -/
def opA (t : Tile) (w : StepWord) : Nat := spaAddr t.ar (sSix w)
/-- B of a vector step. -/
def opB (t : Tile) (w : StepWord) : Nat := spaAddr t.ar (sEight w)
/-- C of a vector step. -/
def opC (t : Tile) (w : StepWord) : Nat := spaAddr t.ar (sTen w)
/-- The step's rounding mode. -/
def opRnd (w : StepWord) : Rnd := (Rnd.ofCode (sVRnd w)).getD .rne

/-- Groups of B: group 0 alone under BCB. -/
def groupsB (w : StepWord) : Nat := if sBcb w then 1 else sN w
/-- Groups of C: group 0 alone under BCC. -/
def groupsC (w : StepWord) : Nat := if sBcc w then 1 else sN w

/-- FP32 lane `i` of an operand; under a broadcast group 0 serves every group. -/
def Tile.lane (t : Tile) (a : Nat) (bc : Bool) (i : Nat) : Nat := t.val (a + 4 * (if bc then i % 64 else i)) 4

/-- Which operands a vector operation reads besides A. -/
inductive Arity where
  | one | two | three
  deriving DecidableEq, Repr

/-- Write results of `n` bytes each from address `a` on, and the flags they raise. -/
def Tile.results (t : Tile) (a n : Nat) (rs : List Flagged) : Tile :=
  (t.wr a (rs.flatMap fun r => toBytes n r.1)).raiseFlags (rs.foldl (fun f r => f ||| r.2) 0)

/-- An operation lane by lane over FP32 operands. -/
def doLanes (ar : Arity) (f : StepWord → Nat → Nat → Nat → Nat → Flagged) (t : Tile) (w : StepWord) : StepOut :=
  let n := sN w
  let spans := [(opD t w, groupBytes n 32), (opA t w, groupBytes n 32)] ++
    (if ar = .one then [] else [(opB t w, groupBytes (groupsB w) 32)]) ++
    (if ar = .three then [(opC t w, groupBytes (groupsC w) 32)] else [])
  match badSpan spans with
  | some a => spadRange t 0x04 a
  | none =>
    .go (t.results (opD t w) 4 ((List.range (64 * n)).map fun i =>
      f w i (t.lane (opA t w) false i) (if ar = .one then 0 else t.lane (opB t w) (sBcb w) i)
        (if ar = .three then t.lane (opC t w) (sBcc w) i else 0))).bump

/-- CMP writes N packed 64-bit masks (R82). -/
def doCmp (t : Tile) (w : StepWord) : StepOut :=
  let n := sN w
  match badSpan [(opD t w, 8 * n), (opA t w, groupBytes n 32), (opB t w, groupBytes (groupsB w) 32)] with
  | some a => spadRange t 0x04 a
  | none =>
    .go (t.results (opD t w) 8 ((List.range n).map fun g =>
      (List.range 64).foldl (fun acc k =>
        let i := 64 * g + k
        let r := vCmp (sFtz w) (sCond w) (t.lane (opA t w) false i) (t.lane (opB t w) (sBcb w) i)
        (acc.1 + r.1.toNat * 2 ^ k, acc.2 ||| r.2)) (0, 0))).bump

/-- SEL reads packed masks from C (R82). -/
def doSel (t : Tile) (w : StepWord) : StepOut :=
  let n := sN w
  match badSpan [(opD t w, groupBytes n 32), (opA t w, groupBytes n 32), (opB t w, groupBytes (groupsB w) 32),
      (opC t w, 8 * groupsC w)] with
  | some a => spadRange t 0x04 a
  | none =>
    .go (t.results (opD t w) 4 ((List.range (64 * n)).map fun i =>
      let m := t.val (opC t w + 8 * (if sBcc w then 0 else i / 64)) 8
      vSel (sFtz w) (bit m (i % 64)) (t.lane (opA t w) false i) (t.lane (opB t w) (sBcb w) i))).bump

/-- CVT between formats that are not block-scaled (R45). -/
def doCvt (fr : Nat) (t : Tile) (w : StepWord) : StepOut :=
  match Fmt.ofCode (sFmtS w), Fmt.ofCode (sFmtD w) with
  | some fs, some fd =>
    let n := sN w
    match badSpan [(opD t w, groupBytes n fd.width), (opA t w, groupBytes n fs.width)] with
    | some a => spadRange t 0x04 a
    | none =>
      .go (t.results (opD t w) (fd.width / 8) ((List.range (64 * n)).map fun i =>
        vCvt fs fd (opRnd w) (sVSat w) (sFtz w) (Config.free .srDraw fr i)
          (t.val (opA t w + i * (fs.width / 8)) (fs.width / 8)))).bump
  | _, _ => .go t.bump

/-- Elements of `width` bits packed from the low end, as a number. -/
def packBits (width : Nat) : List Nat → Nat
  | [] => 0
  | x :: l => x % 2 ^ width + 2 ^ width * packBits width l

/-- QBS: blocks of 32 with their scales at C (R41, R82). -/
def doQbs (fr : Nat) (t : Tile) (w : StepWord) : StepOut :=
  match Fmt.ofCode (sFmtD w) with
  | some f =>
    let n := sN w
    match badSpan [(opD t w, groupBytes n f.width), (opA t w, groupBytes n 32), (opC t w, 2 * n)] with
    | some a => spadRange t 0x04 a
    | none =>
      .go ((List.range (2 * n)).foldl (fun acc b =>
        let (c, es, fl) := vQbs f (opRnd w) (sFtz w) (fun i => Config.free .srDraw fr (32 * b + i))
          ((List.range 32).map fun i => t.lane (opA t w) false (32 * b + i))
        ((acc.wr (opD t w + b * (4 * f.width)) (toBytes (4 * f.width) (packBits f.width es))).put
          (opC t w + b) 1 c).raiseFlags fl) t).bump
  | none => .go t.bump

/-- DQBS: block-scaled elements at A with scales at C to FP32 (R42, R82). -/
def doDqbs (t : Tile) (w : StepWord) : StepOut :=
  match Fmt.ofCode (sFmtS w) with
  | some f =>
    let n := sN w
    match badSpan [(opD t w, groupBytes n 32), (opA t w, groupBytes n f.width), (opC t w, 2 * n)] with
    | some a => spadRange t 0x04 a
    | none =>
      .go (t.results (opD t w) 4 ((List.range (64 * n)).map fun i =>
        let b := i / 32
        vDqbs f (t.val (opC t w + b) 1)
          (bits (t.val (opA t w + b * (4 * f.width)) (4 * f.width)) (i % 32 * f.width) f.width))).bump
  | none => .go t.bump

/-- RSUM and RMAX write N packed FP32 results (R82). -/
def doRows (f : StepWord → Nat → List Nat → Flagged) (t : Tile) (w : StepWord) : StepOut :=
  let n := sN w
  match badSpan [(opD t w, 4 * n), (opA t w, groupBytes n 32)] with
  | some a => spadRange t 0x04 a
  | none =>
    .go (t.results (opD t w) 4 ((List.range n).map fun g =>
      f w g ((List.range 64).map fun k => t.lane (opA t w) false (64 * g + k)))).bump

/-- FLAGS writes the exception-flag word (R59). -/
def doFlags (t : Tile) (w : StepWord) : StepOut :=
  if spaOk (opD t w) 4 then .go (t.put (opD t w) 4 t.flags).bump else spadRange t 0x04 (opD t w)

/-! ### Data steps (R82) -/

/-- Bytes of an element. -/
def eszBytes (w : StepWord) : Nat := 2 ^ sEsz w
/-- A pitch of 0 means packed rows of `cols` elements. -/
def pitchOr (p cols esz : Nat) : Nat := if p = 0 then cols * esz else p
/-- Bytes that rows at a pitch span. -/
def rowsSpan (rows cols esz pitch : Nat) : Nat := if rows = 0 ∨ cols = 0 then 0 else (rows - 1) * pitch + cols * esz

/-- VMOV copies a block, transposed if TR is set. -/
def doVmov (t : Tile) (w : StepWord) : StepOut :=
  let e := eszBytes w
  let rows := sTen w
  let cols := sN w
  let (dr, dc) := if sTr w then (cols, rows) else (rows, cols)
  let ps := pitchOr (sImm16 w) cols e
  let pd := pitchOr (sEight w) dc e
  match badSpan [(opD t w, rowsSpan dr dc e pd), (opA t w, rowsSpan rows cols e ps)] with
  | some a => spadRange t 0x04 a
  | none =>
    .go ((List.range dr).foldl (fun acc r =>
      acc.wr (opD t w + r * pd) ((List.range dc).flatMap fun k =>
        t.rd (opA t w + (if sTr w then k * ps + r * e else r * ps + k * e)) e)) t).bump

/-- VFILL fills a block with the low bytes of VALHI:AUX. -/
def doVfill (t : Tile) (w : StepWord) : StepOut :=
  let e := eszBytes w
  let cols := sN w
  let p := pitchOr (sImm16 w) cols e
  let v := toBytes e (sEight w + 65536 * sValHi w)
  match badSpan [(opD t w, rowsSpan (sTen w) cols e p)] with
  | some a => spadRange t 0x04 a
  | none =>
    .go ((List.range (sTen w)).foldl (fun acc r =>
      acc.wr (opD t w + r * p) ((List.range cols).flatMap fun _ => v)) t).bump

/-- The index list of VGATH and VSCAT. -/
def Tile.indices (t : Tile) (a n : Nat) : List Nat := (List.range n).map fun r => t.val (a + 4 * r) 4

/-- Bytes the indexed side spans: up to its largest index. -/
def indexSpan (xs : List Nat) (cols esz pitch : Nat) : Nat :=
  if xs.isEmpty ∨ cols = 0 then 0 else xs.foldl Nat.max 0 * pitch + cols * esz

/-- VGATH: row r of D := row X[r] of S. -/
def doVgath (t : Tile) (w : StepWord) : StepOut :=
  let e := eszBytes w
  let cols := sN w
  let rows := sTen w
  let p := pitchOr (sImm16 w) cols e
  let x := opB t w
  let xs := t.indices x rows
  match badSpan [(x, 4 * rows), (opD t w, rows * cols * e), (opA t w, indexSpan xs cols e p)] with
  | some a => spadRange t 0x04 a
  | none =>
    .go ((xs.zipIdx).foldl (fun acc (i, r) =>
      acc.wr (opD t w + r * cols * e) (t.rd (opA t w + i * p) (cols * e))) t).bump

/-- VSCAT: row X[r] of D := row r of S, in increasing r. -/
def doVscat (t : Tile) (w : StepWord) : StepOut :=
  let e := eszBytes w
  let cols := sN w
  let rows := sTen w
  let p := pitchOr (sImm16 w) cols e
  let x := opB t w
  let xs := t.indices x rows
  match badSpan [(x, 4 * rows), (opA t w, rows * cols * e), (opD t w, indexSpan xs cols e p)] with
  | some a => spadRange t 0x04 a
  | none =>
    .go ((xs.zipIdx).foldl (fun acc (i, r) =>
      acc.wr (opD t w + i * p) (t.rd (opA t w + r * cols * e) (cols * e))) t).bump

end Sys2Proof.Machine
end

