-- ==== Sys2Proof/Machine/Races.lean ====
section
/-!
DEFINITION. Races between the units of a core (R75, R76): what each step touches, which accesses nothing orders, and the
free values that the bytes, and the outputs drawn from them, take.

Engine and vector steps are executed as they issue.  A step's accesses stay in the tile's log until a FENCE, a WAITC or an
XDRAIN orders them; a step of another unit that touches the same bytes meanwhile, one of the two writing, races with it.
The transfer engine writes the chunks that its window lets land (R83), reads an XOUT's source, and writes the entries and
the count that a token exchange rewrites (R121, R122).
-/

namespace Sys2Proof.Machine

/-! ### Spans -/

/-- The bytes two spans share. -/
def meetSpan (a b : Span) : Option Span :=
  let lo := max a.1 b.1
  let hi := min (a.1 + a.2) (b.1 + b.2)
  if lo < hi then some (lo, hi - lo) else none

/-- The bytes two lists of spans share. -/
def overlaps (a b : List Span) : List Span := a.flatMap fun x => b.filterMap (meetSpan x)

/-- First address of the accumulator rows, past the scratchpad. -/
def accBase : Nat := 2 ^ 20

/-- Accumulator rows of an engine (R76). -/
def accSpan (e row m : Nat) : Span := (accBase + (e * 256 + row) * 64, m * 64)

/-- `n` runs of bytes at a pitch. -/
def pitched (a n pitch len : Nat) : List Span := (List.range n).map fun i => (a + i * pitch, len)

/-! ### What a step touches -/

/-- The unit of a step, as FENCE numbers them, the sequencer 6; its reads and writes. -/
structure Foot where
  unit : Nat
  reads : List Span
  writes : List Span
  deriving DecidableEq, Repr

/-- A step that touches nothing. -/
def Foot.none : Foot := ⟨5, [], []⟩

/-- MMA (R80). -/
def footMma (t : Tile) (w : StepWord) : Foot :=
  match Fmt.ofCode (sFmtA w), Fmt.ofCode (sFmtB w) with
  | some fa, some fb =>
    let k := sK w
    let rows := accSpan (sEng w) (sI0 w) (sM w)
    { unit := sEng w
      reads := pitched (spaAddr t.ar (sSpa w)) (sM w) (mmaPitch fa k) (mmaRowBytes fa k) ++
        pitched (spaAddr t.ar (sSix w)) 16 (mmaPitch fb k) (mmaRowBytes fb k) ++
        (if fa.block then pitched (spaAddr t.ar (sEight w)) (sM w) (scalePitch k) (k / 32) else []) ++
        (if fb.block then pitched (spaAddr t.ar (sTen w)) 16 (scalePitch k) (k / 32) else []) ++
        (if sZero w then [] else [rows])
      writes := [rows] }
  | _, _ => .none

/-- ACCLD, ACCRD, ACCZ (R81). -/
def footAcc (t : Tile) (w : StepWord) : Foot :=
  let rows := accSpan (sEng w) (sI0 w) (sM w)
  let mem := fun (wd : Nat) => (List.range (sM w)).map fun i => ((accRowAddr t w wd i, 16 * wd) : Span)
  match sOp w with
  | 0x21 => ⟨sEng w, mem 4, [rows]⟩
  | 0x22 =>
    match Fmt.ofCode (sFmtA w) with
    | some f => ⟨sEng w, [rows], mem (f.width / 8)⟩
    | none => .none
  | _ => ⟨sEng w, [], [rows]⟩

/-- VOP (R82). -/
def footVop (t : Tile) (w : StepWord) : Foot :=
  let n := sN w
  let wide := groupBytes n 32
  let a : Span := (opA t w, wide)
  let b : Span := (opB t w, groupBytes (groupsB w) 32)
  let d : Span := (opD t w, wide)
  let fmt := fun (c : Nat) => ((Fmt.ofCode c).map Fmt.width).getD 0
  match sVop w with
  | 0x00 => ⟨4, [a, b, (opC t w, groupBytes (groupsC w) 32)], [d]⟩
  | 0x01 | 0x02 | 0x03 | 0x04 | 0x05 => ⟨4, [a, b], [d]⟩
  | 0x08 => ⟨4, [a, b], [(opD t w, 8 * n)]⟩
  | 0x09 => ⟨4, [a, b, (opC t w, 8 * groupsC w)], [d]⟩
  | 0x0B => ⟨4, [(opA t w, groupBytes n (fmt (sFmtS w)))], [(opD t w, groupBytes n (fmt (sFmtD w)))]⟩
  | 0x0C => ⟨4, [a], [(opD t w, groupBytes n (fmt (sFmtD w))), (opC t w, 2 * n)]⟩
  | 0x0D => ⟨4, [(opA t w, groupBytes n (fmt (sFmtS w))), (opC t w, 2 * n)], [d]⟩
  | 0x0E | 0x0F => ⟨4, [a], [(opD t w, 4 * n)]⟩
  | 0x3F => ⟨4, [], [(opD t w, 4)]⟩
  | _ => ⟨4, [a], [d]⟩

/-- VMOV, VFILL, VGATH, VSCAT (R82). -/
def footData (t : Tile) (w : StepWord) : Foot :=
  let e := eszBytes w
  let rows := sTen w
  let cols := sN w
  let p := pitchOr (sImm16 w) cols e
  let x : Span := (opB t w, 4 * rows)
  let at_ := fun (a : Nat) => (t.indices (opB t w) rows).map fun i => ((a + i * p, cols * e) : Span)
  match sOp w with
  | 0x31 =>
    let (dr, dc) := if sTr w then (cols, rows) else (rows, cols)
    ⟨4, pitched (opA t w) rows p (cols * e), pitched (opD t w) dr (pitchOr (sEight w) dc e) (dc * e)⟩
  | 0x32 => ⟨4, [], pitched (opD t w) rows p (cols * e)⟩
  | 0x33 => ⟨4, x :: at_ (opA t w), [(opD t w, rows * cols * e)]⟩
  | _ => ⟨4, [x, (opA t w, rows * cols * e)], at_ (opD t w)⟩

/-- Ring slot of chunk `j` of a stream (R83). -/
def InStream.slot (s : InStream) (j : Nat) : Span :=
  (s.ring + j % s.win * chunkBytes, min chunkBytes (s.total - j * chunkBytes))

/-- Chunks from the `lo`-th on that the window lets land. -/
def InStream.chunks (s : InStream) (lo : Nat) : List Nat :=
  (List.range (min s.t (s.cr + s.win) - lo)).map (lo + ·)

/-- CONS lets more chunks land (R83, R85). -/
def footCons (t : Tile) (w : StepWord) : Foot :=
  let s := t.ins.getD (sFA w) InStream.init
  ⟨5, [], (({ s with cr := s.cr + sImm w } : InStream).chunks (s.cr + s.win)).map s.slot⟩

/-- What a step touches when it issues. -/
def footOf (t : Tile) (w : StepWord) : Foot :=
  match sOp w with
  | 0x0A => footCons t w
  | 0x0D => ⟨6, [], ((wordAddr t w 8).map fun a => ((a, 8) : Span)).toList⟩
  | 0x0E => ⟨6, ((wordAddr t w 4).map fun a => ((a, 4) : Span)).toList, []⟩
  | 0x20 => footMma t w
  | 0x21 | 0x22 | 0x23 => footAcc t w
  | 0x30 => footVop t w
  | 0x31 | 0x32 | 0x33 | 0x34 => footData t w
  | _ => .none

/-! ### What races -/

/-- The chunks of a stream that may land and that no WAITC has put before the next step. -/
def Tile.loose (t : Tile) (k : Nat) (s : InStream) : List Nat := s.chunks (max (t.order.waited.getD k 0) s.cr)

/-- The scratchpad bytes that the inbound streams may write while the next step executes. -/
def Tile.danger (t : Tile) : List Span := t.ins.zipIdx.flatMap fun (s, k) => (t.loose k s).map s.slot

/-- The logged accesses of other units that nothing orders before step `n`. -/
def Tile.clashes (t : Tile) (n : Nat) (f : Foot) : List Touch :=
  t.order.log.filter fun e => e.unit != f.unit && !e.after.any (· < n)

/-- The bytes over which step `n` races (R75). -/
def Tile.racing (t : Tile) (n : Nat) (f : Foot) : List Span :=
  ((t.clashes n f).flatMap fun e => overlaps f.reads e.writes ++ overlaps f.writes (e.reads ++ e.writes)) ++
    (if f.unit = 5 then [] else overlaps (f.reads ++ f.writes) t.danger)

/-- Does the next step race? -/
def Tile.races (t : Tile) (w : StepWord) : Bool := !(t.racing t.order.nth (footOf t w)).isEmpty

/-! ### Free values -/

/-- Free bytes in a span: `n` draws so far, `b` tells the uses of one draw apart. -/
def Tile.blur1 (n b : Nat) (t : Tile) (x : Span) : Tile :=
  if x.1 < accBase then
    t.wr x.1 ((List.range x.2).map fun i => BitVec.ofNat 8 (Config.free .undefinedByte n (b * 2 ^ 24 + x.1 + i)))
  else
    (List.range (x.2 / 64)).foldl (fun t i =>
      let r := (x.1 - accBase) / 64 + i
      t.setRow (r / 256) (r % 256) ((List.range 16).map fun j =>
        Config.free .undefinedByte n (b * 2 ^ 24 + x.1 + 64 * i + j) % 2 ^ 32)) t

/-- Free bytes in each of a list of spans. -/
def Tile.blur (n b : Nat) (t : Tile) (l : List Span) : Tile := l.foldl (Tile.blur1 n b) t

/-- The logged steps whose outputs are drawn from bytes that step `n` races over, and those that drew on theirs. -/
def Tile.drawn (t : Tile) (n : Nat) (f : Foot) : List Touch :=
  t.order.log.foldl (fun acc e =>
    let raced := e.unit != f.unit && !e.after.any (· < n) && !(overlaps e.reads f.writes).isEmpty
    let fed := acc.any fun x => !(overlaps e.reads x.writes).isEmpty
    if e.unit < 5 && (raced || fed) then acc ++ [e] else acc) []

/-- Positions in a stream's run of the bytes that may yet land among a list of spans. -/
def Tile.landing (t : Tile) (k : Nat) (s : InStream) (l : List Span) : List Span :=
  (t.loose k s).flatMap fun j => (overlaps [s.slot j] l).map fun x => (j * chunkBytes + (x.1 - (s.slot j).1), x.2)

/-- Of the raced bytes, those that the transfer engine may yet write are undefined when it does. -/
def Tile.markRaced (t : Tile) (n : Nat) (f : Foot) (l : List Span) : Tile :=
  let raced := t.order.raced.zipIdx.map fun (r, k) => r ++ t.landing k (t.ins.getD k InStream.init) l
  let out := (t.clashes n f).foldl (fun m e =>
    match e.ends with
    | .acked _ id => Tbl.upd [] m id (· ++ overlaps (f.reads ++ f.writes) e.writes)
    | _ => m) t.order.out
  { t with order := { t.order with raced := raced, out := out } }

/-- Step `n` races: the bytes it shares, and the outputs drawn from them, become free values (R75). -/
def Tile.collide (t : Tile) (m n : Nat) (f : Foot) : Tile :=
  let l := t.racing n f
  if l.isEmpty then t
  else
    let out := t.drawn n f
    let u := ((t.blur m 1 l).blur m 2 (out.flatMap (·.writes))).markRaced n f l
    let flags := out.foldl (fun x e => x ||| e.flags) 0
    if out.isEmpty then u
    else { u with flags := (u.flags &&& (31 ^^^ flags)) ||| (Config.free .undefinedByte m (3 * 2 ^ 24) % 32) }

/-- The tile as its next step sees it: free values where the step races.  What a gather or a scatter touches follows its
index list, so the bytes are looked at twice. -/
def Tile.seen (t : Tile) (m : Nat) (w : StepWord) : Tile :=
  let look := fun (t : Tile) =>
    let f := footOf t w
    if f.unit = 5 then t else t.blur m 0 (t.racing t.order.nth f)
  look (look t)

/-! ### The log -/

/-- Later steps come after every logged access that `p` picks; what no queued transfer step can race with leaves the
log. -/
def Tile.ordered (t : Tile) (p : Ends → Bool) : Tile :=
  let log := t.order.log.map fun e => if e.after.isNone && p e.ends then { e with after := some t.order.nth } else e
  let late := fun (e : Touch) => t.xq.any fun q => !q.stop && e.after.any fun a => decide (q.nth < a)
  { t with order := { t.order with log := log.filter fun e => e.after.isNone || late e } }

/-- FENCE, WAITC and XDRAIN order what came before (R75, R78, R84). -/
def Tile.orders (t : Tile) (w : StepWord) : Tile :=
  match sOp w with
  | 0x08 => t.ordered fun e => match e with
    | .unit u => bit (sFA w) u
    | .sent _ => bit (sFA w) 5
    | _ => false
  | 0x09 =>
    let thr := (arOf t.ar (sFB w) + sImm w) % 2 ^ 32
    let t := t.ordered fun e => e == .waited (sFA w)
    { t with order := { t.order with waited := modifyAt t.order.waited (sFA w) (max thr) } }
  | 0x0B => t.ordered fun e => match e with
    | .sent k | .acked k _ => bit (sFA w) k
    | _ => false
  | _ => t

/-- Log the accesses of step `n`. -/
def Tile.touch (t : Tile) (n : Nat) (f : Foot) (flags : Nat) (ends : Ends) : Tile :=
  if f.reads.isEmpty && f.writes.isEmpty then t
  else { t with order := { t.order with log := t.order.log ++ [⟨n, f.unit, f.reads, f.writes, flags, ends, none⟩] } }

/-- The tile after its next step: `t` as the step saw it, `u` as the step left it. -/
def Tile.settle (t : Tile) (m : Nat) (w : StepWord) (u : Tile) : Tile :=
  let f := footOf t w
  let n := t.order.nth
  let u := (u.collide m n f).orders w
  let u := if f.unit < 5 then u.touch n f (u.flags ^^^ t.flags) (.unit f.unit) else u
  { u with order := { u.order with nth := n + 1 } }

/-! ### The transfer engine -/

/-- A byte that lands where the stream's run raced is undefined. -/
def Tile.smear (t : Tile) (m k pos : Nat) (bs : List Byte) : List Byte :=
  let l := t.order.raced.getD k []
  if l.isEmpty then bs
  else bs.zipIdx.map fun (b, i) =>
    if l.any fun x => x.1 ≤ pos + i && pos + i < x.1 + x.2 then BitVec.ofNat 8 (Config.free .undefinedByte m i) else b

/-- A word that XOUT `id` writes into scratchpad, undefined where it raced. -/
def Tile.putOut (t : Tile) (m id a v : Nat) : Tile :=
  (t.put a 4 v).blur m 0 (overlaps [(a, 4)] (Tbl.look [] t.order.out id))

/-- The index list of a descriptor. -/
def Desc.list (x : Desc) : List Span := if x.kind = 0 then [] else [(x.idxSpa, 4 * x.n1)]

/-- Entries that ask for allocation, and the drop count: what a token exchange writes (R121, R122). -/
def Tile.rewrites (t : Tile) (x : Desc) : List Span :=
  if x.kind ≠ 2 then []
  else (((List.range x.n1).map fun i => x.idxSpa + 4 * i).filter fun a =>
    t.val a 4 % 2 ^ 24 == 0xFFFFFF && t.val a 4 != skipEntry).map (fun a => (a, 4)) ++ [(x.cntSpa, 4)]

/-- The stream after an XIN has executed (R83). -/
def InStream.start (s : InStream) (x : Desc) (q : XStep) : InStream :=
  { s with
    pending := s.pending - 1, desc := some x, ring := q.spa, win := q.win, total := x.total, next := 0, out := 0
    landed := [], done := 0, cc := 0, cr := 0, t := ceilDiv x.total chunkBytes, stopped := false, resume := none
    holds := [], run := s.run + 1, segs := [], asking := false }

/-- The stream with one more XOUT (R107). -/
def OutStream.start (o : OutStream) (x : Desc) (q : XStep) (id : Nat) : OutStream :=
  { o with xouts := o.xouts ++ [{
      id := id, desc := x, spa := q.spa, mode := q.mode, total := x.total, next := 0, segs := [], asking := false,
      drops := 0 }] }

/-- What an XIN reads, and the chunks that it lets land at once. -/
def footXin (s : InStream) (x : Desc) (q : XStep) : Foot :=
  ⟨5, x.list, ((s.start x q).chunks 0).map (s.start x q).slot⟩

/-- What an XOUT reads and writes in scratchpad. -/
def footXout (t : Tile) (x : Desc) (q : XStep) : Foot := ⟨5, (q.spa, x.total) :: x.list, t.rewrites x⟩

/-- An XIN executes: its stream starts, and its window opens.  Chunks of the stream's last run that no WAITC has ordered stay
in the log. -/
def Tile.startIn (t : Tile) (m : Nat) (q : XStep) (x : Desc) : Tile :=
  let k := q.stream
  let s := t.ins.getD k InStream.init
  let u := t.touch q.nth ⟨5, [], (t.loose k s).map s.slot⟩ 0 (.waited k)
  let u := { u with
    ins := modifyAt u.ins k fun s => s.start x q
    order := { u.order with waited := modifyAt u.order.waited k fun _ => 0, raced := modifyAt u.order.raced k fun _ => [] } }
  u.collide m q.nth (footXin s x q)

/-- An XOUT executes: its stream has one more. -/
def Tile.startOut (t : Tile) (m : Nat) (q : XStep) (x : Desc) : Tile :=
  let f := footXout t x q
  let u := { t with outs := modifyAt t.outs q.stream fun o => o.start x q t.xouts, xouts := t.xouts + 1 }
  let u := u.collide m q.nth f
  let raced := overlaps (x.list ++ f.writes) (t.racing q.nth f)
  let u := if raced.isEmpty then u else { u with order := { u.order with out := Tbl.put u.order.out t.xouts raced } }
  (u.touch q.nth ⟨5, [(q.spa, x.total)], []⟩ 0 (.sent q.stream)).touch q.nth ⟨5, [], f.writes⟩ 0 (.acked q.stream t.xouts)

end Sys2Proof.Machine
end

