-- ==== Sys2Proof/Machine/Issue.lean ====
section
/-!
DEFINITION. The issue of a step, and the commands of the sequencer, engine, vector and data steps (R74, R75, R77).
-/

namespace Sys2Proof.Machine

/-- Issue the next step of core `c`, if it is of the kind `p`.  The step sees undefined bytes where it races with another
unit's accesses, and leaves undefined what R75 says. -/
def Dev.stepOn (d : Dev) (now c : Nat) (p : StepWord → Bool) (f : Tile → StepWord → StepOut) : Dev :=
  match d.issuer c with
  | none => d
  | some t0 =>
    match t0.cur with
    | none => d
    | some w =>
      if p w then
        let t := t0.seen d.fresh w
        match f t w with
        | .go t' =>
          let e := d.onCore c fun k => { k with tile := some (t.settle d.fresh w t'), svc := .running }
          { e with fresh := if t.races w then e.fresh + 1 else e.fresh }
        | .hold st => d.onCore c fun k => { k with
            tile := some { t0 with held := st }, svc := if st then .stalled else .running }
        | .abort k code sub detail =>
          (d.raise code (coreUnit c) sub .contained detail (some (t0.own.ast, t0.own.ctx))).abortTile now c k code
      else d

/-- Does core `c` have a next step of kind `p`? -/
def Dev.issues (d : Dev) (c : Nat) (p : StepWord → Bool) : Bool :=
  match (d.issuer c).bind Tile.cur with
  | some w => p w
  | none => false

/-- Issue a step that draws free values: `f` gets the count of free values drawn so far. -/
def Dev.stepFree (d : Dev) (now c : Nat) (p : StepWord → Bool) (f : Nat → Tile → StepWord → StepOut) : Dev :=
  if d.issues c p then
    let e := d.stepOn now c p (f d.fresh)
    { e with fresh := e.fresh + 1 }
  else d

/-- END ends issue and stops the inbound streams; the core drains (Table 3-13). -/
def Dev.endStep (d : Dev) (c : Nat) : Dev :=
  match d.issuer c with
  | none => d
  | some t =>
    match t.cur with
    | none => d
    | some w =>
      if isOp 0x01 w then
        d.onCore c fun k => { k with svc := .draining, tile := some { t with
          ended := true, held := false, ins := t.ins.map InStream.stop
          xq := t.xq.filter fun x => !x.inbound && !x.stop } }
      else d

/-! ### Control steps -/

/-- NOP step. -/
def execStepNop (c : Nat) (s : State) := s.run fun now d => d.stepOn now c (isOp 0x00) doNop
/-- END. -/
def execStepEnd (c : Nat) (s : State) := s.run fun _ d => d.endStep c
/-- LOOP. -/
def execLoopStart (c : Nat) (s : State) := s.run fun now d => d.stepOn now c (isOp 0x02) doLoop
/-- ENDL. -/
def execLoopEnd (c : Nat) (s : State) := s.run fun now d => d.stepOn now c (isOp 0x03) doEndl
/-- SETA. -/
def execSeta (c : Nat) (s : State) := s.run fun now d => d.stepOn now c (isOp 0x04) doSeta
/-- ADDA. -/
def execAdda (c : Nat) (s : State) := s.run fun now d => d.stepOn now c (isOp 0x05) doAdda
/-- MULA. -/
def execMula (c : Nat) (s : State) := s.run fun now d => d.stepOn now c (isOp 0x06) doMula
/-- WRAPA. -/
def execWrapa (c : Nat) (s : State) := s.run fun now d => d.stepOn now c (isOp 0x07) doWrapa
/-- FENCE. -/
def execStepFence (c : Nat) (s : State) := s.run fun now d => d.stepOn now c (isOp 0x08) doFence
/-- WAITC. -/
def execWaitc (c : Nat) (s : State) := s.run fun now d => d.stepOn now c (isOp 0x09) doWaitc
/-- CONS. -/
def execCons (c : Nat) (s : State) := s.run fun now d => d.stepOn now c (isOp 0x0A) doCons
/-- XDRAIN. -/
def execXdrain (c : Nat) (s : State) := s.run fun now d => d.stepOn now c (isOp 0x0B) doXdrain
/-- TRAP. -/
def execTrap (c : Nat) (s : State) := s.run fun now d => d.stepOn now c (isOp 0x0C) doTrap
/-- STAMP. -/
def execStamp (c : Nat) (s : State) := s.run fun now d => d.stepOn now c (isOp 0x0D) doStamp
/-- LDA. -/
def execLda (c : Nat) (s : State) := s.run fun now d => d.stepOn now c (isOp 0x0E) doLda

/-! ### Matrix and accumulator steps -/

/-- MMA. -/
def execMma (c : Nat) (s : State) := s.run fun now d => d.stepFree now c (isOp 0x20) doMma
/-- ACCLD. -/
def execAccld (c : Nat) (s : State) := s.run fun now d => d.stepOn now c (isOp 0x21) doAccld
/-- ACCRD. -/
def execAccrd (c : Nat) (s : State) := s.run fun now d => d.stepFree now c (isOp 0x22) doAccrd
/-- ACCZ. -/
def execAccz (c : Nat) (s : State) := s.run fun now d => d.stepOn now c (isOp 0x23) doAccz

/-! ### Vector and data steps -/

/-- FMA. -/
def execFma (c : Nat) (s : State) := s.run fun now d =>
  d.stepOn now c (isVop 0x00) (doLanes .three fun w _ a b x => vFma (opRnd w) (sFtz w) a b x)
/-- ADD. -/
def execAdd (c : Nat) (s : State) := s.run fun now d =>
  d.stepOn now c (isVop 0x01) (doLanes .two fun w _ a b _ => vAdd (opRnd w) (sFtz w) a b)
/-- SUB. -/
def execSub (c : Nat) (s : State) := s.run fun now d =>
  d.stepOn now c (isVop 0x02) (doLanes .two fun w _ a b _ => vSub (opRnd w) (sFtz w) a b)
/-- MUL. -/
def execMul (c : Nat) (s : State) := s.run fun now d =>
  d.stepOn now c (isVop 0x03) (doLanes .two fun w _ a b _ => vMul (opRnd w) (sFtz w) a b)
/-- MAX. -/
def execMax (c : Nat) (s : State) := s.run fun now d =>
  d.stepOn now c (isVop 0x04) (doLanes .two fun w _ a b _ => vMax (sFtz w) a b)
/-- MIN. -/
def execMin (c : Nat) (s : State) := s.run fun now d =>
  d.stepOn now c (isVop 0x05) (doLanes .two fun w _ a b _ => vMin (sFtz w) a b)
/-- ABS. -/
def execAbs (c : Nat) (s : State) := s.run fun now d =>
  d.stepOn now c (isVop 0x06) (doLanes .one fun w _ a _ _ => vAbs (sFtz w) a)
/-- NEG. -/
def execNeg (c : Nat) (s : State) := s.run fun now d =>
  d.stepOn now c (isVop 0x07) (doLanes .one fun w _ a _ _ => vNeg (sFtz w) a)
/-- CMP. -/
def execCmp (c : Nat) (s : State) := s.run fun now d => d.stepOn now c (isVop 0x08) doCmp
/-- SEL. -/
def execSel (c : Nat) (s : State) := s.run fun now d => d.stepOn now c (isVop 0x09) doSel
/-- SCALE. -/
def execScale (c : Nat) (s : State) := s.run fun now d =>
  d.stepOn now c (isVop 0x0A) (doLanes .one fun w _ a _ _ => vScale (opRnd w) (sFtz w) (signed 16 (sImm16 w)) a)
/-- CVT. -/
def execCvt (c : Nat) (s : State) := s.run fun now d => d.stepFree now c (isVop 0x0B) doCvt
/-- QBS. -/
def execQbs (c : Nat) (s : State) := s.run fun now d => d.stepFree now c (isVop 0x0C) doQbs
/-- DQBS. -/
def execDqbs (c : Nat) (s : State) := s.run fun now d => d.stepOn now c (isVop 0x0D) doDqbs
/-- RSUM. -/
def execRsum (c : Nat) (s : State) := s.run fun now d =>
  d.stepFree now c (isVop 0x0E) fun n =>
    doRows fun w g xs => vRsum (opRnd w) (sFtz w) (fun k => Config.free .sumOrder n (g * 128 + k)) xs
/-- RMAX. -/
def execRmax (c : Nat) (s : State) := s.run fun now d =>
  d.stepOn now c (isVop 0x0F) (doRows fun w _ xs => vRmax (sFtz w) xs)

/-- A transcendental operation of VOP code `op` (R58). -/
def Dev.transc (d : Dev) (now c op : Nat) : Dev :=
  d.stepFree now c (isVop op) fun n =>
    doLanes .one fun w i a _ _ => vTransc op (Config.free (if op = 0x19 ∨ op = 0x1A then .trigFar else .ulpError) n i)
      (sFtz w) a

/-- EXP2. -/
def execExp2 (c : Nat) (s : State) := s.run fun now d => d.transc now c 0x10
/-- EXP. -/
def execExp (c : Nat) (s : State) := s.run fun now d => d.transc now c 0x11
/-- LOG2. -/
def execLog2 (c : Nat) (s : State) := s.run fun now d => d.transc now c 0x12
/-- LOG. -/
def execLog (c : Nat) (s : State) := s.run fun now d => d.transc now c 0x13
/-- RCP. -/
def execRcp (c : Nat) (s : State) := s.run fun now d => d.transc now c 0x14
/-- RSQRT. -/
def execRsqrt (c : Nat) (s : State) := s.run fun now d => d.transc now c 0x15
/-- SQRT. -/
def execSqrt (c : Nat) (s : State) := s.run fun now d => d.transc now c 0x16
/-- TANH. -/
def execTanh (c : Nat) (s : State) := s.run fun now d => d.transc now c 0x17
/-- SIGMOID. -/
def execSigmoid (c : Nat) (s : State) := s.run fun now d => d.transc now c 0x18
/-- SIN. -/
def execSin (c : Nat) (s : State) := s.run fun now d => d.transc now c 0x19
/-- COS. -/
def execCos (c : Nat) (s : State) := s.run fun now d => d.transc now c 0x1A
/-- FLAGS. -/
def execFlags (c : Nat) (s : State) := s.run fun now d => d.stepOn now c (isVop 0x3F) doFlags
/-- VMOV. -/
def execVmov (c : Nat) (s : State) := s.run fun now d => d.stepOn now c (isOp 0x31) doVmov
/-- VFILL. -/
def execVfill (c : Nat) (s : State) := s.run fun now d => d.stepOn now c (isOp 0x32) doVfill
/-- VGATH. -/
def execVgath (c : Nat) (s : State) := s.run fun now d => d.stepOn now c (isOp 0x33) doVgath
/-- VSCAT. -/
def execVscat (c : Nat) (s : State) := s.run fun now d => d.stepOn now c (isOp 0x34) doVscat

end Sys2Proof.Machine
end

