-- ==== Sys2Proof/Machine/Transfer.lean ====
section
/-!
DEFINITION. The transfer engine: executing XIN, XOUT and XSTOP (R79, R83, R87, R110, R113), issuing requests (R105 to
R107, R117 to R121, R124, R126, R235), landing data and acknowledgements (R84, R114, R115, R122), and holding and
resuming a stream at its resume point (R130, R131, R134).
-/

namespace Sys2Proof.Machine

/-! ### Requests -/

/-- Ring slot of the command a tile belongs to. -/
def Dev.slotOf (d : Dev) (t : Tile) : Nat :=
  match Tbl.find d.hif.cmds t.own.cmd, Tbl.find d.hif.queues t.own.queue with
  | some m, some q => m.pos % 2 ^ q.log2n
  | _, _ => 0

/-- A request of a tile, to a virtual address or a slice offset, before it is routed. -/
def Dev.tileReq (d : Dev) (now c : Nat) (t : Tile) (who : Agent) (acc : Acc) (va : Nat) (data : Line) (mask : Nat)
    (reduce : Bool) : Req where
  who := who
  acc := acc
  va := va
  tags := d.tileTags c t
  dest := .chan 0 0 0
  data := data
  mask := mask
  hop := if reduce then some (coreDp c) else none
  guar := t.own.guar
  born := now
  esc := 0
  queue := t.own.queue
  slot := d.slotOf t

/-- Route and send a request to device memory; one whose address lies in no valid region is not sent and faults hard
with 0x0301 (R168, R195). -/
def Dev.sendMem (d : Dev) (dp : Nat) (r : Req) : Dev :=
  match (d.mapOf r.tags.ast r.tags.epoch).bind (·.route r.va) with
  | none => d.hardFault r 0x0301 (svcUnit dp)
  | some p => d.sendReq { r with dest := .chan p.l p.region p.r }

/-- Send a request of a stream: to memory, or to the slice window; none where the offset lies beyond the window
(R235). -/
def Dev.sendTo (d : Dev) (dp space : Nat) (r : Req) : Option Dev :=
  if space = 0 then some (d.sendMem dp r)
  else (d.sliceAt r.tags.ast r.tags.epoch r.va).map fun (k, g) => d.sendReq { r with dest := .slice k g }

/-! ### Executing XIN, XOUT and XSTOP -/

/-- Has a stream nothing left to deliver?  (R83) -/
def InStream.over (s : InStream) : Bool := s.desc.isNone || s.stopped || decide (s.t ≤ s.cc)

/-- An engine's abort: code, detail. -/
abbrev Refused := Nat × List Nat

/-- The lowest and highest slice offset of a strided transfer lie in the window (R111). -/
def Dev.windowOk (d : Dev) (t : Tile) (x : Desc) : Bool :=
  match d.curMap t.own.ast with
  | none => false
  | some m =>
    let (lo, hi) := x.span (extent x.n1 - 1)
    decide (0 ≤ lo) && decide (hi < (m.slices.length * sliceBytes : Nat))

/-- The descriptor with the addresses its step gives it: base plus AR[OFFREG] × OFFMUL, SPAs made effective. -/
def Desc.place (x : Desc) (q : XStep) : Desc :=
  { x with base := x.base + q.off, idxSpa := spaAddr q.ars x.idxSpa, cntSpa := spaAddr q.ars x.cntSpa }

/-- Check a descriptor as read for the step that names it (R113), and R73 for its lists. -/
def Dev.checkDesc (d : Dev) (t : Tile) (q : XStep) (lo hi : Line) : Refused ⊕ Desc :=
  let x := (Desc.parse lo hi).place q
  match descBad lo hi (!q.inbound) q.mode q.desc t.own.progLen with
  | some f => .inl (0x0111, [q.desc, f])
  | none =>
    if q.inbound ∧ q.spa % chunkBytes ≠ 0 then .inl (0x0111, [q.desc, 0x80])
    else if !q.inbound ∧ spadBytes < q.spa + x.total then .inl (0x0111, [q.desc, 0x04])
    else if x.space = 1 ∧ x.kind = 0 ∧ !d.windowOk t x then .inl (0x0111, [q.desc, 0x08])
    else if x.kind ≠ 0 ∧ !spaOk x.idxSpa (4 * x.n1) then .inl (0x0109, [q.step, x.idxSpa])
    else if x.kind = 2 ∧ !q.inbound ∧ !spaOk x.cntSpa 4 then .inl (0x0109, [q.step, x.cntSpa])
    else .inr x

/-- R73 for a transfer step's own SPA. -/
def XStep.rangeOk (q : XStep) : Bool :=
  spaOk q.spa (if q.inbound then q.win * chunkBytes else 1)

/-- What executing the head of the transfer queue comes to. -/
inductive XRun where
  | wait
  | done (d : Dev)
  | abort (code : Nat) (detail : List Nat)
  | hard (code : Nat) (va : Nat)
  /-- The descriptor's page is absent: a record is sent and the step waits. -/
  | soft (code : Nat) (va : Nat)

/-- Address of the program header. -/
def Dev.progVa (d : Dev) (t : Tile) : Nat :=
  ((Tbl.find d.hif.objs t.own.progObj).map (·.va)).getD 0 + t.own.progOff

/-- Execute the head of a tile's transfer queue. -/
def Dev.xferHead (d : Dev) (c : Nat) (t : Tile) (q : XStep) : XRun :=
  let pop (f : Tile → Tile) : XRun := .done (d.onTile c fun t => { f t with xq := t.xq.drop 1 })
  if q.stop then pop fun t => { t with ins := modifyAt t.ins q.stream InStream.stop }
  else if q.inbound ∧ !(t.ins.getD q.stream InStream.init).over then .wait
  else if !q.rangeOk then .abort 0x0109 [q.step, q.spa]
  else
    let va := d.progVa t + q.desc
    match d.peeks (d.tileTags c t) (if q.desc + 128 ≤ t.own.progLen then 2 else 1) (va % 2 ^ 56) with
    | .inl (code, at_) =>
      if code = 0x030D ∨ code = 0x030E then .soft code at_ else .hard code at_
    | .inr l =>
      match d.checkDesc t q (l.getD 0 0) (l.getD 1 0) with
      | .inl (code, det) => .abort code det
      | .inr x =>
        .done ({ d with fresh := d.fresh + 1 }.onTile c fun t =>
          let t := { t with xq := t.xq.drop 1 }
          if q.inbound then t.startIn d.fresh q x else t.startOut d.fresh q x)

/-- The tile on a core that has one in work. -/
def Dev.worker (d : Dev) (c : Nat) : Option Tile :=
  match (d.coreAt c).svc with
  | .running | .stalled | .draining => (d.coreAt c).tile
  | _ => none

/-- Execute what can be executed of a core's transfer queue, in issue order (R75). -/
def Dev.xferRun (now c : Nat) : Nat → Dev → Dev
  | 0, d => d
  | n + 1, d =>
    match d.worker c with
    | none => d
    | some t =>
      match t.xq with
      | [] => d
      | q :: _ =>
        match d.xferHead c t q with
        | .wait => d
        | .done d => Dev.xferRun now c n d
        | .abort code det =>
          (d.raise code (coreUnit c) 0x05 .contained det (some (t.own.ast, t.own.ctx))).abortTile now c .misuse code
        | .hard code va =>
          let r := d.tileReq now c t (.engine c q.inbound q.stream 0 0 0) .read va 0 0 false
          (d.fault ⟨d.faultRec r code (svcUnit (coreDp c)) false false, none, .hard code⟩).abortTile now c
            (.hard (if code = 0x0307 then .poolLost else .faulted)) code
        | .soft code va =>
          let r := d.tileReq now c t (.engine c q.inbound q.stream 0 0 0) .read va 0 0 false
          d.fault ⟨d.faultRec r code (svcUnit (coreDp c)) true false, none, .retry⟩

/-- A transfer step issues into its queue of four (R75, R84). -/
def doTransfer (stop inb : Bool) (t : Tile) (w : StepWord) : StepOut :=
  if 4 ≤ t.xq.length then .hold false
  else
    let k := if stop then sFA w else sStream w
    let q : XStep := if stop then
        { stop := true, inbound := true, stream := k, mode := 0, win := 0, spa := 0, desc := 0, off := 0, ars := [],
          step := t.step, nth := t.order.nth }
      else
        { stop := false, inbound := inb, stream := k, mode := sMode w, win := sWin w, spa := spaAddr t.ar (sSpa w)
          desc := sDesc w, off := arOf t.ar (sOffReg w) * sOffMul w, ars := t.ar, step := t.step
          nth := t.order.nth }
    let t := { t with xq := t.xq ++ [q] }
    .go (if stop then t.bump
      else if inb then ({ t with ins := modifyAt t.ins k fun s => { s with issued := true, pending := s.pending + 1 } }).bump
      else ({ t with outs := modifyAt t.outs k fun o => { o with count := o.count + 1 } }).bump)

/-- Issue a transfer step and execute what can be executed. -/
def Dev.xferStep (d : Dev) (now c : Nat) (p : StepWord → Bool) (stop inb : Bool) : Dev :=
  if d.issues c p then Dev.xferRun now c 5 (d.stepOn now c p (doTransfer stop inb)) else d

/-- An XOUT of a mode. -/
def isXout (m : Nat) (w : StepWord) : Bool := sOp w == 0x11 && sMode w == m

/-- XSTOP. -/
def execXstop (c : Nat) (s : State) := s.run fun now d => d.xferStep now c (isOp 0x0F) true true
/-- XIN. -/
def execXin (c : Nat) (s : State) := s.run fun now d => d.xferStep now c (isOp 0x10) false true
/-- XOUT with MODE 0. -/
def execXoutStore (c : Nat) (s : State) := s.run fun now d => d.xferStep now c (isXout 0) false false
/-- XOUT with MODE 1. -/
def execXoutAdd (c : Nat) (s : State) := s.run fun now d => d.xferStep now c (isXout 1) false false
/-- XOUT with MODE 2. -/
def execXoutReduce (c : Nat) (s : State) := s.run fun now d => d.xferStep now c (isXout 2) false false

/-! ### Landing (R83, R84, R114) -/

/-- Ring address of a stream byte. -/
def InStream.ringAt (s : InStream) (b : Nat) : Nat := s.ring + b / chunkBytes % s.win * chunkBytes + b % chunkBytes

/-- The complete prefix, grown over the landed pieces; the fuel bounds their number. -/
def growPrefix : Nat → Nat → List (Nat × Nat) → Nat
  | 0, p, _ => p
  | n + 1, p, l =>
    match l.find? fun x => x.1 ≤ p && p < x.1 + x.2 with
    | some x => growPrefix n (x.1 + x.2) l
    | none => p

/-- The stream after the bytes of one piece are written. -/
def InStream.landed1 (s : InStream) (pos len : Nat) : InStream :=
  let l := s.landed ++ [(pos, len)]
  let p := growPrefix l.length s.done l
  { s with
    done := p
    landed := l.filter fun x => p < x.1 + x.2
    cc := if s.total ≤ p then ceilDiv s.total chunkBytes else p / chunkBytes }

/-- Bytes of a stream arrive at a tile; a piece of the complete prefix is never delivered again (R88). -/
def Tile.land (t : Tile) (k pos : Nat) (bs : List Byte) : Tile :=
  let s := t.ins.getD k InStream.init
  if s.stopped ∨ pos < s.done then t
  else { t.wr (s.ringAt pos) bs with ins := modifyAt t.ins k fun s => s.landed1 pos bs.length }

/-! ### Budgets and credits -/

/-- Reads a tile has outstanding. -/
def Tile.readsOut (t : Tile) : Nat := t.ins.foldl (fun n s => n + s.out) 0
/-- Writes a tile has outstanding. -/
def Tile.writesOut (t : Tile) : Nat :=
  t.outs.foldl (fun n o => n + (o.pieces.filter fun p => !p.acked && !p.again).length) 0
/-- May the engine send another read?  (R105, R260) -/
def Dev.readRoom (d : Dev) (t : Tile) : Bool :=
  t.readsOut < min 2048 (d.get (ADM_CLASS_PARAM_A_ACT.READ_BUDGET t.own.cls))
/-- May the engine send another write? -/
def Dev.writeRoom (d : Dev) (t : Tile) : Bool :=
  t.writesOut < min 1024 (d.get (ADM_CLASS_PARAM_A_ACT.WRITE_BUDGET t.own.cls))

/-- The tile is aborted by its transfer engine. -/
def Dev.engineAbort (d : Dev) (now c : Nat) (t : Tile) (code : Nat) (det : List Nat) : Dev :=
  (d.raise code (coreUnit c) 0x05 .contained det (some (t.own.ast, t.own.ctx))).abortTile now c .misuse code

/-! ### Issuing inbound requests -/

/-- A draw of free values is spent where bytes of a stream raced. -/
def Dev.spent (d : Dev) (t : Tile) (k : Nat) : Dev :=
  if (t.order.raced.getD k []).isEmpty then d else { d with fresh := d.fresh + 1 }

/-- Issue the next request of an inbound stream (R107). -/
def Dev.issueIn (d : Dev) (now c k : Nat) (t : Tile) : Dev :=
  let s := t.ins.getD k InStream.init
  match s.desc with
  | none => d
  | some x =>
    if s.stopped ∨ s.faulted ∨ s.asking ∨ s.total ≤ s.next ∨ t.retained ∨ s.cr + s.win ≤ s.next / chunkBytes ∨
        !d.readRoom t then d
    else
      let b := t.base + s.next
      let i0 := (x.index b).1
      let room := min (min (x.n0 - i0) (s.total - s.next)) (chunkBytes - s.next % chunkBytes)
      match t.rowOf x s.segs true b with
      | .bad r e => d.engineAbort now c t 0x0112 [r, e]
      | .skip =>
        (d.spent t k).onTile c fun t =>
          let t := t.land k s.next (t.smear d.fresh k s.next (List.replicate room 0))
          { t with ins := modifyAt t.ins k fun s => { s with next := s.next + room } }
      | .table g r | .alloc g r =>
        (d.onTile c fun t => { t with ins := modifyAt t.ins k fun s => { s with asking := true } }).sendMem (coreDp c)
          (d.tileReq now c t (.alloc c true k s.run r g) .read (x.segTable + 16 * g) 0 0 false)
      | .at_ j1 =>
        let va := x.addr b j1
        let len := min room (64 - va % 64)
        let r := d.tileReq now c t (.engine c true k s.run s.next len) .read va 0 0 false
        match d.sendTo (coreDp c) x.space r with
        | none => d.engineAbort now c t 0x0111 [0, 0x08]
        | some d => d.onTile c fun t => { t with
            activity := t.activity + 1
            ins := modifyAt t.ins k fun s => { s with next := s.next + len, out := s.out + 1 } }

/-! ### Issuing outbound requests -/

/-- Where byte `b` of an XOUT lies in scratchpad: packed from its source, or in the ring of a segment tile. -/
def Tile.source (t : Tile) (x : Xout) (b : Nat) : Nat :=
  match t.seg with
  | none => x.spa + b
  | some _ => (t.ins.getD 0 InStream.init).ringAt b

/-- Bytes of an XOUT whose source is in scratchpad. -/
def Tile.sourceReady (t : Tile) (x : Xout) : Nat :=
  match t.seg with
  | none => x.total
  | some _ => (t.ins.getD 0 InStream.init).done

/-- The access of a write: whole, masked, or an add. -/
def writeAcc (mode mask : Nat) : Acc := if mode ≠ 0 then .add else if mask = 2 ^ 64 - 1 then .write else .masked

/-- Change XOUT `id` of outbound stream `k`. -/
def Tile.onXout (t : Tile) (k id : Nat) (f : Xout → Xout) : Tile :=
  { t with outs := modifyAt t.outs k fun o => { o with xouts := o.xouts.map fun x => if x.id = id then f x else x } }

/-- A segment tile releases the chunks whose bytes have all been sent (R129). -/
def Tile.releaseRing (t : Tile) (next : Nat) : Tile :=
  match t.seg with
  | none => t
  | some _ => { t with ins := modifyAt t.ins 0 fun s => { s with cr := next / chunkBytes } }

/-- Is an XOUT acknowledged?  (R115) -/
def OutStream.acked (o : OutStream) (x : Xout) : Bool :=
  decide (x.total ≤ x.next) && !x.asking && o.pieces.all fun p => p.xout != x.id || (p.acked && !p.again)

/-- Acknowledge the XOUTs of a stream that have become so, in order: token exchange writes its drop count and records
0x0114 (R115, R122).  The fuel bounds their number. -/
def Dev.ackOut (c k : Nat) : Nat → Dev → Dev
  | 0, d => d
  | n + 1, d =>
    match (d.coreAt c).tile with
    | none => d
    | some t =>
      let o := t.outs.getD k OutStream.init
      match o.xouts with
      | [] => d
      | x :: _ =>
        if o.acked x && !o.faulted then
          let fresh := d.fresh
          let d := { d with fresh := if (Tbl.look [] t.order.out x.id).isEmpty then fresh else fresh + 1 }.onTile c fun t =>
            let t := { t with outs := modifyAt t.outs k fun o => { o with
              xouts := o.xouts.drop 1, count := o.count - 1, pieces := o.pieces.filter fun p => p.xout != x.id } }
            let t := if x.desc.kind = 2 then t.putOut fresh x.id x.desc.cntSpa x.drops else t
            { t with order := { t.order with out := Tbl.del t.order.out x.id } }
          let d := if x.desc.kind = 2 ∧ x.drops ≠ 0 then
              d.raise 0x0114 (coreUnit c) 0x05 .info [k, x.drops] (some (t.own.ast, t.own.ctx)) else d
          Dev.ackOut c k n d
        else d

/-- Send a write of an outbound stream. -/
def Dev.sendPiece (d : Dev) (now c k : Nat) (t : Tile) (x : Xout) (pos len va : Nat) (data : Line) : Option Dev :=
  let mask := maskOf (va % 64) len
  d.sendTo (coreDp c) x.desc.space
    (d.tileReq now c t (.engine c false k x.id pos len) (writeAcc x.mode mask) va data mask (x.mode == 2))

/-- Issue the next request of an outbound stream: writes kept for reissue first, then new ones (R107, R131). -/
def Dev.issueOut (d : Dev) (now c k : Nat) (t : Tile) : Dev :=
  let o := t.outs.getD k OutStream.init
  if o.faulted ∨ t.retained ∨ !d.writeRoom t then d
  else match o.pieces.find? (·.again) with
  | some p =>
    (match o.xouts.find? (fun x => x.id == p.xout) with
     | none => d
     | some x =>
       match d.sendPiece now c k t x p.pos p.len p.addr p.data with
       | none => d.engineAbort now c t 0x0111 [0, 0x08]
       | some d => d.onTile c fun t => { t with outs := modifyAt t.outs k fun o => { o with
           pieces := o.pieces.map fun q => if q = p then { q with again := false } else q } })
  | none =>
    match o.xouts.find? fun x => decide (x.next < x.total) with
    | none => d
    | some x =>
      let ready := t.sourceReady x
      if x.asking ∨ ready ≤ x.next then d
      else
        let b := t.base + x.next
        let i0 := (x.desc.index b).1
        let room := min (x.desc.n0 - i0) (ready - x.next)
        match t.rowOf x.desc x.segs false b with
        | .bad r e => d.engineAbort now c t 0x0112 [r, e]
        | .skip =>
          Dev.ackOut c k 8 (d.onTile c fun t =>
            (t.onXout k x.id fun x => { x with next := x.next + room }).releaseRing (x.next + room))
        | .table g r =>
          (d.onTile c fun t => t.onXout k x.id fun x => { x with asking := true }).sendMem (coreDp c)
            (d.tileReq now c t (.alloc c false k x.id r g) .read (x.desc.segTable + 16 * g) 0 0 false)
        | .alloc g r =>
          (d.onTile c fun t => t.onXout k x.id fun x => { x with asking := true }).sendMem (coreDp c)
            (d.tileReq now c t (.alloc c false k x.id r g) .fetchAdd (x.desc.segTable + 16 * g + 12) 0 0 false)
        | .at_ j1 =>
          let va := x.desc.addr b j1
          let len := min room (64 - va % 64)
          let data := placeBytes (va % 64) ((List.range len).flatMap fun i => t.rd (t.source x (x.next + i)) 1)
          match d.sendPiece now c k t x x.next len va data with
          | none => d.engineAbort now c t 0x0111 [0, 0x08]
          | some d => d.onTile c fun t =>
            let t := t.onXout k x.id fun x => { x with next := x.next + len }
            { t.releaseRing (x.next + len) with
              activity := t.activity + 1
              sent := addTarget t.sent ⟨x.desc.space, va, len⟩
              outs := modifyAt t.outs k fun o => { o with pieces := o.pieces ++ [{
                xout := x.id, pos := x.next, len := len, data := data, addr := va, acked := false, again := false }] } }

/-! ### Redirects to host memory (R124, R126, R388) -/

/-- Is an answer for the given stream of the core, with the run that is still on? -/
def Tile.owns (t : Tile) (c : Nat) (inb : Bool) (k : Nat) (w : Agent) : Bool :=
  match w with
  | .engine c' inb' k' run _ _ =>
    c' == c && inb' == inb && k' == k && (!inb || run == (t.ins.getD k InStream.init).run)
  | .alloc c' inb' k' _ _ _ => c' == c && inb' == inb && k' == k
  | _ => false

/-- A redirected request goes out to the host under a credit of the port; with no credit free it waits, with none
reserved the tile is aborted. -/
def Dev.issueHost (d : Dev) (now c k : Nat) (t : Tile) (i : Nat) (r : Req) (link addr : Nat) : Dev :=
  if t.credits.getD (link / 2) 0 = 0 then d.engineAbort now c t 0x0113 [link / 2, k]
  else if t.credits.getD (link / 2) 0 ≤ t.used.getD (link / 2) 0 then d
  else
    let d := d.onNet fun n => { n with
      resps := dropAt n.resps i, reqs := n.reqs ++ [{ r with dest := .host link addr }] }
    d.onTile c fun t => { t with used := modifyAt t.used (link / 2) (· + 1) }

/-- The position and link of a redirect answer for a stream. -/
def Dev.redirectFor (d : Dev) (t : Tile) (c : Nat) (inb : Bool) (k : Nat) : Option (Nat × Req × Nat × Nat) :=
  (d.net.resps.zipIdx).findSome? fun (r, i) =>
    match r.status with
    | .redirect p a => if t.owns c inb k r.req.who then some (i, r.req, p, a) else none
    | _ => none

/-- A transfer engine issues a stream's next request: a redirected one first (R107, R388). -/
def Dev.xferIssue (d : Dev) (now c : Nat) (inb : Bool) (k : Nat) : Dev :=
  match d.worker c with
  | none => d
  | some t =>
    match d.redirectFor t c inb k with
    | some (i, r, p, a) => d.issueHost now c k t i r p a
    | none => if inb then d.issueIn now c k t else d.issueOut now c k t

/-- XFER_REQUEST_ISSUE. -/
def execXferRequestIssue (c : Nat) (inb : Bool) (k : Nat) (s : State) := s.run fun now d => d.xferIssue now c inb k

/-! ### Completed transactions (R257, R261, R262) -/

/-- AGE of a request when its answer arrives, in 8 ns units (R257). -/
def Req.age (r : Req) (now : Nat) : Nat := min 4095 ((now - r.born) / 8)

/-- A miss is counted, and reported at most once per class and die pair in a millisecond (R261). -/
def Dev.missed (d : Dev) (now dp cls age : Nat) : Dev :=
  let d := d.sat (XBR_CLASS_CNT3.MISSES dp cls) 1
  let d := d.set (XBR_MISS.PENDING dp) (d.get (XBR_MISS.PENDING dp) ||| 2 ^ cls)
  let key := dp * 8 + cls
  match Tbl.find d.net.misses key with
  | some (last, n, top) =>
    if now < last + 1000000 then d.onNet fun w => { w with misses := Tbl.put w.misses key (last, n + 1, max top age) }
    else ((d.onNet fun w => { w with misses := Tbl.put w.misses key (now, 0, 0) }).interrupt 1024
      (d.get (XBR_MISS.VECTOR dp))).raise 0x0405 (svcUnit dp) 0x02 .info [cls, n + 1, max top age]
  | none => ((d.onNet fun w => { w with misses := Tbl.put w.misses key (now, 0, 0) }).interrupt 1024
      (d.get (XBR_MISS.VECTOR dp))).raise 0x0405 (svcUnit dp) 0x02 .info [cls, 1, age]

/-- The requester's crossbar counts a completed transaction (R262). -/
def Dev.countTxn (d : Dev) (now dp : Nat) (r : Req) (bytes : Nat) : Dev :=
  let cls := r.tags.cls
  let age := r.age now
  let d := d.wrap (XBR_CLASS_CNT0.TXNS dp cls) 1
  let d := d.wrap (XBR_CLASS_CNT1.BYTES dp cls) bytes
  let d := d.wrap (XBR_CLASS_CNT2.LATSUM dp cls) age
  let d := if 1 ≤ r.esc then d.sat (XBR_CLASS_CNT3.ESC50 dp cls) 1 else d
  let d := if 2 ≤ r.esc then d.sat (XBR_CLASS_CNT3.ESC75 dp cls) 1 else d
  let d := if 3 ≤ r.esc then d.sat (XBR_CLASS_CNT3.ESC90 dp cls) 1 else d
  let target := d.get (ADM_CLASS_PARAM_A_ACT.TARGET cls)
  if d.flag (ADM_CLASS_PARAM_A_ACT.GUAR cls) ∧ (target < age ∨ age = 4095) then d.missed now dp cls age else d

/-- A credit comes back with the answer of a host request (R124). -/
def Tile.credit (t : Tile) (r : Req) : Tile :=
  match r.dest with
  | .host link _ => { t with used := modifyAt t.used (link / 2) (· - 1) }
  | _ => t

/-! ### Answers -/

/-- The bytes of a granule that a piece wants. -/
def pickBytes (data : Line) (o len : Nat) : List Byte := ((toBytes 64 data.toNat).drop o).take len

/-- A segment-table entry as it lies in its granule (Table 4-4). -/
def segEntry (data : Line) (o : Nat) : Nat := bits data.toNat (8 * o) 128

/-- Where a row's index entry lies in scratchpad. -/
def rowEntry (x : Desc) (row : Nat) : Nat := x.idxSpa + 4 * row

/-- The answer to a segment-table read: kept, or the tile aborted where a reserved field is set (R120). -/
def Dev.gotSegment (d : Dev) (now c : Nat) (t : Tile) (inb : Bool) (k run row g : Nat) (e : Nat) : Dev :=
  if bits e 56 8 ≠ 0 ∨ bits e 88 8 ≠ 0 then d.engineAbort now c t 0x0112 [row, g]
  else
    let s : Seg := { sbase := bits e 0 56, cap := bits e 64 24 }
    d.onTile c fun t =>
      if inb then { t with ins := modifyAt t.ins k fun x => { x with segs := Tbl.put x.segs g s, asking := false } }
      else t.onXout k run fun x => { x with segs := Tbl.put x.segs g s, asking := false }

/-- The answer to an allocation: the row's slot, or a drop (R121). -/
def Tile.gotSlot (t : Tile) (m k run row g v : Nat) : Tile :=
  match (t.outs.getD k OutStream.init).xouts.find? fun x => x.id == run with
  | none => t
  | some x =>
    let cap := ((Tbl.find x.segs g).map (·.cap)).getD 0
    let a := rowEntry x.desc row
    if v < cap then (t.putOut m run a (g * 2 ^ 24 + v)).onXout k run fun x => { x with asking := false }
    else (t.putOut m run a skipEntry).onXout k run fun x => { x with asking := false, drops := x.drops + 1 }

/-- A read's data, a fetched counter or a table entry arrives (R84, R120, R121). -/
def Dev.landRead (d : Dev) (now : Nat) (r : Req) (data : Line) : Dev :=
  match r.who with
  | .engine c true k run pos len =>
    (match (d.coreAt c).tile with
     | none => d
     | some t =>
       if (t.ins.getD k InStream.init).run = run then
         let d := ((d.countTxn now (coreDp c) r 64).spent t k).onTile c fun t =>
           let t := (t.credit r).land k pos (t.smear d.fresh k pos (pickBytes data (r.va % 64) len))
           { t with ins := modifyAt t.ins k fun s => { s with out := s.out - 1 } }
         Dev.xferRun now c 5 d
       else d.onTile c fun t => t.credit r)
  | .alloc c inb k run row g =>
    (match (d.coreAt c).tile with
     | none => d
     | some t =>
       let d := (d.countTxn now (coreDp c) r 64).onTile c fun t => t.credit r
       if r.acc = .fetchAdd then
         { d with fresh := if (Tbl.look [] t.order.out run).isEmpty then d.fresh else d.fresh + 1 }.onTile c fun t =>
           t.gotSlot d.fresh k run row g (bits data.toNat (8 * (r.va % 64)) 32)
       else d.gotSegment now c t inb k run row g (segEntry data (r.va % 64)))
  | _ => d

/-- A write's acknowledgement arrives (R115). -/
def Dev.landAck (d : Dev) (now : Nat) (r : Req) : Dev :=
  match r.who with
  | .engine c false k run pos len =>
    (match (d.coreAt c).tile with
     | none => d
     | some _ =>
       let d := (d.countTxn now (coreDp c) r len).onTile c fun t =>
         { t.credit r with outs := modifyAt t.outs k fun o => { o with
             pieces := (o.pieces.map fun p => if p.xout = run ∧ p.pos = pos then { p with acked := true } else p).dropWhile
               fun p => p.acked && !p.again && !o.faulted } }
       Dev.ackOut c k 8 d)
  | _ => d

/-! ### Holding and resuming (R130, R131, R134) -/

/-- Insert a hold once. -/
def addHold (l : List Hold) (h : Hold) : List Hold := if l.contains h then l else l ++ [h]

/-- An inbound stream stops at a faulted byte. -/
def InStream.hold (s : InStream) (pos : Nat) (h : Hold) : InStream :=
  { s with resume := some (match s.resume with | some r => min r pos | none => pos), holds := addHold s.holds h
           asking := false }

/-- Is point `(x, p)` below `(y, q)`? -/
def pointLt (x p y q : Nat) : Bool := x < y || (x == y && p < q)

/-- An outbound stream stops at a faulted byte. -/
def OutStream.hold (o : OutStream) (xout pos : Nat) (h : Hold) : OutStream :=
  { o with
    resume := some (match o.resume with
      | some (y, q) => if pointLt xout pos y q then (xout, pos) else (y, q)
      | none => (xout, pos))
    holds := addHold o.holds h
    xouts := o.xouts.map fun x => { x with asking := false } }

/-- An inbound stream whose last hold ends resumes at its resume point. -/
def InStream.release (s : InStream) (p : Hold → Bool) : InStream :=
  let hs := s.holds.filter fun h => !p h
  if hs.isEmpty && !s.holds.isEmpty then
    match s.resume with
    | some r => { s with holds := [], resume := none, next := r, landed := s.landed.filter fun x => decide (x.1 < r) }
    | none => { s with holds := [] }
  else { s with holds := hs }

/-- An outbound stream whose last hold ends issues again every kept write at or above its resume point; an add that was
acknowledged is not added twice (R112, R131). -/
def OutStream.release (o : OutStream) (p : Hold → Bool) : OutStream :=
  let hs := o.holds.filter fun h => !p h
  if hs.isEmpty && !o.holds.isEmpty then
    match o.resume with
    | some (x, q) =>
      let mode := fun (w : OutPiece) => ((o.xouts.find? fun y => y.id == w.xout).map (·.mode)).getD 0
      let again := fun (w : OutPiece) =>
        if pointLt w.xout w.pos x q || (w.acked && mode w != 0) then w else { w with again := true, acked := false }
      { o with holds := [], resume := none, pieces := o.pieces.map again }
    | none => { o with holds := [] }
  else { o with holds := hs }

/-- Release holds of every stream of a tile. -/
def Tile.release (t : Tile) (p : Hold → Bool) : Tile :=
  { t with ins := t.ins.map (·.release p), outs := t.outs.map (·.release p) }

/-- Look again at the step that holds issue: STALLED, or RUNNING (R132, Table 3-13). -/
def Dev.restall (d : Dev) (c : Nat) : Dev :=
  match d.issuer c with
  | none => d
  | some t =>
    match t.cur with
    | none => d
    | some w =>
      let out : Option StepOut := match sOp w with
        | 0x08 => some (doFence t w)
        | 0x09 => some (doWaitc t w)
        | 0x0B => some (doXdrain t w)
        | _ => none
      let st := match out with | some (.hold b) => b | _ => false
      d.onCore c fun k => { k with svc := if st then .stalled else .running, tile := some { t with held := st } }

/-- A faulted request of an engine: its stream is held (R130, R198). -/
def Dev.holdStream (d : Dev) (r : Req) (h : Hold) : Dev :=
  match r.who with
  | .engine c true k run pos _ =>
    (d.onTile c fun t =>
      if (t.ins.getD k InStream.init).run = run ∧ !(t.ins.getD k InStream.init).stopped then
        { t.credit r with ins := modifyAt t.ins k fun s => { s.hold pos h with out := s.out - 1 } }
      else t.credit r).restall c
  | .engine c false k xout pos _ =>
    (d.onTile c fun t => { t.credit r with outs := modifyAt t.outs k fun o => o.hold xout pos h }).restall c
  | .alloc c true k _ _ _ =>
    (d.onTile c fun t => { t with ins := modifyAt t.ins k fun s => s.hold s.next h }).restall c
  | .alloc c false k xout _ _ =>
    let at_ := fun (o : OutStream) => ((o.xouts.find? fun x => x.id == xout).map (·.next)).getD 0
    (d.onTile c fun t => { t with outs := modifyAt t.outs k fun o => o.hold xout (at_ o) h }).restall c
  | _ => d

/-- Release holds of the tile on a core. -/
def Core.release (k : Core) (p : Tile → Hold → Bool) : Core :=
  { k with tile := k.tile.map fun (t : Tile) => Tile.release t (p t) }

/-- Release holds on every core. -/
def Dev.releaseHolds (d : Dev) (p : Tile → Hold → Bool) : Dev :=
  let d' := { d with core := Tbl.mapV (fun _ (k : Core) => k.release p) d.core }
  (d.core.map Prod.fst).foldl (fun (x : Dev) (c : Nat) => x.restall c) d'

/-- The first held stream of a tile: number, direction and resume byte (0x0110's detail). -/
def Tile.heldStream (t : Tile) : List Nat :=
  match t.ins.findIdx? (·.faulted) with
  | some k => [k, 0, ((t.ins.getD k InStream.init).resume).getD 0]
  | none =>
    match t.outs.findIdx? (·.faulted) with
    | some k => [k, 1, ((t.outs.getD k OutStream.init).resume.map (·.2)).getD 0]
    | none => [0, 0, 0]

/-- The stall allowance in ticks (R133). -/
def stallLimit : Nat := 625

/-- The stall allowance is spent (R133, R97). -/
def Dev.stallSpent (d : Dev) (now c : Nat) : Dev :=
  match (d.coreAt c).tile with
  | none => d
  | some t =>
    if t.stallTicks < stallLimit ∨ t.retained then d
    else
      let d := d.raise 0x0110 (coreUnit c) 0x05 .contained t.heldStream (some (t.own.ast, t.own.ctx))
      if t.own.replay ∧ t.replays < 3 then d.abortTile now c .stall 0x0110
      else
        let d := if t.own.replay then
            d.raise 0x0107 (coreUnit c) 0x06 .contained [] (some (t.own.ast, t.own.ctx)) else d
        let d := d.onTile c fun t => { t with retained := true }
        let d := d.onCtx t.own.ctx fun k => if k.state = .active then { k with state := .retained } else k
        d.onCmd t.own.cmd fun m => if m.guar ∧ m.shed.isNone then { m with shed := some (false, .faultStall) } else m

/-- XFER_STALL_LIMIT. -/
def execXferStallLimit (c : Nat) (s : State) := s.run fun now d => d.stallSpent now c

/-- RETRY_REISSUE: 16 µs after a RETRY answer the request goes out again (R181). -/
def Dev.retryDue (d : Dev) (now c : Nat) (inb : Bool) (k : Nat) : Dev :=
  let due := fun h => match h with | Hold.retry at_ => decide (at_ + 16000 ≤ now) | _ => false
  (d.onTile c fun t =>
    if inb then { t with ins := modifyAt t.ins k fun s => s.release due }
    else { t with outs := modifyAt t.outs k fun o => o.release due }).restall c

/-- RETRY_REISSUE. -/
def execRetryReissue (c : Nat) (inb : Bool) (k : Nat) (s : State) := s.run fun now d => d.retryDue now c inb k

end Sys2Proof.Machine
end

