-- ==== Sys2Proof/Machine/Admission.lean ====
section
/-!
DEFINITION. The order of admission (R318 to R321, R328, R337, R349, R354): the head of a queue, what makes it malformed
or misplaced, the names it uses, its class, and the steps of Table 11-2.
-/

namespace Sys2Proof.Machine

/-! ### Where and how a command may stand (R318, R319) -/

/-- Opcodes of Table 10-8 that a queue ring accepts. -/
def opListed (op : Nat) : Bool := op ≤ 0x0F || (0x80 ≤ op && op ≤ 0x89)

/-- Bytes of Table 10-9 that hold no field, and values out of their ranges. -/
def bodyClean (x : Line) : Bool :=
  match hOp x with
  | 0x00 => allZero x [(0x10, 0, 384)]
  | 0x04 => allZero x [(0x10, 22, 10), (0x14, 0, 32), (0x18, 63, 1), (0x20, 0, 256)] && fld x 0x10 20 2 != 3
  | 0x05 => allZero x [(0x10, 22, 10), (0x18, 63, 1), (0x20, 0, 256)] && fld x 0x10 20 2 < 2
  | 0x06 => allZero x [(0x10, 20, 12), (0x18, 0, 320)]
  | 0x07 => allZero x [(0x10, 20, 12), (0x14, 0, 352)]
  | 0x08 => allZero x [(0x10, 5, 27), (0x14, 0, 352)] && 1 ≤ fld x 0x10 0 5 && fld x 0x10 0 5 ≤ 16
  | 0x09 => allZero x [(0x1C, 0, 288)]
  | 0x0A => allZero x [(0x10, 18, 14), (0x18, 0, 320)]
  | 0x0B =>
    allZero x [(0x10, 24, 8), (0x1A, 4, 12), (0x1C, 0, 32)] && fld x 0x14 0 32 % 64 == 0 &&
    1 ≤ fld x 0x18 0 16 && fld x 0x18 0 16 ≤ 4096 && fld x 0x1A 0 4 ≤ 8 &&
    (List.range 8).all fun i => fld x (0x20 + 4 * i) 24 8 == 0 &&
      (i < fld x 0x1A 0 4 || fld x (0x20 + 4 * i) 0 32 == 0)
  | 0x0C => allZero x [(0x10, 24, 8), (0x14, 0, 352)]
  | 0x03 => wLen x != 0
  | _ => true

/-- The error of a command that stands where it may not, or is malformed (R318), with its detail. -/
def malformed (q : Nat) (f : Fetched) : Option (Nat × List Nat) :=
  let op := hOp f.slot
  if !opListed op then some (0x0601, [q, f.pos, f.index])
  else if 0x80 ≤ op then some (0x0602, [op])
  else if f.call.isSome && 0x0D ≤ op then some (0x030A, [])
  else if f.call.isSome && 0x0A ≤ op then some (0x0602, [op])
  else if !hClean f.slot || !bodyClean f.slot then some (0x0601, [q, f.pos, f.index])
  else none

/-! ### The head of a queue (R320) -/

/-- A command about to be admitted, with its queue and context. -/
structure Head where
  q : Nat
  queue : Queue
  ctx : Ctx
  f : Fetched
  deriving DecidableEq, Repr

/-- Does a queue's next command wait?  On a WAIT or ACQUIRE before it, on a MAP, UNMAP or INVALIDATE whose invalidation
runs (R192), or on its own FENCE. -/
def Dev.headWaits (d : Dev) (q : Nat) (f : Fetched) : Bool :=
  d.hif.cmds.any fun e => e.2.queue == q &&
    (e.2.phase == .parked || (0x0D ≤ hOp e.2.slot && hOp e.2.slot ≤ 0x0F) || (hFence f.slot && f.call != some e.1))

/-- The head of a queue that may be admitted now: its context ACTIVE and both resident (R341, R342). -/
def Dev.head (d : Dev) (q : Nat) : Option Head :=
  match Tbl.find d.hif.queues q with
  | none => none
  | some k =>
    match k.fetched, Tbl.find d.hif.ctxs k.ctx with
    | f :: _, some c =>
      if c.state = .active ∧ c.resident ∧ k.resident ∧ !d.headWaits q f then some ⟨q, k, c, f⟩ else none
    | _, _ => none

/-- Home die pair of a command's asterism. -/
def Dev.hd (d : Dev) (h : Head) : Nat := d.home h.ctx.ast

/-- The barrier whose waves hold a command's tiles: its CALL's, or the queue's open one (R326). -/
def Dev.barrierOf (d : Dev) (h : Head) : Option Nat :=
  match h.f.call.bind fun p => (Tbl.find d.hif.cmds p).bind (·.barrier) with
  | some b => some b
  | none => (d.net.barriers.find? fun b => b.queue == h.q && decide (0 < b.left)).map (·.id)

/-- The head leaves the fetched list, and counts in the span of an open barrier. -/
def Dev.pop (d : Dev) (h : Head) : Dev :=
  let d := d.onQueue h.q fun k => { k with fetched := k.fetched.drop 1 }
  let own := (h.f.call.bind fun p => (Tbl.find d.hif.cmds p).bind (·.barrier)).isSome
  if own then d
  else match d.net.barriers.find? fun b => b.queue == h.q && decide (0 < b.left) with
    | some b => d.onNet fun n => { n with barriers := n.barriers.map fun x =>
        if x.id = b.id then { x with left := x.left - 1 } else x }
    | none => d

/-- The head ends without being admitted, with an error record where one is due. -/
def Dev.reject (d : Dev) (now : Nat) (h : Head) (st : CStatus) (r : Reason) (err : Nat) (rec_ : Option (Sev × List Nat)) :
    Dev :=
  let d := match rec_ with
    | some (sev, det) => d.raise err (svcUnit (d.hd h)) 0 sev det (some (h.ctx.ast, h.queue.ctx))
    | none => d
  (d.pop h).endFetched now h.q h.f st r err

/-- Settle malformed and misplaced commands at the head of a queue; a FAULTED context stops it. -/
def Dev.settleHead (now q : Nat) : Nat → Dev → Dev
  | 0, d => d
  | n + 1, d =>
    match d.head q with
    | none => d
    | some h =>
      match malformed q h.f with
      | some (err, det) => Dev.settleHead now q n (d.reject now h .faulted .none err (some (.contained, det)))
      | none => d

/-- What follows each command that left the head of a queue. -/
def Dev.afterHead (d : Dev) (now q : Nat) : Dev :=
  let n := ((Tbl.find d.hif.queues q).map (·.fetched.length)).getD 0
  (Dev.settleHead now q n d).after now

/-- Admit the head of a queue, when it is a command of kind `p`; a malformed head is settled first. -/
def Dev.takeHead (d : Dev) (now q : Nat) (p : Line → Bool) (f : Dev → Head → Dev) : Dev :=
  match d.head q with
  | none => d
  | some h =>
    if (malformed q h.f).isSome then d.afterHead now q
    else if p h.f.slot then (f d h).afterHead now q
    else d

/-! ### Labels and classes (R256, R349) -/

/-- The label a command is served under, after replacement, and whether it was replaced. -/
def Dev.label (d : Dev) (fn l : Nat) : Nat × Bool :=
  let p := fnPort fn
  if d.flag (ADM_CLASS_TABLE_ACT.VALID l) && bit (d.get (ADM_CLASS_TABLE_ACT.PORTS l)) p then (l, false)
  else (d.get (ADM_CLASS_PORT_ACT.FALLBACK p), true)
/-- The class of a label. -/
def Dev.classOf (d : Dev) (l : Nat) : Nat := d.get (ADM_CLASS_TABLE_ACT.CLASS l)
/-- Is a command of a class guaranteed? -/
def Dev.guaranteed (d : Dev) (cls op : Nat) : Bool :=
  d.flag (ADM_CLASS_PARAM_A_ACT.GUAR cls) && d.flag ADM_CTRL.GUAR_EN && (op == 1 || op == 2 || op == 3 || op == 6)

/-- Tags of the requests the device makes for a command. -/
def Dev.headTags (d : Dev) (h : Head) : Tags where
  ast := h.ctx.ast
  dom := d.domOf h.ctx.ast
  ctx := h.queue.ctx
  cls := d.classOf (d.label h.queue.fn (hLabel h.f.slot)).1
  epoch := d.epochAt (d.hd h)
  host := false

/-! ### Names (R322, R328, R337, R339) -/

/-- What a name is found to be. -/
inductive Named where
  | fine
  | refused (r : Reason) (err : Nat) (detail : List Nat)
  | lost
  deriving DecidableEq, Repr

/-- A memory object in the command's asterism. -/
def Dev.nameObj (d : Dev) (a o : Nat) : Named :=
  match Tbl.find d.hif.objs o with
  | none => .refused .policy 0x0603 [2, o]
  | some b =>
    if b.ast ≠ a then .refused .policy 0x0603 [2, o]
    else match b.state with
      | .free => .refused .policy 0x0603 [2, o]
      | .live => .fine
      | .retiring => .refused .retiring 0 []
      | .lost => .lost

/-- An event in the command's asterism. -/
def Dev.nameEvent (d : Dev) (a e : Nat) : Named :=
  match Tbl.find d.hif.events e with
  | none => .refused .policy 0x0603 [3, e]
  | some v => if v.ast = a then .fine else .refused .policy 0x0603 [3, e]

/-- The completion event: none, or a counter of the asterism. -/
def Dev.nameCompletion (d : Dev) (a : Nat) (x : Line) : Named :=
  if hEvent x = 0 then .fine
  else match Tbl.find d.hif.events (hEvent x) with
    | none => .refused .policy 0x0603 [3, hEvent x]
    | some v =>
      if v.ast ≠ a then .refused .policy 0x0603 [3, hEvent x]
      else if v.sem then .refused .policy 0x0607 [hEvent x, hOp x]
      else .fine

/-- Every name of a list is fine, or the first that is not. -/
def firstNamed : List Named → Named
  | [] => .fine
  | .fine :: l => firstNamed l
  | x :: _ => x

/-- Act on names: refuse, complete POOL_LOST, or go on. -/
def Dev.named (d : Dev) (now : Nat) (h : Head) (n : Named) (go : Dev) : Dev :=
  match n with
  | .fine => go
  | .refused r err det => d.reject now h .refused r err (if err = 0 then none else some (.info, det))
  | .lost => d.reject now h .poolLost .none 0 none

/-! ### Acceptance -/

/-- The command a head becomes, before anything is reserved. -/
def Dev.newCmd (d : Dev) (now : Nat) (h : Head) : Cmd :=
  let (l, _) := d.label h.queue.fn (hLabel h.f.slot)
  { queue := h.q, pos := h.f.pos, index := h.f.index, call := h.f.call, slot := h.f.slot, ctx := h.queue.ctx
    ast := h.ctx.ast, dom := d.domOf h.ctx.ast, label := l, cls := d.classOf l, guar := false, phase := .running
    acceptAt := now, boundUs := 0, deadline := 0, resv := Resv.none, inBook := false, shed := none, noted := none
    lent := none, forced := none, err := 0, inherited := false, replayed := false, energy := 0, objs := [], hdr := 0
    prog := [], segs := none, tiles := 0, next := 0, running := 0, ended := 0, redo := [], granted := [0, 0, 0, 0]
    barrier := none, timeoutAt := 0, abandoned := false, timedOut := false, kids := 0, kidStatus := none, notRun := 0
    inval := none, keepPages := [] }

/-- A loan that a new command of a holder gets from an ACQUIRE that waits on it (R373). -/
def Dev.loanFor (d : Dev) (q ctx : Nat) : Option (Nat × Nat × Nat) :=
  let owes := fun (e : Nat × Cmd) =>
    let ev := fld e.2.slot 0x10 0 20
    e.2.phase == .parked && hOp e.2.slot == 6 && e.2.inherited &&
    (match Tbl.find d.hif.events ev with | some v => v.holders.contains ctx | none => false) &&
    !(d.hif.cmds.any fun r => r.2.queue == q && hOp r.2.slot == 7 && fld r.2.slot 0x10 0 20 == ev)
  (d.hif.cmds.find? owes).map fun e =>
    (e.1, d.get (ADM_CLASS_PARAM_A_ACT.BASEPRI e.2.cls), ((Tbl.find d.hif.ctxs e.2.ctx).map (·.prio)).getD 0)

/-- A command is taken: it gets its identifier, holds its objects (R337), and its label's replacement is counted. -/
def Dev.accept (d : Dev) (h : Head) (m : Cmd) : Dev × Nat :=
  let id := d.hif.nextCmd
  let m := { m with barrier := d.barrierOf h, lent := d.loanFor h.q h.queue.ctx }
  let d := if (d.label h.queue.fn (hLabel h.f.slot)).2 then d.wrap (ADM_CLASS_FB.FALLBACKS (fnPort h.queue.fn)) 1 else d
  let d := (d.pop h).onHif fun x => { x with cmds := Tbl.put x.cmds id m, nextCmd := id + 1 }
  (m.objs.foldl (fun d o => d.holdObj o) d, id)

/-- A command that is taken and completes at once. -/
def Dev.acceptDone (d : Dev) (now : Nat) (h : Head) (m : Cmd) (st : CStatus) (aux : Nat := 0)
    (edit : CRec → CRec := fun r => r) : Dev :=
  let (d, id) := d.accept h m
  d.finish now id st aux edit

/-! ### Steps 4 to 11 of Table 11-2 -/

/-- A guaranteed-class command is refused at a step: counted, and its record carries the reason (R355). -/
def Dev.refuse (d : Dev) (now : Nat) (h : Head) (r : Reason) (err : Nat) : Dev :=
  (d.wrap (ADM_AST_BOOK2.REFUSED h.ctx.ast) 1).reject now h .refused r err none

/-- Step 5: would the command pin one slot too many (R343)? -/
def Dev.pinsTooMany (d : Dev) (h : Head) : Bool :=
  let dp := d.hd h
  let ctxs := (d.residents dp).filter fun e => d.pinned e.1
  let qs := (d.residentQueues dp).filter fun e => d.pinned e.2.ctx && d.hasAdmitted e.1
  (!(d.pinned h.queue.ctx) && decide (ctxPins ≤ ctxs.length)) ||
  (!(qs.any fun e => e.1 == h.q) && decide (queuePins ≤ qs.length))

/-- Guaranteed jobs in a stack's sweep book. -/
def Dev.stackJobCount (d : Dev) (s : Nat) : Nat := (d.hif.cmds.filter fun e => e.2.inBook && (Tbl.find e.2.resv.sweep s).isSome).length

/-- The first of steps 4 to 9 that a guaranteed-class command fails: reason and error. -/
def Dev.earlySteps (d : Dev) (h : Head) (m : Cmd) : Option (Reason × Nat) :=
  let ps := (m.ast, m.cls) :: d.activePairs
  let active := d.activePairs.contains (m.ast, m.cls)
  if d.flag ADM_STATUS.CAP_FLOOR then some (.power, 0x0506)
  else if d.pinsTooMany h then some (.notResident, 0x050C)
  else if 4096 ≤ (d.book m.ast).length || m.resv.sweep.any (fun e => 256 ≤ d.stackJobCount e.1) then
    some (.coreTime, 0x0501)
  else if hOp m.slot = 6 then none
  else if !active && (d.rate m.ast m.cls == 0 || !(d.chansOf m.ast).all fun l => d.chanOk m.ast l ps) then
    some (.memory, 0x0503)
  else if !active && !bridgeDirs.all (d.bridgeOk ps) then some (.memory, 0x0503)
  else if (hOp m.slot == 3 && wPull m.slot) || !(List.range 4).all fun p =>
      match d.linkOf m.ast p with
      | some k => m.resv.credits.getD p 0 == 0 || d.linkFits k (m.resv.credits.getD p 0)
      | none => true then some (.link, 0x0504)
  else none

/-- Steps 4 to 11 and acceptance: a guaranteed-class command gets its bound, another is accepted without one. -/
def Dev.admitWork (d : Dev) (now : Nat) (h : Head) (m : Cmd) (bound : Dev → Option Nat) : Dev :=
  if !d.guaranteed m.cls (hOp m.slot) then (d.accept h m).1
  else
    let m := { m with guar := true, resv := { m.resv with credits := (List.range 4).map (d.lp m.ast) } }
    match d.earlySteps h m with
    | some (r, err) => d.refuse now h r err
    | none =>
      match bound d with
      | none => d.refuse now h .coreTime 0x0502
      | some b =>
        let p := ceilDiv (m.resv.energy) b
        if !d.energyOk p then d.refuse now h .energy 0x0505
        else
          let m := { m with
            boundUs := b, deadline := now + b * 1000, inBook := true, resv := { m.resv with power := p } }
          ((d.accept h m).1).wrap (ADM_AST_BOOK1.ACCEPTED m.ast) 1

end Sys2Proof.Machine
end

