-- ==== Sys2Proof/Machine/Commands.lean ====
section
/-!
DEFINITION. The queue commands that run work or synchronise: NOP, TILE (R65, R69), XFER (R127, R128), SWEEP (R212,
R213), SIGNAL, WAIT, ACQUIRE, RELEASE (R323 to R325, R373, R374), BARRIER (R326), HINT (R428), ABORT (R327, R377,
R378), CALL (R322) and FREE_OBJECT (R338).
-/

namespace Sys2Proof.Machine

/-- A command of opcode `op`. -/
def opIs (op : Nat) (x : Line) : Bool := hOp x == op

/-- NOP reaches its completion point at once. -/
def Dev.doNop (d : Dev) (now : Nat) (h : Head) : Dev :=
  d.named now h (d.nameCompletion h.ctx.ast h.f.slot) (d.acceptDone now h (d.newCmd now h) .completed)

/-- NOP. -/
def execNop (q : Nat) (s : State) := s.run fun now d => d.takeHead now q (opIs 0x00) fun d h => d.doNop now h

/-! ### TILE -/

/-- The steps of a program as they lie behind its header. -/
def stepsOf (n : Nat) (bs : List Byte) : List StepWord :=
  (List.range n).map fun i => BitVec.ofNat 128 (ofBytes ((bs.drop (64 + 16 * i)).take 16))

/-- A program as admission finds it. -/
inductive Program where
  | ok (h : Line) (steps : List StepWord)
  /-- Check and step of Table 3-3. -/
  | bad (check step : Nat)
  /-- A read faulted: code and address. -/
  | fault (code va : Nat)

/-- Read and check a tile program (Table 3-3, checks 2 to 12). -/
def Dev.readProgram (d : Dev) (t : Tags) (b : Obj) (off : Nat) : Program :=
  if b.size < off + 64 then .bad 2 0
  else match d.peekBytes t (b.va + off) 64 with
    | .inl (c, va) => .fault c va
    | .inr bs =>
      let h : Line := BitVec.ofNat 512 (ofBytes bs)
      if pLen h % 64 ≠ 0 ∨ b.size < off + pLen h ∨ pLen h < 64 + 16 * pSteps h then .bad 2 0
      else match d.peekBytes t (b.va + off) (64 + 16 * pSteps h) with
        | .inl (c, va) => .fault c va
        | .inr bs =>
          let st := stepsOf (pSteps h) bs
          match checkProgram h st with
          | some (n, i) => .bad n i
          | none => .ok h st

/-- A read for a command faulted while it was being admitted: a hard fault ends it FAULTED or POOL_LOST, a soft one
leaves it at the head of its queue with a record of the fault (R69, R195). -/
def Dev.admitFault (d : Dev) (now : Nat) (h : Head) (code va : Nat) : Dev :=
  let r : Req := { who := .window h.queue.fn, acc := .read, va := va, tags := d.headTags h, dest := .chan 0 0 0, data := 0,
                   mask := 0, hop := none, guar := false, born := now, esc := 0, queue := h.q
                   slot := h.f.pos % 2 ^ h.queue.log2n }
  let fr := fun soft => { d.faultRec r code (svcUnit (d.hd h)) soft false with
    acc := 0, src := svcUnit (d.hd h), ring := d.ringOf h.ctx.ast h.queue.ctx }
  if code = 0x030D ∨ code = 0x030E then d.fault ⟨fr true, none, .retry⟩
  else (d.fault ⟨fr false, none, .hard code⟩).reject now h (if code = 0x0307 then .poolLost else .faulted) .none code none

/-- A failed check of a command's own (step 1 of Table 11-2): FAULTED with an error record. -/
def Dev.failCheck (d : Dev) (now : Nat) (h : Head) (err : Nat) (det : List Nat) : Dev :=
  d.reject now h .faulted .none err (some (.contained, det))

/-- Check 1 of Table 3-3. -/
def Dev.tileCheck1 (d : Dev) (a : Nat) (x : Line) : Bool :=
  tClean x && tCount x != 0 && tCount x < 16777216 && tOff x % 64 == 0 && !(d.coresIn a (tDpMask x)).isEmpty

/-- The command with its class, so that `guaranteed` can be asked. -/
def Dev.workCmd (d : Dev) (now : Nat) (h : Head) (tiles acc energy : Nat) : Cmd :=
  let m := d.newCmd now h
  { m with
    tiles := tiles
    resv := { Resv.none with
      acc := acc, fMhz := opMhz (d.get ADM_CTRL.PLAN_OP), conc := d.concurrency m.ast tiles m.slot, energy := energy } }

/-- TILE: checked, admitted or refused, and queued for dispatch. -/
def Dev.doTile (d : Dev) (now : Nat) (h : Head) : Dev :=
  let x := h.f.slot
  let a := h.ctx.ast
  if !d.tileCheck1 a x then d.failCheck now h 0x0101 [1, 0]
  else match d.nameObj a (tObj x), Tbl.find d.hif.objs (tObj x) with
    | .fine, some b | .refused .retiring _ _, some b =>
      (match d.readProgram (d.headTags h) b (tOff x) with
       | .fault c va => d.admitFault now h c va
       | .bad n i => d.failCheck now h 0x0101 [n, i]
       | .ok hd st =>
         d.named now h (firstNamed [d.nameCompletion a x, d.nameObj a (tObj x)]) <|
           let m := d.workCmd now h (tCount x) (pCost hd * h.ctx.infl) (tCount x * pEnergy hd * 125)
           let m := { m with objs := [tObj x], hdr := hd, prog := st }
           d.admitWork now h m fun d => d.chooseBound now m)
    | n, _ => d.named now h (firstNamed [d.nameCompletion a x, n]) d

/-- TILE. -/
def execTile (q : Nat) (s : State) := s.run fun now d => d.takeHead now q (opIs 0x01) fun d h => d.doTile now h

/-! ### XFER -/

/-- The lowest and highest slice offset of a strided transfer lie in the asterism's window (R111). -/
def Dev.descInWindow (d : Dev) (a : Nat) (x : Desc) : Bool :=
  let (lo, hi) := x.span (extent x.n1 - 1)
  decide (0 ≤ lo) && decide (hi < ((((d.curMap a).map (·.slices.length)).getD 0 * sliceBytes : Nat) : Int))

/-- A descriptor of an XFER: where it fails (R128), or what it says. -/
def Dev.xferDesc (d : Dev) (a : Nat) (b : Obj) (off mode : Nat) (out : Bool) (lo : Line) : Nat ⊕ Desc :=
  let x := Desc.parse lo 0
  match descBad lo 0 out mode off b.size with
  | some f => .inl f
  | none =>
    if x.kind ≠ 0 then .inl 0x02
    else if x.space = 1 ∧ !d.descInWindow a x then .inl 0x08
    else .inr x

/-- XFER: both descriptors are read and checked; the command is divided into segment tiles (R128, R129). -/
def Dev.doXfer (d : Dev) (now : Nat) (h : Head) : Dev :=
  let x := h.f.slot
  let a := h.ctx.ast
  let bad := fun (off f : Nat) => d.failCheck now h 0x0111 [off, f]
  if !xClean x || tOff x % 64 != 0 || xDst x % 64 != 0 || (d.coresIn a (xDpMask x)).isEmpty then bad (tOff x) 0
  else match d.nameObj a (tObj x), Tbl.find d.hif.objs (tObj x) with
    | .fine, some b | .refused .retiring _ _, some b =>
      if b.size < tOff x + 64 then bad (tOff x) 0
      else if b.size < xDst x + 64 then bad (xDst x) 0
      else
        let t := d.headTags h
        (match d.peekBytes t (b.va + tOff x) 64, d.peekBytes t (b.va + xDst x) 64 with
         | .inl (c, va), _ | _, .inl (c, va) => d.admitFault now h c va
         | .inr l1, .inr l2 =>
           match d.xferDesc a b (tOff x) 0 false (BitVec.ofNat 512 (ofBytes l1)),
               d.xferDesc a b (xDst x) (xMode x) true (BitVec.ofNat 512 (ofBytes l2)) with
           | .inl f, _ => bad (tOff x) f
           | _, .inl f => bad (xDst x) f
           | .inr src, .inr dst =>
             if src.total ≠ dst.total then bad (xDst x) 0x04
             else
               d.named now h (firstNamed [d.nameCompletion a x, d.nameObj a (tObj x)]) <|
                 let z := src.total
                 let m := d.workCmd now h (ceilDiv z segBytes) (16000 * 64) (ceilDiv (z * 12) 100)
                 let m := { m with
                   objs := [tObj x], segs := some { src := src, dst := dst, lo := 0, hi := z, mode := xMode x } }
                 d.admitWork now h m fun d => d.chooseBound now m)
    | n, _ => d.named now h (firstNamed [d.nameCompletion a x, n]) d

/-- An XFER with MODE 1, or with any other; a reserved MODE goes to the store row, whose checks refuse it. -/
def xferIs (add : Bool) (x : Line) : Bool := hOp x == 2 && (xMode x == 1) == add

/-- XFER_STORE. -/
def execXferStore (q : Nat) (s : State) := s.run fun now d => d.takeHead now q (xferIs false) fun d h => d.doXfer now h
/-- XFER_ADD. -/
def execXferAdd (q : Nat) (s : State) := s.run fun now d => d.takeHead now q (xferIs true) fun d h => d.doXfer now h

/-! ### SWEEP -/

/-- Die pairs of an asterism's cores and channels under the current epoch. -/
def Dev.spanPairs (d : Dev) (a : Nat) : List Nat :=
  ((d.coresOf a).map coreDp ++ (d.chansOf a).map fun l => stackDp (chanStack l)).dedup

/-- The number of the first check of Table 7-3 that fails. -/
def Dev.sweepCheck (d : Dev) (a : Nat) (x : Line) : Option Nat :=
  if !wClean x then some 1
  else if wList x % 8 ≠ 0 ∨ wQaddr x % 64 ≠ 0 ∨ wDest x % 64 ≠ 0 ∨ wLen x < wFirst x then some 2
  else if 65536 < wEntries x * wPitch x then some 3
  else if 131072 < wEntries x * (16 + 4 * wD x) then some 4
  else if wMerge x ∧ 2 < (d.spanPairs a).length then some 5
  else if wSlice x ∧ ((d.curMap a).map (·.slices.length)).getD 0 * sliceBytes < wDest x + 64 + 32 * wRsz x then some 6
  else none

/-- A stack's part of a sweep before its first grant. -/
def SweepPart.init (s : Nat) : SweepPart where
  stack := s
  active := false
  queue := []
  aside := []
  stream := []
  staging := []
  rows := []
  blocks := 0
  poolBlk := 0
  faults := 0
  maxSent := false
  gotMm := false

/-- The job handed to the distributor. -/
def Dev.sweepJob (d : Dev) (h : Head) (id : Nat) : SweepJob where
  cmd := id
  tags := d.headTags h
  home := d.hd h
  slot := h.f.slot
  query := []
  queried := false
  head := 0
  blk := wLo h.f.slot
  phase := .granting
  parts := (d.stacksOf h.ctx.ast).map SweepPart.init
  mm := []
  merged := []
  sums := []
  split := false
  stallTicks := 0
  voided := false

/-- SWEEP: checked, admitted or refused, and handed to the distributor (R213 to R215). -/
def Dev.doSweep (d : Dev) (now : Nat) (h : Head) : Dev :=
  let x := h.f.slot
  let a := h.ctx.ast
  match d.sweepCheck a x with
  | some n => d.failCheck now h 0x0120 [n]
  | none =>
    d.named now h (d.nameCompletion a x) <|
      let ss := d.stacksOf a
      let m := d.workCmd now h 0 0 (250 * 16 * wMaxBlk x * ss.length)
      let w := sweepWork x h.ctx.infl (d.rate a m.cls)
      let m := { m with resv := { m.resv with sweep := ss.map fun s => (s, w), blocks := 16 * wMaxBlk x } }
      let id := d.hif.nextCmd
      let job := d.sweepJob h id
      let d := d.admitWork now h m fun d => d.sweepBound now m
      if (Tbl.find d.hif.cmds id).isSome then { d with sweeps := Tbl.put d.sweeps id job } else d

/-- SWEEP. -/
def execSweep (q : Nat) (s : State) := s.run fun now d => d.takeHead now q (opIs 0x03) fun d h => d.doSweep now h

/-- A sweep job is dropped with everything it has outstanding (R227): its requests, notes, counted entries and leave. -/
def Dev.dropSweep (d : Dev) (job : Nat) : Dev :=
  let mine := fun (r : Req) => match r.who with | .sweep j _ => j == job | _ => false
  let noteOf := fun (n : Note) => match n with
    | .maxima j _ | .mm j _ | .merge j _ => j == job
    | _ => false
  let d := d.onNet fun n => { n with
    reqs := n.reqs.filter fun r => !mine r
    resps := n.resps.filter fun r => !mine r.req
    notes := n.notes.filter fun x => !noteOf x
    faults := n.faults.map fun f => match f.req with
      | some r => if mine r then { f with req := none } else f
      | none => f
    merges := Tbl.mapV (fun _ l => l.filter (· != job)) n.merges
    mergeWait := Tbl.mapV (fun _ l => l.filter (· != job)) n.mergeWait }
  let took := ((Tbl.find d.sweeps job).map fun j => (j.parts.filter (·.active)).map (·.stack)).getD []
  let d := { d with
    sweeps := Tbl.del d.sweeps job
    stk := Tbl.mapV (fun _ (t : Stack) => { t with
      walks := t.walks.filter fun w => !mine w.req
      biWait := t.biWait.filter fun r => !mine r
      pend := Tbl.mapV (fun _ p => { p with waiting := p.waiting.filter fun r => !mine r }) t.pend }) d.stk
    cxl := { d.cxl with pool := d.cxl.pool.filter fun p => match p.why with | .stream j _ _ _ => j != job | _ => true } }
  let idle := took.filter fun s => !(d.sweeps.any fun e => e.2.parts.any fun p => p.active && p.stack == s)
  let d := idle.foldl (fun d s => d.dropSweepLeave s) d
  { d with pwr := { d.pwr with
    reqs := d.pwr.reqs.filter fun r => match r.why with | .sweep j _ => j != job | _ => true } }

/-- A sweep ends without completing: its destination, as far as its records would reach, holds undefined bytes, and its job
is dropped (R218, R227, R378). -/
def Dev.endSweep (d : Dev) (job : Nat) : Dev :=
  match Tbl.find d.sweeps job with
  | none => d.dropSweep job
  | some j => (d.spoilAll { j.tags with epoch := d.epochAt j.home }
      [⟨(wSlice j.slot).toNat, wDest j.slot, 64 + max 1 j.parts.length * wRsz j.slot⟩]).dropSweep job

/-! ### SIGNAL and RELEASE (R320, R323, R325) -/

/-- A command that takes effect once every earlier command of its queue is over. -/
def Dev.doOrdered (d : Dev) (now : Nat) (h : Head) : Dev :=
  let a := h.ctx.ast
  d.named now h (firstNamed [d.nameCompletion a h.f.slot, d.nameEvent a (fld h.f.slot 0x10 0 20)])
    (d.accept h { d.newCmd now h with phase := .ordered }).1

/-- A SIGNAL with a given OP. -/
def signalIs (op : Nat) (x : Line) : Bool := hOp x == 4 && fld x 0x10 20 2 == op

/-- SIGNAL_SET. -/
def execSignalSet (q : Nat) (s : State) := s.run fun now d => d.takeHead now q (signalIs 0) fun d h => d.doOrdered now h
/-- SIGNAL_ADD. -/
def execSignalAdd (q : Nat) (s : State) := s.run fun now d => d.takeHead now q (signalIs 1) fun d h => d.doOrdered now h
/-- SIGNAL_MAX. -/
def execSignalMax (q : Nat) (s : State) := s.run fun now d => d.takeHead now q (signalIs 2) fun d h => d.doOrdered now h
/-- RELEASE. -/
def execRelease (q : Nat) (s : State) := s.run fun now d => d.takeHead now q (opIs 0x07) fun d h => d.doOrdered now h

/-! ### WAIT (R324) -/

/-- Does a WAIT's condition hold, or is ABANDONED set? -/
def waitHolds (x : Line) (v : Event) : Bool :=
  v.abandoned || (if fld x 0x10 20 2 = 0 then decide (fld x 0x18 0 63 ≤ v.value) else v.value == fld x 0x18 0 63)

/-- When a parked command times out; 0 for never. -/
def parkTimeout (now : Nat) (x : Line) : Nat := if fld x 0x14 0 32 = 0 then 0 else now + fld x 0x14 0 32 * 1000

/-- WAIT completes, or parks on its event. -/
def Dev.doWait (d : Dev) (now : Nat) (h : Head) : Dev :=
  let x := h.f.slot
  let a := h.ctx.ast
  let e := fld x 0x10 0 20
  d.named now h (firstNamed [d.nameCompletion a x, d.nameEvent a e]) <|
    match Tbl.find d.hif.events e with
    | none => d
    | some v =>
      if v.sem then d.failCheck now h 0x0607 [e, 5]
      else
        let m := d.newCmd now h
        if waitHolds x v then d.acceptDone now h { m with abandoned := v.abandoned } .completed
        else ((d.accept h { m with phase := .parked, timeoutAt := parkTimeout now x }).1).onEvent e fun v =>
          { v with waiters := v.waiters + 1 }

/-- WAIT. -/
def execWait (q : Nat) (s : State) := s.run fun now d => d.takeHead now q (opIs 0x05) fun d h => d.doWait now h

/-- A parked WAIT or ACQUIRE ends without its condition or unit. -/
def Dev.unpark (d : Dev) (now id : Nat) (st : CStatus) (timedOut : Bool) : Dev :=
  match Tbl.find d.hif.cmds id with
  | none => d
  | some m =>
    let d := d.onEvent (fld m.slot 0x10 0 20) fun v => { v with waiters := v.waiters - 1 }
    (d.onCmd id fun m => { m with timedOut := timedOut }).finish now id st

/-- TIMEOUT_US of a parked command of opcode `op` has elapsed. -/
def Dev.parkedOut (d : Dev) (now id op : Nat) : Dev :=
  match Tbl.find d.hif.cmds id with
  | none => d
  | some m =>
    if m.phase = .parked ∧ hOp m.slot = op ∧ m.timeoutAt ≠ 0 ∧ m.timeoutAt ≤ now then
      (d.unpark now id .aborted true).afterHead now m.queue
    else d

/-- WAIT_TIMEOUT. -/
def execWaitTimeout (id : Nat) (s : State) := s.run fun now d => d.parkedOut now id 5
/-- ACQUIRE_TIMEOUT. -/
def execAcquireTimeout (id : Nat) (s : State) := s.run fun now d => d.parkedOut now id 6

/-! ### ACQUIRE and inheritance (R325, R373, R374) -/

/-- The commands of a holder that stand before its next RELEASE of a semaphore. -/
def Dev.beforeRelease (d : Dev) (y e : Nat) : List (Nat × Cmd) :=
  let rel := d.hif.cmds.filter fun r => r.2.ctx == y && hOp r.2.slot == 7 && fld r.2.slot 0x10 0 20 == e
  let own := d.hif.cmds.filter fun c => c.2.ctx == y
  if rel.isEmpty then own
  else own.filter fun c => rel.any fun r => r.2.queue == c.2.queue && c.1 < r.1

/-- Has the holder anything to be raised: not resident, or a command ranking below with tiles to dispatch? -/
def Dev.needsLoan (d : Dev) (y e r : Nat) : Bool :=
  (match Tbl.find d.hif.ctxs y with | some c => !c.resident | none => false) ||
  (d.beforeRelease y e).any fun c => decide (d.rank c.2 < r) && c.2.moreTiles

/-- Lend a waiting ACQUIRE's priority to a holder: it becomes resident, its commands before the RELEASE rank as the
ACQUIRE does. -/
def Dev.lendTo (d : Dev) (now w y e : Nat) (bp prio : Nat) : Dev :=
  let d := d.makeResident now y
  (d.beforeRelease y e).foldl (fun d c => d.onCmd c.1 fun m => { m with lent := some (w, bp, prio) }) d

/-- The ACQUIRE a context waits on, if its own next command is one: command and event. -/
def Dev.blockedOn (d : Dev) (y : Nat) : Option (Nat × Nat) :=
  (d.hif.cmds.find? fun c => c.2.ctx == y && c.2.phase == .parked && hOp c.2.slot == 6).map fun c =>
    (c.1, fld c.2.slot 0x10 0 20)

/-- Inheritance along a chain of holders: at most four, a fifth records 0x050B (R374).  Answers whether inheritance ran
and whether the chain was too long. -/
def Dev.inherit (now w bp prio r : Nat) : Nat → Nat → Dev → Dev × Bool × Bool
  | 0, e, d => (d.raise 0x050B (svcUnit (((Tbl.find d.hif.cmds w).map fun m => d.home m.ast).getD 0)) 0 .info [e, w], false, true)
  | n + 1, e, d =>
    match Tbl.find d.hif.events e with
    | none => (d, false, false)
    | some v =>
      let low := v.holders.dedup.filter fun y => d.needsLoan y e r
      let d := low.foldl (fun d y => d.lendTo now w y e bp prio) d
      match v.holders.dedup.findSome? d.blockedOn with
      | some (i, e') =>
        if i = w then (d, !low.isEmpty, false)
        else
          let (d, ran, long) := Dev.inherit now w bp prio r n e' d
          (d, ran || !low.isEmpty, long)
      | none => (d, !low.isEmpty, false)

/-- The bound of a guaranteed ACQUIRE that must wait: the smallest over the holders with an admitted RELEASE, of the
bound of their commands short of their completion points placed at its deadline, plus 2 µs (R373). -/
def Dev.acquireBound (d : Dev) (now : Nat) (m : Cmd) (e : Nat) : Option Nat :=
  match Tbl.find d.hif.events e with
  | none => none
  | some v =>
    let bounds := v.holders.dedup.filterMap fun y =>
      let rel := d.hif.cmds.any fun r => r.2.ctx == y && hOp r.2.slot == 7 && fld r.2.slot 0x10 0 20 == e
      if !rel then none
      else
        let own := d.beforeRelease y e
        let out := own.filter fun c => c.2.onCores && !c.2.inBook
        let book := d.book m.ast
        let den := lcmAll (((own ++ book).filter (·.2.onCores)).map fun c => d.nc c.2)
        let js := out.map fun c => d.jobOf den c.1 c.2
        let lo := out.foldl (fun n c => max n (ceilDiv (spanUnits c.2.toGo c.2.resv.conc
          (tileUnits c.2.resv.acc c.2.resv.fMhz)) (1000 * unitsPerNs))) 1
        let ns := d.servingIn m.ast 0
        if ns = 0 then none
        else findBound now ns den (js.foldl (fun n j => n + j.work) 0) (js.foldl (fun n j => max n j.t) 0) lo
          (d.blocking m.ast den) now (d.jobs den book)
    match bounds with
    | [] => none
    | b :: l =>
      let b := l.foldl min b + 2
      if d.boundFits (hLimit m.slot) b then some b else none

/-- ACQUIRE takes a free unit, or waits; a waiting one may start inheritance. -/
def Dev.doAcquire (d : Dev) (now : Nat) (h : Head) : Dev :=
  let x := h.f.slot
  let a := h.ctx.ast
  let e := fld x 0x10 0 20
  d.named now h (firstNamed [d.nameCompletion a x, d.nameEvent a e]) <|
    match Tbl.find d.hif.events e with
    | none => d
    | some v =>
      if !v.sem then d.failCheck now h 0x0607 [e, 6]
      else
        let m := d.newCmd now h
        let guar := d.guaranteed m.cls 6
        match (if guar then d.earlySteps h { m with guar := true } else none) with
        | some (r, err) => d.refuse now h r err
        | none =>
          if v.free && (d.nextWaiter e).isNone then
            let d := if guar then d.wrap (ADM_AST_BOOK1.ACCEPTED a) 1 else d
            (d.onEvent e fun v => v.take h.queue.ctx).acceptDone now h
              { m with guar := guar, abandoned := v.abandoned, boundUs := guar.toNat, deadline := now + 1000 } .completed
          else
            let bp := d.get (ADM_CLASS_PARAM_A_ACT.BASEPRI m.cls)
            let ahead := match d.nextWaiter e with
              | some i => (match Tbl.find d.hif.cmds i with | some c => decide (d.rank m ≤ d.rank c) | none => false)
              | none => false
            let b := if guar && !ahead then d.acquireBound now m e else none
            let m := { m with phase := .parked, timeoutAt := parkTimeout now x }
            let m := match b with
              | some b => { m with guar := true, boundUs := b, deadline := now + b * 1000, inBook := true }
              | none => m
            let (d, id) := d.accept h m
            let d := d.onEvent e fun v => { v with waiters := v.waiters + 1 }
            let (d, ran, long) := Dev.inherit now id bp h.ctx.prio (d.rank m) 4 e d
            let d := if b.isSome && !long then d.wrap (ADM_AST_BOOK1.ACCEPTED a) 1 else d
            let d := if ran then d.wrap (ADM_AST_BOOK4.INHERITS a) 1 else d
            d.onCmd id fun m => { m with
              inherited := ran
              guar := m.guar && !long, inBook := m.inBook && !long, boundUs := if long then 0 else m.boundUs }

/-- ACQUIRE. -/
def execAcquire (q : Nat) (s : State) := s.run fun now d => d.takeHead now q (opIs 0x06) fun d h => d.doAcquire now h

/-! ### BARRIER (R326) -/

/-- BARRIER: the dispatchers of its group are asked for their arrivals, and the commands of its span are held. -/
def Dev.doBarrier (d : Dev) (now : Nat) (h : Head) : Dev :=
  let a := h.ctx.ast
  d.named now h (d.nameCompletion a h.f.slot) <|
    let (d, id) := d.accept h (d.newCmd now h)
    let dps := ((d.coresOf a).map coreDp).dedup
    let b : Barrier := { id := d.net.barrierId, cmd := id, ast := a, ctx := h.queue.ctx, queue := h.q, home := d.hd h
                         toSend := dps, waitArr := dps, left := fld h.f.slot 0x10 0 5, waves := [], delta := 0
                         planned := false, sent := 0, lastAt := 0, unacked := [], span := fld h.f.slot 0x10 0 5 }
    d.onNet fun n => { n with barriers := n.barriers ++ [b], barrierId := n.barrierId + 1 }

/-- BARRIER. -/
def execBarrier (q : Nat) (s : State) := s.run fun now d => d.takeHead now q (opIs 0x08) fun d h => d.doBarrier now h

/-- A barrier leaves: its commands' tiles are held no longer. -/
def Dev.dropBarrier (d : Dev) (id : Nat) : Dev := d.onNet fun n => { n with
  barriers := n.barriers.filter fun b => b.cmd != id }

/-! ### HINT (R428) -/

/-- HINT books POWER_W for its context, or is refused. -/
def Dev.doHint (d : Dev) (now : Nat) (h : Head) : Dev :=
  let x := h.f.slot
  let a := h.ctx.ast
  let p := fld x 0x14 0 16 * 1000
  d.named now h (d.nameCompletion a x) <|
    if 4 ≤ (d.pwr.bookings.filter fun b => b.ast == a).length ∨ 16 ≤ d.pwr.bookings.length ∨ !d.energyOk p ∨
        !d.bufferTest p then
      d.reject now h .refused .energy 0x080A none
    else
      let openAt := now + fld x 0x16 0 16 * 1000
      let b : Booking := { id := d.pwr.nextBook, cmd := d.hif.nextCmd, ast := a, ctx := h.queue.ctx, powerMw := p
                           openAt := openAt, closeAt := openAt + fld x 0x18 0 32 * 1000, opened := false, drawn := 0
                           usedPj := 0, limitMj := fld x 0x10 0 32 }
      ({ d with pwr := { d.pwr with bookings := d.pwr.bookings ++ [b], nextBook := d.pwr.nextBook + 1 } }).acceptDone now h
        (d.newCmd now h) .completed

/-- HINT. -/
def execHint (q : Nat) (s : State) := s.run fun now d => d.takeHead now q (opIs 0x09) fun d h => d.doHint now h

/-- HINT_OPEN: LEAD_US after acceptance the booking opens. -/
def execHintOpen (b : Nat) (s : State) := s.run fun now d =>
  let op := fun (x : Booking) => if x.id = b ∧ x.openAt ≤ now then { x with opened := true } else x
  { d with pwr := { d.pwr with bookings := d.pwr.bookings.map op } }

/-- Has a booking's window passed, or its energy been drawn? -/
def Booking.over (b : Booking) (now : Nat) : Bool := decide (b.closeAt ≤ now) || decide (b.limitMj * 1000000000 ≤ b.usedPj)

/-- HINT_CLOSE. -/
def execHintClose (b : Nat) (s : State) := s.run fun now d =>
  { d with pwr := { d.pwr with bookings := d.pwr.bookings.filter fun x => !(x.id == b && x.opened && x.over now) } }

/-! ### ABORT (R327, R377, R378) -/

/-- The called commands of a CALL that have not been admitted end with a status, and are counted as not run. -/
def Dev.endKids (d : Dev) (now q call : Nat) (st : CStatus) : Dev :=
  match Tbl.find d.hif.queues q with
  | none => d
  | some k =>
    let kids := k.fetched.filter fun f => f.call == some call
    let d := d.onQueue q fun k => { k with fetched := k.fetched.filter fun f => f.call != some call }
    let d := d.onCmd call fun m => { m with notRun := m.notRun + kids.length }
    kids.foldl (fun d f => d.endFetched now q f st .none 0) d

/-- An outcome is latched for one admitted command: what has no tile running ends at once (R377, R378). -/
def Dev.latch1 (d : Dev) (now id : Nat) (st : CStatus) : Dev :=
  match Tbl.find d.hif.cmds id with
  | none => d
  | some m =>
    if m.forced.isSome then d
    else
      let d := d.onCmd id fun m => m.force st 0
      match hOp m.slot with
      | 0x01 | 0x02 => if m.running = 0 then d.finish now id st else d
      | 0x03 => (d.endSweep id).finish now id st
      | 0x05 | 0x06 => d.unpark now id st false
      | 0x08 => (d.dropBarrier id).finish now id st
      | 0x0B => d.endKids now m.queue id st
      | _ => d.finish now id st

/-- The same for a command and, of a CALL, every called command not yet over. -/
def Dev.latch (d : Dev) (now id : Nat) (st : CStatus) : Dev :=
  let kids := (d.hif.cmds.filter fun e => e.2.call == some id).map (·.1)
  kids.foldl (fun d k => d.latch1 now k st) (d.latch1 now id st)

/-- The record of an ABORT. -/
def abortRec (won found : Bool) (st : CStatus) (r : CRec) : CRec :=
  { r with won := won, notFound := !found, aux := if found then st.code else 0 }

/-- ABORT names a command by queue and position. -/
def Dev.doAbort (d : Dev) (now : Nat) (h : Head) : Dev :=
  let x := h.f.slot
  let a := h.ctx.ast
  let q := fld x 0x10 0 18
  let pos := fld x 0x14 0 32
  let here := match Tbl.find d.hif.queues q with
    | some k => (match Tbl.find d.hif.ctxs k.ctx with | some c => c.ast == a | none => false)
    | none => false
  d.named now h (firstNamed [d.nameCompletion a x, if here then .fine else .refused .policy 0x0603 [1, q]]) <|
    let m := d.newCmd now h
    match d.hif.cmds.find? fun e => e.2.queue == q && e.2.pos == pos && e.2.call.isNone with
    | some (id, t) =>
      (match t.forced with
       | some st => d.acceptDone now h m .completed 0 (abortRec false true st)
       | none => (d.latch now id .aborted).acceptDone now h m .completed 0 (abortRec true true .aborted))
    | none =>
      match ((Tbl.find d.hif.queues q).map (·.fetched)).getD [] |>.find? fun f => f.pos == pos && f.call.isNone &&
          !(q == h.q && pos == h.f.pos) with
      | some f =>
        let d := d.onQueue q fun k => { k with fetched := k.fetched.filter fun g => !(g.pos == pos && g.call.isNone) }
        (d.endFetched now q f .aborted .none 0).acceptDone now h m .completed 0 (abortRec true true .aborted)
      | none => d.acceptDone now h m .completed 0 (abortRec false false .completed)

/-- ABORT. -/
def execAbort (q : Nat) (s : State) := s.run fun now d => d.takeHead now q (opIs 0x0A) fun d h => d.doAbort now h

/-! ### CALL (R322) -/

/-- BUF_OBJ and the listed objects of a CALL. -/
def callObjs (x : Line) : List Nat :=
  fld x 0x10 0 24 :: (List.range (fld x 0x1A 0 4)).map fun i => fld x (0x20 + 4 * i) 0 24

/-- CALL: its objects and range are checked, in-flight counts raised, and its commands take its place. -/
def Dev.doCall (d : Dev) (now : Nat) (h : Head) : Dev :=
  let x := h.f.slot
  let a := h.ctx.ast
  let off := fld x 0x14 0 32
  let n := fld x 0x18 0 16
  d.named now h (firstNamed (d.nameCompletion a x :: (callObjs x).map (d.nameObj a))) <|
    match Tbl.find d.hif.objs (fld x 0x10 0 24) with
    | none => d
    | some b =>
      if b.size < off + 64 * n then d.failCheck now h 0x0604 [fld x 0x10 0 24, off, n]
      else match d.peekBytes (d.headTags h) (b.va + off) (64 * n) with
        | .inl (c, va) => d.admitFault now h c va
        | .inr bs =>
          let (d, id) := d.accept h { d.newCmd now h with objs := callObjs x, kids := n }
          let kid := fun i : Nat => { pos := h.f.pos, index := i, call := some id
                                      slot := BitVec.ofNat 512 (ofBytes ((bs.drop (64 * i)).take 64)) : Fetched }
          d.onQueue h.q fun k => { k with fetched := (List.range n).map kid ++ k.fetched }

/-- CALL. -/
def execCall (q : Nat) (s : State) := s.run fun now d => d.takeHead now q (opIs 0x0B) fun d h => d.doCall now h

/-! ### FREE_OBJECT (R338) -/

/-- A LIVE or LOST object becomes RETIRING, and FREE at once when nothing names it. -/
def Dev.doFreeObject (d : Dev) (now : Nat) (h : Head) : Dev :=
  let x := h.f.slot
  let a := h.ctx.ast
  let o := fld x 0x10 0 24
  let ok : Bool := match Tbl.find d.hif.objs o with
    | some b => b.ast == a && (b.state == .live || b.state == .lost)
    | none => false
  d.named now h (firstNamed [d.nameCompletion a x, if ok then .fine else .refused .policy 0x0603 [2, o]]) <|
    let d := d.acceptDone now h (d.newCmd now h) .completed
    let d := d.onObj o fun b => { b with state := .retiring, freer := some (h.q, h.f.pos), inflight := b.inflight + 1 }
    d.dropObj now o

/-- FREE_OBJECT. -/
def execFreeObject (q : Nat) (s : State) := s.run fun now d => d.takeHead now q (opIs 0x0C) fun d h => d.doFreeObject now h

end Sys2Proof.Machine
end

