-- ==== Sys2Proof/Machine/Report.lean ====
section
/-!
DEFINITION. The way of an error record: the error queue, the records held before it is enabled, the flash log and the
notices (R440 to R446, R461, R462, R506), and ALERT_n (R527).
-/

namespace Sys2Proof.Machine

/-! ### ALERT_n (R527) -/

/-- Conditions that hold ALERT_n low. -/
inductive Alert where
  | belowFloor | powerCycle | bootStopped | recovery | trip | coolant | leak | event
  deriving DecidableEq, Repr

/-- Number of a condition in the list that the module holds. -/
def Alert.num : Alert → Nat
  | .belowFloor => 0 | .powerCycle => 1 | .bootStopped => 2 | .recovery => 3 | .trip => 4 | .coolant => 5 | .leak => 6
  | .event => 7

/-- Change the module's pins and conditions. -/
def Dev.onMod (d : Dev) (f : Mod → Mod) : Dev := { d with mod := f d.mod }

/-- A condition holds, or holds no longer. -/
def Dev.alert (d : Dev) (a : Alert) (on : Bool) : Dev :=
  let rest := d.mod.alerts.filter (· != a.num)
  let l := if on then a.num :: rest else rest
  d.onMod fun m => { m with alerts := l, alertN := l.isEmpty }

/-! ### Records (R440, R441) -/

/-- The 64 bytes of a record (Table 14-1); items beyond the five words are cut (R441). -/
def ErrRec.encode (r : ErrRec) : Line :=
  let w := fun (i : Nat) => (r.detail.getD i 0) % 2 ^ 64 * 2 ^ (192 + 64 * i)
  BitVec.ofNat 512 (
    r.code % 2 ^ 16 + r.unit % 2 ^ 16 * 2 ^ 16 + r.sub % 2 ^ 8 * 2 ^ 32 + r.sev % 2 ^ 3 * 2 ^ 40 + r.crit.toNat * 2 ^ 43 +
    r.notice.toNat * 2 ^ 44 + r.astv.toNat * 2 ^ 45 + r.flash.toNat * 2 ^ 46 + r.phase.toNat * 2 ^ 47 +
    r.ast % 2 ^ 6 * 2 ^ 48 + r.ctx % 2 ^ 16 * 2 ^ 64 + r.seq % 2 ^ 32 * 2 ^ 96 + r.ticks % 2 ^ 64 * 2 ^ 128 +
    w 0 + w 1 + w 2 + w 3 + w 4)

/-- Does a record go to the fabric manager as a notice (R462)? -/
def ErrRec.noticed (r : ErrRec) : Bool :=
  r.sev == 4 || [0x0A04, 0x0A05, 0x0A06, 0x0A08, 0x0A09, 0x0A0D, 0x0705, 0x0706, 0x0707, 0x0708, 0x070C, 0x0801].contains
    r.code

/-! ### The Almanac's entries (R157, R463, R466) -/

/-- Change a unit's health. -/
def Dev.onHealth (d : Dev) (unit : Nat) (f : Health → Health) : Dev :=
  { d with alm := { d.alm with units := Tbl.upd Health.new d.alm.units unit f } }

/-- A repair, substitution or retirement is entered under the physical unit. -/
def Dev.almEntry (d : Dev) (unit code : Nat) : Dev :=
  ({ d with alm := { d.alm with repairs := d.alm.repairs ++ [(unit, code)] } }).onHealth unit fun h =>
    { h with events := satAdd 16 h.events 1 }

/-- A unit is marked. -/
def Dev.almMark (d : Dev) (unit : Nat) (m : Mark) : Dev := d.onHealth unit fun h => { h with mark := some m }

/-- An error of a unit is counted. -/
def Dev.almCount (d : Dev) (unit : Nat) (ue : Bool) : Dev :=
  d.onHealth unit fun h => { h with events := satAdd 16 h.events 1, day := h.day + 1, ue := h.ue || ue }

/-- The last spare of a group enters service: 0x0A0C, with the group's kind and the unit that holds it (R466); `side`
tells apart two groups of one unit. -/
def Dev.groupEmpty (d : Dev) (kind holder : Nat) (side : Nat := 0) : Dev :=
  let key := side * 2 ^ 24 + kind * 2 ^ 16 + holder
  if d.alm.exhausted.contains key then d
  else ({ d with alm := { d.alm with exhausted := d.alm.exhausted ++ [key] } }).raise 0x0A0C moduleUnit 0x00
    .degraded [kind, holder]

/-! ### The flash log (R461) -/

/-- Bytes of the flash log: records of 64 bytes, dump summaries of a header and 16 pages, metering snapshots of one
asterism, whose size is not stated. -/
def Dev.flashUsed (d : Dev) : Nat :=
  64 * d.ras.flash.length + 65600 * d.ras.dumps.length + Config.code 0x302 0 * d.comp.snaps.length

/-- A full log gives up its oldest metering snapshot, else its oldest record below SEV 4, else its oldest dump summary,
else its oldest record. -/
def Dev.flashDrop (d : Dev) : Dev :=
  let low := d.ras.flash.any fun r => r.sev != 4
  if !d.comp.snaps.isEmpty then { d with comp := { d.comp with snaps := d.comp.snaps.dropLast } }
  else if low then { d with ras := { d.ras with
    flash := (match takeFirst (fun r : ErrRec => r.sev != 4) d.ras.flash.reverse with
      | some (_, l) => l.reverse
      | none => d.ras.flash) } }
  else if !d.ras.dumps.isEmpty then { d with ras := { d.ras with dumps := d.ras.dumps.dropLast } }
  else { d with ras := { d.ras with flash := d.ras.flash.dropLast } }

/-- Make room in the log of 96 MiB (Table 16-4); the fuel is far above what one entry needs. -/
def Dev.flashTrim : Nat → Dev → Dev
  | 0, d => d
  | n + 1, d => if d.flashUsed ≤ 100663296 then d else Dev.flashTrim n d.flashDrop

/-- A record is written to the flash log. -/
def Dev.logFlash (d : Dev) (r : ErrRec) : Dev :=
  Dev.flashTrim 1024 { d with ras := { d.ras with flash := r :: d.ras.flash } }

/-! ### Notices (R396, R462) -/

/-- A notice is sent and held until it is acknowledged; with 256 held it is counted lost.  A PLDM event goes to the tray
controller for each record with NOTICE set (R516). -/
def Dev.notify (d : Dev) (now : Nat) (r : Option ErrRec) (extra : List Nat) : Dev :=
  let d := match r with
    | some r => ({ d with fw := { d.fw with events := r.code :: d.fw.events } }).alert .event true
    | none => d
  if 256 ≤ d.ras.notices.length then d.sat RAS_ERRQ_LOST.LOST 1
  else
    let n : Notice := { seq := d.ras.noticeSeq, err := r, extra := extra, at_ := now }
    { d with ras := { d.ras with
      notices := d.ras.notices ++ [n], noticeBox := n :: d.ras.noticeBox, noticeSeq := wrapAdd 32 d.ras.noticeSeq 1 } }

/-! ### The error queue (R443 to R446) -/

/-- Records in the ring. -/
def Dev.errqUsed (d : Dev) : Nat := (d.get RAS_ERRQ_TAIL.TAIL + 2 ^ 32 - d.get RAS_ERRQ_HEAD.HEAD) % 2 ^ 32
/-- Slots of the ring. -/
def Dev.errqSize (d : Dev) : Nat := 2 ^ d.get RAS_ERRQ_SIZE.LOG2N
/-- May a record be written now (R444)? -/
def Dev.errqRoom (d : Dev) (crit : Bool) : Bool :=
  decide (d.errqUsed < d.errqSize - (if crit then 0 else d.get RAS_ERRQ_SIZE.RESV))

/-- Key of the interrupt's rate among the rates. -/
def errqKey : Nat := 2 ^ 40

/-- The vector of the selected port is raised, at most once per 10 µs (R446). -/
def Dev.errqSignal (d : Dev) (now : Nat) : Dev :=
  let p := d.get RAS_ERRQ_BASE.SPACE
  if 1 ≤ p ∧ p ≤ 4 then d.raiseLimited now errqKey 10000 fun d => d.interrupt (1023 + p) (d.get RAS_ERRQ_SIZE.VECTOR)
  else d

/-- Write a record into the ring. -/
def Dev.errqPut (d : Dev) (now : Nat) (r : ErrRec) : Dev :=
  let t := d.get RAS_ERRQ_TAIL.TAIL
  let r := { r with phase := phaseOf (d.get RAS_ERRQ_SIZE.LOG2N) t }
  let d := { d with ras := { d.ras with ring := Tbl.put d.ras.ring (t % d.errqSize) r } }
  (d.wrap RAS_ERRQ_TAIL.TAIL 1).errqSignal now

/-- A record is lost: counted, an overflow episode begun, and a critical one written to the flash log. -/
def Dev.errqLose (d : Dev) (r : ErrRec) : Dev :=
  let d := d.sat RAS_ERRQ_LOST.LOST 1
  let d := if r.crit then d.sat RAS_ERRQ_LOST.CRIT_LOST 1 else d
  let d := { d with ras := { d.ras with
    lost := (if d.ras.overflow then d.ras.lost else 0) + 1
    critLost := (if d.ras.overflow then d.ras.critLost else 0) + r.crit.toNat, overflow := true } }
  if r.crit ∧ !r.flash then d.logFlash { r with flash := true } else d

/-- Write a record, or lose it. -/
def Dev.errqWrite (d : Dev) (now : Nat) (r : ErrRec) : Dev := if d.errqRoom r.crit then d.errqPut now r else d.errqLose r

/-- Firmware receives a record (R443, R444, R461, R462, R506): it is numbered, noticed, logged, and written, held or
lost; `log` for a record whose own rule sends it to the flash log. -/
def Dev.report (d : Dev) (now : Nat) (r : ErrRec) (log : Bool := false) : Dev :=
  let en := d.flag RAS_ERRQ_BASE.EN
  let room := decide (d.ras.heldBoot.length < 256)
  let flash := log || r.sev == 4 || (!en && room && r.sev == 3)
  let r := { r with seq := d.ras.seq, notice := r.noticed, flash := flash }
  let d := { d with ras := { d.ras with seq := wrapAdd 32 d.ras.seq 1 } }
  let d := if r.notice then d.notify now (some r) [] else d
  let d := if flash then d.logFlash r else d
  if en then d.errqWrite now r
  else if room then { d with ras := { d.ras with heldBoot := d.ras.heldBoot ++ [r] } }
  else d.errqLose r

/-- Firmware's own record, received at once. -/
def Dev.reportNow (d : Dev) (now code unit sub : Nat) (sev : Sev) (detail : List Nat) (log : Bool := false)
    (who : Option (Nat × Nat) := none) : Dev :=
  let d := d.raise code unit sub sev detail who
  match d.ras.box.getLast? with
  | some r => ({ d with ras := { d.ras with box := d.ras.box.dropLast } }).report now r log
  | none => d

/-- ERROR_RECORD: the next record reaches firmware. -/
def execErrorRecord (s : State) := s.run fun now d =>
  match d.ras.box with
  | [] => d
  | r :: l => ({ d with ras := { d.ras with box := l } }).report now r

/-- The end of an overflow episode, once half the ring is free (R445). -/
def Dev.episodeEnd (d : Dev) (now : Nat) : Dev :=
  if d.ras.overflow ∧ d.errqUsed * 2 ≤ d.errqSize then
    let n := d.ras.lost
    let c := d.ras.critLost
    let d := ({ d with ras := { d.ras with overflow := false, lost := 0, critLost := 0 } }).sat RAS_ERRQ_LOST.EPISODES 1
    d.reportNow now 0x0A0B moduleUnit 0x00 .info [n, c]
  else d

/-- A write of RAS_ERRQ_HEAD: one that would pass TAIL is ignored (R443). -/
def Dev.errqHead (d : Dev) (now v : Nat) : Dev :=
  let h := d.get RAS_ERRQ_HEAD.HEAD
  if (v + 2 ^ 32 - h) % 2 ^ 32 ≤ d.errqUsed then (d.set RAS_ERRQ_HEAD.HEAD v).episodeEnd now else d

/-- RAS_ERRQ_HEAD_WRITE. -/
def execRasErrqHeadWrite (path value : Nat) (s : State) := s.run fun now d =>
  d.writeThrough now path RAS_ERRQ_HEAD.off fun d => d.errqHead now (value % 2 ^ 32)

/-- A write of RAS_ERRQ_BASE: its fields, and the held records once EN is set (R506). -/
def Dev.errqEnable (d : Dev) (now : Nat) (v : Word) : Dev :=
  let was := d.flag RAS_ERRQ_BASE.EN
  let d := (d.set RAS_ERRQ_BASE.BASE (bits v.toNat 6 58)).set RAS_ERRQ_BASE.EN (bits v.toNat 0 1)
  let d := if bits v.toNat 1 3 ≤ 4 then d.set RAS_ERRQ_BASE.SPACE (bits v.toNat 1 3) else d
  if !was && d.flag RAS_ERRQ_BASE.EN then
    let l := d.ras.heldBoot
    let d := { d with ras := { d.ras with heldBoot := [] } }
    (l.foldl (fun d r => d.errqWrite now r) d).episodeEnd now
  else d

/-- RAS_ERRQ_ENABLE. -/
def execRasErrqEnable (path : Nat) (value : Word) (s : State) := s.run fun now d =>
  d.writeThrough now path RAS_ERRQ_BASE.off fun d => d.errqEnable now value

end Sys2Proof.Machine
end

