-- ==== Sys2Proof/Machine/Pool.lean ====
section
/-!
DEFINITION. The pool client's requests: which units of a page a stack pulls, where they lie in the pool, and how each
link keeps at most 2,048 of them outstanding (R171, R182, R399, R402).
-/

namespace Sys2Proof.Machine

/-- Channel of granule q of a page under a region (R168). -/
def Region.chanOf (m : CMap) (g : Region) (page q : Nat) : Nat :=
  let o := page - g.vbase
  let q0 := o / pageBytes g.ps * (pageBytes g.ps / 4096)
  Tbl.look 0 m.list (g.loff + (q0 + q) % g.n)

/-- Granules of 4 KiB of a page that fall in a stack's slots, under the asterism's current map. -/
def Dev.granules (d : Dev) (s a page : Nat) : List Nat :=
  match d.curMap a with
  | none => []
  | some m =>
    match m.regionOf page with
    | none => []
    | some (_, g) => (List.range (pageBytes g.ps / 4096)).filter fun q => chanStack (g.chanOf m page q) == s

/-- Units of 256 bytes of a page that fall in a stack's slots (R182, R399). -/
def Dev.pullUnits (d : Dev) (s key : Nat) : List Nat :=
  (d.granules s (tkeyAst key) (tkeyVa key)).flatMap fun q => (List.range 16).map (q * 16 + ·)

/-- Channel and channel offset of a unit of a page in a stack, under an entry's frame (R171). -/
def Dev.unitPlace (d : Dev) (key : Nat) (e : TEntry) (u : Nat) : Option (Nat × Nat) :=
  (d.curMap (tkeyAst key)).bind fun m =>
    (m.route (tkeyVa key + u * 256)).map fun r => (r.l, (e.frame + r.r) * 4096 + u * 256 % 4096)

/-- Offset of a unit in a pool's memory, from the pool's base: a COMPAT page keeps its keys and values in two halves,
and unit 16k + o of it is block k's part o (R402). -/
def poolOffset (compat : Bool) (ppn u : Nat) : Nat :=
  ppn * 65536 +
    (if compat then
      let k := u / 16
      let o := u % 16
      if o < 8 then 2048 * k + 256 * o else 32768 + 2048 * k + 256 * (o - 8)
    else u * 256)

/-- Link through which a pool is reached. -/
def Dev.poolLink (d : Dev) (pidx : Nat) : Nat :=
  2 * (d.partner (poolEntry pidx)).port + (d.partner (poolEntry pidx)).half.toNat

/-- A pool request that has not been issued. -/
def Dev.poolReq (d : Dev) (why : PoolFor) (s : Nat) (e : TEntry) (u : Nat) : PoolReq where
  why := why
  stack := s
  pidx := e.pidx
  addr := (d.partner (poolEntry e.pidx)).base + poolOffset (d.poolCompat e.pidx) e.ppn u
  at_ := none
  data := []

/-- Has a pull's read brought its data, which then waits for back-invalidations (R387)? -/
def PoolReq.arrived (r : PoolReq) : Bool := (match r.why with | .pull .. => true | _ => false) && !r.data.isEmpty

/-- Requests a link has outstanding. -/
def Dev.poolOut (d : Dev) (link : Nat) : Nat :=
  (d.cxl.pool.filter fun r => r.at_.isSome && !r.arrived && d.poolLink r.pidx == link).length

/-- The stack a link serves next: round-robin after the one served last. -/
def Dev.poolNext (d : Dev) (link : Nat) : Option Nat :=
  let last := Tbl.look 31 d.cxl.poolTurn link
  ((List.range 32).map fun k => (last + 1 + k) % 32).find? fun s =>
    d.cxl.pool.any fun r => r.at_.isNone && r.stack == s && d.poolLink r.pidx == link

/-- Issue the waiting requests of a link as long as it has room (R399); the fuel bounds their number. -/
def Dev.issueLink (now link : Nat) : Nat → Dev → Dev
  | 0, d => d
  | n + 1, d =>
    if 2048 ≤ d.poolOut link then d
    else match d.poolNext link with
    | none => d
    | some s =>
      match indexWhere (fun r : PoolReq => r.at_.isNone && r.stack == s && d.poolLink r.pidx == link) d.cxl.pool with
      | none => d
      | some i => Dev.issueLink now link n { d with cxl := { d.cxl with
          pool := modifyAt d.cxl.pool i fun r => { r with at_ := some now }
          poolTurn := Tbl.put d.cxl.poolTurn link s } }

/-- Add pool requests and issue what the links have room for. -/
def Dev.askPool (d : Dev) (now : Nat) (l : List PoolReq) : Dev :=
  let d := { d with cxl := { d.cxl with pool := d.cxl.pool ++ l } }
  (List.range 8).foldl (fun d k => Dev.issueLink now k d.cxl.pool.length d) d

/-- A soft fault on a pool-backed page starts its pull (R182). -/
def Dev.startPull (d : Dev) (now s tok key : Nat) (e : TEntry) : Dev :=
  let us := d.pullUnits s key
  (d.onStack s fun t => { t with pend := Tbl.adj t.pend tok fun p => { p with pull := some us } }).askPool now
    (us.map fun u => d.poolReq (.pull tok u) s e u)

/-- Requests of a stack's pull. -/
def PoolReq.ofPull (r : PoolReq) (s tok : Nat) : Bool :=
  r.stack == s && (match r.why with | .pull t _ => t == tok | _ => false)

/-- A pull ends or is abandoned: its requests are no longer awaited. -/
def Dev.dropPull (d : Dev) (s tok : Nat) : Dev :=
  { d with cxl := { d.cxl with pool := d.cxl.pool.filter fun r => !r.ofPull s tok } }

end Sys2Proof.Machine
end

