-- ==== Sys2Proof/Machine/Stacks.lean ====
section
/-!
DEFINITION. Serving requests at a stack: the translation cache and table walks (R172, R174), the checks (R177), soft
faults and pending pages (R180 to R182), the five accesses to a granule (R140 to R142, R112, R121), back-invalidation
(R387), patrol, refresh and temperature (R147, R148, R154 to R156), and domain key slots (R150, R151).
-/

namespace Sys2Proof.Machine

/-! ### Faults at the stack -/

/-- A hard fault at a stack: counted, and its record sent (R195, R204). -/
def Dev.stackHard (d : Dev) (s : Nat) (r : Req) (code : Nat) (unit : Nat := stackUnit s) : Dev :=
  (d.wrap (TRN_FAULTS.HARD s) 1).hardFault r code unit

/-- The pending entry of a page. -/
def Stack.pendOf (t : Stack) (page : Nat) : Option (Nat × Pend) := t.pend.find? fun e => e.2.page == page

/-- A page becomes pending, or one more fault joins it: the token, whether a record is due, and whether the entry is
new; none when the list is full (R180, R181). -/
def Dev.joinPending (d : Dev) (s page : Nat) (r : Option Req) : Option (Dev × Nat × Bool × Bool) :=
  let t := d.stack s
  match t.pendOf page with
  | some (k, p) =>
    some (d.onStack s fun t => { t with pend := Tbl.adj t.pend k fun p => { p with
      count := p.count + 1, reported := true, waiting := p.waiting ++ r.toList } }, k, !p.reported, false)
  | none =>
    if 256 ≤ t.pend.length then none
    else (Tbl.firstFree t.pend 256 0).map fun k =>
      (d.onStack s fun t => { t with pend := Tbl.put t.pend k {
        ast := tkeyAst page, page := page, count := 1, pull := none, reported := true, waiting := r.toList } }, k, true, true)

/-- A soft fault of a request: its token, with a record for the first fault of the page; a full list answers RETRY. -/
def Dev.softFault (d : Dev) (now s page : Nat) (e : TEntry) (r : Req) (code : Nat) : Dev :=
  let d := d.wrap (TRN_FAULTS.SOFT s) 1
  match d.joinPending s page (some r) with
  | none => d.answer r .retry
  | some (d, k, due, new) =>
    let d := if new && e.pool then d.startPull now s k page e else d
    if due then d.fault ⟨d.faultRec r code (stackUnit s) true e.pool, some r, .soft s k⟩ else d.answer r (.soft s k)

/-! ### Service -/

/-- A granule served for an asterism is metered (Table 9-12). -/
def Dev.meterGranule (d : Dev) (a : Nat) : Dev :=
  d.onAst a fun x => { x with pendMeters := { x.pendMeters with granules := x.pendMeters.granules + 1 } }

/-- The first write to a present pool-backed page sets DIRTY in the table, and in the cache (R170, R176). -/
def Dev.markDirty (d : Dev) (s a va : Nat) : Dev :=
  let mark := fun (t : Tbl TEntry) => match entryAt t a va with
    | some (k, e) => if e.pool && e.p && !e.dirty then Tbl.put t k { e with dirty := true } else t
    | none => t
  d.onStack s fun t => { t with table := mark t.table, cache := mark t.cache }

/-- Does an access change the granule? -/
def Acc.writes : Acc → Bool
  | .read | .sweepRead => false
  | _ => true

/-- A granule with the 32-bit word at byte `o` incremented modulo 2^32 (R121). -/
def bumpWord (o : Nat) (x : Line) : Line :=
  BitVec.ofNat 512 (setBits x.toNat (8 * o) 32 (fld x o 0 32 + 1))

/-- The access itself: what it answers, or the code of the check it fails. -/
def Dev.touch (d : Dev) (now l off : Nat) (r : Req) (ecc : Ecc) : Dev × (Nat ⊕ Line) :=
  let who := r.tags.access
  match r.acc with
  | .read | .sweepRead => d.readGran now l off who ecc
  | .write =>
    (match d.writeGran now l off who r.data with
     | (d, some code) => (d, .inl code)
     | (d, none) => (d, .inr 0))
  | .masked => d.rmwGran now l off who ecc fun x => mergeBytes r.mask x r.data
  | .add => d.rmwGran now l off who ecc fun x => addElems r.mask x r.data
  | .fetchAdd => d.rmwGran now l off who ecc (bumpWord (r.va % 64))

/-- Serve a request that has passed the checks (R140 to R142). -/
def Dev.access (d : Dev) (now l off : Nat) (r : Req) (ecc : Ecc) : Dev :=
  let s := chanStack l
  match d.touch now l off r ecc with
  | (d, .inl code) => d.stackHard s r code
  | (d, .inr x) =>
    let d := d.meterGranule r.tags.ast
    let d := if r.acc.writes then d.markDirty s r.tags.ast r.va else d
    d.answer r .ok x

/-! ### Back-invalidation (R387) -/

/-- Does a host hold a granule that it read with ownership, or owe the response to a snoop for it? -/
def Dev.tracked (d : Dev) (l off : Nat) : Bool :=
  let k := granKey (d.physChan l) (granOf off)
  ((d.stack (chanStack l)).biFilter.any fun e => e.1 == k) || d.cxl.bi.any fun b => b.gran == k

/-- Send back-invalidation snoops for a granule, one to each function that holds it, unless they are on their way. -/
def Dev.snoop (d : Dev) (now s gran : Nat) : Dev :=
  let fns := ((d.stack s).biFilter.filter fun e => e.1 == gran).map (·.2)
  let new := fns.filter fun fn => !d.cxl.bi.any fun b => b.gran == gran && b.fn == fn
  { d with cxl := { d.cxl with bi := d.cxl.bi ++ new.map fun fn => ⟨s, gran, fn, now⟩ } }

/-- Do hosts hold granules of a key range of stack `s`, or owe responses for them? -/
def Dev.trackedIn (d : Dev) (s lo hi : Nat) : Bool :=
  let in_ := fun (k : Nat) => decide (lo ≤ k) && decide (k < hi)
  ((d.stack s).biFilter.any fun e => in_ e.1) || d.cxl.bi.any fun b => in_ b.gran

/-- Snoops for every held granule of a key range: a move copy or a scrub waits for them. -/
def Dev.snoopIn (d : Dev) (now s lo hi : Nat) : Dev :=
  ((d.stack s).biFilter.filter fun e => decide (lo ≤ e.1) && decide (e.1 < hi)).foldl (fun d e => d.snoop now s e.1) d

/-- A translated request is served, or waits for back-invalidation responses first. -/
def Dev.serveAt (d : Dev) (now l off : Nat) (r : Req) (ecc : Ecc) : Dev :=
  if r.acc.writes && d.tracked l off then
    let s := chanStack l
    (d.snoop now s (granKey (d.physChan l) (granOf off))).onStack s fun t => { t with biWait := t.biWait ++ [r] }
  else d.access now l off r ecc

/-! ### Translation (R172 to R177) -/

/-- Checks 2 to 7 on the entry found, and what follows from them. -/
def Dev.resolve (d : Dev) (now l : Nat) (r : Req) (w : Route) (e : Option (Nat × TEntry)) (ecc : Ecc) : Dev :=
  let s := chanStack l
  match d.entryVerdict r.tags r.acc l r.va w (e.map (·.2)) with
  | .serve l off => d.serveAt now l off r ecc
  | .redirect k a => d.answer r (.redirect k a)
  | .hard code => d.stackHard s r code
  | .soft code =>
    match e with
    | some (k, x) => d.softFault now s k x r code
    | none => d.stackHard s r 0x0302

/-- Check 1 and the RETIRED slot (R160, R177, R194): the route, or the code and the reporting unit. -/
def Dev.atSlot (d : Dev) (l : Nat) (r : Req) : Route ⊕ (Nat × Nat) :=
  let s := chanStack l
  if d.retired l then .inr (0x0207, stackUnit s)
  else match d.slotOk r.tags l r.va with
  | some w => .inl w
  | none => .inr (0x0306, if (d.stack s).closed.contains r.tags.ast then svcUnit (stackDp s) else stackUnit s)

/-- A request reaches its stack: check 1, then the cache, or a walk (R172, R174). -/
def Dev.arrive (d : Dev) (now l : Nat) (r : Req) (ecc : Ecc) : Dev :=
  let s := chanStack l
  match d.atSlot l r with
  | .inr (code, unit) => d.stackHard s r code unit
  | .inl w =>
    match entryAt (d.stack s).cache r.tags.ast r.va with
    | some e => (d.wrap (TRN_HITS.HITS s) 1).resolve now l r w (some e) ecc
    | none => (d.wrap (TRN_MISSES.MISSES s) 1).onStack s fun t => { t with walks := t.walks ++ [⟨r, now⟩] }

/-- A request leaves the network. -/
def Dev.dropReq (d : Dev) (i : Nat) : Dev := d.onNet fun n => { n with reqs := dropAt n.reqs i }

/-- A move's target holds the requests for moved granules until the epoch before the switch has drained (R288). -/
def Dev.moveHolds (d : Dev) (l : Nat) : Bool := d.comp.twoLive && d.comp.moves.any fun m => m.dst == l && m.switched

/-- Does a stack's base-die ingress pass a request of an asterism: is no reset holding it (R453), or is the stack closed
to the asterism, so that the request faults at the ingress (R194)? -/
def Stack.takes (t : Stack) (a : Nat) : Bool := t.ingress || t.closed.contains a

/-- The stack takes request `i` of the network, when it is one of the given kind for a channel of a stack whose ingress
is open and has crossed every combining crossbar. -/
def Dev.stackTakes (d : Dev) (now i : Nat) (p : Acc → Bool) (ecc : Ecc) : Dev :=
  match d.net.reqs[i]? with
  | none => d
  | some r =>
    match r.dest with
    | .chan l _ _ =>
      if p r.acc && r.hop.isNone && (d.stack (chanStack l)).takes r.tags.ast && !d.moveHolds l then
        (d.dropReq i).arrive now l r ecc
      else d
    | _ => d

/-- STACK_READ. -/
def execStackRead (i : Nat) (ecc : Ecc) (s : State) := s.run fun now d => d.stackTakes now i (· == .read) ecc
/-- STACK_WRITE. -/
def execStackWrite (i : Nat) (ecc : Ecc) (s : State) := s.run fun now d => d.stackTakes now i (· == .write) ecc
/-- STACK_MASKED_WRITE. -/
def execStackMaskedWrite (i : Nat) (ecc : Ecc) (s : State) := s.run fun now d => d.stackTakes now i (· == .masked) ecc
/-- STACK_ADD. -/
def execStackAdd (i : Nat) (ecc : Ecc) (s : State) := s.run fun now d => d.stackTakes now i (· == .add) ecc
/-- FETCH_AND_ADD. -/
def execFetchAndAdd (i : Nat) (ecc : Ecc) (s : State) := s.run fun now d => d.stackTakes now i (· == .fetchAdd) ecc

/-! ### Walks (R174) -/

/-- Loss of a private region: 0x020D, and a package reset (R161). -/
def Dev.privateLost (d : Dev) (now s slot off cause : Nat) : Dev :=
  (d.raise 0x020D (stackUnit s) 0x02 .fatal [slot, off, cause]).requestReset now 5 (stackUnit s) 0x020D

/-- An entry joins the cache; a full cache gives up one of its entries, which one is not specified (R172). -/
def Dev.cacheEntry (d : Dev) (s k : Nat) (e : TEntry) : Dev :=
  if (d.stack s).cache.length < 262144 then d.onStack s fun t => { t with cache := Tbl.put t.cache k e }
  else
    let (v, d) := d.draw .choice
    d.onStack s fun t => { t with cache := Tbl.put (dropAt t.cache (v % 262144)) k e }

/-- What ECC finds as a walk reads a node: which channel and granule hold the node is not specified. -/
def Dev.walkEcc (d : Dev) (now s : Nat) : Ecc → Dev
  | .clean => d
  | .corrected =>
    let (v, d) := d.draw .choice
    d.eccCorrected now s (d.physChan (32 * s + v % 32)) (granOf privateBase + v / 32 % 49152)
  | .uncorrectable =>
    let (v, d) := d.draw .choice
    let g := granOf privateBase + v / 32 % 49152
    (d.eccPoison s (d.physChan (32 * s + v % 32)) g).privateLost now s (v % 32) (64 * g) 0x0202

/-- Walk `i` of a stack, one of the 64 under way, finishes: the request proceeds with the entry found, which the cache
keeps, or as a miss. -/
def Dev.walkDone (d : Dev) (now s i : Nat) (ecc : Ecc) : Dev :=
  match (d.stack s).walks[i]? with
  | none => d
  | some w =>
    if 64 ≤ i ∨ !(d.stack s).ingress then d
    else
      let d := (d.onStack s fun t => { t with walks := dropAt t.walks i }).walkEcc now s ecc
      let r := w.req
      match r.dest with
      | .chan l _ _ =>
        (match d.atSlot l r with
         | .inr (code, unit) => d.stackHard s r code unit
         | .inl x =>
           let e := entryAt (d.stack s).table r.tags.ast r.va
           let d := match e with | some (k, y) => d.cacheEntry s k y | none => d
           d.resolve now l r x e .clean)
      | _ => d

/-- WALK_COMPLETE. -/
def execWalkComplete (st i : Nat) (ecc : Ecc) (s : State) := s.run fun now d => d.walkDone now st i ecc

/-! ### Presence (R182, R183) -/

/-- A pending page leaves the list, and a notice goes to every die pair (R183, R184). -/
def Dev.endPending (d : Dev) (s tok : Nat) (n : Note) : Dev :=
  (d.onStack s fun t => { t with pend := Tbl.del t.pend tok }).notes (diePairs.map fun _ => n)

/-- PULL_COMPLETE: every granule in place, P is set in one table write, and the notice sent. -/
def Dev.pullDone (d : Dev) (s tok : Nat) : Dev :=
  match Tbl.find (d.stack s).pend tok with
  | none => d
  | some p =>
    if p.pull = some [] then
      let set := fun (t : Tbl TEntry) => Tbl.adj t p.page fun e => { e with p := true }
      (d.onStack s fun t => { t with table := set t.table, cache := set t.cache }).endPending s tok (.presence s tok)
    else d

/-- PULL_COMPLETE. -/
def execPullComplete (st token : Nat) (s : State) := s.run fun _ d => d.pullDone st token

/-! ### Patrol and refresh (R147, R148) -/

/-- Granules of a channel. -/
def chanGranules : Nat := 25165824

/-- PATROL_READ: the granule at the patrol pointer is read and corrected or poisoned. -/
def Dev.patrol (d : Dev) (now s : Nat) (ecc : Ecc) : Dev :=
  let p := (d.stack s).patrol
  let phys := s * 34 + p / chanGranules
  let g := p % chanGranules
  ((d.activate s phys g).eccRead now s phys g ecc).onStack s fun t => { t with patrol := (p + 1) % (34 * chanGranules) }

/-- PATROL_READ. -/
def execPatrolRead (st : Nat) (ecc : Ecc) (s : State) := s.run fun now d => d.patrol now st ecc

/-- The neighbours of a row. -/
def neighbours (row : Nat) : List Nat :=
  (if row % 2 ^ 15 = 0 then [] else [row - 1]) ++ (if row % 2 ^ 15 = 24575 then [] else [row + 1])

/-- TARGETED_REFRESH: a row activated 32,768 times has its neighbours refreshed. -/
def Dev.targetedRefresh (d : Dev) (s row : Nat) : Dev :=
  if Tbl.look 0 (d.stack s).acts row < 32768 then d
  else d.onStack s fun t => { t with
    acts := Tbl.put t.acts row 0, refreshed := t.refreshed + (neighbours row).length }

/-- TARGETED_REFRESH. -/
def execTargetedRefresh (st row : Nat) (s : State) := s.run fun _ d => d.targetedRefresh st row

/-! ### Temperature (R154 to R156) -/

/-- Deliverable rate of a band, in 0.1 % of peak (Table 5-4). -/
def bandDeliv (b : Nat) : Nat := [955, 910, 680, 450, 220].getD b 220

/-- Slots of a stack left RETIRED. -/
def Dev.retiredSlots (d : Dev) (s : Nat) : Nat := ((List.range 32).filter fun k => d.retired (32 * s + k)).length

/-- The deliverable fraction: its band's, lowered by a copy in progress and by 1/32 for each RETIRED slot (R155). -/
def Dev.deliverable (d : Dev) (s : Nat) : Nat :=
  let b := bandDeliv (d.get (STK_STATUS.BAND s)) - (if (d.stack s).copy.isSome then 50 else 0)
  b * (32 - d.retiredSlots s) / 32

/-- Set DELIV, and report a change to the admission controller of every die pair (R155). -/
def Dev.redeliver (d : Dev) (s : Nat) : Dev :=
  let v := d.deliverable s
  if v = d.get (STK_STATUS.DELIV s) then d
  else (d.set (STK_STATUS.DELIV s) v).notes (diePairs.map fun p => .deliverable s p)

/-- Threshold T1 to T4. -/
def Dev.bandFrom (d : Dev) (s b : Nat) : Nat :=
  match b with
  | 1 => d.get (STK_THERM_CTRL.T1 s)
  | 2 => d.get (STK_THERM_CTRL.T2 s)
  | 3 => d.get (STK_THERM_CTRL.T3 s)
  | _ => d.get (STK_THERM_CTRL.T4 s)

/-- The band of a temperature: entered at its threshold, left 2 °C below it (R154). -/
def Dev.bandAt (d : Dev) (s old t : Nat) : Nat :=
  let up := ([1, 2, 3, 4].filter fun b => d.bandFrom s b ≤ t).foldl max 0
  let keep := ([1, 2, 3, 4].filter fun b => b ≤ old && d.bandFrom s b < t + 2).foldl max 0
  max up keep

/-- The hottest die and its temperature. -/
def hottest (l : List Nat) : Nat × Nat :=
  l.zipIdx.foldl (fun m p => if p.1 > m.2 then (p.2, p.1) else m) (0, 0)

/-- THERMAL_READ: the temperatures of the DRAM dies set the band; band 2 or above wakes the package (R413). -/
def Dev.thermalRead (d : Dev) (s : Nat) (temps : List Nat) : Dev :=
  let (die, t) := hottest temps
  let old := d.get (STK_STATUS.BAND s)
  let b := d.bandAt s old t
  let trip := decide (d.get (STK_THERM_CTRL.TRIP s) ≤ t)
  let was := (d.stack s).trips
  let d := (d.set (STK_STATUS.TEMP s) (min t 255)).set (STK_STATUS.BAND s) b
  let d := (d.onStack s fun k => { k with trips := trip }).redeliver s
  let d := if 2 ≤ b then d.wakePkg 7 else d
  if trip then (if was then d else d.raise 0x020B (stackUnit s) 0x03 .fatal [b, die, t])
  else if old < b ∧ 2 ≤ b then d.raise 0x020B (stackUnit s) 0x03 .degraded [b, die, t]
  else d

/-- THERMAL_READ. -/
def execThermalRead (st : Nat) (temps : List Nat) (s : State) := s.run fun _ d => d.thermalRead st temps

/-- A report of a changed deliverable fraction reaches the admission controller of die pair `p`, which re-tests the
channels of the stack for the asterisms homed there (R155, R375). -/
def Dev.deliverableAt (d : Dev) (s p : Nat) : Dev :=
  if d.net.notes.contains (.deliverable s p) then
    let d := d.onNet fun n => { n with notes := n.notes.erase (.deliverable s p) }
    ((d.comp.asts.filter fun e => d.home e.1 == p).map (·.1)).foldl
      (fun d a => d.shedChannels a fun l => chanStack l == s) d
  else d

/-- DELIVERABLE_CHANGE. -/
def execDeliverableChange (st p : Nat) (s : State) := s.run fun _ d => d.deliverableAt st p

/-! ### Domain key slots (R150, R151, R476) -/

/-- A slot load takes effect: the key, VALID, and KGEN one further. -/
def Dev.loadSlot (d : Dev) (s n key : Nat) : Dev :=
  let d := d.onStack s fun t => { t with keys := Tbl.put t.keys n key }
  if n < 16 then
    (d.set (STK_KEYSTAT.VALID s) (d.get (STK_KEYSTAT.VALID s) ||| 2 ^ n)).setKgen s n ((d.kgen s n + 1) % 256)
  else d.set (STK_KEYSTAT.DEV_VALID s) 1

/-- KEY_SLOT_LOAD: load `i` on its way reaches its logic die. -/
def Dev.keyArrives (d : Dev) (i : Nat) : Dev :=
  match d.lcs.loads[i]? with
  | none => d
  | some (k, _, _, key) =>
    if (d.stack (k / 32)).ingress then
      ({ d with lcs := { d.lcs with loads := dropAt d.lcs.loads i } }).loadSlot (k / 32) (k % 32) key
    else d

/-- KEY_SLOT_LOAD. -/
def execKeySlotLoad (i : Nat) (s : State) := s.run fun _ d => d.keyArrives i

/-- A slot is cleared: not VALID, its key gone. -/
def Dev.clearSlot (d : Dev) (s n : Nat) : Dev :=
  (d.onStack s fun t => { t with keys := Tbl.del t.keys n }).set (STK_KEYSTAT.VALID s)
    (setBits (d.get (STK_KEYSTAT.VALID s)) n 1 0)

/-- Channels and slices whose LASTDOM is n and whose contents must be scrubbed before their next use. -/
def Dev.domUnits (d : Dev) (n : Nat) : Nat :=
  ((d.comp.chans.filter fun e => e.2.lastDom == n && e.2.dirty).length) +
    ((d.comp.slices.filter fun e => e.2.lastDom == n && e.2.dirty).length)

/-- KEY_SLOT_CLEAR: the slot of a retired domain is cleared; with the last of its slots 0x090A is recorded. -/
def Dev.keyClear (d : Dev) (s n : Nat) : Dev :=
  if n < 16 ∧ d.domRetired n ∧ d.slotValid s n then
    let d := d.clearSlot s n
    if allStacks.any fun k => d.slotValid k n then d else d.raise 0x090A moduleUnit 0x00 .info [n, d.domUnits n]
  else d

/-- KEY_SLOT_CLEAR. -/
def execKeySlotClear (st n : Nat) (s : State) := s.run fun _ d => d.keyClear st n

end Sys2Proof.Machine
end

