-- ==== Sys2Proof/Machine/Slices.lean ====
section
/-!
DEFINITION. The shared slices (R233 to R237).
-/

namespace Sys2Proof.Machine

/-- Die pair of a physical slice: 68 to each. -/
def sliceDp (k : Nat) : Nat := k / 68
/-- Unit of a slice. -/
def sliceUnit (k : Nat) : Nat := unitId 1 k

/-- Is a slice bound to an asterism under an epoch?  (R234) -/
def Dev.sliceBound (d : Dev) (t : Tags) (k : Nat) : Bool :=
  ((d.mapOf t.ast t.epoch).map fun m => m.slices.contains k).getD false

/-- A corrected word: counted, with 0x0406 at most once per slice per second (R237). -/
def Dev.sliceCorrected (d : Dev) (now k : Nat) : Dev :=
  let d := (d.wrap (XBR_SLICE.CE (sliceDp k)) 1).almCount (sliceUnit k) false
  let r := Tbl.find d.net.sliceCe k
  let since := (r.map (·.since)).getD 0 + 1
  let due := match r with | some r => decide (r.last + second ≤ now) | none => true
  if due then
    (d.onNet fun n => { n with sliceCe := Tbl.put n.sliceCe k ⟨now, 0⟩ }).raise 0x0406 (sliceUnit k) 0xFF .corrected [since]
  else d.onNet fun n => { n with sliceCe := Tbl.upd ⟨now, 0⟩ n.sliceCe k fun r => { r with since := since } }

/-- A double-bit error: the granule is poisoned and 0x0407 recorded (R237). -/
def Dev.slicePoison (d : Dev) (k g : Nat) : Dev :=
  let d := (d.sat (XBR_SLICE.UE (sliceDp k)) 1).almCount (sliceUnit k) true
  (d.setSgran (sliceKey k g) { d.sgran (sliceKey k g) with poison := true }).raise 0x0407 (sliceUnit k) 0xFF .contained [g]

/-- What SECDED finds as a granule is read. -/
def Dev.sliceEcc (d : Dev) (now k g : Nat) : Ecc → Dev
  | .clean => d
  | .corrected => d.sliceCorrected now k
  | .uncorrectable => if (d.sgran (sliceKey k g)).poison then d else d.slicePoison k g

/-- One access to one granule, whole: none where the granule is poisoned and the access reads it (R237). -/
def Dev.sliceTouch (d : Dev) (now k g : Nat) (acc : Acc) (mask va : Nat) (data : Line) (ecc : Ecc) : Dev × Option Line :=
  let key := sliceKey k g
  if acc = .write then (d.setSgran key ⟨data, false⟩, some 0)
  else
    let d := d.sliceEcc now k g ecc
    let old := d.sgran key
    if old.poison then (d, none)
    else match acc with
      | .masked => (d.setSgran key ⟨mergeBytes mask old.data data, false⟩, some 0)
      | .add => (d.setSgran key ⟨addElems mask old.data data, false⟩, some 0)
      | .fetchAdd => (d.setSgran key ⟨bumpWord (va % 64) old.data, false⟩, some old.data)
      | _ => (d, some old.data)

/-- A slice serves a request; one for a slice not bound to its asterism is a hard fault. -/
def Dev.sliceServe (d : Dev) (now k g : Nat) (r : Req) (ecc : Ecc) : Dev :=
  if !d.sliceBound r.tags k then d.hardFault r 0x0306 (svcUnit (sliceDp k))
  else match d.sliceTouch now k g r.acc r.mask r.va r.data ecc with
    | (d, some x) => d.answer r .ok x
    | (d, none) => d.answer r .poison

/-- Is request `i` the oldest in the network for its granule?  (R233) -/
def Dev.sliceFirst (d : Dev) (i k g : Nat) : Bool := !(d.net.reqs.take i).any fun r => r.dest == .slice k g

/-- A request reaches its slice. -/
def Dev.sliceTakes (d : Dev) (now i : Nat) (ecc : Ecc) : Dev :=
  match d.net.reqs[i]? with
  | some r =>
    (match r.dest with
     | .slice k g => if d.sliceFirst i k g && r.hop.isNone then (d.dropReq i).sliceServe now k g r ecc else d
     | _ => d)
  | none => d

/-- SLICE_ACCESS. -/
def execSliceAccess (i : Nat) (ecc : Ecc) (s : State) := s.run fun now d => d.sliceTakes now i ecc

/-- SLICE_SCRUB: a slice that crosses a domain is scrubbed (R19, R236). -/
def execSliceScrub (k : Nat) (s : State) := s.run fun _ d =>
  if d.comp.scrubbing.contains (sliceNo k) then d.scrubSlice k else d

end Sys2Proof.Machine
end

