-- ==== Sys2Proof/Machine/Tiles.lean ====
section
/-!
DEFINITION. Tiles on their cores: dispatch and replay (R66, R96, R371), start (R72), end (R86, R90, R91, R368), the
watchdog (R92), the errors of R63, core reset (R102, R103) and the cores' power states (R407).
-/

namespace Sys2Proof.Machine

/-! ### Which tile comes next (R371) -/

/-- Is a core bound, in service, idle and free to take a tile of its asterism? -/
def Core.free (k : Core) : Bool :=
  k.svc == .idle && k.tile.isNone && !k.gate && !k.capHeld && k.resetAt.isNone && k.bound.isSome

/-- The wave count left to a barrier's commands on a die pair. -/
def Dev.waveLeft (d : Dev) (b dp : Nat) : Nat :=
  ((d.net.wave.find? fun w => w.1 == b && w.2.1 == dp).map (·.2.2)).getD 0

/-- May a command start a tile on a core, leave apart?  The core is its asterism's under the current epoch (R282) and no
SPARE_SWAP waits for it (R291), its context is ACTIVE and resident (R341, R345), dispatch is not paused (R300),
CORES_MAX, DPMASK, credits and release waves allow it (R125, R250). -/
def Dev.mayStart (d : Dev) (m : Cmd) (c : Nat) : Bool :=
  m.moreTiles && m.onCores && (d.coresOf m.ast).contains c && (d.coreAt c).bound == some m.ast &&
  !(d.comp.swaps.any fun w => !w.slice && w.unit == c) && maskAllows (cmdMask m.slot) (coreDp c) &&
  (cmdCores m.slot == 0 || decide (m.running < cmdCores m.slot)) &&
  (match Tbl.find d.hif.ctxs m.ctx with | some x => x.state == .active && (x.resident || m.inBook) | none => false) &&
  !(d.ast m.ast).paused && (d.tileCredits m).isSome &&
  (match m.barrier with
   | some b => decide (0 < d.waveLeft b (coreDp c)) || !(d.net.barriers.any fun x => x.id == b)
   | none => true)

/-- The leave a command's tile would start with on a core: kept from its last tile there, granted to it, or the part
of its barrier's. -/
def Dev.leaveFor (d : Dev) (id : Nat) (m : Cmd) (c : Nat) : Option (Nat × Option Nat) :=
  let p := d.cmdLeave m (coreDp c)
  if p = 0 then some (0, none)
  else match (d.coreAt c).kept with
    | some (i, q, b) => if i = id then some (q, b) else
        (d.pwr.grants.find? fun g => g.why == LeaveFor.tile id c).map fun g => (g.p, g.booking)
    | none =>
      match m.barrier with
      | some b =>
        if 0 < d.waveLeft b (coreDp c) then
          (d.pwr.grants.find? fun g => g.why == LeaveFor.barrier b && g.dp == coreDp c).map fun g => (g.p, g.booking)
        else (d.pwr.grants.find? fun g => g.why == LeaveFor.tile id c).map fun g => (g.p, g.booking)
      | none => (d.pwr.grants.find? fun g => g.why == LeaveFor.tile id c).map fun g => (g.p, g.booking)

/-- Does a leave request of the command for the core wait? -/
def Dev.leaveWaits (d : Dev) (id c : Nat) : Bool := d.pwr.reqs.any fun r => r.why == LeaveFor.tile id c

/-- Does a command come before another?  Book first, by deadline; then by rank; then the earlier acceptance (R371). -/
def Dev.comesFirst (d : Dev) (x y : Nat × Cmd) : Bool :=
  if x.2.inBook && y.2.inBook then
    decide (x.2.deadline < y.2.deadline) || (x.2.deadline == y.2.deadline && decide (x.1 < y.1))
  else decide (d.rank x.2 > d.rank y.2) || (d.rank x.2 == d.rank y.2 && decide (x.1 < y.1))

/-- Is a command the next by R371 on a core?  Those that wait for leave are passed over. -/
def Dev.isNext (d : Dev) (id : Nat) (m : Cmd) (c : Nat) : Bool :=
  d.hif.cmds.all fun e => e.1 == id || !d.mayStart e.2 c || d.leaveWaits e.1 c || !d.comesFirst e (id, m)

/-! ### Sending a tile -/

/-- The tile as it is sent to a core: the sequencer's state is set at its start (R72). -/
def Cmd.tile (m : Cmd) (id t replays : Nat) (credits : List Nat) (leave : Nat) (booking : Option Nat) : Tile where
  own := { cmd := id, t := t, ast := m.ast, dom := m.dom, ctx := m.ctx, queue := m.queue, cls := m.cls, guar := m.guar
           replay := if hOp m.slot = 2 then xMode m.slot == 0 && xNoOvl m.slot else pReplay m.hdr
           dcost := m.resv.acc / 64
           progObj := tObj m.slot, progOff := tOff m.slot, progLen := pLen m.hdr }
  prog := []
  seg := none
  step := 0
  ar := []
  lc := []
  ins := []
  outs := []
  xq := []
  flags := 0
  seed := 0
  spad := []
  written := []
  acc := []
  valid := []
  engines := []
  cy := 0
  wdTicks := 0
  stallTicks := 0
  stallCycles := 0
  ended := false
  held := false
  replays := replays
  credits := credits
  used := [0, 0, 0, 0]
  leave := leave
  booking := booking
  retained := false
  xouts := 0
  activity := 0
  order := .init
  sent := []

/-- Send tile `t` of a command to a core, with its credits and leave: the core loads it, leaving Night first (R407). -/
def Dev.sendTile (d : Dev) (now id c : Nat) (m : Cmd) (t replays : Nat) (credits : List Nat) (leave : Nat)
    (booking : Option Nat) : Dev :=
  let k := d.coreAt c
  let d := d.onCore c fun k => { k with
    svc := .loading, tile := some (m.tile id t replays credits leave booking), waking := k.pwr == .night, kept := none }
  let d := match k.kept with
    | some (i, p, b) => if i = id then d else d.returnLeave (coreDp c) p b
    | none => d
  let d := { d with pwr := { d.pwr with grants := d.pwr.grants.filter fun g => g.why != LeaveFor.tile id c } }
  let d := match m.barrier with
    | some b =>
      let used := fun (w : Nat × Nat × Nat) => if w.1 = b ∧ w.2.1 = coreDp c then (w.1, w.2.1, w.2.2 - 1) else w
      let drawn := decide (0 < leave) && decide (0 < d.waveLeft b (coreDp c)) && k.kept.isNone
      let rest := fun (l : List LeaveGrant) => match takeFirst (fun g : LeaveGrant => g.why == LeaveFor.barrier b && g.dp == coreDp c) l with
        | some (_, l) => l
        | none => l
      (if drawn then { d with pwr := { d.pwr with grants := rest d.pwr.grants } } else d).onNet fun n =>
        { n with wave := n.wave.map used }
    | none => d
  let d := (d.onAst m.ast fun a => { a with tileAt := some now }).wrap (DSP_COUNTS.DISPATCHED (coreDp c)) 1
  d.onCmd id fun m => { m with running := m.running + 1, granted := List.zipWith (· + ·) m.granted credits }

/-- Ask for the leave of a command's tile on a core; the request waits for the governor (R425). -/
def Dev.askLeave (d : Dev) (id c : Nat) (m : Cmd) : Dev :=
  { d with pwr := { d.pwr with reqs := d.pwr.reqs ++ [{
      why := .tile id c, dp := coreDp c, ctx := m.ctx, p := d.cmdLeave m (coreDp c), committed := m.inBook }] } }

/-- Dispatch the next tile of a command to a core, its leave asked for where it holds none (R95, R371).  `again` says
whether the row is the one for tiles that run again. -/
def Dev.dispatch (d : Dev) (now id c : Nat) (again : Bool) : Dev :=
  match Tbl.find d.hif.cmds id with
  | none => d
  | some m =>
    if m.redo.isEmpty == again || !(d.coreAt c).free || !d.mayStart m c || !d.isNext id m c then d
    else match d.leaveFor id m c, d.tileCredits m with
      | some (p, b), some cr =>
        (match m.redo with
         | r :: l => ((d.sendTile now id c m r.t r.replays cr p b).onCmd id fun m => { m with redo := l }).sat
             (DSP_COUNTS.REPLAYS (coreDp c)) 1
         | [] => (d.sendTile now id c m m.next 0 cr p b).onCmd id fun m => { m with next := m.next + 1 }).dropLeave
      | none, some _ => if d.leaveWaits id c then d else d.askLeave id c m
      | _, _ => d

/-- Another free core could take the replay instead of the one it was aborted on (R96). -/
def Dev.otherFree (d : Dev) (m : Cmd) (c : Nat) : Bool :=
  (d.coresIn m.ast (cmdMask m.slot)).any fun k => k != c && (d.coreAt k).free && d.mayStart m k

/-- TILE_DISPATCH. -/
def execTileDispatch (id c : Nat) (s : State) := s.run fun now d => d.dispatch now id c false

/-- TILE_REPLAY: a replayed tile takes a core other than the one it was aborted on, where one is free (R96). -/
def Dev.replayTile (d : Dev) (now id c : Nat) : Dev :=
  match Tbl.find d.hif.cmds id with
  | some m => if (m.redo.head?.map (·.core)) = some c ∧ d.otherFree m c then d else d.dispatch now id c true
  | none => d

/-- TILE_REPLAY. -/
def execTileReplay (id c : Nat) (s : State) := s.run fun now d => d.replayTile now id c

/-! ### Start (R72) -/

/-- AR0 of tile t. -/
def tileAr0 (x : Line) (t : Nat) : Nat := (tBase x + t) % 2 ^ 32

/-- The sequencer's registers at tile start (Table 3-4). -/
def startRegs (x h : Line) (t : Nat) : List W32 :=
  [BitVec.ofNat 32 (tileAr0 x t), BitVec.ofNat 32 (tArg x)] ++
    ((List.range 12).map fun i => BitVec.ofNat 32 (fld h (0x10 + 4 * i) 0 32)) ++ [0, 0]

/-- The tile at its first step (R72); a segment tile starts its two streams (R129). -/
def Tile.start (t : Tile) (m : Cmd) : Tile :=
  let blank := { t with
    lc := List.replicate 4 0, ins := List.replicate 8 InStream.init, outs := List.replicate 8 OutStream.init
    engines := List.replicate 4 Engine.init }
  match m.segs with
  | none => { blank with
      prog := m.prog, ar := startRegs m.slot m.hdr t.own.t, seed := (tSeed m.slot + tileAr0 m.slot t.own.t) % 2 ^ 32 }
  | some j =>
    let lo := t.own.t * segBytes
    let hi := min j.src.total (lo + segBytes)
    let n := hi - lo
    { blank with
      seg := some { j with lo := lo, hi := hi }
      ended := true
      ar := List.replicate 16 0
      ins := modifyAt blank.ins 0 fun s => { s with
        issued := true, desc := some j.src, ring := 0, win := 96, total := n, t := ceilDiv n chunkBytes, run := 1 }
      outs := modifyAt blank.outs 0 fun o => { o with
        count := 1
        xouts := [{ id := 0, desc := j.dst, spa := 0, mode := j.mode, total := n, next := 0, segs := [], asking := false,
                    drops := 0 }] }
      xouts := 1 }

/-- The core has loaded the step list and registers and runs. -/
def Dev.startTile (d : Dev) (c : Nat) : Dev :=
  let k := d.coreAt c
  match k.svc, k.tile with
  | .loading, some t =>
    if k.waking then d
    else match Tbl.find d.hif.cmds t.own.cmd with
      | some m => d.onCore c fun k => { k with svc := .running, pwr := .run, tile := some (t.start m) }
      | none => d
  | _, _ => d

/-- TILE_START. -/
def execTileStart (c : Nat) (s : State) := s.run fun _ d => d.startTile c

/-- CORE_NIGHT_EXIT: the core wakes and the waiting dispatch proceeds (R407). -/
def execCoreNightExit (c : Nat) (s : State) := s.run fun _ d =>
  if (d.coreAt c).waking then d.onCore c fun k => { k with waking := false, pwr := .dusk } else d

/-! ### End (R86, R90, R91) -/

/-- Has the tile met R86? -/
def Tile.finished (t : Tile) : Bool := t.ended && t.xq.isEmpty && t.outs.all fun o => o.count == 0

/-- R368: an overrun by more than 25 % raises INFL, with 0x050A at most once per context per second. -/
def Dev.raiseInfl (d : Dev) (now a ctx num den : Nat) : Dev :=
  match Tbl.find d.hif.ctxs ctx with
  | none => d
  | some x =>
    let want := ceilDiv (64 * num) (max 1 den)
    let infl := min 256 (max x.infl want)
    let due := match x.inflRec with | some t => decide (t + second ≤ now) | none => true
    let d := d.onCtx ctx fun x => { x with infl := infl, overruns := x.overruns + 1, clean := 0, decays := 0 }
    if (x.infl < infl || 256 < want) && due then
      (d.onCtx ctx fun x => { x with inflRec := some now }).raise 0x050A (svcUnit (d.home a)) 0 .info
        [a, ctx, infl, (decide (256 < want)).toNat] (some (a, ctx))
    else d

/-- A tile has overrun its accounted cost: the exception is noted against its own command and every committed command
of the asterism (R351). -/
def Dev.noteOverrun (d : Dev) (id a : Nat) : Dev :=
  d.onHif fun h => { h with cmds := Tbl.mapV (fun i m =>
    if i == id || (m.inBook && m.ast == a) then m.note .coreTime else m) h.cmds }

/-- The tile on a core ends: MC is reported, the core enters Dusk, credits return, leave stays with a command that has
a next tile (R89, R90, R426).  `cycles` are the core cycles received since the last tick, `uj` the energy measured. -/
def Dev.endTile (d : Dev) (now c cycles uj : Nat) : Dev :=
  match d.worker c with
  | none => d
  | some t =>
    if !t.finished then d
    else
      let id := t.own.cmd
      let mc := ceilDiv ((t.cy + cycles) * 10) 27
      let late := decide (5 * t.own.dcost < 4 * mc)
      let more := match Tbl.find d.hif.cmds id with | some m => m.moreTiles | none => false
      let accounted := match Tbl.find d.hif.cmds id with | some m => m.resv.acc / 64 | none => t.own.dcost
      let keep := decide (0 < t.leave) && more
      let d := d.dropTile now c (if keep then { t with leave := 0, booking := none } else t) .idle
      let d := d.onCore c fun k => { k with
        lastMc := mc % 2 ^ 32, tiles := wrapAdd 32 k.tiles 1
        overruns := if late then satAdd 16 k.overruns 1 else k.overruns
        kept := if keep then some (id, t.leave, t.booking) else none }
      let d := d.onCmd id fun m => { m with ended := m.ended + 1, energy := m.energy + uj }
      let d := if accounted < mc then d.noteOverrun id t.own.ast else d
      let d := if late then d.raiseInfl now t.own.ast t.own.ctx mc t.own.dcost
        else d.onCtx t.own.ctx fun x => { x with clean := x.clean + 1 }
      ((d.endTiles now id).after now)

/-- TILE_END. -/
def execTileEnd (c cycles uj : Nat) (s : State) := s.run fun now d => d.endTile now c cycles uj

/-- INFL_DECAY: one step down for every 64 × DECAY tile ends without overrun (R368). -/
def execInflDecay (ctx : Nat) (s : State) := s.run fun _ d =>
  d.onCtx ctx fun x =>
    if (x.decays + 1) * (64 * d.get ADM_CTRL.DECAY) ≤ x.clean then
      { x with infl := max 64 (x.infl - 1), decays := x.decays + 1 }
    else x

/-! ### Watchdog and errors (R63, R92) -/

/-- TILE_WATCHDOG: 400 ticks, not counting the stalled ones. -/
def Dev.watchdog (d : Dev) (now c : Nat) : Dev :=
  let k := d.coreAt c
  match k.tile with
  | none => d
  | some t =>
    if t.wdTicks < d.get ADM_TILE_LIMIT.WATCHDOG ∨ k.svc = .stalled ∨ k.svc = .fenced then d
    else ((d.sat (DSP_COUNTS.WATCHDOGS (coreDp c)) 1).raise 0x0102 (coreUnit c) 0x06 .contained [t.step, k.svc.code]
      (some (t.own.ast, t.own.ctx))).startReset now c .watchdog .watchdog 0x0102

/-- TILE_WATCHDOG. -/
def execTileWatchdog (c : Nat) (s : State) := s.run fun now d => d.watchdog now c

/-- An error of R63 in a core that holds a tile. -/
def Dev.coreError (d : Dev) (now c code sub : Nat) (det : List Nat) (cause : ResetCause) : Dev :=
  match d.worker c with
  | none => d
  | some t =>
    ((d.almCount (coreUnit c) true).raise code (coreUnit c) sub .contained det (some (t.own.ast, t.own.ctx))).startReset now c
      cause .error code

/-- SPAD_UE: a double-bit error in a scratchpad line. -/
def execSpadUe (c line : Nat) (s : State) := s.run fun now d =>
  d.coreError now c 0x0104 0x07 [line % 6144 * 64] .spadUe
/-- ENGINE_PARITY: in an accumulator file or engine datapath. -/
def execEngineParity (c eng row : Nat) (s : State) := s.run fun now d =>
  d.coreError now c 0x0105 (eng % 4) [eng % 4, row % 256] .parity

/-! ### Core reset (R102, R103) -/

/-- Steps 1 to 3 for a core not yet fenced: a tile it holds is aborted. -/
def Dev.fenceCore (d : Dev) (now c : Nat) (cause : ResetCause) (k : Abort) (err : Nat) : Dev :=
  if (d.coreAt c).resetAt.isSome then d else d.startReset now c cause k err

/-- A core fails: FAILED, and recorded in the Almanac (R103). -/
def Dev.failCore (d : Dev) (c : Nat) : Dev :=
  let d := d.onCore c fun k => { k with svc := .failed, tile := none, pwr := .night, resetAt := none, waking := false }
  (d.almEntry (coreUnit c) 0x0106).almMark (coreUnit c) .failed

/-- Firmware notes the level and the cause of the last reset. -/
def Dev.resetStatus (d : Dev) (level cause : Nat) : Dev := (d.set RAS_RESET_STATUS.LEVEL level).set RAS_RESET_STATUS.CAUSE cause

/-- The error code that causes a core reset; 0 for RAS_RESET_CTRL. -/
def ResetCause.err : ResetCause → Nat
  | .watchdog => 0x0102 | .spadUe => 0x0104 | .parity => 0x0105 | .sparSwap => 0x0106 | .resetCtrl => 0
  | .recovery => 0x05C8 | .service => 0x0A09

/-- Steps 4 to 6: the core is cycled, self-tested and back in service in Night; a SPARE_SWAP counts its self-test as
failed (R291). -/
def Dev.resetDone (d : Dev) (c : Nat) : Dev :=
  let k := d.coreAt c
  match k.resetAt with
  | none => d
  | some _ =>
    if k.resetCause = .sparSwap then
      (d.raise 0x0106 (coreUnit c) 0xFF .contained [k.resetCause.code, 1]).failCore c
    else
      ((d.onCore c fun k => { k with
        svc := .idle, pwr := .night, gate := false, tile := none, resets := satAdd 8 k.resets 1, resetAt := none
        waking := false }).resetStatus 1 k.resetCause.err).raise 0x0106 (coreUnit c) 0xFF .contained [k.resetCause.code, 0]

/-- CORE_RESET. -/
def execCoreReset (c : Nat) (s : State) := s.run fun _ d => d.resetDone c

/-- CORE_RESET_TIMEOUT: step 6 not done at 2 ms, or the self-test failed. -/
def Dev.coreFailed (d : Dev) (c : Nat) : Dev := if (d.coreAt c).resetAt.isNone then d else d.failCore c

/-- CORE_RESET_TIMEOUT. -/
def execCoreResetTimeout (c : Nat) (s : State) := s.run fun _ d => d.coreFailed c

/-- FENCE_UNCONFIRMED: the gate of a core being fenced does not confirm; a package reset starts (R451). -/
def execFenceUnconfirmed (c : Nat) (s : State) := s.run fun now d =>
  if (d.coreAt c).resetAt.isNone then d
  else (d.raise 0x0A07 (svcUnit (coreDp c)) 0x03 .fatal [c]).requestReset now 5 (svcUnit (coreDp c)) 0x0A07

/-! ### Night (R407) -/

/-- CORE_NIGHT: NIGHT_AFTER_US in Dusk, unless the asterism's book holds a command or it had a tile lately. -/
def Dev.coreNight (d : Dev) (now c : Nat) : Dev :=
  let k := d.coreAt c
  let after := d.get PWR_CTRL.NIGHT_AFTER_US * 1000
  let kept := match k.bound with
    | some a => !(d.book a).isEmpty || (match (d.ast a).tileAt with | some t => decide (now < t + after) | none => false)
    | none => false
  if k.tile.isNone && k.pwr == .dusk && k.svc == .idle && decide (k.duskAt + after ≤ now) && !kept then
    let d := d.onCore c fun k => { k with pwr := .night, kept := none }
    match k.kept with
    | some (_, p, b) => d.returnLeave (coreDp c) p b
    | none => d
  else d

/-- CORE_NIGHT. -/
def execCoreNight (c : Nat) (s : State) := s.run fun now d => d.coreNight now c

end Sys2Proof.Machine
end

