-- ==== Sys2Proof/Machine/Sweep.lean ====
section
/-!
DEFINITION. Attention sweep (R206 to R227): job slots, distribution, scoring, the merge, the destination and the end of
a sweep.
-/

namespace Sys2Proof.Machine

/-! ### Ending (R227) -/

/-- A sweep ends by a fault: its job is dropped and its command completes, its context faulted. -/
def Dev.failSweep (d : Dev) (now job : Nat) (st : CStatus) (err : Nat) : Dev :=
  match Tbl.find d.hif.cmds job with
  | none => d.endSweep job
  | some m =>
    let d := (d.endSweep job).onCmd job fun m => { m with err := err }
    let d := d.faultCtx m.ctx
    (d.finish now job st).after now

/-- Outcome of a hard fault with a code. -/
def hardOutcome (code : Nat) : CStatus := if code = 0x0307 then .poolLost else .faulted

/-- The tags of a job's requests now: those of the command, under the epoch of the home die pair (R215, R226). -/
def Dev.sweepTags (d : Dev) (j : SweepJob) : Tags := { j.tags with epoch := d.epochAt j.home }

/-- A request of the distributor, or of a stack's sweep unit. -/
def Dev.sweepReq (d : Dev) (now job : Nat) (j : SweepJob) (who : Agent) (acc : Acc) (epoch va : Nat) : Req where
  who := who
  acc := acc
  va := va
  tags := { j.tags with epoch := epoch }
  dest := .chan 0 0 0
  data := 0
  mask := 0
  hop := none
  guar := ((Tbl.find d.hif.cmds job).map (·.guar)).getD false
  born := now
  esc := 0
  queue := ((Tbl.find d.hif.cmds job).map (·.queue)).getD 0
  slot := match Tbl.find d.hif.cmds job with
    | some m => ((Tbl.find d.hif.queues m.queue).map fun q => m.pos % 2 ^ q.log2n).getD 0
    | none => 0

/-- A read or write of the distributor faults: a soft fault leaves a record and the access is tried again; a hard one
ends the sweep. -/
def Dev.sweepFault (d : Dev) (now job : Nat) (j : SweepJob) (acc : Acc) (code va : Nat) : Dev :=
  let r := d.sweepReq now job j (.reducer j.home 0) acc (d.epochAt j.home) va
  let soft := code == 0x030D || code == 0x030E
  let d := d.fault ⟨d.faultRec r code (svcUnit j.home) soft false, none, if soft then .retry else .hard code⟩
  if soft then d else d.failSweep now job (hardOutcome code) code

/-- Change a job. -/
def Dev.onSweep (d : Dev) (job : Nat) (f : SweepJob → SweepJob) : Dev := { d with sweeps := Tbl.adj d.sweeps job f }

/-- Change one stack's part of a job. -/
def SweepJob.onPart (j : SweepJob) (s : Nat) (f : SweepPart → SweepPart) : SweepJob :=
  { j with parts := j.parts.map fun p => if p.stack = s then f p else p }

/-- Change one stack's part of a job. -/
def Dev.onPart (d : Dev) (job s : Nat) (f : SweepPart → SweepPart) : Dev := d.onSweep job fun j => j.onPart s f

/-- One stack's part of a job. -/
def SweepJob.part (j : SweepJob) (s : Nat) : Option SweepPart := j.parts.find? fun p => p.stack == s

/-! ### Job slots (R206) -/

/-- Active jobs of a stack. -/
def Dev.activeJobs (d : Dev) (s : Nat) : Nat :=
  (d.sweeps.filter fun e => e.2.parts.any fun p => p.active && p.stack == s).length

/-- Does a sweep that arrived earlier wait at the stack? -/
def Dev.waitsBefore (d : Dev) (job s : Nat) : Bool :=
  d.sweeps.any fun e => decide (e.1 < job) && e.2.parts.any fun p => !p.active && p.stack == s

/-- A stack takes a job: it works on up to four, in arrival order. -/
def Dev.startJob (d : Dev) (job s : Nat) : Dev :=
  if d.activeJobs s < 4 && !d.waitsBefore job s then d.onPart job s fun p => { p with active := true } else d

/-- SWEEP_JOB_START. -/
def execSweepJobStart (job st : Nat) (s : State) := s.run fun _ d => d.startJob job st

/-! ### Distribution (R210, R215) -/

/-- A query row's address (R211). -/
def queryVa (x : Line) (i : Nat) : Nat := wQaddr x + i * wPitch x

/-- The query rows, as read. -/
def Dev.readQuery (d : Dev) (t : Tags) (x : Line) : (Nat × Nat) ⊕ List (List Byte) :=
  match d.peekBytes t (wQaddr x) (wEntries x * wPitch x) with
  | .inl c => .inl c
  | .inr bs => .inr ((List.range (wEntries x)).map fun i => (bs.drop (i * wPitch x)).take (wPitch x))

/-- The rows of a part before its first block: m = −∞, l and o zero. -/
def blankRows (x : Line) : List SweepRow := List.replicate (wEntries x) ⟨0xFF800000, 0, List.replicate (wD x) 0⟩

/-- Blocks granted to a part. -/
def SweepPart.granted (p : SweepPart) : Nat := p.blocks + p.queue.length + p.aside.length + p.stream.length

/-- Blocks on a part's set-aside list. -/
def SweepPart.heldBlocks (p : SweepPart) : Nat := p.aside.length + p.stream.length

/-- Has a part no granted block left? -/
def SweepPart.idle (p : SweepPart) : Bool := p.queue.isEmpty && p.aside.isEmpty && p.stream.isEmpty

/-- A part that has done its last block sends its row maxima (R221). -/
def Dev.sendMaxima (d : Dev) (job : Nat) : Dev :=
  match Tbl.find d.sweeps job with
  | none => d
  | some j =>
    if j.phase ≠ .merging then d
    else
      let ready := (j.parts.filter fun p => p.idle && !p.maxSent).map (·.stack)
      (d.notes (ready.map fun s => .maxima job s)).onSweep job fun j =>
        { j with parts := j.parts.map fun p => if ready.contains p.stack then { p with maxSent := true } else p }

/-- R370 for one part: more than 1.25 times the declared blocks count as an overrun by more than 25 %. -/
def Dev.partOverrun (d : Dev) (now : Nat) (j : SweepJob) (p : SweepPart) : Dev :=
  let decl := 16 * wMaxBlk j.slot
  if 5 * decl < 4 * p.granted then d.raiseInfl now j.tags.ast j.tags.ctx p.granted decl else d

/-- Distribution has ended: stacks without a grant take no part, and the merge or the records follow. -/
def Dev.endGrants (d : Dev) (now job : Nat) (j : SweepJob) : Dev :=
  let parts := j.parts.filter fun p => decide (0 < p.granted)
  let out := (j.parts.filter fun p => p.granted == 0 && p.active).map (·.stack)
  let d := d.onSweep job fun j => { j with
    parts := parts, phase := if wMerge j.slot && !parts.isEmpty then .merging else .writing }
  let idle := out.filter fun s => d.activeJobs s == 0
  let d := idle.foldl (fun d s => d.dropSweepLeave s) d
  let d := { d with pwr := { d.pwr with
    reqs := d.pwr.reqs.filter fun r => match r.why with | .sweep k _ => k != job | _ => true } }
  (parts.foldl (fun d p => d.partOverrun now j p) d).sendMaxima job

/-- Leave of a stack for a job: held, or asked for (R424). -/
def Dev.sweepLeaveFor (d : Dev) (job s : Nat) (j : SweepJob) : Bool × Dev :=
  if (Tbl.find d.pwr.sweepLeave s).isSome then (true, d)
  else if d.pwr.reqs.any fun r => match r.why with | .sweep _ k => k == s | _ => false then (false, d)
  else
    let committed := ((Tbl.find d.hif.cmds job).map (·.inBook)).getD false
    (false, { d with pwr := { d.pwr with reqs := d.pwr.reqs ++ [{
      why := .sweep job s, dp := stackDp s, ctx := j.tags.ctx, p := 110000, committed := committed }] } })

/-- The next block of the list, in head-major order. -/
def SweepJob.advance (j : SweepJob) : SweepJob :=
  if j.blk + 1 < wLo j.slot + wCount j.slot then { j with blk := j.blk + 1 }
  else { j with head := j.head + 1, blk := wLo j.slot }

/-- A grant reaches a stack; more than the accounted blocks note an exception (R370). -/
def Dev.grantTo (d : Dev) (job s : Nat) (j : SweepJob) (va epoch : Nat) : Dev :=
  let g : Grant := { head := j.head, blk := j.blk, va := va, epoch := epoch, hold := none }
  let n := ((j.part s).map (·.granted)).getD 0 + 1
  let infl := ((Tbl.find d.hif.ctxs j.tags.ctx).map (·.infl)).getD 64
  let d := d.onPart job s fun p => { p with queue := p.queue ++ [g] }
  if 16 * wMaxBlk j.slot * infl < 64 * n then d.onCmd job fun m => m.note .coreTime else d

/-- A list entry goes to its stack: the job is active there, its grant queue has room, its leave is held (R206, R215,
R225, R424). -/
def Dev.routeGrant (d : Dev) (now job : Nat) (j : SweepJob) (va : Nat) : Dev :=
  let e := d.epochAt j.home
  match (d.mapOf j.tags.ast e).bind (·.route va) with
  | none => d.sweepFault now job j .read 0x0301 va
  | some r =>
    let s := chanStack r.l
    match j.part s with
    | none => d.onSweep job fun j => { j with parts := sortBy (fun p q => decide (p.stack ≤ q.stack)) (SweepPart.init s :: j.parts) }
    | some p =>
      if !p.active || decide (1024 ≤ p.queue.length) || decide (65536 ≤ p.heldBlocks) then d
      else
        let (held, d) := d.sweepLeaveFor job s j
        if !held then d
        else
          let d := (d.grantTo job s j va e).onSweep job SweepJob.advance
          match Tbl.find d.sweeps job with
          | some k => if wHeads k.slot ≤ k.head then d.endGrants now job k else d
          | none => d

/-- Read one entry of the block list and grant it (R210, R215). -/
def Dev.nextGrant (d : Dev) (now job : Nat) (j : SweepJob) : Dev :=
  let at_ := wList j.slot + 8 * (j.head * wNblk j.slot + j.blk)
  match d.peekBytes (d.sweepTags j) at_ 8 with
  | .inl (code, va) => d.sweepFault now job j .read code va
  | .inr bs =>
    let e := ofBytes bs
    let va := e % 2 ^ 56
    if e / 2 ^ 56 ≠ 0 ∨ va % 4096 ≠ 0 then
      (d.raise 0x0122 (svcUnit j.home) 0 .contained [j.head, j.blk] (some (j.tags.ast, j.tags.ctx))).failSweep now job
        .faulted 0x0122
    else d.routeGrant now job j va

/-- One step of the distributor. -/
def Dev.distribute (d : Dev) (now job : Nat) : Dev :=
  match Tbl.find d.sweeps job with
  | none => d
  | some j =>
    if j.phase ≠ .granting then d
    else if wCount j.slot = 0 then d.endGrants now job j
    else if j.queried then d.nextGrant now job j
    else match d.readQuery (d.sweepTags j) j.slot with
      | .inl (code, va) => d.sweepFault now job j .read code va
      | .inr q => d.onSweep job fun j => { j with
          query := q, queried := true, parts := j.parts.map fun p => { p with rows := blankRows j.slot } }

/-- SWEEP_GRANT. -/
def execSweepGrant (job : Nat) (s : State) := s.run fun now d => d.distribute now job

/-! ### Scoring (R60, R209, R216) -/

/-- The element format of a sweep. -/
def wFormat (x : Line) : Fmt := (Fmt.ofCode (wFmt x)).getD .e4m3

/-- The elements of a vector's bytes. -/
def vecElems (f : Fmt) (bs : List Byte) (n : Nat) : List Num :=
  (List.range n).map fun i => f.elem.decode (bits (ofBytes bs) (i * f.width) f.width)

/-- A vector of a block or a query row: its elements and its scale bytes. -/
def sweepLine (x : Line) (elems scales : List Byte) : MmaLine where
  elems := vecElems (wFormat x) elems (wD x)
  scales := if (wFormat x).block then scales.map BitVec.toNat else []

/-- Part of a list of bytes. -/
def slice (bs : List Byte) (o n : Nat) : List Byte := (bs.drop o).take n

/-- Key of token j of a block. -/
def keyLine (x : Line) (blk : List Byte) (j : Nat) : MmaLine :=
  sweepLine x (slice blk (j * wE x) (wE x)) (slice blk (wTpb x * wE x + j * wC x) (wC x))

/-- Value of token j of a block. -/
def valueLine (x : Line) (blk : List Byte) (j : Nat) : MmaLine :=
  sweepLine x (slice blk (wTpb x * (wE x + wC x) + j * wE x) (wE x))
    (slice blk (wTpb x * (2 * wE x + wC x) + j * wC x) (wC x))

/-- A query row. -/
def queryLine (x : Line) (row : List Byte) : MmaLine := sweepLine x (row.take (wE x)) (slice row (wE x) (wC x))

/-- SCALE × Σ q k, accumulated as an MMA and rounded once more by the factor. -/
def score (x : Line) (pick : Nat → Nat) (q k : MmaLine) : Nat :=
  (vMul .rne false (wScale x) (mmaDot (wFormat x) (wFormat x) false pick q k 0).1).1

/-- exp(a − b) with the accuracy of EXP. -/
def expDiff (fr a b : Nat) : Nat := (vTransc 0x11 fr false (vSub .rne false a b).1).1

/-- A weight rounded for its use: FP8 E4M3 of 256 p, or BF16. -/
def roundWeight (f : Fmt) (p : Nat) : Num :=
  if f = .bf16 then Fmt.bf16.decode (Fmt.bf16.convert false .rne false 0 (fp32 p)).1
  else Num.scale (-8) (Fmt.e4m3.decode (Fmt.e4m3.convert false .rne false 0 (Num.scale 8 (fp32 p))).1)

/-- Value element i of a token, with its scale where the format has one. -/
def MmaLine.value (f : Fmt) (v : MmaLine) (i : Nat) : Num :=
  let e := v.elems.getD i (.zero false)
  if f.block then
    let c := v.scales.getD (i / 32) 127
    if c = 0xFF then .nan else Num.scale ((c : Int) - 127) e
  else e

/-- Groups of products of weights and one value element over a block's tokens: 32 to a group, 16 for BF16 (R60); BS8
and BF16 sums are aligned and truncated (R51, R216). -/
def weightGroups (f : Fmt) : Nat → List Num → List (Num × Bool)
  | 0, _ => []
  | n + 1, ps =>
    let g := if f = .bf16 then 16 else 32
    if ps.isEmpty then []
    else (groupSum (f != .bf16 && !f.block) (ps.take g), (ps.take g).any Num.isNan) :: weightGroups f n (ps.drop g)

/-- c × a, rounded, then the groups added one at a time (R51). -/
def accumulate (pick : Nat → Nat) (c a : Nat) (gs : List (Num × Bool)) : Nat :=
  (accGroups false pick (gs.length + 1) 0 gs (vMul .rne false a c).1 0).1

/-- One row over one block (R216): `ts` lists the tokens in range with their keys and values; `fr` gives the free
values of the row. -/
def SweepRow.update (x : Line) (fr : Nat → Nat) (pick : Nat → Nat) (q : MmaLine) (ts : List (MmaLine × MmaLine))
    (r : SweepRow) : SweepRow :=
  match ts with
  | [] => r
  | _ =>
    let f := wFormat x
    let s := ts.map fun t => score x pick q t.1
    let mn := s.foldl (fun a b => (vMax false a b).1) r.m
    let c := if r.m = 0xFF800000 then 0 else expDiff (fr 0) r.m mn
    let w := s.zipIdx.map fun (v, i) => roundWeight f (expDiff (fr (i + 1)) v mn)
    { m := mn
      l := accumulate pick c r.l (weightGroups f w.length w)
      o := r.o.zipIdx.map fun (a, i) =>
        let ps := List.zipWith (fun wt (t : MmaLine × MmaLine) => mmaProduct f wt (t.2.value f i)) w ts
        accumulate pick c a (weightGroups f ps.length ps) }

/-- Tokens of block b in range, with keys and values. -/
def tokensOf (x : Line) (blk : List Byte) (b : Nat) : List (MmaLine × MmaLine) :=
  ((List.range (wTpb x)).filter fun j =>
    decide (wFirst x ≤ b * wTpb x + j) && decide (b * wTpb x + j < wLen x)).map fun j => (keyLine x blk j, valueLine x blk j)

/-- Rows of a part after a block of head h. -/
def scoreBlock (x : Line) (free : Free → Nat → Nat) (query : List (List Byte)) (h b : Nat) (blk : List Byte)
    (rows : List SweepRow) : List SweepRow :=
  let ts := tokensOf x blk b
  rows.zipIdx.map fun (r, i) =>
    if i / wRows x = h then
      r.update x (fun k => free .ulpError (64 * i + k)) (fun k => free .groupOrder (1024 * i + k))
        (queryLine x (query.getD i [])) ts
    else r

/-- Stack cycles of compute per block, rounded up (R207). -/
def blockCycles (x : Line) : Nat :=
  ceilDiv (2 * wRows x * wTpb x * wD x * (if wFmt x = 2 then 2 else 1)) 16384

/-- A block has been read: it is scored and counted. -/
def Dev.scored (d : Dev) (job s : Nat) (j : SweepJob) (g : Grant) (blk : List Byte) (pool : Bool) : Dev :=
  let free := fun k i => Config.free k d.fresh i
  let d := { d with fresh := d.fresh + 1 }
  let d := d.onPart job s fun p => { p with
    rows := scoreBlock j.slot free j.query g.head g.blk blk p.rows
    blocks := p.blocks + 1, poolBlk := p.poolBlk + pool.toNat }
  let d := (d.wrap (SWP_BLOCKS.BLOCKS s) 1).wrap (SWP_BUSY.CYCLES s) (blockCycles j.slot)
  (if pool then d.wrap (SWP_POOL.POOLBLK s) 1 else d).sendMaxima job

/-! ### Streams from a pool (R223) -/

/-- Staging key of a line of a block. -/
def stageKey (g : Grant) (i : Nat) : Nat := g.head * 2 ^ 46 + g.blk * 64 + i

/-- Is a block's stream read outstanding? -/
def Dev.streaming (d : Dev) (job s : Nat) (g : Grant) : Bool :=
  d.cxl.pool.any fun r => r.stack == s && (match r.why with | .stream j h b _ => j == job && h == g.head && b == g.blk | _ => false)

/-- Is a block complete in the staging buffer? -/
def SweepPart.staged (p : SweepPart) (g : Grant) : Bool := (List.range 64).all fun i => (Tbl.find p.staging (stageKey g i)).isSome

/-- Has a stream read been asked for? -/
def Dev.streamAsked (d : Dev) (job s : Nat) (p : SweepPart) (g : Grant) : Bool := d.streaming job s g || p.staged g

/-- Stream reads of a job outstanding at a stack, at most 512, are kept up: the oldest set-aside block not yet asked for
is asked for, 256 bytes at a time. -/
def Dev.feedStream (d : Dev) (now job s : Nat) : Dev :=
  match (Tbl.find d.sweeps job).bind (·.part s) with
  | none => d
  | some p =>
    if 512 ≤ (p.stream.filter (d.streaming job s)).length then d
    else match p.stream.find? fun g => !d.streamAsked job s p g with
      | none => d
      | some g =>
        match (Tbl.find d.sweeps job).bind fun j => entryAt (d.stack s).table j.tags.ast g.va with
        | none => d
        | some (k, e) =>
          let q := (g.va - tkeyVa k) / 4096
          d.askPool now ((List.range 16).map fun u => d.poolReq (.stream job g.head g.blk u) s e (q * 16 + u))

/-- A block whose page lies only in the pool is streamed. -/
def Dev.setStream (d : Dev) (now job s : Nat) (g : Grant) : Dev :=
  (d.onPart job s fun p => { p with stream := p.stream ++ [g] }).feedStream now job s

/-- A streamed block has arrived whole. -/
def Dev.streamedBlock (d : Dev) (now job s : Nat) (j : SweepJob) (p : SweepPart) (g : Grant) : Dev :=
  let blk := lineBytes ((List.range 64).map fun i => Tbl.look 0 p.staging (stageKey g i))
  let d := d.onPart job s fun p => { p with
    stream := p.stream.erase g
    staging := p.staging.filter fun e => !(decide (stageKey g 0 ≤ e.1) && decide (e.1 < stageKey g 64)) }
  (d.scored job s j g blk true).feedStream now job s

/-! ### One block (R216, R223, R225) -/

/-- Read the 64 granules of a block that starts at a channel offset. -/
def Dev.readBlock (now l off : Nat) (who : Access) : Nat → Nat → Dev → Dev × (Nat ⊕ List Line)
  | 0, _, d => (d, .inr [])
  | n + 1, i, d =>
    match d.readGran now l (off + 64 * i) who .clean with
    | (d, .inl code) => (d, .inl code)
    | (d, .inr x) =>
      match Dev.readBlock now l off who n (i + 1) d with
      | (d, .inl code) => (d, .inl code)
      | (d, .inr xs) => (d, .inr (x :: xs))

/-- Does a COMPAT page fail to fit the sweep's format (R402)? -/
def Dev.compatBad (d : Dev) (x : Line) (e : TEntry) : Bool := e.pool && d.poolCompat e.pidx && !(wFmt x == 3 && wD x == 128)

/-- The translation unit looks an address up for its sweep unit (R172, R179). -/
def Dev.sweepEntry (d : Dev) (s a va : Nat) : Dev × Option (Nat × TEntry) :=
  match entryAt (d.stack s).cache a va with
  | some e => (d.wrap (TRN_HITS.HITS s) 1, some e)
  | none =>
    let d := d.wrap (TRN_MISSES.MISSES s) 1
    match entryAt (d.stack s).table a va with
    | some (k, e) => (d.cacheEntry s k e, some (k, e))
    | none => (d, none)

/-- A grant, already taken from its list, is read through translation: scored, set aside, streamed or faulted. -/
def Dev.readGrant (d : Dev) (now job s : Nat) (j : SweepJob) (g : Grant) : Dev :=
  let r := d.sweepReq now job j (.sweep job s) .sweepRead g.epoch g.va
  match (d.mapOf j.tags.ast g.epoch).bind (·.route g.va) with
  | none => d.stackHard s r 0x0306
  | some w =>
    if chanStack w.l ≠ s then d.stackHard s r 0x0306
    else match d.atSlot w.l r with
    | .inr (code, unit) => d.stackHard s r code unit
    | .inl w =>
      let (d, e) := d.sweepEntry s j.tags.ast g.va
      match d.entryVerdict r.tags .sweepRead w.l g.va w (e.map (·.2)) with
      | .hard code => d.stackHard s r code
      | .redirect _ _ => d.stackHard s r 0x0303
      | .soft code =>
        (match e with
         | some (k, x) =>
           if d.compatBad j.slot x then
             (d.raise 0x070D (stackUnit s) 0x01 .contained [wFmt j.slot, wD j.slot] (some (j.tags.ast, j.tags.ctx))).stackHard
               s r 0x070D
           else if code = 0x030E ∧ wPull j.slot then d.setStream now job s g
           else (d.onPart job s fun p => { p with aside := p.aside ++ [{ g with hold := some .asked }] }).softFault now s k x r code
         | none => d.stackHard s r 0x0302)
      | .serve l off =>
        let pool := (e.map (·.2.pool)).getD false
        if (e.map fun x => d.compatBad j.slot x.2).getD false then
          (d.raise 0x070D (stackUnit s) 0x01 .contained [wFmt j.slot, wD j.slot] (some (j.tags.ast, j.tags.ctx))).stackHard s r
            0x070D
        else match Dev.readBlock now l off r.tags.access 64 0 d with
          | (d, .inl code) => d.stackHard s r code
          | (d, .inr xs) =>
            let d := d.onAst j.tags.ast fun x => { x with
              pendMeters := { x.pendMeters with granules := x.pendMeters.granules + 64 } }
            d.scored job s j g (lineBytes xs) pool

/-- May a set-aside block be read now? -/
def Grant.ready (now : Nat) (g : Grant) : Bool :=
  match g.hold with
  | none => true
  | some (.retry at_) => decide (at_ + 16000 ≤ now)
  | some _ => false

/-- The sweep unit takes its next block: one that has been streamed, one whose hold has ended, or the next grant. -/
def Dev.sweepBlock (d : Dev) (now job s : Nat) : Dev :=
  match Tbl.find d.sweeps job with
  | none => d
  | some j =>
    match j.part s with
    | none => d
    | some p =>
      if !p.active || !j.queried || !(d.stack s).ingress then d
      else match p.stream.find? p.staged with
      | some g => d.streamedBlock now job s j p g
      | none =>
        match takeFirst (Grant.ready now) p.aside with
        | some (g, l) =>
          (d.onPart job s fun p => { p with aside := l }).readGrant now job s j { g with hold := none, epoch := d.epochAt j.home }
        | none =>
          if 65536 ≤ p.heldBlocks then d
          else match p.queue with
            | [] => d
            | g :: l => (d.onPart job s fun p => { p with queue := l }).readGrant now job s j g

/-- SWEEP_BLOCK. -/
def execSweepBlock (job st : Nat) (s : State) := s.run fun now d => d.sweepBlock now job st

/-- A held block may be read again: its address is routed anew, and it goes to the stack it now lies in (R226). -/
def Dev.rerouteGrant (d : Dev) (job s : Nat) (j : SweepJob) (g : Grant) : Dev :=
  let e := d.epochAt j.home
  match (d.mapOf j.tags.ast e).bind (·.route g.va) with
  | some r =>
    let t := chanStack r.l
    if t = s ∨ (j.part t).isNone then d
    else ((d.onPart job s fun p => { p with aside := p.aside.erase g }).onPart job t fun p =>
      { p with queue := p.queue ++ [{ g with epoch := e }] })
  | none => d

/-- Set-aside blocks whose hold `p` holds of are let go. -/
def Dev.releaseGrants (d : Dev) (p : SweepJob → Nat → Hold → Bool) : Dev :=
  d.sweeps.foldl (fun d e => e.2.parts.foldl (fun d q =>
    let hit := fun (g : Grant) => match g.hold with | some h => p e.2 q.stack h | none => false
    let go := (q.aside.filter hit).map fun g => { g with hold := none }
    let d := d.onPart e.1 q.stack fun x => { x with aside := x.aside.map fun g => if hit g then { g with hold := none } else g }
    go.foldl (fun d g => d.rerouteGrant e.1 q.stack e.2 g) d) d) d

/-- The answer to a set-aside block's fault: what now holds it (R225). -/
def Dev.holdGrant (d : Dev) (job s va : Nat) (h : Hold) (soft : Bool) : Dev :=
  d.onPart job s fun p =>
    match indexWhere (fun g : Grant => g.hold == some .asked && g.va / 64 == va / 64) p.aside with
    | some i => { p with aside := modifyAt p.aside i fun g => { g with hold := some h }, faults := p.faults + soft.toNat }
    | none => p

/-! ### Waiting on faults (R225) -/

/-- Does a participant wait on soft faults? -/
def SweepPart.waits (p : SweepPart) : Bool :=
  p.queue.isEmpty && p.stream.isEmpty && (p.aside.all fun g => g.hold.isSome) &&
    p.aside.any fun g => match g.hold with | some .blocked => false | some _ => true | none => false

/-- Does a sweep wait on soft faults? -/
def SweepJob.waits (j : SweepJob) : Bool := j.phase != .granting && j.parts.any (·.waits)

/-- 625 ticks of waiting: 0x0121, and the guarantee is void with FAULT_STALL. -/
def Dev.sweepStalled (d : Dev) (job : Nat) : Dev :=
  match Tbl.find d.sweeps job with
  | none => d
  | some j =>
    if j.stallTicks < 625 ∨ j.voided then d
    else
      let p := j.parts.find? (·.waits)
      let va := ((p.bind (·.aside.head?)).map (·.va)).getD 0
      let st := (p.map (·.stack)).getD 0
      let d := (j.parts.filter (·.waits)).foldl (fun d p => d.sat (SWP_HELD.STALLS p.stack) 1) d
      let d := d.raise 0x0121 (svcUnit j.home) 0 .contained [st, va] (some (j.tags.ast, j.tags.ctx))
      (d.onSweep job fun j => { j with voided := true }).voidNow job .faultStall

/-- SWEEP_STALL_LIMIT. -/
def execSweepStallLimit (job : Nat) (s : State) := s.run fun _ d => d.sweepStalled job

/-! ### The destination (R217, R218) -/

/-- What a store of the device's own comes to. -/
inductive Stored where
  | ok (d : Dev)
  | fault (code va : Nat)
  /-- A back-invalidation is awaited first (R387). -/
  | waits (d : Dev)

/-- Store the bytes of `mask` into one granule of device memory or of the slice window. -/
def Dev.storeLine (d : Dev) (now : Nat) (t : Tags) (inSlice : Bool) (va mask : Nat) (x : Line) : Stored :=
  if inSlice then
    match d.sliceAt t.ast t.epoch va with
    | none => .fault 0x0301 va
    | some (k, g) =>
      match d.sliceTouch now k g (if mask = 2 ^ 64 - 1 then .write else .masked) mask va x .clean with
      | (d, some _) => .ok d
      | (_, none) => .fault 0x0407 va
  else
    match (d.mapOf t.ast t.epoch).bind (·.route va) with
    | none => .fault 0x0301 va
    | some r =>
      match d.verdict t .write r.l va with
      | .hard code => .fault code va
      | .soft code => .fault code va
      | .redirect _ _ => .fault 0x0303 va
      | .serve l off =>
        if d.tracked l off then .waits (d.snoop now (chanStack l) (granKey (d.physChan l) (granOf off)))
        else if mask = 2 ^ 64 - 1 then
          match d.writeGran now l off t.access x with
          | (d, none) => .ok ((d.meterGranule t.ast).markDirty (chanStack l) t.ast va)
          | (_, some code) => .fault code va
        else
          match d.rmwGran now l off t.access .clean (fun old => mergeBytes mask old x) with
          | (d, .inr _) => .ok ((d.meterGranule t.ast).markDirty (chanStack l) t.ast va)
          | (_, .inl code) => .fault code va

/-- Store bytes from any address on; the first argument bounds the granules. -/
def Dev.storeBytes (now : Nat) (t : Tags) (inSlice : Bool) : Nat → Nat → List Byte → Dev → Stored
  | 0, _, _, d => .ok d
  | n + 1, va, bs, d =>
    if bs.isEmpty then .ok d
    else
      let o := va % 64
      let now1 := bs.take (64 - o)
      match d.storeLine now t inSlice (va - o) (maskOf o now1.length) (placeBytes o now1) with
      | .ok d => Dev.storeBytes now t inSlice n (va - o + 64) (bs.drop (64 - o)) d
      | x => x

/-- Store what a sweep writes; on a fault R227 applies, and a soft fault or a wait leaves it to be tried again. -/
def Dev.sweepStore (d : Dev) (now job : Nat) (j : SweepJob) (va : Nat) (bs : List Byte) (k : Dev → Dev) : Dev :=
  match Dev.storeBytes now (d.sweepTags j) (wSlice j.slot) (bs.length / 64 + 2) va bs d with
  | .ok d => k d
  | .waits d => d
  | .fault code va => d.sweepFault now job j .write code va

/-- A record: its header and the row entries (Tables 7-5, 7-6). -/
def sweepRecord (stack epoch blocks poolBlk faults : Nat) (rows : List SweepRow) : List Byte :=
  toBytes 64 (stack % 256 + (epoch % 2 ^ 16) * 2 ^ 16 + (blocks % 2 ^ 40) * 2 ^ 64 + (poolBlk % 2 ^ 40) * 2 ^ 128 +
    (faults % 2 ^ 32) * 2 ^ 192) ++
  rows.flatMap fun r => toBytes 16 (r.m + r.l * 2 ^ 32) ++ r.o.flatMap (toBytes 4)

/-- The summary header (Table 7-4). -/
def sweepSummary (j : SweepJob) : List Byte :=
  let x := j.slot
  let merged := wMerge x && !j.split && !j.parts.isEmpty
  let mask := j.parts.foldl (fun n p => n + 2 ^ p.stack) 0
  toBytes 64 (1 + merged.toNat * 2 ^ 8 + j.split.toNat * 2 ^ 9 + j.parts.isEmpty.toNat * 2 ^ 10 +
    j.parts.length * 2 ^ 16 + mask * 2 ^ 32 + (wHeads x - 1) * 2 ^ 64 + (wRows x - 1) * 2 ^ 70 + wDsel x * 2 ^ 75 +
    wRsz x * 2 ^ 96 + (wLen x - wFirst x) * 2 ^ 128)

/-- Address of record k. -/
def recordVa (x : Line) (k : Nat) : Nat := wDest x + 64 + k * wRsz x

/-! ### The merge (R219, R221, R248) -/

/-- Row maxima over the participants: NaN if any is NaN. -/
def SweepJob.maxima (j : SweepJob) : List Nat :=
  (List.range (wEntries j.slot)).map fun i =>
    j.parts.foldl (fun a p => (vMax false a ((p.rows.getD i ⟨0, 0, []⟩).m)).1) 0xFF800000

/-- Have all participants' maxima reached the distributor? -/
def Dev.allMaxima (d : Dev) (job : Nat) (j : SweepJob) : Bool :=
  j.parts.all (·.maxSent) && !d.net.notes.any fun n => match n with | .maxima k _ => k == job | _ => false

/-- A merge takes counted entries, at most two at once, and mm goes back to its participants. -/
def Dev.takeEntries (d : Dev) (job : Nat) (j : SweepJob) : Dev :=
  let d := d.onNet fun n => { n with merges := Tbl.upd [] n.merges j.home (· ++ [job]) }
  (d.notes (j.parts.map fun p => .mm job p.stack)).onSweep job fun j => { j with
    mm := j.maxima, sums := List.replicate (wEntries j.slot) ⟨0, 0, List.replicate (wD j.slot) 0⟩ }

/-- Every maximum is there: the merge goes on, waits for entries, or falls back to per-stack records. -/
def Dev.mergeOrSplit (d : Dev) (job : Nat) (j : SweepJob) : Dev :=
  let dps := (j.parts.map fun p => stackDp p.stack).dedup
  if 2 < dps.length then
    (d.onSweep job fun j => { j with split := true, phase := .writing }).raise 0x0123 (svcUnit j.home) 0 .info
      (listItem 32 dps) (some (j.tags.ast, j.tags.ctx))
  else if (Tbl.look [] d.net.merges j.home).length < 2 then d.takeEntries job j
  else (d.onNet fun n => { n with mergeWait := Tbl.upd [] n.mergeWait j.home (· ++ [job]) }).sat
    (XBR_STATUS.MERGE_WAIT j.home) 1

/-- Note i of the network, when it is one that `p` accepts. -/
def Dev.noteAt (d : Dev) (i : Nat) (p : Note → Option (Nat × Nat)) : Option (Nat × Nat) := (d.net.notes[i]?).bind p

/-- A note leaves the network. -/
def Dev.dropNote (d : Dev) (i : Nat) : Dev := d.onNet fun n => { n with notes := dropAt n.notes i }

/-- Row maxima reach the distributor. -/
def Dev.gotMaxima (d : Dev) (i : Nat) : Dev :=
  match d.noteAt i fun n => match n with | .maxima k s => some (k, s) | _ => none with
  | none => d
  | some (job, _) =>
    let d := d.dropNote i
    match Tbl.find d.sweeps job with
    | some j => if j.phase = .merging ∧ d.allMaxima job j then d.mergeOrSplit job j else d
    | none => d

/-- SWEEP_MAXIMA. -/
def execSweepMaxima (i : Nat) (s : State) := s.run fun _ d => d.gotMaxima i

/-- A row scaled by f = exp(m − mm), each product rounded once. -/
def SweepRow.scaleBy (fr mm : Nat) (r : SweepRow) : SweepRow :=
  let f := if r.m = 0xFF800000 then 0 else expDiff fr r.m mm
  { m := mm, l := (vMul .rne false r.l f).1, o := r.o.map fun v => (vMul .rne false v f).1 }

/-- A sweep unit receives mm and sends its contribution. -/
def Dev.gotMm (d : Dev) (i : Nat) : Dev :=
  match d.noteAt i fun n => match n with | .mm k s => some (k, s) | _ => none with
  | none => d
  | some (job, s) =>
    match Tbl.find d.sweeps job with
    | none => d.dropNote i
    | some j =>
      let f := d.fresh
      (({ d.dropNote i with fresh := f + 1 }).onPart job s fun p => { p with
        gotMm := true
        rows := p.rows.zipIdx.map fun (r, k) => SweepRow.scaleBy (Config.free .ulpError f k) (j.mm.getD k 0) r }).notes [.merge job s]

/-- SWEEP_MM. -/
def execSweepMm (i : Nat) (s : State) := s.run fun _ d => d.gotMm i

/-- Element by element, one contribution is added to the sums. -/
def addRows (a b : List SweepRow) : List SweepRow :=
  List.zipWith (fun x y => { m := y.m, l := addF32 x.l y.l, o := List.zipWith addF32 x.o y.o }) a b

/-- A merge frees its entries, and one that waits takes them. -/
def Dev.freeEntries (d : Dev) (job home : Nat) : Dev :=
  let d := d.onNet fun n => { n with merges := Tbl.upd [] n.merges home fun l => l.filter (· != job) }
  match Tbl.look [] d.net.mergeWait home with
  | [] => d
  | k :: _ =>
    let d := d.onNet fun n => { n with mergeWait := Tbl.upd [] n.mergeWait home fun l => l.drop 1 }
    match Tbl.find d.sweeps k with
    | some j => d.takeEntries k j
    | none => d

/-- A contribution reaches the counted entries; with the last, the merged record is written. -/
def Dev.contribution (d : Dev) (now i : Nat) : Dev :=
  match d.noteAt i fun n => match n with | .merge k s => some (k, s) | _ => none with
  | none => d
  | some (job, s) =>
    match Tbl.find d.sweeps job with
    | none => d.dropNote i
    | some j =>
      let mine := ((j.part s).map (·.rows)).getD []
      let j := { j with merged := j.merged ++ [s], sums := addRows j.sums mine }
      if j.merged.length < j.parts.length then (d.dropNote i).onSweep job fun _ => j
      else
        let rows := List.zipWith (fun (r : SweepRow) (mm : Nat) => { r with m := mm }) j.sums j.mm
        let total := fun (f : SweepPart → Nat) => j.parts.foldl (fun n p => n + f p) 0
        d.sweepStore now job j (recordVa j.slot 0)
          (sweepRecord 0xFF d.comp.epoch (total (·.blocks)) (total (·.poolBlk)) (total (·.faults)) rows) fun d =>
            ((d.dropNote i).onSweep job fun _ => { j with phase := .writing }).freeEntries job j.home

/-- MERGE_CONTRIBUTION. -/
def execMergeContribution (i : Nat) (s : State) := s.run fun now d => d.contribution now i

/-! ### The records and the summary -/

/-- Per-stack records in increasing stack order. -/
def SweepJob.records (j : SweepJob) (epoch : Nat) : List Byte :=
  j.parts.flatMap fun p => sweepRecord p.stack epoch p.blocks p.poolBlk p.faults p.rows

/-- Every record is written, then the summary: the completion point (R218, R222). -/
def Dev.sweepOver (d : Dev) (now job : Nat) : Dev :=
  match Tbl.find d.sweeps job with
  | none => d
  | some j =>
    if j.phase ≠ .writing ∨ !j.parts.all (·.idle) then d
    else
      let recs := if wMerge j.slot && !j.split then [] else j.records d.comp.epoch
      d.sweepStore now job j (recordVa j.slot 0) recs fun d =>
        d.sweepStore now job j (wDest j.slot) (sweepSummary j) fun d =>
          ((d.dropSweep job).finish now job .completed).after now

/-- SWEEP_RECORD_WRITTEN. -/
def execSweepRecordWritten (job : Nat) (s : State) := s.run fun now d => d.sweepOver now job

end Sys2Proof.Machine
end

