-- ==== Sys2Proof/Machine/Responses.lean ====
section
/-!
DEFINITION. Answers and notices that reach those who wait for them: data, acknowledgements and faults at transfer
engines and sweep units (R84, R115, R130, R135, R198, R227, R237), presence, gone, reset and unblock notices (R183, R184,
R200), page responses (R389), and the escalation of a waiting transaction (R258).
-/

namespace Sys2Proof.Machine

/-- An answer leaves the network. -/
def Dev.dropResp (d : Dev) (i : Nat) : Dev := d.onNet fun n => { n with resps := dropAt n.resps i }

/-- Host address of a request that went out through a link that carries traffic (R391, R398). -/
def Dev.hostReq (d : Dev) (i : Nat) : Option (Req × Nat × Nat) :=
  (d.net.reqs[i]?).bind fun r => match r.dest with
    | .host k a => if (d.link k).state = 0 ∨ (d.link k).insecure then none else some (r, k, a)
    | _ => none

/-- Entries of a link's translation cache (Table 12-1). -/
def atcSize : Nat := 8192

/-- A host address has been translated: the link's cache holds its page; a full one gives up an entry, which one is not
specified. -/
def Dev.atcAdd (d : Dev) (k addr : Nat) : Dev :=
  let page := addr / 4096
  if (d.link k).atc.contains page then d
  else if (d.link k).atc.length < atcSize then d.onLink k fun l => { l with atc := l.atc ++ [page] }
  else
    let (v, d) := d.draw .choice
    d.onLink k fun l => { l with atc := dropAt l.atc (v % atcSize) ++ [page] }

/-! ### Data and acknowledgements -/

/-- Read data reaches its stream, from a stack or slice, or from a host. -/
def Dev.readAnswer (d : Dev) (now i : Nat) (host : Option Line) : Dev :=
  match host with
  | some x =>
    (match d.hostReq i with
     | some (r, k, a) => if r.acc.writes then d else ((d.dropReq i).atcAdd k a).landRead now r x
     | none => d)
  | none =>
    (match d.net.resps[i]? with
     | some r => if r.status = .ok ∧ (r.req.acc = .fetchAdd ∨ !r.req.acc.writes) then (d.dropResp i).landRead now r.req r.data else d
     | none => d)

/-- XFER_READ_RESPONSE. -/
def execXferReadResponse (i : Nat) (host : Option Line) (s : State) := s.run fun now d => d.readAnswer now i host

/-- Is a requester a stream of a core?  A reducer's acknowledgement has a command of its own (R247). -/
def Agent.isEngine : Agent → Bool
  | .engine .. | .alloc .. => true
  | _ => false

/-- A write's acknowledgement reaches its stream. -/
def Dev.writeAnswer (d : Dev) (now i : Nat) (host : Bool) : Dev :=
  if host then
    match d.hostReq i with
    | some (r, k, a) => if r.acc.writes then ((d.dropReq i).atcAdd k a).landAck now r else d
    | none => d
  else
    match d.net.resps[i]? with
    | some r =>
      if r.status = .ok ∧ r.req.acc.writes ∧ r.req.acc ≠ .fetchAdd ∧ r.req.who.isEngine then (d.dropResp i).landAck now r.req else d
    | none => d

/-- XFER_WRITE_ACK. -/
def execXferWriteAck (i : Nat) (host : Bool) (s : State) := s.run fun now d => d.writeAnswer now i host

/-! ### Faults -/

/-- A request is held: its stream, or its block of a sweep. -/
def Dev.holdReq (d : Dev) (r : Req) (h : Hold) (soft : Bool) : Dev :=
  match r.who with
  | .sweep job s => d.holdGrant job s r.va h soft
  | _ => d.holdStream r h

/-- Let go of every stream and block that a hold keeps. -/
def Dev.letGo (d : Dev) (p : Nat → Hold → Bool) : Dev :=
  (d.releaseHolds fun t h => p t.own.ctx h).releaseGrants fun j _ h => p j.tags.ctx h

/-- A token's holders resume (R134, R183). -/
def Dev.tokenOver (d : Dev) (s tok : Nat) : Dev := d.letGo fun _ h => h == .soft s tok

/-- The answer to a reduction store's onward add goes to each of its contributors, and the entry is free (R247). -/
def Dev.passOn (d : Dev) (dp id : Nat) (st : Status) : Dev :=
  match (Tbl.look [] d.net.red dp).find? fun e => e.id == id with
  | some e =>
    let d := d.onNet fun n => { n with red := Tbl.upd [] n.red dp fun l => l.filter fun x => x.id != id }
    e.parts.foldl (fun d p => d.answer p st) d
  | none => d

/-- A request is held; an add that a crossbar sent onward passes its answer on instead. -/
def Dev.holdOr (d : Dev) (r : Req) (h : Hold) (st : Status) (soft : Bool) : Dev :=
  match r.who with
  | .reducer dp id => d.passOn dp id st
  | _ => d.holdReq r h soft

/-- A soft-fault answer; one whose page has become present on the way resumes at once. -/
def Dev.softAnswer (d : Dev) (now i : Nat) : Dev :=
  match d.net.resps[i]? with
  | none => d
  | some r =>
    match r.status with
    | .soft s tok =>
      let d := (d.dropResp i).holdOr r.req (.soft s tok) (.soft s tok) true
      let noted := d.net.notes.any fun n => match n with
        | .presence s' t' | .gone s' t' => s' == s && t' == tok
        | .reset s' => s' == s
        | _ => false
      if (Tbl.find (d.stack s).pend tok).isNone && !noted then d.tokenOver s tok else d
    | .retry => (d.dropResp i).holdOr r.req (.retry now) .retry true
    | _ => d

/-- A host reports a page not present: a page request goes out and the request soft-faults (R389). -/
def Dev.pageAbsent (d : Dev) (i : Nat) : Dev :=
  match d.hostReq i with
  | none => d
  | some (r, k, a) =>
    let page := a / 4096
    let d := (d.dropReq i).onLink k fun l => { l with pri := l.pri ++ [(page, r)] }
    let d := d.fault ⟨d.faultRec r 0x030D (unitId 5 (k / 2)) true false, none, .retry⟩
    d.holdStream r (.host (k * 2 ^ 52 + page))

/-- SOFT_FAULT_RESPONSE. -/
def execSoftFaultResponse (i : Nat) (host : Bool) (s : State) := s.run fun now d =>
  if host then d.pageAbsent i else d.softAnswer now i

/-- A hard-fault answer, or poison, ends the tile or the sweep (R135, R227, R237); at a reduction store it is passed to
the contributors (R247). -/
def Dev.endsHard (d : Dev) (now : Nat) (r : Req) (st : Status) : Dev :=
  match r.who with
  | .engine c .. | .alloc c .. =>
    (match st with
     | .hard code => d.abortTile now c (.hard (hardOutcome code)) code
     | _ => d.abortTile now c .poison 0x0407)
  | .sweep job _ => (match st with
     | .hard code => d.failSweep now job (hardOutcome code) code
     | _ => d.failSweep now job .faulted 0)
  | .reducer dp id => d.passOn dp id st
  | .window .. => d

/-- HARD_FAULT_RESPONSE: a hard-fault, poisoned or fenced answer arrives. -/
def Dev.hardAnswer (d : Dev) (now i : Nat) : Dev :=
  match d.net.resps[i]? with
  | none => d
  | some r =>
    match r.status with
    | .hard code => (d.dropResp i).endsHard now r.req (.hard code)
    | .poison => (d.dropResp i).endsHard now r.req .poison
    | .fenced => d.dropResp i
    | _ => d

/-- HARD_FAULT_RESPONSE. -/
def execHardFaultResponse (i : Nat) (s : State) := s.run fun now d => d.hardAnswer now i

/-- BLOCKED_RESPONSE (R198). -/
def Dev.blockedAnswer (d : Dev) (i : Nat) : Dev :=
  match d.net.resps[i]? with
  | some r =>
    if r.status = .blocked then
      let d := (d.dropResp i).holdOr r.req .blocked .blocked false
      let still := ((Tbl.find d.hif.ctxs r.req.tags.ctx).map (·.blocked)).getD false
      let noted := d.net.notes.any fun n => n == .unblock r.req.tags.ctx
      if still || noted then d else d.letGo fun x h => x == r.req.tags.ctx && h == .blocked
    else d
  | none => d

/-- BLOCKED_RESPONSE. -/
def execBlockedResponse (i : Nat) (s : State) := s.run fun _ d => d.blockedAnswer i

/-! ### Notices -/

/-- PRESENCE_NOTICE. -/
def execPresenceNotice (i : Nat) (s : State) := s.run fun _ d =>
  match d.net.notes[i]? with
  | some (.presence s tok) => (d.dropNote i).tokenOver s tok
  | _ => d

/-- GONE_NOTICE. -/
def execGoneNotice (i : Nat) (s : State) := s.run fun _ d =>
  match d.net.notes[i]? with
  | some (.gone s tok) => (d.dropNote i).tokenOver s tok
  | _ => d

/-- RESET_NOTICE: every token of the stack. -/
def execResetNotice (i : Nat) (s : State) := s.run fun _ d =>
  match d.net.notes[i]? with
  | some (.reset st) => (d.dropNote i).letGo fun _ h => match h with | .soft k _ => k == st | _ => false
  | _ => d

/-- FAULT_UNBLOCK. -/
def execFaultUnblock (i : Nat) (s : State) := s.run fun _ d =>
  match d.net.notes[i]? with
  | some (.unblock ctx) => (d.dropNote i).letGo fun x h => x == ctx && h == .blocked
  | _ => d

/-- A page response answers the link's oldest page request: its requests go out again, or fault hard with 0x070A
(R389). -/
def Dev.pageAnswer (d : Dev) (port : Nat) (half ok : Bool) : Dev :=
  let k := port * 2 + half.toNat
  match (d.link k).pri with
  | [] => d
  | (page, _) :: _ =>
    let rs := ((d.link k).pri.filter fun p => p.1 == page).map (·.2)
    let d := d.onLink k fun l => { l with pri := l.pri.filter fun p => p.1 != page }
    if ok then d.letGo fun _ h => h == .host (k * 2 ^ 52 + page)
    else
      let ctx := ((rs.head?).map (·.tags.ctx)).getD 0
      let pasid := match Tbl.find d.hif.ctxs ctx with | some c => if c.pasidEn then c.pasid else 0 | none => 0
      let d := d.raise 0x070A (unitId 5 port) 0x00 .contained [pasid, page * 4096] ((rs.head?).map fun r => (r.tags.ast, r.tags.ctx))
      rs.foldl (fun d r => d.hardFault r 0x070A (unitId 5 port)) d

/-- PAGE_RESPONSE. -/
def execPageResponse (port : Nat) (half ok : Bool) (s : State) := s.run fun _ d => d.pageAnswer port half ok

/-! ### Escalation (R258) -/

/-- The AGE at which a class's next escalation step comes. -/
def escalateAt (target esc : Nat) : Nat :=
  match esc with
  | 0 => target / 2
  | 1 => 3 * target / 4
  | _ => 9 * target / 10

/-- A waiting transaction of a guaranteed class takes its next step. -/
def Dev.escalate (d : Dev) (now i : Nat) : Dev :=
  match d.net.reqs[i]? with
  | none => d
  | some r =>
    let cls := r.tags.cls
    if d.flag (ADM_CLASS_PARAM_A_ACT.GUAR cls) ∧ r.esc < 3 ∧
        escalateAt (d.get (ADM_CLASS_PARAM_A_ACT.TARGET cls)) r.esc ≤ r.age now then
      d.onNet fun n => { n with reqs := modifyAt n.reqs i fun r => { r with esc := r.esc + 1 } }
    else d

/-- AGE_ESCALATION. -/
def execAgeEscalation (i : Nat) (s : State) := s.run fun now d => d.escalate now i

end Sys2Proof.Machine
end

