-- ==== Sys2Proof/Machine/Sparing.lean ====
section
/-!
DEFINITION. Repairs within a stack: rows, data lanes, banks and channels (R157 to R159, Table 5-5), and the loss of a
private region (R161).
-/

namespace Sys2Proof.Machine

/-! ### Rows -/

/-- A row-repair trigger stands: ROW_CE_LIMIT corrections in the row within 24 h, or an uncorrectable error in it. -/
def Dev.rowDue (d : Dev) (s row : Nat) : Bool :=
  (d.stack s).rowBad.contains row || decide (d.get (STK_ECC_CTRL.ROW_CE_LIMIT s) ≤ Tbl.look 0 (d.stack s).rowCe row)

/-- ROW_SPARED: the row's granules are copied to a spare row of its bank and the row redirected; a trigger that finds
no spare row repairs nothing and counts toward a bank repair. -/
def Dev.spareRow (d : Dev) (s row : Nat) : Dev :=
  if !d.rowDue s row then d
  else
    let bk := row / 2 ^ 15
    let used := Tbl.look 0 (d.stack s).rowsUsed bk
    let d := d.onStack s fun t => { t with rowBad := t.rowBad.filter (· != row), rowCe := Tbl.del t.rowCe row }
    if 64 ≤ used then d.onStack s fun t => { t with noSpare := Tbl.upd 0 t.noSpare bk (· + 1) }
    else
      let unit := chanUnit (bk / 128)
      let d := d.onStack s fun t => { t with
        rowMap := Tbl.put t.rowMap row (24576 + used), rowsUsed := Tbl.put t.rowsUsed bk (used + 1) }
      ((d.sat (STK_SPARE.ROWS s) 1).raise 0x0203 unit (bk % 128 / 4) .degraded
        [bk % 128, row % 2 ^ 15, 24576 + used]).almEntry unit 0x0203

/-- ROW_SPARED. -/
def execRowSpared (st row : Nat) (s : State) := s.run fun _ d => d.spareRow st row

/-! ### Data lanes -/

/-- Slot of a stack that a physical channel serves. -/
def Dev.slotServed (d : Dev) (s k : Nat) : Option Nat :=
  (List.range 32).find? fun j => d.get (STK_SLOT_MAP.PHYS s j) == k && d.get (STK_SLOT_MAP.STATE s j) != 2

/-- A repair that needs a copy waits until it can start (R159). -/
def Dev.wantCopy (d : Dev) (s : Nat) (k : CopyKind) : Dev :=
  d.onStack s fun t => if t.waiting.contains k then t else { t with waiting := t.waiting ++ [k] }

/-- LANE_SPARED: data lane `lane` (channel × 72 + lane of the channel) is replaced by a spare lane of the stack; with no
spare lane left its channel needs a repair. -/
def Dev.spareLane (d : Dev) (s lane : Nat) : Dev :=
  let k := lane / 72
  let used := d.get (STK_SPARE.LANES s)
  if 64 ≤ used then
    match d.slotServed s k with
    | some j => d.wantCopy s (.channel j)
    | none => d
  else
    let d := (d.set (STK_SPARE.LANES s) (used + 1)).raise 0x0205 (stackUnit s) 0x02 .degraded [k, lane % 72, used]
    let d := d.almEntry (stackUnit s) 0x0205
    if used + 1 = 64 then d.groupEmpty 5 (stackUnit s) else d

/-- LANE_SPARED. -/
def execLaneSpared (st lane : Nat) (s : State) := s.run fun _ d => d.spareLane st lane

/-! ### Copies (R158, R159) -/

/-- A bank repair trigger stands: the third row trigger with no spare row, or two uncorrectable errors within 24 h. -/
def Dev.bankDue (d : Dev) (s k bank : Nat) : Bool :=
  let bk := (s * 34 + k) * 128 + bank
  (d.stack s).waiting.contains (.bank k bank) || decide (3 ≤ Tbl.look 0 (d.stack s).noSpare bk) ||
    decide (2 ≤ Tbl.look 0 (d.stack s).bankUe bk)

/-- A channel repair trigger stands: one asked for, or CHAN_CE_LIMIT corrections within 24 h. -/
def Dev.channelDue (d : Dev) (s j : Nat) : Bool :=
  !d.retired (32 * s + j) &&
    ((d.stack s).waiting.contains (.channel j) || decide (d.get (STK_ECC_CTRL.CHAN_CE_LIMIT s) ≤
      d.get (STK_CHAN_HEALTH.CE_24H s (d.get (STK_SLOT_MAP.PHYS s j)))))

/-- A spare channel of a stack. -/
def Dev.spareChannel (d : Dev) (s : Nat) : Option Nat :=
  (List.range 34).find? fun k => d.get (STK_CHAN_HEALTH.PSTATE s k) == 1

/-- Start a copy behind pointer 0, or let it wait for the one that runs (R159). -/
def Dev.startCopy (d : Dev) (s : Nat) (k : CopyKind) (target : Nat) (f : Dev → Dev) : Dev :=
  if (d.stack s).copy.isSome then d.wantCopy s k
  else
    let d := d.onStack s fun t => { t with
      copy := some ⟨k, target, 0⟩, waiting := t.waiting.filter (· != k) }
    (f (d.set (STK_STATUS.COPYING s) 1)).redeliver s

/-- BANK_COPY: a bank trigger starts a copy to a spare bank of the channel; with none left the channel needs a repair. -/
def Dev.bankCopy (d : Dev) (s k bank : Nat) : Dev :=
  if !d.bankDue s k bank then d
  else
    let used := d.get (STK_CHAN_HEALTH.BANKS_SPARED s k)
    let bk := (s * 34 + k) * 128 + bank
    let d := if (d.stack s).copy.isSome then d else
      d.onStack s fun t => { t with noSpare := Tbl.del t.noSpare bk, bankUe := Tbl.del t.bankUe bk }
    if 2 ≤ used then
      let d := d.onStack s fun t => { t with waiting := t.waiting.filter (· != .bank k bank) }
      match d.slotServed s k with
      | some j => d.wantCopy s (.channel j)
      | none => d
    else d.startCopy s (.bank k bank) (64 + used) id

/-- BANK_COPY. -/
def execBankCopy (st chan bank : Nat) (s : State) := s.run fun _ d => d.bankCopy st chan bank

/-- Granules of a copy's source that read uncorrectable are poisoned and recorded (R158). -/
def Dev.copyErrors (d : Dev) (s phys : Nat) (ue : List Nat) : Dev :=
  ue.foldl (fun d g => if (d.gran (granKey phys g)).poison then d else d.eccPoison s phys g) d

/-- The copy is over: its channels deliver in full again. -/
def Dev.copyOver (d : Dev) (s : Nat) : Dev :=
  ((d.onStack s fun t => { t with copy := none }).set (STK_STATUS.COPYING s) 0).redeliver s

/-- Severity of a finished copy: data lost where a granule was poisoned, else a spare entered service (R442). -/
def copySev (poisoned : Nat) : Sev := if poisoned = 0 then .degraded else .contained

/-- BANK_SPARED: the bank copy ends and the bank is redirected; `ue` are the granules that read uncorrectable. -/
def Dev.bankSpared (d : Dev) (s : Nat) (ue : List Nat) : Dev :=
  match (d.stack s).copy with
  | some ⟨.bank k bank, target, _⟩ =>
    let phys := s * 34 + k
    let bad := (ue.filter fun g => decide (g < chanGranules) && bankOf g == bank).dedup
    let d := d.copyErrors s phys bad
    let d := d.onStack s fun t => { t with bankMap := Tbl.put t.bankMap (phys * 128 + bank) target }
    let d := (d.set (STK_CHAN_HEALTH.BANKS_SPARED s k) (target - 63)).sat (STK_SPARE.BANKS s) 1
    ((d.copyOver s).raise 0x0204 (chanUnit phys) (bank / 4) (copySev bad.length) [bank, target, bad.length]).almEntry
      (chanUnit phys) 0x0204
  | _ => d

/-- BANK_SPARED. -/
def execBankSpared (st : Nat) (ue : List Nat) (s : State) := s.run fun _ d => d.bankSpared st ue

/-- CHANNEL_COPY: a channel trigger starts a copy of the slot's channel to a spare one; with none left the slot is to be
retired (R160). -/
def Dev.channelCopy (d : Dev) (s j : Nat) : Dev :=
  if !d.channelDue s j then d
  else match d.spareChannel s with
  | none => d.wantCopy s (.channel j)
  | some k => d.startCopy s (.channel j) k fun d =>
      ((((d.set (STK_SLOT_MAP.STATE s j) 1).set (STK_SLOT_MAP.TARGET s j) k).set (STK_SLOT_MAP.COPY_PTR s j) 0).set
        (STK_CHAN_HEALTH.PSTATE s k) 2)

/-- CHANNEL_COPY. -/
def execChannelCopy (st slot : Nat) (s : State) := s.run fun _ d => d.channelCopy st slot

/-- Every granule of one physical channel is copied to another: ciphertext, metadata and all (R149, R158). -/
def Dev.copyChannel (d : Dev) (src dst : Nat) : Dev :=
  d.copyGrans (granKey src 0) (granKey (src + 1) 0) (granKey dst 0) id

/-- Fewest spare channels left is none: the group is exhausted (R466). -/
def Dev.chansLeft (d : Dev) (s : Nat) : Dev :=
  if (d.spareChannel s).isNone then d.groupEmpty 4 (stackUnit s) else d

/-- CHANNEL_SPARED: the channel copy ends and the slot is switched over; `ue` are the granules that read uncorrectable. -/
def Dev.channelSpared (d : Dev) (s : Nat) (ue : List Nat) : Dev :=
  match (d.stack s).copy with
  | some ⟨.channel j, k, _⟩ =>
    let old := d.get (STK_SLOT_MAP.PHYS s j)
    let bad := (ue.filter fun g => decide (g < chanGranules)).dedup
    let d := (d.copyErrors s (s * 34 + old) bad).copyChannel (s * 34 + old) (s * 34 + k)
    let d := (((d.set (STK_SLOT_MAP.PHYS s j) k).set (STK_SLOT_MAP.STATE s j) 0).set (STK_SLOT_MAP.TARGET s j) 0).set
      (STK_SLOT_MAP.COPY_PTR s j) 0
    let d := (d.set (STK_CHAN_HEALTH.PSTATE s old) 3).set (STK_CHAN_HEALTH.PSTATE s k) 0
    let d := (d.sat (STK_SPARE.CHANS s) 1).copyOver s
    let d := (d.raise 0x0206 (chanUnit (s * 34 + k)) 0xFF (copySev bad.length) [j, s * 34 + old, s * 34 + k, bad.length])
    ((d.almEntry (chanUnit (s * 34 + old)) 0x0206).almMark (chanUnit (s * 34 + old)) .failed).chansLeft s
  | _ => d

/-- CHANNEL_SPARED. -/
def execChannelSpared (st : Nat) (ue : List Nat) (s : State) := s.run fun _ d => d.channelSpared st ue

/-! ### Private regions (R161) -/

/-- PRIVATE_LOST: a channel's private region with live tables in it can no longer be read. -/
def execPrivateLost (st chan : Nat) (s : State) := s.run fun now d =>
  match (List.range 32).find? fun j => d.get (STK_SLOT_MAP.PHYS st j) == chan with
  | some j => d.privateLost now st j privateBase 0
  | none => d

end Sys2Proof.Machine
end

