-- ==== Sys2Proof/Machine/Interconnect.lean ====
section
/-!
DEFINITION. The interconnect: die bridges (R238 to R243), in-network reduction (R244 to R247), barriers and their release
waves (R249 to R251, R326, R429), flag notices (R252), the maintenance rings (R253 to R255), and what a new bridge rate
or a new derating does to the books (R239, R375).
-/

namespace Sys2Proof.Machine

/-! ### Bridges -/

/-- Unit of a bridge. -/
def bridgeUnit (b : Nat) : Nat := unitId 2 b
/-- Change a bridge. -/
def Dev.onBridge (d : Dev) (b : Nat) (f : Bridge → Bridge) : Dev :=
  d.onNet fun n => { n with bridges := Tbl.upd Bridge.reset n.bridges b f }

/-- FLIT_REPLAY: a flit fails its CRC and is replayed (R238). -/
def execFlitReplay (b : Nat) (up : Bool) (s : State) := s.run fun _ d => d.onBridge b fun x =>
  if up then { x with retriesUp := wrapAdd 32 x.retriesUp 1 } else { x with retriesDn := wrapAdd 32 x.retriesDn 1 }

/-- Every admission controller is told of a bridge's new rate (R239). -/
def Dev.tellRate (d : Dev) (b : Nat) : Dev := d.notes (diePairs.map fun dp => .bridgeRate b dp)

/-- A bridge goes DOWN; the second one brings a package reset (R242, R243). -/
def Dev.bridgeFails (d : Dev) (now b cause : Nat) : Dev :=
  if (d.bridge b).down then d
  else
    let other := ((List.range 10).find? fun k => k != b && (d.bridge k).down)
    let d := ((((d.onBridge b fun x => { x with down := true }).raise 0x0403 (bridgeUnit b) 0xFF .degraded [b, cause]).almEntry
      (bridgeUnit b) 0x0403)).tellRate b
    match other with
    | some k => (d.raise 0x0404 (bridgeUnit b) 0xFF .fatal [k, b]).requestReset now 5 (bridgeUnit b) 0x0404
    | none => d

/-- BRIDGE_DOWN: a bridge fails as a whole. -/
def execBridgeDown (b : Nat) (s : State) := s.run fun now d => d.bridgeFails now b 1

/-- Direction as error records name it: 0 from the lower die pair to the higher, 1 back. -/
def dirCode (up : Bool) : Nat := if up then 0 else 1

/-- A lane fails: a spare replaces it, or the direction loses it; below 16 lanes the bridge is DOWN (R239). -/
def Dev.laneFails (d : Dev) (now b : Nat) (up : Bool) (lane : Nat) : Dev :=
  let x := d.bridge b
  let sub := (if up then 0 else 32) + lane % 32
  let used := if up then x.sparesUp else x.sparesDn
  if x.down then d
  else if used < 2 then
    let d := d.onBridge b fun x =>
      if up then { x with sparesUp := x.sparesUp + 1 } else { x with sparesDn := x.sparesDn + 1 }
    let d := (d.raise 0x0401 (bridgeUnit b) sub .degraded [dirCode up, sub, used]).almEntry (bridgeUnit b) 0x0401
    if used = 1 then d.groupEmpty 6 (bridgeUnit b) (dirCode up) else d
  else
    let left := (if up then x.lanesUp else x.lanesDn) - 1
    let d := d.onBridge b fun x => if up then { x with lanesUp := left } else { x with lanesDn := left }
    let d := d.raise 0x0402 (bridgeUnit b) sub .degraded [dirCode up, left]
    if left < 16 then d.bridgeFails now b 0 else d.tellRate b

/-- BRIDGE_LANE_SPARED. -/
def execBridgeLaneSpared (b : Nat) (up : Bool) (lane : Nat) (s : State) := s.run fun now d => d.laneFails now b up lane

/-- BRIDGE_RATE_CHANGE: an admission controller learns a bridge's rate and sheds what no longer fits. -/
def execBridgeRateChange (b dp : Nat) (s : State) := s.run fun _ d =>
  match indexWhere (fun n => n == Note.bridgeRate b dp) d.net.notes with
  | some i => (d.dropNote i).shedBridges dp
  | none => d

/-- ADM_DERATE is written: a lowered value sheds; a value outside 1 to 1,000 changes nothing. -/
def Dev.derate (d : Dev) (v : Nat) : Dev :=
  let old := d.get ADM_DERATE.DERATE
  let new := v % 1024
  if new = 0 ∨ 1000 < new then d
  else
    let d := d.set ADM_DERATE.DERATE new
    if old ≤ new then d
    else
      let d := (List.range 64).foldl (fun d a => d.shedChannels a fun _ => true) d
      diePairs.foldl (fun d dp => d.shedBridges dp) d

/-- ADM_DERATE_WRITE. -/
def execAdmDerateWrite (path v : Nat) (s : State) := s.run fun now d =>
  d.writeThrough now path ADM_DERATE.off fun d => d.derate v

/-! ### In-network reduction -/

/-- Die pair at which a request's destination lies. -/
def Req.destDp (r : Req) : Nat :=
  match r.dest with
  | .chan l _ _ => stackDp (chanStack l)
  | .slice k _ => sliceDp k
  | .host k _ => portDp (k / 2)

/-- The crossbar an add reaches after die pair `dp`; none once it has crossed that of its destination. -/
def Dev.hopAfter (d : Dev) (r : Req) (dp : Nat) : Option Nat :=
  if r.destDp = dp then none else ((d.way dp r.destDp).getD [r.destDp]).head?

/-- Do an asterism's cores and channels under an epoch lie on at most two die pairs (R245)? -/
def Dev.narrow (d : Dev) (a e : Nat) : Bool :=
  match d.mapOf a e with
  | some m => decide ((m.cores.map coreDp ++ m.chans.map fun l => stackDp (chanStack l)).dedup.length ≤ 2)
  | none => false

/-- The store key of an add: asterism, epoch, destination granule. -/
def Req.sameStore (r x : Req) : Bool :=
  r.tags.ast == x.tags.ast && r.tags.epoch == x.tags.epoch && r.dest == x.dest && r.va / 64 == x.va / 64

/-- Sum one add's elements into another's: elements both cover are added, the rest taken from the one that has them. -/
def sumAdds (m1 : Nat) (x1 : Line) (m2 : Nat) (x2 : Line) : Line :=
  (List.range 16).foldl (fun acc i =>
    let v := if bit m1 (4 * i) then
        (if bit m2 (4 * i) then addF32 (fld x1 (4 * i) 0 32) (fld x2 (4 * i) 0 32) else fld x1 (4 * i) 0 32)
      else fld x2 (4 * i) 0 32
    BitVec.ofNat 512 (setBits acc.toNat (32 * i) 32 v)) 0

/-- The add with another's contribution summed in. -/
def Req.plus (r x : Req) : Req := { r with data := sumAdds r.mask r.data x.mask x.data, mask := r.mask ||| x.mask }

/-- Combining entries of a crossbar. -/
def Dev.redOf (d : Dev) (dp : Nat) : List RedEntry := Tbl.look [] d.net.red dp
/-- Change a crossbar's combining entries. -/
def Dev.onRed (d : Dev) (dp : Nat) (f : List RedEntry → List RedEntry) : Dev :=
  d.onNet fun n => { n with red := Tbl.upd [] n.red dp f }

/-- An entry is sent onward, and waits for its acknowledgement. -/
def Dev.sendEntry (d : Dev) (dp id : Nat) : Dev :=
  match (d.redOf dp).find? fun e => e.id == id && !e.sent with
  | none => d
  | some e =>
    (d.sendReq { e.req with who := .reducer dp id, hop := d.hopAfter e.req dp }).onRed dp fun l =>
      l.map fun x => if x.id = id then { x with sent := true } else x

/-- Above 3,584 entries in use, the oldest one not yet sent goes onward. -/
def Dev.keepRoom (d : Dev) (dp : Nat) : Dev :=
  if (d.redOf dp).length ≤ 3584 then d
  else match (d.redOf dp).find? fun e => !e.sent with
    | some e => d.sendEntry dp e.id
    | none => d

/-- An add goes on uncombined. -/
def Dev.passAdd (d : Dev) (i dp : Nat) (r : Req) : Dev :=
  (d.wrap (XBR_RED.PASSED dp) 1).onNet fun n => { n with
    reqs := modifyAt n.reqs i fun x => { x with hop := d.hopAfter r dp } }

/-- An add reaches a crossbar on its way: it is combined, takes an entry, or passes on. -/
def Dev.reduceAdd (d : Dev) (now i dp : Nat) : Dev :=
  match d.net.reqs[i]? with
  | none => d
  | some r =>
    if r.hop ≠ some dp then d
    else if !d.narrow r.tags.ast r.tags.epoch then d.passAdd i dp r
    else match (d.redOf dp).find? fun e => !e.sent && e.req.sameStore r && decide (e.parts.length < 64) with
      | some e => ((d.wrap (XBR_RED.COMBINED dp) 1).dropReq i).onRed dp fun l => l.map fun x =>
          if x.id = e.id then { x with req := x.req.plus r, parts := x.parts ++ [r] } else x
      | none =>
        if 4096 ≤ (d.redOf dp).length then d.passAdd i dp r
        else
          let id := d.net.redId
          let e : RedEntry := { id := id, req := r, parts := [r], at_ := now, sent := false }
          (((d.dropReq i).onNet fun n => { n with redId := id + 1 }).onRed dp (· ++ [e])).keepRoom dp

/-- REDUCTION_ADD. -/
def execReductionAdd (i dp : Nat) (s : State) := s.run fun now d => d.reduceAdd now i dp

/-- REDUCTION_FLUSH: 1 µs after it was taken, an entry goes onward. -/
def execReductionFlush (dp id : Nat) (s : State) := s.run fun now d =>
  if (d.redOf dp).any fun e => e.id == id && decide (e.at_ + 1000 ≤ now) then d.sendEntry dp id else d

/-- REDUCTION_ACK: the onward add is acknowledged, and with it each contributor's. -/
def Dev.reduceAck (d : Dev) (dp id : Nat) : Dev :=
  match indexWhere (fun r : Resp => r.req.who == .reducer dp id && r.status == .ok) d.net.resps with
  | none => d
  | some i => (d.dropResp i).passOn dp id .ok

/-- REDUCTION_ACK. -/
def execReductionAck (dp id : Nat) (s : State) := s.run fun _ d => d.reduceAck dp id

/-! ### Barriers -/

/-- A barrier group. -/
def Dev.barrier (d : Dev) (id : Nat) : Option Barrier := d.net.barriers.find? fun b => b.id == id
/-- Change a barrier group. -/
def Dev.onBarrier (d : Dev) (id : Nat) (f : Barrier → Barrier) : Dev :=
  d.onNet fun n => { n with barriers := n.barriers.map fun b => if b.id = id then f b else b }

/-- Commands under a barrier that dispatch tiles. -/
def Dev.groupCmds (d : Dev) (id : Nat) : List Cmd :=
  (d.hif.cmds.filter fun e => e.2.barrier == some id && e.2.onCores && e.2.moreTiles).map (·.2)

/-- BARRIER completes (R326). -/
def Dev.barrierOver (d : Dev) (now : Nat) (b : Barrier) : Dev :=
  ((d.onNet fun n => { n with barriers := n.barriers.filter fun x => x.id != b.id }).finish now b.cmd .completed).after now

/-- Every arrival is in and every following command admitted or over; a group without tiles then completes. -/
def Barrier.ready (b : Barrier) : Bool := b.toSend.isEmpty && b.waitArr.isEmpty && b.left == 0

/-- BARRIER_ARRIVAL. -/
def Dev.arrivalAt (d : Dev) (i : Nat) : Dev :=
  match d.net.notes[i]? with
  | some (.arrival id dp) => (d.dropNote i).onBarrier id fun b => { b with waitArr := b.waitArr.filter (· != dp) }
  | _ => d

/-- BARRIER_ARRIVAL. -/
def execBarrierArrival (i : Nat) (s : State) := s.run fun _ d => d.arrivalAt i

/-- Share `r` among counted places in proportion, by largest remainder, the first place first, none beyond its count
(R429); `w` is the list of counts. -/
def shareOut (r : Nat) (w : List Nat) : List Nat :=
  let total := max 1 (w.foldl (· + ·) 0)
  let base := w.map fun x => min x (r * x / total)
  let rems := w.map fun x => r * x % total
  let left := r - base.foldl (· + ·) 0
  let order := sortBy (fun i j => decide (rems.getD j 0 ≤ rems.getD i 0)) (List.range w.length)
  let extra := (order.filter fun i => decide (base.getD i 0 < w.getD i 0)).take left
  base.zipIdx.map fun (x, i) => if extra.contains i then x + 1 else x

/-- Leave powers of the cores a barrier's commands will start on a die pair, in the order of the commands, no more than
the cores serving there. -/
def Dev.groupOn (d : Dev) (b : Barrier) (dp : Nat) : List Nat :=
  let l := (d.groupCmds b.id).flatMap fun m =>
    let w := diePairs.map fun x => ((d.coresIn m.ast (cmdMask m.slot)).filter fun c => coreDp c == x).length
    List.replicate ((shareOut (d.concurrency m.ast m.tiles m.slot) w).getD dp 0) (d.cmdLeave m dp)
  l.take ((d.coresOf b.ast).filter fun c => coreDp c == dp && (d.coreAt c).serving).length

/-- Cores of a die pair in one wave: max(1, floor(STEP_W / p)) for the largest power p; without leave, all of them. -/
def Dev.perWave (d : Dev) (l : List Nat) : Nat :=
  let p := l.foldl max 0
  if p = 0 then max 1 l.length else max 1 (d.get PWR_WAVE.STEP_W * 1000 / p)

/-- The wave plan of a group's counts: cores per die pair for each wave. -/
def wavePlan (counts per : List Nat) : List (List Nat) :=
  let n := (List.zipWith (fun c p => ceilDiv c (max 1 p)) counts per).foldl max 0
  (List.range n).map fun k => List.zipWith (fun c p => min p (c - k * p)) counts per

/-- The group's leave is granted, from a booking where it covers the sum, and the waves are planned. -/
def Dev.grantGroup (d : Dev) (id : Nat) (book : Option Nat) (groups : List (List Nat)) : Dev :=
  let give := fun (d : Dev) (e : List Nat × Nat) =>
    let d := (d.onPmu e.2 fun u => { u with leave := u.leave + e.1.foldl (· + ·) 0 }).drawBooking book (e.1.foldl (· + ·) 0)
    { d with pwr := { d.pwr with grants := d.pwr.grants ++ (e.1.filter (· != 0)).map fun p =>
        { why := .barrier id, dp := e.2, p := p, booking := book } } }
  (groups.zipIdx.foldl give d).onBarrier id fun b => { b with
    planned := true, waves := wavePlan (groups.map (·.length)) (groups.map d.perWave)
    delta := d.get PWR_WAVE.DELTA * 100 }

/-- WAVE_PLAN: a group without tiles completes; else its leave is granted whole when the tests of R425 pass, and its
waves are planned (R429). -/
def Dev.planWaves (d : Dev) (now id : Nat) : Dev :=
  match d.barrier id with
  | none => d
  | some b =>
    if b.planned || !b.ready then d
    else
      let groups := diePairs.map fun dp => d.groupOn b dp
      let sum := groups.foldl (fun n l => n + l.foldl (· + ·) 0) 0
      if groups.all (·.isEmpty) then d.barrierOver now b
      else
        let book := ((d.groupCmds id).head?).bind fun m => d.openBooking m.ctx sum
        if sum ≠ 0 ∧ !((book.isSome || d.capTest sum) && d.bufferTest sum) then d
        else d.grantGroup id book groups

/-- WAVE_PLAN. -/
def execWavePlan (id : Nat) (s : State) := s.run fun now d => d.planWaves now id

/-- BARRIER_RELEASE: the next wave's release goes out, no sooner than Δ after the one before. -/
def Dev.sendWave (d : Dev) (now id : Nat) : Dev :=
  match d.barrier id with
  | none => d
  | some b =>
    if !b.planned || decide (b.waves.length ≤ b.sent) || (decide (0 < b.sent) && decide (now < b.lastAt + b.delta)) then d
    else
      let w := b.waves.getD b.sent []
      let dps := diePairs.filter fun dp => decide (0 < w.getD dp 0)
      (d.notes (dps.map fun dp => .release id b.sent dp)).onBarrier id fun b => { b with
        sent := b.sent + 1, lastAt := now, unacked := b.unacked ++ dps.map fun dp => ⟨b.sent, dp, now, 1⟩ }

/-- BARRIER_RELEASE. -/
def execBarrierRelease (id : Nat) (s : State) := s.run fun now d => d.sendWave now id

/-- RELEASE_MESSAGE: a dispatcher acts on a release once, and acknowledges it each time. -/
def Dev.gotRelease (d : Dev) (i : Nat) : Dev :=
  match d.net.notes[i]? with
  | some (.release id w dp) =>
    let d := (d.dropNote i).notes [.releaseAck id w dp]
    if d.net.acted.contains (id, w, dp) then d
    else match d.barrier id with
      | none => d
      | some b =>
        let n := (b.waves.getD w []).getD dp 0
        let more := fun (x : Nat × Nat × Nat) => if x.1 = id ∧ x.2.1 = dp then (id, dp, x.2.2 + n) else x
        let has := d.net.wave.any fun x => x.1 == id && x.2.1 == dp
        d.onNet fun t => { t with
          acted := t.acted ++ [(id, w, dp)], wave := if has then t.wave.map more else t.wave ++ [(id, dp, n)] }
  | _ => d

/-- RELEASE_MESSAGE. -/
def execReleaseMessage (i : Nat) (s : State) := s.run fun _ d => d.gotRelease i

/-- The last release has been sent and every release acknowledged. -/
def Barrier.acked (b : Barrier) : Bool := b.planned && decide (b.waves.length ≤ b.sent) && b.unacked.isEmpty

/-- Complete a barrier whose releases are all acknowledged. -/
def Dev.barrierAcked (d : Dev) (now id : Nat) : Dev :=
  match d.barrier id with
  | some b => if b.acked then d.barrierOver now b else d
  | none => d

/-- RELEASE_ACK. -/
def Dev.gotAck (d : Dev) (now i : Nat) : Dev :=
  match d.net.notes[i]? with
  | some (.releaseAck id w dp) =>
    ((d.dropNote i).onBarrier id fun b => { b with
      unacked := b.unacked.filter fun u => !(u.wave == w && u.dp == dp) }).barrierAcked now id
  | _ => d

/-- RELEASE_ACK. -/
def execReleaseAck (i : Nat) (s : State) := s.run fun now d => d.gotAck now i

/-- RELEASE_RETRANSMIT: 2 µs without an acknowledgement; after three, 0x0409 and the die pair's service is reset. -/
def Dev.resendRelease (d : Dev) (now id dp : Nat) : Dev :=
  match d.barrier id with
  | none => d
  | some b =>
    match b.unacked.find? fun u => u.dp == dp && decide (u.at_ + 2000 ≤ now) with
    | none => d
    | some u =>
      if u.tries < 3 then
        (d.notes [.release id u.wave dp]).onBarrier id fun b => { b with
          unacked := b.unacked.map fun x => if x = u then { x with at_ := now, tries := x.tries + 1 } else x }
      else
        (((d.onBarrier id fun b => { b with unacked := b.unacked.filter fun x => x.dp != dp }).raise 0x0409 (svcUnit dp) 0x02
          .contained [dp, id] (some (b.ast, b.ctx))).requestReset now 3 dp 0x0409).barrierAcked now id

/-- RELEASE_RETRANSMIT. -/
def execReleaseRetransmit (id dp : Nat) (s : State) := s.run fun now d => d.resendRelease now id dp

/-! ### Flag notices -/

/-- Parked WAITs of a die pair whose condition on an event now holds. -/
def Dev.wokenBy (d : Dev) (dp e : Nat) : List Nat :=
  match Tbl.find d.hif.events e with
  | none => []
  | some v => (d.hif.cmds.filter fun c => c.2.phase == .parked && hOp c.2.slot == 5 && fld c.2.slot 0x10 0 20 == e &&
      d.home c.2.ast == dp && waitHolds c.2.slot v).map (·.1)

/-- FLAG_NOTICE: the dispatcher reads the event again; WAITs whose condition holds complete. -/
def Dev.gotFlag (d : Dev) (now i : Nat) : Dev :=
  match d.net.notes[i]? with
  | some (.flag dp e) =>
    let d := d.dropNote i
    let ab := ((Tbl.find d.hif.events e).map (·.abandoned)).getD false
    let wake := fun (d : Dev) (id : Nat) =>
      (d.onCmd id fun m => { m with abandoned := ab }).unpark now id .completed false
    ((d.wokenBy dp e).foldl wake d).after now
  | _ => d

/-- FLAG_NOTICE. -/
def execFlagNotice (i : Nat) (s : State) := s.run fun now d => d.gotFlag now i

/-! ### Maintenance rings -/

/-- Die pairs in ring order (R254). -/
def ringOrder : List Nat := [0, 1, 2, 3, 7, 6, 5, 4]

/-- With the given links of a ring broken, a base die that both entry points reach only across a break (R255). -/
def ringCut (broken : List Nat) : Option Nat :=
  let cut := fun i =>
    if i < 4 then (broken.any fun k => decide (k < i)) && broken.any fun k => decide (i ≤ k) && decide (k < 4)
    else (broken.any fun k => decide (4 ≤ k) && decide (k < i)) && broken.any fun k => decide (i ≤ k)
  ([1, 2, 3, 5, 6, 7].find? cut).map fun i => ringOrder.getD i 0

/-- A ring link breaks: 0x0408; a base die left unreachable brings a package reset. -/
def Dev.ringBreaks (d : Dev) (now net link : Nat) : Dev :=
  if d.net.broken.contains (net, link) then d
  else
    let d := d.onNet fun n => { n with broken := n.broken ++ [(net, link)] }
    let cut := ringCut ((d.net.broken.filter fun x => x.1 == net).map (·.2))
    let d := (d.raise 0x0408 (svcUnit (ringOrder.getD link 0)) 0x02 (if cut.isSome then .fatal else .degraded) [net, link]).almEntry
      (svcUnit (ringOrder.getD link 0)) 0x0408
    match cut with
    | some dp => d.requestReset now 5 (svcUnit dp) 0x0408
    | none => d

/-- MAINT_LINK_DOWN. -/
def execMaintLinkDown (net link : Nat) (s : State) := s.run fun now d => d.ringBreaks now net link

end Sys2Proof.Machine
end

