-- ==== Sys2Proof/Machine/Mapping.lean ====
section
/-!
DEFINITION. Writing the translation tables: MAP (R186 to R188), UNMAP and INVALIDATE (R189 to R191, R401), the
invalidation broadcast (R192 to R194) and the purge list (R190).
-/

namespace Sys2Proof.Machine

/-! ### Tables -/

/-- Does a table entry's page overlap addresses `lo` to `hi` of asterism `a`? -/
def entryIn (a lo hi : Nat) (x : Nat × TEntry) : Bool :=
  x.2.ast == a && decide (tkeyVa x.1 < hi) && decide (lo < tkeyVa x.1 + pageBytes x.2.ps)

/-- Does a table entry's page lie wholly within those addresses? -/
def entryWithin (a lo hi : Nat) (x : Nat × TEntry) : Bool :=
  x.2.ast == a && decide (lo ≤ tkeyVa x.1) && decide (tkeyVa x.1 + pageBytes x.2.ps ≤ hi)

/-- Entries that a context tag names: SCOPE 1 of UNMAP, and the purge (R190). -/
def entryOfTag (a ctx : Nat) (x : Nat × TEntry) : Bool := x.2.ast == a && x.2.ctx == ctx && !x.2.shr

/-- A pending page is removed: its pull is abandoned, and a gone notice follows (R184). -/
def Dev.pendGone (d : Dev) (s page : Nat) : Dev :=
  match (d.stack s).pendOf page with
  | some (k, _) => (d.dropPull s k).endPending s k (.gone s k)
  | none => d

/-- Clear the entries of a stack's table that `p` holds of, with their pending pages. -/
def Dev.clearEntries (d : Dev) (s : Nat) (p : Nat × TEntry → Bool) : Dev :=
  let pages := ((d.stack s).table.filter p).map (·.1)
  pages.foldl (fun d k => d.pendGone s k) (d.onStack s fun t => { t with table := t.table.filter fun e => !p e })

/-- A page's entry is written in one table write (R188); what the unit holds of the page's old entry goes. -/
def Dev.writeEntry (d : Dev) (now s key : Nat) (e : TEntry) : Dev :=
  let lo := tkeyVa key
  let old := entryIn e.ast lo (lo + pageBytes e.ps)
  let d := d.onStack s fun t => { t with
    table := Tbl.put (t.table.filter fun x => !old x) key e, cache := t.cache.filter fun x => !old x }
  match (d.stack s).pendOf key with
  | none => d
  | some (k, p) =>
    if e.p then (d.dropPull s k).endPending s k (.presence s k)
    else if e.pool && p.pull.isNone then d.startPull now s k key e
    else d

/-! ### Invalidation (R192 to R194) -/

/-- Does an invalidation's scope hold a page of an asterism, mapped by an entry? -/
def Inval.covers (v : Inval) (x : Nat × TEntry) : Bool :=
  x.2.ast == v.ast && (match v.ctx with
    | some c => x.2.ctx == c && !x.2.shr
    | none => decide (tkeyVa x.1 < v.hi) && decide (v.lo < tkeyVa x.1 + pageBytes x.2.ps))

/-- Is a request that a stack has translated in the scope? -/
def Inval.holds (v : Inval) (r : Req) : Bool :=
  r.tags.ast == v.ast && (match v.ctx with
    | some c => r.tags.ctx == c
    | none => decide (v.lo ≤ r.va) && decide (r.va < v.hi))

/-- The stacks an UNMAP, INVALIDATE or doorbell takes in (Table 6-6). -/
def Dev.scopeStacks (d : Dev) (a mask : Nat) : List Nat := if mask = 0 then d.stacksOf a else allStacks.filter (bit mask)

/-- Are sixteen invalidations of the asterism outstanding?  (R192) -/
def Dev.invalsFull (d : Dev) (a : Nat) : Bool := decide (16 ≤ (d.net.invals.filter fun v => v.ast == a).length)

/-- Send an invalidation to its stacks; its number. -/
def Dev.sendInval (d : Dev) (now a : Nat) (ctx : Option Nat) (lo hi : Nat) (sts : List Nat) (cmd : Option Nat)
    (doorbell : Bool) : Dev × Nat :=
  let id := d.net.invId
  let v : Inval := { id := id, ast := a, ctx := ctx, lo := lo, hi := hi, wait := sts, at_ := now, cmd := cmd
                     doorbell := doorbell, late := [] }
  ((d.onNet fun n => { n with invals := n.invals ++ [v], invId := id + 1 }).notes (sts.map fun s => .inval id s), id)

/-! ### MAP (R186 to R188) -/

/-- VA of MAP, UNMAP and INVALIDATE. -/
def pVa (x : Line) : Nat := fld x 0x10 0 56
/-- COUNT. -/
def pCount (x : Line) : Nat := fld x 0x18 0 17
/-- STACKS. -/
def pStacks (x : Line) : Nat := fld x 0x1C 0 32
/-- REPLACE of MAP. -/
def mReplace (x : Line) : Bool := fld x 0x18 31 1 == 1
/-- FSTEP of MAP. -/
def mFstep (x : Line) : Nat := fld x 0x30 0 19

/-- The template entry of a MAP (Table 6-2). -/
def mEntry (x : Line) : TEntry where
  p := fld x 0x20 1 1 == 1
  ps := fld x 0x20 2 1 == 1
  rd := fld x 0x20 3 1 == 1
  wr := fld x 0x20 4 1 == 1
  hw := fld x 0x20 5 1 == 1
  shr := fld x 0x20 6 1 == 1
  pool := fld x 0x20 7 1 == 1
  dirty := fld x 0x20 8 1 == 1
  ast := fld x 0x20 10 6
  dom := fld x 0x20 16 4
  ctx := fld x 0x20 20 16
  share := fld x 0x20 36 9 + 1
  frame := fld x 0x20 45 19
  pidx := fld x 0x28 0 4
  pgen := fld x 0x28 4 4
  ppn := fld x 0x28 8 40

/-- Entry of page j (R187). -/
def mapEntry (x : Line) (j : Nat) : TEntry :=
  let e := mEntry x
  { e with frame := e.frame + j * mFstep x, ppn := if e.pool then e.ppn + j * (pageBytes e.ps / 65536) else e.ppn }

/-- A failing field, named by the bit of the command at which it begins. -/
def fieldBit (o lo : Nat) : Nat := 8 * o + lo

/-- Stacks in which a region has a channel; the target of a move counts (R284). -/
def CMap.regionStacks (m : CMap) (g : Region) : List Nat :=
  (List.range g.n).flatMap fun i =>
    chanStack (Tbl.look 0 m.list (g.loff + i)) ::
      (match Tbl.find m.moves (g.loff + i) with | some v => [chanStack v.target] | none => [])

/-- The checks of R187 that concern the command as a whole: the failing field. -/
def mapBad (x : Line) (a dom : Nat) : Option Nat :=
  let e := mEntry x
  if !allZero x [(0x10, 56, 8)] then some (fieldBit 0x10 56)
  else if !allZero x [(0x18, 17, 14)] then some (fieldBit 0x18 17)
  else if !allZero x [(0x20, 9, 1)] then some (fieldBit 0x20 9)
  else if !allZero x [(0x28, 48, 16)] then some (fieldBit 0x28 48)
  else if !allZero x [(0x30, 19, 45)] then some (fieldBit 0x30 19)
  else if !allZero x [(0x38, 0, 64)] then some (fieldBit 0x38 0)
  else if pCount x = 0 ∨ 65536 < pCount x then some (fieldBit 0x18 0)
  else if pVa x % pageBytes e.ps ≠ 0 then some (fieldBit 0x10 0)
  else if fld x 0x20 0 1 = 0 then some (fieldBit 0x20 0)
  else if e.dirty then some (fieldBit 0x20 8)
  else if e.ast ≠ a then some (fieldBit 0x20 10)
  else if e.dom ≠ dom then some (fieldBit 0x20 16)
  else none

/-- The checks of R187 on page j: stack and failing field. -/
def Dev.mapPageBad (d : Dev) (x : Line) (a : Nat) (sts : List Nat) (j : Nat) : Option (Nat × Nat × Nat) :=
  let e := mapEntry x j
  let va := pVa x + j * pageBytes e.ps
  let first := sts.headD 0
  match (d.curMap a).bind fun m => (m.regionOf va).map fun g => (m, g.2) with
  | none => some (first, j, fieldBit 0x10 0)
  | some (m, g) =>
    if g.ps != e.ps then some (first, j, fieldBit 0x20 2)
    else if !sts.any fun s => (m.regionStacks g).contains s then some (first, j, fieldBit 0x1C 0)
    else if 392192 < e.frame + e.share then some (first, j, fieldBit 0x20 45)
    else if e.pool && !(d.poolLive e.pidx (d.partner (poolEntry e.pidx)).gen) then some (first, j, fieldBit 0x28 0)
    else if e.pool && !d.poolLive e.pidx e.pgen then some (first, j, fieldBit 0x28 4)
    else if mReplace x then none
    else (sts.find? fun s => (d.stack s).table.any (entryIn a va (va + pageBytes e.ps))).map fun s =>
      (s, j, fieldBit 0x18 31)

/-- The table of a stack with the pages of a MAP written. -/
def mapTable (t : Tbl TEntry) (x : Line) : Tbl TEntry :=
  (List.range (pCount x)).foldl (fun t j =>
    let e := mapEntry x j
    let va := pVa x + j * pageBytes e.ps
    Tbl.put (t.filter fun y => !entryIn e.ast va (va + pageBytes e.ps) y) (pkey e.ast e.ps va) e) t

/-- Node limit of an asterism in a stack: 768 for each slot bound to it (R175); a move's target is bound (R285). -/
def Dev.nodeLimit (d : Dev) (a s : Nat) : Nat := 768 * d.slotsOf a s

/-- Nodes in use in a stack's pool. -/
def Dev.nodesInUse (d : Dev) (s : Nat) (t : Tbl TEntry) : Nat :=
  (List.range 64).foldl (fun n a =>
    if d.holdsStack a s || t.any (fun e => tkeyAst e.1 == a) then n + nodesUsed t a else n) 0

/-- The stack where a MAP would pass its asterism's quota or the free pool (R175, R187): stack, quota, used. -/
def Dev.mapNodes (d : Dev) (x : Line) (a : Nat) (sts : List Nat) : Option (Nat × Nat × Nat) :=
  sts.findSome? fun s =>
    let old := (d.stack s).table
    let new := mapTable old x
    let used := nodesUsed old a
    if used < nodesUsed new a ∧ (d.nodeLimit a s < nodesUsed new a ∨ d.nodePool s < d.nodesInUse s new) then
      some (s, d.nodeLimit a s, used)
    else none

/-- Write the pages of a MAP, in increasing j, in every named stack. -/
def Dev.writePages (d : Dev) (now : Nat) (x : Line) (sts : List Nat) : Dev :=
  (List.range (pCount x)).foldl (fun d j =>
    let e := mapEntry x j
    sts.foldl (fun d s => d.writeEntry now s (pkey e.ast e.ps (pVa x + j * pageBytes e.ps)) e) d) d

/-- A refusal of MAP, UNMAP or INVALIDATE: POLICY and 0x0308, with the stack, the page and the field (R187, R190). -/
def Dev.refuseMap (d : Dev) (now : Nat) (h : Head) (b : Nat × Nat × Nat) : Dev :=
  (d.raise 0x0308 (stackUnit b.1) 0x00 .info [b.1, b.2.1, b.2.2] (some (h.ctx.ast, h.queue.ctx))).reject now h .refused
    .policy 0x0308 none

/-- The first check of R187 that fails: stack, page, field. -/
def Dev.mapCheck (d : Dev) (x : Line) (a : Nat) : Option (Nat × Nat × Nat) :=
  let sts := allStacks.filter (bit (pStacks x))
  match mapBad x a (d.domOf a) with
  | some f => some (sts.headD 0, 0, f)
  | none => (List.range (pCount x)).findSome? (d.mapPageBad x a sts)

/-- Does a MAP wait for its context's purge, and has the tag been listed again while it waited?  (R190) -/
def Dev.mapWaits (d : Dev) (x : Line) (a : Nat) : Bool :=
  (allStacks.filter (bit (pStacks x))).any fun s => (d.stack s).purge.contains (a, (mEntry x).ctx)

/-- Was the tag that the MAP at the head waits for listed again? -/
def Head.relisted (h : Head) : Bool := h.queue.mapTag == some (h.f.pos, true)

/-- MAP, once it waits for no purge. -/
def Dev.mapNow (d : Dev) (now : Nat) (h : Head) : Dev :=
  let x := h.f.slot
  let a := h.ctx.ast
  let sts := allStacks.filter (bit (pStacks x))
  match d.mapCheck x a with
  | some b => d.refuseMap now h b
  | none =>
    match d.mapNodes x a sts with
    | some (s, limit, used) =>
      (d.raise 0x0309 (stackUnit s) 0x00 .info [s, limit, used] (some (a, h.queue.ctx))).reject now h .refused .memory
        0x0309 none
    | none =>
      let lo := pVa x
      let hi := lo + pCount x * pageBytes (mEntry x).ps
      if mReplace x && sts.any fun s => (d.stack s).table.any (entryIn a lo hi) then
        if d.invalsFull a then d
        else
          let (d, id) := d.accept h (d.newCmd now h)
          let (d, v) := d.sendInval now a none lo hi sts (some id) false
          d.onCmd id fun m => { m with inval := some v }
      else (d.writePages now x sts).acceptDone now h (d.newCmd now h) .completed

/-- MAP. -/
def Dev.doMap (d : Dev) (now : Nat) (h : Head) : Dev :=
  let x := h.f.slot
  let a := h.ctx.ast
  d.named now h (d.nameCompletion a x) <|
    if h.relisted then
      (d.onQueue h.q fun k => { k with mapTag := none }).refuseMap now h
        ((allStacks.filter (bit (pStacks x))).headD 0, 0, fieldBit 0x20 20)
    else if d.mapWaits x a then
      d.onQueue h.q fun k => { k with mapTag := some (h.f.pos, false) }
    else (d.onQueue h.q fun k => { k with mapTag := none }).mapNow now h

/-- MAP. -/
def execMap (q : Nat) (s : State) := s.run fun now d => d.takeHead now q (opIs 0x0D) fun d h => d.doMap now h

/-! ### UNMAP and INVALIDATE (R189 to R191, R401) -/

/-- PS of UNMAP and INVALIDATE. -/
def uPs (x : Line) : Bool := fld x 0x18 17 1 == 1
/-- WB of UNMAP. -/
def uWb (x : Line) : Bool := fld x 0x18 18 1 == 1
/-- SCOPE. -/
def uScope (x : Line) : Nat := fld x 0x20 0 2
/-- CTX. -/
def uCtx (x : Line) : Nat := fld x 0x22 0 16

/-- End of the range of SCOPE 0. -/
def uEnd (x : Line) : Nat := pVa x + pCount x * pageBytes (uPs x)

/-- The checks of R190 on the fields: the failing one. -/
def unmapBad (x : Line) (inv : Bool) : Option Nat :=
  let s := uScope x
  if !allZero x [(0x10, 56, 8)] then some (fieldBit 0x10 56)
  else if !allZero x [(0x18, 19, 13)] then some (fieldBit 0x18 19)
  else if !allZero x [(0x20, 2, 14)] then some (fieldBit 0x20 2)
  else if !allZero x [(0x24, 0, 224)] then some (fieldBit 0x24 0)
  else if inv && uWb x then some (fieldBit 0x18 18)
  else if s = 3 ∨ (s = 2 ∧ !inv) then some (fieldBit 0x20 0)
  else if s ≠ 0 ∧ pVa x ≠ 0 then some (fieldBit 0x10 0)
  else if s ≠ 0 ∧ pCount x ≠ 0 then some (fieldBit 0x18 0)
  else if s ≠ 0 ∧ uPs x then some (fieldBit 0x18 17)
  else if s ≠ 1 ∧ uCtx x ≠ 0 then some (fieldBit 0x22 0)
  else if s = 0 ∧ (pCount x = 0 ∨ 65536 < pCount x) then some (fieldBit 0x18 0)
  else if s = 0 ∧ pVa x % pageBytes (uPs x) ≠ 0 then some (fieldBit 0x10 0)
  else none

/-- An entry of a named stack that lies only partly in the range of an UNMAP: stack, page, field. -/
def Dev.unmapPartly (d : Dev) (x : Line) (a : Nat) (sts : List Nat) : Option (Nat × Nat × Nat) :=
  sts.findSome? fun s =>
    ((d.stack s).table.find? fun e => entryIn a (pVa x) (uEnd x) e && !entryWithin a (pVa x) (uEnd x) e).map fun e =>
      (s, (max (tkeyVa e.1) (pVa x) - pVa x) / pageBytes (uPs x), fieldBit 0x10 0)

/-- Entries an UNMAP clears in a stack. -/
def unmapScope (x : Line) (a : Nat) : Nat × TEntry → Bool :=
  if uScope x = 0 then entryWithin a (pVa x) (uEnd x) else entryOfTag a (uCtx x)

/-- A tag goes on a stack's purge list, where it takes effect at once; MAPs that wait for it see it listed again. -/
def Dev.listTag (d : Dev) (s a ctx : Nat) : Dev :=
  let d := d.onStack s fun t => { t with purge := if t.purge.contains (a, ctx) then t.purge else t.purge ++ [(a, ctx)] }
  let again := fun (_ : Nat) (k : Queue) => match k.mapTag with
    | some (p, false) =>
      (match k.fetched, Tbl.find d.hif.ctxs k.ctx with
       | f :: _, some c =>
         if c.ast = a ∧ (mEntry f.slot).ctx = ctx ∧ bit (pStacks f.slot) s then { k with mapTag := some (p, true) } else k
       | _, _ => k)
    | _ => k
  d.onHif fun h => { h with queues := Tbl.mapV again h.queues }

/-- Is a stack's purge list full for one more tag? -/
def Dev.purgeFull (d : Dev) (s a ctx : Nat) : Bool :=
  decide (256 ≤ (d.stack s).purge.length) && !(d.stack s).purge.contains (a, ctx)

/-- Clear what an UNMAP of command `m` has in its scope; pages that could not be written back keep their entries. -/
def Dev.clearScope (d : Dev) (m : Cmd) : Dev :=
  let x := m.slot
  (d.scopeStacks m.ast (pStacks x)).foldl (fun d s =>
    let kept := fun (k : Nat) => m.keepPages.contains (s, k)
    if uScope x = 1 ∧ m.keepPages.isEmpty then d.listTag s m.ast (uCtx x)
    else d.clearEntries s fun e => unmapScope x m.ast e && !kept e.1) d

/-- The invalidation of an UNMAP or INVALIDATE is sent for command `id`. -/
def Dev.invalidateFor (d : Dev) (now id : Nat) (m : Cmd) : Dev :=
  let x := m.slot
  let ctx := if uScope x = 1 then some (uCtx x) else none
  let (lo, hi) := if uScope x = 0 then (pVa x, uEnd x) else (0, 2 ^ 56)
  let (d, v) := d.sendInval now m.ast ctx lo hi (d.scopeStacks m.ast (pStacks x)) (some id) false
  d.onCmd id fun m => { m with inval := some v }

/-- An UNMAP whose write-backs are over clears its scope and runs its invalidation. -/
def Dev.unmapGo (d : Dev) (now id : Nat) : Dev :=
  match Tbl.find d.hif.cmds id with
  | none => d
  | some m => (d.clearScope m).invalidateFor now id m

/-- Dirty pool-backed pages in an UNMAP's scope: stack and page. -/
def Dev.dirtyPages (d : Dev) (x : Line) (a : Nat) : List (Nat × Nat × TEntry) :=
  (d.scopeStacks a (pStacks x)).flatMap fun s =>
    ((d.stack s).table.filter fun e => unmapScope x a e && e.2.pool && e.2.dirty && e.2.p).map fun e => (s, e.1, e.2)

/-- What a write-back sends: the unit's four granules as they stand. -/
def Dev.unitData (d : Dev) (key : Nat) (e : TEntry) (u : Nat) : List Line :=
  match d.unitPlace key e u with
  | none => []
  | some (l, off) => (List.range 4).map fun i =>
    d.plain (chanStack l) (d.gran (granKey (d.physChan l) (granOf off + i)))

/-- Write-backs of an UNMAP: every dirty page, in units of 256 bytes. -/
def Dev.writeBacks (d : Dev) (id : Nat) (l : List (Nat × Nat × TEntry)) : List PoolReq :=
  l.flatMap fun (s, k, e) => (d.pullUnits s k).map fun u =>
    { d.poolReq (.writeBack id k u) s e u with data := d.unitData k e u }

/-- UNMAP, its fields checked. -/
def Dev.unmapNow (d : Dev) (now : Nat) (h : Head) (sts : List Nat) : Dev :=
  let x := h.f.slot
  let a := h.ctx.ast
  if d.invalsFull a || (uScope x == 1 && sts.any fun s => d.purgeFull s a (uCtx x)) then d
  else
    let dirty := if uWb x then d.dirtyPages x a else []
    let (d, id) := d.accept h (d.newCmd now h)
    let wb := d.writeBacks id dirty
    if wb.isEmpty then d.unmapGo now id else d.askPool now wb

/-- An invalidation with no stack to wait for completes its command at once. -/
def Dev.settleInval (d : Dev) (now id : Nat) : Dev :=
  match Tbl.find d.hif.cmds id with
  | some m =>
    (match m.inval.bind fun v => d.net.invals.find? fun x => x.id == v with
     | some v => if v.wait.isEmpty then
         (d.onNet fun n => { n with invals := n.invals.filter fun x => x.id != v.id }).finish now id .completed
       else d
     | none => d)
  | none => d

/-- UNMAP. -/
def Dev.doUnmap (d : Dev) (now : Nat) (h : Head) : Dev :=
  let x := h.f.slot
  let a := h.ctx.ast
  let sts := d.scopeStacks a (pStacks x)
  d.named now h (d.nameCompletion a x) <|
    match unmapBad x false with
    | some f => d.refuseMap now h (sts.headD 0, 0, f)
    | none =>
      match (if uScope x = 0 then d.unmapPartly x a sts else none) with
      | some b => d.refuseMap now h b
      | none => (d.unmapNow now h sts).settleInval now d.hif.nextCmd

/-- UNMAP. -/
def execUnmap (q : Nat) (s : State) := s.run fun now d => d.takeHead now q (opIs 0x0E) fun d h => d.doUnmap now h

/-- INVALIDATE. -/
def Dev.doInvalidate (d : Dev) (now : Nat) (h : Head) : Dev :=
  let x := h.f.slot
  let a := h.ctx.ast
  d.named now h (d.nameCompletion a x) <|
    match unmapBad x true with
    | some f => d.refuseMap now h ((d.scopeStacks a (pStacks x)).headD 0, 0, f)
    | none =>
      if d.invalsFull a then d
      else
        let (d, id) := d.accept h (d.newCmd now h)
        match Tbl.find d.hif.cmds id with
        | some m => (d.invalidateFor now id m).settleInval now id
        | none => d

/-- INVALIDATE. -/
def execInvalidate (q : Nat) (s : State) := s.run fun now d => d.takeHead now q (opIs 0x0F) fun d h => d.doInvalidate now h

/-! ### The units' part (Table 6-7) -/

/-- An invalidation by number. -/
def Dev.invalOf (d : Dev) (id : Nat) : Option Inval := d.net.invals.find? fun v => v.id == id

/-- Is note `i` the first invalidation on its way to its stack?  (arrival order, R192) -/
def Dev.firstInval (d : Dev) (i s : Nat) : Bool :=
  (d.net.notes.take i).all fun n => match n with | .inval _ t => t != s | _ => true

/-- INVALIDATION_MESSAGE: the unit drops the cached entries in scope, and acknowledges once no request that it has
translated under them is still to be served. -/
def Dev.invalArrives (d : Dev) (i : Nat) : Dev :=
  match d.net.notes[i]? with
  | some (.inval id s) =>
    (match d.invalOf id with
     | none => d.onNet fun n => { n with notes := dropAt n.notes i }
     | some v =>
       if !d.firstInval i s || !(d.stack s).ingress then d
       else
         let d := d.onStack s fun t => { t with cache := t.cache.filter fun e => !v.covers e }
         if (d.stack s).biWait.any v.holds then d
         else (d.onNet fun n => { n with notes := dropAt n.notes i }).notes [.invAck id s])
  | _ => d

/-- INVALIDATION_MESSAGE. -/
def execInvalidationMessage (i : Nat) (s : State) := s.run fun _ d => d.invalArrives i

/-- Step 5 of a revocation that waited for invalidation `id` is done (Table 10-17). -/
def Dev.revokeStep5 (d : Dev) (id : Nat) : Dev :=
  let f := fun (_ : Nat) (c : Ctx) => match c.revoke with
    | some r => if r.inval == some id then { c with revoke := some { r with inval := none, step5 := true } } else c
    | none => c
  d.onHif fun h => { h with ctxs := Tbl.mapV f h.ctxs }

/-- The invalidation ends: every acknowledgement has come, or R194 ends it. -/
def Dev.invalOver (d : Dev) (now : Nat) (v : Inval) (late : List Nat) : Dev :=
  let d := d.onNet fun n => { n with invals := n.invals.filter fun x => x.id != v.id }
  let d := d.revokeStep5 v.id
  let d := if v.doorbell then
      let d := d.set HIF_INV_STATUS.BUSY 0
      if late.isEmpty then d
      else (d.set HIF_INV_STATUS.TIMEOUT 1).set HIF_INV_STATUS.LATE (late.foldl (fun n s => n ||| 2 ^ s) 0)
    else d
  match v.cmd with
  | none => d
  | some id =>
    match Tbl.find d.hif.cmds id with
    | none => d
    | some m =>
      if !late.isEmpty then ((d.onCmd id fun m => { m with err := 0x030B }).finish now id .fenced).after now
      else
        let d := if hOp m.slot = 0x0D then d.writePages now m.slot (allStacks.filter (bit (pStacks m.slot))) else d
        (d.finish now id (m.forced.getD .completed)).after now

/-- INVALIDATION_ACK: an acknowledgement reaches the admission controller; the last one completes the command. -/
def Dev.invalAcked (d : Dev) (now i : Nat) : Dev :=
  match d.net.notes[i]? with
  | some (.invAck id s) =>
    let d := d.onNet fun n => { n with notes := dropAt n.notes i }
    (match d.invalOf id with
     | none => d
     | some v =>
       let v := { v with wait := v.wait.filter (· != s) }
       if v.wait.isEmpty then d.invalOver now v []
       else d.onNet fun n => { n with invals := n.invals.map fun x => if x.id = id then v else x })
  | _ => d

/-- INVALIDATION_ACK. -/
def execInvalidationAck (i : Nat) (s : State) := s.run fun now d => d.invalAcked now i

/-- A stack is closed to an asterism (R194): 0x030B. -/
def Dev.closeStack (d : Dev) (a s : Nat) (sev : Sev) : Dev :=
  (d.onStack s fun t => { t with closed := if t.closed.contains a then t.closed else t.closed ++ [a] }).raise 0x030B
    (svcUnit (d.home a)) 0x00 sev [s] (some (a, 0))

/-- TRN_INV_TIMEOUT: 45 µs without every acknowledgement; the logic dies that are late are reset (Table 14-3). -/
def Dev.invalLate (d : Dev) (now id : Nat) : Dev :=
  match d.invalOf id with
  | none => d
  | some v =>
    if now < v.at_ + 45000 then d
    else
      let sev : Sev := if v.cmd.isSome then .contained else .degraded
      let d := v.wait.foldl (fun d s => (d.closeStack v.ast s sev).requestReset now 2 s 0x030B) d
      d.invalOver now v v.wait

/-- TRN_INV_TIMEOUT. -/
def execTrnInvTimeout (id : Nat) (s : State) := s.run fun now d => d.invalLate now id

/-- PURGE_COMPLETE: the background clearing of a tag is done; the tag leaves the list. -/
def Dev.purged (d : Dev) (s a ctx : Nat) : Dev :=
  if (d.stack s).purge.contains (a, ctx) then
    (d.clearEntries s (entryOfTag a ctx)).onStack s fun t => { t with
      purge := t.purge.filter (· != (a, ctx)), cache := t.cache.filter fun e => !entryOfTag a ctx e }
  else d

/-- PURGE_COMPLETE. -/
def execPurgeComplete (st a ctx : Nat) (s : State) := s.run fun _ d => d.purged st a ctx

/-! ### The doorbell (R192, Table 6-10) -/

/-- A HIF_INV_DOORBELL write: ignored while one runs, else an invalidation of an asterism or one context. -/
def Dev.invDoorbell (d : Dev) (now path a : Nat) (ctx : Option Nat) : Dev :=
  d.writeThrough now path HIF_INV_DOORBELL.off fun d =>
    if d.flag HIF_INV_STATUS.BUSY then d
    else
      let sts := d.stacksOf a
      if sts.isEmpty then d
      else ((d.sendInval now a ctx 0 (2 ^ 56) sts none true).1).set HIF_INV_STATUS.BUSY 1

/-- HIF_INV_DOORBELL_AST. -/
def execHifInvDoorbellAst (path a : Nat) (s : State) := s.run fun now d => d.invDoorbell now path a none
/-- HIF_INV_DOORBELL_CTX. -/
def execHifInvDoorbellCtx (path a ctx : Nat) (s : State) := s.run fun now d => d.invDoorbell now path a (some ctx)

end Sys2Proof.Machine
end

