-- ==== Sys2Proof/Machine/Mgt.lean ====
section
/-!
DEFINITION. Management commands in firmware's hands (R280, R298, R334, R395, R549): their order, their checks, their
completion records, and the closing of a function's window by a DETACH (R294, R295).
-/

namespace Sys2Proof.Machine

/-! ### Completion records of the management ring (R549) -/

/-- Is the owner's link down, with the ring disabled?  Records that cannot be written are then discarded. -/
def Dev.mgtDead (d : Dev) : Bool :=
  let p := d.get MGT_RING_BASE.SPACE
  !d.flag MGT_RING_BASE.EN && p != 0 && (d.link (2 * (p - 1))).state == 0 && (d.link (2 * (p - 1) + 1)).state == 0

/-- CLOG2N of the completion ring that takes the records now. -/
def Dev.mgtClog (d : Dev) : Nat := d.hif.mold.getD (d.get MGT_RING_SIZE.CLOG2N)

/-- Is there room in the management completion ring? -/
def Dev.mgtCqRoom (d : Dev) : Bool :=
  decide ((d.get MGT_CQ_TAIL.TAIL + 2 ^ 32 - d.get MGT_CQ_HEAD.HEAD) % 2 ^ 32 < 2 ^ d.mgtClog)

/-- Write one record; the owner's vector is raised at most once per 10 µs. -/
def Dev.mgtPut (d : Dev) (now : Nat) (r : CRec) : Dev :=
  let t := d.get MGT_CQ_TAIL.TAIL
  let r := { r with phase := phaseOf d.mgtClog t }
  let d := d.onHif fun h => { h with mcq := Tbl.put h.mcq (t % 2 ^ d.mgtClog) r }
  let d := d.set MGT_CQ_TAIL.TAIL (t + 1)
  let p := d.get MGT_RING_BASE.SPACE
  let due := match d.hif.mgtIntr with | some x => decide (x + 10000 ≤ now) | none => true
  if p != 0 && due then
    (d.onHif fun h => { h with mgtIntr := some now }).interrupt (1023 + p) (d.get MGT_RING_SIZE.VECTOR)
  else d

/-- Write a record, or hold it while the ring is full. -/
def Dev.mgtWrite (d : Dev) (now : Nat) (r : CRec) : Dev :=
  if d.mgtDead then d
  else if d.hif.mheld.isEmpty && d.mgtCqRoom then d.mgtPut now r
  else d.onHif fun h => { h with mheld := h.mheld ++ [{ r with cqHeld := true }] }

/-- Write held records while there is room; the fuel bounds their number. -/
def Dev.mgtDrain (now : Nat) : Nat → Dev → Dev
  | 0, d => d
  | n + 1, d =>
    match d.hif.mheld with
    | r :: l => if d.mgtCqRoom then Dev.mgtDrain now n ((d.onHif fun h => { h with mheld := l }).mgtPut now r) else d
    | [] => d

/-- Do records of the old rings remain to be written? -/
def Dev.mgtDue (d : Dev) : Bool := !d.hif.mheld.isEmpty || d.hif.mgt.any fun e => e.2.submit.isNone

/-- EN is cleared: fetch stops, and records still due go to the old ring. -/
def Dev.mgtDisable (d : Dev) : Dev :=
  if d.flag MGT_RING_BASE.EN then
    (d.onHif fun h => { h with mold := some (d.get MGT_RING_SIZE.CLOG2N) }).set MGT_RING_BASE.EN 0
  else d

/-- The owner is lost: EN is cleared and records that cannot be written are discarded (R549). -/
def Dev.mgtOwnerLost (d : Dev) (port : Nat) : Dev :=
  if d.get MGT_RING_BASE.SPACE = port + 1 then (d.mgtDisable).onHif fun h => { h with mheld := [] } else d

/-- The completion record of a management command. -/
def Mgt.record (m : Mgt) (now : Nat) (st : CStatus) (r : Reason) (err kind energy aux : Nat) : CRec :=
  { CRec.blank with
    pos := m.pos, status := st, reason := r, kind := kind, user := hUser m.slot
    elapsed := if st = .refused then 0 else min ((now - m.at_) / 100) (2 ^ 32 - 1)
    error := err, energy := energy, aux := aux }

/-- A management command completes: its record goes to the ring, or back to the port of its MGT_SUBMIT; the position
and phase of a record that stands in no ring are not specified. -/
def Dev.mgtDone (d : Dev) (now k : Nat) (st : CStatus) (r : Reason := .none) (err : Nat := 0) (kind : Nat := 3)
    (energy aux : Nat := 0) : Dev :=
  match Tbl.find d.hif.mgt k with
  | none => d
  | some m =>
    let d := d.onHif fun h => { h with mgt := Tbl.del h.mgt k }
    let rec_ := m.record now st r err kind energy aux
    match m.submit with
    | some p =>
      let (v, d) := d.draw .handle
      d.onHif fun h => { h with submitted := (p, { rec_ with pos := v % 2 ^ 32, phase := bit v 32 }) :: h.submitted }
    | none => d.mgtWrite now rec_

/-- A management command is refused with reason POLICY (or the reason of check 8), with its error record. -/
def Dev.mgtRefuse (d : Dev) (now k err : Nat) (detail : List Nat) (r : Reason := .policy)
    (who : Option (Nat × Nat) := none) : Dev :=
  (d.raise err moduleUnit 0x00 .info detail who).mgtDone now k .refused r err

/-! ### Which management command runs next (R280) -/

/-- The asterism a management command names; none for those that name no asterism. -/
def mgtAst (x : Line) : Option Nat :=
  match hOp x with
  | 0x80 | 0x81 | 0x82 | 0x83 | 0x84 | 0x85 => some (fld x 0x10 0 6)
  | 0x86 => if fld x 0x10 7 1 = 1 then some (fld x 0x10 0 6) else none
  | 0x87 => some (fld x 0x12 0 6)
  | _ => none

/-- A command in firmware's hands that holds back the later ones of its asterism; a QUIESCE that waits holds none
(R296). -/
def Mgt.holdsBack (m : Mgt) : Bool := !(m.started && hOp m.slot == 0x84)

/-- Must command `k` wait for an earlier one: of its asterism, of the whole ring under FENCE, or the COMMIT_MODE that
runs (R280, R299, R317)? -/
def Dev.mgtWaits (d : Dev) (k : Nat) (m : Mgt) : Bool :=
  d.hif.mgt.any fun e => decide (e.1 < k) &&
    ((e.2.holdsBack && mgtAst e.2.slot == mgtAst m.slot) || hFence m.slot ||
      (hOp m.slot == 0x86 && hOp e.2.slot == 0x86))

/-- Run management command `k` if it is one of opcode `op` whose turn it is. -/
def Dev.mgtRun (d : Dev) (k op : Nat) (f : Dev → Mgt → Dev) : Dev :=
  match Tbl.find d.hif.mgt k with
  | some m =>
    if hOp m.slot = op ∧ !m.started ∧ !d.mgtWaits k m then
      f (d.onHif fun h => { h with mgt := Tbl.adj h.mgt k fun m => { m with started := true } }) m
    else d
  | none => d

/-! ### What firmware checks as it takes a command (R298, R335, R549) -/

/-- Reserved fields of a management command's own bytes are zero; those of BIND, UNBIND and SET_CAP are checked by
their own rules. -/
def mgtClean (x : Line) : Bool :=
  match hOp x with
  | 0x82 => allZero x [(0x10, 6, 2), (0x11, 3, 5), (0x12, 7, 9), (0x14, 0, 352)]
  | 0x83 => allZero x [(0x10, 6, 2), (0x11, 4, 4), (0x12, 0, 16), (0x14, 0, 352)]
  | 0x84 => allZero x [(0x10, 6, 10), (0x14, 0, 352)]
  | 0x85 => allZero x [(0x10, 6, 10), (0x12, 0, 16), (0x14, 0, 352)]
  | 0x86 => allZero x [(0x10, 6, 1), (0x11, 0, 24), (0x14, 0, 352)]
  | 0x87 => allZero x [(0x12, 6, 10), (0x14, 18, 14), (0x18, 0, 320)] && fld x 0x14 0 18 == 0x3FFFF
  | 0x88 => allZero x [(0x12, 1, 15), (0x14, 0, 352)]
  | _ => true

/-- A management slot that firmware runs: its opcode listed, its header as R549 wants it. -/
def mgtFine (x : Line) : Bool :=
  decide (0x80 ≤ hOp x) && decide (hOp x ≤ 0x89) && hClean x && hLabel x == 0 && hEvent x == 0 && hLimit x == 0 && mgtClean x

/-- The 32-byte entries of a delta, as its lines hold them. -/
def deltaOf (l : List Line) : List (BitVec 256) :=
  l.flatMap fun x => [BitVec.ofNat 256 x.toNat, BitVec.ofNat 256 (x.toNat / 2 ^ 256)]

/-- Firmware takes a command from the ring at `pos`, or from a port: it is refused at once, or waits for its turn. -/
def Dev.mgtTake (d : Dev) (now pos : Nat) (submit : Option Nat) (x : Line) (delta : List Line) : Dev :=
  let k := d.hif.nextMgt
  let d := d.onHif fun h => { h with
    mgt := Tbl.put h.mgt k { pos := pos, submit := submit, slot := x, delta := deltaOf delta, at_ := now, started := false
                             count := 0 }
    nextMgt := k + 1 }
  if mgtFine x then d else d.mgtRefuse now k 0x0601 [0x3FFFF, pos, 0xFFFF]

/-! ### DETACH (R293 to R295) -/

/-- Window registers of a function (R385): CXP_VF_WIN.EN is cleared, and VF and HALF of every decoder that names it. -/
def Dev.closeWindow (d : Dev) (fn : Nat) : Dev :=
  let p := fnPort fn
  let d := d.set (CXP_VF_WIN.EN p (fnVf fn - 1 + (if fnHalf fn then 64 else 0))) 0
  (List.range 32).foldl (fun d n =>
    if d.get (CXP_HDM_MAP.VF p n) = fnVf fn ∧ d.flag (CXP_HDM_MAP.HALF p n) = fnHalf fn then
      (d.set (CXP_HDM_MAP.VF p n) 0).set (CXP_HDM_MAP.HALF p n) 0
    else d) d

/-- Snoops for every granule a function holds (R295, R387). -/
def Dev.snoopAll (d : Dev) (now fn : Nat) : Dev :=
  d.stk.foldl (fun d e =>
    ((e.2.biFilter.filter fun g => g.2 == fn).map (·.1)).foldl (fun d g =>
      if d.cxl.bi.any fun b => b.gran == g && b.fn == fn then d
      else { d with cxl := { d.cxl with bi := d.cxl.bi ++ [⟨e.1, g, fn, now⟩] } }) d) d

/-- Close a function for DETACH `m`: disabled, its window closed, its granules snooped. -/
def Dev.closeFn (d : Dev) (now fn m : Nat) : Dev :=
  ((d.onFn fn fun f => { f with enabled := false, closing := some m }).closeWindow fn).snoopAll now fn

/-- Contexts revoked by a forced DETACH that are still there. -/
def Dev.detachLeft (d : Dev) (m : Nat) : Bool :=
  d.hif.ctxs.any fun e => (e.2.revoke.bind (·.detach)) == some m

/-- The asterism lets a function go; its responder, which only a bound function carries, is gone with its sessions. -/
def Dev.unattach (d : Dev) (a fn : Nat) : Dev :=
  let d := { d with lcs := { d.lcs with
    sessions := d.lcs.sessions.filter (·.responder != fn), negotiated := d.lcs.negotiated.filter (· != fn) } }
  (d.onAst a fun x => { x with funcs := modifyAt x.funcs (fnPort fn) fun _ => (0, false) }).onFn fn fun f => { f with
    ast := none, closing := none }

/-- A closing function whose contexts are revoked and whose snoops are answered completes its DETACH; a forced one
records 0x05CB with the contexts it revoked. -/
def Dev.detachOver (d : Dev) (now fn : Nat) : Dev :=
  match (d.fn fn).closing, (d.fn fn).ast with
  | some m, some a =>
    if d.detachLeft m || d.cxl.bi.any fun b => b.fn == fn then d
    else
      let n := ((Tbl.find d.hif.mgt m).map (·.count)).getD 0
      let forced := match Tbl.find d.hif.mgt m with | some x => fld x.slot 0x11 3 1 == 1 | none => false
      let d := d.unattach a fn
      let d := if forced then d.raise 0x05CB moduleUnit 0x00 .info [fnPort fn, fnVf fn, n] (some (a, 0)) else d
      d.mgtDone now m .completed
  | _, _ => d

/-- Every closing function that can complete its DETACH does; one whose contexts have just been revoked closes its
window first. -/
def Dev.detachGoOn (d : Dev) (now : Nat) : Dev :=
  d.hif.fns.foldl (fun d e =>
    match e.2.closing with
    | some m =>
      if d.detachLeft m then d
      else (if (d.fn e.1).enabled then d.closeFn now e.1 m else d).detachOver now e.1
    | none => d) d

end Sys2Proof.Machine
end

