-- ==== Sys2Proof/Machine/HostIf.lean ====
section
/-!
DEFINITION. The control page, doorbells and fetch (R306 to R316), context resumption (R340, R341), and the revocation of
a context (R335, R346).
-/

namespace Sys2Proof.Machine

/-! ### Control operations (R310 to R312) -/

/-- What a control operation answers. -/
inductive CtlAns where
  | done
  | value (v v2 : Nat)
  | refused (r : Reason) (err : Nat) (detail : List Nat)

/-- OPs of Table 10-5. -/
def ctlListed (op : Nat) : Bool := (0xC0 ≤ op && op ≤ 0xC6) || op == 0x87 || op == 0xC8

/-- Unit of a function's control page: the service of its asterism's home, or of its port's die pair without one. -/
def Dev.ctlUnit (d : Dev) (fn : Nat) : Nat :=
  svcUnit (match (d.fn fn).ast with | some a => d.home a | none => portDp (fnPort fn))

/-- The operation's result is in CTL_RESULT and CTL_VALUE; a refusal leaves its error record. -/
def Dev.ctlAnswer (d : Dev) (fn : Nat) (x : CtlAns) : Dev :=
  match x with
  | .done => d.onFn fn fun f => { f with done := true, status := CStatus.completed.code, reason := 0, err := 0 }
  | .value v v2 => d.onFn fn fun f => { f with
      done := true, status := CStatus.completed.code, reason := 0, err := 0, value := v, value2 := v2 }
  | .refused r err det =>
    (d.onFn fn fun f => { f with done := true, status := CStatus.refused.code, reason := r.code, err := err }).raise err
      (d.ctlUnit fn) 0x00 .info det ((d.fn fn).ast.map fun a => (a, 0))

/-- Run control operation `code` of a function, when the written operation is that one; an operation that is not listed
is refused, whichever row it came by. -/
def Dev.ctl (d : Dev) (fn code : Nat) (op : Line) (f : Dev → Dev × CtlAns) : Dev :=
  let b := fld op 0 0 8
  if !ctlListed b then d.ctlAnswer fn (.refused .policy 0x0603 [b, 0])
  else if b ≠ code then d
  else
    let (d, x) := f d
    d.ctlAnswer fn x

/-- Bytes 0x01 to 0x0F, which no operation uses. -/
def ctlHead : Nat × Nat × Nat := (0x01, 0, 120)

/-- Refuse an operation. -/
def bad (d : Dev) (err : Nat) (det : List Nat) : Dev × CtlAns := (d, .refused .policy err det)

/-- A creation against its quota and table (R308). -/
def Dev.roomFor (d : Dev) (kind have_ limit total size : Nat) (f : Dev → Dev × CtlAns) : Dev × CtlAns :=
  if limit ≤ have_ then (d, .refused .policy 0x0608 [kind, limit])
  else if size ≤ total then (d, .refused .memory 0x0608 [kind, size])
  else f d

/-- The first free identifier at or after a number, wrapping; the fuel bounds those in use. -/
def freeFrom (used : Nat → Bool) (size : Nat) : Nat → Nat → Option Nat
  | 0, _ => none
  | n + 1, i => if used (i % size) then freeFrom used size n (i + 1) else some (i % size)

/-- The device picks a free identifier, which one is not specified (R308). -/
def Dev.allocId (d : Dev) (used : Nat → Bool) (size taken : Nat) : Option (Nat × Dev) :=
  let (v, d) := d.draw .allocId
  (freeFrom used size (taken + 1) v).map fun i => (i, d)

/-- Asterism of a queue. -/
def Dev.queueAst (d : Dev) (k : Queue) : Option Nat := (Tbl.find d.hif.ctxs k.ctx).map (·.ast)

/-- May a context be named by a creation: of the asterism, and ACTIVE, FAULTED or FAULTED_RETAINED (R311)? -/
def Ctx.nameable (c : Ctx) : Bool := c.state == .active || c.state == .faulted || c.state == .retained

/-! ### Contexts -/

/-- A context just created. -/
def Ctx.new (a fn now : Nat) (op : Line) : Ctx where
  ast := a
  fn := fn
  state := .active
  blocked := false
  flagNext := false
  prio := fld op 0x10 21 3
  pasid := fld op 0x10 0 20
  pasidEn := fld op 0x10 20 1 == 1
  resident := false
  resAt := 0
  waitAt := now
  energy := 0
  infl := 64
  overruns := 0
  clean := 0
  decays := 0
  inflRec := none
  revoke := none
  inherit := none

/-- Is a context identifier in use, or its tag in a purge list (R341)? -/
def Dev.ctxUsed (d : Dev) (i : Nat) : Bool :=
  (Tbl.find d.hif.ctxs i).isSome || d.stk.any fun e => e.2.purge.any fun p => p.2 == i

/-- Identifiers that may not be given out, counted with repeats. -/
def Dev.ctxTaken (d : Dev) : Nat := d.hif.ctxs.length + d.stk.foldl (fun n e => n + e.2.purge.length) 0

/-- May contexts exist in an asterism (R268)? -/
def AstState.hosts (s : AstState) : Bool := s == .active || s == .quiescing || s == .quiesced

/-- CTX_CREATE. -/
def Dev.ctxCreate (d : Dev) (now fn : Nat) (op : Line) : Dev × CtlAns :=
  if !allZero op [ctlHead, (0x10, 24, 8), (0x14, 0, 352)] then bad d 0x0603 [0, 0]
  else match (d.fn fn).ast with
    | none => bad d 0x0609 [0xC0, 0]
    | some a =>
      if !(d.ast a).state.hosts then bad d 0x0609 [0xC0, a]
      else
        d.roomFor 0 (d.hif.ctxs.filter fun e => e.2.ast == a).length (d.get (HIF_QUOTA_A.CTX_LIMIT a))
          d.hif.ctxs.length 65536 fun d =>
          match d.allocId d.ctxUsed 65536 d.ctxTaken with
          | none => (d, .refused .memory 0x0608 [0, 65536])
          | some (i, d) =>
            (d.onHif fun h => { h with ctxs := Tbl.put h.ctxs i (Ctx.new a fn now op) }, .value i 0)

/-- CTX_CREATE. -/
def execCtxCreate (fn : Nat) (op : Line) (s : State) := s.run fun now d => d.ctl fn 0xC0 op fun d => d.ctxCreate now fn op

/-- Tiles kept stalled for a resumed context go on: their allowance starts afresh (R133, R340). -/
def Dev.resumeTiles (d : Dev) (ctx : Nat) : Dev :=
  { d with core := Tbl.mapV (fun _ (k : Core) => { k with tile := k.tile.map fun t =>
      if t.own.ctx = ctx ∧ t.retained then { t with retained := false, stallTicks := 0 } else t }) d.core }

/-- CTX_RESUME. -/
def Dev.ctxResume (d : Dev) (now fn : Nat) (op : Line) : Dev × CtlAns :=
  let x := fld op 0x10 0 16
  if !allZero op [ctlHead, (0x12, 0, 368)] then bad d 0x0603 [0, x]
  else match (d.fn fn).ast, Tbl.find d.hif.ctxs x with
    | none, _ => bad d 0x0603 [0, x]
    | some _, none => bad d 0x0609 [0xC1, x]
    | some a, some c =>
      if c.ast ≠ a then bad d 0x0603 [0, x]
      else if c.state ≠ .faulted ∧ c.state ≠ .retained then bad d 0x0609 [0xC1, x]
      else
        let d := ((d.onCtx x fun c => { c with state := .active }).resumeTiles x).after now
        ((d.hif.queues.filter fun e => e.2.ctx == x).foldl (fun d e => d.afterHead now e.1) d, .done)

/-- CTX_RESUME. -/
def execCtxResume (fn : Nat) (op : Line) (s : State) := s.run fun now d => d.ctl fn 0xC1 op fun d => d.ctxResume now fn op

/-! ### Queues -/

/-- A queue just created. -/
def Queue.new (ctx fn dbidx : Nat) (op : Line) : Queue where
  ctx := ctx
  fn := fn
  dbidx := dbidx
  log2n := fld op 0x12 0 5
  clog2n := fld op 0x13 0 5
  vector := fld op 0x14 0 11
  ring := fld op 0x18 12 52
  cq := fld op 0x20 12 52
  tail := 0
  head := 0
  cqHead := 0
  cqTail := 0
  fetched := []
  held := []
  mapTag := none
  resident := false
  resAt := 0
  lastIntr := none
  cqEpisode := false

/-- QUEUE_CREATE. -/
def Dev.queueCreate (d : Dev) (fn : Nat) (op : Line) : Dev × CtlAns :=
  let x := fld op 0x10 0 16
  let ranged := fun n => decide (6 ≤ n) && decide (n ≤ 16)
  if !allZero op [ctlHead, (0x12, 5, 3), (0x13, 5, 3), (0x14, 11, 21), (0x18, 0, 12), (0x20, 0, 12), (0x28, 0, 192)] then
    bad d 0x0603 [0, x]
  else match (d.fn fn).ast, Tbl.find d.hif.ctxs x with
    | some a, some c =>
      if c.ast ≠ a ∨ !c.nameable then bad d 0x0603 [0, x]
      else if !ranged (fld op 0x12 0 5) || !ranged (fld op 0x13 0 5) then bad d 0x0609 [0xC2, x]
      else
        let limit := d.get (HIF_QUOTA_A.QUEUE_LIMIT a)
        d.roomFor 1 (d.hif.queues.filter fun e => d.queueAst e.2 == some a).length limit d.hif.queues.length 262144
          fun d =>
          let mine := d.hif.queues.filter fun e => e.2.fn == fn
          match d.allocId (fun i => (Tbl.find d.hif.queues i).isSome) 262144 d.hif.queues.length with
          | none => (d, .refused .memory 0x0608 [1, 262144])
          | some (q, d) =>
            match d.allocId (fun i => mine.any fun e => e.2.dbidx == i) limit mine.length with
            | none => (d, .refused .policy 0x0608 [1, limit])
            | some (b, d) =>
              (d.onHif fun h => { h with
                queues := Tbl.put h.queues q (Queue.new x fn b op)
                cq := h.cq.filter fun e => e.1 / 2 ^ 16 != q }, .value (q + b * 2 ^ 32) 0)
    | _, _ => bad d 0x0603 [0, x]

/-- QUEUE_CREATE. -/
def execQueueCreate (fn : Nat) (op : Line) (s : State) := s.run fun _ d => d.ctl fn 0xC2 op fun d => d.queueCreate fn op

/-- A queue leaves the tables. -/
def Dev.dropQueue (d : Dev) (q : Nat) : Dev := d.onHif fun h => { h with queues := Tbl.del h.queues q }

/-- QUEUE_DESTROY. -/
def Dev.queueDestroy (d : Dev) (fn : Nat) (op : Line) : Dev × CtlAns :=
  let q := fld op 0x10 0 18
  if !allZero op [ctlHead, (0x10, 18, 14), (0x14, 0, 352)] then bad d 0x0603 [1, q]
  else match (d.fn fn).ast, Tbl.find d.hif.queues q with
    | some a, some k =>
      if d.queueAst k ≠ some a then bad d 0x0603 [1, q]
      else if d.queueWaits q k then bad d 0x0609 [0xC3, q]
      else (d.dropQueue q, .done)
    | _, _ => bad d 0x0603 [1, q]

/-- QUEUE_DESTROY. -/
def execQueueDestroy (fn : Nat) (op : Line) (s : State) := s.run fun _ d => d.ctl fn 0xC3 op fun d => d.queueDestroy fn op

/-! ### Objects and events -/

/-- OBJ_CREATE. -/
def Dev.objCreate (d : Dev) (fn : Nat) (op : Line) : Dev × CtlAns :=
  let x := fld op 0x10 0 16
  let shared := fld op 0x10 16 1 == 1
  let va := fld op 0x18 0 56
  let size := fld op 0x20 0 57
  if !allZero op [ctlHead, (0x10, 22, 10), (0x14, 0, 32), (0x18, 56, 8), (0x20, 57, 7), (0x28, 0, 192)] then
    bad d 0x0603 [0, x]
  else match (d.fn fn).ast with
    | none => bad d 0x0603 [0, x]
    | some a =>
      let named := match Tbl.find d.hif.ctxs x with
        | none => some 0x0603
        | some c => if c.ast ≠ a then some 0x0609 else if c.nameable then none else some 0x0603
      match (if shared then none else named) with
      | some 0x0603 => bad d 0x0603 [0, x]
      | some _ => bad d 0x0609 [0xC4, x]
      | none =>
        if size = 0 ∨ 2 ^ 56 - va < size then bad d 0x0609 [0xC4, x]
        else
          d.roomFor 2 (d.hif.objs.filter fun e => e.2.ast == a).length (d.get (HIF_QUOTA_B.OBJ_LIMIT a))
            d.hif.objs.length 16777216 fun d =>
            match d.allocId (fun i => (Tbl.find d.hif.objs i).isSome) 16777216 d.hif.objs.length with
            | none => (d, .refused .memory 0x0608 [2, 16777216])
            | some (o, d) =>
              (d.onHif fun h => { h with objs := Tbl.put h.objs o {
                va := va, size := size, ast := a, state := .live, ctx := x, shared := shared
                poolb := fld op 0x10 17 1 == 1, pidx := fld op 0x10 18 4, inflight := 0, freer := none } }, .value o 0)

/-- OBJ_CREATE. -/
def execObjCreate (fn : Nat) (op : Line) (s : State) := s.run fun _ d => d.ctl fn 0xC4 op fun d => d.objCreate fn op

/-- EVENT_CREATE. -/
def Dev.eventCreate (d : Dev) (fn : Nat) (op : Line) : Dev × CtlAns :=
  let sem := fld op 0x10 0 1 == 1
  let v := fld op 0x18 0 63
  if !allZero op [ctlHead, (0x10, 1, 31), (0x14, 0, 32), (0x18, 63, 1), (0x20, 0, 256)] then bad d 0x0603 [3, 0]
  else match (d.fn fn).ast with
    | none => bad d 0x0603 [3, 0]
    | some a =>
      if sem ∧ (v = 0 ∨ 8 < v) then bad d 0x0609 [0xC5, 0]
      else
        d.roomFor 3 (d.hif.events.filter fun e => e.2.ast == a).length (d.get (HIF_QUOTA_B.EVT_LIMIT a))
          d.hif.events.length 1048575 fun d =>
          match d.allocId (fun i => i == 0 || (Tbl.find d.hif.events i).isSome) 1048576 (d.hif.events.length + 1) with
          | none => (d, .refused .memory 0x0608 [3, 1048575])
          | some (e, d) =>
            (d.onHif fun h => { h with events := Tbl.put h.events e {
              value := v, abandoned := false, ast := a, sem := sem, holders := [], waiters := 0 } }, .value e 0)

/-- EVENT_CREATE. -/
def execEventCreate (fn : Nat) (op : Line) (s : State) := s.run fun _ d => d.ctl fn 0xC5 op fun d => d.eventCreate fn op

/-- EVENT_DESTROY. -/
def Dev.eventDestroy (d : Dev) (fn : Nat) (op : Line) : Dev × CtlAns :=
  let e := fld op 0x10 0 20
  if !allZero op [ctlHead, (0x10, 20, 12), (0x14, 0, 352)] then bad d 0x0603 [3, e]
  else match (d.fn fn).ast, Tbl.find d.hif.events e with
    | some a, some v =>
      if v.ast ≠ a then bad d 0x0603 [3, e]
      else if v.waiters ≠ 0 ∨ !v.holders.isEmpty then bad d 0x0609 [0xC6, e]
      else (d.onHif fun h => { h with events := Tbl.del h.events e }, .done)
    | _, _ => bad d 0x0603 [3, e]

/-- EVENT_DESTROY. -/
def execEventDestroy (fn : Nat) (op : Line) (s : State) := s.run fun _ d => d.ctl fn 0xC6 op fun d => d.eventDestroy fn op

/-! ### QUERY -/

/-- Word 0x10 of an object's entry (Table 10-2). -/
def Obj.word (b : Obj) : Nat :=
  b.ast % 64 + b.state.code * 2 ^ 6 + b.ctx % 2 ^ 16 * 2 ^ 8 + b.shared.toNat * 2 ^ 24 + b.poolb.toNat * 2 ^ 25 +
    b.pidx % 16 * 2 ^ 26 + b.inflight % 2 ^ 32 * 2 ^ 32

/-- Word 0x08 of an event's entry (Table 10-3). -/
def Event.word (v : Event) : Nat :=
  v.ast % 64 + 2 ^ 6 + v.sem.toNat * 2 ^ 7 + v.holders.length % 16 * 2 ^ 8 + min v.waiters 65535 * 2 ^ 32

/-- A count in a 16-bit field; what the field shows of a larger one is not specified. -/
def Dev.count16 (d : Dev) (n : Nat) : Nat × Dev :=
  if n < 65536 then (n, d) else let (v, d) := d.draw .handle; (v % 65536, d)

/-- QUERY. -/
def Dev.query (d : Dev) (fn : Nat) (op : Line) : Dev × CtlAns :=
  let kind := fld op 0x10 0 2
  let i := fld op 0x14 0 24
  let no := bad d 0x0603 [kind, i]
  if !allZero op [ctlHead, (0x10, 2, 30), (0x14, 24, 8), (0x18, 0, 320)] then no
  else match (d.fn fn).ast with
    | none => no
    | some a =>
      match kind with
      | 0 =>
        (match Tbl.find d.hif.ctxs i with
         | some c =>
           if c.ast ≠ a then no
           else
             let (n, d) := d.count16 (d.hif.queues.filter fun e => e.2.ctx == i).length
             (d, .value (c.state.code + c.blocked.toNat * 8 + c.resident.toNat * 16 + (d.pinned i).toNat * 32 +
               c.prio * 64 + n * 2 ^ 32) (c.energy / 1000))
         | none => no)
      | 1 =>
        (match Tbl.find d.hif.queues i with
         | some k => if d.queueAst k ≠ some a then no
             else (d, .value (k.head + k.tail * 2 ^ 32) (k.ctx + k.resident.toNat * 2 ^ 16))
         | none => no)
      | 2 =>
        (match Tbl.find d.hif.objs i with
         | some b => if b.ast ≠ a then no else (d, .value b.word b.va)
         | none => no)
      | _ =>
        (match Tbl.find d.hif.events i with
         | some v => if v.ast ≠ a then no else (d, .value (v.value + v.abandoned.toNat * 2 ^ 63) v.word)
         | none => no)

/-- QUERY. -/
def execQuery (fn : Nat) (op : Line) (s : State) := s.run fun _ d => d.ctl fn 0xC8 op fun d => d.query fn op

/-! ### Doorbells and fetch (R314 to R316) -/

/-- The queue behind a doorbell page. -/
def Dev.queueAt (d : Dev) (fn dbidx : Nat) : Option (Nat × Queue) :=
  d.hif.queues.find? fun e => e.2.fn == fn && e.2.dbidx == dbidx

/-- A DB_TAIL write of value T is accepted (R315). -/
def Queue.tailOk (k : Queue) (t : Nat) : Bool :=
  decide ((t + 2 ^ 32 - k.tail) % 2 ^ 32 < 2 ^ 31) && decide ((t + 2 ^ 32 - k.head) % 2 ^ 32 ≤ 2 ^ k.log2n)

/-- DB_TAIL_WRITE. -/
def Dev.dbTail (d : Dev) (now fn dbidx v : Nat) : Dev :=
  let t := v % 2 ^ 32
  match d.queueAt fn dbidx with
  | none => d
  | some (q, k) =>
    let a := (d.queueAst k).getD 0
    if !k.tailOk t then d.raise 0x0605 (svcUnit (d.home a)) 0x00 .info [q, t, k.head] (some (a, k.ctx))
    else
      let idle := !d.ctxWaits k.ctx
      let d := d.onQueue q fun k => { k with tail := t }
      if idle then d.onCtx k.ctx fun c => { c with waitAt := now } else d

/-- DB_TAIL_WRITE. -/
def execDbTailWrite (fn dbidx value : Nat) (s : State) := s.run fun now d => d.dbTail now fn dbidx value

/-- Held records of a queue are written while its ring has room; the fuel bounds their number. -/
def Dev.drainHeld (now q : Nat) : Nat → Dev → Dev
  | 0, d => d
  | n + 1, d =>
    match Tbl.find d.hif.queues q with
    | none => d
    | some k =>
      match k.held with
      | (r, intr) :: l =>
        if k.cqRoom then Dev.drainHeld now q n ((d.onQueue q fun k => { k with held := l }).putRec now q r intr) else d
      | [] => d.onQueue q fun k => { k with cqEpisode := false }

/-- CQ_HEAD_WRITE. -/
def Dev.cqHead (d : Dev) (now fn dbidx v : Nat) : Dev :=
  let h := v % 2 ^ 32
  match d.queueAt fn dbidx with
  | none => d
  | some (q, k) =>
    if (k.cqTail + 2 ^ 32 - k.cqHead) % 2 ^ 32 < (h + 2 ^ 32 - k.cqHead) % 2 ^ 32 then d
    else Dev.drainHeld now q (k.held.length + 1) (d.onQueue q fun k => { k with cqHead := h })

/-- CQ_HEAD_WRITE. -/
def execCqHeadWrite (fn dbidx value : Nat) (s : State) := s.run fun now d => d.cqHead now fn dbidx value

/-- Is the link of a function up, and its host not LOST? -/
def Dev.fnUp (d : Dev) (fn : Nat) : Bool :=
  let here := fun (e : Nat × Partner) => decide (e.1 < 32) && e.2.port == fnPort fn && e.2.half == fnHalf fn
  (d.link (2 * fnPort fn + (fnHalf fn).toNat)).state != 0 &&
    !((d.cxl.partners.any fun e => here e && e.2.state == .lost) &&
      d.cxl.partners.all fun e => !here e || e.2.state == .lost || e.2.state == .free)

/-- Are a queue's commands fetched now (R296, R316, R341, R342)? -/
def Dev.fetches (d : Dev) (k : Queue) : Bool :=
  k.resident && k.held.isEmpty && d.fnUp k.fn &&
    (match Tbl.find d.hif.ctxs k.ctx with
     | some c => c.state == .active && (d.ast c.ast).state == .active
     | none => false)

/-- QUEUE_FETCH: up to 16 slots in position order. -/
def Dev.fetch (d : Dev) (now q : Nat) (slots : List Line) : Dev :=
  match Tbl.find d.hif.queues q with
  | none => d
  | some k =>
    if !d.fetches k then d
    else
      let l := slots.take (min 16 ((k.tail + 2 ^ 32 - k.head) % 2 ^ 32))
      let new := l.zipIdx.map fun (x, i) =>
        { pos := (k.head + i) % 2 ^ 32, index := 0xFFFF, call := none, slot := x : Fetched }
      (d.onQueue q fun k => { k with head := (k.head + l.length) % 2 ^ 32, fetched := k.fetched ++ new }).afterHead now q

/-- QUEUE_FETCH. -/
def execQueueFetch (q : Nat) (slots : List Line) (s : State) := s.run fun now d => d.fetch now q slots

/-! ### Revocation (R335, R346) -/

/-- Slots posted and not fetched, given in queue and position order. -/
def Dev.unfetched (d : Dev) (ctx : Nat) (rest : List Line) : List (Nat × Fetched) :=
  ((d.hif.queues.filter fun e => e.2.ctx == ctx).foldl (fun (p : List Line × List (Nat × Fetched)) e =>
    let n := (e.2.tail + 2 ^ 32 - e.2.head) % 2 ^ 32
    let l := (List.range n).map fun i =>
      (e.1, { pos := (e.2.head + i) % 2 ^ 32, index := 0xFFFF, call := none, slot := p.1.getD i 0 : Fetched })
    (p.1.drop n, p.2 ++ l)) (rest, [])).2

/-- Commands of a CALL's buffer that has not been read, as the device reads it now. -/
def Dev.callBuffer (d : Dev) (q : Nat) (k : Queue) (f : Fetched) : List (Nat × Fetched) :=
  match Tbl.find d.hif.ctxs k.ctx, Tbl.find d.hif.objs (fld f.slot 0x10 0 24) with
  | some c, some b =>
    let off := fld f.slot 0x14 0 32
    let n := fld f.slot 0x18 0 16
    let t : Tags := { ast := c.ast, dom := d.domOf c.ast, ctx := k.ctx, cls := 0, epoch := d.epochAt (d.home c.ast), host := false }
    if b.ast ≠ c.ast ∨ b.size < off + 64 * n then []
    else (match d.peekBytes t (b.va + off) (64 * n) with
      | .inl _ => []
      | .inr bs => (List.range n).map fun i =>
          (q, { pos := f.pos, index := i, call := none, slot := BitVec.ofNat 512 (ofBytes ((bs.drop (64 * i)).take 64)) : Fetched }))
  | _, _ => []

/-- A fetched command, and the commands of its buffer when it is a well-formed CALL. -/
def Dev.withBuffer (d : Dev) (x : Nat × Fetched) : List (Nat × Fetched) :=
  match Tbl.find d.hif.queues x.1 with
  | some k => if hOp x.2.slot == 0x0B && (malformed x.1 x.2).isNone then x :: d.callBuffer x.1 k x.2 else [x]
  | none => [x]

/-- Commands of a context that have not been admitted: fetched, then posted. -/
def Dev.unadmitted (d : Dev) (ctx : Nat) (rest : List Line) : List (Nat × Fetched) :=
  ((d.hif.queues.filter fun e => e.2.ctx == ctx).flatMap fun e => e.2.fetched.map fun f => (e.1, f)) ++
    d.unfetched ctx rest

/-- Is a command a SIGNAL that can be applied? -/
def isSignal (x : Nat × Fetched) : Bool := hOp x.2.slot == 4 && (malformed x.1 x.2).isNone

/-- A revoked SIGNAL is applied with ABANDONED, where its event is a counter of the asterism (step 4). -/
def Dev.signalAbandoned (d : Dev) (a : Nat) (x : Line) : Dev :=
  match Tbl.find d.hif.events (fld x 0x10 0 20) with
  | some v => if v.ast = a ∧ !v.sem then d.applySignal x true else d
  | none => d

/-- The unexecuted SIGNALs of a context's commands, in position and buffer order. -/
def Dev.lostSignals (d : Dev) (ctx : Nat) (l : List (Nat × Fetched)) : List Line :=
  ((d.hif.cmds.filter fun e => e.2.ctx == ctx && e.2.phase == .ordered && hOp e.2.slot == 4).map (·.2.slot)) ++
    ((l.flatMap d.withBuffer).filter isSignal).map (·.2.slot)

/-- Every unit a context holds goes back, with ABANDONED (step 4). -/
def Dev.returnUnits (d : Dev) (ctx : Nat) : Dev :=
  (d.hif.events.filter fun e => e.2.holders.contains ctx).foldl (fun d e =>
    let n := (e.2.holders.filter (· == ctx)).length
    (d.onEvent e.1 fun v => { v with
      value := (v.value + n) % 2 ^ 63, holders := v.holders.filter (· != ctx), abandoned := true }).endLoanTo ctx e.1) d

/-- Tiles of a context that stand stalled on their cores. -/
def Dev.stalledOf (d : Dev) (ctx : Nat) : List Nat :=
  (d.core.filter fun e => e.2.svc == .stalled && (match e.2.tile with | some t => t.own.ctx == ctx | none => false)).map (·.1)

/-- A command that was never admitted ends REVOKED; a CALL counts its commands as not run. -/
def Dev.endUnadmitted (d : Dev) (now : Nat) (x : Nat × Fetched) : Dev :=
  let n := if hOp x.2.slot = 0x0B ∧ (malformed x.1 x.2).isNone then fld x.2.slot 0x18 0 16 else 0
  d.endFetched now x.1 x.2 .revoked .none 0 n

/-- Steps 1 to 4 of Table 10-17. -/
def Dev.revokeCtx (d : Dev) (now ctx : Nat) (report mgt detach : Option Nat) (rest : List Line) : Dev :=
  match Tbl.find d.hif.ctxs ctx with
  | none => d
  | some c =>
    let rv : Revoke := { at_ := now, report := report, mgt := mgt, detach := detach, inval := none, step5 := false, objs := 0 }
    let d := d.onCtx ctx fun c => { c with state := .revoking, revoke := some rv }
    let sigs := d.lostSignals ctx (d.unadmitted ctx rest)
    let d := ((d.hif.cmds.filter fun e => e.2.ctx == ctx).map (·.1)).foldl (fun d i => d.latch1 now i .revoked) d
    let l := d.unadmitted ctx rest
    let d := d.onHif fun h => { h with queues := Tbl.mapV (fun _ k => if k.ctx = ctx then
      { k with fetched := [], head := k.tail, mapTag := none } else k) h.queues }
    let d := l.foldl (fun d x => d.endUnadmitted now x) d
    let d := { d with pwr := { d.pwr with bookings := d.pwr.bookings.filter fun b => b.ctx != ctx } }
    let d := (d.stalledOf ctx).foldl (fun d k => d.abortTile now k .revoked 0) d
    let d := sigs.foldl (fun d x => d.signalAbandoned c.ast x) d
    (d.returnUnits ctx).after now

/-- Objects of a context that revocation frees. -/
def Dev.ownObjs (d : Dev) (ctx : Nat) : List (Nat × Obj) := d.hif.objs.filter fun e => e.2.ctx == ctx && !e.2.shared

/-- Step 5: once none of the context's commands is left, its tag is purged and invalidated. -/
def Dev.revokePurge (d : Dev) (now ctx : Nat) (c : Ctx) (r : Revoke) : Dev :=
  let sts := d.stacksOf c.ast
  if r.step5 || r.inval.isSome || d.hif.cmds.any (fun e => e.2.ctx == ctx) || d.invalsFull c.ast ||
      sts.any (fun s => d.purgeFull s c.ast ctx) then d
  else
    let d := sts.foldl (fun d s => d.listTag s c.ast ctx) d
    if sts.isEmpty then d.onCtx ctx fun c => { c with revoke := some { r with step5 := true } }
    else
      let (d, v) := d.sendInval now c.ast (some ctx) 0 (2 ^ 56) sts none false
      d.onCtx ctx fun c => { c with revoke := some { r with inval := some v } }

/-- Step 6: the context's objects retire, and are free once nothing names them. -/
def Dev.revokeObjs (d : Dev) (now ctx : Nat) : Dev :=
  let l := (d.ownObjs ctx).filter fun e => e.2.state == .live || e.2.state == .lost
  let d := d.onCtx ctx fun c => { c with revoke := c.revoke.map fun r => { r with objs := r.objs + l.length } }
  l.foldl (fun d e => (d.onObj e.1 fun b => { b with
    state := .retiring, freer := none, inflight := b.inflight + 1 }).dropObj now e.1) d

/-- Step 7: the queues go, the final record is written, and the context is FREE. -/
def Dev.revokeEnd (d : Dev) (now ctx : Nat) (c : Ctx) (r : Revoke) : Dev :=
  let (n, d) := d.count16 r.objs
  let aux := ctx + n * 2 ^ 16
  let mj := min (c.energy / 1000) (2 ^ 32 - 1)
  let d := d.onHif fun h => { h with
    queues := h.queues.filter fun e => e.2.ctx != ctx
    ctxs := Tbl.del h.ctxs ctx
    blockedQ := h.blockedQ.filter (· != ctx) }
  let d := match r.report with
    | some q => d.writeRec now q { CRec.blank with kind := 2, energy := mj, aux := aux } false
    | none => d
  let d := match r.mgt with
    | some m => d.mgtDone now m .completed .none 0 2 mj aux
    | none => d
  (d.after now).detachGoOn now

/-- A revocation goes on as far as it can. -/
def Dev.revokeGoOn (d : Dev) (now ctx : Nat) : Dev :=
  let stage := fun (d : Dev) (f : Dev → Ctx → Revoke → Dev) => match Tbl.find d.hif.ctxs ctx with
    | some c => (match c.revoke with | some r => f d c r | none => d)
    | none => d
  let d := stage d fun d c r => d.revokePurge now ctx c r
  let d := stage d fun d _ r => if r.step5 then d.revokeObjs now ctx else d
  stage d fun d c r => if r.step5 && (d.ownObjs ctx).isEmpty then d.revokeEnd now ctx c r else d

/-- REVOKE_FINAL. -/
def execRevokeFinal (ctx : Nat) (s : State) := s.run fun now d => d.revokeGoOn now ctx

/-- May a context of an asterism be revoked (R335)? -/
def Dev.revocable (d : Dev) (a x : Nat) : Bool :=
  match Tbl.find d.hif.ctxs x with | some c => c.ast == a && c.state != .revoking | none => false

/-- A queue to report to: of another context of the asterism, neither FREE nor REVOKING. -/
def Dev.reportOk (d : Dev) (a x q : Nat) : Bool :=
  q != 0x3FFFF && (match Tbl.find d.hif.queues q with
    | some k => k.ctx != x && d.revocable a k.ctx
    | none => false)

/-- CONTEXT_REVOKE through CTL_OP: DONE once step 1 is done. -/
def Dev.ctlRevoke (d : Dev) (now fn : Nat) (op : Line) (rest : List Line) : Dev × CtlAns :=
  let x := fld op 0x10 0 16
  let q := fld op 0x14 0 18
  if !allZero op [ctlHead, (0x12, 6, 10), (0x14, 18, 14), (0x18, 0, 320)] then bad d 0x0603 [0, x]
  else match (d.fn fn).ast with
    | none => bad d 0x0603 [0, x]
    | some a =>
      if fld op 0x12 0 6 ≠ a ∨ !d.revocable a x then bad d 0x0603 [0, x]
      else if !d.reportOk a x q then bad d 0x0603 [1, q]
      else ((d.revokeCtx now x (some q) none none rest).revokeGoOn now x, .done)

/-- CONTEXT_REVOKE from the management ring: its completion is the final record. -/
def Dev.mgtRevoke (d : Dev) (now k : Nat) (m : Mgt) (rest : List Line) : Dev :=
  let x := fld m.slot 0x10 0 16
  let a := fld m.slot 0x12 0 6
  if !d.revocable a x then d.mgtRefuse now k 0x0603 [0, x]
  else (d.revokeCtx now x none (some k) none rest).revokeGoOn now x

/-- CONTEXT_REVOKE: of a function's control page, or a management command; `rest` gives the context's posted slots. -/
def execContextRevoke (src : Option Nat) (m : Nat) (op : Line) (rest : List Line) (s : State) := s.run fun now d =>
  match src with
  | some fn => d.ctl fn 0x87 op fun d => d.ctlRevoke now fn op rest
  | none => d.mgtRun m 0x87 fun d x => d.mgtRevoke now m x rest

/-- REVOKE_TIMEOUT: step 5 not done 10 ms after step 1. -/
def Dev.revokeLate (d : Dev) (now ctx : Nat) : Dev :=
  match Tbl.find d.hif.ctxs ctx with
  | some c =>
    (match c.revoke with
     | some r =>
       if r.step5 || decide (now < r.at_ + 10000000) || (d.ras.resets.any fun x => x.absorbs 4 c.ast) then d
       else
         let step := if r.inval.isSome then 5 else 3
         (d.raise 0x0A03 (svcUnit (d.home c.ast)) 0x00 .contained [c.ast, ctx, step] (some (c.ast, ctx))).requestReset now 4
           c.ast 0x0A03
     | none => d)
  | none => d

/-- REVOKE_TIMEOUT. -/
def execRevokeTimeout (ctx : Nat) (s : State) := s.run fun now d => d.revokeLate now ctx

end Sys2Proof.Machine
end

