-- ==== Sys2Proof/Machine/Bind.lean ====
section
/-!
DEFINITION. BIND and UNBIND (R277 to R281, R285): the delta, its checks (Table 9-6), the staged map, and what waits to be
published.
-/

namespace Sys2Proof.Machine

/-! ### The command and its delta (Tables 9-4, 9-5) -/

/-- APPLY. -/
def cApply (x : Line) : Bool := fld x 0x10 6 1 == 1
/-- CREATE of a BIND, DISSOLVE of an UNBIND. -/
def cCreate (x : Line) : Bool := fld x 0x10 7 1 == 1
/-- DOM. -/
def cDom (x : Line) : Nat := fld x 0x10 8 4
/-- HOME. -/
def cHome (x : Line) : Nat := fld x 0x10 12 3
/-- SETHOME. -/
def cSetHome (x : Line) : Bool := fld x 0x10 15 1 == 1
/-- SHED. -/
def cShed (x : Line) : Bool := fld x 0x10 16 1 == 1
/-- NENT. -/
def cNent (x : Line) : Nat := fld x 0x14 0 13

/-- A delta entry. -/
abbrev DEntry := BitVec 256
/-- OPK. -/
def eOpk (e : DEntry) : Nat := fld e 0 0 4
/-- UNIT. -/
def eUnit (e : DEntry) : Nat := fld e 0 16 16
/-- LCOUNT. -/
def eCount (e : DEntry) : Nat := fld e 4 0 4
/-- RELEASE. -/
def eRelease (e : DEntry) : Bool := fld e 4 4 1 == 1
/-- SCRUB. -/
def eScrub (e : DEntry) : Bool := fld e 4 5 1 == 1
/-- List entry i of an OPK 4. -/
def eItem (e : DEntry) (i : Nat) : Nat := fld e (8 + 2 * i) 0 10
/-- The region entry of an OPK 3; none when V is 0. -/
def eRegion (e : DEntry) : Option Region :=
  if fld e 8 0 1 = 0 then none
  else some { vbase := fld e 8 21 35 * 2097152, size := fld e 0x10 0 24 * 2097152, n := fld e 0x10 24 10 + 1
              loff := fld e 0x10 34 11, ps := fld e 0x10 45 1 == 1 }

/-- The delta entries of a command. -/
def Mgt.entries (m : Mgt) : List DEntry := m.delta.take (cNent m.slot)

/-- The first reserved field of an entry that is not zero, numbered by its first bit (check 1). -/
def entryDirty (unbind : Bool) (e : DEntry) : Option Nat :=
  let k := eOpk e
  let used := fun (b : Bool) (x : Nat × Nat × Nat) => if b then [] else [x]
  let pay : List (Nat × Nat × Nat) := match k with
    | 3 => [(8, 1, 20), (8, 56, 8), (0x10, 46, 18), (0x18, 0, 64)]
    | 4 => (List.range 12).map (fun i => if i < eCount e then (8 + 2 * i, 10, 6) else (8 + 2 * i, 0, 16))
    | 5 => [(8, 10, 54), (0x10, 0, 128)]
    | _ => [(8, 0, 192)]
  let l := [(0, 4, 12)] ++ used (k != 1) (0, 26, 6) ++ used (k == 4) (4, 0, 4) ++ used (k == 5) (4, 4, 1) ++
    used (unbind && (k == 1 || k == 2)) (4, 5, 1) ++ [(4, 6, 26)] ++ pay
  (l.find? fun p => fld e p.1 p.2.1 p.2.2 != 0).map fun p => 8 * p.1 + p.2.1

/-- Does an OPK or UNIT name nothing (check 2)?  The field at fault. -/
def entryBad (unbind : Bool) (e : DEntry) : Option Nat :=
  let u := eUnit e
  let no := some 16
  match eOpk e with
  | 0 => if u < 5376 then none else no
  | 1 => if u % 65536 < 1024 then none else no
  | 2 => if u / 8192 = 1 ∧ u % 8192 < 544 then none else no
  | 3 => if unbind then some 0 else if u < 64 then none else no
  | 4 =>
    if unbind then some 0
    else if eCount e = 0 ∨ 12 < eCount e then some 32
    else if u + eCount e ≤ 2048 then none else no
  | 5 => if unbind then some 0 else if u < 2048 then none else no
  | _ => some 0

/-- The first entry that fails a test, with what the test answers. -/
def firstEntry {α : Type} (f : DEntry → Option α) (l : List DEntry) : Option (Nat × α) :=
  (l.zipIdx.findSome? fun p => (f p.1).map fun r => (p.2, r))

/-! ### Maps -/

/-- Channels a region's list range names. -/
def CMap.chansAt (m : CMap) (g : Region) : List Nat := (List.range g.n).map fun i => Tbl.look 0 m.list (g.loff + i)
/-- Is a list index in the range of a region? -/
def Region.spans (g : Region) (k : Nat) : Bool := decide (g.loff ≤ k) && decide (k < g.loff + g.n)
/-- Is a channel named by a region? -/
def CMap.names (m : CMap) (l : Nat) : Bool := m.regions.any fun e => (m.chansAt e.2).contains l
/-- Source channel of the move at a list index. -/
def CMap.moveSrc (m : CMap) (k : Nat) : Nat := Tbl.look 0 m.list k
/-- Is a channel the source or the target of a move? -/
def CMap.inMove (m : CMap) (l : Nat) : Bool := m.moves.any fun e => e.2.target == l || m.moveSrc e.1 == l

/-- Is a region as R167 and Table 6-1 want it? -/
def CMap.regionFine (m : CMap) (k : Nat) (g : Region) : Bool :=
  let l := m.chansAt g
  decide (0 < g.size) && decide (g.loff + g.n ≤ 2048) && decide l.Nodup && l.all m.chans.contains &&
    m.regions.all fun e => e.1 == k || decide (e.2.vbase + e.2.size ≤ g.vbase) || decide (g.vbase + g.size ≤ e.2.vbase)

/-- Does another map keep a region, or only extend its size? -/
def CMap.keepsRegion (old new : CMap) (k : Nat) (g : Region) : Bool :=
  match Tbl.find new.regions k with
  | some h => h.vbase == g.vbase && h.n == g.n && h.loff == g.loff && h.ps == g.ps && decide (g.size ≤ h.size) &&
      old.chansAt g == new.chansAt h
  | none => false

/-- Valid entries a stack counts for a region of an asterism. -/
def Dev.regionEntries (d : Dev) (s a : Nat) (g : Region) : Nat :=
  ((d.stack s).table.filter fun e => tkeyAst e.1 == a && decide (g.vbase ≤ tkeyVa e.1) &&
    decide (tkeyVa e.1 < g.vbase + g.size)).length

/-! ### Units in service, held by others, permitted -/

/-- Is a core in service? -/
def Core.inService (k : Core) : Bool := k.svc != .spare && k.svc != .failed && k.svc != .retired && k.svc != .excluded
/-- Is a slice in service?  Of the 68 of a die pair the last four are spares. -/
def Dev.sliceServes (d : Dev) (k : Nat) : Bool :=
  (decide (k % 68 < 64) || d.comp.sliceIn.contains k) && !d.comp.sliceOut.contains k

/-- The other asterism that holds or has staged a unit. -/
def Dev.heldBy (d : Dev) (a : Nat) (p : CMap → Bool) : Option Nat :=
  (d.comp.asts.find? fun e => e.1 != a && e.2.state != .free &&
    (p e.2.staged || (match e.2.cur with | some m => p m | none => false))).map (·.1)

/-- What check 3 finds: the unit, and the asterism that holds it if one does. -/
abbrev Taken := Nat × Option Nat

/-- May a unit join an asterism of domain `dom`? -/
def Dev.mayJoin (d : Dev) (a unit : Nat) (p : CMap → Bool) (serves allowed : Bool) : Option Taken :=
  match d.heldBy a p with
  | some o => some (unit, some o)
  | none => if serves && allowed then none else some (unit, none)

/-- Does the policy allow a domain on a die pair? -/
def Dev.domOnDp (d : Dev) (dom dp : Nat) : Bool := bit (d.get (LCS_POLICY_DOM_A.DPMASK dom)) dp

/-- `l` with an element at its end, unless it is there. -/
def addEnd (l : List Nat) (x : Nat) : List Nat := if l.contains x then l else l ++ [x]

/-- Apply one entry of a BIND, or say what check 3 finds. -/
def Dev.bindEntry (d : Dev) (a : Nat) (m : CMap) (e : DEntry) : Taken ⊕ CMap :=
  let u := eUnit e
  match eOpk e with
  | 0 =>
    (match d.mayJoin a u (fun m => m.cores.contains u) (d.coreAt u).inService (d.domOnDp m.dom (coreDp u)) with
     | some t => .inl t
     | none => .inr { m with cores := addEnd m.cores u })
  | 1 =>
    let l := u % 1024
    (match d.mayJoin a (chanUnit (d.physChan l)) (fun m => m.chans.contains l) (!d.retired l)
        (bit (d.get (LCS_POLICY_DOM_B.STACKS m.dom)) (chanStack l)) with
     | some t => .inl t
     | none => .inr { m with chans := addEnd m.chans l, scrub := m.scrub.filter (· != chanNo l) })
  | 2 =>
    let k := u % 8192
    (match d.mayJoin a u (fun m => m.slices.contains k) (d.sliceServes k) (d.domOnDp m.dom (k / 68)) with
     | some t => .inl t
     | none => .inr { m with slices := addEnd m.slices k, scrub := m.scrub.filter (· != sliceNo k) })
  | 3 =>
    .inr { m with regions := match eRegion e with | some g => Tbl.put m.regions u g | none => Tbl.del m.regions u }
  | 4 => .inr { m with list := (List.range (eCount e)).foldl (fun t i => Tbl.putD 0 t (u + i) (eItem e i)) m.list }
  | 5 => .inr { m with moves := Tbl.put m.moves u { target := fld e 8 0 10, release := eRelease e } }
  | _ => .inr m

/-- Apply one entry of an UNBIND. -/
def Dev.unbindEntry (d : Dev) (a : Nat) (m : CMap) (e : DEntry) : Taken ⊕ CMap :=
  let u := eUnit e
  let mark := fun (n : Nat) => if eScrub e then addEnd m.scrub n else m.scrub
  match eOpk e with
  | 0 =>
    if m.cores.contains u then .inr { m with cores := m.cores.filter (· != u) }
    else .inl (u, d.heldBy a fun m => m.cores.contains u)
  | 1 =>
    let l := u % 1024
    if m.chans.contains l ∧ !m.names l ∧ !m.inMove l then
      .inr { m with chans := m.chans.filter (· != l), scrub := mark (chanNo l) }
    else .inl (chanUnit (d.physChan l), if m.chans.contains l then some a else d.heldBy a fun m => m.chans.contains l)
  | 2 =>
    let k := u % 8192
    if m.slices.getLast? = some k then .inr { m with slices := m.slices.dropLast, scrub := mark (sliceNo k) }
    else .inl (u, if m.slices.contains k then some a else d.heldBy a fun m => m.slices.contains k)
  | _ => .inr m

/-- Apply a delta entry by entry, or stop at the first that check 3 refuses. -/
def applyAll (f : CMap → DEntry → Taken ⊕ CMap) : List DEntry → CMap → Taken ⊕ CMap
  | [], m => .inr m
  | e :: l, m => match f m e with
    | .inl t => .inl t
    | .inr m => applyAll f l m

/-! ### Checks 4 to 8 -/

/-- Check 4: the region, the stack and the count at fault. -/
def Dev.check4 (d : Dev) (a : Nat) (m : CMap) : Option (List Nat) :=
  match m.regions.find? fun e => !m.regionFine e.1 e.2 with
  | some e => some [e.1, 0, 0]
  | none =>
    match (d.ast a).cur with
    | none => none
    | some old => old.regions.findSome? fun e =>
        if old.keepsRegion m e.1 e.2 then none
        else (allStacks.find? fun s => d.regionEntries s a e.2 != 0).map fun s => [e.1, s, d.regionEntries s a e.2]

/-- Is the slot of a channel SERVING? -/
def Dev.slotServing (d : Dev) (l : Nat) : Bool := d.get (STK_SLOT_MAP.STATE (l / 32) (l % 32)) == 0

/-- R285 for the move at index k of a staged map. -/
def Dev.moveFine (d : Dev) (cur : Option CMap) (m : CMap) (delta : List DEntry) (k : Nat) (v : MoveEnt) : Bool :=
  let src := m.moveSrc k
  let maps := m :: cur.toList
  let inDelta := decide (2 ≤ (delta.filter fun e => eOpk e == 5 && eUnit e == k).length)
  let edits := fun (e : DEntry) => m.regions.any fun g => g.2.spans k &&
    ((eOpk e == 3 && eUnit e == g.1) || (eOpk e == 4 && (List.range (eCount e)).any fun i => g.2.spans (eUnit e + i)))
  m.chans.contains v.target &&
    !(maps.any fun x => x.names v.target || x.moves.any fun e => e.1 != k && e.2.target == v.target) &&
    !(maps.any fun x => x.moves.any fun e => e.1 != k && x.moveSrc e.1 == src) && !inDelta &&
    !((delta.any fun e => eOpk e == 5 && eUnit e == k) && delta.any edits) &&
    d.slotServing src && d.slotServing v.target

/-- Check 5: the first new move that breaks R285, or a second one at an entry already moving. -/
def Dev.check5 (d : Dev) (a : Nat) (m : CMap) (delta : List DEntry) : Option (List Nat) :=
  let cur := (d.ast a).cur
  let running := fun (k : Nat) => match cur with | some x => (Tbl.find x.moves k).isSome | none => false
  (m.moves.find? fun e =>
    if running e.1 then delta.any fun x => eOpk x == 5 && eUnit x == e.1 else !d.moveFine cur m delta e.1 e.2).map
      fun e => [e.1, m.moveSrc e.1, e.2.target]

/-- Check 6. -/
def Dev.check6 (d : Dev) (a : Nat) (m : CMap) : Bool :=
  let moved := match (d.ast a).cur with | some x => x.home != m.home && (d.ast a).state != .quiesced | none => false
  m.cores.isEmpty || m.chans.isEmpty || !(m.cores.any fun c => coreDp c == m.home) || moved

/-- Contexts of an asterism. -/
def Dev.ctxCount (d : Dev) (a : Nat) : Nat := (d.hif.ctxs.filter fun e => e.2.ast == a).length
/-- Has an asterism a function attached? -/
def Ast.attached (x : Ast) : Bool := x.funcs.any fun p => p.1 != 0

/-- The device with an asterism under another map. -/
def Dev.withMap (d : Dev) (a : Nat) (m : CMap) : Dev := d.onAst a fun x => { x with cur := some m }

/-- Check 8: the reason, and the die pair or channel on which admitted reservations do not fit. -/
def Dev.check8 (d : Dev) (now a : Nat) (m : CMap) : Option (Reason × Nat) :=
  let d := d.withMap a m
  if (d.book a).isEmpty then none
  else if !d.bookOk now a then some (.coreTime, m.home)
  else match m.chans.find? fun l => !d.chanOk a l d.activePairs with
    | some l => some (.memory, l)
    | none => if bridgeDirs.all (d.bridgeOk d.activePairs) then none else some (.memory, m.home)

/-! ### BIND and UNBIND -/

/-- Functions of an asterism. -/
def Dev.functions (d : Dev) (a : Nat) : List Nat :=
  ((d.ast a).funcs.zipIdx.filter fun p => p.1.1 != 0).map fun p => fnOf p.2 p.1.2 p.1.1

/-- The locked TDI of an asterism, if it has one (R397). -/
def Dev.lockedFn (d : Dev) (a : Nat) : Option Nat :=
  (d.functions a).find? fun f => (d.fn f).tdi == .locked || (d.fn f).tdi == .run

/-- Is the header of a BIND or UNBIND as Table 9-4 and check 1 want it? -/
def composeClean (unbind : Bool) (x : Line) (st : AstState) : Bool :=
  let create := !unbind && cCreate x
  allZero x [(0x10, 17, 15), (0x14, 13, 19), (0x20, 0, 256)] && (unbind || !cShed x) &&
    decide (cNent x ≤ 4096) && fld x 0x18 0 6 == 0 && (create == (st == .free)) && st != .resetting && st != .dissolving &&
    (create || cDom x == 0) && (create || cSetHome x || cHome x == 0)

/-- Refuse for a unit; the owner of a unit that no other asterism holds is not stated. -/
def Dev.refuseUnit (d : Dev) (now k a : Nat) (t : Taken) : Dev :=
  match t.2 with
  | some o => d.mgtRefuse now k 0x05C1 [t.1, o] .policy (some (a, 0))
  | none =>
    let (v, d) := d.draw .handle
    d.mgtRefuse now k 0x05C1 [t.1, v % 2 ^ 64] .policy (some (a, 0))

/-- Checks 5 to 8 on the whole staged map, where the command publishes: the reason, error and detail. -/
def Dev.applyChecks (d : Dev) (now a : Nat) (m : CMap) (x : Mgt) (dissolve : Bool) : Option (Reason × Nat × List Nat) :=
  match d.check5 a m x.entries with
  | some det => some (.policy, 0x05C4, det)
  | none =>
    if !dissolve && d.check6 a m then some (.policy, 0x05C2, [m.cores.length, m.chans.length, m.home])
    else if dissolve && ((d.ast a).state != .quiesced || (d.ast a).attached) then
      some (.policy, 0x05C5, [hOp x.slot, d.ctxCount a])
    else if dissolve || cShed x.slot then none
    else (d.check8 now a m).map fun r => (r.1, 0x05C6, [r.1.code, r.2])

/-- Registers of ADM that are cleared when an ASTID leaves FREE (R379). -/
def admRegs (a : Nat) : List Nat :=
  (List.range 8).map (fun k => ADM_MEMRES.off (8 * a + k)) ++
    [ADM_LINKRES.off a, ADM_AST_BOOK0.off a, ADM_AST_BOOK1.off a, ADM_AST_BOOK2.off a, ADM_AST_BOOK3.off a,
     ADM_AST_BOOK4.off a]

/-- An asterism leaves FREE: its counters and its ADM registers are cleared (R302, R379). -/
def Dev.astCreate (d : Dev) (a : Nat) : Dev :=
  let d := d.onAst a fun _ => { Ast.reset with state := .composing }
  (admRegs a).foldl (fun d o => { d with regs := Tbl.del d.regs o }) d

/-- The command's delta is in the staged map; with APPLY its publication waits, else it completes. -/
def Dev.stage (d : Dev) (now k a : Nat) (m : CMap) (x : Line) (dissolve : Bool) : Dev :=
  let d := d.onAst a fun s => { s with staged := m }
  if cApply x then d.onComp fun c => { c with
    waiting := c.waiting ++ [{ ast := a, edit := none, map := m, dissolve := dissolve, shed := cShed x, cmd := some k }] }
  else d.mgtDone now k .completed

/-- BIND or UNBIND in firmware's hands. -/
def Dev.compose (d : Dev) (now k : Nat) (x : Mgt) (unbind : Bool) : Dev :=
  let a := fld x.slot 0x10 0 6
  let st := (d.ast a).state
  let create := !unbind && cCreate x.slot
  let dissolve := unbind && cCreate x.slot
  let who := some (a, 0)
  let l := x.entries
  if !composeClean unbind x.slot st || (create && d.lcBusy) then d.mgtRefuse now k 0x05C0 [hOp x.slot, st.code] .policy who
  else match if cApply x.slot then d.lockedFn a else none with
  | some f => d.mgtRefuse now k 0x070B [hOp x.slot, fnVf f] .policy who
  | none =>
    match firstEntry (entryDirty unbind) l with
    | some (i, f) => d.mgtRefuse now k 0x05C0 [i, f] .policy who
    | none =>
      match firstEntry (entryBad unbind) l with
      | some (i, f) => d.mgtRefuse now k 0x05C0 [i, f] .policy who
      | none =>
        if create ∧ (!d.flag (LCS_POLICY_DOM_A.EN (cDom x.slot)) ∨ d.lcs.state = 0 ∨ d.lcs.state = 3) then
          let (v, d) := d.draw .handle
          d.refuseUnit now k a (v % 2 ^ 16, none)
        else
          let start := if create then CMap.empty (cDom x.slot) (cHome x.slot) else (d.ast a).staged
          let start := if cSetHome x.slot then { start with home := cHome x.slot } else start
          match applyAll (if unbind then d.unbindEntry a else d.bindEntry a) l start with
          | .inl t => d.refuseUnit now k a t
          | .inr m =>
            match d.check4 a m with
            | some det => d.mgtRefuse now k 0x05C3 det .policy who
            | none =>
              if dissolve ∧ st = .composing then (d.astFree a).mgtDone now k .completed
              else match if cApply x.slot then d.applyChecks now a m x dissolve else none with
              | some (r, err, det) => d.mgtRefuse now k err det r who
              | none => (if create then d.astCreate a else d).stage now k a m x.slot dissolve

/-- BIND. -/
def execBind (m : Nat) (s : State) := s.run fun now d => d.mgtRun m 0x80 fun d x => d.compose now m x false
/-- UNBIND. -/
def execUnbind (m : Nat) (s : State) := s.run fun now d => d.mgtRun m 0x81 fun d x => d.compose now m x true

end Sys2Proof.Machine
end

