-- ==== Sys2Proof/Machine/Publish.lean ====
section
/-!
DEFINITION. Map epochs: publication (R272 to R275, R280 to R283, R475), the drain of the previous epoch and what it
releases (R273, R274, R288), the drain limit (R276), scrubs (R477), and key loads that fail (R478).
-/

namespace Sys2Proof.Machine

/-! ### What a publication waits for -/

/-- Numbers of the units of a map. -/
def CMap.units (m : CMap) : List Nat := m.cores ++ m.chans.map chanNo ++ m.slices.map sliceNo
/-- Units of an asterism's current map. -/
def Dev.boundUnits (d : Dev) (a : Nat) : List Nat := match (d.ast a).cur with | some m => m.units | none => []
/-- The map a change publishes: a dissolved asterism keeps its domain and home, and no unit. -/
def Publ.next (p : Publ) : CMap := if p.dissolve then CMap.empty p.map.dom p.map.home else p.map
/-- Units that join with a change. -/
def Dev.joining (d : Dev) (p : Publ) : List Nat := p.next.units.filter fun u => !(d.boundUnits p.ast).contains u

/-- Is a BIND or UNBIND ready: is none of its units still being released or scrubbed (R280)? -/
def Dev.publReady (d : Dev) (p : Publ) : Bool := p.edit.isNone && (d.joining p).all fun u => !d.unitBusy u

/-- Must a unit be scrubbed before it joins an asterism of a domain (R283, R476)? -/
def Dev.needsScrub (d : Dev) (dom u : Nat) : Bool :=
  decide (8192 ≤ u) && (d.ownerOf u).dirty && ((d.ownerOf u).always || (d.ownerOf u).lastDom != dom)

/-- A scrub starts; the scrub of a slice wakes its die pair (R236, R413). -/
def Dev.startScrub (d : Dev) (now u : Nat) : Dev :=
  let d := (d.onOwner u fun o => { o with st := 3 }).onComp fun c => { c with scrubbing := c.scrubbing ++ [u] }
  if 16384 ≤ u then d.wakeDp now 8 ((u - 16384) / 68) else d

/-- Stacks whose slot of the domain a change needs and that hold no key in it (R475). -/
def Dev.keysNeeded (d : Dev) (p : Publ) : List Nat :=
  let m := p.next
  let old := match (d.ast p.ast).cur with | some x => x.moves | none => []
  let ls := (m.chans.filter fun l => (d.joining p).contains (chanNo l)) ++
    ((m.moves.filter fun e => (Tbl.find old e.1).isNone).map fun e => e.2.target)
  ((ls.map chanStack).dedup).filter fun s => !d.slotValid s m.dom

/-- A request to the DRBG (R479). -/
def Dev.drbgUse (d : Dev) : Dev := { d with lcs := { d.lcs with drbgReqs := d.lcs.drbgReqs + 1 } }

/-- Send a fresh key to slot n of a stack, unless one is on its way; a stopped DRBG gives none. -/
def Dev.sendKey (d : Dev) (now n s : Nat) : Dev :=
  if !d.lcs.drbgUp || d.lcs.loads.any fun e => e.1 == s * 32 + n then d
  else
    let d := d.drbgUse
    { d with lcs := { d.lcs with
      loads := d.lcs.loads ++ [(s * 32 + n, now, false, d.lcs.nextKey)], nextKey := d.lcs.nextKey + 1 } }

/-! ### Publishing (Table 9-3) -/

/-- A unit leaves an asterism: it is released once the old epoch has drained. -/
def Dev.unitLeaves (d : Dev) (a dom : Nat) (scrub : List Nat) (u : Nat) : Dev :=
  let s := decide (8192 ≤ u) && (scrub.contains u || d.flag (LCS_POLICY_DOM_A.SCRUB_ALWAYS dom))
  (d.onOwner u fun o => { o with st := 2, lastDom := dom, dirty := true }).onComp fun c => { c with
    leaving := c.leaving ++ [(u, a, s)] }

/-- A unit is bound to an asterism. -/
def Dev.unitJoins (d : Dev) (a u : Nat) : Dev :=
  if u < 8192 then d.onCore u fun k => { k with bound := some a }
  else d.onOwner u fun o => { o with ast := a, st := 1 }

/-- A move that its epoch carries for the first time (R284). -/
def newMove (a : Nat) (m : CMap) (cmd : Option Nat) (e : Nat × MoveEnt) : MoveRun where
  ast := a
  idx := e.1
  src := m.moveSrc e.1
  dst := e.2.target
  release := e.2.release
  started := false
  copied := []
  ptr := 0
  skipped := none
  recorded := false
  done := false
  switched := false
  cmd := cmd

/-- The new map of one asterism takes effect under the epoch now current (steps 2 to 5). -/
def Dev.publishAst (d : Dev) (now a : Nat) (m : CMap) (dissolve : Bool) (cmd : Option Nat) : Dev :=
  let old := (d.ast a).cur
  let before := d.boundUnits a
  let m' := { m with scrub := [] }
  let d := d.onAst a fun x => { x with
    prev := old, cur := some m', staged := m', epoch := d.comp.epoch
    state := if dissolve then .dissolving else if x.state = .composing then .active else x.state }
  let d := (before.filter fun u => !m.units.contains u).foldl (fun d u => d.unitLeaves a m.dom m.scrub u) d
  let d := (m.units.filter fun u => !before.contains u).foldl (fun d u => d.unitJoins a u) d
  let oldMoves := match old with | some x => x.moves | none => []
  let d := d.onComp fun c => { c with
    moves := c.moves ++ (m.moves.filter fun e => (Tbl.find oldMoves e.1).isNone).map (newMove a m cmd) }
  let d := ((m.cores.map coreDp).dedup).foldl (fun d p => d.wakeDp now 8 p) d
  d.snapshot now a

/-- The next epoch: E + 1 is current, E the previous one, every die pair adopts it (steps 3 to 5). -/
def Dev.nextEpoch (d : Dev) (now us : Nat) : Dev :=
  d.onComp fun c => { c with
    prevEpoch := c.epoch, epoch := (c.epoch + 1) % 65536, twoLive := true, adopted := diePairs, adoptAt := now
    drainLate := false, lastPublishUs := us }

/-- Publish a BIND or UNBIND. -/
def Dev.publishCmd (d : Dev) (now : Nat) (p : Publ) : Dev :=
  let at_ := ((p.cmd.bind fun k => Tbl.find d.hif.mgt k).map (·.at_)).getD now
  let d := d.onComp fun c => { c with waiting := c.waiting.filter fun x => x != p }
  let d := (d.nextEpoch now ((now - at_) / 1000)).publishAst now p.ast { p.next with scrub := p.map.scrub } p.dissolve p.cmd
  let d := if p.shed then
      ((d.shedCores now p.ast).shedChannels p.ast fun _ => true).shedBridges p.map.home
    else d
  let d := match p.cmd with
    | some k => if d.comp.moves.any fun m => m.cmd == some k then d else d.mgtDone now k .completed
    | none => d
  d.after now

/-- A map with a service change. -/
def SvcEdit.apply (e : SvcEdit) (m : CMap) : CMap :=
  match e with
  | .core old new => { m with cores := m.cores.map fun c => if c = old then new else c }
  | .slice old new => { m with slices := m.slices.map fun k => if k = old then new else k }
  | .move idx dst release => { m with
      list := Tbl.putD 0 m.list idx dst, moves := Tbl.del m.moves idx
      chans := match release with | some l => m.chans.filter (· != l) | none => m.chans }

/-- Is a spare core promised by a change that waits? -/
def Dev.promised (d : Dev) (c : Nat) : Bool := d.comp.waiting.any fun p => match p.edit with
  | some (.core _ new) => new == c
  | _ => false

/-- The lowest spare core of a die pair. -/
def Dev.spareCore (d : Dev) (dp : Nat) : Option Nat :=
  ((List.range 672).map fun i => dp * 672 + i).find? fun c => (d.coreAt c).svc == .spare && !d.promised c

/-- A substitution is recorded: 0x05CA, and the old unit retired in the Almanac (R290). -/
def Dev.substituted (d : Dev) (old new : Nat) : Dev :=
  ((d.raise 0x05CA moduleUnit 0x00 .degraded [old, new]).almEntry old 0x05CA).almMark old .retired

/-- The SPARE_SWAP of a unit completes. -/
def Dev.swapDone (d : Dev) (now : Nat) (slice : Bool) (u : Nat) : Dev :=
  match d.comp.swaps.find? fun w => w.slice == slice && w.unit == u with
  | some w =>
    let d := d.onComp fun c => { c with swaps :=
      if slice then (c.swaps.map fun x => if x = w then { x with cmd := none } else x) else c.swaps.filter fun x => x != w }
    (match w.cmd with | some k => d.mgtDone now k .completed | none => d)
  | none => d

/-- A spare slice of a die pair that no swap has taken. -/
def Dev.spareSlice (d : Dev) (dp : Nat) : Option Nat :=
  ((List.range 68).map fun i => dp * 68 + i).find? fun k =>
    !d.sliceServes k && !d.comp.sliceOut.contains k && !(d.comp.swaps.any fun w => w.slice && w.spare == k)

/-- The last spare slice of a die pair has entered service (R466). -/
def Dev.slicesLeft (d : Dev) (dp : Nat) : Dev := if (d.spareSlice dp).isNone then d.groupEmpty 3 (svcUnit dp) else d

/-- What a service change does beside its map: units change service, a move switches. -/
def Dev.serviceDone (d : Dev) (now : Nat) (p : Publ) : Dev :=
  match p.edit with
  | some (.core old new) =>
    let d := (d.onCore old fun k => { k with svc := .retired }).onCore new fun k => { k with svc := .idle }
    let d := (d.substituted (coreUnit old) (coreUnit new)).swapDone now false old
    if (d.spareCore (coreDp old)).isNone then d.groupEmpty 2 (svcUnit (coreDp old)) else d
  | some (.slice old new) =>
    let d := d.onComp fun c => { c with sliceOut := c.sliceOut ++ [old], sliceIn := c.sliceIn ++ [new] }
    ((d.substituted (unitId 1 old) (unitId 1 new)).swapDone now true old).slicesLeft (old / 68)
  | some (.move idx _ _) => d.onComp fun c => { c with
      moves := c.moves.map fun m => if m.ast = p.ast ∧ m.idx = idx then { m with switched := true } else m }
  | none => d

/-- Measurement 16 of an asterism: its composition under the current map, then the epoch (Table 15-4). -/
def Dev.measure16 (d : Dev) (a : Nat) : Nat :=
  match (d.ast a).cur with
  | none => Config.digest [16, a]
  | some m => Config.digest ([16, a, m.dom, m.home, m.cores.length] ++ m.cores ++ [m.chans.length] ++ m.chans ++
      [m.slices.length] ++ m.slices ++ m.regions.flatMap (fun e => [e.1, e.2.vbase, e.2.size, e.2.n, e.2.loff, e.2.ps.toNat]) ++
      m.list.flatMap (fun e => [e.1, e.2]) ++ [d.comp.epoch])

/-- The measurement log of a locked TDI grows with each service change of its asterism (R397). -/
def Dev.logService (d : Dev) (a : Nat) : Dev :=
  ((d.functions a).filter fun f => (d.fn f).tdi == .locked || (d.fn f).tdi == .run).foldl (fun d f =>
    { d with cxl := { d.cxl with tdiLog := Tbl.upd [] d.cxl.tdiLog f (· ++ [d.measure16 a]) } }) d

/-- Publish every service change that waits, as one epoch (R272). -/
def Dev.publishService (d : Dev) (now : Nat) : Dev :=
  let l := d.comp.waiting.filter fun p => p.edit.isSome
  if l.isEmpty then d
  else
    let edit := fun (a : Nat) (m : CMap) => l.foldl (fun m p => if p.ast = a then
      (match p.edit with | some e => e.apply m | none => m) else m) m
    let d := d.onComp fun c => { c with waiting := (c.waiting.filter fun p => p.edit.isNone).map fun p =>
      { p with map := edit p.ast p.map } }
    let d := d.nextEpoch now 0
    let d := ((l.map (·.ast)).dedup).foldl (fun d a => match (d.ast a).cur with
      | some m => (d.publishAst now a (edit a m) false none).logService a
      | none => d) d
    (l.foldl (fun d p => d.serviceDone now p) d).after now

/-- PUBLICATION: with the previous epoch drained, service changes go first; then the first command whose units are free,
after the scrubs and the key loads it needs. -/
def Dev.publish (d : Dev) (now : Nat) : Dev :=
  if d.comp.twoLive then d
  else if d.comp.waiting.any fun p => p.edit.isSome then d.publishService now
  else match d.comp.waiting.find? d.publReady with
  | none => d
  | some p =>
    let dirty := (d.joining p).filter (d.needsScrub p.map.dom)
    if !dirty.isEmpty then dirty.foldl (fun d u => d.startScrub now u) d
    else
      let keys := d.keysNeeded p
      if keys.isEmpty then d.publishCmd now p else keys.foldl (fun d s => d.sendKey now p.map.dom s) d

/-- PUBLICATION. -/
def execPublication (s : State) := s.run fun now d => d.publish now

/-! ### The drain (R273) -/

/-- Is a request of the previous epoch held anywhere: in the networks, at a stack, in a reduction entry, or as a sweep
grant that is neither served nor set aside? -/
def Dev.epochHeld (d : Dev) (e : Nat) : Bool :=
  let of := fun (r : Req) => r.tags.epoch == e
  d.net.reqs.any of || (d.net.resps.any fun x => of x.req) ||
    (d.net.faults.any fun m => match m.req with | some r => of r | none => false) ||
    (d.net.red.any fun l => l.2.any fun x => of x.req || x.parts.any of) ||
    (d.stk.any fun t => (t.2.walks.any fun w => of w.req) || t.2.biWait.any of) ||
    (d.sweeps.any fun j => j.2.parts.any fun p => p.queue.any fun g => g.epoch == e)

/-- Moves whose switch has drained are over, and a command all of whose moves are over completes (R288); moves of the
epoch now current start. -/
def Dev.movesDrained (d : Dev) (now : Nat) : Dev :=
  let ended := d.comp.moves.filter (·.switched)
  let left := (d.comp.moves.filter fun m => !m.switched).map fun m => { m with started := true }
  let d := d.onComp fun c => { c with moves := left }
  ((ended.filterMap (·.cmd)).dedup).foldl (fun d k =>
    if left.any fun m => m.cmd == some k then d else d.mgtDone now k .completed) d

/-- EPOCH_DRAINED: the previous epoch is over, and what left under it is released (steps 6 and 7). -/
def Dev.drained (d : Dev) (now : Nat) : Dev :=
  if !d.comp.twoLive || d.epochHeld d.comp.prevEpoch then d
  else
    let left := d.comp.leaving
    let d := d.onComp fun c => { c with
      twoLive := false, drainLate := false, lastDrainUs := (now - c.adoptAt) / 1000
      asts := Tbl.mapV (fun _ (x : Ast) => { x with prev := none }) c.asts
      swaps := c.swaps.filter fun w => !(w.slice && c.sliceOut.contains w.unit) }
    let d := left.foldl (fun d e => if e.1 < 8192 then d.releaseCore e.1
      else if d.comp.scrubbing.contains e.1 then d else d.releaseMem e.1 e.2.1 e.2.2) d
    let d := (d.comp.asts.map (·.1)).foldl (fun d a => d.settleAst a) d
    d.movesDrained now

/-- EPOCH_DRAINED. -/
def execEpochDrained (s : State) := s.run fun now d => d.drained now

/-- Cores that hold requests of an epoch. -/
def Dev.epochCores (d : Dev) (e : Nat) : List Nat :=
  (d.core.filter fun k =>
    let of := fun (r : Req) => r.tags.epoch == e && r.ofCore k.1
    d.net.reqs.any of || (d.net.resps.any fun x => of x.req) ||
    (d.net.faults.any fun m => match m.req with | some r => of r | none => false) ||
    (d.net.red.any fun l => l.2.any fun x => of x.req || x.parts.any of) ||
    (d.stk.any fun t => (t.2.walks.any fun w => of w.req) || t.2.biWait.any of)).map (·.1)

/-- Sweep jobs that hold grants or requests of an epoch. -/
def Dev.epochSweeps (d : Dev) (e : Nat) : List Nat :=
  (d.sweeps.filter fun j => (j.2.parts.any fun p => p.queue.any fun g => g.epoch == e) ||
    d.net.reqs.any fun r => r.tags.epoch == e && (match r.who with | .sweep i _ => i == j.1 | _ => false)).map (·.1)

/-- Requests of an epoch leave the machine. -/
def Dev.dropEpoch (d : Dev) (e : Nat) : Dev :=
  let keep := fun (r : Req) => r.tags.epoch != e
  let d := d.onNet fun n => { n with
    reqs := n.reqs.filter keep
    resps := n.resps.filter fun x => keep x.req
    faults := n.faults.map fun m => match m.req with | some r => if keep r then m else { m with req := none } | none => m
    red := Tbl.mapV (fun _ l => l.filter fun x => keep x.req) n.red }
  { d with stk := Tbl.mapV (fun _ (t : Stack) => { t with
      walks := t.walks.filter fun w => keep w.req, biWait := t.biWait.filter keep }) d.stk }

/-- COMP_DRAIN_TIMEOUT: 100 ms after adoption the holders are recorded, their requests cancelled, their cores fenced and
their sweeps ended FENCED. -/
def Dev.drainLimit (d : Dev) (now : Nat) : Dev :=
  let e := d.comp.prevEpoch
  if !d.comp.twoLive || d.comp.drainLate || decide (now < d.comp.adoptAt + 100000000) || !d.epochHeld e then d
  else
    let cores := d.epochCores e
    let sweeps := d.epochSweeps e
    let units := (cores.map coreUnit ++ (sweeps.filterMap fun j => (Tbl.find d.sweeps j).map fun x => svcUnit x.home)).dedup
    let d := (d.onComp fun c => { c with drainLate := true }).raise 0x05C8 moduleUnit 0x00 .contained
      (e :: listItem 16 units)
    let d := d.dropEpoch e
    let d := cores.foldl (fun d c => d.fenceCore now c .recovery .fence 0x05C8) d
    sweeps.foldl (fun d j =>
      let d := (d.endSweep j).onCmd j fun m => { m with err := 0x05C8 }
      (d.finish now j .fenced).after now) d

/-- COMP_DRAIN_TIMEOUT. -/
def execCompDrainTimeout (s : State) := s.run fun now d => d.drainLimit now

/-! ### Scrubs and key loads -/

/-- Keys of the bindable granules of a channel among the units that are scrubbed; none for a slice. -/
def Dev.scrubKeys (d : Dev) (u : Nat) : Nat × Nat :=
  if u < 16384 then (granKey (d.physChan (u - 8192)) 0, granKey (d.physChan (u - 8192)) (granOf privateBase)) else (0, 0)

/-- SCRUB_COMPLETE: the unit reads as zeros in any domain and is free (R153, R236, R477); granules that hosts hold are
snooped first (R387). -/
def Dev.scrubDone (d : Dev) (now u : Nat) : Dev :=
  let (lo, hi) := d.scrubKeys u
  let s := chanStack (u - 8192)
  if !d.comp.scrubbing.contains u then d
  else if d.trackedIn s lo hi then d.snoopIn now s lo hi
  else
    let d := if u < 16384 then d.scrubChan (d.physChan (u - 8192)) else d.scrubSlice (u - 16384)
    let d := (d.onOwner u fun o => { o with ast := 0, st := 0, dirty := false, always := false }).onComp fun c => { c with
      scrubbing := c.scrubbing.filter (· != u) }
    match d.comp.leaving.find? fun e => e.1 == u with
    | some (_, a, _) => (d.unlist u).settleAst a
    | none => d

/-- SCRUB_COMPLETE. -/
def execScrubComplete (u : Nat) (s : State) := s.run fun now d => d.scrubDone now u

/-- A publication is abandoned before adoption: its command is refused, its staged map stands (R478). -/
def Dev.abandon (d : Dev) (now s n attempt : Nat) : Dev :=
  match d.comp.waiting.find? fun p => d.publReady p && p.map.dom == n && (d.keysNeeded p).contains s with
  | some p =>
    let d := d.onComp fun c => { c with waiting := c.waiting.filter fun x => x != p }
    (match p.cmd with | some k => d.mgtRefuse now k 0x0909 [s, n, attempt] .policy (some (p.ast, 0)) | none => d)
  | none => d

/-- KEY_LOAD_FAILED: load `i` unacknowledged at 100 µs: 0x0909, the logic die is reset and a load sent once more; the
second time the publication is abandoned. -/
def Dev.keyLate (d : Dev) (now i : Nat) : Dev :=
  match d.lcs.loads[i]? with
  | none => d
  | some (k, at_, retried, _) =>
    let s := k / 32
    let n := k % 32
    if now < at_ + 100000 then d
    else if retried then
      ({ d with lcs := { d.lcs with loads := dropAt d.lcs.loads i } }).abandon now s n 2
    else if !d.lcs.drbgUp then d
    else
      let d := ((d.raise 0x0909 moduleUnit 0x00 .contained [s, n, 1]).requestReset now 2 s 0x0909).drbgUse
      { d with lcs := { d.lcs with
        loads := modifyAt d.lcs.loads i fun _ => (k, now, true, d.lcs.nextKey), nextKey := d.lcs.nextKey + 1 } }

/-- KEY_LOAD_FAILED. -/
def execKeyLoadFailed (i : Nat) (s : State) := s.run fun now d => d.keyLate now i

end Sys2Proof.Machine
end

