-- ==== Sys2Proof/Machine/Moves.lean ====
section
/-!
DEFINITION. Memory moves (R286 to R289), spare substitution (R290, R291) and the retirement of a slot (R160).
-/

namespace Sys2Proof.Machine

/-! ### Moves -/

/-- Moving regions of a move: those whose list range contains its index. -/
def MoveRun.regions (v : MoveRun) (m : CMap) : List (Nat × Region) := m.regions.filter fun e => e.2.spans v.idx

/-- Granules of 4 KiB of a page that list entry k holds. -/
def Region.shareAt (g : Region) (page k : Nat) : Nat :=
  let q0 := (page - g.vbase) / pageBytes g.ps * (pageBytes g.ps / 4096)
  ((List.range (pageBytes g.ps / 4096)).filter fun q => g.loff + (q0 + q) % g.n == k).length

/-- Granule range of a page's part in a move's source channel. -/
def MoveRun.range (v : MoveRun) (m : CMap) (e : Nat × TEntry) : Nat × Nat :=
  match (v.regions m).find? fun g => decide (g.2.vbase ≤ tkeyVa e.1) && decide (tkeyVa e.1 < g.2.vbase + g.2.size) with
  | some (_, g) => (e.2.frame * 64, (e.2.frame + g.shareAt (tkeyVa e.1) v.idx) * 64)
  | none => (0, 0)

/-- Present pages of a move that are still to be copied, by rising channel offset; a page of host memory has nothing in
the channel. -/
def Dev.movePages (d : Dev) (v : MoveRun) : List (Nat × TEntry) :=
  match (d.ast v.ast).cur with
  | none => []
  | some m =>
    sortBy (fun x y => decide (x.2.frame ≤ y.2.frame)) ((d.stack (chanStack v.src)).table.filter fun e =>
      let r := v.range m e
      tkeyAst e.1 == v.ast && e.2.p && !(e.2.pool && d.poolHost e.2.pidx) && decide (r.1 < r.2) &&
        !v.copied.any fun c => decide (c.1 ≤ r.1) && decide (r.2 ≤ c.2))

/-- Does the target stack hold the page's entry with the same tags, frame and share (R287)? -/
def Dev.moveTarget (d : Dev) (v : MoveRun) (e : Nat × TEntry) : Bool :=
  match Tbl.find (d.stack (chanStack v.dst)).table e.1 with
  | some t => t.ast == e.2.ast && t.dom == e.2.dom && t.ctx == e.2.ctx && t.ps == e.2.ps && t.frame == e.2.frame &&
      t.share == e.2.share
  | none => false

/-- Carry a granule range of a channel across to the same offsets of another (R286). -/
def Dev.carry (d : Dev) (l dst : Nat) (r : Nat × Nat) : Dev :=
  d.copyGrans (granKey (d.physChan l) r.1) (granKey (d.physChan l) r.2) (granKey (d.physChan dst) r.1) (d.recrypt l dst)

/-- Change move `i`. -/
def Dev.onMove (d : Dev) (i : Nat) (f : MoveRun → MoveRun) : Dev :=
  d.onComp fun c => { c with moves := modifyAt c.moves i f }

/-- MOVE_COPY: the next present page that has its entry in the target stack is copied; pages without one are skipped.
Granules that hosts hold are snooped first (R387). -/
def Dev.moveCopy (d : Dev) (now i : Nat) : Dev :=
  match d.comp.moves[i]?, (d.comp.moves[i]?).bind fun v => (d.ast v.ast).cur with
  | some v, some m =>
    if !v.started || v.done then d
    else
      let ps := d.movePages v
      let skips := ps.any fun e => !d.moveTarget v e
      let d := d.onMove i fun v => { v with skipped := if skips then some (v.skipped.getD now) else none }
      match ps.find? (d.moveTarget v) with
      | none => d
      | some e =>
        let r := v.range m e
        let s := chanStack v.src
        let lo := granKey (d.physChan v.src) r.1
        let hi := granKey (d.physChan v.src) r.2
        if d.trackedIn s lo hi then d.snoopIn now s lo hi
        else (d.carry v.src v.dst r).onMove i fun v => { v with copied := v.copied ++ [r], ptr := max v.ptr r.2 }
  | _, _ => d

/-- MOVE_COPY. -/
def execMoveCopy (i : Nat) (s : State) := s.run fun now d => d.moveCopy now i

/-- COMP_MOVE_BLOCKED: 10 ms with a skipped page, once per move (R287). -/
def Dev.moveBlocked (d : Dev) (now i : Nat) : Dev :=
  match d.comp.moves[i]? with
  | none => d
  | some v =>
    match v.skipped, (d.movePages v).find? fun e => !d.moveTarget v e with
    | some t, some e =>
      if v.recorded || decide (now < t + 10000000) then d
      else (d.raise 0x05C7 moduleUnit 0x00 .info [v.idx, tkeyVa e.1] (some (v.ast, 0))).onMove i fun v =>
        { v with recorded := true }
    | _, _ => d

/-- COMP_MOVE_BLOCKED. -/
def execCompMoveBlocked (i : Nat) (s : State) := s.run fun now d => d.moveBlocked now i

/-- Stage the switch of a move as a service change. -/
def Dev.stageSwitch (d : Dev) (i : Nat) (v : MoveRun) : Dev :=
  match (d.ast v.ast).cur with
  | none => d
  | some m => (d.onMove i fun v => { v with done := true, skipped := none }).onComp fun c => { c with
      waiting := c.waiting ++ [{ ast := v.ast, map := m, dissolve := false, shed := false, cmd := none
                                 edit := some (.move v.idx v.dst (if v.release then some v.src else none)) }] }

/-- MOVE_COMPLETE: every page is copied, and the switch is staged (R288). -/
def Dev.moveComplete (d : Dev) (i : Nat) : Dev :=
  match d.comp.moves[i]? with
  | some v => if v.started && !v.done && (d.movePages v).isEmpty then d.stageSwitch i v else d
  | none => d

/-- MOVE_COMPLETE. -/
def execMoveComplete (i : Nat) (s : State) := s.run fun _ d => d.moveComplete i

/-! ### Slots that retire (R160, R289) -/

/-- A move's source has retired: the entry is switched at once, and what is not copied is POISON in the target. -/
def Dev.moveSourceLost (d : Dev) (i : Nat) (v : MoveRun) : Dev :=
  match (d.ast v.ast).cur with
  | none => d
  | some m =>
    let d := (d.movePages v).foldl (fun d e =>
      let r := v.range m e
      d.wipe (granKey (d.physChan v.dst) r.1) (granKey (d.physChan v.dst) r.2) true) d
    (d.stageSwitch i v).raise 0x05CC moduleUnit 0x00 .contained [v.idx, v.src] (some (v.ast, 0))

/-- A move's target has retired: the move ends without a switch. -/
def Dev.moveTargetLost (d : Dev) (now : Nat) (v : MoveRun) : Dev :=
  let cut := fun (m : CMap) => { m with moves := Tbl.del m.moves v.idx }
  let d := d.onAst v.ast fun x => { x with cur := x.cur.map cut, prev := x.prev.map cut, staged := cut x.staged }
  let d := d.onComp fun c => { c with moves := c.moves.filter fun m => m != v }
  let d := d.raise 0x05CC moduleUnit 0x00 .info [v.idx, v.dst] (some (v.ast, 0))
  match v.cmd with
  | some k => if d.comp.moves.any fun m => m.cmd == some k then d else d.mgtDone now k .completed
  | none => d

/-- Every move that names a retired channel ends; a source's switch goes out at once when no older epoch is live. -/
def Dev.movesLose (d : Dev) (now l : Nat) : Dev :=
  let d := (d.comp.moves.filter fun v => v.dst == l && !v.done).foldl (fun d v => d.moveTargetLost now v) d
  let d := (d.comp.moves.zipIdx.filter fun p => p.1.src == l && !p.1.done).foldl (fun d p => d.moveSourceLost p.2 p.1) d
  if d.comp.twoLive then d else d.publishService now

/-- A slot is RETIRED: its requests fail from now on, and admission learns of the loss. -/
def Dev.retireSlot (d : Dev) (now s j : Nat) : Dev :=
  let d := d.onStack s fun t => { t with waiting := t.waiting.filter (· != .channel j) }
  let d := (d.set (STK_SLOT_MAP.STATE s j) 2).movesLose now (32 * s + j)
  d.redeliver s

/-- A channel that stopped responding leaves its slot: a spare enters with every granule POISON, or the slot retires. -/
def Dev.channelDead (d : Dev) (now s j : Nat) : Dev :=
  let old := d.get (STK_SLOT_MAP.PHYS s j)
  let d := (d.set (STK_CHAN_HEALTH.PSTATE s old) 3).wipe (granKey (s * 34 + old) 0) (granKey (s * 34 + old + 1) 0) true
  let d := match (d.stack s).copy with
    | some c => if c.kind = CopyKind.channel j then
        (d.set (STK_CHAN_HEALTH.PSTATE s c.target) 1).copyOver s else d
    | none => d
  match d.spareChannel s with
  | none => d.retireSlot now s j
  | some k =>
    let d := (((d.set (STK_SLOT_MAP.PHYS s j) k).set (STK_SLOT_MAP.STATE s j) 0).set (STK_SLOT_MAP.TARGET s j) 0).set
      (STK_CHAN_HEALTH.PSTATE s k) 0
    let d := d.wipe (granKey (s * 34 + k) 0) (granKey (s * 34 + k + 1) 0) true
    (((d.sat (STK_SPARE.CHANS s) 1).almEntry (chanUnit (s * 34 + old)) 0x0207).almMark (chanUnit (s * 34 + old)) .failed).chansLeft s

/-- SLOT_RETIRED: a copy is needed and no spare is left, or the channel stopped responding (`dead`, cause 1); its private
region is lost with it (R161). -/
def Dev.slotRetired (d : Dev) (now s j : Nat) (dead : Bool) : Dev :=
  if d.retired (32 * s + j) then d
  else if dead then
    let unit := chanUnit (d.physChan (32 * s + j))
    ((d.channelDead now s j).raise 0x0207 unit 0xFF .contained [j, 1]).privateLost now s j privateBase 0
  else if d.channelDue s j && (d.spareChannel s).isNone && (d.stack s).copy.isNone then
    (d.retireSlot now s j).raise 0x0207 (chanUnit (d.physChan (32 * s + j))) 0xFF .contained [j, 0]
  else d

/-- SLOT_RETIRED. -/
def execSlotRetired (st slot : Nat) (dead : Bool) (s : State) := s.run fun now d => d.slotRetired now st slot dead

/-! ### Spares (R290, R291) -/

/-- SPARE_SUBSTITUTION: a spare core joins the asterism of failed core `c` in a service change, published at once unless
the previous epoch is still live; a failed core that is bound to nothing is only retired, and with no spare left the
demand test is repeated (R466). -/
def Dev.substitute (d : Dev) (now c : Nat) : Dev :=
  if (d.coreAt c).svc ≠ .failed then d
  else
    let owner := (d.coreAt c).bound.filter fun a => (d.boundUnits a).contains c
    match owner with
    | none =>
      let d := d.onCore c fun k => { k with svc := .retired }
      (d.almMark (coreUnit c) .retired).swapDone now false c
    | some a =>
      let waits := d.comp.waiting.any fun p => match p.edit with | some (.core old _) => old == c | _ => false
      match (d.ast a).cur, d.spareCore (coreDp c) with
      | some m, some new =>
        if waits then d
        else
          let d := d.onComp fun x => { x with
            waiting := x.waiting ++ [{ ast := a, map := m, dissolve := false, shed := false, cmd := none
                                       edit := some (.core c new) }] }
          if d.comp.twoLive then d else d.publishService now
      | _, _ => d.shedCores now a

/-- SPARE_SUBSTITUTION. -/
def execSpareSubstitution (c : Nat) (s : State) := s.run fun now d => d.substitute now c

/-- A core is swapped: fenced and reset now, or once idle with WAIT; the SPARE_SWAP completes with its substitution. -/
def Dev.swapCore (d : Dev) (now c : Nat) (wait : Bool) (cmd : Option Nat) : Dev :=
  let later := wait && (d.coreAt c).tile.isSome
  let d := d.onComp fun x => { x with
    swaps := x.swaps ++ [{ slice := false, unit := c, spare := 0, wait := later, copied := false, cmd := cmd }] }
  if later then d
  else if (d.coreAt c).resetAt.isSome then d.onCore c fun k => { k with resetCause := .sparSwap }
  else d.startReset now c .sparSwap .fence 0x0106

/-- May a unit be swapped: is it in service, not already being swapped, and has its group a spare? -/
def Dev.swappable (d : Dev) (u : Nat) : Bool :=
  let i := u % 8192
  let free := fun (b : Bool) => !d.comp.swaps.any fun w => w.slice == b && w.unit == i && w.cmd.isSome
  match u / 8192 with
  | 0 => decide (i < 5376) && (d.coreAt i).inService && (d.spareCore (coreDp i)).isSome && free false
  | 1 => decide (i < 544) && d.sliceServes i && (d.spareSlice (i / 68)).isSome && free true
  | 3 => decide (i < 1088) && (d.slotServed (i / 34) (i % 34)).isSome && (d.spareChannel (i / 34)).isSome
  | _ => false

/-- The asterism that holds a unit. -/
def Dev.holder (d : Dev) (u : Nat) : Option Nat :=
  let i := u % 8192
  match u / 8192 with
  | 0 => (d.coreAt i).bound
  | 1 => if (d.sliceOwner i).st = 1 then some (d.sliceOwner i).ast else none
  | 3 => (d.slotServed (i / 34) (i % 34)).bind fun j =>
      let o := d.chanOwner (32 * (i / 34) + j)
      if o.st = 1 then some o.ast else none
  | _ => none

/-- Start the swap of a swappable unit; a channel's completes as its repair starts. -/
def Dev.swapUnit (d : Dev) (now u : Nat) (wait : Bool) (cmd : Option Nat) : Dev :=
  let i := u % 8192
  match u / 8192 with
  | 0 => d.swapCore now i wait cmd
  | 1 => d.onComp fun x => { x with
      swaps := x.swaps ++ [{ slice := true, unit := i, spare := (d.spareSlice (i / 68)).getD 0, wait := false, copied := false
                             cmd := cmd }] }
  | _ =>
    let d := match d.slotServed (i / 34) (i % 34) with
      | some j => d.wantCopy (i / 34) (.channel j)
      | none => d
    match cmd with
    | some k => d.mgtDone now k .completed
    | none => d

/-- SPARE_SWAP in firmware's hands. -/
def Dev.spareSwap (d : Dev) (now k : Nat) (m : Mgt) : Dev :=
  let u := fld m.slot 0x10 0 16
  if d.swappable u then d.swapUnit now u (fld m.slot 0x12 0 1 == 1) (some k)
  else match d.holder u with
    | some a => d.refuseUnit now k a (u, some a)
    | none =>
      let (v, d) := d.draw .handle
      d.mgtRefuse now k 0x05C1 [u, v % 2 ^ 64]

/-- SPARE_SWAP. -/
def execSpareSwap (m : Nat) (s : State) := s.run fun now d => d.mgtRun m 0x88 fun d x => d.spareSwap now m x

/-- SLICE_COPY: the copy of a slice being swapped ends; the spare takes its window position in a service change, or its
place among the slices that serve. -/
def Dev.sliceCopy (d : Dev) (now old new : Nat) : Dev :=
  match d.comp.swaps.find? fun w => w.slice && w.unit == old && w.spare == new && !w.copied with
  | none => d
  | some w =>
    let d := d.copySlice old new
    let d := d.onComp fun c => { c with swaps := c.swaps.map fun x => if x = w then { x with copied := true } else x }
    let o := d.sliceOwner old
    match if o.st = 1 then (d.ast o.ast).cur else none with
    | some m =>
      let d := d.onComp fun c => { c with
        waiting := c.waiting ++ [{ ast := o.ast, map := m, dissolve := false, shed := false, cmd := none
                                   edit := some (.slice old new) }] }
      if d.comp.twoLive then d else d.publishService now
    | none =>
      let d := d.onComp fun c => { c with sliceOut := c.sliceOut ++ [old], sliceIn := c.sliceIn ++ [new] }
      let d := (((d.almEntry (unitId 1 old) 0x05CA).almMark (unitId 1 old) .retired).swapDone now true old).slicesLeft (old / 68)
      d.onComp fun c => { c with swaps := c.swaps.filter fun x => !(x.slice && x.unit == old) }

/-- SLICE_COPY. -/
def execSliceCopy (old new : Nat) (s : State) := s.run fun now d => d.sliceCopy now old new

end Sys2Proof.Machine
end

