-- ==== Sys2Proof/Machine/Compose.lean ====
section
/-!
DEFINITION. The other composition commands: functions (R292 to R295), quiesce and resume (R296, R297), mode changes
(R299 to R301), and metering (R302).
-/

namespace Sys2Proof.Machine

/-! ### ATTACH and DETACH -/

/-- PORT of ATTACH and DETACH. -/
def cPort (x : Line) : Nat := fld x 0x11 0 2
/-- HALF. -/
def cHalf (x : Line) : Bool := fld x 0x11 2 1 == 1
/-- VF of ATTACH. -/
def cVf (x : Line) : Nat := fld x 0x12 0 7

/-- ATTACH in firmware's hands. -/
def Dev.attach (d : Dev) (now k : Nat) (m : Mgt) : Dev :=
  let x := m.slot
  let a := fld x 0x10 0 6
  let p := cPort x
  let f := fnOf p (cHalf x) (cVf x)
  let s := d.ast a
  match d.lockedFn a with
  | some g => d.mgtRefuse now k 0x070B [0x82, fnVf g] .policy (some (a, 0))
  | none =>
    if s.state.hosts && (s.funcs.getD p (0, false)).1 == 0 && decide (1 ≤ cVf x) && decide (cVf x ≤ 64) &&
        (d.fn f).ast.isNone && bit (d.get (LCS_POLICY_DOM_A.PORTS (d.domOf a))) p &&
        (!cHalf x || d.flag (CXP_CTRL.SPLIT p)) then
      let d := d.onAst a fun s => { s with funcs := modifyAt s.funcs p fun _ => (cVf x, cHalf x) }
      (d.onFn f fun n => { n with ast := some a, enabled := true }).mgtDone now k .completed
    else d.refuseUnit now k a (unitId 5 p, (d.fn f).ast)

/-- ATTACH. -/
def execAttach (m : Nat) (s : State) := s.run fun now d => d.mgtRun m 0x82 fun d x => d.attach now m x

/-- The function of the asterism on the port and link that a DETACH names. -/
def Dev.detachFn (d : Dev) (x : Line) : Option Nat :=
  let (vf, half) := (d.ast (fld x 0x10 0 6)).funcs.getD (cPort x) (0, false)
  if vf = 0 ∨ half ≠ cHalf x then none else some (fnOf (cPort x) half vf)

/-- Contexts created through a function. -/
def Dev.fnCtxs (d : Dev) (f : Nat) : List Nat := (d.hif.ctxs.filter fun e => e.2.fn == f).map (·.1)

/-- DETACH without FORCE. -/
def Dev.detach (d : Dev) (now k : Nat) (m : Mgt) : Dev :=
  let a := fld m.slot 0x10 0 6
  let who := some (a, 0)
  match d.detachFn m.slot with
  | none => d.mgtRefuse now k 0x05C0 [0x83, (d.ast a).state.code] .policy who
  | some f =>
    let l := d.fnCtxs f
    if (d.ast a).state ≠ .quiesced ∨ !l.isEmpty then d.mgtRefuse now k 0x05C5 [0x83, l.length] .policy who
    else (d.closeFn now f k).detachOver now f

/-- A forced DETACH revokes one context, or waits for a revocation that runs; the posted slots are given in order. -/
def Dev.detachCtx (now k : Nat) (p : Dev × List Line) (x : Nat) : Dev × List Line :=
  let d := p.1
  let n := (d.hif.queues.filter fun e => e.2.ctx == x).foldl (fun n e => n + (e.2.tail + 2 ^ 32 - e.2.head) % 2 ^ 32) 0
  let going : Bool := match Tbl.find d.hif.ctxs x with | some c => c.state == .revoking | none => false
  let wait := fun (c : Ctx) => { c with revoke := c.revoke.map fun r => { r with detach := some k } }
  let d := if going then d.onCtx x wait else d.revokeCtx now x none none (some k) p.2
  (d.revokeGoOn now x, p.2.drop n)

/-- DETACH with FORCE: the function's contexts are revoked; the function closes once the last revocation is over. -/
def Dev.detachForce (d : Dev) (now k : Nat) (m : Mgt) (rest : List Line) : Dev :=
  let a := fld m.slot 0x10 0 6
  let who := some (a, 0)
  match d.detachFn m.slot with
  | none => d.mgtRefuse now k 0x05C0 [0x83, (d.ast a).state.code] .policy who
  | some f =>
    let l := d.fnCtxs f
    if !d.flag (LCS_POLICY_DOM_A.FORCE_DETACH (d.domOf a)) then d.mgtRefuse now k 0x05C5 [0x83, l.length] .policy who
    else
      let d := d.onFn f fun n => { n with closing := some k, tdi := if n.tdi = .unlocked then .unlocked else .error }
      let d := d.onHif fun h => { h with mgt := Tbl.adj h.mgt k fun m => { m with count := l.length } }
      ((l.foldl (fun p x => Dev.detachCtx now k p x) (d, rest)).1).detachGoOn now

/-- DETACH. -/
def execDetach (m : Nat) (s : State) := s.run fun now d => d.mgtRun m 0x83 fun d x =>
  if fld x.slot 0x11 3 1 = 1 then d.detachForce now m x [] else d.detach now m x
/-- DETACH with FORCE; `rest` gives the slots posted to the function's contexts and not fetched. -/
def execDetachForce (m : Nat) (rest : List Line) (s : State) := s.run fun now d => d.mgtRun m 0x83 fun d x =>
  if fld x.slot 0x11 3 1 = 1 then d.detachForce now m x rest else d.detach now m x

/-! ### QUIESCE and RESUME -/

/-- The asterism is quiescent (R296). -/
def Dev.quiescent (d : Dev) (a : Nat) : Bool :=
  !(d.hif.cmds.any fun e => e.2.ast == a) &&
  !(d.core.any fun e => match e.2.tile with | some t => t.own.ast == a | none => false) &&
  !(d.sweeps.any fun e => e.2.tags.ast == a) && !(d.net.invals.any fun v => v.ast == a) &&
  !(d.hif.hold.any fun r => !r.device && r.ast == a)

/-- The waiting QUIESCE of an asterism is refused as at its timeout. -/
def Dev.quiesceFails (d : Dev) (now a : Nat) : Dev :=
  match (d.ast a).quiesce with
  | some (k, _) =>
    (d.onAst a fun x => { x with quiesce := none }).mgtRefuse now k 0x05C5 [0x84, d.ctxCount a] .policy (some (a, 0))
  | none => d

/-- The asterism enters QUIESCED and the waiting QUIESCE completes. -/
def Dev.becomesQuiet (d : Dev) (now a : Nat) : Dev :=
  if (d.ast a).state = .quiescing ∧ d.quiescent a then
    let d' := d.onAst a fun x => { x with state := .quiesced, quiesce := none }
    match (d.ast a).quiesce with
    | some (k, _) => d'.mgtDone now k .completed
    | none => d'
  else d

/-- QUIESCE in firmware's hands. -/
def Dev.quiesce (d : Dev) (now k : Nat) (m : Mgt) : Dev :=
  let a := fld m.slot 0x10 0 6
  let ms := fld m.slot 0x12 0 16
  let go := fun (d : Dev) => d.onAst a fun x => { x with
    state := .quiescing, quiesce := some (k, if ms = 0 then 0 else now + ms * 1000000) }
  match (d.ast a).state with
  | .active => go d
  | .quiescing => go (d.quiesceFails now a)
  | .quiesced => d.mgtDone now k .completed
  | st => d.mgtRefuse now k 0x05C0 [0x84, st.code] .policy (some (a, 0))

/-- QUIESCE. -/
def execQuiesce (m : Nat) (s : State) := s.run fun now d => d.mgtRun m 0x84 fun d x => d.quiesce now m x
/-- QUIESCENT. -/
def execQuiescent (a : Nat) (s : State) := s.run fun now d => d.becomesQuiet now a

/-- QUIESCE_TIMEOUT: TIMEOUT_MS has elapsed; the asterism stays QUIESCING. -/
def execQuiesceTimeout (a : Nat) (s : State) := s.run fun now d =>
  match (d.ast a).quiesce with
  | some (_, t) => if t ≠ 0 ∧ t ≤ now then d.quiesceFails now a else d
  | none => d

/-- RESUME in firmware's hands. -/
def Dev.resume (d : Dev) (now k : Nat) (m : Mgt) : Dev :=
  let a := fld m.slot 0x10 0 6
  let st := (d.ast a).state
  let d := if st = .quiescing ∨ st = .quiesced then
      (d.quiesceFails now a).onAst a fun x => { x with state := .active }
    else d
  d.mgtDone now k .completed

/-- RESUME. -/
def execResume (m : Nat) (s : State) := s.run fun now d => d.mgtRun m 0x85 fun d x => d.resume now m x

/-! ### Mode changes -/

/-- Registers of the class table: their staged copies (Table 8-5). -/
def classRegs : List Nat :=
  (List.range 64).map ADM_CLASS_TABLE.off ++
    (List.range 8).flatMap (fun k => [ADM_CLASS_PARAM_A.off k, ADM_CLASS_PARAM_B.off k]) ++
    (List.range 4).map ADM_CLASS_PORT.off

/-- Does a staged class table break R263? -/
def Dev.classBad (d : Dev) : Bool :=
  let cls := List.range 8
  let in_ := fun (x lo hi : Nat) => decide (lo ≤ x) && decide (x ≤ hi)
  let carried := fun (p : Nat → Cmd → Bool) => d.hif.cmds.any fun e => e.2.guar && p e.1 e.2
  cls.any (fun k => decide (12 < d.get (ADM_CLASS_PARAM_A.BASEPRI k)) || d.get (ADM_CLASS_PARAM_A.TARGET k) == 0 ||
    !in_ (d.get (ADM_CLASS_PARAM_A.READ_BUDGET k)) 1 2048 || !in_ (d.get (ADM_CLASS_PARAM_A.WRITE_BUDGET k)) 1 1024 ||
    !in_ (d.get (ADM_CLASS_PARAM_B.CHAN_CREDITS k)) 1 255) ||
  decide (8 < (cls.filter fun k => !d.flag (ADM_CLASS_PARAM_A.GUAR k)).foldl
    (fun n k => n + d.get (ADM_CLASS_PARAM_B.BE_SHARE k)) 0) ||
  cls.any (fun k => d.flag (ADM_CLASS_PARAM_A.GUAR k) != d.flag (ADM_CLASS_PARAM_A_ACT.GUAR k) &&
    carried fun _ m => m.cls == k) ||
  (List.range 64).any fun l => d.get (ADM_CLASS_TABLE.CLASS l) != d.get (ADM_CLASS_TABLE_ACT.CLASS l) &&
    carried fun _ m => m.label == l

/-- Units that hold a copy of a staged register in scope: the home die-pair service of an asterism's time slice, every
die-pair service and stack of the class table's. -/
def Dev.modeUnits (d : Dev) (scope : Option Nat) : List Nat :=
  match scope with
  | some a => [svcUnit (d.home a)]
  | none => diePairs.map svcUnit ++ allStacks.map stackUnit

/-- Dispatch of the asterisms in scope stops, or goes on. -/
def Dev.pause (d : Dev) (scope : Option Nat) (on : Bool) : Dev :=
  match scope with
  | some a => d.onAst a fun x => { x with paused := on }
  | none => d.onComp fun c => { c with asts := Tbl.mapV (fun _ x => { x with paused := on }) c.asts }

/-- COMMIT_MODE in firmware's hands. -/
def Dev.commitMode (d : Dev) (now k : Nat) (m : Mgt) : Dev :=
  let scope := mgtAst m.slot
  match scope.bind d.lockedFn with
  | some f => d.mgtRefuse now k 0x070B [0x86, fnVf f] .policy (scope.map fun a => (a, 0))
  | none =>
    if scope.isNone ∧ d.classBad then d.mgtDone now k .refused .policy
    else
      (d.onComp fun c => { c with
        modeEpoch := (c.modeEpoch + 1) % 65536
        mode := some { cmd := k, scope := scope, wait := d.modeUnits scope, at_ := now } }).pause scope true

/-- COMMIT_MODE. -/
def execCommitMode (m : Nat) (s : State) := s.run fun now d => d.mgtRun m 0x86 fun d x => d.commitMode now m x

/-- The staged copies in scope become the active ones. -/
def Dev.adoptMode (d : Dev) (scope : Option Nat) : Dev :=
  match scope with
  | some a => d.setReg (CMP_AST_MODE.off a) (d.reg (CMP_AST_MODE_S.off a))
  | none => classRegs.foldl (fun d o => d.setReg (o + 0x400) (d.reg o)) d

/-- MODE_ACK: a unit has adopted; with the last one firmware sends commit and dispatch resumes. -/
def Dev.modeAck (d : Dev) (now unit : Nat) : Dev :=
  match d.comp.mode with
  | none => d
  | some r =>
    if !r.wait.contains unit then d
    else
      let left := r.wait.filter (· != unit)
      if left.isEmpty then
        ((((d.adoptMode r.scope).onComp fun c => { c with mode := none }).pause r.scope false).mgtDone now r.cmd .completed).after
          now
      else d.onComp fun c => { c with mode := some { r with wait := left } }

/-- MODE_ACK. -/
def execModeAck (unit : Nat) (s : State) := s.run fun now d => d.modeAck now unit

/-- MODE_CHANGE_ROLLED_BACK: an acknowledgement is missing at 100 µs. -/
def Dev.modeRollback (d : Dev) (now : Nat) : Dev :=
  match d.comp.mode with
  | none => d
  | some r =>
    if now < r.at_ + 100000 then d
    else
      let d := (d.onComp fun c => { c with mode := none }).pause r.scope false
      let d := d.raise 0x05C9 moduleUnit 0x00 .degraded (d.comp.modeEpoch :: r.wait.length :: packList 16 (r.wait.take 6))
      let d := r.wait.foldl (fun d u =>
        if u / 8192 = 6 then d.requestReset now 3 (u % 8192) 0x05C9 else d.requestReset now 2 (u % 8192) 0x05C9) d
      (d.mgtDone now r.cmd .aborted).after now

/-- MODE_CHANGE_ROLLED_BACK. -/
def execModeChangeRolledBack (s : State) := s.run fun now d => d.modeRollback now

/-! ### Metering -/

/-- METER_SUM: firmware sums the counters of every asterism that is not FREE. -/
def execMeterSum (s : State) := s.run fun _ d =>
  d.onComp fun c => { c with asts := Tbl.mapV (fun _ x => if x.state = .free then x else x.sumMeters) c.asts }

/-- METER_SNAPSHOT: every 60 s the counters go to the flash log. -/
def Dev.meterSnapshot (d : Dev) (now : Nat) : Dev :=
  if now < d.comp.snapAt + 60 * second then d
  else
    let d := d.onComp fun c => { c with snapAt := now }
    ((d.comp.asts.filter fun e => e.2.state != .free).map (·.1)).foldl (fun d a => d.snapshot now a) d

/-- METER_SNAPSHOT. -/
def execMeterSnapshot (s : State) := s.run fun now d => d.meterSnapshot now

end Sys2Proof.Machine
end

