-- ==== Sys2Proof/Machine/CxlOps.lean ====
section
/-!
DEFINITION. Hosts, pools and the fabric manager (chapter CXL Attachment, Partners and Pools): host windows (R385 to
R387), the pool client (R399 to R402), partners (R393, R394), links (R382, R390, R391, R398), and the fabric-manager
commands (R395, R396).
-/

namespace Sys2Proof.Machine

/-! ### Links and partners -/

/-- Number of a link: port × 2 + half. -/
def linkNo (port : Nat) (half : Bool) : Nat := port * 2 + half.toNat
/-- An error of a port: unit KIND 5, the link as sub-unit (R405). -/
def Dev.raiseLink (d : Dev) (k code : Nat) (sev : Sev) (detail : List Nat) : Dev :=
  d.raise code (unitId 5 (k / 2)) (k % 2) sev detail
/-- Link of a partner. -/
def Partner.link (p : Partner) : Nat := linkNo p.port p.half
/-- Is an entry in use and not LOST? -/
def Partner.live (p : Partner) : Bool := p.state == .live || p.state == .suspect
/-- Host entries reached through a link. -/
def Dev.hostsOn (d : Dev) (k : Nat) : List Nat :=
  (d.cxl.partners.filter fun e => decide (e.1 < 32) && e.2.link == k && e.2.live).map (·.1)
/-- The host behind a function: the first of its link. -/
def Dev.hostOf (d : Dev) (fn : Nat) : Option Nat := (d.hostsOn (linkNo (fnPort fn) (fnHalf fn))).head?
/-- Functions attached through a link. -/
def Dev.fnsOn (d : Dev) (k : Nat) : List Nat :=
  (d.hif.fns.filter fun e => e.2.ast.isSome && linkNo (fnPort e.1) (fnHalf e.1) == k).map (·.1)

/-- Is a request on its way through a link, or waiting there for a page response? -/
def Dev.onLinkReq (d : Dev) (k c : Nat) : Bool :=
  (d.net.reqs.any fun r => r.ofCore c && (match r.dest with | .host l _ => l == k | _ => false)) ||
    (d.net.resps.any fun r => r.req.ofCore c && (match r.status with | .redirect l _ => l == k | _ => false)) ||
    (d.link k).pri.any fun p => p.2.ofCore c

/-- Commands with requests in flight on a link complete PEER_LOST (R398; If a host behind a switch disappears). -/
def Dev.peerLost (d : Dev) (now k err : Nat) : Dev :=
  (d.core.map (·.1)).foldl (fun d c => if d.onLinkReq k c then d.abortTile now c .peer err else d) d

/-! ### Pulls, streams and write-backs that end (R400, R401) -/

/-- A pull ends: its page is pending no longer, and every request that waits for it faults hard. -/
def Dev.endPull (d : Dev) (s tok code : Nat) : Dev :=
  match Tbl.find (d.stack s).pend tok with
  | none => d
  | some p =>
    let d := (d.dropPull s tok).onStack s fun t => { t with pend := Tbl.del t.pend tok }
    p.waiting.foldl (fun d r => d.stackHard s r code) d

/-- A stream ends: its block leaves the stack, and the sweep faults hard. -/
def Dev.endStream (d : Dev) (now job s head blk code : Nat) : Dev :=
  match Tbl.find d.sweeps job with
  | none => d
  | some j =>
    let mine := fun (g : Grant) => g.head == head && g.blk == blk
    match (j.part s).bind fun p => p.stream.find? mine with
    | none => d
    | some g =>
      let d := d.onPart job s fun p => { p with stream := p.stream.filter fun g => !mine g }
      let d := { d with cxl := { d.cxl with pool := d.cxl.pool.filter fun r => match r.why with
        | .stream j h b _ => !(j == job && r.stack == s && h == head && b == blk)
        | _ => true } }
      d.stackHard s (d.sweepReq now job j (.sweep job s) .sweepRead g.epoch g.va) code

/-- An UNMAP none of whose write-backs is left goes on. -/
def Dev.writtenBack (d : Dev) (now cmd : Nat) : Dev :=
  let left := d.cxl.pool.any fun r => match r.why with | .writeBack c _ _ => c == cmd | _ => false
  if left then d else (d.unmapGo now cmd).settleInval now cmd

/-- The write-back of a page ends: its entry stays, and the UNMAP ends with an outcome of failure. -/
def Dev.endWriteBack (d : Dev) (now s cmd page : Nat) (st : CStatus) (code : Nat) : Dev :=
  let d := { d with cxl := { d.cxl with pool := d.cxl.pool.filter fun r => match r.why with
    | .writeBack c p _ => !(c == cmd && p == page && r.stack == s)
    | _ => true } }
  (d.onCmd cmd fun m => { m.force st code with keepPages := (s, page) :: m.keepPages }).writtenBack now cmd

/-- What a pool request serves ends with a code. -/
def Dev.endPool (d : Dev) (now : Nat) (r : PoolReq) (st : CStatus) (code : Nat) : Dev :=
  match r.why with
  | .pull tok _ => d.endPull r.stack tok code
  | .stream job h b _ => d.endStream now job r.stack h b code
  | .writeBack cmd page _ => d.endWriteBack now r.stack cmd page st code

/-- Does a command wait for what a pool request serves? -/
def Dev.poolWaits (d : Dev) (r : PoolReq) : Bool :=
  match r.why with
  | .pull tok _ => match Tbl.find (d.stack r.stack).pend tok with | some p => !p.waiting.isEmpty | none => false
  | _ => true

/-! ### A pool lost -/

/-- Pending pages of a stack that a pool backs. -/
def Dev.poolPends (d : Dev) (s pidx : Nat) : List Nat :=
  ((d.stack s).pend.filter fun p => match Tbl.find (d.stack s).table p.2.page with
    | some e => e.pool && e.pidx == pidx
    | none => false).map (·.1)

/-- Blocks that a stack streams from a pool: job, head and block. -/
def Dev.poolStreams (d : Dev) (s pidx : Nat) : List (Nat × Nat × Nat) :=
  d.sweeps.flatMap fun j => match j.2.part s with
    | some p => (p.stream.filter fun g => match entryAt (d.stack s).table j.2.tags.ast g.va with
        | some (_, e) => e.pool && e.pidx == pidx
        | none => false).map fun g => (j.1, g.head, g.blk)
    | none => []

/-- A pool slot is LOST: its objects are LOST, what waits for it ends with 0x0307, and pages not written back keep
their entries (R339, R394, R401). -/
def Dev.poolLost (d : Dev) (now e cause : Nat) : Dev :=
  let p := d.partner e
  if !p.live then d
  else
    let pidx := e - 32
    let d := (d.onPartner e fun p => { p with state := .lost }).raiseLink p.link 0x0706 .contained
      [e, Config.code 0x0706 cause]
    let d := d.onHif fun h => { h with objs := Tbl.mapV (fun _ b =>
      if b.poolb && b.pidx == pidx && b.state == .live then { b with state := .lost } else b) h.objs }
    let d := allStacks.foldl (fun d s => (d.poolPends s pidx).foldl (fun d t => d.endPull s t 0x0307) d) d
    let d := allStacks.foldl (fun d s =>
      (d.poolStreams s pidx).foldl (fun d x => d.endStream now x.1 s x.2.1 x.2.2 0x0307) d) d
    (d.cxl.pool.filter fun r => r.pidx == pidx).foldl (fun d r => d.endPool now r .poolLost 0x0307) d

/-- A host entry is LOST (R394): its HOSTMEM slots are LOST, its functions fetch no more, 0x0708 is recorded, commands
with requests in flight to it complete PEER_LOST. -/
def Dev.hostLost (d : Dev) (now e : Nat) : Dev :=
  let p := d.partner e
  if !p.live then d
  else
    let k := p.link
    let d := d.onPartner e fun p => { p with state := .lost }
    let sole := (d.hostsOn k).isEmpty
    let d := d.raiseLink k 0x0708 .contained [e, if sole then (d.fnsOn k).length else 0]
    let d := ((d.cxl.partners.filter fun x => decide (32 ≤ x.1) && x.2.kind == 2 && x.2.host == e && x.2.live).map (·.1)).foldl
      (fun d x => d.poolLost now x 0) d
    if sole then (d.peerLost now k 0x0708).mgtOwnerLost p.port else d

/-- An entry is LOST: a host, or a pool slot. -/
def Dev.partnerLost (d : Dev) (now e cause : Nat) : Dev :=
  if e < 32 then d.hostLost now e else d.poolLost now e cause

/-- A LIVE entry becomes SUSPECT, or has failed once more. -/
def Dev.suspect (d : Dev) (now e : Nat) : Dev :=
  d.onPartner e fun p => if p.live then { p with state := .suspect, failAt := now } else p

/-- Entries that are LOST and that nothing names any more are FREE (Table 12-6). -/
def Dev.freePartners (d : Dev) : Dev :=
  let named := fun (e : Nat) => d.stk.any fun s => s.2.table.any fun x => x.2.pool && poolEntry x.2.pidx == e
  let held := fun (e : Nat) (p : Partner) =>
    if e < 32 then (d.hostsOn p.link).isEmpty && !(d.fnsOn p.link).isEmpty else named e
  { d with cxl := { d.cxl with partners := Tbl.mapV (fun e p =>
      if p.state == .lost && !held e p then { p with state := .free } else p) d.cxl.partners } }

/-! ### Pool requests (R399, R400) -/

/-- A pool request has failed: 0x0705, FAILS, and the partner SUSPECT, or LOST with its fourth timeout in a row. -/
def Dev.poolFail (d : Dev) (now i : Nat) (r : PoolReq) (timeout : Bool) : Dev :=
  let e := poolEntry r.pidx
  let p := d.partner e
  let d := d.raise 0x0705 (stackUnit r.stack) 0x00 (if d.poolWaits r then .contained else .info) [e, r.addr]
  let d := { d with cxl := { d.cxl with pool := dropAt d.cxl.pool i } }
  let d := (d.sat (CXP_COUNTS.POOL_FAIL p.port) 1).onPartner e fun p => { p with
    fails := satAdd 16 p.fails 1, timeouts := if timeout then p.timeouts + 1 else 0 }
  let d := (d.suspect now e).endPool now r .faulted 0x030F
  if timeout ∧ 3 ≤ p.timeouts then d.poolLost now e 1 else d

/-- Free room on the links is used for the requests that wait. -/
def Dev.poolNextAll (d : Dev) (now : Nat) : Dev := d.askPool now []

/-- The pool request `i`, issued and not completed. -/
def Dev.poolAt (d : Dev) (i : Nat) : Option PoolReq :=
  (d.cxl.pool[i]?).bind fun r => if r.at_.isSome && !r.arrived then some r else none

/-- POOL_TIMEOUT. -/
def execPoolTimeout (i : Nat) (s : State) := s.run fun now d =>
  match d.poolAt i with
  | some r => if now < r.at_.getD 0 + 50000000 then d else (d.poolFail now i r true).poolNextAll now
  | none => d

/-- Granules of a unit of a page in a stack: channel, offset. -/
def Dev.unitGrans (d : Dev) (s tok u : Nat) : Option (TEntry × Nat × Nat) :=
  match Tbl.find (d.stack s).pend tok with
  | none => none
  | some p =>
    match Tbl.find (d.stack s).table p.page with
    | none => none
    | some e => (d.unitPlace p.page e u).map fun (l, off) => (e, l, off)

/-- A pulled unit is written under the entry's domain key (R182); granules that hosts hold are snooped first (R387). -/
def Dev.landPull (d : Dev) (now i : Nat) (r : PoolReq) (tok u : Nat) : Dev :=
  match d.unitGrans r.stack tok u with
  | none => { d with cxl := { d.cxl with pool := dropAt d.cxl.pool i } }
  | some (e, l, off) =>
    let lo := granKey (d.physChan l) (granOf off)
    if d.trackedIn r.stack lo (lo + 4) then
      { d.snoopIn now r.stack lo (lo + 4) with cxl := { (d.snoopIn now r.stack lo (lo + 4)).cxl with
          pool := modifyAt d.cxl.pool i fun _ => r } }
    else
      let d := (r.data.zipIdx).foldl (fun d x => (d.writeGran now l (off + 64 * x.2) (.tagged e.ast e.dom e.ctx) x.1).1) d
      let d := { d with cxl := { d.cxl with pool := dropAt d.cxl.pool i } }
      d.onStack r.stack fun t => { t with pend := Tbl.adj t.pend tok fun p => { p with
        pull := p.pull.map fun l => l.filter (· != u) } }

/-- Data or an acknowledgement comes from a pool. -/
def Dev.poolDone (d : Dev) (now i : Nat) (r : PoolReq) (data : List Line) : Dev :=
  let d := d.onPartner (poolEntry r.pidx) fun p => { p with timeouts := 0 }
  let lines := (List.range 4).map fun k => data.getD k 0
  match r.why with
  | .pull tok u => d.landPull now i { r with data := lines } tok u
  | .stream job h b u =>
    let d := { d with cxl := { d.cxl with pool := dropAt d.cxl.pool i } }
    d.onPart job r.stack fun p => { p with
      staging := (lines.zipIdx).foldl (fun t x => Tbl.put t (h * 2 ^ 46 + b * 64 + 4 * u + x.2) x.1) p.staging }
  | .writeBack cmd _ _ => ({ d with cxl := { d.cxl with pool := dropAt d.cxl.pool i } }).writtenBack now cmd

/-- POOL_COMPLETION: with its data, or with an error status or poison. -/
def execPoolCompletion (i : Nat) (ok : Bool) (data : List Line) (s : State) := s.run fun now d =>
  match d.poolAt i with
  | some r => (if ok then d.poolDone now i r data else d.poolFail now i r false).poolNextAll now
  | none => d

/-! ### Back-invalidation (R387) -/

/-- Device accesses and pulled data that waited for a granule go on. -/
def Dev.serveWaiting (d : Dev) (now s : Nat) : Dev :=
  let rs := (d.stack s).biWait
  let d := d.onStack s fun t => { t with biWait := [] }
  let d := rs.foldl (fun d r => match r.dest with
    | .chan l _ _ =>
      (match d.atSlot l r with
       | .inr (code, unit) => d.stackHard s r code unit
       | .inl w => d.resolve now l r w (entryAt (d.stack s).table r.tags.ast r.va) .clean)
    | _ => d) d
  (d.cxl.pool.filter fun r => r.arrived && r.stack == s).foldl (fun d r =>
    match r.why, indexWhere (fun x => x == r) d.cxl.pool with
    | .pull tok u, some i => d.landPull now i r tok u
    | _, _ => d) d

/-- A back-invalidation is over: its granule is the host's no longer. -/
def Dev.biOver (d : Dev) (now i : Nat) (b : BiReq) : Dev :=
  let d := { d with cxl := { d.cxl with bi := dropAt d.cxl.bi i } }
  let d := d.onStack b.stack fun t => { t with biFilter := t.biFilter.filter fun e => !(e.1 == b.gran && e.2 == b.fn) }
  (d.serveWaiting now b.stack).detachGoOn now

/-- BI_RESPONSE. -/
def execBiResponse (i : Nat) (s : State) := s.run fun now d =>
  match d.cxl.bi[i]? with
  | some b => d.biOver now i b
  | none => d

/-- BI_TIMEOUT: 0x0707, and the host LOST. -/
def Dev.biLate (d : Dev) (now i : Nat) (b : BiReq) : Dev :=
  let h := d.hostOf b.fn
  let d := d.raise 0x0707 (stackUnit b.stack) 0x00 .contained [h.getD (Config.code 0x0707 0), b.gran % 2 ^ 25]
  let d := d.sat (CXP_COUNTS.BI_TIMEOUT (fnPort b.fn)) 1
  let d := d.biOver now i b
  match h with
  | some e => d.hostLost now e
  | none => d

/-- BI_TIMEOUT. -/
def execBiTimeout (i : Nat) (s : State) := s.run fun now d =>
  match d.cxl.bi[i]? with
  | some b => if now < b.at_ + 10000000 then d else d.biLate now i b
  | none => d

/-! ### Host windows (R385, R386) -/

/-- A host-window request of a function as its port sends it. -/
def Dev.windowReq (d : Dev) (now fn a va : Nat) (acc : Acc) (data : Line) (mask : Nat) : Req where
  who := .window fn
  acc := acc
  va := va
  tags := { ast := a, dom := d.domOf a, ctx := 0, cls := d.classOf (d.get (ADM_CLASS_PORT_ACT.HOST (fnPort fn)))
            epoch := d.epochAt (portDp (fnPort fn)), host := true }
  dest := .chan 0 0 0
  data := data
  mask := mask
  hop := none
  guar := false
  born := now
  esc := 0
  queue := 0
  slot := 0

/-- Device address of an offset in the decoder bound to a function, while its window is open (R385). -/
def Dev.windowVa (d : Dev) (fn off : Nat) : Option (Nat × Nat) :=
  let p := fnPort fn
  let i := fnVf fn - 1 + (if fnHalf fn then 64 else 0)
  let mapped := (List.range 32).any fun n =>
    d.get (CXP_HDM_MAP.VF p n) == fnVf fn && d.flag (CXP_HDM_MAP.HALF p n) == fnHalf fn
  let l := d.link (linkNo p (fnHalf fn))
  match (d.fn fn).ast with
  | some a =>
    if (d.fn fn).enabled && mapped && d.flag (CXP_VF_WIN.EN p i) && l.state != 0 && !l.insecure then
      some (a, (d.get (CXP_VF_WIN.DVBASE p i) * 2 ^ 21 + off) % 2 ^ 56)
    else none
  | none => none

/-- A window request is answered: its data, or poison. -/
def Dev.windowAnswer (d : Dev) (fn : Nat) (poison : Bool) (x : Line) : Dev :=
  { d with cxl := { d.cxl with answers := (fn, poison, x) :: d.cxl.answers } }

/-- A window request fails a check: its record, and poison for a read. -/
def Dev.windowFault (d : Dev) (r : Req) (code unit : Nat) (soft pull : Bool) : Dev :=
  d.fault ⟨d.faultRec r code unit soft pull, none, .hard code⟩

/-- A window request meets a page with P = 0: a read joins its pending entry and starts its pull, and leaves nothing
when the list is full; a write leaves its record (R178). -/
def Dev.windowSoft (d : Dev) (now s page : Nat) (e : TEntry) (r : Req) (code : Nat) : Dev :=
  let d := d.wrap (TRN_FAULTS.SOFT s) 1
  if r.acc.writes then d.windowFault r code (stackUnit s) true e.pool
  else match d.joinPending s page none with
  | none => d
  | some (d, k, due, new) =>
    let d := if new && e.pool then d.startPull now s k page e else d
    if due then d.windowFault r code (stackUnit s) true e.pool else d

/-- A host that reads with ownership holds the granule; a full filter gives up its oldest entry with a snoop (R387). -/
def Dev.trackGran (d : Dev) (now fn s gran : Nat) : Dev :=
  let f := (d.stack s).biFilter
  if f.any fun e => e.1 == gran && e.2 == fn then d
  else
    let d := if f.length < 65536 then d
      else match f with
        | (g, _) :: _ => (d.snoop now s g).onStack s fun t => { t with biFilter := t.biFilter.drop 1 }
        | [] => d
    d.onStack s fun t => { t with biFilter := t.biFilter ++ [(gran, fn)] }

/-- A window request is translated and served: what it read, or none where it failed. -/
def Dev.windowServe (d : Dev) (now : Nat) (r : Req) (own : Bool) (ecc : Ecc) : Dev × Option Line :=
  let fn := match r.who with | .window f => f | _ => 0
  match (d.curMap r.tags.ast).bind (·.route r.va) with
  | none => (d.windowFault r 0x0301 (unitId 5 (fnPort fn)) false false, none)
  | some w =>
    let s := chanStack w.l
    let hard := fun (d : Dev) (code unit : Nat) => ((d.wrap (TRN_FAULTS.HARD s) 1).windowFault r code unit false false, none)
    match d.atSlot w.l r with
    | .inr (code, unit) => hard d code unit
    | .inl w =>
      let (d, e) := d.sweepEntry s r.tags.ast r.va
      match d.entryVerdict r.tags r.acc w.l r.va w (e.map (·.2)) with
      | .hard code => hard d code (stackUnit s)
      | .redirect _ _ => hard d 0x0303 (stackUnit s)
      | .soft code =>
        (match e with
         | some (k, x) => (d.windowSoft now s k x r code, none)
         | none => hard d 0x0302 (stackUnit s))
      | .serve l off =>
        match d.touch now l off r ecc with
        | (d, .inl code) => hard d code (stackUnit s)
        | (d, .inr x) =>
          let d := d.meterGranule r.tags.ast
          let d := if r.acc.writes then d.markDirty s r.tags.ast r.va else d
          let d := d.countTxn now (portDp (fnPort fn)) r 64
          (if own then d.trackGran now fn s (granKey (d.physChan l) (granOf off)) else d, some x)

/-- Is the stack that a window request is for taking requests? -/
def Dev.windowOpen (d : Dev) (r : Req) : Bool :=
  match (d.curMap r.tags.ast).bind (·.route r.va) with
  | some w => (d.stack (chanStack w.l)).takes r.tags.ast && !d.moveHolds w.l
  | none => true

/-- HOST_WINDOW_READ: a function's host reads the granule at an offset of its decoder, with ownership or without. -/
def execHostWindowRead (fn addr : Nat) (own : Bool) (ecc : Ecc) (s : State) := s.run fun now d =>
  match d.windowVa fn addr with
  | none => d
  | some (a, va) =>
    let r := d.windowReq now fn a (va / 64 * 64) .read 0 0
    if !d.windowOpen r then d
    else match d.windowServe now r own ecc with
      | (d, some x) => d.windowAnswer fn false x
      | (d, none) => d.windowAnswer fn true 0

/-- HOST_WINDOW_WRITE: the bytes of `mask` are written, or dropped. -/
def execHostWindowWrite (fn addr : Nat) (data : Line) (mask : Nat) (ecc : Ecc) (s : State) := s.run fun now d =>
  match d.windowVa fn addr with
  | none => d
  | some (a, va) =>
    let r := d.windowReq now fn a (va / 64 * 64) (writeAcc 0 (mask % 2 ^ 64)) data (mask % 2 ^ 64)
    if !d.windowOpen r then d else (d.windowServe now r false ecc).1

/-- CXP_HDM_MAP_WRITE: decoder n of a port is bound to a function, or to none. -/
def Dev.hdmMap (d : Dev) (p n : Nat) (v : Word) : Dev :=
  let vf := bits v.toNat 0 7
  let half := bits v.toNat 7 1
  let bound := fun k => d.get (CXP_HDM_MAP.VF p k) != 0
  let locked := fun (vf half : Nat) => vf != 0 && (match (d.fn (fnOf p (half == 1) vf)).tdi with
    | .locked | .run => true
    | _ => false)
  let old := d.get (CXP_HDM_MAP.VF p n)
  let named := if locked vf half then vf else if locked old (d.get (CXP_HDM_MAP.HALF p n)) then old else 0
  if named ≠ 0 then d.raise 0x070B (unitId 5 p) half .info [Config.code 0x070B 0, named]
  else if vf ≠ 0 ∧ (List.range 32).all bound then d.raise 0x0709 (unitId 5 p) half .info [vf]
  else (if vf ≤ 64 then d.set (CXP_HDM_MAP.VF p n) vf else d).set (CXP_HDM_MAP.HALF p n) half

/-- CXP_HDM_MAP_WRITE. -/
def execCxpHdmMapWrite (path p n : Nat) (value : Word) (s : State) := s.run fun now d =>
  if p < 4 ∧ n < 32 then d.writeThrough now path (CXP_HDM_MAP.off p n) fun d => d.hdmMap p n value else d

/-! ### Link state (R381, R382, R390 to R392, R529) -/

/-- A link goes DOWN: keys are cleared, partners reached through it become SUSPECT, its credits are gone (R391, R482). -/
def Dev.linkDown (d : Dev) (now k cause : Nat) : Dev :=
  if (d.link k).state = 0 then d
  else
    let d := d.onLink k fun l => { l with
      state := 0, width := 0, rate := 0, lanes := 0, l0p := false, downAt := now, ideKeys := false, atc := [] }
    let d := ((d.cxl.partners.filter fun e => e.2.link == k && e.2.state == .live).map (·.1)).foldl
      (fun d e => d.suspect now e) d
    (d.raiseLink k 0x0701 .degraded [k % 2, Config.code 0x0701 cause]).shedLink k

/-- CXL_LINK_DOWN. -/
def execCxlLinkDown (port : Nat) (half : Bool) (s : State) := s.run fun now d =>
  (d.wakePkg 5).linkDown now (linkNo port half) 0

/-- CXL_LANE_LOST: an unsplit port degrades to x8 on the healthy half; an x8 link, or a degraded port, goes DOWN. -/
def Dev.laneLost (d : Dev) (now port lane : Nat) : Dev :=
  let split := d.flag (CXP_CTRL.SPLIT port)
  let k := linkNo port (split && decide (8 ≤ lane))
  if 16 ≤ lane ∨ (d.link k).state = 0 then d
  else
    let d := d.set (CXP_STATUS.LOST port) (d.get (CXP_STATUS.LOST port) ||| 2 ^ lane)
    let d := d.almEntry (unitId 5 port) 0x0702
    if split ∨ (d.link k).state = 2 then d.linkDown now k 1
    else
      let d := (d.onLink k fun l => { l with state := 2, width := 8, lanes := 8, l0p := false }).sat
        (CXP_COUNTS.RETRAINS port) 1
      (d.raiseLink k 0x0702 .degraded [lane]).shedLink k

/-- CXL_LANE_LOST. -/
def execCxlLaneLost (port lane : Nat) (s : State) := s.run fun now d => (d.wakePkg 5).laneLost now port lane

/-- A width and rate at which a link of a port may train: 256-byte flits at 8 GT/s or more (Table 12-1). -/
def Dev.trains (d : Dev) (port width rate : Nat) : Bool :=
  decide (2 ≤ rate) && decide (rate ≤ d.get (CXP_CTRL.MAXRATE port)) &&
    (width == 8 || (width == 16 && !d.flag (CXP_CTRL.SPLIT port)))

/-- A port whose link is up is ready; it accepts memory requests once the memory has been trained (Table 12-4). -/
def Dev.portReady (d : Dev) (port : Nat) : Dev :=
  (d.set (CXP_STATUS.READY port) 1).set (CXP_STATUS.MEM_ACTIVE port) d.cxl.memInfoValid.toNat

/-- LINK_TRAINED: L0 at a width and rate, and readiness; boot code releases the ports with the lockdown (R502). -/
def Dev.linkTrained (d : Dev) (now port : Nat) (half : Bool) (width rate : Nat) : Dev :=
  let k := linkNo port half
  let split := d.flag (CXP_CTRL.SPLIT port)
  if !d.flag MGT_LOCKDOWN.LOCK || !d.trains port width rate || !(d.mod.perst.getD port false) || (half && !split) then d
  else
    let again := (d.link k).trainedAt.isSome
    let d := d.onLink k fun l => { l with
      state := if width = 8 ∧ !split then 2 else 1
      width := width, lanes := width, rate := rate, l0p := false, trainedAt := some now }
    let d := if again then d.sat (CXP_COUNTS.RETRAINS port) 1 else d
    let d := if width = 16 ∨ split then d.set (CXP_STATUS.LOST port)
        (if width = 16 then 0 else setBits (d.get (CXP_STATUS.LOST port)) (if half then 8 else 0) 8 0) else d
    let d := if rate < d.get (CXP_CTRL.MAXRATE port) then d.raiseLink k 0x0703 .degraded [rate] else d
    (d.portReady port).shedLink k

/-- LINK_TRAINED. -/
def execLinkTrained (port : Nat) (half : Bool) (width rate : Nat) (s : State) := s.run fun now d =>
  (d.wakePkg 5).linkTrained now port half width rate

/-- REFCLK_LOST: the reference of a port is gone; its links that are up go DOWN, to train again from the module's clock. -/
def execRefclkLost (port : Nat) (s : State) := s.run fun now d =>
  let lost := fun (d : Dev) (k : Nat) => (d.onLink k fun l => { l with refclk := false }).linkDown now k 2
  lost (lost d (linkNo port false)) (linkNo port true)

/-- Bytes per µs of a link's lanes at a rate: 8,000 a lane at 64 GT/s (Table 12-2). -/
def laneRate (rate lanes : Nat) : Nat := lanes * 8000 / 2 ^ (5 - rate)

/-- May a link narrow to a number of lanes: a width of Table 12-1 below its own that covers the guaranteed credits? -/
def Dev.narrowOk (d : Dev) (k lanes : Nat) : Bool :=
  let l := d.link k
  (lanes == 8 || lanes == 4 || lanes == 2) && decide (lanes < l.width) && decide (64 * d.linkGuar k ≤ laneRate l.rate lanes)

/-- The narrowest width a link may take. -/
def Dev.narrowest (d : Dev) (k : Nat) : Option Nat := [2, 4, 8].find? (d.narrowOk k)

/-- A link runs on fewer lanes. -/
def Dev.narrowTo (d : Dev) (k lanes : Nat) : Dev :=
  d.onLink k fun l => if l.state = 0 then l else { l with l0p := true, lanes := lanes }

/-- L0P_NARROW: little traffic for 100 µs. -/
def execL0pNarrow (port : Nat) (half : Bool) (s : State) := s.run fun _ d =>
  let k := linkNo port half
  if d.flag (CXP_CTRL.L0P_EN port) ∧ !(d.link k).l0p then
    match d.narrowest k with
    | some n => d.narrowTo k n
    | none => d
  else d

/-- L0P_WIDEN: the full width again. -/
def execL0pWiden (port : Nat) (half : Bool) (s : State) := s.run fun _ d =>
  d.onLink (linkNo port half) fun l => { l with l0p := false, lanes := l.width }

/-- L0P_HOST_REQUEST: the host asks for a number of lanes. -/
def execL0pHostRequest (port : Nat) (half : Bool) (lanes : Nat) (s : State) := s.run fun _ d =>
  let k := linkNo port half
  if d.narrowOk k lanes then d.narrowTo k lanes else d

/-- ATS_INVALIDATION: a host drops a translation; the invalidation completes once no request uses it (R389). -/
def execAtsInvalidation (port : Nat) (half : Bool) (page : Nat) (s : State) := s.run fun _ d =>
  let k := linkNo port half
  let uses := (d.net.reqs.any fun r => match r.dest with | .host l a => l == k && a / 4096 == page | _ => false)
  if uses then d else d.onLink k fun l => { l with atc := l.atc.filter (· != page) }

/-- IDE_FAILURE: a stream of a link is insecure: traffic stops, requests in flight are cancelled, its TDIs are in ERROR
(R397, R398, R482). -/
def Dev.ideFailure (d : Dev) (now port : Nat) (half : Bool) (stream : Nat) : Dev :=
  let k := linkNo port half
  if (d.link k).state = 0 then d
  else
    let hit := d.core.any fun c => d.onLinkReq k c.1
    let d := d.onLink k fun l => { l with insecure := true, ideKeys := false }
    let d := ((d.sat (CXP_COUNTS.IDE_FAIL port) 1).sat (CXP_COUNTS.RETRAINS port) 1).raiseLink k 0x0704
      (if hit then .contained else .degraded) [stream]
    let d := (d.fnsOn k).foldl (fun d f => d.onFn f fun n => { n with
      tdi := if n.tdi = .locked ∨ n.tdi = .run then .error else n.tdi }) d
    (d.peerLost now k 0x0704).shedLink k

/-- IDE_FAILURE. -/
def execIdeFailure (port : Nat) (half : Bool) (stream : Nat) (s : State) := s.run fun now d =>
  d.ideFailure now port half stream

/-! ### Partners (R393 to R395) -/

/-- What a fabric-manager or management command answers: its opcode or kind, and values. -/
def Dev.reply (d : Dev) (kind : Nat) (l : List Nat) : Dev := { d with fw := { d.fw with answer := some (kind, l) } }

/-- The two words of an entry (Table 12-5). -/
def Partner.words (p : Partner) : Nat × Nat :=
  (p.state.code + p.kind * 2 ^ 2 + p.gen * 2 ^ 4 + p.port * 2 ^ 8 + p.half.toNat * 2 ^ 10 + p.host * 2 ^ 11 +
    p.pid * 2 ^ 16 + p.fails * 2 ^ 32, p.base + p.ast * 2 ^ 56)

/-- An entry as words 0 and 1 give it: LIVE, with the next generation. -/
def Partner.add (p : Partner) (e w0 w1 : Nat) : Partner :=
  let kind := if e < 32 then 0 else bits w0 2 2
  let hostmem := decide (32 ≤ e) && kind == 2
  { state := .live, kind := kind, gen := (p.gen + 1) % 16, port := bits w0 8 2, half := bit w0 10
    host := if hostmem then bits w0 11 5 else 0, pid := bits w0 16 12, fails := 0
    base := if 32 ≤ e ∧ kind ≠ 2 then bits w1 0 56 else 0
    ast := if hostmem then bits w1 56 6 else 0, timeouts := 0, failAt := 0 }

/-- An entry is added (R394), and answered as written; one that is not FREE answers 0x070C. -/
def Dev.partnerAdd (d : Dev) (e w0 w1 : Nat) : Dev :=
  let d := d.freePartners
  let p := d.partner e
  if p.state = .free then
    let d := d.onPartner e fun p => p.add e w0 w1
    d.reply 0xC001 [(d.partner e).words.1, (d.partner e).words.2]
  else (d.raise 0x070C (unitId 5 p.port) p.half.toNat .info [e]).reply 0xC001 [0x070C]

/-- PARTNER_SET with action ADD: words 0 and 1 of the entry; KIND 3 of a pool slot is reserved and adds nothing. -/
def execPartnerSetAdd (e w0 w1 : Nat) (s : State) := s.run fun _ d =>
  if 48 ≤ e ∨ (32 ≤ e ∧ bits w0 2 2 = 3) then d else (d.wakePkg 3).partnerAdd e w0 w1

/-- The answer to a PARTNER_SET: the entry as it stands. -/
def Dev.partnerReply (d : Dev) (e : Nat) : Dev := d.reply 0xC001 [(d.partner e).words.1, (d.partner e).words.2]

/-- PARTNER_SET with action LOST. -/
def execPartnerSetLost (e : Nat) (s : State) := s.run fun now d =>
  if 48 ≤ e then d else ((d.wakePkg 3).partnerLost now e 2).partnerReply e

/-- PARTNER_SET with action CLEAR. -/
def execPartnerSetClear (e : Nat) (s : State) := s.run fun _ d =>
  if 48 ≤ e then d
  else ((d.wakePkg 3).onPartner e fun p => if p.state = .suspect then { p with state := .live, timeouts := 0 } else p).partnerReply e

/-- PARTNER_RECOVER: 1 s without a further failure. -/
def execPartnerRecover (e : Nat) (s : State) := s.run fun now d =>
  d.onPartner e fun p => if p.state = .suspect ∧ p.failAt + second ≤ now then { p with state := .live, timeouts := 0 } else p

/-- PARTNER_SUSPECT_TIMEOUT: SUSPECT for 100 ms on a DOWN link. -/
def execPartnerSuspectTimeout (e : Nat) (s : State) := s.run fun now d =>
  let p := d.partner e
  let l := d.link p.link
  if p.state = .suspect ∧ l.state = 0 ∧ l.downAt + 100000000 ≤ now ∧ p.failAt + 100000000 ≤ now then d.partnerLost now e 3 else d

/-- HOT_INSERTION: a host behind a link; firmware takes host entry `e` for it. -/
def execHotInsertion (e port : Nat) (half : Bool) (pid : Nat) (s : State) := s.run fun _ d =>
  let d := (d.wakePkg 5).freePartners
  if e < 32 ∧ (d.partner e).state = .free then
    d.onPartner e fun p => p.add e (port % 4 * 2 ^ 8 + half.toNat * 2 ^ 10 + pid % 2 ^ 12 * 2 ^ 16) 0
  else d

/-- HOST_REMOVED: the hot removal of the host of entry `e`. -/
def execHostRemoved (e : Nat) (s : State) := s.run fun now d => if e < 32 then (d.wakePkg 5).hostLost now e else d

/-! ### The fabric manager's other commands (R395, R396) -/

/-- MGT_SUBMIT: one management command, with its delta of at most 131,072 bytes. -/
def execMgtSubmit (port : Nat) (slot : Line) (delta : List Line) (s : State) := s.run fun now d =>
  if 2048 < delta.length then d else (d.wakePkg 3).mgtTake now 0 (some port) slot delta

/-- PARTNER_GET: the entries from `first`. -/
def execPartnerGet (first count : Nat) (s : State) := s.run fun _ d =>
  (d.wakePkg 3).reply 0xC002 ((List.range (min count 48)).flatMap fun k =>
    if first + k < 48 then [(d.partner (first + k)).words.1, (d.partner (first + k)).words.2] else [])

/-- CMP_AST_STATE (Table 9-12). -/
def Dev.astStateWord (d : Dev) (a : Nat) : Nat :=
  let x := d.ast a
  let staged := match x.cur with | some m => m != x.staged | none => x.staged != CMap.empty 0 0
  x.state.code + d.domOf a % 16 * 2 ^ 3 + d.home a % 8 * 2 ^ 7 + staged.toNat * 2 ^ 10 + x.epoch % 2 ^ 16 * 2 ^ 16

/-- The eight metering counters in the order of their offsets. -/
def Meters.words (m : Meters) : List Nat :=
  [m.coreBound, m.chanBound, m.sliceBound, m.funcBound, m.coreBusy, m.energy, m.commands, m.granules]

/-- METER_READ: CMP_AST_STATE and the metering counters of `count` asterisms. -/
def execMeterRead (first count : Nat) (s : State) := s.run fun _ d =>
  (d.wakePkg 3).reply 0xC003 ((List.range (min count 64)).flatMap fun k =>
    if first + k < 64 then d.astStateWord (first + k) :: (d.ast (first + k)).meters.words else [])

/-- NOTICE_ACK: a notice is held no longer. -/
def execNoticeAck (seq : Nat) (s : State) := s.run fun _ d =>
  let d := d.wakePkg 3
  { d with ras := { d.ras with notices := d.ras.notices.filter fun n => n.seq != seq } }

/-- IDENTIFY: MGT_ID. -/
def execIdentify (s : State) := s.run fun _ d => (d.wakePkg 3).reply 0 [mgtIdWord]

/-- NOTICE_RESEND: with 256 notices unacknowledged, the oldest goes out again every second. -/
def execNoticeResend (s : State) := s.run fun now d =>
  match d.ras.notices with
  | [] => d
  | n :: l =>
    if 256 ≤ d.ras.notices.length ∧ n.at_ + second ≤ now then
      { d with ras := { d.ras with notices := { n with at_ := now } :: l, noticeBox := { n with at_ := now } :: d.ras.noticeBox } }
    else d

end Sys2Proof.Machine
end

