-- ==== Sys2Proof/Machine/Governor.lean ====
section
/-!
DEFINITION. The leave governor: its measurements, leave and shares (R422 to R427), the caps (R432 to R434), energies
(R435, R436), operating points, junction limits and droop (R416 to R418, R431).
-/

namespace Sys2Proof.Machine

/-- Change the governor. -/
def Dev.onPwr (d : Dev) (f : Power → Power) : Dev := { d with pwr := f d.pwr }

/-! ### Operating points (R415 to R418) -/

/-- Is a point of a die pair available? -/
def Dev.opAvail (d : Dev) (dp k : Nat) : Bool := d.flag (PWR_OPP_TABLE.AVAIL (8 * dp + k))
/-- The highest available point at or below a limit; OP0 where there is none. -/
def Dev.topOp (d : Dev) (dp limit : Nat) : Nat :=
  (((List.range (limit + 1)).filter (d.opAvail dp)).getLast?).getD 0
/-- The next available point below, and above. -/
def Dev.opBelow (d : Dev) (dp : Nat) : Option Nat :=
  ((List.range (d.pmu dp).op).filter (d.opAvail dp)).getLast?
/-- The next available point above. -/
def Dev.opAbove (d : Dev) (dp : Nat) : Option Nat :=
  (List.range 8).find? fun k => decide ((d.pmu dp).op < k) && d.opAvail dp k

/-- A change to a point starts; it takes at most 40 µs (R417). -/
def Dev.opTo (d : Dev) (now dp k : Nat) : Dev :=
  d.onPmu dp fun u => if u.op = k then { u with goal := none } else { u with goal := some (k, now + 40000) }
/-- One point lower, where no change runs. -/
def Dev.opDown (d : Dev) (now dp : Nat) : Dev :=
  if (d.pmu dp).goal.isSome then d
  else match d.opBelow dp with
    | some k => d.opTo now dp k
    | none => d

/-- Committed commands with a tile running on a die pair. -/
def Dev.committedOn (d : Dev) (dp : Nat) : List (Nat × Cmd) :=
  d.committed.filter fun e => d.core.any fun c => coreDp c.1 == dp && (match c.2.tile with
    | some t => t.own.cmd == e.1
    | none => false)

/-- A die pair below the planning point that a committed command was accepted at sheds that command (R356, R418). -/
def Dev.shedPlan (d : Dev) (dp : Nat) : Dev :=
  let mhz := opMhz (d.pmu dp).op
  d.shedEpisode dp (svcUnit dp) .power (fun d => (d.committedOn dp).all fun e => decide (e.2.resv.fMhz ≤ mhz))
    fun d => (d.committedOn dp).filter fun e => decide (mhz < e.2.resv.fMhz)

/-- Leave of a tile on a core, at the present point. -/
def Dev.tileLeave (d : Dev) (c : Nat) (t : Tile) : Nat :=
  match Tbl.find d.hif.cmds t.own.cmd with
  | some m => d.cmdLeave m (coreDp c)
  | none => t.leave

/-- The leave of one running tile is recomputed (R426). -/
def Dev.releave (d : Dev) (c : Nat) : Dev :=
  match (d.coreAt c).tile with
  | none => d
  | some t =>
    if t.leave = 0 then d
    else
      let p := d.tileLeave c t
      let d := d.onPmu (coreDp c) fun u => { u with leave := u.leave - t.leave + p }
      let draw := fun (x : Booking) => if t.booking = some x.id then { x with drawn := x.drawn - t.leave + p } else x
      let d := d.onPwr fun w => { w with bookings := w.bookings.map draw }
      d.onTile c fun t => { t with leave := p }

/-- Waiting requests of tiles on a die pair ask at the present point. -/
def Dev.reask (d : Dev) (dp : Nat) : Dev :=
  let again := fun (r : LeaveReq) => match r.why with
    | .tile id _ => if r.dp ≠ dp then r else
        (match Tbl.find d.hif.cmds id with | some m => { r with p := d.cmdLeave m dp } | none => r)
    | _ => r
  d.onPwr fun w => { w with reqs := w.reqs.map again }

/-- OP_CHANGE: the change of a die pair completes; leave is recomputed and the tests repeated (R426, R427). -/
def Dev.opChanged (d : Dev) (dp : Nat) : Dev :=
  match (d.pmu dp).goal with
  | none => d
  | some (k, _) =>
    let d := d.onPmu dp fun u => { u with op := k, goal := none }
    let d := ((d.core.filter fun e => coreDp e.1 == dp).map (·.1)).foldl (fun d c => d.releave c) d
    ((d.reask dp).shedPower).shedPlan dp

/-- OP_CHANGE. -/
def execOpChange (d : Nat) (s : State) := s.run fun _ x => x.opChanged d

/-- Leave that running tiles of a die pair would need beyond the present at another point, mW (R418). -/
def Dev.raiseNeed (d : Dev) (dp k : Nat) : Nat :=
  let at_ := fun (o : Nat) => (d.onPmu dp fun u => { u with op := o })
  let up := at_ k
  d.core.foldl (fun n e => match e.2.tile with
    | some t => if coreDp e.1 = dp ∧ t.leave ≠ 0 then n + (up.tileLeave e.1 t - t.leave) else n
    | none => n) 0

/-- Is there at least twice the headroom that a raise of a die pair needs? -/
def Dev.raiseRoom (d : Dev) (dp : Nat) : Bool :=
  match d.opAbove dp with
  | none => false
  | some k => let need := 2 * d.raiseNeed dp k; d.capTest need && d.bufferTest need

/-- OP_RAISE: one available point up, at or below OPMAX, after 1 ms with the headroom (R418). -/
def Dev.opRaise (d : Dev) (now dp : Nat) : Dev :=
  let u := d.pmu dp
  match d.opAbove dp, u.raiseAt with
  | some k, some t =>
    if u.pwr != .run || u.goal.isSome || u.throttling || u.limited || decide (now < u.lowUntil) ||
        decide (d.get PWR_CTRL.OPMAX < k) || decide (now < t + 1000000) then d
    else (d.opTo now dp k).onPmu dp fun u => { u with raiseAt := none }
  | _, _ => d

/-- OP_RAISE. -/
def execOpRaise (d : Nat) (s : State) := s.run fun now x => x.opRaise now d

/-- What a sample finds for each die pair: since when a raise has had headroom, and a point above what is allowed. -/
def Dev.watchPoints (d : Dev) (now : Nat) : Dev :=
  diePairs.foldl (fun d dp =>
    let room := d.raiseRoom dp
    let d := d.onPmu dp fun u => { u with raiseAt := if room then (u.raiseAt <|> some now) else none }
    let top := d.topOp dp (d.get PWR_CTRL.OPMAX)
    if top < (d.pmu dp).op ∧ (d.pmu dp).goal.isNone then d.opTo now dp top else d) d

/-! ### Junction and droop (R418, R431) -/

/-- JUNCTION_THROTTLE: at TJ_THROTTLE the die pair drops one point per 1 ms until 3 °C below it. -/
def Dev.throttle (d : Dev) (now dp temp : Nat) : Dev :=
  let lim := d.get PWR_CTRL.TJ_THROTTLE
  let on := fun (u : Pmu) => if lim ≤ temp then true else if temp + 3 ≤ lim then false else u.throttling
  let d := d.onPmu dp fun u => { u with tj := temp, throttling := on u, limited := u.limited && on u }
  let u := d.pmu dp
  if u.throttling && decide (u.lowerAt ≤ now) then
    (d.opDown now dp).onPmu dp fun u => { u with lowerAt := now + 1000000 }
  else d

/-- JUNCTION_THROTTLE. -/
def execJunctionThrottle (d temp : Nat) (s : State) := s.run fun now x => x.throttle now d temp

/-- JUNCTION_LIMIT: at 105 °C the die pair goes to OP0 and brakes, with 0x0806 once. -/
def Dev.junctionLimit (d : Dev) (now dp temp : Nat) : Dev :=
  if temp < 105 then d
  else
    let was := (d.pmu dp).limited
    let d := (d.onPmu dp fun u => { u with tj := temp, throttling := true, limited := true }).opTo now dp 0
    if was then d else d.raise 0x0806 (svcUnit dp) 0x01 .degraded [dp, temp]

/-- JUNCTION_LIMIT. -/
def execJunctionLimit (d temp : Nat) (s : State) := s.run fun now x => x.junctionLimit now d temp

/-- DROOP_STRETCH: every core clock period of the die pair is doubled for `ns`; a stretch beyond 4 µs, or more than 256
in 1 ms, runs the die pair one point lower for 10 ms (R431). -/
def Dev.droop (d : Dev) (now dp ns : Nat) : Dev :=
  let d := (d.wrap PWR_DROOP.EVENTS 1).wrap (PMU_STATUS.STRETCH dp) 1
  let d := d.onPmu dp fun u =>
    let u := { u with stretchEnd := max u.stretchEnd (now + ns) }
    if now < u.stretchAt + 1000000 then { u with stretches := u.stretches + 1 }
    else { u with stretchAt := now, stretches := 1 }
  let u := d.pmu dp
  if ns ≤ 4000 ∧ u.stretches ≤ 256 then d
  else
    let d := if now < u.lowUntil then d else d.opDown now dp
    let d := d.onPmu dp fun u => { u with lowUntil := now + 10000000 }
    let due := match u.droopRec with | some t => decide (t + second ≤ now) | none => true
    if due then
      (d.onPmu dp fun u => { u with droopRec := some now }).raise 0x0805 (svcUnit dp) 0x01 .degraded [dp, u.stretches]
    else d

/-- DROOP_STRETCH. -/
def execDroopStretch (d ns : Nat) (s : State) := s.run fun now x => x.droop now d ns

/-! ### The caps (R432 to R434) -/

/-- Does the input lie above the cap less half the margin? -/
def Dev.capPressed (d : Dev) : Bool :=
  decide (2 * d.get PWR_CAP.CAP_W < 2 * d.get PWR_INPUT.PIN + d.get PWR_CAP.MARGIN_W)

/-- Since when the input has been at or below the cap. -/
def Dev.capWatch (d : Dev) (now : Nat) : Dev :=
  let ok := decide (d.get PWR_INPUT.PIN ≤ d.get PWR_CAP.CAP_W)
  d.onPwr fun w => { w with capBelowAt := if ok then (w.capBelowAt <|> some now) else none }

/-- A cap has been recorded: the active cap is the lower, and the reservation test is repeated (R433, steps 1 to 3). -/
def Dev.capSet (d : Dev) (now : Nat) : Dev :=
  let d := d.set PWR_CAP.CAP_W (min (d.get PWR_CAP.FM_CAP_W) (d.get PWR_CAP.TRAY_CAP_W))
  ((d.onPwr fun w => { w with capBelowAt := none }).capWatch now).shedPower

/-- A cap that may be set: 1,000 to 7,500 W. -/
def capValid (w : Nat) : Bool := decide (1000 ≤ w) && decide (w ≤ 7500)

/-- SET_CAP: the fabric manager's cap (R432, R433); it completes once the input has settled. -/
def Dev.setCap (d : Dev) (now k : Nat) (m : Mgt) : Dev :=
  let w := fld m.slot 0x10 0 13
  if !capValid w || !allZero m.slot [(0x10, 13, 19), (0x14, 0, 352)] then
    (d.raise 0x0808 moduleUnit 0x02 .info [Config.code 0x0808 0, fld m.slot 0x10 0 32]).mgtDone now k .refused .policy 0x0808
  else
    let d := (d.set PWR_CAP.FM_CAP_W w).capSet now
    d.onPwr fun p => { p with capWait := p.capWait ++ [k] }

/-- SET_CAP. -/
def execSetCap (m : Nat) (s : State) := s.run fun now d => d.mgtRun m 0x89 fun d x => d.setCap now m x

/-- The waiting SET_CAPs complete. -/
def Dev.capsDone (d : Dev) (now err : Nat) : Dev :=
  let l := d.pwr.capWait
  l.foldl (fun d k => d.mgtDone now k .completed .none err) (d.onPwr fun p => { p with capWait := [] })

/-- CAP_SETTLED: the input has stayed at or below the cap for 100 µs. -/
def Dev.capSettled (d : Dev) (now : Nat) : Dev :=
  match d.pwr.capBelowAt with
  | some t => if t + 100000 ≤ now then d.capsDone now 0 else d
  | none => d

/-- CAP_SETTLED. -/
def execCapSettled (s : State) := s.run fun now d => d.capSettled now

/-- Is a core among those held?  Sixteenths of the cores, spread evenly and moved on by every rotation. -/
def capHolds (h rotate c : Nat) : Bool := decide ((c % 672 + rotate) * h % 16 < h)

/-- The held cores follow the held fractions, which PWR_FLOOR.HOLD shows at their largest (R433). -/
def Dev.holdCores (d : Dev) : Dev :=
  let r := d.pwr.rotate
  let h := fun (c : Nat) => (d.pmu (coreDp c)).held
  let d := { d with core := Tbl.mapV (fun c k => { k with capHeld := capHolds (h c) r c }) d.core }
  d.set PWR_FLOOR.HOLD (diePairs.foldl (fun n p => max n (d.pmu p).held) 0)

/-- Every die pair's held fraction changes. -/
def Dev.holdAll (d : Dev) (now : Nat) (f : Nat → Nat) : Dev :=
  ((diePairs.foldl (fun d p => d.onPmu p fun u => { u with held := f u.held }) d).onPwr fun w => { w with
    capAt := now }).holdCores

/-- Step 7: the cap lies below the floor. -/
def Dev.capFloor (d : Dev) (now : Nat) : Dev :=
  if d.get PWR_FLOOR.HOLD < 16 ∨ d.get PWR_INPUT.PIN ≤ d.get PWR_CAP.CAP_W ∨ d.flag PWR_FLOOR.BELOW then d
  else
    let d := ((d.set PWR_FLOOR.BELOW 1).set ADM_STATUS.CAP_FLOOR 1).alert .belowFloor true
    let d := d.raise 0x0801 moduleUnit 0x02 .degraded [d.get PWR_CAP.CAP_W, d.get PWR_FLOOR.FLOOR_W]
    d.capsDone now 0x0801

/-- Repeat the demand test of every asterism, shedding with POWER (R433). -/
def Dev.shedHeld (d : Dev) (now : Nat) : Dev :=
  d.comp.asts.foldl (fun d e =>
    d.shedEpisode (d.home e.1) (svcUnit (d.home e.1)) .power (fun d => d.bookOk now e.1) fun d => d.book e.1) d

/-- CAP_HOLD_STEP: every 50 µs of pressure h rises by 1/16 (R433). -/
def Dev.capHoldStep (d : Dev) (now : Nat) : Dev :=
  if !d.capPressed || decide (now < d.pwr.capAt + 50000) then d
  else ((d.holdAll now fun h => min 16 (h + 1)).shedHeld now).capFloor now

/-- CAP_HOLD_STEP. -/
def execCapHoldStep (s : State) := s.run fun now d => d.capHoldStep now

/-- CAP_RELEASE_STEP: every 1 ms below the cap less twice the margin h falls by 1/16 (R434). -/
def Dev.capRelease (d : Dev) (now : Nat) : Dev :=
  if d.get PWR_CAP.CAP_W ≤ d.get PWR_INPUT.PIN + 2 * d.get PWR_CAP.MARGIN_W ∨ now < d.pwr.capAt + 1000000 then d
  else
    let d := d.holdAll now fun h => h - 1
    if d.get PWR_FLOOR.HOLD < 16 then ((d.set PWR_FLOOR.BELOW 0).set ADM_STATUS.CAP_FLOOR 0).alert .belowFloor false else d

/-- CAP_RELEASE_STEP. -/
def execCapReleaseStep (s : State) := s.run fun now d => d.capRelease now

/-- CAP_HOLD_ROTATE: every 100 µs other cores are held (R433). -/
def Dev.capRotate (d : Dev) (now : Nat) : Dev :=
  if now < d.pwr.rotateAt + 100000 then d
  else (d.onPwr fun w => { w with rotate := w.rotate + 1, rotateAt := now }).holdCores

/-- CAP_HOLD_ROTATE. -/
def execCapHoldRotate (s : State) := s.run fun now d => d.capRotate now

/-- FLOOR_RECOMPUTE: the projected input, and the reservation test again (R427, R434). -/
def execFloorRecompute (watts : Nat) (s : State) := s.run fun _ d =>
  (d.set PWR_FLOOR.FLOOR_W (min watts 8191)).shedPower

/-- Step 4 of Table 13-10: points fall one step at a time while leave exceeds the cap, die pairs without committed
commands first. -/
def Dev.capPoints (d : Dev) (now : Nat) : Dev :=
  if d.capTest 0 then d
  else
    let low := diePairs.filter fun p => (d.pmu p).pwr == .run && (d.pmu p).goal.isNone && (d.opBelow p).isSome
    let free := low.filter fun p => (d.committedOn p).isEmpty
    (if free.isEmpty then low else free).foldl (fun d p => d.opDown now p) d

/-! ### Measurements (R420, R425, R435, R436) -/

/-- Usable buffer energy as measured, and the least of it since package reset. -/
def Dev.bufferNow (d : Dev) (mj : Nat) : Dev :=
  let e := min mj 65535
  let low := if d.pwr.measured then min (d.get PWR_BUFFER_ENERGY.MIN) e else e
  ((d.set PWR_BUFFER_ENERGY.ENERGY e).set PWR_BUFFER_ENERGY.MIN low).onPwr fun w => { w with measured := true }

/-- The input's voltage and current as measured (R420). -/
def Dev.inputNow (d : Dev) (mv ma : Nat) : Dev :=
  let mw := mv * ma / 1000
  let d := ((d.set PWR_INPUT.VIN (min 65535 (mv / 10))).set PWR_INPUT.IIN (min 65535 (ma / 10))).set PWR_INPUT.PIN
    (min 65535 (mw / 1000))
  let d := (d.onPwr fun w => { w with inputMw := mw }).onMod fun m => { m with vinMv := mv }
  d.set PWR_SLEW_LIMIT.SLEW (d.slew / 100)

/-- PWR_GRANTED as the governor keeps it. -/
def Dev.showGranted (d : Dev) : Dev :=
  let w := fun (mw : Nat) => min 65535 (mw / 1000)
  (((d.set PWR_GRANTED.LEAVE_W (w d.leaveMw)).set PWR_GRANTED.BASE_W (w d.pwr.pBase)).set PWR_GRANTED.RESERVED_W
    (w d.reservedMw)).set PWR_GRANTED.BOOKED_W (w d.openMw)

/-- Module input energy over 10 µs, in mJ with the rest kept in nJ. -/
def Dev.inputEnergy (d : Dev) : Dev :=
  let nj := d.pwr.inputNj + d.pwr.inputMw * 10
  (d.wrap PWR_ENERGY.INPUT_MJ (nj / 1000000)).onPwr fun w => { w with inputNj := nj % 1000000 }

/-- GOVERNOR_SAMPLE: every 10 µs the input (mV, mA) and the buffer (mJ) are measured, P_base follows, and points, cap and
range are watched (R420, R425). -/
def Dev.governorSample (d : Dev) (now mv ma mj : Nat) : Dev :=
  let d := ((d.inputNow mv ma).bufferNow mj).inputEnergy
  let d := d.onPwr fun w => { w with
    pBase := w.inputMw - d.leaveMw
    rangeRec := w.rangeRec && (decide (mv < 48000) || decide (58000 < mv)) }
  (((d.capWatch now).watchPoints now).capPoints now).showGranted

/-- GOVERNOR_SAMPLE. -/
def execGovernorSample (mv ma mj : Nat) (s : State) := s.run fun now d => d.governorSample now mv ma mj

/-- Asterisms with a unit bound on a die pair. -/
def Dev.boundOn (d : Dev) (dp : Nat) : List Nat :=
  (d.comp.asts.filter fun e => match e.2.cur with
    | some m => (m.cores.any fun c => coreDp c == dp) || (m.chans.any fun l => stackDp (chanStack l) == dp) ||
        m.slices.any fun k => k / 68 == dp
    | none => false).map (·.1)

/-- Divide an energy among asterisms: how the estimates divide it is measured and stated nowhere, so the parts are
free and only their sum is fixed (R435). -/
def Dev.attribute : List Nat → Nat → Dev → Dev
  | [], _, d => d
  | [a], uj, d => d.onAst a fun x => { x with pendMeters := { x.pendMeters with energy := x.pendMeters.energy + uj } }
  | a :: l, uj, d =>
    let (v, d) := d.draw .choice
    let part := v % (uj + 1)
    Dev.attribute l (uj - part) (d.onAst a fun x => { x with
      pendMeters := { x.pendMeters with energy := x.pendMeters.energy + part } })

/-- ENERGY_SAMPLE: a die pair's rail energy over 10 µs, and whom it is attributed to (R435, R436). -/
def Dev.energySample (d : Dev) (dp uj : Nat) : Dev :=
  let all := Tbl.look 0 d.pwr.railUj dp + uj
  let d := (d.wrap (PMU_ENERGY.RAIL_MJ dp) (all / 1000)).onPwr fun w => { w with railUj := Tbl.putD 0 w.railUj dp (all % 1000) }
  match d.boundOn dp with
  | [] =>
    let un := d.pwr.unattrUj + uj
    (d.wrap PWR_ENERGY_UNATTR.UNATTR_MJ (un / 1000)).onPwr fun w => { w with unattrUj := un % 1000 }
  | l => Dev.attribute l uj d

/-- ENERGY_SAMPLE. -/
def execEnergySample (d uj : Nat) (s : State) := s.run fun _ x => x.energySample d uj

/-! ### Leave (R422 to R428) -/

/-- Does a request pass: from an open booking of its context, or by both tests of R425? -/
def Dev.leavePasses (d : Dev) (r : LeaveReq) : Bool :=
  ((d.openBooking r.ctx r.p).isSome || d.capTest r.p) && d.bufferTest r.p

/-- The command a request serves. -/
def LeaveReq.cmd (r : LeaveReq) : Nat := match r.why with | .tile id _ => id | .sweep job _ => job | .barrier b => b

/-- Does a request come before another?  Committed ones first; then the order of R371. -/
def Dev.leaveFirst (d : Dev) (x y : LeaveReq) : Bool :=
  if x.committed != y.committed then x.committed
  else match Tbl.find d.hif.cmds x.cmd, Tbl.find d.hif.cmds y.cmd with
    | some m, some n => d.comesFirst (x.cmd, m) (y.cmd, n)
    | _, _ => false

/-- LEAVE_GRANT: request `i` is granted when it passes and none that comes before it does. -/
def Dev.leaveGrant (d : Dev) (i : Nat) : Dev :=
  match d.pwr.reqs[i]? with
  | none => d
  | some r =>
    if !d.leavePasses r || d.pwr.reqs.any (fun x => d.leaveFirst x r && d.leavePasses x) then d
    else
      let b := d.openBooking r.ctx r.p
      let d := (d.onPwr fun w => { w with reqs := dropAt w.reqs i }).drawBooking b r.p
      match r.why with
      | .sweep _ s => d.onPwr fun w => { w with sweepLeave := Tbl.put w.sweepLeave s (r.p, b) }
      | _ => (d.onPmu r.dp fun u => { u with
          leave := u.leave + r.p, share := if b.isNone then u.share - r.p else u.share }).onPwr fun w => { w with
            grants := w.grants ++ [{ why := r.why, dp := r.dp, p := r.p, booking := b }] }

/-- LEAVE_GRANT. -/
def execLeaveGrant (i : Nat) (s : State) := s.run fun _ d => d.leaveGrant i

/-- Headroom cleared against both tests, mW: the cap's, and the largest step the buffer carries. -/
def Dev.headroom (d : Dev) : Nat :=
  let cap := (d.get PWR_CAP.CAP_W - d.get PWR_CAP.MARGIN_W) * 1000 - d.pg
  let e := d.get PWR_BUFFER_ENERGY.ENERGY - d.get PWR_BUFFER_ENERGY.RESERVE * 1000
  min cap (isqrt (2 * d.slew * (e * 1000000)) 32 0 - d.gap)

/-- Leave power that requests of a die pair wait for, mW. -/
def Dev.unmet (d : Dev) (dp : Nat) : Nat := (d.pwr.reqs.filter fun r => r.dp == dp).foldl (fun n r => n + r.p) 0

/-- SHARE_REDISTRIBUTE: every 50 µs free headroom goes to the die pairs in proportion to their unmet requests. -/
def Dev.shareOutLeave (d : Dev) : Dev :=
  let total := diePairs.foldl (fun n p => n + d.unmet p) 0
  if total = 0 then d
  else
    let h := d.headroom
    diePairs.foldl (fun x p => x.onPmu p fun u => { u with share := h * d.unmet p / total }) d

/-- SHARE_REDISTRIBUTE. -/
def execShareRedistribute (s : State) := s.run fun _ d => d.shareOutLeave

/-- BUFFER_LOW: below RESERVE / 2 every core clock brakes, with 0x0804 once per episode (R422). -/
def Dev.bufferLow (d : Dev) (mj : Nat) : Dev :=
  let d := d.bufferNow mj
  if d.get PWR_BUFFER_ENERGY.RESERVE * 500 ≤ mj then d
  else
    let d := d.set PWR_BUFFER_ENERGY.BRAKE 1
    if d.pwr.bufEpisode then d
    else (d.onPwr fun w => { w with bufEpisode := true }).raise 0x0804 moduleUnit 0x02 .degraded [mj, d.ticks]

/-- BUFFER_LOW. -/
def execBufferLow (mj : Nat) (s : State) := s.run fun _ d => d.bufferLow mj

/-- BRAKE_RELEASE: back above RESERVE the brake is released and the episode is over. -/
def Dev.brakeRelease (d : Dev) (mj : Nat) : Dev :=
  let d := d.bufferNow mj
  if d.get PWR_BUFFER_ENERGY.RESERVE * 1000 < mj then
    (d.set PWR_BUFFER_ENERGY.BRAKE 0).onPwr fun w => { w with bufEpisode := false }
  else d

/-- BRAKE_RELEASE. -/
def execBrakeRelease (mj : Nat) (s : State) := s.run fun _ d => d.brakeRelease mj

end Sys2Proof.Machine
end

