-- ==== Sys2Proof/Machine/PowerOff.lean ====
section
/-!
DEFINITION. What a package reset and the removal of power leave (Table 14-3, R406, R456, R547).
-/

namespace Sys2Proof.Machine

/-- Fields keep their values over a reset. -/
def Dev.carryOver (d old : Dev) (l : List Fld) : Dev := l.foldl (fun d f => if d.get f = old.get f then d else d.set f (old.get f)) d

/-- Fields that survive a package reset (R438, R451, R469); an update of the image goes on through it (R514). -/
def pkgSurvivors : List Fld :=
  [CLK_WATCH_COUNT.TICKS, PWR_CAP.CAP_W, PWR_CAP.FM_CAP_W, PWR_CAP.TRAY_CAP_W, RAS_RESET_STATUS.PKG_RESETS,
    RAS_RESET_STATUS.AST_RESETS, RAS_DUMP_BASE.VALID, RAS_DUMP_BASE.PAGES, MGT_FW_UPDATE.PATH, MGT_FW_UPDATE.PORT,
    MGT_FW_UPDATE.PROGRESS, MGT_FW_UPDATE.CAUSE]

/-- Repairs of a stack, which the Almanac holds and boot code puts back (R157, R463). -/
def repairFields (s : Nat) : List Fld :=
  [STK_SPARE.ROWS s, STK_SPARE.BANKS s, STK_SPARE.CHANS s, STK_SPARE.LANES s] ++
    (List.range 34).map fun k => STK_CHAN_HEALTH.BANKS_SPARED s k

/-- A stack after the restart of its logic die; the device key slot outlasts all but the removal of power (R481). -/
def Stack.restart (t : Stack) (cold : Bool) : Stack := { Stack.reset with
  rowMap := t.rowMap, rowsUsed := t.rowsUsed, bankMap := t.bankMap
  keys := if cold then [] else t.keys.filter fun e => e.1 == 16 }

/-- A bridge trained anew: its repairs stay, the Almanac holds them (R239). -/
def Bridge.restart (b : Bridge) : Bridge := { b with down := false, retriesUp := 0, retriesDn := 0 }

/-- Is a channel held FAILED or EXCLUDED in the Almanac? -/
def Dev.chanBad (d : Dev) (phys : Nat) : Bool :=
  match (Tbl.look Health.new d.alm.units (chanUnit phys)).mark with
  | some .failed | some .excluded => true
  | _ => false

/-- PSTATE of a bad channel: FAILED or EXCLUDED. -/
def Dev.badState (d : Dev) (phys : Nat) : Nat :=
  match (Tbl.look Health.new d.alm.units (chanUnit phys)).mark with
  | some .failed => 3
  | _ => 4

/-- The slots of a stack are filled: each by its own channel where that is good, else by a spare, else RETIRED (R164,
R465). -/
def Dev.fillSlots (d : Dev) (s : Nat) : Dev :=
  let bad := (List.range 34).filter fun k => d.chanBad (s * 34 + k)
  let d := bad.foldl (fun d k => d.set (STK_CHAN_HEALTH.PSTATE s k) (d.badState (s * 34 + k))) d
  let need := bad.filter (decide <| · < 32)
  let spare := [32, 33].filter fun k => !bad.contains k
  need.zipIdx.foldl (fun d (j, i) => match spare[i]? with
    | some k => (d.set (STK_SLOT_MAP.PHYS s j) k).set (STK_CHAN_HEALTH.PSTATE s k) 0
    | none => d.set (STK_SLOT_MAP.STATE s j) 2) d

/-- The voltages of the operating points with the die pairs' AGE; a point above its ceiling is unavailable (R415,
R416). -/
def Dev.loadAge (d : Dev) (dp : Nat) : Dev :=
  let age := d.alm.age.getD dp 0
  if age = 0 then d
  else (List.range 8).foldl (fun d k =>
    let i := 8 * dp + k
    let v := d.get (PWR_OPP_TABLE.VTEST i) + 15 + age
    ((d.set (PWR_OPP_TABLE.AGE i) age).set (PWR_OPP_TABLE.VSET i) v).set (PWR_OPP_TABLE.AVAIL i)
      (decide (v ≤ d.get (PWR_OPP_TABLE.VMAX i))).toNat) d

/-- The package's state at the start of a bring-up: every asterism is FREE, nothing is in flight, no asterism data is
readable.  With power removed (`cold`) the module controller's own state goes as well; flash, OTP, the Almanac and what
lies in hosts' memory stay. -/
def Dev.pkgClear (d : Dev) (cold : Bool) : Dev :=
  let r := d.ras
  let new : Dev := { d with
    regs := [], core := [], mem := [], lost := [], slice := [], sweeps := []
    stk := Tbl.mapV (fun _ t => t.restart cold) d.stk
    net := { Network.reset with bridges := Tbl.mapV (fun _ b => b.restart) d.net.bridges }
    comp := { Comp.reset with
      snaps := d.comp.snaps, snapAt := d.comp.snapAt, sliceOut := d.comp.sliceOut, sliceIn := d.comp.sliceIn }
    hif := { Hif.reset with
      cq := d.hif.cq, fr := d.hif.fr, mcq := d.hif.mcq, submitted := d.hif.submitted, intr := d.hif.intr }
    pwr := { Power.reset with lockout := d.pwr.lockout, rangeRec := d.pwr.rangeRec }
    cxl := { Cxl.reset with partners := if cold then [] else d.cxl.partners, answers := d.cxl.answers }
    ras := if cold then { Ras.reset with ring := r.ring, flash := r.flash, dumps := r.dumps, noticeBox := r.noticeBox }
      else { r with lost := 0, critLost := 0, overflow := false, rates := [], sets := [], noProg := [] }
    lcs := { d.lcs with sessions := [], negotiated := [], loads := [], token := [] } }
  let new := if cold then new else new.carryOver d (pkgSurvivors ++ allStacks.map STK_KEYSTAT.DEV_VALID)
  let new := allStacks.foldl (fun n s => (n.carryOver d (repairFields s)).fillSlots s) new
  (diePairs.foldl (fun n p => n.loadAge p) new).alert .belowFloor false

/-- Dark: only the standby rail is up, and only what flash and OTP hold is kept (R406). -/
def Dev.powerOff (d : Dev) : Dev :=
  let d := d.pkgClear true
  let d := { d with
    fw := { d.fw with
      update := none, bootStep := 0, stopped := false, recovery := false, refused := 0, tid := 0, eid := 0, events := []
      answer := none }
    lcs := { d.lcs with drbgUp := true, drbgReqs := 0, drbgFails := 0 }
    pwr := { d.pwr with pkg := .dark } }
  let d := [Alert.belowFloor, .powerCycle, .bootStopped, .recovery, .event].foldl (fun d a => d.alert a false) d
  d.set PWR_STATE_REQ.STATE Pwr.dark.code

end Sys2Proof.Machine
end

