-- ==== Sys2Proof/Machine/Boot.lean ====
section
/-!
DEFINITION. Bringing the module up: the ROM's journal and image checks (R496, R497, R507, R508), the bring-up of the
package (R472, R502 to R505, R465), memory pass 2 (R504), the lockdown (R544), recovery (R512), and the update of the
image (R513 to R515).
-/

namespace Sys2Proof.Machine

/-- Change boot firmware's state. -/
def Dev.onFw (d : Dev) (f : Fw → Fw) : Dev := { d with fw := f d.fw }
/-- Change the security block's state. -/
def Dev.onLcs (d : Dev) (f : Lcs → Lcs) : Dev := { d with lcs := f d.lcs }

/-! ### Life cycle in OTP (R487, R490, R492, R496, R497) -/

/-- The active owner row: the highest-numbered one not revoked (R487). -/
def Lcs.owner (l : Lcs) : Option (Nat × OwnerRow) := (l.owners.zipIdx.reverse.find? fun e => !e.1.revoked).map fun e => (e.2, e.1)

/-- WIPES of a transition, bit k − 1 for Wk; W5 goes with End-of-life (Table 15-6). -/
def wipesOf (target : Nat) : Nat := if target = 1 then 0b0011 else if target = 2 then 0b1111 else 0b0111

/-- A new challenge (R493); it waits while the DRBG is stopped (R479). -/
def Dev.newChallenge (d : Dev) : Dev :=
  if !d.lcs.drbgUp then d.onLcs fun l => { l with chalDue := true }
  else
    let (v, d) := d.drbgUse.draw .drbg
    d.onLcs fun l => { l with challenge := v % 2 ^ 256, chalDue := false }

/-- The DRBG is seeded anew (R479). -/
def Dev.reseed (d : Dev) : Dev := d.onLcs fun l => { l with drbgReqs := 0 }

/-- A wipe (Table 15-7). -/
def Dev.wipeNo (d : Dev) : Nat → Dev
  | 1 => { d with mem := [], lost := [], slice := [] }
  | 2 =>
    let d := { d with stk := Tbl.mapV (fun _ (t : Stack) => { t with keys := [] }) d.stk }
    let d := { d with cxl := { d.cxl with links := Tbl.mapV (fun _ (l : Link) => { l with ideKeys := false }) d.cxl.links } }
    (allStacks.foldl (fun d s => if d.reg (STK_KEYSTAT.off s) = 0 then d else d.setReg (STK_KEYSTAT.off s) 0) d).reseed
  | 3 =>
    let d := { d with ras := { d.ras with flash := [], dumps := [] }, comp := { d.comp with snaps := [] } }
    d.onLcs fun l => { l with certs := Tbl.del l.certs 1 }
  | 4 => d.onLcs fun l => { l with devGone := true }
  | 5 => d.onLcs fun l => { l with udsGone := true, certHash := some (2 ^ 512 - 1), certs := Tbl.del l.certs 0 }
  | _ => d

/-- The wipes of a row, in order. -/
def JRow.wipeList (r : JRow) : List Nat :=
  ([1, 2, 3, 4].filter fun k => bit r.wipes (k - 1)) ++ (if r.target = 3 then [5] else [])

/-- One journal row pair at boot: a partial intent is voided, an uncommitted one rolled forward (R497). -/
def Dev.bootRow (d : Dev) (now i : Nat) : Dev :=
  match d.lcs.journal[i]? with
  | none => d
  | some r =>
    if !r.valid && !r.void then
      (d.onLcs fun l => { l with journal := modifyAt l.journal i fun r => { r with void := true } }).reportNow now 0x0904
        moduleUnit 0x00 .info [i]
    else if r.valid && !r.commit then
      let d := (r.wipeList).foldl Dev.wipeNo d
      let d := d.onLcs fun l => { l with journal := modifyAt l.journal i fun r => { r with commit := true } }
      (d.set LCS_JOURNAL.ROLLED 1).reportNow now 0x0903 moduleUnit 0x00 .info [i, r.target, r.wipes] true
    else d

/-- The ROM examines the journal. -/
def Dev.bootJournal (d : Dev) (now : Nat) : Dev := (List.range d.lcs.journal.length).foldl (fun d i => d.bootRow now i) d

/-! ### The checks on an image (R489, R507) -/

/-- Checks 2 to 5: the first that refuses a manifest. -/
def Dev.manifestBad (d : Dev) (m : Manifest) : Option Nat :=
  let st := d.lcs.state
  let owned := match d.lcs.bootOwner with | some o => o.hash == m.ownerHash | none => false
  if !m.wellFormed || decide (33554432 < m.total) || decide (m.svnB < m.floorB) || decide (63 < m.floorB) ||
      decide (m.svnR < m.floorR) || decide (63 < m.floorR) then some 2
  else if !m.dorsynOk || (m.devKey && (decide (2 ≤ st) || d.lcs.devGone)) then some 3
  else if d.lcs.bootReq && !(m.ownerSig && m.ownerOk && owned) then some 4
  else if m.svnB < d.fw.floorB ∨ m.svnR < d.fw.floorR then some 5
  else none

/-- All the checks on the image in flash. -/
def Dev.imageBad (d : Dev) : Option Nat :=
  if d.fw.imageState ≠ 2 then some 1
  else match d.manifestBad d.fw.image.man with
    | some c => some c
    | none => d.fw.image.bad

/-! ### Bring-up (R472, R502 to R505) -/

/-- Last step of Table 16-1 reached. -/
def Dev.atStep (d : Dev) (n : Nat) : Dev := (d.onFw fun f => { f with bootStep := n }).set MGT_BOOT_STATUS.STAGE n

/-- The isolation policy: the image's record, else the default (R472, R511). -/
def Dev.loadPolicy (d : Dev) : Dev :=
  let p := d.fw.ram.policy
  let dom := fun (d : Dev) (n : Nat) =>
    (d.setReg (LCS_POLICY_DOM_A.off n) (p.getD (2 * n) 0x1FFF)).setReg (LCS_POLICY_DOM_B.off n) (p.getD (2 * n + 1) 0xFFFFFFFF)
  let d := (List.range 16).foldl dom d
  (List.range 4).foldl (fun d q => d.setReg (LCS_POLICY_PORT.off q) (p.getD (32 + q) 0x7FD)) d

/-- Is a core to be excluded: the Almanac holds it FAILED, RETIRED or EXCLUDED (R465)? -/
def Dev.coreBad (d : Dev) (c : Nat) : Bool :=
  match (Tbl.look Health.new d.alm.units (coreUnit c)).mark with
  | some .failed | some .retired | some .excluded => true
  | _ => false

/-- The cores of a die pair after bring-up: the first 640 good ones in service, in Night; the others spares. -/
def Dev.bootCores (d : Dev) (dp : Nat) : Tbl Core :=
  let l := (List.range 672).map (dp * 672 + ·)
  let good := (l.filter fun c => !d.coreBad c).take 640
  l.filterMap fun c =>
    if d.coreBad c then some (c, { Core.reset with svc := .excluded, exclude := true })
    else if good.contains c then some (c, { Core.reset with svc := .idle }) else none

/-- A unit that fails its bring-up, retry and all (Table 16-3). -/
def Dev.unitBad (d : Dev) (now u : Nat) : Dev :=
  let i := u % 8192
  match u / 8192 with
  | 0 => d.almMark u .excluded
  | 2 => d.bridgeFails now i 2
  | 3 => (d.almMark u .excluded).fillSlots (i / 34)
  | 4 =>
    let d := d.almMark u .degraded
    (List.range 32).foldl (fun d j => d.set (STK_SLOT_MAP.STATE i j) 2) d
  | 5 => d.raise 0x0701 u 0 .degraded [0, Config.code 0x0701 3]
  | _ => d

/-- Logical channels whose private region can be used (R307). -/
def Dev.usableChans (d : Dev) : Nat := ((List.range 1024).filter fun l => !d.retired l).length

/-- The unit for which bring-up stops: a die pair, a second bridge, too few channels (Table 16-3). -/
def Dev.bootStopper (d : Dev) (bad : List Nat) : Option (Nat × Nat) :=
  match bad.find? fun u => u / 8192 == 6 with
  | some u => some (u, 6)
  | none =>
    match (bad.filter fun u => u / 8192 == 2).dedup with
    | _ :: u :: _ => some (u, 7)
    | _ => if d.usableChans < 752 then some (moduleUnit, 7) else none

/-- Boot stops: every package rail goes down, and 0x0916 and ALERT tell (R505). -/
def Dev.bootStop (d : Dev) (now unit step : Nat) : Dev :=
  let d := (d.onFw fun f => { f with stopped := true }).onPwr fun w => { w with pkg := .dark }
  (d.alert .bootStopped true).reportNow now 0x0916 moduleUnit 0x00 .fatal [unit, step]

/-- The device key slot of every stack, at cold boot (R481). -/
def Dev.loadDeviceKeys (d : Dev) : Dev :=
  let k := d.lcs.nextKey
  let load := fun (d : Dev) (s : Nat) =>
    (d.onStack s fun t => { t with keys := Tbl.put t.keys 16 (k + s) }).set (STK_KEYSTAT.DEV_VALID s) 1
  let d := allStacks.foldl load d
  d.onLcs fun l => { l with nextKey := k + 32 }

/-- Steps 6 to 8 of Table 16-1: rails, clocks, keys, memory pass 1, the Almanac's review, the policy. -/
def Dev.bringUp (d : Dev) (now : Nat) (bad : List Nat) : Dev :=
  let d := bad.foldl (fun d u => d.unitBad now u) d
  match d.bootStopper bad with
  | some (u, n) => d.bootStop now u n
  | none =>
    let d := (d.onPwr fun w => { w with pkg := .run }).set PWR_STATE_REQ.STATE 0
    let d := d.onLcs fun l => { l with drbgUp := true, drbgFails := 0 }
    let d := (((d.setReg CLK_STATUS.off 0x3FFFFFFFFFFFF).set MGT_STATUS.PKG_DOWN 0).reseed).newChallenge
    let d := if d.fw.cold then d.loadDeviceKeys else d
    let d := { d with core := diePairs.flatMap fun p => d.bootCores p }
    (d.loadPolicy).atStep 8

/-- The debug level after a package reset (R498), and what the DICE layers take in (R483). -/
def Dev.dice (d : Dev) : Dev :=
  let st := d.lcs.state
  let lv := if st = 0 ∨ st = 3 then 2 else 0
  d.onLcs fun l => { l with
    debug := lv, debugMax := lv, bootState := st, bootDebug := lv, bootOwner := l.owner.map (·.2), bootReq := l.ownerReq }

/-- What the running image shows in MGT_BOOT_STATUS. -/
def Dev.showImage (d : Dev) : Dev :=
  let m := d.fw.ram.man
  let owner := m.ownerSig && m.ownerOk && (match d.lcs.bootOwner with | some o => o.hash == m.ownerHash | none => false)
  (((d.set MGT_BOOT_STATUS.OWNER_SIG owner.toNat).set MGT_BOOT_STATUS.DEVKEY m.devKey.toNat).set MGT_BOOT_STATUS.SVN_B
    m.svnB).set MGT_BOOT_STATUS.SVN_R m.svnR

/-- An image that fails at a cold boot: recovery (R512). -/
def Dev.recover (d : Dev) (now check : Nat) : Dev :=
  let step := if check ≤ 5 then 4 else 5
  let d := (d.onFw fun f => { f with recovery := true, refused := 0, events := 0x0910 :: f.events }).onPwr fun w => { w with
    pkg := .dark }
  let d := (((d.atStep step).set MGT_STATUS.RECOVERY 1).alert .recovery true).alert .event true
  d.reportNow now 0x0910 moduleUnit 0x00 .info [step, check] true

/-- Steps 4 and 5 of a cold boot: journal, image, identity; held at step 5 while RESET_n is low (R535). -/
def Dev.romCold (d : Dev) (now : Nat) (bad : List Nat) : Dev :=
  let d := (d.bootJournal now).dice
  match d.imageBad with
  | some c => d.recover now c
  | none =>
    let d := ((d.onFw fun f => { f with ram := f.image }).showImage).atStep 5
    if d.mod.resetN then d.bringUp now bad else d

/-- May a cold boot start: from Dark or before the first one, nothing latched, the input between 48 and 58 V, or above 46 V
for WAKE_n (R502, R522, R534; If the input leaves its range)? -/
def Dev.mayBoot (d : Dev) (src : Nat) : Bool :=
  d.fw.bootStep == 0 && !d.mod.tripLatch && d.mod.inputOn &&
    (decide (48000 ≤ d.mod.vinMv) || (src == 4 && decide (46000 < d.mod.vinMv))) && decide (d.mod.vinMv ≤ 58000)

/-- A cold boot: PWR_EN rising (`src` 0), or a wake from Dark with PWR_EN high. -/
def Dev.coldBoot (d : Dev) (now src : Nat) (bad : List Nat) : Dev :=
  if !d.mayBoot src then d
  else
    let d := d.powerOff
    let d := d.onFw fun f => { f with bootAt := now, cold := true }
    let d := (d.set CLK_STATUS.OSC_OK 1).atStep 3
    (if src = 0 then d else d.lastWake src .dark).romCold now bad

/-- COLD_BOOT: PWR_EN rises, or an I3C wake command comes with PWR_EN high. -/
def execColdBoot (src : Nat) (bad : List Nat) (s : State) := s.run fun now d =>
  if src = 0 then (d.onMod fun m => { m with pwrEn := true, pwrEnLowAt := none }).coldBoot now 0 bad
  else if src = 9 ∧ d.mod.pwrEn then d.coldBoot now 9 bad
  else d

/-- The steps of a package reset from step 5: the ROM takes the image from flash, else the RAM copy (R508). -/
def Dev.pkgBoot (d : Dev) (now : Nat) (bad : List Nat) : Dev :=
  let d := (d.bootJournal now).dice
  let d := d.onFw fun f => { f with cold := false, bootAt := now }
  match d.imageBad with
  | none => ((d.onFw fun f => { f with ram := f.image }).showImage).bringUp now bad
  | some _ => ((d.showImage).set MGT_BOOT_STATUS.RAM_COPY 1).bringUp now bad

/-- MGT_LOCKDOWN: boot code releases the CXL PHYs and sets LOCK (R544, step 9). -/
def Dev.lockdown (d : Dev) : Dev :=
  if d.fw.bootStep ≠ 8 then d else ((d.set MGT_LOCKDOWN.LOCK 1).set MGT_STATUS.LOCKED 1).atStep 9

/-- MGT_LOCKDOWN. -/
def execMgtLockdown (s : State) := s.run fun _ d => d.lockdown

/-- Floors of the running image above the fused ones are fused (R515). -/
def Dev.fuseFloors (d : Dev) (now : Nat) : Dev :=
  let m := d.fw.ram.man
  let b := max d.fw.floorB m.floorB
  let r := max d.fw.floorR m.floorR
  if b = d.fw.floorB ∧ r = d.fw.floorR then d
  else (d.onFw fun f => { f with floorB := b, floorR := r }).reportNow now 0x0917 moduleUnit 0x00 .info [b, r]

/-- A channel that fails pass 2 gets a spare, with nothing to copy, or its slot is retired (R504). -/
def Dev.pass2Bad (d : Dev) (now l : Nat) : Dev :=
  let s := l / 32
  let j := l % 32
  if d.retired l then d
  else
    let old := d.physChan l
    let d := ((d.set (STK_CHAN_HEALTH.PSTATE s (old % 34)) 3).almEntry (chanUnit old) 0x0206).almMark (chanUnit old) .failed
    match d.spareChannel s with
    | some k =>
      let d := ((d.set (STK_SLOT_MAP.PHYS s j) k).set (STK_CHAN_HEALTH.PSTATE s k) 0).sat (STK_SPARE.CHANS s) 1
      (d.raise 0x0206 (chanUnit (s * 34 + k)) 0xFF .degraded [j, old, s * 34 + k, 0]).chansLeft s
    | none => (d.retireSlot now s j).raise 0x0207 (chanUnit old) 0xFF .contained [j, 0]

/-- The end of a cold boot: BOOT_MS, and the notice of the flash log's last SEV 4 record (R462, R517). -/
def Dev.coldDone (d : Dev) (now : Nat) : Dev :=
  let d := d.set MGT_BOOT_STATUS.BOOT_MS ((now - d.fw.bootAt) / 1000000)
  match d.ras.flash.find? fun r => r.sev == 4 with
  | some r => d.notify now (some r) []
  | none => d

/-- The end of a package reset: the second notice (R456, step 6). -/
def Dev.pkgDone (d : Dev) (now : Nat) : Dev :=
  let d := { d with ras := { d.ras with resets := [], powerCycle := false } }
  let d := d.alert .powerCycle false
  d.notify now none [d.reg RAS_RESET_STATUS.off, ((d.ras.dump).map (·.seq)).getD 0]

/-- MEMORY_PASS_2_DONE: every granule is scrubbed, the device tables are zero, and runtime firmware takes over (R504,
R502 steps 11 and 12); `bad` are the logical channels that fail. -/
def Dev.pass2Done (d : Dev) (now : Nat) (bad : List Nat) : Dev :=
  if d.fw.bootStep ≠ 9 then d
  else
    let d := { d with mem := [], lost := [], slice := [] }
    let d := (bad.filter (decide <| · < 1024)).foldl (fun d l => d.pass2Bad now l) d
    let d := { d with cxl := { d.cxl with memInfoValid := true } }
    let d := (List.range 4).foldl (fun d p => if d.flag (CXP_STATUS.READY p) then d.set (CXP_STATUS.MEM_ACTIVE p) 1 else d) d
    let d := ((d.atStep 12).set MGT_STATUS.READY 1).fuseFloors now
    if d.fw.cold then d.coldDone now else d.pkgDone now

/-- MEMORY_PASS_2_DONE. -/
def execMemoryPass2Done (bad : List Nat) (s : State) := s.run fun now d => d.pass2Done now bad

/-! ### Updating the image (R512 to R515) -/

/-- Answers of management that are no data: the model's own numbers for what the standards name. -/
inductive Answer where
  | busy | unspecified | notReady | inUpdate | unsupported | refused | done
  deriving DecidableEq, Repr

/-- Number of an answer. -/
def Answer.code : Answer → Nat
  | .busy => 0xE001 | .unspecified => 0xE002 | .notReady => 0xE003 | .inUpdate => 0xE004 | .unsupported => 0xE005
  | .refused => 0xE006 | .done => 0xE000

/-- Answer without data. -/
def Dev.say (d : Dev) (a : Answer) : Dev := d.reply a.code []

/-- May the mailbox of a port carry updates (R513)? -/
def Dev.mailboxOpen (d : Dev) (port : Nat) : Bool := bit (d.get (LCS_POLICY_PORT.WMASK port)) 1

/-- REQUEST_UPDATE: an update starts, or is answered busy (R514). -/
def Dev.requestUpdate (d : Dev) (now : Nat) (mailbox : Bool) (port : Nat) : Dev :=
  if mailbox && !d.mailboxOpen port then d.say .unsupported
  else if d.fw.update.isSome then d.say (if mailbox then .busy else .inUpdate)
  else if d.fw.bootStep < 4 then d.say .notReady
  else
    let u : Update := { port := if mailbox then some port else none, manifest := none, blocks := 0, lastAt := now }
    let d := (d.onFw fun f => { f with update := some u }).set MGT_FW_UPDATE.PATH (if mailbox then 2 else 1)
    ((d.set MGT_FW_UPDATE.PORT (if mailbox then port else 0)).set MGT_FW_UPDATE.PROGRESS 0).say .done

/-- A message over MCTP wakes the package (R413). -/
def Dev.mctp (d : Dev) (over_ : Bool) : Dev := if over_ then d.wakePkg 3 else d

/-- REQUEST_UPDATE. -/
def execRequestUpdate (mailbox : Bool) (port : Nat) (s : State) := s.run fun now d =>
  (d.mctp (!mailbox)).requestUpdate now mailbox port

/-- Does the update under way come over MCTP? -/
def Dev.pldmUpdate (d : Dev) : Bool := match d.fw.update with | some u => u.port.isNone | none => false

/-- PATH of an update. -/
def Update.path (u : Update) : Nat := if u.port.isSome then 2 else 1

/-- A refused image; in recovery it counts, with 0x0911. -/
def Dev.imageRefused (d : Dev) (now check : Nat) : Dev :=
  if d.fw.recovery then
    let d := d.onFw fun f => { f with refused := f.refused + 1 }
    d.reportNow now 0x0911 moduleUnit 0x00 .info [d.fw.refused, check] true
  else d

/-- UPDATE_COMPONENT: the manifest is checked; on success the header reads WRITING and the region is erased (R514). -/
def Dev.updateComponent (d : Dev) (now : Nat) (m : Manifest) : Dev :=
  match d.fw.update with
  | none => d
  | some u =>
    if u.manifest.isSome then d
    else match d.manifestBad m with
      | some c =>
        let d := (d.onFw fun f => { f with update := none }).set MGT_FW_UPDATE.CAUSE c
        ((d.imageRefused now c).reportNow now 0x0913 moduleUnit 0x00 .info [u.path, c]).say .refused
      | none =>
        (d.onFw fun f => { f with
          imageState := 1, update := some { u with manifest := some m, lastAt := now } }).say .done

/-- UPDATE_COMPONENT. -/
def execUpdateComponent (man : Manifest) (s : State) := s.run fun now d =>
  (d.mctp d.pldmUpdate).updateComponent now man

/-- An update fails at step 4 or 5: EMPTY and 0x0915. -/
def Dev.updateFails (d : Dev) (now : Nat) (u : Update) : Dev :=
  (d.onFw fun f => { f with imageState := 0, update := none }).reportNow now 0x0915 moduleUnit 0x01 .info [u.path, u.blocks] true

/-- A VALID image in flash after recovery: the boot resumes at step 4 (R512). -/
def Dev.recovered (d : Dev) (now : Nat) : Dev :=
  let m := d.fw.image.man
  let d := (((d.onFw fun f => { f with recovery := false }).set MGT_STATUS.RECOVERY 0).alert .recovery false)
  let d := (d.reportNow now 0x0912 moduleUnit 0x00 .info [m.svnB, m.svnR]).set MGT_BOOT_STATUS.RECOVERED 1
  d.romCold now []

/-- FW_BLOCK: 64 KiB arrive; after the last the image is checked and set VALID.  `bad` is the check, 6 or 7, that the
whole image then fails (0: none), `pol` its policy record (R514). -/
def Dev.fwBlock (d : Dev) (now bad : Nat) (pol : List Nat) : Dev :=
  match d.fw.update with
  | some ⟨port, some m, n, _⟩ =>
    let u : Update := { port := port, manifest := some m, blocks := n + 1, lastAt := now }
    let d := (d.onFw fun f => { f with update := some u }).set MGT_FW_UPDATE.PROGRESS (n + 1)
    if (n + 1) * 65536 < m.total then d
    else if bad = 6 ∨ bad = 7 then ((d.set MGT_FW_UPDATE.CAUSE bad).imageRefused now bad).updateFails now u
    else
      let d := d.onFw fun f => { f with imageState := 2, image := ⟨m, none, pol⟩, update := none }
      let d := (d.set MGT_FW_UPDATE.CAUSE 0).reportNow now 0x0914 moduleUnit 0x00 .info [u.path, m.svnB, m.svnR]
      if d.fw.recovery then d.recovered now else d
  | _ => d

/-- FW_BLOCK. -/
def execFwBlock (bad : Nat) (pol : List Nat) (s : State) := s.run fun now d =>
  (d.mctp d.pldmUpdate).fwBlock now bad pol

/-- UPDATE_FAILED: 60 s without a block. -/
def Dev.updateLate (d : Dev) (now : Nat) : Dev :=
  match d.fw.update with
  | some u => if u.manifest.isSome ∧ u.lastAt + 60 * second ≤ now then d.updateFails now u else d
  | none => d

/-- UPDATE_FAILED. -/
def execUpdateFailed (s : State) := s.run fun now d => d.updateLate now

/-- ACTIVATE_FIRMWARE: the image takes effect at the next reset; online activation is refused (R515). -/
def Dev.activateFw (d : Dev) (mailbox : Bool) (port : Nat) (online : Bool) : Dev :=
  if mailbox && !d.mailboxOpen port then d.say .unsupported
  else if mailbox && online then d.say .refused
  else if d.fw.bootStep < 4 then d.say .notReady
  else d.reply 0xE010 [1]

/-- ACTIVATE_FIRMWARE. -/
def execActivateFirmware (mailbox : Bool) (port : Nat) (online : Bool) (s : State) := s.run fun _ d =>
  (d.mctp (!mailbox)).activateFw mailbox port online

/-- GET_FW_INFO: one slot, with the versions of the running image (R513). -/
def execGetFwInfo (port : Nat) (s : State) := s.run fun _ d =>
  if d.mailboxOpen port then d.reply 0xE011 [1, d.fw.ram.man.svnB, d.fw.ram.man.svnR, d.fw.imageState] else d.say .unsupported

end Sys2Proof.Machine
end

