-- ==== Sys2Proof/Machine/Faults.lean ====
section
/-!
DEFINITION. The fault collector: fault rings, the holding buffer, FAULT_BLOCKED contexts and their unblocking (R195 to
R202), and the shedding of commands whose context stays blocked (R201, R376).
-/

namespace Sys2Proof.Machine

/-! ### The record (Table 6-8) -/

/-- The 32 bytes of a fault record with the PHASE of its place. -/
def FaultRec.encode (r : FaultRec) (phase : Bool) : BitVec 256 := BitVec.ofNat 256 (
  r.va % 2 ^ 56 + min r.count 255 * 2 ^ 56 + (r.ctx % 2 ^ 16) * 2 ^ 64 + (r.ast % 64) * 2 ^ 80 + (r.dom % 16) * 2 ^ 86 +
  (r.fcode % 2 ^ 16) * 2 ^ 96 + (r.unit % 2 ^ 16) * 2 ^ 112 + (r.acc % 16) * 2 ^ 128 + r.soft.toNat * 2 ^ 132 +
  r.pull.toNat * 2 ^ 133 + r.held.toNat * 2 ^ 134 + r.blocked.toNat * 2 ^ 135 + (r.stream % 256) * 2 ^ 136 +
  (r.epoch % 2 ^ 16) * 2 ^ 144 + (r.src % 2 ^ 16) * 2 ^ 160 + (r.queue % 2 ^ 18) * 2 ^ 192 + (r.slot % 2 ^ 16) * 2 ^ 224 +
  phase.toNat * 2 ^ 255)

/-- A kind of access that writes (R197). -/
def FaultRec.writes (r : FaultRec) : Bool := r.acc == 1 || r.acc == 2 || r.acc == 3 || r.acc == 6

/-- Does a new record merge into an entry that waits?  (R197) -/
def FaultRec.merges (new old : FaultRec) : Bool :=
  !new.blocked && !old.blocked && new.ring == old.ring && new.ast == old.ast && new.ctx == old.ctx &&
    new.fcode == old.fcode && new.soft == old.soft && new.writes == old.writes && new.va / 65536 == old.va / 65536

/-! ### Rings -/

/-- Does a function's ring have room?  A disabled ring counts as full (R196). -/
def Fn.room (f : Fn) : Bool := f.frEn && decide ((f.frTail + 2 ^ 32 - f.frHead) % 2 ^ 32 < 2 ^ f.frLog2n)

/-- Does the management fault ring have room?  (R202) -/
def Dev.mgtRoom (d : Dev) : Bool :=
  d.flag HIF_FAULTQ_BASE.EN && decide ((d.get HIF_FAULTQ_SIZE.TAIL + 2 ^ 17 - d.get HIF_FAULTQ_SIZE.HEAD) % 2 ^ 17 <
    2 ^ d.get HIF_FAULTQ_SIZE.LOG2N)

/-- Has the ring of a record room? -/
def Dev.ringRoom (d : Dev) (ring : Option Nat) : Bool :=
  match ring with
  | some f => (d.fn f).room
  | none => d.mgtRoom

/-- Write a record into its ring; a function's interrupt is raised at most once per µs (R197). -/
def Dev.ringPut (d : Dev) (now : Nat) (r : FaultRec) : Dev :=
  match r.ring with
  | none =>
    let t := d.get HIF_FAULTQ_SIZE.TAIL
    (d.onHif fun h => { h with mfr := Tbl.put h.mfr (t % 2 ^ d.get HIF_FAULTQ_SIZE.LOG2N) r }).set HIF_FAULTQ_SIZE.TAIL
      ((t + 1) % 2 ^ 17)
  | some f =>
    let k := d.fn f
    let d := d.onHif fun h => { h with fr := Tbl.put h.fr (cqKey f (k.frTail % 2 ^ k.frLog2n)) r }
    let d := d.onFn f fun k => { k with frTail := (k.frTail + 1) % 2 ^ 32 }
    if (match k.lastIntr with | some t => decide (t + 1000 ≤ now) | none => true) then
      (d.onFn f fun k => { k with lastIntr := some now }).interrupt f k.vector
    else d

/-! ### The holding buffer (R197 to R199, R202) -/

/-- A record that waits for the management ring: it takes shared entries only (R202). -/
def FaultRec.mgt (r : FaultRec) : Bool := r.ring.isNone

/-- Entries an asterism holds. -/
def heldOf (l : List FaultRec) (a : Nat) : Nat := (l.filter fun r => !r.mgt && r.ast == a).length

/-- Shared entries in use: those beyond an asterism's own four, and those of the management ring. -/
def sharedUsed (l : List FaultRec) : Nat :=
  (List.range 64).foldl (fun n a => n + (heldOf l a - 4)) (l.filter (·.mgt)).length

/-- May a record take an entry of the buffer?  (R198, R202) -/
def canHold (l : List FaultRec) (r : FaultRec) : Bool :=
  let free := decide (sharedUsed l < 256)
  if r.mgt then free
  else decide (heldOf l r.ast < 4) || (decide (heldOf l r.ast < 68) && free)

/-- The answer of a record's request, once the record is written or held. -/
def Dev.faultAnswer (d : Dev) (m : FaultMsg) : Dev :=
  match m.req with
  | some r => d.answer r m.status
  | none => d

/-- Merge a record into the entry it matches. -/
def mergeInto (r : FaultRec) : List FaultRec → List FaultRec
  | [] => []
  | x :: l => if r.merges x then { x with count := min (x.count + r.count) 255 } :: l else x :: mergeInto r l

/-- A context becomes FAULT_BLOCKED (R198). -/
def Dev.blockCtx (d : Dev) (ctx : Nat) : Dev :=
  (d.onCtx ctx fun c => { c with blocked := true }).onHif fun h =>
    { h with blockedQ := if h.blockedQ.contains ctx then h.blockedQ else h.blockedQ ++ [ctx] }

/-- A soft fault whose request is answered BLOCKED is to be reported again when the request comes back. -/
def Dev.unreport (d : Dev) (m : FaultMsg) : Dev :=
  match m.status, m.req with
  | .soft s k, some r => d.onStack s fun t => { t with pend := Tbl.adj t.pend k fun p => { p with
      reported := false, waiting := p.waiting.erase r } }
  | _, _ => d

/-- The share is full: one 0x030C an episode; a host-window record goes unwritten, any other request is answered BLOCKED
(R178, R198, R199). -/
def Dev.shareFull (d : Dev) (m : FaultMsg) : Dev :=
  let a := m.fr.ast
  let n := heldOf d.hif.hold a
  let d := if d.hif.episodes.contains a then d
    else (d.onHif fun h => { h with episodes := h.episodes ++ [a], nEpisodes := satAdd 16 h.nEpisodes 1 }).raise 0x030C
      (svcUnit (d.home a)) 0x00 .info [a, n] (some (a, m.fr.ctx))
  if m.fr.acc = 5 ∨ m.fr.acc = 6 then
    (d.onHif fun h => { h with hostDrop := satAdd 7 h.hostDrop 1 }).faultAnswer m
  else
    let d := (d.unreport m).blockCtx m.fr.ctx
    match m.req with
    | some r => d.answer r .blocked
    | none => d

/-- A record carries BLOCKED when it is the first of its context since it was unblocked (R200). -/
def Dev.markBlocked (d : Dev) (r : FaultRec) : Dev × FaultRec :=
  match Tbl.find d.hif.ctxs r.ctx with
  | some c =>
    if c.flagNext && !r.device && r.acc != 5 && r.acc != 6 then
      (d.onCtx r.ctx fun c => { c with flagNext := false }, { r with blocked := true })
    else (d, r)
  | none => (d, r)

/-- Is a record one that is discarded?  Those carrying PULL need PULLREC of their function (R196). -/
def Dev.discards (d : Dev) (r : FaultRec) : Bool :=
  r.pull && (match r.ring with | some f => !(d.fn f).pullRec | none => true)

/-- One record at the collector (R197 to R199); a record for the management ring that cannot be held pauses its agent. -/
def Dev.collect (d : Dev) (now : Nat) (m : FaultMsg) : Dev :=
  if d.discards m.fr then d.faultAnswer m
  else
    let (d', r) := d.markBlocked m.fr
    if d'.ringRoom r.ring && !d'.hif.hold.any fun x => x.ring == r.ring then (d'.ringPut now r).faultAnswer m
    else if d'.hif.hold.any fun x => r.merges x then
      (d'.onHif fun h => { h with hold := mergeInto r h.hold }).faultAnswer m
    else if canHold d'.hif.hold r then
      (d'.onHif fun h => { h with hold := h.hold ++ [{ r with held := true }] }).faultAnswer m
    else d.shareFull m

/-- Can the collector take a record now?  Only a record for the management ring may have to wait. -/
def Dev.takes (d : Dev) (m : FaultMsg) : Bool :=
  !m.fr.mgt || d.discards m.fr || (d.mgtRoom && !d.hif.hold.any (·.mgt)) || d.hif.hold.any (fun x => m.fr.merges x) ||
    canHold d.hif.hold m.fr

/-- FAULT_RECORD: the next record that can be taken reaches the collector. -/
def Dev.faultNext (d : Dev) (now : Nat) : Dev :=
  match takeFirst d.takes d.net.faults with
  | none => d
  | some (m, l) => (d.onNet fun n => { n with faults := l }).collect now m

/-- FAULT_RECORD. -/
def execFaultRecord (s : State) := s.run fun now d => d.faultNext now

/-! ### Draining (R196, R200, R202) -/

/-- Write the waiting records of a ring while it has room, in order of arrival; the fuel bounds their number. -/
def Dev.drainRing (now : Nat) (ring : Option Nat) : Nat → Dev → Dev
  | 0, d => d
  | n + 1, d =>
    if !d.ringRoom ring then d
    else match takeFirst (fun r : FaultRec => r.ring == ring) d.hif.hold with
    | none => d
    | some (r, l) => Dev.drainRing now ring n ((d.onHif fun h => { h with hold := l }).ringPut now r)

/-- Asterisms that hold 34 entries or fewer end their episode, and their blocked contexts are unblocked in the order
they were blocked, each with a notice (R199, R200). -/
def Dev.unblock (d : Dev) : Dev :=
  let low := fun a => decide (heldOf d.hif.hold a ≤ 34)
  let astOf := fun ctx => ((Tbl.find d.hif.ctxs ctx).map (·.ast)).getD 0
  let go := d.hif.blockedQ.filter fun c => low (astOf c)
  let d := d.onHif fun h => { h with
    episodes := h.episodes.filter fun a => !low a, blockedQ := h.blockedQ.filter fun c => !go.contains c }
  (go.foldl (fun d c => d.onCtx c fun k => { k with blocked := false, flagNext := true }) d).notes
    (go.map fun c => .unblock c)

/-- A ring drains, and what that sets free. -/
def Dev.drain (d : Dev) (now : Nat) (ring : Option Nat) : Dev := (Dev.drainRing now ring d.hif.hold.length d).unblock

/-- FAULT_HEAD_WRITE: the driver advances HEAD; a write that would pass TAIL is ignored (R196, R200). -/
def Dev.faultHead (d : Dev) (now f v : Nat) : Dev :=
  let k := d.fn f
  if (v + 2 ^ 32 - k.frHead) % 2 ^ 32 ≤ (k.frTail + 2 ^ 32 - k.frHead) % 2 ^ 32 then
    (d.onFn f fun k => { k with frHead := v % 2 ^ 32 }).drain now (some f)
  else d

/-- FAULT_HEAD_WRITE. -/
def execFaultHeadWrite (f v : Nat) (s : State) := s.run fun now d => d.faultHead now f v

/-- FAULT_BASE_WRITE: the driver writes FAULT_BASE, and before it FAULT_CFG where `cfg` gives its word (Table 10-4). -/
def Dev.faultBase (d : Dev) (now f : Nat) (v : Word) (cfg : Option Word) : Dev :=
  let d := match cfg with
    | some w => d.onFn f fun k => { k with frLog2n := bits w.toNat 0 5, vector := bits w.toNat 16 11 }
    | none => d
  (d.onFn f fun k => { k with
    frEn := bit v.toNat 0, pullRec := bit v.toNat 1, frBase := v.toNat / 64 }).drain now (some f)

/-- FAULT_BASE_WRITE. -/
def execFaultBaseWrite (f : Nat) (v : Word) (cfg : Option Word) (s : State) := s.run fun now d => d.faultBase now f v cfg

/-- A HEAD write of the management fault ring: one that would pass TAIL is ignored. -/
def Dev.mgtHead (d : Dev) (now v : Nat) : Dev :=
  let h := d.get HIF_FAULTQ_SIZE.HEAD
  if (v + 2 ^ 17 - h) % 2 ^ 17 ≤ (d.get HIF_FAULTQ_SIZE.TAIL + 2 ^ 17 - h) % 2 ^ 17 then
    (d.set HIF_FAULTQ_SIZE.HEAD v).drain now none
  else d

/-- HIF_FAULTQ_HEAD_WRITE. -/
def execHifFaultqHeadWrite (path v : Nat) (s : State) := s.run fun now d =>
  d.writeThrough now path HIF_FAULTQ_SIZE.off fun d => d.mgtHead now (v % 2 ^ 17)

/-- HIF_FAULTQ_ENABLE: a write of HIF_FAULTQ_BASE that sets EN lets held records drain. -/
def Dev.mgtEnable (d : Dev) (now path : Nat) (v : Word) : Dev :=
  d.writeThrough now path HIF_FAULTQ_BASE.off fun d =>
    if bit v.toNat 0 then
      ((d.set HIF_FAULTQ_BASE.BASE (v.toNat / 64)).set HIF_FAULTQ_BASE.EN 1).drain now none
    else d

/-- HIF_FAULTQ_ENABLE. -/
def execHifFaultqEnable (path : Nat) (v : Word) (s : State) := s.run fun now d => d.mgtEnable now path v

/-! ### Blocked contexts (R201, R376) -/

/-- Can a blocked command's undispatched tiles no longer end by its deadline?  (now + S_c > deadline) -/
def Cmd.tooLate (m : Cmd) (now : Nat) : Bool :=
  m.onCores && decide (0 < m.toGo) && decide (m.deadline < now + ceilDiv (spanUnits m.toGo m.resv.conc
    (tileUnits m.resv.acc m.resv.fMhz)) unitsPerNs)

/-- FAULT_QUEUE_CHECK: commands of blocked contexts that can no longer meet their deadline are shed, one 0x0507 for each
home die pair concerned. -/
def Dev.faultQueueCheck (d : Dev) (now : Nat) : Dev :=
  let due := d.committed.filter fun e => e.2.tooLate now &&
    (match Tbl.find d.hif.ctxs e.2.ctx with | some c => c.blocked | none => false)
  diePairs.foldl (fun d p =>
    let l := due.filter fun e => d.home e.2.ast == p
    if l.isEmpty then d
    else ((l.foldl (fun d e => d.shed e.1 .faultQueue) d).sat ADM_STATUS.SHED_EPISODES 1).raise 0x0507 (svcUnit p) 0
      .degraded [svcUnit p, Reason.faultQueue.code, l.length]) d

/-- FAULT_QUEUE_CHECK. -/
def execFaultQueueCheck (s : State) := s.run fun now d => d.faultQueueCheck now

end Sys2Proof.Machine
end

