-- ==== Sys2Proof/Machine/Recovery.lean ====
section
/-!
DEFINITION. The stall-cycle detector (R447 to R450), the reset levels above a core (R451 to R457) and the crash dump
(R458 to R461).
-/

namespace Sys2Proof.Machine

/-! ### The stall-cycle detector -/

/-- A parked queue (R447): its command in flight, the queue, the event waited on, and since when. -/
structure Parked where
  id : Nat
  queue : Nat
  event : Nat
  ctx : Nat
  ast : Nat
  since : Nat
  /-- Queues it points to. -/
  to_ : List Nat
  deriving DecidableEq, Repr

/-- Fetched commands near a queue's head that the detector looks at. -/
def hangDepth : Nat := 64

/-- Does a SIGNAL naming an event stand among the commands that a queue has fetched? -/
def Queue.signals (k : Queue) (e : Nat) : Bool :=
  (k.fetched.take hangDepth).any fun f => hOp f.slot == 4 && fld f.slot 0x10 0 20 == e

/-- Queues of an asterism that a wait on an event points to: those of a semaphore's holders, or those with a SIGNAL still to
be admitted for a counter. -/
def Dev.pointsTo (d : Dev) (a e : Nat) : List Nat :=
  match Tbl.find d.hif.events e with
  | none => []
  | some v =>
    (d.hif.queues.filter fun q => d.queueAst q.2 == some a &&
      (if v.sem then v.holders.contains q.2.ctx else q.2.signals e)).map (·.1)

/-- The parked queues: those whose WAIT or ACQUIRE has waited for at least PERIOD_MS. -/
def Dev.parked (d : Dev) (now : Nat) : List Parked :=
  (d.hif.cmds.filter fun c => c.2.phase == .parked && (hOp c.2.slot == 5 || hOp c.2.slot == 6) &&
    decide (c.2.acceptAt + d.get RAS_HANG_CTRL.PERIOD_MS * 1000000 ≤ now)).map fun c =>
    let e := fld c.2.slot 0x10 0 20
    { id := c.1, queue := c.2.queue, event := e, ctx := c.2.ctx, ast := c.2.ast, since := c.2.acceptAt
      to_ := d.pointsTo c.2.ast e }

/-- Does an admitted command short of its completion point name an event: by its own effect or as its completion event? -/
def Dev.eventNamed (d : Dev) (e : Nat) : Bool :=
  d.hif.cmds.any fun c => c.2.phase != .parked && c.2.phase != .over &&
    (hEvent c.2.slot == e || ((hOp c.2.slot == 4 || hOp c.2.slot == 7) && fld c.2.slot 0x10 0 20 == e))

/-- Keep the parked queues that point only to kept ones. -/
def pruneParked : Nat → List Parked → List Parked
  | 0, l => l
  | n + 1, l => pruneParked n (l.filter fun p => !p.to_.isEmpty && p.to_.all fun q => l.any fun x => x.queue == q)

/-- Queues reached from some, among the kept ones. -/
def reachQueues (l : List Parked) : Nat → List Nat → List Nat
  | 0, s => s
  | n + 1, s => reachQueues l n ((s ++ (l.filter fun p => s.contains p.queue).flatMap (·.to_)).dedup)

/-- Queues reached from one queue. -/
def deadFrom (l : List Parked) (q : Nat) : List Nat :=
  let r := reachQueues l l.length [q]
  (l.filter fun p => r.contains p.queue).map (·.queue)

/-- The deadlocked sets that hold no smaller one, each as its queues (R448). -/
def Dev.deadSets (d : Dev) (now : Nat) : List (List Nat) :=
  let all := (d.parked now).filter fun p => !d.eventNamed p.event
  let l := pruneParked all.length all
  let sets := (l.map fun p => deadFrom l p.queue).filter fun s => s.all fun q => (deadFrom l q).length == s.length
  sets.dedup

/-- The parked command of a set whose wait began latest. -/
def latestOf (l : List Parked) (set : List Nat) : Option Parked :=
  (l.filter fun p => set.contains p.queue).foldl (fun best p => match best with
    | some b => if b.since < p.since then some p else some b
    | none => some p) none

/-- One deadlocked set: 0x0A01, and with ACTION 1 its latest wait is broken (R449). -/
def Dev.deadSet (d : Dev) (now : Nat) (l : List Parked) (set : List Nat) : Dev :=
  match latestOf l set with
  | none => d
  | some p =>
    let act := d.flag RAS_HANG_CTRL.ACTION
    if !act && d.ras.sets.contains set then d
    else
      let d := (d.sat RAS_HANG_STATUS.SETS 1).raise 0x0A01 (svcUnit (d.home p.ast)) 0x00 (if act then .contained else .info)
        (p.ast :: listItem 32 set ++ [p.queue]) (some (p.ast, p.ctx))
      if act then
        ((d.sat RAS_HANG_STATUS.BROKEN 1).onCmd p.id fun m => { m with err := 0x0A01 }).unpark now p.id .aborted true
          |>.afterHead now p.queue
      else d

/-- HANG_CYCLE: one pass of the detector. -/
def Dev.hangCycle (d : Dev) (now : Nat) : Dev :=
  if !d.flag RAS_HANG_CTRL.EN then d
  else
    let l := d.parked now
    let sets := d.deadSets now
    let d := sets.foldl (fun d s => d.deadSet now l s) d
    { d with ras := { d.ras with sets := sets } }

/-- HANG_CYCLE. -/
def execHangCycle (s : State) := s.run fun now d => d.hangCycle now

/-- HANG_NO_PROGRESS: a parked queue that points nowhere has waited NOPROG_MS (R450). -/
def Dev.noProgress (d : Dev) (now q : Nat) : Dev :=
  match (d.parked now).find? fun p => p.queue == q with
  | none => d
  | some p =>
    if !d.flag RAS_HANG_CTRL.EN || !p.to_.isEmpty || d.ras.noProg.contains p.id ||
        decide (now < p.since + d.get RAS_HANG_CTRL.NOPROG_MS * 1000000) then d
    else
      let d := { d with ras := { d.ras with
        noProg := p.id :: d.ras.noProg.filter fun i => (Tbl.find d.hif.cmds i).isSome } }
      (d.sat RAS_HANG_STATUS.NOPROG 1).raise 0x0A02 (svcUnit (d.home p.ast)) 0x00 .info [q, p.event] (some (p.ast, p.ctx))

/-- HANG_NO_PROGRESS. -/
def execHangNoProgress (q : Nat) (s : State) := s.run fun now d => d.noProgress now q

/-! ### Resets that wait -/

/-- The reset of a level and unit that has been triggered. -/
def Dev.resetOf (d : Dev) (level unit : Nat) : Option ResetRun := d.ras.resets.find? fun r => r.level == level && r.unit == unit

/-- A reset of level 2 to 4 is over: it leaves the list, and RAS_RESET_STATUS tells of it. -/
def Dev.resetOver (d : Dev) (r : ResetRun) : Dev :=
  ({ d with ras := { d.ras with resets := d.ras.resets.filter (· != r) } }).resetStatus r.level r.cause

/-- Bound of a level, ns (Table 14-3). -/
def resetBound (level : Nat) : Nat :=
  if level = 2 then 20000000 else if level = 3 then 5000000 else if level = 4 then 50000000 else 4000000000

/-- The unit identifier of what a reset resets. -/
def Dev.resetUnit (d : Dev) (r : ResetRun) : Nat :=
  if r.level = 2 then stackUnit r.unit else if r.level = 3 then svcUnit r.unit else if r.level = 4 then svcUnit (d.home r.unit)
  else r.unit

/-- The error code of a reset's own record. -/
def ResetRun.code (r : ResetRun) : Nat :=
  if r.level = 2 then 0x0A08 else if r.level = 3 then 0x0A09 else if r.level = 4 then 0x0A04 else 0x0A05

/-- A reset of level 2 to 4 that misses its bound becomes a package reset (Table 14-3). -/
def Dev.resetsLate (d : Dev) (now : Nat) : Dev :=
  match d.ras.resets.find? fun r => r.level != 5 && decide (r.at_ + resetBound r.level < now) with
  | some r => d.requestReset now 5 (d.resetUnit r) r.code
  | none => d

/-! ### The dump -/

/-- The dump engine writes a dump, or skips it while one is held; its size is as large as its sections need.  `level` as
RAS_RESET_CTRL codes it. -/
def Dev.dump (d : Dev) (now level cause unit ast : Nat) : Dev :=
  if d.flag RAS_DUMP_BASE.VALID then d.reportNow now 0x0A0A moduleUnit 0x00 .info [level, 0]
  else
    let (v, d) := d.draw .choice
    let pages := v % 65536 + 1
    let h : DumpHdr := { level := level, cause := cause, unit := unit, ast := ast, seq := d.ras.seq, pages := pages
                         at_ := d.ticks }
    let d := { d with ras := { d.ras with dump := some h, dumps := h :: d.ras.dumps } }
    let d := (d.set RAS_DUMP_BASE.VALID 1).set RAS_DUMP_BASE.PAGES pages
    Dev.flashTrim 1024 (d.reportNow now 0x0A0A moduleUnit 0x00 .info [level, pages])

/-- A write of RAS_RESET_CTRL: ignored while a reset of level 2 or above runs; a dump first, then the reset.  A unit of
another kind than the level's, or one that is not in service, is not reset. -/
def Dev.resetCtrl (d : Dev) (now v : Nat) : Dev :=
  let level := bits v 0 3
  let u := bits v 16 16
  let i := u % 8192
  let a := bits v 32 6
  if !d.ras.resets.isEmpty then d
  else
    let d := if bit v 3 then d.dump now level 0 (if level = 4 then svcUnit (d.home a) else u) (if level = 4 then a else 0) else d
    match level with
    | 1 => if u / 8192 = 0 ∧ i < 5376 ∧ (d.coreAt i).inService then d.fenceCore now i .resetCtrl .fence 0x0106 else d
    | 2 => if u / 8192 = 4 ∧ i < 32 then d.requestReset now 2 i 0 else d
    | 3 => if u / 8192 = 6 ∧ i < 8 then d.requestReset now 3 i 0 else d
    | 4 => if (d.ast a).state.hosts then d.requestReset now 4 a 0 else d
    | 5 => d.requestReset now 5 moduleUnit 0
    | _ => d

/-- DUMP: RAS_RESET_CTRL is written through a path. -/
def execDump (path : Nat) (value : Word) (s : State) := s.run fun now d =>
  d.writeThrough now path RAS_RESET_CTRL.off fun d => d.resetCtrl now value.toNat

/-- The held dump is released. -/
def Dev.dumpRelease (d : Dev) : Dev :=
  (({ d with ras := { d.ras with dump := none } }).set RAS_DUMP_BASE.VALID 0).set RAS_DUMP_BASE.PAGES 0

/-- DUMP_RELEASE: 1 is written to VALID. -/
def execDumpRelease (path : Nat) (s : State) := s.run fun now d =>
  d.writeThrough now path RAS_DUMP_BASE.off fun d => d.dumpRelease

/-! ### Stack logic die reset (R453) -/

/-- Commands whose requests are inside a stack's logic die end FENCED: tiles by their requests, an UNMAP by its
write-backs. -/
def Dev.fenceInside (d : Dev) (now s : Nat) : Dev :=
  let t := d.stack s
  let inside := t.walks.map (·.req) ++ t.biWait
  let cores := (d.core.filter fun c => inside.any fun r => r.ofCore c.1).map (·.1)
  let d := cores.foldl (fun d c => d.abortTile now c .poison 0x0A08) d
  let wb := (d.cxl.pool.filterMap fun p => match p.why with
    | .writeBack c _ _ => if p.stack = s then some c else none
    | _ => none).dedup
  let d := { d with cxl := { d.cxl with pool := d.cxl.pool.filter fun p => p.stack != s } }
  wb.foldl (fun d c => ((d.onCmd c fun m => { m with err := 0x0A08 }).finish now c .fenced).after now) d

/-- Sweep jobs with a participant at a stack end as R227 sets, without faulting their contexts. -/
def Dev.sweepsEnd (d : Dev) (now s : Nat) : Dev :=
  let jobs := (d.sweeps.filter fun j => j.2.parts.any fun p => p.stack == s).map (·.1)
  jobs.foldl (fun d j =>
    (((d.endSweep j).onCmd j fun m => { m with err := 0x0A08 }).finish now j .fenced).after now) d

/-- What the restart of a logic die clears; its DRAM, tables, slot map, keys, repairs and counters stay. -/
def Stack.reboot (t : Stack) : Stack := { t with
  cache := [], walks := [], pend := [], closed := [], biWait := [], acts := [], ingress := true }

/-- STACK_RESET: the reset that has been triggered for a stack runs and completes. -/
def Dev.stackReset (d : Dev) (now s : Nat) : Dev :=
  match d.resetOf 2 s with
  | none => d
  | some r =>
    let d := ((d.fenceInside now s).sweepsEnd now s).onStack s Stack.reboot
    ((d.notes [.reset s]).resetOver r).raise 0x0A08 (stackUnit s) 0x02 .contained [s, r.cause]

/-- STACK_RESET. -/
def execStackReset (st : Nat) (s : State) := s.run fun now d => d.stackReset now st

/-! ### Die-pair service reset (R454) -/

/-- A core of a die pair is fenced, its tile aborted by the fence row, and the core reset; a core that a SPARE_SWAP is
fencing goes on to its substitute. -/
def Dev.serviceCore (d : Dev) (now c : Nat) : Dev :=
  let k := d.coreAt c
  if !k.inService then d
  else if k.resetAt.isSome && k.resetCause == .sparSwap then d.resetDone c
  else (d.startReset now c .service .fence 0x0A09).resetDone c

/-- SERVICE_RESET. -/
def Dev.serviceReset (d : Dev) (now dp : Nat) : Dev :=
  match d.resetOf 3 dp with
  | none => d
  | some r =>
    let l := (List.range 672).map (dp * 672 + ·)
    let n := (l.filter fun c => (d.coreAt c).tile.isSome).length
    let d := l.foldl (fun d c => d.serviceCore now c) d
    (d.resetOver r).raise 0x0A09 (svcUnit dp) 0x00 .contained [dp, r.cause, n]

/-- SERVICE_RESET. -/
def execServiceReset (d : Nat) (s : State) := s.run fun now x => x.serviceReset now d

/-! ### Asterism reset (R455) -/

/-- Step 1: RESETTING, fetch stopped, TDIs in ERROR. -/
def Dev.astResetting (d : Dev) (a : Nat) : Dev :=
  let d := (d.functions a).foldl (fun d f => d.onFn f fun n => { n with tdi := .error }) d
  d.onAst a fun x => { x with state := .resetting }

/-- Step 2: every core with a tile of the asterism is fenced and reset, without replay. -/
def Dev.astCores (d : Dev) (now a : Nat) : Dev :=
  let l := (d.core.filter fun e => match e.2.tile with | some t => t.own.ast == a | none => false).map (·.1)
  l.foldl (fun d c => (d.startReset now c .recovery .revoked 0x0A04).resetDone c) d

/-- Step 3: one context is revoked; the invalidation of step 4 stands for that of its tag, which is listed for purging.
`p.2` gives the slots posted and not fetched, in order. -/
def Dev.astCtx (now a : Nat) (p : Dev × List Line) (x : Nat) : Dev × List Line :=
  let d := p.1
  let n := (d.hif.queues.filter fun e => e.2.ctx == x).foldl (fun n e => n + (e.2.tail + 2 ^ 32 - e.2.head) % 2 ^ 32) 0
  let going : Bool := match Tbl.find d.hif.ctxs x with | some c => c.state == .revoking | none => false
  let d := if going then d else d.revokeCtx now x none none none p.2
  let d := (d.stacksOf a).foldl (fun d s => d.listTag s a x) d
  let d := d.onCtx x fun c => { c with revoke := c.revoke.map fun r => { r with inval := none, step5 := true } }
  (d.revokeGoOn now x, p.2.drop n)

/-- Step 4: the holding buffer's entries go, and an invalidation of SCOPE 2 runs. -/
def Dev.astFaults (d : Dev) (now a : Nat) : Dev :=
  let d := ((d.net.invals.filter fun v => v.ast == a)).foldl (fun d v => d.invalOver now v []) d
  let d := { d with stk := Tbl.mapV (fun _ (t : Stack) => { t with cache := t.cache.filter fun e => e.2.ast != a }) d.stk }
  (d.onHif fun h => { h with hold := h.hold.filter fun r => r.device || r.ast != a }).unblock

/-- Step 5: QUIESCED, a waiting QUIESCE completed, 0x0A04 with its notice, and a dump with ASTDUMP. -/
def Dev.astResetDone (d : Dev) (now a n : Nat) (r : ResetRun) : Dev :=
  let q := (d.ast a).quiesce
  let d := if (d.ast a).state = .resetting then d.onAst a fun x => { x with state := .quiesced, quiesce := none } else d
  let d := match q with | some (k, _) => d.mgtDone now k .completed | none => d
  let d := ((d.resetOver r).sat RAS_RESET_STATUS.AST_RESETS 1).reportNow now 0x0A04 moduleUnit 0x00 .contained [a, r.cause, n]
    false (some (a, 0))
  let d := if d.flag RAS_DUMP_BASE.ASTDUMP then d.dump now 4 r.cause (svcUnit (d.home a)) a else d
  d.after now

/-- ASTERISM_RESET: while a publication of the asterism has passed its checks the reset goes no further than step 1. -/
def Dev.astReset (d : Dev) (now a : Nat) (rest : List Line) : Dev :=
  match d.resetOf 4 a with
  | none => d
  | some r =>
    if !(d.ast a).state.hosts && (d.ast a).state != .resetting then d.resetOver r
    else
      let d := d.astResetting a
      if d.comp.waiting.any fun p => p.ast == a then d
      else
        let d := d.astCores now a
        let l := (d.hif.ctxs.filter fun e => e.2.ast == a).map (·.1)
        let d := (l.foldl (fun p x => Dev.astCtx now a p x) (d, rest)).1
        (d.astFaults now a).astResetDone now a l.length r

/-- ASTERISM_RESET; `rest` gives the slots posted to the asterism's contexts and not fetched. -/
def execAsterismReset (a : Nat) (rest : List Line) (s : State) := s.run fun now d => d.astReset now a rest

/-! ### Package reset and power cycle (R456, R457, R526, R535) -/

/-- A package reset's step is noted. -/
def Dev.pkgStep (d : Dev) (n : Nat) : Dev :=
  { d with ras := { d.ras with resets := d.ras.resets.map fun r => if r.level = 5 then { r with step := n } else r } }

/-- Step 5: the package comes up again. -/
def Dev.pkgUp (d : Dev) (now : Nat) (bad : List Nat) : Dev := (d.pkgStep 5).pkgBoot now bad

/-- Can the package be reset: PWR_EN high, nothing latched, past its boot's ROM steps (R534)? -/
def Dev.mayReset (d : Dev) : Bool :=
  d.mod.pwrEn && !d.mod.tripLatch && decide (6 ≤ d.fw.bootStep) && d.pwr.pkg != Pwr.dark

/-- Steps 1 to 5, as far as RESET_n allows. -/
def Dev.pkgRun (d : Dev) (now : Nat) (bad : List Nat) : Dev :=
  match d.ras.resets.find? fun r => r.level == 5 && r.step == 0 with
  | none => d
  | some r =>
    let d := d.reportNow now 0x0A05 moduleUnit 0x00 .fatal [r.cause, r.unit]
    let d := if d.flag RAS_DUMP_BASE.EN then d.dump now 5 r.cause r.unit 0 else d
    let d := (((d.sat RAS_RESET_STATUS.PKG_RESETS 1).pkgClear false).resetStatus 5 r.cause).pkgStep 4
    let d := d.atStep 5
    if d.mod.resetN then d.pkgUp now bad else d

/-- PACKAGE_RESET: RESET_n falls (`low`), or a reset that has been triggered starts. -/
def Dev.pkgReset (d : Dev) (now : Nat) (low : Bool) (bad : List Nat) : Dev :=
  let d := if low then d.onMod fun m => { m with resetN := false } else d
  if !d.mayReset then d
  else (if low then d.requestReset now 5 moduleUnit 0 else d).pkgRun now bad

/-- PACKAGE_RESET; `bad` gives the units that fail their bring-up, retry and all. -/
def execPackageReset (low : Bool) (bad : List Nat) (s : State) := s.run fun now d => d.pkgReset now low bad

/-- POWER_CYCLE_REQUEST: a package reset is not done at 4 s. -/
def Dev.wantPowerCycle (d : Dev) (now : Nat) : Dev :=
  match d.ras.resets.find? fun r => r.level == 5 with
  | some r =>
    if now < r.at_ + resetBound 5 ∨ d.ras.powerCycle then d
    else
      let d := ({ d with ras := { d.ras with powerCycle := true } }).alert .powerCycle true
      d.reportNow now 0x0A06 moduleUnit 0x00 .fatal [r.step]
  | none => d

/-- POWER_CYCLE_REQUEST. -/
def execPowerCycleRequest (s : State) := s.run fun now d => d.wantPowerCycle now

end Sys2Proof.Machine
end

