-- ==== Sys2Proof/Machine/Almanac.lean ====
section
/-!
DEFINITION. The Almanac: the ageing monitors (R416, R464), retirement (R465), the projections and the module's prediction
(R466 to R468), and its writing to flash (R463).
-/

namespace Sys2Proof.Machine

/-- Change the Almanac. -/
def Dev.onAlm (d : Dev) (f : Alm → Alm) : Dev := { d with alm := f d.alm }

/-! ### Stress hours (R464) -/

/-- 2^(k/10) for k from 0 to 9, in units of 10^−12. -/
def tenthPowers : List Nat :=
  [1000000000000, 1071773462536, 1148698354997, 1231144413345, 1319507910773, 1414213562373, 1515716566510,
    1624504792713, 1741101126592, 1866065983074]

/-- Growth of stress hours in one second at a junction temperature (°C) and a core-rail setting (mV), in units of
10^−9 h: A × Δt, rounded down. -/
def stressOf (tj mv : Nat) : Nat :=
  let t : Int := (tj : Int) - 85
  let e := t.fdiv 10
  let m := tenthPowers.getD (t.fmod 10).toNat 0
  m * mv ^ 6 * 2 ^ e.toNat * 1000000000 / (800 ^ 6 * 3600 * 1000000000000 * 2 ^ (-e).toNat)

/-- Present core-rail setting of a die pair. -/
def Dev.railMv (d : Dev) (dp : Nat) : Nat := d.get (PWR_OPP_TABLE.VSET (8 * dp + (d.pmu dp).op))

/-- A second in Run adds to a die pair's stress hours. -/
def Dev.addStress (d : Dev) (dp : Nat) : Dev :=
  if d.pwr.pkg = .run ∧ (d.pmu dp).pwr = .run then
    let x := stressOf (d.pmu dp).tj (d.railMv dp)
    d.onAlm fun m => { m with stress := modifyAt m.stress dp (· + x) }
  else d

/-! ### AGE (R416) -/

/-- Points of a die pair that a change has made unavailable are recorded. -/
def Dev.pointsLost (d old : Dev) (dp age : Nat) : Dev :=
  ((List.range 8).filter fun k => old.opAvail dp k && !d.opAvail dp k).foldl (fun d k =>
    d.raise 0x0807 moduleUnit 0x00 .degraded [dp, k, age]) d

/-- A margin report at the highest available point: AGE rises by 5 mV; at 60 mV that point becomes unavailable instead. -/
def Dev.marginLow (d : Dev) (dp : Nat) : Dev :=
  let age := d.alm.age.getD dp 0
  if 60 ≤ age then
    (d.set (PWR_OPP_TABLE.AVAIL (8 * dp + d.topOp dp 7)) 0).pointsLost d dp age
  else
    let n := age + 5
    let new := (d.onAlm fun m => { m with age := modifyAt m.age dp fun _ => n }).loadAge dp
    (new.raise 0x0A0F moduleUnit 0x00 .info [dp, n, d.alm.stress.getD dp 0 / 1000000000]).pointsLost d dp n

/-! ### Retirement (Table 14-8) -/

/-- The spare that a swap of a unit takes. -/
def Dev.spareFor (d : Dev) (u : Nat) : Nat :=
  let i := u % 8192
  if u / 8192 = 0 then ((d.spareCore (coreDp i)).map coreUnit).getD 0 else ((d.spareSlice (i / 68)).map (unitId 1)).getD 0

/-- Is a unit marked already, or being swapped? -/
def Dev.judged (d : Dev) (u : Nat) : Bool :=
  (Tbl.look Health.new d.alm.units u).mark.isSome ||
    d.comp.swaps.any fun w => w.unit == u % 8192 && w.slice == (u / 8192 == 1)

/-- A core or slice is retired by its route, or only recommended for it. -/
def Dev.retireUnit (d : Dev) (now u monitor : Nat) : Dev :=
  if d.judged u then d
  else
    let n := Config.code 0x0A0E monitor
    if d.flag ALM_CTRL.AUTO_RETIRE && d.swappable u then
      (d.raise 0x0A0E moduleUnit 0x00 .contained [u, n, d.spareFor u]).swapUnit now u true none
    else (d.almMark u .watch).raise 0x0A0E moduleUnit 0x00 .info [u, n, d.spareFor u]

/-- Units of a die pair whose errors have reached their limit. -/
def Dev.erring (d : Dev) (dp : Nat) : List Nat :=
  (d.alm.units.filter fun e =>
    (e.1 / 8192 == 0 && coreDp e.1 == dp && decide (d.get ALM_CTRL.CORE_UE_LIMIT ≤ e.2.day)) ||
    (e.1 / 8192 == 1 && e.1 % 8192 / 68 == dp && (e.2.ue || decide (d.get ALM_CTRL.SLICE_CE_LIMIT ≤ e.2.day)))).map (·.1)

/-- ALMANAC_MONITOR_READ: one second's reading for a die pair.  `margin`: the monitors report a margin below their
threshold at the highest available point; `cores`: physical cores whose path-delay margin is below zero at the present
point. -/
def Dev.monitorRead (d : Dev) (now dp : Nat) (margin : Bool) (cores : List Nat) : Dev :=
  if (d.pmu dp).pwr ≠ .run ∨ d.pwr.pkg ≠ .run then d
  else
    let slow := if 60 ≤ d.alm.age.getD dp 0 then cores.filter fun c => decide (c < 5376) && coreDp c == dp else []
    let d := d.addStress dp
    let d := if margin then d.marginLow dp else d
    let d := slow.foldl (fun d c => d.retireUnit now (coreUnit c) 0) d
    ((d.erring dp).foldl (fun d u => d.retireUnit now u (1 + u / 8192)) d)

/-- ALMANAC_MONITOR_READ. -/
def execAlmanacMonitorRead (d : Nat) (margin : Bool) (cores : List Nat) (s : State) := s.run fun now x =>
  x.monitorRead now d margin cores

/-! ### Projections (R467) -/

/-- Spare cores of a die pair. -/
def Dev.coresLeft (d : Dev) (dp : Nat) : Nat :=
  (((List.range 672).map (dp * 672 + ·)).filter fun c => (d.coreAt c).svc == .spare).length
/-- Spare slices of a die pair. -/
def Dev.sparesOfSlices (d : Dev) (dp : Nat) : Nat :=
  (((List.range 68).map (dp * 68 + ·)).filter fun k => !d.sliceServes k && !d.comp.sliceOut.contains k).length
/-- Spare channels of a stack. -/
def Dev.sparesOfChans (d : Dev) (s : Nat) : Nat :=
  ((List.range 34).filter fun k => d.get (STK_CHAN_HEALTH.PSTATE s k) == 1).length
/-- Spare data lanes of a stack. -/
def Dev.lanesLeft (d : Dev) (s : Nat) : Nat := 64 - d.get (STK_SPARE.LANES s)
/-- Spare lanes of a bridge direction: bridge × 2, + 1 for the way down. -/
def Dev.bridgeLanesLeft (d : Dev) (k : Nat) : Nat :=
  2 - (if k % 2 = 0 then (d.bridge (k / 2)).sparesUp else (d.bridge (k / 2)).sparesDn)

/-- Today's figures. -/
def Dev.almDay (d : Dev) : AlmDay where
  age := d.alm.age
  stress := d.alm.stress
  cores := diePairs.map d.coresLeft
  slices := diePairs.map d.sparesOfSlices
  chans := allStacks.map d.sparesOfChans
  lanes := allStacks.map d.lanesLeft
  blanes := (List.range 20).map d.bridgeLanesLeft
  buffer := d.alm.buffer

/-- A projection in whole days: `left` to go, at a change of `c30` in the last `n30` days; none without a change in 90
days or a rate. -/
def project (left c90 c30 n30 : Nat) : Nat := if c90 = 0 ∨ c30 = 0 then 0xFFFF else min 0xFFFF (left * n30 / c30)

/-- The projection of a die pair's AGE: `left` mV to go, AGE and stress hours fitted over 90 days, stress hours at the
30-day rate. -/
def projectAge (left age90 stress90 stress30 n30 : Nat) : Nat :=
  if age90 = 0 ∨ stress30 = 0 then 0xFFFF else min 0xFFFF (left * stress90 * n30 / (age90 * stress30))

/-- AGE at which the planning point becomes unavailable for a die pair: the smallest 5 mV step, 60 mV at most. -/
def Dev.ageLimit (d : Dev) (dp : Nat) : Nat :=
  let i := 8 * dp + d.get ADM_CTRL.PLAN_OP
  (((List.range 12).map (5 * ·)).find? fun a =>
    decide (d.get (PWR_OPP_TABLE.VMAX i) < d.get (PWR_OPP_TABLE.VTEST i) + 15 + a)).getD 60

/-- One projection: days, LIMITER and LIMIT_UNIT, and whether the limit has been reached. -/
structure Proj where
  days : Nat
  limiter : Nat
  unit : Nat
  reached : Bool
  deriving DecidableEq, Repr

/-- The projections of one kind of spares. -/
def spareProjs (limiter : Nat) (unit : Nat → Nat) (now d30 d90 : List Nat) (n30 : Nat) : List Proj :=
  now.zipIdx.map fun (x, i) => {
    days := if x = 0 then 0xFFFF else project x (d90.getD i x - x) (d30.getD i x - x) n30
    limiter := limiter, unit := unit i, reached := false }

/-- Every projection, from today's figures and those of up to 30 and 90 days ago. -/
def Dev.projections (d : Dev) : List Proj :=
  let t := d.almDay
  let days := d.alm.days
  let n30 := min 30 days.length
  let a30 := days.getD (n30 - 1) t
  let a90 := days.getD (min 90 days.length - 1) t
  let age := diePairs.map fun p =>
    let x := t.age.getD p 0
    let s := t.stress.getD p 0
    let l := d.ageLimit p
    { days := if l ≤ x then 0 else
        projectAge (l - x) (x - a90.age.getD p x) (s - a90.stress.getD p s) (s - a30.stress.getD p s) n30
      limiter := 1, unit := svcUnit p, reached := decide (l ≤ x) : Proj }
  let buf : Proj := {
    days := if t.buffer ≤ 30000 then 0 else project (t.buffer - 30000) (a90.buffer - t.buffer) (a30.buffer - t.buffer) n30
    limiter := 7, unit := moduleUnit, reached := decide (t.buffer ≤ 30000) }
  age ++ spareProjs 2 svcUnit t.cores a30.cores a90.cores n30 ++ spareProjs 3 svcUnit t.slices a30.slices a90.slices n30 ++
    spareProjs 4 stackUnit t.chans a30.chans a90.chans n30 ++ spareProjs 5 stackUnit t.lanes a30.lanes a90.lanes n30 ++
    spareProjs 6 (fun k => bridgeUnit (k / 2)) t.blanes a30.blanes a90.blanes n30 ++ [buf]

/-- The smallest projection: the first in the order of LIMITER among equals. -/
def leastProj (l : List Proj) : Proj :=
  l.foldl (fun b p => if p.days < b.days then p else b) ⟨0xFFFF, 0, 0, false⟩

/-- HEALTH (R466, R468). -/
def Dev.almHealth (d : Dev) : Nat :=
  let l := d.projections
  if l.any (·.reached) then 4
  else if (leastProj l).days < d.get ALM_CTRL.HORIZON_DAYS then 3
  else if !d.alm.exhausted.isEmpty then 2
  else if d.alm.units.any fun e => e.2.mark == some .watch then 1
  else 0

/-- Percent of a limit consumed, saturating. -/
def wearOf (used limit : Nat) : Nat := min 255 (used * 100 / limit)

/-- The die pairs' health words take their ageing's wear and projection; 90 days of figures are kept. -/
def Dev.almUnits (d : Dev) : Dev :=
  let l := d.projections
  diePairs.foldl (fun d p =>
    let days := ((l.find? fun x => x.limiter == 1 && x.unit == svcUnit p).map (·.days)).getD 0xFFFF
    d.onHealth (svcUnit p) fun h => { h with
      wear := wearOf (d.alm.age.getD p 0) (max 1 (d.ageLimit p)), rul := days }) d

/-- ALMANAC_PREDICT: the projections are computed anew; 0x0A0D when RUL_DAYS first falls below HORIZON_DAYS and every 30
days while it stays there (R468). -/
def Dev.predict (d : Dev) (now : Nat) : Dev :=
  let day := 86400 * second
  let d := d.almUnits
  let p := leastProj d.projections
  let low := decide (p.days < d.get ALM_CTRL.HORIZON_DAYS)
  let due := low && (match d.alm.eolAt with | some t => decide (t + 30 * day ≤ now) | none => true)
  let eol := if due then some now else if low then d.alm.eolAt else none
  let d := d.onAlm fun m => { m with eolAt := eol }
  let d := if due then d.reportNow now 0x0A0D moduleUnit 0x00 .info [p.days, p.limiter, p.unit] else d
  if now < d.alm.lastPredict + day ∧ !d.alm.days.isEmpty then d
  else
    let t := d.almDay
    d.onAlm fun m => { m with days := (t :: m.days).take 90, lastPredict := now }

/-- ALMANAC_PREDICT. -/
def execAlmanacPredict (s : State) := s.run fun now d => d.predict now

/-- ALMANAC_WRITE: the hourly write of the whole record, with the buffer's capacity as it was measured (mJ). -/
def execAlmanacWrite (mj : Nat) (s : State) := s.run fun now d => d.onAlm fun m => { m with buffer := mj, lastWrite := now }

end Sys2Proof.Machine
end

