-- ==== Sys2Proof/Machine/PowerStates.lean ====
section
/-!
DEFINITION. Entering and leaving the deeper power states (R406, R408, R410 to R413), and the input's range (R522).
-/

namespace Sys2Proof.Machine

/-! ### What may enter (R408, R412) -/

/-- Is a die pair unbound: none of its cores and slices bound under a live epoch? -/
def Dev.unbound (d : Dev) (dp : Nat) : Bool :=
  !d.comp.asts.any fun e =>
    let on := fun (m : Option CMap) => match m with
      | some m => (m.cores.any fun c => coreDp c == dp) || m.slices.any fun k => k / 68 == dp
      | none => false
    on e.2.cur || (d.comp.twoLive && on e.2.prev)

/-- Is a stack in scope of an entry? -/
def Entry.takes (e : Entry) (dp : Nat) : Bool := e.req != 2 || bit e.dpmask dp

/-- A copy, move, scrub, dump or log write runs in scope. -/
def Dev.copyRuns (d : Dev) (e : Entry) : Bool :=
  (d.stk.any fun t => e.takes (stackDp t.1) && t.2.copy.isSome) ||
  (d.comp.moves.any fun m => m.started && (e.takes (stackDp (chanStack m.src)) || e.takes (stackDp (chanStack m.dst)))) ||
  (d.comp.scrubbing.any fun u => e.takes (if u < 16384 then stackDp (chanStack (u - 8192)) else (u - 16384) / 68)) ||
  d.comp.swaps.any fun w => w.slice && e.takes (w.unit / 68)

/-- The reason of Table 13-3 for which a block refuses; 0 for none. -/
def Dev.refuseWhy (d : Dev) (e : Entry) : Nat :=
  let st := fun (l : List AstState) => d.comp.asts.any fun a => l.contains a.2.state
  let work := if e.req = 2 then diePairs.any fun p => bit e.dpmask p && !d.unbound p
    else if e.req = 3 then st [.active, .quiescing, .dissolving, .resetting]
    else d.comp.asts.any fun a => a.2.state != .free
  let window := e.req != 2 && (List.range 4).any fun p => (List.range 32).any fun n => d.get (CXP_HDM_MAP.VF p n) != 0
  let keyless := d.cxl.links.any fun l => e.takes (portDp (l.1 / 2)) && l.2.state != 0 && l.2.insecure
  if work then 1 else if window then 2 else if d.copyRuns e then 3
  else if d.comp.twoLive || d.comp.mode.isSome then 4 else if keyless then 5 else if d.lcBusy then 6 else 0

/-- Unit identifiers of the blocks in scope: die-pair services, logic dies, ports, the module controller. -/
def entryBlocks (req mask : Nat) : List Nat :=
  let dps := diePairs.filter fun p => req != 2 || bit mask p
  dps.map svcUnit ++ (allStacks.filter fun s => dps.contains (stackDp s)).map stackUnit ++
    ((List.range 4).filter fun p => dps.contains (portDp p)).map (unitId 5) ++ (if req = 2 then [] else [moduleUnit])

/-! ### The handshake (R410, R411) -/

/-- An entry begins: every block in scope gets ENTER. -/
def Dev.enter (d : Dev) (now req mask : Nat) : Dev :=
  let e : Entry := { req := req, dpmask := mask, at_ := now, wait := (entryBlocks req mask).map fun u => (u, 0, none) }
  (d.onPwr fun w => { w with entry := some e }).set PWR_STATE_REQ.STATUS 1

/-- The entry is over with a status. -/
def Dev.entryOver (d : Dev) (status unit reason : Nat) : Dev :=
  (((d.onPwr fun w => { w with entry := none }).set PWR_STATE_REQ.STATUS status).set PWR_STATE_REQ.UNIT unit).set
    PWR_STATE_REQ.REASON reason

/-- A write of PWR_STATE_REQ: ignored while an entry is in progress or a trip is latched (R411, R534). -/
def Dev.stateReq (d : Dev) (now path req mask : Nat) (f : Dev → Dev) : Dev :=
  d.writeThrough now path PWR_STATE_REQ.off fun d =>
    if d.pwr.entry.isSome || d.mod.tripLatch then d
    else f ((d.set PWR_STATE_REQ.REQ req).set PWR_STATE_REQ.DPMASK mask)

/-- STATE_REQ_DIE_PAIR_NIGHT. -/
def execStateReqDiePairNight (path mask : Nat) (s : State) := s.run fun now d =>
  d.stateReq now path 2 (mask % 256) fun d => if mask % 256 = 0 then d.entryOver 2 0 0 else d.enter now 2 (mask % 256)
/-- STATE_REQ_DEEP_NIGHT. -/
def execStateReqDeepNight (path : Nat) (s : State) := s.run fun now d =>
  d.stateReq now path 3 (d.get PWR_STATE_REQ.DPMASK) fun d => d.enter now 3 0
/-- STATE_REQ_DARK. -/
def execStateReqDark (path : Nat) (s : State) := s.run fun now d =>
  d.stateReq now path 4 (d.get PWR_STATE_REQ.DPMASK) fun d => d.enter now 4 0

/-- Run: the package wakes, or the die pairs of the mask (0: every one in Night) (R413). -/
def Dev.toRun (d : Dev) (now mask : Nat) : Dev :=
  let d := d.wakePkg 1
  let d := diePairs.foldl (fun d p => if maskAllows mask p then d.wakeDp now 1 p else d) d
  d.entryOver 2 0 0

/-- STATE_REQ_RUN. -/
def execStateReqRun (path mask : Nat) (s : State) := s.run fun now d =>
  d.stateReq now path 0 (mask % 256) fun d => d.toRun now (mask % 256)

/-- A die pair goes into Night: its compute die is off (Table 13-1). -/
def Dev.nightDp (d : Dev) (dp : Nat) : Dev :=
  let d := d.onPmu dp fun u => { u with pwr := .night, goal := none, unboundAt := none }
  { d with core := Tbl.mapV (fun c k => if coreDp c = dp then { k with pwr := .night } else k) d.core }

/-- The package goes into Deep Night: cores off, translation caches empty, links narrowed (Tables 13-1, 13-7). -/
def Dev.deepNight (d : Dev) : Dev :=
  let d := { d with
    core := Tbl.mapV (fun _ k => { k with pwr := .night }) d.core
    stk := Tbl.mapV (fun _ (t : Stack) => { t with cache := [] }) d.stk }
  (d.setPkg .deepNight).allLanes true

/-- Every block has accepted: the blocks are sequenced down (R410, steps 5 and 6). -/
def Dev.goDown (d : Dev) (e : Entry) : Dev :=
  let d := d.entryOver 2 0 0
  match e.req with
  | 2 => (diePairs.filter (bit e.dpmask)).foldl (fun d p => d.nightDp p) d
  | 3 => d.deepNight
  | _ => d.powerOff

/-- A block refuses, or is late: nothing changes state (R410, R411). -/
def Dev.entryRefused (d : Dev) (e : Entry) (unit reason : Nat) : Dev :=
  (d.entryOver 3 unit reason).raise 0x0802 moduleUnit 0x02 .degraded [e.req, unit, reason]

/-- ENTER_ANSWER: a block refuses exactly when a reason of Table 13-3 holds; it delays by at most 1 ms, 10 ms in all. -/
def Dev.enterAnswer (d : Dev) (now unit : Nat) (a : EnterAnswer) : Dev :=
  match d.pwr.entry with
  | none => d
  | some e =>
    match e.wait.find? fun w => w.1 == unit && w.2.2.isNone with
    | none => d
    | some (_, asked, _) =>
      let why := d.refuseWhy e
      match a with
      | .refuse _ => if why = 0 then d else d.entryRefused e unit why
      | .accept =>
        if why ≠ 0 then d
        else
          let e := { e with wait := e.wait.filter (·.1 != unit) }
          if e.wait.isEmpty then d.goDown e else d.onPwr fun w => { w with entry := some e }
      | .delay us =>
        if 1000 < us ∨ 10000 < asked + us then d
        else
          let put := fun (w : Nat × Nat × Option Nat) => if w.1 = unit then (unit, asked + us, some (now + us * 1000)) else w
          d.onPwr fun w => { w with entry := some { e with wait := e.wait.map put } }

/-- ENTER_ANSWER. -/
def execEnterAnswer (unit : Nat) (ans : EnterAnswer) (s : State) := s.run fun now d => d.enterAnswer now unit ans

/-- ENTER_DELAY_EXPIRY: the block is asked again. -/
def Dev.askAgain (d : Dev) (now unit : Nat) : Dev :=
  match d.pwr.entry with
  | none => d
  | some e =>
    let put := fun (w : Nat × Nat × Option Nat) => match w.2.2 with
      | some t => if w.1 = unit ∧ t ≤ now then (w.1, w.2.1, none) else w
      | none => w
    d.onPwr fun w => { w with entry := some { e with wait := e.wait.map put } }

/-- ENTER_DELAY_EXPIRY. -/
def execEnterDelayExpiry (unit : Nat) (s : State) := s.run fun now d => d.askAgain now unit

/-- STATE_TIMEOUT: a block has neither accepted nor refused within 10 ms. -/
def Dev.entryLate (d : Dev) (now : Nat) : Dev :=
  match d.pwr.entry with
  | none => d
  | some e =>
    match e.wait.head? with
    | some (u, _) =>
      if now < e.at_ + 10000000 then d
      else (d.entryOver 4 u 0).raise 0x0803 moduleUnit 0x02 .degraded [e.req, u]
    | none => d

/-- STATE_TIMEOUT. -/
def execStateTimeout (s : State) := s.run fun now d => d.entryLate now

/-- DIE_PAIR_NIGHT: a die pair unbound for 1 ms, or under cap pressure at once, enters Night by the same handshake
(R408, R433). -/
def Dev.autoNight (d : Dev) (now dp : Nat) : Dev :=
  let u := d.pmu dp
  let due := match u.unboundAt with | some t => decide (t + 1000000 ≤ now) | none => false
  if d.pwr.entry.isSome || u.pwr != .run || d.pwr.pkg != .run || !d.unbound dp || !(due || d.capPressed) then d
  else d.enter now 2 (2 ^ dp)

/-- DIE_PAIR_NIGHT. -/
def execDiePairNight (d : Nat) (s : State) := s.run fun now x => x.autoNight now d

/-- WAKE_TIMER: CLK_WATCH_COUNT has reached PWR_WAKE_TIMER (R413). -/
def execWakeTimer (s : State) := s.run fun _ d =>
  let t := d.get PWR_WAKE_TIMER.TICKS
  if t ≠ 0 ∧ t ≤ d.ticks then d.wakePkg 6 else d

/-- REGULATION_FAULT: an alarm that wakes the package (Table 13-4). -/
def execRegulationFault (s : State) := s.run fun _ d => d.wakePkg 7

/-! ### The input (R522) -/

/-- The voltage alone is measured. -/
def Dev.seeVin (d : Dev) (mv : Nat) : Dev :=
  if d.pwr.pkg = Pwr.dark then d.onMod fun m => { m with vinMv := mv }
  else (d.set PWR_INPUT.VIN (min 65535 (mv / 10))).onMod fun m => { m with vinMv := mv }

/-- INPUT_RANGE: the input has been outside 48 to 58 V for 1 ms: 0x0809, once per excursion. -/
def Dev.inputRange (d : Dev) (mv : Nat) : Dev :=
  let d := d.seeVin mv
  if (48000 ≤ mv ∧ mv ≤ 58000) ∨ d.pwr.rangeRec ∨ d.pwr.pkg = Pwr.dark then d
  else (d.onPwr fun w => { w with rangeRec := true }).raise 0x0809 moduleUnit 0x02 .info [mv]

/-- INPUT_RANGE. -/
def execInputRange (mv : Nat) (s : State) := s.run fun _ d => d.inputRange mv

/-- INPUT_LOCKOUT: below 44 V or above 60 V the input stage opens, and the buffer carries a controlled stop to Dark. -/
def Dev.inputLockout (d : Dev) (now mv : Nat) : Dev :=
  if 44000 ≤ mv ∧ mv ≤ 60000 then d
  else
    let d := (d.seeVin mv).onMod fun m => { m with inputOn := false }
    let d := d.onPwr fun w => { w with lockout := true }
    if d.pwr.pkg = Pwr.dark then d
    else
      let d := d.reportNow now 0x0809 moduleUnit 0x02 .contained [mv] true
      ({ d with alm := { d.alm with lastWrite := now } }).powerOff

/-- INPUT_LOCKOUT. -/
def execInputLockout (mv : Nat) (s : State) := s.run fun now d => d.inputLockout now mv

/-- INPUT_RETURN: above 46 V, or below 59 V, the input stage and the standby rail come back on; the module stays in
Dark. -/
def execInputReturn (mv : Nat) (s : State) := s.run fun _ d =>
  let d := d.seeVin mv
  if !d.mod.inputOn && decide (46000 < mv) && decide (mv < 59000) then
    (d.onMod fun m => { m with inputOn := true, standby := true }).onPwr fun w => { w with lockout := false, rangeRec := false }
  else d

end Sys2Proof.Machine
end

