-- ==== Sys2Proof/Machine/Security.lean ====
section
/-!
DEFINITION. The security block: life-cycle transitions, owners and debug (R488, R490 to R499), the DRBG (R479),
certificates and attestation (R483 to R486), TDIs and IDE keys (R397, R398, R482).

Whether a signature verifies, and whether a token names this module, are operands: the arithmetic of the signatures is not
restated in the spec.
-/

namespace Sys2Proof.Machine

/-! ### Tokens (R493) -/

/-- A byte of LCS_TOKEN. -/
def Lcs.tok (l : Lcs) (i : Nat) : Nat := ((Tbl.find l.token i).map (·.toNat)).getD 0
/-- Bytes of LCS_TOKEN as a number, the lowest address least significant. -/
def Lcs.tokField (l : Lcs) (off n : Nat) : Nat := (List.range n).foldl (fun v i => v + l.tok (off + i) * 2 ^ (8 * i)) 0
/-- TARGET. -/
def Lcs.tokTarget (l : Lcs) : Nat := l.tok 2
/-- SIGNER: 0 Dorsyn production, 1 Dorsyn development, 2 the active owner. -/
def Lcs.tokSigner (l : Lcs) : Nat := l.tok 3

/-- Are bytes of the token zero? -/
def Lcs.tokZero (l : Lcs) (off n : Nat) : Bool := l.tokField off n == 0

/-- The reserved fields of a token are zero: the owner's public key takes 133 bytes of the last (Table 15-8). -/
def Lcs.tokClean (l : Lcs) (action : Nat) : Bool :=
  l.tokZero 0x004 4 && (action == 2 || l.tokZero 0x048 64) && (action != 2 || decide (l.tokTarget ≤ 1)) &&
    (if l.tokSigner = 2 then l.tokZero (0x10C + 133) (244 - 133) else l.tokZero 0x10C 244)

/-- The token is signed for the action by one of the signers permitted for it. -/
def Lcs.tokSigned (l : Lcs) (action : Nat) (signers : List Nat) (sig : Bool) : Bool :=
  l.tok 0 == 1 && l.tok 1 == action && sig && signers.contains l.tokSigner

/-- NONCE is the present challenge, and DEVICE this module's DeviceID. -/
def Lcs.tokHere (l : Lcs) (dev : Bool) : Bool := !l.chalDue && l.tokField 0x008 32 == l.challenge && dev

/-! ### GO (R494) -/

/-- Is every asterism FREE? -/
def Dev.allFree (d : Dev) : Bool := d.comp.asts.all fun e => e.2.state == .free
/-- Is a TDI CONFIG_LOCKED or RUN? -/
def Dev.anyLocked (d : Dev) : Bool := d.hif.fns.any fun f => f.2.tdi == .locked || f.2.tdi == .run

/-- The first cause among some, each with whether it holds. -/
def firstCause (l : List (Nat × Bool)) : Option Nat := (l.find? (·.2)).map (·.1)

/-- A refused GO changes nothing: REFUSED with its cause, and 0x0902. -/
def Dev.goRefused (d : Dev) (now action cause : Nat) : Dev :=
  let d := (d.set LCS_TRANSITION.STATUS 3).set LCS_TRANSITION.CAUSE cause
  (d.reportNow now 0x0902 moduleUnit 0x00 .info [action, cause] true).newChallenge

/-- An action is done. -/
def Dev.goDone (d : Dev) : Dev := ((d.set LCS_TRANSITION.STATUS 2).set LCS_TRANSITION.CAUSE 0).newChallenge

/-- GO with an action through a path: refused for the lowest-numbered cause that holds, else performed. -/
def Dev.go (d : Dev) (now path action : Nat) (causes : Dev → List (Nat × Bool)) (f : Dev → Dev) : Dev :=
  d.writeThrough now path LCS_TRANSITION.off fun d =>
    let d := d.set LCS_TRANSITION.ACTION action
    match firstCause (causes d) with
    | some c => d.goRefused now action c
    | none => f d

/-! ### Life-cycle transitions (R491, R495) -/

/-- Signers that may authorise a transition; none when Table 15-6 has no such transition. -/
def Lcs.authorisers (l : Lcs) (target : Nat) : List Nat :=
  match l.state, target with
  | 1, 2 => [0]
  | 1, 3 => [0, 1]
  | 2, 3 => if l.owner.isSome then [2] else [0]
  | _, _ => []

/-- Target of the transition asked for: in Blank a token is not needed, and a blank one asks for Test. -/
def Lcs.target (l : Lcs) : Nat := if l.state = 0 ∧ l.tokTarget = 0 then 1 else l.tokTarget

/-- Is the transition listed in Table 15-6? -/
def Lcs.listed (l : Lcs) (target : Nat) : Bool := (l.state == 0 && target == 1) || !(l.authorisers target).isEmpty

/-- Causes of refusal of ACTION 1. -/
def Dev.lcCauses (d : Dev) (arm sig dev : Bool) : List (Nat × Bool) :=
  let l := d.lcs
  let t := l.target
  let token := l.state != 0
  [(1, !arm), (2, token && !l.tokSigned 1 (if (l.authorisers t).isEmpty then [0, 1, 2] else l.authorisers t) sig),
    (3, token && !l.tokHere dev), (4, !l.listed t), (5, !d.allFree), (6, d.lcBusy), (7, decide (8 ≤ l.journal.length)),
    (10, token && !l.tokClean 1)]

/-- The OTP and flash work of a transition on row pair `i`, in order (steps 3 to 5): the intent row programmed in part, then
whole, the wipes, the commit row. -/
def Dev.lcWork (d : Dev) (target : Nat) : List (Dev → Dev) :=
  let i := d.lcs.journal.length
  let row : JRow := { target := target, wipes := wipesOf target, valid := false, void := false, commit := false }
  let edit := fun (f : JRow → JRow) (d : Dev) => d.onLcs fun l => { l with journal := modifyAt l.journal i f }
  [fun d => d.onLcs fun l => { l with journal := l.journal ++ [row] }, edit fun r => { r with valid := true }] ++
    row.wipeList.map (fun k d => d.wipeNo k) ++ [edit fun r => { r with commit := true }]

/-- LC_TRANSITION: an accepted transition.  Input power lasts for `cut` of its pieces of work: with fewer than there are,
the module is without power, and the next boot rolls the journal forward. -/
def Dev.lcRun (d : Dev) (now cut : Nat) : Dev :=
  let from_ := d.lcs.state
  let t := d.lcs.target
  let i := d.lcs.journal.length
  let work := d.lcWork t
  let d := (work.take cut).foldl (fun d f => f d) (d.set LCS_TRANSITION.STATUS 1)
  if cut < work.length then (d.onMod fun m => { m with inputOn := false, vinMv := 0 }).powerOff
  else ((d.goDone).reportNow now 0x0901 moduleUnit 0x00 .fatal [from_, t, i]).requestReset now 5 moduleUnit 0x0901

/-- LC_TRANSITION. -/
def execLcTransition (path : Nat) (arm sig dev : Bool) (cut : Nat) (s : State) := s.run fun now d =>
  (d.onMod fun m => { m with lcArm := arm }).go now path 1 (fun d => d.lcCauses arm sig dev) fun d => d.lcRun now cut

/-! ### Owners (R488) -/

/-- Causes of refusal of ACTION 2. -/
def Dev.ownerCauses (d : Dev) (arm sig dev : Bool) : List (Nat × Bool) :=
  let l := d.lcs
  [(1, !arm), (2, !l.tokSigned 2 (if l.owner.isSome then [2] else [0]) sig), (3, !l.tokHere dev),
    (4, l.state != 1 && l.state != 2), (6, d.lcBusy), (8, decide (3 ≤ l.owners.length)), (10, !l.tokClean 2)]

/-- OWNER_INSTALL: the next blank row is programmed, every older row revoked, and OWNER_REQ programmed on request. -/
def Dev.installOwner (d : Dev) (now : Nat) : Dev :=
  let l := d.lcs
  let row := l.owners.length
  let req := l.ownerReq || bit l.tokTarget 0
  let d := d.onLcs fun l => { l with
    owners := (l.owners.map fun o => { o with revoked := true }) ++ [⟨l.tokField 0x048 64, false⟩], ownerReq := req }
  (d.goDone).reportNow now 0x0906 moduleUnit 0x00 .info [row, req.toNat]

/-- OWNER_INSTALL. -/
def execOwnerInstall (path : Nat) (arm sig dev : Bool) (s : State) := s.run fun now d =>
  (d.onMod fun m => { m with lcArm := arm }).go now path 2 (fun d => d.ownerCauses arm sig dev) fun d => d.installOwner now

/-! ### Debug (R498, R499) -/

/-- Signers of a debug token: the active owner in Production when there is one, else Dorsyn, whose development signature
stands until it is withdrawn; no token is needed in Blank and End-of-life. -/
def Lcs.debugSigners (l : Lcs) : List Nat :=
  if l.state = 2 ∧ l.owner.isSome then [2] else if l.devGone then [0] else [0, 1]

/-- Highest debug level of a state (Table 15-5). -/
def Lcs.debugTop (l : Lcs) : Nat := if l.state = 2 then 1 else 2

/-- May a path carry debug actions? -/
def Dev.debugPath (d : Dev) (path : Nat) : Bool := 4 ≤ path || d.flag (LCS_POLICY_PORT.DEBUG path)

/-- Causes of refusal of ACTION 3. -/
def Dev.debugCauses (d : Dev) (path : Nat) (sig dev : Bool) : List (Nat × Bool) :=
  let l := d.lcs
  let v := l.tokTarget
  let token := l.state == 1 || l.state == 2
  [(2, token && !l.tokSigned 3 l.debugSigners sig), (3, token && !l.tokHere dev),
    (4, !d.debugPath path || v == 0 || decide (l.debugTop < v)), (5, l.state == 1 && v == 2 && !d.allFree), (6, d.lcBusy),
    (9, l.state == 2 && d.anyLocked), (10, token && !l.tokClean 3)]

/-- DEBUG_UNLOCK: the level rises; in Test, W1 and W2 run before level 2 opens. -/
def Dev.debugUp (d : Dev) (now path : Nat) : Dev :=
  let v := d.lcs.tokTarget
  let signer := d.lcs.tokSigner
  if v ≤ d.lcs.debug then d.goDone
  else
    let d := if d.lcs.state = 1 ∧ v = 2 then (d.wipeNo 1).wipeNo 2 else d
    let d := d.onLcs fun l => { l with debug := v, debugMax := max l.debugMax v }
    (d.goDone).reportNow now 0x0905 moduleUnit 0x00 .info [v, signer, path]

/-- DEBUG_UNLOCK. -/
def execDebugUnlock (path : Nat) (sig dev : Bool) (s : State) := s.run fun now d =>
  d.go now path 3 (fun d => d.debugCauses path sig dev) fun d => d.debugUp now path

/-- DEBUG_LOCK: the level returns to 0 without a token. -/
def execDebugLock (path : Nat) (s : State) := s.run fun now d =>
  d.go now path 4 (fun d => [(6, d.lcBusy)]) fun d => (d.onLcs fun l => { l with debug := 0 }).goDone

/-! ### The DRBG (R479) -/

/-- A health test fails: the DRBG stops; the third failure in succession starts a package reset. -/
def Dev.drbgStop (d : Dev) (now test : Nat) : Dev :=
  let n := d.lcs.drbgFails + 1
  let d := d.onLcs fun l => { l with drbgUp := false, drbgFails := n, drbgFailAt := now }
  if n < 3 then d.reportNow now 0x090B moduleUnit 0x00 .info [test, n]
  else (d.reportNow now 0x090B moduleUnit 0x00 .fatal [test, n]).requestReset now 5 moduleUnit 0x090B

/-- ENTROPY_FAILURE. -/
def execEntropyFailure (test : Nat) (s : State) := s.run fun now d => if d.lcs.drbgUp then d.drbgStop now test else d

/-- DRBG_RETRY: one second after a failure the tests run again; a challenge that waited is drawn. -/
def Dev.drbgRetry (d : Dev) (now : Nat) (ok : Bool) : Dev :=
  if d.lcs.drbgUp ∨ 3 ≤ d.lcs.drbgFails ∨ now < d.lcs.drbgFailAt + second then d
  else if !ok then d.drbgStop now (Config.code 0x090B 0)
  else
    let d := d.onLcs fun l => { l with drbgUp := true, drbgFails := 0 }
    if d.lcs.chalDue then d.newChallenge else d

/-- DRBG_RETRY. -/
def execDrbgRetry (ok : Bool) (s : State) := s.run fun now d => d.drbgRetry now ok

/-- DRBG_RESEED: after 2^20 requests. -/
def execDrbgReseed (s : State) := s.run fun _ d => if 2 ^ 20 ≤ d.lcs.drbgReqs ∧ d.lcs.drbgUp then d.reseed else d

/-! ### SPDM (R484 to R486)

A responder is a virtual function by its number, or 1024 + p for function 0 of port p; 1028 is the module controller's. -/

/-- Is a responder function 0? -/
def isFn0 (rsp : Nat) : Bool := decide (1024 ≤ rsp)
/-- Is there such a responder: function 0, or a bound VF? -/
def Dev.responds (d : Dev) (rsp : Nat) : Bool := isFn0 rsp || (d.fn rsp).ast.isSome
/-- Can the module sign: is its identity not destroyed? -/
def Dev.signs (d : Dev) : Bool := !d.lcs.udsGone && d.lcs.state != 3
/-- The chain of a certificate slot that may be served. -/
def Dev.chain (d : Dev) (slot : Nat) : Option Nat :=
  match Tbl.find d.lcs.certs slot with
  | some c => if slot = 1 ∨ d.lcs.certHash = some c then some c else none
  | none => none

/-- A request to a responder that has negotiated with its requester. -/
def Dev.spdm (d : Dev) (rsp : Nat) (f : Dev → Dev) : Dev :=
  if !d.responds rsp then d else if !d.lcs.negotiated.contains rsp then d.say .refused else f d

/-- NEGOTIATE_ALGORITHMS: `ok` when the requester offers the four algorithms. -/
def execNegotiateAlgorithms (rsp : Nat) (ok : Bool) (s : State) := s.run fun _ d =>
  if !d.responds rsp then d
  else if !ok then d.say .refused
  else (d.onLcs fun l => { l with negotiated := rsp :: l.negotiated.filter (· != rsp) }).say .done

/-- GET_CERTIFICATE. -/
def execGetCertificate (rsp slot : Nat) (s : State) := s.run fun _ d => d.spdm rsp fun d =>
  match d.chain slot with
  | some c => d.reply 0xE020 [slot, c]
  | none => d.say .refused

/-- A signature by Alias_R: a free value. -/
def Dev.sign (d : Dev) : Nat × Dev := d.draw .crypto

/-- CHALLENGE: answered with the slot's chain and a signature. -/
def execChallenge (rsp slot : Nat) (s : State) := s.run fun _ d => d.spdm rsp fun d =>
  if !d.signs then d.say .unspecified
  else match d.chain slot with
    | some c => let (v, d) := d.sign; d.reply 0xE021 [slot, c, v]
    | none => d.say .refused

/-- Numbers that stand for the content of a firmware image. -/
def Image.nums (x : Image) : List Nat := [x.man.total, x.man.svnB, x.man.svnR, x.man.ownerHash] ++ x.policy

/-- The words of the isolation policy as locked. -/
def Dev.policyWords (d : Dev) : List Nat :=
  (List.range 16).flatMap (fun n => [d.reg (LCS_POLICY_DOM_A.off n), d.reg (LCS_POLICY_DOM_B.off n)]) ++
    (List.range 4).map fun p => d.reg (LCS_POLICY_PORT.off p)

/-- Numbers that stand for a journal row pair. -/
def JRow.nums (r : JRow) : List Nat := [r.target, r.wipes, r.valid.toNat, r.void.toNat, r.commit.toNat]

/-- Measurement blocks 1 to 6 (Tables 15-3, 15-4). -/
def Dev.measures (d : Dev) : List Nat :=
  let l := d.lcs
  let x := d.fw.ram
  let policy := Config.digest (4 :: d.policyWords)
  [Config.digest [1], Config.digest ([2, l.bootState, l.bootDebug] ++ x.nums), Config.digest ([3, policy] ++ x.nums), policy,
    Config.digest ([5, l.state, (l.bootOwner.map (·.hash)).getD 0, l.bootReq.toNat, (x.man.ownerSig && x.man.ownerOk).toNat] ++
      l.journal.flatMap JRow.nums), l.debugMax]

/-- Measurement blocks 16 to 18 of a virtual function. -/
def Dev.vfMeasures (d : Dev) (fn : Nat) : List Nat :=
  let p := fnPort fn
  let maps := (List.range 32).filter fun n =>
    d.get (CXP_HDM_MAP.VF p n) == fnVf fn && d.flag (CXP_HDM_MAP.HALF p n) == fnHalf fn
  [d.measure16 (((d.fn fn).ast).getD 0), Config.digest (17 :: Tbl.look [] d.cxl.tdiLog fn),
    Config.digest ([18, d.reg (CXP_VF_WIN.off p (fnVf fn - 1 + (if fnHalf fn then 64 else 0)))] ++ maps)]

/-- GET_MEASUREMENTS: signed, but for a module whose slot 0 is empty; without an identity a signature is Unspecified. -/
def execGetMeasurements (rsp : Nat) (s : State) := s.run fun _ d => d.spdm rsp fun d =>
  if !d.signs then d.say .unspecified
  else
    let l := d.measures ++ (if isFn0 rsp then [] else d.vfMeasures rsp)
    match d.chain 0 with
    | some _ => let (v, d) := d.sign; d.reply 0xE022 (l ++ [v])
    | none => d.reply 0xE022 l

/-- Sessions a responder may hold. -/
def sessionMax (rsp : Nat) : Nat := if isFn0 rsp then 4 else 2

/-- KEY_EXCHANGE: a session opens, or the answer is Busy. -/
def execKeyExchange (rsp : Nat) (s : State) := s.run fun _ d => d.spdm rsp fun d =>
  if !d.signs then d.say .unspecified
  else if sessionMax rsp ≤ (d.lcs.sessions.filter fun x => x.responder == rsp).length then d.say .busy
  else
    let id := d.lcs.nextSession
    let (v, d) := d.sign
    (d.onLcs fun l => { l with sessions := l.sessions ++ [⟨rsp, id, false⟩], nextSession := id + 1 }).reply 0xE023 [id, v]

/-- Is a session of a responder there? -/
def Dev.session (d : Dev) (rsp id : Nat) : Bool := d.lcs.sessions.any fun x => x.responder == rsp && x.id == id

/-- FINISH: the handshake of a session completes. -/
def execFinish (rsp id : Nat) (s : State) := s.run fun _ d =>
  if !d.session rsp id then d.say .refused
  else (d.onLcs fun l => { l with
    sessions := l.sessions.map fun x => if x.responder = rsp ∧ x.id = id then { x with up := true } else x }).say .done

/-- END_SESSION. -/
def execEndSession (rsp id : Nat) (s : State) := s.run fun _ d =>
  if !d.session rsp id then d.say .refused
  else (d.onLcs fun l => { l with
    sessions := l.sessions.filter fun x => !(x.responder == rsp && x.id == id) }).say .done

/-- May a certificate slot be written: slot 0 in Test; slot 1 in Test or Production, by a chain whose root key hashes to the
active owner row? -/
def Dev.certMay (d : Dev) (slot root : Nat) : Bool :=
  let st := d.lcs.state
  if slot = 0 then st == 1
  else slot == 1 && (st == 1 || st == 2) && (match d.lcs.owner with | some o => o.2.hash == root | none => false)

/-- SET_CERTIFICATE: function 0 alone supports it; the first DeviceID certificate's hash is fused. -/
def execSetCertificate (rsp slot chain root : Nat) (s : State) := s.run fun _ d => d.spdm rsp fun d =>
  if !isFn0 rsp then d.say .unsupported
  else if !d.certMay slot root then d.say .refused
  else (d.onLcs fun l => { l with
    certs := Tbl.put l.certs slot chain
    certHash := if slot = 0 then some (l.certHash.getD chain) else l.certHash }).say .done

/-! ### TDIs (R397, R499) -/

/-- A TSP request moves the TDI of a bound function. -/
def Dev.tsp (d : Dev) (fn : Nat) (ok : Tdi → Bool) (f : Dev → Dev) : Dev :=
  if (d.fn fn).ast.isNone then d else if ok (d.fn fn).tdi then (f d).say .done else d.say .refused

/-- TDI_LOCK_REQUEST: CONFIG_LOCKED, with an empty measurement log, unless debug is above 0. -/
def execTdiLockRequest (fn : Nat) (s : State) := s.run fun _ d =>
  d.tsp fn (fun t => t == .unlocked && d.lcs.debug == 0) fun d =>
    { d.onFn fn fun f => { f with tdi := .locked } with cxl := { d.cxl with tdiLog := Tbl.del d.cxl.tdiLog fn } }

/-- TDI_RUN_REQUEST: a locked TDI runs. -/
def execTdiRunRequest (fn : Nat) (s : State) := s.run fun _ d =>
  d.tsp fn (· == .locked) fun d => d.onFn fn fun f => { f with tdi := .run }

/-- TDI_RELEASE: the host releases the TDI. -/
def execTdiRelease (fn : Nat) (s : State) := s.run fun _ d =>
  d.tsp fn (fun t => t != .unlocked) fun d => d.onFn fn fun f => { f with tdi := .unlocked }

/-! ### IDE keys (R398, R482) -/

/-- IDE_KEY_SET: over a secured session with function 0 a link gets new keys; its traffic and credits are back. -/
def execIdeKeySet (port : Nat) (half : Bool) (id : Nat) (s : State) := s.run fun _ d =>
  let k := linkNo port half
  if (d.lcs.sessions.any fun x => x.responder == 1024 + port && x.id == id && x.up) && (d.link k).state != 0 then
    d.onLink k fun l => { l with ideKeys := true, insecure := false }
  else d

end Sys2Proof.Machine
end

