-- ==== Sys2Proof/Machine/ModuleHw.lean ====
section
/-!
DEFINITION. The module: PLDM over MCTP (R432, R516), the tray signals (R523, R526 to R528, R535), cooling (R531, R532) and
thermal trip (R533, R534).
-/

namespace Sys2Proof.Machine

/-! ### PLDM over MCTP (R516)

The contents of an answer stand for what the standard of Table 16-7 lays out; the numbers of its kinds are the model's. -/

/-- A PLDM request for a service that is available from a step of Table 16-1 on: NOT_READY before it.  Recovery keeps what
step 5 has. -/
def Dev.pldm (d : Dev) (from_ : Nat) (f : Dev → Dev) : Dev :=
  let d := d.wakePkg 3
  if d.fw.bootStep < from_ ∧ !(d.fw.recovery ∧ from_ = 5) then d.say .notReady else f d

/-- MCTP_SET_ENDPOINT_ID: the bus owner assigns an endpoint ID, 8 to 254. -/
def execMctpSetEndpointId (eid : Nat) (s : State) := s.run fun _ d => d.pldm 5 fun d =>
  if 8 ≤ eid ∧ eid ≤ 254 then (d.onFw fun f => { f with eid := eid }).say .done else d.say .refused

/-- GET_TID. -/
def execGetTid (s : State) := s.run fun _ d => d.pldm 5 fun d => d.reply 0xE030 [d.fw.tid]

/-- SET_TID: 1 to 254. -/
def execSetTid (tid : Nat) (s : State) := s.run fun _ d => d.pldm 5 fun d =>
  if 1 ≤ tid ∧ tid ≤ 254 then (d.onFw fun f => { f with tid := tid }).say .done else d.say .refused

/-- The PLDM types of Table 16-7 by their numbers: base, monitoring and control, FRU data, firmware update, file transfer. -/
def pldmTypes : List Nat := [0, 2, 4, 5, 7]

/-- GET_PLDM_TYPES. -/
def execGetPldmTypes (s : State) := s.run fun _ d => d.pldm 5 fun d => d.reply 0xE031 pldmTypes

/-- Commands of a type: those that Table 16-7 names for the base type; a number that stands for the list of another. -/
def pldmCommands (kind : Nat) : List Nat := if kind = 0 then [1, 2, 3, 4, 5] else [Config.code 0xE032 kind]

/-- GET_PLDM_COMMANDS. -/
def execGetPldmCommands (kind : Nat) (s : State) := s.run fun _ d => d.pldm 5 fun d =>
  if pldmTypes.contains kind then d.reply 0xE032 (kind :: pldmCommands kind) else d.say .unsupported

/-- GET_PLDM_VERSION. -/
def execGetPldmVersion (kind : Nat) (s : State) := s.run fun _ d => d.pldm 5 fun d =>
  if pldmTypes.contains kind then d.reply 0xE033 [kind, Config.code 0xE033 kind] else d.say .unsupported

/-- TRAY_CAP: the effecter sets the tray controller's cap; one outside 1,000 to 7,500 W is refused with 0x0808 (R432). -/
def execTrayCap (w : Nat) (s : State) := s.run fun now d => d.pldm 12 fun d =>
  if capValid w then ((d.set PWR_CAP.TRAY_CAP_W w).capSet now).say .done
  else (d.raise 0x0808 moduleUnit 0x02 .info [Config.code 0x0808 1, w]).say .refused

/-- PLDM_STATE_REQUEST: Run, Deep Night or Dark, as a write of PWR_STATE_REQ by the module controller. -/
def execPldmStateRequest (req : Nat) (s : State) := s.run fun now d => d.pldm 12 fun d =>
  match req with
  | 0 => (d.stateReq now 4 0 0 fun d => d.toRun now 0).say .done
  | 3 => (d.stateReq now 4 3 (d.get PWR_STATE_REQ.DPMASK) fun d => d.enter now 3 0).say .done
  | 4 => (d.stateReq now 4 4 (d.get PWR_STATE_REQ.DPMASK) fun d => d.enter now 4 0).say .done
  | _ => d.say .refused

/-- Numbers of a mark as ALM_UNIT_HEALTH.STATE has them; 0 and 1 tell service from spare. -/
def Mark.code : Mark → Nat
  | .watch => 2 | .failed => 3 | .retired => 4 | .excluded => 5 | .degraded => 6

/-- The Almanac as a file: AGE and stress hours, power-on seconds, trips, each unit's health, each repair. -/
def Dev.almFile (d : Dev) : List Nat :=
  let m := d.alm
  m.age ++ m.stress ++ [m.poh, m.trips, m.buffer] ++
    m.units.flatMap (fun e => [e.1, (e.2.mark.map Mark.code).getD 0, e.2.wear, e.2.events, e.2.rul]) ++
    m.repairs.flatMap fun e => [e.1, e.2]

/-- The header of a dump as numbers. -/
def DumpHdr.nums (h : DumpHdr) : List Nat := [h.level, h.cause, h.unit, h.ast, h.seq, h.pages, h.at_]

/-- PLDM_FILE_READ: 0 the Almanac, 1 the flash log (records of 64 bytes, newest first), 2 the last dump summary. -/
def execPldmFileRead (file : Nat) (s : State) := s.run fun _ d => d.pldm 5 fun d =>
  match file with
  | 0 => d.reply 0xE034 (0 :: d.almFile)
  | 1 => d.reply 0xE034 (1 :: d.ras.flash.map fun r => r.encode.toNat)
  | 2 => d.reply 0xE034 (2 :: ((d.ras.dumps.head?).map DumpHdr.nums).getD [])
  | _ => d.say .refused

/-- PLDM_EVENT_ACK: the tray controller acknowledges the oldest event held (R527). -/
def execPldmEventAck (s : State) := s.run fun _ d =>
  let d := (d.wakePkg 3).onFw fun f => { f with events := f.events.dropLast }
  if d.fw.events.isEmpty then d.alert .event false else d

/-! ### Power enable (R526, R528) -/

/-- FORCED_POWER_DOWN: PWR_EN falls.  Outside Dark the rails go down with no handshake, 0x080B and the Almanac are written to
flash, and the module is in Dark. -/
def Dev.powerEnFalls (d : Dev) (now : Nat) : Dev :=
  let dark := d.pwr.pkg == Pwr.dark || d.fw.bootStep == 0
  let d := if d.mod.pwrEn then d.onMod fun m => { m with pwrEn := false, pwrEnLowAt := some now } else d
  let d := if dark then d
    else
      let d := d.reportNow now 0x080B moduleUnit 0x02 .contained [d.pwr.pkg.code, d.get PWR_INPUT.PIN] true
      { d with alm := { d.alm with lastWrite := now } }
  d.powerOff

/-- FORCED_POWER_DOWN. -/
def execForcedPowerDown (s : State) := s.run fun now d => d.powerEnFalls now

/-! ### WAKE_n and RESET_n (R526, R535) -/

/-- WAKE_n takes effect: wake source 4; from Dark a cold boot. -/
def Dev.wakePin (d : Dev) (now : Nat) (bad : List Nat) : Dev :=
  if d.fw.bootStep = 0 then d.coldBoot now 4 bad else d.wakePkg 4

/-- WAKE: without PWR_EN, or with a trip latched, no effect; while RESET_n is low it is recorded and waits. -/
def Dev.wakeFalls (d : Dev) (now : Nat) (bad : List Nat) : Dev :=
  if !d.mod.pwrEn || d.mod.tripLatch then d
  else if !d.mod.resetN then (d.lastWake 4 d.pwr.pkg).onMod fun m => { m with wakeHeld := true }
  else d.wakePin now bad

/-- WAKE; `bad` gives the units that fail the bring-up of a cold boot. -/
def execWake (bad : List Nat) (s : State) := s.run fun now d => d.wakeFalls now bad

/-- RESET_RELEASE: a package held at step 4 of its reset, or at step 5 of its cold boot, goes on; then a wake that waited. -/
def Dev.resetRises (d : Dev) (now : Nat) (bad : List Nat) : Dev :=
  let d := d.onMod fun m => { m with resetN := true }
  if d.mod.tripLatch || !d.mod.pwrEn then d
  else
    let d := if d.ras.resets.any fun r => r.level == 5 && r.step == 4 then d.pkgUp now bad
      else if d.fw.bootStep = 5 ∧ d.fw.cold ∧ !d.fw.recovery ∧ !d.fw.stopped then d.bringUp now bad
      else d
    if d.mod.wakeHeld then (d.onMod fun m => { m with wakeHeld := false }).wakePin now bad else d

/-- RESET_RELEASE. -/
def execResetRelease (bad : List Nat) (s : State) := s.run fun now d => d.resetRises now bad

/-! ### PERST_n (R526) -/

/-- PERST_LOW: the port's links are held in reset, DOWN; its functions stay bound, its readiness begins anew. -/
def execPerstLow (port : Nat) (s : State) := s.run fun now d =>
  let d := (d.wakePkg 5).onMod fun m => { m with perst := modifyAt m.perst port fun _ => false }
  let d := (d.linkDown now (linkNo port false) 3).linkDown now (linkNo port true) 3
  (d.set (CXP_STATUS.READY port) 0).set (CXP_STATUS.MEM_ACTIVE port) 0

/-- PERST_RISE: training may start. -/
def execPerstRise (port : Nat) (s : State) := s.run fun _ d =>
  (d.wakePkg 5).onMod fun m => { m with perst := modifyAt m.perst port fun _ => true }

/-! ### Hot insertion (R523) -/

/-- HOT_INSERTION_PRECHARGE: the input reaches a voltage: the input capacitance is charged and, above 46 V, the input stage
and the standby rail are on; the module is in Dark. -/
def execHotInsertionPrecharge (mv : Nat) (s : State) := s.run fun _ d =>
  if d.mod.pwrEn then d
  else
    let on := decide (46000 < mv) && decide (mv < 59000)
    (d.onMod fun m => { m with vinMv := mv, precharged := on, standby := on, inputOn := on }).onPwr fun w => { w with
      lockout := false, rangeRec := false }

/-! ### Cooling (R531, R532) -/

/-- 0x080D with the readings. -/
def Dev.coolantRecord (d : Dev) (now : Nat) : Dev :=
  d.reportNow now 0x080D moduleUnit 0x03 .info [d.mod.flow, d.mod.inlet, d.mod.outlet, d.mod.leak.toNat]

/-- COOLANT_SAMPLE: firmware reads flow (L/min × 10), inlet and outlet (°C × 10). -/
def execCoolantSample (flow inlet outlet : Nat) (s : State) := s.run fun now d =>
  let bad := decide (flow < 80) || decide (400 < inlet)
  let d := d.onMod fun m => { m with
    flow := flow, inlet := inlet, outlet := outlet
    coolAt := if bad then (m.coolAt <|> some now) else none, coolRec := m.coolRec && bad }
  if bad then d else d.alert .coolant false

/-- COOLANT: flow or inlet temperature has been outside its limit for 10 s: 0x080D once, and ALERT_n. -/
def execCoolant (s : State) := s.run fun now d =>
  match d.mod.coolAt with
  | some t =>
    if d.mod.coolRec ∨ now < t + 10 * second then d
    else ((d.onMod fun m => { m with coolRec := true }).alert .coolant true).coolantRecord now
  | none => d

/-- LEAK_DETECT: fluid on the leak trace: LEAK_n low, 0x080D, ALERT_n. -/
def execLeakDetect (s : State) := s.run fun now d =>
  if d.mod.leak then d else ((d.onMod fun m => { m with leak := true }).alert .leak true).coolantRecord now

/-- LEAK_TRACE_DRY: LEAK_n is released. -/
def execLeakTraceDry (s : State) := s.run fun _ d => (d.onMod fun m => { m with leak := false }).alert .leak false

/-! ### Thermal trip (R533, R534) -/

/-- Is a temperature at the trip threshold of its source: a compute die's junction 110 °C, a DRAM die STK_THERM_CTRL.TRIP, a
regulator 125 °C? -/
def Dev.tripsAt (d : Dev) (unit temp : Nat) : Bool :=
  match unit / 8192 with
  | 0 | 6 => decide (110 ≤ temp)
  | 4 => decide (d.get (STK_THERM_CTRL.TRIP (unit % 8192)) ≤ temp)
  | 7 => decide (125 ≤ temp)
  | _ => false

/-- THERMAL_TRIP: every package rail goes off and the trip latches; the module controller writes 0x080C and sends its
notice. -/
def Dev.trip (d : Dev) (now unit temp : Nat) : Dev :=
  if d.mod.tripLatch ∨ !d.tripsAt unit temp ∨ d.fw.bootStep = 0 then d
  else
    let d := (d.onAlm fun m => { m with trips := m.trips + 1 }).powerOff
    let d := (d.onMod fun m => { m with tripLatch := true }).alert .trip true
    d.reportNow now 0x080C moduleUnit 0x03 .fatal [unit, temp] true

/-- THERMAL_TRIP. -/
def execThermalTrip (unit temp : Nat) (s : State) := s.run fun now d => d.trip now unit temp

/-- THERMAL_TRIP_LATCH_CLEAR: PWR_EN has been low for at least 1 s. -/
def execThermalTripLatchClear (s : State) := s.run fun now d =>
  match d.mod.pwrEnLowAt with
  | some t =>
    if d.mod.tripLatch && !d.mod.pwrEn && decide (t + second ≤ now) then
      (d.onMod fun m => { m with tripLatch := false }).alert .trip false
    else d
  | none => d

end Sys2Proof.Machine
end

