-- ==== Sys2Proof/Machine/RegView.lean ====
section
/-!
DEFINITION. What a register shows: the fields of the set-up registers that show state held elsewhere (Table 18-6 and the
register tables of every chapter).

Every other field is the one its word of `regs` holds.  A field that saturates shows its largest value.
-/

namespace Sys2Proof.Machine

/-- A field with the value it shows. -/
abbrev Shown := List (Fld × Nat)

/-- Saturated at `w` bits. -/
def satTo (w v : Nat) : Nat := min v (2 ^ w - 1)

/-- Number of entries of a list that `p` holds of. -/
def countOf {α : Type} (l : List α) (p : α → Bool) : Nat := (l.filter p).length

/-! ### Package-level blocks -/

/-- MGT (Tables 16-8, 18-4). -/
def Dev.showMgt (d : Dev) (off : Nat) : Shown :=
  if off = MGT_ID.off then [(⟨MGT_ID.off, 0, 64⟩, mgtIdWord)]
  else if off = MGT_FW_UPDATE.off then
    [(MGT_FW_UPDATE.IMAGE_STATE, d.fw.imageState),
      (MGT_FW_UPDATE.PENDING, (d.fw.imageState == 2 && d.fw.image != d.fw.ram).toNat),
      (MGT_FW_UPDATE.FLOOR_B, d.fw.floorB), (MGT_FW_UPDATE.FLOOR_R, d.fw.floorR)]
  else []

/-- LCS (Table 15-13). -/
def Dev.showLcs (d : Dev) (off : Nat) : Shown :=
  let l := d.lcs
  if off = LCS_STATE.off then
    [(LCS_STATE.STATE, l.state), (LCS_STATE.OWNER_REQ, l.ownerReq.toNat), (LCS_STATE.OWNER_SET, l.owner.isSome.toNat),
      (LCS_STATE.OWNER_ROW, (l.owner.map (·.1)).getD 0), (LCS_STATE.DEBUG, l.debug),
      (LCS_STATE.LC_ARM, d.mod.lcArm.toNat), (LCS_STATE.IDENTITY, (!l.udsGone).toNat)]
  else if off = LCS_JOURNAL.off then
    [(LCS_JOURNAL.INTENTS, l.journal.length), (LCS_JOURNAL.COMMITS, countOf l.journal (·.commit)),
      (LCS_JOURNAL.VOIDS, countOf l.journal (·.void))]
  else
    match (List.range 3).find? fun r => off == LCS_OWNER_STATE.off r with
    | some r => (match l.owners[r]? with
      | some o => [(LCS_OWNER_STATE.VALID r, 1), (LCS_OWNER_STATE.REVOKED r, o.revoked.toNat)]
      | none => [])
    | none => []

/-- CLK (Tables 13-5, 13-12): a clock is locked where it runs. -/
def Dev.showClk (d : Dev) (off : Nat) : Shown :=
  let up := decide (6 ≤ d.fw.bootStep)
  let run := up && d.pwr.pkg == .run
  if off = CLK_STATUS.off then
    [(CLK_STATUS.CORE_LOCK, diePairs.foldl (fun n p => n + (run && (d.pmu p).pwr == .run).toNat * 2 ^ p) 0),
      (CLK_STATUS.XBR_LOCK, if run then 0xFF else 0), (CLK_STATUS.STK_LOCK, if run then 2 ^ 32 - 1 else 0),
      (CLK_STATUS.MAINT_LOCK, (up && d.pwr.pkg != .dark).toNat)]
  else []

/-- RAS (Table 14-10). -/
def Dev.showRas (d : Dev) (off : Nat) : Shown :=
  if off = RAS_RESET_STATUS.off then [(RAS_RESET_STATUS.BUSY, (!d.ras.resets.isEmpty).toNat)] else []

/-- Unit identifier of ALM_UNIT_HEALTH entry i (R470). -/
def healthUnit (i : Nat) : Nat :=
  if i < 5376 then unitId 0 i
  else if i < 5920 then unitId 1 (i - 5376)
  else if i < 5930 then unitId 2 (i - 5920)
  else if i < 7018 then unitId 3 (i - 5930)
  else if i < 7050 then unitId 4 (i - 7018)
  else if i < 7054 then unitId 5 (i - 7050)
  else if i < 7062 then unitId 6 (i - 7054)
  else unitId 7 0

/-- STATE of a unit's health: its mark, else IN_SERVICE or SPARE as it stands. -/
def Dev.healthState (d : Dev) (i : Nat) : Nat :=
  match (Tbl.look Health.new d.alm.units (healthUnit i)).mark with
  | some m => m.code
  | none =>
    if i < 5376 then ((d.coreAt i).svc == .spare).toNat
    else if i < 5920 then (!d.sliceServes (i - 5376)).toNat
    else if 5930 ≤ i ∧ i < 7018 then
      (d.get (STK_CHAN_HEALTH.PSTATE ((i - 5930) / 34) ((i - 5930) % 34)) == 1).toNat
    else 0

/-- The least of some figures, with the number of the first that has it. -/
def leastOf (l : List Nat) : Nat × Nat :=
  let m := l.foldl min (l.headD 0)
  (m, (indexWhere (fun x => x == m) l).getD 0)

/-- ALM (Table 14-11). -/
def Dev.showAlm (d : Dev) (off : Nat) : Shown :=
  if off = ALM_SUMMARY.off then
    let p := leastProj d.projections
    [(ALM_SUMMARY.HEALTH, d.almHealth), (ALM_SUMMARY.RUL_DAYS, p.days), (ALM_SUMMARY.LIMITER, p.limiter),
      (ALM_SUMMARY.LIMIT_UNIT, p.unit)]
  else if off = ALM_SPARE_STATUS.off then
    let c := leastOf (diePairs.map d.coresLeft)
    let s := leastOf (diePairs.map d.sparesOfSlices)
    let h := leastOf (allStacks.map d.sparesOfChans)
    let l := leastOf (allStacks.map d.lanesLeft)
    let b := leastOf ((List.range 20).map d.bridgeLanesLeft)
    [(ALM_SPARE_STATUS.CORE_MIN, c.1), (ALM_SPARE_STATUS.CORE_DP, c.2), (ALM_SPARE_STATUS.SLICE_MIN, s.1),
      (ALM_SPARE_STATUS.SLICE_DP, s.2), (ALM_SPARE_STATUS.CHAN_MIN, h.1), (ALM_SPARE_STATUS.CHAN_STACK, h.2),
      (ALM_SPARE_STATUS.LANE_MIN, l.1), (ALM_SPARE_STATUS.LANE_STACK, l.2), (ALM_SPARE_STATUS.BLANE_MIN, b.1),
      (ALM_SPARE_STATUS.BLANE_BRIDGE, b.2 / 2), (ALM_SPARE_STATUS.EXHAUSTED, (!d.alm.exhausted.isEmpty).toNat)]
  else if off = ALM_HOURS.off then [(ALM_HOURS.POH, d.alm.poh / 3600)]
  else if ALM_STRESS.off 0 ≤ off ∧ off < ALM_STRESS.off 8 then
    let p := (off - ALM_STRESS.off 0) / 8
    [(ALM_STRESS.STRESS_H p, satTo 32 (d.alm.stress.getD p 0 / 1000000000))]
  else if ALM_UNIT_HEALTH.off 0 ≤ off ∧ off < ALM_UNIT_HEALTH.off 7063 then
    let i := (off - ALM_UNIT_HEALTH.off 0) / 8
    let h := Tbl.look Health.new d.alm.units (healthUnit i)
    [(ALM_UNIT_HEALTH.STATE i, d.healthState i), (ALM_UNIT_HEALTH.WEAR i, satTo 8 h.wear),
      (ALM_UNIT_HEALTH.EVENTS i, satTo 16 h.events), (ALM_UNIT_HEALTH.RUL_DAYS i, satTo 16 h.rul)]
  else []

/-- ADM (Table 11-8). -/
def Dev.showAdm (d : Dev) (now off : Nat) : Shown :=
  if off = ADM_CTX_INFO.off then
    (match Tbl.find d.hif.ctxs (d.get ADM_CTX_SEL.CTX) with
    | some c => if c.ast = d.get ADM_CTX_SEL.ASTID then
        [(ADM_CTX_INFO.INFL, c.infl), (ADM_CTX_INFO.OVERRUNS, satTo 16 c.overruns), (ADM_CTX_INFO.CLEAN, satTo 16 c.clean)]
      else []
    | none => [])
  else if ADM_PORTCRED.off 0 ≤ off ∧ off < ADM_PORTCRED.off 8 then
    let k := (off - ADM_PORTCRED.off 0) / 8
    [(ADM_PORTCRED.TOTAL k, d.linkTotal k), (ADM_PORTCRED.GUAR k, satTo 12 (d.linkGuar k)),
      (ADM_PORTCRED.BE k, satTo 12 (d.linkBe k))]
  else if ADM_MEMRES.off 0 ≤ off ∧ off < ADM_MEMRES.off 512 then
    let i := (off - ADM_MEMRES.off 0) / 8
    [(ADM_MEMRES.ACTIVE i, (d.activePairs.contains (i / 8, i % 8)).toNat),
      (ADM_MEMRES.COMMITTED i, satTo 13 (countOf (d.book (i / 8)) fun e => e.2.cls == i % 8))]
  else if ADM_AST_BOOK0.off 0 ≤ off ∧ off < ADM_AST_BOOK0.off 64 ∧ (off - ADM_AST_BOOK0.off 0) % 64 = 0 then
    let a := (off - ADM_AST_BOOK0.off 0) / 64
    let b := d.book a
    let dl := b.foldl (fun (m : Option Nat) e => match m with
      | some x => some (min x e.2.deadline)
      | none => some e.2.deadline) none
    [(ADM_AST_BOOK0.COMMITTED a, satTo 13 b.length),
      (ADM_AST_BOOK0.NEXT_DL_US a, (dl.map fun x => satTo 32 ((x - now) / 1000)).getD 0)]
  else if ADM_CHAN_LIMIT.off 0 ≤ off ∧ off < ADM_CHAN_LIMIT.off 1024 then
    let l := (off - ADM_CHAN_LIMIT.off 0) / 8
    let o := d.chanOwner l
    [(ADM_CHAN_LIMIT.LIMIT l, d.chanLimit l),
      (ADM_CHAN_LIMIT.ACTIVE l, if o.st = 0 then 0 else satTo 11 (d.activeRate o.ast d.activePairs))]
  else []

/-- Is a unit staged and not bound: in a staged map of an asterism that does not hold it? -/
def Dev.stagedFor (d : Dev) (p : CMap → Bool) : Option Nat :=
  ((d.comp.asts.filter fun e => p e.2.staged && !(match e.2.cur with | some m => p m | none => false)).head?).map (·.1)

/-- Asterism and STATE that an owner register shows: 6 STAGED for an unowned unit that a staged map names. -/
def Dev.ownerShown (d : Dev) (o : Owner) (p : CMap → Bool) : Nat × Nat :=
  if o.st ≠ 0 then (o.ast, o.st)
  else match d.stagedFor p with
    | some a => (a, 6)
    | none => (o.ast, 0)

/-- The map copy CMP_VIEW selects. -/
def Dev.viewed (d : Dev) : Option CMap :=
  let x := d.ast (d.get CMP_VIEW.ASTID)
  match d.get CMP_VIEW.COPY with
  | 0 => some x.staged
  | 1 => x.cur
  | 2 => if d.comp.twoLive then (match x.prev with | some m => some m | none => x.cur) else none
  | _ => none

/-- The two words of an interleave region entry (Table 6-1). -/
def Region.words (g : Region) : Nat × Nat :=
  (setBits (setBits 0 0 1 1) 21 35 (g.vbase / 2 ^ 21),
    setBits (setBits (setBits (setBits 0 0 24 (g.size / 2 ^ 21)) 24 10 (g.n - 1)) 34 11 g.loff) 45 1 g.ps.toNat)

/-- The view windows of R303: regions, list entries four to a word, moves. -/
def Dev.viewWord (d : Dev) (rel : Nat) : Nat :=
  let a := d.get CMP_VIEW.ASTID
  if rel < 0x10400 then
    (match d.viewed.bind fun m => Tbl.find m.regions ((rel - 0x10000) / 16) with
    | some g => if rel % 16 = 0 then g.words.1 else g.words.2
    | none => 0)
  else if 0x11000 ≤ rel ∧ rel < 0x12000 then
    let i := (rel - 0x11000) / 2
    (match d.viewed with
    | some m => (List.range 4).foldl (fun w k => setBits w (16 * k) 16 (Tbl.look 0 m.list (i + k))) 0
    | none => 0)
  else if 0x12000 ≤ rel ∧ rel < 0x16000 then
    (match d.comp.moves.find? fun m => m.ast == a && m.idx == (rel - 0x12000) / 8 with
    | some m => setBits (setBits (setBits (setBits 0 0 1 1) 1 1 m.skipped.isSome.toNat) 2 10 m.dst) 12 27 m.ptr
    | none => 0)
  else 0

/-- CMP (Tables 9-11, 9-12). -/
def Dev.showCmp (d : Dev) (off : Nat) : Shown :=
  let c := d.comp
  if off = CMP_MAP_EPOCH.off then
    [(CMP_MAP_EPOCH.CURRENT, c.epoch), (CMP_MAP_EPOCH.PREVIOUS, c.prevEpoch), (CMP_MAP_EPOCH.TWO_LIVE, c.twoLive.toNat),
      (CMP_MAP_EPOCH.WAITING, satTo 8 c.waiting.length), (CMP_MAP_EPOCH.MODE_EPOCH, c.modeEpoch)]
  else if off = CMP_STATUS.off then
    [(CMP_STATUS.ASTERISMS, countOf c.asts fun e => e.2.state != .free), (CMP_STATUS.MOVES, c.moves.length),
      (CMP_STATUS.MODE_BUSY, c.mode.isSome.toNat), (CMP_STATUS.DRAIN_LATE, c.drainLate.toNat)]
  else if off = CMP_DRAIN.off then
    [(CMP_DRAIN.LAST_DRAIN_US, satTo 32 c.lastDrainUs), (CMP_DRAIN.LAST_PUBLISH_US, satTo 32 c.lastPublishUs)]
  else if CMP_CHAN_OWNER.off 0 ≤ off ∧ off < CMP_CHAN_OWNER.off 1024 then
    let l := (off - CMP_CHAN_OWNER.off 0) / 8
    let o := d.chanOwner l
    let w := d.ownerShown o fun m => m.chans.contains l
    let st := if c.moves.any fun m => m.src == l then 4 else if c.moves.any fun m => m.dst == l then 5 else w.2
    [(CMP_CHAN_OWNER.ASTID l, w.1), (CMP_CHAN_OWNER.STATE l, st), (CMP_CHAN_OWNER.LASTDOM l, o.lastDom)]
  else if CMP_SLICE_OWNER.off 0 ≤ off ∧ off < CMP_SLICE_OWNER.off 544 then
    let k := (off - CMP_SLICE_OWNER.off 0) / 8
    let o := d.sliceOwner k
    let w := d.ownerShown o fun m => m.slices.contains k
    let pos := (((d.ast o.ast).cur).bind fun m => indexWhere (fun x => x == k) m.slices).getD 0
    [(CMP_SLICE_OWNER.ASTID k, w.1), (CMP_SLICE_OWNER.STATE k, w.2), (CMP_SLICE_OWNER.LASTDOM k, o.lastDom),
      (CMP_SLICE_OWNER.POSITION k, pos)]
  else if CMP_AST_STATE.off 0 ≤ off ∧ off < CMP_AST_STATE.off 64 then
    let a := (off - CMP_AST_STATE.off 0) / 0x100
    let x := d.ast a
    let r := (off - CMP_AST_STATE.off 0) % 0x100
    let n := fun (f : CMap → List Nat) => (x.cur.map fun m => (f m).length).getD 0
    if r = 0 then [(⟨off, 0, 64⟩, d.astStateWord a)]
    else if r = 8 then [(CMP_AST_COUNTS.CORES a, n (·.cores)), (CMP_AST_COUNTS.CHANNELS a, n (·.chans)),
      (CMP_AST_COUNTS.SLICES a, n (·.slices))]
    else if r = 0x10 then (List.range 4).flatMap fun p =>
      let f := x.funcs.getD p (0, false)
      [(⟨off, 8 * p, 7⟩, f.1), (⟨off, 8 * p + 7, 1⟩, f.2.toNat)]
    else if 0x40 ≤ r ∧ r < 0x80 then [(⟨off, 0, 64⟩, x.meters.words.getD ((r - 0x40) / 8) 0)]
    else []
  else []

/-- HIF (Table 6-10). -/
def Dev.showHif (d : Dev) (off : Nat) : Shown :=
  if off = HIF_FAULT_HOLD.off then
    [(HIF_FAULT_HOLD.HELD, d.hif.hold.length), (HIF_FAULT_HOLD.SHARED_FREE, 256 - sharedUsed d.hif.hold),
      (HIF_FAULT_HOLD.HOSTDROP, d.hif.hostDrop), (HIF_FAULT_HOLD.BLOCKED, satTo 16 d.hif.blockedQ.length),
      (HIF_FAULT_HOLD.EPISODES, d.hif.nEpisodes)]
  else []

/-- CXP of a port (Table 12-9). -/
def Dev.showCxp (d : Dev) (p rel : Nat) : Shown :=
  if rel = 0 then
    let a := d.link (2 * p)
    let b := d.link (2 * p + 1)
    [(CXP_STATUS.STATE0 p, a.state), (CXP_STATUS.STATE1 p, b.state), (CXP_STATUS.WIDTH0 p, a.width),
      (CXP_STATUS.WIDTH1 p, b.width), (CXP_STATUS.RATE0 p, a.rate), (CXP_STATUS.RATE1 p, b.rate),
      (CXP_STATUS.L0P0 p, a.l0p.toNat), (CXP_STATUS.L0P1 p, b.l0p.toNat),
      (CXP_STATUS.VFS p, countOf d.hif.fns fun f => fnPort f.1 == p && f.2.ast.isSome)]
  else if 0x8000 ≤ rel ∧ rel < 0x8000 + 16 * 48 then
    let w := (d.partner ((rel - 0x8000) / 16)).words
    [(⟨0x180000 + 0x10000 * p + rel, 0, 64⟩, if rel % 16 = 0 then w.1 else w.2)]
  else []

/-! ### Die-pair blocks -/

/-- XBR (Table 8-7): counted entries are those its merges hold (R248). -/
def Dev.showXbr (d : Dev) (p rel : Nat) : Shown :=
  if rel = 0 then
    let m := Tbl.look [] d.net.merges p
    [(XBR_STATUS.RED_USED p, satTo 13 (d.redOf p).length),
      (XBR_STATUS.RED_COUNTED p, satTo 13 (m.foldl (fun n j => n + ((Tbl.find d.sweeps j).map fun x => ceilDiv (wEntries x.slot * (16 + 4 * wD x.slot)) 64).getD 0) 0)),
      (XBR_STATUS.MERGES p, m.length)]
  else if rel = 0x18 then
    [(XBR_SLICE.POISONED p, satTo 16 (countOf d.slice fun e => e.1 / 2 ^ 16 / 68 == p && e.2.poison))]
  else if rel = 0x20 then
    let i := (indexWhere (fun x => x == p) ringOrder).getD 0
    let dn := fun net k => (d.net.broken.contains (net, k)).toNat
    (List.range 3).flatMap fun net =>
      [(⟨0x400020 + 0x100000 * p, 4 * net, 2⟩, dn net ((i + 7) % 8)), (⟨0x400020 + 0x100000 * p, 4 * net + 2, 2⟩, dn net i)]
  else []

/-- BRG (Table 8-8): bridges as the die pair sees them, and the next hop on the way to each other die pair. -/
def Dev.showBrg (d : Dev) (p rel : Nat) : Shown :=
  if rel < 0x18 then
    let j := rel / 8
    let k := brgBridge p j
    if k = 15 then []
    else
      let b := d.bridge k
      let up := j == 0 || (j == 2 && decide (p < 4))
      let lanes := b.lanes up
      let st := if b.down then 2 else if b.lanesUp < 30 ∨ b.lanesDn < 30 then 1 else 0
      [(BRG_LINK.STATE p j, st), (BRG_LINK.LANES_OUT p j, lanes),
        (BRG_LINK.SPARES_OUT p j, if up then b.sparesUp else b.sparesDn), (BRG_LINK.RATE_OUT p j, lanes * 2133 / 100),
        (BRG_LINK.RETRIES p j, if up then b.retriesUp else b.retriesDn)]
  else if 0x100 ≤ rel ∧ rel < 0x140 then
    let e := (rel - 0x100) / 8
    if e = p then []
    else match d.way p e with
      | none => [(BRG_ROUTE.UNREACH p e, 1)]
      | some l =>
        let y := l.headD p
        let hop := if y / 4 ≠ p / 4 then 2 else if p < y then 0 else 1
        [(BRG_ROUTE.NEXT p e, hop), (BRG_ROUTE.DETOUR p e, (l != viaRow p e).toNat)]
  else []

/-- COR, the window of a core (Tables 3-14, 3-15). -/
def Dev.showCor (d : Dev) (c rel : Nat) : Shown :=
  let k := d.coreAt c
  let t := fun (f : Tile → Nat) => (k.tile.map f).getD 0
  if rel = 0 then
    [(COR_STATE.SVC (c / 672) (c % 672), k.svc.code), (COR_STATE.PWR (c / 672) (c % 672), k.pwr.code), (COR_STATE.ASTID (c / 672) (c % 672), k.bound.getD 0),
      (COR_STATE.BOUND (c / 672) (c % 672), k.bound.isSome.toNat), (COR_STATE.CTX (c / 672) (c % 672), t (·.own.ctx)), (COR_STATE.STEP (c / 672) (c % 672), t (·.step)),
      (COR_STATE.RESETS (c / 672) (c % 672), k.resets)]
  else if rel = 8 then
    [(COR_TILE.TILE (c / 672) (c % 672), t fun x => if x.ar.isEmpty then x.own.t else arOf x.ar 0),
      (COR_TILE.QUEUE (c / 672) (c % 672), t (·.own.queue)), (COR_TILE.REPLAYS (c / 672) (c % 672), t (·.replays))]
  else if rel = 0x10 then [(COR_COST.LAST_MC (c / 672) (c % 672), k.lastMc), (COR_COST.CY (c / 672) (c % 672), t (·.cy))]
  else if rel = 0x18 then
    [(COR_COUNTS.TILES (c / 672) (c % 672), k.tiles), (COR_COUNTS.OVERRUNS (c / 672) (c % 672), k.overruns), (COR_COUNTS.SPAD_CE (c / 672) (c % 672), k.spadCe),
      (COR_COUNTS.ABORTS (c / 672) (c % 672), k.aborts)]
  else if rel = 0x20 then [(COR_CFG.EXCLUDE (c / 672) (c % 672), k.exclude.toNat)]
  else []

/-- DSP (Table 18-5). -/
def Dev.showDsp (d : Dev) (p rel : Nat) : Shown :=
  if rel = 0 then
    let l := d.residents p
    let q := d.residentQueues p
    [(DSP_STATUS.CTX_RES p, l.length), (DSP_STATUS.Q_RES p, q.length),
      (DSP_STATUS.CTX_PINNED p, countOf l fun e => d.pinned e.1),
      (DSP_STATUS.Q_PINNED p, countOf q fun e => d.pinned e.2.ctx)]
  else []

/-- PMU (Table 13-12). -/
def Dev.showPmu (d : Dev) (p rel : Nat) : Shown :=
  let u := d.pmu p
  if rel = 0 then
    [(PMU_STATUS.OP p, u.op), (PMU_STATUS.CHANGING p, u.goal.isSome.toNat), (PMU_STATUS.STATE p, (u.pwr != .run).toNat),
      (PMU_STATUS.TJ p, satTo 8 u.tj), (PMU_STATUS.VSET p, d.vset p u.op),
      (PMU_STATUS.BRAKED p, (d.flag PWR_BUFFER_ENERGY.BRAKE || u.limited).toNat), (PMU_STATUS.HOLD p, u.held)]
  else if rel = 8 then
    [(PMU_LEAVE.SHARE_W p, satTo 16 (u.share / 1000)), (PMU_LEAVE.GRANTED_W p, satTo 16 (u.leave / 1000)),
      (PMU_LEAVE.WAITING p, satTo 16 (countOf d.pwr.reqs fun r => r.dp == p))]
  else []

/-! ### Stack blocks -/

/-- STK (Table 5-9): a patrol period of 0 reads as 24. -/
def Dev.showStk (d : Dev) (s rel : Nat) : Shown :=
  if rel = 0x18 then (if d.get (STK_ECC_CTRL.PATROL_H s) = 0 then [(STK_ECC_CTRL.PATROL_H s, 24)] else []) else []

/-- TRN (Table 6-11). -/
def Dev.showTrn (d : Dev) (s rel : Nat) : Shown :=
  let t := d.stack s
  if rel = 0 then
    [(TRN_STATUS.CACHED s, satTo 19 t.cache.length), (TRN_STATUS.NODES s, satTo 15 (d.nodesInUse s t.table)),
      (TRN_STATUS.PENDING s, satTo 9 t.pend.length), (TRN_STATUS.PURGING s, satTo 9 t.purge.length),
      (TRN_STATUS.CLOSED s, (!t.closed.isEmpty).toNat)]
  else if 0x100 ≤ rel ∧ rel < 0x300 then
    let a := (rel - 0x100) / 8
    let holds := d.holdsStack a s || t.table.any fun e => tkeyAst e.1 == a
    [(TRN_QUOTA.LIMIT s a, d.nodeLimit a s), (TRN_QUOTA.USED s a, if holds then nodesUsed t.table a else 0)]
  else []

/-- SWP (Table 7-8). -/
def Dev.showSwp (d : Dev) (s rel : Nat) : Shown :=
  let ps := d.sweeps.flatMap fun e => e.2.parts.filter (·.stack == s)
  if rel = 0 then
    [(SWP_STATUS.JOBS s, satTo 3 (countOf ps (·.active))), (SWP_STATUS.WAITING s, satTo 8 (countOf ps fun p => !p.active)),
      (SWP_STATUS.STREAMING s, (ps.any fun p => !p.stream.isEmpty).toNat)]
  else if rel = 0x20 then [(SWP_HELD.HELD s, satTo 19 (ps.foldl (fun n p => n + p.aside.length) 0))]
  else []

/-! ### Reading a register -/

/-- The fields of the word at an offset that show state held elsewhere. -/
def Dev.shown (d : Dev) (now off : Nat) : Shown :=
  match regPlace off with
  | none => []
  | some p =>
    if off < 0x10000 then d.showMgt off
    else if off < 0x20000 then d.showLcs off
    else if off < 0x30000 then []
    else if off < 0x40000 then d.showClk off
    else if off < 0x50000 then d.showRas off
    else if off < 0x60000 then d.showAlm off
    else if off < 0xC0000 then d.showAdm now off
    else if off < 0x100000 then d.showCmp off
    else if off < 0x180000 then d.showHif off
    else if off < 0x1C0000 then d.showCxp p.inst p.rel
    else if off < 0xC00000 then
      let r := off % 0x100000
      if r < 0x10000 then d.showXbr p.inst p.rel
      else if r < 0x20000 then d.showBrg p.inst p.rel
      else if r < 0x2A800 then d.showCor p.inst p.rel
      else if r < 0x50000 then d.showDsp p.inst p.rel
      else d.showPmu p.inst p.rel
    else
      let r := off % 0x40000
      if r < 0x10000 then d.showStk p.inst p.rel
      else if r < 0x20000 then d.showTrn p.inst p.rel
      else d.showSwp p.inst p.rel

/-- Is an offset in a byte window (R542): 0 LCS_DEBUG_CHALLENGE, 1 LCS_OWNER, 2 LCS_TOKEN, 3 RAS_DUMP_DATA? -/
def byteWindow (off : Nat) : Option Nat :=
  if 0x10100 ≤ off ∧ off < 0x10120 then some 0
  else if 0x10200 ≤ off ∧ off < 0x10380 ∧ (off - 0x10200) % 0x80 < 0x40 then some 1
  else if 0x10400 ≤ off ∧ off < 0x10600 then some 2
  else if 0x41000 ≤ off ∧ off < 0x42000 then some 3
  else none

/-- Eight bytes of a window.  LCS_TOKEN reads as zero; what a dump page holds is free. -/
def Dev.windowWord (d : Dev) (w off : Nat) : Nat :=
  match w with
  | 0 => d.lcs.challenge / 2 ^ (8 * (off - 0x10100)) % 2 ^ 64
  | 1 =>
    match d.lcs.owners[(off - 0x10200) / 0x80]? with
    | some o => o.hash / 2 ^ (8 * ((off - 0x10200) % 0x80)) % 2 ^ 64
    | none => 0
  | 3 =>
    if d.flag RAS_DUMP_BASE.VALID then
      Config.code 0x41000 (d.get RAS_DUMP_BASE.PAGE * 512 + (off - 0x41000) / 8) % 2 ^ 64
    else 0
  | _ => 0

/-- The word at an 8-byte-aligned offset, as a read sees it: a reserved offset and a block that is down read as zero (R541,
R546). -/
def Dev.readReg (d : Dev) (now off : Nat) : Nat :=
  if d.blockDown off then 0
  else
    match byteWindow off with
    | some w => d.windowWord w off
    | none =>
      if 0xD0000 ≤ off ∧ off < 0xD6000 then d.viewWord (off - 0xC0000)
      else (d.shown now off).foldl (fun w f => setBits w f.1.lo f.1.w f.2) (d.reg off)

/-- A read of `size` bytes through a path (R542, R543, R460): one of another size or alignment reads as zero. -/
def Dev.readThrough (d : Dev) (now path off size : Nat) : Nat :=
  if (size ≠ 4 ∧ size ≠ 8) ∨ off % size ≠ 0 then 0
  else if byteWindow off = some 3 ∧ !d.mayWrite path off then 0
  else
    let w := d.readReg now (off / 8 * 8)
    if size = 8 then w else bits w (8 * (off % 8)) 32

end Sys2Proof.Machine
end

