-- ==== Sys2Proof/Machine/Registers.lean ====
section
/-!
DEFINITION. Writes of set-up registers (R542 to R545) and the management ring (R549).

A write goes through the path's mask and the blocks that are down, then its size and alignment, then the lock; a field
written outside the range its table states keeps its value.
-/

namespace Sys2Proof.Machine

/-! ### The management ring (R549) -/

/-- A ring write is ignored and counted. -/
def Dev.ringDenied (d : Dev) : Dev := d.sat MGT_STATUS.RING_DENIED 1

/-- SPACE of a path: 0 the module controller, 1 to 4 function 0 of a port. -/
def spaceOf (path : Nat) : Nat := if path < 4 then path + 1 else 0

/-- Does another path own the ring? -/
def Dev.ringTaken (d : Dev) (path : Nat) : Bool :=
  d.flag MGT_RING_BASE.EN && d.get MGT_RING_BASE.SPACE != spaceOf path

/-- A write that sets EN: the path owns the ring, and its positions start at 0. -/
def Dev.ringEnable (d : Dev) (path : Nat) : Dev :=
  let d := ((d.set MGT_RING_BASE.SPACE (spaceOf path)).set MGT_RING_BASE.EN 1).onHif fun h => { h with mold := none }
  (((d.setReg MGT_DOORBELL.off 0).setReg MGT_RING_HEAD.off 0).setReg MGT_CQ_HEAD.off 0).setReg MGT_CQ_TAIL.off 0

/-- A write of MGT_RING_BASE. -/
def Dev.ringBase (d : Dev) (path v : Nat) : Dev :=
  let base := bits v 12 52
  if d.ringTaken path then d.ringDenied
  else if d.flag MGT_RING_BASE.EN then
    let d := if base = d.get MGT_RING_BASE.BASE then d else d.ringDenied
    if bit v 0 then d else d.mgtDisable
  else if bit v 0 && d.mgtDue then d
  else
    let d := d.set MGT_RING_BASE.BASE base
    if bit v 0 && d.flag MGT_STATUS.READY then d.ringEnable path else d

/-- MGT_RING_ENABLE. -/
def execMgtRingEnable (path : Nat) (value : Word) (s : State) := s.run fun now d =>
  if bit value.toNat 0 then d.writeThrough now path MGT_RING_BASE.off fun d => d.ringBase path value.toNat else d

/-- MGT_RING_DISABLE. -/
def execMgtRingDisable (path : Nat) (value : Word) (s : State) := s.run fun now d =>
  if bit value.toNat 0 then d else d.writeThrough now path MGT_RING_BASE.off fun d => d.ringBase path value.toNat

/-- A write of MGT_DOORBELL: accepted under the conditions of R315, and a wake source either way (R546). -/
def Dev.ringDoorbell (d : Dev) (path t : Nat) : Dev :=
  let old := d.get MGT_DOORBELL.TAIL
  let head := d.get MGT_RING_HEAD.HEAD
  let ok := decide ((t + 2 ^ 32 - old) % 2 ^ 32 < 2 ^ 31) &&
    decide ((t + 2 ^ 32 - head) % 2 ^ 32 ≤ 2 ^ d.get MGT_RING_SIZE.LOG2N)
  (if d.ringTaken path || !ok then d.ringDenied else d.set MGT_DOORBELL.TAIL t).wakePkg 2

/-- MGT_DOORBELL_WRITE. -/
def execMgtDoorbellWrite (path value : Nat) (s : State) := s.run fun now d =>
  d.writeThrough now path MGT_DOORBELL.off fun d => d.ringDoorbell path (value % 2 ^ 32)

/-- A write of MGT_CQ_HEAD: one that would pass CQ_TAIL is ignored. -/
def Dev.ringCqHead (d : Dev) (now path h : Nat) : Dev :=
  let old := d.get MGT_CQ_HEAD.HEAD
  if d.ringTaken path then d.ringDenied
  else if (d.get MGT_CQ_TAIL.TAIL + 2 ^ 32 - old) % 2 ^ 32 < (h + 2 ^ 32 - old) % 2 ^ 32 then d
  else Dev.mgtDrain now d.hif.mheld.length (d.set MGT_CQ_HEAD.HEAD h)

/-- MGT_CQ_HEAD_WRITE. -/
def execMgtCqHeadWrite (path value : Nat) (s : State) := s.run fun now d =>
  d.writeThrough now path MGT_CQ_HEAD.off fun d => d.ringCqHead now path (value % 2 ^ 32)

/-- Is the owner of the management ring within reach? -/
def Dev.ringOwnerUp (d : Dev) : Bool :=
  let p := d.get MGT_RING_BASE.SPACE
  p == 0 || (d.link (2 * (p - 1))).state != 0 || (d.link (2 * (p - 1) + 1)).state != 0

/-- Firmware fetches the next slot; `delta` is what lies at the DELTA it names. -/
def Dev.ringFetch (d : Dev) (now : Nat) (slot : Line) (delta : List Line) : Dev :=
  let h := d.get MGT_RING_HEAD.HEAD
  if d.flag MGT_RING_BASE.EN && h != d.get MGT_DOORBELL.TAIL && d.hif.mheld.isEmpty && d.ringOwnerUp then
    (d.set MGT_RING_HEAD.HEAD (h + 1)).mgtTake now h none slot delta
  else d

/-- MGT_RING_FETCH. -/
def execMgtRingFetch (slot : Line) (delta : List Line) (s : State) := s.run fun now d => d.ringFetch now slot delta

/-! ### Ranges of fields -/

/-- A field's stated range: low bit, width, least and largest value. -/
structure Range where
  lo : Nat
  w : Nat
  least : Nat
  most : Nat
  deriving DecidableEq, Repr

/-- The range of a field. -/
def Fld.within (f : Fld) (least most : Nat) : Range := ⟨f.lo, f.w, least, most⟩

/-- Ranges of the fields of a word with fewer values than bits, by offset. -/
def ranges (off : Nat) : List Range :=
  if off = MGT_RING_SIZE.off then [MGT_RING_SIZE.LOG2N.within 6 16, MGT_RING_SIZE.CLOG2N.within 6 16]
  else if off = PWR_CAP.off then [PWR_CAP.MARGIN_W.within 50 1000]
  else if off = PWR_SLEW_LIMIT.off then [PWR_SLEW_LIMIT.LIMIT.within 50 250]
  else if off = PWR_BUFFER_ENERGY.off then
    [PWR_BUFFER_ENERGY.SETPOINT.within 12 30, PWR_BUFFER_ENERGY.RESERVE.within 2 10]
  else if off = PWR_WAVE.off then [PWR_WAVE.STEP_W.within 50 1000, PWR_WAVE.DELTA.within 5 200]
  else if off = PWR_CTRL.off then
    [PWR_CTRL.NIGHT_AFTER_US.within 50 65535, PWR_CTRL.TJ_THROTTLE.within 85 104]
  else if off = PWR_DROOP.off then [PWR_DROOP.THRESH.within 20 80]
  else if off = RAS_ERRQ_SIZE.off then [RAS_ERRQ_SIZE.LOG2N.within 6 16, RAS_ERRQ_SIZE.RESV.within 4 64]
  else if off = RAS_HANG_CTRL.off then
    [RAS_HANG_CTRL.PERIOD_MS.within 1 255, RAS_HANG_CTRL.NOPROG_MS.within 100 65535]
  else if off = ALM_CTRL.off then
    [ALM_CTRL.HORIZON_DAYS.within 30 3650, ALM_CTRL.CORE_UE_LIMIT.within 1 255, ALM_CTRL.SLICE_CE_LIMIT.within 1 255]
  else if off = ADM_CTRL.off then [ADM_CTRL.MAX_BOUND_US.within 1 1048575, ADM_CTRL.DECAY.within 1 255]
  else if ADM_MEMRES.off 0 ≤ off ∧ off < ADM_MEMRES.off 512 then [(ADM_MEMRES.RATE 0).within 0 1000]
  else if ADM_LINKRES.off 0 ≤ off ∧ off < ADM_LINKRES.off 64 then
    [(ADM_LINKRES.L0 0).within 0 1024, (ADM_LINKRES.L1 0).within 0 1024, (ADM_LINKRES.L2 0).within 0 1024,
      (ADM_LINKRES.L3 0).within 0 1024]
  else if ADM_CLASS_PARAM_A.off 0 ≤ off ∧ off < ADM_CLASS_PARAM_A.off 8 then
    (if off % 16 = 0 then
      [(ADM_CLASS_PARAM_A.BASEPRI 0).within 0 12, (ADM_CLASS_PARAM_A.TARGET 0).within 1 4095,
        (ADM_CLASS_PARAM_A.READ_BUDGET 0).within 1 2048, (ADM_CLASS_PARAM_A.WRITE_BUDGET 0).within 1 1024]
    else [(ADM_CLASS_PARAM_B.CHAN_CREDITS 0).within 1 255])
  else if off = CMP_VIEW.off then [CMP_VIEW.COPY.within 0 2]
  else if CMP_AST_STATE.off 0 ≤ off ∧ off < CMP_AST_STATE.off 64 then
    (if off % 0x100 = 0x18 then [(CMP_AST_MODE_S.TSLICE_US 0).within 100 65535] else [])
  else if off = HIF_FAULTQ_SIZE.off then [HIF_FAULTQ_SIZE.LOG2N.within 6 16]
  else if HIF_QUOTA_A.off 0 ≤ off ∧ off < HIF_QUOTA_A.off 64 then
    (if off % 16 = 0 then [(HIF_QUOTA_A.CTX_LIMIT 0).within 0 65536, (HIF_QUOTA_A.QUEUE_LIMIT 0).within 0 65536]
    else [(HIF_QUOTA_B.OBJ_LIMIT 0).within 0 16777216, (HIF_QUOTA_B.EVT_LIMIT 0).within 0 1048575])
  else if (List.range 4).any fun p => off == CXP_CTRL.off p then [(CXP_CTRL.MAXRATE 0).within 2 5]
  else []

/-- A new word with every field outside its range put back to the old word's. -/
def inRange (off old new : Nat) : Nat :=
  (ranges off).foldl (fun w r =>
    if r.least ≤ bits w r.lo r.w ∧ bits w r.lo r.w ≤ r.most then w else setBits w r.lo r.w (bits old r.lo r.w)) new

/-- Are thermal thresholds in order, each above the one before, TRIP above T4 (Table 5-9)? -/
def thermOrder (w : Nat) : Bool :=
  decide (bits w 0 8 < bits w 8 8) && decide (bits w 8 8 < bits w 16 8) && decide (bits w 16 8 < bits w 24 8) &&
    decide (bits w 24 8 < bits w 32 8)

/-! ### A write of one word -/

/-- The bits of a value, and those a mask keeps of another. -/
def merge (old v m : Nat) : Nat := (old - (old &&& m)) + (v &&& m)

/-- The bits of a register that a write may change: RW, and RWB until the lock (R544). -/
def Dev.writable (d : Dev) (r : RegSpec) : Nat := if d.flag MGT_LOCKDOWN.LOCK then r.rw else r.rw ||| r.rwb

/-- A write that reaches a locked field is counted (R544). -/
def Dev.lockCount (d : Dev) (r : RegSpec) (cov : Nat) : Dev :=
  if d.flag MGT_LOCKDOWN.LOCK && r.rwb &&& cov != 0 then d.sat MGT_STATUS.BAD_ACCESS 1 else d

/-- The word a plain write leaves: the writable bits it covers, fields in their ranges, W1C bits written 1 cleared. -/
def Dev.written (d : Dev) (r : RegSpec) (off v cov : Nat) : Nat :=
  let old := d.reg off
  let new := inRange off old (merge old v (d.writable r &&& cov))
  new - (new &&& (v &&& cov &&& r.w1c))

/-- A plain write. -/
def Dev.plainWrite (d : Dev) (r : RegSpec) (off v cov : Nat) : Dev := d.setReg off (d.written r off v cov)

/-- COR_CFG.EXCLUDE: boot code takes a core out of use, or lets it be a spare again (Table 3-13). -/
def Dev.excludeCore (d : Dev) (c : Nat) (on : Bool) : Dev :=
  d.onCore c fun k =>
    if on then { k with exclude := true, svc := .excluded, bound := none }
    else { k with exclude := false, svc := if k.svc = Svc.excluded then .spare else k.svc }

/-- A write of PWR_STATE_REQ: other values of REQ are ignored (Table 13-12). -/
def Dev.stateWrite (d : Dev) (now path w : Nat) : Dev :=
  let mask := bits w 8 8
  match bits w 0 3 with
  | 0 => d.stateReq now path 0 mask fun d => d.toRun now mask
  | 2 => d.stateReq now path 2 mask fun d => if mask = 0 then d.entryOver 2 0 0 else d.enter now 2 mask
  | 3 => d.stateReq now path 3 mask fun d => d.enter now 3 0
  | 4 => d.stateReq now path 4 mask fun d => d.enter now 4 0
  | _ => d

/-- A write of HIF_INV_DOORBELL: SCOPE 2 and 3 are reserved, and the write is ignored. -/
def Dev.invWrite (d : Dev) (now path w : Nat) : Dev :=
  match bits w 6 2 with
  | 0 => d.invDoorbell now path (bits w 0 6) none
  | 1 => d.invDoorbell now path (bits w 0 6) (some (bits w 8 16))
  | _ => d

/-- A write of CXP_VF_WIN: refused while the VF's TDI is locked (R397). -/
def Dev.windowSet (d : Dev) (p n : Nat) (f : Dev → Dev) : Dev :=
  let half := n / 64
  let vf := n % 64 + 1
  match (d.fn (fnOf p (half == 1) vf)).tdi with
  | .locked | .run => d.raise 0x070B (unitId 5 p) half .info [Config.code 0x070B 1, vf]
  | _ => f d

/-- A write of a port's block. -/
def Dev.cxpWrite (d : Dev) (r : RegSpec) (p rel off v cov w : Nat) : Dev :=
  if 0x100 ≤ rel ∧ rel < 0x200 then d.hdmMap p ((rel - 0x100) / 8) (BitVec.ofNat 64 w)
  else if 0x408 ≤ rel ∧ rel < 0x808 then d.windowSet p ((rel - 0x408) / 8) fun d => d.plainWrite r off v cov
  else d.plainWrite r off v cov

/-- A write of bytes `cov` of the register at an offset: to the rule of its own, where it has one. `w` is the word with the
bytes written in place. -/
def Dev.wordWrite (d : Dev) (now path : Nat) (r : RegSpec) (inst rel off v cov : Nat) : Dev :=
  let w := merge (d.reg off) v cov
  let plain := d.plainWrite r off v cov
  if off = MGT_RING_BASE.off then d.ringBase path w
  else if off = MGT_RING_SIZE.off ∨ off = MGT_CQ_BASE.off then
    (if d.flag MGT_RING_BASE.EN then d.ringDenied else plain)
  else if off = MGT_DOORBELL.off then d.ringDoorbell path (w % 2 ^ 32)
  else if off = MGT_CQ_HEAD.off then d.ringCqHead now path (w % 2 ^ 32)
  else if off = MGT_LOCKDOWN.off then
    (if !bit (v &&& cov) 0 then d
    else if d.flag MGT_LOCKDOWN.LOCK then d.sat MGT_STATUS.BAD_ACCESS 1 else d.lockdown)
  else if off = LCS_TRANSITION.off then (if bit (v &&& cov) 3 then d else plain)
  else if off = PWR_STATE_REQ.off then (if bit cov 0 then d.stateWrite now path w else d)
  else if off = RAS_ERRQ_BASE.off then d.errqEnable now (BitVec.ofNat 64 w)
  else if off = RAS_ERRQ_HEAD.off then d.errqHead now (w % 2 ^ 32)
  else if off = RAS_RESET_CTRL.off then d.resetCtrl now v
  else if off = RAS_DUMP_BASE.off then
    (if bit (v &&& cov) 2 && d.flag RAS_DUMP_BASE.VALID then plain.dumpRelease else plain)
  else if off = ADM_DERATE.off then (if bit cov 0 then d.derate (w % 1024) else d)
  else if ADM_MEMRES.off 0 ≤ off ∧ off < ADM_MEMRES.off 512 then
    (if d.activePairs.contains ((off - ADM_MEMRES.off 0) / 64, (off - ADM_MEMRES.off 0) / 8 % 8) then d else plain)
  else if off = HIF_FAULTQ_BASE.off then plain.drain now none
  else if off = HIF_FAULTQ_SIZE.off then
    (if bit cov 8 then
      let keep := d.get HIF_FAULTQ_SIZE.HEAD
      (plain.set HIF_FAULTQ_SIZE.HEAD keep).mgtHead now (bits w 8 17)
    else plain)
  else if off = HIF_INV_DOORBELL.off then d.invWrite now path v
  else if 0x180000 ≤ off ∧ off < 0x1C0000 then d.cxpWrite r inst rel off v cov w
  else if 0x400000 ≤ off ∧ off < 0xC00000 ∧ 0x20000 ≤ off % 0x100000 ∧ off % 0x100000 < 0x2A800 then
    (if rel = 0x20 ∧ bit cov 0 ∧ !d.flag MGT_LOCKDOWN.LOCK then d.excludeCore inst (bit v 0) else d)
  else if 0xC00000 ≤ off ∧ rel = 0x20 ∧ r.rwb = 0xFFFFFFFFFF then
    (if thermOrder (d.written r off v cov) then plain else d)
  else plain

/-- A write of `n` bytes of LCS_TOKEN. -/
def Dev.tokenWrite (d : Dev) (off n v : Nat) : Dev :=
  let at_ := off - 0x10400
  let t := (List.range n).foldl (fun t i => Tbl.put t (at_ + i) (BitVec.ofNat 8 (v / 2 ^ (8 * i)))) d.lcs.token
  { d with lcs := { d.lcs with token := t } }

/-- REGISTER_WRITE: `size` bytes at an offset through a path. -/
def Dev.regWrite (d : Dev) (now path off size v : Nat) : Dev :=
  let bad := fun (d : Dev) => d.sat MGT_STATUS.BAD_ACCESS 1
  d.writeThrough now path off fun d =>
    if (size ≠ 4 ∧ size ≠ 8) ∨ off % size ≠ 0 then bad d
    else
      let base := off / 8 * 8
      let v := if size = 8 then v else v % 2 ^ 32 * 2 ^ (8 * (off % 8))
      let cov := if size = 8 then 2 ^ 64 - 1 else (2 ^ 32 - 1) * 2 ^ (8 * (off % 8))
      match byteWindow off with
      | some 2 => d.tokenWrite off size (v / 2 ^ (8 * (off % 8)))
      | some _ => d
      | none =>
        match regPlace base, regSpec base with
        | some p, some (r, _, _) =>
          if size = 4 ∧ (base = MGT_DOORBELL.off ∨ (r.wo ≠ 0 ∧ r.rw = 0)) then bad d
          else (d.wordWrite now path r p.inst p.rel base v cov).lockCount r (if base = MGT_LOCKDOWN.off then 0 else cov)
        | _, _ => d

/-- REGISTER_WRITE. -/
def execRegisterWrite (path off size : Nat) (value : Word) (s : State) := s.run fun now d =>
  d.regWrite now path off size value.toNat

end Sys2Proof.Machine
end

