-- ==== Sys2Proof/Machine/Dispatch.lean ====
section
/-!
DEFINITION. Which meaning each command has: one arm per constructor, one direct call.
-/

namespace Sys2Proof.Machine

def exec (i : Instr) (s : State) : Host.Outcome State Fault Refusal :=
  match i with
  | .nop q => Sys2Proof.Machine.execNop q s
  | .tile q => Sys2Proof.Machine.execTile q s
  | .xferStore q => Sys2Proof.Machine.execXferStore q s
  | .xferAdd q => Sys2Proof.Machine.execXferAdd q s
  | .sweep q => Sys2Proof.Machine.execSweep q s
  | .signalSet q => Sys2Proof.Machine.execSignalSet q s
  | .signalAdd q => Sys2Proof.Machine.execSignalAdd q s
  | .signalMax q => Sys2Proof.Machine.execSignalMax q s
  | .wait q => Sys2Proof.Machine.execWait q s
  | .waitTimeout id => Sys2Proof.Machine.execWaitTimeout id s
  | .acquire q => Sys2Proof.Machine.execAcquire q s
  | .acquireTimeout id => Sys2Proof.Machine.execAcquireTimeout id s
  | .release q => Sys2Proof.Machine.execRelease q s
  | .barrier q => Sys2Proof.Machine.execBarrier q s
  | .hint q => Sys2Proof.Machine.execHint q s
  | .hintOpen b => Sys2Proof.Machine.execHintOpen b s
  | .hintClose b => Sys2Proof.Machine.execHintClose b s
  | .abort q => Sys2Proof.Machine.execAbort q s
  | .call q => Sys2Proof.Machine.execCall q s
  | .freeObject q => Sys2Proof.Machine.execFreeObject q s
  | .map q => Sys2Proof.Machine.execMap q s
  | .unmap q => Sys2Proof.Machine.execUnmap q s
  | .invalidate q => Sys2Proof.Machine.execInvalidate q s
  | .bind m => Sys2Proof.Machine.execBind m s
  | .unbind m => Sys2Proof.Machine.execUnbind m s
  | .attach m => Sys2Proof.Machine.execAttach m s
  | .detach m => Sys2Proof.Machine.execDetach m s
  | .detachForce m rest => Sys2Proof.Machine.execDetachForce m rest s
  | .quiesce m => Sys2Proof.Machine.execQuiesce m s
  | .quiescent a => Sys2Proof.Machine.execQuiescent a s
  | .quiesceTimeout a => Sys2Proof.Machine.execQuiesceTimeout a s
  | .resume m => Sys2Proof.Machine.execResume m s
  | .commitMode m => Sys2Proof.Machine.execCommitMode m s
  | .modeAck unit => Sys2Proof.Machine.execModeAck unit s
  | .modeChangeRolledBack => Sys2Proof.Machine.execModeChangeRolledBack s
  | .spareSwap m => Sys2Proof.Machine.execSpareSwap m s
  | .contextRevoke src m op rest => Sys2Proof.Machine.execContextRevoke src m op rest s
  | .revokeFinal ctx => Sys2Proof.Machine.execRevokeFinal ctx s
  | .revokeTimeout ctx => Sys2Proof.Machine.execRevokeTimeout ctx s
  | .setCap m => Sys2Proof.Machine.execSetCap m s
  | .capHoldStep => Sys2Proof.Machine.execCapHoldStep s
  | .capReleaseStep => Sys2Proof.Machine.execCapReleaseStep s
  | .capSettled => Sys2Proof.Machine.execCapSettled s
  | .floorRecompute watts => Sys2Proof.Machine.execFloorRecompute watts s
  | .ctxCreate fn op => Sys2Proof.Machine.execCtxCreate fn op s
  | .ctxResume fn op => Sys2Proof.Machine.execCtxResume fn op s
  | .queueCreate fn op => Sys2Proof.Machine.execQueueCreate fn op s
  | .queueDestroy fn op => Sys2Proof.Machine.execQueueDestroy fn op s
  | .objCreate fn op => Sys2Proof.Machine.execObjCreate fn op s
  | .eventCreate fn op => Sys2Proof.Machine.execEventCreate fn op s
  | .eventDestroy fn op => Sys2Proof.Machine.execEventDestroy fn op s
  | .query fn op => Sys2Proof.Machine.execQuery fn op s
  | .dbTailWrite fn dbidx value => Sys2Proof.Machine.execDbTailWrite fn dbidx value s
  | .cqHeadWrite fn dbidx value => Sys2Proof.Machine.execCqHeadWrite fn dbidx value s
  | .queueFetch q slots => Sys2Proof.Machine.execQueueFetch q slots s
  | .contextLoad q => Sys2Proof.Machine.execContextLoad q s
  | .timeSlice a => Sys2Proof.Machine.execTimeSlice a s
  | .faultQueueCheck => Sys2Proof.Machine.execFaultQueueCheck s
  | .deliverableChange st d => Sys2Proof.Machine.execDeliverableChange st d s
  | .bridgeRateChange b d => Sys2Proof.Machine.execBridgeRateChange b d s
  | .admDerateWrite path value => Sys2Proof.Machine.execAdmDerateWrite path value s
  | .inflDecay ctx => Sys2Proof.Machine.execInflDecay ctx s
  | .tileDispatch id c => Sys2Proof.Machine.execTileDispatch id c s
  | .tileStart c => Sys2Proof.Machine.execTileStart c s
  | .tileEnd c cycles uj => Sys2Proof.Machine.execTileEnd c cycles uj s
  | .tileWatchdog c => Sys2Proof.Machine.execTileWatchdog c s
  | .tileReplay id c => Sys2Proof.Machine.execTileReplay id c s
  | .spadUe c line => Sys2Proof.Machine.execSpadUe c line s
  | .engineParity c eng row => Sys2Proof.Machine.execEngineParity c eng row s
  | .coreReset c => Sys2Proof.Machine.execCoreReset c s
  | .coreResetTimeout c => Sys2Proof.Machine.execCoreResetTimeout c s
  | .fenceUnconfirmed c => Sys2Proof.Machine.execFenceUnconfirmed c s
  | .coreNightExit c => Sys2Proof.Machine.execCoreNightExit c s
  | .coreNight c => Sys2Proof.Machine.execCoreNight c s
  | .stepNop c => Sys2Proof.Machine.execStepNop c s
  | .stepEnd c => Sys2Proof.Machine.execStepEnd c s
  | .loopStart c => Sys2Proof.Machine.execLoopStart c s
  | .loopEnd c => Sys2Proof.Machine.execLoopEnd c s
  | .seta c => Sys2Proof.Machine.execSeta c s
  | .adda c => Sys2Proof.Machine.execAdda c s
  | .mula c => Sys2Proof.Machine.execMula c s
  | .wrapa c => Sys2Proof.Machine.execWrapa c s
  | .stepFence c => Sys2Proof.Machine.execStepFence c s
  | .waitc c => Sys2Proof.Machine.execWaitc c s
  | .cons c => Sys2Proof.Machine.execCons c s
  | .xdrain c => Sys2Proof.Machine.execXdrain c s
  | .trap c => Sys2Proof.Machine.execTrap c s
  | .stamp c => Sys2Proof.Machine.execStamp c s
  | .lda c => Sys2Proof.Machine.execLda c s
  | .xstop c => Sys2Proof.Machine.execXstop c s
  | .xin c => Sys2Proof.Machine.execXin c s
  | .xoutStore c => Sys2Proof.Machine.execXoutStore c s
  | .xoutAdd c => Sys2Proof.Machine.execXoutAdd c s
  | .xoutReduce c => Sys2Proof.Machine.execXoutReduce c s
  | .mma c => Sys2Proof.Machine.execMma c s
  | .accld c => Sys2Proof.Machine.execAccld c s
  | .accrd c => Sys2Proof.Machine.execAccrd c s
  | .accz c => Sys2Proof.Machine.execAccz c s
  | .fma c => Sys2Proof.Machine.execFma c s
  | .add c => Sys2Proof.Machine.execAdd c s
  | .sub c => Sys2Proof.Machine.execSub c s
  | .mul c => Sys2Proof.Machine.execMul c s
  | .max c => Sys2Proof.Machine.execMax c s
  | .min c => Sys2Proof.Machine.execMin c s
  | .abs c => Sys2Proof.Machine.execAbs c s
  | .neg c => Sys2Proof.Machine.execNeg c s
  | .cmp c => Sys2Proof.Machine.execCmp c s
  | .sel c => Sys2Proof.Machine.execSel c s
  | .scale c => Sys2Proof.Machine.execScale c s
  | .cvt c => Sys2Proof.Machine.execCvt c s
  | .qbs c => Sys2Proof.Machine.execQbs c s
  | .dqbs c => Sys2Proof.Machine.execDqbs c s
  | .rsum c => Sys2Proof.Machine.execRsum c s
  | .rmax c => Sys2Proof.Machine.execRmax c s
  | .exp2 c => Sys2Proof.Machine.execExp2 c s
  | .exp c => Sys2Proof.Machine.execExp c s
  | .log2 c => Sys2Proof.Machine.execLog2 c s
  | .log c => Sys2Proof.Machine.execLog c s
  | .rcp c => Sys2Proof.Machine.execRcp c s
  | .rsqrt c => Sys2Proof.Machine.execRsqrt c s
  | .sqrt c => Sys2Proof.Machine.execSqrt c s
  | .tanh c => Sys2Proof.Machine.execTanh c s
  | .sigmoid c => Sys2Proof.Machine.execSigmoid c s
  | .sin c => Sys2Proof.Machine.execSin c s
  | .cos c => Sys2Proof.Machine.execCos c s
  | .flags c => Sys2Proof.Machine.execFlags c s
  | .vmov c => Sys2Proof.Machine.execVmov c s
  | .vfill c => Sys2Proof.Machine.execVfill c s
  | .vgath c => Sys2Proof.Machine.execVgath c s
  | .vscat c => Sys2Proof.Machine.execVscat c s
  | .xferRequestIssue c inb k => Sys2Proof.Machine.execXferRequestIssue c inb k s
  | .xferReadResponse idx host => Sys2Proof.Machine.execXferReadResponse idx host s
  | .xferWriteAck idx host => Sys2Proof.Machine.execXferWriteAck idx host s
  | .ageEscalation idx => Sys2Proof.Machine.execAgeEscalation idx s
  | .softFaultResponse idx host => Sys2Proof.Machine.execSoftFaultResponse idx host s
  | .hardFaultResponse idx => Sys2Proof.Machine.execHardFaultResponse idx s
  | .retryReissue c inb k => Sys2Proof.Machine.execRetryReissue c inb k s
  | .blockedResponse idx => Sys2Proof.Machine.execBlockedResponse idx s
  | .presenceNotice idx => Sys2Proof.Machine.execPresenceNotice idx s
  | .goneNotice idx => Sys2Proof.Machine.execGoneNotice idx s
  | .resetNotice idx => Sys2Proof.Machine.execResetNotice idx s
  | .faultUnblock idx => Sys2Proof.Machine.execFaultUnblock idx s
  | .xferStallLimit c => Sys2Proof.Machine.execXferStallLimit c s
  | .stackRead idx ecc => Sys2Proof.Machine.execStackRead idx ecc s
  | .stackWrite idx ecc => Sys2Proof.Machine.execStackWrite idx ecc s
  | .stackMaskedWrite idx ecc => Sys2Proof.Machine.execStackMaskedWrite idx ecc s
  | .stackAdd idx ecc => Sys2Proof.Machine.execStackAdd idx ecc s
  | .fetchAndAdd idx ecc => Sys2Proof.Machine.execFetchAndAdd idx ecc s
  | .walkComplete st idx ecc => Sys2Proof.Machine.execWalkComplete st idx ecc s
  | .pullComplete st token => Sys2Proof.Machine.execPullComplete st token s
  | .poolTimeout idx => Sys2Proof.Machine.execPoolTimeout idx s
  | .poolCompletion idx ok data => Sys2Proof.Machine.execPoolCompletion idx ok data s
  | .hostWindowRead fn addr own ecc => Sys2Proof.Machine.execHostWindowRead fn addr own ecc s
  | .hostWindowWrite fn addr data mask ecc => Sys2Proof.Machine.execHostWindowWrite fn addr data mask ecc s
  | .biResponse idx => Sys2Proof.Machine.execBiResponse idx s
  | .biTimeout idx => Sys2Proof.Machine.execBiTimeout idx s
  | .patrolRead st ecc => Sys2Proof.Machine.execPatrolRead st ecc s
  | .targetedRefresh st row => Sys2Proof.Machine.execTargetedRefresh st row s
  | .thermalRead st temps => Sys2Proof.Machine.execThermalRead st temps s
  | .keySlotLoad idx => Sys2Proof.Machine.execKeySlotLoad idx s
  | .keySlotClear st n => Sys2Proof.Machine.execKeySlotClear st n s
  | .keyLoadFailed idx => Sys2Proof.Machine.execKeyLoadFailed idx s
  | .scrubComplete u => Sys2Proof.Machine.execScrubComplete u s
  | .rowSpared st row => Sys2Proof.Machine.execRowSpared st row s
  | .laneSpared st lane => Sys2Proof.Machine.execLaneSpared st lane s
  | .bankCopy st chan bank => Sys2Proof.Machine.execBankCopy st chan bank s
  | .bankSpared st ue => Sys2Proof.Machine.execBankSpared st ue s
  | .channelCopy st slot => Sys2Proof.Machine.execChannelCopy st slot s
  | .channelSpared st ue => Sys2Proof.Machine.execChannelSpared st ue s
  | .slotRetired st slot dead => Sys2Proof.Machine.execSlotRetired st slot dead s
  | .privateLost st chan => Sys2Proof.Machine.execPrivateLost st chan s
  | .invalidationMessage idx => Sys2Proof.Machine.execInvalidationMessage idx s
  | .invalidationAck idx => Sys2Proof.Machine.execInvalidationAck idx s
  | .trnInvTimeout id => Sys2Proof.Machine.execTrnInvTimeout id s
  | .purgeComplete st a ctx => Sys2Proof.Machine.execPurgeComplete st a ctx s
  | .faultRecord => Sys2Proof.Machine.execFaultRecord s
  | .faultHeadWrite fn value => Sys2Proof.Machine.execFaultHeadWrite fn value s
  | .faultBaseWrite fn value cfg => Sys2Proof.Machine.execFaultBaseWrite fn value cfg s
  | .hifFaultqHeadWrite path value => Sys2Proof.Machine.execHifFaultqHeadWrite path value s
  | .hifInvDoorbellAst path a => Sys2Proof.Machine.execHifInvDoorbellAst path a s
  | .hifInvDoorbellCtx path a ctx => Sys2Proof.Machine.execHifInvDoorbellCtx path a ctx s
  | .sweepJobStart job st => Sys2Proof.Machine.execSweepJobStart job st s
  | .sweepGrant job => Sys2Proof.Machine.execSweepGrant job s
  | .sweepBlock job st => Sys2Proof.Machine.execSweepBlock job st s
  | .sweepMaxima idx => Sys2Proof.Machine.execSweepMaxima idx s
  | .sweepMm idx => Sys2Proof.Machine.execSweepMm idx s
  | .mergeContribution idx => Sys2Proof.Machine.execMergeContribution idx s
  | .sweepRecordWritten job => Sys2Proof.Machine.execSweepRecordWritten job s
  | .sweepStallLimit job => Sys2Proof.Machine.execSweepStallLimit job s
  | .sliceAccess idx ecc => Sys2Proof.Machine.execSliceAccess idx ecc s
  | .sliceScrub k => Sys2Proof.Machine.execSliceScrub k s
  | .sliceCopy old new => Sys2Proof.Machine.execSliceCopy old new s
  | .flitReplay b up => Sys2Proof.Machine.execFlitReplay b up s
  | .bridgeLaneSpared b up lane => Sys2Proof.Machine.execBridgeLaneSpared b up lane s
  | .bridgeDown b => Sys2Proof.Machine.execBridgeDown b s
  | .reductionAdd idx dp => Sys2Proof.Machine.execReductionAdd idx dp s
  | .reductionFlush dp id => Sys2Proof.Machine.execReductionFlush dp id s
  | .reductionAck dp id => Sys2Proof.Machine.execReductionAck dp id s
  | .barrierArrival idx => Sys2Proof.Machine.execBarrierArrival idx s
  | .wavePlan id => Sys2Proof.Machine.execWavePlan id s
  | .barrierRelease id => Sys2Proof.Machine.execBarrierRelease id s
  | .releaseMessage idx => Sys2Proof.Machine.execReleaseMessage idx s
  | .releaseAck idx => Sys2Proof.Machine.execReleaseAck idx s
  | .releaseRetransmit id dp => Sys2Proof.Machine.execReleaseRetransmit id dp s
  | .flagNotice idx => Sys2Proof.Machine.execFlagNotice idx s
  | .maintLinkDown net link => Sys2Proof.Machine.execMaintLinkDown net link s
  | .publication => Sys2Proof.Machine.execPublication s
  | .epochDrained => Sys2Proof.Machine.execEpochDrained s
  | .compDrainTimeout => Sys2Proof.Machine.execCompDrainTimeout s
  | .moveCopy idx => Sys2Proof.Machine.execMoveCopy idx s
  | .compMoveBlocked idx => Sys2Proof.Machine.execCompMoveBlocked idx s
  | .moveComplete idx => Sys2Proof.Machine.execMoveComplete idx s
  | .spareSubstitution c => Sys2Proof.Machine.execSpareSubstitution c s
  | .meterSum => Sys2Proof.Machine.execMeterSum s
  | .meterSnapshot => Sys2Proof.Machine.execMeterSnapshot s
  | .leaveGrant idx => Sys2Proof.Machine.execLeaveGrant idx s
  | .governorSample mv ma mj => Sys2Proof.Machine.execGovernorSample mv ma mj s
  | .shareRedistribute => Sys2Proof.Machine.execShareRedistribute s
  | .energySample d uj => Sys2Proof.Machine.execEnergySample d uj s
  | .opChange d => Sys2Proof.Machine.execOpChange d s
  | .opRaise d => Sys2Proof.Machine.execOpRaise d s
  | .diePairNight d => Sys2Proof.Machine.execDiePairNight d s
  | .stateReqRun path mask => Sys2Proof.Machine.execStateReqRun path mask s
  | .stateReqDiePairNight path mask => Sys2Proof.Machine.execStateReqDiePairNight path mask s
  | .stateReqDeepNight path => Sys2Proof.Machine.execStateReqDeepNight path s
  | .stateReqDark path => Sys2Proof.Machine.execStateReqDark path s
  | .enterAnswer unit ans => Sys2Proof.Machine.execEnterAnswer unit ans s
  | .enterDelayExpiry unit => Sys2Proof.Machine.execEnterDelayExpiry unit s
  | .stateTimeout => Sys2Proof.Machine.execStateTimeout s
  | .wakeTimer => Sys2Proof.Machine.execWakeTimer s
  | .bufferLow mj => Sys2Proof.Machine.execBufferLow mj s
  | .brakeRelease mj => Sys2Proof.Machine.execBrakeRelease mj s
  | .droopStretch d ns => Sys2Proof.Machine.execDroopStretch d ns s
  | .junctionThrottle d temp => Sys2Proof.Machine.execJunctionThrottle d temp s
  | .junctionLimit d temp => Sys2Proof.Machine.execJunctionLimit d temp s
  | .inputRange mv => Sys2Proof.Machine.execInputRange mv s
  | .inputLockout mv => Sys2Proof.Machine.execInputLockout mv s
  | .errorRecord => Sys2Proof.Machine.execErrorRecord s
  | .noticeResend => Sys2Proof.Machine.execNoticeResend s
  | .rasErrqHeadWrite path value => Sys2Proof.Machine.execRasErrqHeadWrite path value s
  | .hangCycle => Sys2Proof.Machine.execHangCycle s
  | .hangNoProgress q => Sys2Proof.Machine.execHangNoProgress q s
  | .stackReset st => Sys2Proof.Machine.execStackReset st s
  | .serviceReset d => Sys2Proof.Machine.execServiceReset d s
  | .asterismReset a rest => Sys2Proof.Machine.execAsterismReset a rest s
  | .packageReset low bad => Sys2Proof.Machine.execPackageReset low bad s
  | .powerCycleRequest => Sys2Proof.Machine.execPowerCycleRequest s
  | .dump path value => Sys2Proof.Machine.execDump path value s
  | .dumpRelease path => Sys2Proof.Machine.execDumpRelease path s
  | .almanacMonitorRead d margin cores => Sys2Proof.Machine.execAlmanacMonitorRead d margin cores s
  | .almanacPredict => Sys2Proof.Machine.execAlmanacPredict s
  | .almanacWrite mj => Sys2Proof.Machine.execAlmanacWrite mj s
  | .lcTransition path arm sig dev cut => Sys2Proof.Machine.execLcTransition path arm sig dev cut s
  | .ownerInstall path arm sig dev => Sys2Proof.Machine.execOwnerInstall path arm sig dev s
  | .debugUnlock path sig dev => Sys2Proof.Machine.execDebugUnlock path sig dev s
  | .debugLock path => Sys2Proof.Machine.execDebugLock path s
  | .entropyFailure test => Sys2Proof.Machine.execEntropyFailure test s
  | .drbgRetry ok => Sys2Proof.Machine.execDrbgRetry ok s
  | .drbgReseed => Sys2Proof.Machine.execDrbgReseed s
  | .getCertificate rsp slot => Sys2Proof.Machine.execGetCertificate rsp slot s
  | .challenge rsp slot => Sys2Proof.Machine.execChallenge rsp slot s
  | .getMeasurements rsp => Sys2Proof.Machine.execGetMeasurements rsp s
  | .keyExchange rsp => Sys2Proof.Machine.execKeyExchange rsp s
  | .finish rsp id => Sys2Proof.Machine.execFinish rsp id s
  | .endSession rsp id => Sys2Proof.Machine.execEndSession rsp id s
  | .setCertificate rsp slot chain root => Sys2Proof.Machine.execSetCertificate rsp slot chain root s
  | .tdiLockRequest fn => Sys2Proof.Machine.execTdiLockRequest fn s
  | .ideKeySet port half id => Sys2Proof.Machine.execIdeKeySet port half id s
  | .ideFailure port half stream => Sys2Proof.Machine.execIdeFailure port half stream s
  | .cxlLinkDown port half => Sys2Proof.Machine.execCxlLinkDown port half s
  | .cxlLaneLost port lane => Sys2Proof.Machine.execCxlLaneLost port lane s
  | .linkTrained port half width rate => Sys2Proof.Machine.execLinkTrained port half width rate s
  | .l0pNarrow port half => Sys2Proof.Machine.execL0pNarrow port half s
  | .l0pWiden port half => Sys2Proof.Machine.execL0pWiden port half s
  | .l0pHostRequest port half lanes => Sys2Proof.Machine.execL0pHostRequest port half lanes s
  | .pageResponse port half ok => Sys2Proof.Machine.execPageResponse port half ok s
  | .atsInvalidation port half page => Sys2Proof.Machine.execAtsInvalidation port half page s
  | .hotInsertion e port half pid => Sys2Proof.Machine.execHotInsertion e port half pid s
  | .hostRemoved e => Sys2Proof.Machine.execHostRemoved e s
  | .partnerRecover e => Sys2Proof.Machine.execPartnerRecover e s
  | .partnerSuspectTimeout e => Sys2Proof.Machine.execPartnerSuspectTimeout e s
  | .refclkLost port => Sys2Proof.Machine.execRefclkLost port s
  | .mgtSubmit port slot delta => Sys2Proof.Machine.execMgtSubmit port slot delta s
  | .partnerSetAdd e w0 w1 => Sys2Proof.Machine.execPartnerSetAdd e w0 w1 s
  | .partnerSetLost e => Sys2Proof.Machine.execPartnerSetLost e s
  | .partnerSetClear e => Sys2Proof.Machine.execPartnerSetClear e s
  | .partnerGet first count => Sys2Proof.Machine.execPartnerGet first count s
  | .meterRead first count => Sys2Proof.Machine.execMeterRead first count s
  | .noticeAck seq => Sys2Proof.Machine.execNoticeAck seq s
  | .identify => Sys2Proof.Machine.execIdentify s
  | .cxpHdmMapWrite path p n value => Sys2Proof.Machine.execCxpHdmMapWrite path p n value s
  | .coldBoot src bad => Sys2Proof.Machine.execColdBoot src bad s
  | .memoryPass2Done bad => Sys2Proof.Machine.execMemoryPass2Done bad s
  | .requestUpdate mailbox port => Sys2Proof.Machine.execRequestUpdate mailbox port s
  | .updateComponent man => Sys2Proof.Machine.execUpdateComponent man s
  | .fwBlock bad pol => Sys2Proof.Machine.execFwBlock bad pol s
  | .updateFailed => Sys2Proof.Machine.execUpdateFailed s
  | .activateFirmware mailbox port online => Sys2Proof.Machine.execActivateFirmware mailbox port online s
  | .getFwInfo port => Sys2Proof.Machine.execGetFwInfo port s
  | .getTid => Sys2Proof.Machine.execGetTid s
  | .setTid tid => Sys2Proof.Machine.execSetTid tid s
  | .getPldmTypes => Sys2Proof.Machine.execGetPldmTypes s
  | .getPldmCommands kind => Sys2Proof.Machine.execGetPldmCommands kind s
  | .getPldmVersion kind => Sys2Proof.Machine.execGetPldmVersion kind s
  | .trayCap w => Sys2Proof.Machine.execTrayCap w s
  | .pldmStateRequest req => Sys2Proof.Machine.execPldmStateRequest req s
  | .pldmFileRead file => Sys2Proof.Machine.execPldmFileRead file s
  | .forcedPowerDown => Sys2Proof.Machine.execForcedPowerDown s
  | .resetRelease bad => Sys2Proof.Machine.execResetRelease bad s
  | .wake bad => Sys2Proof.Machine.execWake bad s
  | .perstLow port => Sys2Proof.Machine.execPerstLow port s
  | .perstRise port => Sys2Proof.Machine.execPerstRise port s
  | .hotInsertionPrecharge mv => Sys2Proof.Machine.execHotInsertionPrecharge mv s
  | .thermalTrip unit temp => Sys2Proof.Machine.execThermalTrip unit temp s
  | .coolant => Sys2Proof.Machine.execCoolant s
  | .coolantSample flow inlet outlet => Sys2Proof.Machine.execCoolantSample flow inlet outlet s
  | .leakDetect => Sys2Proof.Machine.execLeakDetect s
  | .mgtDoorbellWrite path value => Sys2Proof.Machine.execMgtDoorbellWrite path value s
  | .mgtRingEnable path value => Sys2Proof.Machine.execMgtRingEnable path value s
  | .mgtRingDisable path value => Sys2Proof.Machine.execMgtRingDisable path value s
  | .mgtCqHeadWrite path value => Sys2Proof.Machine.execMgtCqHeadWrite path value s
  | .mgtRingFetch slot delta => Sys2Proof.Machine.execMgtRingFetch slot delta s
  | .mgtLockdown => Sys2Proof.Machine.execMgtLockdown s
  | .registerWrite path off size value => Sys2Proof.Machine.execRegisterWrite path off size value s
  | .leakTraceDry => Sys2Proof.Machine.execLeakTraceDry s
  | .thermalTripLatchClear => Sys2Proof.Machine.execThermalTripLatchClear s
  | .inputReturn mv => Sys2Proof.Machine.execInputReturn mv s
  | .capHoldRotate => Sys2Proof.Machine.execCapHoldRotate s
  | .hifFaultqEnable path value => Sys2Proof.Machine.execHifFaultqEnable path value s
  | .rasErrqEnable path value => Sys2Proof.Machine.execRasErrqEnable path value s
  | .tdiRunRequest fn => Sys2Proof.Machine.execTdiRunRequest fn s
  | .tdiRelease fn => Sys2Proof.Machine.execTdiRelease fn s
  | .pldmEventAck => Sys2Proof.Machine.execPldmEventAck s
  | .negotiateAlgorithms rsp ok => Sys2Proof.Machine.execNegotiateAlgorithms rsp ok s
  | .mctpSetEndpointId eid => Sys2Proof.Machine.execMctpSetEndpointId eid s
  | .regulationFault => Sys2Proof.Machine.execRegulationFault s

end Sys2Proof.Machine
end

