-- ==== Sys2Proof/Machine/Tick.lean ====
section
/-!
DEFINITION. One tick of the watch clock, 320 ns, which an idle step takes (assumption log, entry 2): what the spec measures
in elapsed time and no command of its own moves on.
-/

namespace Sys2Proof.Machine

/-- A tick of the watch clock in ns (R414). -/
def tickNs : Nat := 320

/-! ### Cores (R90 to R94, R132, R133) -/

/-- Core cycles of a die pair in one tick: the present point's clock, the lower of two during a change (R417), halved by a
brake (R422) and by a stretch (R431). -/
def Dev.tickCycles (d : Dev) (now dp : Nat) : Nat :=
  let u := d.pmu dp
  let mhz := match u.goal with | some (k, _) => min (opMhz u.op) (opMhz k) | none => opMhz u.op
  mhz * 320 / 1000 / (if d.flag PWR_BUFFER_ENERGY.BRAKE || u.limited then 2 else 1) / (if now < u.stretchEnd then 2 else 1)

/-- After END, does a tile wait only on faulted requests (R132)? -/
def Tile.waitsFaulted (t : Tile) : Bool :=
  t.ended && !t.finished && t.xq.isEmpty &&
    t.outs.all fun o => o.count == 0 || (o.faulted && o.pieces.all fun p => p.acked || p.again)

/-- Is every hold of a tile a BLOCKED answer, whose wait the stall allowance leaves out? -/
def Tile.onlyBlocked (t : Tile) : Bool :=
  let hs := t.ins.flatMap (·.holds) ++ t.outs.flatMap (·.holds)
  !hs.isEmpty && hs.all (· == .blocked)

/-- One tick of a core with a tile: stalled ticks count toward the allowance, others toward the watchdog and CY. -/
def Core.tick (k : Core) (cyc : Nat) : Core :=
  match k.tile with
  | none => k
  | some t =>
    if k.svc == .stalled || (k.svc == .draining && t.waitsFaulted) then
      { k with tile := some { t with
          stallCycles := t.stallCycles + cyc, stallTicks := if t.onlyBlocked then t.stallTicks else t.stallTicks + 1 } }
    else if k.svc == .loading then { k with tile := some { t with wdTicks := t.wdTicks + 1 } }
    else if k.svc == .running || k.svc == .draining then
      { k with tile := some { t with wdTicks := t.wdTicks + 1, cy := t.cy + cyc } }
    else k

/-! ### Everything else -/

/-- Bound and busy times of an asterism, in ticks (R302). -/
def Dev.tickMeters (d : Dev) (a : Nat) (p : Meters) : Meters :=
  let own := fun (t : Tbl Owner) => (t.filter fun e => e.2.st != 0 && e.2.ast == a).length
  { p with
    coreBound := p.coreBound + (d.core.filter fun c => c.2.bound == some a).length
    chanBound := p.chanBound + own d.comp.chans
    sliceBound := p.sliceBound + own d.comp.slices
    funcBound := p.funcBound + (d.hif.fns.filter fun f => f.2.ast == some a).length
    coreBusy := p.coreBusy + (d.core.filter fun c => c.2.bound == some a && c.2.tile.isSome).length }

/-- Has a multiple of a span passed in the tick that ends at a time? -/
def passed (span now : Nat) : Bool := decide (now / span ≠ (now - tickNs) / span)

/-- A stack's refresh interval in ns (Table 5-4). -/
def Dev.refreshNs (d : Dev) (s : Nat) : Nat := if d.get (STK_STATUS.BAND s) = 0 then 32000000 else 16000000

/-- Row activations are counted within a refresh interval (R148); corrections and errors within 24 h (Tables 5-5, 14-8). -/
def Dev.tickStacks (d : Dev) (now : Nat) : Dev :=
  let d := { d with stk := Tbl.mapV (fun s t => if passed (d.refreshNs s) now then { t with acts := [] } else t) d.stk }
  if !passed (86400 * second) now then d
  else
    let d := { d with
      stk := Tbl.mapV (fun _ (t : Stack) => { t with rowCe := [], bankUe := [] }) d.stk
      alm := { d.alm with units := Tbl.mapV (fun _ h => { h with day := 0, ue := false }) d.alm.units } }
    allStacks.foldl (fun d s => (List.range 34).foldl (fun d k =>
      let d := if d.get (STK_CHAN_HEALTH.CE_24H s k) = 0 then d else d.set (STK_CHAN_HEALTH.CE_24H s k) 0
      if d.get (STK_CHAN_HEALTH.UE_24H s k) = 0 then d else d.set (STK_CHAN_HEALTH.UE_24H s k) 0) d) d

/-- Since when each die pair in Run has been unbound (R408). -/
def Dev.tickPmu (d : Dev) (now dp : Nat) : Dev :=
  let u := d.pmu dp
  if u.pwr == .run && d.unbound dp then (if u.unboundAt.isSome then d else d.onPmu dp fun u => { u with unboundAt := some now })
  else if u.unboundAt.isSome then d.onPmu dp fun u => { u with unboundAt := none }
  else d

/-- The device at time `now`, one tick after it was left. -/
def Dev.tick (d : Dev) (now : Nat) : Dev :=
  let d := if 3 ≤ d.fw.bootStep then d.wrap CLK_WATCH_COUNT.TICKS 1 else d
  let up := passed second now && d.pwr.pkg != Pwr.dark
  let asts := Tbl.mapV (fun a (x : Ast) => { x with pendMeters := d.tickMeters a x.pendMeters }) d.comp.asts
  let alm : Alm := if up then { d.alm with poh := d.alm.poh + 1 } else d.alm
  let d := { d with
    core := Tbl.mapV (fun c k => k.tick (d.tickCycles now (coreDp c))) d.core
    sweeps := Tbl.mapV (fun _ (j : SweepJob) => if j.waits then { j with stallTicks := j.stallTicks + 1 } else j) d.sweeps
    comp := { d.comp with asts := asts }
    pwr := { d.pwr with bookings := d.pwr.bookings.map fun (b : Booking) => { b with usedPj := b.usedPj + b.drawn * tickNs } }
    alm := alm }
  let d := (d.tickStacks now).freePartners
  (diePairs.foldl (fun (x : Dev) p => x.tickPmu now p) d).resetsLate now

end Sys2Proof.Machine
end

