-- ==== Sys2Proof/WellFormed.lean ====
section
/-!
DEFINITION. Which commands name units that exist: cores 0 to 5,375, stacks 0 to 31, die pairs 0 to 7, ports 0 to 3,
asterisms 0 to 63 and so on (R14, R18, R306).  An index into a list of the state is not bounded here: a position that
holds nothing is a command with no occasion.
-/

namespace Sys2Proof

/-- Every operand of the command names a unit that exists. -/
def Instr.WellFormed : Instr → Prop
  | .nop q => q < 262144
  | .tile q => q < 262144
  | .xferStore q => q < 262144
  | .xferAdd q => q < 262144
  | .sweep q => q < 262144
  | .signalSet q => q < 262144
  | .signalAdd q => q < 262144
  | .signalMax q => q < 262144
  | .wait q => q < 262144
  | .waitTimeout _ => True
  | .acquire q => q < 262144
  | .acquireTimeout _ => True
  | .release q => q < 262144
  | .barrier q => q < 262144
  | .hint q => q < 262144
  | .hintOpen _ => True
  | .hintClose _ => True
  | .abort q => q < 262144
  | .call q => q < 262144
  | .freeObject q => q < 262144
  | .map q => q < 262144
  | .unmap q => q < 262144
  | .invalidate q => q < 262144
  | .bind _ => True
  | .unbind _ => True
  | .attach _ => True
  | .detach _ => True
  | .detachForce _ _ => True
  | .quiesce _ => True
  | .quiescent a => a < 64
  | .quiesceTimeout a => a < 64
  | .resume _ => True
  | .commitMode _ => True
  | .modeAck _ => True
  | .modeChangeRolledBack => True
  | .spareSwap _ => True
  | .contextRevoke _ _ _ _ => True
  | .revokeFinal _ => True
  | .revokeTimeout _ => True
  | .setCap _ => True
  | .capHoldStep => True
  | .capReleaseStep => True
  | .capSettled => True
  | .floorRecompute _ => True
  | .ctxCreate fn _ => fn < 1024
  | .ctxResume fn _ => fn < 1024
  | .queueCreate fn _ => fn < 1024
  | .queueDestroy fn _ => fn < 1024
  | .objCreate fn _ => fn < 1024
  | .eventCreate fn _ => fn < 1024
  | .eventDestroy fn _ => fn < 1024
  | .query fn _ => fn < 1024
  | .dbTailWrite fn _ _ => fn < 1024
  | .cqHeadWrite fn _ _ => fn < 1024
  | .queueFetch q _ => q < 262144
  | .contextLoad q => q < 262144
  | .timeSlice a => a < 64
  | .faultQueueCheck => True
  | .deliverableChange s d => s < 32 ∧ d < 8
  | .bridgeRateChange _ d => d < 8
  | .admDerateWrite path _ => path < 5
  | .inflDecay _ => True
  | .tileDispatch _ c => c < 5376
  | .tileStart c => c < 5376
  | .tileEnd c _ _ => c < 5376
  | .tileWatchdog c => c < 5376
  | .tileReplay _ c => c < 5376
  | .spadUe c _ => c < 5376
  | .engineParity c _ _ => c < 5376
  | .coreReset c => c < 5376
  | .coreResetTimeout c => c < 5376
  | .fenceUnconfirmed c => c < 5376
  | .coreNightExit c => c < 5376
  | .coreNight c => c < 5376
  | .stepNop c => c < 5376
  | .stepEnd c => c < 5376
  | .loopStart c => c < 5376
  | .loopEnd c => c < 5376
  | .seta c => c < 5376
  | .adda c => c < 5376
  | .mula c => c < 5376
  | .wrapa c => c < 5376
  | .stepFence c => c < 5376
  | .waitc c => c < 5376
  | .cons c => c < 5376
  | .xdrain c => c < 5376
  | .trap c => c < 5376
  | .stamp c => c < 5376
  | .lda c => c < 5376
  | .xstop c => c < 5376
  | .xin c => c < 5376
  | .xoutStore c => c < 5376
  | .xoutAdd c => c < 5376
  | .xoutReduce c => c < 5376
  | .mma c => c < 5376
  | .accld c => c < 5376
  | .accrd c => c < 5376
  | .accz c => c < 5376
  | .fma c => c < 5376
  | .add c => c < 5376
  | .sub c => c < 5376
  | .mul c => c < 5376
  | .max c => c < 5376
  | .min c => c < 5376
  | .abs c => c < 5376
  | .neg c => c < 5376
  | .cmp c => c < 5376
  | .sel c => c < 5376
  | .scale c => c < 5376
  | .cvt c => c < 5376
  | .qbs c => c < 5376
  | .dqbs c => c < 5376
  | .rsum c => c < 5376
  | .rmax c => c < 5376
  | .exp2 c => c < 5376
  | .exp c => c < 5376
  | .log2 c => c < 5376
  | .log c => c < 5376
  | .rcp c => c < 5376
  | .rsqrt c => c < 5376
  | .sqrt c => c < 5376
  | .tanh c => c < 5376
  | .sigmoid c => c < 5376
  | .sin c => c < 5376
  | .cos c => c < 5376
  | .flags c => c < 5376
  | .vmov c => c < 5376
  | .vfill c => c < 5376
  | .vgath c => c < 5376
  | .vscat c => c < 5376
  | .xferRequestIssue c _ _ => c < 5376
  | .xferReadResponse _ _ => True
  | .xferWriteAck _ _ => True
  | .ageEscalation _ => True
  | .softFaultResponse _ _ => True
  | .hardFaultResponse _ => True
  | .retryReissue c _ _ => c < 5376
  | .blockedResponse _ => True
  | .presenceNotice _ => True
  | .goneNotice _ => True
  | .resetNotice _ => True
  | .faultUnblock _ => True
  | .xferStallLimit c => c < 5376
  | .stackRead _ _ => True
  | .stackWrite _ _ => True
  | .stackMaskedWrite _ _ => True
  | .stackAdd _ _ => True
  | .fetchAndAdd _ _ => True
  | .walkComplete s _ _ => s < 32
  | .pullComplete s token => s < 32 ∧ token < 512
  | .poolTimeout _ => True
  | .poolCompletion _ _ _ => True
  | .hostWindowRead fn _ _ _ => fn < 1024
  | .hostWindowWrite fn _ _ _ _ => fn < 1024
  | .biResponse _ => True
  | .biTimeout _ => True
  | .patrolRead s _ => s < 32
  | .targetedRefresh s _ => s < 32
  | .thermalRead s _ => s < 32
  | .keySlotLoad _ => True
  | .keySlotClear s _ => s < 32
  | .keyLoadFailed _ => True
  | .scrubComplete _ => True
  | .rowSpared s _ => s < 32
  | .laneSpared s lane => s < 32 ∧ lane < 128
  | .bankCopy s _ _ => s < 32
  | .bankSpared s _ => s < 32
  | .channelCopy s _ => s < 32
  | .channelSpared s _ => s < 32
  | .slotRetired s _ _ => s < 32
  | .privateLost s _ => s < 32
  | .invalidationMessage _ => True
  | .invalidationAck _ => True
  | .trnInvTimeout _ => True
  | .purgeComplete s a _ => s < 32 ∧ a < 64
  | .faultRecord => True
  | .faultHeadWrite fn _ => fn < 1024
  | .faultBaseWrite fn _ _ => fn < 1024
  | .hifFaultqHeadWrite path _ => path < 5
  | .hifInvDoorbellAst path a => path < 5 ∧ a < 64
  | .hifInvDoorbellCtx path a _ => path < 5 ∧ a < 64
  | .sweepJobStart _ s => s < 32
  | .sweepGrant _ => True
  | .sweepBlock _ s => s < 32
  | .sweepMaxima _ => True
  | .sweepMm _ => True
  | .mergeContribution _ => True
  | .sweepRecordWritten _ => True
  | .sweepStallLimit _ => True
  | .sliceAccess _ _ => True
  | .sliceScrub _ => True
  | .sliceCopy _ _ => True
  | .flitReplay _ _ => True
  | .bridgeLaneSpared _ _ lane => lane < 128
  | .bridgeDown _ => True
  | .reductionAdd _ dp => dp < 8
  | .reductionFlush dp _ => dp < 8
  | .reductionAck dp _ => dp < 8
  | .barrierArrival _ => True
  | .wavePlan _ => True
  | .barrierRelease _ => True
  | .releaseMessage _ => True
  | .releaseAck _ => True
  | .releaseRetransmit _ dp => dp < 8
  | .flagNotice _ => True
  | .maintLinkDown net link => net < 3 ∧ link < 8
  | .publication => True
  | .epochDrained => True
  | .compDrainTimeout => True
  | .moveCopy _ => True
  | .compMoveBlocked _ => True
  | .moveComplete _ => True
  | .spareSubstitution c => c < 5376
  | .meterSum => True
  | .meterSnapshot => True
  | .leaveGrant _ => True
  | .governorSample _ _ _ => True
  | .shareRedistribute => True
  | .energySample d _ => d < 8
  | .opChange d => d < 8
  | .opRaise d => d < 8
  | .diePairNight d => d < 8
  | .stateReqRun path _ => path < 5
  | .stateReqDiePairNight path _ => path < 5
  | .stateReqDeepNight path => path < 5
  | .stateReqDark path => path < 5
  | .enterAnswer _ _ => True
  | .enterDelayExpiry _ => True
  | .stateTimeout => True
  | .wakeTimer => True
  | .bufferLow _ => True
  | .brakeRelease _ => True
  | .droopStretch d _ => d < 8
  | .junctionThrottle d _ => d < 8
  | .junctionLimit d _ => d < 8
  | .inputRange _ => True
  | .inputLockout _ => True
  | .errorRecord => True
  | .noticeResend => True
  | .rasErrqHeadWrite path _ => path < 5
  | .hangCycle => True
  | .hangNoProgress q => q < 262144
  | .stackReset s => s < 32
  | .serviceReset d => d < 8
  | .asterismReset a _ => a < 64
  | .packageReset _ _ => True
  | .powerCycleRequest => True
  | .dump path _ => path < 5
  | .dumpRelease path => path < 5
  | .almanacMonitorRead d _ _ => d < 8
  | .almanacPredict => True
  | .almanacWrite _ => True
  | .lcTransition path _ _ _ _ => path < 5
  | .ownerInstall path _ _ _ => path < 5
  | .debugUnlock path _ _ => path < 5
  | .debugLock path => path < 5
  | .entropyFailure _ => True
  | .drbgRetry _ => True
  | .drbgReseed => True
  | .getCertificate _ _ => True
  | .challenge _ _ => True
  | .getMeasurements _ => True
  | .keyExchange _ => True
  | .finish _ _ => True
  | .endSession _ _ => True
  | .setCertificate _ _ _ _ => True
  | .tdiLockRequest fn => fn < 1024
  | .ideKeySet port _ _ => port < 4
  | .ideFailure port _ _ => port < 4
  | .cxlLinkDown port _ => port < 4
  | .cxlLaneLost port lane => port < 4 ∧ lane < 128
  | .linkTrained port _ _ _ => port < 4
  | .l0pNarrow port _ => port < 4
  | .l0pWiden port _ => port < 4
  | .l0pHostRequest port _ _ => port < 4
  | .pageResponse port _ _ => port < 4
  | .atsInvalidation port _ _ => port < 4
  | .hotInsertion e port _ _ => e < 48 ∧ port < 4
  | .hostRemoved e => e < 48
  | .partnerRecover e => e < 48
  | .partnerSuspectTimeout e => e < 48
  | .refclkLost port => port < 4
  | .mgtSubmit port _ _ => port < 4
  | .partnerSetAdd e _ _ => e < 48
  | .partnerSetLost e => e < 48
  | .partnerSetClear e => e < 48
  | .partnerGet _ _ => True
  | .meterRead _ _ => True
  | .noticeAck _ => True
  | .identify => True
  | .cxpHdmMapWrite path p _ _ => path < 5 ∧ p < 4
  | .coldBoot _ _ => True
  | .memoryPass2Done _ => True
  | .requestUpdate _ port => port < 4
  | .updateComponent _ => True
  | .fwBlock _ _ => True
  | .updateFailed => True
  | .activateFirmware _ port _ => port < 4
  | .getFwInfo port => port < 4
  | .getTid => True
  | .setTid _ => True
  | .getPldmTypes => True
  | .getPldmCommands _ => True
  | .getPldmVersion _ => True
  | .trayCap _ => True
  | .pldmStateRequest _ => True
  | .pldmFileRead _ => True
  | .forcedPowerDown => True
  | .resetRelease _ => True
  | .wake _ => True
  | .perstLow port => port < 4
  | .perstRise port => port < 4
  | .hotInsertionPrecharge _ => True
  | .thermalTrip _ _ => True
  | .coolant => True
  | .coolantSample _ _ _ => True
  | .leakDetect => True
  | .mgtDoorbellWrite path _ => path < 5
  | .mgtRingEnable path _ => path < 5
  | .mgtRingDisable path _ => path < 5
  | .mgtCqHeadWrite path _ => path < 5
  | .mgtRingFetch _ _ => True
  | .mgtLockdown => True
  | .registerWrite path _ _ _ => path < 5
  | .leakTraceDry => True
  | .thermalTripLatchClear => True
  | .inputReturn _ => True
  | .capHoldRotate => True
  | .hifFaultqEnable path _ => path < 5
  | .rasErrqEnable path _ => path < 5
  | .tdiRunRequest fn => fn < 1024
  | .tdiRelease fn => fn < 1024
  | .pldmEventAck => True
  | .negotiateAlgorithms _ _ => True
  | .mctpSetEndpointId _ => True
  | .regulationFault => True

/-- Well-formedness is decided operand by operand. -/
def Instr.wellFormedDec (i : Instr) : Decidable i.WellFormed := by
  cases i <;> simp only [Instr.WellFormed] <;> infer_instance

/-- The same as a Bool. -/
def Instr.wf (i : Instr) : Bool := @decide i.WellFormed i.wellFormedDec

end Sys2Proof
end

