-- ==== Sys2Proof/Safety.lean ====
section
/-!
DEFINITION. What counts as a safe run of the block.
-/

namespace Sys2Proof

open Sys2Proof.Machine

/-- A good state: every waiting command is well-formed, and the time is a whole number of watch-clock ticks (R414). -/
def Good (s : State) : Prop := (∀ c ∈ s.pending, c.WellFormed) ∧ s.now % tickNs = 0

/-- A step that goes on: neither a fault nor a refusal. -/
def Goes (o : Host.Outcome State Fault Refusal) : Prop := ∃ t, o = .next t

/-- A safe run of `n` steps from a state: it stops at none of them. -/
def SafeRun (n : Nat) (s : State) : Prop := Goes (Host.Core.run core n s)

/-! ### What the statements are written in -/

/-- The command answers a next state: the queue and the time as they were, the device `e`. -/
def Leads (c : Instr) (s : State) (e : Dev) : Prop := exec c s = .next { s with dev := e }

/-- The command answers a next state, whose device is as `P` says. -/
def Answers (c : Instr) (s : State) (P : Dev → Prop) : Prop := ∃ e, Leads c s e ∧ P e

/-- The command's own effect leaves a device that is as `P` says; the next state is that device after `tail`, what the effect
sets going. -/
def Sets (c : Instr) (s : State) (tail : Dev → Dev) (P : Dev → Prop) : Prop := ∃ e, Leads c s (tail e) ∧ P e

/-- Command `h` stands at the head of queue `q`, may be taken now, is well formed, and has opcode `op` (R318, R320, R341,
R342). -/
def AtHead (d : Dev) (q op : Nat) (h : Head) : Prop := d.head q = some h ∧ malformed q h.f = none ∧ hOp h.f.slot = op

/-- Management command `k` is in firmware's hands with opcode `op`, and it is its turn (R280, R299, R317). -/
def Turn (d : Dev) (k op : Nat) (m : Mgt) : Prop :=
  Tbl.find d.hif.mgt k = some m ∧ hOp m.slot = op ∧ m.started = false ∧ d.mgtWaits k m = false

/-- The device once firmware has begun command `k`. -/
def begun (d : Dev) (k : Nat) : Dev :=
  d.onHif fun h => { h with mgt := Tbl.adj h.mgt k fun m => { m with started := true } }

/-- Of all the block holds, nothing differs but what management records and error records write: the management ring's
tables and its CQ_TAIL, the error records on their way, free values drawn. -/
def Reports (d e : Dev) : Prop :=
  (∃ r x : Dev, { d with regs := r.regs, fresh := r.fresh, ras := { d.ras with box := r.ras.box }, hif := { d.hif with
      mgt := x.hif.mgt, mcq := x.hif.mcq, mheld := x.hif.mheld, mgtIntr := x.hif.mgtIntr, intr := x.hif.intr
      submitted := x.hif.submitted } } = e) ∧
    ∀ f : Fld, f.off ≠ MGT_CQ_TAIL.TAIL.off → e.get f = d.get f

/-- Request `i` of the network stands at the stack of logical channel `l`, which takes it now (R453, R194, R288). -/
def Reaches (d : Dev) (i : Nat) (r : Req) (l : Nat) : Prop :=
  d.net.reqs[i]? = some r ∧ (∃ x y, r.dest = .chan l x y) ∧ r.hop = none ∧
    (d.stack (chanStack l)).takes r.tags.ast = true ∧ d.moveHolds l = false

/-- A control operation of a function completed (R311). -/
def CtlDone (d : Dev) (fn : Nat) : Prop :=
  (d.fn fn).done = true ∧ (d.fn fn).status = CStatus.completed.code ∧ (d.fn fn).reason = 0 ∧ (d.fn fn).err = 0

/-- A control operation of a function was refused with an error code (R311, R312). -/
def CtlRefused (d : Dev) (fn err : Nat) : Prop :=
  (d.fn fn).done = true ∧ (d.fn fn).status = CStatus.refused.code ∧ (d.fn fn).err = err ∧
    ∃ r, d.ras.box.getLast? = some r ∧ r.code = err

/-- A path may write the register at an offset, and its block is up (R474, R543, R546). -/
def MayWrite (d : Dev) (path off : Nat) : Prop := d.mayWrite path off = true ∧ d.blockDown off = false

/-- Nothing of the device but its cores differs, and of those only core `c`. -/
def OnlyCore (c : Nat) (d e : Dev) : Prop := { e with core := d.core } = d ∧ ∀ k, k ≠ c → e.coreAt k = d.coreAt k

/-- Core `c` issues next the step word `w`, and `t` is its tile as the step sees it: the bytes over which the step races with
another unit hold free values (R75). -/
def AtStep (d : Dev) (c : Nat) (t : Tile) (w : StepWord) : Prop :=
  ((d.coreAt c).svc = .running ∨ (d.coreAt c).svc = .stalled) ∧
    ∃ t0, (d.coreAt c).tile = some t0 ∧ t0.ended = false ∧ t0.prog[t0.step]? = some w ∧ t = t0.seen d.fresh w

/-- The tile `t'` that the next step of core `c` leaves, once what raced with the step is undefined and the step's accesses
are noted (R75): `t'` itself, but for the note, where nothing races. -/
def Settled (d : Dev) (c : Nat) (t' u : Tile) : Prop := ∃ t w, AtStep d c t w ∧ u = t.settle d.fresh w t'

/-- The step issues: the tile after it is `t'`, settled, and nothing else of the device differs but the free values drawn. -/
def StepsTo (i : Instr) (s : State) (c : Nat) (t' : Tile) : Prop :=
  Answers i s fun e => (∃ u, Settled s.dev c t' u ∧ e.coreAt c = { s.dev.coreAt c with tile := some u, svc := .running }) ∧
    (∀ k, k ≠ c → e.coreAt k = s.dev.coreAt k) ∧ { e with core := s.dev.core, fresh := s.dev.fresh } = s.dev

/-- The step holds issue, and nothing else of the device differs. -/
def StepWaits (i : Instr) (s : State) (c : Nat) (t : Tile) (stalled : Bool) : Prop :=
  Answers i s fun e => e.coreAt c =
    { s.dev.coreAt c with tile := some { t with held := stalled }, svc := if stalled then .stalled else .running } ∧
    OnlyCore c s.dev e

/-- The step aborts its tile as misused, with an error record (R63, R96). -/
def StepAborts (i : Instr) (s : State) (c : Nat) (t : Tile) (code sub : Nat) (detail : List Nat) : Prop :=
  Answers i s fun e => ∃ n, { e with fresh := n } = { ((s.dev.raise code (coreUnit c) sub .contained detail
    (some (t.own.ast, t.own.ctx))).abortTile s.now c .misuse code) with fresh := n }

/-- The holds `p` names have ended on every stream: each releases them, and nothing else of a tile but its STALLED look differs
(R130, R134, R183). -/
def Released (d e : Dev) (p : Nat → Hold → Bool) : Prop :=
  ∀ c t, (d.coreAt c).tile = some t → ∃ h, (e.coreAt c).tile = some { t with
    ins := t.ins.map (·.release (p t.own.ctx)), outs := t.outs.map (·.release (p t.own.ctx)), held := h }

/-- No stored granule of a stack or of a slice differs. -/
def SameMemory (d e : Dev) : Prop := (∀ k, e.gran k = d.gran k) ∧ ∀ k, e.sgran k = d.sgran k

end Sys2Proof
end

