-- ==== Sys2Proof/Certificates/Slice0/Obligations.lean ====
section
/-!
DEFINITION. The statements for the provers: whole-machine rules first, then the commands family by family, then memory,
registers and isolation.
-/

open Sys2Proof Sys2Proof.Machine

/-! ### The machine as a whole -/

/-- Tier 1.  A step takes the command at the front of the queue and is `exec` of it on the state with the queue's rest.
Where it rests on the model's own choices, they are those of the assumption log's entry 1. -/
def Obligations.StepRunsFront : Prop :=
  ∀ (c : Instr) (s : State), step { s with pending := c :: s.pending } = exec c s

/-- Tier 3.  A step of the block always goes on: no command stops it, and a command that is waiting is the only thing a step
takes from the queue; the time moves on only when none is waiting, by one tick of the watch clock (the model's choice, log
entry 2).
Where it rests on the model's own choices, they are those of the assumption log's entries 2 and 3. -/
def Obligations.EveryStepGoesOn : Prop :=
  ∀ s : State, ∃ t, step s = .next t ∧ t.pending = s.pending.tail ∧
    t.now = if s.pending.isEmpty then s.now + tickNs else s.now

/-- Tier 3.  Every queue of commands is worked off, whatever it holds: after as many steps as commands wait none is left, the
block has not stopped, no time has passed, and what the device has become is the commands' effect in the order of the
queue.
Where it rests on the model's own choices, they are those of the assumption log's entries 1 and 119. -/
def Obligations.QueueDrains : Prop :=
  ∀ s : State, ∃ d : Dev, Host.Core.run core s.pending.length s = .next { s with pending := [], dev := d } ∧
    s.pending.foldl (fun (o : Host.Outcome State Fault Refusal) c => match o with | .next t => exec c t | x => x)
      (.next { s with pending := [] }) = .next { s with pending := [], dev := d }

/-- Tier 1.  The state after reset: no command waits, its registers hold what the Reset columns of Tables 13-11, 14-10 and 18-4
give, every asterism is FREE, nothing is bound, and it is good.
Where it rests on the model's own choices, they are those of the assumption log's entries 9, 11, 12 and 14. -/
def Obligations.ResetIsGood : Prop :=
  Good State.reset ∧ State.reset.pending = [] ∧
    (
      let d := State.reset.dev
      d.get PWR_CAP.CAP_W = 7500 ∧ d.get PWR_CAP.MARGIN_W = 150 ∧ d.get PWR_SLEW_LIMIT.LIMIT = 250 ∧
      d.get PWR_BUFFER_ENERGY.SETPOINT = 24 ∧ d.get PWR_BUFFER_ENERGY.RESERVE = 6 ∧ d.get PWR_WAVE.STEP_W = 200 ∧
      d.get PWR_CTRL.OPMAX = 7 ∧ d.get PWR_CTRL.TJ_THROTTLE = 100 ∧ d.get PWR_DROOP.THRESH = 40 ∧
      d.flag MGT_LOCKDOWN.LOCK = false ∧ d.flag MGT_RING_BASE.EN = false ∧ d.flag RAS_ERRQ_BASE.EN = false ∧
      (∀ a, (d.ast a).state = .free) ∧ (∀ c, (d.coreAt c).tile = none) ∧ d.hif.ctxs = [] ∧ d.hif.queues = [] ∧ d.mem = [])

/-- Tier 2.  Every step keeps a good state good: what waits stays well formed, the time a whole number of ticks.
Where it rests on the model's own choices, they are those of the assumption log's entry 2. -/
def Obligations.GoodIsKept : Prop := ∀ s t : State, Good s → step s = .next t → Good t
/-! ### Queue commands -/

/-- Tier 2.  TILE, XFER_STORE, XFER_ADD and SWEEP, well formed and with every name they use fine: a best-effort one is accepted
without a bound (R354), and stands among the commands in flight with what it has to run: a TILE its program and tiles (R66,
R69), an XFER its segments of 2 MiB (R129), a SWEEP a job at the distributor (R215). A guaranteed-class command that passes
steps 4 to 9 of Table 11-2, gets a bound B and its energy is accepted: it stands in its asterism's book with B and the
deadline B µs after its acceptance, and is counted; one that fails a step leaves the book as it was and is counted as refused
(R354, R358).
Where it rests on the model's own choices, they are those of the assumption log's entries 25, 29, 31, 33, 36 and 37. -/
def Obligations.AdmissionDecides : Prop :=
  (
    ∀ (s : State) (q : Nat) (h : Head),
      (∀ b hd st, AtHead s.dev q 1 h → s.dev.tileCheck1 h.ctx.ast h.f.slot = true →
        s.dev.nameCompletion h.ctx.ast h.f.slot = .fine → s.dev.nameObj h.ctx.ast (tObj h.f.slot) = .fine →
        Tbl.find s.dev.hif.objs (tObj h.f.slot) = some b →
        s.dev.readProgram (s.dev.headTags h) b (tOff h.f.slot) = .ok hd st →
        s.dev.guaranteed (s.dev.newCmd s.now h).cls 1 = false →
        Sets (.tile q) s (·.afterHead s.now q) fun e => ∃ c, Tbl.find e.hif.cmds s.dev.hif.nextCmd = some c ∧
          c.tiles = tCount h.f.slot ∧ c.next = 0 ∧ c.hdr = hd ∧ c.prog = st ∧ c.phase = .running ∧ c.guar = false) ∧
      (∀ c src dst b l1 l2, (c = .xferStore q ∧ xMode h.f.slot ≠ 1 ∨ c = .xferAdd q ∧ xMode h.f.slot = 1) →
        AtHead s.dev q 2 h → xClean h.f.slot = true → tOff h.f.slot % 64 = 0 → xDst h.f.slot % 64 = 0 →
        s.dev.coresIn h.ctx.ast (xDpMask h.f.slot) ≠ [] → s.dev.nameCompletion h.ctx.ast h.f.slot = .fine →
        s.dev.nameObj h.ctx.ast (tObj h.f.slot) = .fine → Tbl.find s.dev.hif.objs (tObj h.f.slot) = some b →
        tOff h.f.slot + 64 ≤ b.size → xDst h.f.slot + 64 ≤ b.size →
        s.dev.peekBytes (s.dev.headTags h) (b.va + tOff h.f.slot) 64 = .inr l1 →
        s.dev.peekBytes (s.dev.headTags h) (b.va + xDst h.f.slot) 64 = .inr l2 →
        s.dev.xferDesc h.ctx.ast b (tOff h.f.slot) 0 false (BitVec.ofNat 512 (ofBytes l1)) = .inr src →
        s.dev.xferDesc h.ctx.ast b (xDst h.f.slot) (xMode h.f.slot) true (BitVec.ofNat 512 (ofBytes l2)) = .inr dst →
        src.total = dst.total → s.dev.guaranteed (s.dev.newCmd s.now h).cls 2 = false →
        Sets c s (·.afterHead s.now q) fun e => ∃ c, Tbl.find e.hif.cmds s.dev.hif.nextCmd = some c ∧
          c.tiles = ceilDiv src.total 2097152 ∧
          c.segs = some { src := src, dst := dst, lo := 0, hi := src.total, mode := xMode h.f.slot }) ∧
      (AtHead s.dev q 3 h → s.dev.sweepCheck h.ctx.ast h.f.slot = none → s.dev.nameCompletion h.ctx.ast h.f.slot = .fine →
        s.dev.guaranteed (s.dev.newCmd s.now h).cls 3 = false →
        Sets (.sweep q) s (·.afterHead s.now q) fun e =>
          Tbl.find e.sweeps s.dev.hif.nextCmd = some (s.dev.sweepJob h s.dev.hif.nextCmd) ∧
          (∃ c, Tbl.find e.hif.cmds s.dev.hif.nextCmd = some c ∧ c.resv.blocks = 16 * wMaxBlk h.f.slot))) ∧
  (
    ∀ (d : Dev) (now : Nat) (h : Head) (m : Cmd) (bound : Dev → Option Nat) (b : Nat),
      let g := { m with guar := true, resv := { m.resv with credits := (List.range 4).map (d.lp m.ast) } }
      d.guaranteed m.cls (hOp m.slot) = true → m.objs = [] →
      (d.earlySteps h g = none → bound d = some b → d.energyOk (ceilDiv m.resv.energy b) = true →
        (∃ c, Tbl.find (d.admitWork now h m bound).hif.cmds d.hif.nextCmd = some c ∧ c.guar = true ∧ c.inBook = true ∧
          c.boundUs = b ∧ c.deadline = now + b * 1000) ∧
        (d.admitWork now h m bound).hif.nextCmd = d.hif.nextCmd + 1) ∧
      (∀ r err, d.earlySteps h g = some (r, err) →
        d.admitWork now h m bound = (d.wrap (ADM_AST_BOOK2.REFUSED h.ctx.ast) 1).reject now h .refused r err none))

/-- Tier 2.  NOP, the three SIGNALs, RELEASE, WAIT, ACQUIRE and BARRIER, taken with every name fine.  A NOP completes; a
SIGNAL or RELEASE waits for the order of R320; a WAIT completes where its condition holds and parks where it does not
(R324); an ACQUIRE takes a free unit for which nobody waits (R325), and parks with its event's WAITERS counted where there
is none; a BARRIER opens its group over the asterism's core die pairs for its span (R326).
Where it rests on the model's own choices, they are those of the assumption log's entries 32 and 35. -/
def Obligations.SyncIsTaken : Prop :=
  ∀ (s : State) (q : Nat) (h : Head), s.dev.nameCompletion h.ctx.ast h.f.slot = .fine →
    (AtHead s.dev q 0 h →
      Leads (.nop q) s ((s.dev.acceptDone s.now h (s.dev.newCmd s.now h) .completed).afterHead s.now q)) ∧
    (∀ c, (c = .signalSet q ∧ hOp h.f.slot = 4 ∧ fld h.f.slot 0x10 20 2 = 0 ∨
          c = .signalAdd q ∧ hOp h.f.slot = 4 ∧ fld h.f.slot 0x10 20 2 = 1 ∨
          c = .signalMax q ∧ hOp h.f.slot = 4 ∧ fld h.f.slot 0x10 20 2 = 2 ∨ c = .release q ∧ hOp h.f.slot = 7) →
      AtHead s.dev q (hOp h.f.slot) h → s.dev.nameEvent h.ctx.ast (fld h.f.slot 0x10 0 20) = .fine →
      Sets c s (·.afterHead s.now q) fun e => ∃ m, Tbl.find e.hif.cmds s.dev.hif.nextCmd = some m ∧ m.phase = .ordered ∧
        m.slot = h.f.slot ∧ m.queue = h.q ∧ m.pos = h.f.pos) ∧
    (∀ v, AtHead s.dev q 5 h → Tbl.find s.dev.hif.events (fld h.f.slot 0x10 0 20) = some v → v.ast = h.ctx.ast →
      v.sem = false →
      (waitHolds h.f.slot v = true → Leads (.wait q) s
        ((s.dev.acceptDone s.now h { s.dev.newCmd s.now h with abandoned := v.abandoned } .completed).afterHead s.now q)) ∧
      (waitHolds h.f.slot v = false → Sets (.wait q) s (·.afterHead s.now q) fun e =>
        (∃ m, Tbl.find e.hif.cmds s.dev.hif.nextCmd = some m ∧ m.phase = .parked ∧
          m.timeoutAt = parkTimeout s.now h.f.slot) ∧
        Tbl.find e.hif.events (fld h.f.slot 0x10 0 20) = some { v with waiters := v.waiters + 1 })) ∧
    (∀ v, AtHead s.dev q 6 h → Tbl.find s.dev.hif.events (fld h.f.slot 0x10 0 20) = some v → v.ast = h.ctx.ast →
      v.free = true → s.dev.nextWaiter (fld h.f.slot 0x10 0 20) = none →
      s.dev.guaranteed (s.dev.newCmd s.now h).cls 6 = false →
      Leads (.acquire q) s (((s.dev.onEvent (fld h.f.slot 0x10 0 20) fun v => v.take h.queue.ctx).acceptDone s.now h
        { s.dev.newCmd s.now h with abandoned := v.abandoned, boundUs := 0, deadline := s.now + 1000 } .completed).afterHead
          s.now q)) ∧
    (AtHead s.dev q 8 h → Sets (.barrier q) s (·.afterHead s.now q) fun e =>
      ∃ b, e.net.barriers.getLast? = some b ∧ b.cmd = s.dev.hif.nextCmd ∧ b.queue = h.q ∧
        b.left = fld h.f.slot 0x10 0 5 ∧ b.waitArr = ((s.dev.coresOf h.ctx.ast).map coreDp).dedup ∧ b.planned = false)

/-- Tier 2.  A SIGNAL or RELEASE at the head of a queue with nothing before it takes effect in the same step: SET sets the event's
value and clears ABANDONED, ADD adds modulo 2^63, MAX takes the larger value (R320, R323), RELEASE returns the oldest unit its
context holds (R325). Stated where no command is in flight and no barrier is open. A parked WAIT or ACQUIRE whose TIMEOUT_US
has elapsed ends ABORTED with TIMED_OUT, and its event's WAITERS count falls (R324, R325). SIGNAL sets, adds modulo 2^63 or
takes the maximum, and SET clears ABANDONED; RELEASE returns the oldest unit its context holds; the completion event of an
ended command is raised by one. No other event changes.
Where it rests on the model's own choices, they are those of the assumption log's entry 3. -/
def Obligations.OrderedAndEvents : Prop :=
  (
    ∀ (s : State) (q : Nat) (h : Head) (v : Event), AtHead s.dev q (hOp h.f.slot) h → s.dev.hif.cmds = [] →
      s.dev.net.barriers = [] → h.queue.fetched = [h.f] → h.f.call = none → hEvent h.f.slot = 0 → v.ast = h.ctx.ast →
      Tbl.find s.dev.hif.events (fld h.f.slot 0x10 0 20) = some v →
      (∀ c w, hOp h.f.slot = 4 → v.sem = false →
        (c = .signalSet q ∧ fld h.f.slot 0x10 20 2 = 0 ∧ w = { v with value := fld h.f.slot 0x18 0 63, abandoned := false } ∨
         c = .signalAdd q ∧ fld h.f.slot 0x10 20 2 = 1 ∧ w = { v with value := (v.value + fld h.f.slot 0x18 0 63) % 2 ^ 63 } ∨
         c = .signalMax q ∧ fld h.f.slot 0x10 20 2 = 2 ∧ w = { v with value := max v.value (fld h.f.slot 0x18 0 63) }) →
        Answers c s fun e => Tbl.find e.hif.events (fld h.f.slot 0x10 0 20) = some w) ∧
      (hOp h.f.slot = 7 → v.sem = true → h.queue.ctx ∈ v.holders →
        Answers (.release q) s fun e => Tbl.find e.hif.events (fld h.f.slot 0x10 0 20) = some (v.release h.queue.ctx))) ∧
  (
    ∀ (s : State) (id : Nat) (m : Cmd), Tbl.find s.dev.hif.cmds id = some m → m.phase = .parked → m.timeoutAt ≠ 0 →
      m.timeoutAt ≤ s.now → ∀ c, (c = .waitTimeout id ∧ hOp m.slot = 5 ∨ c = .acquireTimeout id ∧ hOp m.slot = 6) →
      Leads c s ((((s.dev.onEvent (fld m.slot 0x10 0 20) fun v => { v with waiters := v.waiters - 1 }).onCmd id fun m =>
        { m with timedOut := true }).finish s.now id .aborted).afterHead s.now m.queue)) ∧
  (
    (∀ (d : Dev) (x : Line) (v : Event), Tbl.find d.hif.events (fld x 0x10 0 20) = some v →
      Tbl.find (d.applySignal x false).hif.events (fld x 0x10 0 20) = some { v with
        value := if fld x 0x10 20 2 = 0 then fld x 0x18 0 63
          else if fld x 0x10 20 2 = 1 then (v.value + fld x 0x18 0 63) % 2 ^ 63 else max v.value (fld x 0x18 0 63)
        abandoned := if fld x 0x10 20 2 = 0 then false else v.abandoned } ∧
      ∀ e, e ≠ fld x 0x10 0 20 → Tbl.find (d.applySignal x false).hif.events e = Tbl.find d.hif.events e) ∧
    (∀ (v : Event) (ctx : Nat), ctx ∈ v.holders →
      (v.release ctx).holders = v.holders.erase ctx ∧ (v.release ctx).value = (v.value + 1) % 2 ^ 63 ∧
      (v.holders = [ctx] → (v.release ctx).abandoned = false)) ∧
    (∀ (d : Dev) (e k : Nat) (v : Event), Tbl.find d.hif.events e = some v →
      Tbl.find (d.addEvent e k false).hif.events e = some { v with value := (v.value + k) % 2 ^ 63 }))

/-- Tier 2.  A command that ends COMPLETED with neither shed nor a late deadline, and whose queue has room in its completion ring,
writes one record there: its position, index, USER, error 0 and the PHASE of the ring position; it is in flight no longer
(R329, R331, R333). Stated for a command without a completion event, object, CALL or energy of its own. HINT books its power
and window where the tests pass (R428); HINT_OPEN opens the booking it names once LEAD_US has passed; HINT_CLOSE removes it
once its window or energy is used up. Opening and closing change nothing else. -/
def Obligations.CompletionAndHints : Prop :=
  (
    ∀ (d : Dev) (now id : Nat) (c : Cmd) (k : Queue), Tbl.find d.hif.cmds id = some c → Tbl.find d.hif.queues c.queue = some k →
      k.held = [] → k.cqRoom = true → hEvent c.slot = 0 → c.objs = [] → c.call = none → c.err = 0 → c.shed = none →
      c.guar = false → hQuiet c.slot = false → c.tiles = 0 → c.resv.blocks = 0 →
      let e := d.finish now id .completed
      Tbl.find e.hif.cmds id = none ∧
      (∃ r, Tbl.find e.hif.cq (cqKey c.queue (k.cqTail % 2 ^ k.clog2n)) = some r ∧ r.status = .completed ∧ r.pos = c.pos ∧
        r.index = c.index ∧ r.user = hUser c.slot ∧ r.error = 0 ∧ r.kind = 0 ∧ r.phase = phaseOf k.clog2n k.cqTail) ∧
      (∃ k', Tbl.find e.hif.queues c.queue = some k' ∧ k'.cqTail = (k.cqTail + 1) % 2 ^ 32)) ∧
  (
    ∀ s : State,
      (∀ q h, AtHead s.dev q 9 h → s.dev.nameCompletion h.ctx.ast h.f.slot = .fine →
        (s.dev.pwr.bookings.filter fun b => b.ast == h.ctx.ast).length < 4 → s.dev.pwr.bookings.length < 16 →
        s.dev.energyOk (fld h.f.slot 0x14 0 16 * 1000) = true → s.dev.bufferTest (fld h.f.slot 0x14 0 16 * 1000) = true →
        ∃ (d : Dev) (b : Booking), Leads (.hint q) s ((d.acceptDone s.now h (s.dev.newCmd s.now h) .completed).afterHead s.now q) ∧
          d.pwr.bookings = s.dev.pwr.bookings ++ [b] ∧ b.powerMw = fld h.f.slot 0x14 0 16 * 1000 ∧
          b.openAt = s.now + fld h.f.slot 0x16 0 16 * 1000 ∧ b.closeAt = b.openAt + fld h.f.slot 0x18 0 32 * 1000 ∧
          b.opened = false ∧ b.limitMj = fld h.f.slot 0x10 0 32) ∧
      (∀ b, Answers (.hintOpen b) s fun e => { e with pwr := s.dev.pwr } = s.dev ∧
        (∀ x ∈ s.dev.pwr.bookings, x.id = b → x.openAt ≤ s.now → { x with opened := true } ∈ e.pwr.bookings) ∧
        ∀ x ∈ s.dev.pwr.bookings, (x.id ≠ b ∨ s.now < x.openAt) → x ∈ e.pwr.bookings) ∧
      (∀ b, Answers (.hintClose b) s fun e => { e with pwr := s.dev.pwr } = s.dev ∧
        ∀ x, x ∈ e.pwr.bookings ↔ x ∈ s.dev.pwr.bookings ∧ ¬(x.id = b ∧ x.opened = true ∧ x.over s.now = true)))

/-- Tier 2.  ABORT of a command in flight without an outcome latches ABORTED on it and completes with WON (R327, R377); CALL
puts its COUNT commands in its place at the front of the queue's fetched commands (R322); FREE_OBJECT of a LIVE object
completes and sets the object RETIRING (R338).
Where it rests on the model's own choices, they are those of the assumption log's entry 108. -/
def Obligations.CallsAndLifetime : Prop :=
  ∀ (s : State) (q : Nat) (h : Head), s.dev.nameCompletion h.ctx.ast h.f.slot = .fine →
    (∀ k c id t, AtHead s.dev q 0x0A h → Tbl.find s.dev.hif.queues (fld h.f.slot 0x10 0 18) = some k →
      Tbl.find s.dev.hif.ctxs k.ctx = some c → c.ast = h.ctx.ast →
      (s.dev.hif.cmds.find? fun e => e.2.queue == fld h.f.slot 0x10 0 18 && e.2.pos == fld h.f.slot 0x14 0 32 &&
        e.2.call.isNone) = some (id, t) → t.forced = none →
      Leads (.abort q) s (((s.dev.latch s.now id .aborted).acceptDone s.now h (s.dev.newCmd s.now h) .completed 0
        (abortRec true true .aborted)).afterHead s.now q)) ∧
    (∀ b bs, AtHead s.dev q 0x0B h → firstNamed ((callObjs h.f.slot).map (s.dev.nameObj h.ctx.ast)) = .fine →
      Tbl.find s.dev.hif.objs (fld h.f.slot 0x10 0 24) = some b →
      fld h.f.slot 0x14 0 32 + 64 * fld h.f.slot 0x18 0 16 ≤ b.size →
      s.dev.peekBytes (s.dev.headTags h) (b.va + fld h.f.slot 0x14 0 32) (64 * fld h.f.slot 0x18 0 16) = .inr bs →
      Sets (.call q) s (·.afterHead s.now q) fun e => ∃ k, Tbl.find e.hif.queues q = some k ∧
        k.fetched = (List.range (fld h.f.slot 0x18 0 16)).map (fun i =>
          { pos := h.f.pos, index := i, call := some s.dev.hif.nextCmd
            slot := BitVec.ofNat 512 (ofBytes ((bs.drop (64 * i)).take 64)) }) ++ h.queue.fetched.tail) ∧
    (∀ b, AtHead s.dev q 0x0C h → Tbl.find s.dev.hif.objs (fld h.f.slot 0x10 0 24) = some b → b.ast = h.ctx.ast →
      b.state = .live →
      Leads (.freeObject q) s ((((s.dev.acceptDone s.now h (s.dev.newCmd s.now h) .completed).onObj (fld h.f.slot 0x10 0 24)
        fun b => { b with state := .retiring, freer := some (h.q, h.f.pos), inflight := b.inflight + 1 }).dropObj s.now
          (fld h.f.slot 0x10 0 24)).afterHead s.now q))
/-! ### Translation -/

/-- Tier 2.  MAP, UNMAP and INVALIDATE. A MAP that every check of R187 passes and that replaces nothing writes its pages and
completes; one that a check refuses is refused with that check's field and writes nothing. An UNMAP or INVALIDATE that passes
the checks of R190 sends one invalidation to every stack in its scope, and waits for their acknowledgements (R191, R192). The
invalidation broadcast. A stack drops every cached entry in the invalidation's scope before it acknowledges; the last
acknowledgement ends the invalidation, an earlier one only shortens what is waited for; 45 µs without every acknowledgement
ends it with the late stacks; a purge done leaves neither the tag nor a cached entry of it (R190 to R194). A write of
HIF_INV_DOORBELL that its path may make sends an invalidation of the asterism, or of one of its contexts, to every stack that
holds a channel of it, and sets BUSY; while BUSY is set it changes nothing (R192, Table 6-10).
Where it rests on the model's own choices, they are those of the assumption log's entry 43. -/
def Obligations.TablesAndInvalidation : Prop :=
  (
    ∀ (s : State) (q : Nat) (h : Head), s.dev.nameCompletion h.ctx.ast h.f.slot = .fine →
      let x := h.f.slot
      let a := h.ctx.ast
      let sts := allStacks.filter (bit (pStacks x))
      let d := s.dev.onQueue h.q fun k => { k with mapTag := none }
      (AtHead s.dev q 0x0D h → h.relisted = false → s.dev.mapWaits x a = false →
        (d.mapCheck x a = none → d.mapNodes x a sts = none → mReplace x = false →
          Leads (.map q) s (((d.writePages s.now x sts).acceptDone s.now h
            ((d.writePages s.now x sts).newCmd s.now h) .completed).afterHead s.now q)) ∧
        (∀ b, d.mapCheck x a = some b → Leads (.map q) s ((d.refuseMap s.now h b).afterHead s.now q))) ∧
      (AtHead s.dev q 0x0E h → unmapBad x false = none → uScope x = 1 → uWb x = false → s.dev.invalsFull a = false →
        (s.dev.scopeStacks a (pStacks x)).all (fun t => !s.dev.purgeFull t a (uCtx x)) = true →
        s.dev.scopeStacks a (pStacks x) ≠ [] →
        Sets (.unmap q) s (·.afterHead s.now q) fun e => ∃ v, e.net.invals = s.dev.net.invals ++ [v] ∧ v.ast = a ∧
          v.ctx = some (uCtx x) ∧ v.wait = s.dev.scopeStacks a (pStacks x) ∧ v.cmd = some s.dev.hif.nextCmd ∧ v.at_ = s.now) ∧
      (AtHead s.dev q 0x0F h → unmapBad x true = none → uScope x = 1 → s.dev.invalsFull a = false →
        s.dev.scopeStacks a (pStacks x) ≠ [] →
        Sets (.invalidate q) s (·.afterHead s.now q) fun e => ∃ v, e.net.invals = s.dev.net.invals ++ [v] ∧ v.ast = a ∧
          v.ctx = some (uCtx x) ∧ v.wait = s.dev.scopeStacks a (pStacks x) ∧ v.cmd = some s.dev.hif.nextCmd ∧ v.at_ = s.now)) ∧
  (
    ∀ s : State,
      (∀ i id t v, s.dev.net.notes[i]? = some (.inval id t) → s.dev.invalOf id = some v → s.dev.firstInval i t = true →
        (s.dev.stack t).ingress = true → (s.dev.stack t).biWait = [] →
        Answers (.invalidationMessage i) s fun e =>
          (e.stack t).cache = (s.dev.stack t).cache.filter (fun x => !v.covers x) ∧ (e.stack t).table = (s.dev.stack t).table ∧
          e.net.notes = dropAt s.dev.net.notes i ++ [.invAck id t] ∧ (∀ k, k ≠ t → e.stack k = s.dev.stack k) ∧
          { e with stk := s.dev.stk, net := s.dev.net } = s.dev) ∧
      (∀ i id t v, s.dev.net.notes[i]? = some (.invAck id t) → s.dev.invalOf id = some v →
        (v.wait.filter (· != t) ≠ [] → Answers (.invalidationAck i) s fun e =>
          e.net.invals = s.dev.net.invals.map (fun x => if x.id = id then { v with wait := v.wait.filter (· != t) } else x) ∧
          { e with net := s.dev.net } = s.dev) ∧
        (v.wait.filter (· != t) = [] → Leads (.invalidationAck i) s
          ((s.dev.onNet fun n => { n with notes := dropAt n.notes i }).invalOver s.now { v with wait := [] } []))) ∧
      (∀ id v, s.dev.invalOf id = some v → v.at_ + 45000 ≤ s.now →
        Leads (.trnInvTimeout id) s ((v.wait.foldl (fun d t => (d.closeStack v.ast t (if v.cmd.isSome then .contained
          else .degraded)).requestReset s.now 2 t 0x030B) s.dev).invalOver s.now v v.wait)) ∧
      (∀ t a ctx, (a, ctx) ∈ (s.dev.stack t).purge → Answers (.purgeComplete t a ctx) s fun e =>
        (a, ctx) ∉ (e.stack t).purge ∧ ∀ x ∈ (e.stack t).cache, entryOfTag a ctx x = false)) ∧
  (
    ∀ (s : State) (path a : Nat), MayWrite s.dev path HIF_INV_DOORBELL.off →
      (s.dev.flag HIF_INV_STATUS.BUSY = true → Leads (.hifInvDoorbellAst path a) s s.dev ∧
        ∀ ctx, Leads (.hifInvDoorbellCtx path a ctx) s s.dev) ∧
      (s.dev.flag HIF_INV_STATUS.BUSY = false → s.dev.stacksOf a ≠ [] → ∀ c o,
        (c = .hifInvDoorbellAst path a ∧ o = none ∨ ∃ ctx, c = .hifInvDoorbellCtx path a ctx ∧ o = some ctx) →
        Answers c s fun e => e.get HIF_INV_STATUS.BUSY = 1 ∧ ∃ v, e.net.invals = s.dev.net.invals ++ [v] ∧ v.ast = a ∧
          v.ctx = o ∧ v.wait = s.dev.stacksOf a ∧ v.doorbell = true ∧ v.cmd = none ∧
          e.net.notes = s.dev.net.notes ++ (s.dev.stacksOf a).map fun t => .inval v.id t))

/-! ### Management commands and composition -/

/-- Tier 2.  A management command that completes leaves firmware's hands with one record in the management completion ring:
KIND 3, its position, USER, outcome, reason and error, the PHASE of the ring position; CQ_TAIL rises by one, and nothing but
records changes (R333, R549).  One that came by MGT_SUBMIT answers its port instead.
Where it rests on the model's own choices, they are those of the assumption log's entries 101 and 102. -/
def Obligations.ManagementRecords : Prop :=
  ∀ (d : Dev) (now k : Nat) (m : Mgt) (st : CStatus) (r : Reason) (err : Nat), Tbl.find d.hif.mgt k = some m →
    let e := d.mgtDone now k st r err
    Reports d e ∧ Tbl.find e.hif.mgt k = none ∧
    (m.submit = none → d.mgtDead = false → d.hif.mheld = [] → d.mgtCqRoom = true →
      e.get MGT_CQ_TAIL.TAIL = (d.get MGT_CQ_TAIL.TAIL + 1) % 2 ^ 32 ∧
      ∃ c, Tbl.find e.hif.mcq (d.get MGT_CQ_TAIL.TAIL % 2 ^ d.mgtClog) = some c ∧ c.kind = 3 ∧ c.pos = m.pos ∧
        c.user = hUser m.slot ∧ c.status = st ∧ c.reason = r ∧ c.error = err ∧
        c.phase = phaseOf d.mgtClog (d.get MGT_CQ_TAIL.TAIL)) ∧
    (∀ p, m.submit = some p → ∃ c, e.hif.submitted = (p, c) :: d.hif.submitted ∧ c.status = st ∧ c.reason = r ∧
      c.error = err ∧ c.user = hUser m.slot)

/-- Tier 2.  BIND and UNBIND.  With a sound header, sound entries and the checks of Table 9-6 passed, the entries apply to the
staged map in order; without APPLY the command completes, with APPLY the map waits to be published (R271, R278, R279).  A
command that any check refuses changes no composition, only records (R279).
Where it rests on the model's own choices, they are those of the assumption log's entry 57. -/
def Obligations.CompositionIsStaged : Prop :=
  ∀ (s : State) (k : Nat) (m : Mgt),
    let x := m.slot
    let a := fld x 0x10 0 6
    let b := begun s.dev k
    (Turn s.dev k 0x80 m →
      (∀ p, composeClean false x (b.ast a).state = true → b.lcBusy = false → (cApply x = true → b.lockedFn a = none) →
        firstEntry (entryDirty false) m.entries = none → firstEntry (entryBad false) m.entries = none →
        (cCreate x = true → b.flag (LCS_POLICY_DOM_A.EN (cDom x)) = true ∧ b.lcs.state ≠ 0 ∧ b.lcs.state ≠ 3) →
        applyAll (b.bindEntry a) m.entries
          (let st := if cCreate x then CMap.empty (cDom x) (cHome x) else (b.ast a).staged
           if cSetHome x then { st with home := cHome x } else st) = .inr p →
        b.check4 a p = none → (cApply x = true → b.applyChecks s.now a p m false = none) →
        Answers (.bind k) s fun e => (e.ast a).staged = p ∧ (∀ c, c ≠ a → e.ast c = s.dev.ast c) ∧
          (cCreate x = true → (e.ast a).state = .composing ∧ (e.ast a).cur = none) ∧ e.core = s.dev.core ∧
          (cApply x = true → e.comp.waiting = s.dev.comp.waiting ++
            [{ ast := a, edit := none, map := p, dissolve := false, shed := cShed x, cmd := some k }] ∧
            (Tbl.find e.hif.mgt k).isSome) ∧
          (cApply x = false → e.comp.waiting = s.dev.comp.waiting ∧ Tbl.find e.hif.mgt k = none)) ∧
      (∀ d, (firstEntry (entryBad false) m.entries = some d ∨
          ∃ p, applyAll (b.bindEntry a) m.entries (b.ast a).staged = .inr p ∧ cCreate x = false ∧ cSetHome x = false ∧
            (b.check4 a p).isSome) → Answers (.bind k) s fun e => Reports b e ∧ Tbl.find e.hif.mgt k = none)) ∧
    (Turn s.dev k 0x81 m →
      (∀ p, composeClean true x (b.ast a).state = true → (cApply x = true → b.lockedFn a = none) →
        firstEntry (entryDirty true) m.entries = none → firstEntry (entryBad true) m.entries = none →
        applyAll (b.unbindEntry a) m.entries (if cSetHome x then { (b.ast a).staged with home := cHome x } else
          (b.ast a).staged) = .inr p → b.check4 a p = none →
        ¬(cCreate x = true ∧ (b.ast a).state = .composing) →
        (cApply x = true → b.applyChecks s.now a p m (cCreate x) = none) →
        Answers (.unbind k) s fun e => (e.ast a).staged = p ∧ (∀ c, c ≠ a → e.ast c = s.dev.ast c) ∧
          (e.ast a).cur = (s.dev.ast a).cur ∧ e.core = s.dev.core ∧
          (cApply x = true → e.comp.waiting = s.dev.comp.waiting ++
            [{ ast := a, edit := none, map := p, dissolve := cCreate x, shed := cShed x, cmd := some k }] ∧
            (Tbl.find e.hif.mgt k).isSome) ∧
          (cApply x = false → e.comp.waiting = s.dev.comp.waiting ∧ Tbl.find e.hif.mgt k = none)) ∧
      (∀ d, firstEntry (entryBad true) m.entries = some d → Answers (.unbind k) s fun e =>
        Reports b e ∧ Tbl.find e.hif.mgt k = none))

/-- Tier 2.  ATTACH binds a free function the policy permits to an asterism that may host one (R292), and is refused with no effect
otherwise. A DETACH of a QUIESCED asterism's function without contexts disables it and closes its window (R293, R295); a
forced one, where the policy permits it, begins with every context of the function revoked (R294). QUIESCE stops an ACTIVE
asterism's fetch and waits; the asterism that is quiescent becomes QUIESCED and the QUIESCE completes; at TIMEOUT_MS it is
refused and the asterism stays QUIESCING; RESUME makes it ACTIVE, and has no effect on one that is neither QUIESCING nor
QUIESCED (R296, R297). No other asterism changes. -/
def Obligations.FunctionsAndQuiesce : Prop :=
  (
    ∀ (s : State) (k : Nat) (m : Mgt),
      let x := m.slot
      let a := fld x 0x10 0 6
      let p := cPort x
      let f := fnOf p (cHalf x) (cVf x)
      let d := s.dev
      (Turn d k 0x82 m → d.lockedFn a = none →
        ((d.ast a).state.hosts = true → ((d.ast a).funcs.getD p (0, false)).1 = 0 → 1 ≤ cVf x → cVf x ≤ 64 →
          (d.fn f).ast = none → bit (d.get (LCS_POLICY_DOM_A.PORTS (d.domOf a))) p = true →
          (cHalf x = true → d.flag (CXP_CTRL.SPLIT p) = true) →
          Answers (.attach k) s fun e => (e.fn f).ast = some a ∧ (e.fn f).enabled = true ∧
            (e.ast a).funcs = modifyAt (d.ast a).funcs p (fun _ => (cVf x, cHalf x)) ∧
            (∀ g, g ≠ f → e.fn g = d.fn g) ∧ (∀ c, c ≠ a → e.ast c = d.ast c) ∧ e.comp.epoch = d.comp.epoch ∧
            Tbl.find e.hif.mgt k = none) ∧
        ((cVf x = 0 ∨ 64 < cVf x ∨ (cHalf x = true ∧ d.flag (CXP_CTRL.SPLIT p) = false)) →
          Answers (.attach k) s fun e => Reports (begun d k) e ∧ Tbl.find e.hif.mgt k = none)) ∧
      (Turn d k 0x83 m →
        (∀ g, fld x 0x11 3 1 = 0 → d.detachFn x = some g → (d.fn g).ast = some a → (d.ast a).state = .quiesced →
          d.fnCtxs g = [] → d.detachLeft k = false → d.cxl.bi = [] → d.stk = [] →
          1 ≤ fnVf g →
          Answers (.detach k) s fun e => (e.fn g).ast = none ∧ (e.fn g).enabled = false ∧ (e.fn g).closing = none ∧
            e.get (CXP_VF_WIN.EN (fnPort g) (fnVf g - 1 + (if fnHalf g then 64 else 0))) = 0 ∧
            (∀ n < 32, ¬(e.get (CXP_HDM_MAP.VF (fnPort g) n) = fnVf g ∧ e.flag (CXP_HDM_MAP.HALF (fnPort g) n) = fnHalf g)) ∧
            ((e.ast a).funcs = modifyAt (d.ast a).funcs (fnPort g) fun _ => (0, false)) ∧
            (∀ h, h ≠ g → e.fn h = d.fn h)) ∧
        (fld x 0x11 3 1 = 0 → ∀ g, d.detachFn x = some g → (d.ast a).state ≠ .quiesced →
          Answers (.detach k) s fun e => Reports (begun d k) e ∧ Tbl.find e.hif.mgt k = none) ∧
        (∀ g rest, fld x 0x11 3 1 = 1 → d.detachFn x = some g → d.flag (LCS_POLICY_DOM_A.FORCE_DETACH (d.domOf a)) = true →
          Leads (.detachForce k rest) s (((d.fnCtxs g).foldl (fun p x => Dev.detachCtx s.now k p x)
            ((((begun d k).onFn g fun n => { n with closing := some k, tdi := if n.tdi = .unlocked then .unlocked else
              .error }).onHif fun h => { h with mgt := Tbl.adj h.mgt k fun m => { m with count := (d.fnCtxs g).length } }), rest)).1
                |>.detachGoOn s.now)) ∧
        (∀ g rest, fld x 0x11 3 1 = 1 → d.detachFn x = some g → d.flag (LCS_POLICY_DOM_A.FORCE_DETACH (d.domOf a)) = false →
          Answers (.detachForce k rest) s fun e => Reports (begun d k) e ∧ Tbl.find e.hif.mgt k = none))) ∧
  (
    ∀ (s : State) (k a : Nat) (m : Mgt), a = fld m.slot 0x10 0 6 →
      let d := s.dev
      (Turn d k 0x84 m → (d.ast a).state = .active → Answers (.quiesce k) s fun e => (e.ast a).state = .quiescing ∧
        (e.ast a).quiesce = some (k, if fld m.slot 0x12 0 16 = 0 then 0 else s.now + fld m.slot 0x12 0 16 * 1000000) ∧
        (∀ c, c ≠ a → e.ast c = d.ast c) ∧ { e with comp := d.comp, hif := d.hif } = d) ∧
      (Turn d k 0x84 m → (d.ast a).state = .quiesced → Answers (.quiesce k) s fun e =>
        Reports (begun d k) e ∧ Tbl.find e.hif.mgt k = none) ∧
      ((d.ast a).state = .quiescing → d.quiescent a = true → ∀ j t, (d.ast a).quiesce = some (j, t) →
        Answers (.quiescent a) s fun e => (e.ast a).state = .quiesced ∧ (e.ast a).quiesce = none ∧
          Tbl.find e.hif.mgt j = none ∧ ∀ c, c ≠ a → e.ast c = d.ast c) ∧
      ((d.quiescent a = false ∨ (d.ast a).state ≠ .quiescing) → Leads (.quiescent a) s d) ∧
      (∀ j t, (d.ast a).quiesce = some (j, t) → t ≠ 0 → t ≤ s.now → Answers (.quiesceTimeout a) s fun e =>
        (e.ast a).state = (d.ast a).state ∧ (e.ast a).quiesce = none ∧ Tbl.find e.hif.mgt j = none) ∧
      (Turn d k 0x85 m →
        (((d.ast a).state = .quiescing ∨ (d.ast a).state = .quiesced) → Answers (.resume k) s fun e =>
          (e.ast a).state = .active ∧ (e.ast a).quiesce = none ∧ (∀ c, c ≠ a → e.ast c = d.ast c)) ∧
        ((d.ast a).state ≠ .quiescing → (d.ast a).state ≠ .quiesced → Answers (.resume k) s fun e =>
          Reports (begun d k) e ∧ Tbl.find e.hif.mgt k = none)))

/-- Tier 2.  COMMIT_MODE advances the mode epoch, pauses dispatch in its scope and waits for the units that hold a copy; the
last acknowledgement makes the staged copies the active ones and dispatch goes on; one missing 100 µs after the start rolls
the change back, records 0x05C9 with the laggards, resets them and aborts the command (R299 to R301).
Where it rests on the model's own choices, they are those of the assumption log's entries 58 and 60. -/
def Obligations.ModesCommit : Prop :=
  ∀ (s : State) (k : Nat) (m : Mgt),
    (Turn s.dev k 0x86 m → ∀ a, mgtAst m.slot = some a → s.dev.lockedFn a = none → Answers (.commitMode k) s fun e =>
      e.comp.modeEpoch = (s.dev.comp.modeEpoch + 1) % 65536 ∧ (e.ast a).paused = true ∧
      e.comp.mode = some { cmd := k, scope := some a, wait := [svcUnit (s.dev.home a)], at_ := s.now } ∧ e.regs = s.dev.regs) ∧
    (Turn s.dev k 0x86 m → mgtAst m.slot = none →
      (s.dev.classBad = true → Answers (.commitMode k) s fun e => Reports (begun s.dev k) e ∧ Tbl.find e.hif.mgt k = none) ∧
      (s.dev.classBad = false → Answers (.commitMode k) s fun e => ∃ r, e.comp.mode = some r ∧ r.cmd = k ∧ r.scope = none ∧
        r.wait = diePairs.map svcUnit ++ allStacks.map stackUnit ∧ r.at_ = s.now ∧ e.regs = s.dev.regs ∧
        ∀ x ∈ e.comp.asts, x.2.paused = true)) ∧
    (∀ r u, s.dev.comp.mode = some r → u ∈ r.wait → r.wait.filter (· != u) ≠ [] → Answers (.modeAck u) s fun e =>
      e.comp.mode = some { r with wait := r.wait.filter (· != u) } ∧ { e with comp := s.dev.comp } = s.dev) ∧
    (∀ r u, s.dev.comp.mode = some r → r.wait = [u] → Leads (.modeAck u) s ((((((s.dev.adoptMode r.scope).onComp fun c =>
      { c with mode := none }).pause r.scope false).mgtDone s.now r.cmd .completed)).after s.now)) ∧
    (∀ (d : Dev) (a : Nat), (d.adoptMode (some a)).get (CMP_AST_MODE.TSLICE_US a) = d.get (CMP_AST_MODE_S.TSLICE_US a) ∧
      (∀ l < 64, (d.adoptMode none).get (ADM_CLASS_TABLE_ACT.CLASS l) = d.get (ADM_CLASS_TABLE.CLASS l)) ∧
      ∀ c < 8, (d.adoptMode none).get (ADM_CLASS_PARAM_A_ACT.TARGET c) = d.get (ADM_CLASS_PARAM_A.TARGET c)) ∧
    (∀ r, s.dev.comp.mode = some r →
      (s.now < r.at_ + 100000 → Leads .modeChangeRolledBack s s.dev) ∧
      (r.at_ + 100000 ≤ s.now → Leads .modeChangeRolledBack s (((r.wait.foldl (fun d u =>
          if u / 8192 = 6 then d.requestReset s.now 3 (u % 8192) 0x05C9 else d.requestReset s.now 2 (u % 8192) 0x05C9)
        (((s.dev.onComp fun c => { c with mode := none }).pause r.scope false).raise 0x05C9 moduleUnit 0x00 .degraded
          (s.dev.comp.modeEpoch :: r.wait.length :: packList 16 (r.wait.take 6)))).mgtDone s.now r.cmd .aborted).after s.now)))

/-! ### Stacks -/

/-- Tier 2.  The five requests a stack serves: one whose slot check fails ends as the hard fault of that check; one that misses the
translation cache waits for a walk and is counted as a miss; one that hits is served at the channel offset of its entry, or
redirected, or ends as the hard fault its entry gives (R171, R172, R174, R177). WALK_COMPLETE: one of the 64 walks under way,
at a stack whose ingress is open, ends: a request whose page has no entry is the hard fault 0x0302; one whose page has an
entry proceeds with it, and the cache keeps the entry (R172, R174).
Where it rests on the model's own choices, they are those of the assumption log's entries 42 and 107. -/
def Obligations.RequestsAndWalks : Prop :=
  (
    ∀ (s : State) (c : Instr) (i l : Nat) (r : Req) (ecc : Ecc), Reaches s.dev i r l →
      (c = .stackRead i ecc ∧ r.acc = .read ∨ c = .stackWrite i ecc ∧ r.acc = .write ∨ c = .stackMaskedWrite i ecc ∧ r.acc = .masked ∨
        c = .stackAdd i ecc ∧ r.acc = .add ∨ c = .fetchAndAdd i ecc ∧ r.acc = .fetchAdd) →
      let d := s.dev.dropReq i
      let hit := d.wrap (TRN_HITS.HITS (chanStack l)) 1
      (∀ code unit, s.dev.atSlot l r = .inr (code, unit) → Leads c s (d.stackHard (chanStack l) r code unit)) ∧
      (∀ w, s.dev.atSlot l r = .inl w →
        (entryAt (s.dev.stack (chanStack l)).cache r.tags.ast r.va = none → Answers c s fun e =>
          (e.stack (chanStack l)).walks = (s.dev.stack (chanStack l)).walks ++ [⟨r, s.now⟩] ∧
          e.get (TRN_MISSES.MISSES (chanStack l)) = (s.dev.get (TRN_MISSES.MISSES (chanStack l)) + 1) % 2 ^ 64 ∧
          e.net.reqs = dropAt s.dev.net.reqs i ∧ (∀ k, k ≠ chanStack l → e.stack k = s.dev.stack k) ∧ SameMemory s.dev e) ∧
        (∀ k x, entryAt (s.dev.stack (chanStack l)).cache r.tags.ast r.va = some (k, x) →
          (∀ o, s.dev.entryVerdict r.tags r.acc l r.va w (some x) = .serve l o → (r.acc = .read ∨ s.dev.tracked l o = false) →
            Leads c s (hit.access s.now l o r ecc)) ∧
          (∀ o, s.dev.entryVerdict r.tags r.acc l r.va w (some x) = .serve l o → r.acc ≠ .read → s.dev.tracked l o = true →
            Leads c s ((hit.snoop s.now (chanStack l) (granKey (hit.physChan l) (granOf o))).onStack (chanStack l) fun t =>
              { t with biWait := t.biWait ++ [r] })) ∧
          (∀ p a, s.dev.entryVerdict r.tags r.acc l r.va w (some x) = .redirect p a → Leads c s (hit.answer r (.redirect p a))) ∧
          (∀ code, s.dev.entryVerdict r.tags r.acc l r.va w (some x) = .hard code →
            Leads c s (hit.stackHard (chanStack l) r code)) ∧
          (∀ code, s.dev.entryVerdict r.tags r.acc l r.va w (some x) = .soft code →
            Leads c s (hit.softFault s.now (chanStack l) k x r code))))) ∧
  (
    ∀ (s : State) (st i l : Nat) (w : Walk) (x : Route), (s.dev.stack st).walks[i]? = some w → i < 64 →
      (s.dev.stack st).ingress = true → (∃ a b, w.req.dest = .chan l a b) → chanStack l = st →
      s.dev.atSlot l w.req = .inl x →
      let d := s.dev.onStack st fun t => { t with walks := dropAt t.walks i }
      (entryAt (s.dev.stack st).table w.req.tags.ast w.req.va = none →
        Leads (.walkComplete st i .clean) s (d.stackHard st w.req 0x0302)) ∧
      (∀ k y o, entryAt (s.dev.stack st).table w.req.tags.ast w.req.va = some (k, y) →
        (s.dev.stack st).cache.length < 262144 →
        s.dev.entryVerdict w.req.tags w.req.acc l w.req.va x (some y) = .serve l o → w.req.acc.writes = false →
        Leads (.walkComplete st i .clean) s ((d.cacheEntry st k y).access s.now l o w.req .clean) ∧
        Tbl.find ((d.cacheEntry st k y).stack st).cache k = some y))

/-- Tier 3.  Isolation of memory.  Data that a read answers to a request comes through a slot bound to the request's asterism
under the request's epoch, through an entry of its asterism and domain, of its own context unless shared, that may be read and
is present, from a granule of its domain under the domain's present key generation, never poisoned; a cleared granule answers
zeros (R146, R171, R177).
Where it rests on the model's own choices, they are those of the assumption log's entry 7. -/
def Obligations.ReadsStayInside : Prop :=
  ∀ (s t : State) (i l : Nat) (r : Req) (ecc : Ecc) (x : Line), exec (.stackRead i ecc) s = .next t → Reaches s.dev i r l →
    (⟨r, .ok, x⟩ : Resp) ∈ t.dev.net.resps → (⟨r, .ok, x⟩ : Resp) ∉ s.dev.net.resps →
    ∃ w k e, s.dev.slotOk r.tags l r.va = some w ∧ entryAt (s.dev.stack (chanStack l)).cache r.tags.ast r.va = some (k, e) ∧
      e.ast = r.tags.ast ∧ e.dom = r.tags.dom ∧ (r.tags.host = true ∨ e.shr = true ∨ e.ctx = r.tags.ctx) ∧ e.rd = true ∧
      e.p = true ∧ e.ps = w.ps ∧ w.r < e.share ∧
      let off := (e.frame + w.r) * 4096 + r.va % 4096
      let g := s.dev.gran (granKey (s.dev.physChan l) (granOf off))
      off < privateBase ∧ s.dev.slotValid (chanStack l) r.tags.dom = true ∧ g.poison = false ∧
        (g.clr = true ∧ x = 0 ∨ g.clr = false ∧ g.dev = false ∧ g.dom = r.tags.dom ∧
          g.kgen = s.dev.kgen (chanStack l) r.tags.dom)

/-- Tier 2.  A granule of a VALID domain slot that a request writes whole reads back as written, for every requester of the same
domain, and for none of another domain (0x0208); no other granule changes.  Stated where no move mirrors the granule and the
stack runs no copy (R143, R145, R146).
Where it rests on the model's own choices, they are those of the assumption log's entry 7. -/
def Obligations.WrittenThenRead : Prop :=
  ∀ (d : Dev) (now l off a dom ctx : Nat) (x : Line), off < privateBase → d.slotValid (chanStack l) dom = true →
    (∀ m ∈ d.comp.moves, m.mirrors l (granOf off) = false) → (d.stack (chanStack l)).copy = none →
    let e := (d.writeGran now l off (.tagged a dom ctx) x).1
    (d.writeGran now l off (.tagged a dom ctx) x).2 = none ∧
    (∀ k, k ≠ granKey (d.physChan l) (granOf off) → e.gran k = d.gran k) ∧
    (∀ now' a' ctx', (e.readGran now' l off (.tagged a' dom ctx') .clean).2 = .inr x) ∧
    (∀ now' a' dom' ctx', dom' ≠ dom → e.slotValid (chanStack l) dom' = true →
      (e.readGran now' l off (.tagged a' dom' ctx') .clean).2 = .inl 0x0208)

/-- Tier 2.  Stored memory keeps its canonical form through every operation on granules: writes, read-modify-writes, ECC's
poisoning, wipes, scrubs and copies; and it has it after reset.
Where it rests on the model's own choices, they are those of the assumption log's entry 9. -/
def Obligations.MemoryStaysCanonical : Prop :=
  let good := fun (d : Dev) => Memory.wf d.lost d.mem = true ∧ SliceMem.wf d.slice = true
  good State.reset.dev ∧ ∀ d : Dev, good d →
    (∀ now l off who x, good (d.writeGran now l off who x).1) ∧ (∀ now l off who ecc, good (d.readGran now l off who ecc).1) ∧
    (∀ now l off who ecc f, good (d.rmwGran now l off who ecc f).1) ∧ (∀ lo hi b, good (d.wipe lo hi b)) ∧
    (∀ c, good (d.scrubChan c)) ∧ (∀ k, good (d.scrubSlice k)) ∧ (∀ lo hi b f, good (d.copyGrans lo hi b f)) ∧
    (∀ j k, good (d.copySlice j k)) ∧ (∀ a b, good (d.copyChannel a b)) ∧ (∀ k g, good (d.setSgran k g))

/-- Tier 2.  A stack looks after itself.  A patrol read moves the patrol pointer on, and poisons a granule that reads
uncorrectable (R145, R147); a row activated 32,768 times has its neighbours refreshed and its count cleared (R148); a temperature
reading sets TEMP, the band by its thresholds with 2 °C to leave one, and DELIV (R154, R155); a pull with every granule in place
sets P and sends the presence notice to every die pair (R182, R183).
Where it rests on the model's own choices, they are those of the assumption log's entries 44 and 46. -/
def Obligations.StackUpkeep : Prop :=
  ∀ (s : State) (st : Nat), st < 32 →
    let d := s.dev
    (∀ ecc, Answers (.patrolRead st ecc) s fun e =>
      (e.stack st).patrol = ((d.stack st).patrol + 1) % (34 * chanGranules) ∧ (∀ k, k ≠ st → e.stack k = d.stack k) ∧
      let key := granKey (st * 34 + (d.stack st).patrol / chanGranules) ((d.stack st).patrol % chanGranules)
      (∀ k, k ≠ key → e.gran k = d.gran k) ∧
      e.gran key = if ecc = .uncorrectable then { d.gran key with poison := true } else d.gran key) ∧
    (∀ row, 32768 ≤ Tbl.look 0 (d.stack st).acts row → Answers (.targetedRefresh st row) s fun e =>
      Tbl.look 0 (e.stack st).acts row = 0 ∧ (e.stack st).refreshed = (d.stack st).refreshed + (neighbours row).length ∧
      { e with stk := d.stk } = d) ∧
    (∀ temps, let t := (hottest temps).2
      Answers (.thermalRead st temps) s fun e => e.get (STK_STATUS.TEMP st) = min t 255 ∧
        e.get (STK_STATUS.BAND st) = d.bandAt st (d.get (STK_STATUS.BAND st)) t ∧
        e.get (STK_STATUS.DELIV st) = e.deliverable st ∧
        (e.stack st).trips = decide (d.get (STK_THERM_CTRL.TRIP st) ≤ t) ∧ (∀ k, k ≠ st → e.stack k = d.stack k)) ∧
    (∀ old t b, 1 ≤ b → b ≤ 4 → (d.bandFrom st b ≤ t → b ≤ d.bandAt st old t) ∧
      (d.bandAt st old t = b → d.bandFrom st b ≤ t ∨ b ≤ old ∧ d.bandFrom st b < t + 2)) ∧
    (∀ tok p, Tbl.find (d.stack st).pend tok = some p → p.pull = some [] → Answers (.pullComplete st tok) s fun e =>
      Tbl.find (e.stack st).pend tok = none ∧
      (∀ x, Tbl.find (d.stack st).table p.page = some x → Tbl.find (e.stack st).table p.page = some { x with p := true }) ∧
      (∀ k, k ≠ p.page → Tbl.find (e.stack st).table k = Tbl.find (d.stack st).table k) ∧
      e.net.notes = d.net.notes ++ diePairs.map (fun _ => .presence st tok) ∧ { e with stk := d.stk, net := d.net } = d) ∧
    (∀ p, .deliverable st p ∈ d.net.notes → (d.comp.asts.filter fun e => d.home e.1 == p) = [] →
      Answers (.deliverableChange st p) s fun e => e.net.notes = d.net.notes.erase (.deliverable st p) ∧
        { e with net := d.net } = d) ∧
    (∀ p, .deliverable st p ∈ d.net.notes → Leads (.deliverableChange st p) s
      (((d.comp.asts.filter fun e => d.home e.1 == p).map (·.1)).foldl (fun d a => d.shedChannels a fun l => chanStack l == st)
        (d.onNet fun n => { n with notes := n.notes.erase (.deliverable st p) })))

/-- Tier 2.  Domain key slots. A load that reaches its logic die puts its key in the slot, makes it VALID and advances its KGEN by
one modulo 256 (R150, R151); an unacknowledged load is recorded, its stack reset and a fresh key sent once more at 100 µs, and
its publication abandoned the second time (R478); the slot of a retired domain is cleared (R476). Repairs. A row trigger takes
the next spare row of its bank; a lane the next spare lane of the stack; a bank or channel trigger starts a copy, and the copy
that ends redirects the bank or switches the slot, after which every granule of the slot reads as it did; with no spare
channel the slot is RETIRED; a lost private region asks for a package reset (R157 to R161).
Where it rests on the model's own choices, they are those of the assumption log's entries 46, 47 and 48. -/
def Obligations.KeysAndRepairs : Prop :=
  (
    ∀ s : State,
      (∀ i k t b key, s.dev.lcs.loads[i]? = some (k, t, b, key) → k / 32 < 32 → (s.dev.stack (k / 32)).ingress = true →
        Answers (.keySlotLoad i) s fun e => e.keyIn (k / 32) (k % 32) = key ∧ e.lcs.loads = dropAt s.dev.lcs.loads i ∧
          (k % 32 < 16 → e.slotValid (k / 32) (k % 32) = true ∧ e.kgen (k / 32) (k % 32) = (s.dev.kgen (k / 32) (k % 32) + 1) % 256 ∧
            ∀ n < 16, n ≠ k % 32 → e.slotValid (k / 32) n = s.dev.slotValid (k / 32) n ∧
              e.kgen (k / 32) n = s.dev.kgen (k / 32) n) ∧
          (16 ≤ k % 32 → e.flag (STK_KEYSTAT.DEV_VALID (k / 32)) = true) ∧ SameMemory s.dev e) ∧
      (∀ i k t key, s.dev.lcs.loads[i]? = some (k, t, false, key) → t + 100000 ≤ s.now → s.dev.lcs.drbgUp = true →
        Answers (.keyLoadFailed i) s fun e => e.lcs.loads = modifyAt s.dev.lcs.loads i (fun _ => (k, s.now, true, s.dev.lcs.nextKey)) ∧
          e.lcs.nextKey = s.dev.lcs.nextKey + 1 ∧ ∃ r, r ∈ e.ras.box ∧ r.code = 0x0909 ∧ r.detail = [k / 32, k % 32, 1]) ∧
      (∀ i k t key, s.dev.lcs.loads[i]? = some (k, t, true, key) → t + 100000 ≤ s.now →
        Answers (.keyLoadFailed i) s fun e => e.lcs.loads = dropAt s.dev.lcs.loads i ∧ e.comp.epoch = s.dev.comp.epoch ∧
          e.comp.asts = s.dev.comp.asts) ∧
      (∀ st n, st < 32 → n < 16 → s.dev.domRetired n = true → s.dev.slotValid st n = true →
        Answers (.keySlotClear st n) s fun e => e.slotValid st n = false ∧ e.keyIn st n = 0 ∧
          (∀ m < 16, m ≠ n → e.slotValid st m = s.dev.slotValid st m) ∧ SameMemory s.dev e)) ∧
  (
    ∀ (s : State) (st : Nat), st < 32 →
      let d := s.dev
      (∀ row, d.rowDue st row = true → Tbl.look 0 (d.stack st).rowsUsed (row / 2 ^ 15) < 64 →
        Answers (.rowSpared st row) s fun e =>
          Tbl.find (e.stack st).rowMap row = some (24576 + Tbl.look 0 (d.stack st).rowsUsed (row / 2 ^ 15)) ∧
          Tbl.find (e.stack st).rowsUsed (row / 2 ^ 15) = some (Tbl.look 0 (d.stack st).rowsUsed (row / 2 ^ 15) + 1) ∧
          (e.stack st).noSpare = (d.stack st).noSpare ∧ SameMemory d e) ∧
      (∀ row, d.rowDue st row = true → 64 ≤ Tbl.look 0 (d.stack st).rowsUsed (row / 2 ^ 15) →
        Answers (.rowSpared st row) s fun e => (e.stack st).rowMap = (d.stack st).rowMap ∧
          Tbl.look 0 (e.stack st).noSpare (row / 2 ^ 15) = Tbl.look 0 (d.stack st).noSpare (row / 2 ^ 15) + 1 ∧
          { e with stk := d.stk } = d) ∧
      (∀ lane, d.get (STK_SPARE.LANES st) < 64 → Answers (.laneSpared st lane) s fun e =>
        e.get (STK_SPARE.LANES st) = d.get (STK_SPARE.LANES st) + 1 ∧ SameMemory d e) ∧
      (∀ lane j, 64 ≤ d.get (STK_SPARE.LANES st) → d.slotServed st (lane / 72) = some j → Answers (.laneSpared st lane) s fun e =>
        .channel j ∈ (e.stack st).waiting ∧ { e with stk := d.stk } = d) ∧
      (∀ c b, d.bankDue st c b = true → d.get (STK_CHAN_HEALTH.BANKS_SPARED st c) < 2 → (d.stack st).copy = none →
        Answers (.bankCopy st c b) s fun e =>
          (e.stack st).copy = some ⟨.bank c b, 64 + d.get (STK_CHAN_HEALTH.BANKS_SPARED st c), 0⟩ ∧
          e.flag (STK_STATUS.COPYING st) = true ∧ SameMemory d e) ∧
      (∀ c b t p, (d.stack st).copy = some ⟨.bank c b, t, p⟩ → Answers (.bankSpared st []) s fun e =>
        (e.stack st).copy = none ∧ Tbl.find (e.stack st).bankMap ((st * 34 + c) * 128 + b) = some t ∧
        e.flag (STK_STATUS.COPYING st) = false ∧ SameMemory d e) ∧
      (∀ j k, j < 32 → d.channelDue st j = true → d.spareChannel st = some k → (d.stack st).copy = none →
        Answers (.channelCopy st j) s fun e => (e.stack st).copy = some ⟨.channel j, k, 0⟩ ∧
          e.get (STK_SLOT_MAP.STATE st j) = 1 ∧ e.get (STK_SLOT_MAP.TARGET st j) = k ∧
          e.get (STK_CHAN_HEALTH.PSTATE st k) = 2 ∧ e.physChan (32 * st + j) = d.physChan (32 * st + j) ∧ SameMemory d e) ∧
      (∀ j k p, j < 32 → k < 34 → d.get (STK_SLOT_MAP.PHYS st j) < 34 → k ≠ d.get (STK_SLOT_MAP.PHYS st j) →
        (d.stack st).copy = some ⟨.channel j, k, p⟩ → Answers (.channelSpared st []) s fun e =>
          (e.stack st).copy = none ∧ e.physChan (32 * st + j) = st * 34 + k ∧ e.get (STK_SLOT_MAP.STATE st j) = 0 ∧
          e.get (STK_CHAN_HEALTH.PSTATE st (d.get (STK_SLOT_MAP.PHYS st j))) = 3 ∧ e.get (STK_CHAN_HEALTH.PSTATE st k) = 0 ∧
          ∀ g < 2 ^ 25, e.gran (granKey (e.physChan (32 * st + j)) g) = d.gran (granKey (d.physChan (32 * st + j)) g)) ∧
      (∀ j, j < 32 → d.channelDue st j = true → d.spareChannel st = none → (d.stack st).copy = none →
        Leads (.slotRetired st j false) s ((d.retireSlot s.now st j).raise 0x0207 (chanUnit (d.physChan (32 * st + j))) 0xFF
          .contained [j, 0])) ∧
      (∀ j, j < 32 → d.retired (32 * st + j) = false → Leads (.slotRetired st j true) s (((d.channelDead s.now st j).raise 0x0207
        (chanUnit (d.physChan (32 * st + j))) 0xFF .contained [j, 1]).privateLost s.now st j privateBase 0)) ∧
      (∀ c j, ((List.range 32).find? fun j => d.get (STK_SLOT_MAP.PHYS st j) == c) = some j → d.ras.resets = [] →
        Answers (.privateLost st c) s fun e => ∃ r, e.ras.resets = [r] ∧ r.level = 5 ∧ r.unit = stackUnit st ∧ r.cause = 0x020D))

/-! ### Map epochs, moves, spares, revocation, meters -/

/-- Tier 2.  PUBLICATION. Nothing is published while two epochs are live. A service change goes first. A ready BIND or UNBIND first
has its dirty units scrubbed and its missing keys loaded; then the epoch advances by one modulo 65,536, its map becomes
current and staged, the map before it the previous one, the units that join are bound and those that leave await the drain; no
other asterism and no stored byte changes (R271, R272, R274, R280 to R283, R475). The previous epoch. It is over once nothing
routed under it is held: no asterism keeps a previous map and the moves whose switch it carried are over (R273, R288). At 100
ms its holders are recorded once, 0x05C8, and every request of it is gone from the machine; their cores are fenced and their
sweeps end FENCED (R276). A scrub that completes leaves a channel's granules cleared and its unit free (R153, R283).
Where it rests on the model's own choices, they are those of the assumption log's entries 48, 58 and 61. -/
def Obligations.PublicationsAndEpochs : Prop :=
  (
    ∀ s : State,
      let d := s.dev
      (d.comp.twoLive = true → Leads .publication s d) ∧
      (d.comp.twoLive = false → (∃ p ∈ d.comp.waiting, p.edit.isSome = true) → Sets .publication s (·.after s.now) fun e =>
        e.comp.epoch = (d.comp.epoch + 1) % 65536 ∧ e.comp.prevEpoch = d.comp.epoch ∧ e.comp.twoLive = true ∧
        ∀ p ∈ e.comp.waiting, p.edit = none) ∧
      (∀ p, d.comp.twoLive = false → (∀ x ∈ d.comp.waiting, x.edit = none) → d.comp.waiting.find? d.publReady = some p →
        let dirty := (d.joining p).filter (d.needsScrub p.map.dom)
        (dirty ≠ [] → Answers .publication s fun e => e.comp.scrubbing = d.comp.scrubbing ++ dirty ∧
          (∀ u ∈ dirty, (e.ownerOf u).st = 3) ∧ e.comp.waiting = d.comp.waiting ∧ e.comp.epoch = d.comp.epoch ∧ SameMemory d e) ∧
        (dirty = [] → d.keysNeeded p ≠ [] → d.lcs.drbgUp = true → Answers .publication s fun e =>
          (∀ st ∈ d.keysNeeded p, ∃ x ∈ e.lcs.loads, x.1 = st * 32 + p.map.dom) ∧ e.comp = d.comp ∧ SameMemory d e) ∧
        (dirty = [] → d.keysNeeded p = [] → Sets .publication s (fun e =>
          let e := if p.shed then ((e.shedCores s.now p.ast).shedChannels p.ast fun _ => true).shedBridges p.map.home else e
          (match p.cmd with
            | some k => if e.comp.moves.any fun m => m.cmd == some k then e else e.mgtDone s.now k .completed
            | none => e).after s.now) fun e =>
          e.comp.epoch = (d.comp.epoch + 1) % 65536 ∧ e.comp.prevEpoch = d.comp.epoch ∧ e.comp.twoLive = true ∧
          (e.ast p.ast).cur = some { p.next with scrub := [] } ∧ (e.ast p.ast).staged = { p.next with scrub := [] } ∧
          (e.ast p.ast).prev = (d.ast p.ast).cur ∧ (∀ a, a ≠ p.ast → e.ast a = d.ast a) ∧
          e.comp.waiting = d.comp.waiting.filter (fun x => x != p) ∧
          (∀ u ∈ p.next.units, u < 8192 → u ∉ d.boundUnits p.ast → (e.coreAt u).bound = some p.ast) ∧
          (∀ u ∈ d.boundUnits p.ast, u ∉ p.next.units → ∃ b, (u, p.ast, b) ∈ e.comp.leaving) ∧ SameMemory d e))) ∧
  (
    ∀ s : State,
      let d := s.dev
      let p := d.comp.prevEpoch
      ((d.comp.twoLive = false ∨ d.epochHeld p = true) → Leads .epochDrained s d) ∧
      (d.comp.twoLive = true → d.epochHeld p = false → Answers .epochDrained s fun e => e.comp.twoLive = false ∧
        e.comp.epoch = d.comp.epoch ∧ (∀ a, (e.ast a).prev = none) ∧
        e.comp.moves = (d.comp.moves.filter fun m => !m.switched).map (fun m => { m with started := true }) ∧
        e.comp.lastDrainUs = (s.now - d.comp.adoptAt) / 1000 ∧ SameMemory d e) ∧
      ((d.comp.twoLive = false ∨ d.comp.drainLate = true ∨ s.now < d.comp.adoptAt + 100000000 ∨ d.epochHeld p = false) →
        Leads .compDrainTimeout s d) ∧
      (d.comp.twoLive = true → d.comp.drainLate = false → d.comp.adoptAt + 100000000 ≤ s.now → d.epochHeld p = true →
        Sets .compDrainTimeout s (fun e => (d.epochSweeps p).foldl (fun d j =>
            (((d.endSweep j).onCmd j fun m => { m with err := 0x05C8 }).finish s.now j .fenced).after s.now)
          ((d.epochCores p).foldl (fun d c => d.fenceCore s.now c .recovery .fence 0x05C8) e)) fun e =>
          e.comp.drainLate = true ∧ (∀ r ∈ e.net.reqs, r.tags.epoch ≠ p) ∧ (∀ r ∈ e.net.resps, r.req.tags.epoch ≠ p) ∧
          (∀ x ∈ e.stk, ∀ w ∈ x.2.walks, w.req.tags.epoch ≠ p) ∧ e.comp.epoch = d.comp.epoch ∧
          ∃ r, e.ras.box = d.ras.box ++ [r] ∧ r.code = 0x05C8 ∧ r.sev = 3 ∧ r.detail.head? = some p) ∧
      (∀ l, l < 1024 → chanNo l ∈ d.comp.scrubbing → (∀ b ∈ d.comp.leaving, b.1 ≠ chanNo l) →
        d.trackedIn (chanStack l) (granKey (d.physChan l) 0) (granKey (d.physChan l) (granOf privateBase)) = false →
        Answers (.scrubComplete (chanNo l)) s fun e => chanNo l ∉ e.comp.scrubbing ∧ (e.chanOwner l).st = 0 ∧
          (e.chanOwner l).dirty = false ∧ (∀ g < granOf privateBase, e.gran (granKey (d.physChan l) g) = Gran.cleared) ∧
          ∀ k, (k < granKey (d.physChan l) 0 ∨ granKey (d.physChan l) (granOf privateBase) ≤ k) → e.gran k = d.gran k) ∧
      (∀ k, k < 544 → sliceNo k ∈ d.comp.scrubbing → (∀ b ∈ d.comp.leaving, b.1 ≠ sliceNo k) →
        Answers (.scrubComplete (sliceNo k)) s fun e => sliceNo k ∉ e.comp.scrubbing ∧ (e.sliceOwner k).st = 0 ∧
          (e.sliceOwner k).dirty = false ∧ (∀ g < 2 ^ 16, e.sgran (sliceKey k g) = SliceGran.zero) ∧ e.mem = d.mem))

/-- Tier 2.  Moves. A started move copies the next present page that has its entry in the target's stack: granules cross
re-encrypted to the same offsets of the target, with their poison (R286, R287). After 10 ms with a skipped page 0x05C7 is
recorded once; when every page is copied the switch is staged as a service change (R287, R288). Spares. A failed core of an
asterism is replaced by a spare core of its die pair in a service change (R290); one bound to nothing is only retired.
SPARE_SWAP of a core with WAIT waits for it to be idle, else starts its reset; of a slice begins its copy; of a channel begins
its repair and completes; of a unit that cannot be swapped is refused (R291). A slice copy carries every granule to the spare
(R290).
Where it rests on the model's own choices, they are those of the assumption log's entries 59 and 63. -/
def Obligations.MovesAndSpares : Prop :=
  (
    (∀ (d : Dev) (l dst lo hi g : Nat), d.physChan l ≠ d.physChan dst → lo ≤ g → g < hi → hi ≤ 2 ^ 25 →
      (d.carry l dst (lo, hi)).gran (granKey (d.physChan dst) g) = d.recrypt l dst (d.gran (granKey (d.physChan l) g)) ∧
      ∀ x, (d.recrypt l dst x).poison = x.poison ∧ (d.recrypt l dst x).clr = x.clr ∧ (d.recrypt l dst x).dom = x.dom ∧
        (d.recrypt l dst x).data = x.data) ∧
    ∀ (s : State) (i : Nat) (v : MoveRun) (m : CMap), s.dev.comp.moves[i]? = some v → (s.dev.ast v.ast).cur = some m →
      v.started = true → v.done = false →
      (∀ x, (s.dev.movePages v).find? (s.dev.moveTarget v) = some x → s.dev.trackedIn (chanStack v.src)
          (granKey (s.dev.physChan v.src) (v.range m x).1) (granKey (s.dev.physChan v.src) (v.range m x).2) = false →
        Answers (.moveCopy i) s fun e => e.mem = (s.dev.carry v.src v.dst (v.range m x)).mem ∧
          e.lost = (s.dev.carry v.src v.dst (v.range m x)).lost ∧
          (∃ w, e.comp.moves[i]? = some w ∧ w.copied = v.copied ++ [v.range m x] ∧ w.ptr = max v.ptr (v.range m x).2 ∧
            w.done = false ∧ w.dst = v.dst ∧ w.src = v.src) ∧ e.comp.asts = s.dev.comp.asts ∧ e.stk = s.dev.stk) ∧
      (∀ t x, v.skipped = some t → v.recorded = false → t + 10000000 ≤ s.now →
        ((s.dev.movePages v).find? fun e => !s.dev.moveTarget v e) = some x →
        Answers (.compMoveBlocked i) s fun e => (∃ r, e.ras.box = s.dev.ras.box ++ [r] ∧ r.code = 0x05C7 ∧
          r.detail = [v.idx, tkeyVa x.1]) ∧ e.comp.moves[i]? = some { v with recorded := true } ∧ SameMemory s.dev e) ∧
      (v.recorded = true → Leads (.compMoveBlocked i) s s.dev) ∧
      (s.dev.movePages v = [] → Answers (.moveComplete i) s fun e =>
        e.comp.moves[i]? = some { v with done := true, skipped := none } ∧
        e.comp.waiting = s.dev.comp.waiting ++ [{ ast := v.ast, map := m, dissolve := false, shed := false, cmd := none
                                                  edit := some (.move v.idx v.dst (if v.release then some v.src else none)) }] ∧
        { e with comp := s.dev.comp } = s.dev) ∧
      (s.dev.movePages v ≠ [] → Leads (.moveComplete i) s s.dev)) ∧
  (
    ∀ s : State,
      let d := s.dev
      (∀ c a m n, (d.coreAt c).svc = .failed → (d.coreAt c).bound = some a → (d.ast a).cur = some m → c ∈ m.cores →
        d.spareCore (coreDp c) = some n → d.comp.twoLive = true →
        (∀ p ∈ d.comp.waiting, p.edit = none) → Answers (.spareSubstitution c) s fun e =>
          e.comp.waiting = d.comp.waiting ++ [{ ast := a, map := m, dissolve := false, shed := false, cmd := none
                                                edit := some (.core c n) }] ∧ { e with comp := d.comp } = d) ∧
      (∀ c, (d.coreAt c).svc = .failed → (d.coreAt c).bound = none → d.comp.swaps = [] → Answers (.spareSubstitution c) s fun e =>
        (e.coreAt c).svc = .retired ∧ ∀ k, k ≠ c → e.coreAt k = d.coreAt k) ∧
      (∀ c, (d.coreAt c).svc ≠ .failed → Leads (.spareSubstitution c) s d) ∧
      (∀ k m, Turn d k 0x88 m →
        let u := fld m.slot 0x10 0 16
        let b := begun d k
        (b.swappable u = false → Answers (.spareSwap k) s fun e => Reports b e ∧ Tbl.find e.hif.mgt k = none) ∧
        (b.swappable u = true → u / 8192 = 0 →
          let x := b.onComp fun x => { x with swaps := x.swaps ++ [{
            slice := false, unit := u, spare := 0, wait := fld m.slot 0x12 0 1 == 1 && (d.coreAt u).tile.isSome, copied := false
            cmd := some k }] }
          ((fld m.slot 0x12 0 1 = 1 ∧ (d.coreAt u).tile.isSome = true) → Leads (.spareSwap k) s x) ∧
          ((fld m.slot 0x12 0 1 = 0 ∨ (d.coreAt u).tile = none) → (d.coreAt u).resetAt = none →
            Leads (.spareSwap k) s (x.startReset s.now u .sparSwap .fence 0x0106))) ∧
        (∀ n, b.swappable u = true → u / 8192 = 1 → b.spareSlice (u % 8192 / 68) = some n → Answers (.spareSwap k) s fun e =>
          e.comp.swaps = d.comp.swaps ++ [{ slice := true, unit := u % 8192, spare := n, wait := false, copied := false
                                            cmd := some k }] ∧ SameMemory d e) ∧
        (∀ j, b.swappable u = true → u / 8192 = 3 → b.slotServed (u % 8192 / 34) (u % 8192 % 34) = some j →
          Answers (.spareSwap k) s fun e => .channel j ∈ (e.stack (u % 8192 / 34)).waiting ∧ Tbl.find e.hif.mgt k = none ∧
            SameMemory d e)) ∧
      (∀ old new w, old ≠ new → (d.comp.swaps.find? fun w => w.slice && w.unit == old && w.spare == new && !w.copied) = some w →
        (d.sliceOwner old).st ≠ 1 → Answers (.sliceCopy old new) s fun e => old ∈ e.comp.sliceOut ∧ new ∈ e.comp.sliceIn ∧
          (∀ g < 2 ^ 16, e.sgran (sliceKey new g) = d.sgran (sliceKey old g)) ∧ e.mem = d.mem ∧
          ∀ x ∈ e.comp.swaps, ¬(x.slice = true ∧ x.unit = old)))

/-- Tier 2.  CONTEXT_REVOKE, from a control page or the management ring, of a context that may be revoked, runs steps 1 to 4 of
Table 10-17 and goes on as far as it can; one of a context that may not is refused with 0x0603 and revokes nothing. Once step
5 is done and no object is left, REVOKE_FINAL frees the context; step 5 not done at 10 ms is recorded, 0x0A03, and its
asterism is reset (R335, Table 10-17). Metering. Summing moves an asterism's measured ticks into its eight counters, modulo
2^64, leaving what is less than a unit; the counters of a FREE asterism stand still. A snapshot every 60 s puts them into the
flash log. METER_READ answers the state and the counters of each asterism asked for (R302, Table 9-12).
Where it rests on the model's own choices, they are those of the assumption log's entries 55 and 62. -/
def Obligations.RevocationAndMeters : Prop :=
  (
    ∀ s : State,
      let d := s.dev
      (∀ fn k op rest a q, fld op 0 0 8 = 0x87 → allZero op [ctlHead, (0x12, 6, 10), (0x14, 18, 14), (0x18, 0, 320)] = true →
        (d.fn fn).ast = some a → fld op 0x12 0 6 = a → d.revocable a (fld op 0x10 0 16) = true → q = fld op 0x14 0 18 →
        d.reportOk a (fld op 0x10 0 16) q = true → Leads (.contextRevoke (some fn) k op rest) s
          ((((d.revokeCtx s.now (fld op 0x10 0 16) (some q) none none rest).revokeGoOn s.now (fld op 0x10 0 16)).ctlAnswer fn .done))) ∧
      (∀ fn k op rest a, fld op 0 0 8 = 0x87 → (d.fn fn).ast = some a → d.revocable a (fld op 0x10 0 16) = false →
        Answers (.contextRevoke (some fn) k op rest) s fun e => (e.fn fn).done = true ∧ (e.fn fn).err = 0x0603 ∧
          (e.fn fn).status = CStatus.refused.code ∧ e.hif.ctxs = d.hif.ctxs ∧ e.hif.cmds = d.hif.cmds) ∧
      (∀ k m op rest, Turn d k 0x87 m →
        (d.revocable (fld m.slot 0x12 0 6) (fld m.slot 0x10 0 16) = true → Leads (.contextRevoke none k op rest) s
          (((begun d k).revokeCtx s.now (fld m.slot 0x10 0 16) none (some k) none rest).revokeGoOn s.now (fld m.slot 0x10 0 16))) ∧
        (d.revocable (fld m.slot 0x12 0 6) (fld m.slot 0x10 0 16) = false → Answers (.contextRevoke none k op rest) s fun e =>
          Reports (begun d k) e ∧ Tbl.find e.hif.mgt k = none)) ∧
      (∀ x c r, Tbl.find d.hif.ctxs x = some c → c.revoke = some r → r.step5 = true → d.ownObjs x = [] →
        Sets (.revokeFinal x) s (fun e => (e.after s.now).detachGoOn s.now) fun e => Tbl.find e.hif.ctxs x = none ∧
          ∀ y, y ≠ x → Tbl.find e.hif.ctxs y = Tbl.find d.hif.ctxs y) ∧
      (∀ x c, Tbl.find d.hif.ctxs x = some c → c.revoke = none → Leads (.revokeFinal x) s d ∧ Leads (.revokeTimeout x) s d) ∧
      (∀ x c r, Tbl.find d.hif.ctxs x = some c → c.revoke = some r → r.step5 = false → r.at_ + 10000000 ≤ s.now →
        d.ras.resets = [] → Answers (.revokeTimeout x) s fun e => (∃ b, e.ras.box = d.ras.box ++ [b] ∧ b.code = 0x0A03 ∧
          b.detail = [c.ast, x, if r.inval.isSome then 5 else 3] ∧ b.sev = 3) ∧
          e.ras.resets = [⟨4, c.ast, 0x0A03, s.now, 0⟩] ∧ e.hif = d.hif)) ∧
  (
    ∀ s : State,
      (Answers .meterSum s fun e => (∀ a, (s.dev.ast a).state ≠ .free → (e.ast a).meters.commands =
            ((s.dev.ast a).meters.commands + (s.dev.ast a).pendMeters.commands) % 2 ^ 64 ∧
          (e.ast a).meters.energy = ((s.dev.ast a).meters.energy + (s.dev.ast a).pendMeters.energy / 1000) % 2 ^ 64 ∧
          (e.ast a).meters.coreBusy = ((s.dev.ast a).meters.coreBusy + (s.dev.ast a).pendMeters.coreBusy / 25 * 8) % 2 ^ 64 ∧
          (e.ast a).pendMeters.commands = 0 ∧ (e.ast a).pendMeters.energy = (s.dev.ast a).pendMeters.energy % 1000 ∧
          (e.ast a).cur = (s.dev.ast a).cur ∧ (e.ast a).state = (s.dev.ast a).state) ∧
        (∀ a, (s.dev.ast a).state = .free → e.ast a = s.dev.ast a) ∧ { e with comp := s.dev.comp } = s.dev) ∧
      (s.now < s.dev.comp.snapAt + 60 * second → Leads .meterSnapshot s s.dev) ∧
      (s.dev.comp.snapAt + 60 * second ≤ s.now → Answers .meterSnapshot s fun e => e.comp.snapAt = s.now ∧
        e.comp.snaps.length = s.dev.comp.snaps.length + (s.dev.comp.asts.filter fun x => x.2.state != .free).length ∧
        { e with comp := s.dev.comp } = s.dev) ∧
      (∀ a, a < 64 → Answers (.meterRead a 1) s fun e =>
        e.fw.answer = some (0xC003, s.dev.astStateWord a :: (s.dev.ast a).meters.words) ∧ e.comp = s.dev.comp))

/-! ### The control page, doorbells and residency -/

/-- Tier 2.  CTX_CREATE, QUEUE_CREATE, OBJ_CREATE and EVENT_CREATE, with clean operands, a sound name and room under quota and
table: the device picks an identifier that is not in use, the new context, queue, object or event stands under it with the
operands' values, and CTL_VALUE gives it (R306, R308, R311). A creation beyond its quota is refused, 0x0608, and creates
nothing (R308). QUEUE_DESTROY of an idle queue and EVENT_DESTROY of an event nobody waits for or holds remove it; one of
another asterism is refused, 0x0603, and nothing is removed (R311, R312). CTX_RESUME makes a FAULTED or FAULTED_RETAINED
context ACTIVE (R340, R341); of any other state it is refused, 0x0609. QUERY answers the entry asked for and changes nothing
but the control page (R309, Table 10-5). Doorbells. A DB_TAIL value within the ring is the new tail, and one outside leaves it
and is recorded, 0x0605 (R315); a CQ_HEAD value past CQ_TAIL is ignored, another is the new head and lets held records be
written (R316, R333). A queue that may be fetched yields up to 16 slots in position order (R316).
Where it rests on the model's own choices, they are those of the assumption log's entries 7 and 54. -/
def Obligations.ControlAndDoorbells : Prop :=
  (
    ∀ (s : State) (fn a : Nat) (op : Line), (s.dev.fn fn).ast = some a →
      let d := s.dev
      let x := fld op 0x10 0 16
      (fld op 0 0 8 = 0xC0 → allZero op [ctlHead, (0x10, 24, 8), (0x14, 0, 352)] = true → (d.ast a).state.hosts = true →
        (d.get (HIF_QUOTA_A.CTX_LIMIT a) ≤ (d.hif.ctxs.filter fun e => e.2.ast == a).length → Answers (.ctxCreate fn op) s fun e =>
          CtlRefused e fn 0x0608 ∧ e.hif.ctxs = d.hif.ctxs) ∧
        ((d.hif.ctxs.filter fun e => e.2.ast == a).length < d.get (HIF_QUOTA_A.CTX_LIMIT a) → d.hif.ctxs.length < 65536 →
          d.ctxTaken < 65536 → Answers (.ctxCreate fn op) s fun e => CtlDone e fn ∧ ∃ i, (e.fn fn).value = i ∧ i < 65536 ∧
            d.ctxUsed i = false ∧ e.hif.ctxs = Tbl.put d.hif.ctxs i (Ctx.new a fn s.now op) ∧ (Ctx.new a fn s.now op).infl = 64 ∧
            (Ctx.new a fn s.now op).state = .active ∧ (Ctx.new a fn s.now op).prio = fld op 0x10 21 3 ∧
            { e with hif := d.hif, fresh := d.fresh } = d)) ∧
      (∀ c, fld op 0 0 8 = 0xC2 → allZero op [ctlHead, (0x12, 5, 3), (0x13, 5, 3), (0x14, 11, 21), (0x18, 0, 12), (0x20, 0, 12),
          (0x28, 0, 192)] = true → Tbl.find d.hif.ctxs x = some c → c.ast = a → c.nameable = true →
        ((fld op 0x12 0 5 < 6 ∨ 16 < fld op 0x12 0 5) → Answers (.queueCreate fn op) s fun e =>
          CtlRefused e fn 0x0609 ∧ e.hif.queues = d.hif.queues) ∧
        (6 ≤ fld op 0x12 0 5 → fld op 0x12 0 5 ≤ 16 → 6 ≤ fld op 0x13 0 5 → fld op 0x13 0 5 ≤ 16 →
          (d.hif.queues.filter fun e => d.queueAst e.2 == some a).length < d.get (HIF_QUOTA_A.QUEUE_LIMIT a) →
          d.hif.queues.length < 262144 →
          (d.hif.queues.filter fun e => e.2.fn == fn).length < d.get (HIF_QUOTA_A.QUEUE_LIMIT a) →
          Answers (.queueCreate fn op) s fun e => CtlDone e fn ∧ ∃ q b, (e.fn fn).value = q + b * 2 ^ 32 ∧ q < 262144 ∧
            b < d.get (HIF_QUOTA_A.QUEUE_LIMIT a) ∧ Tbl.find d.hif.queues q = none ∧
            (∀ k ∈ d.hif.queues, k.2.fn = fn → k.2.dbidx ≠ b) ∧
            e.hif.queues = Tbl.put d.hif.queues q (Queue.new x fn b op) ∧ (Queue.new x fn b op).log2n = fld op 0x12 0 5 ∧
            (Queue.new x fn b op).tail = 0 ∧ (Queue.new x fn b op).cqTail = 0 ∧ { e with hif := d.hif, fresh := d.fresh } = d)) ∧
      (fld op 0 0 8 = 0xC4 → allZero op [ctlHead, (0x10, 22, 10), (0x14, 0, 32), (0x18, 56, 8), (0x20, 57, 7), (0x28, 0, 192)] = true →
        (fld op 0x10 16 1 = 1 ∨ ∃ c, Tbl.find d.hif.ctxs x = some c ∧ c.ast = a ∧ c.nameable = true) →
        (fld op 0x20 0 57 = 0 → Answers (.objCreate fn op) s fun e => CtlRefused e fn 0x0609 ∧ e.hif.objs = d.hif.objs) ∧
        (0 < fld op 0x20 0 57 → fld op 0x20 0 57 ≤ 2 ^ 56 - fld op 0x18 0 56 →
          (d.hif.objs.filter fun e => e.2.ast == a).length < d.get (HIF_QUOTA_B.OBJ_LIMIT a) → d.hif.objs.length < 16777216 →
          Answers (.objCreate fn op) s fun e => CtlDone e fn ∧ ∃ o, (e.fn fn).value = o ∧ o < 16777216 ∧
            Tbl.find d.hif.objs o = none ∧ e.hif.objs = Tbl.put d.hif.objs o {
              va := fld op 0x18 0 56, size := fld op 0x20 0 57, ast := a, state := .live, ctx := x, shared := fld op 0x10 16 1 == 1
              poolb := fld op 0x10 17 1 == 1, pidx := fld op 0x10 18 4, inflight := 0, freer := none } ∧
            { e with hif := d.hif, fresh := d.fresh } = d)) ∧
      (fld op 0 0 8 = 0xC5 → allZero op [ctlHead, (0x10, 1, 31), (0x14, 0, 32), (0x18, 63, 1), (0x20, 0, 256)] = true →
        (fld op 0x10 0 1 = 1 → (fld op 0x18 0 63 = 0 ∨ 8 < fld op 0x18 0 63) → Answers (.eventCreate fn op) s fun e =>
          CtlRefused e fn 0x0609 ∧ e.hif.events = d.hif.events) ∧
        ((fld op 0x10 0 1 = 0 ∨ 1 ≤ fld op 0x18 0 63 ∧ fld op 0x18 0 63 ≤ 8) →
          (d.hif.events.filter fun e => e.2.ast == a).length < d.get (HIF_QUOTA_B.EVT_LIMIT a) → d.hif.events.length < 1048575 →
          Answers (.eventCreate fn op) s fun e => CtlDone e fn ∧ ∃ v, (e.fn fn).value = v ∧ 0 < v ∧ v < 1048576 ∧
            Tbl.find d.hif.events v = none ∧ e.hif.events = Tbl.put d.hif.events v {
              value := fld op 0x18 0 63, abandoned := false, ast := a, sem := fld op 0x10 0 1 == 1, holders := [], waiters := 0 } ∧
            { e with hif := d.hif, fresh := d.fresh } = d))) ∧
  (
    ∀ (s : State) (fn a : Nat) (op : Line), (s.dev.fn fn).ast = some a →
      let d := s.dev
      (∀ k q, q = fld op 0x10 0 18 → fld op 0 0 8 = 0xC3 → allZero op [ctlHead, (0x10, 18, 14), (0x14, 0, 352)] = true →
        Tbl.find d.hif.queues q = some k →
        (d.queueAst k = some a → d.queueWaits q k = false → Answers (.queueDestroy fn op) s fun e => CtlDone e fn ∧
          e.hif.queues = Tbl.del d.hif.queues q ∧ { e with hif := d.hif } = d) ∧
        (d.queueAst k = some a → d.queueWaits q k = true → Answers (.queueDestroy fn op) s fun e => CtlRefused e fn 0x0609 ∧
          e.hif.queues = d.hif.queues) ∧
        (d.queueAst k ≠ some a → Answers (.queueDestroy fn op) s fun e => CtlRefused e fn 0x0603 ∧
          e.hif.queues = d.hif.queues)) ∧
      (∀ v i, i = fld op 0x10 0 20 → fld op 0 0 8 = 0xC6 → allZero op [ctlHead, (0x10, 20, 12), (0x14, 0, 352)] = true →
        Tbl.find d.hif.events i = some v →
        (v.ast = a → v.waiters = 0 → v.holders = [] → Answers (.eventDestroy fn op) s fun e => CtlDone e fn ∧
          e.hif.events = Tbl.del d.hif.events i ∧ { e with hif := d.hif } = d) ∧
        ((v.ast ≠ a ∨ v.waiters ≠ 0 ∨ v.holders ≠ []) → Answers (.eventDestroy fn op) s fun e =>
          CtlRefused e fn (if v.ast ≠ a then 0x0603 else 0x0609) ∧ e.hif.events = d.hif.events)) ∧
      (∀ c x, x = fld op 0x10 0 16 → fld op 0 0 8 = 0xC1 → allZero op [ctlHead, (0x12, 0, 368)] = true →
        Tbl.find d.hif.ctxs x = some c → c.ast = a →
        ((c.state = .faulted ∨ c.state = .retained) → Sets (.ctxResume fn op) s (fun e => let e := e.after s.now
            ((e.hif.queues.filter fun k => k.2.ctx == x).foldl (fun d k => d.afterHead s.now k.1) e).ctlAnswer fn .done) fun e =>
          Tbl.find e.hif.ctxs x = some { c with state := .active } ∧
          ∀ k t, (e.coreAt k).tile = some t → t.own.ctx = x → t.retained = false) ∧
        (c.state ≠ .faulted → c.state ≠ .retained → Answers (.ctxResume fn op) s fun e => CtlRefused e fn 0x0609 ∧
          e.hif.ctxs = d.hif.ctxs)) ∧
      (∀ i, fld op 0 0 8 = 0xC8 → allZero op [ctlHead, (0x10, 2, 30), (0x14, 24, 8), (0x18, 0, 320)] = true → fld op 0x14 0 24 = i →
        (∀ v, fld op 0x10 0 2 = 3 → Tbl.find d.hif.events i = some v → v.ast = a → Answers (.query fn op) s fun e =>
          CtlDone e fn ∧ (e.fn fn).value = v.value + v.abandoned.toNat * 2 ^ 63 ∧ (e.fn fn).value2 = v.word ∧
          { e with hif := { e.hif with fns := d.hif.fns } } = d) ∧
        (∀ b, fld op 0x10 0 2 = 2 → Tbl.find d.hif.objs i = some b → b.ast = a → Answers (.query fn op) s fun e =>
          CtlDone e fn ∧ (e.fn fn).value = b.word ∧ (e.fn fn).value2 = b.va ∧
          { e with hif := { e.hif with fns := d.hif.fns } } = d) ∧
        (∀ k, fld op 0x10 0 2 = 1 → Tbl.find d.hif.queues i = some k → d.queueAst k = some a → Answers (.query fn op) s fun e =>
          CtlDone e fn ∧ (e.fn fn).value = k.head + k.tail * 2 ^ 32 ∧ (e.fn fn).value2 = k.ctx + k.resident.toNat * 2 ^ 16 ∧
          { e with hif := { e.hif with fns := d.hif.fns } } = d) ∧
        (∀ c, fld op 0x10 0 2 = 0 → Tbl.find d.hif.ctxs i = some c → c.ast = a →
          (d.hif.queues.filter fun e => e.2.ctx == i).length < 65536 → Answers (.query fn op) s fun e => CtlDone e fn ∧
            (e.fn fn).value2 = c.energy / 1000 ∧ (e.fn fn).value % 8 = c.state.code ∧
            { e with hif := { e.hif with fns := d.hif.fns } } = d))) ∧
  (
    ∀ s : State,
      let d := s.dev
      (∀ fn b v q k, d.queueAt fn b = some (q, k) → Tbl.find d.hif.queues q = some k →
        (k.tailOk (v % 2 ^ 32) = true → Answers (.dbTailWrite fn b v) s fun e =>
          Tbl.find e.hif.queues q = some { k with tail := v % 2 ^ 32 } ∧
          (∀ j, j ≠ q → Tbl.find e.hif.queues j = Tbl.find d.hif.queues j) ∧ { e with hif := d.hif } = d) ∧
        (k.tailOk (v % 2 ^ 32) = false → Answers (.dbTailWrite fn b v) s fun e => e.hif = d.hif ∧
          ∃ r, e.ras.box = d.ras.box ++ [r] ∧ r.code = 0x0605 ∧ r.detail = [q, v % 2 ^ 32, k.head]) ∧
        ((k.cqTail + 2 ^ 32 - k.cqHead) % 2 ^ 32 < (v % 2 ^ 32 + 2 ^ 32 - k.cqHead) % 2 ^ 32 → Leads (.cqHeadWrite fn b v) s d) ∧
        ((v % 2 ^ 32 + 2 ^ 32 - k.cqHead) % 2 ^ 32 ≤ (k.cqTail + 2 ^ 32 - k.cqHead) % 2 ^ 32 →
          (Leads (.cqHeadWrite fn b v) s (Dev.drainHeld s.now q (k.held.length + 1) (d.onQueue q fun k => { k with cqHead := v % 2 ^ 32 }))) ∧
          (k.held = [] → Answers (.cqHeadWrite fn b v) s fun e =>
            Tbl.find e.hif.queues q = some { k with cqHead := v % 2 ^ 32, cqEpisode := false } ∧ { e with hif := d.hif } = d))) ∧
      (∀ q k slots, Tbl.find d.hif.queues q = some k → d.fetches k = true → Sets (.queueFetch q slots) s (·.afterHead s.now q) fun e =>
        ∃ n, n = (slots.take (min 16 ((k.tail + 2 ^ 32 - k.head) % 2 ^ 32))).length ∧
          Tbl.find e.hif.queues q = some { k with
            head := (k.head + n) % 2 ^ 32
            fetched := k.fetched ++ (slots.take (min 16 ((k.tail + 2 ^ 32 - k.head) % 2 ^ 32))).zipIdx.map fun x =>
              { pos := (k.head + x.2) % 2 ^ 32, index := 0xFFFF, call := none, slot := x.1 } } ∧
          (∀ j, j ≠ q → Tbl.find e.hif.queues j = Tbl.find d.hif.queues j) ∧ { e with hif := d.hif } = d) ∧
      (∀ q k slots, Tbl.find d.hif.queues q = some k → d.fetches k = false → Leads (.queueFetch q slots) s d))

/-- Tier 2.  Residency. A further waiting queue of a resident context takes a queue slot where one is free; a waiting context whose
turn it is takes a context slot (R342, R344). A time slice takes the slots from the asterism's unpinned contexts that have
held theirs for TSLICE_US, with their queues, only while others of the die pair wait, and deals them (R344, R345). What lowers
a guarantee sheds. A blocked context's committed command that can no longer meet its deadline is shed (R201, R376); a new
bridge rate reaches its admission controller, which repeats the bridge tests (R239, R365); a lowered ADM_DERATE repeats the
channel and bridge tests, a raised one does not, and a value outside 1 to 1,000 changes nothing (R375). INFL falls by one
step, not below 64, for every 64 × DECAY clean tile ends (R368).
Where it rests on the model's own choices, they are those of the assumption log's entries 33 and 112. -/
def Obligations.BooksAndSlots : Prop :=
  (
    ∀ s : State,
      let d := s.dev
      (∀ q k c, Tbl.find d.hif.queues q = some k → Tbl.find d.hif.ctxs k.ctx = some c → d.queueWaits q k = true →
        k.resident = false →
        (c.resident = true → (d.residentQueues (d.home c.ast)).length < 48 → Answers (.contextLoad q) s fun e =>
          Tbl.find e.hif.queues q = some { k with resident := true, resAt := s.now } ∧ e.hif.ctxs = d.hif.ctxs ∧
          (∀ j, j ≠ q → Tbl.find e.hif.queues j = Tbl.find d.hif.queues j) ∧ { e with hif := d.hif } = d) ∧
        (c.resident = true → 48 ≤ (d.residentQueues (d.home c.ast)).length → Leads (.contextLoad q) s d) ∧
        (c.resident = false → (d.residents (d.home c.ast)).length < 32 → (d.nextAst (d.home c.ast)).bind d.nextCtx = some k.ctx →
          Answers (.contextLoad q) s fun e => Tbl.find e.hif.ctxs k.ctx = some { c with resident := true, resAt := s.now } ∧
            (∀ j, j ≠ k.ctx → Tbl.find e.hif.ctxs j = Tbl.find d.hif.ctxs j) ∧ { e with hif := d.hif } = d)) ∧
      (∀ a, let dp := d.home a
        let slice := d.get (CMP_AST_MODE.TSLICE_US a) * 1000
        let r := ((d.residents dp).filter fun e => e.2.ast == a && !d.pinned e.1).foldl
          (fun d e => d.rotateQueue s.now dp slice e.1) d
        let out := (r.residents dp).filter fun e => e.2.ast == a && !r.pinned e.1 && decide (e.2.resAt + slice ≤ s.now)
        (r.waitingAsts dp = [] → Leads (.timeSlice a) s r) ∧
        (r.waitingAsts dp ≠ [] → Sets (.timeSlice a) s (Dev.deal s.now dp 32) fun e => { e with hif := r.hif } = r ∧
          (∀ x ∈ out, ∀ c, Tbl.find e.hif.ctxs x.1 = some c → c.resident = false) ∧
          (∀ k ∈ e.hif.queues, (∃ x ∈ out, x.1 = k.2.ctx) → k.2.resident = false) ∧
          ∀ j, (∀ x ∈ out, x.1 ≠ j) → Tbl.find e.hif.ctxs j = Tbl.find r.hif.ctxs j))) ∧
  (
    ∀ s : State,
      let d := s.dev
      (Answers .faultQueueCheck s fun e => { e with hif := d.hif, regs := d.regs, ras := d.ras } = d ∧
        ∀ id m c, Tbl.find d.hif.cmds id = some m → m.inBook = true → m.tooLate s.now = true → d.home m.ast < 8 →
          Tbl.find d.hif.ctxs m.ctx = some c → c.blocked = true → ∃ m', Tbl.find e.hif.cmds id = some m' ∧ m'.shed.isSome = true) ∧
      (∀ b p i, indexWhere (fun n => n == Note.bridgeRate b p) d.net.notes = some i →
        Leads (.bridgeRateChange b p) s ((d.dropNote i).shedBridges p)) ∧
      (∀ b p, Note.bridgeRate b p ∉ d.net.notes → Leads (.bridgeRateChange b p) s d) ∧
      (∀ path v, MayWrite d path ADM_DERATE.off →
        ((v % 1024 = 0 ∨ 1000 < v % 1024) → Leads (.admDerateWrite path v) s d) ∧
        (d.get ADM_DERATE.DERATE ≤ v % 1024 → v % 1024 ≤ 1000 → v % 1024 ≠ 0 →
          Leads (.admDerateWrite path v) s (d.set ADM_DERATE.DERATE (v % 1024))) ∧
        (v % 1024 < d.get ADM_DERATE.DERATE → v % 1024 ≤ 1000 → v % 1024 ≠ 0 →
          Leads (.admDerateWrite path v) s (diePairs.foldl (fun d p => d.shedBridges p)
            ((List.range 64).foldl (fun d a => d.shedChannels a fun _ => true) (d.set ADM_DERATE.DERATE (v % 1024)))))) ∧
      (∀ x c, Tbl.find d.hif.ctxs x = some c → Answers (.inflDecay x) s fun e => { e with hif := d.hif } = d ∧
        Tbl.find e.hif.ctxs x = some (if (c.decays + 1) * (64 * d.get ADM_CTRL.DECAY) ≤ c.clean then
          { c with infl := max 64 (c.infl - 1), decays := c.decays + 1 } else c) ∧
        ∀ j, j ≠ x → Tbl.find e.hif.ctxs j = Tbl.find d.hif.ctxs j))

/-! ### Cores and tiles -/

/-- Tier 2.  Dispatch.  A free core takes the next tile of the command that R371 puts first, with its credits and leave: the core
loads it, and the command counts one tile more as running and begun; without leave the leave is asked for first; a replay takes
the tile aborted first from the list of those to run again, and another core than the one it was aborted on where one is free
(R66, R95, R96, R371).  Otherwise nothing is dispatched.
Where it rests on the model's own choices, they are those of the assumption log's entries 107 and 111. -/
def Obligations.TilesAreDispatched : Prop :=
  ∀ (s : State) (id c : Nat) (m : Cmd), Tbl.find s.dev.hif.cmds id = some m →
    let d := s.dev
    ((d.coreAt c).free = true → d.mayStart m c = true → d.isNext id m c = true → m.redo = [] →
      (∀ p b cr, d.leaveFor id m c = some (p, b) → d.tileCredits m = some cr → Answers (.tileDispatch id c) s fun e =>
        (e.coreAt c).svc = .loading ∧ (e.coreAt c).tile = some (m.tile id m.next 0 cr p b) ∧
        (e.coreAt c).waking = ((d.coreAt c).pwr == .night) ∧ (∀ k, k ≠ c → e.coreAt k = d.coreAt k) ∧
        (∃ m', Tbl.find e.hif.cmds id = some m' ∧ m'.next = m.next + 1 ∧ m'.running = m.running + 1 ∧ m'.redo = []) ∧
        (∀ j, j ≠ id → Tbl.find e.hif.cmds j = Tbl.find d.hif.cmds j) ∧ SameMemory d e) ∧
      (∀ cr, d.leaveFor id m c = none → d.tileCredits m = some cr → d.leaveWaits id c = false →
        Answers (.tileDispatch id c) s fun e => { e with pwr := d.pwr } = d ∧
          ∃ r, e.pwr.reqs = d.pwr.reqs ++ [r] ∧ r.why = .tile id c ∧ r.dp = coreDp c ∧ r.p = d.cmdLeave m (coreDp c))) ∧
    ((d.coreAt c).free = true → d.mayStart m c = true → d.isNext id m c = true → ∀ r l p b cr, m.redo = r :: l →
      (r.core ≠ c ∨ d.otherFree m c = false) → d.leaveFor id m c = some (p, b) → d.tileCredits m = some cr →
      Answers (.tileReplay id c) s fun e => (e.coreAt c).svc = .loading ∧
        (e.coreAt c).tile = some (m.tile id r.t r.replays cr p b) ∧ (∀ k, k ≠ c → e.coreAt k = d.coreAt k) ∧
        ∃ m', Tbl.find e.hif.cmds id = some m' ∧ m'.redo = l ∧ m'.next = m.next ∧ m'.running = m.running + 1) ∧
    (((d.coreAt c).free = false ∨ d.mayStart m c = false ∨ d.isNext id m c = false) →
      Leads (.tileDispatch id c) s d ∧ Leads (.tileReplay id c) s d)

/-- Tier 2.  A core that loads starts its tile once it is awake: the sequencer's registers are those of Table 3-4, the first step
is next, scratchpad and accumulators are as cleared (R62, R72).  A core in Night wakes first (R407).  A finished tile leaves its
core: MC in ticks of 2.7 core cycles' tenths rounded up, one tile more counted, its command one tile nearer its end (R89, R90);
an unfinished one does not end (R86).
Where it rests on the model's own choices, they are those of the assumption log's entries 80 and 104. -/
def Obligations.TilesStartAndEnd : Prop :=
  ∀ (s : State) (c : Nat) (t : Tile), (s.dev.coreAt c).tile = some t →
    let d := s.dev
    (∀ m, (d.coreAt c).svc = .loading → (d.coreAt c).waking = false → Tbl.find d.hif.cmds t.own.cmd = some m →
      Answers (.tileStart c) s fun e => (e.coreAt c).svc = .running ∧ (e.coreAt c).pwr = .run ∧ OnlyCore c d e ∧
        ∃ t', (e.coreAt c).tile = some t' ∧ t' = t.start m ∧ t'.own = t.own ∧ t'.step = t.step ∧ t'.spad = t.spad ∧
          (m.segs = none → t'.prog = m.prog ∧ t'.ar = startRegs m.slot m.hdr t.own.t ∧ t'.lc = List.replicate 4 0 ∧
            t'.ended = t.ended)) ∧
    ((d.coreAt c).svc = .loading → (d.coreAt c).waking = true → Leads (.tileStart c) s d) ∧
    ((d.coreAt c).waking = true → Answers (.coreNightExit c) s fun e => e.coreAt c = { d.coreAt c with waking := false, pwr := .dusk } ∧
      OnlyCore c d e) ∧
    (∀ m cycles uj, d.worker c = some t → t.finished = true → Tbl.find d.hif.cmds t.own.cmd = some m →
      Sets (.tileEnd c cycles uj) s (fun e => (e.endTiles s.now t.own.cmd).after s.now) fun e =>
        (e.coreAt c).tile = none ∧ (e.coreAt c).svc = .idle ∧
        (e.coreAt c).lastMc = ceilDiv ((t.cy + cycles) * 10) 27 % 2 ^ 32 ∧
        (e.coreAt c).tiles = ((d.coreAt c).tiles + 1) % 2 ^ 32 ∧
        (∃ m', Tbl.find e.hif.cmds t.own.cmd = some m' ∧ m'.ended = m.ended + 1 ∧ m'.energy = m.energy + uj) ∧ SameMemory d e) ∧
    (∀ cycles uj, d.worker c = some t → t.finished = false → Leads (.tileEnd c cycles uj) s d)

/-- Tier 2.  Errors of a core. A tile that has used its watchdog ticks, a double-bit error in a scratchpad line and a parity error
in an engine each leave their record and start the core's reset: the core is fenced (R63, R92, R102). The end of a core's
reset. The core is back in service, idle and in Night, its gate open, its tile gone, one reset more counted and recorded
(R102); one reset for a SPARE_SWAP, or not done in time, is FAILED (R103, R291); an unconfirmed fence asks for a package reset
(R451). A core 0.1 ms or more in Dusk with nothing to keep it awake enters Night (R407).
Where it rests on the model's own choices, they are those of the assumption log's entries 59, 105 and 122. -/
def Obligations.CoresFenceAndReset : Prop :=
  (
    ∀ (s : State) (c : Nat) (t : Tile),
      let d := s.dev
      ((d.coreAt c).tile = some t → d.get ADM_TILE_LIMIT.WATCHDOG ≤ t.wdTicks → (d.coreAt c).svc ≠ .stalled →
        (d.coreAt c).svc ≠ .fenced → Answers (.tileWatchdog c) s fun e => (e.coreAt c).svc = .fenced ∧
          (e.coreAt c).resetAt = some s.now ∧ (e.coreAt c).resetCause = .watchdog) ∧
      ((d.coreAt c).tile = some t → (t.wdTicks < d.get ADM_TILE_LIMIT.WATCHDOG ∨ (d.coreAt c).svc = .stalled) →
        Leads (.tileWatchdog c) s d) ∧
      (d.worker c = some t →
        (∀ line, Answers (.spadUe c line) s fun e => (e.coreAt c).svc = .fenced ∧ (e.coreAt c).resetAt = some s.now ∧
          (e.coreAt c).resetCause = .spadUe) ∧
        (∀ eng row, Answers (.engineParity c eng row) s fun e => (e.coreAt c).svc = .fenced ∧ (e.coreAt c).resetAt = some s.now ∧
          (e.coreAt c).resetCause = .parity) ∧
        (∀ line, Leads (.spadUe c line) s (((d.almCount (coreUnit c) true).raise 0x0104 (coreUnit c) 0x07 .contained
          [line % 6144 * 64] (some (t.own.ast, t.own.ctx))).startReset s.now c .spadUe .error 0x0104)) ∧
        (∀ eng row, Leads (.engineParity c eng row) s (((d.almCount (coreUnit c) true).raise 0x0105 (coreUnit c) (eng % 4)
          .contained [eng % 4, row % 256] (some (t.own.ast, t.own.ctx))).startReset s.now c .parity .error 0x0105))) ∧
      (d.worker c = none → ∀ line, Leads (.spadUe c line) s d)) ∧
  (
    ∀ (s : State) (c : Nat),
      let d := s.dev
      let k := d.coreAt c
      (k.resetAt = none → Leads (.coreReset c) s d ∧ Leads (.coreResetTimeout c) s d ∧ Leads (.fenceUnconfirmed c) s d) ∧
      (∀ t, k.resetAt = some t →
        (k.resetCause ≠ .sparSwap → Answers (.coreReset c) s fun e => e.coreAt c = { k with
            svc := .idle, pwr := .night, gate := false, tile := none, resets := satAdd 8 k.resets 1, resetAt := none, waking := false } ∧
          (∀ j, j ≠ c → e.coreAt j = d.coreAt j) ∧ e.get RAS_RESET_STATUS.LEVEL = 1 ∧
          (∃ r, e.ras.box = d.ras.box ++ [r] ∧ r.code = 0x0106 ∧ r.unit = coreUnit c ∧ r.detail = [k.resetCause.code, 0]) ∧
          SameMemory d e) ∧
        (k.resetCause = .sparSwap → Answers (.coreReset c) s fun e => (e.coreAt c).svc = .failed ∧
          (∀ j, j ≠ c → e.coreAt j = d.coreAt j) ∧ SameMemory d e) ∧
        (Answers (.coreResetTimeout c) s fun e => (e.coreAt c).svc = .failed ∧ (e.coreAt c).tile = none ∧
          (e.coreAt c).resetAt = none ∧ (∀ j, j ≠ c → e.coreAt j = d.coreAt j) ∧ SameMemory d e) ∧
        (d.ras.resets = [] → Answers (.fenceUnconfirmed c) s fun e => e.coreAt c = k ∧
          e.ras.resets = [⟨5, svcUnit (coreDp c), 0x0A07, s.now, 0⟩])) ∧
      (k.tile = none → k.pwr = .dusk → k.svc = .idle → k.duskAt + d.get PWR_CTRL.NIGHT_AFTER_US * 1000 ≤ s.now → k.bound = none →
        k.kept = none → Answers (.coreNight c) s fun e => e.coreAt c = { k with pwr := .night } ∧ OnlyCore c d e) ∧
      ((k.pwr ≠ .dusk ∨ k.tile ≠ none ∨ s.now < k.duskAt + d.get PWR_CTRL.NIGHT_AFTER_US * 1000) → Leads (.coreNight c) s d))

/-! ### Steps of a tile -/

/-- Tier 2.  The control steps of the sequencer. NOP has no effect; SETA, ADDA, MULA and WRAPA set one address register; LOOP and
ENDL count and move the step; FENCE waits for the source bytes of earlier XOUTs where its bit 5 asks for it; END drains the
core and stops the inbound streams (R77, R78, R86, R87, Table 3-7). The stream steps. WAITC holds issue until CC reaches its
threshold and aborts on a misused stream; CONS advances CR no further than CC; XDRAIN waits for every acknowledgement; TRAP
aborts with 0x0108 and its code; STAMP and LDA write and read a scratchpad word, and abort with 0x0109 where R73 is broken
(R73, R78, R84, R85). What a step sees and leaves where units race is as R75 says.
Where it rests on the model's own choices, they are those of the assumption log's entries 21, 23, 27 and 123. -/
def Obligations.ControlAndStreamSteps : Prop :=
  (
    ∀ (s : State) (c : Nat) (t : Tile) (w : StepWord), AtStep s.dev c t w →
      let on := { t with step := t.step + 1, held := false }
      let set := fun (v : Nat) => { on with ar := modifyAt t.ar (sFA w) fun _ => BitVec.ofNat 32 v }
      let count := fun (v : W32) => modifyAt t.lc (sFA w) fun _ => v
      let loopTo := BitVec.ofNat 32 (arOf t.ar (sFB w) + sImm w)
      (sOp w = 0x00 → StepsTo (.stepNop c) s c on) ∧
      (sOp w = 0x04 → StepsTo (.seta c) s c (set (sImm w))) ∧
      (sOp w = 0x05 → StepsTo (.adda c) s c (set (arOf t.ar (sFB w) + sImm w))) ∧
      (sOp w = 0x06 → StepsTo (.mula c) s c (set (arOf t.ar (sFB w) * sImm w))) ∧
      (sOp w = 0x07 → StepsTo (.wrapa c) s c (set ((arOf t.ar (sFB w) + sImm w) % sImm2 w))) ∧
      (sOp w = 0x02 → loopTo ≠ 0 → StepsTo (.loopStart c) s c { on with lc := count loopTo }) ∧
      (sOp w = 0x02 → loopTo = 0 → ∀ j x, t.step < j → t.prog[j]? = some x → sOp x = 0x03 → sFA x = sFA w →
        (∀ i y, t.step < i → i < j → t.prog[i]? = some y → ¬(sOp y = 0x03 ∧ sFA y = sFA w)) →
        StepsTo (.loopStart c) s c { on with step := j + 1, lc := count 0 }) ∧
      (sOp w = 0x03 → t.lc.getD (sFA w) 0 = 1 → StepsTo (.loopEnd c) s c { on with lc := count 0 }) ∧
      (sOp w = 0x03 → t.lc.getD (sFA w) 0 ≠ 1 → ∀ j x, j < t.step → t.prog[j]? = some x → sOp x = 0x02 → sFA x = sFA w →
        (∀ i y, j < i → i < t.step → t.prog[i]? = some y → ¬(sOp y = 0x02 ∧ sFA y = sFA w)) →
        StepsTo (.loopEnd c) s c { on with step := j + 1, lc := count (t.lc.getD (sFA w) 0 - 1) }) ∧
      (sOp w = 0x08 → (bit (sFA w) 5 = false ∨
          ((∀ x ∈ t.xq, x.inbound = true ∨ x.stop = true) ∧ ∀ o ∈ t.outs, o.sourced = true)) → StepsTo (.stepFence c) s c on) ∧
      (sOp w = 0x08 → bit (sFA w) 5 = true → (∃ o ∈ t.outs, o.sourced = false) → ∃ b, StepWaits (.stepFence c) s c t b) ∧
      (sOp w = 0x01 → Answers (.stepEnd c) s fun e => e.coreAt c = { s.dev.coreAt c with
          svc := .draining
          tile := some { t with ended := true, held := false, ins := t.ins.map InStream.stop
                                xq := t.xq.filter fun x => !x.inbound && !x.stop } } ∧ OnlyCore c s.dev e)) ∧
  (
    ∀ (s : State) (c : Nat) (t : Tile) (w : StepWord), AtStep s.dev c t w →
      let on := { t with step := t.step + 1, held := false }
      let st := t.ins.getD (sFA w) InStream.init
      let thr := (arOf t.ar (sFB w) + sImm w) % 2 ^ 32
      let busy := (maskStreams (sFA w)).filter fun k => (t.outs.getD k OutStream.init).count != 0
      (sOp w = 0x09 →
        (st.issued = true → st.pending = 0 → thr ≤ st.t → thr ≤ st.cc → StepsTo (.waitc c) s c on) ∧
        (st.issued = true → st.pending = 0 → thr ≤ st.t → st.cc < thr → StepWaits (.waitc c) s c t st.faulted) ∧
        (st.issued = true → st.pending ≠ 0 → StepWaits (.waitc c) s c t false) ∧
        ((st.issued = false ∨ st.pending = 0 ∧ st.t < thr) → StepAborts (.waitc c) s c t 0x0103 0x06 [sFA w, thr, st.t])) ∧
      (sOp w = 0x0A →
        (st.pending = 0 → st.cr + sImm w ≤ st.cc → StepsTo (.cons c) s c
          { on with ins := modifyAt t.ins (sFA w) fun x => { x with cr := x.cr + sImm w } }) ∧
        (st.pending ≠ 0 → StepWaits (.cons c) s c t false) ∧
        (st.pending = 0 → st.cc < st.cr + sImm w → StepAborts (.cons c) s c t 0x0103 0x06 [sFA w, sImm w, st.t])) ∧
      (sOp w = 0x0B → (busy = [] → StepsTo (.xdrain c) s c on) ∧ (busy ≠ [] → ∃ b, StepWaits (.xdrain c) s c t b)) ∧
      (sOp w = 0x0C → StepAborts (.trap c) s c t 0x0108 0x06 [sImm w % 2 ^ 16]) ∧
      (sOp w = 0x0D →
        (∀ a, wordAddr t w 8 = some a → StepsTo (.stamp c) s c
          { t.put a 8 (t.cy % 2 ^ 32 + t.stallCycles % 2 ^ 32 * 2 ^ 32) with step := t.step + 1, held := false }) ∧
        (wordAddr t w 8 = none → StepAborts (.stamp c) s c t 0x0109 0x06 [t.step, spaAddr t.ar (sCSpa w) + sImm w])) ∧
      (sOp w = 0x0E →
        (∀ a, wordAddr t w 4 = some a → StepsTo (.lda c) s c
          { on with ar := modifyAt t.ar (sFA w) fun _ => BitVec.ofNat 32 (t.val a 4) }) ∧
        (wordAddr t w 4 = none → StepAborts (.lda c) s c t 0x0109 0x06 [t.step, spaAddr t.ar (sCSpa w) + sImm w])))

/-- Tier 2.  The scratchpad. A write of bytes reads back, leaves every other byte, and sets the written bits of the lines it
touches and no other (R62). What a stack merges into a granule: a masked write the bytes its mask names, a MODE 1 add the FP32
sums of the elements named, a fetch-and-add its 32-bit word plus 1 modulo 2^32; every other byte keeps its value (R112, R121,
R142). Races. A step that races with no other unit sees and leaves the tile as it is but for the log; bytes that two units touch,
one writing, with nothing between them race; the bytes raced over hold free values, and all others but the outputs drawn from
them keep theirs; a FENCE orders the accesses of the units in its mask (R75, R78). What an abort spoils. Nothing but memory and
the draws of free values differs, memory keeps its canonical form, a slice's bytes take free values in the range named and no
others, and a tile without outputs spoils nothing (R96, R227, R237).
Where it rests on the model's own choices, they are those of the assumption log's entries 26, 122 and 123. -/
def Obligations.ScratchpadAndMerging : Prop :=
  (
    ∀ (t : Tile) (a : Nat) (bs : List Byte),
      (∀ i (h : i < bs.length), Tbl.look 0 (t.wr a bs).spad (a + i) = bs[i]) ∧ (t.wr a bs).rd a bs.length = bs ∧
      (∀ x, (x < a ∨ a + bs.length ≤ x) → Tbl.look 0 (t.wr a bs).spad x = Tbl.look 0 t.spad x) ∧
      (∀ l, l ∈ (t.wr a bs).written ↔ l ∈ t.written ∨ ∃ i, i < bs.length + a % 64 ∧ l = a / 64 + i / 64) ∧
      { t.wr a bs with spad := t.spad, written := t.written } = t) ∧
  (
    (∀ (m : Nat) (x y : Line) (i : Nat), i < 64 →
      fld (mergeBytes m x y) i 0 8 = if bit m i then fld y i 0 8 else fld x i 0 8) ∧
    (∀ (m : Nat) (x y : Line) (i : Nat), i < 16 →
      fld (addElems m x y) (4 * i) 0 32 =
        if bit m (4 * i) then addF32 (fld x (4 * i) 0 32) (fld y (4 * i) 0 32) % 2 ^ 32 else fld x (4 * i) 0 32) ∧
    (∀ (x : Line) (o : Nat), o % 4 = 0 → o < 64 → fld (bumpWord o x) o 0 32 = (fld x o 0 32 + 1) % 2 ^ 32 ∧
      ∀ j, j % 4 = 0 → j < 64 → j ≠ o → fld (bumpWord o x) j 0 32 = fld x j 0 32)) ∧
  (
    ∀ (t u : Tile) (w : StepWord) (f : Foot) (m n : Nat),
      let among := fun (y : Nat) (l : List Span) => ∃ x ∈ l, x.1 ≤ y ∧ y < x.1 + x.2
      (t.races w = false → t.seen m w = t ∧
        (u.order = t.order → u.ins = t.ins → ∃ o, t.settle m w u = { u with order := o })) ∧
      (∀ e ∈ t.order.log, e.unit ≠ f.unit → e.after = none → ∀ y, among y e.writes → among y (f.reads ++ f.writes) →
        among y (t.racing n f)) ∧
      (∀ e ∈ t.order.log, e.unit ≠ f.unit → e.after = none → ∀ y, among y e.reads → among y f.writes → among y (t.racing n f)) ∧
      (∀ y < accBase, among y (t.racing n f) →
        ∃ i, Tbl.look 0 (t.collide m n f).spad y = BitVec.ofNat 8 (Config.free .undefinedByte m i)) ∧
      (∀ y, ¬among y (t.racing n f) → (∀ e ∈ t.drawn n f, ¬among y e.writes) →
        Tbl.look 0 (t.collide m n f).spad y = Tbl.look 0 t.spad y) ∧
      (sOp w = 0x08 → ∀ e ∈ (t.orders w).order.log, ∀ k, e.ends = .unit k → bit (sFA w) k = true → e.after ≠ none)) ∧
  (
    ∀ (d : Dev) (t : Tags) (l : List Target) (o len k g i : Nat), i < 64 → o % 64 + len ≤ 64 →
      { d.spoilAll t l with mem := d.mem, slice := d.slice, fresh := d.fresh } = d ∧
      (Memory.wf d.lost d.mem = true → SliceMem.wf d.slice = true →
        let e := d.spoilAll t l
        Memory.wf e.lost e.mem = true ∧ SliceMem.wf e.slice = true) ∧
      (d.sliceAt t.ast t.epoch o = some (k, g) → (d.sgran (sliceKey k g)).poison = false →
        fld ((d.spoilLine t 1 o len).sgran (sliceKey k g)).data i 0 8 =
          if o % 64 ≤ i ∧ i < o % 64 + len then fld (BitVec.ofNat 512 (Config.free .undefinedByte d.fresh 0) : Line) i 0 8
          else fld (d.sgran (sliceKey k g)).data i 0 8) ∧
      (∀ j, j ≠ sliceKey k g → d.sliceAt t.ast t.epoch o = some (k, g) → d.comp.swaps = [] →
        (d.spoilLine t 1 o len).sgran j = d.sgran j) ∧
      (∀ c (t : Tile), t.targets = [] → d.spoilTile c t = d))

/-- Tier 2.  XSTOP, XIN and the three XOUTs wait while four transfer steps are queued; else they issue into the transfer queue
with the values their registers hold now, an XIN counting a pending start of its stream and an XOUT one more outstanding, and the
transfer engine then runs what it can (R74, R75, R84, R107).  Executing an XIN or XOUT whose descriptor is sound starts its
stream, and nothing of the scratchpad differs unless it races (R75, R83).
Where it rests on the model's own choices, they are those of the assumption log's entries 23, 26 and 123. -/
def Obligations.TransferStepsIssue : Prop :=
  (∀ (s : State) (c : Nat) (t : Tile) (w : StepWord), AtStep s.dev c t w →
    let on := fun (q : XStep) => { t with step := t.step + 1, held := false, xq := t.xq ++ [q] }
    let q := fun (inb : Bool) => { stop := false, inbound := inb, stream := sStream w, mode := sMode w, win := sWin w
                                   spa := spaAddr t.ar (sSpa w), desc := sDesc w, off := arOf t.ar (sOffReg w) * sOffMul w
                                   ars := t.ar, step := t.step, nth := t.order.nth : XStep }
    let now := fun (e : Dev) (u : Tile) => (e.coreAt c).tile = some { u with order := { u.order with nth := u.order.nth + 1 } }
    (sOp w = 0x0F → t.xq.length < 4 → Sets (.xstop c) s (Dev.xferRun s.now c 5) fun e => OnlyCore c s.dev e ∧
      ∃ q, now e (on q) ∧ q.stop = true ∧ q.stream = sFA w) ∧
    (sOp w = 0x10 → t.xq.length < 4 → Sets (.xin c) s (Dev.xferRun s.now c 5) fun e => OnlyCore c s.dev e ∧
      now e { on (q true) with
        ins := modifyAt t.ins (sStream w) fun x => { x with issued := true, pending := x.pending + 1 } }) ∧
    (∀ i m, sOp w = 0x11 → sMode w = m → (m = 0 ∧ i = .xoutStore c ∨ m = 1 ∧ i = .xoutAdd c ∨ m = 2 ∧ i = .xoutReduce c) →
      t.xq.length < 4 → Sets i s (Dev.xferRun s.now c 5) fun e => OnlyCore c s.dev e ∧
        now e { on (q false) with
          outs := modifyAt t.outs (sStream w) fun o => { o with count := o.count + 1 } }) ∧
    (4 ≤ t.xq.length → ∀ i, (i = .xin c ∧ sOp w = 0x10 ∨ i = .xstop c ∧ sOp w = 0x0F ∨
        i = .xoutStore c ∧ sOp w = 0x11 ∧ sMode w = 0) →
      Sets i s (Dev.xferRun s.now c 5) fun e => OnlyCore c s.dev e ∧ (e.coreAt c).tile = some { t with held := false })) ∧
  (∀ (d : Dev) (now c : Nat) (t : Tile) (q : XStep) (l : List XStep) (x : Desc) (ls : List Line), d.worker c = some t →
    t.xq = q :: l → q.stop = false → q.rangeOk = true →
    d.peeks (d.tileTags c t) (if q.desc + 128 ≤ t.own.progLen then 2 else 1) ((d.progVa t + q.desc) % 2 ^ 56) = .inr ls →
    d.checkDesc t q (ls.getD 0 0) (ls.getD 1 0) = .inr x →
    let i := t.ins.getD q.stream InStream.init
    let is := fun (f : Foot) (u' : Tile) => ∃ u, ((Dev.xferRun now c 1 d).coreAt c).tile = some u ∧
      { u with order := t.order, spad := t.spad, written := t.written, acc := t.acc, valid := t.valid, flags := t.flags } = u' ∧
      (t.racing q.nth f = [] → u.spad = t.spad ∧ u.written = t.written ∧ u.acc = t.acc ∧ u.valid = t.valid ∧ u.flags = t.flags)
    (q.inbound = true → i.over = true → is (footXin i x q) { t with
        xq := l, ins := modifyAt t.ins q.stream fun s => s.start x q }) ∧
    (q.inbound = false → is (footXout t x q) { t with
        xq := l, outs := modifyAt t.outs q.stream fun o => o.start x q t.xouts, xouts := t.xouts + 1 }) ∧
    (q.inbound = true → (t.ins.getD q.stream InStream.init).over = false → Dev.xferRun now c 1 d = d))

/-- Tier 2.  The matrix steps.  MMA leaves in accumulator (I0 + i, j) of its engine the dot product of row i of A and column j of B
on top of the old value, or of +0, and no other accumulator of the engine's other rows changes; ACCLD loads FP32 values as they
are; ACCZ sets rows to +0; ACCRD writes the rounded values to the scratchpad.  Each that breaks R73 aborts with 0x0109 (R50 to
R54, R80, R81).
Where it rests on the model's own choices, they are those of the assumption log's entries 7, 24, 120 and 123. -/
def Obligations.MatrixSteps : Prop :=
  ∀ (s : State) (c : Nat) (t : Tile) (w : StepWord), AtStep s.dev c t w →
    let e := sEng w
    let n := s.dev.fresh
    (∀ fa fb, sOp w = 0x20 → Fmt.ofCode (sFmtA w) = some fa → Fmt.ofCode (sFmtB w) = some fb → mmaRange t w fa fb = none →
      ∃ t', StepsTo (.mma c) s c t' ∧ t'.step = t.step + 1 ∧ t'.spad = t.spad ∧ t'.ar = t.ar ∧
        (∀ i j, i < sM w → j < 16 → t'.accAt e (sI0 w + i) j = (mmaDot fa fb (sMmaRnd w == 1)
          (fun g => Config.free .groupOrder n ((i * 16 + j) * 4096 + g))
          (t.mmaLine fa (spaAddr t.ar (sSpa w)) (spaAddr t.ar (sEight w)) (sK w) i)
          (t.mmaLine fb (spaAddr t.ar (sSix w)) (spaAddr t.ar (sTen w)) (sK w) j)
          (if sZero w then 0 else t.accAt e (sI0 w + i) j)).1) ∧
        (∀ r j, j < 16 → (r < sI0 w ∨ sI0 w + sM w ≤ r) → t'.accAt e r j = t.accAt e r j) ∧
        t'.activity = t.activity + mmaCycles fa fb (sM w) (sK w)) ∧
    (∀ fa fb a, sOp w = 0x20 → Fmt.ofCode (sFmtA w) = some fa → Fmt.ofCode (sFmtB w) = some fb → mmaRange t w fa fb = some a →
      StepAborts (.mma c) s c t 0x0109 e [t.step, a]) ∧
    (sOp w = 0x21 → accRange t w 4 = true → ∃ t', StepsTo (.accld c) s c t' ∧ t'.step = t.step + 1 ∧ t'.spad = t.spad ∧
      (∀ i j, i < sM w → j < 16 → t'.accAt e (sI0 w + i) j = t.val (accRowAddr t w 4 i + 4 * j) 4) ∧
      (∀ r j, j < 16 → (r < sI0 w ∨ sI0 w + sM w ≤ r) → t'.accAt e r j = t.accAt e r j)) ∧
    (sOp w = 0x21 → accRange t w 4 = false → StepAborts (.accld c) s c t 0x0109 e [t.step, spaAddr t.ar (sSpa w)]) ∧
    (sOp w = 0x23 → ∃ t', StepsTo (.accz c) s c t' ∧ t'.step = t.step + 1 ∧ t'.spad = t.spad ∧
      (∀ i j, i < sM w → j < 16 → t'.accAt e (sI0 w + i) j = 0) ∧
      (∀ r j, j < 16 → (r < sI0 w ∨ sI0 w + sM w ≤ r) → t'.accAt e r j = t.accAt e r j)) ∧
    (∀ f r, sOp w = 0x22 → Fmt.ofCode (sFmtA w) = some f → Rnd.ofCode (sAccRnd w) = some r →
      (accRange t w (f.width / 8) = true → StepsTo (.accrd c) s c ((List.range (sM w)).foldl (fun acc i =>
        let vs := (List.range 16).map fun j =>
          accRead f r (sAccSat w) (Config.free .srDraw n (i * 16 + j)) (sAlpha w) (t.accAt e (sI0 w + i) j)
        (acc.wr (accRowAddr t w (f.width / 8) i) (vs.flatMap fun v => toBytes (f.width / 8) v.1)).raiseFlags
          (vs.foldl (fun a v => a ||| v.2) 0)) t).bump) ∧
      (accRange t w (f.width / 8) = false → StepAborts (.accrd c) s c t 0x0109 e [t.step, spaAddr t.ar (sSpa w)]))

/-- Tier 2.  The lane-wise vector operations: lane i of D is the operation on lane i of A, and of B and C where it has them (group
0 alone under a broadcast), for the 64 × N lanes; the flags the lanes raise are added to the flag word (R56 to R59, Table 2-10).
The results are written as N × 64 packed FP32 values.  An operand that breaks R73 aborts the tile with 0x0109.
Where it rests on the model's own choices, they are those of the assumption log's entries 22, 24, 118 and 123. -/
def Obligations.VectorLanes : Prop :=
  ∀ (s : State) (c : Nat) (t : Tile) (w : StepWord), AtStep s.dev c t w → sOp w = 0x30 →
    let n := sN w
    let a := fun (i : Nat) => t.lane (opA t w) false i
    let b := fun (i : Nat) => t.lane (opB t w) (sBcb w) i
    let x := fun (i : Nat) => t.lane (opC t w) (sBcc w) i
    let one := [(opD t w, groupBytes n 32), (opA t w, groupBytes n 32)]
    let two := one ++ [(opB t w, groupBytes (groupsB w) 32)]
    let three := two ++ [(opC t w, groupBytes (groupsC w) 32)]
    let r := opRnd w
    let z := sFtz w
    let g := fun (op i : Nat) => Config.free (if op = 0x19 ∨ op = 0x1A then .trigFar else .ulpError) s.dev.fresh i
    ∀ (i : Instr) (spans : List Span) (f : Nat → Flagged),
      (i = .fma c ∧ sVop w = 0x00 ∧ spans = three ∧ (f = fun k => vFma r z (a k) (b k) (x k)) ∨
       i = .add c ∧ sVop w = 0x01 ∧ spans = two ∧ (f = fun k => vAdd r z (a k) (b k)) ∨
       i = .sub c ∧ sVop w = 0x02 ∧ spans = two ∧ (f = fun k => vSub r z (a k) (b k)) ∨
       i = .mul c ∧ sVop w = 0x03 ∧ spans = two ∧ (f = fun k => vMul r z (a k) (b k)) ∨
       i = .max c ∧ sVop w = 0x04 ∧ spans = two ∧ (f = fun k => vMax z (a k) (b k)) ∨
       i = .min c ∧ sVop w = 0x05 ∧ spans = two ∧ (f = fun k => vMin z (a k) (b k)) ∨
       i = .abs c ∧ sVop w = 0x06 ∧ spans = one ∧ (f = fun k => vAbs z (a k)) ∨
       i = .neg c ∧ sVop w = 0x07 ∧ spans = one ∧ (f = fun k => vNeg z (a k)) ∨
       i = .scale c ∧ sVop w = 0x0A ∧ spans = one ∧ (f = fun k => vScale r z (signed 16 (sImm16 w)) (a k)) ∨
       (∃ op, (i, op) ∈ [(.exp2 c, 0x10), (.exp c, 0x11), (.log2 c, 0x12), (.log c, 0x13), (.rcp c, 0x14), (.rsqrt c, 0x15),
          (.sqrt c, 0x16), (.tanh c, 0x17), (.sigmoid c, 0x18), (.sin c, 0x19), (.cos c, 0x1A)] ∧ sVop w = op ∧ spans = one ∧
          f = fun k => vTransc op (g op k) z (a k))) →
      (badSpan spans = none → ∃ t', StepsTo i s c t' ∧ t'.step = t.step + 1 ∧ t'.ar = t.ar ∧ t'.acc = t.acc ∧
        (∀ k, k < 64 * n → t'.val (opD t w + 4 * k) 4 = (f k).1 % 2 ^ 32) ∧
        (∀ y, (y < opD t w ∨ opD t w + 256 * n ≤ y) → Tbl.look 0 t'.spad y = Tbl.look 0 t.spad y) ∧
        t'.flags = (List.range (64 * n)).foldl (fun l k => l ||| (f k).2) t.flags) ∧
      (∀ y, badSpan spans = some y → StepAborts i s c t 0x0109 0x04 [t.step, y])

/-- Tier 2.  The vector operations of other shapes: CMP packs masks of 64 lanes, SEL reads them, CVT converts, QBS and DQBS
quantise and expand blocks of 32 with their scales, RSUM and RMAX reduce groups of 64, FLAGS writes the flag word (R41, R42, R45,
R59, R82).  One whose operands break R73 aborts with 0x0109.
Where it rests on the model's own choices, they are those of the assumption log's entries 7, 22, 24 and 123. -/
def Obligations.VectorBlocks : Prop :=
  ∀ (s : State) (c : Nat) (t : Tile) (w : StepWord), AtStep s.dev c t w → sOp w = 0x30 →
    let n := sN w
    let a := fun (i : Nat) => t.lane (opA t w) false i
    let b := fun (i : Nat) => t.lane (opB t w) (sBcb w) i
    let d := opD t w
    let z := sFtz w
    let m := s.dev.fresh
    let wide := fun (q : Nat) => (q, groupBytes n 32)
    let tail := fun (i : Instr) (spans : List Span) (wd count : Nat) (f : Nat → Flagged) =>
      (badSpan spans = none → ∃ t', StepsTo i s c t' ∧ t'.step = t.step + 1 ∧
        (∀ k, k < count → t'.val (d + wd * k) wd = (f k).1 % 2 ^ (8 * wd)) ∧
        (∀ y, (y < d ∨ d + wd * count ≤ y) → Tbl.look 0 t'.spad y = Tbl.look 0 t.spad y) ∧
        t'.flags = (List.range count).foldl (fun l k => l ||| (f k).2) t.flags) ∧
      (∀ y, badSpan spans = some y → StepAborts i s c t 0x0109 0x04 [t.step, y])
    (sVop w = 0x08 → tail (.cmp c) [(d, 8 * n), wide (opA t w), (opB t w, groupBytes (groupsB w) 32)] 8 n fun g =>
      (List.range 64).foldl (fun acc k => let r := vCmp z (sCond w) (a (64 * g + k)) (b (64 * g + k))
        (acc.1 + r.1.toNat * 2 ^ k, acc.2 ||| r.2)) (0, 0)) ∧
    (sVop w = 0x09 → tail (.sel c) [wide d, wide (opA t w), (opB t w, groupBytes (groupsB w) 32), (opC t w, 8 * groupsC w)] 4 (64 * n)
      fun i => vSel z (bit (t.val (opC t w + 8 * (if sBcc w then 0 else i / 64)) 8) (i % 64)) (a i) (b i)) ∧
    (∀ fs fd, sVop w = 0x0B → Fmt.ofCode (sFmtS w) = some fs → Fmt.ofCode (sFmtD w) = some fd →
      tail (.cvt c) [(d, groupBytes n fd.width), (opA t w, groupBytes n fs.width)] (fd.width / 8) (64 * n) fun i =>
        vCvt fs fd (opRnd w) (sVSat w) z (Config.free .srDraw m i) (t.val (opA t w + i * (fs.width / 8)) (fs.width / 8))) ∧
    (∀ f, sVop w = 0x0D → Fmt.ofCode (sFmtS w) = some f → tail (.dqbs c)
      [wide d, (opA t w, groupBytes n f.width), (opC t w, 2 * n)] 4 (64 * n) fun i =>
        vDqbs f (t.val (opC t w + i / 32) 1) (bits (t.val (opA t w + i / 32 * (4 * f.width)) (4 * f.width)) (i % 32 * f.width) f.width)) ∧
    (sVop w = 0x0E → tail (.rsum c) [(d, 4 * n), wide (opA t w)] 4 n fun g =>
      vRsum (opRnd w) z (fun k => Config.free .sumOrder m (g * 128 + k)) ((List.range 64).map fun k => a (64 * g + k))) ∧
    (sVop w = 0x0F → tail (.rmax c) [(d, 4 * n), wide (opA t w)] 4 n fun g => vRmax z ((List.range 64).map fun k => a (64 * g + k))) ∧
    (sVop w = 0x3F → spaOk d 4 = true → ∃ t', StepsTo (.flags c) s c t' ∧ t'.val d 4 = t.flags % 2 ^ 32 ∧ t'.flags = t.flags) ∧
    (sVop w = 0x3F → spaOk d 4 = false → StepAborts (.flags c) s c t 0x0109 0x04 [t.step, d]) ∧
    (∀ f, sVop w = 0x0C → Fmt.ofCode (sFmtD w) = some f →
      (badSpan [(d, groupBytes n f.width), wide (opA t w), (opC t w, 2 * n)] = none → StepsTo (.qbs c) s c
        ((List.range (2 * n)).foldl (fun acc k =>
          let r := vQbs f (opRnd w) z (fun i => Config.free .srDraw m (32 * k + i)) ((List.range 32).map fun i => a (32 * k + i))
          ((acc.wr (d + k * (4 * f.width)) (toBytes (4 * f.width) (packBits f.width r.2.1))).put (opC t w + k) 1 r.1).raiseFlags
            r.2.2) t).bump) ∧
      (∀ y, badSpan [(d, groupBytes n f.width), wide (opA t w), (opC t w, 2 * n)] = some y →
        StepAborts (.qbs c) s c t 0x0109 0x04 [t.step, y]))

/-- Tier 2.  The data steps copy between scratchpad blocks, each reading its operands before it writes: VMOV a block, transposed or
not; VFILL a value; VGATH row X[r] to row r; VSCAT row r to row X[r], a later row over an earlier one.  Bytes outside the rows
written keep their value; an operand that breaks R73 aborts with 0x0109 (R73, R82, Table 3-10).
Where it rests on the model's own choices, they are those of the assumption log's entries 22 and 123. -/
def Obligations.DataSteps : Prop :=
  ∀ (s : State) (c : Nat) (t : Tile) (w : StepWord), AtStep s.dev c t w →
    let e := eszBytes w
    let rows := sTen w
    let cols := sN w
    let d := opD t w
    let p := pitchOr (sImm16 w) cols e
    let xs := t.indices (opB t w) rows
    let q := pitchOr (sEight w) (if sTr w then rows else cols) e
    let fill := [(d, rowsSpan rows cols e p)]
    let move := [(d, rowsSpan (if sTr w then cols else rows) (if sTr w then rows else cols) e q), (opA t w, rowsSpan rows cols e p)]
    let gather := [(opB t w, 4 * rows), (d, rows * cols * e), (opA t w, indexSpan xs cols e p)]
    let scatter := [(opB t w, 4 * rows), (opA t w, rows * cols * e), (d, indexSpan xs cols e p)]
    let same := fun (t' : Tile) (at_ : Nat → Nat) (n len : Nat) =>
      ∀ y, (∀ r, r < n → y < at_ r ∨ at_ r + len ≤ y) → Tbl.look 0 t'.spad y = Tbl.look 0 t.spad y
    (sOp w = 0x32 → badSpan fill = none → ∃ t', StepsTo (.vfill c) s c t' ∧ same t' (fun r => d + r * p) rows (cols * e) ∧
      (cols * e ≤ p → ∀ r k, r < rows → k < cols → t'.rd (d + r * p + k * e) e = toBytes e (sEight w + 65536 * sValHi w))) ∧
    (∀ y, sOp w = 0x32 → badSpan fill = some y → StepAborts (.vfill c) s c t 0x0109 0x04 [t.step, y]) ∧
    (sOp w = 0x31 → sTr w = false → badSpan move = none → ∃ t', StepsTo (.vmov c) s c t' ∧
      same t' (fun r => d + r * q) rows (cols * e) ∧
      (cols * e ≤ q → ∀ r k, r < rows → k < cols → t'.rd (d + r * q + k * e) e = t.rd (opA t w + (r * p + k * e)) e)) ∧
    (sOp w = 0x31 → sTr w = true → badSpan move = none → ∃ t', StepsTo (.vmov c) s c t' ∧
      same t' (fun r => d + r * q) cols (rows * e) ∧
      (rows * e ≤ q → ∀ r k, r < cols → k < rows → t'.rd (d + r * q + k * e) e = t.rd (opA t w + (k * p + r * e)) e)) ∧
    (∀ y, sOp w = 0x31 → badSpan move = some y → StepAborts (.vmov c) s c t 0x0109 0x04 [t.step, y]) ∧
    (sOp w = 0x33 → badSpan gather = none → ∃ t', StepsTo (.vgath c) s c t' ∧
      same t' (fun r => d + r * cols * e) rows (cols * e) ∧
      ∀ r, r < rows → t'.rd (d + r * cols * e) (cols * e) = t.rd (opA t w + xs.getD r 0 * p) (cols * e)) ∧
    (∀ y, sOp w = 0x33 → badSpan gather = some y → StepAborts (.vgath c) s c t 0x0109 0x04 [t.step, y]) ∧
    (sOp w = 0x34 → badSpan scatter = none → ∃ t', StepsTo (.vscat c) s c t' ∧
      same t' (fun r => d + xs.getD r 0 * p) rows (cols * e) ∧
      (cols * e ≤ p → ∀ r, r < rows → (∀ r', r < r' → r' < rows → xs.getD r' 0 ≠ xs.getD r 0) →
        t'.rd (d + xs.getD r 0 * p) (cols * e) = t.rd (opA t w + r * cols * e) (cols * e))) ∧
    (∀ y, sOp w = 0x34 → badSpan scatter = some y → StepAborts (.vscat c) s c t 0x0109 0x04 [t.step, y])

/-! ### Transfers and faults -/

/-- Tier 2.  A transfer engine at work.  It sends its stream's next request: up to 64 bytes of one granule, a row and a chunk,
within its class's budget, an outbound one with the bytes and mask it stores, and through the crossbars where it reduces (R105 to R107,
R117, R126).  Data lands in the ring and an acknowledgement at its write (R84, R115); completed transactions are counted (R262); a
guaranteed transaction's priority rises with its age, and one that is not due stays (R258).
Where it rests on the model's own choices, they are those of the assumption log's entries 20, 26, 28, 107 and 123. -/
def Obligations.EnginesTransfer : Prop :=
  ∀ s : State,
    let d := s.dev
    (∀ c k t x p, d.worker c = some t → d.redirectFor t c true k = none →
      let i := t.ins.getD k InStream.init
      let b := t.base + i.next
      let va := x.addr b (x.j1 b)
      let len := min (min (min (x.n0 - (x.index b).1) (i.total - i.next)) (chunkBytes - i.next % chunkBytes)) (64 - va % 64)
      i.desc = some x → x.kind = 0 → x.space = 0 → i.stopped = false → i.holds = [] → i.asking = false → i.next < i.total →
      t.retained = false → i.next / chunkBytes < i.cr + i.win →
      t.readsOut < min 2048 (d.get (ADM_CLASS_PARAM_A_ACT.READ_BUDGET t.own.cls)) →
      (d.mapOf t.own.ast (d.epochAt (coreDp c))).bind (·.route va) = some p →
      Answers (.xferRequestIssue c true k) s fun e => (∃ r, e.net.reqs = d.net.reqs ++ [r] ∧ r.acc = .read ∧ r.va = va ∧
        r.dest = .chan p.l p.region p.r ∧ r.tags = d.tileTags c t ∧ r.who = .engine c true k i.run i.next len) ∧
        (e.coreAt c).tile = some { t with activity := t.activity + 1, ins := modifyAt t.ins k fun y => { y with
          next := y.next + len, out := y.out + 1 } } ∧ OnlyCore c { d with net := e.net } e) ∧
    (∀ c k t x p, d.worker c = some t → d.redirectFor t c false k = none →
      let o := t.outs.getD k OutStream.init
      let va := x.desc.addr x.next (x.desc.j1 x.next)
      let len := min (min (x.desc.n0 - (x.desc.index x.next).1) (x.total - x.next)) (64 - va % 64)
      o.holds = [] → t.retained = false → (∀ p ∈ o.pieces, p.again = false) → t.seg = none →
      (o.xouts.find? fun y => decide (y.next < y.total)) = some x → x.asking = false → x.desc.kind = 0 → x.desc.space = 0 →
      t.writesOut < min 1024 (d.get (ADM_CLASS_PARAM_A_ACT.WRITE_BUDGET t.own.cls)) →
      (d.mapOf t.own.ast (d.epochAt (coreDp c))).bind (·.route va) = some p →
      Answers (.xferRequestIssue c false k) s fun e => (∃ r, e.net.reqs = d.net.reqs ++ [r] ∧ r.va = va ∧
        r.dest = .chan p.l p.region p.r ∧ r.tags = d.tileTags c t ∧ r.mask = maskOf (va % 64) len ∧
        r.acc = writeAcc x.mode r.mask ∧ r.hop = (if x.mode = 2 then some (coreDp c) else none) ∧
        r.data = placeBytes (va % 64) ((List.range len).flatMap fun j => t.rd (x.spa + (x.next + j)) 1) ∧
        r.who = .engine c false k x.id x.next len) ∧ OnlyCore c { d with net := e.net } e) ∧
    (∀ i r c k run pos len t, d.net.resps[i]? = some r → r.status = .ok → r.req.acc.writes = false →
      r.req.who = .engine c true k run pos len → (d.coreAt c).tile = some t → (t.ins.getD k InStream.init).run = run →
      Sets (.xferReadResponse i none) s (Dev.xferRun s.now c 5) fun e => e.net.resps = dropAt d.net.resps i ∧
        let u := (t.credit r.req).land k pos (t.smear d.fresh k pos (pickBytes r.data (r.req.va % 64) len))
        (e.coreAt c).tile = some { u with ins := modifyAt u.ins k fun y => { y with out := y.out - 1 } } ∧
        ∀ j, j ≠ c → e.coreAt j = d.coreAt j) ∧
    (∀ (i : InStream) (pos len : Nat), i.landed = [] → pos = i.done → pos + len ≤ i.total → 0 < len →
      (i.landed1 pos len).done = pos + len ∧ (i.landed1 pos len).cc =
        if i.total ≤ pos + len then ceilDiv i.total chunkBytes else (pos + len) / chunkBytes) ∧
    (∀ i r c k run pos len t, d.net.resps[i]? = some r → r.status = .ok → r.req.acc.writes = true → r.req.acc ≠ .fetchAdd →
      r.req.who = .engine c false k run pos len → (d.coreAt c).tile = some t →
      Sets (.xferWriteAck i false) s (Dev.ackOut c k 8) fun e => e.net.resps = dropAt d.net.resps i ∧
        (e.coreAt c).tile = some { t.credit r.req with outs := modifyAt t.outs k fun o => { o with
          pieces := (o.pieces.map fun p => if p.xout = run ∧ p.pos = pos then { p with acked := true } else p).dropWhile
            fun p => p.acked && !p.again && !o.faulted } }) ∧
    (∀ dp r n, dp < 8 → r.tags.cls < 8 → d.flag (ADM_CLASS_PARAM_A_ACT.GUAR r.tags.cls) = false →
      let e := d.countTxn s.now dp r n
      e.get (XBR_CLASS_CNT0.TXNS dp r.tags.cls) =
        (d.get (XBR_CLASS_CNT0.TXNS dp r.tags.cls) + 1) % 2 ^ (XBR_CLASS_CNT0.TXNS dp r.tags.cls).w ∧
      e.get (XBR_CLASS_CNT1.BYTES dp r.tags.cls) =
        (d.get (XBR_CLASS_CNT1.BYTES dp r.tags.cls) + n) % 2 ^ (XBR_CLASS_CNT1.BYTES dp r.tags.cls).w ∧
      e.get (XBR_CLASS_CNT2.LATSUM dp r.tags.cls) =
        (d.get (XBR_CLASS_CNT2.LATSUM dp r.tags.cls) + r.age s.now) % 2 ^ (XBR_CLASS_CNT2.LATSUM dp r.tags.cls).w) ∧
    (∀ i r, d.net.reqs[i]? = some r →
      let due := d.flag (ADM_CLASS_PARAM_A_ACT.GUAR r.tags.cls) = true ∧ r.esc < 3 ∧
        (if r.esc = 0 then d.get (ADM_CLASS_PARAM_A_ACT.TARGET r.tags.cls) / 2
         else if r.esc = 1 then 3 * d.get (ADM_CLASS_PARAM_A_ACT.TARGET r.tags.cls) / 4
         else 9 * d.get (ADM_CLASS_PARAM_A_ACT.TARGET r.tags.cls) / 10) ≤ r.age s.now
      (due → Leads (.ageEscalation i) s (d.onNet fun n => { n with
        reqs := modifyAt n.reqs i fun _ => { r with esc := r.esc + 1 } })) ∧
      (¬due → Leads (.ageEscalation i) s d))

/-- Tier 2.  Streams that fault are held and resume.  A soft-fault, RETRY or BLOCKED answer holds its stream at the lowest faulted
byte (R130, R181, R198); the page's presence or gone notice, its stack's reset notice, 16 µs, the context's unblock notice or
the host's page response release it, and with its last hold it issues again from there, an acknowledged add excepted (R112,
R131, R134, R183, R184, R200, R389).  A hard fault or poison ends the tile at once (R135), 625 held ticks do after three replays
or keep it for resumption (R133, R97).
Where it rests on the model's own choices, they are those of the assumption log's entries 28, 29, 40 and 122. -/
def Obligations.HoldsEnd : Prop :=
  (∀ (i : InStream) (p : Hold → Bool) (r : Nat), i.holds ≠ [] → (∀ h ∈ i.holds, p h = true) → i.resume = some r →
    (i.release p).next = r ∧ (i.release p).holds = [] ∧ (i.release p).resume = none ∧ (i.release p).done = i.done) ∧
  (∀ (o : OutStream) (p : Hold → Bool) (x q : Nat), o.holds ≠ [] → (∀ h ∈ o.holds, p h = true) → o.resume = some (x, q) →
    (o.release p).holds = [] ∧ (o.release p).resume = none ∧ (o.release p).pieces.length = o.pieces.length ∧
    ∀ (n : Nat) (w : OutPiece), o.pieces[n]? = some w → (∀ y ∈ o.xouts, y.mode = 0) →
      ∃ w' : OutPiece, (o.release p).pieces[n]? = some w' ∧ w'.data = w.data ∧ w'.addr = w.addr ∧
        (pointLt w.xout w.pos x q = true → w' = w) ∧ (pointLt w.xout w.pos x q = false → w'.again = true ∧ w'.acked = false)) ∧
  (∀ (i : InStream) (p : Hold → Bool), (∃ h ∈ i.holds, p h = false) → (i.release p).next = i.next ∧
    (i.release p).holds ≠ [] ∧ (i.release p).resume = i.resume) ∧
  (∀ (i : InStream) (pos : Nat) (h : Hold), h ∈ (i.hold pos h).holds ∧ ∃ r, (i.hold pos h).resume = some r ∧ r ≤ pos ∧
    ∀ r', i.resume = some r' → r ≤ r') ∧
  ∀ s : State,
    let d := s.dev
    let held := fun (i : Nat) (r : Resp) (c k : Nat) (t : Tile) (pos : Nat) (h : Hold) (e : Dev) =>
      e.net.resps = dropAt d.net.resps i ∧ (e.coreAt c).tile = some { t.credit r.req with
        ins := modifyAt t.ins k fun y => { y.hold pos h with out := y.out - 1 } }
    (∀ i r c k run pos len t, d.net.resps[i]? = some r → r.req.who = .engine c true k run pos len →
      (d.coreAt c).tile = some t → (t.ins.getD k InStream.init).run = run → (t.ins.getD k InStream.init).stopped = false →
      (∀ st tok, r.status = .soft st tok → (Tbl.find (d.stack st).pend tok).isSome = true →
        Sets (.softFaultResponse i false) s (·.restall c) (held i r c k t pos (.soft st tok))) ∧
      (r.status = .retry → Sets (.softFaultResponse i false) s (·.restall c) (held i r c k t pos (.retry s.now))) ∧
      (∀ x, r.status = .blocked → Tbl.find d.hif.ctxs r.req.tags.ctx = some x → x.blocked = true →
        Sets (.blockedResponse i) s (·.restall c) (held i r c k t pos .blocked))) ∧
    (∀ i r c inb k run pos len, d.net.resps[i]? = some r → r.req.who = .engine c inb k run pos len →
      (∀ code, r.status = .hard code → Leads (.hardFaultResponse i) s ((d.onNet fun n => { n with
        resps := dropAt n.resps i }).abortTile s.now c (.hard (hardOutcome code)) code)) ∧
      (r.status = .poison → Leads (.hardFaultResponse i) s ((d.onNet fun n => { n with
        resps := dropAt n.resps i }).abortTile s.now c .poison 0x0407))) ∧
    (∀ i r, d.net.resps[i]? = some r → r.status = .fenced → Leads (.hardFaultResponse i) s (d.onNet fun n => { n with
      resps := dropAt n.resps i })) ∧
    (∀ i r, d.net.resps[i]? = some r → r.status = .ok → Leads (.softFaultResponse i false) s d ∧
      Leads (.hardFaultResponse i) s d ∧ Leads (.blockedResponse i) s d) ∧
    (∀ i st tok, (d.net.notes[i]? = some (.presence st tok) → Answers (.presenceNotice i) s fun e =>
        e.net.notes = dropAt d.net.notes i ∧ Released d e (fun _ h => h == .soft st tok)) ∧
      (d.net.notes[i]? = some (.gone st tok) → Answers (.goneNotice i) s fun e =>
        e.net.notes = dropAt d.net.notes i ∧ Released d e (fun _ h => h == .soft st tok))) ∧
    (∀ i st, d.net.notes[i]? = some (.reset st) → Answers (.resetNotice i) s fun e =>
      e.net.notes = dropAt d.net.notes i ∧ Released d e (fun _ h => match h with | .soft k _ => k == st | _ => false)) ∧
    (∀ i x, d.net.notes[i]? = some (.unblock x) → Answers (.faultUnblock i) s fun e =>
      e.net.notes = dropAt d.net.notes i ∧ Released d e (fun y h => y == x && h == .blocked)) ∧
    (∀ c k t, (d.coreAt c).tile = some t →
      let due := fun h => match h with | Hold.retry at_ => decide (at_ + 16000 ≤ s.now) | _ => false
      Sets (.retryReissue c true k) s (·.restall c) (fun e => (e.coreAt c).tile =
        some { t with ins := modifyAt t.ins k (·.release due) }) ∧
      Sets (.retryReissue c false k) s (·.restall c) (fun e => (e.coreAt c).tile =
        some { t with outs := modifyAt t.outs k (·.release due) })) ∧
    (∀ c t, (d.coreAt c).tile = some t →
      let rec0 := d.raise 0x0110 (coreUnit c) 0x05 .contained t.heldStream (some (t.own.ast, t.own.ctx))
      (t.stallTicks < 625 → Leads (.xferStallLimit c) s d) ∧
      (625 ≤ t.stallTicks → t.retained = false → t.own.replay = true → t.replays < 3 →
        Leads (.xferStallLimit c) s (rec0.abortTile s.now c .stall 0x0110)) ∧
      (625 ≤ t.stallTicks → t.retained = false → t.own.replay = false → Answers (.xferStallLimit c) s fun e =>
        (∃ b, e.ras.box = d.ras.box ++ [b] ∧ b.code = 0x0110 ∧ b.detail = t.heldStream) ∧
        (e.coreAt c).tile = some { t with retained := true } ∧
        ∀ x, Tbl.find d.hif.ctxs t.own.ctx = some x → x.state = .active →
          Tbl.find e.hif.ctxs t.own.ctx = some { x with state := .retained })) ∧
    (∀ port half page r l, (d.link (port * 2 + half.toNat)).pri = (page, r) :: l →
      let k := port * 2 + half.toNat
      Answers (.pageResponse port half true) s (fun e => (e.link k).pri = l.filter (fun p => p.1 != page) ∧
        Released d e (fun _ h => h == .host (k * 2 ^ 52 + page))) ∧
      Answers (.pageResponse port half false) s (fun e => (e.link k).pri = l.filter (fun p => p.1 != page) ∧
        (∃ b, e.ras.box = d.ras.box ++ [b] ∧ b.code = 0x070A) ∧
        e.net.faults.length = d.net.faults.length + (((page, r) :: l).filter fun p => p.1 == page).length))

/-- Tier 2.  The fault collector.  A record is written to its function's ring in the ring's next place and its request answered;
with no room it merges into a record that waits, or waits itself within its asterism's share; beyond the share its context is
FAULT_BLOCKED and its request answered BLOCKED, with one 0x030C an episode (R196 to R199).  A head write, or enabling a ring,
lets what waits drain, and unblocks with a notice (R196, R200, R202).
Where it rests on the model's own choices, they are those of the assumption log's entry 45. -/
def Obligations.FaultsAreCollected : Prop :=
  ∀ s : State,
    let d := s.dev
    ((∀ m ∈ d.net.faults, d.takes m = false) → Leads .faultRecord s d) ∧
    (∀ m l r f, d.net.faults = m :: l → m.req = some r → m.fr.ring = some f → d.discards m.fr = false →
      (∀ c, Tbl.find d.hif.ctxs m.fr.ctx = some c → c.flagNext = false) →
      ((d.fn f).room = true → (∀ x ∈ d.hif.hold, x.ring ≠ some f) → Answers .faultRecord s fun e => e.net.faults = l ∧
        Tbl.find e.hif.fr (cqKey f ((d.fn f).frTail % 2 ^ (d.fn f).frLog2n)) = some m.fr ∧
        (e.fn f).frTail = ((d.fn f).frTail + 1) % 2 ^ 32 ∧ e.net.resps = d.net.resps ++ [⟨r, m.status, 0⟩] ∧
        e.hif.hold = d.hif.hold) ∧
      ((d.fn f).room = false → (∃ x ∈ d.hif.hold, m.fr.merges x = true) → Answers .faultRecord s fun e =>
        e.net.faults = l ∧ e.hif.hold.length = d.hif.hold.length ∧ e.net.resps = d.net.resps ++ [⟨r, m.status, 0⟩] ∧
        e.hif.fr = d.hif.fr) ∧
      ((d.fn f).room = false → (∀ x ∈ d.hif.hold, m.fr.merges x = false) → canHold d.hif.hold m.fr = true →
        Answers .faultRecord s fun e => e.net.faults = l ∧ e.hif.hold = d.hif.hold ++ [{ m.fr with held := true }] ∧
          e.net.resps = d.net.resps ++ [⟨r, m.status, 0⟩] ∧ e.hif.fr = d.hif.fr) ∧
      (∀ code c, (d.fn f).room = false → (∀ x ∈ d.hif.hold, m.fr.merges x = false) → canHold d.hif.hold m.fr = false →
        m.status = .hard code → m.fr.acc ≠ 5 → m.fr.acc ≠ 6 → Tbl.find d.hif.ctxs m.fr.ctx = some c →
        Answers .faultRecord s fun e => Tbl.find e.hif.ctxs m.fr.ctx = some { c with blocked := true } ∧
          m.fr.ctx ∈ e.hif.blockedQ ∧ m.fr.ast ∈ e.hif.episodes ∧ e.hif.hold = d.hif.hold ∧
          e.net.resps = d.net.resps ++ [⟨r, .blocked, 0⟩] ∧
          (m.fr.ast ∈ d.hif.episodes → e.ras.box = d.ras.box) ∧
          (m.fr.ast ∉ d.hif.episodes → ∃ b, e.ras.box = d.ras.box ++ [b] ∧ b.code = 0x030C))) ∧
    (d.hif.hold = [] →
      let freed := fun (e : Dev) => e.hif.hold = [] ∧ e.hif.blockedQ = [] ∧ e.hif.episodes = [] ∧
        e.net.notes = d.net.notes ++ d.hif.blockedQ.map .unblock ∧
        ∀ x ∈ d.hif.blockedQ, ∀ c, Tbl.find d.hif.ctxs x = some c →
          Tbl.find e.hif.ctxs x = some { c with blocked := false, flagNext := true }
      (∀ f v, (v + 2 ^ 32 - (d.fn f).frHead) % 2 ^ 32 ≤ ((d.fn f).frTail + 2 ^ 32 - (d.fn f).frHead) % 2 ^ 32 →
        Answers (.faultHeadWrite f v) s fun e => (e.fn f).frHead = v % 2 ^ 32 ∧ freed e) ∧
      (∀ f v, Answers (.faultBaseWrite f v none) s fun e => (e.fn f).frEn = bit v.toNat 0 ∧ (e.fn f).pullRec = bit v.toNat 1 ∧
        (e.fn f).frBase = v.toNat / 64 ∧ (e.fn f).frLog2n = (d.fn f).frLog2n ∧ freed e) ∧
      (∀ f v w, Answers (.faultBaseWrite f v (some w)) s fun e => (e.fn f).frEn = bit v.toNat 0 ∧
        (e.fn f).frLog2n = bits w.toNat 0 5 ∧ (e.fn f).vector = bits w.toNat 16 11 ∧ freed e) ∧
      (∀ path v, MayWrite d path HIF_FAULTQ_SIZE.off → let h := d.get HIF_FAULTQ_SIZE.HEAD
        (v % 2 ^ 17 + 2 ^ 17 - h) % 2 ^ 17 ≤ (d.get HIF_FAULTQ_SIZE.TAIL + 2 ^ 17 - h) % 2 ^ 17 →
        Answers (.hifFaultqHeadWrite path v) s fun e => e.get HIF_FAULTQ_SIZE.HEAD = v % 2 ^ 17 ∧
          e.get HIF_FAULTQ_SIZE.TAIL = d.get HIF_FAULTQ_SIZE.TAIL ∧ freed e) ∧
      (∀ path v, MayWrite d path HIF_FAULTQ_BASE.off → bit v.toNat 0 = true →
        Answers (.hifFaultqEnable path v) s fun e => e.flag HIF_FAULTQ_BASE.EN = true ∧
          e.get HIF_FAULTQ_BASE.BASE = v.toNat / 64 ∧ freed e)) ∧
    (∀ f v r, d.hif.hold = [r] → r.ring = some f → (d.fn f).frEn = true →
      (v + 2 ^ 32 - (d.fn f).frHead) % 2 ^ 32 ≤ ((d.fn f).frTail + 2 ^ 32 - (d.fn f).frHead) % 2 ^ 32 →
      ((d.fn f).frTail + 2 ^ 32 - v % 2 ^ 32) % 2 ^ 32 < 2 ^ (d.fn f).frLog2n → Answers (.faultHeadWrite f v) s fun e =>
        Tbl.find e.hif.fr (cqKey f ((d.fn f).frTail % 2 ^ (d.fn f).frLog2n)) = some r ∧ e.hif.hold = [] ∧
        (e.fn f).frHead = v % 2 ^ 32 ∧ (e.fn f).frTail = ((d.fn f).frTail + 1) % 2 ^ 32) ∧
    (∀ f v, ((d.fn f).frTail + 2 ^ 32 - (d.fn f).frHead) % 2 ^ 32 < (v + 2 ^ 32 - (d.fn f).frHead) % 2 ^ 32 →
      Leads (.faultHeadWrite f v) s d)

/-! ### Sweeps -/

/-- Tier 2.  A sweep at work.  A stack takes at most four jobs, in order of arrival (R206); the distributor reads the query, then
grants the list's blocks in head-major order, and ends the sweep on a bad entry (R210, R215, 0x0122); a block's tokens in range
update the rows of its head and no others (R216); row maxima meet at the distributor, mm goes back, contributions are summed
(R219, R221, R248); the records are written, the summary last (R218, R222); 625 ticks of waiting void the guarantee (R225).
Where it rests on the model's own choices, they are those of the assumption log's entries 38, 39, 41 and 122. -/
def Obligations.SweepsRun : Prop :=
  (∀ (x : Line) (free : Free → Nat → Nat) (q : List (List Byte)) (h b : Nat) (blk : List Byte) (rows : List SweepRow),
    (scoreBlock x free q h b blk rows).length = rows.length ∧
    (∀ (i : Nat) (r : SweepRow), rows[i]? = some r → i / wRows x ≠ h → (scoreBlock x free q h b blk rows)[i]? = some r) ∧
    ((wLen x ≤ b * wTpb x ∨ (b + 1) * wTpb x ≤ wFirst x) → scoreBlock x free q h b blk rows = rows)) ∧
  (∀ j : SweepJob, (j.blk + 1 < wLo j.slot + wCount j.slot → j.advance.head = j.head ∧ j.advance.blk = j.blk + 1) ∧
    (wLo j.slot + wCount j.slot ≤ j.blk + 1 → j.advance.head = j.head + 1 ∧ j.advance.blk = wLo j.slot)) ∧
  ∀ (s : State) (job : Nat) (j : SweepJob), Tbl.find s.dev.sweeps job = some j →
    let d := s.dev
    (∀ st, (d.activeJobs st < 4 → d.waitsBefore job st = false → Answers (.sweepJobStart job st) s fun e =>
        Tbl.find e.sweeps job = some (j.onPart st fun p => { p with active := true }) ∧ { e with sweeps := d.sweeps } = d) ∧
      (4 ≤ d.activeJobs st ∨ d.waitsBefore job st = true → Leads (.sweepJobStart job st) s d)) ∧
    (∀ q, j.phase = .granting → wCount j.slot ≠ 0 → j.queried = false → d.readQuery (d.sweepTags j) j.slot = .inr q →
      Answers (.sweepGrant job) s fun e => Tbl.find e.sweeps job = some { j with
        query := q, queried := true, parts := j.parts.map fun p => { p with rows := blankRows j.slot } }) ∧
    (∀ bs, j.phase = .granting → wCount j.slot ≠ 0 → j.queried = true →
      d.peekBytes (d.sweepTags j) (wList j.slot + 8 * (j.head * wNblk j.slot + j.blk)) 8 = .inr bs →
      let va := ofBytes bs % 2 ^ 56
      ((ofBytes bs / 2 ^ 56 ≠ 0 ∨ va % 4096 ≠ 0) → Leads (.sweepGrant job) s ((d.raise 0x0122 (svcUnit j.home) 0 .contained
        [j.head, j.blk] (some (j.tags.ast, j.tags.ctx))).failSweep s.now job .faulted 0x0122)) ∧
      (∀ r p, ofBytes bs / 2 ^ 56 = 0 → va % 4096 = 0 → (d.mapOf j.tags.ast (d.epochAt j.home)).bind (·.route va) = some r →
        j.part (chanStack r.l) = some p → p.active = true → p.queue.length < 1024 → p.heldBlocks < 65536 →
        (Tbl.find d.pwr.sweepLeave (chanStack r.l)).isSome = true → j.advance.head < wHeads j.slot →
        Answers (.sweepGrant job) s fun e => Tbl.find e.sweeps job = some ((j.onPart (chanStack r.l) fun p => { p with
          queue := p.queue ++ [⟨j.head, j.blk, va, d.epochAt j.home, none⟩] }).advance))) ∧
    (∀ st p g l w x k y o d' xs, j.part st = some p → p.active = true → j.queried = true → (d.stack st).ingress = true →
      (p.stream.find? p.staged) = none → takeFirst (Grant.ready s.now) p.aside = none → p.heldBlocks < 65536 →
      p.queue = g :: l →
      let d1 := d.onPart job st fun p => { p with queue := l }
      let d2 := d1.wrap (TRN_HITS.HITS st) 1
      let r := d1.sweepReq s.now job j (.sweep job st) .sweepRead g.epoch g.va
      (d.mapOf j.tags.ast g.epoch).bind (·.route g.va) = some w → chanStack w.l = st → d1.atSlot w.l r = .inl x →
      entryAt (d.stack st).cache j.tags.ast g.va = some (k, y) →
      d2.entryVerdict r.tags .sweepRead x.l g.va x (some y) = .serve x.l o → x.l = w.l → d2.compatBad j.slot y = false →
      Dev.readBlock s.now x.l o r.tags.access 64 0 d2 = (d', .inr xs) →
      Sets (.sweepBlock job st) s (·.sendMaxima job) fun e => ∃ n j' p', Tbl.find e.sweeps job = some j' ∧
        j'.part st = some p' ∧ p'.queue = l ∧ p'.blocks = p.blocks + 1 ∧
        p'.rows = scoreBlock j.slot (fun k i => Config.free k n i) j.query g.head g.blk (lineBytes xs) p.rows) ∧
    (∀ i st, d.net.notes[i]? = some (.maxima job st) → j.phase = .merging → (d.dropNote i).allMaxima job j = true →
      let dps := (j.parts.map fun p => stackDp p.stack).dedup
      (dps.length ≤ 2 → (Tbl.look [] d.net.merges j.home).length < 2 → Answers (.sweepMaxima i) s fun e =>
        (∃ j', Tbl.find e.sweeps job = some j' ∧ j'.mm = j.maxima ∧ j'.sums.length = wEntries j.slot ∧ j'.parts = j.parts) ∧
        e.net.notes = dropAt d.net.notes i ++ j.parts.map (fun p => .mm job p.stack) ∧
        Tbl.look [] e.net.merges j.home = Tbl.look [] d.net.merges j.home ++ [job]) ∧
      (dps.length ≤ 2 → 2 ≤ (Tbl.look [] d.net.merges j.home).length → Answers (.sweepMaxima i) s fun e =>
        Tbl.look [] e.net.mergeWait j.home = Tbl.look [] d.net.mergeWait j.home ++ [job] ∧ e.sweeps = d.sweeps) ∧
      (2 < dps.length → Answers (.sweepMaxima i) s fun e => Tbl.find e.sweeps job = some { j with split := true, phase := .writing } ∧
        ∃ b, e.ras.box = d.ras.box ++ [b] ∧ b.code = 0x0123)) ∧
    (∀ i st p, d.net.notes[i]? = some (.mm job st) → j.part st = some p → Answers (.sweepMm i) s fun e =>
      (∃ n j' p', Tbl.find e.sweeps job = some j' ∧ j'.part st = some p' ∧ p'.gotMm = true ∧ p'.blocks = p.blocks ∧
        p'.rows = p.rows.zipIdx.map fun (r, k) => SweepRow.scaleBy (Config.free .ulpError n k) (j.mm.getD k 0) r) ∧
      e.net.notes = dropAt d.net.notes i ++ [.merge job st]) ∧
    (∀ i st p, d.net.notes[i]? = some (.merge job st) → j.part st = some p →
      let k := { j with merged := j.merged ++ [st], sums := addRows j.sums p.rows }
      (k.merged.length < j.parts.length → Answers (.mergeContribution i) s fun e => Tbl.find e.sweeps job = some k ∧
        e.net.notes = dropAt d.net.notes i ∧ SameMemory d e) ∧
      (∀ d', j.parts.length ≤ k.merged.length →
        let total := fun (f : SweepPart → Nat) => j.parts.foldl (fun n p => n + f p) 0
        let bs := sweepRecord 0xFF d.comp.epoch (total (·.blocks)) (total (·.poolBlk)) (total (·.faults))
          (List.zipWith (fun (r : SweepRow) (mm : Nat) => { r with m := mm }) k.sums j.mm)
        Dev.storeBytes s.now (d.sweepTags k) (wSlice j.slot) (bs.length / 64 + 2) (recordVa j.slot 0) bs d = .ok d' →
        Leads (.mergeContribution i) s
          (((d'.dropNote i).onSweep job fun _ => { k with phase := .writing }).freeEntries job j.home))) ∧
    (∀ d1 d2, j.phase = .writing → j.parts.all (·.idle) = true →
      let bs := if wMerge j.slot && !j.split then [] else j.records d.comp.epoch
      Dev.storeBytes s.now (d.sweepTags j) (wSlice j.slot) (bs.length / 64 + 2) (recordVa j.slot 0) bs d = .ok d1 →
      Dev.storeBytes s.now (d1.sweepTags j) (wSlice j.slot) ((sweepSummary j).length / 64 + 2) (wDest j.slot)
        (sweepSummary j) d1 = .ok d2 →
      Leads (.sweepRecordWritten job) s (((d2.dropSweep job).finish s.now job .completed).after s.now)) ∧
    (j.phase ≠ .writing → Leads (.sweepRecordWritten job) s d) ∧
    ((j.stallTicks < 625 ∨ j.voided = true) → Leads (.sweepStallLimit job) s d) ∧
    (625 ≤ j.stallTicks → j.voided = false → Sets (.sweepStallLimit job) s (·.voidNow job .faultStall) fun e =>
      Tbl.find e.sweeps job = some { j with voided := true } ∧ ∃ b, e.ras.box = d.ras.box ++ [b] ∧ b.code = 0x0121)

/-! ### CXL: pools, windows, links and partners -/

/-- Tier 2.  The pool client and the host windows.  A pool request that has no answer after 50 ms, or fails, is recorded, 0x0705, and
counted against its partner, which is SUSPECT then (R400); pulled data is written under the page's own tags, and its unit is
no longer awaited (R182, R399).  A host's read or write goes through the decoder bound to its function to pages that allow hosts
(R178, R385, R386), and a closed window takes nothing; a back-invalidation answered, or late by 10 ms, leaves the filter (R387).
A decoder is bound where no TDI is locked (R385, 0x0709, 0x070B).
Where it rests on the model's own choices, they are those of the assumption log's entries 40, 64 and 66. -/
def Obligations.PoolsAndWindows : Prop :=
  ∀ s : State,
    let d := s.dev
    (∀ i, d.poolAt i = none → Leads (.poolTimeout i) s d ∧ ∀ ok x, Leads (.poolCompletion i ok x) s d) ∧
    (∀ i r, d.poolAt i = some r →
      let p := d.partner (poolEntry r.pidx)
      (s.now < r.at_.getD 0 + 50000000 → Leads (.poolTimeout i) s d) ∧
      (r.at_.getD 0 + 50000000 ≤ s.now → Leads (.poolTimeout i) s ((d.poolFail s.now i r true).poolNextAll s.now)) ∧
      (∀ x, Leads (.poolCompletion i false x) s ((d.poolFail s.now i r false).poolNextAll s.now)) ∧
      (∀ t tok u, r.why = .pull tok u → p.timeouts < 3 →
        let e := d.poolFail s.now i r t
        e.partner (poolEntry r.pidx) = { p with
          fails := satAdd 16 p.fails 1, timeouts := if t then p.timeouts + 1 else 0
          state := if p.live then .suspect else p.state, failAt := if p.live then s.now else p.failAt } ∧
        (∃ b ∈ e.ras.box, b.code = 0x0705) ∧ Tbl.find (e.stack r.stack).pend tok = none) ∧
      (∀ x tok u en l off, r.why = .pull tok u → d.unitGrans r.stack tok u = some (en, l, off) →
        d.trackedIn r.stack (granKey (d.physChan l) (granOf off)) (granKey (d.physChan l) (granOf off) + 4) = false →
        Sets (.poolCompletion i true x) s (·.poolNextAll s.now) fun e => e.cxl.pool = dropAt d.cxl.pool i ∧
          e.partner (poolEntry r.pidx) = { p with timeouts := 0 } ∧
          (e.stack r.stack).pend = Tbl.adj (d.stack r.stack).pend tok (fun p => { p with
            pull := p.pull.map fun l => l.filter (· != u) }) ∧
          ∃ d' : Dev, e.mem = (((List.range 4).map fun k => x.getD k 0).zipIdx.foldl (fun (d : Dev) y =>
            (d.writeGran s.now l (off + 64 * y.2) (.tagged en.ast en.dom en.ctx) y.1).1) d').mem ∧ d'.mem = d.mem ∧
              d'.stk = d.stk ∧ d'.regs = d.regs)) ∧
    (∀ fn at_ own x m ecc, d.windowVa fn at_ = none → Leads (.hostWindowRead fn at_ own ecc) s d ∧
      Leads (.hostWindowWrite fn at_ x m ecc) s d) ∧
    (∀ fn at_ own a va ecc, d.windowVa fn at_ = some (a, va) →
      d.windowOpen (d.windowReq s.now fn a (va / 64 * 64) .read 0 0) = true →
      (d.fn fn).ast = some a ∧ Answers (.hostWindowRead fn at_ own ecc) s fun e =>
        ∃ p x, e.cxl.answers = (fn, p, x) :: d.cxl.answers ∧ (p = true → x = 0) ∧ (p = false → ∃ w k y,
          d.slotOk (d.windowReq s.now fn a (va / 64 * 64) .read 0 0).tags w.l (va / 64 * 64) = some w ∧
          (Tbl.find (d.stack (chanStack w.l)).cache k = some y ∨ Tbl.find (d.stack (chanStack w.l)).table k = some y) ∧
          y.ast = a ∧ y.dom = d.domOf a ∧ y.rd = true ∧ y.hw = true ∧ y.p = true)) ∧
    (∀ fn at_ a va x m ecc, d.windowVa fn at_ = some (a, va) →
      let r := d.windowReq s.now fn a (va / 64 * 64) (writeAcc 0 (m % 2 ^ 64)) x (m % 2 ^ 64)
      d.windowOpen r = true → Leads (.hostWindowWrite fn at_ x m ecc) s (d.windowServe s.now r false ecc).1 ∧
        (d.windowServe s.now r false ecc).1.cxl.answers = d.cxl.answers) ∧
    (∀ i b, d.cxl.bi[i]? = some b → Sets (.biResponse i) s (fun e => (e.serveWaiting s.now b.stack).detachGoOn s.now) fun e =>
      e.cxl.bi = dropAt d.cxl.bi i ∧ (e.stack b.stack).biFilter = (d.stack b.stack).biFilter.filter (fun y =>
        !(y.1 == b.gran && y.2 == b.fn)) ∧ ∀ k, k ≠ b.stack → e.stack k = d.stack k) ∧
    (∀ i b, d.cxl.bi[i]? = some b → (s.now < b.at_ + 10000000 → Leads (.biTimeout i) s d) ∧
      (b.at_ + 10000000 ≤ s.now → Leads (.biTimeout i) s (d.biLate s.now i b))) ∧
    (∀ path p n (v : Word), p < 4 → n < 32 → MayWrite d path (CXP_HDM_MAP.off p n) →
      let vf := bits v.toNat 0 7
      let half := bits v.toNat 7 1
      let free := fun (vf half : Nat) => (d.fn (fnOf p (half == 1) vf)).tdi ≠ .locked ∧ (d.fn (fnOf p (half == 1) vf)).tdi ≠ .run
      (free vf half → free (d.get (CXP_HDM_MAP.VF p n)) (d.get (CXP_HDM_MAP.HALF p n)) → vf ≤ 64 →
        (vf = 0 ∨ ∃ k < 32, d.get (CXP_HDM_MAP.VF p k) = 0) → Answers (.cxpHdmMapWrite path p n v) s fun e =>
          e.get (CXP_HDM_MAP.VF p n) = vf ∧ e.get (CXP_HDM_MAP.HALF p n) = half ∧
          ∀ k < 32, k ≠ n → e.get (CXP_HDM_MAP.VF p k) = d.get (CXP_HDM_MAP.VF p k)) ∧
      (vf ≠ 0 → ¬free vf half → Answers (.cxpHdmMapWrite path p n v) s fun e =>
        (∃ b, e.ras.box = d.ras.box ++ [b] ∧ b.code = 0x070B) ∧ e.regs = d.regs))

/-- Tier 2.  Links.  A link goes DOWN with its keys, credits and translations, and its partners become SUSPECT (R391, R394, R482);
a lost lane degrades an unsplit port to x8 and takes an x8 link DOWN (R382, Table 12-1); training sets width and rate; L0p
narrows to a width that covers the guaranteed credits and widens again (R390); an invalidated translation is dropped once no
request uses it (R389).
Where it rests on the model's own choices, they are those of the assumption log's entries 65 and 67. -/
def Obligations.LinksChange : Prop :=
  ∀ (s : State) (port : Nat) (half : Bool), port < 4 →
    let k := linkNo port half
    let w := s.dev.wakePkg 5
    (∀ now cause, (w.link k).state ≠ 0 → Leads (.cxlLinkDown port half) s (w.linkDown s.now k 0) ∧
      ∃ e : Dev, w.linkDown now k cause = e.shedLink k ∧ (e.link k).state = 0 ∧ (e.link k).ideKeys = false ∧ (e.link k).atc = [] ∧
        (e.link k).downAt = now ∧ (∃ b, e.ras.box = w.ras.box ++ [b] ∧ b.code = 0x0701) ∧
        (∀ x p, Tbl.find w.cxl.partners x = some p → p.port < 4 → p.link = k → p.state = .live →
          (e.partner x).state = .suspect ∧ (e.partner x).failAt = now)) ∧
    ((w.link k).state = 0 → Leads (.cxlLinkDown port half) s w) ∧
    (∀ lane, lane < 16 → w.flag (CXP_CTRL.SPLIT port) = false → half = false →
      ((w.link k).state = 1 → Sets (.cxlLaneLost port lane) s (·.shedLink k) fun e => (e.link k).state = 2 ∧
        (e.link k).width = 8 ∧ (e.link k).lanes = 8 ∧ bit (e.get (CXP_STATUS.LOST port)) lane = true ∧
        ∃ b, e.ras.box = w.ras.box ++ [b] ∧ b.code = 0x0702 ∧ b.detail = [lane]) ∧
      ((w.link k).state = 2 → Leads (.cxlLaneLost port lane) s (((w.set (CXP_STATUS.LOST port)
        (w.get (CXP_STATUS.LOST port) ||| 2 ^ lane)).almEntry (unitId 5 port) 0x0702).linkDown s.now k 1)) ∧
      ((w.link k).state = 0 → Leads (.cxlLaneLost port lane) s w)) ∧
    (∀ width rate, w.flag MGT_LOCKDOWN.LOCK = true → w.trains port width rate = true → w.mod.perst.getD port false = true →
      (half = true → w.flag (CXP_CTRL.SPLIT port) = true) → Sets (.linkTrained port half width rate) s (·.shedLink k) fun e =>
        (e.link k).state = (if width = 8 ∧ w.flag (CXP_CTRL.SPLIT port) = false then 2 else 1) ∧ (e.link k).width = width ∧
        (e.link k).lanes = width ∧ (e.link k).rate = rate ∧ (e.link k).l0p = false ∧ e.flag (CXP_STATUS.READY port) = true ∧
        (rate < w.get (CXP_CTRL.MAXRATE port) → ∃ b, e.ras.box = w.ras.box ++ [b] ∧ b.code = 0x0703) ∧
        (rate = w.get (CXP_CTRL.MAXRATE port) → e.ras.box = w.ras.box)) ∧
    (∀ width rate, w.flag MGT_LOCKDOWN.LOCK = false → Leads (.linkTrained port half width rate) s w) ∧
    ((s.dev.link (linkNo port false)).state = 0 → (s.dev.link (linkNo port true)).state = 0 →
      Answers (.refclkLost port) s fun e => (e.link (linkNo port false)).refclk = false ∧
        (e.link (linkNo port true)).refclk = false ∧ e.ras = s.dev.ras) ∧
    ((s.dev.link (linkNo port false)).state ≠ 0 → Leads (.refclkLost port) s
      ((((s.dev.onLink (linkNo port false) fun l => { l with refclk := false }).linkDown s.now (linkNo port false) 2).onLink
        (linkNo port true) fun l => { l with refclk := false }).linkDown s.now (linkNo port true) 2)) ∧
    (∀ n, s.dev.flag (CXP_CTRL.L0P_EN port) = true → (s.dev.link k).l0p = false → (s.dev.link k).state ≠ 0 →
      s.dev.narrowest k = some n → Answers (.l0pNarrow port half) s fun e => (e.link k).lanes = n ∧ (e.link k).l0p = true ∧
        n < (e.link k).width ∧ 64 * s.dev.linkGuar k ≤ laneRate (e.link k).rate n ∧ (∀ j, j ≠ k → e.link j = s.dev.link j)) ∧
    (s.dev.flag (CXP_CTRL.L0P_EN port) = false → Leads (.l0pNarrow port half) s s.dev) ∧
    (Answers (.l0pWiden port half) s fun e => e.link k = { s.dev.link k with l0p := false, lanes := (s.dev.link k).width } ∧
      ∀ j, j ≠ k → e.link j = s.dev.link j) ∧
    (∀ n, (s.dev.link k).state ≠ 0 → (s.dev.narrowOk k n = true → Answers (.l0pHostRequest port half n) s fun e =>
        (e.link k).lanes = n ∧ (e.link k).l0p = true) ∧
      (s.dev.narrowOk k n = false → Leads (.l0pHostRequest port half n) s s.dev)) ∧
    (∀ page, ((∀ r ∈ s.dev.net.reqs, ∀ a, r.dest = .host k a → a / 4096 ≠ page) → Answers (.atsInvalidation port half page) s
        fun e => (e.link k).atc = (s.dev.link k).atc.filter (· != page)) ∧
      ((∃ r ∈ s.dev.net.reqs, ∃ a, r.dest = .host k a ∧ a / 4096 = page) → Leads (.atsInvalidation port half page) s s.dev))

/-- Tier 2.  Partners.  An entry is added LIVE with the next generation, by PARTNER_SET or for a host that is inserted; one in use
answers 0x070C (R393, R394, Table 12-5).  A SUSPECT entry is LIVE again after 1 s or by CLEAR, and LOST after 100 ms on a DOWN
link, by LOST or by removal (Table 12-6); PARTNER_GET answers the entries' words, IDENTIFY MGT_ID; a notice that is acknowledged
is held no longer (R395, R396).
Where it rests on the model's own choices, they are those of the assumption log's entries 68, 69 and 86. -/
def Obligations.PartnersLive : Prop :=
  ∀ (s : State) (x : Nat),
    let d := s.dev.wakePkg 3
    let p := d.freePartners.partner x
    let said := fun (e : Dev) => e.fw.answer = some (0xC001, [(e.partner x).words.1, (e.partner x).words.2])
    (∀ w0 w1, x < 48 → (32 ≤ x → bits w0 2 2 ≠ 3) →
      (p.state = .free → Answers (.partnerSetAdd x w0 w1) s fun e => e.partner x = p.add x w0 w1 ∧
        (e.partner x).state = .live ∧ (e.partner x).gen = (p.gen + 1) % 16 ∧ said e ∧ e.ras = d.ras) ∧
      (p.state ≠ .free → Answers (.partnerSetAdd x w0 w1) s fun e => e.partner x = p ∧
        e.fw.answer = some (0xC001, [0x070C]) ∧ ∃ b, e.ras.box = d.ras.box ++ [b] ∧ b.code = 0x070C ∧ b.detail = [x])) ∧
    (x < 48 → Sets (.partnerSetLost x) s (·.partnerReply x) (fun e => e = d.partnerLost s.now x 2) ∧
      Answers (.partnerSetClear x) s fun e => said e ∧ e.partner x =
        if (d.partner x).state = .suspect then { d.partner x with state := .live, timeouts := 0 } else d.partner x) ∧
    (48 ≤ x → Leads (.partnerSetLost x) s s.dev ∧ Leads (.partnerSetClear x) s s.dev ∧
      ∀ w0 w1, Leads (.partnerSetAdd x w0 w1) s s.dev) ∧
    (∀ q, q = s.dev.partner x →
      (q.state = .suspect → q.failAt + 1000000000 ≤ s.now → Answers (.partnerRecover x) s fun e =>
        e.partner x = { q with state := .live, timeouts := 0 } ∧ ∀ y, y ≠ x → e.partner y = s.dev.partner y) ∧
      ((q.state ≠ .suspect ∨ s.now < q.failAt + 1000000000) → Answers (.partnerRecover x) s fun e =>
        ∀ y, e.partner y = s.dev.partner y) ∧
      (q.state = .suspect → (s.dev.link q.link).state = 0 → (s.dev.link q.link).downAt + 100000000 ≤ s.now →
        q.failAt + 100000000 ≤ s.now → Leads (.partnerSuspectTimeout x) s (s.dev.partnerLost s.now x 3)) ∧
      (q.state ≠ .suspect → Leads (.partnerSuspectTimeout x) s s.dev)) ∧
    (x < 32 →
      let q := s.dev.wakePkg 5
      (∀ port half pid, (q.freePartners.partner x).state = .free → Answers (.hotInsertion x port half pid) s fun e =>
        (e.partner x).state = .live ∧ (e.partner x).port = port % 4 ∧ (e.partner x).half = half ∧
        (e.partner x).pid = pid % 2 ^ 12 ∧ (e.partner x).kind = 0 ∧ e.ras = q.ras) ∧
      Leads (.hostRemoved x) s (q.hostLost s.now x)) ∧
    (∀ now cause, (d.partner x).live = true → 32 ≤ x → x < 48 → d.stk = [] → d.sweeps = [] → d.cxl.pool = [] →
      ((d.poolLost now x cause).partner x).state = .lost ∧ ∀ o b, Tbl.find d.hif.objs o = some b → b.poolb = true →
        b.pidx = x - 32 → b.state = .live →
        Tbl.find (d.poolLost now x cause).hif.objs o = some { b with state := .lost }) ∧
    (Answers (.partnerGet x 1) s fun e => e.fw.answer = some (0xC002, if x < 48 then [(d.partner x).words.1, (d.partner x).words.2]
      else []) ∧ e.cxl = d.cxl) ∧
    (Answers .identify s fun e => e.fw.answer = some (0, [mgtIdWord])) ∧
    (Answers (.noticeAck x) s fun e => e.ras.notices = d.ras.notices.filter (fun n => n.seq != x) ∧
      { e with ras := d.ras } = d)

/-! ### Interconnect -/

/-- Tier 2.  Slices, bridges, reduction, rings.  A slice serves the oldest request for a granule: it stores, merges, adds or counts,
answers poison for poisoned data, and a slice not bound to the asterism is a hard fault (R233 to R237).  A failing lane takes a
spare, then costs a lane, then the bridge; a second bridge DOWN is fatal (R238 to R243).  Adds of one granule combine at a
crossbar in full, an entry goes onward after 1 µs, and its acknowledgement is each contributor's (R244 to R247).  A broken ring
link degrades; one that cuts off a base die resets the package (R254, R255).
Where it rests on the model's own choices, they are those of the assumption log's entries 34, 49, 50 and 106. -/
def Obligations.InterconnectServes : Prop :=
  (∀ (m1 m2 : Nat) (x1 x2 : Line) (i : Nat), i < 16 → fld (sumAdds m1 x1 m2 x2) (4 * i) 0 32 =
    if bit m1 (4 * i) then
      (if bit m2 (4 * i) then addF32 (fld x1 (4 * i) 0 32) (fld x2 (4 * i) 0 32) % 2 ^ 32 else fld x1 (4 * i) 0 32)
    else fld x2 (4 * i) 0 32) ∧
  (∀ k < 8, ringCut [k] = none) ∧ ringCut [0, 1] = some 1 ∧
  ∀ s : State,
    let d := s.dev
    (∀ i r k g ecc, d.net.reqs[i]? = some r → r.dest = .slice k g → d.sliceFirst i k g = true → r.hop = none →
      let key := sliceKey k g
      let old := d.sgran key
      let stores := fun (x : Line) (y : Line) => Answers (.sliceAccess i ecc) s fun e => e.sgran key = ⟨x, false⟩ ∧
        (∀ j, j ≠ key → e.sgran j = d.sgran j) ∧ e.net.reqs = dropAt d.net.reqs i ∧ e.net.resps = d.net.resps ++ [⟨r, .ok, y⟩]
      (d.sliceBound r.tags k = false → Leads (.sliceAccess i ecc) s ((d.dropReq i).hardFault r 0x0306 (svcUnit (sliceDp k)))) ∧
      (d.sliceBound r.tags k = true → (r.acc = .write → stores r.data 0) ∧
        (ecc = .clean → old.poison = false → (r.acc = .read → stores old.data old.data) ∧
          (r.acc = .masked → stores (mergeBytes r.mask old.data r.data) 0) ∧
          (r.acc = .add → stores (addElems r.mask old.data r.data) 0) ∧
          (r.acc = .fetchAdd → stores (bumpWord (r.va % 64) old.data) old.data)) ∧
        (r.acc ≠ .write → old.poison = false → ecc = .uncorrectable → Answers (.sliceAccess i ecc) s fun e =>
          e.sgran key = { old with poison := true } ∧ e.net.resps = d.net.resps ++ [⟨r, .poison, 0⟩] ∧
          ∃ b, e.ras.box = d.ras.box ++ [b] ∧ b.code = 0x0407 ∧ b.detail = [g]) ∧
        (r.acc ≠ .write → old.poison = true → ecc ≠ .corrected → Answers (.sliceAccess i ecc) s fun e =>
          (∀ j, e.sgran j = d.sgran j) ∧ e.net.resps = d.net.resps ++ [⟨r, .poison, 0⟩]))) ∧
    (∀ k, sliceNo k ∈ d.comp.scrubbing → Answers (.sliceScrub k) s fun e =>
      (∀ g < 2 ^ 16, e.sgran (sliceKey k g) = SliceGran.zero) ∧ e.mem = d.mem ∧
      ∀ j, j ≠ k → ∀ g < 2 ^ 16, e.sgran (sliceKey j g) = d.sgran (sliceKey j g)) ∧
    (∀ b, Answers (.flitReplay b true) s fun e =>
        e.bridge b = { d.bridge b with retriesUp := ((d.bridge b).retriesUp + 1) % 2 ^ 32 } ∧ ∀ j, j ≠ b → e.bridge j = d.bridge j) ∧
    (∀ b, Answers (.flitReplay b false) s fun e =>
        e.bridge b = { d.bridge b with retriesDn := ((d.bridge b).retriesDn + 1) % 2 ^ 32 } ∧ ∀ j, j ≠ b → e.bridge j = d.bridge j) ∧
    (∀ b lane, (d.bridge b).down = false →
      let x := d.bridge b
      (x.sparesUp < 2 → Answers (.bridgeLaneSpared b true lane) s fun e =>
        e.bridge b = { x with sparesUp := x.sparesUp + 1 } ∧ ∃ r l, e.ras.box = d.ras.box ++ r :: l ∧ r.code = 0x0401) ∧
      (x.sparesDn < 2 → Answers (.bridgeLaneSpared b false lane) s fun e =>
        e.bridge b = { x with sparesDn := x.sparesDn + 1 } ∧ ∃ r l, e.ras.box = d.ras.box ++ r :: l ∧ r.code = 0x0401) ∧
      (2 ≤ x.sparesUp → 16 < x.lanesUp → Answers (.bridgeLaneSpared b true lane) s fun e =>
        e.bridge b = { x with lanesUp := x.lanesUp - 1 } ∧ (∃ r, e.ras.box = d.ras.box ++ [r] ∧ r.code = 0x0402) ∧
        e.net.notes = d.net.notes ++ diePairs.map (.bridgeRate b ·)) ∧
      (2 ≤ x.sparesUp → x.lanesUp ≤ 16 → Answers (.bridgeLaneSpared b true lane) s fun e => (e.bridge b).down = true) ∧
      ((∀ k < 10, k ≠ b → (d.bridge k).down = false) → Answers (.bridgeDown b) s fun e => e.bridge b = { x with down := true } ∧
        (∃ r, e.ras.box = d.ras.box ++ [r] ∧ r.code = 0x0403 ∧ r.sev = Sev.degraded.code) ∧
        e.net.notes = d.net.notes ++ diePairs.map (.bridgeRate b ·) ∧ e.ras.resets = d.ras.resets) ∧
      (∀ k, k < 10 → k ≠ b → (d.bridge k).down = true → d.ras.resets = [] → Answers (.bridgeDown b) s fun e =>
        (e.bridge b).down = true ∧ (∃ r ∈ e.ras.box, r.code = 0x0404 ∧ r.sev = Sev.fatal.code) ∧
        ∃ r, e.ras.resets = [r] ∧ r.level = 5)) ∧
    (∀ b, (d.bridge b).down = true → Leads (.bridgeDown b) s d ∧ ∀ up lane, Leads (.bridgeLaneSpared b up lane) s d) ∧
    (∀ i r dp, d.net.reqs[i]? = some r →
      let meets := fun (y : RedEntry) => !y.sent && y.req.sameStore r && decide (y.parts.length < 64)
      (r.hop ≠ some dp → Leads (.reductionAdd i dp) s d) ∧
      (r.hop = some dp → (d.narrow r.tags.ast r.tags.epoch = false ∨
          ((d.redOf dp).find? meets = none ∧ 4096 ≤ (d.redOf dp).length)) →
        Answers (.reductionAdd i dp) s fun e => e.net.reqs = modifyAt d.net.reqs i (fun _ => { r with hop := d.hopAfter r dp }) ∧
          e.redOf dp = d.redOf dp) ∧
      (∀ y, r.hop = some dp → d.narrow r.tags.ast r.tags.epoch = true → (d.redOf dp).find? meets = some y →
        Answers (.reductionAdd i dp) s fun e => e.net.reqs = dropAt d.net.reqs i ∧ e.redOf dp = (d.redOf dp).map (fun x =>
          if x.id = y.id then { x with req := x.req.plus r, parts := x.parts ++ [r] } else x)) ∧
      (r.hop = some dp → d.narrow r.tags.ast r.tags.epoch = true → (d.redOf dp).find? meets = none →
        (d.redOf dp).length < 3584 → Answers (.reductionAdd i dp) s fun e => e.net.reqs = dropAt d.net.reqs i ∧
          e.redOf dp = d.redOf dp ++ [{ id := d.net.redId, req := r, parts := [r], at_ := s.now, sent := false }])) ∧
    (∀ dp y, y ∈ d.redOf dp → ((d.redOf dp).find? fun x => x.id == y.id && !x.sent) = some y →
      (y.at_ + 1000 ≤ s.now → Answers (.reductionFlush dp y.id) s fun e =>
        e.net.reqs = d.net.reqs ++ [{ y.req with who := .reducer dp y.id, hop := d.hopAfter y.req dp }] ∧
        e.redOf dp = (d.redOf dp).map (fun x => if x.id = y.id then { x with sent := true } else x)) ∧
      ((∀ x ∈ d.redOf dp, x.id = y.id → s.now < x.at_ + 1000) → Leads (.reductionFlush dp y.id) s d)) ∧
    (∀ dp i y, ((d.redOf dp).find? fun x => x.id == y.id) = some y →
      indexWhere (fun r : Resp => r.req.who == .reducer dp y.id && r.status == .ok) d.net.resps = some i →
      Answers (.reductionAck dp y.id) s fun e => e.net.resps = dropAt d.net.resps i ++ y.parts.map (fun r => ⟨r, .ok, 0⟩) ∧
        e.redOf dp = (d.redOf dp).filter fun x => x.id != y.id) ∧
    (∀ net link, (net, link) ∉ d.net.broken →
      let cut := ringCut (((d.net.broken ++ [(net, link)]).filter fun x => x.1 == net).map (·.2))
      Answers (.maintLinkDown net link) s fun e => e.net.broken = d.net.broken ++ [(net, link)] ∧
        (∃ b, e.ras.box = d.ras.box ++ [b] ∧ b.code = 0x0408 ∧ b.detail = [net, link] ∧
          b.sev = if cut.isSome then Sev.fatal.code else Sev.degraded.code) ∧
        (cut = none → e.ras.resets = d.ras.resets) ∧
        (cut.isSome = true → d.ras.resets = [] → ∃ r, e.ras.resets = [r] ∧ r.level = 5))

/-- Tier 2.  Barriers and flags.  Each arrival is counted; a group ready is granted its leave whole and its waves are planned: no
wave starts more cores of a die pair than its share, and together they start each once (R326, R429); a wave's release goes out
no sooner than Δ after the one before, is acted on once and acknowledged each time, is sent again after 2 µs, and after three
tries 0x0409 resets the die pair's service (R249 to R251).  A flag notice wakes the WAITs whose condition holds (R252).
Where it rests on the model's own choices, they are those of the assumption log's entry 51. -/
def Obligations.BarriersRelease : Prop :=
  (∀ (counts per : List Nat) (k : Nat), counts.length = per.length → (∀ p ∈ per, 0 < p) → k < counts.length →
    (∀ w ∈ wavePlan counts per, w.getD k 0 ≤ per.getD k 0) ∧
    (wavePlan counts per).foldl (fun n w => n + w.getD k 0) 0 = counts.getD k 0) ∧
  ∀ s : State,
    let d := s.dev
    (∀ i id dp b, d.net.notes[i]? = some (.arrival id dp) → d.barrier id = some b → Answers (.barrierArrival i) s fun e =>
      e.net.notes = dropAt d.net.notes i ∧ e.barrier id = some { b with waitArr := b.waitArr.filter (· != dp) }) ∧
    (∀ id b, d.barrier id = some b →
      let groups := diePairs.map fun dp => d.groupOn b dp
      let sum := groups.foldl (fun n l => n + l.foldl (· + ·) 0) 0
      let book := ((d.groupCmds id).head?).bind fun m => d.openBooking m.ctx sum
      ((b.planned = true ∨ b.ready = false) → Leads (.wavePlan id) s d) ∧
      (b.planned = false → b.ready = true → groups.all (·.isEmpty) = true → Leads (.wavePlan id) s (d.barrierOver s.now b)) ∧
      (b.planned = false → b.ready = true → groups.all (·.isEmpty) = false →
        (sum = 0 ∨ ((book.isSome = true ∨ d.capTest sum = true) ∧ d.bufferTest sum = true)) →
        Answers (.wavePlan id) s fun e => (∃ x, e.barrier id = some x ∧ x.planned = true ∧
          x.waves = wavePlan (groups.map (·.length)) (groups.map d.perWave) ∧ x.delta = d.get PWR_WAVE.DELTA * 100 ∧
          x.sent = b.sent ∧ x.cmd = b.cmd) ∧ e.hif = d.hif ∧ e.core = d.core) ∧
      (b.planned = false → b.ready = true → groups.all (·.isEmpty) = false → sum ≠ 0 →
        (d.bufferTest sum = false ∨ (book = none ∧ d.capTest sum = false)) → Leads (.wavePlan id) s d) ∧
      let dps := diePairs.filter fun dp => decide (0 < (b.waves.getD b.sent []).getD dp 0)
      (b.planned = true → b.sent < b.waves.length → (b.sent = 0 ∨ b.lastAt + b.delta ≤ s.now) →
        Answers (.barrierRelease id) s fun e => e.net.notes = d.net.notes ++ dps.map (.release id b.sent ·) ∧
          e.barrier id = some { b with sent := b.sent + 1, lastAt := s.now, unacked := b.unacked ++ dps.map fun dp =>
            ⟨b.sent, dp, s.now, 1⟩ }) ∧
      ((b.planned = false ∨ b.waves.length ≤ b.sent ∨ (0 < b.sent ∧ s.now < b.lastAt + b.delta)) →
        Leads (.barrierRelease id) s d) ∧
      (∀ i w dp, d.net.notes[i]? = some (.release id w dp) →
        ((id, w, dp) ∈ d.net.acted → Answers (.releaseMessage i) s fun e =>
          e.net.notes = dropAt d.net.notes i ++ [.releaseAck id w dp] ∧ e.net.wave = d.net.wave) ∧
        ((id, w, dp) ∉ d.net.acted → (∀ x ∈ d.net.wave, ¬(x.1 = id ∧ x.2.1 = dp)) → Answers (.releaseMessage i) s fun e =>
          e.net.notes = dropAt d.net.notes i ++ [.releaseAck id w dp] ∧ (id, w, dp) ∈ e.net.acted ∧
          e.net.wave = d.net.wave ++ [(id, dp, (b.waves.getD w []).getD dp 0)])) ∧
      (∀ i w dp, d.net.notes[i]? = some (.releaseAck id w dp) →
        let left := b.unacked.filter fun u => !(u.wave == w && u.dp == dp)
        (¬(b.planned = true ∧ b.waves.length ≤ b.sent ∧ left = []) → Answers (.releaseAck i) s fun e =>
          e.net.notes = dropAt d.net.notes i ∧ e.barrier id = some { b with unacked := left }) ∧
        (b.planned = true → b.waves.length ≤ b.sent → left = [] → Leads (.releaseAck i) s
          (((d.dropNote i).onBarrier id fun b => { b with unacked := b.unacked.filter fun u =>
            !(u.wave == w && u.dp == dp) }).barrierOver s.now { b with unacked := [] }))) ∧
      (∀ dp u, (b.unacked.find? fun u => u.dp == dp && decide (u.at_ + 2000 ≤ s.now)) = some u →
        (u.tries < 3 → Answers (.releaseRetransmit id dp) s fun e => e.net.notes = d.net.notes ++ [.release id u.wave dp] ∧
          e.barrier id = some { b with unacked := b.unacked.map fun x =>
            if x = u then { x with at_ := s.now, tries := x.tries + 1 } else x }) ∧
        (3 ≤ u.tries → Sets (.releaseRetransmit id dp) s (fun e => (e.requestReset s.now 3 dp 0x0409).barrierAcked s.now id)
          fun e => e.barrier id = some { b with unacked := b.unacked.filter fun x => x.dp != dp } ∧
            ∃ r, e.ras.box = d.ras.box ++ [r] ∧ r.code = 0x0409 ∧ r.detail = [dp, id])) ∧
      (∀ dp, (∀ u ∈ b.unacked, u.dp = dp → s.now < u.at_ + 2000) → Leads (.releaseRetransmit id dp) s d)) ∧
    (∀ i dp ev v, d.net.notes[i]? = some (.flag dp ev) → Tbl.find d.hif.events ev = some v →
      Leads (.flagNotice i) s (((d.wokenBy dp ev).foldl (fun (d : Dev) id =>
        (d.onCmd id fun m => { m with abandoned := v.abandoned }).unpark s.now id .completed false) (d.dropNote i)).after s.now) ∧
      ∀ id ∈ d.wokenBy dp ev, ∃ m, (id, m) ∈ d.hif.cmds ∧ m.phase = .parked ∧ waitHolds m.slot v = true)

/-! ### Power -/

/-- Tier 2.  The leave governor.  A sample measures input and buffer, from which P_base follows (R420, R425); leave is granted to the
first request whose tests pass, and drawn from its die pair's share or an open booking (R422, R425, R428); free headroom goes
to the die pairs in proportion to what they wait for (R425); an energy that no asterism has is unattributed, and the parts of
one that asterisms share add up to it (R435, R436); a low buffer brakes the clocks, once recorded, until it is back (R422).
Where it rests on the model's own choices, they are those of the assumption log's entries 70, 71, 75 and 80. -/
def Obligations.LeaveIsGranted : Prop :=
  ∀ s : State,
    let d := s.dev
    (∀ p, d.capTest p = true ↔ d.pwr.pBase + d.leaveMw + d.openMw + p ≤ (d.get PWR_CAP.CAP_W - d.get PWR_CAP.MARGIN_W) * 1000) ∧
    (∀ p, d.get PWR_BUFFER_ENERGY.ENERGY < d.get PWR_BUFFER_ENERGY.RESERVE * 1000 → d.bufferTest p = false) ∧
    (∀ i r, d.pwr.reqs[i]? = some r →
      let go := d.leavePasses r = true ∧ ∀ x ∈ d.pwr.reqs, d.leaveFirst x r = true → d.leavePasses x = false
      let b := d.openBooking r.ctx r.p
      (¬go → Leads (.leaveGrant i) s d) ∧
      (∀ job st, go → r.why = .sweep job st → Answers (.leaveGrant i) s fun e => e.pwr.reqs = dropAt d.pwr.reqs i ∧
        Tbl.find e.pwr.sweepLeave st = some (r.p, b) ∧ ∀ p, (e.pmu p).leave = (d.pmu p).leave) ∧
      (go → (∀ job st, r.why ≠ .sweep job st) → Answers (.leaveGrant i) s fun e => e.pwr.reqs = dropAt d.pwr.reqs i ∧
        (e.pmu r.dp).leave = (d.pmu r.dp).leave + r.p ∧
        (e.pmu r.dp).share = (if b = none then (d.pmu r.dp).share - r.p else (d.pmu r.dp).share) ∧
        e.pwr.grants = d.pwr.grants ++ [{ why := r.why, dp := r.dp, p := r.p, booking := b }] ∧
        (∀ p, p ≠ r.dp → e.pmu p = d.pmu p) ∧ e.regs = d.regs)) ∧
    (∀ mv ma mj, Answers (.governorSample mv ma mj) s fun e =>
      e.get PWR_INPUT.VIN = min 65535 (mv / 10) ∧ e.get PWR_INPUT.IIN = min 65535 (ma / 10) ∧
      e.get PWR_INPUT.PIN = min 65535 (mv * ma / 1000 / 1000) ∧ e.get PWR_BUFFER_ENERGY.ENERGY = min mj 65535 ∧
      e.get PWR_BUFFER_ENERGY.MIN = (if d.pwr.measured then min (d.get PWR_BUFFER_ENERGY.MIN) (min mj 65535) else min mj 65535) ∧
      e.pwr.pBase = mv * ma / 1000 - d.leaveMw ∧ e.pwr.inputMw = mv * ma / 1000 ∧ e.core = d.core ∧ e.mem = d.mem ∧
      (∀ p, (e.pmu p).op = (d.pmu p).op ∧ (e.pmu p).leave = (d.pmu p).leave)) ∧
    (
      let total := diePairs.foldl (fun n p => n + d.unmet p) 0
      (total = 0 → Leads .shareRedistribute s d) ∧
      (total ≠ 0 → Answers .shareRedistribute s fun e => (∀ p < 8, (e.pmu p).share = d.headroom * d.unmet p / total) ∧
        (∀ p < 8, (e.pmu p).leave = (d.pmu p).leave) ∧ { e with pwr := d.pwr } = d)) ∧
    (∀ p uj, Answers (.energySample p uj) s fun e =>
      let all := Tbl.look 0 d.pwr.railUj p + uj
      (d.boundOn p = [] → e.get PWR_ENERGY_UNATTR.UNATTR_MJ =
          (d.get PWR_ENERGY_UNATTR.UNATTR_MJ + (d.pwr.unattrUj + uj) / 1000) % 2 ^ 64 ∧
        e.pwr.unattrUj = (d.pwr.unattrUj + uj) % 1000 ∧ e.comp = d.comp) ∧
      (∀ a, d.boundOn p = [a] → (e.ast a).pendMeters.energy = (d.ast a).pendMeters.energy + uj ∧ e.pwr.unattrUj = d.pwr.unattrUj) ∧
      (∀ a b, a ≠ b → d.boundOn p = [a, b] → (e.ast a).pendMeters.energy + (e.ast b).pendMeters.energy =
        (d.ast a).pendMeters.energy + (d.ast b).pendMeters.energy + uj) ∧
      e.get (PMU_ENERGY.RAIL_MJ p) = (d.get (PMU_ENERGY.RAIL_MJ p) + all / 1000) % 2 ^ 64 ∧
      Tbl.look 0 e.pwr.railUj p = all % 1000) ∧
    (∀ mj,
      (mj < d.get PWR_BUFFER_ENERGY.RESERVE * 500 → Answers (.bufferLow mj) s fun e => e.flag PWR_BUFFER_ENERGY.BRAKE = true ∧
        e.pwr.bufEpisode = true ∧ e.get PWR_BUFFER_ENERGY.ENERGY = min mj 65535 ∧
        (d.pwr.bufEpisode = true → e.ras = d.ras) ∧
        (d.pwr.bufEpisode = false → ∃ b, e.ras.box = d.ras.box ++ [b] ∧ b.code = 0x0804)) ∧
      (d.get PWR_BUFFER_ENERGY.RESERVE * 500 ≤ mj → Leads (.bufferLow mj) s (d.bufferNow mj)) ∧
      (d.get PWR_BUFFER_ENERGY.RESERVE * 1000 < mj → Answers (.brakeRelease mj) s fun e =>
        e.flag PWR_BUFFER_ENERGY.BRAKE = false ∧ e.pwr.bufEpisode = false ∧ e.ras = d.ras) ∧
      (mj ≤ d.get PWR_BUFFER_ENERGY.RESERVE * 1000 → Leads (.brakeRelease mj) s (d.bufferNow mj)))

/-- Tier 2.  Caps and points.  SET_CAP sets the fabric manager's cap within 1,000 to 7,500 W, the lower of two caps is active, and
it completes once the input has stayed at or below it for 100 µs (R432, R433).  Under pressure the held fraction of the cores
rises by a sixteenth every 50 µs and the held cores change every 100 µs; with room it falls every 1 ms (R433, R434).  An
operating point changes in 40 µs, rises after 1 ms of headroom, and falls one point under throttling or droop, to OP0 at
105 °C (R417, R418, R431).
Where it rests on the model's own choices, they are those of the assumption log's entries 76, 77, 78 and 79. -/
def Obligations.CapsAndPoints : Prop :=
  (∀ h ≤ 16, ∀ r, ((List.range 672).filter (capHolds h r)).length = 42 * h) ∧
  ∀ s : State,
    let d := s.dev
    (∀ k m, Turn d k 0x89 m →
      let w := fld m.slot 0x10 0 13
      let b := begun d k
      (1000 ≤ w → w ≤ 7500 → allZero m.slot [(0x10, 13, 19), (0x14, 0, 352)] = true → Sets (.setCap k) s
        (fun e => e.shedPower.onPwr fun p => { p with capWait := p.capWait ++ [k] }) fun e =>
          e.get PWR_CAP.FM_CAP_W = w ∧ e.get PWR_CAP.CAP_W = min w (d.get PWR_CAP.TRAY_CAP_W) ∧
          e.get PWR_CAP.TRAY_CAP_W = d.get PWR_CAP.TRAY_CAP_W ∧
          e.pwr.capBelowAt = if d.get PWR_INPUT.PIN ≤ min w (d.get PWR_CAP.TRAY_CAP_W) then some s.now else none) ∧
      ((w < 1000 ∨ 7500 < w ∨ allZero m.slot [(0x10, 13, 19), (0x14, 0, 352)] = false) → Answers (.setCap k) s fun e =>
        Reports b e ∧ Tbl.find e.hif.mgt k = none ∧ ∃ r, e.ras.box = d.ras.box ++ [r] ∧ r.code = 0x0808)) ∧
    (∀ t, d.pwr.capBelowAt = some t → (t + 100000 ≤ s.now → Answers .capSettled s fun e => e.pwr.capWait = [] ∧
        (∀ k ∈ d.pwr.capWait, Tbl.find e.hif.mgt k = none) ∧ e.get PWR_CAP.CAP_W = d.get PWR_CAP.CAP_W) ∧
      (s.now < t + 100000 → Leads .capSettled s d)) ∧
    (d.pwr.capBelowAt = none → Leads .capSettled s d) ∧
    (
      let due := 2 * d.get PWR_CAP.CAP_W < 2 * d.get PWR_INPUT.PIN + d.get PWR_CAP.MARGIN_W ∧ d.pwr.capAt + 50000 ≤ s.now
      (due → Sets .capHoldStep s (fun e => (e.shedHeld s.now).capFloor s.now) fun e =>
        (∀ p < 8, (e.pmu p).held = min 16 ((d.pmu p).held + 1)) ∧ e.pwr.capAt = s.now ∧
        e.get PWR_FLOOR.HOLD = diePairs.foldl (fun n p => max n (min 16 ((d.pmu p).held + 1))) 0) ∧
      (¬due → Leads .capHoldStep s d)) ∧
    (
      let due := d.get PWR_INPUT.PIN + 2 * d.get PWR_CAP.MARGIN_W < d.get PWR_CAP.CAP_W ∧ d.pwr.capAt + 1000000 ≤ s.now
      (due → (∀ p < 8, (d.pmu p).held ≤ 16) → Answers .capReleaseStep s fun e => (∀ p < 8, (e.pmu p).held = (d.pmu p).held - 1) ∧
        e.pwr.capAt = s.now ∧ e.flag PWR_FLOOR.BELOW = false ∧ e.flag ADM_STATUS.CAP_FLOOR = false) ∧
      (¬due → Leads .capReleaseStep s d)) ∧
    (d.pwr.rotateAt + 100000 ≤ s.now → Answers .capHoldRotate s fun e => e.pwr.rotate = d.pwr.rotate + 1 ∧
      ∀ c k, Tbl.find d.core c = some k → Tbl.find e.core c =
        some { k with capHeld := capHolds (d.pmu (coreDp c)).held (d.pwr.rotate + 1) c }) ∧
    (s.now < d.pwr.rotateAt + 100000 → Leads .capHoldRotate s d) ∧
    (∀ w, Sets (.floorRecompute w) s (·.shedPower) fun e => e.get PWR_FLOOR.FLOOR_W = min w 8191 ∧ e.hif = d.hif ∧ e.pwr = d.pwr) ∧
    (∀ p,
      ((d.pmu p).goal = none → Leads (.opChange p) s d) ∧
      (∀ k t, (d.pmu p).goal = some (k, t) → Sets (.opChange p) s (fun e =>
        (((((d.core.filter fun x => coreDp x.1 == p).map (·.1)).foldl (fun d c => Dev.releave d c) e).reask p).shedPower).shedPlan p)
        fun e => e.pmu p = { d.pmu p with op := k, goal := none } ∧ ∀ q, q ≠ p → e.pmu q = d.pmu q) ∧
      (∀ k t, d.opAbove p = some k → (d.pmu p).raiseAt = some t →
        ((d.pmu p).pwr = .run → (d.pmu p).goal = none → (d.pmu p).throttling = false → (d.pmu p).limited = false →
          (d.pmu p).lowUntil ≤ s.now → k ≤ d.get PWR_CTRL.OPMAX → t + 1000000 ≤ s.now → Answers (.opRaise p) s fun e =>
            e.pmu p = { d.pmu p with goal := some (k, s.now + 40000), raiseAt := none }) ∧
        ((s.now < t + 1000000 ∨ (d.pmu p).throttling = true ∨ s.now < (d.pmu p).lowUntil ∨ d.get PWR_CTRL.OPMAX < k) →
          Leads (.opRaise p) s d)) ∧
      (∀ temp j, d.opBelow p = some j → (d.pmu p).goal = none → d.get PWR_CTRL.TJ_THROTTLE ≤ temp →
        (d.pmu p).lowerAt ≤ s.now → Answers (.junctionThrottle p temp) s fun e => (e.pmu p).throttling = true ∧
          (e.pmu p).tj = temp ∧ (e.pmu p).goal = some (j, s.now + 40000) ∧ (e.pmu p).lowerAt = s.now + 1000000) ∧
      (∀ temp, temp + 3 ≤ d.get PWR_CTRL.TJ_THROTTLE → Answers (.junctionThrottle p temp) s fun e =>
        (e.pmu p).throttling = false ∧ (e.pmu p).limited = false ∧ (e.pmu p).goal = (d.pmu p).goal ∧
        (e.pmu p).op = (d.pmu p).op) ∧
      (∀ temp, 105 ≤ temp → Answers (.junctionLimit p temp) s fun e => (e.pmu p).limited = true ∧ (e.pmu p).tj = temp ∧
        (e.pmu p).goal = (if (d.pmu p).op = 0 then none else some (0, s.now + 40000)) ∧
        ((d.pmu p).limited = true → e.ras = d.ras) ∧
        ((d.pmu p).limited = false → ∃ b, e.ras.box = d.ras.box ++ [b] ∧ b.code = 0x0806 ∧ b.detail = [p, temp])) ∧
      (∀ temp, temp < 105 → Leads (.junctionLimit p temp) s d) ∧
      (∀ ns, Answers (.droopStretch p ns) s fun e =>
        e.get (PMU_STATUS.STRETCH p) = (d.get (PMU_STATUS.STRETCH p) + 1) % 2 ^ 32 ∧
        e.get PWR_DROOP.EVENTS = (d.get PWR_DROOP.EVENTS + 1) % 2 ^ 32 ∧
        (e.pmu p).stretchEnd = max (d.pmu p).stretchEnd (s.now + ns) ∧
        (ns ≤ 4000 → s.now < (d.pmu p).stretchAt + 1000000 → (d.pmu p).stretches < 256 → (e.pmu p).goal = (d.pmu p).goal ∧
          (e.pmu p).lowUntil = (d.pmu p).lowUntil ∧ e.ras = d.ras) ∧
        (4000 < ns → (e.pmu p).lowUntil = s.now + 10000000 ∧ ∀ j, d.opBelow p = some j → (d.pmu p).goal = none →
          (d.pmu p).lowUntil ≤ s.now → (e.pmu p).goal = some (j, s.now + 40000))))

/-- Tier 2.  Power states.  A write of PWR_STATE_REQ through a path that may write it asks the blocks in scope, unless an entry runs or
a trip is latched (R410, R411, R534); each block accepts, asks for a delay of at most 1 ms, or refuses for a reason of Table 13-3;
a refusal or 10 ms end the entry with nothing changed, and the last acceptance takes the scope down (R410 to R412).  Run and the
wake sources bring it back, PWR_LAST_WAKE with them (R413).  Input outside 48 to 58 V is recorded once an excursion; outside 44 to
60 V the module stops to Dark, until it returns (R522).
Where it rests on the model's own choices, they are those of the assumption log's entries 81 and 82. -/
def Obligations.PowerStatesChange : Prop :=
  ∀ s : State,
    let d := s.dev
    let asks := fun (c : Instr) (req mask : Nat) => Answers c s fun e => e.get PWR_STATE_REQ.STATUS = 1 ∧
      e.get PWR_STATE_REQ.REQ = req ∧ e.pwr.entry = some { req := req, dpmask := mask, at_ := s.now
                                                           wait := (entryBlocks req mask).map fun u => (u, 0, none) } ∧
      e.pwr.pkg = d.pwr.pkg ∧ e.core = d.core ∧ e.get PWR_STATE_REQ.STATE = d.get PWR_STATE_REQ.STATE
    (∀ path, MayWrite d path PWR_STATE_REQ.off →
      (d.pwr.entry = none → d.mod.tripLatch = false →
        (∀ mask, mask % 256 ≠ 0 → asks (.stateReqDiePairNight path mask) 2 (mask % 256)) ∧
        asks (.stateReqDeepNight path) 3 0 ∧ asks (.stateReqDark path) 4 0 ∧
        (∀ mask, Answers (.stateReqRun path mask) s fun e => e.pwr.entry = none ∧ e.get PWR_STATE_REQ.STATUS = 2 ∧
          (d.pwr.pkg = .deepNight → e.pwr.pkg = .run ∧ e.flag MGT_STATUS.PKG_DOWN = false) ∧
          (d.pwr.pkg ≠ .deepNight → e.pwr.pkg = d.pwr.pkg) ∧
          (∀ p < 8, maskAllows (mask % 256) p = true → (e.pmu p).pwr =
            if (d.pmu p).pwr = .night then .run else (d.pmu p).pwr) ∧
          (∀ p < 8, maskAllows (mask % 256) p = false → e.pmu p = d.pmu p))) ∧
      ((d.pwr.entry.isSome = true ∨ d.mod.tripLatch = true) → ∀ mask, Leads (.stateReqRun path mask) s d ∧
        Leads (.stateReqDiePairNight path mask) s d ∧ Leads (.stateReqDeepNight path) s d ∧ Leads (.stateReqDark path) s d)) ∧
    (∀ p, (d.pwr.entry = none → (d.pmu p).pwr = .run → d.pwr.pkg = .run → d.unbound p = true →
        (d.capPressed = true ∨ ∃ t, (d.pmu p).unboundAt = some t ∧ t + 1000000 ≤ s.now) →
        Answers (.diePairNight p) s fun e => e.get PWR_STATE_REQ.STATUS = 1 ∧ e.core = d.core ∧ e.pwr.entry =
          some { req := 2, dpmask := 2 ^ p, at_ := s.now, wait := (entryBlocks 2 (2 ^ p)).map fun u => (u, 0, none) }) ∧
      (d.unbound p = false → Leads (.diePairNight p) s d)) ∧
    (d.pwr.entry = none → Leads .stateTimeout s d ∧ ∀ u a, Leads (.enterAnswer u a) s d ∧ Leads (.enterDelayExpiry u) s d) ∧
    (∀ en, d.pwr.entry = some en →
      (∀ u n t r, (en.wait.find? fun w => w.1 == u && w.2.2.isNone) = some (n, t, r) →
        let left := en.wait.filter (·.1 != u)
        (d.refuseWhy en ≠ 0 → Leads (.enterAnswer u .accept) s d ∧ ∀ y, Answers (.enterAnswer u (.refuse y)) s fun e =>
          e.pwr.entry = none ∧ e.get PWR_STATE_REQ.STATUS = 3 ∧ e.get PWR_STATE_REQ.UNIT = u % 2 ^ 16 ∧
          e.get PWR_STATE_REQ.REASON = d.refuseWhy en ∧ e.pwr.pkg = d.pwr.pkg ∧ e.core = d.core ∧
          ∃ b, e.ras.box = d.ras.box ++ [b] ∧ b.code = 0x0802 ∧ b.detail = [en.req, u, d.refuseWhy en]) ∧
        (d.refuseWhy en = 0 → (∀ y, Leads (.enterAnswer u (.refuse y)) s d) ∧
          (left ≠ [] → Leads (.enterAnswer u .accept) s (d.onPwr fun w => { w with entry := some { en with wait := left } })) ∧
          (left = [] → en.req = 2 → Answers (.enterAnswer u .accept) s fun e => e.pwr.entry = none ∧
            e.get PWR_STATE_REQ.STATUS = 2 ∧ (∀ p < 8, bit en.dpmask p = true → (e.pmu p).pwr = .night) ∧
            ∀ p < 8, bit en.dpmask p = false → e.pmu p = d.pmu p) ∧
          (left = [] → en.req = 3 → Answers (.enterAnswer u .accept) s fun e => e.pwr.entry = none ∧ e.pwr.pkg = .deepNight ∧
            e.get PWR_STATE_REQ.STATE = Pwr.deepNight.code ∧ e.flag MGT_STATUS.PKG_DOWN = true ∧
            (∀ st, (e.stack st).cache = [] ∨ e.stack st = Stack.reset) ∧ SameMemory d e) ∧
          (left = [] → en.req = 4 → Leads (.enterAnswer u .accept) s (d.entryOver 2 0 0).powerOff)) ∧
        (∀ us, us ≤ 1000 → t + us ≤ 10000 → Answers (.enterAnswer u (.delay us)) s fun e => ∃ x, e.pwr.entry = some x ∧
          x.wait = en.wait.map (fun w => if w.1 = u then (u, t + us, some (s.now + us * 1000)) else w) ∧ x.req = en.req) ∧
        (∀ us, (1000 < us ∨ 10000 < t + us) → Leads (.enterAnswer u (.delay us)) s d)) ∧
      (∀ u, Answers (.enterDelayExpiry u) s fun e => ∃ x, e.pwr.entry = some x ∧ x.req = en.req ∧
        x.wait = en.wait.map (fun w => match w.2.2 with
          | some t => if w.1 = u ∧ t ≤ s.now then (w.1, w.2.1, none) else w
          | none => w)) ∧
      (∀ u r l, en.wait = (u, r) :: l → (s.now < en.at_ + 10000000 → Leads .stateTimeout s d) ∧
        (en.at_ + 10000000 ≤ s.now → Answers .stateTimeout s fun e => e.pwr.entry = none ∧
          e.get PWR_STATE_REQ.STATUS = 4 ∧ e.get PWR_STATE_REQ.UNIT = u % 2 ^ 16 ∧ e.core = d.core ∧ e.pwr.pkg = d.pwr.pkg ∧
          ∃ b, e.ras.box = d.ras.box ++ [b] ∧ b.code = 0x0803))) ∧
    (
      let woken := fun (src : Nat) (e : Dev) => e.pwr.pkg = .run ∧ e.flag MGT_STATUS.PKG_DOWN = false ∧
        e.get PWR_LAST_WAKE.SOURCE = src ∧ e.get PWR_LAST_WAKE.FROM = Pwr.deepNight.code ∧
        e.get PWR_LAST_WAKE.TICKS = d.ticks % 2 ^ 56
      (d.pwr.pkg = .deepNight → Answers .regulationFault s (woken 7) ∧
        (d.get PWR_WAKE_TIMER.TICKS ≠ 0 → d.get PWR_WAKE_TIMER.TICKS ≤ d.ticks → Answers .wakeTimer s (woken 6))) ∧
      (d.pwr.pkg ≠ .deepNight → Leads .regulationFault s d ∧ Leads .wakeTimer s d) ∧
      (d.ticks < d.get PWR_WAKE_TIMER.TICKS → Leads .wakeTimer s d)) ∧
    (∀ mv,
      ((mv < 48000 ∨ 58000 < mv) → d.pwr.pkg ≠ .dark → Answers (.inputRange mv) s fun e => e.pwr.rangeRec = true ∧
        e.mod.vinMv = mv ∧ e.get PWR_INPUT.VIN = min 65535 (mv / 10) ∧ (d.pwr.rangeRec = true → e.ras = d.ras) ∧
        (d.pwr.rangeRec = false → ∃ b, e.ras.box = d.ras.box ++ [b] ∧ b.code = 0x0809 ∧ b.detail = [mv])) ∧
      (48000 ≤ mv → mv ≤ 58000 → Answers (.inputRange mv) s fun e => e.mod.vinMv = mv ∧ e.ras = d.ras) ∧
      (44000 ≤ mv → mv ≤ 60000 → Leads (.inputLockout mv) s d) ∧
      ((mv < 44000 ∨ 60000 < mv) → d.pwr.pkg = .dark → Answers (.inputLockout mv) s fun e => e.mod.inputOn = false ∧
        e.pwr.lockout = true ∧ e.pwr.pkg = .dark) ∧
      ((mv < 44000 ∨ 60000 < mv) → d.pwr.pkg ≠ .dark → Sets (.inputLockout mv) s (fun e =>
        ({ e.reportNow s.now 0x0809 moduleUnit 0x02 .contained [mv] true with alm := { (e.reportNow s.now 0x0809 moduleUnit 0x02
          .contained [mv] true).alm with lastWrite := s.now } }).powerOff) fun e => e.mod.inputOn = false ∧ e.pwr.lockout = true) ∧
      (d.mod.inputOn = false → 46000 < mv → mv < 59000 → Answers (.inputReturn mv) s fun e => e.mod.inputOn = true ∧
        e.mod.standby = true ∧ e.pwr.lockout = false ∧ e.pwr.rangeRec = false ∧ e.pwr.pkg = d.pwr.pkg) ∧
      ((d.mod.inputOn = true ∨ mv ≤ 46000 ∨ 59000 ≤ mv) → Leads (.inputReturn mv) s (d.seeVin mv)))

/-! ### Errors, resets, the Almanac -/

/-- Tier 2.  Errors reach software.  A record that reaches firmware is numbered and written to the ring's next place with the
phase of its position; with the ring disabled it is held, and with no room lost and an overflow episode begun (R443 to R446,
R506); one with NOTICE goes out as a notice and a PLDM event (R462, R516), and with 256 notices unacknowledged the oldest goes
out again every second (R396).
Where it rests on the model's own choices, they are those of the assumption log's entries 86, 88, 103 and 114. -/
def Obligations.ErrorsAreReported : Prop :=
  ∀ s : State,
    let d := s.dev
    (d.ras.box = [] → Leads .errorRecord s d) ∧
    (∀ r l, d.ras.box = r :: l →
      let t := d.get RAS_ERRQ_TAIL.TAIL
      let used := (t + 2 ^ 32 - d.get RAS_ERRQ_HEAD.HEAD) % 2 ^ 32
      let room := used < 2 ^ d.get RAS_ERRQ_SIZE.LOG2N - (if r.crit = true then 0 else d.get RAS_ERRQ_SIZE.RESV)
      (d.flag RAS_ERRQ_BASE.EN = true → room → Answers .errorRecord s fun e => e.ras.box = l ∧
        Tbl.find e.ras.ring (t % 2 ^ d.get RAS_ERRQ_SIZE.LOG2N) = some { r with
          seq := d.ras.seq, notice := r.noticed, flash := r.sev == 4, phase := phaseOf (d.get RAS_ERRQ_SIZE.LOG2N) t } ∧
        e.get RAS_ERRQ_TAIL.TAIL = (t + 1) % 2 ^ 32 ∧ e.get RAS_ERRQ_HEAD.HEAD = d.get RAS_ERRQ_HEAD.HEAD ∧
        e.ras.seq = (d.ras.seq + 1) % 2 ^ 32) ∧
      (d.flag RAS_ERRQ_BASE.EN = true → ¬room → Answers .errorRecord s fun e => e.ras.box = l ∧ e.ras.ring = d.ras.ring ∧
        e.ras.overflow = true ∧ e.get RAS_ERRQ_TAIL.TAIL = t ∧ e.ras.seq = (d.ras.seq + 1) % 2 ^ 32) ∧
      (d.flag RAS_ERRQ_BASE.EN = false → d.ras.heldBoot.length < 256 → Answers .errorRecord s fun e => e.ras.box = l ∧
        e.ras.ring = d.ras.ring ∧ ∃ x, e.ras.heldBoot = d.ras.heldBoot ++ [x] ∧ x.code = r.code ∧ x.seq = d.ras.seq ∧
          x.detail = r.detail) ∧
      (r.noticed = true → d.ras.notices.length < 256 → Answers .errorRecord s fun e => r.code ∈ e.fw.events ∧
        ∃ n, e.ras.notices = d.ras.notices ++ [n] ∧ n.seq = d.ras.noticeSeq ∧ n.at_ = s.now ∧ n ∈ e.ras.noticeBox)) ∧
    (d.ras.notices = [] → Leads .noticeResend s d) ∧
    (∀ n l, d.ras.notices = n :: l →
      (255 ≤ l.length → n.at_ + 1000000000 ≤ s.now → Answers .noticeResend s fun e =>
        e.ras.notices = { n with at_ := s.now } :: l ∧ e.ras.noticeBox = { n with at_ := s.now } :: d.ras.noticeBox) ∧
      ((l.length < 255 ∨ s.now < n.at_ + 1000000000) → Leads .noticeResend s d)) ∧
    (∀ path v, MayWrite d path RAS_ERRQ_HEAD.off →
      let h := d.get RAS_ERRQ_HEAD.HEAD
      let used := (d.get RAS_ERRQ_TAIL.TAIL + 2 ^ 32 - h) % 2 ^ 32
      ((v % 2 ^ 32 + 2 ^ 32 - h) % 2 ^ 32 ≤ used → Sets (.rasErrqHeadWrite path v) s (·.episodeEnd s.now) fun e =>
        e.get RAS_ERRQ_HEAD.HEAD = v % 2 ^ 32 ∧ e.ras = d.ras ∧ e.get RAS_ERRQ_TAIL.TAIL = d.get RAS_ERRQ_TAIL.TAIL) ∧
      (used < (v % 2 ^ 32 + 2 ^ 32 - h) % 2 ^ 32 → Leads (.rasErrqHeadWrite path v) s d)) ∧
    (∀ path (v : Word), MayWrite d path RAS_ERRQ_BASE.off → d.flag RAS_ERRQ_BASE.EN = false → bit v.toNat 0 = true →
      Sets (.rasErrqEnable path v) s (fun e => (d.ras.heldBoot.foldl (fun d r => Dev.errqWrite d s.now r) e).episodeEnd s.now)
        fun e => e.flag RAS_ERRQ_BASE.EN = true ∧ e.get RAS_ERRQ_BASE.BASE = bits v.toNat 6 58 ∧ e.ras.heldBoot = [] ∧
          e.get RAS_ERRQ_BASE.SPACE = if bits v.toNat 1 3 ≤ 4 then bits v.toNat 1 3 else d.get RAS_ERRQ_BASE.SPACE) ∧
    (d.ras.overflow = false → ∀ now, d.episodeEnd now = d)

/-- Tier 2.  Resets and dumps.  A deadlocked set of parked queues is recorded once, 0x0A01, and with ACTION its latest wait is broken
(R447 to R449).  A stack reset empties what its logic die
held and takes requests again (R453); a service reset resets its in-service cores (R454); an asterism reset waits while a
publication of it does (R455); a package reset leaves no asterism data, but the Almanac and the partners (R456), and asks for
power at 4 s (R457).  A dump is held until it is released (R458 to R460).
Where it rests on the model's own choices, they are those of the assumption log's entries 90, 91, 92 and 93. -/
def Obligations.ResetsRun : Prop :=
  ∀ s : State,
    let d := s.dev
    (d.flag RAS_HANG_CTRL.EN = false → Leads .hangCycle s d) ∧
    (d.flag RAS_HANG_CTRL.EN = true →
      (d.deadSets s.now = [] → Leads .hangCycle s { d with ras := { d.ras with sets := [] } }) ∧
      (∀ set p, d.deadSets s.now = [set] → latestOf (d.parked s.now) set = some p →
        (d.flag RAS_HANG_CTRL.ACTION = false → set ∉ d.ras.sets → Answers .hangCycle s fun e => e.ras.sets = [set] ∧
          (∃ b, e.ras.box = d.ras.box ++ [b] ∧ b.code = 0x0A01 ∧ b.detail.head? = some p.ast) ∧ e.hif = d.hif) ∧
        (d.flag RAS_HANG_CTRL.ACTION = false → set ∈ d.ras.sets → Answers .hangCycle s fun e => e.ras.sets = [set] ∧
          e.ras.box = d.ras.box ∧ e.hif = d.hif) ∧
        (d.flag RAS_HANG_CTRL.ACTION = true → Sets .hangCycle s (fun e =>
            let x := (e.unpark s.now p.id .aborted true).afterHead s.now p.queue
            { x with ras := { x.ras with sets := [set] } }) fun e =>
          (∃ b, e.ras.box = d.ras.box ++ [b] ∧ b.code = 0x0A01) ∧
          ∀ m, Tbl.find d.hif.cmds p.id = some m → Tbl.find e.hif.cmds p.id = some { m with err := 0x0A01 }))) ∧
    (∀ st, (d.resetOf 2 st = none → Leads (.stackReset st) s d) ∧
      (∀ r, d.resetOf 2 st = some r → Sets (.stackReset st) s (fun e => ((e.notes [.reset st]).resetOver r).raise 0x0A08
          (stackUnit st) 0x02 .contained [st, r.cause]) fun e =>
        (e.stack st).ingress = true ∧ (e.stack st).cache = [] ∧ (e.stack st).walks = [] ∧ (e.stack st).pend = [] ∧
        (e.stack st).closed = [])) ∧
    (∀ p, (d.resetOf 3 p = none → Leads (.serviceReset p) s d) ∧
      (∀ r, d.resetOf 3 p = some r → Leads (.serviceReset p) s (((((List.range 672).map (p * 672 + ·)).foldl (fun d c =>
        Dev.serviceCore d s.now c) d).resetOver r).raise 0x0A09 (svcUnit p) 0x00 .contained
          [p, r.cause, (((List.range 672).map (p * 672 + ·)).filter fun c => (d.coreAt c).tile.isSome).length]))) ∧
    (∀ a rest, (d.resetOf 4 a = none → Leads (.asterismReset a rest) s d) ∧
      (∀ r, d.resetOf 4 a = some r →
        ((d.ast a).state.hosts = false → (d.ast a).state ≠ .resetting → Leads (.asterismReset a rest) s (d.resetOver r)) ∧
        ((d.ast a).state.hosts = true → (∃ p ∈ d.comp.waiting, p.ast = a) → Answers (.asterismReset a rest) s fun e =>
          (e.ast a).state = .resetting ∧ (∀ f ∈ d.functions a, (e.fn f).tdi = .error) ∧ (∀ c, c ≠ a → e.ast c = d.ast c) ∧
          e.ras = d.ras ∧ e.core = d.core) ∧
        ((d.ast a).state.hosts = true → (∀ p ∈ d.comp.waiting, p.ast ≠ a) →
          let l := (((d.astResetting a).astCores s.now a).hif.ctxs.filter fun e => e.2.ast == a).map (·.1)
          Leads (.asterismReset a rest) s ((((l.foldl (fun p x => Dev.astCtx s.now a p x)
            ((d.astResetting a).astCores s.now a, rest)).1).astFaults s.now a).astResetDone s.now a l.length r)))) ∧
    (∀ low bad, d.mayReset = false → Answers (.packageReset low bad) s fun e => e.mem = d.mem ∧ e.core = d.core ∧
      e.mod.resetN = (if low then false else d.mod.resetN)) ∧
    (∀ bad, d.mayReset = true → d.ras.resets = [] → Answers (.packageReset true bad) s fun e =>
      e.mem = [] ∧ e.slice = [] ∧ e.core = [] ∧ e.sweeps = [] ∧ e.hif.ctxs = [] ∧ e.hif.queues = [] ∧ e.hif.objs = [] ∧
      (∀ a, e.ast a = Ast.reset) ∧ e.alm = d.alm ∧ e.cxl.partners = d.cxl.partners ∧ e.lcs.journal = d.lcs.journal ∧
      ∃ r, e.ras.resets = [r] ∧ r.level = 5 ∧ r.step = 4) ∧
    (∀ bad, d.mayReset = true → (∀ r ∈ d.ras.resets, r.level ≠ 5) → Leads (.packageReset false bad) s d) ∧
    ((∀ r ∈ d.ras.resets, r.level ≠ 5) → Leads .powerCycleRequest s d) ∧
    (∀ r, (d.ras.resets.find? fun r => r.level == 5) = some r →
      (r.at_ + 4000000000 ≤ s.now → d.ras.powerCycle = false → Answers .powerCycleRequest s fun e => e.ras.powerCycle = true ∧
        e.ras.resets = d.ras.resets ∧ e.core = d.core) ∧
      ((s.now < r.at_ + 4000000000 ∨ d.ras.powerCycle = true) → Leads .powerCycleRequest s d)) ∧
    (∀ path (v : Word), MayWrite d path RAS_RESET_CTRL.off →
      let x := v.toNat
      (d.ras.resets ≠ [] → Leads (.dump path v) s d) ∧
      (d.ras.resets = [] → bit x 3 = false →
        (bits x 0 3 = 2 → bits x 16 16 / 8192 = 4 → bits x 16 16 % 8192 < 32 → Answers (.dump path v) s fun e =>
          e.ras.resets = [⟨2, bits x 16 16 % 8192, 0, s.now, 0⟩] ∧ (e.stack (bits x 16 16 % 8192)).ingress = false) ∧
        (bits x 0 3 = 3 → bits x 16 16 / 8192 = 6 → bits x 16 16 % 8192 < 8 → Answers (.dump path v) s fun e =>
          e.ras.resets = [⟨3, bits x 16 16 % 8192, 0, s.now, 0⟩]) ∧
        (bits x 0 3 = 4 → (d.ast (bits x 32 6)).state.hosts = true → Answers (.dump path v) s fun e =>
          e.ras.resets = [⟨4, bits x 32 6, 0, s.now, 0⟩]) ∧
        (bits x 0 3 = 5 → Answers (.dump path v) s fun e => e.ras.resets = [⟨5, moduleUnit, 0, s.now, 0⟩])) ∧
      (d.ras.resets = [] → bit x 3 = true → bits x 0 3 = 0 → d.flag RAS_DUMP_BASE.VALID = false → Answers (.dump path v) s
        fun e => e.flag RAS_DUMP_BASE.VALID = true ∧ 1 ≤ e.get RAS_DUMP_BASE.PAGES ∧ e.ras.dump.isSome = true ∧
          e.ras.resets = [])) ∧
    (∀ path, MayWrite d path RAS_DUMP_BASE.off → Answers (.dumpRelease path) s fun e =>
      e.flag RAS_DUMP_BASE.VALID = false ∧ e.get RAS_DUMP_BASE.PAGES = 0 ∧ e.ras.dump = none ∧ e.core = d.core)

/-- Tier 2.  The Almanac.  A second in Run adds its stress hours to a die pair (R464); a margin report raises AGE by 5 mV, 0x0A0F
(R416); an error limit retires a unit that can be swapped, or marks it (R465); once a day the figures are kept, 90 days of them
(R467), and 0x0A0D tells of a projection below the horizon, every 30 days while it stays (R468); the hourly write keeps the
buffer's capacity (R463).
Where it rests on the model's own choices, they are those of the assumption log's entries 72, 94, 95 and 96. -/
def Obligations.AlmanacKeeps : Prop :=
  ∀ s : State,
    let d := s.dev
    (∀ p margin cores, ((d.pmu p).pwr ≠ .run ∨ d.pwr.pkg ≠ .run) → Leads (.almanacMonitorRead p margin cores) s d) ∧
    (∀ p cores, (d.pmu p).pwr = .run → d.pwr.pkg = .run → d.alm.age.getD p 0 < 60 → d.erring p = [] →
      (Answers (.almanacMonitorRead p false cores) s fun e => e.alm.age = d.alm.age ∧ e.alm.stress =
        modifyAt d.alm.stress p (· + stressOf (d.pmu p).tj (d.railMv p)) ∧ e.ras = d.ras ∧ e.core = d.core) ∧
      (p < 8 → Answers (.almanacMonitorRead p true cores) s fun e =>
        e.alm.age = modifyAt d.alm.age p (fun _ => d.alm.age.getD p 0 + 5) ∧
        (∃ b l, e.ras.box = d.ras.box ++ b :: l ∧ b.code = 0x0A0F ∧ ∀ x ∈ l, x.code = 0x0807) ∧ e.core = d.core)) ∧
    (∀ now u n, d.judged u = true → d.retireUnit now u n = d) ∧
    (∀ now u n, d.judged u = false → d.flag ALM_CTRL.AUTO_RETIRE = false →
      let e := d.retireUnit now u n
      (Tbl.look Health.new e.alm.units u).mark = some .watch ∧ ∃ b, e.ras.box = d.ras.box ++ [b] ∧ b.code = 0x0A0E) ∧
    (let low := (leastProj d.almUnits.projections).days < d.get ALM_CTRL.HORIZON_DAYS
     ((d.alm.lastPredict + 86400 * second ≤ s.now ∨ d.alm.days = []) → Answers .almanacPredict s fun e =>
        e.alm.lastPredict = s.now ∧ ∃ t, e.alm.days = (t :: d.alm.days).take 90 ∧ t.age = d.alm.age ∧
          t.stress = d.alm.stress ∧ t.buffer = d.alm.buffer) ∧
     (s.now < d.alm.lastPredict + 86400 * second → d.alm.days ≠ [] → Answers .almanacPredict s fun e =>
        e.alm.days = d.alm.days ∧ e.alm.lastPredict = d.alm.lastPredict) ∧
     (Answers .almanacPredict s fun e => (¬low → e.alm.eolAt = none ∧ e.ras = d.ras) ∧
        (low → d.alm.eolAt = none → e.alm.eolAt = some s.now ∧ e.ras.seq = (d.ras.seq + 1) % 2 ^ 32) ∧
        (∀ t, low → d.alm.eolAt = some t → s.now < t + 30 * (86400 * second) → e.alm.eolAt = some t ∧ e.ras = d.ras))) ∧
    (∀ mj, Answers (.almanacWrite mj) s fun e => e.alm = { d.alm with buffer := mj, lastWrite := s.now } ∧
      { e with alm := d.alm } = d)

/-! ### Life cycle, sessions, boot, module, ring and registers -/

/-- Tier 2.  The life cycle.  A refused GO changes nothing but STATUS, CAUSE and the challenge, and tells why (R494).  An accepted
transition commits its journal row, does its wipes and asks for a package reset; with the power cut part of the way the row stays
uncommitted, and the next boot rolls it forward or voids it (R495 to R497).  An owner row is programmed and older ones revoked
(R488); debug rises by a token and falls without (R498, R499); the DRBG stops at a failed test, and the third failure resets the
package (R479).
Where it rests on the model's own choices, they are those of the assumption log's entries 89, 98, 99 and 100. -/
def Obligations.LifeCycleMoves : Prop :=
  ∀ s : State,
    let d := s.dev
    let refuses := fun (i : Instr) (c : Nat) => Answers i s fun e => e.get LCS_TRANSITION.STATUS = 3 ∧
      e.get LCS_TRANSITION.CAUSE = c ∧ e.ras.seq = (d.ras.seq + 1) % 2 ^ 32 ∧ e.mem = d.mem ∧ e.stk = d.stk ∧ e.core = d.core ∧
      { d.lcs with challenge := e.lcs.challenge, chalDue := e.lcs.chalDue, drbgReqs := e.lcs.drbgReqs } = e.lcs
    (∀ path, MayWrite d path LCS_TRANSITION.off →
      (∀ arm sig dev,
        let t := d.lcs.target
        let row : JRow := { target := t, wipes := wipesOf t, valid := true, void := false, commit := false }
        (∀ cut c, firstCause (d.lcCauses arm sig dev) = some c → refuses (.lcTransition path arm sig dev cut) c) ∧
        (∀ cut, firstCause (d.lcCauses arm sig dev) = none → (d.lcWork t).length ≤ cut →
          Answers (.lcTransition path arm sig dev cut) s fun e => e.lcs.state = t ∧
            e.lcs.journal = d.lcs.journal ++ [{ row with commit := true }] ∧ e.mem = [] ∧ e.slice = [] ∧
            (∀ k, (e.stack k).keys = []) ∧ e.get LCS_TRANSITION.STATUS = 2 ∧ e.get LCS_TRANSITION.CAUSE = 0 ∧
            (2 ≤ t → e.comp.snaps = [] ∧ Tbl.find e.lcs.certs 1 = none) ∧ (t = 3 → e.lcs.udsGone = true) ∧
            ((∀ r ∈ d.ras.resets, r.level ≠ 5) → e.ras.resets = [⟨5, moduleUnit, 0x0901, s.now, 0⟩])) ∧
        (∀ cut, firstCause (d.lcCauses arm sig dev) = none → cut < (d.lcWork t).length →
          Answers (.lcTransition path arm sig dev cut) s fun e => e.pwr.pkg = .dark ∧ e.fw.bootStep = 0 ∧
            e.mod.inputOn = false ∧ e.lcs.state = d.lcs.state ∧ (cut = 0 → e.lcs.journal = d.lcs.journal) ∧
            (cut = 1 → e.lcs.journal = d.lcs.journal ++ [{ row with valid := false }]) ∧
            (2 ≤ cut → e.lcs.journal = d.lcs.journal ++ [row])) ∧
        (∀ c, firstCause (d.ownerCauses arm sig dev) = some c → refuses (.ownerInstall path arm sig dev) c) ∧
        (firstCause (d.ownerCauses arm sig dev) = none → Answers (.ownerInstall path arm sig dev) s fun e =>
          e.lcs.owners = (d.lcs.owners.map fun o => { o with revoked := true }) ++ [⟨d.lcs.tokField 0x048 64, false⟩] ∧
          e.lcs.owner = some (d.lcs.owners.length, ⟨d.lcs.tokField 0x048 64, false⟩) ∧
          e.lcs.ownerReq = (d.lcs.ownerReq || bit d.lcs.tokTarget 0) ∧ e.lcs.bootOwner = d.lcs.bootOwner ∧
          e.lcs.journal = d.lcs.journal ∧ e.get LCS_TRANSITION.STATUS = 2 ∧ e.mem = d.mem)) ∧
      (∀ sig dev,
        let v := d.lcs.tokTarget
        (∀ c, firstCause (d.debugCauses path sig dev) = some c → refuses (.debugUnlock path sig dev) c) ∧
        (firstCause (d.debugCauses path sig dev) = none → Answers (.debugUnlock path sig dev) s fun e =>
          e.lcs.debug = max d.lcs.debug v ∧ e.get LCS_TRANSITION.STATUS = 2 ∧ e.lcs.journal = d.lcs.journal ∧
          (d.lcs.debug < v → e.lcs.debugMax = max d.lcs.debugMax v ∧ e.ras.seq = (d.ras.seq + 1) % 2 ^ 32) ∧
          (v ≤ d.lcs.debug → e.ras = d.ras ∧ e.lcs.debugMax = d.lcs.debugMax) ∧
          e.mem = if d.lcs.debug < v ∧ d.lcs.state = 1 ∧ v = 2 then [] else d.mem)) ∧
      (d.lcBusy = true → refuses (.debugLock path) 6) ∧
      (d.lcBusy = false → Answers (.debugLock path) s fun e => e.lcs.debug = 0 ∧ e.lcs.debugMax = d.lcs.debugMax ∧
        e.get LCS_TRANSITION.STATUS = 2 ∧ e.ras = d.ras ∧ e.mem = d.mem)) ∧
    (∀ now i r, d.lcs.journal[i]? = some r →
      let e := d.bootRow now i
      (r.valid = false → r.void = false → e.lcs.journal[i]? = some { r with void := true } ∧ e.mem = d.mem) ∧
      (r.valid = true → r.commit = false → e.lcs.journal[i]? = some { r with commit := true } ∧
        e.flag LCS_JOURNAL.ROLLED = true ∧ (bit r.wipes 0 = true → e.mem = [])) ∧
      ((r.valid = true ∧ r.commit = true ∨ r.valid = false ∧ r.void = true) → e = d)) ∧
    (d.lcs.drbgUp = false → ∀ test, Leads (.entropyFailure test) s d) ∧
    (d.lcs.drbgUp = true → ∀ test, Answers (.entropyFailure test) s fun e => e.lcs.drbgUp = false ∧
      e.lcs.drbgFails = d.lcs.drbgFails + 1 ∧ e.lcs.drbgFailAt = s.now ∧ (d.lcs.drbgFails < 2 → e.ras.resets = d.ras.resets) ∧
      (2 ≤ d.lcs.drbgFails → ∃ r ∈ e.ras.resets, r.level = 5)) ∧
    (
      let due := d.lcs.drbgUp = false ∧ d.lcs.drbgFails < 3 ∧ d.lcs.drbgFailAt + second ≤ s.now
      (¬due → ∀ ok, Leads (.drbgRetry ok) s d) ∧
      (due → Answers (.drbgRetry true) s (fun e => e.lcs.drbgUp = true ∧ e.lcs.drbgFails = 0 ∧ e.lcs.chalDue = false ∧
          e.ras = d.ras) ∧
        Answers (.drbgRetry false) s fun e => e.lcs.drbgUp = false ∧ e.lcs.drbgFails = d.lcs.drbgFails + 1 ∧
          e.lcs.drbgFailAt = s.now ∧ e.lcs.challenge = d.lcs.challenge)) ∧
    (2 ^ 20 ≤ d.lcs.drbgReqs → d.lcs.drbgUp = true → Leads .drbgReseed s { d with lcs := { d.lcs with drbgReqs := 0 } }) ∧
    ((d.lcs.drbgReqs < 2 ^ 20 ∨ d.lcs.drbgUp = false) → Leads .drbgReseed s d)

/-- Tier 2.  Attestation and TDIs.  A responder answers once its algorithms are negotiated (R485); certificates, challenges,
measurements and key exchanges answer as the slots, the identity and the number of sessions allow, and only function 0 takes a
certificate (R484 to R486).  A TDI is locked, runs and is released in that order, and is not locked while debug is above 0 (R397,
R499); IDE keys come over a secured session and go at an IDE failure, with the link's TDIs in ERROR (R398, R482).
Where it rests on the model's own choices, they are those of the assumption log's entries 86 and 87. -/
def Obligations.SessionsAndTdis : Prop :=
  ∀ s : State,
    let d := s.dev
    (∀ rsp,
      (∀ slot chain root ok, d.responds rsp = false → Leads (.negotiateAlgorithms rsp ok) s d ∧
        Leads (.getCertificate rsp slot) s d ∧ Leads (.challenge rsp slot) s d ∧ Leads (.getMeasurements rsp) s d ∧
        Leads (.keyExchange rsp) s d ∧ Leads (.setCertificate rsp slot chain root) s d) ∧
      (d.responds rsp = true → Leads (.negotiateAlgorithms rsp false) s (d.say .refused) ∧
        Answers (.negotiateAlgorithms rsp true) s fun e => e.lcs = { d.lcs with negotiated := e.lcs.negotiated } ∧
          rsp ∈ e.lcs.negotiated ∧ (∀ x, x ≠ rsp → (x ∈ e.lcs.negotiated ↔ x ∈ d.lcs.negotiated)) ∧
          e.fw = (d.say .done).fw) ∧
      (∀ slot chain root, d.responds rsp = true → rsp ∉ d.lcs.negotiated →
        Leads (.getCertificate rsp slot) s (d.say .refused) ∧ Leads (.challenge rsp slot) s (d.say .refused) ∧
        Leads (.getMeasurements rsp) s (d.say .refused) ∧ Leads (.keyExchange rsp) s (d.say .refused) ∧
        Leads (.setCertificate rsp slot chain root) s (d.say .refused)) ∧
      (d.responds rsp = true → rsp ∈ d.lcs.negotiated →
        (∀ slot, (∀ c, d.chain slot = some c → Leads (.getCertificate rsp slot) s (d.reply 0xE020 [slot, c]) ∧
            (d.signs = true → ∃ v, Leads (.challenge rsp slot) s
              ({ d with fresh := d.fresh + 1 }.reply 0xE021 [slot, c, v]))) ∧
          (d.chain slot = none → Leads (.getCertificate rsp slot) s (d.say .refused) ∧
            (d.signs = true → Leads (.challenge rsp slot) s (d.say .refused)))) ∧
        (d.signs = false → Leads (.getMeasurements rsp) s (d.say .unspecified) ∧
          Leads (.keyExchange rsp) s (d.say .unspecified) ∧ ∀ slot, Leads (.challenge rsp slot) s (d.say .unspecified)) ∧
        (d.signs = true →
          let l := d.measures ++ (if 1024 ≤ rsp then [] else d.vfMeasures rsp)
          (d.chain 0 = none → Leads (.getMeasurements rsp) s (d.reply 0xE022 l)) ∧
          (d.chain 0 ≠ none → ∃ v, Leads (.getMeasurements rsp) s ({ d with fresh := d.fresh + 1 }.reply 0xE022 (l ++ [v]))) ∧
          (
            let n := (d.lcs.sessions.filter fun x => x.responder == rsp).length
            (sessionMax rsp ≤ n → Leads (.keyExchange rsp) s (d.say .busy)) ∧
            (n < sessionMax rsp → Answers (.keyExchange rsp) s fun e =>
              e.lcs = { d.lcs with
                sessions := d.lcs.sessions ++ [⟨rsp, d.lcs.nextSession, false⟩], nextSession := d.lcs.nextSession + 1 } ∧
              ∃ v, e.fw.answer = some (0xE023, [d.lcs.nextSession, v])))) ∧
        (∀ slot chain root,
          (rsp < 1024 → Leads (.setCertificate rsp slot chain root) s (d.say .unsupported)) ∧
          (1024 ≤ rsp → d.certMay slot root = false → Leads (.setCertificate rsp slot chain root) s (d.say .refused)) ∧
          (1024 ≤ rsp → d.certMay slot root = true → Answers (.setCertificate rsp slot chain root) s fun e =>
            Tbl.find e.lcs.certs slot = some chain ∧ (∀ x, x ≠ slot → Tbl.find e.lcs.certs x = Tbl.find d.lcs.certs x) ∧
            e.lcs.certHash = (if slot = 0 then some (d.lcs.certHash.getD chain) else d.lcs.certHash) ∧
            e.fw = (d.say .done).fw))) ∧
      (∀ id, (d.session rsp id = false → Leads (.finish rsp id) s (d.say .refused) ∧ Leads (.endSession rsp id) s (d.say .refused)) ∧
        (d.session rsp id = true →
          Answers (.finish rsp id) s (fun e => (⟨rsp, id, true⟩ ∈ e.lcs.sessions) ∧ e.lcs.sessions.length = d.lcs.sessions.length ∧
            e.fw = (d.say .done).fw) ∧
          Answers (.endSession rsp id) s fun e => e.session rsp id = false ∧ e.fw = (d.say .done).fw ∧
            ∀ x ∈ d.lcs.sessions, x.responder ≠ rsp ∨ x.id ≠ id → x ∈ e.lcs.sessions))) ∧
    (∀ n, (d.fn n).ast = none → Leads (.tdiLockRequest n) s d ∧ Leads (.tdiRunRequest n) s d ∧ Leads (.tdiRelease n) s d) ∧
    (∀ n a, (d.fn n).ast = some a →
      let moved := fun (i : Instr) (t : Tdi) => Answers i s fun e => e.fn n = { d.fn n with tdi := t } ∧
        (∀ k, k ≠ n → e.fn k = d.fn k) ∧ e.fw = (d.say .done).fw ∧ e.core = d.core ∧ e.regs = d.regs
      ((d.fn n).tdi = .unlocked → d.lcs.debug = 0 → moved (.tdiLockRequest n) .locked ∧
        Answers (.tdiLockRequest n) s fun e => Tbl.find e.cxl.tdiLog n = none) ∧
      (((d.fn n).tdi ≠ .unlocked ∨ d.lcs.debug ≠ 0) → Leads (.tdiLockRequest n) s (d.say .refused)) ∧
      ((d.fn n).tdi = .locked → moved (.tdiRunRequest n) .run) ∧
      ((d.fn n).tdi ≠ .locked → Leads (.tdiRunRequest n) s (d.say .refused)) ∧
      ((d.fn n).tdi ≠ .unlocked → moved (.tdiRelease n) .unlocked) ∧
      ((d.fn n).tdi = .unlocked → Leads (.tdiRelease n) s (d.say .refused))) ∧
    (∀ port half id,
      let k := linkNo port half
      let may := (∃ x ∈ d.lcs.sessions, x.responder = 1024 + port ∧ x.id = id ∧ x.up = true) ∧ (d.link k).state ≠ 0
      (may → Answers (.ideKeySet port half id) s fun e => e.link k = { d.link k with ideKeys := true, insecure := false } ∧
        (∀ j, j ≠ k → e.link j = d.link j) ∧ { e with cxl := d.cxl } = d) ∧
      (¬may → Leads (.ideKeySet port half id) s d)) ∧
    (∀ port half x,
      let k := linkNo port half
      ((d.link k).state = 0 → Leads (.ideFailure port half x) s d) ∧
      ((d.link k).state ≠ 0 → Sets (.ideFailure port half x) s (fun e => (e.peerLost s.now k 0x0704).shedLink k) fun e =>
        e.link k = { d.link k with ideKeys := false, insecure := true } ∧ (∀ j, j ≠ k → e.link j = d.link j) ∧
        (∀ f ∈ d.fnsOn k, (e.fn f).tdi =
          if (d.fn f).tdi = .locked ∨ (d.fn f).tdi = .run then .error else (d.fn f).tdi) ∧
        (∀ f, f ∉ d.fnsOn k → e.fn f = d.fn f) ∧ e.core = d.core ∧
        ∃ b, e.ras.box = d.ras.box ++ [b] ∧ b.code = 0x0704 ∧ b.detail = [x] ∧
          b.sev = (if (d.core.any fun c => d.onLinkReq k c.1) = true then Sev.contained.code else Sev.degraded.code)))

/-- Tier 2.  Boot and update.  A cold boot starts only from Dark with the input in range (R502); it takes the image if the checks
pass, waits at step 5 while RESET_n is low (R535), and goes into recovery if they fail (R507, R512).  Bring-up ends at step 8, or
stops for a lost die pair (R503 to R505); the lockdown is step 9 (R544), and after memory pass 2 the module is READY (R504,
R517).  An image comes by manifest and blocks, and is VALID after its last; one update at a time (R513, R514); it takes effect at
the next reset (R515).
Where it rests on the model's own choices, they are those of the assumption log's entries 5, 83, 84, 85 and 86. -/
def Obligations.BootAndUpdate : Prop :=
  ∀ s : State,
    let d := s.dev
    let m := d.dice
    let go := fun (i : Instr) (src : Nat) (bad : List Nat) => d.mayBoot src = true →
      (∀ r ∈ d.lcs.journal, r.valid = true ∧ r.commit = true ∨ r.valid = false ∧ r.void = true) →
      (∀ c, m.imageBad = some c → Answers i s fun e => e.fw.recovery = true ∧ e.fw.bootStep = (if c ≤ 5 then 4 else 5) ∧
        e.pwr.pkg = .dark ∧ e.flag MGT_STATUS.RECOVERY = true ∧ e.mem = [] ∧ e.core = [] ∧ e.lcs.journal = d.lcs.journal) ∧
      (m.imageBad = none → d.mod.resetN = false → Answers i s fun e => e.fw.bootStep = 5 ∧ e.fw.ram = d.fw.image ∧
        e.fw.recovery = false ∧ e.pwr.pkg = .dark ∧ e.mem = [] ∧ e.fw.bootAt = s.now) ∧
      (m.imageBad = none → d.mod.resetN = true → Sets i s (fun e => e.bringUp s.now bad) fun e => e.fw.bootStep = 5 ∧
        e.fw.ram = d.fw.image ∧ e.fw.cold = true ∧ e.mem = [] ∧ e.core = [] ∧ e.fw.bootAt = s.now)
    (∀ bad, (d.mayBoot 0 = false → Leads (.coldBoot 0 bad) s { d with mod := { d.mod with pwrEn := true, pwrEnLowAt := none } }) ∧
      go (.coldBoot 0 bad) 0 bad ∧ ((d.mayBoot 9 = false ∨ d.mod.pwrEn = false) → Leads (.coldBoot 9 bad) s d) ∧
      (d.mod.pwrEn = true → go (.coldBoot 9 bad) 9 bad)) ∧
    (752 ≤ d.usableChans → ∀ now, (d.bringUp now []).fw.bootStep = 8 ∧ (d.bringUp now []).pwr.pkg = .run ∧
      (d.bringUp now []).get PWR_STATE_REQ.STATE = 0) ∧
    (∀ now, ∀ p < 8, (d.bringUp now [svcUnit p]).fw.stopped = true ∧ (d.bringUp now [svcUnit p]).pwr.pkg = .dark) ∧
    (d.fw.bootStep ≠ 8 → Leads .mgtLockdown s d) ∧
    (d.fw.bootStep = 8 → Answers .mgtLockdown s fun e => e.fw.bootStep = 9 ∧ e.flag MGT_LOCKDOWN.LOCK = true ∧
      e.flag MGT_STATUS.LOCKED = true ∧ e.get MGT_BOOT_STATUS.STAGE = 9 ∧ e.core = d.core) ∧
    (∀ bad, d.fw.bootStep ≠ 9 → Leads (.memoryPass2Done bad) s d) ∧
    (d.fw.bootStep = 9 → Answers (.memoryPass2Done []) s fun e => e.mem = [] ∧ e.lost = [] ∧ e.slice = [] ∧
      e.fw.bootStep = 12 ∧ e.flag MGT_STATUS.READY = true ∧ e.fw.floorB = max d.fw.floorB d.fw.ram.man.floorB ∧
      e.fw.floorR = max d.fw.floorR d.fw.ram.man.floorR ∧
      (d.fw.cold = true → e.get MGT_BOOT_STATUS.BOOT_MS =
        (s.now - d.fw.bootAt) / 1000000 % 2 ^ MGT_BOOT_STATUS.BOOT_MS.w) ∧
      (d.fw.cold = false → e.ras.resets = [] ∧ e.ras.powerCycle = false)) ∧
    (∀ now l, l < 1024 → d.retired l = false → d.get (STK_CHAN_HEALTH.PSTATE (l / 32) (d.physChan l % 34)) ≠ 1 →
      (∀ k, d.spareChannel (l / 32) = some k → (d.pass2Bad now l).get (STK_SLOT_MAP.PHYS (l / 32) (l % 32)) = k) ∧
      (d.spareChannel (l / 32) = none → d.comp.moves = [] → d.comp.waiting = [] → (d.pass2Bad now l).retired l = true)) ∧
    (∀ mailbox port,
      let w := if mailbox then d else d.wakePkg 3
      let open_ := mailbox = true → d.mailboxOpen port = true
      (¬open_ → Leads (.requestUpdate mailbox port) s (d.say .unsupported) ∧
        ∀ online, Leads (.activateFirmware mailbox port online) s (d.say .unsupported)) ∧
      (open_ → d.fw.update ≠ none → Leads (.requestUpdate mailbox port) s (w.say (if mailbox then .busy else .inUpdate))) ∧
      (open_ → d.fw.update = none → d.fw.bootStep < 4 → Leads (.requestUpdate mailbox port) s (w.say .notReady)) ∧
      (open_ → d.fw.update = none → 4 ≤ d.fw.bootStep → Answers (.requestUpdate mailbox port) s fun e =>
        e.fw.update = some { port := if mailbox then some port else none, manifest := none, blocks := 0, lastAt := s.now } ∧
        e.get MGT_FW_UPDATE.PATH = (if mailbox then 2 else 1) ∧ e.get MGT_FW_UPDATE.PROGRESS = 0 ∧
        e.fw.image = d.fw.image ∧ e.fw.imageState = d.fw.imageState) ∧
      (mailbox = true → open_ → Leads (.activateFirmware mailbox port true) s (w.say .refused)) ∧
      (∀ online, open_ → (mailbox = false ∨ online = false) → Leads (.activateFirmware mailbox port online) s
        (if d.fw.bootStep < 4 then w.say .notReady else w.reply 0xE010 [1]))) ∧
    (∀ port, Leads (.getFwInfo port) s (if d.mailboxOpen port = true then
      d.reply 0xE011 [1, d.fw.ram.man.svnB, d.fw.ram.man.svnR, d.fw.imageState] else d.say .unsupported)) ∧
    (
      let w := if d.pldmUpdate = true then d.wakePkg 3 else d
      (∀ man, (d.fw.update = none ∨ ∃ u, d.fw.update = some u ∧ u.manifest ≠ none) → Leads (.updateComponent man) s w) ∧
      (∀ man u, d.fw.update = some u → u.manifest = none →
        (∀ c, d.manifestBad man = some c → Answers (.updateComponent man) s fun e => e.fw.update = none ∧
          e.get MGT_FW_UPDATE.CAUSE = c ∧ e.fw.imageState = d.fw.imageState ∧ e.fw.answer = (d.say .refused).fw.answer ∧
          e.fw.refused = (if d.fw.recovery then d.fw.refused + 1 else d.fw.refused)) ∧
        (d.manifestBad man = none → Answers (.updateComponent man) s fun e => e.fw.imageState = 1 ∧
          e.fw.update = some { u with manifest := some man, lastAt := s.now } ∧ e.fw.ram = d.fw.ram ∧
          e.fw.answer = (d.say .done).fw.answer)) ∧
      (∀ bad pol, (d.fw.update = none ∨ ∃ u, d.fw.update = some u ∧ u.manifest = none) → Leads (.fwBlock bad pol) s w) ∧
      (∀ bad pol u man, d.fw.update = some u → u.manifest = some man →
        ((u.blocks + 1) * 65536 < man.total → Answers (.fwBlock bad pol) s fun e => e.fw.imageState = d.fw.imageState ∧
          e.fw.update = some { u with blocks := u.blocks + 1, lastAt := s.now } ∧
          e.get MGT_FW_UPDATE.PROGRESS = (u.blocks + 1) % 2 ^ MGT_FW_UPDATE.PROGRESS.w) ∧
        (man.total ≤ (u.blocks + 1) * 65536 → (bad = 6 ∨ bad = 7) → Answers (.fwBlock bad pol) s fun e =>
          e.fw.imageState = 0 ∧ e.fw.update = none ∧ e.get MGT_FW_UPDATE.CAUSE = bad ∧ e.fw.ram = d.fw.ram) ∧
        (man.total ≤ (u.blocks + 1) * 65536 → bad ≠ 6 → bad ≠ 7 → d.fw.recovery = false → Answers (.fwBlock bad pol) s fun e =>
          e.fw.imageState = 2 ∧ e.fw.update = none ∧ e.fw.image = ⟨man, none, pol⟩ ∧ e.get MGT_FW_UPDATE.CAUSE = 0 ∧
          e.fw.ram = d.fw.ram) ∧
        (man.total ≤ (u.blocks + 1) * 65536 → bad ≠ 6 → bad ≠ 7 → d.fw.recovery = true → Sets (.fwBlock bad pol) s
          (fun e => e.romCold s.now []) fun e => e.fw.imageState = 2 ∧ e.fw.update = none ∧ e.fw.image = ⟨man, none, pol⟩ ∧
            e.fw.recovery = false ∧ e.flag MGT_BOOT_STATUS.RECOVERED = true)) ∧
      (∀ u, d.fw.update = some u → u.manifest ≠ none → u.lastAt + 60 * second ≤ s.now → Answers .updateFailed s fun e =>
        e.fw.imageState = 0 ∧ e.fw.update = none ∧ e.fw.image = d.fw.image ∧ e.ras.seq = (d.ras.seq + 1) % 2 ^ 32) ∧
      ((d.fw.update = none ∨ ∃ u, d.fw.update = some u ∧ (u.manifest = none ∨ s.now < u.lastAt + 60 * second)) →
        Leads .updateFailed s d))

/-- Tier 2.  The module.  PLDM and MCTP requests are answered once their service is up, and wake the package (R413, R516); the tray
sets its cap within 1,000 to 7,500 W (R432).  PWR_EN low takes the rails down with no handshake (R528); RESET_n high lets a held
boot go on, WAKE_n wakes or waits for it (R526, R535); PERST_n low takes the port's links down (R526).  A dry leak
trace lets LEAK_n go (R531); at a trip temperature the module goes dark and latches, until PWR_EN has
been low for 1 s (R533, R534).
Where it rests on the model's own choices, they are those of the assumption log's entries 86, 88, 103 and 116. -/
def Obligations.ModuleSignals : Prop :=
  ∀ s : State,
    let d := s.dev
    let w := d.wakePkg 3
    let up := fun (n : Nat) => n ≤ d.fw.bootStep ∨ d.fw.recovery = true ∧ n = 5
    (¬up 5 → (∀ i ∈ [Instr.getTid, .getPldmTypes], Leads i s (w.say .notReady)) ∧
      ∀ x, ∀ i ∈ [Instr.setTid x, .mctpSetEndpointId x, .getPldmCommands x, .getPldmVersion x, .pldmFileRead x],
        Leads i s (w.say .notReady)) ∧
    (¬up 12 → ∀ x, Leads (.trayCap x) s (w.say .notReady) ∧ Leads (.pldmStateRequest x) s (w.say .notReady)) ∧
    (up 5 → Leads .getTid s (w.reply 0xE030 [d.fw.tid]) ∧ Leads .getPldmTypes s (w.reply 0xE031 [0, 2, 4, 5, 7]) ∧
      ∀ x,
        (1 ≤ x → x ≤ 254 → Leads (.setTid x) s ({ w with fw := { w.fw with tid := x } }.say .done)) ∧
        ((x = 0 ∨ 254 < x) → Leads (.setTid x) s (w.say .refused)) ∧
        (8 ≤ x → x ≤ 254 → Leads (.mctpSetEndpointId x) s ({ w with fw := { w.fw with eid := x } }.say .done)) ∧
        ((x < 8 ∨ 254 < x) → Leads (.mctpSetEndpointId x) s (w.say .refused)) ∧
        (x ∈ [0, 2, 4, 5, 7] → Leads (.getPldmCommands x) s (w.reply 0xE032 (x :: pldmCommands x)) ∧
          Leads (.getPldmVersion x) s (w.reply 0xE033 [x, Config.code 0xE033 x])) ∧
        (x ∉ [0, 2, 4, 5, 7] → Leads (.getPldmCommands x) s (w.say .unsupported) ∧ Leads (.getPldmVersion x) s (w.say .unsupported)) ∧
        (2 < x → Leads (.pldmFileRead x) s (w.say .refused))) ∧
    (up 5 → Leads (.pldmFileRead 0) s (w.reply 0xE034 (0 :: d.almFile)) ∧
      Leads (.pldmFileRead 1) s (w.reply 0xE034 (1 :: d.ras.flash.map fun r => r.encode.toNat)) ∧
      Leads (.pldmFileRead 2) s (w.reply 0xE034 (2 :: ((d.ras.dumps.head?).map DumpHdr.nums).getD []))) ∧
    (up 12 → ∀ x,
      (1000 ≤ x → x ≤ 7500 → Sets (.trayCap x) s (fun e => e.shedPower.say .done) fun e => e.get PWR_CAP.TRAY_CAP_W = x ∧
        e.get PWR_CAP.FM_CAP_W = d.get PWR_CAP.FM_CAP_W ∧ e.get PWR_CAP.CAP_W = min (d.get PWR_CAP.FM_CAP_W) x) ∧
      ((x < 1000 ∨ 7500 < x) → Leads (.trayCap x) s ((w.raise 0x0808 moduleUnit 0x02 .info [Config.code 0x0808 1, x]).say .refused)) ∧
      (x ∉ [0, 3, 4] → Leads (.pldmStateRequest x) s (w.say .refused)) ∧
      (x ∈ [0, 3, 4] → (d.pwr.entry.isSome = true ∨ d.mod.tripLatch = true) → w.blockDown PWR_STATE_REQ.off = false →
        Leads (.pldmStateRequest x) s (w.say .done)) ∧
      (x ∈ [3, 4] → d.pwr.entry = none → d.mod.tripLatch = false → w.blockDown PWR_STATE_REQ.off = false →
        Answers (.pldmStateRequest x) s fun e => (∃ y, e.pwr.entry = some y ∧ y.req = x) ∧ e.get PWR_STATE_REQ.STATUS = 1 ∧
          e.pwr.pkg = w.pwr.pkg ∧ e.fw = (d.say .done).fw) ∧
      (x = 0 → d.pwr.entry = none → d.mod.tripLatch = false → w.blockDown PWR_STATE_REQ.off = false →
        Answers (.pldmStateRequest x) s fun e => e.pwr.entry = none ∧ e.get PWR_STATE_REQ.STATUS = 2 ∧
          e.fw = (d.say .done).fw)) ∧
    (Answers .pldmEventAck s fun e => e.fw.events = d.fw.events.dropLast ∧ e.core = d.core ∧ e.ras = d.ras ∧
      (d.fw.events.length ≤ 1 → Alert.event.num ∉ e.mod.alerts)) ∧
    (Answers .forcedPowerDown s fun e => e.pwr.pkg = .dark ∧ e.fw.bootStep = 0 ∧ e.mod.pwrEn = false ∧ e.mem = [] ∧ e.core = [] ∧
      e.lcs.journal = d.lcs.journal ∧ (d.mod.pwrEn = true → e.mod.pwrEnLowAt = some s.now)) ∧
    (∀ bad,
      ((d.mod.tripLatch = true ∨ d.mod.pwrEn = false) → Leads (.resetRelease bad) s { d with mod := { d.mod with resetN := true } } ∧
        Leads (.wake bad) s d) ∧
      (d.mod.tripLatch = false → d.mod.pwrEn = true →
        let x : Dev := { d with mod := { d.mod with resetN := true } }
        let held := ∃ r ∈ d.ras.resets, r.level = 5 ∧ r.step = 4
        let held5 := d.fw.bootStep = 5 ∧ d.fw.cold = true ∧ d.fw.recovery = false ∧ d.fw.stopped = false
        (d.mod.wakeHeld = false → (held → Leads (.resetRelease bad) s (x.pkgUp s.now bad)) ∧
          (¬held → held5 → Leads (.resetRelease bad) s (x.bringUp s.now bad)) ∧
          (¬held → ¬held5 → Leads (.resetRelease bad) s x)) ∧
        (d.mod.wakeHeld = true → ¬held → ¬held5 → d.fw.bootStep ≠ 0 → Leads (.resetRelease bad) s
          (Dev.wakePkg { x with mod := { x.mod with wakeHeld := false } } 4)) ∧
        (d.mod.resetN = false → Answers (.wake bad) s fun e => e.mod = { d.mod with wakeHeld := true } ∧ e.pwr = d.pwr ∧
          e.get PWR_LAST_WAKE.SOURCE = 4) ∧
        (d.mod.resetN = true → d.fw.bootStep ≠ 0 → Leads (.wake bad) s (d.wakePkg 4)) ∧
        (d.mod.resetN = true → d.fw.bootStep = 0 → Leads (.wake bad) s (d.coldBoot s.now 4 bad)))) ∧
    (∀ port, port < 4 →
      Answers (.perstLow port) s (fun e => e.flag (CXP_STATUS.READY port) = false ∧ e.flag (CXP_STATUS.MEM_ACTIVE port) = false ∧
        ((d.link (linkNo port false)).state = 0 → (d.link (linkNo port true)).state = 0 →
          d.mod.perst.length = 4 → e.mod.perst[port]? = some false ∧ e.ras = d.ras)) ∧
      ((d.link (linkNo port false)).state ≠ 0 → (d.link (linkNo port true)).state = 0 → Sets (.perstLow port) s (fun e =>
          ((e.shedLink (linkNo port false)).set (CXP_STATUS.READY port) 0).set (CXP_STATUS.MEM_ACTIVE port) 0) fun e =>
        (e.link (linkNo port false)).state = 0 ∧ (e.link (linkNo port false)).ideKeys = false ∧
        ∃ b, e.ras.box = d.ras.box ++ [b] ∧ b.code = 0x0701) ∧
      Answers (.perstRise port) s fun e => (d.mod.perst.length = 4 → e.mod.perst[port]? = some true) ∧ e.ras = d.ras ∧
        e.cxl.partners = d.cxl.partners) ∧
    (∀ mv, (d.mod.pwrEn = true → Leads (.hotInsertionPrecharge mv) s d) ∧
      (d.mod.pwrEn = false →
        let on := decide (46000 < mv) && decide (mv < 59000)
        Answers (.hotInsertionPrecharge mv) s fun e =>
          e.mod = { d.mod with vinMv := mv, precharged := on, standby := on, inputOn := on } ∧ e.pwr.pkg = d.pwr.pkg ∧
            e.pwr.lockout = false ∧ e.regs = d.regs)) ∧
    (Answers .leakTraceDry s fun e => e.mod.leak = false ∧ Alert.leak.num ∉ e.mod.alerts ∧ e.ras = d.ras ∧ e.core = d.core) ∧
    (∀ unit temp,
      let trips := d.mod.tripLatch = false ∧ d.tripsAt unit temp = true ∧ d.fw.bootStep ≠ 0
      (¬trips → Leads (.thermalTrip unit temp) s d) ∧
      (trips → Answers (.thermalTrip unit temp) s fun e => e.mod.tripLatch = true ∧ e.pwr.pkg = .dark ∧ e.fw.bootStep = 0 ∧
        e.alm.trips = d.alm.trips + 1 ∧ e.core = [] ∧ e.mem = [] ∧ e.mod.alertN = false)) ∧
    (∀ temp, (∀ p < 8, d.tripsAt (svcUnit p) temp = decide (110 ≤ temp)) ∧
      ∀ k < 32, d.tripsAt (stackUnit k) temp = decide (d.get (STK_THERM_CTRL.TRIP k) ≤ temp)) ∧
    (
      let clears := d.mod.tripLatch = true ∧ d.mod.pwrEn = false ∧ ∃ t, d.mod.pwrEnLowAt = some t ∧ t + second ≤ s.now
      (clears → Answers .thermalTripLatchClear s fun e => e.mod.tripLatch = false ∧ Alert.trip.num ∉ e.mod.alerts ∧
        { e with mod := d.mod } = d) ∧
      (¬clears → Leads .thermalTripLatchClear s d))

/-- Tier 2.  The management ring and set-up registers.  A write that the path's mask forbids is dropped, counted and recorded at most
once a second (R474); one to a block that is down, of a wrong size, alignment or place changes nothing but BAD_ACCESS (R543,
R545, R546); else a register takes the writable bits that are covered, and a locked field keeps its value, counted (R544).  The
ring belongs to the path that sets EN, starts at 0, and fetches the slots its doorbell posts; management commands are accepted,
or refused if their header is not R549's (R549, R395).
Where it rests on the model's own choices, they are those of the assumption log's entries 15, 16, 17, 18 and 101. -/
def Obligations.RingAndRegisters : Prop :=
  ∀ s : State,
    let d := s.dev
    (∀ path off, d.mayWrite path off = false →
      let denied := fun (i : Instr) => Leads i s (d.deny s.now path off) ∧
        (d.deny s.now path off).get LCS_STATE.DENIED = satAdd LCS_STATE.DENIED.w (d.get LCS_STATE.DENIED) 1
      (∀ size v, denied (.registerWrite path off size v)) ∧
      (off = MGT_RING_BASE.off → ∀ v, (bit v.toNat 0 = true → denied (.mgtRingEnable path v)) ∧
        (bit v.toNat 0 = false → denied (.mgtRingDisable path v))) ∧
      (off = MGT_DOORBELL.off → ∀ v, denied (.mgtDoorbellWrite path v)) ∧
      (off = MGT_CQ_HEAD.off → ∀ v, denied (.mgtCqHeadWrite path v))) ∧
    (∀ path off size v, d.mayWrite path off = true → d.blockDown off = true → Leads (.registerWrite path off size v) s d) ∧
    (∀ path off size (v : Word), MayWrite d path off →
      ((size ≠ 4 ∧ size ≠ 8) ∨ off % size ≠ 0 → Leads (.registerWrite path off size v) s (d.sat MGT_STATUS.BAD_ACCESS 1)) ∧
      ((size = 4 ∨ size = 8) → off % size = 0 → byteWindow off = none → regSpec (off / 8 * 8) = none →
        Leads (.registerWrite path off size v) s d) ∧
      ((size = 4 ∨ size = 8) → off % size = 0 → byteWindow off = some 2 → Answers (.registerWrite path off size v) s fun e =>
        e.regs = d.regs ∧ ∀ i < size, Tbl.find e.lcs.token (off - 0x10400 + i) = some (BitVec.ofNat 8 (v.toNat / 2 ^ (8 * i)))) ∧
      (off ∈ [PWR_SLEW_LIMIT.off, PWR_BUFFER_ENERGY.off, PWR_WAVE.off, PWR_CTRL.off, PWR_DROOP.off, PWR_WAKE_TIMER.off,
          ALM_CTRL.off, RAS_HANG_CTRL.off, ADM_CTRL.off, CMP_VIEW.off] → size = 8 → ∃ r a b, regSpec off = some (r, a, b) ∧
        Leads (.registerWrite path off size v) s ((d.plainWrite r off v.toNat (2 ^ 64 - 1)).lockCount r (2 ^ 64 - 1)))) ∧
    (∀ (r : RegSpec) off v cov, (∀ i, i < 64 → bit (d.writable r &&& cov) i = false → bit (v &&& cov &&& r.w1c) i = false →
        (ranges off = [] → bit (d.written r off v cov) i = bit (d.reg off) i)) ∧
      (d.flag MGT_LOCKDOWN.LOCK = true → d.writable r = r.rw) ∧ (d.flag MGT_LOCKDOWN.LOCK = false → d.writable r = r.rw ||| r.rwb)) ∧
    (∀ path (v : Word), MayWrite d path MGT_RING_BASE.off →
      (bit v.toNat 0 = false → Leads (.mgtRingEnable path v) s d) ∧ (bit v.toNat 0 = true → Leads (.mgtRingDisable path v) s d) ∧
      (d.ringTaken path = true → (bit v.toNat 0 = true → Leads (.mgtRingEnable path v) s (d.sat MGT_STATUS.RING_DENIED 1)) ∧
        (bit v.toNat 0 = false → Leads (.mgtRingDisable path v) s (d.sat MGT_STATUS.RING_DENIED 1))) ∧
      (bit v.toNat 0 = true → d.flag MGT_RING_BASE.EN = false → d.mgtDue = false → d.flag MGT_STATUS.READY = true → path ≤ 4 →
        Answers (.mgtRingEnable path v) s fun e => e.flag MGT_RING_BASE.EN = true ∧ e.get MGT_RING_BASE.BASE = bits v.toNat 12 52 ∧
          e.get MGT_RING_BASE.SPACE = spaceOf path ∧ e.get MGT_RING_HEAD.HEAD = 0 ∧ e.get MGT_DOORBELL.TAIL = 0 ∧
          e.get MGT_CQ_HEAD.HEAD = 0 ∧ e.get MGT_CQ_TAIL.TAIL = 0) ∧
      (bit v.toNat 0 = true → d.flag MGT_RING_BASE.EN = false → d.mgtDue = true → Leads (.mgtRingEnable path v) s d) ∧
      (bit v.toNat 0 = false → d.flag MGT_RING_BASE.EN = true → d.ringTaken path = false →
        Answers (.mgtRingDisable path v) s fun e => e.flag MGT_RING_BASE.EN = false ∧
          e.get MGT_RING_BASE.BASE = d.get MGT_RING_BASE.BASE ∧ e.hif.mold = some (d.get MGT_RING_SIZE.CLOG2N) ∧
          e.hif.mgt = d.hif.mgt)) ∧
    (∀ path v, MayWrite d path MGT_DOORBELL.off →
      let t := v % 2 ^ 32
      let ok := d.ringTaken path = false ∧ (t + 2 ^ 32 - d.get MGT_DOORBELL.TAIL) % 2 ^ 32 < 2 ^ 31 ∧
        (t + 2 ^ 32 - d.get MGT_RING_HEAD.HEAD) % 2 ^ 32 ≤ 2 ^ d.get MGT_RING_SIZE.LOG2N
      (ok → Leads (.mgtDoorbellWrite path v) s ((d.set MGT_DOORBELL.TAIL t).wakePkg 2)) ∧
      (¬ok → Leads (.mgtDoorbellWrite path v) s ((d.sat MGT_STATUS.RING_DENIED 1).wakePkg 2))) ∧
    (∀ path v, MayWrite d path MGT_CQ_HEAD.off →
      let h := v % 2 ^ 32
      let old := d.get MGT_CQ_HEAD.HEAD
      let past := (d.get MGT_CQ_TAIL.TAIL + 2 ^ 32 - old) % 2 ^ 32 < (h + 2 ^ 32 - old) % 2 ^ 32
      (d.ringTaken path = true → Leads (.mgtCqHeadWrite path v) s (d.sat MGT_STATUS.RING_DENIED 1)) ∧
      (d.ringTaken path = false → past → Leads (.mgtCqHeadWrite path v) s d) ∧
      (d.ringTaken path = false → ¬past → d.hif.mheld = [] → Leads (.mgtCqHeadWrite path v) s (d.set MGT_CQ_HEAD.HEAD h)) ∧
      (d.ringTaken path = false → ¬past → Answers (.mgtCqHeadWrite path v) s fun e => e.get MGT_CQ_HEAD.HEAD = h ∧
        e.hif.mgt = d.hif.mgt ∧ e.core = d.core)) ∧
    (∀ slot delta,
      let h := d.get MGT_RING_HEAD.HEAD
      let may := d.flag MGT_RING_BASE.EN = true ∧ h ≠ d.get MGT_DOORBELL.TAIL ∧ d.hif.mheld = [] ∧ d.ringOwnerUp = true
      (¬may → Leads (.mgtRingFetch slot delta) s d) ∧
      (may → mgtFine slot = true → Answers (.mgtRingFetch slot delta) s fun e => e.get MGT_RING_HEAD.HEAD = (h + 1) % 2 ^ 32 ∧
        Tbl.find e.hif.mgt d.hif.nextMgt = some { pos := h, submit := none, slot := slot, delta := deltaOf delta, at_ := s.now
                                                  started := false, count := 0 } ∧ e.ras = d.ras ∧ e.core = d.core) ∧
      (may → mgtFine slot = false → Answers (.mgtRingFetch slot delta) s fun e => e.get MGT_RING_HEAD.HEAD = (h + 1) % 2 ^ 32 ∧
        Tbl.find e.hif.mgt d.hif.nextMgt = none ∧ (∃ b, e.ras.box = d.ras.box ++ [b] ∧ b.code = 0x0601) ∧ e.core = d.core) ∧
      (∀ port, (2048 < delta.length → Leads (.mgtSubmit port slot delta) s d) ∧
        (delta.length ≤ 2048 → mgtFine slot = true → Answers (.mgtSubmit port slot delta) s fun e =>
          Tbl.find e.hif.mgt d.hif.nextMgt = some { pos := 0, submit := some port, slot := slot, delta := deltaOf delta
                                                    at_ := s.now, started := false, count := 0 } ∧ e.ras = d.ras) ∧
        (delta.length ≤ 2048 → mgtFine slot = false → Answers (.mgtSubmit port slot delta) s fun e =>
          Tbl.find e.hif.mgt d.hif.nextMgt = none ∧ (∃ b, e.ras.box = d.ras.box ++ [b] ∧ b.code = 0x0601) ∧
          ∃ r, e.hif.submitted = (port, r) :: d.hif.submitted ∧ r.status = .refused ∧ r.error = 0x0601)))

/-! ### Single rules -/

/-- Tier 2.  Conversions into INT8.  INT8 is two's complement; a conversion into it rounds with the mode named and saturates to −128
to 127, NaN gives 0, an infinity the end of the range of its sign, and SAT has no effect (R36).  Rounding is exact for a whole
number, toward zero under RZ, and within half a unit of the value under RNE. -/
def Obligations.IntegersSaturate : Prop :=
  (∀ c < 256, Fmt.int8.decode c = .fin (decide (128 ≤ c)) (if 128 ≤ c then 256 - c else c) 0) ∧
  (∀ elem r sat draw x, Fmt.int8.convert elem r sat draw x = Fmt.int8.convert elem r (!sat) draw x) ∧
  (∀ elem r sat draw, (Fmt.int8.convert elem r sat draw .nan).1 = 0 ∧
    ∀ neg, signed 8 (Fmt.int8.convert elem r sat draw (.inf neg)).1 = if neg then -128 else 127) ∧
  (∀ elem r sat draw neg m e, (Fmt.int8.convert elem r sat draw (.fin neg m e)).1 < 256 ∧
    (
      let t : Int := roundInt r draw neg m e 0
      signed 8 (Fmt.int8.convert elem r sat draw (.fin neg m e)).1 = max (-128) (min 127 (if neg then -t else t)))) ∧
  (∀ r draw neg m e, 0 ≤ e → roundInt r draw neg m e 0 = m * 2 ^ e.toNat) ∧
  (∀ draw neg m (k : Nat), roundInt .rz draw neg m (-(k : Int)) 0 = m / 2 ^ k ∧
    (let t := roundInt .rne draw neg m (-(k : Int)) 0
     2 * (t * 2 ^ k) ≤ 2 * m + 2 ^ k ∧ 2 * m ≤ 2 * (t * 2 ^ k) + 2 ^ k) ∧
    roundInt .ru draw neg m (-(k : Int)) 0 = (if neg then m / 2 ^ k else (m + 2 ^ k - 1) / 2 ^ k) ∧
    roundInt .rd draw neg m (-(k : Int)) 0 = (if neg then (m + 2 ^ k - 1) / 2 ^ k else m / 2 ^ k))

/-- Tier 2.  A parked queue that points to no queue and has waited for NOPROG_MS records 0x0A02, once for that wait, and nothing else
follows: beside the record and its count, all stays as it was (R450).  A queue that is not parked, points somewhere or has
waited less records nothing. -/
def Obligations.HangWithoutProgress : Prop :=
  ∀ (s : State) (q : Nat),
    let d := s.dev
    (d.flag RAS_HANG_CTRL.EN = false → Leads (.hangNoProgress q) s d) ∧
    (((d.parked s.now).find? fun p => p.queue == q) = none → Leads (.hangNoProgress q) s d) ∧
    (∀ p, ((d.parked s.now).find? fun p => p.queue == q) = some p → d.flag RAS_HANG_CTRL.EN = true →
      ((p.to_ ≠ [] ∨ s.now < p.since + d.get RAS_HANG_CTRL.NOPROG_MS * 1000000 ∨ p.id ∈ d.ras.noProg) →
        Leads (.hangNoProgress q) s d) ∧
      (p.to_ = [] → p.since + d.get RAS_HANG_CTRL.NOPROG_MS * 1000000 ≤ s.now → p.id ∉ d.ras.noProg →
        Answers (.hangNoProgress q) s fun e =>
          (∃ b, e.ras.box = d.ras.box ++ [b] ∧ b.code = 0x0A02 ∧ b.detail = [q, p.event]) ∧ p.id ∈ e.ras.noProg ∧
          { e with regs := d.regs, ras := d.ras } = d ∧
          (∀ f : Fld, f.off ≠ RAS_HANG_STATUS.NOPROG.off → e.get f = d.get f) ∧
          Answers (.hangNoProgress q) { s with dev := e } fun x => x = e))

/-- Tier 2.  Flow below 8 L/min or an inlet above 40 °C that lasts 10 s is recorded, 0x080D, with ALERT_n low, once; so is a leak; and
nothing else of the module changes (R532).  A sample within the limits ends the condition.
Where it rests on the model's own choices, they are those of the assumption log's entries 88 and 103. -/
def Obligations.CoolantIsRecorded : Prop :=
  ∀ s : State,
    let d := s.dev
    let tells := fun (i : Instr) => Answers i s fun e => e.mod.alertN = false ∧ e.ras.seq = (d.ras.seq + 1) % 2 ^ 32 ∧
      (d.flag RAS_ERRQ_BASE.EN = false → d.ras.heldBoot.length < 256 → ∃ x, e.ras.heldBoot = d.ras.heldBoot ++ [x] ∧
        x.code = 0x080D ∧ x.detail = [d.mod.flow, d.mod.inlet, d.mod.outlet, e.mod.leak.toNat]) ∧
      { d with mod := e.mod, ras := e.ras, regs := e.regs, hif := { d.hif with intr := e.hif.intr } } = e ∧
      { d.mod with coolRec := e.mod.coolRec, leak := e.mod.leak, alertN := e.mod.alertN, alerts := e.mod.alerts } = e.mod
    (∀ flow inlet outlet, Answers (.coolantSample flow inlet outlet) s fun e => e.mod.flow = flow ∧ e.mod.inlet = inlet ∧
      e.mod.outlet = outlet ∧ { e with mod := d.mod } = d ∧ (80 ≤ flow → inlet ≤ 400 → e.mod.coolAt = none ∧ e.mod.coolRec = false ∧
        Alert.coolant.num ∉ e.mod.alerts) ∧
      ((flow < 80 ∨ 400 < inlet) → e.mod.coolAt = (match d.mod.coolAt with | some t => some t | none => some s.now) ∧
        e.mod.coolRec = d.mod.coolRec)) ∧
    (d.mod.coolAt = none → Leads .coolant s d) ∧
    (∀ t, d.mod.coolAt = some t → ((d.mod.coolRec = true ∨ s.now < t + 10 * second) → Leads .coolant s d) ∧
      (d.mod.coolRec = false → t + 10 * second ≤ s.now → tells .coolant ∧ Answers .coolant s fun e => e.mod.coolRec = true)) ∧
    (d.mod.leak = true → Leads .leakDetect s d) ∧
    (d.mod.leak = false → tells .leakDetect ∧ Answers .leakDetect s fun e => e.mod.leak = true)

/-- Tier 2.  In Test, debug level 2 is granted only with every asterism FREE, and with W1 and W2 done before it opens: nothing is left
in memory or slices, no memory key in any stack, no IDE key on any link (R499). -/
def Obligations.DebugInTest : Prop :=
  ∀ (s : State) (path : Nat) (sig dev : Bool),
    let d := s.dev
    d.lcs.state = 1 → d.lcs.debug < 2 →
      (∀ e, Leads (.debugUnlock path sig dev) s e → e.lcs.debug = 2 → (∀ a, (d.ast a).state = .free) ∧ e.mem = [] ∧ e.lost = [] ∧
        e.slice = [] ∧ (∀ k, (e.stack k).keys = []) ∧ ∀ k, (e.link k).ideKeys = false) ∧
      (d.lcs.tokTarget = 2 → MayWrite d path LCS_TRANSITION.off → firstCause (d.debugCauses path sig dev) = none →
        Answers (.debugUnlock path sig dev) s fun e => e.lcs.debug = 2)
end

