-- ==== Sys2Proof/Laws/Bits.lean ====
section
/-!
SUPPORT. Laws of bit fields and of sparse tables: what is read after a write.
-/

namespace Sys2Proof.Machine

/-! ### Bit fields -/

theorem bits_lt (x lo w : Nat) : bits x lo w < 2 ^ w := Nat.mod_lt _ (Nat.two_pow_pos w)

/-- A number cut at two bit positions. -/
theorem bits_split (x lo w : Nat) : x = x % 2 ^ lo + bits x lo w * 2 ^ lo + x / 2 ^ (lo + w) * 2 ^ (lo + w) := by
  have h1 := Nat.div_add_mod x (2 ^ lo)
  have h2 := Nat.div_add_mod (x / 2 ^ lo) (2 ^ w)
  rw [Nat.div_div_eq_div_mul, ← pow_add] at h2
  unfold bits
  have e : 2 ^ (lo + w) = 2 ^ lo * 2 ^ w := pow_add 2 lo w
  calc x = 2 ^ lo * (x / 2 ^ lo) + x % 2 ^ lo := h1.symm
    _ = 2 ^ lo * (2 ^ w * (x / 2 ^ (lo + w)) + x / 2 ^ lo % 2 ^ w) + x % 2 ^ lo := by rw [h2]
    _ = _ := by rw [e]; ring

/-- What `setBits` makes of the three parts. -/
theorem setBits_split (x lo w v : Nat) :
    setBits x lo w v = x % 2 ^ lo + v % 2 ^ w * 2 ^ lo + x / 2 ^ (lo + w) * 2 ^ (lo + w) := by
  have h := bits_split x lo w
  unfold setBits
  omega

/-- Cutting a number that is given in its three parts. -/
theorem bits_parts (a b c lo w : Nat) (ha : a < 2 ^ lo) (hb : b < 2 ^ w) :
    bits (a + b * 2 ^ lo + c * 2 ^ (lo + w)) lo w = b := by
  have e : a + b * 2 ^ lo + c * 2 ^ (lo + w) = a + 2 ^ lo * (b + 2 ^ w * c) := by rw [pow_add]; ring
  unfold bits
  rw [e, Nat.add_mul_div_left _ _ (Nat.two_pow_pos lo), Nat.div_eq_of_lt ha, Nat.zero_add, Nat.add_mul_mod_self_left,
    Nat.mod_eq_of_lt hb]

@[simp] theorem bits_setBits_same (x lo w v : Nat) : bits (setBits x lo w v) lo w = v % 2 ^ w := by
  rw [setBits_split]
  exact bits_parts _ _ _ _ _ (Nat.mod_lt _ (Nat.two_pow_pos lo)) (Nat.mod_lt _ (Nat.two_pow_pos w))

/-- Bits below a position that a change above it leaves. -/
theorem bits_below (a b lo n w : Nat) (h : lo + w ≤ n) : bits (a + b * 2 ^ n) lo w = bits a lo w := by
  obtain ⟨k, rfl⟩ := Nat.exists_eq_add_of_le h
  have e : a + b * 2 ^ (lo + w + k) = a + 2 ^ lo * (2 ^ w * (b * 2 ^ k)) := by rw [pow_add, pow_add]; ring
  unfold bits
  rw [e, Nat.add_mul_div_left _ _ (Nat.two_pow_pos lo), Nat.add_mul_mod_self_left]

/-- Bits of a number cut off at a higher position. -/
theorem bits_mod (x lo w n : Nat) (h : lo + w ≤ n) : bits (x % 2 ^ n) lo w = bits x lo w := by
  conv_rhs => rw [← Nat.mod_add_div x (2 ^ n), Nat.mul_comm]
  rw [bits_below _ _ _ _ _ h]

theorem bits_setBits_below (x lo w v lo' w' : Nat) (h : lo' + w' ≤ lo) :
    bits (setBits x lo w v) lo' w' = bits x lo' w' := by
  rw [setBits_split, pow_add, show x % 2 ^ lo + v % 2 ^ w * 2 ^ lo + x / (2 ^ lo * 2 ^ w) * (2 ^ lo * 2 ^ w) =
    x % 2 ^ lo + (v % 2 ^ w + x / (2 ^ lo * 2 ^ w) * 2 ^ w) * 2 ^ lo by ring, bits_below _ _ _ _ _ h, bits_mod _ _ _ _ h]

theorem bits_setBits_above (x lo w v lo' w' : Nat) (h : lo + w ≤ lo') :
    bits (setBits x lo w v) lo' w' = bits x lo' w' := by
  have hlt : x % 2 ^ lo + v % 2 ^ w * 2 ^ lo < 2 ^ (lo + w) := by
    have h1 := Nat.mod_lt x (Nat.two_pow_pos lo)
    have h2 := Nat.mod_lt v (Nat.two_pow_pos w)
    have h3 : (v % 2 ^ w + 1) * 2 ^ lo ≤ 2 ^ w * 2 ^ lo := Nat.mul_le_mul_right _ h2
    rw [pow_add, Nat.mul_comm (2 ^ lo)]
    rw [Nat.add_mul, Nat.one_mul] at h3
    omega
  have key : setBits x lo w v / 2 ^ (lo + w) = x / 2 ^ (lo + w) := by
    rw [setBits_split, Nat.mul_comm (x / _), Nat.add_mul_div_left _ _ (Nat.two_pow_pos _), Nat.div_eq_of_lt hlt,
      Nat.zero_add]
  obtain ⟨k, rfl⟩ := Nat.exists_eq_add_of_le h
  unfold bits
  rw [pow_add 2 (lo + w) k, ← Nat.div_div_eq_div_mul, key, Nat.div_div_eq_div_mul]

/-! ### Sparse tables -/

namespace Tbl
variable {α : Type}

@[simp] theorem find_put_same (t : Tbl α) (k : Nat) (v : α) : Tbl.find (Tbl.put t k v) k = some v := by
  induction t with
  | nil => simp [Tbl.put, Tbl.find]
  | cons e t ih =>
    obtain ⟨i, a⟩ := e
    unfold Tbl.put
    split
    · simp [Tbl.find]
    · split
      · simp [Tbl.find]
      · rename_i h2
        simp [Tbl.find, Ne.symm h2, ih]

theorem find_put_other (t : Tbl α) (k j : Nat) (v : α) (h : j ≠ k) : Tbl.find (Tbl.put t k v) j = Tbl.find t j := by
  induction t with
  | nil => simp [Tbl.put, Tbl.find, Ne.symm h]
  | cons e t ih =>
    obtain ⟨i, a⟩ := e
    unfold Tbl.put
    split
    · simp [Tbl.find, Ne.symm h]
    · split
      · rename_i h2
        subst h2
        simp [Tbl.find, Ne.symm h]
      · simp [Tbl.find, ih]

@[simp] theorem find_del_same (t : Tbl α) (k : Nat) : Tbl.find (Tbl.del t k) k = none := by
  induction t with
  | nil => rfl
  | cons e t ih =>
    obtain ⟨i, a⟩ := e
    unfold Tbl.del
    split
    · exact ih
    · rename_i h
      simp [Tbl.find, h, ih]

theorem find_del_other (t : Tbl α) (k j : Nat) (h : j ≠ k) : Tbl.find (Tbl.del t k) j = Tbl.find t j := by
  induction t with
  | nil => rfl
  | cons e t ih =>
    obtain ⟨i, a⟩ := e
    unfold Tbl.del
    split
    · rename_i h2
      subst h2
      simp [Tbl.find, Ne.symm h, ih]
    · simp [Tbl.find, ih]

@[simp] theorem find_adj_same (t : Tbl α) (k : Nat) (f : α → α) : Tbl.find (Tbl.adj t k f) k = (Tbl.find t k).map f := by
  induction t with
  | nil => rfl
  | cons e t ih =>
    obtain ⟨i, a⟩ := e
    unfold Tbl.adj
    split
    · rename_i h
      simp [Tbl.find, h]
    · rename_i h
      simp [Tbl.find, h, ih]

theorem find_adj_other (t : Tbl α) (k j : Nat) (f : α → α) (h : j ≠ k) : Tbl.find (Tbl.adj t k f) j = Tbl.find t j := by
  induction t with
  | nil => rfl
  | cons e t ih =>
    obtain ⟨i, a⟩ := e
    unfold Tbl.adj
    split
    · rename_i h2
      subst h2
      simp [Tbl.find, Ne.symm h]
    · simp [Tbl.find, ih]

@[simp] theorem look_put_same (d : α) (t : Tbl α) (k : Nat) (v : α) : Tbl.look d (Tbl.put t k v) k = v := by
  simp [Tbl.look]

theorem look_put_other (d : α) (t : Tbl α) (k j : Nat) (v : α) (h : j ≠ k) :
    Tbl.look d (Tbl.put t k v) j = Tbl.look d t j := by
  simp [Tbl.look, find_put_other _ _ _ _ h]

@[simp] theorem look_upd_same (d : α) (t : Tbl α) (k : Nat) (f : α → α) :
    Tbl.look d (Tbl.upd d t k f) k = f (Tbl.look d t k) := by
  simp [Tbl.upd]

theorem look_upd_other (d : α) (t : Tbl α) (k j : Nat) (f : α → α) (h : j ≠ k) :
    Tbl.look d (Tbl.upd d t k f) j = Tbl.look d t j := by
  simp [Tbl.upd, look_put_other _ _ _ _ _ h]

theorem find_mapV (f : Nat → α → α) (t : Tbl α) (k : Nat) :
    Tbl.find (Tbl.mapV f t) k = (Tbl.find t k).map (f k) := by
  induction t with
  | nil => rfl
  | cons e t ih =>
    obtain ⟨i, a⟩ := e
    simp only [Tbl.mapV, List.map_cons, Tbl.find]
    split
    · rename_i h
      simp [h]
    · exact ih

@[simp] theorem look_putD_same [DecidableEq α] (d : α) (t : Tbl α) (k : Nat) (v : α) :
    Tbl.look d (Tbl.putD d t k v) k = v := by
  unfold Tbl.putD
  split
  · rename_i h
    simp [Tbl.look, h]
  · simp

theorem look_putD_other [DecidableEq α] (d : α) (t : Tbl α) (k j : Nat) (v : α) (h : j ≠ k) :
    Tbl.look d (Tbl.putD d t k v) j = Tbl.look d t j := by
  unfold Tbl.putD
  split
  · simp [Tbl.look, find_del_other _ _ _ h]
  · exact look_put_other _ _ _ _ _ h

/-! The canonical form. -/

theorem rising_weaken {t : Tbl α} {a b : Nat} (h : Tbl.risingFrom b t = true) (hab : a ≤ b) : Tbl.risingFrom a t = true := by
  cases t with
  | nil => rfl
  | cons e t =>
    simp only [Tbl.risingFrom, Bool.and_eq_true, decide_eq_true_eq] at h ⊢
    exact ⟨Nat.le_trans hab h.1, h.2⟩

theorem rising_put {t : Tbl α} {lo : Nat} (k : Nat) (v : α) (h : Tbl.risingFrom lo t = true) (hk : lo ≤ k) :
    Tbl.risingFrom lo (Tbl.put t k v) = true := by
  induction t generalizing lo with
  | nil => simp [Tbl.put, Tbl.risingFrom, hk]
  | cons e t ih =>
    obtain ⟨i, a⟩ := e
    simp only [Tbl.risingFrom, Bool.and_eq_true, decide_eq_true_eq] at h
    unfold Tbl.put
    split
    · simp only [Tbl.risingFrom, Bool.and_eq_true, decide_eq_true_eq]
      exact ⟨hk, by omega, h.2⟩
    · split
      · rename_i h2
        subst h2
        simp only [Tbl.risingFrom, Bool.and_eq_true, decide_eq_true_eq]
        exact ⟨h.1, h.2⟩
      · simp only [Tbl.risingFrom, Bool.and_eq_true, decide_eq_true_eq]
        exact ⟨h.1, ih h.2 (by omega)⟩

theorem rising_del {t : Tbl α} {lo : Nat} (k : Nat) (h : Tbl.risingFrom lo t = true) :
    Tbl.risingFrom lo (Tbl.del t k) = true := by
  induction t generalizing lo with
  | nil => rfl
  | cons e t ih =>
    obtain ⟨i, a⟩ := e
    simp only [Tbl.risingFrom, Bool.and_eq_true, decide_eq_true_eq] at h
    unfold Tbl.del
    split
    · exact ih (rising_weaken h.2 (by omega))
    · simp only [Tbl.risingFrom, Bool.and_eq_true, decide_eq_true_eq]
      exact ⟨h.1, ih h.2⟩

theorem rising_filter {t : Tbl α} {lo : Nat} (p : Nat × α → Bool) (h : Tbl.risingFrom lo t = true) :
    Tbl.risingFrom lo (t.filter p) = true := by
  induction t generalizing lo with
  | nil => rfl
  | cons e t ih =>
    obtain ⟨i, a⟩ := e
    simp only [Tbl.risingFrom, Bool.and_eq_true, decide_eq_true_eq] at h
    rw [List.filter_cons]
    split
    · simp only [Tbl.risingFrom, Bool.and_eq_true, decide_eq_true_eq]
      exact ⟨h.1, ih h.2⟩
    · exact ih (rising_weaken h.2 (by omega))

theorem mem_put {t : Tbl α} {k : Nat} {v : α} {e : Nat × α} (h : e ∈ Tbl.put t k v) : e = (k, v) ∨ e ∈ t := by
  induction t with
  | nil => exact .inl (by simpa [Tbl.put] using h)
  | cons x t ih =>
    obtain ⟨i, a⟩ := x
    unfold Tbl.put at h
    split at h
    · simpa using h
    · split at h
      · rcases List.mem_cons.1 h with h | h
        · exact .inl h
        · exact .inr (List.mem_cons_of_mem _ h)
      · rcases List.mem_cons.1 h with h | h
        · exact .inr (by simp [h])
        · rcases ih h with h | h
          · exact .inl h
          · exact .inr (List.mem_cons_of_mem _ h)

theorem mem_del {t : Tbl α} {k : Nat} {e : Nat × α} (h : e ∈ Tbl.del t k) : e ∈ t ∧ e.1 ≠ k := by
  induction t with
  | nil => cases h
  | cons x t ih =>
    obtain ⟨i, a⟩ := x
    unfold Tbl.del at h
    split at h
    · exact ⟨List.mem_cons_of_mem _ (ih h).1, (ih h).2⟩
    · rename_i h2
      rcases List.mem_cons.1 h with h | h
      · exact ⟨by simp [h], by rw [h]; exact h2⟩
      · exact ⟨List.mem_cons_of_mem _ (ih h).1, (ih h).2⟩

end Tbl

end Sys2Proof.Machine
end

