-- ==== Sys2Proof/Laws/Memory.lean ====
section
/-!
SUPPORT. Laws of memory: a read after a write, and that every operation that changes the stacks' or the slices' memory
keeps its canonical form.
-/

namespace Sys2Proof.Machine

/-- The device's memories are in canonical form. -/
def Dev.memWf (d : Dev) : Prop := Memory.wf d.lost d.mem = true ∧ SliceMem.wf d.slice = true

/-! ### Read after write -/

@[simp] theorem Dev.setGran_lost (d : Dev) (k : Nat) (g : Gran) : (d.setGran k g).lost = d.lost := rfl
@[simp] theorem Dev.setGran_slice (d : Dev) (k : Nat) (g : Gran) : (d.setGran k g).slice = d.slice := rfl

/-- A granule reads as what was stored. -/
@[simp] theorem Dev.gran_setGran_same (d : Dev) (k : Nat) (g : Gran) : (d.setGran k g).gran k = g := by
  simp [Dev.gran, Dev.setGran]

/-- Every other granule is left. -/
theorem Dev.gran_setGran_other (d : Dev) (k j : Nat) (g : Gran) (h : j ≠ k) : (d.setGran k g).gran j = d.gran j := by
  unfold Dev.gran Dev.setGran Tbl.putD
  split
  · simp [Tbl.look, Tbl.find_del_other _ _ _ h]
  · exact Tbl.look_put_other _ _ _ _ _ h

@[simp] theorem Dev.sgran_setSgran1_same (d : Dev) (k : Nat) (g : SliceGran) : (d.setSgran1 k g).sgran k = g := by
  simp [Dev.sgran, Dev.setSgran1]

theorem Dev.sgran_setSgran1_other (d : Dev) (k j : Nat) (g : SliceGran) (h : j ≠ k) :
    (d.setSgran1 k g).sgran j = d.sgran j := by
  simp [Dev.sgran, Dev.setSgran1, Tbl.look_putD_other _ _ _ _ _ h]

theorem find_filter_out {α : Type} (t : Tbl α) (p : Nat × α → Bool) (k : Nat) (h : ∀ v, p (k, v) = false) :
    Tbl.find (t.filter p) k = none := by
  induction t with
  | nil => rfl
  | cons e t ih =>
    obtain ⟨i, a⟩ := e
    rw [List.filter_cons]
    split
    · rename_i hp
      by_cases hi : i = k
      · subst hi
        rw [h a] at hp
        cases hp
      · simp [Tbl.find, hi, ih]
    · exact ih

/-- Every granule of a wiped range reads as cleared, or as lost. -/
theorem Dev.gran_wipe_in (d : Dev) (lo hi k : Nat) (lost : Bool) (h1 : lo ≤ k) (h2 : k < hi) :
    (d.wipe lo hi lost).gran k = if lost then Gran.lost else Gran.cleared := by
  unfold Dev.gran Dev.wipe Tbl.look
  rw [find_filter_out _ _ _ (by intro v; simp [h1, h2])]
  cases lost with
  | true =>
    simp only [Option.getD_none, if_true]
    simp [blankOf, h1, h2]
  | false =>
    simp only [Option.getD_none, Bool.false_eq_true, if_false]
    have : (List.flatMap (cutRange lo hi) d.lost ++ []).any (fun r => decide (r.1 ≤ k ∧ k < r.2)) = false := by
      rw [List.append_nil, List.any_eq_false]
      intro r hr
      obtain ⟨x, -, hx⟩ := List.mem_flatMap.1 hr
      simp only [cutRange, List.mem_filter, List.mem_cons, List.not_mem_nil, or_false] at hx
      rcases hx.1 with rfl | rfl <;> simp only [decide_eq_true_eq] <;> omega
    unfold blankOf
    rw [this]
    rfl

/-! ### The canonical form -/

theorem wf_iff (l : List (Nat × Nat)) (m : Memory) :
    Memory.wf l m = true ↔ Tbl.risingFrom 0 m = true ∧ ∀ e ∈ m, e.2 ≠ blankOf l e.1 := by
  simp [Memory.wf]

theorem swf_iff (m : SliceMem) : SliceMem.wf m = true ↔ Tbl.risingFrom 0 m = true ∧ ∀ e ∈ m, e.2 ≠ SliceGran.zero := by
  simp [SliceMem.wf, Tbl.canon]

theorem wf_put (l : List (Nat × Nat)) (m : Memory) (k : Nat) (g : Gran) (h : Memory.wf l m = true) :
    Memory.wf l (Tbl.putD (blankOf l k) m k g) = true := by
  rw [wf_iff] at h ⊢
  unfold Tbl.putD
  split
  · exact ⟨Tbl.rising_del k h.1, fun e he => h.2 e (Tbl.mem_del he).1⟩
  · rename_i hg
    refine ⟨Tbl.rising_put k g h.1 (Nat.zero_le k), fun e he => ?_⟩
    rcases Tbl.mem_put he with rfl | he
    · exact hg
    · exact h.2 e he

theorem swf_put (m : SliceMem) (k : Nat) (g : SliceGran) (h : SliceMem.wf m = true) :
    SliceMem.wf (Tbl.putD SliceGran.zero m k g) = true := by
  rw [swf_iff] at h ⊢
  unfold Tbl.putD
  split
  · exact ⟨Tbl.rising_del k h.1, fun e he => h.2 e (Tbl.mem_del he).1⟩
  · rename_i hg
    refine ⟨Tbl.rising_put k g h.1 (Nat.zero_le k), fun e he => ?_⟩
    rcases Tbl.mem_put he with rfl | he
    · exact hg
    · exact h.2 e he

theorem Dev.memWf_setGran (d : Dev) (k : Nat) (g : Gran) (h : d.memWf) : (d.setGran k g).memWf :=
  ⟨wf_put _ _ _ _ h.1, h.2⟩

/-- Outside a cut range nothing changes in what is lost. -/
theorem blankOf_cut (l : List (Nat × Nat)) (lo hi k : Nat) (h : k < lo ∨ hi ≤ k) :
    blankOf (l.flatMap (cutRange lo hi)) k = blankOf l k := by
  have key : (l.flatMap (cutRange lo hi)).any (fun r => decide (r.1 ≤ k ∧ k < r.2)) =
      l.any fun r => decide (r.1 ≤ k ∧ k < r.2) := by
    rw [List.any_flatMap]
    refine congrArg _ (funext fun r => ?_)
    simp only [cutRange, List.any_filter, List.any_cons, List.any_nil, Bool.or_false]
    rw [Bool.eq_iff_iff]
    simp only [Bool.or_eq_true, Bool.and_eq_true, decide_eq_true_eq]
    omega
  unfold blankOf
  rw [key]

theorem blankOf_append (l l' : List (Nat × Nat)) (k : Nat) (h : ∀ r ∈ l', ¬(r.1 ≤ k ∧ k < r.2)) :
    blankOf (l ++ l') k = blankOf l k := by
  have : l'.any (fun r => decide (r.1 ≤ k ∧ k < r.2)) = false := by
    rw [List.any_eq_false]
    intro r hr
    simpa using h r hr
  unfold blankOf
  rw [List.any_append, this, Bool.or_false]

theorem Dev.memWf_wipe (d : Dev) (lo hi : Nat) (lost : Bool) (h : d.memWf) : (d.wipe lo hi lost).memWf := by
  refine ⟨?_, h.2⟩
  have hm := (wf_iff _ _).1 h.1
  refine (wf_iff _ _).2 ⟨Tbl.rising_filter _ hm.1, fun e he => ?_⟩
  obtain ⟨he, hp⟩ := List.mem_filter.1 he
  have hout : e.1 < lo ∨ hi ≤ e.1 := by
    simp only [Bool.not_eq_true', Bool.and_eq_false_iff, decide_eq_false_iff_not] at hp
    omega
  simp only [Dev.wipe]
  rw [blankOf_append, blankOf_cut _ _ _ _ hout]
  · exact hm.2 e he
  · intro r hr
    cases lost
    · cases hr
    · simp only [if_true, List.mem_singleton] at hr
      subst hr
      simp only
      omega

theorem foldl_keeps {α β : Type} (P : β → Prop) (f : β → α → β) (hf : ∀ b a, P b → P (f b a)) (l : List α) :
    ∀ b, P b → P (l.foldl f b) := by
  induction l with
  | nil => exact fun _ h => h
  | cons a l ih => exact fun b h => ih _ (hf b a h)

theorem Dev.memWf_putSlot (d : Dev) (l g : Nat) (gr : Gran) (h : d.memWf) : (d.putSlot l g gr).memWf := by
  have h1 := d.memWf_setGran (granKey (d.physChan l) g) gr h
  unfold Dev.putSlot
  simp only
  split
  · split
    · split
      · exact Dev.memWf_setGran _ _ _ h1
      · exact h1
    · exact h1
  · exact h1

theorem Dev.memWf_putGran (d : Dev) (l g : Nat) (gr : Gran) (h : d.memWf) : (d.putGran l g gr).memWf :=
  foldl_keeps Dev.memWf _ (fun b _ hb => Dev.memWf_putSlot b _ _ _ hb) _ _ (d.memWf_putSlot l g gr h)

theorem Dev.memWf_scrubGran (d : Dev) (p g : Nat) (h : d.memWf) : (d.scrubGran p g).memWf := d.memWf_setGran _ _ h
theorem Dev.memWf_scrubChan (d : Dev) (p : Nat) (h : d.memWf) : (d.scrubChan p).memWf := d.memWf_wipe _ _ _ h

theorem Dev.memWf_copyGrans (d : Dev) (lo hi base : Nat) (f : Gran → Gran) (h : d.memWf) :
    (d.copyGrans lo hi base f).memWf := by
  have h1 := d.memWf_wipe base (base + (hi - lo)) false h
  unfold Dev.copyGrans
  simp only
  refine foldl_keeps Dev.memWf _ (fun b e hb => Dev.memWf_setGran b _ _ hb) _ _ ⟨?_, h1.2⟩
  have hm := (wf_iff _ _).1 h1.1
  refine (wf_iff _ _).2 ⟨hm.1, fun e he => ?_⟩
  simp only
  rw [blankOf_append]
  · exact hm.2 e he
  · intro r hr
    obtain ⟨x, -, hx⟩ := List.mem_filterMap.1 hr
    obtain ⟨-, hp⟩ := List.mem_filter.1 he
    simp only [Bool.not_eq_true', Bool.and_eq_false_iff, decide_eq_false_iff_not] at hp
    split at hx
    · simp only [Option.some.injEq] at hx
      subst hx
      simp only
      omega
    · cases hx

theorem Dev.memWf_setSgran1 (d : Dev) (k : Nat) (g : SliceGran) (h : d.memWf) : (d.setSgran1 k g).memWf :=
  ⟨h.1, swf_put _ _ _ h.2⟩

theorem Dev.memWf_setSgran (d : Dev) (k : Nat) (g : SliceGran) (h : d.memWf) : (d.setSgran k g).memWf :=
  foldl_keeps Dev.memWf _ (fun b _ hb => Dev.memWf_setSgran1 b _ _ hb) _ _ (d.memWf_setSgran1 k g h)

theorem Dev.memWf_scrubSlice (d : Dev) (k : Nat) (h : d.memWf) : (d.scrubSlice k).memWf := by
  refine ⟨h.1, ?_⟩
  have hm := (swf_iff _).1 h.2
  exact (swf_iff _).2 ⟨Tbl.rising_filter _ hm.1, fun e he => hm.2 e (List.mem_filter.1 he).1⟩

theorem Dev.memWf_copySlice (d : Dev) (old new : Nat) (h : d.memWf) : (d.copySlice old new).memWf :=
  foldl_keeps Dev.memWf _ (fun b _ hb => Dev.memWf_setSgran1 b _ _ hb) _ _ (d.memWf_scrubSlice new h)

/-- Reset's memories list nothing. -/
theorem reset_memWf : State.reset.dev.memWf := ⟨rfl, rfl⟩

end Sys2Proof.Machine
end

