-- ==== Sys2Proof/Laws/State.lean ====
section
/-!
SUPPORT. Laws of the state: what each update of the device leaves of each of its fields, so that no proof unfolds a
record update.
-/

namespace Sys2Proof.Machine

/-! ### The machine -/

theorem State.run_eq (s : State) (f : Nat → Dev → Dev) : s.run f = .next { s with dev := f s.now s.dev } := rfl

@[simp] theorem State.idle_pending (s : State) : s.idle.pending = s.pending := rfl
@[simp] theorem State.idle_now (s : State) : s.idle.now = s.now + tickNs := rfl

/-! ### The device -/

@[simp] theorem Dev.setReg_regs (d : Dev) (off w : Nat) :
    (d.setReg off w).regs = Tbl.put d.regs off (BitVec.ofNat 64 w) := rfl
@[simp] theorem Dev.setReg_fresh (d : Dev) (off w : Nat) : (d.setReg off w).fresh = d.fresh := rfl
@[simp] theorem Dev.setReg_core (d : Dev) (off w : Nat) : (d.setReg off w).core = d.core := rfl
@[simp] theorem Dev.setReg_mem (d : Dev) (off w : Nat) : (d.setReg off w).mem = d.mem := rfl
@[simp] theorem Dev.setReg_lost (d : Dev) (off w : Nat) : (d.setReg off w).lost = d.lost := rfl
@[simp] theorem Dev.setReg_slice (d : Dev) (off w : Nat) : (d.setReg off w).slice = d.slice := rfl
@[simp] theorem Dev.setReg_stk (d : Dev) (off w : Nat) : (d.setReg off w).stk = d.stk := rfl
@[simp] theorem Dev.setReg_net (d : Dev) (off w : Nat) : (d.setReg off w).net = d.net := rfl
@[simp] theorem Dev.setReg_sweeps (d : Dev) (off w : Nat) : (d.setReg off w).sweeps = d.sweeps := rfl
@[simp] theorem Dev.setReg_comp (d : Dev) (off w : Nat) : (d.setReg off w).comp = d.comp := rfl
@[simp] theorem Dev.setReg_hif (d : Dev) (off w : Nat) : (d.setReg off w).hif = d.hif := rfl
@[simp] theorem Dev.setReg_pwr (d : Dev) (off w : Nat) : (d.setReg off w).pwr = d.pwr := rfl
@[simp] theorem Dev.setReg_cxl (d : Dev) (off w : Nat) : (d.setReg off w).cxl = d.cxl := rfl
@[simp] theorem Dev.setReg_ras (d : Dev) (off w : Nat) : (d.setReg off w).ras = d.ras := rfl
@[simp] theorem Dev.setReg_alm (d : Dev) (off w : Nat) : (d.setReg off w).alm = d.alm := rfl
@[simp] theorem Dev.setReg_lcs (d : Dev) (off w : Nat) : (d.setReg off w).lcs = d.lcs := rfl
@[simp] theorem Dev.setReg_fw (d : Dev) (off w : Nat) : (d.setReg off w).fw = d.fw := rfl
@[simp] theorem Dev.setReg_mod (d : Dev) (off w : Nat) : (d.setReg off w).mod = d.mod := rfl

@[simp] theorem Dev.set_regs (d : Dev) (f : Fld) (v : Nat) :
    (d.set f v).regs = Tbl.put d.regs f.off (BitVec.ofNat 64 (setBits (d.reg f.off) f.lo f.w v)) := rfl
@[simp] theorem Dev.set_fresh (d : Dev) (f : Fld) (v : Nat) : (d.set f v).fresh = d.fresh := rfl
@[simp] theorem Dev.set_core (d : Dev) (f : Fld) (v : Nat) : (d.set f v).core = d.core := rfl
@[simp] theorem Dev.set_mem (d : Dev) (f : Fld) (v : Nat) : (d.set f v).mem = d.mem := rfl
@[simp] theorem Dev.set_lost (d : Dev) (f : Fld) (v : Nat) : (d.set f v).lost = d.lost := rfl
@[simp] theorem Dev.set_slice (d : Dev) (f : Fld) (v : Nat) : (d.set f v).slice = d.slice := rfl
@[simp] theorem Dev.set_stk (d : Dev) (f : Fld) (v : Nat) : (d.set f v).stk = d.stk := rfl
@[simp] theorem Dev.set_net (d : Dev) (f : Fld) (v : Nat) : (d.set f v).net = d.net := rfl
@[simp] theorem Dev.set_sweeps (d : Dev) (f : Fld) (v : Nat) : (d.set f v).sweeps = d.sweeps := rfl
@[simp] theorem Dev.set_comp (d : Dev) (f : Fld) (v : Nat) : (d.set f v).comp = d.comp := rfl
@[simp] theorem Dev.set_hif (d : Dev) (f : Fld) (v : Nat) : (d.set f v).hif = d.hif := rfl
@[simp] theorem Dev.set_pwr (d : Dev) (f : Fld) (v : Nat) : (d.set f v).pwr = d.pwr := rfl
@[simp] theorem Dev.set_cxl (d : Dev) (f : Fld) (v : Nat) : (d.set f v).cxl = d.cxl := rfl
@[simp] theorem Dev.set_ras (d : Dev) (f : Fld) (v : Nat) : (d.set f v).ras = d.ras := rfl
@[simp] theorem Dev.set_alm (d : Dev) (f : Fld) (v : Nat) : (d.set f v).alm = d.alm := rfl
@[simp] theorem Dev.set_lcs (d : Dev) (f : Fld) (v : Nat) : (d.set f v).lcs = d.lcs := rfl
@[simp] theorem Dev.set_fw (d : Dev) (f : Fld) (v : Nat) : (d.set f v).fw = d.fw := rfl
@[simp] theorem Dev.set_mod (d : Dev) (f : Fld) (v : Nat) : (d.set f v).mod = d.mod := rfl

@[simp] theorem Dev.sat_fresh (d : Dev) (f : Fld) (k : Nat) : (d.sat f k).fresh = d.fresh := rfl
@[simp] theorem Dev.sat_core (d : Dev) (f : Fld) (k : Nat) : (d.sat f k).core = d.core := rfl
@[simp] theorem Dev.sat_mem (d : Dev) (f : Fld) (k : Nat) : (d.sat f k).mem = d.mem := rfl
@[simp] theorem Dev.sat_lost (d : Dev) (f : Fld) (k : Nat) : (d.sat f k).lost = d.lost := rfl
@[simp] theorem Dev.sat_slice (d : Dev) (f : Fld) (k : Nat) : (d.sat f k).slice = d.slice := rfl
@[simp] theorem Dev.sat_stk (d : Dev) (f : Fld) (k : Nat) : (d.sat f k).stk = d.stk := rfl
@[simp] theorem Dev.sat_net (d : Dev) (f : Fld) (k : Nat) : (d.sat f k).net = d.net := rfl
@[simp] theorem Dev.sat_sweeps (d : Dev) (f : Fld) (k : Nat) : (d.sat f k).sweeps = d.sweeps := rfl
@[simp] theorem Dev.sat_comp (d : Dev) (f : Fld) (k : Nat) : (d.sat f k).comp = d.comp := rfl
@[simp] theorem Dev.sat_hif (d : Dev) (f : Fld) (k : Nat) : (d.sat f k).hif = d.hif := rfl
@[simp] theorem Dev.sat_pwr (d : Dev) (f : Fld) (k : Nat) : (d.sat f k).pwr = d.pwr := rfl
@[simp] theorem Dev.sat_cxl (d : Dev) (f : Fld) (k : Nat) : (d.sat f k).cxl = d.cxl := rfl
@[simp] theorem Dev.sat_ras (d : Dev) (f : Fld) (k : Nat) : (d.sat f k).ras = d.ras := rfl
@[simp] theorem Dev.sat_alm (d : Dev) (f : Fld) (k : Nat) : (d.sat f k).alm = d.alm := rfl
@[simp] theorem Dev.sat_lcs (d : Dev) (f : Fld) (k : Nat) : (d.sat f k).lcs = d.lcs := rfl
@[simp] theorem Dev.sat_fw (d : Dev) (f : Fld) (k : Nat) : (d.sat f k).fw = d.fw := rfl
@[simp] theorem Dev.sat_mod (d : Dev) (f : Fld) (k : Nat) : (d.sat f k).mod = d.mod := rfl

@[simp] theorem Dev.wrap_fresh (d : Dev) (f : Fld) (k : Nat) : (d.wrap f k).fresh = d.fresh := rfl
@[simp] theorem Dev.wrap_core (d : Dev) (f : Fld) (k : Nat) : (d.wrap f k).core = d.core := rfl
@[simp] theorem Dev.wrap_mem (d : Dev) (f : Fld) (k : Nat) : (d.wrap f k).mem = d.mem := rfl
@[simp] theorem Dev.wrap_lost (d : Dev) (f : Fld) (k : Nat) : (d.wrap f k).lost = d.lost := rfl
@[simp] theorem Dev.wrap_slice (d : Dev) (f : Fld) (k : Nat) : (d.wrap f k).slice = d.slice := rfl
@[simp] theorem Dev.wrap_stk (d : Dev) (f : Fld) (k : Nat) : (d.wrap f k).stk = d.stk := rfl
@[simp] theorem Dev.wrap_net (d : Dev) (f : Fld) (k : Nat) : (d.wrap f k).net = d.net := rfl
@[simp] theorem Dev.wrap_sweeps (d : Dev) (f : Fld) (k : Nat) : (d.wrap f k).sweeps = d.sweeps := rfl
@[simp] theorem Dev.wrap_comp (d : Dev) (f : Fld) (k : Nat) : (d.wrap f k).comp = d.comp := rfl
@[simp] theorem Dev.wrap_hif (d : Dev) (f : Fld) (k : Nat) : (d.wrap f k).hif = d.hif := rfl
@[simp] theorem Dev.wrap_pwr (d : Dev) (f : Fld) (k : Nat) : (d.wrap f k).pwr = d.pwr := rfl
@[simp] theorem Dev.wrap_cxl (d : Dev) (f : Fld) (k : Nat) : (d.wrap f k).cxl = d.cxl := rfl
@[simp] theorem Dev.wrap_ras (d : Dev) (f : Fld) (k : Nat) : (d.wrap f k).ras = d.ras := rfl
@[simp] theorem Dev.wrap_alm (d : Dev) (f : Fld) (k : Nat) : (d.wrap f k).alm = d.alm := rfl
@[simp] theorem Dev.wrap_lcs (d : Dev) (f : Fld) (k : Nat) : (d.wrap f k).lcs = d.lcs := rfl
@[simp] theorem Dev.wrap_fw (d : Dev) (f : Fld) (k : Nat) : (d.wrap f k).fw = d.fw := rfl
@[simp] theorem Dev.wrap_mod (d : Dev) (f : Fld) (k : Nat) : (d.wrap f k).mod = d.mod := rfl

@[simp] theorem Dev.raise_regs (d : Dev) (code unit sub : Nat) (sev : Sev) (l : List Nat) (who : Option (Nat × Nat)) :
    (d.raise code unit sub sev l who).regs = d.regs := rfl
@[simp] theorem Dev.raise_fresh (d : Dev) (code unit sub : Nat) (sev : Sev) (l : List Nat) (who : Option (Nat × Nat)) :
    (d.raise code unit sub sev l who).fresh = d.fresh := rfl
@[simp] theorem Dev.raise_core (d : Dev) (code unit sub : Nat) (sev : Sev) (l : List Nat) (who : Option (Nat × Nat)) :
    (d.raise code unit sub sev l who).core = d.core := rfl
@[simp] theorem Dev.raise_mem (d : Dev) (code unit sub : Nat) (sev : Sev) (l : List Nat) (who : Option (Nat × Nat)) :
    (d.raise code unit sub sev l who).mem = d.mem := rfl
@[simp] theorem Dev.raise_lost (d : Dev) (code unit sub : Nat) (sev : Sev) (l : List Nat) (who : Option (Nat × Nat)) :
    (d.raise code unit sub sev l who).lost = d.lost := rfl
@[simp] theorem Dev.raise_slice (d : Dev) (code unit sub : Nat) (sev : Sev) (l : List Nat) (who : Option (Nat × Nat)) :
    (d.raise code unit sub sev l who).slice = d.slice := rfl
@[simp] theorem Dev.raise_stk (d : Dev) (code unit sub : Nat) (sev : Sev) (l : List Nat) (who : Option (Nat × Nat)) :
    (d.raise code unit sub sev l who).stk = d.stk := rfl
@[simp] theorem Dev.raise_net (d : Dev) (code unit sub : Nat) (sev : Sev) (l : List Nat) (who : Option (Nat × Nat)) :
    (d.raise code unit sub sev l who).net = d.net := rfl
@[simp] theorem Dev.raise_sweeps (d : Dev) (code unit sub : Nat) (sev : Sev) (l : List Nat) (who : Option (Nat × Nat)) :
    (d.raise code unit sub sev l who).sweeps = d.sweeps := rfl
@[simp] theorem Dev.raise_comp (d : Dev) (code unit sub : Nat) (sev : Sev) (l : List Nat) (who : Option (Nat × Nat)) :
    (d.raise code unit sub sev l who).comp = d.comp := rfl
@[simp] theorem Dev.raise_hif (d : Dev) (code unit sub : Nat) (sev : Sev) (l : List Nat) (who : Option (Nat × Nat)) :
    (d.raise code unit sub sev l who).hif = d.hif := rfl
@[simp] theorem Dev.raise_pwr (d : Dev) (code unit sub : Nat) (sev : Sev) (l : List Nat) (who : Option (Nat × Nat)) :
    (d.raise code unit sub sev l who).pwr = d.pwr := rfl
@[simp] theorem Dev.raise_cxl (d : Dev) (code unit sub : Nat) (sev : Sev) (l : List Nat) (who : Option (Nat × Nat)) :
    (d.raise code unit sub sev l who).cxl = d.cxl := rfl
@[simp] theorem Dev.raise_alm (d : Dev) (code unit sub : Nat) (sev : Sev) (l : List Nat) (who : Option (Nat × Nat)) :
    (d.raise code unit sub sev l who).alm = d.alm := rfl
@[simp] theorem Dev.raise_lcs (d : Dev) (code unit sub : Nat) (sev : Sev) (l : List Nat) (who : Option (Nat × Nat)) :
    (d.raise code unit sub sev l who).lcs = d.lcs := rfl
@[simp] theorem Dev.raise_fw (d : Dev) (code unit sub : Nat) (sev : Sev) (l : List Nat) (who : Option (Nat × Nat)) :
    (d.raise code unit sub sev l who).fw = d.fw := rfl
@[simp] theorem Dev.raise_mod (d : Dev) (code unit sub : Nat) (sev : Sev) (l : List Nat) (who : Option (Nat × Nat)) :
    (d.raise code unit sub sev l who).mod = d.mod := rfl

@[simp] theorem Dev.onCore_regs (d : Dev) (c : Nat) (f : Core → Core) : (d.onCore c f).regs = d.regs := rfl
@[simp] theorem Dev.onCore_fresh (d : Dev) (c : Nat) (f : Core → Core) : (d.onCore c f).fresh = d.fresh := rfl
@[simp] theorem Dev.onCore_core (d : Dev) (c : Nat) (f : Core → Core) :
    (d.onCore c f).core = Tbl.upd Core.reset d.core c f := rfl
@[simp] theorem Dev.onCore_mem (d : Dev) (c : Nat) (f : Core → Core) : (d.onCore c f).mem = d.mem := rfl
@[simp] theorem Dev.onCore_lost (d : Dev) (c : Nat) (f : Core → Core) : (d.onCore c f).lost = d.lost := rfl
@[simp] theorem Dev.onCore_slice (d : Dev) (c : Nat) (f : Core → Core) : (d.onCore c f).slice = d.slice := rfl
@[simp] theorem Dev.onCore_stk (d : Dev) (c : Nat) (f : Core → Core) : (d.onCore c f).stk = d.stk := rfl
@[simp] theorem Dev.onCore_net (d : Dev) (c : Nat) (f : Core → Core) : (d.onCore c f).net = d.net := rfl
@[simp] theorem Dev.onCore_sweeps (d : Dev) (c : Nat) (f : Core → Core) : (d.onCore c f).sweeps = d.sweeps := rfl
@[simp] theorem Dev.onCore_comp (d : Dev) (c : Nat) (f : Core → Core) : (d.onCore c f).comp = d.comp := rfl
@[simp] theorem Dev.onCore_hif (d : Dev) (c : Nat) (f : Core → Core) : (d.onCore c f).hif = d.hif := rfl
@[simp] theorem Dev.onCore_pwr (d : Dev) (c : Nat) (f : Core → Core) : (d.onCore c f).pwr = d.pwr := rfl
@[simp] theorem Dev.onCore_cxl (d : Dev) (c : Nat) (f : Core → Core) : (d.onCore c f).cxl = d.cxl := rfl
@[simp] theorem Dev.onCore_ras (d : Dev) (c : Nat) (f : Core → Core) : (d.onCore c f).ras = d.ras := rfl
@[simp] theorem Dev.onCore_alm (d : Dev) (c : Nat) (f : Core → Core) : (d.onCore c f).alm = d.alm := rfl
@[simp] theorem Dev.onCore_lcs (d : Dev) (c : Nat) (f : Core → Core) : (d.onCore c f).lcs = d.lcs := rfl
@[simp] theorem Dev.onCore_fw (d : Dev) (c : Nat) (f : Core → Core) : (d.onCore c f).fw = d.fw := rfl
@[simp] theorem Dev.onCore_mod (d : Dev) (c : Nat) (f : Core → Core) : (d.onCore c f).mod = d.mod := rfl

@[simp] theorem Dev.onTile_regs (d : Dev) (c : Nat) (f : Tile → Tile) : (d.onTile c f).regs = d.regs := rfl
@[simp] theorem Dev.onTile_fresh (d : Dev) (c : Nat) (f : Tile → Tile) : (d.onTile c f).fresh = d.fresh := rfl
@[simp] theorem Dev.onTile_mem (d : Dev) (c : Nat) (f : Tile → Tile) : (d.onTile c f).mem = d.mem := rfl
@[simp] theorem Dev.onTile_lost (d : Dev) (c : Nat) (f : Tile → Tile) : (d.onTile c f).lost = d.lost := rfl
@[simp] theorem Dev.onTile_slice (d : Dev) (c : Nat) (f : Tile → Tile) : (d.onTile c f).slice = d.slice := rfl
@[simp] theorem Dev.onTile_stk (d : Dev) (c : Nat) (f : Tile → Tile) : (d.onTile c f).stk = d.stk := rfl
@[simp] theorem Dev.onTile_net (d : Dev) (c : Nat) (f : Tile → Tile) : (d.onTile c f).net = d.net := rfl
@[simp] theorem Dev.onTile_sweeps (d : Dev) (c : Nat) (f : Tile → Tile) : (d.onTile c f).sweeps = d.sweeps := rfl
@[simp] theorem Dev.onTile_comp (d : Dev) (c : Nat) (f : Tile → Tile) : (d.onTile c f).comp = d.comp := rfl
@[simp] theorem Dev.onTile_hif (d : Dev) (c : Nat) (f : Tile → Tile) : (d.onTile c f).hif = d.hif := rfl
@[simp] theorem Dev.onTile_pwr (d : Dev) (c : Nat) (f : Tile → Tile) : (d.onTile c f).pwr = d.pwr := rfl
@[simp] theorem Dev.onTile_cxl (d : Dev) (c : Nat) (f : Tile → Tile) : (d.onTile c f).cxl = d.cxl := rfl
@[simp] theorem Dev.onTile_ras (d : Dev) (c : Nat) (f : Tile → Tile) : (d.onTile c f).ras = d.ras := rfl
@[simp] theorem Dev.onTile_alm (d : Dev) (c : Nat) (f : Tile → Tile) : (d.onTile c f).alm = d.alm := rfl
@[simp] theorem Dev.onTile_lcs (d : Dev) (c : Nat) (f : Tile → Tile) : (d.onTile c f).lcs = d.lcs := rfl
@[simp] theorem Dev.onTile_fw (d : Dev) (c : Nat) (f : Tile → Tile) : (d.onTile c f).fw = d.fw := rfl
@[simp] theorem Dev.onTile_mod (d : Dev) (c : Nat) (f : Tile → Tile) : (d.onTile c f).mod = d.mod := rfl

@[simp] theorem Dev.onStack_regs (d : Dev) (s : Nat) (f : Stack → Stack) : (d.onStack s f).regs = d.regs := rfl
@[simp] theorem Dev.onStack_fresh (d : Dev) (s : Nat) (f : Stack → Stack) : (d.onStack s f).fresh = d.fresh := rfl
@[simp] theorem Dev.onStack_core (d : Dev) (s : Nat) (f : Stack → Stack) : (d.onStack s f).core = d.core := rfl
@[simp] theorem Dev.onStack_mem (d : Dev) (s : Nat) (f : Stack → Stack) : (d.onStack s f).mem = d.mem := rfl
@[simp] theorem Dev.onStack_lost (d : Dev) (s : Nat) (f : Stack → Stack) : (d.onStack s f).lost = d.lost := rfl
@[simp] theorem Dev.onStack_slice (d : Dev) (s : Nat) (f : Stack → Stack) : (d.onStack s f).slice = d.slice := rfl
@[simp] theorem Dev.onStack_stk (d : Dev) (s : Nat) (f : Stack → Stack) :
    (d.onStack s f).stk = Tbl.upd Stack.reset d.stk s f := rfl
@[simp] theorem Dev.onStack_net (d : Dev) (s : Nat) (f : Stack → Stack) : (d.onStack s f).net = d.net := rfl
@[simp] theorem Dev.onStack_sweeps (d : Dev) (s : Nat) (f : Stack → Stack) : (d.onStack s f).sweeps = d.sweeps := rfl
@[simp] theorem Dev.onStack_comp (d : Dev) (s : Nat) (f : Stack → Stack) : (d.onStack s f).comp = d.comp := rfl
@[simp] theorem Dev.onStack_hif (d : Dev) (s : Nat) (f : Stack → Stack) : (d.onStack s f).hif = d.hif := rfl
@[simp] theorem Dev.onStack_pwr (d : Dev) (s : Nat) (f : Stack → Stack) : (d.onStack s f).pwr = d.pwr := rfl
@[simp] theorem Dev.onStack_cxl (d : Dev) (s : Nat) (f : Stack → Stack) : (d.onStack s f).cxl = d.cxl := rfl
@[simp] theorem Dev.onStack_ras (d : Dev) (s : Nat) (f : Stack → Stack) : (d.onStack s f).ras = d.ras := rfl
@[simp] theorem Dev.onStack_alm (d : Dev) (s : Nat) (f : Stack → Stack) : (d.onStack s f).alm = d.alm := rfl
@[simp] theorem Dev.onStack_lcs (d : Dev) (s : Nat) (f : Stack → Stack) : (d.onStack s f).lcs = d.lcs := rfl
@[simp] theorem Dev.onStack_fw (d : Dev) (s : Nat) (f : Stack → Stack) : (d.onStack s f).fw = d.fw := rfl
@[simp] theorem Dev.onStack_mod (d : Dev) (s : Nat) (f : Stack → Stack) : (d.onStack s f).mod = d.mod := rfl

@[simp] theorem Dev.onAst_regs (d : Dev) (a : Nat) (f : Ast → Ast) : (d.onAst a f).regs = d.regs := rfl
@[simp] theorem Dev.onAst_fresh (d : Dev) (a : Nat) (f : Ast → Ast) : (d.onAst a f).fresh = d.fresh := rfl
@[simp] theorem Dev.onAst_core (d : Dev) (a : Nat) (f : Ast → Ast) : (d.onAst a f).core = d.core := rfl
@[simp] theorem Dev.onAst_mem (d : Dev) (a : Nat) (f : Ast → Ast) : (d.onAst a f).mem = d.mem := rfl
@[simp] theorem Dev.onAst_lost (d : Dev) (a : Nat) (f : Ast → Ast) : (d.onAst a f).lost = d.lost := rfl
@[simp] theorem Dev.onAst_slice (d : Dev) (a : Nat) (f : Ast → Ast) : (d.onAst a f).slice = d.slice := rfl
@[simp] theorem Dev.onAst_stk (d : Dev) (a : Nat) (f : Ast → Ast) : (d.onAst a f).stk = d.stk := rfl
@[simp] theorem Dev.onAst_net (d : Dev) (a : Nat) (f : Ast → Ast) : (d.onAst a f).net = d.net := rfl
@[simp] theorem Dev.onAst_sweeps (d : Dev) (a : Nat) (f : Ast → Ast) : (d.onAst a f).sweeps = d.sweeps := rfl
@[simp] theorem Dev.onAst_hif (d : Dev) (a : Nat) (f : Ast → Ast) : (d.onAst a f).hif = d.hif := rfl
@[simp] theorem Dev.onAst_pwr (d : Dev) (a : Nat) (f : Ast → Ast) : (d.onAst a f).pwr = d.pwr := rfl
@[simp] theorem Dev.onAst_cxl (d : Dev) (a : Nat) (f : Ast → Ast) : (d.onAst a f).cxl = d.cxl := rfl
@[simp] theorem Dev.onAst_ras (d : Dev) (a : Nat) (f : Ast → Ast) : (d.onAst a f).ras = d.ras := rfl
@[simp] theorem Dev.onAst_alm (d : Dev) (a : Nat) (f : Ast → Ast) : (d.onAst a f).alm = d.alm := rfl
@[simp] theorem Dev.onAst_lcs (d : Dev) (a : Nat) (f : Ast → Ast) : (d.onAst a f).lcs = d.lcs := rfl
@[simp] theorem Dev.onAst_fw (d : Dev) (a : Nat) (f : Ast → Ast) : (d.onAst a f).fw = d.fw := rfl
@[simp] theorem Dev.onAst_mod (d : Dev) (a : Nat) (f : Ast → Ast) : (d.onAst a f).mod = d.mod := rfl

@[simp] theorem Dev.onPmu_regs (d : Dev) (p : Nat) (f : Pmu → Pmu) : (d.onPmu p f).regs = d.regs := rfl
@[simp] theorem Dev.onPmu_fresh (d : Dev) (p : Nat) (f : Pmu → Pmu) : (d.onPmu p f).fresh = d.fresh := rfl
@[simp] theorem Dev.onPmu_core (d : Dev) (p : Nat) (f : Pmu → Pmu) : (d.onPmu p f).core = d.core := rfl
@[simp] theorem Dev.onPmu_mem (d : Dev) (p : Nat) (f : Pmu → Pmu) : (d.onPmu p f).mem = d.mem := rfl
@[simp] theorem Dev.onPmu_lost (d : Dev) (p : Nat) (f : Pmu → Pmu) : (d.onPmu p f).lost = d.lost := rfl
@[simp] theorem Dev.onPmu_slice (d : Dev) (p : Nat) (f : Pmu → Pmu) : (d.onPmu p f).slice = d.slice := rfl
@[simp] theorem Dev.onPmu_stk (d : Dev) (p : Nat) (f : Pmu → Pmu) : (d.onPmu p f).stk = d.stk := rfl
@[simp] theorem Dev.onPmu_net (d : Dev) (p : Nat) (f : Pmu → Pmu) : (d.onPmu p f).net = d.net := rfl
@[simp] theorem Dev.onPmu_sweeps (d : Dev) (p : Nat) (f : Pmu → Pmu) : (d.onPmu p f).sweeps = d.sweeps := rfl
@[simp] theorem Dev.onPmu_comp (d : Dev) (p : Nat) (f : Pmu → Pmu) : (d.onPmu p f).comp = d.comp := rfl
@[simp] theorem Dev.onPmu_hif (d : Dev) (p : Nat) (f : Pmu → Pmu) : (d.onPmu p f).hif = d.hif := rfl
@[simp] theorem Dev.onPmu_cxl (d : Dev) (p : Nat) (f : Pmu → Pmu) : (d.onPmu p f).cxl = d.cxl := rfl
@[simp] theorem Dev.onPmu_ras (d : Dev) (p : Nat) (f : Pmu → Pmu) : (d.onPmu p f).ras = d.ras := rfl
@[simp] theorem Dev.onPmu_alm (d : Dev) (p : Nat) (f : Pmu → Pmu) : (d.onPmu p f).alm = d.alm := rfl
@[simp] theorem Dev.onPmu_lcs (d : Dev) (p : Nat) (f : Pmu → Pmu) : (d.onPmu p f).lcs = d.lcs := rfl
@[simp] theorem Dev.onPmu_fw (d : Dev) (p : Nat) (f : Pmu → Pmu) : (d.onPmu p f).fw = d.fw := rfl
@[simp] theorem Dev.onPmu_mod (d : Dev) (p : Nat) (f : Pmu → Pmu) : (d.onPmu p f).mod = d.mod := rfl

@[simp] theorem Dev.onLink_regs (d : Dev) (k : Nat) (f : Link → Link) : (d.onLink k f).regs = d.regs := rfl
@[simp] theorem Dev.onLink_fresh (d : Dev) (k : Nat) (f : Link → Link) : (d.onLink k f).fresh = d.fresh := rfl
@[simp] theorem Dev.onLink_core (d : Dev) (k : Nat) (f : Link → Link) : (d.onLink k f).core = d.core := rfl
@[simp] theorem Dev.onLink_mem (d : Dev) (k : Nat) (f : Link → Link) : (d.onLink k f).mem = d.mem := rfl
@[simp] theorem Dev.onLink_lost (d : Dev) (k : Nat) (f : Link → Link) : (d.onLink k f).lost = d.lost := rfl
@[simp] theorem Dev.onLink_slice (d : Dev) (k : Nat) (f : Link → Link) : (d.onLink k f).slice = d.slice := rfl
@[simp] theorem Dev.onLink_stk (d : Dev) (k : Nat) (f : Link → Link) : (d.onLink k f).stk = d.stk := rfl
@[simp] theorem Dev.onLink_net (d : Dev) (k : Nat) (f : Link → Link) : (d.onLink k f).net = d.net := rfl
@[simp] theorem Dev.onLink_sweeps (d : Dev) (k : Nat) (f : Link → Link) : (d.onLink k f).sweeps = d.sweeps := rfl
@[simp] theorem Dev.onLink_comp (d : Dev) (k : Nat) (f : Link → Link) : (d.onLink k f).comp = d.comp := rfl
@[simp] theorem Dev.onLink_hif (d : Dev) (k : Nat) (f : Link → Link) : (d.onLink k f).hif = d.hif := rfl
@[simp] theorem Dev.onLink_pwr (d : Dev) (k : Nat) (f : Link → Link) : (d.onLink k f).pwr = d.pwr := rfl
@[simp] theorem Dev.onLink_ras (d : Dev) (k : Nat) (f : Link → Link) : (d.onLink k f).ras = d.ras := rfl
@[simp] theorem Dev.onLink_alm (d : Dev) (k : Nat) (f : Link → Link) : (d.onLink k f).alm = d.alm := rfl
@[simp] theorem Dev.onLink_lcs (d : Dev) (k : Nat) (f : Link → Link) : (d.onLink k f).lcs = d.lcs := rfl
@[simp] theorem Dev.onLink_fw (d : Dev) (k : Nat) (f : Link → Link) : (d.onLink k f).fw = d.fw := rfl
@[simp] theorem Dev.onLink_mod (d : Dev) (k : Nat) (f : Link → Link) : (d.onLink k f).mod = d.mod := rfl

@[simp] theorem Dev.onPartner_regs (d : Dev) (e : Nat) (f : Partner → Partner) : (d.onPartner e f).regs = d.regs := rfl
@[simp] theorem Dev.onPartner_fresh (d : Dev) (e : Nat) (f : Partner → Partner) :
    (d.onPartner e f).fresh = d.fresh := rfl
@[simp] theorem Dev.onPartner_core (d : Dev) (e : Nat) (f : Partner → Partner) : (d.onPartner e f).core = d.core := rfl
@[simp] theorem Dev.onPartner_mem (d : Dev) (e : Nat) (f : Partner → Partner) : (d.onPartner e f).mem = d.mem := rfl
@[simp] theorem Dev.onPartner_lost (d : Dev) (e : Nat) (f : Partner → Partner) : (d.onPartner e f).lost = d.lost := rfl
@[simp] theorem Dev.onPartner_slice (d : Dev) (e : Nat) (f : Partner → Partner) :
    (d.onPartner e f).slice = d.slice := rfl
@[simp] theorem Dev.onPartner_stk (d : Dev) (e : Nat) (f : Partner → Partner) : (d.onPartner e f).stk = d.stk := rfl
@[simp] theorem Dev.onPartner_net (d : Dev) (e : Nat) (f : Partner → Partner) : (d.onPartner e f).net = d.net := rfl
@[simp] theorem Dev.onPartner_sweeps (d : Dev) (e : Nat) (f : Partner → Partner) :
    (d.onPartner e f).sweeps = d.sweeps := rfl
@[simp] theorem Dev.onPartner_comp (d : Dev) (e : Nat) (f : Partner → Partner) : (d.onPartner e f).comp = d.comp := rfl
@[simp] theorem Dev.onPartner_hif (d : Dev) (e : Nat) (f : Partner → Partner) : (d.onPartner e f).hif = d.hif := rfl
@[simp] theorem Dev.onPartner_pwr (d : Dev) (e : Nat) (f : Partner → Partner) : (d.onPartner e f).pwr = d.pwr := rfl
@[simp] theorem Dev.onPartner_ras (d : Dev) (e : Nat) (f : Partner → Partner) : (d.onPartner e f).ras = d.ras := rfl
@[simp] theorem Dev.onPartner_alm (d : Dev) (e : Nat) (f : Partner → Partner) : (d.onPartner e f).alm = d.alm := rfl
@[simp] theorem Dev.onPartner_lcs (d : Dev) (e : Nat) (f : Partner → Partner) : (d.onPartner e f).lcs = d.lcs := rfl
@[simp] theorem Dev.onPartner_fw (d : Dev) (e : Nat) (f : Partner → Partner) : (d.onPartner e f).fw = d.fw := rfl
@[simp] theorem Dev.onPartner_mod (d : Dev) (e : Nat) (f : Partner → Partner) : (d.onPartner e f).mod = d.mod := rfl

@[simp] theorem Dev.onFn_regs (d : Dev) (n : Nat) (f : Fn → Fn) : (d.onFn n f).regs = d.regs := rfl
@[simp] theorem Dev.onFn_fresh (d : Dev) (n : Nat) (f : Fn → Fn) : (d.onFn n f).fresh = d.fresh := rfl
@[simp] theorem Dev.onFn_core (d : Dev) (n : Nat) (f : Fn → Fn) : (d.onFn n f).core = d.core := rfl
@[simp] theorem Dev.onFn_mem (d : Dev) (n : Nat) (f : Fn → Fn) : (d.onFn n f).mem = d.mem := rfl
@[simp] theorem Dev.onFn_lost (d : Dev) (n : Nat) (f : Fn → Fn) : (d.onFn n f).lost = d.lost := rfl
@[simp] theorem Dev.onFn_slice (d : Dev) (n : Nat) (f : Fn → Fn) : (d.onFn n f).slice = d.slice := rfl
@[simp] theorem Dev.onFn_stk (d : Dev) (n : Nat) (f : Fn → Fn) : (d.onFn n f).stk = d.stk := rfl
@[simp] theorem Dev.onFn_net (d : Dev) (n : Nat) (f : Fn → Fn) : (d.onFn n f).net = d.net := rfl
@[simp] theorem Dev.onFn_sweeps (d : Dev) (n : Nat) (f : Fn → Fn) : (d.onFn n f).sweeps = d.sweeps := rfl
@[simp] theorem Dev.onFn_comp (d : Dev) (n : Nat) (f : Fn → Fn) : (d.onFn n f).comp = d.comp := rfl
@[simp] theorem Dev.onFn_pwr (d : Dev) (n : Nat) (f : Fn → Fn) : (d.onFn n f).pwr = d.pwr := rfl
@[simp] theorem Dev.onFn_cxl (d : Dev) (n : Nat) (f : Fn → Fn) : (d.onFn n f).cxl = d.cxl := rfl
@[simp] theorem Dev.onFn_ras (d : Dev) (n : Nat) (f : Fn → Fn) : (d.onFn n f).ras = d.ras := rfl
@[simp] theorem Dev.onFn_alm (d : Dev) (n : Nat) (f : Fn → Fn) : (d.onFn n f).alm = d.alm := rfl
@[simp] theorem Dev.onFn_lcs (d : Dev) (n : Nat) (f : Fn → Fn) : (d.onFn n f).lcs = d.lcs := rfl
@[simp] theorem Dev.onFn_fw (d : Dev) (n : Nat) (f : Fn → Fn) : (d.onFn n f).fw = d.fw := rfl
@[simp] theorem Dev.onFn_mod (d : Dev) (n : Nat) (f : Fn → Fn) : (d.onFn n f).mod = d.mod := rfl

@[simp] theorem Dev.onHif_regs (d : Dev) (f : Hif → Hif) : (d.onHif f).regs = d.regs := rfl
@[simp] theorem Dev.onHif_fresh (d : Dev) (f : Hif → Hif) : (d.onHif f).fresh = d.fresh := rfl
@[simp] theorem Dev.onHif_core (d : Dev) (f : Hif → Hif) : (d.onHif f).core = d.core := rfl
@[simp] theorem Dev.onHif_mem (d : Dev) (f : Hif → Hif) : (d.onHif f).mem = d.mem := rfl
@[simp] theorem Dev.onHif_lost (d : Dev) (f : Hif → Hif) : (d.onHif f).lost = d.lost := rfl
@[simp] theorem Dev.onHif_slice (d : Dev) (f : Hif → Hif) : (d.onHif f).slice = d.slice := rfl
@[simp] theorem Dev.onHif_stk (d : Dev) (f : Hif → Hif) : (d.onHif f).stk = d.stk := rfl
@[simp] theorem Dev.onHif_net (d : Dev) (f : Hif → Hif) : (d.onHif f).net = d.net := rfl
@[simp] theorem Dev.onHif_sweeps (d : Dev) (f : Hif → Hif) : (d.onHif f).sweeps = d.sweeps := rfl
@[simp] theorem Dev.onHif_comp (d : Dev) (f : Hif → Hif) : (d.onHif f).comp = d.comp := rfl
@[simp] theorem Dev.onHif_hif (d : Dev) (f : Hif → Hif) : (d.onHif f).hif = f d.hif := rfl
@[simp] theorem Dev.onHif_pwr (d : Dev) (f : Hif → Hif) : (d.onHif f).pwr = d.pwr := rfl
@[simp] theorem Dev.onHif_cxl (d : Dev) (f : Hif → Hif) : (d.onHif f).cxl = d.cxl := rfl
@[simp] theorem Dev.onHif_ras (d : Dev) (f : Hif → Hif) : (d.onHif f).ras = d.ras := rfl
@[simp] theorem Dev.onHif_alm (d : Dev) (f : Hif → Hif) : (d.onHif f).alm = d.alm := rfl
@[simp] theorem Dev.onHif_lcs (d : Dev) (f : Hif → Hif) : (d.onHif f).lcs = d.lcs := rfl
@[simp] theorem Dev.onHif_fw (d : Dev) (f : Hif → Hif) : (d.onHif f).fw = d.fw := rfl
@[simp] theorem Dev.onHif_mod (d : Dev) (f : Hif → Hif) : (d.onHif f).mod = d.mod := rfl

@[simp] theorem Dev.onCtx_regs (d : Dev) (k : Nat) (f : Ctx → Ctx) : (d.onCtx k f).regs = d.regs := rfl
@[simp] theorem Dev.onCtx_fresh (d : Dev) (k : Nat) (f : Ctx → Ctx) : (d.onCtx k f).fresh = d.fresh := rfl
@[simp] theorem Dev.onCtx_core (d : Dev) (k : Nat) (f : Ctx → Ctx) : (d.onCtx k f).core = d.core := rfl
@[simp] theorem Dev.onCtx_mem (d : Dev) (k : Nat) (f : Ctx → Ctx) : (d.onCtx k f).mem = d.mem := rfl
@[simp] theorem Dev.onCtx_lost (d : Dev) (k : Nat) (f : Ctx → Ctx) : (d.onCtx k f).lost = d.lost := rfl
@[simp] theorem Dev.onCtx_slice (d : Dev) (k : Nat) (f : Ctx → Ctx) : (d.onCtx k f).slice = d.slice := rfl
@[simp] theorem Dev.onCtx_stk (d : Dev) (k : Nat) (f : Ctx → Ctx) : (d.onCtx k f).stk = d.stk := rfl
@[simp] theorem Dev.onCtx_net (d : Dev) (k : Nat) (f : Ctx → Ctx) : (d.onCtx k f).net = d.net := rfl
@[simp] theorem Dev.onCtx_sweeps (d : Dev) (k : Nat) (f : Ctx → Ctx) : (d.onCtx k f).sweeps = d.sweeps := rfl
@[simp] theorem Dev.onCtx_comp (d : Dev) (k : Nat) (f : Ctx → Ctx) : (d.onCtx k f).comp = d.comp := rfl
@[simp] theorem Dev.onCtx_pwr (d : Dev) (k : Nat) (f : Ctx → Ctx) : (d.onCtx k f).pwr = d.pwr := rfl
@[simp] theorem Dev.onCtx_cxl (d : Dev) (k : Nat) (f : Ctx → Ctx) : (d.onCtx k f).cxl = d.cxl := rfl
@[simp] theorem Dev.onCtx_ras (d : Dev) (k : Nat) (f : Ctx → Ctx) : (d.onCtx k f).ras = d.ras := rfl
@[simp] theorem Dev.onCtx_alm (d : Dev) (k : Nat) (f : Ctx → Ctx) : (d.onCtx k f).alm = d.alm := rfl
@[simp] theorem Dev.onCtx_lcs (d : Dev) (k : Nat) (f : Ctx → Ctx) : (d.onCtx k f).lcs = d.lcs := rfl
@[simp] theorem Dev.onCtx_fw (d : Dev) (k : Nat) (f : Ctx → Ctx) : (d.onCtx k f).fw = d.fw := rfl
@[simp] theorem Dev.onCtx_mod (d : Dev) (k : Nat) (f : Ctx → Ctx) : (d.onCtx k f).mod = d.mod := rfl

@[simp] theorem Dev.onQueue_regs (d : Dev) (k : Nat) (f : Queue → Queue) : (d.onQueue k f).regs = d.regs := rfl
@[simp] theorem Dev.onQueue_fresh (d : Dev) (k : Nat) (f : Queue → Queue) : (d.onQueue k f).fresh = d.fresh := rfl
@[simp] theorem Dev.onQueue_core (d : Dev) (k : Nat) (f : Queue → Queue) : (d.onQueue k f).core = d.core := rfl
@[simp] theorem Dev.onQueue_mem (d : Dev) (k : Nat) (f : Queue → Queue) : (d.onQueue k f).mem = d.mem := rfl
@[simp] theorem Dev.onQueue_lost (d : Dev) (k : Nat) (f : Queue → Queue) : (d.onQueue k f).lost = d.lost := rfl
@[simp] theorem Dev.onQueue_slice (d : Dev) (k : Nat) (f : Queue → Queue) : (d.onQueue k f).slice = d.slice := rfl
@[simp] theorem Dev.onQueue_stk (d : Dev) (k : Nat) (f : Queue → Queue) : (d.onQueue k f).stk = d.stk := rfl
@[simp] theorem Dev.onQueue_net (d : Dev) (k : Nat) (f : Queue → Queue) : (d.onQueue k f).net = d.net := rfl
@[simp] theorem Dev.onQueue_sweeps (d : Dev) (k : Nat) (f : Queue → Queue) : (d.onQueue k f).sweeps = d.sweeps := rfl
@[simp] theorem Dev.onQueue_comp (d : Dev) (k : Nat) (f : Queue → Queue) : (d.onQueue k f).comp = d.comp := rfl
@[simp] theorem Dev.onQueue_pwr (d : Dev) (k : Nat) (f : Queue → Queue) : (d.onQueue k f).pwr = d.pwr := rfl
@[simp] theorem Dev.onQueue_cxl (d : Dev) (k : Nat) (f : Queue → Queue) : (d.onQueue k f).cxl = d.cxl := rfl
@[simp] theorem Dev.onQueue_ras (d : Dev) (k : Nat) (f : Queue → Queue) : (d.onQueue k f).ras = d.ras := rfl
@[simp] theorem Dev.onQueue_alm (d : Dev) (k : Nat) (f : Queue → Queue) : (d.onQueue k f).alm = d.alm := rfl
@[simp] theorem Dev.onQueue_lcs (d : Dev) (k : Nat) (f : Queue → Queue) : (d.onQueue k f).lcs = d.lcs := rfl
@[simp] theorem Dev.onQueue_fw (d : Dev) (k : Nat) (f : Queue → Queue) : (d.onQueue k f).fw = d.fw := rfl
@[simp] theorem Dev.onQueue_mod (d : Dev) (k : Nat) (f : Queue → Queue) : (d.onQueue k f).mod = d.mod := rfl

@[simp] theorem Dev.onObj_regs (d : Dev) (k : Nat) (f : Obj → Obj) : (d.onObj k f).regs = d.regs := rfl
@[simp] theorem Dev.onObj_fresh (d : Dev) (k : Nat) (f : Obj → Obj) : (d.onObj k f).fresh = d.fresh := rfl
@[simp] theorem Dev.onObj_core (d : Dev) (k : Nat) (f : Obj → Obj) : (d.onObj k f).core = d.core := rfl
@[simp] theorem Dev.onObj_mem (d : Dev) (k : Nat) (f : Obj → Obj) : (d.onObj k f).mem = d.mem := rfl
@[simp] theorem Dev.onObj_lost (d : Dev) (k : Nat) (f : Obj → Obj) : (d.onObj k f).lost = d.lost := rfl
@[simp] theorem Dev.onObj_slice (d : Dev) (k : Nat) (f : Obj → Obj) : (d.onObj k f).slice = d.slice := rfl
@[simp] theorem Dev.onObj_stk (d : Dev) (k : Nat) (f : Obj → Obj) : (d.onObj k f).stk = d.stk := rfl
@[simp] theorem Dev.onObj_net (d : Dev) (k : Nat) (f : Obj → Obj) : (d.onObj k f).net = d.net := rfl
@[simp] theorem Dev.onObj_sweeps (d : Dev) (k : Nat) (f : Obj → Obj) : (d.onObj k f).sweeps = d.sweeps := rfl
@[simp] theorem Dev.onObj_comp (d : Dev) (k : Nat) (f : Obj → Obj) : (d.onObj k f).comp = d.comp := rfl
@[simp] theorem Dev.onObj_pwr (d : Dev) (k : Nat) (f : Obj → Obj) : (d.onObj k f).pwr = d.pwr := rfl
@[simp] theorem Dev.onObj_cxl (d : Dev) (k : Nat) (f : Obj → Obj) : (d.onObj k f).cxl = d.cxl := rfl
@[simp] theorem Dev.onObj_ras (d : Dev) (k : Nat) (f : Obj → Obj) : (d.onObj k f).ras = d.ras := rfl
@[simp] theorem Dev.onObj_alm (d : Dev) (k : Nat) (f : Obj → Obj) : (d.onObj k f).alm = d.alm := rfl
@[simp] theorem Dev.onObj_lcs (d : Dev) (k : Nat) (f : Obj → Obj) : (d.onObj k f).lcs = d.lcs := rfl
@[simp] theorem Dev.onObj_fw (d : Dev) (k : Nat) (f : Obj → Obj) : (d.onObj k f).fw = d.fw := rfl
@[simp] theorem Dev.onObj_mod (d : Dev) (k : Nat) (f : Obj → Obj) : (d.onObj k f).mod = d.mod := rfl

@[simp] theorem Dev.onEvent_regs (d : Dev) (k : Nat) (f : Event → Event) : (d.onEvent k f).regs = d.regs := rfl
@[simp] theorem Dev.onEvent_fresh (d : Dev) (k : Nat) (f : Event → Event) : (d.onEvent k f).fresh = d.fresh := rfl
@[simp] theorem Dev.onEvent_core (d : Dev) (k : Nat) (f : Event → Event) : (d.onEvent k f).core = d.core := rfl
@[simp] theorem Dev.onEvent_mem (d : Dev) (k : Nat) (f : Event → Event) : (d.onEvent k f).mem = d.mem := rfl
@[simp] theorem Dev.onEvent_lost (d : Dev) (k : Nat) (f : Event → Event) : (d.onEvent k f).lost = d.lost := rfl
@[simp] theorem Dev.onEvent_slice (d : Dev) (k : Nat) (f : Event → Event) : (d.onEvent k f).slice = d.slice := rfl
@[simp] theorem Dev.onEvent_stk (d : Dev) (k : Nat) (f : Event → Event) : (d.onEvent k f).stk = d.stk := rfl
@[simp] theorem Dev.onEvent_net (d : Dev) (k : Nat) (f : Event → Event) : (d.onEvent k f).net = d.net := rfl
@[simp] theorem Dev.onEvent_sweeps (d : Dev) (k : Nat) (f : Event → Event) : (d.onEvent k f).sweeps = d.sweeps := rfl
@[simp] theorem Dev.onEvent_comp (d : Dev) (k : Nat) (f : Event → Event) : (d.onEvent k f).comp = d.comp := rfl
@[simp] theorem Dev.onEvent_pwr (d : Dev) (k : Nat) (f : Event → Event) : (d.onEvent k f).pwr = d.pwr := rfl
@[simp] theorem Dev.onEvent_cxl (d : Dev) (k : Nat) (f : Event → Event) : (d.onEvent k f).cxl = d.cxl := rfl
@[simp] theorem Dev.onEvent_ras (d : Dev) (k : Nat) (f : Event → Event) : (d.onEvent k f).ras = d.ras := rfl
@[simp] theorem Dev.onEvent_alm (d : Dev) (k : Nat) (f : Event → Event) : (d.onEvent k f).alm = d.alm := rfl
@[simp] theorem Dev.onEvent_lcs (d : Dev) (k : Nat) (f : Event → Event) : (d.onEvent k f).lcs = d.lcs := rfl
@[simp] theorem Dev.onEvent_fw (d : Dev) (k : Nat) (f : Event → Event) : (d.onEvent k f).fw = d.fw := rfl
@[simp] theorem Dev.onEvent_mod (d : Dev) (k : Nat) (f : Event → Event) : (d.onEvent k f).mod = d.mod := rfl

@[simp] theorem Dev.onCmd_regs (d : Dev) (k : Nat) (f : Cmd → Cmd) : (d.onCmd k f).regs = d.regs := rfl
@[simp] theorem Dev.onCmd_fresh (d : Dev) (k : Nat) (f : Cmd → Cmd) : (d.onCmd k f).fresh = d.fresh := rfl
@[simp] theorem Dev.onCmd_core (d : Dev) (k : Nat) (f : Cmd → Cmd) : (d.onCmd k f).core = d.core := rfl
@[simp] theorem Dev.onCmd_mem (d : Dev) (k : Nat) (f : Cmd → Cmd) : (d.onCmd k f).mem = d.mem := rfl
@[simp] theorem Dev.onCmd_lost (d : Dev) (k : Nat) (f : Cmd → Cmd) : (d.onCmd k f).lost = d.lost := rfl
@[simp] theorem Dev.onCmd_slice (d : Dev) (k : Nat) (f : Cmd → Cmd) : (d.onCmd k f).slice = d.slice := rfl
@[simp] theorem Dev.onCmd_stk (d : Dev) (k : Nat) (f : Cmd → Cmd) : (d.onCmd k f).stk = d.stk := rfl
@[simp] theorem Dev.onCmd_net (d : Dev) (k : Nat) (f : Cmd → Cmd) : (d.onCmd k f).net = d.net := rfl
@[simp] theorem Dev.onCmd_sweeps (d : Dev) (k : Nat) (f : Cmd → Cmd) : (d.onCmd k f).sweeps = d.sweeps := rfl
@[simp] theorem Dev.onCmd_comp (d : Dev) (k : Nat) (f : Cmd → Cmd) : (d.onCmd k f).comp = d.comp := rfl
@[simp] theorem Dev.onCmd_pwr (d : Dev) (k : Nat) (f : Cmd → Cmd) : (d.onCmd k f).pwr = d.pwr := rfl
@[simp] theorem Dev.onCmd_cxl (d : Dev) (k : Nat) (f : Cmd → Cmd) : (d.onCmd k f).cxl = d.cxl := rfl
@[simp] theorem Dev.onCmd_ras (d : Dev) (k : Nat) (f : Cmd → Cmd) : (d.onCmd k f).ras = d.ras := rfl
@[simp] theorem Dev.onCmd_alm (d : Dev) (k : Nat) (f : Cmd → Cmd) : (d.onCmd k f).alm = d.alm := rfl
@[simp] theorem Dev.onCmd_lcs (d : Dev) (k : Nat) (f : Cmd → Cmd) : (d.onCmd k f).lcs = d.lcs := rfl
@[simp] theorem Dev.onCmd_fw (d : Dev) (k : Nat) (f : Cmd → Cmd) : (d.onCmd k f).fw = d.fw := rfl
@[simp] theorem Dev.onCmd_mod (d : Dev) (k : Nat) (f : Cmd → Cmd) : (d.onCmd k f).mod = d.mod := rfl

@[simp] theorem Dev.onNet_regs (d : Dev) (f : Network → Network) : (d.onNet f).regs = d.regs := rfl
@[simp] theorem Dev.onNet_fresh (d : Dev) (f : Network → Network) : (d.onNet f).fresh = d.fresh := rfl
@[simp] theorem Dev.onNet_core (d : Dev) (f : Network → Network) : (d.onNet f).core = d.core := rfl
@[simp] theorem Dev.onNet_mem (d : Dev) (f : Network → Network) : (d.onNet f).mem = d.mem := rfl
@[simp] theorem Dev.onNet_lost (d : Dev) (f : Network → Network) : (d.onNet f).lost = d.lost := rfl
@[simp] theorem Dev.onNet_slice (d : Dev) (f : Network → Network) : (d.onNet f).slice = d.slice := rfl
@[simp] theorem Dev.onNet_stk (d : Dev) (f : Network → Network) : (d.onNet f).stk = d.stk := rfl
@[simp] theorem Dev.onNet_net (d : Dev) (f : Network → Network) : (d.onNet f).net = f d.net := rfl
@[simp] theorem Dev.onNet_sweeps (d : Dev) (f : Network → Network) : (d.onNet f).sweeps = d.sweeps := rfl
@[simp] theorem Dev.onNet_comp (d : Dev) (f : Network → Network) : (d.onNet f).comp = d.comp := rfl
@[simp] theorem Dev.onNet_hif (d : Dev) (f : Network → Network) : (d.onNet f).hif = d.hif := rfl
@[simp] theorem Dev.onNet_pwr (d : Dev) (f : Network → Network) : (d.onNet f).pwr = d.pwr := rfl
@[simp] theorem Dev.onNet_cxl (d : Dev) (f : Network → Network) : (d.onNet f).cxl = d.cxl := rfl
@[simp] theorem Dev.onNet_ras (d : Dev) (f : Network → Network) : (d.onNet f).ras = d.ras := rfl
@[simp] theorem Dev.onNet_alm (d : Dev) (f : Network → Network) : (d.onNet f).alm = d.alm := rfl
@[simp] theorem Dev.onNet_lcs (d : Dev) (f : Network → Network) : (d.onNet f).lcs = d.lcs := rfl
@[simp] theorem Dev.onNet_fw (d : Dev) (f : Network → Network) : (d.onNet f).fw = d.fw := rfl
@[simp] theorem Dev.onNet_mod (d : Dev) (f : Network → Network) : (d.onNet f).mod = d.mod := rfl

@[simp] theorem Dev.sendReq_regs (d : Dev) (r : Req) : (d.sendReq r).regs = d.regs := rfl
@[simp] theorem Dev.sendReq_fresh (d : Dev) (r : Req) : (d.sendReq r).fresh = d.fresh := rfl
@[simp] theorem Dev.sendReq_core (d : Dev) (r : Req) : (d.sendReq r).core = d.core := rfl
@[simp] theorem Dev.sendReq_mem (d : Dev) (r : Req) : (d.sendReq r).mem = d.mem := rfl
@[simp] theorem Dev.sendReq_lost (d : Dev) (r : Req) : (d.sendReq r).lost = d.lost := rfl
@[simp] theorem Dev.sendReq_slice (d : Dev) (r : Req) : (d.sendReq r).slice = d.slice := rfl
@[simp] theorem Dev.sendReq_stk (d : Dev) (r : Req) : (d.sendReq r).stk = d.stk := rfl
@[simp] theorem Dev.sendReq_net (d : Dev) (r : Req) :
    (d.sendReq r).net = { d.net with reqs := d.net.reqs ++ [r] } := rfl
@[simp] theorem Dev.sendReq_sweeps (d : Dev) (r : Req) : (d.sendReq r).sweeps = d.sweeps := rfl
@[simp] theorem Dev.sendReq_comp (d : Dev) (r : Req) : (d.sendReq r).comp = d.comp := rfl
@[simp] theorem Dev.sendReq_hif (d : Dev) (r : Req) : (d.sendReq r).hif = d.hif := rfl
@[simp] theorem Dev.sendReq_pwr (d : Dev) (r : Req) : (d.sendReq r).pwr = d.pwr := rfl
@[simp] theorem Dev.sendReq_cxl (d : Dev) (r : Req) : (d.sendReq r).cxl = d.cxl := rfl
@[simp] theorem Dev.sendReq_ras (d : Dev) (r : Req) : (d.sendReq r).ras = d.ras := rfl
@[simp] theorem Dev.sendReq_alm (d : Dev) (r : Req) : (d.sendReq r).alm = d.alm := rfl
@[simp] theorem Dev.sendReq_lcs (d : Dev) (r : Req) : (d.sendReq r).lcs = d.lcs := rfl
@[simp] theorem Dev.sendReq_fw (d : Dev) (r : Req) : (d.sendReq r).fw = d.fw := rfl
@[simp] theorem Dev.sendReq_mod (d : Dev) (r : Req) : (d.sendReq r).mod = d.mod := rfl

@[simp] theorem Dev.answer_regs (d : Dev) (r : Req) (st : Status) (x : Line) : (d.answer r st x).regs = d.regs := rfl
@[simp] theorem Dev.answer_fresh (d : Dev) (r : Req) (st : Status) (x : Line) : (d.answer r st x).fresh = d.fresh := rfl
@[simp] theorem Dev.answer_core (d : Dev) (r : Req) (st : Status) (x : Line) : (d.answer r st x).core = d.core := rfl
@[simp] theorem Dev.answer_mem (d : Dev) (r : Req) (st : Status) (x : Line) : (d.answer r st x).mem = d.mem := rfl
@[simp] theorem Dev.answer_lost (d : Dev) (r : Req) (st : Status) (x : Line) : (d.answer r st x).lost = d.lost := rfl
@[simp] theorem Dev.answer_slice (d : Dev) (r : Req) (st : Status) (x : Line) : (d.answer r st x).slice = d.slice := rfl
@[simp] theorem Dev.answer_stk (d : Dev) (r : Req) (st : Status) (x : Line) : (d.answer r st x).stk = d.stk := rfl
@[simp] theorem Dev.answer_net (d : Dev) (r : Req) (st : Status) (x : Line) :
    (d.answer r st x).net = { d.net with resps := d.net.resps ++ [⟨r, st, x⟩] } := rfl
@[simp] theorem Dev.answer_sweeps (d : Dev) (r : Req) (st : Status) (x : Line) :
    (d.answer r st x).sweeps = d.sweeps := rfl
@[simp] theorem Dev.answer_comp (d : Dev) (r : Req) (st : Status) (x : Line) : (d.answer r st x).comp = d.comp := rfl
@[simp] theorem Dev.answer_hif (d : Dev) (r : Req) (st : Status) (x : Line) : (d.answer r st x).hif = d.hif := rfl
@[simp] theorem Dev.answer_pwr (d : Dev) (r : Req) (st : Status) (x : Line) : (d.answer r st x).pwr = d.pwr := rfl
@[simp] theorem Dev.answer_cxl (d : Dev) (r : Req) (st : Status) (x : Line) : (d.answer r st x).cxl = d.cxl := rfl
@[simp] theorem Dev.answer_ras (d : Dev) (r : Req) (st : Status) (x : Line) : (d.answer r st x).ras = d.ras := rfl
@[simp] theorem Dev.answer_alm (d : Dev) (r : Req) (st : Status) (x : Line) : (d.answer r st x).alm = d.alm := rfl
@[simp] theorem Dev.answer_lcs (d : Dev) (r : Req) (st : Status) (x : Line) : (d.answer r st x).lcs = d.lcs := rfl
@[simp] theorem Dev.answer_fw (d : Dev) (r : Req) (st : Status) (x : Line) : (d.answer r st x).fw = d.fw := rfl
@[simp] theorem Dev.answer_mod (d : Dev) (r : Req) (st : Status) (x : Line) : (d.answer r st x).mod = d.mod := rfl

@[simp] theorem Dev.notes_regs (d : Dev) (l : List Note) : (d.notes l).regs = d.regs := rfl
@[simp] theorem Dev.notes_fresh (d : Dev) (l : List Note) : (d.notes l).fresh = d.fresh := rfl
@[simp] theorem Dev.notes_core (d : Dev) (l : List Note) : (d.notes l).core = d.core := rfl
@[simp] theorem Dev.notes_mem (d : Dev) (l : List Note) : (d.notes l).mem = d.mem := rfl
@[simp] theorem Dev.notes_lost (d : Dev) (l : List Note) : (d.notes l).lost = d.lost := rfl
@[simp] theorem Dev.notes_slice (d : Dev) (l : List Note) : (d.notes l).slice = d.slice := rfl
@[simp] theorem Dev.notes_stk (d : Dev) (l : List Note) : (d.notes l).stk = d.stk := rfl
@[simp] theorem Dev.notes_net (d : Dev) (l : List Note) :
    (d.notes l).net = { d.net with notes := d.net.notes ++ l } := rfl
@[simp] theorem Dev.notes_sweeps (d : Dev) (l : List Note) : (d.notes l).sweeps = d.sweeps := rfl
@[simp] theorem Dev.notes_comp (d : Dev) (l : List Note) : (d.notes l).comp = d.comp := rfl
@[simp] theorem Dev.notes_hif (d : Dev) (l : List Note) : (d.notes l).hif = d.hif := rfl
@[simp] theorem Dev.notes_pwr (d : Dev) (l : List Note) : (d.notes l).pwr = d.pwr := rfl
@[simp] theorem Dev.notes_cxl (d : Dev) (l : List Note) : (d.notes l).cxl = d.cxl := rfl
@[simp] theorem Dev.notes_ras (d : Dev) (l : List Note) : (d.notes l).ras = d.ras := rfl
@[simp] theorem Dev.notes_alm (d : Dev) (l : List Note) : (d.notes l).alm = d.alm := rfl
@[simp] theorem Dev.notes_lcs (d : Dev) (l : List Note) : (d.notes l).lcs = d.lcs := rfl
@[simp] theorem Dev.notes_fw (d : Dev) (l : List Note) : (d.notes l).fw = d.fw := rfl
@[simp] theorem Dev.notes_mod (d : Dev) (l : List Note) : (d.notes l).mod = d.mod := rfl

@[simp] theorem Dev.fault_regs (d : Dev) (m : FaultMsg) : (d.fault m).regs = d.regs := rfl
@[simp] theorem Dev.fault_fresh (d : Dev) (m : FaultMsg) : (d.fault m).fresh = d.fresh := rfl
@[simp] theorem Dev.fault_core (d : Dev) (m : FaultMsg) : (d.fault m).core = d.core := rfl
@[simp] theorem Dev.fault_mem (d : Dev) (m : FaultMsg) : (d.fault m).mem = d.mem := rfl
@[simp] theorem Dev.fault_lost (d : Dev) (m : FaultMsg) : (d.fault m).lost = d.lost := rfl
@[simp] theorem Dev.fault_slice (d : Dev) (m : FaultMsg) : (d.fault m).slice = d.slice := rfl
@[simp] theorem Dev.fault_stk (d : Dev) (m : FaultMsg) : (d.fault m).stk = d.stk := rfl
@[simp] theorem Dev.fault_net (d : Dev) (m : FaultMsg) :
    (d.fault m).net = { d.net with faults := d.net.faults ++ [m] } := rfl
@[simp] theorem Dev.fault_sweeps (d : Dev) (m : FaultMsg) : (d.fault m).sweeps = d.sweeps := rfl
@[simp] theorem Dev.fault_comp (d : Dev) (m : FaultMsg) : (d.fault m).comp = d.comp := rfl
@[simp] theorem Dev.fault_hif (d : Dev) (m : FaultMsg) : (d.fault m).hif = d.hif := rfl
@[simp] theorem Dev.fault_pwr (d : Dev) (m : FaultMsg) : (d.fault m).pwr = d.pwr := rfl
@[simp] theorem Dev.fault_cxl (d : Dev) (m : FaultMsg) : (d.fault m).cxl = d.cxl := rfl
@[simp] theorem Dev.fault_ras (d : Dev) (m : FaultMsg) : (d.fault m).ras = d.ras := rfl
@[simp] theorem Dev.fault_alm (d : Dev) (m : FaultMsg) : (d.fault m).alm = d.alm := rfl
@[simp] theorem Dev.fault_lcs (d : Dev) (m : FaultMsg) : (d.fault m).lcs = d.lcs := rfl
@[simp] theorem Dev.fault_fw (d : Dev) (m : FaultMsg) : (d.fault m).fw = d.fw := rfl
@[simp] theorem Dev.fault_mod (d : Dev) (m : FaultMsg) : (d.fault m).mod = d.mod := rfl

@[simp] theorem Dev.onPwr_regs (d : Dev) (f : Power → Power) : (d.onPwr f).regs = d.regs := rfl
@[simp] theorem Dev.onPwr_fresh (d : Dev) (f : Power → Power) : (d.onPwr f).fresh = d.fresh := rfl
@[simp] theorem Dev.onPwr_core (d : Dev) (f : Power → Power) : (d.onPwr f).core = d.core := rfl
@[simp] theorem Dev.onPwr_mem (d : Dev) (f : Power → Power) : (d.onPwr f).mem = d.mem := rfl
@[simp] theorem Dev.onPwr_lost (d : Dev) (f : Power → Power) : (d.onPwr f).lost = d.lost := rfl
@[simp] theorem Dev.onPwr_slice (d : Dev) (f : Power → Power) : (d.onPwr f).slice = d.slice := rfl
@[simp] theorem Dev.onPwr_stk (d : Dev) (f : Power → Power) : (d.onPwr f).stk = d.stk := rfl
@[simp] theorem Dev.onPwr_net (d : Dev) (f : Power → Power) : (d.onPwr f).net = d.net := rfl
@[simp] theorem Dev.onPwr_sweeps (d : Dev) (f : Power → Power) : (d.onPwr f).sweeps = d.sweeps := rfl
@[simp] theorem Dev.onPwr_comp (d : Dev) (f : Power → Power) : (d.onPwr f).comp = d.comp := rfl
@[simp] theorem Dev.onPwr_hif (d : Dev) (f : Power → Power) : (d.onPwr f).hif = d.hif := rfl
@[simp] theorem Dev.onPwr_pwr (d : Dev) (f : Power → Power) : (d.onPwr f).pwr = f d.pwr := rfl
@[simp] theorem Dev.onPwr_cxl (d : Dev) (f : Power → Power) : (d.onPwr f).cxl = d.cxl := rfl
@[simp] theorem Dev.onPwr_ras (d : Dev) (f : Power → Power) : (d.onPwr f).ras = d.ras := rfl
@[simp] theorem Dev.onPwr_alm (d : Dev) (f : Power → Power) : (d.onPwr f).alm = d.alm := rfl
@[simp] theorem Dev.onPwr_lcs (d : Dev) (f : Power → Power) : (d.onPwr f).lcs = d.lcs := rfl
@[simp] theorem Dev.onPwr_fw (d : Dev) (f : Power → Power) : (d.onPwr f).fw = d.fw := rfl
@[simp] theorem Dev.onPwr_mod (d : Dev) (f : Power → Power) : (d.onPwr f).mod = d.mod := rfl

@[simp] theorem Dev.onComp_regs (d : Dev) (f : Comp → Comp) : (d.onComp f).regs = d.regs := rfl
@[simp] theorem Dev.onComp_fresh (d : Dev) (f : Comp → Comp) : (d.onComp f).fresh = d.fresh := rfl
@[simp] theorem Dev.onComp_core (d : Dev) (f : Comp → Comp) : (d.onComp f).core = d.core := rfl
@[simp] theorem Dev.onComp_mem (d : Dev) (f : Comp → Comp) : (d.onComp f).mem = d.mem := rfl
@[simp] theorem Dev.onComp_lost (d : Dev) (f : Comp → Comp) : (d.onComp f).lost = d.lost := rfl
@[simp] theorem Dev.onComp_slice (d : Dev) (f : Comp → Comp) : (d.onComp f).slice = d.slice := rfl
@[simp] theorem Dev.onComp_stk (d : Dev) (f : Comp → Comp) : (d.onComp f).stk = d.stk := rfl
@[simp] theorem Dev.onComp_net (d : Dev) (f : Comp → Comp) : (d.onComp f).net = d.net := rfl
@[simp] theorem Dev.onComp_sweeps (d : Dev) (f : Comp → Comp) : (d.onComp f).sweeps = d.sweeps := rfl
@[simp] theorem Dev.onComp_comp (d : Dev) (f : Comp → Comp) : (d.onComp f).comp = f d.comp := rfl
@[simp] theorem Dev.onComp_hif (d : Dev) (f : Comp → Comp) : (d.onComp f).hif = d.hif := rfl
@[simp] theorem Dev.onComp_pwr (d : Dev) (f : Comp → Comp) : (d.onComp f).pwr = d.pwr := rfl
@[simp] theorem Dev.onComp_cxl (d : Dev) (f : Comp → Comp) : (d.onComp f).cxl = d.cxl := rfl
@[simp] theorem Dev.onComp_ras (d : Dev) (f : Comp → Comp) : (d.onComp f).ras = d.ras := rfl
@[simp] theorem Dev.onComp_alm (d : Dev) (f : Comp → Comp) : (d.onComp f).alm = d.alm := rfl
@[simp] theorem Dev.onComp_lcs (d : Dev) (f : Comp → Comp) : (d.onComp f).lcs = d.lcs := rfl
@[simp] theorem Dev.onComp_fw (d : Dev) (f : Comp → Comp) : (d.onComp f).fw = d.fw := rfl
@[simp] theorem Dev.onComp_mod (d : Dev) (f : Comp → Comp) : (d.onComp f).mod = d.mod := rfl

@[simp] theorem Dev.onFw_regs (d : Dev) (f : Fw → Fw) : (d.onFw f).regs = d.regs := rfl
@[simp] theorem Dev.onFw_fresh (d : Dev) (f : Fw → Fw) : (d.onFw f).fresh = d.fresh := rfl
@[simp] theorem Dev.onFw_core (d : Dev) (f : Fw → Fw) : (d.onFw f).core = d.core := rfl
@[simp] theorem Dev.onFw_mem (d : Dev) (f : Fw → Fw) : (d.onFw f).mem = d.mem := rfl
@[simp] theorem Dev.onFw_lost (d : Dev) (f : Fw → Fw) : (d.onFw f).lost = d.lost := rfl
@[simp] theorem Dev.onFw_slice (d : Dev) (f : Fw → Fw) : (d.onFw f).slice = d.slice := rfl
@[simp] theorem Dev.onFw_stk (d : Dev) (f : Fw → Fw) : (d.onFw f).stk = d.stk := rfl
@[simp] theorem Dev.onFw_net (d : Dev) (f : Fw → Fw) : (d.onFw f).net = d.net := rfl
@[simp] theorem Dev.onFw_sweeps (d : Dev) (f : Fw → Fw) : (d.onFw f).sweeps = d.sweeps := rfl
@[simp] theorem Dev.onFw_comp (d : Dev) (f : Fw → Fw) : (d.onFw f).comp = d.comp := rfl
@[simp] theorem Dev.onFw_hif (d : Dev) (f : Fw → Fw) : (d.onFw f).hif = d.hif := rfl
@[simp] theorem Dev.onFw_pwr (d : Dev) (f : Fw → Fw) : (d.onFw f).pwr = d.pwr := rfl
@[simp] theorem Dev.onFw_cxl (d : Dev) (f : Fw → Fw) : (d.onFw f).cxl = d.cxl := rfl
@[simp] theorem Dev.onFw_ras (d : Dev) (f : Fw → Fw) : (d.onFw f).ras = d.ras := rfl
@[simp] theorem Dev.onFw_alm (d : Dev) (f : Fw → Fw) : (d.onFw f).alm = d.alm := rfl
@[simp] theorem Dev.onFw_lcs (d : Dev) (f : Fw → Fw) : (d.onFw f).lcs = d.lcs := rfl
@[simp] theorem Dev.onFw_fw (d : Dev) (f : Fw → Fw) : (d.onFw f).fw = f d.fw := rfl
@[simp] theorem Dev.onFw_mod (d : Dev) (f : Fw → Fw) : (d.onFw f).mod = d.mod := rfl

@[simp] theorem Dev.onLcs_regs (d : Dev) (f : Lcs → Lcs) : (d.onLcs f).regs = d.regs := rfl
@[simp] theorem Dev.onLcs_fresh (d : Dev) (f : Lcs → Lcs) : (d.onLcs f).fresh = d.fresh := rfl
@[simp] theorem Dev.onLcs_core (d : Dev) (f : Lcs → Lcs) : (d.onLcs f).core = d.core := rfl
@[simp] theorem Dev.onLcs_mem (d : Dev) (f : Lcs → Lcs) : (d.onLcs f).mem = d.mem := rfl
@[simp] theorem Dev.onLcs_lost (d : Dev) (f : Lcs → Lcs) : (d.onLcs f).lost = d.lost := rfl
@[simp] theorem Dev.onLcs_slice (d : Dev) (f : Lcs → Lcs) : (d.onLcs f).slice = d.slice := rfl
@[simp] theorem Dev.onLcs_stk (d : Dev) (f : Lcs → Lcs) : (d.onLcs f).stk = d.stk := rfl
@[simp] theorem Dev.onLcs_net (d : Dev) (f : Lcs → Lcs) : (d.onLcs f).net = d.net := rfl
@[simp] theorem Dev.onLcs_sweeps (d : Dev) (f : Lcs → Lcs) : (d.onLcs f).sweeps = d.sweeps := rfl
@[simp] theorem Dev.onLcs_comp (d : Dev) (f : Lcs → Lcs) : (d.onLcs f).comp = d.comp := rfl
@[simp] theorem Dev.onLcs_hif (d : Dev) (f : Lcs → Lcs) : (d.onLcs f).hif = d.hif := rfl
@[simp] theorem Dev.onLcs_pwr (d : Dev) (f : Lcs → Lcs) : (d.onLcs f).pwr = d.pwr := rfl
@[simp] theorem Dev.onLcs_cxl (d : Dev) (f : Lcs → Lcs) : (d.onLcs f).cxl = d.cxl := rfl
@[simp] theorem Dev.onLcs_ras (d : Dev) (f : Lcs → Lcs) : (d.onLcs f).ras = d.ras := rfl
@[simp] theorem Dev.onLcs_alm (d : Dev) (f : Lcs → Lcs) : (d.onLcs f).alm = d.alm := rfl
@[simp] theorem Dev.onLcs_lcs (d : Dev) (f : Lcs → Lcs) : (d.onLcs f).lcs = f d.lcs := rfl
@[simp] theorem Dev.onLcs_fw (d : Dev) (f : Lcs → Lcs) : (d.onLcs f).fw = d.fw := rfl
@[simp] theorem Dev.onLcs_mod (d : Dev) (f : Lcs → Lcs) : (d.onLcs f).mod = d.mod := rfl

@[simp] theorem Dev.onMod_regs (d : Dev) (f : Mod → Mod) : (d.onMod f).regs = d.regs := rfl
@[simp] theorem Dev.onMod_fresh (d : Dev) (f : Mod → Mod) : (d.onMod f).fresh = d.fresh := rfl
@[simp] theorem Dev.onMod_core (d : Dev) (f : Mod → Mod) : (d.onMod f).core = d.core := rfl
@[simp] theorem Dev.onMod_mem (d : Dev) (f : Mod → Mod) : (d.onMod f).mem = d.mem := rfl
@[simp] theorem Dev.onMod_lost (d : Dev) (f : Mod → Mod) : (d.onMod f).lost = d.lost := rfl
@[simp] theorem Dev.onMod_slice (d : Dev) (f : Mod → Mod) : (d.onMod f).slice = d.slice := rfl
@[simp] theorem Dev.onMod_stk (d : Dev) (f : Mod → Mod) : (d.onMod f).stk = d.stk := rfl
@[simp] theorem Dev.onMod_net (d : Dev) (f : Mod → Mod) : (d.onMod f).net = d.net := rfl
@[simp] theorem Dev.onMod_sweeps (d : Dev) (f : Mod → Mod) : (d.onMod f).sweeps = d.sweeps := rfl
@[simp] theorem Dev.onMod_comp (d : Dev) (f : Mod → Mod) : (d.onMod f).comp = d.comp := rfl
@[simp] theorem Dev.onMod_hif (d : Dev) (f : Mod → Mod) : (d.onMod f).hif = d.hif := rfl
@[simp] theorem Dev.onMod_pwr (d : Dev) (f : Mod → Mod) : (d.onMod f).pwr = d.pwr := rfl
@[simp] theorem Dev.onMod_cxl (d : Dev) (f : Mod → Mod) : (d.onMod f).cxl = d.cxl := rfl
@[simp] theorem Dev.onMod_ras (d : Dev) (f : Mod → Mod) : (d.onMod f).ras = d.ras := rfl
@[simp] theorem Dev.onMod_alm (d : Dev) (f : Mod → Mod) : (d.onMod f).alm = d.alm := rfl
@[simp] theorem Dev.onMod_lcs (d : Dev) (f : Mod → Mod) : (d.onMod f).lcs = d.lcs := rfl
@[simp] theorem Dev.onMod_fw (d : Dev) (f : Mod → Mod) : (d.onMod f).fw = d.fw := rfl
@[simp] theorem Dev.onMod_mod (d : Dev) (f : Mod → Mod) : (d.onMod f).mod = f d.mod := rfl

@[simp] theorem Dev.onAlm_regs (d : Dev) (f : Alm → Alm) : (d.onAlm f).regs = d.regs := rfl
@[simp] theorem Dev.onAlm_fresh (d : Dev) (f : Alm → Alm) : (d.onAlm f).fresh = d.fresh := rfl
@[simp] theorem Dev.onAlm_core (d : Dev) (f : Alm → Alm) : (d.onAlm f).core = d.core := rfl
@[simp] theorem Dev.onAlm_mem (d : Dev) (f : Alm → Alm) : (d.onAlm f).mem = d.mem := rfl
@[simp] theorem Dev.onAlm_lost (d : Dev) (f : Alm → Alm) : (d.onAlm f).lost = d.lost := rfl
@[simp] theorem Dev.onAlm_slice (d : Dev) (f : Alm → Alm) : (d.onAlm f).slice = d.slice := rfl
@[simp] theorem Dev.onAlm_stk (d : Dev) (f : Alm → Alm) : (d.onAlm f).stk = d.stk := rfl
@[simp] theorem Dev.onAlm_net (d : Dev) (f : Alm → Alm) : (d.onAlm f).net = d.net := rfl
@[simp] theorem Dev.onAlm_sweeps (d : Dev) (f : Alm → Alm) : (d.onAlm f).sweeps = d.sweeps := rfl
@[simp] theorem Dev.onAlm_comp (d : Dev) (f : Alm → Alm) : (d.onAlm f).comp = d.comp := rfl
@[simp] theorem Dev.onAlm_hif (d : Dev) (f : Alm → Alm) : (d.onAlm f).hif = d.hif := rfl
@[simp] theorem Dev.onAlm_pwr (d : Dev) (f : Alm → Alm) : (d.onAlm f).pwr = d.pwr := rfl
@[simp] theorem Dev.onAlm_cxl (d : Dev) (f : Alm → Alm) : (d.onAlm f).cxl = d.cxl := rfl
@[simp] theorem Dev.onAlm_ras (d : Dev) (f : Alm → Alm) : (d.onAlm f).ras = d.ras := rfl
@[simp] theorem Dev.onAlm_alm (d : Dev) (f : Alm → Alm) : (d.onAlm f).alm = f d.alm := rfl
@[simp] theorem Dev.onAlm_lcs (d : Dev) (f : Alm → Alm) : (d.onAlm f).lcs = d.lcs := rfl
@[simp] theorem Dev.onAlm_fw (d : Dev) (f : Alm → Alm) : (d.onAlm f).fw = d.fw := rfl
@[simp] theorem Dev.onAlm_mod (d : Dev) (f : Alm → Alm) : (d.onAlm f).mod = d.mod := rfl

@[simp] theorem Dev.reply_regs (d : Dev) (k : Nat) (l : List Nat) : (d.reply k l).regs = d.regs := rfl
@[simp] theorem Dev.reply_fresh (d : Dev) (k : Nat) (l : List Nat) : (d.reply k l).fresh = d.fresh := rfl
@[simp] theorem Dev.reply_core (d : Dev) (k : Nat) (l : List Nat) : (d.reply k l).core = d.core := rfl
@[simp] theorem Dev.reply_mem (d : Dev) (k : Nat) (l : List Nat) : (d.reply k l).mem = d.mem := rfl
@[simp] theorem Dev.reply_lost (d : Dev) (k : Nat) (l : List Nat) : (d.reply k l).lost = d.lost := rfl
@[simp] theorem Dev.reply_slice (d : Dev) (k : Nat) (l : List Nat) : (d.reply k l).slice = d.slice := rfl
@[simp] theorem Dev.reply_stk (d : Dev) (k : Nat) (l : List Nat) : (d.reply k l).stk = d.stk := rfl
@[simp] theorem Dev.reply_net (d : Dev) (k : Nat) (l : List Nat) : (d.reply k l).net = d.net := rfl
@[simp] theorem Dev.reply_sweeps (d : Dev) (k : Nat) (l : List Nat) : (d.reply k l).sweeps = d.sweeps := rfl
@[simp] theorem Dev.reply_comp (d : Dev) (k : Nat) (l : List Nat) : (d.reply k l).comp = d.comp := rfl
@[simp] theorem Dev.reply_hif (d : Dev) (k : Nat) (l : List Nat) : (d.reply k l).hif = d.hif := rfl
@[simp] theorem Dev.reply_pwr (d : Dev) (k : Nat) (l : List Nat) : (d.reply k l).pwr = d.pwr := rfl
@[simp] theorem Dev.reply_cxl (d : Dev) (k : Nat) (l : List Nat) : (d.reply k l).cxl = d.cxl := rfl
@[simp] theorem Dev.reply_ras (d : Dev) (k : Nat) (l : List Nat) : (d.reply k l).ras = d.ras := rfl
@[simp] theorem Dev.reply_alm (d : Dev) (k : Nat) (l : List Nat) : (d.reply k l).alm = d.alm := rfl
@[simp] theorem Dev.reply_lcs (d : Dev) (k : Nat) (l : List Nat) : (d.reply k l).lcs = d.lcs := rfl
@[simp] theorem Dev.reply_mod (d : Dev) (k : Nat) (l : List Nat) : (d.reply k l).mod = d.mod := rfl

/-! ### Inside the device's parts -/

@[simp] theorem Dev.onCtx_hif_ctxs (d : Dev) (k : Nat) (f : Ctx → Ctx) :
    (d.onCtx k f).hif.ctxs = Tbl.adj d.hif.ctxs k f := rfl
@[simp] theorem Dev.onCtx_hif_queues (d : Dev) (k : Nat) (f : Ctx → Ctx) :
    (d.onCtx k f).hif.queues = d.hif.queues := rfl
@[simp] theorem Dev.onCtx_hif_objs (d : Dev) (k : Nat) (f : Ctx → Ctx) : (d.onCtx k f).hif.objs = d.hif.objs := rfl
@[simp] theorem Dev.onCtx_hif_events (d : Dev) (k : Nat) (f : Ctx → Ctx) :
    (d.onCtx k f).hif.events = d.hif.events := rfl
@[simp] theorem Dev.onCtx_hif_fns (d : Dev) (k : Nat) (f : Ctx → Ctx) : (d.onCtx k f).hif.fns = d.hif.fns := rfl
@[simp] theorem Dev.onCtx_hif_cmds (d : Dev) (k : Nat) (f : Ctx → Ctx) : (d.onCtx k f).hif.cmds = d.hif.cmds := rfl
@[simp] theorem Dev.onCtx_hif_nextCmd (d : Dev) (k : Nat) (f : Ctx → Ctx) :
    (d.onCtx k f).hif.nextCmd = d.hif.nextCmd := rfl
@[simp] theorem Dev.onCtx_hif_cq (d : Dev) (k : Nat) (f : Ctx → Ctx) : (d.onCtx k f).hif.cq = d.hif.cq := rfl
@[simp] theorem Dev.onCtx_hif_fr (d : Dev) (k : Nat) (f : Ctx → Ctx) : (d.onCtx k f).hif.fr = d.hif.fr := rfl
@[simp] theorem Dev.onCtx_hif_hold (d : Dev) (k : Nat) (f : Ctx → Ctx) : (d.onCtx k f).hif.hold = d.hif.hold := rfl
@[simp] theorem Dev.onCtx_hif_blockedQ (d : Dev) (k : Nat) (f : Ctx → Ctx) :
    (d.onCtx k f).hif.blockedQ = d.hif.blockedQ := rfl
@[simp] theorem Dev.onCtx_hif_episodes (d : Dev) (k : Nat) (f : Ctx → Ctx) :
    (d.onCtx k f).hif.episodes = d.hif.episodes := rfl
@[simp] theorem Dev.onCtx_hif_nEpisodes (d : Dev) (k : Nat) (f : Ctx → Ctx) :
    (d.onCtx k f).hif.nEpisodes = d.hif.nEpisodes := rfl
@[simp] theorem Dev.onCtx_hif_hostDrop (d : Dev) (k : Nat) (f : Ctx → Ctx) :
    (d.onCtx k f).hif.hostDrop = d.hif.hostDrop := rfl
@[simp] theorem Dev.onCtx_hif_mfr (d : Dev) (k : Nat) (f : Ctx → Ctx) : (d.onCtx k f).hif.mfr = d.hif.mfr := rfl
@[simp] theorem Dev.onCtx_hif_mgt (d : Dev) (k : Nat) (f : Ctx → Ctx) : (d.onCtx k f).hif.mgt = d.hif.mgt := rfl
@[simp] theorem Dev.onCtx_hif_nextMgt (d : Dev) (k : Nat) (f : Ctx → Ctx) :
    (d.onCtx k f).hif.nextMgt = d.hif.nextMgt := rfl
@[simp] theorem Dev.onCtx_hif_mcq (d : Dev) (k : Nat) (f : Ctx → Ctx) : (d.onCtx k f).hif.mcq = d.hif.mcq := rfl
@[simp] theorem Dev.onCtx_hif_mheld (d : Dev) (k : Nat) (f : Ctx → Ctx) : (d.onCtx k f).hif.mheld = d.hif.mheld := rfl
@[simp] theorem Dev.onCtx_hif_mold (d : Dev) (k : Nat) (f : Ctx → Ctx) : (d.onCtx k f).hif.mold = d.hif.mold := rfl
@[simp] theorem Dev.onCtx_hif_mgtIntr (d : Dev) (k : Nat) (f : Ctx → Ctx) :
    (d.onCtx k f).hif.mgtIntr = d.hif.mgtIntr := rfl
@[simp] theorem Dev.onCtx_hif_submitted (d : Dev) (k : Nat) (f : Ctx → Ctx) :
    (d.onCtx k f).hif.submitted = d.hif.submitted := rfl
@[simp] theorem Dev.onCtx_hif_intr (d : Dev) (k : Nat) (f : Ctx → Ctx) : (d.onCtx k f).hif.intr = d.hif.intr := rfl

@[simp] theorem Dev.onQueue_hif_ctxs (d : Dev) (k : Nat) (f : Queue → Queue) :
    (d.onQueue k f).hif.ctxs = d.hif.ctxs := rfl
@[simp] theorem Dev.onQueue_hif_queues (d : Dev) (k : Nat) (f : Queue → Queue) :
    (d.onQueue k f).hif.queues = Tbl.adj d.hif.queues k f := rfl
@[simp] theorem Dev.onQueue_hif_objs (d : Dev) (k : Nat) (f : Queue → Queue) :
    (d.onQueue k f).hif.objs = d.hif.objs := rfl
@[simp] theorem Dev.onQueue_hif_events (d : Dev) (k : Nat) (f : Queue → Queue) :
    (d.onQueue k f).hif.events = d.hif.events := rfl
@[simp] theorem Dev.onQueue_hif_fns (d : Dev) (k : Nat) (f : Queue → Queue) : (d.onQueue k f).hif.fns = d.hif.fns := rfl
@[simp] theorem Dev.onQueue_hif_cmds (d : Dev) (k : Nat) (f : Queue → Queue) :
    (d.onQueue k f).hif.cmds = d.hif.cmds := rfl
@[simp] theorem Dev.onQueue_hif_nextCmd (d : Dev) (k : Nat) (f : Queue → Queue) :
    (d.onQueue k f).hif.nextCmd = d.hif.nextCmd := rfl
@[simp] theorem Dev.onQueue_hif_cq (d : Dev) (k : Nat) (f : Queue → Queue) : (d.onQueue k f).hif.cq = d.hif.cq := rfl
@[simp] theorem Dev.onQueue_hif_fr (d : Dev) (k : Nat) (f : Queue → Queue) : (d.onQueue k f).hif.fr = d.hif.fr := rfl
@[simp] theorem Dev.onQueue_hif_hold (d : Dev) (k : Nat) (f : Queue → Queue) :
    (d.onQueue k f).hif.hold = d.hif.hold := rfl
@[simp] theorem Dev.onQueue_hif_blockedQ (d : Dev) (k : Nat) (f : Queue → Queue) :
    (d.onQueue k f).hif.blockedQ = d.hif.blockedQ := rfl
@[simp] theorem Dev.onQueue_hif_episodes (d : Dev) (k : Nat) (f : Queue → Queue) :
    (d.onQueue k f).hif.episodes = d.hif.episodes := rfl
@[simp] theorem Dev.onQueue_hif_nEpisodes (d : Dev) (k : Nat) (f : Queue → Queue) :
    (d.onQueue k f).hif.nEpisodes = d.hif.nEpisodes := rfl
@[simp] theorem Dev.onQueue_hif_hostDrop (d : Dev) (k : Nat) (f : Queue → Queue) :
    (d.onQueue k f).hif.hostDrop = d.hif.hostDrop := rfl
@[simp] theorem Dev.onQueue_hif_mfr (d : Dev) (k : Nat) (f : Queue → Queue) : (d.onQueue k f).hif.mfr = d.hif.mfr := rfl
@[simp] theorem Dev.onQueue_hif_mgt (d : Dev) (k : Nat) (f : Queue → Queue) : (d.onQueue k f).hif.mgt = d.hif.mgt := rfl
@[simp] theorem Dev.onQueue_hif_nextMgt (d : Dev) (k : Nat) (f : Queue → Queue) :
    (d.onQueue k f).hif.nextMgt = d.hif.nextMgt := rfl
@[simp] theorem Dev.onQueue_hif_mcq (d : Dev) (k : Nat) (f : Queue → Queue) : (d.onQueue k f).hif.mcq = d.hif.mcq := rfl
@[simp] theorem Dev.onQueue_hif_mheld (d : Dev) (k : Nat) (f : Queue → Queue) :
    (d.onQueue k f).hif.mheld = d.hif.mheld := rfl
@[simp] theorem Dev.onQueue_hif_mold (d : Dev) (k : Nat) (f : Queue → Queue) :
    (d.onQueue k f).hif.mold = d.hif.mold := rfl
@[simp] theorem Dev.onQueue_hif_mgtIntr (d : Dev) (k : Nat) (f : Queue → Queue) :
    (d.onQueue k f).hif.mgtIntr = d.hif.mgtIntr := rfl
@[simp] theorem Dev.onQueue_hif_submitted (d : Dev) (k : Nat) (f : Queue → Queue) :
    (d.onQueue k f).hif.submitted = d.hif.submitted := rfl
@[simp] theorem Dev.onQueue_hif_intr (d : Dev) (k : Nat) (f : Queue → Queue) :
    (d.onQueue k f).hif.intr = d.hif.intr := rfl

@[simp] theorem Dev.onObj_hif_ctxs (d : Dev) (k : Nat) (f : Obj → Obj) : (d.onObj k f).hif.ctxs = d.hif.ctxs := rfl
@[simp] theorem Dev.onObj_hif_queues (d : Dev) (k : Nat) (f : Obj → Obj) :
    (d.onObj k f).hif.queues = d.hif.queues := rfl
@[simp] theorem Dev.onObj_hif_objs (d : Dev) (k : Nat) (f : Obj → Obj) :
    (d.onObj k f).hif.objs = Tbl.adj d.hif.objs k f := rfl
@[simp] theorem Dev.onObj_hif_events (d : Dev) (k : Nat) (f : Obj → Obj) :
    (d.onObj k f).hif.events = d.hif.events := rfl
@[simp] theorem Dev.onObj_hif_fns (d : Dev) (k : Nat) (f : Obj → Obj) : (d.onObj k f).hif.fns = d.hif.fns := rfl
@[simp] theorem Dev.onObj_hif_cmds (d : Dev) (k : Nat) (f : Obj → Obj) : (d.onObj k f).hif.cmds = d.hif.cmds := rfl
@[simp] theorem Dev.onObj_hif_nextCmd (d : Dev) (k : Nat) (f : Obj → Obj) :
    (d.onObj k f).hif.nextCmd = d.hif.nextCmd := rfl
@[simp] theorem Dev.onObj_hif_cq (d : Dev) (k : Nat) (f : Obj → Obj) : (d.onObj k f).hif.cq = d.hif.cq := rfl
@[simp] theorem Dev.onObj_hif_fr (d : Dev) (k : Nat) (f : Obj → Obj) : (d.onObj k f).hif.fr = d.hif.fr := rfl
@[simp] theorem Dev.onObj_hif_hold (d : Dev) (k : Nat) (f : Obj → Obj) : (d.onObj k f).hif.hold = d.hif.hold := rfl
@[simp] theorem Dev.onObj_hif_blockedQ (d : Dev) (k : Nat) (f : Obj → Obj) :
    (d.onObj k f).hif.blockedQ = d.hif.blockedQ := rfl
@[simp] theorem Dev.onObj_hif_episodes (d : Dev) (k : Nat) (f : Obj → Obj) :
    (d.onObj k f).hif.episodes = d.hif.episodes := rfl
@[simp] theorem Dev.onObj_hif_nEpisodes (d : Dev) (k : Nat) (f : Obj → Obj) :
    (d.onObj k f).hif.nEpisodes = d.hif.nEpisodes := rfl
@[simp] theorem Dev.onObj_hif_hostDrop (d : Dev) (k : Nat) (f : Obj → Obj) :
    (d.onObj k f).hif.hostDrop = d.hif.hostDrop := rfl
@[simp] theorem Dev.onObj_hif_mfr (d : Dev) (k : Nat) (f : Obj → Obj) : (d.onObj k f).hif.mfr = d.hif.mfr := rfl
@[simp] theorem Dev.onObj_hif_mgt (d : Dev) (k : Nat) (f : Obj → Obj) : (d.onObj k f).hif.mgt = d.hif.mgt := rfl
@[simp] theorem Dev.onObj_hif_nextMgt (d : Dev) (k : Nat) (f : Obj → Obj) :
    (d.onObj k f).hif.nextMgt = d.hif.nextMgt := rfl
@[simp] theorem Dev.onObj_hif_mcq (d : Dev) (k : Nat) (f : Obj → Obj) : (d.onObj k f).hif.mcq = d.hif.mcq := rfl
@[simp] theorem Dev.onObj_hif_mheld (d : Dev) (k : Nat) (f : Obj → Obj) : (d.onObj k f).hif.mheld = d.hif.mheld := rfl
@[simp] theorem Dev.onObj_hif_mold (d : Dev) (k : Nat) (f : Obj → Obj) : (d.onObj k f).hif.mold = d.hif.mold := rfl
@[simp] theorem Dev.onObj_hif_mgtIntr (d : Dev) (k : Nat) (f : Obj → Obj) :
    (d.onObj k f).hif.mgtIntr = d.hif.mgtIntr := rfl
@[simp] theorem Dev.onObj_hif_submitted (d : Dev) (k : Nat) (f : Obj → Obj) :
    (d.onObj k f).hif.submitted = d.hif.submitted := rfl
@[simp] theorem Dev.onObj_hif_intr (d : Dev) (k : Nat) (f : Obj → Obj) : (d.onObj k f).hif.intr = d.hif.intr := rfl

@[simp] theorem Dev.onEvent_hif_ctxs (d : Dev) (k : Nat) (f : Event → Event) :
    (d.onEvent k f).hif.ctxs = d.hif.ctxs := rfl
@[simp] theorem Dev.onEvent_hif_queues (d : Dev) (k : Nat) (f : Event → Event) :
    (d.onEvent k f).hif.queues = d.hif.queues := rfl
@[simp] theorem Dev.onEvent_hif_objs (d : Dev) (k : Nat) (f : Event → Event) :
    (d.onEvent k f).hif.objs = d.hif.objs := rfl
@[simp] theorem Dev.onEvent_hif_events (d : Dev) (k : Nat) (f : Event → Event) :
    (d.onEvent k f).hif.events = Tbl.adj d.hif.events k f := rfl
@[simp] theorem Dev.onEvent_hif_fns (d : Dev) (k : Nat) (f : Event → Event) : (d.onEvent k f).hif.fns = d.hif.fns := rfl
@[simp] theorem Dev.onEvent_hif_cmds (d : Dev) (k : Nat) (f : Event → Event) :
    (d.onEvent k f).hif.cmds = d.hif.cmds := rfl
@[simp] theorem Dev.onEvent_hif_nextCmd (d : Dev) (k : Nat) (f : Event → Event) :
    (d.onEvent k f).hif.nextCmd = d.hif.nextCmd := rfl
@[simp] theorem Dev.onEvent_hif_cq (d : Dev) (k : Nat) (f : Event → Event) : (d.onEvent k f).hif.cq = d.hif.cq := rfl
@[simp] theorem Dev.onEvent_hif_fr (d : Dev) (k : Nat) (f : Event → Event) : (d.onEvent k f).hif.fr = d.hif.fr := rfl
@[simp] theorem Dev.onEvent_hif_hold (d : Dev) (k : Nat) (f : Event → Event) :
    (d.onEvent k f).hif.hold = d.hif.hold := rfl
@[simp] theorem Dev.onEvent_hif_blockedQ (d : Dev) (k : Nat) (f : Event → Event) :
    (d.onEvent k f).hif.blockedQ = d.hif.blockedQ := rfl
@[simp] theorem Dev.onEvent_hif_episodes (d : Dev) (k : Nat) (f : Event → Event) :
    (d.onEvent k f).hif.episodes = d.hif.episodes := rfl
@[simp] theorem Dev.onEvent_hif_nEpisodes (d : Dev) (k : Nat) (f : Event → Event) :
    (d.onEvent k f).hif.nEpisodes = d.hif.nEpisodes := rfl
@[simp] theorem Dev.onEvent_hif_hostDrop (d : Dev) (k : Nat) (f : Event → Event) :
    (d.onEvent k f).hif.hostDrop = d.hif.hostDrop := rfl
@[simp] theorem Dev.onEvent_hif_mfr (d : Dev) (k : Nat) (f : Event → Event) : (d.onEvent k f).hif.mfr = d.hif.mfr := rfl
@[simp] theorem Dev.onEvent_hif_mgt (d : Dev) (k : Nat) (f : Event → Event) : (d.onEvent k f).hif.mgt = d.hif.mgt := rfl
@[simp] theorem Dev.onEvent_hif_nextMgt (d : Dev) (k : Nat) (f : Event → Event) :
    (d.onEvent k f).hif.nextMgt = d.hif.nextMgt := rfl
@[simp] theorem Dev.onEvent_hif_mcq (d : Dev) (k : Nat) (f : Event → Event) : (d.onEvent k f).hif.mcq = d.hif.mcq := rfl
@[simp] theorem Dev.onEvent_hif_mheld (d : Dev) (k : Nat) (f : Event → Event) :
    (d.onEvent k f).hif.mheld = d.hif.mheld := rfl
@[simp] theorem Dev.onEvent_hif_mold (d : Dev) (k : Nat) (f : Event → Event) :
    (d.onEvent k f).hif.mold = d.hif.mold := rfl
@[simp] theorem Dev.onEvent_hif_mgtIntr (d : Dev) (k : Nat) (f : Event → Event) :
    (d.onEvent k f).hif.mgtIntr = d.hif.mgtIntr := rfl
@[simp] theorem Dev.onEvent_hif_submitted (d : Dev) (k : Nat) (f : Event → Event) :
    (d.onEvent k f).hif.submitted = d.hif.submitted := rfl
@[simp] theorem Dev.onEvent_hif_intr (d : Dev) (k : Nat) (f : Event → Event) :
    (d.onEvent k f).hif.intr = d.hif.intr := rfl

@[simp] theorem Dev.onCmd_hif_ctxs (d : Dev) (k : Nat) (f : Cmd → Cmd) : (d.onCmd k f).hif.ctxs = d.hif.ctxs := rfl
@[simp] theorem Dev.onCmd_hif_queues (d : Dev) (k : Nat) (f : Cmd → Cmd) :
    (d.onCmd k f).hif.queues = d.hif.queues := rfl
@[simp] theorem Dev.onCmd_hif_objs (d : Dev) (k : Nat) (f : Cmd → Cmd) : (d.onCmd k f).hif.objs = d.hif.objs := rfl
@[simp] theorem Dev.onCmd_hif_events (d : Dev) (k : Nat) (f : Cmd → Cmd) :
    (d.onCmd k f).hif.events = d.hif.events := rfl
@[simp] theorem Dev.onCmd_hif_fns (d : Dev) (k : Nat) (f : Cmd → Cmd) : (d.onCmd k f).hif.fns = d.hif.fns := rfl
@[simp] theorem Dev.onCmd_hif_cmds (d : Dev) (k : Nat) (f : Cmd → Cmd) :
    (d.onCmd k f).hif.cmds = Tbl.adj d.hif.cmds k f := rfl
@[simp] theorem Dev.onCmd_hif_nextCmd (d : Dev) (k : Nat) (f : Cmd → Cmd) :
    (d.onCmd k f).hif.nextCmd = d.hif.nextCmd := rfl
@[simp] theorem Dev.onCmd_hif_cq (d : Dev) (k : Nat) (f : Cmd → Cmd) : (d.onCmd k f).hif.cq = d.hif.cq := rfl
@[simp] theorem Dev.onCmd_hif_fr (d : Dev) (k : Nat) (f : Cmd → Cmd) : (d.onCmd k f).hif.fr = d.hif.fr := rfl
@[simp] theorem Dev.onCmd_hif_hold (d : Dev) (k : Nat) (f : Cmd → Cmd) : (d.onCmd k f).hif.hold = d.hif.hold := rfl
@[simp] theorem Dev.onCmd_hif_blockedQ (d : Dev) (k : Nat) (f : Cmd → Cmd) :
    (d.onCmd k f).hif.blockedQ = d.hif.blockedQ := rfl
@[simp] theorem Dev.onCmd_hif_episodes (d : Dev) (k : Nat) (f : Cmd → Cmd) :
    (d.onCmd k f).hif.episodes = d.hif.episodes := rfl
@[simp] theorem Dev.onCmd_hif_nEpisodes (d : Dev) (k : Nat) (f : Cmd → Cmd) :
    (d.onCmd k f).hif.nEpisodes = d.hif.nEpisodes := rfl
@[simp] theorem Dev.onCmd_hif_hostDrop (d : Dev) (k : Nat) (f : Cmd → Cmd) :
    (d.onCmd k f).hif.hostDrop = d.hif.hostDrop := rfl
@[simp] theorem Dev.onCmd_hif_mfr (d : Dev) (k : Nat) (f : Cmd → Cmd) : (d.onCmd k f).hif.mfr = d.hif.mfr := rfl
@[simp] theorem Dev.onCmd_hif_mgt (d : Dev) (k : Nat) (f : Cmd → Cmd) : (d.onCmd k f).hif.mgt = d.hif.mgt := rfl
@[simp] theorem Dev.onCmd_hif_nextMgt (d : Dev) (k : Nat) (f : Cmd → Cmd) :
    (d.onCmd k f).hif.nextMgt = d.hif.nextMgt := rfl
@[simp] theorem Dev.onCmd_hif_mcq (d : Dev) (k : Nat) (f : Cmd → Cmd) : (d.onCmd k f).hif.mcq = d.hif.mcq := rfl
@[simp] theorem Dev.onCmd_hif_mheld (d : Dev) (k : Nat) (f : Cmd → Cmd) : (d.onCmd k f).hif.mheld = d.hif.mheld := rfl
@[simp] theorem Dev.onCmd_hif_mold (d : Dev) (k : Nat) (f : Cmd → Cmd) : (d.onCmd k f).hif.mold = d.hif.mold := rfl
@[simp] theorem Dev.onCmd_hif_mgtIntr (d : Dev) (k : Nat) (f : Cmd → Cmd) :
    (d.onCmd k f).hif.mgtIntr = d.hif.mgtIntr := rfl
@[simp] theorem Dev.onCmd_hif_submitted (d : Dev) (k : Nat) (f : Cmd → Cmd) :
    (d.onCmd k f).hif.submitted = d.hif.submitted := rfl
@[simp] theorem Dev.onCmd_hif_intr (d : Dev) (k : Nat) (f : Cmd → Cmd) : (d.onCmd k f).hif.intr = d.hif.intr := rfl

@[simp] theorem Dev.onFn_hif_ctxs (d : Dev) (n : Nat) (f : Fn → Fn) : (d.onFn n f).hif.ctxs = d.hif.ctxs := rfl
@[simp] theorem Dev.onFn_hif_queues (d : Dev) (n : Nat) (f : Fn → Fn) : (d.onFn n f).hif.queues = d.hif.queues := rfl
@[simp] theorem Dev.onFn_hif_objs (d : Dev) (n : Nat) (f : Fn → Fn) : (d.onFn n f).hif.objs = d.hif.objs := rfl
@[simp] theorem Dev.onFn_hif_events (d : Dev) (n : Nat) (f : Fn → Fn) : (d.onFn n f).hif.events = d.hif.events := rfl
@[simp] theorem Dev.onFn_hif_fns (d : Dev) (n : Nat) (f : Fn → Fn) :
    (d.onFn n f).hif.fns = Tbl.upd Fn.reset d.hif.fns n f := rfl
@[simp] theorem Dev.onFn_hif_cmds (d : Dev) (n : Nat) (f : Fn → Fn) : (d.onFn n f).hif.cmds = d.hif.cmds := rfl
@[simp] theorem Dev.onFn_hif_nextCmd (d : Dev) (n : Nat) (f : Fn → Fn) : (d.onFn n f).hif.nextCmd = d.hif.nextCmd := rfl
@[simp] theorem Dev.onFn_hif_cq (d : Dev) (n : Nat) (f : Fn → Fn) : (d.onFn n f).hif.cq = d.hif.cq := rfl
@[simp] theorem Dev.onFn_hif_fr (d : Dev) (n : Nat) (f : Fn → Fn) : (d.onFn n f).hif.fr = d.hif.fr := rfl
@[simp] theorem Dev.onFn_hif_hold (d : Dev) (n : Nat) (f : Fn → Fn) : (d.onFn n f).hif.hold = d.hif.hold := rfl
@[simp] theorem Dev.onFn_hif_blockedQ (d : Dev) (n : Nat) (f : Fn → Fn) :
    (d.onFn n f).hif.blockedQ = d.hif.blockedQ := rfl
@[simp] theorem Dev.onFn_hif_episodes (d : Dev) (n : Nat) (f : Fn → Fn) :
    (d.onFn n f).hif.episodes = d.hif.episodes := rfl
@[simp] theorem Dev.onFn_hif_nEpisodes (d : Dev) (n : Nat) (f : Fn → Fn) :
    (d.onFn n f).hif.nEpisodes = d.hif.nEpisodes := rfl
@[simp] theorem Dev.onFn_hif_hostDrop (d : Dev) (n : Nat) (f : Fn → Fn) :
    (d.onFn n f).hif.hostDrop = d.hif.hostDrop := rfl
@[simp] theorem Dev.onFn_hif_mfr (d : Dev) (n : Nat) (f : Fn → Fn) : (d.onFn n f).hif.mfr = d.hif.mfr := rfl
@[simp] theorem Dev.onFn_hif_mgt (d : Dev) (n : Nat) (f : Fn → Fn) : (d.onFn n f).hif.mgt = d.hif.mgt := rfl
@[simp] theorem Dev.onFn_hif_nextMgt (d : Dev) (n : Nat) (f : Fn → Fn) : (d.onFn n f).hif.nextMgt = d.hif.nextMgt := rfl
@[simp] theorem Dev.onFn_hif_mcq (d : Dev) (n : Nat) (f : Fn → Fn) : (d.onFn n f).hif.mcq = d.hif.mcq := rfl
@[simp] theorem Dev.onFn_hif_mheld (d : Dev) (n : Nat) (f : Fn → Fn) : (d.onFn n f).hif.mheld = d.hif.mheld := rfl
@[simp] theorem Dev.onFn_hif_mold (d : Dev) (n : Nat) (f : Fn → Fn) : (d.onFn n f).hif.mold = d.hif.mold := rfl
@[simp] theorem Dev.onFn_hif_mgtIntr (d : Dev) (n : Nat) (f : Fn → Fn) : (d.onFn n f).hif.mgtIntr = d.hif.mgtIntr := rfl
@[simp] theorem Dev.onFn_hif_submitted (d : Dev) (n : Nat) (f : Fn → Fn) :
    (d.onFn n f).hif.submitted = d.hif.submitted := rfl
@[simp] theorem Dev.onFn_hif_intr (d : Dev) (n : Nat) (f : Fn → Fn) : (d.onFn n f).hif.intr = d.hif.intr := rfl

@[simp] theorem Dev.onPmu_pwr_pmus (d : Dev) (p : Nat) (f : Pmu → Pmu) :
    (d.onPmu p f).pwr.pmus = Tbl.upd Pmu.reset d.pwr.pmus p f := rfl
@[simp] theorem Dev.onPmu_pwr_pkg (d : Dev) (p : Nat) (f : Pmu → Pmu) : (d.onPmu p f).pwr.pkg = d.pwr.pkg := rfl
@[simp] theorem Dev.onPmu_pwr_entry (d : Dev) (p : Nat) (f : Pmu → Pmu) : (d.onPmu p f).pwr.entry = d.pwr.entry := rfl
@[simp] theorem Dev.onPmu_pwr_reqs (d : Dev) (p : Nat) (f : Pmu → Pmu) : (d.onPmu p f).pwr.reqs = d.pwr.reqs := rfl
@[simp] theorem Dev.onPmu_pwr_grants (d : Dev) (p : Nat) (f : Pmu → Pmu) :
    (d.onPmu p f).pwr.grants = d.pwr.grants := rfl
@[simp] theorem Dev.onPmu_pwr_bookings (d : Dev) (p : Nat) (f : Pmu → Pmu) :
    (d.onPmu p f).pwr.bookings = d.pwr.bookings := rfl
@[simp] theorem Dev.onPmu_pwr_nextBook (d : Dev) (p : Nat) (f : Pmu → Pmu) :
    (d.onPmu p f).pwr.nextBook = d.pwr.nextBook := rfl
@[simp] theorem Dev.onPmu_pwr_pBase (d : Dev) (p : Nat) (f : Pmu → Pmu) : (d.onPmu p f).pwr.pBase = d.pwr.pBase := rfl
@[simp] theorem Dev.onPmu_pwr_inputMw (d : Dev) (p : Nat) (f : Pmu → Pmu) :
    (d.onPmu p f).pwr.inputMw = d.pwr.inputMw := rfl
@[simp] theorem Dev.onPmu_pwr_sweepLeave (d : Dev) (p : Nat) (f : Pmu → Pmu) :
    (d.onPmu p f).pwr.sweepLeave = d.pwr.sweepLeave := rfl
@[simp] theorem Dev.onPmu_pwr_bufEpisode (d : Dev) (p : Nat) (f : Pmu → Pmu) :
    (d.onPmu p f).pwr.bufEpisode = d.pwr.bufEpisode := rfl
@[simp] theorem Dev.onPmu_pwr_capWait (d : Dev) (p : Nat) (f : Pmu → Pmu) :
    (d.onPmu p f).pwr.capWait = d.pwr.capWait := rfl
@[simp] theorem Dev.onPmu_pwr_capBelowAt (d : Dev) (p : Nat) (f : Pmu → Pmu) :
    (d.onPmu p f).pwr.capBelowAt = d.pwr.capBelowAt := rfl
@[simp] theorem Dev.onPmu_pwr_capAt (d : Dev) (p : Nat) (f : Pmu → Pmu) : (d.onPmu p f).pwr.capAt = d.pwr.capAt := rfl
@[simp] theorem Dev.onPmu_pwr_rotate (d : Dev) (p : Nat) (f : Pmu → Pmu) :
    (d.onPmu p f).pwr.rotate = d.pwr.rotate := rfl
@[simp] theorem Dev.onPmu_pwr_rotateAt (d : Dev) (p : Nat) (f : Pmu → Pmu) :
    (d.onPmu p f).pwr.rotateAt = d.pwr.rotateAt := rfl
@[simp] theorem Dev.onPmu_pwr_rangeRec (d : Dev) (p : Nat) (f : Pmu → Pmu) :
    (d.onPmu p f).pwr.rangeRec = d.pwr.rangeRec := rfl
@[simp] theorem Dev.onPmu_pwr_lockout (d : Dev) (p : Nat) (f : Pmu → Pmu) :
    (d.onPmu p f).pwr.lockout = d.pwr.lockout := rfl
@[simp] theorem Dev.onPmu_pwr_measured (d : Dev) (p : Nat) (f : Pmu → Pmu) :
    (d.onPmu p f).pwr.measured = d.pwr.measured := rfl
@[simp] theorem Dev.onPmu_pwr_inputNj (d : Dev) (p : Nat) (f : Pmu → Pmu) :
    (d.onPmu p f).pwr.inputNj = d.pwr.inputNj := rfl
@[simp] theorem Dev.onPmu_pwr_unattrUj (d : Dev) (p : Nat) (f : Pmu → Pmu) :
    (d.onPmu p f).pwr.unattrUj = d.pwr.unattrUj := rfl
@[simp] theorem Dev.onPmu_pwr_railUj (d : Dev) (p : Nat) (f : Pmu → Pmu) :
    (d.onPmu p f).pwr.railUj = d.pwr.railUj := rfl

@[simp] theorem Dev.onAst_comp_epoch (d : Dev) (a : Nat) (f : Ast → Ast) :
    (d.onAst a f).comp.epoch = d.comp.epoch := rfl
@[simp] theorem Dev.onAst_comp_prevEpoch (d : Dev) (a : Nat) (f : Ast → Ast) :
    (d.onAst a f).comp.prevEpoch = d.comp.prevEpoch := rfl
@[simp] theorem Dev.onAst_comp_twoLive (d : Dev) (a : Nat) (f : Ast → Ast) :
    (d.onAst a f).comp.twoLive = d.comp.twoLive := rfl
@[simp] theorem Dev.onAst_comp_modeEpoch (d : Dev) (a : Nat) (f : Ast → Ast) :
    (d.onAst a f).comp.modeEpoch = d.comp.modeEpoch := rfl
@[simp] theorem Dev.onAst_comp_asts (d : Dev) (a : Nat) (f : Ast → Ast) :
    (d.onAst a f).comp.asts = Tbl.upd Ast.reset d.comp.asts a f := rfl
@[simp] theorem Dev.onAst_comp_chans (d : Dev) (a : Nat) (f : Ast → Ast) :
    (d.onAst a f).comp.chans = d.comp.chans := rfl
@[simp] theorem Dev.onAst_comp_slices (d : Dev) (a : Nat) (f : Ast → Ast) :
    (d.onAst a f).comp.slices = d.comp.slices := rfl
@[simp] theorem Dev.onAst_comp_adopted (d : Dev) (a : Nat) (f : Ast → Ast) :
    (d.onAst a f).comp.adopted = d.comp.adopted := rfl
@[simp] theorem Dev.onAst_comp_adoptAt (d : Dev) (a : Nat) (f : Ast → Ast) :
    (d.onAst a f).comp.adoptAt = d.comp.adoptAt := rfl
@[simp] theorem Dev.onAst_comp_drainLate (d : Dev) (a : Nat) (f : Ast → Ast) :
    (d.onAst a f).comp.drainLate = d.comp.drainLate := rfl
@[simp] theorem Dev.onAst_comp_waiting (d : Dev) (a : Nat) (f : Ast → Ast) :
    (d.onAst a f).comp.waiting = d.comp.waiting := rfl
@[simp] theorem Dev.onAst_comp_moves (d : Dev) (a : Nat) (f : Ast → Ast) :
    (d.onAst a f).comp.moves = d.comp.moves := rfl
@[simp] theorem Dev.onAst_comp_mode (d : Dev) (a : Nat) (f : Ast → Ast) : (d.onAst a f).comp.mode = d.comp.mode := rfl
@[simp] theorem Dev.onAst_comp_leaving (d : Dev) (a : Nat) (f : Ast → Ast) :
    (d.onAst a f).comp.leaving = d.comp.leaving := rfl
@[simp] theorem Dev.onAst_comp_scrubbing (d : Dev) (a : Nat) (f : Ast → Ast) :
    (d.onAst a f).comp.scrubbing = d.comp.scrubbing := rfl
@[simp] theorem Dev.onAst_comp_lastDrainUs (d : Dev) (a : Nat) (f : Ast → Ast) :
    (d.onAst a f).comp.lastDrainUs = d.comp.lastDrainUs := rfl
@[simp] theorem Dev.onAst_comp_lastPublishUs (d : Dev) (a : Nat) (f : Ast → Ast) :
    (d.onAst a f).comp.lastPublishUs = d.comp.lastPublishUs := rfl
@[simp] theorem Dev.onAst_comp_snapAt (d : Dev) (a : Nat) (f : Ast → Ast) :
    (d.onAst a f).comp.snapAt = d.comp.snapAt := rfl
@[simp] theorem Dev.onAst_comp_snaps (d : Dev) (a : Nat) (f : Ast → Ast) :
    (d.onAst a f).comp.snaps = d.comp.snaps := rfl
@[simp] theorem Dev.onAst_comp_swaps (d : Dev) (a : Nat) (f : Ast → Ast) :
    (d.onAst a f).comp.swaps = d.comp.swaps := rfl
@[simp] theorem Dev.onAst_comp_sliceOut (d : Dev) (a : Nat) (f : Ast → Ast) :
    (d.onAst a f).comp.sliceOut = d.comp.sliceOut := rfl
@[simp] theorem Dev.onAst_comp_sliceIn (d : Dev) (a : Nat) (f : Ast → Ast) :
    (d.onAst a f).comp.sliceIn = d.comp.sliceIn := rfl

@[simp] theorem Dev.onLink_cxl_links (d : Dev) (k : Nat) (f : Link → Link) :
    (d.onLink k f).cxl.links = Tbl.upd Link.reset d.cxl.links k f := rfl
@[simp] theorem Dev.onLink_cxl_partners (d : Dev) (k : Nat) (f : Link → Link) :
    (d.onLink k f).cxl.partners = d.cxl.partners := rfl
@[simp] theorem Dev.onLink_cxl_pool (d : Dev) (k : Nat) (f : Link → Link) : (d.onLink k f).cxl.pool = d.cxl.pool := rfl
@[simp] theorem Dev.onLink_cxl_poolTurn (d : Dev) (k : Nat) (f : Link → Link) :
    (d.onLink k f).cxl.poolTurn = d.cxl.poolTurn := rfl
@[simp] theorem Dev.onLink_cxl_bi (d : Dev) (k : Nat) (f : Link → Link) : (d.onLink k f).cxl.bi = d.cxl.bi := rfl
@[simp] theorem Dev.onLink_cxl_answers (d : Dev) (k : Nat) (f : Link → Link) :
    (d.onLink k f).cxl.answers = d.cxl.answers := rfl
@[simp] theorem Dev.onLink_cxl_memInfoValid (d : Dev) (k : Nat) (f : Link → Link) :
    (d.onLink k f).cxl.memInfoValid = d.cxl.memInfoValid := rfl
@[simp] theorem Dev.onLink_cxl_tdiLog (d : Dev) (k : Nat) (f : Link → Link) :
    (d.onLink k f).cxl.tdiLog = d.cxl.tdiLog := rfl

@[simp] theorem Dev.onPartner_cxl_links (d : Dev) (e : Nat) (f : Partner → Partner) :
    (d.onPartner e f).cxl.links = d.cxl.links := rfl
@[simp] theorem Dev.onPartner_cxl_partners (d : Dev) (e : Nat) (f : Partner → Partner) :
    (d.onPartner e f).cxl.partners = Tbl.upd Partner.reset d.cxl.partners e f := rfl
@[simp] theorem Dev.onPartner_cxl_pool (d : Dev) (e : Nat) (f : Partner → Partner) :
    (d.onPartner e f).cxl.pool = d.cxl.pool := rfl
@[simp] theorem Dev.onPartner_cxl_poolTurn (d : Dev) (e : Nat) (f : Partner → Partner) :
    (d.onPartner e f).cxl.poolTurn = d.cxl.poolTurn := rfl
@[simp] theorem Dev.onPartner_cxl_bi (d : Dev) (e : Nat) (f : Partner → Partner) :
    (d.onPartner e f).cxl.bi = d.cxl.bi := rfl
@[simp] theorem Dev.onPartner_cxl_answers (d : Dev) (e : Nat) (f : Partner → Partner) :
    (d.onPartner e f).cxl.answers = d.cxl.answers := rfl
@[simp] theorem Dev.onPartner_cxl_memInfoValid (d : Dev) (e : Nat) (f : Partner → Partner) :
    (d.onPartner e f).cxl.memInfoValid = d.cxl.memInfoValid := rfl
@[simp] theorem Dev.onPartner_cxl_tdiLog (d : Dev) (e : Nat) (f : Partner → Partner) :
    (d.onPartner e f).cxl.tdiLog = d.cxl.tdiLog := rfl

@[simp] theorem Dev.raise_ras_ring (d : Dev) (code unit sub : Nat) (sev : Sev) (l : List Nat) (who : Option (Nat × Nat)) :
    (d.raise code unit sub sev l who).ras.ring = d.ras.ring := rfl
@[simp] theorem Dev.raise_ras_heldBoot (d : Dev) (code unit sub : Nat) (sev : Sev) (l : List Nat) (who : Option (Nat × Nat)) :
    (d.raise code unit sub sev l who).ras.heldBoot = d.ras.heldBoot := rfl
@[simp] theorem Dev.raise_ras_flash (d : Dev) (code unit sub : Nat) (sev : Sev) (l : List Nat) (who : Option (Nat × Nat)) :
    (d.raise code unit sub sev l who).ras.flash = d.ras.flash := rfl
@[simp] theorem Dev.raise_ras_seq (d : Dev) (code unit sub : Nat) (sev : Sev) (l : List Nat) (who : Option (Nat × Nat)) :
    (d.raise code unit sub sev l who).ras.seq = d.ras.seq := rfl
@[simp] theorem Dev.raise_ras_lost (d : Dev) (code unit sub : Nat) (sev : Sev) (l : List Nat) (who : Option (Nat × Nat)) :
    (d.raise code unit sub sev l who).ras.lost = d.ras.lost := rfl
@[simp] theorem Dev.raise_ras_critLost (d : Dev) (code unit sub : Nat) (sev : Sev) (l : List Nat) (who : Option (Nat × Nat)) :
    (d.raise code unit sub sev l who).ras.critLost = d.ras.critLost := rfl
@[simp] theorem Dev.raise_ras_overflow (d : Dev) (code unit sub : Nat) (sev : Sev) (l : List Nat) (who : Option (Nat × Nat)) :
    (d.raise code unit sub sev l who).ras.overflow = d.ras.overflow := rfl
@[simp] theorem Dev.raise_ras_notices (d : Dev) (code unit sub : Nat) (sev : Sev) (l : List Nat) (who : Option (Nat × Nat)) :
    (d.raise code unit sub sev l who).ras.notices = d.ras.notices := rfl
@[simp] theorem Dev.raise_ras_noticeSeq (d : Dev) (code unit sub : Nat) (sev : Sev) (l : List Nat) (who : Option (Nat × Nat)) :
    (d.raise code unit sub sev l who).ras.noticeSeq = d.ras.noticeSeq := rfl
@[simp] theorem Dev.raise_ras_noticeBox (d : Dev) (code unit sub : Nat) (sev : Sev) (l : List Nat) (who : Option (Nat × Nat)) :
    (d.raise code unit sub sev l who).ras.noticeBox = d.ras.noticeBox := rfl
@[simp] theorem Dev.raise_ras_rates (d : Dev) (code unit sub : Nat) (sev : Sev) (l : List Nat) (who : Option (Nat × Nat)) :
    (d.raise code unit sub sev l who).ras.rates = d.ras.rates := rfl
@[simp] theorem Dev.raise_ras_dump (d : Dev) (code unit sub : Nat) (sev : Sev) (l : List Nat) (who : Option (Nat × Nat)) :
    (d.raise code unit sub sev l who).ras.dump = d.ras.dump := rfl
@[simp] theorem Dev.raise_ras_dumps (d : Dev) (code unit sub : Nat) (sev : Sev) (l : List Nat) (who : Option (Nat × Nat)) :
    (d.raise code unit sub sev l who).ras.dumps = d.ras.dumps := rfl
@[simp] theorem Dev.raise_ras_sets (d : Dev) (code unit sub : Nat) (sev : Sev) (l : List Nat) (who : Option (Nat × Nat)) :
    (d.raise code unit sub sev l who).ras.sets = d.ras.sets := rfl
@[simp] theorem Dev.raise_ras_noProg (d : Dev) (code unit sub : Nat) (sev : Sev) (l : List Nat) (who : Option (Nat × Nat)) :
    (d.raise code unit sub sev l who).ras.noProg = d.ras.noProg := rfl
@[simp] theorem Dev.raise_ras_resets (d : Dev) (code unit sub : Nat) (sev : Sev) (l : List Nat) (who : Option (Nat × Nat)) :
    (d.raise code unit sub sev l who).ras.resets = d.ras.resets := rfl
@[simp] theorem Dev.raise_ras_powerCycle (d : Dev) (code unit sub : Nat) (sev : Sev) (l : List Nat) (who : Option (Nat × Nat)) :
    (d.raise code unit sub sev l who).ras.powerCycle = d.ras.powerCycle := rfl

@[simp] theorem Dev.reply_fw_imageState (d : Dev) (k : Nat) (l : List Nat) :
    (d.reply k l).fw.imageState = d.fw.imageState := rfl
@[simp] theorem Dev.reply_fw_image (d : Dev) (k : Nat) (l : List Nat) : (d.reply k l).fw.image = d.fw.image := rfl
@[simp] theorem Dev.reply_fw_ram (d : Dev) (k : Nat) (l : List Nat) : (d.reply k l).fw.ram = d.fw.ram := rfl
@[simp] theorem Dev.reply_fw_floorB (d : Dev) (k : Nat) (l : List Nat) : (d.reply k l).fw.floorB = d.fw.floorB := rfl
@[simp] theorem Dev.reply_fw_floorR (d : Dev) (k : Nat) (l : List Nat) : (d.reply k l).fw.floorR = d.fw.floorR := rfl
@[simp] theorem Dev.reply_fw_update (d : Dev) (k : Nat) (l : List Nat) : (d.reply k l).fw.update = d.fw.update := rfl
@[simp] theorem Dev.reply_fw_bootStep (d : Dev) (k : Nat) (l : List Nat) :
    (d.reply k l).fw.bootStep = d.fw.bootStep := rfl
@[simp] theorem Dev.reply_fw_bootAt (d : Dev) (k : Nat) (l : List Nat) : (d.reply k l).fw.bootAt = d.fw.bootAt := rfl
@[simp] theorem Dev.reply_fw_cold (d : Dev) (k : Nat) (l : List Nat) : (d.reply k l).fw.cold = d.fw.cold := rfl
@[simp] theorem Dev.reply_fw_stopped (d : Dev) (k : Nat) (l : List Nat) : (d.reply k l).fw.stopped = d.fw.stopped := rfl
@[simp] theorem Dev.reply_fw_recovery (d : Dev) (k : Nat) (l : List Nat) :
    (d.reply k l).fw.recovery = d.fw.recovery := rfl
@[simp] theorem Dev.reply_fw_refused (d : Dev) (k : Nat) (l : List Nat) : (d.reply k l).fw.refused = d.fw.refused := rfl
@[simp] theorem Dev.reply_fw_tid (d : Dev) (k : Nat) (l : List Nat) : (d.reply k l).fw.tid = d.fw.tid := rfl
@[simp] theorem Dev.reply_fw_eid (d : Dev) (k : Nat) (l : List Nat) : (d.reply k l).fw.eid = d.fw.eid := rfl
@[simp] theorem Dev.reply_fw_events (d : Dev) (k : Nat) (l : List Nat) : (d.reply k l).fw.events = d.fw.events := rfl
@[simp] theorem Dev.reply_fw_answer (d : Dev) (k : Nat) (l : List Nat) : (d.reply k l).fw.answer = some (k, l) := rfl

end Sys2Proof.Machine
end

