-- ==== Sys2Proof/Laws/Registers.lean ====
section
/-!
SUPPORT. Laws of the device's accessors: a register field, a core, a stack, an asterism and so on, read after a change.
-/

namespace Sys2Proof.Machine

/-! ### Set-up registers -/

theorem Dev.reg_setReg_same (d : Dev) (off w : Nat) : (d.setReg off w).reg off = w % 2 ^ 64 := by
  simp [Dev.reg, Dev.setReg]

theorem Dev.reg_setReg_other (d : Dev) (off o w : Nat) (h : o ≠ off) : (d.setReg off w).reg o = d.reg o := by
  simp [Dev.reg, Dev.setReg, Tbl.find_put_other _ _ _ _ h]

/-- A field inside a 64-bit register reads what was written to it. -/
theorem Dev.get_set_same (d : Dev) (f : Fld) (v : Nat) (h : f.lo + f.w ≤ 64) : (d.set f v).get f = v % 2 ^ f.w := by
  unfold Dev.get Dev.set
  rw [Dev.reg_setReg_same, bits_mod _ _ _ _ h, bits_setBits_same]

/-- A field of another register keeps its value. -/
theorem Dev.get_set_other (d : Dev) (f g : Fld) (v : Nat) (h : g.off ≠ f.off) : (d.set f v).get g = d.get g := by
  unfold Dev.get Dev.set
  rw [Dev.reg_setReg_other _ _ _ _ h]

/-- Another field of the same register keeps its value. -/
theorem Dev.get_set_apart (d : Dev) (f g : Fld) (v : Nat) (ho : g.off = f.off)
    (hd : g.lo + g.w ≤ f.lo ∨ f.lo + f.w ≤ g.lo) (hg : g.lo + g.w ≤ 64) : (d.set f v).get g = d.get g := by
  unfold Dev.get Dev.set
  rw [ho, Dev.reg_setReg_same, bits_mod _ _ _ _ hg]
  rcases hd with h | h
  · exact bits_setBits_below _ _ _ _ _ _ h
  · exact bits_setBits_above _ _ _ _ _ _ h

/-- A field reads the same in two devices whose registers are the same. -/
theorem Dev.get_congr {d e : Dev} (h : e.regs = d.regs) (f : Fld) : e.get f = d.get f := by
  simp only [Dev.get, Dev.reg, h]

/-! ### Units and tables -/

@[simp] theorem Dev.coreAt_onCore_same (d : Dev) (c : Nat) (f : Core → Core) : (d.onCore c f).coreAt c = f (d.coreAt c) := by
  simp [Dev.coreAt, Dev.onCore]
theorem Dev.coreAt_onCore_other (d : Dev) (c k : Nat) (f : Core → Core) (h : k ≠ c) :
    (d.onCore c f).coreAt k = d.coreAt k := by
  simp [Dev.coreAt, Dev.onCore, Tbl.look_upd_other _ _ _ _ _ h]
@[simp] theorem Dev.coreAt_onTile_same (d : Dev) (c : Nat) (f : Tile → Tile) :
    (d.onTile c f).coreAt c = { d.coreAt c with tile := (d.coreAt c).tile.map f } := by
  simp [Dev.onTile]
theorem Dev.coreAt_onTile_other (d : Dev) (c k : Nat) (f : Tile → Tile) (h : k ≠ c) :
    (d.onTile c f).coreAt k = d.coreAt k := Dev.coreAt_onCore_other _ _ _ _ h

@[simp] theorem Dev.stack_onStack_same (d : Dev) (s : Nat) (f : Stack → Stack) : (d.onStack s f).stack s = f (d.stack s) := by
  simp [Dev.stack, Dev.onStack]
theorem Dev.stack_onStack_other (d : Dev) (s k : Nat) (f : Stack → Stack) (h : k ≠ s) :
    (d.onStack s f).stack k = d.stack k := by
  simp [Dev.stack, Dev.onStack, Tbl.look_upd_other _ _ _ _ _ h]

@[simp] theorem Dev.ast_onAst_same (d : Dev) (a : Nat) (f : Ast → Ast) : (d.onAst a f).ast a = f (d.ast a) := by
  simp [Dev.ast, Dev.onAst]
theorem Dev.ast_onAst_other (d : Dev) (a k : Nat) (f : Ast → Ast) (h : k ≠ a) : (d.onAst a f).ast k = d.ast k := by
  simp [Dev.ast, Dev.onAst, Tbl.look_upd_other _ _ _ _ _ h]

@[simp] theorem Dev.pmu_onPmu_same (d : Dev) (p : Nat) (f : Pmu → Pmu) : (d.onPmu p f).pmu p = f (d.pmu p) := by
  simp [Dev.pmu, Dev.onPmu]
theorem Dev.pmu_onPmu_other (d : Dev) (p k : Nat) (f : Pmu → Pmu) (h : k ≠ p) : (d.onPmu p f).pmu k = d.pmu k := by
  simp [Dev.pmu, Dev.onPmu, Tbl.look_upd_other _ _ _ _ _ h]

@[simp] theorem Dev.link_onLink_same (d : Dev) (k : Nat) (f : Link → Link) : (d.onLink k f).link k = f (d.link k) := by
  simp [Dev.link, Dev.onLink]
theorem Dev.link_onLink_other (d : Dev) (k j : Nat) (f : Link → Link) (h : j ≠ k) : (d.onLink k f).link j = d.link j := by
  simp [Dev.link, Dev.onLink, Tbl.look_upd_other _ _ _ _ _ h]

@[simp] theorem Dev.partner_onPartner_same (d : Dev) (e : Nat) (f : Partner → Partner) :
    (d.onPartner e f).partner e = f (d.partner e) := by
  simp [Dev.partner, Dev.onPartner]
theorem Dev.partner_onPartner_other (d : Dev) (e k : Nat) (f : Partner → Partner) (h : k ≠ e) :
    (d.onPartner e f).partner k = d.partner k := by
  simp [Dev.partner, Dev.onPartner, Tbl.look_upd_other _ _ _ _ _ h]

@[simp] theorem Dev.fn_onFn_same (d : Dev) (n : Nat) (f : Fn → Fn) : (d.onFn n f).fn n = f (d.fn n) := by
  simp [Dev.fn, Dev.onFn]
theorem Dev.fn_onFn_other (d : Dev) (n k : Nat) (f : Fn → Fn) (h : k ≠ n) : (d.onFn n f).fn k = d.fn k := by
  simp [Dev.fn, Dev.onFn, Tbl.look_upd_other _ _ _ _ _ h]

end Sys2Proof.Machine
end

