-- ==== Sys2Proof/Laws/Mgt.lean ====
section
/-!
SUPPORT. Laws of management commands: what a record that completes one leaves of the device.
-/

namespace Sys2Proof

open Sys2Proof.Machine

theorem Reports.of {d e : Dev}
    (h : { d with
      regs := e.regs, fresh := e.fresh, ras := { d.ras with box := e.ras.box }, hif := { d.hif with
        mgt := e.hif.mgt, mcq := e.hif.mcq, mheld := e.hif.mheld, mgtIntr := e.hif.mgtIntr, intr := e.hif.intr
        submitted := e.hif.submitted } } = e)
    (h2 : ∀ f : Fld, f.off ≠ MGT_CQ_TAIL.TAIL.off → e.get f = d.get f) : Reports d e := ⟨⟨e, e, h⟩, h2⟩

theorem Reports.refl (d : Dev) : Reports d d := .of rfl fun _ _ => rfl

theorem Reports.trans {d e f : Dev} (h : Reports d e) (g : Reports e f) : Reports d f := by
  obtain ⟨⟨r, x, rfl⟩, h2⟩ := h
  obtain ⟨⟨r', x', rfl⟩, g2⟩ := g
  exact ⟨⟨_, _, rfl⟩, fun f hf => (g2 f hf).trans (h2 f hf)⟩

theorem Reports.raise (d : Dev) (code unit sub : Nat) (sev : Sev) (l : List Nat) (who : Option (Nat × Nat)) :
    Reports d (d.raise code unit sub sev l who) := .of rfl fun _ _ => rfl

theorem Reports.mgtPut (d : Dev) (now : Nat) (r : CRec) : Reports d (d.mgtPut now r) := by
  simp only [Dev.mgtPut]
  repeat' split
  all_goals exact .of rfl fun f hf => Dev.get_set_other _ _ _ _ hf

theorem Reports.mgtWrite (d : Dev) (now : Nat) (r : CRec) : Reports d (d.mgtWrite now r) := by
  unfold Dev.mgtWrite
  split
  · exact .refl d
  · split
    · exact .mgtPut d now r
    · exact .of rfl fun _ _ => rfl

/-- A management command that completes changes nothing but records. -/
theorem Reports.mgtDone (d : Dev) (now k : Nat) (st : CStatus) (r : Reason) (err kind energy aux : Nat) :
    Reports d (d.mgtDone now k st r err kind energy aux) := by
  unfold Dev.mgtDone
  split
  · exact .refl d
  · dsimp only
    split
    · exact .of rfl fun _ _ => rfl
    · refine Reports.trans ?_ (.mgtWrite _ now _)
      exact .of rfl fun _ _ => rfl

/-- A management command that is refused changes nothing but records. -/
theorem Reports.mgtRefuse (d : Dev) (now k err : Nat) (l : List Nat) (r : Reason) (who : Option (Nat × Nat)) :
    Reports d (d.mgtRefuse now k err l r who) :=
  .trans (.raise ..) (.mgtDone ..)

theorem mgtWrite_mgt (d : Dev) (now : Nat) (r : CRec) : (d.mgtWrite now r).hif.mgt = d.hif.mgt := by
  unfold Dev.mgtWrite
  split
  · rfl
  · split
    · simp only [Dev.mgtPut]; (repeat' split) <;> rfl
    · rfl

/-- A management command that completes leaves firmware's hands. -/
theorem mgtDone_gone (d : Dev) (now k : Nat) (st : CStatus) (r : Reason) (err kind energy aux : Nat) :
    Tbl.find (d.mgtDone now k st r err kind energy aux).hif.mgt k = none := by
  unfold Dev.mgtDone
  split
  · assumption
  · dsimp only
    split
    · simp [Dev.draw]
    · rw [mgtWrite_mgt]; simp

theorem mgtRefuse_gone (d : Dev) (now k err : Nat) (l : List Nat) (r : Reason) (who : Option (Nat × Nat)) :
    Tbl.find (d.mgtRefuse now k err l r who).hif.mgt k = none := mgtDone_gone ..

section
variable (d : Dev) (now k : Nat) (st : CStatus) (r : Reason) (err kind energy aux : Nat)

@[simp] theorem mgtDone_core : (d.mgtDone now k st r err kind energy aux).core = d.core := by
  obtain ⟨⟨_, _, h⟩, -⟩ := Reports.mgtDone d now k st r err kind energy aux; rw [← h]
@[simp] theorem mgtDone_mem : (d.mgtDone now k st r err kind energy aux).mem = d.mem := by
  obtain ⟨⟨_, _, h⟩, -⟩ := Reports.mgtDone d now k st r err kind energy aux; rw [← h]
@[simp] theorem mgtDone_stk : (d.mgtDone now k st r err kind energy aux).stk = d.stk := by
  obtain ⟨⟨_, _, h⟩, -⟩ := Reports.mgtDone d now k st r err kind energy aux; rw [← h]
@[simp] theorem mgtDone_net : (d.mgtDone now k st r err kind energy aux).net = d.net := by
  obtain ⟨⟨_, _, h⟩, -⟩ := Reports.mgtDone d now k st r err kind energy aux; rw [← h]
@[simp] theorem mgtDone_comp : (d.mgtDone now k st r err kind energy aux).comp = d.comp := by
  obtain ⟨⟨_, _, h⟩, -⟩ := Reports.mgtDone d now k st r err kind energy aux; rw [← h]
@[simp] theorem mgtDone_pwr : (d.mgtDone now k st r err kind energy aux).pwr = d.pwr := by
  obtain ⟨⟨_, _, h⟩, -⟩ := Reports.mgtDone d now k st r err kind energy aux; rw [← h]
@[simp] theorem mgtDone_cxl : (d.mgtDone now k st r err kind energy aux).cxl = d.cxl := by
  obtain ⟨⟨_, _, h⟩, -⟩ := Reports.mgtDone d now k st r err kind energy aux; rw [← h]
@[simp] theorem mgtDone_lcs : (d.mgtDone now k st r err kind energy aux).lcs = d.lcs := by
  obtain ⟨⟨_, _, h⟩, -⟩ := Reports.mgtDone d now k st r err kind energy aux; rw [← h]
@[simp] theorem mgtDone_ras : (d.mgtDone now k st r err kind energy aux).ras = d.ras := by
  unfold Dev.mgtDone
  split
  · rfl
  · dsimp only
    split
    · rfl
    · unfold Dev.mgtWrite
      split
      · rfl
      · split
        · simp only [Dev.mgtPut]; (repeat' split) <;> rfl
        · rfl
@[simp] theorem mgtDone_fns : (d.mgtDone now k st r err kind energy aux).hif.fns = d.hif.fns := by
  obtain ⟨⟨_, _, h⟩, -⟩ := Reports.mgtDone d now k st r err kind energy aux; rw [← h]
@[simp] theorem mgtDone_ctxs : (d.mgtDone now k st r err kind energy aux).hif.ctxs = d.hif.ctxs := by
  obtain ⟨⟨_, _, h⟩, -⟩ := Reports.mgtDone d now k st r err kind energy aux; rw [← h]
@[simp] theorem mgtDone_cmds : (d.mgtDone now k st r err kind energy aux).hif.cmds = d.hif.cmds := by
  obtain ⟨⟨_, _, h⟩, -⟩ := Reports.mgtDone d now k st r err kind energy aux; rw [← h]
@[simp] theorem mgtDone_ast (a : Nat) : (d.mgtDone now k st r err kind energy aux).ast a = d.ast a := by
  simp [Dev.ast]
@[simp] theorem mgtDone_fn (f : Nat) : (d.mgtDone now k st r err kind energy aux).fn f = d.fn f := by
  simp [Dev.fn]
theorem mgtDone_get (f : Fld) (h : f.off ≠ MGT_CQ_TAIL.TAIL.off) :
    (d.mgtDone now k st r err kind energy aux).get f = d.get f :=
  (Reports.mgtDone d now k st r err kind energy aux).2 f h
end

end Sys2Proof
end

