-- ==== Sys2Proof/Laws/Races.lean ====
section
/-!
SUPPORT. Laws of races and of undefined bytes: what `seen`, `collide`, `settle` and `spoilAll` leave as it was.
-/

namespace Sys2Proof.Machine

/-! ### Free values in a tile -/

/-- Two tiles that differ in scratchpad, accumulators, flags and order at most. -/
def Tile.SameRest (t u : Tile) : Prop :=
  { u with spad := t.spad, written := t.written, acc := t.acc, valid := t.valid, flags := t.flags, order := t.order } = t

theorem Tile.SameRest.refl (t : Tile) : t.SameRest t := rfl

theorem Tile.SameRest.trans {t u v : Tile} (h : t.SameRest u) (k : u.SameRest v) : t.SameRest v := by
  unfold Tile.SameRest at *
  rw [← k] at h
  exact h

theorem Tile.wr_rest (t : Tile) (a : Nat) (bs : List Byte) : t.SameRest (t.wr a bs) := rfl
theorem Tile.setRow_rest (t : Tile) (e r : Nat) (vs : List Nat) : t.SameRest (t.setRow e r vs) := rfl

theorem foldl_rest {α : Type} (f : Tile → α → Tile) (hf : ∀ t a, Tile.SameRest t (f t a)) (l : List α) :
    ∀ t, Tile.SameRest t (l.foldl f t) := by
  induction l with
  | nil => exact Tile.SameRest.refl
  | cons a l ih => exact fun t => (hf t a).trans (ih _)

theorem Tile.blur1_rest (n b : Nat) (t : Tile) (x : Span) : t.SameRest (t.blur1 n b x) := by
  unfold Tile.blur1
  split
  · exact t.wr_rest _ _
  · exact foldl_rest _ (fun u i => u.setRow_rest _ _ _) _ t

theorem Tile.blur_rest (n b : Nat) (l : List Span) (t : Tile) : t.SameRest (t.blur n b l) :=
  foldl_rest _ (fun u x => u.blur1_rest n b x) l t

@[simp] theorem Tile.blur_nil (n b : Nat) (t : Tile) : t.blur n b [] = t := rfl

theorem Tile.markRaced_rest (t : Tile) (n : Nat) (f : Foot) (l : List Span) : t.SameRest (t.markRaced n f l) := rfl
theorem Tile.flags_rest (t : Tile) (x : Nat) : t.SameRest { t with flags := x } := rfl

/-- A collision leaves all but scratchpad, accumulators, flags and order. -/
theorem Tile.collide_rest (t : Tile) (m n : Nat) (f : Foot) : t.SameRest (t.collide m n f) := by
  unfold Tile.collide
  simp only
  split
  · exact .refl t
  · have h := (t.blur_rest m 1 (t.racing n f)).trans (Tile.blur_rest m 2 ((t.drawn n f).flatMap (·.writes)) _)
    have h' := h.trans (Tile.markRaced_rest _ n f (t.racing n f))
    split
    · exact h'
    · exact h'.trans (Tile.flags_rest _ _)

/-- Where nothing races, a collision leaves the tile. -/
theorem Tile.collide_nil (t : Tile) (m n : Nat) (f : Foot) (h : t.racing n f = []) : t.collide m n f = t := by
  unfold Tile.collide
  simp [h]

/-! ### The step's view, and the settled tile -/

theorem Tile.seen_rest (t : Tile) (m : Nat) (w : StepWord) : t.SameRest (t.seen m w) := by
  have look : ∀ t : Tile, t.SameRest (if (footOf t w).unit = 5 then t else t.blur m 0 (t.racing t.order.nth (footOf t w))) := by
    intro t
    split
    · exact .refl t
    · exact t.blur_rest _ _ _
  exact (look t).trans (look _)

/-- A step of the sequencer's own, or of the transfer engine, sees the tile as it is. -/
theorem Tile.seen_of_unit (t : Tile) (m : Nat) (w : StepWord) (h : (footOf t w).unit = 5) : t.seen m w = t := by
  simp [Tile.seen, h]

/-- Before a tile has touched anything, no step races. -/
theorem Tile.racing_calm (t : Tile) (n : Nat) (f : Foot) (h1 : t.order.log = []) (h2 : t.danger = []) : t.racing n f = [] := by
  have h3 : overlaps (f.reads ++ f.writes) t.danger = [] := by
    rw [h2]
    simp [overlaps]
  simp [Tile.racing, Tile.clashes, h1, h3]

theorem Tile.seen_calm (t : Tile) (m : Nat) (w : StepWord) (h1 : t.order.log = []) (h2 : t.danger = []) : t.seen m w = t := by
  simp [Tile.seen, t.racing_calm _ _ h1 h2]

/-- A step that does not race sees the tile as it is. -/
theorem Tile.seen_of_not_races (t : Tile) (m : Nat) (w : StepWord) (h : t.races w = false) : t.seen m w = t := by
  have h' : t.racing t.order.nth (footOf t w) = [] := by simpa [Tile.races] using h
  simp [Tile.seen, h']

theorem Tile.ordered_rest (t : Tile) (p : Ends → Bool) : t.SameRest (t.ordered p) := rfl

theorem Tile.orders_rest (t : Tile) (w : StepWord) : t.SameRest (t.orders w) := by
  unfold Tile.orders
  split <;> rfl

theorem Tile.touch_rest (t : Tile) (n : Nat) (f : Foot) (x : Nat) (e : Ends) : t.SameRest (t.touch n f x e) := by
  unfold Tile.touch
  split <;> rfl

/-- Settling leaves all but scratchpad, accumulators, flags and order. -/
theorem Tile.settle_rest (t : Tile) (m : Nat) (w : StepWord) (u : Tile) : u.SameRest (t.settle m w u) := by
  unfold Tile.settle
  simp only
  have h := (u.collide_rest m t.order.nth (footOf t w)).trans (Tile.orders_rest _ w)
  split
  · exact (h.trans (Tile.touch_rest _ _ _ _ _)).trans rfl
  · exact h.trans rfl

/-! ### Undefined bytes in memory -/

theorem Dev.memWf_spoilLine (d : Dev) (t : Tags) (space va len : Nat) (h : d.memWf) : (d.spoilLine t space va len).memWf := by
  unfold Dev.spoilLine Dev.draw
  simp only
  split
  · split
    · exact h
    · split
      · exact h
      · exact Dev.memWf_putGran _ _ _ _ h
  · split
    · exact h
    · split
      · exact h
      · exact Dev.memWf_setSgran _ _ _ h

theorem Dev.memWf_spoil (t : Tags) (n : Nat) : ∀ (g : Target) (d : Dev), d.memWf → (Dev.spoil t n g d).memWf := by
  induction n with
  | zero => exact fun _ _ h => h
  | succ n ih =>
    intro g d h
    unfold Dev.spoil
    split
    · exact h
    · exact ih _ _ (d.memWf_spoilLine _ _ _ _ h)

/-- Spoiling keeps the memories' canonical form. -/
theorem Dev.memWf_spoilAll (d : Dev) (t : Tags) (l : List Target) (h : d.memWf) : (d.spoilAll t l).memWf :=
  foldl_keeps Dev.memWf _ (fun b g hb => Dev.memWf_spoil t g.len g b hb) l d h

end Sys2Proof.Machine
end

