-- ==== Sys2Proof/Laws/Step.lean ====
section
/-!
SUPPORT. Laws of one step: everything a command can do to the machine beside the device, said once.
-/

namespace Sys2Proof.Machine

/-- A command answers a next state with the queue and the time as they were, and what it does to the device does not
depend on the queue. -/
theorem exec_leads (c : Instr) (s : State) :
    ∃ d, Leads c s d ∧ ∀ l, Leads c { s with pending := l } d := by
  cases c <;> exact ⟨_, rfl, fun _ => rfl⟩

/-- What a step does where a command waits, and where none does. -/
theorem step_cons (s : State) (c : Instr) (l : List Instr) (h : s.pending = c :: l) :
    step s = exec c { s with pending := l } := by
  unfold step
  rw [h]

theorem step_nil (s : State) (h : s.pending = []) : step s = .next s.idle := by
  unfold step
  rw [h]

end Sys2Proof.Machine
end

