-- ==== Sys2Proof/Tests/Slice0.lean ====
section
/-!
SUPPORT. Tests: the well-formedness checks, the spec's worked figures, and for every statement a state and operands that
meet what it assumes.
-/

set_option Elab.async false

namespace Sys2Proof.Tests

open Sys2Proof Sys2Proof.Machine

/-! ### Small states -/

/-- A record whose fields are given: byte offset, low bit, value. -/
def line (l : List (Nat × Nat × Nat)) : Line := BitVec.ofNat 512 (l.foldl (fun n e => n + e.2.2 * 2 ^ (8 * e.1 + e.2.1)) 0)

def map0 : CMap := { CMap.empty 0 0 with
  cores := [0], chans := [0], slices := [0], list := [(0, 0)]
  regions := [(0, { vbase := 0, size := 131072, n := 1, loff := 0, ps := false })] }

def page0 : TEntry := { p := true, ps := false, rd := true, wr := true, hw := true, shr := false, pool := false
                        dirty := false, ast := 0, dom := 0, ctx := 1, share := 16, frame := 0, pidx := 0, pgen := 0, ppn := 0 }

def ctx1 : Ctx := { ast := 0, fn := 1, state := .active, blocked := false, flagNext := false, prio := 0, pasid := 0
                    pasidEn := false, resident := true, resAt := 0, waitAt := 0, energy := 0, infl := 64, overruns := 0
                    clean := 0, decays := 0, inflRec := none, revoke := none, inherit := none }

def queue0 (l : List Fetched) : Queue := { ctx := 1, fn := 1, dbidx := 0, log2n := 8, clog2n := 8, vector := 0, ring := 0
                                           cq := 0, tail := 0, head := 0, cqHead := 0, cqTail := 0, fetched := l, held := []
                                           mapTag := none, resident := true, resAt := 0, lastIntr := none, cqEpisode := false }

def got (x : Line) : Fetched := ⟨0, 0, none, x⟩

def obj0 : Obj := { va := 0, size := 131072, ast := 0, state := .live, ctx := 1, shared := false, poolb := false, pidx := 0
                    inflight := 0, freer := none }

/-- A granule written by domain 0 in stack 0. -/
def wr0 (x : Line) : Gran := { data := x, dom := 0, clr := false, poison := false, dev := false, kgen := 0, key := 5 }

/-- Asterism 0 with one core, one channel and one slice; context 1 with queue 0; object 2; one page. -/
def dev0 : Dev := { Dev.reset with
  core := [(0, { Core.reset with svc := .idle, pwr := .run, bound := some 0 })]
  stk := [(0, { Stack.reset with keys := [(0, 5)], table := [(0, page0)] })]
  comp := { Comp.reset with asts := [(0, { Ast.reset with state := .active, cur := some map0, staged := map0 })] }
  hif := { Hif.reset with
    ctxs := [(1, ctx1)], queues := [(0, queue0 [])], objs := [(2, obj0)], fns := [(1, { Fn.reset with enabled := true, ast := some 0 })] } }
  |>.set (STK_KEYSTAT.VALID 0) 1

def at0 (d : Dev) : State := { pending := [], now := 0, dev := d }

/-- Queue 0 has fetched one slot. -/
def slot0 (d : Dev) (x : Line) : Dev := d.onQueue 0 fun _ => queue0 [got x]

/-- The head of queue 0. -/
def head0 (x : Line) : Head := ⟨0, queue0 [got x], ctx1, got x⟩

/-! ### What the statements assume can be met: queue commands -/

/-- A program of one END at address 0, descriptors of 64 contiguous bytes at 0x1000 and 0x1040. -/
def prog0 : Dev :=
  let dev0 := dev0.set ADM_CTRL.GUAR_EN 0
  let desc := line [(0, 0, 1), (1, 0, 1), (4, 0, 64), (8, 0, 8192)]
  (((dev0.setGran (granKey 0 0) (wr0 (line [(0, 0, 1), (1, 0, 1), (4, 0, 100), (8, 0, 128)]))).setGran (granKey 0 1)
    (wr0 (line [(0, 0, 1)]))).setGran (granKey 0 64) (wr0 desc)).setGran (granKey 0 65) (wr0 desc)

/-- Its class guaranteed, with a memory rate that its channel delivers. -/
def guar0 : Dev := ((prog0.set ADM_CTRL.GUAR_EN 1).set (ADM_MEMRES.RATE 0) 1).set (STK_STATUS.DELIV 0) 1

def tileSlot : Line := line [(0, 0, 1), (0x10, 0, 2), (0x18, 0, 1)]
def xferSlot (mode : Nat) : Line := line [(0, 0, 2), (0x10, 0, 2), (0x14, 0, 0x1000), (0x18, 0, 0x1040), (0x1C, 0, mode)]
def sweepSlot : Line := line [(0, 0, 3), (0x10, 0, 0x1000), (0x18, 0, 0x2000), (0x20, 0, 0x3000), (0x28, 0, 8), (0x28, 40, 1),
  (0x30, 53, 2)]

def Program.isOk : Program → Bool
  | .ok _ _ => true
  | _ => false

def isRight {α β : Type} : α ⊕ β → Bool
  | .inr _ => true
  | .inl _ => false

theorem witness_AdmissionDecides :
    (AtHead (slot0 prog0 tileSlot) 0 1 (head0 tileSlot) ∧ (slot0 prog0 tileSlot).tileCheck1 0 tileSlot = true ∧
      (slot0 prog0 tileSlot).nameCompletion 0 tileSlot = .fine ∧ (slot0 prog0 tileSlot).nameObj 0 (tObj tileSlot) = .fine ∧
      Tbl.find (slot0 prog0 tileSlot).hif.objs (tObj tileSlot) = some obj0 ∧
      Program.isOk ((slot0 prog0 tileSlot).readProgram ((slot0 prog0 tileSlot).headTags (head0 tileSlot)) obj0 (tOff tileSlot)) = true ∧
      (slot0 prog0 tileSlot).guaranteed ((slot0 prog0 tileSlot).newCmd 0 (head0 tileSlot)).cls 1 = false) ∧
    (∀ mode < 2, let x := xferSlot mode
      let d := slot0 prog0 x
      let one := line [(0, 0, 1), (1, 0, 1), (4, 0, 64), (8, 0, 8192)]
      AtHead d 0 2 (head0 x) ∧ xMode x = mode ∧ xClean x = true ∧ tOff x % 64 = 0 ∧ xDst x % 64 = 0 ∧
        d.coresIn 0 (xDpMask x) ≠ [] ∧ d.nameObj 0 (tObj x) = .fine ∧ tOff x + 64 ≤ obj0.size ∧ xDst x + 64 ≤ obj0.size ∧
        isRight (d.peekBytes (d.headTags (head0 x)) (obj0.va + tOff x) 64) = true ∧
        isRight (d.peekBytes (d.headTags (head0 x)) (obj0.va + xDst x) 64) = true ∧
        isRight (d.xferDesc 0 obj0 (tOff x) 0 false one) = true ∧ (mode = 0 → isRight (d.xferDesc 0 obj0 (xDst x) mode true one) = true) ∧
        d.guaranteed (d.newCmd 0 (head0 x)).cls 2 = false) ∧
    (AtHead (slot0 prog0 sweepSlot) 0 3 (head0 sweepSlot) ∧ (slot0 prog0 sweepSlot).sweepCheck 0 sweepSlot = none ∧
      (slot0 prog0 sweepSlot).guaranteed ((slot0 prog0 sweepSlot).newCmd 0 (head0 sweepSlot)).cls 3 = false) ∧
    (let m := guar0.newCmd 0 (head0 tileSlot)
     guar0.guaranteed m.cls (hOp m.slot) = true ∧ m.objs = [] ∧
      (guar0.earlySteps (head0 tileSlot) { m with guar := true, resv := { m.resv with credits := (List.range 4).map (guar0.lp m.ast) } }
        = none ∧ guar0.energyOk (ceilDiv m.resv.energy 1) = true) ∧
      ((guar0.set ADM_STATUS.CAP_FLOOR 1).earlySteps (head0 tileSlot)
        { m with guar := true, resv := { m.resv with credits := (List.range 4).map (guar0.lp m.ast) } }).isSome = true) := by
  unfold AtHead; and_intros <;> decide +kernel

def ev0 (v : Nat) (sem : Bool) : Event := { value := v, abandoned := false, ast := 0, sem := sem, holders := [], waiters := 0 }
def evDev (v : Event) : Dev := (dev0.set ADM_CTRL.GUAR_EN 0).onHif fun h => { h with events := [(3, v)] }
/-- A synchronisation command on event 3: opcode, mode, operand. -/
def evSlot (op mode v : Nat) : Line := line [(0, 0, op), (0x10, 0, 3), (0x10, 20, mode), (0x18, 0, v)]

theorem witness_SyncIsTaken :
    (AtHead (slot0 dev0 0) 0 0 (head0 0) ∧ (slot0 dev0 0).nameCompletion 0 0 = .fine) ∧
    (∀ m < 3, AtHead (slot0 (evDev (ev0 0 false)) (evSlot 4 m 7)) 0 4 (head0 (evSlot 4 m 7)) ∧
      (slot0 (evDev (ev0 0 false)) (evSlot 4 m 7)).nameEvent 0 3 = .fine ∧ fld (evSlot 4 m 7) 0x10 20 2 = m) ∧
    AtHead (slot0 (evDev (ev0 0 true)) (evSlot 7 0 0)) 0 7 (head0 (evSlot 7 0 0)) ∧
    (AtHead (slot0 (evDev (ev0 5 false)) (evSlot 5 0 5)) 0 5 (head0 (evSlot 5 0 5)) ∧ waitHolds (evSlot 5 0 5) (ev0 5 false) = true ∧
      waitHolds (evSlot 5 0 6) (ev0 5 false) = false ∧ AtHead (slot0 (evDev (ev0 5 false)) (evSlot 5 0 6)) 0 5 (head0 (evSlot 5 0 6))) ∧
    (AtHead (slot0 (evDev (ev0 1 true)) (evSlot 6 0 0)) 0 6 (head0 (evSlot 6 0 0)) ∧ (ev0 1 true).free = true ∧
      (slot0 (evDev (ev0 1 true)) (evSlot 6 0 0)).nextWaiter 3 = none ∧
      (slot0 (evDev (ev0 1 true)) (evSlot 6 0 0)).guaranteed ((slot0 (evDev (ev0 1 true)) (evSlot 6 0 0)).newCmd 0 (head0 (evSlot 6 0 0))).cls 6 = false) ∧
    (∀ n ∈ [1, 16], AtHead (slot0 dev0 (line [(0, 0, 8), (0x10, 0, n)])) 0 8 (head0 (line [(0, 0, 8), (0x10, 0, n)]))) := by
  unfold AtHead; and_intros <;> decide +kernel

/-- A command of queue 0 in flight. -/
def cmd0 (x : Line) : Cmd := dev0.newCmd 0 (head0 x)
def withCmd (d : Dev) (m : Cmd) : Dev := d.onHif fun h => { h with cmds := [(0, m)], nextCmd := 1 }

theorem witness_OrderedAndEvents :
    (∀ m < 3, let d := slot0 (evDev (ev0 (2 ^ 63 - 1) false)) (evSlot 4 m 1)
      AtHead d 0 4 (head0 (evSlot 4 m 1)) ∧ d.hif.cmds = [] ∧ d.net.barriers = [] ∧ (head0 (evSlot 4 m 1)).queue.fetched = [got (evSlot 4 m 1)] ∧
        hEvent (evSlot 4 m 1) = 0 ∧ Tbl.find d.hif.events (fld (evSlot 4 m 1) 0x10 0 20) = some (ev0 (2 ^ 63 - 1) false)) ∧
    (let v := { ev0 0 true with holders := [1] }
     AtHead (slot0 (evDev v) (evSlot 7 0 0)) 0 7 (head0 (evSlot 7 0 0)) ∧ v.sem = true ∧ 1 ∈ v.holders) ∧
    (∀ op ∈ [5, 6], let m := { cmd0 (evSlot op 0 0) with phase := .parked, timeoutAt := 1000 }
      Tbl.find (withCmd (evDev (ev0 0 true)) m).hif.cmds 0 = some m ∧ m.phase = .parked ∧ m.timeoutAt ≠ 0 ∧ m.timeoutAt ≤ 1000 ∧
        hOp m.slot = op) := by
  unfold AtHead; and_intros <;> decide +kernel

/-- A buffer at its set point under 54.2 V. -/
def buf0 : Dev := (dev0.set PWR_BUFFER_ENERGY.ENERGY 24000).set PWR_INPUT.VIN 5420

def hintSlot : Line := line [(0, 0, 9), (0x10, 0, 1000), (0x14, 0, 1), (0x16, 0, 5), (0x18, 0, 10)]
def booking0 (opened : Bool) : Booking := { id := 0, cmd := 0, ast := 0, ctx := 1, powerMw := 1000, openAt := 320, closeAt := 640
                                            opened := opened, drawn := 0, usedPj := 0, limitMj := 1 }

theorem witness_CompletionAndHints :
    (let c := { cmd0 0 with tiles := 0 }
     let d := withCmd dev0 c
     Tbl.find d.hif.cmds 0 = some c ∧ Tbl.find d.hif.queues c.queue = some (queue0 []) ∧ (queue0 []).cqRoom = true ∧ hEvent c.slot = 0 ∧
       c.objs = [] ∧ c.call = none ∧ c.err = 0 ∧ c.shed = none ∧ c.guar = false ∧ hQuiet c.slot = false ∧ c.resv.blocks = 0) ∧
    (let d := slot0 buf0 hintSlot
     AtHead d 0 9 (head0 hintSlot) ∧ (d.pwr.bookings.filter fun b => b.ast == 0).length < 4 ∧ d.pwr.bookings.length < 16 ∧
       d.energyOk (fld hintSlot 0x14 0 16 * 1000) = true ∧ d.bufferTest (fld hintSlot 0x14 0 16 * 1000) = true) ∧
    ((booking0 false).openAt ≤ 320 ∧ (booking0 true).over 640 = true ∧ (booking0 true).over 639 = false) := by
  unfold AtHead; and_intros <;> decide +kernel

/-- CALL of one command at 0x1000 of object 2. -/
def callSlot : Line := line [(0, 0, 0x0B), (0x10, 0, 2), (0x14, 0, 0x1000), (0x18, 0, 1)]
def abortSlot : Line := line [(0, 0, 0x0A)]
def freeSlot : Line := line [(0, 0, 0x0C), (0x10, 0, 2)]

theorem witness_CallsAndLifetime :
    (AtHead (slot0 (withCmd dev0 (cmd0 tileSlot)) abortSlot) 0 0x0A (head0 abortSlot) ∧ (cmd0 tileSlot).queue = 0 ∧
      (cmd0 tileSlot).pos = 0 ∧ (cmd0 tileSlot).call = none ∧ (cmd0 tileSlot).forced = none) ∧
    (AtHead (slot0 prog0 callSlot) 0 0x0B (head0 callSlot) ∧ fld callSlot 0x18 0 16 = 1 ∧
      fld callSlot 0x14 0 32 + 64 * fld callSlot 0x18 0 16 ≤ obj0.size ∧
      isRight ((slot0 prog0 callSlot).peekBytes ((slot0 prog0 callSlot).headTags (head0 callSlot)) 0x1000 64) = true) ∧
    (AtHead (slot0 dev0 freeSlot) 0 0x0C (head0 freeSlot) ∧ Tbl.find dev0.hif.objs (fld freeSlot 0x10 0 24) = some obj0 ∧
      obj0.state = .live) := by
  unfold AtHead; and_intros <;> decide +kernel

def mapSlot (page ctx : Nat) : Line := line [(0, 0, 0x0D), (0x10, 0, page * 65536), (0x18, 0, 1), (0x1C, 0, 1), (0x20, 0, 0x1B),
  (0x20, 20, ctx), (0x20, 36, 15)]
def unmapSlot (op : Nat) : Line := line [(0, 0, op), (0x20, 0, 1), (0x22, 0, 1)]
def inval0 (wait : List Nat) : Inval := { id := 0, ast := 0, ctx := none, lo := 0, hi := 65536, wait := wait, at_ := 0, cmd := none
                                          doorbell := true, late := [] }
def noteDev (l : List Note) (v : Inval) : Dev := dev0.onNet fun n => { n with notes := l, invals := [v], invId := 1 }

theorem witness_TablesAndInvalidation :
    (let x := mapSlot 1 1
     let d := slot0 dev0 x
     AtHead d 0 0x0D (head0 x) ∧ (head0 x).relisted = false ∧ d.mapWaits x 0 = false ∧ d.mapCheck x 0 = none ∧
       d.mapNodes x 0 [0] = none ∧ mReplace x = false ∧ allStacks.filter (bit (pStacks x)) = [0]) ∧
    ((slot0 dev0 (mapSlot 0 1)).mapCheck (mapSlot 0 1) 0).isSome = true ∧
    (∀ op ∈ [0x0E, 0x0F], let x := unmapSlot op
      let d := slot0 dev0 x
      AtHead d 0 op (head0 x) ∧ unmapBad x (op == 0x0F) = none ∧ uScope x = 1 ∧ uWb x = false ∧ d.invalsFull 0 = false ∧
        (d.scopeStacks 0 (pStacks x)).all (fun t => !d.purgeFull t 0 (uCtx x)) = true ∧ d.scopeStacks 0 (pStacks x) = [0]) ∧
    (let d := noteDev [.inval 0 0] (inval0 [0])
     d.net.notes[0]? = some (.inval 0 0) ∧ d.invalOf 0 = some (inval0 [0]) ∧ d.firstInval 0 0 = true ∧
       (d.stack 0).ingress = true ∧ (d.stack 0).biWait = []) ∧
    (∀ w ∈ [[0], [0, 31]], let d := noteDev [.invAck 0 0] (inval0 w)
      d.net.notes[0]? = some (.invAck 0 0) ∧ d.invalOf 0 = some (inval0 w) ∧ ((inval0 w).wait.filter (· != 0) = [] ↔ w = [0]) ∧
        (inval0 w).at_ + 45000 ≤ 45000) ∧
    ((0, 1) ∈ (Dev.stack (dev0.onStack 0 fun t => { t with purge := [(0, 1)] }) 0).purge) ∧
    (MayWrite dev0 4 HIF_INV_DOORBELL.off ∧
      dev0.flag HIF_INV_STATUS.BUSY = false ∧ (dev0.set HIF_INV_STATUS.BUSY 1).flag HIF_INV_STATUS.BUSY = true ∧ dev0.stacksOf 0 = [0]) := by
  unfold AtHead MayWrite; and_intros <;> decide +kernel

/-! ### Management commands, composition, stacks -/

/-- A management command in firmware's hands. -/
def mgt0 (x : Line) (l : List (BitVec 256)) : Mgt := { pos := 0, submit := none, slot := x, delta := l, at_ := 0, started := false, count := 0 }
def withMgt (d : Dev) (m : Mgt) : Dev := d.onHif fun h => { h with mgt := [(7, m)] }
/-- A delta entry. -/
def entry (opk unit : Nat) : BitVec 256 := BitVec.ofNat 256 (opk + unit * 2 ^ 16)
/-- Asterism 0 in another state. -/
def astIn (d : Dev) (st : AstState) : Dev := d.onAst 0 fun x => { x with state := st }
/-- The policy lets every domain use every stack, die pair and port, and the life-cycle state is 1. -/
def free0 : Dev :=
  { (((((dev0.set (LCS_POLICY_DOM_B.STACKS 0) 1).set (LCS_POLICY_DOM_A.DPMASK 0) 1).set (LCS_POLICY_DOM_A.EN 0) 1).set
    (LCS_POLICY_DOM_A.PORTS 0) 1).set (LCS_POLICY_DOM_A.FORCE_DETACH 0) 1) with
    lcs := { Lcs.reset with journal := [{ target := 1, wipes := 0, valid := true, void := false, commit := true }] } }

theorem witness_ManagementRecords :
    Tbl.find (withMgt dev0 (mgt0 0 [])).hif.mgt 7 = some (mgt0 0 []) ∧ (mgt0 0 []).submit = none ∧
      ((withMgt dev0 (mgt0 0 [])).set MGT_RING_BASE.EN 1).mgtDead = false ∧ (withMgt dev0 (mgt0 0 [])).hif.mheld = [] ∧
      ((withMgt dev0 (mgt0 0 [])).set MGT_RING_BASE.EN 1).mgtCqRoom = true := by
  and_intros <;> decide +kernel

/-- BIND and UNBIND: bits at 0x10, entries. -/
def bindSlot (op bits n : Nat) : Line := line [(0, 0, op), (0x10, 0, bits), (0x14, 0, n)]

theorem witness_CompositionIsStaged :
    (∀ ap ∈ [0, 1], let m := mgt0 (bindSlot 0x80 (ap * 64) 1) [entry 1 1]
      let b := begun (withMgt free0 m) 7
      Turn (withMgt free0 m) 7 0x80 m ∧ composeClean false m.slot (b.ast 0).state = true ∧ b.lcBusy = false ∧ b.lockedFn 0 = none ∧
        firstEntry (entryDirty false) m.entries = none ∧ firstEntry (entryBad false) m.entries = none ∧
        applyAll (b.bindEntry 0) m.entries (b.ast 0).staged = .inr { map0 with chans := [0, 1] } ∧
        b.check4 0 { map0 with chans := [0, 1] } = none ∧
        b.applyChecks 0 0 { map0 with chans := [0, 1] } m false = none) ∧
    (let m := mgt0 (bindSlot 0x80 (1 + 128) 0) []
     let b := begun (withMgt free0 m) 7
     Turn (withMgt free0 m) 7 0x80 m ∧ composeClean false m.slot (b.ast 1).state = true ∧ b.lcBusy = false ∧
       b.flag (LCS_POLICY_DOM_A.EN (cDom m.slot)) = true ∧ b.lcs.state ≠ 0 ∧ b.lcs.state ≠ 3 ∧
       applyAll (b.bindEntry 1) m.entries (CMap.empty 0 0) = .inr (CMap.empty 0 0) ∧ b.check4 1 (CMap.empty 0 0) = none) ∧
    (firstEntry (entryBad false) (mgt0 (bindSlot 0x80 0 1) [entry 0 5376]).entries).isSome = true ∧
    (firstEntry (entryBad false) (mgt0 (bindSlot 0x80 0 1) [entry 0 5375]).entries) = none ∧
    (let m := mgt0 (bindSlot 0x81 0 1) [BitVec.ofNat 256 (2 + 8192 * 2 ^ 16)]
     let b := begun (withMgt free0 m) 7
     Turn (withMgt free0 m) 7 0x81 m ∧ composeClean true m.slot (b.ast 0).state = true ∧
       firstEntry (entryDirty true) m.entries = none ∧ firstEntry (entryBad true) m.entries = none ∧
       applyAll (b.unbindEntry 0) m.entries (b.ast 0).staged = .inr { map0 with slices := [] } ∧
       b.check4 0 { map0 with slices := [] } = none) ∧
    (let m := mgt0 (bindSlot 0x81 (64 + 128) 0) []
     let b := begun (withMgt (astIn free0 .quiesced) m) 7
     (b.ast 0).state ≠ .composing ∧ b.applyChecks 0 0 map0 m true = none) ∧
    (firstEntry (entryBad true) (mgt0 (bindSlot 0x81 0 1) [entry 3 0]).entries).isSome = true := by
  unfold Turn; and_intros <;> decide +kernel

/-- ATTACH, DETACH: port 0, virtual function 1. -/
def fnSlot (op vf force : Nat) : Line := line [(0, 0, op), (0x11, 3, force), (0x12, 0, vf)]
/-- Virtual function 1 of port 0 attached to asterism 0. -/
def attached0 (st : AstState) (ctxs : Tbl Ctx) : Dev :=
  ((astIn { free0 with stk := [] } st).onAst 0 fun x => { x with funcs := [(1, false), (0, false), (0, false), (0, false)] }).onHif
    fun h => { h with ctxs := ctxs, fns := [(fnOf 0 false 1, { Fn.reset with enabled := true, ast := some 0 })] }

theorem witness_FunctionsAndQuiesce :
    (∀ vf ∈ [2, 64], let m := mgt0 (fnSlot 0x82 vf 0) []
      let d := withMgt free0 m
      Turn d 7 0x82 m ∧ d.lockedFn 0 = none ∧ (d.ast 0).state.hosts = true ∧ ((d.ast 0).funcs.getD 0 (0, false)).1 = 0 ∧
        cVf m.slot = vf ∧ (d.fn (fnOf 0 false vf)).ast = none ∧ bit (d.get (LCS_POLICY_DOM_A.PORTS (d.domOf 0))) 0 = true ∧
        cHalf m.slot = false) ∧
    (cVf (fnSlot 0x82 0 0) = 0 ∧ 64 < cVf (fnSlot 0x82 65 0)) ∧
    (let m := mgt0 (fnSlot 0x83 0 0) []
     let g := fnOf 0 false 1
     let d := withMgt (attached0 .quiesced []) m
     Turn d 7 0x83 m ∧ d.detachFn m.slot = some g ∧ (d.fn g).ast = some 0 ∧ (d.ast 0).state = .quiesced ∧ d.fnCtxs g = [] ∧
       d.detachLeft 7 = false ∧ d.cxl.bi = [] ∧ d.stk = [] ∧ 1 ≤ fnVf g ∧ (attached0 .active []).detachFn m.slot = some g) ∧
    (let m := mgt0 (fnSlot 0x83 0 1) []
     let d := withMgt (attached0 .active [(1, ctx1)]) m
     Turn d 7 0x83 m ∧ fld m.slot 0x11 3 1 = 1 ∧ d.detachFn m.slot = some (fnOf 0 false 1) ∧
       d.flag (LCS_POLICY_DOM_A.FORCE_DETACH (d.domOf 0)) = true ∧
       (d.set (LCS_POLICY_DOM_A.FORCE_DETACH 0) 0).flag (LCS_POLICY_DOM_A.FORCE_DETACH 0) = false) ∧
    (∀ st ∈ [AstState.active, .quiesced], Turn (withMgt (astIn free0 st) (mgt0 (line [(0, 0, 0x84)]) [])) 7 0x84 (mgt0 (line [(0, 0, 0x84)]) [])) ∧
    (let d := (astIn free0 .quiescing).onAst 0 fun x => { x with quiesce := some (7, 1000) }
     (d.ast 0).state = .quiescing ∧ d.quiescent 0 = true ∧ (d.ast 0).quiesce = some (7, 1000)) ∧
    (∀ st ∈ [AstState.quiescing, .quiesced, .active],
      Turn (withMgt (astIn free0 st) (mgt0 (line [(0, 0, 0x85)]) [])) 7 0x85 (mgt0 (line [(0, 0, 0x85)]) [])) := by
  unfold Turn; and_intros <;> decide +kernel

/-- COMMIT_MODE of an asterism's time slice or of the class table. -/
def modeSlot (one : Nat) : Line := line [(0, 0, 0x86), (0x10, 7, one)]
def modeDev (w : List Nat) : Dev := dev0.onComp fun c => { c with mode := some { cmd := 7, scope := some 0, wait := w, at_ := 0 } }

theorem witness_ModesCommit :
    (∃ x, let m := mgt0 x []
      Turn (withMgt dev0 m) 7 0x86 m ∧ mgtAst m.slot = some 0 ∧ (withMgt dev0 m).lockedFn 0 = none) ∧
    (∃ x, let m := mgt0 x []
      Turn (withMgt dev0 m) 7 0x86 m ∧ mgtAst m.slot = none ∧ (withMgt dev0 m).classBad = false ∧
        (withMgt (dev0.set (ADM_CLASS_PARAM_A.TARGET 0) 0) m).classBad = true) ∧
    (∀ w ∈ [[5], [5, 6]], ∃ r, (modeDev w).comp.mode = some r ∧ 5 ∈ r.wait ∧ (r.wait.filter (· != 5) ≠ [] ↔ w = [5, 6]) ∧
      r.at_ + 100000 ≤ 100000 ∧ 99999 < r.at_ + 100000) := by
  refine ⟨⟨modeSlot 1, ?_⟩, ⟨modeSlot 0, ?_⟩, ?_⟩
  · unfold Turn; and_intros <;> decide +kernel
  · unfold Turn; and_intros <;> decide +kernel
  · intro w hw
    refine ⟨{ cmd := 7, scope := some 0, wait := w, at_ := 0 }, ?_⟩
    revert w; decide +kernel

/-- A request of asterism 0 for page 0. -/
def req0 (acc : Acc) (va dom : Nat) : Req :=
  { who := .window 1, acc := acc, va := va, tags := ⟨0, dom, 1, 0, 0, false⟩, dest := .chan 0 0 0, data := 0, mask := 0, hop := none
    guar := false, born := 0, esc := 0, queue := 0, slot := 0 }
/-- The request at channel 0, with the page in the cache or not. -/
def atStack (r : Req) (c : Tbl TEntry) : Dev :=
  (dev0.onNet fun n => { n with reqs := [r] }).onStack 0 fun t => { t with cache := c }

/-- Pool 0 is live host memory behind link 0. -/
def hostPool (d : Dev) : Dev :=
  { d with cxl := { d.cxl with partners := [(32, { Partner.reset with state := .live, kind := 2 })] } }

theorem witness_RequestsAndWalks :
    (∀ acc ∈ [Acc.read, .write, .masked, .add, .fetchAdd], let r := req0 acc 0 0
      let d := atStack r [(0, page0)]
      let w : Route := { region := 0, ps := false, l := 0, r := 0, share := 16, page := 0, q := 0 }
      (d.net.reqs[0]? = some r ∧ r.hop = none ∧ (d.stack (chanStack 0)).takes r.tags.ast = true ∧ d.moveHolds 0 = false) ∧
        d.atSlot 0 r = .inl w ∧ entryAt (d.stack 0).cache 0 r.va = some (0, page0) ∧
        d.entryVerdict r.tags acc 0 0 w (some page0) = .serve 0 0 ∧ d.tracked 0 0 = false ∧
        entryAt ((atStack r []).stack 0).cache 0 r.va = none ∧
        d.entryVerdict r.tags acc 0 0 w (some { page0 with rd := false }) = .hard 0x0303 ∧
        d.entryVerdict r.tags acc 0 0 w (some { page0 with p := false }) = .soft 0x030D ∧
        (hostPool d).entryVerdict r.tags acc 0 0
          w (some { page0 with pool := true }) = .redirect 0 0 ∧
        (d.onStack 0 fun t => { t with biFilter := [(granKey (d.physChan 0) 0, 1)] }).tracked 0 0 = true ∧
        (atStack (req0 acc 131072 0) []).atSlot 0 (req0 acc 131072 0) = .inr (0x0306, stackUnit 0)) ∧
    (let r := req0 .read 65535 0
     let d := dev0.onStack 0 fun t => { t with walks := [⟨r, 0⟩] }
     ∃ x : Route, (d.stack 0).walks[0]? = some ⟨r, 0⟩ ∧ (d.stack 0).ingress = true ∧ d.atSlot 0 r = .inl x ∧
       entryAt (d.stack 0).table 0 r.va = some (0, page0) ∧ (d.stack 0).cache.length < 262144 ∧
       d.entryVerdict r.tags .read 0 r.va x (some page0) = .serve 0 65535 ∧ Acc.read.writes = false ∧
       entryAt ([] : Tbl TEntry) 0 r.va = none) := by
  refine ⟨by decide +kernel, ⟨{ region := 0, ps := false, l := 0, r := 15, share := 16, page := 0, q := 15 }, by decide +kernel⟩⟩

/-- A granule of domain 0 that a read may answer. -/
theorem witness_ReadsStayInside :
    let r := req0 .read 0 0
    let d := (atStack r [(0, page0)]).setGran (granKey 0 0) (wr0 7)
    ∃ t : State, exec (.stackRead 0 .clean) (at0 d) = .next t ∧
      (d.net.reqs[0]? = some r ∧ r.hop = none ∧ (d.stack (chanStack 0)).takes r.tags.ast = true ∧ d.moveHolds 0 = false) ∧
      (⟨r, .ok, 7⟩ : Resp) ∈ t.dev.net.resps ∧ (⟨r, .ok, 7⟩ : Resp) ∉ d.net.resps := by
  refine ⟨_, rfl, ?_⟩; decide +kernel

theorem witness_WrittenThenRead :
    (∀ off ∈ [0, privateBase - 64], off < privateBase) ∧ dev0.slotValid (chanStack 31) 0 = true ∧
      (∀ m ∈ dev0.comp.moves, m.mirrors 0 0 = false) ∧ (dev0.stack 0).copy = none ∧
      (Dev.writeGran (dev0.set (STK_KEYSTAT.VALID 0) 3) 0 0 0 (.tagged 0 0 1) 7).1.slotValid 0 1 = true := by
  and_intros <;> decide +kernel

theorem witness_MemoryStaysCanonical :
    Memory.wf prog0.lost prog0.mem = true ∧ SliceMem.wf prog0.slice = true ∧ prog0.mem.length = 4 := by
  and_intros <;> decide +kernel

theorem witness_StackUpkeep :
    (32768 ≤ Tbl.look 0 (Dev.stack (dev0.onStack 31 fun t => { t with acts := [(5, 32768)] }) 31).acts 5) ∧
    (let p : Pend := { ast := 0, page := 0, count := 1, pull := some [], reported := false, waiting := [] }
     Tbl.find (Dev.stack (dev0.onStack 31 fun t => { t with pend := [(0, p)] }) 31).pend 0 = some p ∧ p.pull = some []) ∧
    ((dev0.onNet fun n => { n with notes := [.deliverable 31 7] }).net.notes = [.deliverable 31 7] ∧
      (dev0.comp.asts.filter fun e => dev0.home e.1 == 7) = []) := by
  and_intros <;> decide +kernel

def loadDev (k : Nat) (again : Bool) : Dev := { dev0 with lcs := { Lcs.reset with loads := [(k, 0, again, 9)] } }

theorem witness_KeysAndRepairs :
    (∀ k ∈ [0, 15, 16, 31 * 32], ((loadDev k false).lcs.loads[0]? = some (k, 0, false, 9)) ∧ k / 32 < 32 ∧
      ((loadDev k false).stack (k / 32)).ingress = true ∧ 0 + 100000 ≤ 100000 ∧ (loadDev k false).lcs.drbgUp = true ∧
      (loadDev k true).lcs.loads[0]? = some (k, 0, true, 9)) ∧
    ((astIn dev0 .free).domRetired 0 = true ∧ (astIn dev0 .free).slotValid 0 0 = true) ∧
    (let d := dev0.onStack 31 fun t => { t with rowBad := [5], rowsUsed := [(0, 63)] }
     d.rowDue 31 5 = true ∧ Tbl.look 0 (d.stack 31).rowsUsed (5 / 2 ^ 15) < 64 ∧
       64 ≤ Tbl.look 0 (Dev.stack (dev0.onStack 31 fun t => { t with rowsUsed := [(0, 64)] }) 31).rowsUsed 0) ∧
    ((dev0.set (STK_SPARE.LANES 0) 63).get (STK_SPARE.LANES 0) < 64 ∧ 64 ≤ (dev0.set (STK_SPARE.LANES 0) 64).get (STK_SPARE.LANES 0) ∧
      (dev0.slotServed 0 (71 / 72)).isSome = true) ∧
    (let d := dev0.onStack 0 fun t => { t with waiting := [.bank 0 7, .channel 31] }
     d.bankDue 0 0 7 = true ∧ d.get (STK_CHAN_HEALTH.BANKS_SPARED 0 0) < 2 ∧ (d.stack 0).copy = none ∧
       d.channelDue 0 31 = true ∧ d.spareChannel 0 = some 32 ∧ d.retired 31 = false ∧
       ((d.set (STK_CHAN_HEALTH.PSTATE 0 32) 0).set (STK_CHAN_HEALTH.PSTATE 0 33) 0).spareChannel 0 = none) ∧
    ((Dev.stack (dev0.onStack 0 fun t => { t with copy := some ⟨.bank 0 7, 64, 0⟩ }) 0).copy = some ⟨.bank 0 7, 64, 0⟩) ∧
    ((Dev.stack (dev0.onStack 0 fun t => { t with copy := some ⟨.channel 31, 33, 0⟩ }) 0).copy = some ⟨.channel 31, 33, 0⟩ ∧
      dev0.get (STK_SLOT_MAP.PHYS 0 31) < 34 ∧ 33 ≠ dev0.get (STK_SLOT_MAP.PHYS 0 31)) ∧
    ((List.range 32).find? fun j => dev0.get (STK_SLOT_MAP.PHYS 0 j) == 31) = some 31 ∧ dev0.ras.resets = [] := by
  and_intros <;> decide +kernel

/-! ### Map epochs, moves, spares, revocation, control, residency -/

/-- A publication of asterism 0 that adds channel 1. -/
def publ0 : Publ := { ast := 0, edit := none, map := { map0 with chans := [0, 1] }, dissolve := false, shed := false, cmd := none }
def publDev (p : Publ) : Dev := (dev0.onComp fun c => { c with waiting := [p] }).onStack 0 id
/-- Two epochs live since the time 0. -/
def twoLive (d : Dev) : Dev := d.onComp fun c => { c with twoLive := true, epoch := 1, prevEpoch := 0 }

theorem witness_PublicationsAndEpochs :
    ((twoLive dev0).comp.twoLive = true ∧ (publDev { publ0 with edit := some (.core 0 1) }).comp.twoLive = false) ∧
    ((publDev publ0).comp.waiting.find? (publDev publ0).publReady = some publ0 ∧
      ((publDev publ0).joining publ0).filter ((publDev publ0).needsScrub publ0.map.dom) = [8193] → True) ∧
    (let d := (publDev publ0).onComp fun c => { c with chans := [(0, { Owner.free with ast := 0, st := 1 })] }
     let p := publ0
     d.comp.waiting.find? d.publReady = some p ∧ (d.joining p).filter (d.needsScrub 0) = [] ∧ d.keysNeeded p = [] ∧
       (d.set (STK_KEYSTAT.VALID 0) 0).keysNeeded p = [0] ∧ d.lcs.drbgUp = true ∧
       (let e := d.onComp fun c => { c with chans := [(0, { Owner.free with ast := 0, st := 1 }), (1, { Owner.free with dirty := true, lastDom := 3 })] }
        e.comp.waiting.find? e.publReady = some p ∧ (e.joining p).filter (e.needsScrub 0) = [chanNo 1])) ∧
    ((twoLive dev0).epochHeld 0 = false ∧ (twoLive (dev0.onNet fun n => { n with reqs := [req0 .read 0 0] })).epochHeld 0 = true ∧
      (twoLive dev0).comp.adoptAt + 100000000 ≤ 100000000 ∧ (twoLive dev0).comp.drainLate = false) ∧
    (∀ l ∈ [0, 1023], let d := dev0.onComp fun c => { c with scrubbing := [chanNo l] }
      chanNo l ∈ d.comp.scrubbing ∧ (∀ b ∈ d.comp.leaving, b.1 ≠ chanNo l) ∧
        d.trackedIn (chanStack l) (granKey (d.physChan l) 0) (granKey (d.physChan l) (granOf privateBase)) = false) ∧
    (∀ k ∈ [0, 543], sliceNo k ∈ (dev0.onComp fun c => { c with scrubbing := [sliceNo k] }).comp.scrubbing) := by
  and_intros <;> decide +kernel

/-- A move of list index 0 from channel 0 to channel 32, with its page's entry in the target's stack. -/
def move0 : MoveRun := { ast := 0, idx := 0, src := 0, dst := 32, release := false, started := true, copied := [], ptr := 0
                         skipped := none, recorded := false, done := false, switched := false, cmd := none }
def moveDev (v : MoveRun) (t : Tbl TEntry) : Dev := (dev0.onComp fun c => { c with moves := [v] }).onStack 1 fun k => { k with table := t }
/-- The failed core 0 of asterism 0, or of none. -/
def failed0 (b : Option Nat) : Dev := dev0.onCore 0 fun k => { k with svc := .failed, bound := b }
/-- SPARE_SWAP of a unit. -/
def swapSlot (u : Nat) : Line := line [(0, 0, 0x88), (0x10, 0, u)]

theorem witness_MovesAndSpares :
    (dev0.physChan 0 ≠ dev0.physChan 32 ∧ 2 ^ 25 - 1 < 2 ^ 25) ∧
    (let d := moveDev move0 [(0, page0)]
     d.comp.moves[0]? = some move0 ∧ (d.ast 0).cur = some map0 ∧ (d.movePages move0).find? (d.moveTarget move0) = some (0, page0) ∧
       d.trackedIn 0 (granKey (d.physChan 0) (move0.range map0 (0, page0)).1) (granKey (d.physChan 0) (move0.range map0 (0, page0)).2) = false) ∧
    (let v := { move0 with skipped := some 0 }
     let d := moveDev v []
     d.comp.moves[0]? = some v ∧ v.recorded = false ∧ 0 + 10000000 ≤ 10000000 ∧
       (d.movePages v).find? (fun e => !d.moveTarget v e) = some (0, page0)) ∧
    ((moveDev { move0 with copied := [(0, 1024)] } []).movePages { move0 with copied := [(0, 1024)] } = [] ∧
      (moveDev move0 []).movePages move0 ≠ []) ∧
    (let d := twoLive (failed0 (some 0))
     (d.coreAt 0).svc = .failed ∧ (d.coreAt 0).bound = some 0 ∧ (d.ast 0).cur = some map0 ∧ 0 ∈ map0.cores ∧
       d.spareCore (coreDp 0) = some 1 ∧ (∀ p ∈ d.comp.waiting, p.edit = none) ∧ ((failed0 none).coreAt 0).bound = none ∧
       (failed0 none).comp.swaps = []) ∧
    (∀ u ∈ [0, 8192, 8192 * 3], let m := mgt0 (swapSlot u) []
      let d := withMgt dev0 m
      Turn d 7 0x88 m ∧ fld m.slot 0x10 0 16 = u ∧ (begun d 7).swappable u = true ∧ (d.coreAt 0).resetAt = none ∧
        ((begun d 7).spareSlice 0).isSome = true ∧ (begun d 7).slotServed 0 0 = some 0 ∧ (begun d 7).swappable 5376 = false) ∧
    (let w : Swap := { slice := true, unit := 5, spare := 64, wait := false, copied := false, cmd := none }
     let d := dev0.onComp fun c => { c with swaps := [w] }
     (d.comp.swaps.find? fun w => w.slice && w.unit == 5 && w.spare == 64 && !w.copied) = some w ∧ (d.sliceOwner 5).st ≠ 1) := by
  unfold Turn; and_intros <;> decide +kernel

/-- A second context of asterism 0, with queue 1. -/
def two0 : Dev := dev0.onHif fun h => { h with ctxs := [(1, ctx1), (2, ctx1)], queues := [(0, queue0 []), (1, { queue0 [] with ctx := 2, dbidx := 1 })] }
def revSlot (x a q : Nat) : Line := line [(0, 0, 0x87), (0x10, 0, x), (0x12, 0, a), (0x14, 0, q)]
def revoke0 (step5 : Bool) : Revoke := { at_ := 0, report := none, mgt := none, detach := none, inval := none, step5 := step5, objs := 0 }
def revoking (s : Bool) : Dev := (dev0.onCtx 1 fun c => { c with state := .revoking, revoke := some (revoke0 s) }).onHif fun h => { h with objs := [] }

theorem witness_RevocationAndMeters :
    (let op := revSlot 1 0 1
     fld op 0 0 8 = 0x87 ∧ allZero op [ctlHead, (0x12, 6, 10), (0x14, 18, 14), (0x18, 0, 320)] = true ∧ (two0.fn 1).ast = some 0 ∧
       fld op 0x12 0 6 = 0 ∧ two0.revocable 0 1 = true ∧ two0.reportOk 0 1 (fld op 0x14 0 18) = true ∧ two0.revocable 0 3 = false) ∧
    (∀ x ∈ [1, 3], let m := mgt0 (revSlot x 0 0) []
      Turn (withMgt two0 m) 7 0x87 m ∧ (withMgt two0 m).revocable (fld m.slot 0x12 0 6) (fld m.slot 0x10 0 16) = (x == 1)) ∧
    (∀ b, (Tbl.find (revoking b).hif.ctxs 1).bind (·.revoke) = some (revoke0 b) ∧ (revoke0 b).step5 = b ∧ (revoking b).ownObjs 1 = [] ∧
      (revoke0 b).at_ + 10000000 ≤ 10000000 ∧ (revoking b).ras.resets = []) ∧
    ((dev0.ast 0).state ≠ .free ∧ (dev0.ast 1).state = .free ∧ dev0.comp.snapAt + 60 * second ≤ 60 * second) := by
  unfold Turn; and_intros <;> decide +kernel

/-- Asterism 0's quotas are 2 of each. -/
def quota0 : Dev := (((dev0.set (HIF_QUOTA_A.CTX_LIMIT 0) 2).set (HIF_QUOTA_A.QUEUE_LIMIT 0) 2).set (HIF_QUOTA_B.OBJ_LIMIT 0) 2).set
  (HIF_QUOTA_B.EVT_LIMIT 0) 2
def ctlOp (op : Nat) (l : List (Nat × Nat × Nat)) : Line := line ((0, 0, op) :: l)

theorem witness_ControlAndDoorbells :
    (let op := ctlOp 0xC0 [(0x10, 0, 0)]
     (quota0.fn 1).ast = some 0 ∧ fld op 0 0 8 = 0xC0 ∧ allZero op [ctlHead, (0x10, 24, 8), (0x14, 0, 352)] = true ∧
       (quota0.ast 0).state.hosts = true ∧ (quota0.hif.ctxs.filter fun e => e.2.ast == 0).length < quota0.get (HIF_QUOTA_A.CTX_LIMIT 0) ∧
       quota0.ctxTaken < 65536 ∧ (quota0.set (HIF_QUOTA_A.CTX_LIMIT 0) 1).get (HIF_QUOTA_A.CTX_LIMIT 0) ≤
         (quota0.hif.ctxs.filter fun e => e.2.ast == 0).length) ∧
    (∀ n ∈ [5, 6, 16, 17], let op := ctlOp 0xC2 [(0x10, 0, 1), (0x12, 0, n), (0x13, 0, 6)]
      fld op 0 0 8 = 0xC2 ∧ allZero op [ctlHead, (0x12, 5, 3), (0x13, 5, 3), (0x14, 11, 21), (0x18, 0, 12), (0x20, 0, 12),
        (0x28, 0, 192)] = true ∧ Tbl.find quota0.hif.ctxs (fld op 0x10 0 16) = some ctx1 ∧ ctx1.nameable = true ∧ fld op 0x12 0 5 = n ∧
        (quota0.hif.queues.filter fun e => quota0.queueAst e.2 == some 0).length < quota0.get (HIF_QUOTA_A.QUEUE_LIMIT 0)) ∧
    (∀ n ∈ [0, 1, 2 ^ 56], let op := ctlOp 0xC4 [(0x10, 0, 1), (0x20, 0, n)]
      fld op 0 0 8 = 0xC4 ∧ allZero op [ctlHead, (0x10, 22, 10), (0x14, 0, 32), (0x18, 56, 8), (0x20, 57, 7), (0x28, 0, 192)] = true ∧
        fld op 0x20 0 57 = n ∧ fld op 0x20 0 57 ≤ 2 ^ 56 - fld op 0x18 0 56 ∧
        (quota0.hif.objs.filter fun e => e.2.ast == 0).length < quota0.get (HIF_QUOTA_B.OBJ_LIMIT 0)) ∧
    (∀ v ∈ [0, 1, 8, 9], let op := ctlOp 0xC5 [(0x10, 0, 1), (0x18, 0, v)]
      fld op 0 0 8 = 0xC5 ∧ allZero op [ctlHead, (0x10, 1, 31), (0x14, 0, 32), (0x18, 63, 1), (0x20, 0, 256)] = true ∧
        fld op 0x10 0 1 = 1 ∧ fld op 0x18 0 63 = v ∧
        (quota0.hif.events.filter fun e => e.2.ast == 0).length < quota0.get (HIF_QUOTA_B.EVT_LIMIT 0)) ∧
    (let op := ctlOp 0xC3 [(0x10, 0, 0)]
     fld op 0 0 8 = 0xC3 ∧ allZero op [ctlHead, (0x10, 18, 14), (0x14, 0, 352)] = true ∧
       Tbl.find dev0.hif.queues (fld op 0x10 0 18) = some (queue0 []) ∧ dev0.queueAst (queue0 []) = some 0 ∧ dev0.queueWaits 0 (queue0 []) = false ∧
       (slot0 dev0 0).queueWaits 0 (queue0 [got 0]) = true) ∧
    (let op := ctlOp 0xC6 [(0x10, 0, 3)]
     fld op 0 0 8 = 0xC6 ∧ allZero op [ctlHead, (0x10, 20, 12), (0x14, 0, 352)] = true ∧ (ev0 1 true).waiters = 0 ∧ (ev0 1 true).holders = [] ∧
       Tbl.find (evDev (ev0 1 true)).hif.events (fld op 0x10 0 20) = some (ev0 1 true)) ∧
    (let op := ctlOp 0xC1 [(0x10, 0, 1)]
     fld op 0 0 8 = 0xC1 ∧ allZero op [ctlHead, (0x12, 0, 368)] = true ∧
       (Tbl.find (dev0.onCtx 1 fun c => { c with state := .faulted }).hif.ctxs (fld op 0x10 0 16)).map (·.state) = some .faulted) ∧
    (∀ k < 4, let op := ctlOp 0xC8 [(0x10, 0, k), (0x14, 0, [1, 0, 2, 3].getD k 0)]
      fld op 0 0 8 = 0xC8 ∧ allZero op [ctlHead, (0x10, 2, 30), (0x14, 24, 8), (0x18, 0, 320)] = true ∧ fld op 0x10 0 2 = k ∧
        fld op 0x14 0 24 = [1, 0, 2, 3].getD k 0) ∧
    (dev0.queueAt 1 0 = some (0, queue0 []) ∧ (queue0 []).tailOk 256 = true ∧ (queue0 []).tailOk 257 = false ∧ (queue0 []).held = [] ∧
      (let d := { dev0 with cxl := { Cxl.reset with links := [(0, { Link.reset with state := 1 })] } }
       d.fetches (queue0 []) = true ∧ dev0.fetches (queue0 []) = false)) := by
  and_intros <;> decide +kernel

/-- Context 1 and queue 0 wait for their slots. -/
def waiting0 (cr : Bool) : Dev := dev0.onHif fun h => { h with
  ctxs := [(1, { ctx1 with resident := cr })], queues := [(0, { queue0 [] with resident := false, tail := 1 })] }

theorem witness_BooksAndSlots :
    (∀ b, let d := waiting0 b
      d.queueWaits 0 { queue0 [] with resident := false, tail := 1 } = true ∧ (d.residentQueues (d.home 0)).length < 48 ∧
        (d.residents (d.home 0)).length < 32 ∧ (b = false → (d.nextAst (d.home 0)).bind d.nextCtx = some 1)) ∧
    (dev0.waitingAsts (dev0.home 0) = [] ∧ (waiting0 false).waitingAsts 0 ≠ []) ∧
    (let m := { cmd0 tileSlot with inBook := true, tiles := 1, deadline := 0, resv := { Resv.none with acc := 64000 } }
     m.inBook = true ∧ m.tooLate 1000 = true ∧ dev0.home m.ast < 8 ∧ (m.forced = none)) ∧
    (indexWhere (fun n => n == Note.bridgeRate 9 7) (dev0.onNet fun n => { n with notes := [.bridgeRate 9 7] }).net.notes = some 0) ∧
    (MayWrite dev0 4 ADM_DERATE.off ∧ 1000 < 1001 % 1024 ∧ 1000 % 1024 ≤ 1000 ∧ dev0.get ADM_DERATE.DERATE ≤ 1000 ∧
      1 % 1024 < dev0.get ADM_DERATE.DERATE) := by
  unfold MayWrite; and_intros <;> decide +kernel

/-! ### Cores and tiles -/

/-- A tile command with its program, and tile 0 of it. -/
def work0 : Cmd := { cmd0 tileSlot with tiles := 1 }
def tile0 (p : List StepWord) : Tile := { work0.tile 0 0 0 [0, 0, 0, 0] 0 none with
  prog := p, ar := List.replicate 16 0, lc := List.replicate 4 0, ins := List.replicate 8 InStream.init
  outs := List.replicate 8 OutStream.init, engines := List.replicate 4 Engine.init }
def onCore0 (svc : Svc) (t : Tile) : Dev := (withCmd dev0 { work0 with running := 1, next := 1 }).onCore 0 fun k => { k with svc := svc, tile := some t }

theorem witness_TilesAreDispatched :
    (let d := withCmd dev0 work0
     Tbl.find d.hif.cmds 0 = some work0 ∧ (d.coreAt 0).free = true ∧ d.mayStart work0 0 = true ∧ d.isNext 0 work0 0 = true ∧
       work0.redo = [] ∧ d.leaveFor 0 work0 0 = some (0, none) ∧ d.tileCredits work0 = some [0, 0, 0, 0]) ∧
    (let m := { work0 with hdr := line [(0, 0, 1), (2, 0, 1), (4, 0, 2700), (0xC, 0, 1000000)] }
     let d := withCmd dev0 m
     d.mayStart m 0 = true ∧ (m.segs = none)) ∧
    (let m := { work0 with next := 1, redo := [⟨0, 1, 0⟩] }
     let d := withCmd dev0 m
     d.mayStart m 0 = true ∧ d.isNext 0 m 0 = true ∧ d.otherFree m 0 = false ∧ d.leaveFor 0 m 0 = some (0, none)) ∧
    ((onCore0 .running (tile0 [])).coreAt 0).free = false := by
  and_intros <;> decide +kernel

theorem witness_TilesStartAndEnd :
    (let d := onCore0 .loading (tile0 [])
     (d.coreAt 0).tile = some (tile0 []) ∧ (d.coreAt 0).svc = .loading ∧ (d.coreAt 0).waking = false ∧
       (Tbl.find d.hif.cmds (tile0 []).own.cmd).isSome = true ∧ work0.segs = none ∧
       ((d.onCore 0 fun k => { k with waking := true }).coreAt 0).waking = true) ∧
    (let t := { tile0 [] with ended := true }
     let d := onCore0 .draining t
     d.worker 0 = some t ∧ t.finished = true ∧ (tile0 []).finished = false) := by
  and_intros <;> decide +kernel

theorem witness_CoresFenceAndReset :
    (let t := { tile0 [] with wdTicks := dev0.get ADM_TILE_LIMIT.WATCHDOG }
     let d := onCore0 .running t
     (d.coreAt 0).tile = some t ∧ d.get ADM_TILE_LIMIT.WATCHDOG ≤ t.wdTicks ∧ (d.coreAt 0).svc ≠ .stalled ∧ (d.coreAt 0).svc ≠ .fenced ∧
       d.worker 0 = some t ∧ (tile0 []).wdTicks < d.get ADM_TILE_LIMIT.WATCHDOG ∧ dev0.worker 0 = none) ∧
    (∀ r ∈ [ResetCause.watchdog, .sparSwap], let d := dev0.onCore 0 fun k => { k with svc := .fenced, resetAt := some 0, resetCause := r }
      (d.coreAt 0).resetAt = some 0 ∧ (d.coreAt 0).resetCause = r ∧ d.ras.resets = []) ∧
    (let d := dev0.onCore 0 fun k => { k with pwr := .dusk, bound := none }
     (d.coreAt 0).tile = none ∧ (d.coreAt 0).pwr = .dusk ∧ (d.coreAt 0).svc = .idle ∧ (d.coreAt 0).bound = none ∧ (d.coreAt 0).kept = none ∧
       (d.coreAt 0).duskAt + d.get PWR_CTRL.NIGHT_AFTER_US * 1000 ≤ 1000 * dev0.get PWR_CTRL.NIGHT_AFTER_US) := by
  and_intros <;> decide +kernel

/-- A step word: byte offset, low bit, value. -/
def word (l : List (Nat × Nat × Nat)) : StepWord := BitVec.ofNat 128 (l.foldl (fun n e => n + e.2.2 * 2 ^ (8 * e.1 + e.2.1)) 0)
/-- Core 0 issues next the step word. -/
def step0 (t : Tile) (w : StepWord) : Dev := onCore0 .running { t with prog := [w] }

/-- A running tile that has touched nothing yet issues the step next, whatever the step. -/
theorem next_step (p : List StepWord) (k : Nat) (w : StepWord) (h : p[k]? = some w) :
    AtStep (onCore0 .running { tile0 p with step := k }) 0 { tile0 p with step := k } w :=
  ⟨.inl rfl, _, rfl, rfl, h, (Tile.seen_calm _ _ _ rfl rfl).symm⟩

theorem step_is_next (w : StepWord) : AtStep (step0 (tile0 []) w) 0 { tile0 [] with prog := [w] } w := next_step [w] 0 w rfl

theorem witness_ControlAndStreamSteps :
    (∀ op ∈ [0, 1, 2, 3, 4, 5, 6, 7, 8, 9, 10, 11, 12, 13, 14], sOp (word [(0, 0, op)]) = op) ∧
    (let p := [word [(0, 0, 2)], word [(0, 0, 3)]]
     (p[1]? = some (word [(0, 0, 3)]) ∧ sFA (word [(0, 0, 3)]) = sFA (word [(0, 0, 2)]) ∧
       BitVec.ofNat 32 (arOf (tile0 p).ar 0 + sImm (word [(0, 0, 2)])) = 0) ∧
     (tile0 p).lc.getD 0 0 ≠ 1 ∧ (List.replicate 4 (1 : W32)).getD 0 0 = 1) ∧
    (let o := { OutStream.init with count := 1, xouts := [{ id := 0, desc := Desc.parse 0 0, spa := 0, mode := 0, total := 64, next := 0, segs := [], asking := false, drops := 0 }] }
     bit (sFA (word [(0, 0, 8), (1, 0, 32)])) 5 = true ∧ o.sourced = false ∧
       ((maskStreams (sFA (word [(0, 0, 11), (1, 0, 1)]))).filter fun k => (([o] : List OutStream).getD k OutStream.init).count != 0) ≠ [] ∧
       ((maskStreams (sFA (word [(0, 0, 11), (1, 0, 1)]))).filter fun k => ((tile0 []).outs.getD k OutStream.init).count != 0) = []) ∧
    (let st := { InStream.init with issued := true, t := 64, cc := 64 }
     let w := word [(0, 0, 9), (4, 0, 64)]
     let thr := (arOf (tile0 []).ar (sFB w) + sImm w) % 2 ^ 32
     st.issued = true ∧ st.pending = 0 ∧ thr ≤ st.t ∧ thr ≤ st.cc ∧ { st with cc := 63 }.cc < thr ∧ { st with t := 63 }.t < thr ∧
       InStream.init.issued = false ∧ st.cr + sImm w ≤ st.cc ∧ { st with cr := 1 }.cc < 1 + sImm w) ∧
    (wordAddr (tile0 []) (word [(0, 0, 13), (4, 0, 393208)]) 8 = some 393208 ∧ wordAddr (tile0 []) (word [(0, 0, 13), (4, 0, 393216)]) 8 = none ∧
      wordAddr (tile0 []) (word [(0, 0, 14), (4, 0, 393212)]) 4 = some 393212 ∧ wordAddr (tile0 []) (word [(0, 0, 14), (4, 0, 2)]) 4 = none) := by
  and_intros <;> decide +kernel

/-- A tile whose matrix engine 0 has written the scratchpad's first line, and no FENCE since. -/
def raceTile : Tile := { tile0 [] with order := { Order.init with nth := 1, log := [⟨0, 0, [(64, 64)], [(0, 64)], 0, .unit 0, none⟩] } }
/-- VFILL of one byte at line `a`. -/
def fillWord (a : Nat) : StepWord := word [(0, 0, 0x32), (4, 0, a), (0xA, 0, 1), (0xC, 0, 1)]
def fence0 : StepWord := word [(0, 0, 8), (1, 0, 1)]

/-- The ranges of the statement on the scratchpad, races and merging are not empty, and reach their ends. -/
theorem witness_ScratchpadAndMerging :
    (63 < 64 ∧ bit (2 ^ 63) 63 = true) ∧ 15 < 16 ∧ (60 % 4 = 0 ∧ 60 < 64) ∧
    (raceTile.races (fillWord 2) = false ∧ raceTile.races (fillWord 0) = true ∧ raceTile.races (fillWord 1) = true) ∧
    (raceTile.racing 1 (footOf raceTile (fillWord 0)) = [(0, 1)] ∧ raceTile.drawn 1 (footOf raceTile (fillWord 0)) = [] ∧
      (raceTile.drawn 1 (footOf raceTile (fillWord 1))).length = 1 ∧ (0 < accBase ∧ 0 + 1 ≤ 1)) ∧
    (sOp fence0 = 0x08 ∧ bit (sFA fence0) 0 = true) ∧
    (let t : Tags := dev0.tileTags 0 (tile0 [])
     dev0.sliceAt t.ast t.epoch 3145727 = some (0, 49151) ∧ (dev0.sgran (sliceKey 0 49151)).poison = false ∧
       3145727 % 64 + 1 ≤ 64 ∧ dev0.comp.swaps = [] ∧ (tile0 []).targets = []) := by
  and_intros <;> decide +kernel

/-- A FENCE on the engine ends the race (R75). -/
theorem test_fence_orders : (raceTile.settle 0 fence0 raceTile).races (fillWord 0) = false := by decide +kernel

/-- What an abort spoils: what the tile had sent, and what it had yet to send (R96). -/
theorem test_abort_targets :
    let x : Xout := { id := 0, desc := Desc.parse (line [(0, 0, 1), (1, 0, 1), (4, 0, 100)]) 0, spa := 0, mode := 0, total := 100
                      next := 36, segs := [], asking := false, drops := 0 }
    { tile0 [] with sent := [⟨1, 60, 5⟩], outs := [{ OutStream.init with xouts := [x] }] }.targets = [⟨1, 60, 5⟩, ⟨0, 36, 64⟩] := by
  decide +kernel

/-! ### Steps, transfers, faults, sweeps -/

/-- A transfer step in the queue. -/
def xin0 : XStep := { stop := false, inbound := true, stream := 0, mode := 0, win := 1, spa := 0, desc := 0, off := 0, ars := [], step := 0, nth := 0 }

theorem witness_TransferStepsIssue :
    (∀ op ∈ [0x0F, 0x10], sOp (word [(0, 0, op)]) = op) ∧
    (∀ m < 3, sOp (word [(0, 0, 0x11), (1, 4, m)]) = 0x11 ∧ sMode (word [(0, 0, 0x11), (1, 4, m)]) = m) ∧
    ((tile0 []).xq.length < 4 ∧ ¬(tile0 []).xq.length + 4 < 4) ∧
    (let t := { tile0 [] with xq := [xin0] }
     let d := (onCore0 .running t).onCore 0 id
     let e := d.setGran (granKey 0 0) (wr0 (line [(0, 0, 1), (1, 0, 1), (4, 0, 64)]))
     let x := line [(0, 0, 1), (1, 0, 1), (4, 0, 64)]
     e.worker 0 = some t ∧ xin0.rangeOk = true ∧ isRight (e.peeks (e.tileTags 0 t) 1 ((e.progVa t + xin0.desc) % 2 ^ 56)) = true ∧
       isRight (e.checkDesc t xin0 x 0) = true ∧ isRight (e.checkDesc t { xin0 with inbound := false } x 0) = true ∧
       (t.ins.getD 0 InStream.init).over = true ∧
       { InStream.init with desc := some (Desc.parse x 0), t := 1 }.over = false) := by
  and_intros <;> decide +kernel

/-- A matrix step on FP16 operands: M = 1, K = 32. -/
def mmaWord (a : Nat) : StepWord := word [(0, 0, 0x20), (2, 0, 0x11), (4, 0, a), (0xE, 0, 32)]
def accWord (op a : Nat) : StepWord := word [(0, 0, op), (4, 0, a)]

theorem witness_MatrixSteps :
    (sOp (mmaWord 0) = 0x20 ∧ Fmt.ofCode (sFmtA (mmaWord 0)) = some .fp16 ∧ Fmt.ofCode (sFmtB (mmaWord 0)) = some .fp16 ∧
      mmaRange (tile0 []) (mmaWord 0) .fp16 .fp16 = none ∧ (mmaRange { tile0 [] with ar := 393216 :: List.replicate 15 0 } (mmaWord 0) .fp16 .fp16).isSome = true) ∧
    (∀ op ∈ [0x21, 0x22, 0x23], sOp (accWord op 0) = op ∧ accRange (tile0 []) (accWord op 0) 4 = true ∧
      accRange { tile0 [] with ar := 393216 :: List.replicate 15 0 } (accWord op 0) 4 = false) ∧
    (Rnd.ofCode (sAccRnd (accWord 0x22 0))).isSome = true ∧ Fmt.ofCode (sFmtA (accWord 0x22 0)) = some .fp32 := by
  and_intros <;> decide +kernel

/-- A vector step of one group: D at line `d`, A at line `a`. -/
def vopWord (vop d a : Nat) : StepWord := word [(0, 0, 0x30), (1, 0, vop), (4, 0, d), (6, 0, a), (0xC, 0, 1)]

theorem witness_VectorLanes :
    (∀ v ∈ [0x00, 0x01, 0x02, 0x03, 0x04, 0x05, 0x06, 0x07, 0x0A, 0x10, 0x1A], sOp (vopWord v 0 4) = 0x30 ∧ sVop (vopWord v 0 4) = v) ∧
    (let w := vopWord 0 0 4
     badSpan [(opD (tile0 []) w, groupBytes (sN w) 32), (opA (tile0 []) w, groupBytes (sN w) 32)] = none) ∧
    (let t := { tile0 [] with ar := 392960 :: List.replicate 15 0 }
     let u := { tile0 [] with ar := 393024 :: List.replicate 15 0 }
     let w := vopWord 0 0 0
     badSpan [(opD t w, groupBytes (sN w) 32)] = none ∧ badSpan [(opD u w, groupBytes (sN w) 32)] = some 393024) := by
  and_intros <;> decide +kernel

theorem witness_VectorBlocks :
    (∀ v ∈ [0x08, 0x09, 0x0B, 0x0C, 0x0D, 0x0E, 0x0F, 0x3F], sOp (vopWord v 0 4) = 0x30 ∧ sVop (vopWord v 0 4) = v) ∧
    (let w := vopWord 8 0 4
     badSpan [(opD (tile0 []) w, 8 * sN w), (opA (tile0 []) w, groupBytes (sN w) 32), (opB (tile0 []) w, groupBytes (groupsB w) 32)] = none ∧
       spaOk 393152 4 = true ∧ spaOk 393216 4 = false) ∧
    (Fmt.ofCode (sFmtS (vopWord 0x0B 0 4))).isSome = true ∧ (Fmt.ofCode (sFmtD (vopWord 0x0B 0 4))).isSome = true := by
  and_intros <;> decide +kernel

/-- A data step over 2 rows of 2 bytes. -/
def dataWord (op tr d : Nat) : StepWord := word [(0, 0, op), (1, 2, tr), (4, 0, d), (0xA, 0, 2), (0xC, 0, 2)]

theorem witness_DataSteps :
    (∀ op ∈ [0x31, 0x32, 0x33, 0x34], sOp (dataWord op 0 0) = op) ∧ (sTr (dataWord 0x31 1 0) = true ∧ sTr (dataWord 0x31 0 0) = false) ∧
    (let t := tile0 []
     let w := dataWord 0x33 0 4
     badSpan [(opD t w, rowsSpan 2 2 1 2)] = none ∧ badSpan [(opD t w, rowsSpan 2 2 1 2), (opA t w, rowsSpan 2 2 1 2)] = none ∧
       badSpan [(opB t w, 8), (opD t w, 4), (opA t w, indexSpan (t.indices (opB t w) 2) 2 1 2)] = none ∧
       badSpan [(opB t w, 8), (opA t w, 4), (opD t w, indexSpan (t.indices (opB t w) 2) 2 1 2)] = none ∧
       badSpan [(393216, rowsSpan 2 2 1 2)] = some 393216 ∧ 2 * 1 ≤ pitchOr (sImm16 w) 2 1) := by
  and_intros <;> decide +kernel

/-- A tile with an inbound stream of 64 bytes at address 0, and an outbound one. -/
def desc0 : Desc := Desc.parse (line [(0, 0, 1), (1, 0, 1), (4, 0, 64)]) 0
def xferTile : Tile := { tile0 [] with
  ins := [{ InStream.init with issued := true, desc := some desc0, win := 1, total := 64, t := 1 }]
  outs := [{ OutStream.init with count := 1, xouts := [{ id := 0, desc := desc0, spa := 0, mode := 0, total := 64, next := 0, segs := [], asking := false, drops := 0 }] }] }
/-- An answer to a transfer engine's request. -/
def resp0 (acc : Acc) (st : Status) (inb : Bool) : Resp := { req := { req0 acc 0 0 with who := .engine 0 inb 0 0 0 64 }, status := st, data := 0 }
def withResp (d : Dev) (r : Resp) : Dev := d.onNet fun n => { n with resps := [r] }

theorem witness_EnginesTransfer :
    (let d := onCore0 .running xferTile
     let t := xferTile
     let i := t.ins.getD 0 InStream.init
     let o := t.outs.getD 0 OutStream.init
     d.worker 0 = some t ∧ d.redirectFor t 0 true 0 = none ∧ d.redirectFor t 0 false 0 = none ∧ i.desc = some desc0 ∧ desc0.kind = 0 ∧
       desc0.space = 0 ∧ i.stopped = false ∧ i.holds = [] ∧ i.next < i.total ∧ t.retained = false ∧
       i.next / chunkBytes < i.cr + i.win ∧ t.readsOut < min 2048 (d.get (ADM_CLASS_PARAM_A_ACT.READ_BUDGET t.own.cls)) ∧
       ((d.mapOf t.own.ast (d.epochAt (coreDp 0))).bind (·.route (desc0.addr (t.base + i.next) (desc0.j1 (t.base + i.next))))).isSome = true ∧
       o.holds = [] ∧ (∀ p ∈ o.pieces, p.again = false) ∧ t.seg = none ∧ (o.xouts.find? fun y => decide (y.next < y.total)) = o.xouts.head? ∧
       t.writesOut < min 1024 (d.get (ADM_CLASS_PARAM_A_ACT.WRITE_BUDGET t.own.cls))) ∧
    (let d := withResp (onCore0 .running xferTile) (resp0 .read .ok true)
     d.net.resps[0]? = some (resp0 .read .ok true) ∧ (resp0 .read .ok true).req.acc.writes = false ∧ (d.coreAt 0).tile = some xferTile ∧
       (xferTile.ins.getD 0 InStream.init).run = 0 ∧ (resp0 .write .ok false).req.acc.writes = true) ∧
    ((InStream.init).landed = [] ∧ 0 + 64 ≤ (xferTile.ins.getD 0 InStream.init).total) ∧
    (dev0.set (ADM_CLASS_PARAM_A_ACT.GUAR 7) 0).flag (ADM_CLASS_PARAM_A_ACT.GUAR 7) = false ∧
    (let d := ((dev0.set (ADM_CLASS_PARAM_A_ACT.GUAR 0) 1).set (ADM_CLASS_PARAM_A_ACT.TARGET 0) 0).onNet fun n => { n with reqs := [req0 .read 0 0] }
     d.net.reqs[0]? = some (req0 .read 0 0) ∧ d.flag (ADM_CLASS_PARAM_A_ACT.GUAR 0) = true ∧ (req0 .read 0 0).esc < 3 ∧
       d.get (ADM_CLASS_PARAM_A_ACT.TARGET 0) / 2 ≤ (req0 .read 0 0).age 0) := by
  and_intros <;> decide +kernel

theorem witness_HoldsEnd :
    (let i := { InStream.init with holds := [.soft 0 0], resume := some 3 }
     i.holds ≠ [] ∧ (∀ h ∈ i.holds, (h == Hold.soft 0 0) = true) ∧ i.resume = some 3 ∧ ∃ h ∈ i.holds, (h == Hold.blocked) = false) ∧
    (let o := { OutStream.init with holds := [.blocked], resume := some (0, 0), pieces := [{ xout := 0, pos := 0, len := 64, data := 0, addr := 0, acked := true, again := false }] }
     o.holds ≠ [] ∧ (∀ h ∈ o.holds, (h == Hold.blocked) = true) ∧ o.resume = some (0, 0) ∧ pointLt 0 0 0 0 = false ∧ pointLt 0 0 0 1 = true) ∧
    (∀ st ∈ [Status.soft 0 0, .retry, .blocked, .hard 0x0304, .poison, .fenced, .ok],
      (withResp (onCore0 .running xferTile) (resp0 .read st true)).net.resps[0]? = some (resp0 .read st true)) ∧
    (let p : Pend := { ast := 0, page := 0, count := 1, pull := none, reported := false, waiting := [] }
     (Tbl.find (Dev.stack (dev0.onStack 0 fun t => { t with pend := [(0, p)] }) 0).pend 0).isSome = true) ∧
    ((Tbl.find (dev0.onCtx 1 fun c => { c with blocked := true }).hif.ctxs 1).map (·.blocked) = some true) ∧
    (∀ n ∈ [Note.presence 0 0, .gone 0 0, .reset 0, .unblock 1], (dev0.onNet fun x => { x with notes := [n] }).net.notes[0]? = some n) ∧
    ({ xferTile with stallTicks := 625 }.stallTicks ≥ 625 ∧ (∃ t : Tile, t.own.replay = true ∧ t.replays < 3) ∧ xferTile.own.replay = false) ∧
    ((dev0.onLink 7 fun l => { l with pri := [(5, req0 .read 0 0)] }).link 7).pri = [(5, req0 .read 0 0)] := by
  refine ⟨by decide +kernel, by decide +kernel, by decide +kernel, by decide +kernel, by decide +kernel, by decide +kernel,
    ⟨by decide +kernel, ⟨{ xferTile with own := { xferTile.own with replay := true } }, by decide +kernel⟩, by decide +kernel⟩, by decide +kernel⟩

/-- A fault record of context 1 in a page, for function 1's ring. -/
def fault0 (page : Nat) : FaultRec :=
  { va := 65536 * page, count := 1, ctx := 1, ast := 0, dom := 0, fcode := 0x02, unit := 0, acc := 0, soft := false, pull := false, held := false
    blocked := false, stream := 0, epoch := 0, src := 0, queue := 0, slot := 0, ring := some 1, device := false }
def msg0 : FaultMsg := { fr := fault0 9, req := some (req0 .read 0 0), status := .hard 0x0302 }
/-- A record at the collector, others held, the ring enabled or not. -/
def faulting (held : List FaultRec) (en : Bool) : Dev :=
  ((dev0.onFn 1 fun f => { f with frEn := en }).onNet fun n => { n with faults := [msg0] }).onHif fun h => { h with hold := held }
/-- An asterism's share, used up: 68 records of other pages. -/
def share0 : List FaultRec := (List.range 68).map fun i => { fault0 (100 + i) with held := true }

theorem witness_FaultsAreCollected :
    ((∀ m ∈ dev0.net.faults, dev0.takes m = false) ∧ (faulting [] true).net.faults = [msg0] ∧ msg0.fr.ring = some 1 ∧
      (faulting [] true).discards msg0.fr = false ∧ ctx1.flagNext = false) ∧
    (((faulting [] true).fn 1).room = true ∧ ((faulting [] false).fn 1).room = false) ∧
    ((faulting [fault0 9] false).hif.hold = [fault0 9] ∧ msg0.fr.merges (fault0 9) = true ∧ msg0.fr.merges (fault0 8) = false) ∧
    (canHold [] msg0.fr = true ∧ canHold share0 msg0.fr = false ∧ (∀ x ∈ share0, msg0.fr.merges x = false) ∧ msg0.fr.acc ≠ 5 ∧ msg0.fr.acc ≠ 6) ∧
    (MayWrite dev0 4 HIF_FAULTQ_SIZE.off ∧ MayWrite dev0 4 HIF_FAULTQ_BASE.off ∧ dev0.hif.hold = []) ∧
    (let d := (faulting [fault0 9] true).onFn 1 fun f => { f with frTail := 64 }
     (d.fn 1).room = false ∧ (d.fn 1).frEn = true ∧ (1 + 2 ^ 32 - (d.fn 1).frHead) % 2 ^ 32 ≤ ((d.fn 1).frTail + 2 ^ 32 - (d.fn 1).frHead) % 2 ^ 32 ∧
       ((d.fn 1).frTail + 2 ^ 32 - 1 % 2 ^ 32) % 2 ^ 32 < 2 ^ (d.fn 1).frLog2n ∧
       ((d.fn 1).frTail + 2 ^ 32 - (d.fn 1).frHead) % 2 ^ 32 < (65 + 2 ^ 32 - (d.fn 1).frHead) % 2 ^ 32) := by
  unfold MayWrite; and_intros <;> decide +kernel

/-- A sweep of one head over one block, its list at 0x1000. -/
def job0 : SweepJob := { dev0.sweepJob (head0 sweepSlot) 0 with parts := [{ SweepPart.init 0 with active := true, rows := blankRows sweepSlot }] }
def withJob (d : Dev) (j : SweepJob) : Dev := { d with sweeps := [(0, j)] }
/-- The list's entry: block at page address 0; one bit above the address is an error. -/
def listDev (entry : Nat) : Dev := dev0.setGran (granKey 0 64) (wr0 (BitVec.ofNat 512 entry))

theorem witness_SweepsRun :
    (let d := withJob dev0 job0
     Tbl.find d.sweeps 0 = some job0 ∧ d.activeJobs 0 < 4 ∧ d.waitsBefore 0 0 = false) ∧
    (job0.phase = .granting ∧ wCount job0.slot ≠ 0 ∧ job0.queried = false ∧
      isRight (Dev.readQuery (dev0.setGran (granKey 0 128) (wr0 0)) (dev0.sweepTags job0) job0.slot) = true) ∧
    (let j := { job0 with queried := true }
     let d := withJob ({ listDev 0 with pwr := { dev0.pwr with sweepLeave := [(0, (0, none))] } }) j
     isRight (d.peekBytes (d.sweepTags j) (wList j.slot + 8 * (j.head * wNblk j.slot + j.blk)) 8) = true ∧
       ((d.mapOf j.tags.ast (d.epochAt j.home)).bind (·.route 0)).isSome = true ∧ (j.part (chanStack 0)).isSome = true ∧
       (Tbl.find d.pwr.sweepLeave (chanStack 0)).isSome = true ∧ wHeads j.slot = 1 ∧ { j with blk := 0 }.advance.head = 1) ∧
    (let p := { SweepPart.init 0 with active := true, queue := [⟨0, 0, 0, 0, none⟩] }
     let j := { job0 with queried := true, parts := [p] }
     let d := (withJob dev0 j).onStack 0 fun t => { t with cache := [(0, page0)] }
     j.part 0 = some p ∧ (d.stack 0).ingress = true ∧ (p.stream.find? p.staged) = none ∧ takeFirst (Grant.ready 0) p.aside = none ∧
       p.heldBlocks < 65536 ∧ isRight (match d.atSlot 0 (d.sweepReq 0 0 j (.sweep 0 0) .sweepRead 0 0) with | .inl x => Sum.inr (α := Nat) x | .inr c => .inl c.1) = true ∧
       entryAt (d.stack 0).cache 0 0 = some (0, page0) ∧ d.compatBad j.slot page0 = false) ∧
    (let j := { job0 with phase := .merging, parts := job0.parts.map fun p => { p with maxSent := true } }
     let d := (withJob dev0 j).onNet fun n => { n with notes := [.maxima 0 0] }
     d.net.notes[0]? = some (.maxima 0 0) ∧ (d.dropNote 0).allMaxima 0 j = true ∧ ((j.parts.map fun p => stackDp p.stack).dedup).length ≤ 2 ∧
       (Tbl.look [] d.net.merges j.home).length < 2) ∧
    (∀ n ∈ [Note.mm 0 0, .merge 0 0], (dev0.onNet fun x => { x with notes := [n] }).net.notes[0]? = some n) ∧
    ((job0.part 0).isSome = true ∧ job0.merged.length < job0.parts.length ∧ job0.parts.all (·.idle) = true ∧
      625 ≤ { job0 with stallTicks := 625 }.stallTicks ∧ job0.voided = false ∧ job0.stallTicks < 625) := by
  and_intros <;> decide +kernel

/-! ### Links, partners, interconnect, power -/

/-- A pull of page 0 of stack 0, or another transaction, issued at the time 0; pool 0 is live. -/
def poolDev (w : PoolFor) : Dev :=
  let p : Pend := { ast := 0, page := 0, count := 1, pull := some [0, 1], reported := false, waiting := [] }
  let d := (hostPool dev0).onStack 0 fun t => { t with pend := [(0, p)] }
  { d with cxl := { d.cxl with pool := [{ why := w, stack := 0, pidx := 0, addr := 0, at_ := some 0, data := [] }] } }

/-- Link k of a port has these fields. -/
def linkDev (d : Dev) (k : Nat) (l : Link) : Dev := { d with cxl := { d.cxl with links := [(k, l)] } }
def up16 : Link := { Link.reset with state := 1, width := 16, lanes := 16, rate := 5 }

/-- The window of virtual function 1 of port 0 is open to asterism 0 at address 0. -/
def winDev : Dev := ((linkDev (attached0 .active []) 0 up16).set (CXP_HDM_MAP.VF 0 31) 1).set (CXP_VF_WIN.EN 0 0) 1

/-- A back-invalidation awaited since the time 0. -/
def bi0 : BiReq := { stack := 0, gran := 7, fn := 1, at_ := 0 }

theorem witness_PoolsAndWindows :
    (dev0.poolAt 0 = none ∧ ∃ r, (poolDev (.pull 0 1)).poolAt 0 = some r ∧ r.why = .pull 0 1 ∧ r.at_.getD 0 = 0 ∧
      ((poolDev (.pull 0 1)).partner (poolEntry r.pidx)).timeouts < 3 ∧
      (∃ en l off, (poolDev (.pull 0 1)).unitGrans r.stack 0 1 = some (en, l, off) ∧ (poolDev (.pull 0 1)).trackedIn r.stack
        (granKey ((poolDev (.pull 0 1)).physChan l) (granOf off)) (granKey ((poolDev (.pull 0 1)).physChan l) (granOf off) + 4)
          = false)) ∧
    (dev0.windowVa 1 0 = none ∧ ∃ a va, winDev.windowVa 1 64 = some (a, va) ∧ (winDev.fn 1).ast = some a ∧
      winDev.windowOpen (winDev.windowReq 0 1 a (va / 64 * 64) .read 0 0) = true ∧
      winDev.windowOpen (winDev.windowReq 0 1 a (va / 64 * 64) (writeAcc 0 (2 ^ 64 - 1)) 5 (2 ^ 64 - 1)) = true) ∧
    (({ dev0 with cxl := { dev0.cxl with bi := [bi0] } } : Dev).cxl.bi[0]? = some bi0 ∧ 9999999 < bi0.at_ + 10000000) ∧
    (∀ p ∈ [0, 3], ∀ n ∈ [0, 31], ∀ v ∈ [(0 : Nat), 64, 192], MayWrite dev0 4 (CXP_HDM_MAP.off p n) ∧ p < 4 ∧ n < 32 ∧
      bits v 0 7 ≤ 64 ∧ (dev0.fn (fnOf p (bits v 7 1 == 1) (bits v 0 7))).tdi = .unlocked ∧
      (dev0.fn (fnOf p (dev0.get (CXP_HDM_MAP.HALF p n) == 1) (dev0.get (CXP_HDM_MAP.VF p n)))).tdi = .unlocked ∧
      dev0.get (CXP_HDM_MAP.VF p 5) = 0) ∧
    ((dev0.onFn (fnOf 3 true 64) fun f => { f with tdi := .locked }).fn (fnOf 3 (bits 192 7 1 == 1) (bits 192 0 7))).tdi = .locked := by
  refine ⟨⟨by decide +kernel, ⟨_, rfl, by decide +kernel, by decide +kernel, by decide +kernel, ⟨page0, 0, 256, by decide +kernel, by decide +kernel⟩⟩⟩,
    ⟨by decide +kernel, ⟨0, 64, by decide +kernel⟩⟩, by decide +kernel, ?_, by decide +kernel⟩
  unfold MayWrite; decide +kernel

/-- A request of asterism 0 that waits for page 0 of the host behind link 0. -/
def hostReq : Req := { req0 .read 0 0 with dest := .host 0 64 }

theorem witness_LinksChange :
    (∀ k ∈ [linkNo 0 false, linkNo 3 true], ((linkDev dev0 k up16).wakePkg 5).link k = up16 ∧ up16.state ≠ 0 ∧
      ((dev0.wakePkg 5).link k).state = 0 ∧ (dev0.link k).state = 0) ∧
    (∀ st ∈ [0, 1, 2], ∀ port < 4, (((linkDev dev0 (linkNo port false) { up16 with state := st }).wakePkg 5).link
      (linkNo port false)).state = st ∧ (dev0.wakePkg 5).flag (CXP_CTRL.SPLIT port) = false) ∧
    (let p : Partner := { Partner.reset with state := .live, port := 3, half := true }
     let d := { dev0 with cxl := { dev0.cxl with partners := [(32, p)] } }
     Tbl.find (d.wakePkg 5).cxl.partners 32 = some p ∧ p.port < 4 ∧ p.link = linkNo 3 true ∧ p.state = .live) ∧
    (∀ port < 4, ∀ e ∈ [(16, 2), (8, 5)], let d := (dev0.set MGT_LOCKDOWN.LOCK 1).set (CXP_CTRL.MAXRATE port) 5
      (d.wakePkg 5).flag MGT_LOCKDOWN.LOCK = true ∧ (d.wakePkg 5).trains port e.1 e.2 = true ∧
        (d.wakePkg 5).mod.perst.getD port false = true ∧ ((d.set (CXP_CTRL.SPLIT port) 1).wakePkg 5).flag (CXP_CTRL.SPLIT port) = true) ∧
    (dev0.wakePkg 5).flag MGT_LOCKDOWN.LOCK = false ∧
    (let d := (linkDev dev0 0 up16).set (CXP_CTRL.L0P_EN 0) 1
     d.flag (CXP_CTRL.L0P_EN 0) = true ∧ (d.link 0).l0p = false ∧ (d.link 0).state ≠ 0 ∧ d.narrowest 0 = some 2 ∧
       (d.set (CXP_CTRL.L0P_EN 0) 0).flag (CXP_CTRL.L0P_EN 0) = false ∧ d.narrowOk 0 8 = true ∧ d.narrowOk 0 16 = false) ∧
    (dev0.net.reqs = [] ∧ hostReq ∈ (dev0.onNet fun n => { n with reqs := [hostReq] }).net.reqs ∧ hostReq.dest = .host 0 64) := by
  and_intros <;> decide +kernel

/-- Partner entry x in a state since the time 0. -/
def partnerDev (x : Nat) (st : PState) : Dev :=
  { dev0 with cxl := { dev0.cxl with partners := [(x, { Partner.reset with state := st })] } }

theorem witness_PartnersLive :
    (∀ x ∈ [0, 31, 32, 47], ((dev0.wakePkg 3).freePartners.partner x).state = .free ∧
      (((partnerDev x .live).wakePkg 3).freePartners.partner x).state = .live ∧ bits 0 2 2 ≠ 3 ∧
      ((partnerDev x .suspect).partner x).state = .suspect ∧ ((partnerDev x .suspect).partner x).failAt + 1000000000 ≤ 1000000000 ∧
      ((partnerDev x .suspect).link ((partnerDev x .suspect).partner x).link).state = 0 ∧
      ((partnerDev x .suspect).link ((partnerDev x .suspect).partner x).link).downAt + 100000000 ≤ 100000000) ∧
    (∀ x ∈ [32, 47], let o := { obj0 with poolb := true, pidx := x - 32 }
      let d := ((partnerDev x .live).onHif fun h => { h with objs := [(2, o)] })
      let e := { d with stk := [] }
      ((e.wakePkg 3).partner x).live = true ∧ (e.wakePkg 3).stk = [] ∧ (e.wakePkg 3).sweeps = [] ∧ (e.wakePkg 3).cxl.pool = [] ∧
        Tbl.find (e.wakePkg 3).hif.objs 2 = some o) ∧
    (∀ x ∈ [0, 31], ((dev0.wakePkg 5).freePartners.partner x).state = .free) := by
  and_intros <;> decide +kernel

/-- A request at granule 0 of slice 0, and the slice's granule. -/
def sliceReq (acc : Acc) : Req := { req0 acc 0 0 with dest := .slice 0 0, data := 1, mask := 1 }
def sliceDev (acc : Acc) (poison : Bool) : Dev :=
  { dev0.onNet fun n => { n with reqs := [sliceReq acc] } with slice := [(0, ⟨7, poison⟩)] }
/-- Bridges of which some are down. -/
def bridgeDev (l : Tbl Bridge) : Dev := dev0.onNet fun n => { n with bridges := l }
/-- An add on its way to the crossbar of die pair 0. -/
def addReq : Req := { sliceReq .add with hop := some 0 }
/-- The reduction store of die pair 0 holds an entry. -/
def redDev (sent : Bool) : Dev := dev0.onNet fun n => { n with
  reqs := [addReq], red := [(0, [{ id := 3, req := addReq, parts := [addReq], at_ := 0, sent := sent }])] }

theorem witness_InterconnectServes :
    (∀ acc ∈ [Acc.read, .write, .masked, .add, .fetchAdd], ∀ p, let d := sliceDev acc p
      d.net.reqs[0]? = some (sliceReq acc) ∧ (sliceReq acc).hop = none ∧ d.sliceFirst 0 0 0 = true ∧
        d.sliceBound (sliceReq acc).tags 0 = true ∧ d.sliceBound (sliceReq acc).tags 1 = false ∧
        (d.sgran (sliceKey 0 0)).poison = p) ∧
    (∀ k ∈ [0, 543], sliceNo k ∈ (dev0.onComp fun c => { c with scrubbing := [sliceNo k] }).comp.scrubbing) ∧
    (∀ b ∈ [0, 9], let two := fun (n : Nat) => (bridgeDev [(b, { Bridge.reset with sparesUp := 2, lanesUp := n })]).bridge b
      (dev0.bridge b).down = false ∧ (dev0.bridge b).sparesUp < 2 ∧ 2 ≤ (two 17).sparesUp ∧ 16 < (two 17).lanesUp ∧
        (two 16).lanesUp ≤ 16 ∧ (two 16).down = false ∧ (∀ k < 10, k ≠ b → (dev0.bridge k).down = false) ∧ dev0.ras.resets = []) ∧
    (((bridgeDev [(4, { Bridge.reset with down := true })]).bridge 4).down = true ∧
      ((bridgeDev [(4, { Bridge.reset with down := true })]).bridge 5).down = false) ∧
    ((redDev false).net.reqs[0]? = some addReq ∧ addReq.hop = some 0 ∧ (redDev false).narrow 0 0 = true ∧ dev0.narrow 1 0 = false ∧
      ((redDev false).redOf 0).length < 3584 ∧ ((redDev true).redOf 0).find? (fun y => !y.sent && y.req.sameStore addReq &&
        decide (y.parts.length < 64)) = none ∧
      (((redDev false).redOf 0).find? fun y => !y.sent && y.req.sameStore addReq && decide (y.parts.length < 64)).isSome = true ∧
      (((redDev false).redOf 0).find? fun x => x.id == 3 && !x.sent).isSome = true ∧ 0 + 1000 ≤ 1000) ∧
    (let d := (redDev true).onNet fun n => { n with resps := [⟨{ addReq with who := .reducer 0 3 }, .ok, 0⟩] }
     indexWhere (fun r : Resp => r.req.who == .reducer 0 3 && r.status == .ok) d.net.resps = some 0 ∧
       ((d.redOf 0).find? fun x => x.id == 3).isSome = true) ∧
    ((2, 7) ∉ dev0.net.broken ∧ ringCut [7] = none ∧ (ringCut [6, 7]).isSome = true) := by
  and_intros <;> decide +kernel

/-- Barrier 0 of queue 0 with command 0 under it. -/
def bar0 : Barrier := { id := 0, cmd := 9, ast := 0, ctx := 1, queue := 0, home := 0, toSend := [], waitArr := [], left := 0, waves := []
                        delta := 0, planned := false, sent := 0, lastAt := 0, unacked := [], span := 1 }
def barDev (b : Barrier) (l : List Note) : Dev := dev0.onNet fun n => { n with barriers := [b], notes := l }
/-- With a command under it that has a tile to start, and its energy measured. -/
def barGroup (mj : Nat) : Dev :=
  (withCmd (barDev bar0 []) { cmd0 tileSlot with
    barrier := some 0, tiles := 1, phase := .running, hdr := line [(3, 0, 1), (4, 0, 2700), (6, 0, 8)] }).set
    PWR_BUFFER_ENERGY.ENERGY mj |>.set PWR_INPUT.VIN 5420 |>.set (PWR_OPP_TABLE.VSET 0) 600 |>.set (PWR_OPP_TABLE.VSET 7) 800

theorem witness_BarriersRelease :
    (let counts := [2, 1, 0, 0, 0, 0, 0, 0]
     let per := List.replicate 8 1
     counts.length = per.length ∧ (∀ p ∈ per, 0 < p) ∧ 7 < counts.length) ∧
    ((barDev { bar0 with waitArr := [7] } [.arrival 0 7]).net.notes[0]? = some (.arrival 0 7) ∧
      (barDev { bar0 with waitArr := [7] } []).barrier 0 = some { bar0 with waitArr := [7] }) ∧
    (bar0.planned = false ∧ bar0.ready = true ∧ { bar0 with left := 1 }.ready = false ∧
      (diePairs.map fun dp => (barDev bar0 []).groupOn bar0 dp).all (·.isEmpty) = true) ∧
    (let groups := fun (d : Dev) => diePairs.map fun dp => d.groupOn bar0 dp
     let sum := fun (d : Dev) => (groups d).foldl (fun n l => n + l.foldl (· + ·) 0) 0
     (groups (barGroup 24000)).all (·.isEmpty) = false ∧ sum (barGroup 24000) ≠ 0 ∧
       (barGroup 24000).capTest (sum (barGroup 24000)) = true ∧ (barGroup 24000).bufferTest (sum (barGroup 24000)) = true ∧
       (barGroup 0).bufferTest (sum (barGroup 0)) = false) ∧
    (let b := { bar0 with planned := true, waves := [[1, 0, 0, 0, 0, 0, 0, 1]] }
     b.planned = true ∧ b.sent < b.waves.length ∧ b.sent = 0 ∧ b.waves.length ≤ { b with sent := 1 }.sent ∧
       0 < { b with sent := 1, delta := 100 }.sent ∧ 99 < { b with sent := 1, delta := 100 }.lastAt + 100) ∧
    ((barDev bar0 [.release 0 0 7]).net.notes[0]? = some (.release 0 0 7) ∧ (0, 0, 7) ∉ (barDev bar0 []).net.acted ∧
      (0, 0, 7) ∈ ((barDev bar0 []).onNet fun n => { n with acted := [(0, 0, 7)] }).net.acted) ∧
    (∀ n ∈ [1, 2], let b := { bar0 with planned := true, sent := 1, waves := [[1, 0, 0, 0, 0, 0, 0, 1]], unacked := [⟨0, 7, 0, 3⟩, ⟨0, 0, 0, 2⟩].take n }
      (barDev b [.releaseAck 0 0 7]).net.notes[0]? = some (.releaseAck 0 0 7) ∧
        ((b.unacked.filter fun u => !(u.wave == 0 && u.dp == 7)) = [] ↔ n = 1) ∧
        (b.unacked.find? fun u => u.dp == 7 && decide (u.at_ + 2000 ≤ 2000)) = some ⟨0, 7, 0, 3⟩) ∧
    ((barDev bar0 [.flag 0 3]).net.notes[0]? = some (.flag 0 3) ∧
      (let d := (withCmd (evDev (ev0 5 false)) { cmd0 (evSlot 5 0 5) with phase := .parked })
       Tbl.find d.hif.events 3 = some (ev0 5 false) ∧ d.wokenBy 0 3 = [0])) := by
  and_intros <;> decide +kernel

/-- A leave request that the cap and the buffer allow. -/
def leave0 (w : LeaveFor) : LeaveReq := { why := w, dp := 0, ctx := 1, p := 1000, committed := false }
def leaveDev (w : LeaveFor) : Dev := { buf0 with pwr := { buf0.pwr with reqs := [leave0 w] } }

theorem witness_LeaveIsGranted :
    (∀ w ∈ [LeaveFor.tile 0 0, .sweep 0 31, .barrier 0], let d := leaveDev w
      d.pwr.reqs[0]? = some (leave0 w) ∧ d.leavePasses (leave0 w) = true ∧
        (∀ x ∈ d.pwr.reqs, d.leaveFirst x (leave0 w) = true → d.leavePasses x = false) ∧
        diePairs.foldl (fun n p => n + d.unmet p) 0 ≠ 0) ∧
    (dev0.get PWR_BUFFER_ENERGY.ENERGY < dev0.get PWR_BUFFER_ENERGY.RESERVE * 1000 ∧
      diePairs.foldl (fun n p => n + dev0.unmet p) 0 = 0) ∧
    (dev0.boundOn 7 = [] ∧ dev0.boundOn 0 = [0] ∧ (dev0.onComp fun c => { c with
      asts := c.asts ++ [(1, { Ast.reset with state := .active, cur := some { map0 with cores := [1] } })] }).boundOn 0 = [0, 1]) ∧
    (0 < dev0.get PWR_BUFFER_ENERGY.RESERVE) := by
  and_intros <;> decide +kernel

/-- Input power and cap. -/
def capDev (pin cap : Nat) : Dev := (dev0.set PWR_INPUT.PIN pin).set PWR_CAP.CAP_W cap
/-- Die pair 0 at a point, with these points powered. -/
def pointDev (op : Nat) (t : Option Nat) : Dev :=
  ((dev0.set PWR_CTRL.OPMAX 7).set PWR_CTRL.TJ_THROTTLE 95).onPmu 0 fun p => { p with op := op, raiseAt := t }

theorem witness_CapsAndPoints :
    (∀ w ∈ [1000, 7500], let m := mgt0 (line [(0, 0, 0x89), (0x10, 0, w)]) []
      Turn (withMgt dev0 m) 7 0x89 m ∧ fld m.slot 0x10 0 13 = w ∧ allZero m.slot [(0x10, 13, 19), (0x14, 0, 352)] = true) ∧
    (∀ w ∈ [999, 7501], let m := mgt0 (line [(0, 0, 0x89), (0x10, 0, w)]) []
      Turn (withMgt dev0 m) 7 0x89 m ∧ fld m.slot 0x10 0 13 = w) ∧
    ({ dev0 with pwr := { dev0.pwr with capBelowAt := some 0 } } : Dev).pwr.capBelowAt = some 0 ∧ dev0.pwr.capBelowAt = none ∧
    ((2 * (capDev 5001 5000).get PWR_CAP.CAP_W < 2 * (capDev 5001 5000).get PWR_INPUT.PIN + (capDev 5001 5000).get PWR_CAP.MARGIN_W) ∧
      (capDev 0 5000).get PWR_INPUT.PIN + 2 * (capDev 0 5000).get PWR_CAP.MARGIN_W < (capDev 0 5000).get PWR_CAP.CAP_W ∧
      (∀ p < 8, ((capDev 0 5000).pmu p).held ≤ 16) ∧ dev0.pwr.capAt + 1000000 ≤ 1000000 ∧ dev0.pwr.rotateAt + 100000 ≤ 100000) ∧
    (let d := pointDev 0 (some 0)
     d.opAbove 0 = some 1 ∧ (d.pmu 0).raiseAt = some 0 ∧ (d.pmu 0).pwr = .run ∧ (d.pmu 0).goal = none ∧ (d.pmu 0).throttling = false ∧
       (d.pmu 0).limited = false ∧ (d.pmu 0).lowUntil ≤ 1000000 ∧ 1 ≤ d.get PWR_CTRL.OPMAX) ∧
    (let d := pointDev 7 none
     d.opBelow 0 = some 6 ∧ (d.pmu 0).goal = none ∧ d.get PWR_CTRL.TJ_THROTTLE ≤ 95 ∧ (d.pmu 0).lowerAt ≤ 0 ∧ 92 + 3 ≤ d.get PWR_CTRL.TJ_THROTTLE ∧
       (d.pmu 0).limited = false ∧ ((d.onPmu 0 fun p => { p with limited := true }).pmu 0).limited = true) ∧
    ((dev0.onPmu 0 fun p => { p with goal := some (3, 40000) }).pmu 0).goal = some (3, 40000) ∧
    (0 < (dev0.pmu 0).stretchAt + 1000000 ∧ (dev0.pmu 0).stretches < 256 ∧ (dev0.pmu 0).lowUntil ≤ 0) := by
  unfold Turn; and_intros <;> decide +kernel

/-- An entry runs: blocks that have not accepted. -/
def entry0 (req : Nat) (l : List (Nat × Nat × Option Nat)) : Entry := { req := req, dpmask := 0x80, at_ := 0, wait := l }
def entryDev (e : Entry) : Dev := { dev0 with comp := Comp.reset, pwr := { dev0.pwr with entry := some e } }

theorem witness_PowerStatesChange :
    (MayWrite dev0 4 PWR_STATE_REQ.off ∧ dev0.pwr.entry = none ∧ dev0.mod.tripLatch = false ∧ 0x80 % 256 ≠ 0) ∧
    (∀ p ∈ [1, 7], (dev0.pmu p).pwr = .run ∧ dev0.pwr.pkg = .run ∧ dev0.unbound p = true ∧ dev0.unbound 0 = false ∧
      ((dev0.onPmu p fun x => { x with unboundAt := some 0 }).pmu p).unboundAt = some 0) ∧
    (∀ req ∈ [2, 3, 4], let en := entry0 req [(5, 0, none), (6, 0, some 1000)]
      let one := entry0 req [(5, 9000, none)]
      (entryDev en).pwr.entry = some en ∧ (en.wait.find? fun w => w.1 == 5 && w.2.2.isNone) = some (5, 0, none) ∧
        (entryDev en).refuseWhy en = 0 ∧ (en.wait.filter (·.1 != 5)) ≠ [] ∧
        (one.wait.find? fun w => w.1 == 5 && w.2.2.isNone) = some (5, 9000, none) ∧ one.wait.filter (·.1 != 5) = [] ∧
        9000 + 1000 ≤ 10000 ∧ 10000 < 9000 + 1001 ∧ one.req = req) ∧
    (let en := { entry0 2 [(5, 0, none)] with dpmask := 1 }
     (en.wait.find? fun w => w.1 == 5 && w.2.2.isNone) = some (5, 0, none) ∧ dev0.refuseWhy en = 1) ∧
    (let d := ({ dev0 with pwr := { dev0.pwr with pkg := .deepNight } } : Dev).set PWR_WAKE_TIMER.TICKS 1
     d.pwr.pkg = .deepNight ∧ d.get PWR_WAKE_TIMER.TICKS ≠ 0 ∧ d.ticks < d.get PWR_WAKE_TIMER.TICKS ∧
       d.get PWR_WAKE_TIMER.TICKS ≤ (d.set CLK_WATCH_COUNT.TICKS 1).ticks) ∧
    (dev0.pwr.rangeRec = false ∧ ({ dev0 with mod := { dev0.mod with inputOn := false } } : Dev).mod.inputOn = false ∧
      dev0.mod.inputOn = true ∧ ({ dev0 with pwr := { dev0.pwr with pkg := .dark } } : Dev).pwr.pkg = .dark) := by
  unfold MayWrite; and_intros <;> decide +kernel

/-- A record on its way to firmware. -/
def err0 (notice : Bool) : ErrRec := { code := 0x0101, unit := 0, sub := 0, sev := if notice then 4 else 1, crit := false, notice := notice, astv := false
                                       flash := false, phase := false, ast := 0, ctx := 0, seq := 0, ticks := 0, detail := [] }
def errDev (l : List ErrRec) (en : Nat) : Dev :=
  ({ dev0 with ras := { dev0.ras with box := l } } : Dev).set RAS_ERRQ_BASE.EN en

theorem witness_ErrorsAreReported :
    (dev0.ras.box = [] ∧ dev0.ras.notices = [] ∧ dev0.ras.overflow = false) ∧
    (∀ n, let d := errDev [err0 n] 1
      let size := 2 ^ d.get RAS_ERRQ_SIZE.LOG2N
      d.ras.box = [err0 n] ∧ d.flag RAS_ERRQ_BASE.EN = true ∧ 0 < size - d.get RAS_ERRQ_SIZE.RESV ∧
        d.get RAS_ERRQ_TAIL.TAIL = 0 ∧ d.get RAS_ERRQ_HEAD.HEAD = 0 ∧
        (d.set RAS_ERRQ_TAIL.TAIL size).get RAS_ERRQ_TAIL.TAIL = size ∧
        (errDev [err0 n] 0).flag RAS_ERRQ_BASE.EN = false ∧ d.ras.heldBoot.length < 256 ∧ d.ras.notices.length < 256) ∧
    (err0 true).noticed = true ∧
    (let n : Notice := { seq := 0, err := none, extra := [], at_ := 0 }
     255 ≤ (List.replicate 255 n).length ∧ n.at_ + 1000000000 ≤ 1000000000 ∧ (List.replicate 254 n).length < 255) ∧
    (MayWrite dev0 4 RAS_ERRQ_HEAD.off ∧ (let d := dev0.set RAS_ERRQ_TAIL.TAIL 1
      (1 + 2 ^ 32 - d.get RAS_ERRQ_HEAD.HEAD) % 2 ^ 32 ≤ (d.get RAS_ERRQ_TAIL.TAIL + 2 ^ 32 - d.get RAS_ERRQ_HEAD.HEAD) % 2 ^ 32)) ∧
    (MayWrite dev0 4 RAS_ERRQ_BASE.off ∧ dev0.flag RAS_ERRQ_BASE.EN = false ∧ bit (1 : Nat) 0 = true) := by
  unfold MayWrite; and_intros <;> decide +kernel

/-! ### Resets, the Almanac, security, boot, the module, registers -/

/-- Queue 0's context holds the unit that a command of queue 0 waits for. -/
def deadDev : Dev := withCmd (evDev { ev0 0 true with holders := [1] }) { cmd0 (evSlot 6 0 0) with phase := .parked }
def resetting (l : List ResetRun) : Dev := { dev0 with ras := { dev0.ras with resets := l } }
/-- Boot is over. -/
def booted : Dev := { dev0 with fw := { Fw.reset with bootStep := 12 } }

theorem witness_ResetsRun :
    ((dev0.set RAS_HANG_CTRL.EN 0).flag RAS_HANG_CTRL.EN = false ∧ (dev0.set RAS_HANG_CTRL.EN 1).flag RAS_HANG_CTRL.EN = true ∧
      dev0.deadSets 0 = []) ∧
    (let d := deadDev
     let now := d.get RAS_HANG_CTRL.PERIOD_MS * 1000000
     d.deadSets now = [[0]] ∧ ((latestOf (d.parked now) [0]).map (·.id)) = some 0 ∧ [0] ∉ d.ras.sets ∧
       (∀ a < 2, (d.set RAS_HANG_CTRL.ACTION a).flag RAS_HANG_CTRL.ACTION = (a == 1))) ∧
    (∀ e ∈ [(2, 31), (3, 7), (4, 0)], (resetting [⟨e.1, e.2, 0, 0, 0⟩]).resetOf e.1 e.2 = some ⟨e.1, e.2, 0, 0, 0⟩ ∧
      dev0.resetOf e.1 e.2 = none) ∧
    ((dev0.ast 0).state.hosts = true ∧ ((astIn dev0 .composing).ast 0).state.hosts = false ∧
      ((astIn dev0 .composing).ast 0).state ≠ .resetting ∧ (∃ p ∈ (publDev publ0).comp.waiting, p.ast = 0) ∧
      (∀ p ∈ dev0.comp.waiting, p.ast ≠ 0)) ∧
    (booted.mayReset = true ∧ booted.ras.resets = [] ∧ dev0.mayReset = false) ∧
    ((resetting [⟨5, 0, 0, 0, 4⟩]).ras.resets.find? (fun r => r.level == 5) = some ⟨5, 0, 0, 0, 4⟩ ∧
      (resetting []).ras.powerCycle = false) ∧
    (MayWrite dev0 4 RAS_RESET_CTRL.off ∧ MayWrite dev0 4 RAS_DUMP_BASE.off ∧ dev0.flag RAS_DUMP_BASE.VALID = false ∧
      (∀ e ∈ [(2, 4 * 8192), (2, 4 * 8192 + 31), (3, 6 * 8192 + 7)], let x := e.1 + e.2 * 2 ^ 16
        bit x 3 = false ∧ bits x 0 3 = e.1 ∧ bits x 16 16 = e.2 ∧ bits x 16 16 / 8192 = e.2 / 8192) ∧
      bits (4 + 63 * 2 ^ 32) 32 6 = 63 ∧ bits (4 + 63 * 2 ^ 32) 0 3 = 4 ∧ bits 5 0 3 = 5 ∧ bit 8 3 = true ∧ bits 8 0 3 = 0) := by
  unfold MayWrite; and_intros <;> decide +kernel

def almDev (age : Nat) (l : List AlmDay) (eol : Option Nat) : Dev :=
  { dev0 with alm := { Alm.reset with age := List.replicate 8 age, days := l, eolAt := eol } }

theorem witness_AlmanacKeeps :
    (∀ p < 8, (dev0.pmu p).pwr = .run ∧ dev0.pwr.pkg = .run ∧ dev0.alm.age.getD p 0 < 60 ∧ dev0.erring p = [] ∧
      ((dev0.onPmu p fun x => { x with pwr := .night }).pmu p).pwr ≠ .run) ∧
    (dev0.judged 5 = false ∧ (dev0.set ALM_CTRL.AUTO_RETIRE 0).flag ALM_CTRL.AUTO_RETIRE = false ∧
      (dev0.almMark 5 .watch).judged 5 = true) ∧
    ((leastProj (almDev 60 [] none).almUnits.projections).days < (almDev 60 [] none).get ALM_CTRL.HORIZON_DAYS ∧
      ¬(leastProj (almDev 0 [] none).almUnits.projections).days < (almDev 0 [] none).get ALM_CTRL.HORIZON_DAYS ∧
      (almDev 60 [] (some 0)).alm.eolAt = some 0 ∧ (almDev 0 [] none).alm.days = [] ∧
      (almDev 0 [(almDev 0 [] none).almDay] none).alm.days ≠ []) := by
  and_intros <;> decide +kernel

/-- A journal that has reached a state, and the bytes of a token: its version, its action, its target. -/
def lcDev (st : Nat) (action target : Nat) : Dev :=
  { dev0 with
    comp := Comp.reset
    lcs := { Lcs.reset with
      journal := (List.range st).map fun i => { target := i + 1, wipes := 0, valid := true, void := false, commit := true }
      token := [(0, 1), (1, BitVec.ofNat 8 action), (2, BitVec.ofNat 8 target)], debug := 0 } }
/-- Journal rows at the stages of R496. -/
def rowDev (valid void commit : Bool) : Dev :=
  { dev0 with lcs := { Lcs.reset with journal := [{ target := 1, wipes := 3, valid := valid, void := void, commit := commit }] } }

theorem witness_LifeCycleMoves :
    MayWrite dev0 4 LCS_TRANSITION.off ∧
    (∀ st < 3, (lcDev st 1 (st + 1)).lcs.state = st ∧ firstCause ((lcDev st 1 (st + 1)).lcCauses true true true) = none ∧
      firstCause ((lcDev st 1 (st + 1)).lcCauses false true true) = some 1 ∧
      4 ≤ ((lcDev st 1 (st + 1)).lcWork (lcDev st 1 (st + 1)).lcs.target).length) ∧
    (∀ st ∈ [1, 2], firstCause ((lcDev st 2 0).ownerCauses true true true) = none ∧
      firstCause ((lcDev st 2 0).ownerCauses true false true) = some 2) ∧
    (∀ v ∈ [1, 2], firstCause ((lcDev 1 3 v).debugCauses 4 true true) = none ∧
      firstCause ((lcDev 1 3 v).debugCauses 4 true false) = some 3 ∧ (lcDev 1 3 v).lcs.debug < v ∧ (lcDev 1 3 v).lcs.tokTarget = v) ∧
    (dev0.lcBusy = false ∧ (resetting [⟨5, 0, 0x0901, 0, 0⟩]).lcBusy = true) ∧
    (∀ a b c, (rowDev a b c).lcs.journal[0]? = some { target := 1, wipes := 3, valid := a, void := b, commit := c }) ∧
    (∀ n ∈ [0, 2], ∀ up, let d := { dev0 with lcs := { Lcs.reset with drbgUp := up, drbgFails := n, drbgReqs := 2 ^ 20 } }
      d.lcs.drbgUp = up ∧ d.lcs.drbgFails = n ∧ d.lcs.drbgFails < 3 ∧ d.lcs.drbgFailAt + second ≤ second ∧ 2 ^ 20 ≤ d.lcs.drbgReqs) := by
  unfold MayWrite; and_intros <;> decide +kernel

/-- A module in state 1 with a served certificate chain, algorithms negotiated at function 0 of port 0 and at function 1, and sessions. -/
def spdmDev (n : Nat) : Dev :=
  { lcDev 1 0 0 with
    hif := (attached0 .active []).hif
    lcs := { (lcDev 1 0 0).lcs with
      negotiated := [1024, 1], certs := [(0, 7)], certHash := some 7, nextSession := n
      sessions := (List.range n).map fun i => ⟨1024, i, true⟩ } }
def tdiDev (t : Tdi) : Dev := (attached0 .active []).onFn 1 fun f => { f with tdi := t }

theorem witness_SessionsAndTdis :
    (dev0.responds 5 = false ∧ (spdmDev 0).responds 1024 = true ∧ (spdmDev 0).responds 1 = true ∧ 1024 ∈ (spdmDev 0).lcs.negotiated ∧
      1025 ∉ (spdmDev 0).lcs.negotiated ∧ (spdmDev 0).responds 1025 = true) ∧
    ((spdmDev 0).chain 0 = some 7 ∧ (spdmDev 0).chain 1 = none ∧ (spdmDev 0).signs = true ∧
      ({ spdmDev 0 with lcs := { (spdmDev 0).lcs with udsGone := true } } : Dev).signs = false) ∧
    (((spdmDev 3).lcs.sessions.filter fun x => x.responder == 1024).length < sessionMax 1024 ∧
      sessionMax 1024 ≤ ((spdmDev 4).lcs.sessions.filter fun x => x.responder == 1024).length) ∧
    ((spdmDev 0).certMay 0 0 = true ∧ (spdmDev 0).certMay 1 0 = false ∧ (spdmDev 1).session 1024 0 = true ∧ (spdmDev 1).session 1024 1 = false) ∧
    (∀ t ∈ [Tdi.unlocked, .locked, .run, .error], ((tdiDev t).fn 1).ast = some 0 ∧ ((tdiDev t).fn 1).tdi = t ∧ (dev0.fn 2).ast = none) ∧
    ((lcDev 1 0 0).lcs.debug = 0) ∧
    ((∃ x ∈ (linkDev (spdmDev 1) 0 up16).lcs.sessions, x.responder = 1024 ∧ x.id = 0 ∧ x.up = true) ∧
      ((linkDev (spdmDev 1) 0 up16).link 0).state ≠ 0 ∧ ((spdmDev 1).link 0).state = 0 ∧
      1 ∈ (linkDev (tdiDev .run) 0 up16).fnsOn 0) := by
  and_intros <;> decide +kernel

/-- A module that has just been powered, its journal settled. -/
def cold (m : Manifest) (rn : Bool) : Dev :=
  { lcDev 1 0 0 with fw := { Fw.reset with image := ⟨m, none, []⟩ }, mod := { Mod.reset with resetN := rn } }
/-- An update in progress. -/
def updDev (m : Option Manifest) (rec_ : Bool) : Dev :=
  { dev0 with fw := { Fw.reset with bootStep := 12, recovery := rec_, update := some { port := none, manifest := m, blocks := 0, lastAt := 0 } } }

theorem witness_BootAndUpdate :
    (∀ b, let d := cold Manifest.plain b
      d.mayBoot 0 = true ∧ d.mayBoot 9 = true ∧ d.mod.resetN = b ∧ d.mod.pwrEn = true ∧ d.dice.imageBad = none ∧
        (∀ r ∈ d.lcs.journal, r.valid = true ∧ r.commit = true ∨ r.valid = false ∧ r.void = true)) ∧
    ((cold { Manifest.plain with total := 2 ^ 26 } true).dice.imageBad = some 2 ∧
      ({ booted with mod := Mod.reset } : Dev).mayBoot 0 = false) ∧
    (752 ≤ dev0.usableChans ∧ booted.fw.bootStep ≠ 8 ∧ ({ dev0 with fw := { Fw.reset with bootStep := 9 } } : Dev).fw.bootStep = 9) ∧
    (∀ l ∈ [0, 1023], dev0.retired l = false ∧ dev0.get (STK_CHAN_HEALTH.PSTATE (l / 32) (dev0.physChan l % 34)) ≠ 1 ∧
      (dev0.spareChannel (l / 32)).isSome = true ∧
      ((dev0.set (STK_CHAN_HEALTH.PSTATE (l / 32) 32) 0).set (STK_CHAN_HEALTH.PSTATE (l / 32) 33) 0).spareChannel (l / 32) = none) ∧
    ((dev0.set (LCS_POLICY_PORT.WMASK 3) 2).mailboxOpen 3 = true ∧ (dev0.set (LCS_POLICY_PORT.WMASK 3) 1).mailboxOpen 3 = false ∧
      dev0.fw.update = none ∧ dev0.fw.bootStep < 4 ∧ 4 ≤ booted.fw.bootStep) ∧
    (∀ r, (updDev none r).manifestBad Manifest.plain = none ∧ ((updDev none r).manifestBad { Manifest.plain with dorsynOk := false }) = some 3 ∧
      (updDev (some { Manifest.plain with total := 65536 }) r).fw.recovery = r ∧ (65536 ≤ (0 + 1) * 65536 ∧ (0 + 1) * 65536 < 65537) ∧
      0 + 60 * second ≤ 60 * second) := by
  and_intros <;> decide +kernel

theorem witness_ModuleSignals :
    (∀ n ∈ [5, 12], n ≤ booted.fw.bootStep ∧ ¬(n ≤ dev0.fw.bootStep ∨ dev0.fw.recovery = true ∧ n = 5)) ∧
    ((booted.wakePkg 3).blockDown PWR_STATE_REQ.off = false ∧ booted.pwr.entry = none ∧ booted.mod.tripLatch = false ∧
      ((entryDev (entry0 2 [])).pwr.entry).isSome = true) ∧
    (let d : Dev := { booted with mod := { Mod.reset with resetN := false } }
     d.mod.tripLatch = false ∧ d.mod.pwrEn = true ∧ d.mod.wakeHeld = false ∧ d.fw.bootStep ≠ 0 ∧ d.mod.resetN = false) ∧
    ((∃ r ∈ (resetting [⟨5, 0, 0, 0, 4⟩]).ras.resets, r.level = 5 ∧ r.step = 4) ∧
      (let d : Dev := { dev0 with fw := { Fw.reset with bootStep := 5, cold := true } }
       d.fw.bootStep = 5 ∧ d.fw.cold = true ∧ d.fw.recovery = false ∧ d.fw.stopped = false ∧ d.ras.resets = [])) ∧
    (∀ port < 4, (dev0.link (linkNo port false)).state = 0 ∧ (dev0.link (linkNo port true)).state = 0 ∧ dev0.mod.perst.length = 4 ∧
      ((linkDev dev0 (linkNo port false) up16).link (linkNo port false)).state ≠ 0 ∧
      ((linkDev dev0 (linkNo port false) up16).link (linkNo port true)).state = 0) ∧
    (∀ e ∈ [(svcUnit 7, 110), (moduleUnit, 125), (0, 110)], booted.mod.tripLatch = false ∧ booted.tripsAt e.1 e.2 = true ∧ booted.fw.bootStep ≠ 0) ∧
    (let d : Dev := { dev0 with mod := { Mod.reset with tripLatch := true, pwrEn := false, pwrEnLowAt := some 0 } }
     d.mod.tripLatch = true ∧ d.mod.pwrEn = false ∧ ∃ t, d.mod.pwrEnLowAt = some t ∧ t + second ≤ second) := by
  refine ⟨by decide +kernel, by decide +kernel, by decide +kernel, by decide +kernel, by decide +kernel, by decide +kernel,
    rfl, rfl, 0, rfl, by decide +kernel⟩

/-- Port 0 may write nothing but its mailbox. -/
def masked0 : Dev := dev0.set (LCS_POLICY_PORT.WMASK 0) 0
/-- The sideband's management ring is enabled, with a slot posted. -/
def ringDev (tail : Nat) : Dev := ((dev0.set MGT_RING_BASE.EN 1).set MGT_DOORBELL.TAIL tail).set MGT_STATUS.READY 1
/-- A management slot that R549 accepts: MODE commit of the class table. -/
def modeLine : Line := line [(0, 0, 0x86)]

theorem witness_RingAndRegisters :
    (∀ off ∈ [MGT_RING_BASE.off, MGT_DOORBELL.off, MGT_CQ_HEAD.off, PWR_CTRL.off], masked0.mayWrite 0 off = false ∧ MayWrite dev0 4 off) ∧
    ((dev0.set MGT_STATUS.PKG_DOWN 1).mayWrite 4 0xC10000 = true ∧
      (dev0.set MGT_STATUS.PKG_DOWN 1).blockDown 0xC10000 = true) ∧
    (MayWrite dev0 4 0x10400 ∧ byteWindow 0x10400 = some 2 ∧ byteWindow 0x105F8 = some 2 ∧ MayWrite dev0 4 0xFFFFF8 ∧
      byteWindow 0xFFFFF8 = none ∧ regSpec (0xFFFFF8 / 8 * 8) = none ∧ 0x10404 % 8 ≠ 0 ∧ 0x10404 % 4 = 0) ∧
    (let r : RegSpec := ⟨0, 8, 1, 1, 0, 2, 0, fun _ _ => 0⟩
     (∀ i ∈ [2, 63], bit (dev0.writable r &&& (2 ^ 64 - 1)) i = false ∧ bit (0 &&& (2 ^ 64 - 1) &&& r.w1c) i = false) ∧
      ranges PWR_WAKE_TIMER.off = []) ∧
    ((ringDev 0).ringTaken 1 = true ∧ (ringDev 0).ringTaken 4 = false ∧ (ringDev 0).mgtDue = false ∧ (withMgt dev0 (mgt0 0 [])).mgtDue = true ∧
      ((ringDev 0).set MGT_RING_BASE.EN 0).flag MGT_STATUS.READY = true) ∧
    (let d := ringDev 0
     let t := 2 ^ d.get MGT_RING_SIZE.LOG2N
     (t + 2 ^ 32 - d.get MGT_DOORBELL.TAIL) % 2 ^ 32 < 2 ^ 31 ∧
       (t + 2 ^ 32 - d.get MGT_RING_HEAD.HEAD) % 2 ^ 32 ≤ 2 ^ d.get MGT_RING_SIZE.LOG2N ∧
       ¬(t + 1 + 2 ^ 32 - d.get MGT_RING_HEAD.HEAD) % 2 ^ 32 ≤ 2 ^ d.get MGT_RING_SIZE.LOG2N) ∧
    ((dev0.get MGT_CQ_TAIL.TAIL + 2 ^ 32 - dev0.get MGT_CQ_HEAD.HEAD) % 2 ^ 32 < (1 + 2 ^ 32 - dev0.get MGT_CQ_HEAD.HEAD) % 2 ^ 32 ∧
      dev0.hif.mheld = []) ∧
    ((ringDev 1).flag MGT_RING_BASE.EN = true ∧ (ringDev 1).get MGT_RING_HEAD.HEAD ≠ (ringDev 1).get MGT_DOORBELL.TAIL ∧
      (ringDev 1).ringOwnerUp = true ∧ mgtFine modeLine = true ∧ mgtFine 0 = false ∧ (List.replicate 2048 (0 : Byte)).length ≤ 2048) := by
  refine ⟨?_, by decide +kernel, ?_, by decide +kernel, by decide +kernel, by decide +kernel, by decide +kernel,
    by decide +kernel⟩
  all_goals unfold MayWrite; decide +kernel

theorem witness_IntegersSaturate : 128 < 256 ∧ (0 : Int) ≤ 3 ∧ (Fmt.int8.convert 0 .rne false 0 (.fin true 129 0)).1 = 128 := by
  and_intros <;> decide +kernel

theorem witness_HangWithoutProgress :
    (dev0.set RAS_HANG_CTRL.EN 0).flag RAS_HANG_CTRL.EN = false ∧ ((dev0.parked 0).find? fun p => p.queue == 0) = none ∧
    (let d := (withCmd (evDev (ev0 0 true)) { cmd0 (evSlot 6 0 0) with phase := .parked }).set RAS_HANG_CTRL.EN 1
     let now := 1000000 * (d.get RAS_HANG_CTRL.NOPROG_MS + d.get RAS_HANG_CTRL.PERIOD_MS)
     d.flag RAS_HANG_CTRL.EN = true ∧ (((d.parked now).find? fun p => p.queue == 0).map fun p => (p.to_, p.since, p.id)) = some ([], 0, 0) ∧
       d.get RAS_HANG_CTRL.NOPROG_MS * 1000000 ≤ now ∧ 0 ∉ d.ras.noProg ∧
       (((deadDev.parked now).find? fun p => p.queue == 0).map (·.to_)) = some [0]) := by
  and_intros <;> decide +kernel

theorem witness_CoolantIsRecorded :
    (∀ b : Bool, let d : Dev := { dev0 with mod := { Mod.reset with coolAt := some 0, coolRec := b, leak := b } }
      d.mod.coolAt = some 0 ∧ d.mod.coolRec = b ∧ d.mod.leak = b) ∧
    dev0.mod.coolAt = none ∧ 80 ≤ 80 ∧ 400 ≤ 400 ∧ 79 < 80 ∧ dev0.flag RAS_ERRQ_BASE.EN = false ∧ dev0.ras.heldBoot.length < 256 := by
  and_intros <;> decide +kernel

theorem witness_DebugInTest :
    let d := lcDev 1 3 2
    (∃ t : State, exec (.debugUnlock 4 true true) (at0 d) = .next t ∧ t.dev.lcs.debug = 2) ∧ d.lcs.state = 1 ∧ d.lcs.debug < 2 ∧
      d.lcs.tokTarget = 2 ∧ MayWrite d 4 LCS_TRANSITION.off ∧ firstCause (d.debugCauses 4 true true) = none := by
  refine ⟨⟨_, rfl, by decide +kernel⟩, ?_⟩; unfold MayWrite; decide +kernel

/-! ### The whole machine -/

theorem test_reset_good : Good State.reset := ⟨fun _ h => (List.not_mem_nil h).elim, rfl⟩
theorem witness_GoodIsKept : Good { State.reset with pending := [.nop 0, .coreReset 5375] } := by
  refine ⟨?_, rfl⟩
  intro c hc
  obtain rfl | rfl : c = .nop 0 ∨ c = .coreReset 5375 := by simpa using hc
  · exact (by decide : 0 < 262144)
  · exact (by decide : 5375 < 5376)

/-! ### Ill-formed commands are refused, one for each bound, with its neighbour that is not -/

theorem test_wf_queue : (Instr.nop 262144).wf = false ∧ (Instr.nop 262143).wf = true := by decide
theorem test_wf_core : (Instr.coreReset 5376).wf = false ∧ (Instr.coreReset 5375).wf = true := by decide
theorem test_wf_stack : (Instr.stackReset 32).wf = false ∧ (Instr.stackReset 31).wf = true := by decide
theorem test_wf_die_pair : (Instr.opRaise 8).wf = false ∧ (Instr.opRaise 7).wf = true := by decide
theorem test_wf_asterism : (Instr.quiescent 64).wf = false ∧ (Instr.quiescent 63).wf = true := by decide
theorem test_wf_function : (Instr.ctxCreate 1024 0).wf = false ∧ (Instr.ctxCreate 1023 0).wf = true := by decide
theorem test_wf_path : (Instr.debugLock 5).wf = false ∧ (Instr.debugLock 4).wf = true := by decide
theorem test_wf_port : (Instr.perstLow 4).wf = false ∧ (Instr.perstLow 3).wf = true := by decide
theorem test_wf_path_port : (Instr.cxpHdmMapWrite 4 4 0 0).wf = false ∧ (Instr.cxpHdmMapWrite 4 3 0 0).wf = true := by decide
theorem test_wf_path_asterism : (Instr.hifInvDoorbellAst 4 64).wf = false ∧ (Instr.hifInvDoorbellAst 4 63).wf = true := by decide
theorem test_wf_token : (Instr.pullComplete 31 512).wf = false ∧ (Instr.pullComplete 31 511).wf = true := by decide
theorem test_wf_lane : (Instr.laneSpared 31 128).wf = false ∧ (Instr.laneSpared 31 127).wf = true := by decide
theorem test_wf_bridge_lane : (Instr.bridgeLaneSpared 0 true 128).wf = false := by decide
theorem test_wf_link_lane : (Instr.cxlLaneLost 3 128).wf = false := by decide
theorem test_wf_stack_asterism : (Instr.purgeComplete 31 64 0).wf = false ∧ (Instr.purgeComplete 32 63 0).wf = false := by decide
theorem test_wf_partner : (Instr.partnerSetLost 48).wf = false ∧ (Instr.partnerSetLost 47).wf = true := by decide
theorem test_wf_insertion : (Instr.hotInsertion 48 0 true 0).wf = false ∧ (Instr.hotInsertion 31 4 true 0).wf = false := by decide
theorem test_wf_ring_link : (Instr.maintLinkDown 3 0).wf = false ∧ (Instr.maintLinkDown 2 8).wf = false := by decide

/-! ### The spec's worked figures -/

/-- The record of the example after R333. -/
theorem test_completion_record :
    (CRec.encode { pos := 70419, index := 2, status := .completed, reason := .none, kind := 0, phase := true, user := 0x5E19
                   elapsed := 378, boundUs := 96, error := 0, abandoned := false, timedOut := false, won := false, notFound := false
                   inherited := false, replayed := false, cqHeld := false, energy := 4611, aux := 0 }).toNat =
      ofBytes [0x13, 0x13, 0x01, 0, 2, 0, 0, 0x80, 0x19, 0x5E, 0, 0, 0x7A, 0x01, 0, 0, 0x60, 0, 0, 0, 0, 0, 0, 0, 3, 0x12] ∧
    140902 % 2 ^ 11 = 1638 ∧ phaseOf 11 140902 = true := by decide +kernel

/-- The slot of the CALL in the same example. -/
theorem test_call_slot :
    let x : Line := BitVec.ofNat 512 (ofBytes [0x0B, 0x11, 4, 0, 0x21, 0x3A, 0, 0, 0, 0, 0, 0, 0x17, 0x5E, 0, 0,
      0x7C, 0x2B, 1, 0, 0, 0x1C, 3, 0, 5, 0, 2, 0, 0, 0, 0, 0, 0x7D, 0x2B, 1, 0, 0xE1, 9])
    hOp x = 0x0B ∧ hLabel x = 17 ∧ hEvent x = 0x3A21 ∧ hUser x = 0x5E17 ∧ hQuiet x = false ∧ callObjs x = [0x012B7C, 0x012B7D, 0x0009E1] ∧
      fld x 0x14 0 32 = 0x31C00 ∧ fld x 0x18 0 16 = 5 := by decide +kernel

/-- Steps 7 and 17 of Table 3-11. -/
theorem test_step_words :
    (let w : StepWord := BitVec.ofNat 128 (ofBytes [0x20, 0, 0x33, 0, 0, 0x20, 0, 0x36, 0, 0, 0, 0, 0xBF, 0, 0, 1])
     sOp w = 0x20 ∧ sEng w = 0 ∧ sZero w = false ∧ sSpa w = 0x2000 ∧ sSix w = 0x3600 ∧ sM w = 192 ∧ sI0 w = 0 ∧ sK w = 256 ∧
       Fmt.ofCode (sFmtA w) = some .e4m3 ∧ Fmt.ofCode (sFmtB w) = some .e4m3) ∧
    (let w : StepWord := BitVec.ofNat 128 (ofBytes [0x22, 0, 2, 0, 0, 0xF8, 0x80, 0, 0, 0, 0x80, 0x3F, 0xBF])
     sOp w = 0x22 ∧ sEng w = 0 ∧ Rnd.ofCode (sAccRnd w) = some .rne ∧ Fmt.ofCode (sFmtA w) = some .bf16 ∧ sSpa w = 0xF800 ∧
       sDoff w = 0 ∧ sSix w = 128 ∧ sAlpha w = 0x3F800000 ∧ sM w = 192) ∧
    mmaCycles .e4m3 .e4m3 192 256 = 1536 ∧ ceilDiv (49712 * 10) 27 = 18412 := by decide +kernel

/-- The example after R139: slot 9 of stack 13, offset 0x1234_5678. -/
theorem test_placement :
    granOf 0x12345678 = 0x48D159 ∧ bankOf 0x48D159 = 33 ∧ dieOf 0x48D159 = 8 ∧ rowOf 0x48D159 = 4660 ∧
    tweak 425 0x48D159 = 0x35248D159 ∧ Dev.reset.physChan 425 = 451 ∧ chanUnit 451 = 0x61C3 ∧ unitId 3 444 = 0x61BC ∧
    unitId 0 4049 = 0x0FD1 := by decide +kernel

/-- Table 6-9. -/
theorem test_route :
    let m : CMap := { CMap.empty 0 0 with
      regions := [(3, { vbase := 0x005200000000, size := 2 ^ 40, n := 12, loff := 0, ps := true })]
      list := [(0, 160), (1, 161), (2, 162), (3, 163), (4, 164), (5, 165), (6, 166), (7, 167), (8, 200), (9, 201), (10, 202), (11, 203)] }
    (m.route 0x00520A357C48).map (fun w => (w.region, w.l, w.r, w.share, w.page)) = some (3, 167, 28, 43, 0x00520A200000) ∧
    (m.route (0x00520A357C48 + 4096)).map (fun w => (w.l, w.r, w.share)) = some (200, 28, 43) := by decide +kernel

/-- Table 11-3, and the same with D's deadline at 300 µs. -/
theorem test_bound :
    let us := 1000 * unitsPerNs
    let t := tileUnits (18900 * 80) 2100
    let lo := ceilDiv (spanUnits 1000 200 t) us
    let a : Job := { deadline := 60000, t := 20 * us, work := 6000 * us }
    let d := fun (n : Nat) => ({ deadline := n, t := 25 * us, work := 24000 * us } : Job)
    t * 1000 = 30375 * us ∧ lo = 154 ∧
    findBound 0 200 1 (1000 * t) t lo (1100 * us) 0 [a, d 400000] = some 218 ∧
    findBound 0 200 1 (1000 * t) t lo (1100 * us) 0 [a, d 300000] = some 338 := by decide +kernel

/-- The barrier of the example before Table 13-8: leave power, buffer test, wave plan. -/
theorem test_barrier_example :
    (let d := ((Dev.reset.set (PWR_OPP_TABLE.VSET 22) 830).set (PWR_OPP_TABLE.VSET 23) 875).onPmu 2 fun p => { p with op := 6 }
     d.leavePower 224 23100 2 = 1010) ∧
    (let d := (Dev.reset.set PWR_BUFFER_ENERGY.ENERGY 24000).set PWR_INPUT.VIN 5420
     d.slew = 13550 ∧ d.bufferTest 2376500 = true ∧ (d.set PWR_BUFFER_ENERGY.ENERGY 6209).bufferTest 2376500 = true ∧
       (d.set PWR_BUFFER_ENERGY.ENERGY 6208).bufferTest 2376500 = false) ∧
    wavePlan [0, 0, 640, 640, 0, 0, 640, 433] (List.replicate 8 198) = [[0, 0, 198, 198, 0, 0, 198, 198], [0, 0, 198, 198, 0, 0, 198, 198],
      [0, 0, 198, 198, 0, 0, 198, 37], [0, 0, 46, 46, 0, 0, 46, 0]] := by decide +kernel

/-- Table 14-9. -/
theorem test_projections : projectAge 20 10 3120 1092 30 = 171 ∧ projectAge 25 10 3120 1092 30 = 214 ∧ project 23 4 2 30 = 345 ∧
    project (35100 - 30000) 300 100 30 = 1530 ∧ svcUnit 5 = 0xC005 := by decide +kernel

/-- The example after R545: registers and the mask bit of ADM_MEMRES. -/
theorem test_register_places : COR_STATE.off 6 17 = 0xA20440 ∧ TRN_QUOTA.off 19 41 = 0x10D0248 ∧ ADM_MEMRES.off (8 * 41 + 3) = 0x81A58 ∧
    wmaskBit 0x81A58 = some 5 := by decide +kernel

/-- R464: one hour at 85 °C and 800 mV is one stress hour, and 10 °C more is twice as much. -/
theorem test_stress : stressOf 85 800 = 277777 ∧ stressOf 95 800 = 555555 := by decide +kernel

/-- FP32: 1 + 1 = 2; FP8 E4M3 has its largest finite value 448 at 0x7E (Table 2-1). -/
theorem test_numbers : addF32 0x3F800000 0x3F800000 = 0x40000000 ∧ Fmt.e4m3.decode 0x7E = .fin false 14 5 := by decide +kernel

/-! ### Single steps -/

/-- From reset nothing waits: the block idles for one tick (log entry 2). -/
theorem test_idle : (match step State.reset with | .next t => t.now == tickNs && t.pending.isEmpty | _ => false) = true := by
  decide +kernel

/-- A command whose occasion has not come leaves the device as it is. -/
theorem test_no_occasion : (match exec (.nop 0) (at0 dev0) with | .next t => t == at0 dev0 | _ => false) = true := by
  decide +kernel

/-- R323: SIGNAL of mode 0 sets event 3 to 7. -/
theorem test_signal :
    (match exec (.signalSet 0) (at0 (slot0 (evDev (ev0 5 false)) (evSlot 4 0 7))) with
     | .next t => (Tbl.find t.dev.hif.events 3).map (·.value)
     | _ => none) = some 7 := by decide +kernel

/-- R331: the NOP's record goes to position 0 of the completion ring, COMPLETED. -/
theorem test_nop_record :
    (match exec (.nop 0) (at0 (slot0 dev0 0)) with
     | .next t => (Tbl.find t.dev.hif.cq (cqKey 0 0)).map fun r => (r.status, r.pos, r.phase)
     | _ => none) = some (.completed, 0, true) := by decide +kernel

/-- R139, R140: what a write put at channel 0 a read of the same address answers. -/
theorem test_write_then_read :
    (match exec (.stackWrite 0 .clean) (at0 (atStack { req0 .write 0 0 with data := 9, mask := 2 ^ 64 - 1 } [(0, page0)])) with
     | .next t => (match exec (.stackRead 0 .clean) { t with dev := t.dev.onNet fun n => { n with reqs := [req0 .read 0 0], resps := [] } } with
        | .next u => u.dev.net.resps.map fun r => (r.status, r.data)
        | _ => [])
     | _ => []) = [(.ok, 9)] := by decide +kernel
end Sys2Proof.Tests
end

section
/-!
PROOFS. Rounding to a whole number mode by mode (Table 2-5), and the conversions into INT8 (R36).
-/

namespace Sys2Proof.Machine

/-! ### Two's complement of eight bits -/

/-- The value of an INT8 encoding: the upper half of the codes is negative (R36). -/
theorem signed_eight {c : Nat} (h : c < 256) : signed 8 c = if 128 ≤ c then (c : Int) - 256 else c := by
  have hmod : c % 2 ^ 8 = c := Nat.mod_eq_of_lt h
  unfold signed
  split <;> split <;> omega

theorem decode_int8 {c : Nat} (h : c < 256) :
    Fmt.int8.decode c = .fin (decide (128 ≤ c)) (if 128 ≤ c then 256 - c else c) 0 := by
  simp only [Fmt.decode, signed_eight h]
  split <;> simp <;> omega

/-! ### Rounding to an integer -/

/-- Does a mode round up a magnitude of whole part `t` and rest `rem / 2^k`?  (Table 2-5, R47) -/
def Rnd.raises (r : Rnd) (draw : Nat) (neg : Bool) (t rem k : Nat) : Bool :=
  match r with
  | .rne => decide (2 * rem > 2 ^ k) || (decide (2 * rem = 2 ^ k) && decide (t % 2 = 1))
  | .rz => false
  | .rd => neg && decide (rem ≠ 0)
  | .ru => !neg && decide (rem ≠ 0)
  | .sr => decide (rem * 8192 / 2 ^ k + draw % 8192 ≥ 8192)

/-- A whole number is not raised. -/
theorem Rnd.raises_whole (r : Rnd) (draw : Nat) (neg : Bool) (t k : Nat) : r.raises draw neg t 0 k = false := by
  have hunit : 0 ≠ 2 ^ k := (Nat.two_pow_pos k).ne
  have hdraw : draw % 8192 < 8192 := Nat.mod_lt _ (by decide)
  cases r <;> simp [Rnd.raises, hunit, hdraw]

theorem roundInt_of_le (r : Rnd) (draw : Nat) (neg : Bool) (m : Nat) {e q : Int} (h : q ≤ e) :
    roundInt r draw neg m e q = m * 2 ^ (e - q).toNat := if_pos h

/-- A magnitude with `k` fraction bits rounds to its whole part, or to the next number where the mode raises it. -/
theorem roundInt_fraction (r : Rnd) (draw : Nat) (neg : Bool) (m k : Nat) :
    roundInt r draw neg m (-(k : Int)) 0 =
      if r.raises draw neg (m / 2 ^ k) (m % 2 ^ k) k then m / 2 ^ k + 1 else m / 2 ^ k := by
  rcases Nat.eq_zero_or_pos k with rfl | hk
  · rw [roundInt_of_le _ _ _ _ (by simp), pow_zero, Nat.mod_one, Rnd.raises_whole]
    simp
  · have hcut : ¬ (0 : Int) ≤ -(k : Int) := by omega
    have hbits : (0 - -(k : Int)).toNat = k := by omega
    rw [roundInt, if_neg hcut, hbits]
    rfl

theorem roundInt_rz (draw : Nat) (neg : Bool) (m k : Nat) : roundInt .rz draw neg m (-(k : Int)) 0 = m / 2 ^ k :=
  roundInt_fraction .rz draw neg m k

/-- Half a unit bounds the error of rounding to nearest. -/
theorem roundInt_rne_within_half (draw : Nat) (neg : Bool) (m k : Nat) :
    2 * (roundInt .rne draw neg m (-(k : Int)) 0 * 2 ^ k) ≤ 2 * m + 2 ^ k ∧
    2 * m ≤ 2 * (roundInt .rne draw neg m (-(k : Int)) 0 * 2 ^ k) + 2 ^ k := by
  have hm : m / 2 ^ k * 2 ^ k + m % 2 ^ k = m := Nat.div_add_mod' m (2 ^ k)
  have hlt : m % 2 ^ k < 2 ^ k := Nat.mod_lt m (Nat.two_pow_pos k)
  have hnext := Nat.add_one_mul (m / 2 ^ k) (2 ^ k)
  rw [roundInt_fraction]
  split
  case isTrue hup =>
    have hhalf : 2 ^ k ≤ 2 * (m % 2 ^ k) := by simp [Rnd.raises] at hup; omega
    omega
  case isFalse hup =>
    have hhalf : 2 * (m % 2 ^ k) ≤ 2 ^ k := by simp [Rnd.raises] at hup; omega
    omega

/-- The quotient rounded up, by its rest. -/
theorem div_up_of_rest (m k : Nat) :
    (m + 2 ^ k - 1) / 2 ^ k = if m % 2 ^ k = 0 then m / 2 ^ k else m / 2 ^ k + 1 := by
  have hm : m / 2 ^ k * 2 ^ k + m % 2 ^ k = m := Nat.div_add_mod' m (2 ^ k)
  have hlt : m % 2 ^ k < 2 ^ k := Nat.mod_lt m (Nat.two_pow_pos k)
  have hnext := Nat.add_one_mul (m / 2 ^ k) (2 ^ k)
  have hafter := Nat.add_one_mul (m / 2 ^ k + 1) (2 ^ k)
  split <;> exact Nat.div_eq_of_lt_le (by omega) (by omega)

theorem roundInt_ru (draw : Nat) (neg : Bool) (m k : Nat) :
    roundInt .ru draw neg m (-(k : Int)) 0 = if neg then m / 2 ^ k else (m + 2 ^ k - 1) / 2 ^ k := by
  rw [roundInt_fraction, div_up_of_rest]
  cases neg <;> simp [Rnd.raises]

theorem roundInt_rd (draw : Nat) (neg : Bool) (m k : Nat) :
    roundInt .rd draw neg m (-(k : Int)) 0 = if neg then (m + 2 ^ k - 1) / 2 ^ k else m / 2 ^ k := by
  rw [roundInt_fraction, div_up_of_rest]
  cases neg <;> simp [Rnd.raises]

/-! ### Conversion into INT8 -/

theorem convert_int8_sat (elem : Bool) (r : Rnd) (sat sat' : Bool) (draw : Nat) (x : Num) :
    Fmt.int8.convert elem r sat draw x = Fmt.int8.convert elem r sat' draw x := rfl

@[simp] theorem convert_int8_nan (elem : Bool) (r : Rnd) (sat : Bool) (draw : Nat) :
    (Fmt.int8.convert elem r sat draw .nan).1 = 0 := rfl

@[simp] theorem convert_int8_inf (elem : Bool) (r : Rnd) (sat : Bool) (draw : Nat) (neg : Bool) :
    (Fmt.int8.convert elem r sat draw (.inf neg)).1 = if neg then 128 else 127 := rfl

/-- The INT8 code of a magnitude already rounded, of either sign: clamped at the end of its range (R36). -/
theorem convert_int8_fin (elem : Bool) (r : Rnd) (sat : Bool) (draw : Nat) (neg : Bool) (m : Nat) (e : Int) :
    (Fmt.int8.convert elem r sat draw (.fin neg m e)).1 =
      if neg then (256 - min 128 (roundInt r draw neg m e 0)) % 256 else min 127 (roundInt r draw neg m e 0) := by
  simp only [Fmt.convert]
  split <;> split <;> simp only <;> omega

theorem convert_int8_fin_lt (elem : Bool) (r : Rnd) (sat : Bool) (draw : Nat) (neg : Bool) (m : Nat) (e : Int) :
    (Fmt.int8.convert elem r sat draw (.fin neg m e)).1 < 256 := by
  rw [convert_int8_fin]
  split <;> omega

/-- The INT8 value of a finite one is the rounded value, saturated. -/
theorem signed_convert_int8_fin (elem : Bool) (r : Rnd) (sat : Bool) (draw : Nat) (neg : Bool) (m : Nat) (e : Int) :
    signed 8 (Fmt.int8.convert elem r sat draw (.fin neg m e)).1 =
      max (-128) (min 127 (if neg then -(roundInt r draw neg m e 0 : Int) else roundInt r draw neg m e 0)) := by
  rw [signed_eight (convert_int8_fin_lt ..), convert_int8_fin]
  cases neg <;> simp only [if_true, Bool.false_eq_true, if_false] <;> split <;> omega

/-- Settles O57: the code is the rounded value clamped to the range, and each mode's rounding is read off the whole part
and the rest. -/
theorem integersSaturate : Obligations.IntegersSaturate := by
  refine ⟨fun c hc => decode_int8 hc, fun elem r sat draw x => convert_int8_sat elem r sat (!sat) draw x,
    fun elem r sat draw => ⟨convert_int8_nan elem r sat draw, fun neg => ?_⟩,
    fun elem r sat draw neg m e => ⟨convert_int8_fin_lt elem r sat draw neg m e, signed_convert_int8_fin elem r sat draw neg m e⟩,
    fun r draw neg m e he => ?_,
    fun draw neg m k => ⟨roundInt_rz draw neg m k, roundInt_rne_within_half draw neg m k, roundInt_ru draw neg m k,
      roundInt_rd draw neg m k⟩⟩
  · rw [convert_int8_inf]
    cases neg <;> rfl
  · rw [roundInt_of_le r draw neg m he, Int.sub_zero]

end Sys2Proof.Machine
end

section
/-!
PROOFS. Waits without progress: what the detector does with a parked queue that points nowhere (R450).
-/

namespace Sys2Proof.Machine

/-! ### When a wait is recorded, and what its record leaves -/

/-- The wait of a queue, where it is parked. -/
def Dev.parkedAt (d : Dev) (now q : Nat) : Option Parked := (d.parked now).find? fun p => p.queue == q

/-- A parked queue's wait is to be recorded: the detector is on, the queue points nowhere and has waited NOPROG_MS, and the
wait has not been recorded before (R450). -/
def Dev.NoProgressDue (d : Dev) (now : Nat) (p : Parked) : Prop :=
  d.flag RAS_HANG_CTRL.EN = true ∧ p.to_ = [] ∧ p.id ∉ d.ras.noProg ∧
    p.since + d.get RAS_HANG_CTRL.NOPROG_MS * 1000000 ≤ now

/-- The device once a parked wait is recorded, counted and remembered. -/
def Dev.noteNoProgress (d : Dev) (q : Nat) (p : Parked) : Dev :=
  let m := { d with ras := { d.ras with noProg := p.id :: d.ras.noProg.filter fun i => (Tbl.find d.hif.cmds i).isSome } }
  (m.sat RAS_HANG_STATUS.NOPROG 1).raise 0x0A02 (svcUnit (m.home p.ast)) 0x00 .info [q, p.event] (some (p.ast, p.ctx))

theorem Dev.noProgress_of_due {d : Dev} {now q : Nat} {p : Parked} (hp : d.parkedAt now q = some p)
    (hdue : d.NoProgressDue now p) : d.noProgress now q = d.noteNoProgress q p := by
  obtain ⟨hen, hto, hnew, hlong⟩ := hdue
  unfold Dev.parkedAt at hp
  simp [Dev.noProgress, Dev.noteNoProgress, hp, hen, hto, hnew, hlong]

/-- Where no wait of the queue is due, the detector leaves the device as it is. -/
theorem Dev.noProgress_of_not_due {d : Dev} {now q : Nat}
    (h : ∀ p, d.parkedAt now q = some p → ¬ d.NoProgressDue now p) : d.noProgress now q = d := by
  unfold Dev.noProgress
  split
  case h_1 => rfl
  case h_2 p hp =>
    refine if_pos ?_
    by_contra hgo
    exact h p hp (by simpa [Dev.NoProgressDue, and_assoc] using hgo)

/-- The parked queues are read off the host interface's tables and PERIOD_MS alone. -/
theorem Dev.parked_congr {d e : Dev} (hhif : e.hif = d.hif)
    (hperiod : e.get RAS_HANG_CTRL.PERIOD_MS = d.get RAS_HANG_CTRL.PERIOD_MS) (now : Nat) : e.parked now = d.parked now := by
  simp only [Dev.parked, Dev.pointsTo, Dev.queueAst, hhif, hperiod]

theorem Dev.noteNoProgress_box (d : Dev) (q : Nat) (p : Parked) :
    ∃ b, (d.noteNoProgress q p).ras.box = d.ras.box ++ [b] ∧ b.code = 0x0A02 ∧ b.detail = [q, p.event] :=
  ⟨_, rfl, rfl, rfl⟩

/-- The wait is remembered, so that it is recorded once. -/
theorem Dev.mem_noteNoProgress_noProg (d : Dev) (q : Nat) (p : Parked) : p.id ∈ (d.noteNoProgress q p).ras.noProg :=
  List.mem_cons_self

/-- Beside the registers and the error records, nothing of the device differs. -/
theorem Dev.noteNoProgress_frame (d : Dev) (q : Nat) (p : Parked) :
    { d.noteNoProgress q p with regs := d.regs, ras := d.ras } = d := rfl

/-- Only the register that counts such waits differs. -/
theorem Dev.get_noteNoProgress (d : Dev) (q : Nat) (p : Parked) {f : Fld} (hf : f.off ≠ RAS_HANG_STATUS.NOPROG.off) :
    (d.noteNoProgress q p).get f = d.get f := by
  calc (d.noteNoProgress q p).get f
      = (d.sat RAS_HANG_STATUS.NOPROG 1).get f := Dev.get_congr rfl f
    _ = d.get f := Dev.get_set_other d _ f _ hf

@[simp] theorem Dev.noteNoProgress_hif (d : Dev) (q : Nat) (p : Parked) : (d.noteNoProgress q p).hif = d.hif := rfl

theorem Dev.parkedAt_noteNoProgress (d : Dev) (q : Nat) (p : Parked) (now k : Nat) :
    (d.noteNoProgress q p).parkedAt now k = d.parkedAt now k :=
  congrArg (·.find? fun p => p.queue == k) <|
    Dev.parked_congr (d.noteNoProgress_hif q p) (d.get_noteNoProgress q p (by decide)) now

/-- A second look at a wait that was recorded changes nothing. -/
theorem Dev.noProgress_noteNoProgress {d : Dev} {now q : Nat} {p : Parked}
    (hp : d.parkedAt now q = some p) :
    (d.noteNoProgress q p).noProgress now q = d.noteNoProgress q p := by
  refine Dev.noProgress_of_not_due fun p' hp' hdue => ?_
  obtain ⟨-, -, hnew, -⟩ := hdue
  have hsame : p = p' := Option.some.inj (by rw [← hp, ← hp', Dev.parkedAt_noteNoProgress])
  subst hsame
  exact hnew (d.mem_noteNoProgress_noProg q p)

/-! ### The command -/

theorem hangNoProgress_leads (s : State) (q : Nat) : Leads (.hangNoProgress q) s (s.dev.noProgress s.now q) := rfl

theorem hangNoProgress_leads_self {s : State} {q : Nat}
    (h : ∀ p, s.dev.parkedAt s.now q = some p → ¬ s.dev.NoProgressDue s.now p) :
    Leads (.hangNoProgress q) s s.dev := by
  have hleads := hangNoProgress_leads s q
  rwa [Dev.noProgress_of_not_due h] at hleads

theorem hangNoProgress_leads_note {s : State} {q : Nat} {p : Parked}
    (hp : s.dev.parkedAt s.now q = some p) (hdue : s.dev.NoProgressDue s.now p) :
    Leads (.hangNoProgress q) s (s.dev.noteNoProgress q p) := by
  have hleads := hangNoProgress_leads s q
  rwa [Dev.noProgress_of_due hp hdue] at hleads

/-- After its record the command answers the very same device. -/
theorem hangNoProgress_leads_once {s : State} {q : Nat} {p : Parked}
    (hp : s.dev.parkedAt s.now q = some p) :
    Leads (.hangNoProgress q) { s with dev := s.dev.noteNoProgress q p } (s.dev.noteNoProgress q p) := by
  have hleads := hangNoProgress_leads { s with dev := s.dev.noteNoProgress q p } q
  rwa [Dev.noProgress_noteNoProgress hp] at hleads

/-- Settles O58: a wait that is not due leaves the device as it is, and one that is due is recorded, counted and remembered, so
that a second look finds it no longer due. -/
theorem hangWithoutProgress : Obligations.HangWithoutProgress := by
  intro s q d
  refine ⟨fun hoff => ?disabled, fun hnone => ?notParked, fun p hp hen => ⟨fun hquiet => ?quiet, fun hto hlong hnew => ?due⟩⟩
  case disabled =>
    refine hangNoProgress_leads_self fun p _ hdue => ?_
    obtain ⟨hen, -⟩ := hdue
    exact Bool.false_ne_true (hoff.symm.trans hen)
  case notParked =>
    refine hangNoProgress_leads_self fun p hp => ?_
    cases hnone.symm.trans hp
  case quiet =>
    refine hangNoProgress_leads_self fun p' hp' hdue => ?_
    obtain rfl : p = p' := Option.some.inj (hp.symm.trans hp')
    obtain ⟨-, hto, hnew, hlong⟩ := hdue
    rcases hquiet with hpoints | hshort | hknown
    · exact hpoints hto
    · exact absurd hlong (Nat.not_le.mpr hshort)
    · exact hnew hknown
  case due =>
    exact ⟨d.noteNoProgress q p, hangNoProgress_leads_note hp ⟨hen, hto, hnew, hlong⟩, d.noteNoProgress_box q p,
      d.mem_noteNoProgress_noProg q p, d.noteNoProgress_frame q p, fun f hf => d.get_noteNoProgress q p hf,
      d.noteNoProgress q p, hangNoProgress_leads_once hp, rfl⟩

end Sys2Proof.Machine
end

section
/-!
PROOFS. Debug level 2 in Test: what a GO and its error record leave alone, what W1 and W2 clear, and that the level opens
only after them (R498, R499).
-/

namespace Sys2Proof.Machine

/-! ### What a debug level lays open -/

/-- The debug level, and the parts of the device that level 2 lays open. -/
structure Exposed where
  debug : Nat
  mem : Memory
  lost : List (Nat × Nat)
  slice : SliceMem
  stk : Tbl Stack
  links : Tbl Link

/-- The debug level of a device, and what level 2 lays open of it. -/
def Dev.exposed (d : Dev) : Exposed := ⟨d.lcs.debug, d.mem, d.lost, d.slice, d.stk, d.cxl.links⟩

/-- Memory and slices are empty, no stack holds a memory key, and no link an IDE key: what W1 and W2 leave (Table 15-7). -/
def Exposed.Wiped (x : Exposed) : Prop :=
  x.mem = [] ∧ x.lost = [] ∧ x.slice = [] ∧ (∀ k, (Tbl.look Stack.reset x.stk k).keys = []) ∧
    ∀ k, (Tbl.look Link.reset x.links k).ideKeys = false

theorem Exposed.wiped_debug (x : Exposed) (v : Nat) : { x with debug := v }.Wiped ↔ x.Wiped := Iff.rfl

/-! ### Registers, records and the challenge lay nothing open -/

@[simp] theorem Dev.exposed_setReg (d : Dev) (off w : Nat) : (d.setReg off w).exposed = d.exposed := rfl

@[simp] theorem Dev.exposed_set (d : Dev) (f : Fld) (v : Nat) : (d.set f v).exposed = d.exposed := rfl

@[simp] theorem Dev.exposed_sat (d : Dev) (f : Fld) (k : Nat) : (d.sat f k).exposed = d.exposed := rfl

@[simp] theorem Dev.exposed_wrap (d : Dev) (f : Fld) (k : Nat) : (d.wrap f k).exposed = d.exposed := rfl

@[simp] theorem Dev.exposed_ras (d : Dev) (r : Ras) : { d with ras := r }.exposed = d.exposed := rfl

@[simp] theorem Dev.exposed_comp (d : Dev) (c : Comp) : { d with comp := c }.exposed = d.exposed := rfl

@[simp] theorem Dev.exposed_raise (d : Dev) (code unit sub : Nat) (sev : Sev) (l : List Nat) (who : Option (Nat × Nat)) :
    (d.raise code unit sub sev l who).exposed = d.exposed := rfl

@[simp] theorem Dev.exposed_interrupt (d : Dev) (fn vec : Nat) : (d.interrupt fn vec).exposed = d.exposed := rfl

theorem Dev.exposed_raiseLimited (d : Dev) (now key ns : Nat) {f : Dev → Dev} (h : ∀ e, (f e).exposed = e.exposed) :
    (d.raiseLimited now key ns f).exposed = d.exposed := by
  unfold Dev.raiseLimited
  split
  · split
    · rfl
    · exact h _
  · exact h _

theorem Dev.exposed_foldl {α : Type} {f : Dev → α → Dev} (h : ∀ d a, (f d a).exposed = d.exposed) (l : List α) (d : Dev) :
    (l.foldl f d).exposed = d.exposed := by
  induction l generalizing d with
  | nil => rfl
  | cons a l ih => rw [List.foldl_cons, ih, h]

@[simp] theorem Dev.exposed_flashDrop (d : Dev) : d.flashDrop.exposed = d.exposed := by
  simp [Dev.flashDrop, apply_ite Dev.exposed]

@[simp] theorem Dev.exposed_flashTrim (n : Nat) (d : Dev) : (Dev.flashTrim n d).exposed = d.exposed := by
  induction n generalizing d with
  | zero => rfl
  | succ n ih =>
    unfold Dev.flashTrim
    split
    · rfl
    · rw [ih, Dev.exposed_flashDrop]

@[simp] theorem Dev.exposed_logFlash (d : Dev) (r : ErrRec) : (d.logFlash r).exposed = d.exposed :=
  Dev.exposed_flashTrim ..

@[simp] theorem Dev.exposed_notify (d : Dev) (now : Nat) (r : Option ErrRec) (extra : List Nat) :
    (d.notify now r extra).exposed = d.exposed := by
  unfold Dev.notify
  cases r <;> dsimp only <;> split <;> rfl

@[simp] theorem Dev.exposed_errqSignal (d : Dev) (now : Nat) : (d.errqSignal now).exposed = d.exposed := by
  unfold Dev.errqSignal
  dsimp only
  split
  · exact Dev.exposed_raiseLimited _ _ _ _ fun e => e.exposed_interrupt _ _
  · rfl

@[simp] theorem Dev.exposed_errqPut (d : Dev) (now : Nat) (r : ErrRec) : (d.errqPut now r).exposed = d.exposed := by
  simp [Dev.errqPut]

@[simp] theorem Dev.exposed_errqLose (d : Dev) (r : ErrRec) : (d.errqLose r).exposed = d.exposed := by
  simp [Dev.errqLose, apply_ite Dev.exposed]

@[simp] theorem Dev.exposed_errqWrite (d : Dev) (now : Nat) (r : ErrRec) : (d.errqWrite now r).exposed = d.exposed := by
  simp [Dev.errqWrite, apply_ite Dev.exposed]

@[simp] theorem Dev.exposed_report (d : Dev) (now : Nat) (r : ErrRec) (log : Bool) :
    (d.report now r log).exposed = d.exposed := by
  simp [Dev.report, apply_ite Dev.exposed]

@[simp] theorem Dev.exposed_reportNow (d : Dev) (now code unit sub : Nat) (sev : Sev) (l : List Nat) (log : Bool)
    (who : Option (Nat × Nat)) : (d.reportNow now code unit sub sev l log who).exposed = d.exposed := by
  unfold Dev.reportNow
  dsimp only
  split <;> simp

@[simp] theorem Dev.exposed_deny (d : Dev) (now path off : Nat) : (d.deny now path off).exposed = d.exposed :=
  (Dev.exposed_raiseLimited _ _ _ _ fun _ => Dev.exposed_raise ..).trans (d.exposed_sat _ _)

@[simp] theorem Dev.exposed_reseed (d : Dev) : d.reseed.exposed = d.exposed := rfl

@[simp] theorem Dev.exposed_newChallenge (d : Dev) : d.newChallenge.exposed = d.exposed := by
  unfold Dev.newChallenge
  split <;> rfl

/-! ### GO (R494) -/

@[simp] theorem Dev.exposed_goRefused (d : Dev) (now action cause : Nat) :
    (d.goRefused now action cause).exposed = d.exposed := by
  simp [Dev.goRefused]

@[simp] theorem Dev.exposed_goDone (d : Dev) : d.goDone.exposed = d.exposed := by
  simp [Dev.goDone]

/-- A GO is performed, no cause of refusal holding, or lays nothing open. -/
theorem Dev.go_cases (d : Dev) (now path action : Nat) (causes : Dev → List (Nat × Bool)) (f : Dev → Dev) :
    (d.go now path action causes f).exposed = d.exposed ∨
      firstCause (causes (d.set LCS_TRANSITION.ACTION action)) = none ∧
        d.go now path action causes f = f (d.set LCS_TRANSITION.ACTION action) := by
  unfold Dev.go Dev.writeThrough
  dsimp only
  split
  case isTrue => exact .inl (Dev.exposed_deny ..)
  case isFalse =>
    split
    case isTrue => exact .inl rfl
    case isFalse =>
      split
      case h_1 c _ => exact .inl (Dev.exposed_goRefused ..)
      case h_2 hnone => exact .inr ⟨hnone, rfl⟩

theorem Dev.go_of_no_cause {d : Dev} {now path action : Nat} {causes : Dev → List (Nat × Bool)} {f : Dev → Dev}
    (hwrite : MayWrite d path LCS_TRANSITION.off)
    (hnone : firstCause (causes (d.set LCS_TRANSITION.ACTION action)) = none) :
    d.go now path action causes f = f (d.set LCS_TRANSITION.ACTION action) := by
  obtain ⟨hmay, hup⟩ := hwrite
  simp [Dev.go, Dev.writeThrough, hmay, hup, hnone]

/-! ### The wipes (Table 15-7) -/

/-- What holds of the default and of every changed value holds of each value of the changed table. -/
theorem Tbl.look_mapV {α : Type} {P : α → Prop} {d : α} {f : Nat → α → α} {k : Nat} (hd : P d) (hf : ∀ a, P (f k a))
    (t : Tbl α) : P (Tbl.look d (Tbl.mapV f t) k) := by
  rw [Tbl.look, Tbl.find_mapV]
  cases Tbl.find t k with
  | none => exact hd
  | some a => exact hf a

theorem Dev.exposed_wipeNo_one (d : Dev) : (d.wipeNo 1).exposed = { d.exposed with mem := [], lost := [], slice := [] } := rfl

theorem Dev.exposed_wipeNo_two (d : Dev) :
    (d.wipeNo 2).exposed = { d.exposed with
      stk := Tbl.mapV (fun _ t => { t with keys := [] }) d.stk
      links := Tbl.mapV (fun _ l => { l with ideKeys := false }) d.cxl.links } := by
  have hstat : ∀ (e : Dev) (s : Nat),
      (if e.reg (STK_KEYSTAT.off s) = 0 then e else e.setReg (STK_KEYSTAT.off s) 0).exposed = e.exposed := by
    intro e s
    split
    · rfl
    · exact e.exposed_setReg ..
  simp only [Dev.wipeNo, Dev.exposed_reseed, Dev.exposed_foldl hstat]
  rfl

/-- W1 and then W2 leave nothing of what level 2 lays open. -/
theorem Dev.wiped_wipeNo (d : Dev) : ((d.wipeNo 1).wipeNo 2).exposed.Wiped := by
  have hkeys : ∀ k, (Tbl.look Stack.reset (Tbl.mapV (fun _ t => { t with keys := [] }) d.stk) k).keys = [] := fun k =>
    Tbl.look_mapV (P := fun t : Stack => t.keys = []) rfl (fun _ => rfl) d.stk
  have hide : ∀ k, (Tbl.look Link.reset (Tbl.mapV (fun _ l => { l with ideKeys := false }) d.cxl.links) k).ideKeys = false :=
    fun k => Tbl.look_mapV (P := fun l : Link => l.ideKeys = false) rfl (fun _ => rfl) d.cxl.links
  rw [Dev.exposed_wipeNo_two, Dev.exposed_wipeNo_one]
  exact ⟨rfl, rfl, rfl, hkeys, hide⟩

/-! ### The debug level (R498) -/

theorem Dev.exposed_debugUp_of_le {d : Dev} {now path : Nat} (h : d.lcs.tokTarget ≤ d.lcs.debug) :
    (d.debugUp now path).exposed = d.exposed := by
  simp [Dev.debugUp, h]

theorem Dev.exposed_debugUp_of_lt {d : Dev} {now path : Nat} (h : d.lcs.debug < d.lcs.tokTarget) :
    (d.debugUp now path).exposed =
      { (if d.lcs.state = 1 ∧ d.lcs.tokTarget = 2 then (d.wipeNo 1).wipeNo 2 else d).exposed with
        debug := d.lcs.tokTarget } := by
  rw [Dev.debugUp, if_neg (Nat.not_le.mpr h), Dev.exposed_reportNow, Dev.exposed_goDone]
  rfl

/-- A debug level below 2 rises to 2 by a token for level 2 only. -/
theorem Dev.tokTarget_of_debugUp {d : Dev} {now path : Nat} (hlow : d.lcs.debug < 2)
    (hopen : (d.debugUp now path).exposed.debug = 2) : d.lcs.debug < d.lcs.tokTarget ∧ d.lcs.tokTarget = 2 := by
  rcases Nat.lt_or_ge d.lcs.debug d.lcs.tokTarget with hup | hstay
  · rw [Dev.exposed_debugUp_of_lt hup] at hopen
    exact ⟨hup, hopen⟩
  · rw [Dev.exposed_debugUp_of_le hstay] at hopen
    exact absurd hopen hlow.ne

/-- In Test, level 2 opens upon a wiped device (R499). -/
theorem Dev.wiped_debugUp {d : Dev} {now path : Nat} (htest : d.lcs.state = 1) (htwo : d.lcs.tokTarget = 2)
    (hup : d.lcs.debug < d.lcs.tokTarget) : (d.debugUp now path).exposed.Wiped := by
  rw [Dev.exposed_debugUp_of_lt hup, if_pos ⟨htest, htwo⟩]
  exact (Exposed.wiped_debug ..).mpr d.wiped_wipeNo

theorem firstCause_eq_none {l : List (Nat × Bool)} : firstCause l = none ↔ ∀ e ∈ l, e.2 = false := by
  simp [firstCause]

theorem Tbl.mem_of_find {α : Type} {t : Tbl α} {k : Nat} {a : α} (h : Tbl.find t k = some a) : (k, a) ∈ t := by
  induction t with
  | nil => cases h
  | cons e t ih =>
    obtain ⟨i, b⟩ := e
    rw [Tbl.find] at h
    split at h
    case isTrue hik =>
      cases h
      exact hik ▸ List.mem_cons_self
    case isFalse => exact List.mem_cons_of_mem _ (ih h)

theorem Dev.ast_free_of_allFree {d : Dev} (h : d.allFree = true) (a : Nat) : (d.ast a).state = .free := by
  rw [Dev.ast, Tbl.look]
  cases hfind : Tbl.find d.comp.asts a with
  | none => rfl
  | some x => exact eq_of_beq (List.all_eq_true.mp h _ (Tbl.mem_of_find hfind))

/-- The policy registers lie apart from LCS_TRANSITION, so that setting ACTION changes no cause of refusal of a debug level. -/
theorem Dev.debugCauses_set_action (d : Dev) (v path : Nat) (sig dev : Bool) :
    (d.set LCS_TRANSITION.ACTION v).debugCauses path sig dev = d.debugCauses path sig dev := by
  have hport : (d.set LCS_TRANSITION.ACTION v).get (LCS_POLICY_PORT.DEBUG path) = d.get (LCS_POLICY_PORT.DEBUG path) := by
    refine Dev.get_set_other _ _ _ _ ?_
    simp only [LCS_POLICY_PORT.DEBUG, LCS_POLICY_PORT.off, LCS_TRANSITION.ACTION, LCS_TRANSITION.off]
    omega
  simp only [Dev.debugCauses, Dev.debugPath, Dev.flag, hport, Dev.set_lcs]
  rfl

/-- In Test, a token for level 2 has cause 5 while an asterism is not FREE (R499). -/
theorem Dev.allFree_of_debugCauses {d : Dev} {path : Nat} {sig dev : Bool} (htest : d.lcs.state = 1)
    (htwo : d.lcs.tokTarget = 2) (hnone : firstCause (d.debugCauses path sig dev) = none) : d.allFree = true := by
  have hfive := firstCause_eq_none.mp hnone (5, d.lcs.state == 1 && d.lcs.tokTarget == 2 && !d.allFree)
    (by simp [Dev.debugCauses])
  simpa [htest, htwo] using hfive

/-! ### The command -/

/-- What DEBUG_UNLOCK makes of the device: a GO with ACTION 3. -/
def Dev.debugUnlock (d : Dev) (now path : Nat) (sig dev : Bool) : Dev :=
  d.go now path 3 (fun d => d.debugCauses path sig dev) fun d => d.debugUp now path

theorem debugUnlock_leads (s : State) (path : Nat) (sig dev : Bool) :
    Leads (.debugUnlock path sig dev) s (s.dev.debugUnlock s.now path sig dev) := rfl

theorem leads_unique {c : Instr} {s : State} {d e : Dev} (hd : Leads c s d) (he : Leads c s e) : e = d :=
  congrArg State.dev (Host.Outcome.next.inj (he.symm.trans hd))

/-- Where DEBUG_UNLOCK opens level 2 in Test, its GO was performed: cause 5 did not hold, and W1 and W2 ran. -/
theorem Dev.debugUnlock_opens {d : Dev} {now path : Nat} {sig dev : Bool} (htest : d.lcs.state = 1) (hlow : d.lcs.debug < 2)
    (hopen : (d.debugUnlock now path sig dev).exposed.debug = 2) :
    d.allFree = true ∧ (d.debugUnlock now path sig dev).exposed.Wiped := by
  rcases d.go_cases now path 3 (fun d => d.debugCauses path sig dev) fun d => d.debugUp now path with hsame | ⟨hnone, hup⟩
  · rw [Dev.debugUnlock, hsame] at hopen
    exact absurd hopen hlow.ne
  · rw [Dev.debugUnlock, hup] at hopen ⊢
    rw [← d.set_lcs LCS_TRANSITION.ACTION 3] at htest hlow
    obtain ⟨hrise, htwo⟩ := Dev.tokTarget_of_debugUp hlow hopen
    have hfree : (d.set LCS_TRANSITION.ACTION 3).allFree = true := Dev.allFree_of_debugCauses htest htwo hnone
    exact ⟨hfree, Dev.wiped_debugUp htest htwo hrise⟩

/-- DEBUG_UNLOCK without a cause of refusal raises the level to a higher TARGET. -/
theorem Dev.debug_debugUnlock {d : Dev} {now path : Nat} {sig dev : Bool} (hwrite : MayWrite d path LCS_TRANSITION.off)
    (hnone : firstCause (d.debugCauses path sig dev) = none) (hup : d.lcs.debug < d.lcs.tokTarget) :
    (d.debugUnlock now path sig dev).exposed.debug = d.lcs.tokTarget := by
  rw [← d.debugCauses_set_action 3] at hnone
  rw [← d.set_lcs LCS_TRANSITION.ACTION 3] at hup
  rw [Dev.debugUnlock, Dev.go_of_no_cause hwrite hnone, Dev.exposed_debugUp_of_lt hup]
  rfl

/-- Settles O60: level 2 opens only by a GO that found every asterism FREE and wiped the device first, and it opens where no
cause of refusal holds. -/
theorem debugInTest : Obligations.DebugInTest := by
  intro s path sig dev d htest hlow
  refine ⟨fun e he hopen => ?opens, fun htwo hwrite hnone => ?granted⟩
  case opens =>
    obtain rfl := leads_unique (debugUnlock_leads s path sig dev) he
    obtain ⟨hfree, hwiped⟩ := Dev.debugUnlock_opens htest hlow hopen
    exact ⟨Dev.ast_free_of_allFree hfree, hwiped⟩
  case granted =>
    have hup : d.lcs.debug < d.lcs.tokTarget := htwo ▸ hlow
    exact ⟨_, debugUnlock_leads s path sig dev, (Dev.debug_debugUnlock hwrite hnone hup).trans htwo⟩

end Sys2Proof.Machine
end

section
/-!
PROOFS. The machine as a whole: what one step does, and how a queue of commands is worked off.
-/

namespace Sys2Proof.Machine

/-- The device a command leaves depends on the time and the device alone, not on the queue behind it. -/
theorem exec_leads_of_queue {c : Instr} {s : State} {d : Dev} (h : Leads c s d) (l : List Instr) :
    Leads c { s with pending := l } d := by
  obtain ⟨e, he, hqueue⟩ := exec_leads c s
  obtain rfl := leads_unique h he
  exact hqueue l

/-- The two forms of a step: the front command's effect, or a tick. -/
theorem step_cases (s : State) :
    (∃ c l d, s.pending = c :: l ∧ step s = .next { s with pending := l, dev := d }) ∨
      (s.pending = [] ∧ step s = .next s.idle) := by
  cases hp : s.pending with
  | nil => exact .inr ⟨rfl, step_nil s hp⟩
  | cons c l =>
    obtain ⟨d, hd, -⟩ := exec_leads c { s with pending := l }
    exact .inl ⟨c, l, d, rfl, (step_cons s c l hp).trans hd⟩

/-- A command's effect followed by those of the commands behind it, in the order of the queue. -/
def execFold (o : Host.Outcome State Fault Refusal) (c : Instr) : Host.Outcome State Fault Refusal :=
  match o with
  | .next t => exec c t
  | x => x

theorem core_run_succ {n : Nat} {s t : State} (h : step s = .next t) :
    Host.Core.run core (n + 1) s = Host.Core.run core n t := by
  have hcore : core.step s = .next t := h
  simp only [Host.Core.run, hcore]

/-- Running a queue to its end is the fold of its commands' effects. -/
theorem run_drains (l : List Instr) (now : Nat) (d : Dev) :
    ∃ e : Dev, Host.Core.run core l.length ⟨l, now, d⟩ = .next ⟨[], now, e⟩ ∧
      l.foldl execFold (.next ⟨[], now, d⟩) = .next ⟨[], now, e⟩ := by
  induction l generalizing d with
  | nil => exact ⟨d, rfl, rfl⟩
  | cons c l ih =>
    obtain ⟨d', hc, hqueue⟩ := exec_leads c ⟨l, now, d⟩
    obtain ⟨e, hrun, hfold⟩ := ih d'
    have hstep : step ⟨c :: l, now, d⟩ = .next ⟨l, now, d'⟩ := (step_cons _ c l rfl).trans hc
    refine ⟨e, (core_run_succ hstep).trans hrun, ?_⟩
    have hfront : execFold (.next ⟨[], now, d⟩) c = .next ⟨[], now, d'⟩ := hqueue []
    rw [List.foldl_cons, hfront, hfold]

/-- Settles O1: the front command and the queue behind it are what `step` takes apart. -/
theorem stepRunsFront : Obligations.StepRunsFront := fun c s => step_cons _ c s.pending rfl

/-- Settles O2, by the two forms of a step. -/
theorem everyStepGoesOn : Obligations.EveryStepGoesOn := by
  intro s
  rcases step_cases s with ⟨c, l, d, hp, hs⟩ | ⟨hp, hs⟩
  · exact ⟨_, hs, by simp [hp], by simp [hp]⟩
  · exact ⟨_, hs, by simp [hp], by simp [hp]⟩

/-- Settles O3, by induction on the queue: each command leaves a device that does not depend on what waits behind it. -/
theorem queueDrains : Obligations.QueueDrains := by
  rintro ⟨l, now, d⟩
  exact run_drains l now d

/-- Settles O5: a step takes the front command away or adds one tick to the time. -/
theorem goodIsKept : Obligations.GoodIsKept := by
  rintro s t ⟨hwf, hnow⟩ hst
  rcases step_cases s with ⟨c, l, d, hp, hs⟩ | ⟨hp, hs⟩
  · obtain rfl := Host.Outcome.next.inj (hs.symm.trans hst)
    exact ⟨fun i hi => hwf i (hp ▸ List.mem_cons_of_mem c hi), hnow⟩
  · obtain rfl := Host.Outcome.next.inj (hs.symm.trans hst)
    refine ⟨by simpa using hwf, ?_⟩
    rw [State.idle_now, Nat.add_mod_right]
    exact hnow

end Sys2Proof.Machine
end

section
/-!
PROOFS. Register fields that share no bit, and writes through a path.
-/

namespace Sys2Proof.Machine

/-- Two fields share no bit: they lie in different registers, or apart in one of 64 bits. -/
def Fld.apart (f g : Fld) : Bool :=
  decide (g.off ≠ f.off) || (decide (g.lo + g.w ≤ f.lo ∨ f.lo + f.w ≤ g.lo) && decide (g.lo + g.w ≤ 64))

/-- A field keeps its value through a write of another. -/
theorem Dev.get_set_of_apart (d : Dev) (f g : Fld) (v : Nat) (h : f.apart g = true) : (d.set f v).get g = d.get g := by
  by_cases ho : g.off = f.off
  · obtain ⟨hd, hg⟩ : (g.lo + g.w ≤ f.lo ∨ f.lo + f.w ≤ g.lo) ∧ g.lo + g.w ≤ 64 := by
      simpa [Fld.apart, ho] using h
    exact Dev.get_set_apart d f g v ho hd hg
  · exact Dev.get_set_other d f g v ho

/-- A counter's step leaves every field apart from it. -/
theorem Dev.get_sat_of_apart (d : Dev) (f g : Fld) (k : Nat) (h : f.apart g = true) : (d.sat f k).get g = d.get g :=
  Dev.get_set_of_apart d f g _ h

theorem Dev.get_wrap_of_apart (d : Dev) (f g : Fld) (k : Nat) (h : f.apart g = true) : (d.wrap f k).get g = d.get g :=
  Dev.get_set_of_apart d f g _ h

/-- A value cut to its field's width reads back whole. -/
theorem Dev.get_set_bits (d : Dev) (f : Fld) (x lo : Nat) (h : f.lo + f.w ≤ 64) :
    (d.set f (bits x lo f.w)).get f = bits x lo f.w :=
  (Dev.get_set_same d f _ h).trans (Nat.mod_eq_of_lt (bits_lt x lo f.w))

/-- A wrapping counter's next value. -/
theorem Dev.get_wrap_same (d : Dev) (f : Fld) (k : Nat) (h : f.lo + f.w ≤ 64) :
    (d.wrap f k).get f = (d.get f + k) % 2 ^ f.w :=
  (Dev.get_set_same d f _ h).trans (Nat.mod_mod _ _)

/-- A field's value lies within its width. -/
theorem Dev.get_lt (d : Dev) (f : Fld) : d.get f < 2 ^ f.w := bits_lt _ _ _

/-- A write that its path may make takes effect. -/
theorem Dev.writeThrough_of_mayWrite {d : Dev} {path off : Nat} (h : MayWrite d path off) (now : Nat) (f : Dev → Dev) :
    d.writeThrough now path off f = f d := by
  obtain ⟨hmay, hup⟩ := h
  simp [Dev.writeThrough, hmay, hup]

end Sys2Proof.Machine
end

section
/-!
PROOFS. Memory: what counting, recording and waking leave of the stored granules, the canonical form through every
operation, and a granule read after it was written.
-/

namespace Sys2Proof.Machine

/-! ### Stored data -/

/-- All that is stored: the stacks' granules, what of them is lost, the slices' granules. -/
def Dev.stored (d : Dev) : Memory × List (Nat × Nat) × SliceMem := (d.mem, d.lost, d.slice)

theorem Dev.memWf_of_stored {d e : Dev} (h : e.stored = d.stored) (hd : d.memWf) : e.memWf := by
  obtain ⟨hmem, hlost, hslice⟩ : e.mem = d.mem ∧ e.lost = d.lost ∧ e.slice = d.slice := by simpa [Dev.stored] using h
  unfold Dev.memWf
  rwa [hmem, hlost, hslice]

theorem Dev.gran_of_stored {d e : Dev} (h : e.stored = d.stored) (k : Nat) : e.gran k = d.gran k := by
  obtain ⟨hmem, hlost, -⟩ : e.mem = d.mem ∧ e.lost = d.lost ∧ e.slice = d.slice := by simpa [Dev.stored] using h
  unfold Dev.gran
  rw [hmem, hlost]

theorem Dev.sgran_of_stored {d e : Dev} (h : e.stored = d.stored) (k : Nat) : e.sgran k = d.sgran k := by
  obtain ⟨-, -, hslice⟩ : e.mem = d.mem ∧ e.lost = d.lost ∧ e.slice = d.slice := by simpa [Dev.stored] using h
  unfold Dev.sgran
  rw [hslice]

/-! ### Counts, records and wakes store nothing -/

@[simp] theorem Dev.stored_set (d : Dev) (f : Fld) (v : Nat) : (d.set f v).stored = d.stored := rfl
@[simp] theorem Dev.stored_sat (d : Dev) (f : Fld) (k : Nat) : (d.sat f k).stored = d.stored := rfl
@[simp] theorem Dev.stored_wrap (d : Dev) (f : Fld) (k : Nat) : (d.wrap f k).stored = d.stored := rfl
@[simp] theorem Dev.stored_onStack (d : Dev) (s : Nat) (f : Stack → Stack) : (d.onStack s f).stored = d.stored := rfl
@[simp] theorem Dev.stored_raise (d : Dev) (code unit sub : Nat) (sev : Sev) (l : List Nat) (who : Option (Nat × Nat)) :
    (d.raise code unit sub sev l who).stored = d.stored := rfl
@[simp] theorem Dev.stored_activate (d : Dev) (s phys g : Nat) : (d.activate s phys g).stored = d.stored := rfl

@[simp] theorem Dev.stored_wakePkg (d : Dev) (src : Nat) : (d.wakePkg src).stored = d.stored := by
  unfold Dev.wakePkg
  split <;> rfl

@[simp] theorem Dev.stored_stackRate (d : Dev) (now s a code : Nat) (l : List Nat) (ctx : Nat) :
    (d.stackRate now s a code l ctx).stored = d.stored := by
  unfold Dev.stackRate
  dsimp only
  split
  · split <;> rfl
  · rfl

@[simp] theorem Dev.stored_metaRecord (d : Dev) (now s off : Nat) (g : Gran) (code : Nat) (who : Access) :
    (d.metaRecord now s off g code who).stored = d.stored := by
  unfold Dev.metaRecord
  split
  · rfl
  · split <;> simp

@[simp] theorem Dev.stored_eccCorrected (d : Dev) (now s phys g : Nat) : (d.eccCorrected now s phys g).stored = d.stored := by
  unfold Dev.eccCorrected
  dsimp only
  (repeat' split) <;> simp

/-! ### The canonical form -/

theorem Dev.memWf_eccPoison {d : Dev} (s phys g : Nat) (h : d.memWf) : (d.eccPoison s phys g).memWf := by
  unfold Dev.eccPoison
  dsimp only
  refine Dev.memWf_of_stored (Dev.stored_wakePkg _ 7) (Dev.memWf_of_stored (Dev.stored_raise ..) (Dev.memWf_setGran _ _ _ ?_))
  exact Dev.memWf_of_stored (by simp) h

theorem Dev.memWf_eccRead {d : Dev} (now s phys g : Nat) (ecc : Ecc) (h : d.memWf) : (d.eccRead now s phys g ecc).memWf := by
  cases ecc with
  | clean => exact h
  | corrected => exact Dev.memWf_of_stored (d.stored_eccCorrected now s phys g) h
  | uncorrectable =>
    unfold Dev.eccRead
    dsimp only
    split
    · exact h
    · exact Dev.memWf_eccPoison s phys g h

theorem Dev.memWf_readGran {d : Dev} (now l off : Nat) (who : Access) (ecc : Ecc) (h : d.memWf) :
    (d.readGran now l off who ecc).1.memWf := by
  have hread : ∀ s phys g, ((d.activate s phys g).eccRead now s phys g ecc).memWf := fun s phys g =>
    Dev.memWf_eccRead now s phys g ecc (Dev.memWf_of_stored (d.stored_activate s phys g) h)
  unfold Dev.readGran
  dsimp only
  split
  · exact Dev.memWf_of_stored (by simp) h
  · split
    · exact Dev.memWf_of_stored (Dev.stored_metaRecord ..) (hread _ _ _)
    · exact hread _ _ _

theorem Dev.memWf_writeGran {d : Dev} (now l off : Nat) (who : Access) (x : Line) (h : d.memWf) :
    (d.writeGran now l off who x).1.memWf := by
  unfold Dev.writeGran
  dsimp only
  split
  · exact Dev.memWf_of_stored (by simp) h
  · exact Dev.memWf_putGran _ _ _ _ (Dev.memWf_of_stored (by simp) h)

theorem Dev.memWf_rmwGran {d : Dev} (now l off : Nat) (who : Access) (ecc : Ecc) (f : Line → Line) (h : d.memWf) :
    (d.rmwGran now l off who ecc f).1.memWf := by
  have hread := Dev.memWf_readGran now l off who ecc h
  unfold Dev.rmwGran
  split
  case h_1 e code hr => rwa [hr] at hread
  case h_2 e old hr =>
    rw [hr] at hread
    exact Dev.memWf_putGran _ _ _ _ hread

/-- Settles O19: the laws of the canonical form, one for each operation. -/
theorem memoryStaysCanonical : Obligations.MemoryStaysCanonical :=
  ⟨reset_memWf, fun d h => ⟨fun now l off who x => Dev.memWf_writeGran now l off who x h,
    fun now l off who ecc => Dev.memWf_readGran now l off who ecc h,
    fun now l off who ecc f => Dev.memWf_rmwGran now l off who ecc f h, fun lo hi b => d.memWf_wipe lo hi b h,
    fun c => d.memWf_scrubChan c h, fun k => d.memWf_scrubSlice k h, fun lo hi b f => d.memWf_copyGrans lo hi b f h,
    fun j k => d.memWf_copySlice j k h, fun _ _ => d.memWf_copyGrans _ _ _ _ h, fun k g => d.memWf_setSgran k g h⟩⟩

/-! ### Read after write (R143, R146) -/

/-- Counting an activation leaves the key slots. -/
@[simp] theorem Dev.keyIn_activate (d : Dev) (s phys g n : Nat) : (d.activate s phys g).keyIn s n = d.keyIn s n := by
  simp [Dev.keyIn, Dev.activate]

/-- A granule as a requester of domain `dom` leaves it in stack `s`. -/
def Dev.sealed (d : Dev) (s dom : Nat) (x : Line) : Gran :=
  { data := x, dom := dom, clr := false, poison := false, dev := false, kgen := d.kgen s dom, key := d.keyIn s dom }

/-- With no mirror and no copy a whole write stores one granule and counts one activation. -/
theorem Dev.writeGran_of_plain {d : Dev} {l off : Nat} (now a dom ctx : Nat) (x : Line) (hoff : off < privateBase)
    (hslot : d.slotValid (chanStack l) dom = true) (hmove : ∀ m ∈ d.comp.moves, m.mirrors l (granOf off) = false)
    (hcopy : (d.stack (chanStack l)).copy = none) :
    d.writeGran now l off (.tagged a dom ctx) x =
      (((d.activate (chanStack l) (d.physChan l) (granOf off)).setGran (granKey (d.physChan l) (granOf off))
        (d.sealed (chanStack l) dom x)), none) := by
  have hcheck : d.slotCheck (chanStack l) off (.tagged a dom ctx) = none := by
    simp [Dev.slotCheck, hslot, Nat.not_le.mpr hoff]
  have hmoves : (d.comp.moves.filter fun m => m.mirrors l (granOf off)) = [] := by
    simpa [List.filter_eq_nil_iff] using hmove
  have hcopy' : ((d.activate (chanStack l) (d.physChan l) (granOf off)).stack (chanStack l)).copy = none := by
    simpa [Dev.activate] using hcopy
  unfold Dev.writeGran
  simp only [hcheck, Dev.putGran, Prod.mk.injEq, and_true]
  have hcomp : (d.activate (chanStack l) (d.physChan l) (granOf off)).comp = d.comp := rfl
  rw [hcomp, hmoves, List.foldl_nil, Dev.putSlot]
  rw [show ∀ e : Dev, ∀ k g, ((e.setGran k g).stack (chanStack l)).copy = (e.stack (chanStack l)).copy from
    fun _ _ _ => rfl, hcopy']
  rfl

/-- Keys and registers are those the write found: a stored granule is read under the domain that sealed it. -/
theorem Dev.readGran_clean {d : Dev} {l off dom : Nat} (now a ctx : Nat) (hoff : off < privateBase)
    (hslot : d.slotValid (chanStack l) dom = true) (dom' : Nat) (x : Line)
    (hg : d.gran (granKey (d.physChan l) (granOf off)) = d.sealed (chanStack l) dom' x) :
    (d.readGran now l off (.tagged a dom ctx) .clean).2 = if dom' = dom then .inr x else .inl 0x0208 := by
  have hcheck : d.slotCheck (chanStack l) off (.tagged a dom ctx) = none := by
    simp [Dev.slotCheck, hslot, Nat.not_le.mpr hoff]
  unfold Dev.readGran
  simp only [hcheck, Dev.eccRead]
  have hgran := (Dev.gran_of_stored (d.stored_activate (chanStack l) (d.physChan l) (granOf off))
    (granKey (d.physChan l) (granOf off))).trans hg
  rw [hgran]
  have hvalid : (d.activate (chanStack l) (d.physChan l) (granOf off)).slotValid (chanStack l) dom = true := hslot
  by_cases hdom : dom' = dom
  · subst hdom
    have hkgen : (d.activate (chanStack l) (d.physChan l) (granOf off)).kgen (chanStack l) dom' =
      d.kgen (chanStack l) dom' := rfl
    simp [Dev.metaCheck, Dev.sealed, Nat.not_le.mpr hoff, hvalid, hkgen, Dev.plain]
  · simp [Dev.metaCheck, Dev.sealed, Nat.not_le.mpr hoff, hvalid, hdom]

/-- Settles O18: the write seals the granule under its domain, which every later reader is checked against. -/
theorem writtenThenRead : Obligations.WrittenThenRead := by
  intro d now l off a dom ctx x hoff hslot hmove hcopy
  have hstored := fun k => Dev.gran_of_stored (d.stored_activate (chanStack l) (d.physChan l) (granOf off)) k
  rw [Dev.writeGran_of_plain now a dom ctx x hoff hslot hmove hcopy]
  obtain ⟨e, he⟩ : ∃ e, e = (d.activate (chanStack l) (d.physChan l) (granOf off)).setGran
    (granKey (d.physChan l) (granOf off)) (d.sealed (chanStack l) dom x) := ⟨_, rfl⟩
  have hphys : e.physChan l = d.physChan l := he ▸ rfl
  have hgran : e.gran (granKey (e.physChan l) (granOf off)) = e.sealed (chanStack l) dom x := by
    have hkey : e.keyIn (chanStack l) dom = d.keyIn (chanStack l) dom :=
      he ▸ d.keyIn_activate (chanStack l) (d.physChan l) (granOf off) dom
    have hkgen : e.kgen (chanStack l) dom = d.kgen (chanStack l) dom := he ▸ rfl
    rw [hphys, Dev.sealed, hkey, hkgen, he, Dev.gran_setGran_same]
    rfl
  have hvalid : e.slotValid (chanStack l) dom = true := he ▸ hslot
  rw [← he]
  refine ⟨rfl, fun k hk => ?_, fun now' a' ctx' => ?_, fun now' a' dom' ctx' hdom hslot' => ?_⟩
  · rw [he, Dev.gran_setGran_other _ _ _ _ hk, hstored]
  · exact (Dev.readGran_clean now' a' ctx' hoff hvalid dom x hgran).trans (if_pos rfl)
  · exact (Dev.readGran_clean now' a' ctx' hoff hslot' dom x hgran).trans (if_neg (Ne.symm hdom))

end Sys2Proof.Machine
end

section
/-!
PROOFS. Error records on their way to software (R440 to R446, R461, R462, R506): what each stage of the way leaves of the
device, and the coolant's records (R532).
-/

namespace Sys2Proof.Machine

/-! ### The flash log (R461) -/

theorem Dev.flashDrop_shape (d : Dev) : ∃ fl dumps snaps, d.flashDrop =
    { d with ras := { d.ras with flash := fl, dumps := dumps }, comp := { d.comp with snaps := snaps } } := by
  unfold Dev.flashDrop
  dsimp only
  (repeat' split) <;> exact ⟨_, _, _, rfl⟩

theorem Dev.flashTrim_shape (n : Nat) (d : Dev) : ∃ fl dumps snaps, Dev.flashTrim n d =
    { d with ras := { d.ras with flash := fl, dumps := dumps }, comp := { d.comp with snaps := snaps } } := by
  induction n generalizing d with
  | zero => exact ⟨_, _, _, rfl⟩
  | succ n ih =>
    unfold Dev.flashTrim
    split
    · exact ⟨_, _, _, rfl⟩
    · obtain ⟨fl, dumps, snaps, hdrop⟩ := d.flashDrop_shape
      obtain ⟨fl', dumps', snaps', htrim⟩ := ih d.flashDrop
      exact ⟨fl', dumps', snaps', by rw [htrim, hdrop]⟩

/-- A record written to the flash log differs the log alone: records, dump summaries and metering snapshots. -/
theorem Dev.logFlash_shape (d : Dev) (r : ErrRec) : ∃ fl dumps snaps, d.logFlash r =
    { d with ras := { d.ras with flash := fl, dumps := dumps }, comp := { d.comp with snaps := snaps } } := by
  obtain ⟨fl, dumps, snaps, h⟩ := Dev.flashTrim_shape 1024 { d with ras := { d.ras with flash := r :: d.ras.flash } }
  exact ⟨fl, dumps, snaps, h⟩

/-! ### Notices (R462, R516) -/

/-- What a notice may differ. -/
theorem Dev.notify_shape (d : Dev) (now : Nat) (r : Option ErrRec) (extra : List Nat) :
    (∃ regs ev alerts alertN ns box nseq, d.notify now r extra = { d with
      regs := regs, fw := { d.fw with events := ev }, mod := { d.mod with alerts := alerts, alertN := alertN }
      ras := { d.ras with notices := ns, noticeBox := box, noticeSeq := nseq } }) ∧
    ∀ f : Fld, f.off ≠ RAS_ERRQ_LOST.off → (d.notify now r extra).get f = d.get f := by
  unfold Dev.notify
  cases r <;> dsimp only <;> split
  · exact ⟨⟨_, _, _, _, _, _, _, rfl⟩, fun f hf => Dev.get_set_other _ _ _ _ hf⟩
  · exact ⟨⟨_, _, _, _, _, _, _, rfl⟩, fun f hf => rfl⟩
  · exact ⟨⟨_, _, _, _, _, _, _, rfl⟩, fun f hf => Dev.get_set_other _ _ _ _ hf⟩
  · exact ⟨⟨_, _, _, _, _, _, _, rfl⟩, fun f hf => rfl⟩

/-- With room a notice is held until it is acknowledged, and the record's code goes to the tray controller. -/
theorem Dev.notify_of_room {d : Dev} (now : Nat) (r : ErrRec) (h : d.ras.notices.length < 256) :
    r.code ∈ (d.notify now (some r) []).fw.events ∧ ∃ n, (d.notify now (some r) []).ras.notices = d.ras.notices ++ [n] ∧
      n.seq = d.ras.noticeSeq ∧ n.at_ = now ∧ n ∈ (d.notify now (some r) []).ras.noticeBox := by
  unfold Dev.notify
  dsimp only
  split
  case isTrue hfull => exact absurd hfull (Nat.not_le.mpr h)
  case isFalse => exact ⟨List.mem_cons_self, _, rfl, rfl, rfl, List.mem_cons_self⟩

/-! ### The ring (R443 to R446) -/

theorem Dev.raiseLimited_interrupt_shape (d : Dev) (now key ns fn vec : Nat) : ∃ rates intr,
    d.raiseLimited now key ns (fun d => d.interrupt fn vec) =
      { d with ras := { d.ras with rates := rates }, hif := { d.hif with intr := intr } } := by
  unfold Dev.raiseLimited
  split
  · split <;> exact ⟨_, _, rfl⟩
  · exact ⟨_, _, rfl⟩

theorem Dev.errqSignal_shape (d : Dev) (now : Nat) : ∃ rates intr,
    d.errqSignal now = { d with ras := { d.ras with rates := rates }, hif := { d.hif with intr := intr } } := by
  unfold Dev.errqSignal
  dsimp only
  split
  · exact d.raiseLimited_interrupt_shape ..
  · exact ⟨_, _, rfl⟩

/-- The record as the ring holds it at its next position. -/
def Dev.phased (d : Dev) (r : ErrRec) : ErrRec :=
  { r with phase := phaseOf (d.get RAS_ERRQ_SIZE.LOG2N) (d.get RAS_ERRQ_TAIL.TAIL) }

/-- Writing a record into the ring: its slot, TAIL, and the interrupt. -/
theorem Dev.errqPut_shape (d : Dev) (now : Nat) (r : ErrRec) : ∃ rates intr, d.errqPut now r =
    { d.wrap RAS_ERRQ_TAIL.TAIL 1 with
      ras := { d.ras with rates := rates, ring := Tbl.put d.ras.ring (d.get RAS_ERRQ_TAIL.TAIL % d.errqSize) (d.phased r) }
      hif := { d.hif with intr := intr } } := by
  unfold Dev.errqPut
  dsimp only
  obtain ⟨rates, intr, h⟩ := Dev.errqSignal_shape (({ d with ras := { d.ras with
    ring := Tbl.put d.ras.ring (d.get RAS_ERRQ_TAIL.TAIL % d.errqSize) (d.phased r) } }).wrap RAS_ERRQ_TAIL.TAIL 1) now
  exact ⟨rates, intr, h⟩

/-- A lost record: counted, the overflow episode under way; the ring is as it was. -/
theorem Dev.errqLose_shape (d : Dev) (r : ErrRec) :
    (∃ regs lost crit fl dumps snaps, d.errqLose r = { d with
      regs := regs, comp := { d.comp with snaps := snaps }
      ras := { d.ras with lost := lost, critLost := crit, overflow := true, flash := fl, dumps := dumps } }) ∧
    ∀ f : Fld, f.off ≠ RAS_ERRQ_LOST.off → (d.errqLose r).get f = d.get f := by
  have hcount : ∀ f : Fld, f.off ≠ RAS_ERRQ_LOST.off →
      (if r.crit then (d.sat RAS_ERRQ_LOST.LOST 1).sat RAS_ERRQ_LOST.CRIT_LOST 1 else d.sat RAS_ERRQ_LOST.LOST 1).get f =
        d.get f := by
    intro f hf
    have hlost : (d.sat RAS_ERRQ_LOST.LOST 1).get f = d.get f := Dev.get_set_other _ _ _ _ hf
    split
    · exact (Dev.get_set_other _ _ _ _ hf).trans hlost
    · exact hlost
  unfold Dev.errqLose
  dsimp only
  split
  · obtain ⟨fl, dumps, snaps, h⟩ := Dev.logFlash_shape _ _
    rw [h]
    refine ⟨?_, fun f hf => hcount f hf⟩
    split <;> exact ⟨_, _, _, _, _, _, rfl⟩
  · refine ⟨?_, fun f hf => hcount f hf⟩
    split <;> exact ⟨_, _, _, _, _, _, rfl⟩

/-! ### Firmware receives a record -/

/-- A record as firmware numbers and marks it. -/
def Dev.numbered (d : Dev) (r : ErrRec) (flash : Bool) : ErrRec :=
  { r with seq := d.ras.seq, notice := r.noticed, flash := flash }

/-- Does a record received now go to the flash log by its severity? -/
def Dev.flashes (d : Dev) (r : ErrRec) (log : Bool) : Bool :=
  log || r.sev == 4 || (!d.flag RAS_ERRQ_BASE.EN && decide (d.ras.heldBoot.length < 256) && r.sev == 3)

/-- The device once a record has its number, its notice and its place in the flash log. -/
def Dev.received (d : Dev) (now : Nat) (r : ErrRec) (flash : Bool) : Dev :=
  let d' := { d with ras := { d.ras with seq := wrapAdd 32 d.ras.seq 1 } }
  let d' := if r.noticed then d'.notify now (some (d.numbered r flash)) [] else d'
  if flash then d'.logFlash (d.numbered r flash) else d'

theorem Dev.report_eq (d : Dev) (now : Nat) (r : ErrRec) (log : Bool) : d.report now r log =
    if d.flag RAS_ERRQ_BASE.EN then (d.received now r (d.flashes r log)).errqWrite now (d.numbered r (d.flashes r log))
    else if decide (d.ras.heldBoot.length < 256) then
      { d.received now r (d.flashes r log) with ras := { (d.received now r (d.flashes r log)).ras with
        heldBoot := (d.received now r (d.flashes r log)).ras.heldBoot ++ [d.numbered r (d.flashes r log)] } }
    else (d.received now r (d.flashes r log)).errqLose (d.numbered r (d.flashes r log)) := rfl

/-- A record without a notice, not logged, changes the device's count alone before it is written. -/
theorem Dev.received_quiet {d : Dev} {r : ErrRec} (now : Nat) (h : r.noticed = false) :
    d.received now r false = { d with ras := { d.ras with seq := wrapAdd 32 d.ras.seq 1 } } := by
  simp [Dev.received, h]

theorem Dev.received_shape (d : Dev) (now : Nat) (r : ErrRec) (flash : Bool) :
    (∃ regs fw mod ns box nseq fl dumps snaps, d.received now r flash = { d with
      regs := regs, fw := fw, mod := mod, comp := { d.comp with snaps := snaps }
      ras := { d.ras with seq := wrapAdd 32 d.ras.seq 1, notices := ns, noticeBox := box, noticeSeq := nseq
                          flash := fl, dumps := dumps } }) ∧
    ∀ f : Fld, f.off ≠ RAS_ERRQ_LOST.off → (d.received now r flash).get f = d.get f := by
  obtain ⟨⟨regs, ev, al, an, ns, box, nseq, h⟩, hget⟩ := Dev.notify_shape
    { d with ras := { d.ras with seq := wrapAdd 32 d.ras.seq 1 } } now (some (d.numbered r flash)) []
  have hlog := fun e : Dev => e.logFlash_shape (d.numbered r flash)
  unfold Dev.received
  cases hn : r.noticed <;> cases flash <;> simp only [if_true, Bool.false_eq_true, if_false]
  · exact ⟨⟨_, _, _, _, _, _, _, _, _, rfl⟩, fun _ _ => rfl⟩
  · obtain ⟨fl, dumps, snaps, hl⟩ := hlog { d with ras := { d.ras with seq := wrapAdd 32 d.ras.seq 1 } }
    rw [hl]
    exact ⟨⟨_, _, _, _, _, _, _, _, _, rfl⟩, fun _ _ => rfl⟩
  · exact ⟨⟨_, _, _, _, _, _, _, _, _, h⟩, hget⟩
  · obtain ⟨fl, dumps, snaps, hl⟩ := hlog (({ d with ras := { d.ras with seq := wrapAdd 32 d.ras.seq 1 } } : Dev).notify now
      (some (d.numbered r true)) [])
    rw [hl]
    refine ⟨?_, hget⟩
    rw [h]
    exact ⟨_, _, _, _, _, _, _, _, _, rfl⟩

/-- A noticed record is among the notices held once it is received. -/
theorem Dev.received_notice {d : Dev} {r : ErrRec} (now : Nat) (flash : Bool) (hn : r.noticed = true)
    (hroom : d.ras.notices.length < 256) :
    r.code ∈ (d.received now r flash).fw.events ∧ ∃ n, (d.received now r flash).ras.notices = d.ras.notices ++ [n] ∧
      n.seq = d.ras.noticeSeq ∧ n.at_ = now ∧ n ∈ (d.received now r flash).ras.noticeBox := by
  have hnotify := Dev.notify_of_room (d := { d with ras := { d.ras with seq := wrapAdd 32 d.ras.seq 1 } }) now
    (d.numbered r flash) hroom
  unfold Dev.received
  simp only [hn, if_true]
  split
  · obtain ⟨fl, dumps, snaps, hl⟩ := Dev.logFlash_shape (({ d with ras := { d.ras with
      seq := wrapAdd 32 d.ras.seq 1 } } : Dev).notify now (some (d.numbered r flash)) []) (d.numbered r flash)
    rw [hl]
    exact hnotify
  · exact hnotify

/-- Whether there is room in the ring is read off the ring's registers alone. -/
theorem Dev.errqRoom_received (d : Dev) (now : Nat) (r : ErrRec) (flash crit : Bool) :
    (d.received now r flash).errqRoom crit = d.errqRoom crit := by
  obtain ⟨-, hget⟩ := d.received_shape now r flash
  unfold Dev.errqRoom Dev.errqUsed Dev.errqSize
  rw [hget RAS_ERRQ_TAIL.TAIL (by decide), hget RAS_ERRQ_HEAD.HEAD (by decide), hget RAS_ERRQ_SIZE.LOG2N (by decide),
    hget RAS_ERRQ_SIZE.RESV (by decide)]

theorem Dev.errqPut_get (d : Dev) (now : Nat) (r : ErrRec) {f : Fld} (hf : f.off ≠ RAS_ERRQ_TAIL.off) :
    (d.errqPut now r).get f = d.get f := by
  obtain ⟨rates, intr, h⟩ := d.errqPut_shape now r
  rw [h]
  exact Dev.get_set_other _ _ _ _ hf

theorem Dev.errqPut_tail (d : Dev) (now : Nat) (r : ErrRec) :
    (d.errqPut now r).get RAS_ERRQ_TAIL.TAIL = (d.get RAS_ERRQ_TAIL.TAIL + 1) % 2 ^ 32 := by
  obtain ⟨rates, intr, h⟩ := d.errqPut_shape now r
  rw [h]
  exact (Dev.get_set_same _ _ _ (by decide)).trans (Nat.mod_mod _ _)

/-- What a record written or lost may differ. -/
theorem Dev.errqWrite_shape (d : Dev) (now : Nat) (r : ErrRec) : ∃ regs ras intr snaps, d.errqWrite now r =
    { d with regs := regs, ras := ras, hif := { d.hif with intr := intr }, comp := { d.comp with snaps := snaps } } := by
  unfold Dev.errqWrite
  split
  · obtain ⟨rates, intr, h⟩ := d.errqPut_shape now r
    exact ⟨_, _, _, _, h⟩
  · obtain ⟨⟨regs, lost, crit, fl, dumps, snaps, h⟩, -⟩ := d.errqLose_shape r
    exact ⟨_, _, _, _, h⟩

/-- Where no overflow episode runs, none ends (R445). -/
theorem Dev.episodeEnd_of_none {d : Dev} (now : Nat) (h : d.ras.overflow = false) : d.episodeEnd now = d := by
  simp [Dev.episodeEnd, h]

/-! ### The statement's clauses -/

theorem errorRecord_leads (s : State) {r : ErrRec} {l : List ErrRec} (h : s.dev.ras.box = r :: l) :
    Leads .errorRecord s (({ s.dev with ras := { s.dev.ras with box := l } } : Dev).report s.now r) := by
  unfold Leads
  simp only [exec, execErrorRecord, State.run_eq, h]

/-- The record with the device it finds, once it is off the box. -/
def Dev.unboxed (d : Dev) (l : List ErrRec) : Dev := { d with ras := { d.ras with box := l } }

theorem Dev.flashes_of_enabled {d : Dev} (r : ErrRec) (h : d.flag RAS_ERRQ_BASE.EN = true) :
    d.flashes r false = (r.sev == 4) := by
  simp [Dev.flashes, h]

/-- With the ring enabled and room in it, a record stands in the ring's next place. -/
theorem Dev.report_of_room {d : Dev} (now : Nat) {r : ErrRec} (hen : d.flag RAS_ERRQ_BASE.EN = true)
    (hroom : d.errqRoom r.crit = true) :
    d.report now r = (d.received now r (r.sev == 4)).errqPut now (d.numbered r (r.sev == 4)) := by
  have hcrit : (d.numbered r (r.sev == 4)).crit = r.crit := rfl
  rw [Dev.report_eq, if_pos hen, Dev.flashes_of_enabled r hen, Dev.errqWrite, Dev.errqRoom_received, hcrit, if_pos hroom]

theorem Dev.report_of_no_room {d : Dev} (now : Nat) {r : ErrRec} (hen : d.flag RAS_ERRQ_BASE.EN = true)
    (hroom : d.errqRoom r.crit = false) :
    d.report now r = (d.received now r (r.sev == 4)).errqLose (d.numbered r (r.sev == 4)) := by
  have hcrit : (d.numbered r (r.sev == 4)).crit = r.crit := rfl
  rw [Dev.report_eq, if_pos hen, Dev.flashes_of_enabled r hen, Dev.errqWrite, Dev.errqRoom_received, hcrit, if_neg (by simp [hroom])]

theorem Dev.report_of_disabled {d : Dev} (now : Nat) {r : ErrRec} (hen : d.flag RAS_ERRQ_BASE.EN = false)
    (hheld : d.ras.heldBoot.length < 256) : ∃ fl, d.report now r =
      { d.received now r fl with ras := { (d.received now r fl).ras with
        heldBoot := (d.received now r fl).ras.heldBoot ++ [d.numbered r fl] } } := by
  refine ⟨d.flashes r false, ?_⟩
  rw [Dev.report_eq, if_neg (by simp [hen]), if_pos (by simpa using hheld)]

/-- However a record goes on, what was noticed of it stays. -/
theorem Dev.report_notices (d : Dev) (now : Nat) (r : ErrRec) (log : Bool) : ∃ fl,
    (d.report now r log).fw.events = (d.received now r fl).fw.events ∧
    (d.report now r log).ras.notices = (d.received now r fl).ras.notices ∧
    (d.report now r log).ras.noticeBox = (d.received now r fl).ras.noticeBox := by
  refine ⟨d.flashes r log, ?_⟩
  have hlose : ∀ e : Dev, ∀ x, (e.errqLose x).fw.events = e.fw.events ∧ (e.errqLose x).ras.notices = e.ras.notices ∧
      (e.errqLose x).ras.noticeBox = e.ras.noticeBox := by
    intro e x
    obtain ⟨⟨regs, lost, crit, fl, dumps, snaps, h⟩, -⟩ := e.errqLose_shape x
    rw [h]
    exact ⟨rfl, rfl, rfl⟩
  rw [Dev.report_eq]
  split
  · unfold Dev.errqWrite
    split
    · obtain ⟨rates, intr, h⟩ := (d.received now r (d.flashes r log)).errqPut_shape now (d.numbered r (d.flashes r log))
      rw [h]
      exact ⟨rfl, rfl, rfl⟩
    · exact hlose _ _
  · split
    · exact ⟨rfl, rfl, rfl⟩
    · exact hlose _ _

/-- What a record that reached the ring leaves (R443, R444). -/
theorem Dev.report_ring {d : Dev} (now : Nat) {r : ErrRec} (hen : d.flag RAS_ERRQ_BASE.EN = true)
    (hroom : d.errqRoom r.crit = true) :
    let e := d.report now r
    e.ras.box = d.ras.box ∧
      Tbl.find e.ras.ring (d.get RAS_ERRQ_TAIL.TAIL % 2 ^ d.get RAS_ERRQ_SIZE.LOG2N) = some { r with
        seq := d.ras.seq, notice := r.noticed, flash := r.sev == 4
        phase := phaseOf (d.get RAS_ERRQ_SIZE.LOG2N) (d.get RAS_ERRQ_TAIL.TAIL) } ∧
      e.get RAS_ERRQ_TAIL.TAIL = (d.get RAS_ERRQ_TAIL.TAIL + 1) % 2 ^ 32 ∧ e.get RAS_ERRQ_HEAD.HEAD = d.get RAS_ERRQ_HEAD.HEAD ∧
      e.ras.seq = (d.ras.seq + 1) % 2 ^ 32 := by
  obtain ⟨⟨regs, fw, mod, ns, box, nseq, fl, dumps, snaps, hshape⟩, hget⟩ := d.received_shape now r (r.sev == 4)
  have htail := hget RAS_ERRQ_TAIL.TAIL (by decide)
  have hsize := hget RAS_ERRQ_SIZE.LOG2N (by decide)
  rw [Dev.report_of_room now hen hroom]
  refine ⟨?_, ?_, ?_, ?_, ?_⟩
  · obtain ⟨rates, intr, h⟩ := (d.received now r (r.sev == 4)).errqPut_shape now (d.numbered r (r.sev == 4))
    rw [h, hshape]
  · obtain ⟨rates, intr, h⟩ := (d.received now r (r.sev == 4)).errqPut_shape now (d.numbered r (r.sev == 4))
    rw [h, Dev.errqSize, Dev.phased, htail, hsize]
    exact Tbl.find_put_same _ _ _
  · rw [Dev.errqPut_tail, htail]
  · rw [Dev.errqPut_get _ _ _ (by decide), hget _ (by decide)]
  · obtain ⟨rates, intr, h⟩ := (d.received now r (r.sev == 4)).errqPut_shape now (d.numbered r (r.sev == 4))
    rw [h, hshape]
    rfl

/-- What a record that found no room leaves (R445). -/
theorem Dev.report_lost {d : Dev} (now : Nat) {r : ErrRec} (hen : d.flag RAS_ERRQ_BASE.EN = true)
    (hroom : d.errqRoom r.crit = false) :
    let e := d.report now r
    e.ras.box = d.ras.box ∧ e.ras.ring = d.ras.ring ∧ e.ras.overflow = true ∧
      e.get RAS_ERRQ_TAIL.TAIL = d.get RAS_ERRQ_TAIL.TAIL ∧ e.ras.seq = (d.ras.seq + 1) % 2 ^ 32 := by
  obtain ⟨⟨regs, fw, mod, ns, box, nseq, fl, dumps, snaps, hshape⟩, hget⟩ := d.received_shape now r (r.sev == 4)
  obtain ⟨⟨regs', lost, crit, fl', dumps', snaps', hlose⟩, hlget⟩ :=
    (d.received now r (r.sev == 4)).errqLose_shape (d.numbered r (r.sev == 4))
  rw [Dev.report_of_no_room now hen hroom]
  refine ⟨?_, ?_, ?_, (hlget _ (by decide)).trans (hget _ (by decide)), ?_⟩ <;> rw [hlose, hshape]
  rfl

/-- What a record held before the ring is enabled leaves (R506). -/
theorem Dev.report_held {d : Dev} (now : Nat) {r : ErrRec} (hen : d.flag RAS_ERRQ_BASE.EN = false)
    (hheld : d.ras.heldBoot.length < 256) :
    let e := d.report now r
    e.ras.box = d.ras.box ∧ e.ras.ring = d.ras.ring ∧ ∃ x, e.ras.heldBoot = d.ras.heldBoot ++ [x] ∧ x.code = r.code ∧
      x.seq = d.ras.seq ∧ x.detail = r.detail := by
  obtain ⟨fl, h⟩ := Dev.report_of_disabled now (r := r) hen hheld
  obtain ⟨⟨regs, fw, mod, ns, box, nseq, fl', dumps, snaps, hshape⟩, -⟩ := d.received_shape now r fl
  rw [h, hshape]
  exact ⟨rfl, rfl, _, rfl, rfl, rfl, rfl⟩

theorem Dev.noticeResend_cases (d : Dev) (now : Nat) {n : Notice} {l : List Notice} (h : d.ras.notices = n :: l) :
    (255 ≤ l.length ∧ n.at_ + second ≤ now) ↔ 256 ≤ d.ras.notices.length ∧ n.at_ + second ≤ now := by
  rw [h, List.length_cons]
  omega

theorem noticeResend_due {s : State} {n : Notice} {l : List Notice} (h : s.dev.ras.notices = n :: l) (hl : 255 ≤ l.length)
    (ht : n.at_ + second ≤ s.now) : Leads .noticeResend s { s.dev with ras := { s.dev.ras with
      notices := { n with at_ := s.now } :: l, noticeBox := { n with at_ := s.now } :: s.dev.ras.noticeBox } } := by
  have hdue := (Dev.noticeResend_cases s.dev s.now h).mp ⟨hl, ht⟩
  unfold Leads
  simp only [exec, execNoticeResend, State.run_eq, h] at hdue ⊢
  rw [if_pos hdue]

theorem noticeResend_not_due {s : State} {n : Notice} {l : List Notice} (h : s.dev.ras.notices = n :: l)
    (hnot : ¬ (255 ≤ l.length ∧ n.at_ + second ≤ s.now)) : Leads .noticeResend s s.dev := by
  have hdue := fun hd => hnot ((Dev.noticeResend_cases s.dev s.now h).mpr hd)
  unfold Leads
  simp only [exec, execNoticeResend, State.run_eq, h] at hdue ⊢
  rw [if_neg hdue]

/-- The ring's head register once a head write has been taken. -/
theorem rasErrqHeadWrite_leads (s : State) {path v : Nat} (h : MayWrite s.dev path RAS_ERRQ_HEAD.off) :
    Leads (.rasErrqHeadWrite path v) s (s.dev.errqHead s.now (v % 2 ^ 32))  := by
  have hlead : Leads (.rasErrqHeadWrite path v) s
    (s.dev.writeThrough s.now path RAS_ERRQ_HEAD.off fun d => d.errqHead s.now (v % 2 ^ 32)) := rfl
  rwa [Dev.writeThrough_of_mayWrite h] at hlead

/-- RAS_ERRQ_BASE's fields as a write leaves them (R506). -/
def Dev.errqBase (d : Dev) (v : Nat) : Dev :=
  let d' := (d.set RAS_ERRQ_BASE.BASE (bits v 6 58)).set RAS_ERRQ_BASE.EN (bits v 0 1)
  if bits v 1 3 ≤ 4 then d'.set RAS_ERRQ_BASE.SPACE (bits v 1 3) else d'

theorem Dev.errqBase_shape (d : Dev) (v : Nat) : ∃ regs, d.errqBase v = { d with regs := regs } := by
  unfold Dev.errqBase
  dsimp only
  split <;> exact ⟨_, rfl⟩

theorem Dev.errqBase_get (d : Dev) (v : Nat) :
    (d.errqBase v).get RAS_ERRQ_BASE.EN = bits v 0 1 ∧ (d.errqBase v).get RAS_ERRQ_BASE.BASE = bits v 6 58 ∧
      (d.errqBase v).get RAS_ERRQ_BASE.SPACE = if bits v 1 3 ≤ 4 then bits v 1 3 else d.get RAS_ERRQ_BASE.SPACE := by
  unfold Dev.errqBase
  dsimp only
  split
  · refine ⟨?_, ?_, Dev.get_set_bits _ _ v 1 (by decide)⟩
    · simp (disch := decide) only [Dev.get_set_of_apart]
      exact Dev.get_set_bits _ RAS_ERRQ_BASE.EN v 0 (by decide)
    · simp (disch := decide) only [Dev.get_set_of_apart]
      exact Dev.get_set_bits _ RAS_ERRQ_BASE.BASE v 6 (by decide)
  · refine ⟨Dev.get_set_bits _ _ v 0 (by decide), ?_, ?_⟩
    · simp (disch := decide) only [Dev.get_set_of_apart]
      exact Dev.get_set_bits _ RAS_ERRQ_BASE.BASE v 6 (by decide)
    · simp (disch := decide) only [Dev.get_set_of_apart]

/-- Settles O49: the record's way stage by stage. -/
theorem errorsAreReported : Obligations.ErrorsAreReported := by
  intro s d
  refine ⟨fun h => ?none, fun r l hbox => ?some, fun h => ?noNotice, fun n l h => ?notices, fun path v hw => ?head,
    fun path v hw hen hbit => ?enable, fun h now => Dev.episodeEnd_of_none now h⟩
  case none =>
    unfold Leads
    simp only [exec, execErrorRecord, State.run_eq, show s.dev.ras.box = [] from h]
    rfl
  case some =>
    have hlead := errorRecord_leads s hbox
    intro t used room
    refine ⟨fun hen hroom => ⟨_, hlead, Dev.report_ring (d := d.unboxed l) s.now hen (decide_eq_true hroom)⟩,
      fun hen hroom => ⟨_, hlead, Dev.report_lost (d := d.unboxed l) s.now hen (decide_eq_false hroom)⟩,
      fun hen hheld => ⟨_, hlead, Dev.report_held (d := d.unboxed l) s.now hen hheld⟩, fun hn hroom => ⟨_, hlead, ?_⟩⟩
    obtain ⟨fl, hev, hns, hbx⟩ := Dev.report_notices (d.unboxed l) s.now r false
    have hnotice := Dev.received_notice (d := d.unboxed l) s.now fl hn hroom
    rw [← hev, ← hns, ← hbx] at hnotice
    exact hnotice
  case noNotice =>
    unfold Leads
    simp only [exec, execNoticeResend, State.run_eq, show s.dev.ras.notices = [] from h]
    rfl
  case notices =>
    refine ⟨fun hl ht => ⟨_, noticeResend_due h hl ht, rfl, rfl⟩, fun hnot => noticeResend_not_due h ?_⟩
    unfold second
    omega
  case head =>
    have hlead := rasErrqHeadWrite_leads s (v := v) hw
    intro h used
    refine ⟨fun hle => ⟨d.set RAS_ERRQ_HEAD.HEAD (v % 2 ^ 32), ?_, ?_, rfl, Dev.get_set_other _ _ _ _ (by decide)⟩,
      fun hlt => ?_⟩
    · rw [Dev.errqHead, if_pos (show _ ≤ s.dev.errqUsed from hle)] at hlead
      exact hlead
    · exact (Dev.get_set_same _ _ _ (by decide)).trans (Nat.mod_mod _ _)
    · rwa [Dev.errqHead, if_neg (show ¬ _ ≤ s.dev.errqUsed from Nat.not_le.mpr hlt)] at hlead
  case enable =>
    obtain ⟨hget, hbase, hspace⟩ := d.errqBase_get v.toNat
    obtain ⟨regs, hshape⟩ := d.errqBase_shape v.toNat
    have hone : bits v.toNat 0 1 = 1 := by simpa [bit, bits] using hbit
    have hon : (d.errqBase v.toNat).flag RAS_ERRQ_BASE.EN = true := by simp [Dev.flag, hget, hone]
    have hheld : (d.errqBase v.toNat).ras.heldBoot = d.ras.heldBoot := by rw [hshape]
    refine ⟨{ d.errqBase v.toNat with ras := { (d.errqBase v.toNat).ras with heldBoot := [] } }, ?_, hon, hbase, rfl, hspace⟩
    have henable : s.dev.errqEnable s.now v = (d.ras.heldBoot.foldl (fun d r => Dev.errqWrite d s.now r)
        { d.errqBase v.toNat with ras := { (d.errqBase v.toNat).ras with heldBoot := [] } }).episodeEnd s.now := by
      rw [← hheld]
      exact if_pos (by rw [show s.dev.flag RAS_ERRQ_BASE.EN = false from hen]; exact hon)
    have hlead : Leads (.rasErrqEnable path v) s
      (s.dev.writeThrough s.now path RAS_ERRQ_BASE.off fun d => d.errqEnable s.now v) := rfl
    rwa [Dev.writeThrough_of_mayWrite hw, henable] at hlead

end Sys2Proof.Machine
end

section
/-!
PROOFS. Records that firmware makes itself, and those of the coolant and the leak trace (R532).
-/

namespace Sys2Proof.Machine

/-! ### Firmware's own records -/

/-- The record that an error leaves as its unit finds it (R440, R441). -/
def Dev.found (d : Dev) (code unit sub : Nat) (sev : Sev) (detail : List Nat) (who : Option (Nat × Nat)) : ErrRec where
  code := code
  unit := unit
  sub := sub
  sev := sev.code
  crit := sev.code ≥ 3 || code == 0x030C || code == 0x0A0B
  notice := false
  astv := who.isSome
  flash := false
  phase := false
  ast := (who.map (·.1)).getD 0
  ctx := (who.map (·.2)).getD 0
  seq := 0
  ticks := d.ticks
  detail := detail

theorem Dev.raise_box (d : Dev) (code unit sub : Nat) (sev : Sev) (l : List Nat) (who : Option (Nat × Nat)) :
    (d.raise code unit sub sev l who).ras.box = d.ras.box ++ [d.found code unit sub sev l who] := rfl

/-- Firmware's own record goes on at once and waits in no box. -/
theorem Dev.reportNow_eq (d : Dev) (now code unit sub : Nat) (sev : Sev) (l : List Nat) (log : Bool)
    (who : Option (Nat × Nat)) : d.reportNow now code unit sub sev l log who =
      d.report now (d.found code unit sub sev l who) log := by
  have hback : ({ d.raise code unit sub sev l who with ras := { (d.raise code unit sub sev l who).ras with
      box := d.ras.box } } : Dev) = d := rfl
  unfold Dev.reportNow
  dsimp only
  rw [Dev.raise_box, List.getLast?_concat, List.dropLast_concat, hback]

/-- A record without notice and not for the flash log goes to the ring, or is held, or is lost. -/
theorem Dev.report_quiet {d : Dev} {r : ErrRec} (now : Nat) (hn : r.noticed = false) (hs : r.sev < 3) :
    d.report now r = if d.flag RAS_ERRQ_BASE.EN then
        ({ d with ras := { d.ras with seq := wrapAdd 32 d.ras.seq 1 } } : Dev).errqWrite now (d.numbered r false)
      else if decide (d.ras.heldBoot.length < 256) then { d with ras := { d.ras with
        seq := wrapAdd 32 d.ras.seq 1, heldBoot := d.ras.heldBoot ++ [d.numbered r false] } }
      else ({ d with ras := { d.ras with seq := wrapAdd 32 d.ras.seq 1 } } : Dev).errqLose (d.numbered r false) := by
  have hfl : d.flashes r false = false := by
    have h3 : (r.sev == 3) = false := by simp; omega
    have h4 : (r.sev == 4) = false := by simp; omega
    simp [Dev.flashes, h3, h4]
  rw [Dev.report_eq, hfl, Dev.received_quiet now hn]

/-- A lost record that is not critical leaves the flash log. -/
theorem Dev.errqLose_plain (d : Dev) {r : ErrRec} (h : r.crit = false) : ∃ regs lost crit, d.errqLose r =
    { d with regs := regs, ras := { d.ras with lost := lost, critLost := crit, overflow := true } } := by
  unfold Dev.errqLose
  simp only [h, Bool.false_eq_true, if_false, false_and]
  exact ⟨_, _, _, rfl⟩

theorem Dev.errqWrite_plain (d : Dev) (now : Nat) {r : ErrRec} (h : r.crit = false) : ∃ (regs : Tbl Word) (ras : Ras)
    (intr : List (Nat × Nat)), d.errqWrite now r =
      { d with regs := regs, ras := ras, hif := { d.hif with intr := intr } } ∧ ras.seq = d.ras.seq := by
  unfold Dev.errqWrite
  split
  · obtain ⟨rates, intr, h⟩ := d.errqPut_shape now r
    exact ⟨_, _, _, h, rfl⟩
  · obtain ⟨regs, lost, crit, h⟩ := d.errqLose_plain h
    exact ⟨_, _, _, h, rfl⟩

/-! ### The coolant's record -/

/-- Firmware's record of a coolant reading: what it differs, and where the ring is not enabled, what is held. -/
theorem Dev.coolantRecord_spec (d : Dev) (now : Nat) :
    (d.coolantRecord now).ras.seq = (d.ras.seq + 1) % 2 ^ 32 ∧
      (d.flag RAS_ERRQ_BASE.EN = false → d.ras.heldBoot.length < 256 →
        ∃ x, (d.coolantRecord now).ras.heldBoot = d.ras.heldBoot ++ [x] ∧ x.code = 0x080D ∧
          x.detail = [d.mod.flow, d.mod.inlet, d.mod.outlet, d.mod.leak.toNat]) ∧
      ∃ regs ras intr, d.coolantRecord now = { d with regs := regs, ras := ras, hif := { d.hif with intr := intr } } := by
  unfold Dev.coolantRecord
  rw [Dev.reportNow_eq, Dev.report_quiet now rfl (Nat.zero_lt_succ 2)]
  cases hen : d.flag RAS_ERRQ_BASE.EN
  · by_cases hheld : d.ras.heldBoot.length < 256
    · simp only [Bool.false_eq_true, if_false, hheld, decide_true, if_true]
      exact ⟨rfl, fun _ _ => ⟨_, rfl, rfl, rfl⟩, _, _, _, rfl⟩
    · simp only [Bool.false_eq_true, if_false, hheld, decide_false]
      obtain ⟨regs, lost, crit, h⟩ := Dev.errqLose_plain
        ({ d with ras := { d.ras with seq := wrapAdd 32 d.ras.seq 1 } } : Dev)
        (r := d.numbered (d.found 0x080D moduleUnit 0x03 .info
          [d.mod.flow, d.mod.inlet, d.mod.outlet, d.mod.leak.toNat] none) false) rfl
      rw [h]
      exact ⟨rfl, fun _ hroom => absurd hroom (by simp), _, _, _, rfl⟩
  · rw [if_pos rfl]
    obtain ⟨regs, ras, intr, h, hseq⟩ := Dev.errqWrite_plain
      ({ d with ras := { d.ras with seq := wrapAdd 32 d.ras.seq 1 } } : Dev) now
      (r := d.numbered (d.found 0x080D moduleUnit 0x03 .info
        [d.mod.flow, d.mod.inlet, d.mod.outlet, d.mod.leak.toNat] none) false) rfl
    rw [h]
    exact ⟨hseq, fun hoff _ => absurd hoff (by simp), _, _, _, rfl⟩

/-- A condition told: ALERT_n low, one record with the readings, and no more of the module than the condition's own marks. -/
theorem coolant_tells {i : Instr} {s : State} {a : Alert} {coolRec leak : Bool}
    (h : Leads i s (((s.dev.onMod fun m => { m with coolRec := coolRec, leak := leak }).alert a true).coolantRecord s.now)) :
    Answers i s fun e => e.mod.coolRec = coolRec ∧ e.mod.leak = leak ∧ e.mod.alertN = false ∧
      e.ras.seq = (s.dev.ras.seq + 1) % 2 ^ 32 ∧
      (s.dev.flag RAS_ERRQ_BASE.EN = false → s.dev.ras.heldBoot.length < 256 → ∃ x, e.ras.heldBoot = s.dev.ras.heldBoot ++ [x] ∧
        x.code = 0x080D ∧ x.detail = [s.dev.mod.flow, s.dev.mod.inlet, s.dev.mod.outlet, e.mod.leak.toNat]) ∧
      { s.dev with mod := e.mod, ras := e.ras, regs := e.regs, hif := { s.dev.hif with intr := e.hif.intr } } = e ∧
      { s.dev.mod with coolRec := e.mod.coolRec, leak := e.mod.leak, alertN := e.mod.alertN, alerts := e.mod.alerts } =
        e.mod := by
  refine ⟨_, h, ?_⟩
  obtain ⟨hseq, hheld, regs, ras, intr, hshape⟩ := Dev.coolantRecord_spec
    ((s.dev.onMod fun m => { m with coolRec := coolRec, leak := leak }).alert a true) s.now
  rw [hshape] at hseq hheld ⊢
  exact ⟨rfl, rfl, rfl, hseq, hheld, rfl, rfl⟩

/-- COOLANT tells only of a condition that has held for 10 s and is not told of yet. -/
theorem coolant_silent {s : State} (h : ∀ t, s.dev.mod.coolAt = some t → s.dev.mod.coolRec = true ∨ s.now < t + 10 * second) :
    Leads .coolant s s.dev := by
  unfold Leads
  simp only [exec, execCoolant, State.run_eq]
  split
  case h_1 t ht => rw [if_pos (h t ht)]
  case h_2 => rfl

theorem coolant_due {s : State} {t : Nat} (hat : s.dev.mod.coolAt = some t) (hrec : s.dev.mod.coolRec = false)
    (hlong : t + 10 * second ≤ s.now) :
    Leads .coolant s (((s.dev.onMod fun m => { m with coolRec := true }).alert .coolant true).coolantRecord s.now) := by
  have hdue : ¬ (s.dev.mod.coolRec = true ∨ s.now < t + 10 * second) := by
    simp [hrec, Nat.not_lt.mpr hlong]
  unfold Leads
  simp only [exec, execCoolant, State.run_eq, hat]
  rw [if_neg hdue]

theorem leakDetect_leads (s : State) : Leads .leakDetect s
    (if s.dev.mod.leak then s.dev else ((s.dev.onMod fun m => { m with leak := true }).alert .leak true).coolantRecord s.now) :=
  rfl

/-- The readings of a sample, and the condition it starts, keeps or ends. -/
theorem coolantSample_leads (s : State) (flow inlet outlet : Nat) : Leads (.coolantSample flow inlet outlet) s
    (let bad := decide (flow < 80) || decide (400 < inlet)
     let d := s.dev.onMod fun m => { m with
       flow := flow, inlet := inlet, outlet := outlet
       coolAt := if bad then (m.coolAt <|> some s.now) else none, coolRec := m.coolRec && bad }
     if bad then d else d.alert .coolant false) := rfl

/-- Settles O59: a sample sets or ends the condition, and the condition is told of once. -/
theorem coolantIsRecorded : Obligations.CoolantIsRecorded := by
  intro s d tells
  refine ⟨fun flow inlet outlet => ⟨_, coolantSample_leads s flow inlet outlet, ?sample⟩, fun hnone => ?idle,
    fun t ht => ⟨fun hearly => ?early, fun hrec hlong => ?due⟩, fun hleak => ?told, fun hleak => ?leak⟩
  case sample =>
    cases hbad : decide (flow < 80) || decide (400 < inlet)
    · refine ⟨rfl, rfl, rfl, rfl, fun _ _ => ⟨rfl, ?_, ?_⟩, fun hout => ?_⟩
      · exact Bool.and_false _
      · simp [Dev.alert, Dev.onMod]
      · simp at hbad
        omega
    · refine ⟨rfl, rfl, rfl, rfl, fun hflow hinlet => ?_, fun _ => ⟨?_, ?_⟩⟩
      · simp at hbad
        omega
      · show (s.dev.mod.coolAt <|> some s.now) = _
        cases s.dev.mod.coolAt <;> rfl
      · exact Bool.and_true _
  case idle =>
    exact coolant_silent fun t ht => by simp [show s.dev.mod.coolAt = none from hnone] at ht
  case early =>
    refine coolant_silent fun t' ht' => ?_
    obtain rfl := Option.some.inj (ht'.symm.trans ht)
    exact hearly
  case due =>
    obtain ⟨e, he, hmark, -, htell⟩ := coolant_tells (leak := s.dev.mod.leak) (coolant_due ht hrec hlong)
    exact ⟨⟨e, he, htell⟩, e, he, hmark⟩
  case told =>
    have hlead := leakDetect_leads s
    rwa [if_pos hleak] at hlead
  case leak =>
    have hlead := leakDetect_leads s
    rw [if_neg (by simp [show s.dev.mod.leak = false from hleak])] at hlead
    obtain ⟨e, he, -, hmark, htell⟩ := coolant_tells (coolRec := s.dev.mod.coolRec) hlead
    exact ⟨⟨e, he, htell⟩, e, he, hmark⟩

end Sys2Proof.Machine
end

section
/-!
PROOFS. The scratchpad (R62): bytes and values as numbers, a read after a write, a run of writes row by row.
-/

namespace Sys2Proof.Machine

/-! ### Bytes and values -/

@[simp] theorem toBytes_length (n v : Nat) : (toBytes n v).length = n := by
  induction n generalizing v with
  | zero => rfl
  | succ n ih => simp [toBytes, ih]

/-- The bytes of a value spell its low part. -/
theorem ofBytes_toBytes (n v : Nat) : ofBytes (toBytes n v) = v % 2 ^ (8 * n) := by
  induction n generalizing v with
  | zero => simp [toBytes, ofBytes, Nat.mod_one]
  | succ n ih =>
    rw [toBytes, ofBytes, ih, BitVec.toNat_ofNat, show 8 * (n + 1) = 8 + 8 * n by ring, pow_add, Nat.mod_mul]
    norm_num

/-- Equal pieces laid end to end, cut at a multiple of their length. -/
theorem flatMap_drop_take {α β : Type} (f : α → List β) (n : Nat) (l : List α) (hf : ∀ a, (f a).length = n) (k : Nat)
    (hk : k < l.length) : ((l.flatMap f).drop (n * k)).take n = f l[k] := by
  induction l generalizing k with
  | nil => exact absurd hk (Nat.not_lt_zero k)
  | cons a l ih =>
    cases k with
    | zero => simp [hf a]
    | succ k =>
      rw [List.flatMap_cons, Nat.mul_succ, Nat.add_comm, ← List.drop_drop, ← hf a, List.drop_left, hf a]
      exact ih k (by simpa using hk)

theorem flatMap_length_const {α β : Type} (f : α → List β) (n : Nat) (l : List α) (hf : ∀ a, (f a).length = n) :
    (l.flatMap f).length = n * l.length := by
  induction l with
  | nil => simp
  | cons a l ih => rw [List.flatMap_cons, List.length_append, hf, ih, List.length_cons]; ring

/-! ### Read after write -/

@[simp] theorem Tile.rd_length (t : Tile) (a n : Nat) : (t.rd a n).length = n := by simp [Tile.rd]

@[simp] theorem Tile.getElem_rd (t : Tile) (a n i : Nat) (h : i < (t.rd a n).length) :
    (t.rd a n)[i] = Tbl.look 0 t.spad (a + i) := by simp [Tile.rd]

/-- What a place of a table holds once a run of values has been laid from a place on. -/
theorem look_putRun {α : Type} [DecidableEq α] (z : α) (vs : List α) (a k x : Nat) (m : Tbl α) :
    Tbl.look z ((vs.zipIdx k).foldl (fun m (v, i) => Tbl.putD z m (a + i) v) m) x =
      if h : a + k ≤ x ∧ x < a + k + vs.length then vs[x - (a + k)] else Tbl.look z m x := by
  induction vs generalizing k m with
  | nil => simp
  | cons v vs ih =>
    rw [List.zipIdx_cons, List.foldl_cons, ih]
    by_cases hx : x = a + k
    · subst hx
      rw [dif_neg (by omega), dif_pos (by simp)]
      simp
    · rw [Tbl.look_putD_other _ _ _ _ _ hx]
      by_cases hin : a + (k + 1) ≤ x ∧ x < a + (k + 1) + vs.length
      · rw [dif_pos hin, dif_pos (by simp only [List.length_cons]; omega)]
        obtain ⟨j, rfl⟩ := Nat.exists_eq_add_of_le hin.1
        simp [show a + (k + 1) + j - (a + k) = j + 1 by omega]
      · rw [dif_neg hin, dif_neg (by simp only [List.length_cons]; omega)]

theorem Tile.look_wr (t : Tile) (a : Nat) (bs : List Byte) (x : Nat) :
    Tbl.look 0 (t.wr a bs).spad x = if h : a ≤ x ∧ x < a + bs.length then bs[x - a] else Tbl.look 0 t.spad x :=
  look_putRun 0 bs a 0 x t.spad

theorem Tile.look_wr_in (t : Tile) (a : Nat) (bs : List Byte) (i : Nat) (h : i < bs.length) :
    Tbl.look 0 (t.wr a bs).spad (a + i) = bs[i] := by
  rw [Tile.look_wr, dif_pos (by omega)]
  simp

/-- Bytes outside a write keep their value. -/
theorem Tile.look_wr_out (t : Tile) (a : Nat) (bs : List Byte) (x : Nat) (h : x < a ∨ a + bs.length ≤ x) :
    Tbl.look 0 (t.wr a bs).spad x = Tbl.look 0 t.spad x := by
  rw [Tile.look_wr, dif_neg (by omega)]

/-- A write reads back, whole or in part. -/
theorem Tile.rd_wr (t : Tile) (a : Nat) (bs : List Byte) (o n : Nat) (h : o + n ≤ bs.length) :
    (t.wr a bs).rd (a + o) n = (bs.drop o).take n := by
  apply List.ext_getElem
  · simp; omega
  · intro i h1 h2
    have hi : i < n := by simpa using h1
    rw [Tile.getElem_rd, Nat.add_assoc, Tile.look_wr_in t a bs (o + i) (by omega)]
    simp

theorem Tile.rd_wr_same (t : Tile) (a : Nat) (bs : List Byte) : (t.wr a bs).rd a bs.length = bs := by
  simpa using t.rd_wr a bs 0 bs.length (by omega)

/-- A read apart from a write is as before. -/
theorem Tile.rd_wr_out (t : Tile) (a : Nat) (bs : List Byte) (b n : Nat) (h : b + n ≤ a ∨ a + bs.length ≤ b) :
    (t.wr a bs).rd b n = t.rd b n := by
  apply List.ext_getElem (by simp)
  intro i h1 h2
  have hi : i < n := by simpa using h1
  rw [Tile.getElem_rd, Tile.getElem_rd, Tile.look_wr_out t a bs (b + i) (by omega)]

/-- A read depends on the scratchpad alone. -/
theorem Tile.rd_congr {t u : Tile} {a n : Nat} (h : ∀ i, i < n → Tbl.look 0 t.spad (a + i) = Tbl.look 0 u.spad (a + i)) :
    t.rd a n = u.rd a n := by
  apply List.ext_getElem (by simp)
  intro i h1 h2
  rw [Tile.getElem_rd, Tile.getElem_rd, h i (by simpa using h1)]

theorem Tile.val_put_same (t : Tile) (a n v : Nat) : (t.put a n v).val a n = v % 2 ^ (8 * n) := by
  have hrd := t.rd_wr_same a (toBytes n v)
  rw [toBytes_length] at hrd
  unfold Tile.val Tile.put
  rw [hrd, ofBytes_toBytes]

/-! ### Rows -/

/-- A run of writes, row `r` of `bs r` at `at_ r`. -/
def Tile.wrRows (t : Tile) (at_ : Nat → Nat) (bs : Nat → List Byte) (l : List Nat) : Tile :=
  l.foldl (fun acc r => acc.wr (at_ r) (bs r)) t

/-- A run of writes leaves all but the scratchpad and its written bits. -/
theorem Tile.wrRows_rest (t : Tile) (at_ : Nat → Nat) (bs : Nat → List Byte) (l : List Nat) :
    { t.wrRows at_ bs l with spad := t.spad, written := t.written } = t := by
  induction l generalizing t with
  | nil => rfl
  | cons r l ih =>
    have h := ih (t.wr (at_ r) (bs r))
    exact congrArg (fun u : Tile => { u with spad := t.spad, written := t.written }) h

/-- Bytes outside every row keep their value. -/
theorem Tile.look_wrRows_out (t : Tile) (at_ : Nat → Nat) (bs : Nat → List Byte) (l : List Nat) (x : Nat)
    (h : ∀ r ∈ l, x < at_ r ∨ at_ r + (bs r).length ≤ x) :
    Tbl.look 0 (t.wrRows at_ bs l).spad x = Tbl.look 0 t.spad x := by
  induction l generalizing t with
  | nil => rfl
  | cons r l ih =>
    exact (ih (t.wr (at_ r) (bs r)) fun r' hr' => h r' (List.mem_cons_of_mem _ hr')).trans
      (t.look_wr_out _ _ _ (h r List.mem_cons_self))

/-- The last row written over a place is what it holds: later rows that do not meet it leave it. -/
theorem Tile.rd_wrRows (t : Tile) (at_ : Nat → Nat) (bs : Nat → List Byte) (l l' : List Nat) (r o n : Nat)
    (hn : o + n ≤ (bs r).length)
    (h : ∀ r' ∈ l', at_ r + (bs r).length ≤ at_ r' ∨ at_ r' + (bs r').length ≤ at_ r) :
    (t.wrRows at_ bs (l ++ r :: l')).rd (at_ r + o) n = ((bs r).drop o).take n := by
  rw [← Tile.rd_wr (t.wrRows at_ bs l) (at_ r) (bs r) o n hn]
  unfold Tile.wrRows
  rw [List.foldl_append, List.foldl_cons]
  refine Tile.rd_congr fun i hi => Tile.look_wrRows_out _ at_ bs l' _ fun r' hr' => ?_
  have := h r' hr'
  omega

/-- Rows of equal length at distinct multiples of a pitch at least as long do not meet. -/
theorem rows_apart {p n i j : Nat} (hp : n ≤ p) (hij : i ≠ j) : i * p + n ≤ j * p ∨ j * p + n ≤ i * p := by
  rcases Nat.lt_or_gt_of_ne hij with h | h
  · have := Nat.mul_le_mul_right p (Nat.succ_le_of_lt h)
    rw [Nat.succ_mul] at this
    omega
  · have := Nat.mul_le_mul_right p (Nat.succ_le_of_lt h)
    rw [Nat.succ_mul] at this
    omega

/-- A list of the first numbers, cut at one of them. -/
theorem range_cut {n r : Nat} (h : r < n) : List.range n = List.range r ++ r :: (List.range (n - r - 1)).map (r + 1 + ·) := by
  obtain ⟨k, rfl⟩ := Nat.exists_eq_add_of_lt h
  rw [show r + k + 1 = r + (k + 1) by omega, List.range_add, List.range_succ_eq_map, show r + (k + 1) - r - 1 = k by omega]
  simp [Function.comp_def, Nat.add_assoc, Nat.add_comm 1]

/-- Row `r` of the first `n` reads back where no later row meets it. -/
theorem Tile.rd_wrRows_range (t : Tile) (at_ : Nat → Nat) (bs : Nat → List Byte) (m r o n : Nat) (hr : r < m)
    (hn : o + n ≤ (bs r).length)
    (h : ∀ r', r < r' → r' < m → at_ r + (bs r).length ≤ at_ r' ∨ at_ r' + (bs r').length ≤ at_ r) :
    (t.wrRows at_ bs (List.range m)).rd (at_ r + o) n = ((bs r).drop o).take n := by
  rw [range_cut hr]
  refine t.rd_wrRows at_ bs _ _ r o n hn fun r' hr' => ?_
  obtain ⟨k, hk, rfl⟩ := List.mem_map.1 hr'
  have := List.mem_range.1 hk
  exact h _ (by omega) (by omega)

end Sys2Proof.Machine
end

section
/-!
PROOFS. The frame of a sequencer step (R74, R75, R77): a step that issues, one that holds issue and one that aborts its tile;
the control and stream steps (R78, R84 to R87).
-/

namespace Sys2Proof.Machine

theorem Tile.SameRest.own {t u : Tile} (h : t.SameRest u) : u.own = t.own := by
  unfold Tile.SameRest at h
  rw [← h]

theorem Tile.SameRest.step {t u : Tile} (h : t.SameRest u) : u.step = t.step := by
  unfold Tile.SameRest at h
  rw [← h]

theorem Tile.SameRest.ar {t u : Tile} (h : t.SameRest u) : u.ar = t.ar := by
  unfold Tile.SameRest at h
  rw [← h]

/-- A count of free values drawn says nothing of a core. -/
theorem Dev.coreAt_withFresh (d : Dev) (n k : Nat) : ({ d with fresh := n } : Dev).coreAt k = d.coreAt k := rfl

/-! ### What a step row does with what the step answers -/

/-- A core at a step: its tile, and what the step sees of it. -/
theorem atStep_issuer {d : Dev} {c : Nat} {t : Tile} {w : StepWord} (h : AtStep d c t w) :
    ∃ t0, d.issuer c = some t0 ∧ (d.coreAt c).tile = some t0 ∧ t0.cur = some w ∧ t = t0.seen d.fresh w := by
  obtain ⟨hsvc, t0, htile, hend, hprog, hseen⟩ := h
  refine ⟨t0, ?_, htile, ?_, hseen⟩
  · simp [Dev.issuer, hsvc, htile]
  · simp [Tile.cur, hend, hprog]

/-- A step of the sequencer's own, or of the transfer engine, sees its core's tile. -/
theorem atStep_issuer_of_unit {d : Dev} {c : Nat} {t : Tile} {w : StepWord} (h : AtStep d c t w)
    (hunit : ∀ t, (footOf t w).unit = 5) : d.issuer c = some t ∧ (d.coreAt c).tile = some t ∧ t.cur = some w := by
  obtain ⟨t0, hissuer, htile, hcur, rfl⟩ := atStep_issuer h
  rw [Tile.seen_of_unit _ _ _ (hunit t0)]
  exact ⟨hissuer, htile, hcur⟩

theorem stepOn_go {d : Dev} {c : Nat} {t t' : Tile} {w : StepWord} (now : Nat) {p : StepWord → Bool}
    {f : Tile → StepWord → StepOut} (h : AtStep d c t w) (hp : p w = true) (hf : f t w = .go t') :
    ∃ n, d.stepOn now c p f = { d.onCore c fun k => { k with
      tile := some (t.settle d.fresh w t'), svc := .running } with fresh := n } := by
  obtain ⟨t0, hissuer, -, hcur, rfl⟩ := atStep_issuer h
  unfold Dev.stepOn
  simp only [hissuer, hcur, hp, if_true, hf]
  exact ⟨_, rfl⟩

theorem stepOn_hold {d : Dev} {c : Nat} {t : Tile} {w : StepWord} (now : Nat) {p : StepWord → Bool} {st : Bool}
    {f : Tile → StepWord → StepOut} (h : AtStep d c t w) (hunit : ∀ t, (footOf t w).unit = 5) (hp : p w = true)
    (hf : f t w = .hold st) : d.stepOn now c p f = d.onCore c fun k => { k with
      tile := some { t with held := st }, svc := if st then .stalled else .running } := by
  obtain ⟨hissuer, -, hcur⟩ := atStep_issuer_of_unit h hunit
  unfold Dev.stepOn
  simp only [hissuer, hcur, hp, if_true, Tile.seen_of_unit _ _ _ (hunit t), hf]

theorem stepOn_abort {d : Dev} {c : Nat} {t : Tile} {w : StepWord} (now : Nat) {p : StepWord → Bool} {k : Abort}
    {code sub : Nat} {detail : List Nat} {f : Tile → StepWord → StepOut} (h : AtStep d c t w) (hp : p w = true)
    (hf : f t w = .abort k code sub detail) : d.stepOn now c p f =
      (d.raise code (coreUnit c) sub .contained detail (some (t.own.ast, t.own.ctx))).abortTile now c k code := by
  obtain ⟨t0, hissuer, -, hcur, rfl⟩ := atStep_issuer h
  have hown : (t0.seen d.fresh w).own = t0.own := (t0.seen_rest d.fresh w).own
  unfold Dev.stepOn
  simp only [hissuer, hcur, hp, if_true, hf, hown]

theorem stepFree_eq {d : Dev} {c : Nat} {t : Tile} {w : StepWord} (now : Nat) {p : StepWord → Bool}
    (f : Nat → Tile → StepWord → StepOut) (h : AtStep d c t w) (hp : p w = true) :
    ∃ n, d.stepFree now c p f = { d.stepOn now c p (f d.fresh) with fresh := n } := by
  obtain ⟨t0, hissuer, -, hcur, -⟩ := atStep_issuer h
  unfold Dev.stepFree
  rw [if_pos (by simp [Dev.issues, hissuer, hcur, hp])]
  exact ⟨_, rfl⟩

/-! ### The three outcomes, as the statements say them -/

section
variable {i : Instr} {s : State} {c : Nat} {t t' : Tile} {w : StepWord} {p : StepWord → Bool}

/-- A command whose own effect steps the core's tile issues the step. -/
theorem stepsTo_of_stepped {e : Dev} {n : Nat} (hi : Leads i s e) (h : AtStep s.dev c t w)
    (he : e = { s.dev.onCore c fun k => { k with
      tile := some (t.settle s.dev.fresh w t'), svc := .running } with fresh := n }) : StepsTo i s c t' := by
  refine ⟨e, hi, ⟨_, ⟨t, w, h, rfl⟩, ?_⟩, fun k hk => ?_, ?_⟩
  · rw [he, Dev.coreAt_withFresh, Dev.coreAt_onCore_same]
  · rw [he, Dev.coreAt_withFresh, Dev.coreAt_onCore_other _ _ _ _ hk]
  · rw [he]
    rfl

theorem stepsTo_of_go {f : Tile → StepWord → StepOut} (h : AtStep s.dev c t w)
    (hi : Leads i s (s.dev.stepOn s.now c p f)) (hp : p w = true) (hf : f t w = .go t') : StepsTo i s c t' := by
  obtain ⟨n, he⟩ := stepOn_go s.now h hp hf
  exact stepsTo_of_stepped hi h he

theorem stepsTo_of_free {f : Nat → Tile → StepWord → StepOut} (h : AtStep s.dev c t w)
    (hi : Leads i s (s.dev.stepFree s.now c p f)) (hp : p w = true) (hf : f s.dev.fresh t w = .go t') :
    StepsTo i s c t' := by
  obtain ⟨n, he⟩ := stepFree_eq s.now f h hp
  obtain ⟨m, hm⟩ := stepOn_go s.now h hp hf
  rw [hm] at he
  exact stepsTo_of_stepped hi h he

theorem stepWaits_of_hold {f : Tile → StepWord → StepOut} {st : Bool} (h : AtStep s.dev c t w)
    (hi : Leads i s (s.dev.stepOn s.now c p f)) (hunit : ∀ t, (footOf t w).unit = 5) (hp : p w = true)
    (hf : f t w = .hold st) : StepWaits i s c t st := by
  rw [stepOn_hold s.now h hunit hp hf] at hi
  exact ⟨_, hi, Dev.coreAt_onCore_same _ _ _, rfl, fun k hk => Dev.coreAt_onCore_other _ _ _ _ hk⟩

theorem stepAborts_of_abort {f : Tile → StepWord → StepOut} {code sub : Nat} {detail : List Nat} (h : AtStep s.dev c t w)
    (hi : Leads i s (s.dev.stepOn s.now c p f)) (hp : p w = true) (hf : f t w = .abort .misuse code sub detail) :
    StepAborts i s c t code sub detail := by
  rw [stepOn_abort s.now h hp hf] at hi
  exact ⟨_, hi, 0, rfl⟩

theorem stepAborts_of_free {f : Nat → Tile → StepWord → StepOut} {code sub : Nat} {detail : List Nat}
    (h : AtStep s.dev c t w) (hi : Leads i s (s.dev.stepFree s.now c p f)) (hp : p w = true)
    (hf : f s.dev.fresh t w = .abort .misuse code sub detail) : StepAborts i s c t code sub detail := by
  obtain ⟨n, he⟩ := stepFree_eq s.now f h hp
  rw [stepOn_abort s.now h hp hf] at he
  exact ⟨_, hi, n, by rw [he]⟩

end

/-! ### The sequencer's own steps -/

theorem isOp_iff {op : Nat} {w : StepWord} : isOp op w = true ↔ sOp w = op := beq_iff_eq

/-- A control or stream step is the sequencer's own. -/
theorem footOf_unit_own {w : StepWord} (h : sOp w ∉ [0x0D, 0x0E, 0x20, 0x21, 0x22, 0x23, 0x30, 0x31, 0x32, 0x33, 0x34])
    (t : Tile) : (footOf t w).unit = 5 := by
  simp only [List.mem_cons, List.not_mem_nil, not_or] at h
  unfold footOf
  split <;> simp_all [footCons, Foot.none]

/-- The matching ENDL found is the first one after the step. -/
theorem findEndl_eq {k : Nat} {prog : List StepWord} {i j : Nat} {x : StepWord} (hij : i ≤ j) (hx : prog[j]? = some x)
    (hop : sOp x = 0x03) (hk : sFA x = k)
    (hfirst : ∀ n y, i ≤ n → n < j → prog[n]? = some y → ¬(sOp y = 0x03 ∧ sFA y = k)) :
    findEndl k (prog.drop i) i = j := by
  obtain ⟨m, rfl⟩ := Nat.exists_eq_add_of_le hij
  induction m generalizing i with
  | zero =>
    obtain ⟨hlt, rfl⟩ := List.getElem?_eq_some_iff.1 (Nat.add_zero i ▸ hx)
    rw [List.drop_eq_getElem_cons hlt]
    simp [findEndl, hop, hk]
  | succ m ih =>
    obtain ⟨hlt, -⟩ := List.getElem?_eq_some_iff.1 hx
    have hi : i < prog.length := by omega
    have hno := hfirst i prog[i] (Nat.le_refl i) (by omega) (List.getElem?_eq_getElem hi)
    rw [List.drop_eq_getElem_cons hi, findEndl, if_neg (by simpa using hno)]
    have hnext := ih (i := i + 1) (by omega) (by rwa [show i + 1 + m = i + (m + 1) by omega])
      fun n y h1 h2 => hfirst n y (by omega) (by omega)
    rw [hnext]
    omega

/-- The matching LOOP found is the last one before the step. -/
theorem findLoop_eq {k : Nat} {prog : List StepWord} {i j : Nat} {x : StepWord} (hij : j < i) (hx : prog[j]? = some x)
    (hop : sOp x = 0x02) (hk : sFA x = k)
    (hlast : ∀ n y, j < n → n < i → prog[n]? = some y → ¬(sOp y = 0x02 ∧ sFA y = k)) : findLoop k prog i = j := by
  induction i with
  | zero => exact absurd hij (Nat.not_lt_zero j)
  | succ i ih =>
    rcases Nat.eq_or_lt_of_le (Nat.le_of_lt_succ hij) with rfl | hlt
    · simp [findLoop, hx, hop, hk]
    · have hprev := ih hlt fun n y h1 h2 => hlast n y h1 (by omega)
      unfold findLoop
      split
      · rename_i y hy
        rw [if_neg (by simpa using hlast i y hlt (Nat.lt_succ_self i) hy), hprev]
      · exact hprev

/-! ### Control steps -/

/-- LOOP with a count goes on with its body. -/
theorem doLoop_of_ne {t : Tile} {w : StepWord} (h : BitVec.ofNat 32 (arOf t.ar (sFB w) + sImm w) ≠ 0) :
    doLoop t w = .go { t with
      step := t.step + 1, held := false
      lc := modifyAt t.lc (sFA w) fun _ => BitVec.ofNat 32 (arOf t.ar (sFB w) + sImm w) } := by
  have hv : BitVec.ofNat 32 ((arOf t.ar (sFB w) + sImm w) % 2 ^ 32) = BitVec.ofNat 32 (arOf t.ar (sFB w) + sImm w) :=
    BitVec.eq_of_toNat_eq (by simp)
  have hne : (arOf t.ar (sFB w) + sImm w) % 2 ^ 32 ≠ 0 := by
    intro h0
    rw [h0] at hv
    exact h hv.symm
  unfold doLoop
  simp only [hv]
  rw [if_neg hne]

/-- LOOP with count 0 goes on after the matching ENDL. -/
theorem doLoop_of_zero {t : Tile} {w : StepWord} (h : BitVec.ofNat 32 (arOf t.ar (sFB w) + sImm w) = 0) :
    doLoop t w = .go { t with
      step := findEndl (sFA w) (t.prog.drop (t.step + 1)) (t.step + 1) + 1, held := false
      lc := modifyAt t.lc (sFA w) fun _ => 0 } := by
  have h0 : (arOf t.ar (sFB w) + sImm w) % 2 ^ 32 = 0 := by
    have := congrArg BitVec.toNat h
    simpa using this
  unfold doLoop
  simp only [h0]
  rfl

theorem doEndl_of_last {t : Tile} {w : StepWord} (h : t.lc.getD (sFA w) 0 = 1) :
    doEndl t w = .go { t with step := t.step + 1, held := false, lc := modifyAt t.lc (sFA w) fun _ => 0 } := by
  unfold doEndl
  simp only [h]
  rfl

theorem doEndl_of_more {t : Tile} {w : StepWord} (h : t.lc.getD (sFA w) 0 ≠ 1) :
    doEndl t w = .go { t with
      step := findLoop (sFA w) t.prog t.step + 1, held := false
      lc := modifyAt t.lc (sFA w) fun _ => t.lc.getD (sFA w) 0 - 1 } := by
  have hne : t.lc.getD (sFA w) 0 - 1 ≠ 0 := fun h0 => h (by rw [← BitVec.sub_add_cancel (t.lc.getD (sFA w) 0) 1, h0]; rfl)
  unfold doEndl
  dsimp only
  rw [if_neg hne]

/-- FENCE goes on where it need not wait for the source bytes of an XOUT. -/
theorem doFence_go {t : Tile} {w : StepWord} (h : bit (sFA w) 5 = false ∨
    ((∀ x ∈ t.xq, x.inbound = true ∨ x.stop = true) ∧ ∀ o ∈ t.outs, o.sourced = true)) : doFence t w = .go t.bump := by
  unfold doFence
  refine if_neg ?_
  rintro hwait
  simp only [Bool.and_eq_true, Bool.or_eq_true, List.any_eq_true, Bool.not_eq_true'] at hwait
  obtain ⟨hbit, hlate⟩ := hwait
  rcases h with h | ⟨hq, ho⟩
  · simp [h] at hbit
  · rcases hlate with ⟨x, hx, hin, hstop⟩ | ⟨o, hout, hsrc⟩
    · rcases hq x hx with h | h
      · simp [h] at hin
      · simp [h] at hstop
    · simp [ho o hout] at hsrc

theorem doFence_hold {t : Tile} {w : StepWord} (hbit : bit (sFA w) 5 = true) (h : ∃ o ∈ t.outs, o.sourced = false) :
    ∃ b, doFence t w = .hold b := by
  obtain ⟨o, ho, hsrc⟩ := h
  refine ⟨_, if_pos ?_⟩
  have hany : (t.outs.any fun o => !o.sourced) = true := List.any_eq_true.2 ⟨o, ho, by simp [hsrc]⟩
  simp [hbit, hany]

/-- END drains the core and stops the inbound streams (R87). -/
theorem stepEnd_answers {s : State} {c : Nat} {t : Tile} {w : StepWord} (h : AtStep s.dev c t w) (hop : sOp w = 0x01) :
    Answers (.stepEnd c) s fun e => e.coreAt c = { s.dev.coreAt c with
      svc := .draining
      tile := some { t with ended := true, held := false, ins := t.ins.map InStream.stop
                            xq := t.xq.filter fun x => !x.inbound && !x.stop } } ∧ OnlyCore c s.dev e := by
  obtain ⟨hissuer, -, hcur⟩ := atStep_issuer_of_unit h (footOf_unit_own (by simp [hop]))
  have hi : Leads (.stepEnd c) s (s.dev.endStep c) := rfl
  unfold Dev.endStep at hi
  simp only [hissuer, hcur, isOp_iff.2 hop, if_true] at hi
  exact ⟨_, hi, Dev.coreAt_onCore_same _ _ _, rfl, fun k hk => Dev.coreAt_onCore_other _ _ _ _ hk⟩

/-! ### Stream steps -/

theorem doWaitc_go {t : Tile} {w : StepWord} (hi : (t.ins.getD (sFA w) InStream.init).issued = true)
    (hp : (t.ins.getD (sFA w) InStream.init).pending = 0)
    (ht : (arOf t.ar (sFB w) + sImm w) % 2 ^ 32 ≤ (t.ins.getD (sFA w) InStream.init).t)
    (hc : (arOf t.ar (sFB w) + sImm w) % 2 ^ 32 ≤ (t.ins.getD (sFA w) InStream.init).cc) :
    doWaitc t w = .go t.bump := by
  simp [doWaitc, -List.getD_eq_getElem?_getD, -Nat.reducePow, hi, hp, hc, Nat.not_lt.mpr ht]

theorem doWaitc_hold_count {t : Tile} {w : StepWord} (hi : (t.ins.getD (sFA w) InStream.init).issued = true)
    (hp : (t.ins.getD (sFA w) InStream.init).pending = 0)
    (ht : (arOf t.ar (sFB w) + sImm w) % 2 ^ 32 ≤ (t.ins.getD (sFA w) InStream.init).t)
    (hc : (t.ins.getD (sFA w) InStream.init).cc < (arOf t.ar (sFB w) + sImm w) % 2 ^ 32) :
    doWaitc t w = .hold (t.ins.getD (sFA w) InStream.init).faulted := by
  simp [doWaitc, -List.getD_eq_getElem?_getD, -Nat.reducePow, hi, hp, Nat.not_le.mpr hc, Nat.not_lt.mpr ht]

theorem doWaitc_hold_start {t : Tile} {w : StepWord} (hi : (t.ins.getD (sFA w) InStream.init).issued = true)
    (hp : (t.ins.getD (sFA w) InStream.init).pending ≠ 0) : doWaitc t w = .hold false := by
  simp [doWaitc, -List.getD_eq_getElem?_getD, -Nat.reducePow, hi, hp]

theorem doWaitc_misuse {t : Tile} {w : StepWord} (h : (t.ins.getD (sFA w) InStream.init).issued = false ∨
    (t.ins.getD (sFA w) InStream.init).pending = 0 ∧
      (t.ins.getD (sFA w) InStream.init).t < (arOf t.ar (sFB w) + sImm w) % 2 ^ 32) :
    doWaitc t w = misuse (sFA w) ((arOf t.ar (sFB w) + sImm w) % 2 ^ 32) (t.ins.getD (sFA w) InStream.init).t := by
  unfold doWaitc
  rcases h with h | ⟨hp, ht⟩
  · simp [-List.getD_eq_getElem?_getD, -Nat.reducePow, h]
  · simp [-List.getD_eq_getElem?_getD, -Nat.reducePow, hp, ht]

theorem doCons_go {t : Tile} {w : StepWord} (hp : (t.ins.getD (sFA w) InStream.init).pending = 0)
    (hc : (t.ins.getD (sFA w) InStream.init).cr + sImm w ≤ (t.ins.getD (sFA w) InStream.init).cc) :
    doCons t w = .go ({ t with ins := modifyAt t.ins (sFA w) fun x => { x with cr := x.cr + sImm w } } : Tile).bump := by
  simp [doCons, -List.getD_eq_getElem?_getD, -Nat.reducePow, hp, Nat.not_lt.mpr hc]

theorem doCons_hold {t : Tile} {w : StepWord} (hp : (t.ins.getD (sFA w) InStream.init).pending ≠ 0) :
    doCons t w = .hold false := by
  simp [doCons, -List.getD_eq_getElem?_getD, -Nat.reducePow, hp]

theorem doCons_misuse {t : Tile} {w : StepWord} (hp : (t.ins.getD (sFA w) InStream.init).pending = 0)
    (hc : (t.ins.getD (sFA w) InStream.init).cc < (t.ins.getD (sFA w) InStream.init).cr + sImm w) :
    doCons t w = misuse (sFA w) (sImm w) (t.ins.getD (sFA w) InStream.init).t := by
  simp [doCons, -List.getD_eq_getElem?_getD, -Nat.reducePow, hp, hc]

/-- XDRAIN goes on once no masked stream has an XOUT outstanding, and holds issue before. -/
theorem doXdrain_eq (t : Tile) (w : StepWord) :
    ((maskStreams (sFA w)).filter (fun k => (t.outs.getD k OutStream.init).count != 0) = [] → doXdrain t w = .go t.bump) ∧
    ((maskStreams (sFA w)).filter (fun k => (t.outs.getD k OutStream.init).count != 0) ≠ [] →
      ∃ b, doXdrain t w = .hold b) := by
  unfold doXdrain
  refine ⟨fun h => if_pos (by rw [h]; rfl), fun h => ⟨_, if_neg ?_⟩⟩
  rwa [List.isEmpty_iff]

theorem Tile.bump_put (t : Tile) (a n v : Nat) :
    (t.put a n v).bump = { t.put a n v with step := t.step + 1, held := false } := rfl

theorem doStamp_go {t : Tile} {w : StepWord} {a : Nat} (h : wordAddr t w 8 = some a) :
    doStamp t w = .go { t.put a 8 (t.cy % 2 ^ 32 + t.stallCycles % 2 ^ 32 * 2 ^ 32) with
      step := t.step + 1, held := false } := by
  simp only [doStamp, h]
  rw [Tile.bump_put]

theorem doStamp_range {t : Tile} {w : StepWord} (h : wordAddr t w 8 = none) :
    doStamp t w = spadRange t 0x06 (spaAddr t.ar (sCSpa w) + sImm w) := by
  simp only [doStamp, h]

theorem doLda_go {t : Tile} {w : StepWord} {a : Nat} (h : wordAddr t w 4 = some a) :
    doLda t w = .go (t.setAr (sFA w) (t.val a 4)).bump := by
  simp only [doLda, h]

theorem doLda_range {t : Tile} {w : StepWord} (h : wordAddr t w 4 = none) :
    doLda t w = spadRange t 0x06 (spaAddr t.ar (sCSpa w) + sImm w) := by
  simp only [doLda, h]

/-- The control steps' half of the statement. -/
theorem controlSteps (s : State) (c : Nat) (t : Tile) (w : StepWord) (h : AtStep s.dev c t w) :
    let on := { t with step := t.step + 1, held := false }
    let set := fun (v : Nat) => { on with ar := modifyAt t.ar (sFA w) fun _ => BitVec.ofNat 32 v }
    (sOp w = 0x00 → StepsTo (.stepNop c) s c on) ∧
    (sOp w = 0x04 → StepsTo (.seta c) s c (set (sImm w))) ∧
    (sOp w = 0x05 → StepsTo (.adda c) s c (set (arOf t.ar (sFB w) + sImm w))) ∧
    (sOp w = 0x06 → StepsTo (.mula c) s c (set (arOf t.ar (sFB w) * sImm w))) ∧
    (sOp w = 0x07 → StepsTo (.wrapa c) s c (set ((arOf t.ar (sFB w) + sImm w) % sImm2 w))) :=
  ⟨fun hop => stepsTo_of_go (f := doNop) h rfl (isOp_iff.2 hop) rfl,
    fun hop => stepsTo_of_go (f := doSeta) h rfl (isOp_iff.2 hop) rfl,
    fun hop => stepsTo_of_go (f := doAdda) h rfl (isOp_iff.2 hop) rfl,
    fun hop => stepsTo_of_go (f := doMula) h rfl (isOp_iff.2 hop) rfl,
    fun hop => stepsTo_of_go (f := doWrapa) h rfl (isOp_iff.2 hop) rfl⟩

/-- Settles O30: each step's own outcome, put into the frame of a step. -/
theorem controlAndStreamSteps : Obligations.ControlAndStreamSteps := by
  refine ⟨fun s c t w h => ?control, fun s c t w h => ?stream⟩
  case control =>
    obtain ⟨hnop, hseta, hadda, hmula, hwrapa⟩ := controlSteps s c t w h
    refine ⟨hnop, hseta, hadda, hmula, hwrapa, fun hop hne => ?_, fun hop h0 j x hj hx hox hkx hfirst => ?_,
      fun hop h1 => ?_, fun hop h1 j x hj hx hox hkx hlast => ?_, fun hop hgo => ?_, fun hop hbit hlate => ?_,
      fun hop => stepEnd_answers h hop⟩
    · exact stepsTo_of_go h rfl (isOp_iff.2 hop) (doLoop_of_ne hne)
    · have hgo := doLoop_of_zero h0
      rw [findEndl_eq (Nat.succ_le_of_lt hj) hx hox hkx fun n y h1 h2 => hfirst n y h1 h2] at hgo
      exact stepsTo_of_go h rfl (isOp_iff.2 hop) hgo
    · exact stepsTo_of_go h rfl (isOp_iff.2 hop) (doEndl_of_last h1)
    · have hgo := doEndl_of_more h1
      rw [findLoop_eq hj hx hox hkx hlast] at hgo
      exact stepsTo_of_go h rfl (isOp_iff.2 hop) hgo
    · exact stepsTo_of_go h rfl (isOp_iff.2 hop) (doFence_go hgo)
    · obtain ⟨b, hb⟩ := doFence_hold hbit hlate
      exact ⟨b, stepWaits_of_hold h rfl (footOf_unit_own (by simp [hop])) (isOp_iff.2 hop) hb⟩
  case stream =>
    refine ⟨fun hop => ⟨fun hi hp ht hc => ?_, fun hi hp ht hc => ?_, fun hi hp => ?_, fun hbad => ?_⟩,
      fun hop => ⟨fun hp hc => ?_, fun hp => ?_, fun hp hc => ?_⟩, fun hop => ⟨fun hnone => ?_, fun hsome => ?_⟩,
      fun hop => stepAborts_of_abort (f := doTrap) h rfl (isOp_iff.2 hop) rfl,
      fun hop => ⟨fun a ha => ?_, fun ha => ?_⟩, fun hop => ⟨fun a ha => ?_, fun ha => ?_⟩⟩
    · exact stepsTo_of_go h rfl (isOp_iff.2 hop) (doWaitc_go hi hp ht hc)
    · exact stepWaits_of_hold h rfl (footOf_unit_own (by simp [hop])) (isOp_iff.2 hop) (doWaitc_hold_count hi hp ht hc)
    · exact stepWaits_of_hold h rfl (footOf_unit_own (by simp [hop])) (isOp_iff.2 hop) (doWaitc_hold_start hi hp)
    · exact stepAborts_of_abort h rfl (isOp_iff.2 hop) (doWaitc_misuse hbad)
    · exact stepsTo_of_go h rfl (isOp_iff.2 hop) (doCons_go hp hc)
    · exact stepWaits_of_hold h rfl (footOf_unit_own (by simp [hop])) (isOp_iff.2 hop) (doCons_hold hp)
    · exact stepAborts_of_abort h rfl (isOp_iff.2 hop) (doCons_misuse hp hc)
    · exact stepsTo_of_go h rfl (isOp_iff.2 hop) ((doXdrain_eq t w).1 hnone)
    · obtain ⟨b, hb⟩ := (doXdrain_eq t w).2 hsome
      exact ⟨b, stepWaits_of_hold h rfl (footOf_unit_own (by simp [hop])) (isOp_iff.2 hop) hb⟩
    · exact stepsTo_of_go h rfl (isOp_iff.2 hop) (doStamp_go ha)
    · exact stepAborts_of_abort h rfl (isOp_iff.2 hop) (doStamp_range ha)
    · exact stepsTo_of_go h rfl (isOp_iff.2 hop) (doLda_go ha)
    · exact stepAborts_of_abort h rfl (isOp_iff.2 hop) (doLda_range ha)

end Sys2Proof.Machine
end

section
/-!
PROOFS. The vector and data steps (R56 to R59, R82): packed results, lanes, blocks, and rows moved between scratchpad blocks.
-/

namespace Sys2Proof.Machine

/-! ### Packed results -/

theorem isVop_iff {op : Nat} {w : StepWord} : isVop op w = true ↔ sOp w = 0x30 ∧ sVop w = op := by
  simp [isVop]

/-- Flags raised one after another. -/
theorem foldl_flags (l : List Flagged) (x : Nat) : l.foldl (fun f r => f ||| r.2) x = x ||| l.foldl (fun f r => f ||| r.2) 0 := by
  induction l generalizing x with
  | nil => simp
  | cons r l ih => rw [List.foldl_cons, List.foldl_cons, ih, ih (0 ||| r.2), Nat.zero_or, Nat.or_assoc]

section
variable (t : Tile) (a n m : Nat) (f : Nat → Flagged)

/-- The bytes of `m` results laid end to end. -/
theorem results_length : (((List.range m).map f).flatMap fun r => toBytes n r.1).length = n * m := by
  rw [flatMap_length_const (fun r : Flagged => toBytes n r.1) n _ fun r => toBytes_length n r.1, List.length_map, List.length_range]

/-- Result `k` reads back, cut to its bytes. -/
theorem Tile.val_results {k : Nat} (hk : k < m) :
    (t.results a n ((List.range m).map f)).val (a + n * k) n = (f k).1 % 2 ^ (8 * n) := by
  have hlen := results_length n m f
  have hfit : n * k + n ≤ n * m := by
    rw [← Nat.mul_succ]
    exact Nat.mul_le_mul_left n hk
  have hrd : (t.results a n ((List.range m).map f)).rd (a + n * k) n = toBytes n (f k).1 := by
    have hpiece := flatMap_drop_take (fun r : Flagged => toBytes n r.1) n ((List.range m).map f)
      (fun r => toBytes_length n r.1) k (by simpa using hk)
    rw [List.getElem_map, List.getElem_range] at hpiece
    rw [← hpiece]
    exact t.rd_wr a _ (n * k) n (by rw [hlen]; exact hfit)
  rw [Tile.val, hrd, ofBytes_toBytes]

/-- Bytes outside the results keep their value. -/
theorem Tile.look_results_out {x : Nat} (h : x < a ∨ a + n * m ≤ x) :
    Tbl.look 0 (t.results a n ((List.range m).map f)).spad x = Tbl.look 0 t.spad x :=
  t.look_wr_out _ _ _ (by rw [results_length]; exact h)

theorem Tile.results_flags : (t.results a n ((List.range m).map f)).flags =
    (List.range m).foldl (fun l k => l ||| (f k).2) t.flags := by
  have h := foldl_flags ((List.range m).map f) t.flags
  rw [List.foldl_map] at h
  exact h.symm

end

/-- What a vector step that writes packed results answers: the results where its operands obey R73, else 0x0109. -/
def packed (spans : List Span) (t : Tile) (a n m : Nat) (f : Nat → Flagged) : StepOut :=
  match badSpan spans with
  | some y => spadRange t 0x04 y
  | none => .go (t.results a n ((List.range m).map f)).bump

/-- The outcome of a step that writes packed results. -/
def Packs (i : Instr) (s : State) (c : Nat) (t : Tile) (spans : List Span) (a n m : Nat) (f : Nat → Flagged) : Prop :=
  (badSpan spans = none → StepsTo i s c (t.results a n ((List.range m).map f)).bump) ∧
  (∀ y, badSpan spans = some y → StepAborts i s c t 0x0109 0x04 [t.step, y])

section
variable {i : Instr} {s : State} {c : Nat} {t : Tile} {w : StepWord} {p : StepWord → Bool} {spans : List Span} {a n m : Nat}
  {r : Nat → Flagged}

theorem packs_of_step {f : Tile → StepWord → StepOut} (h : AtStep s.dev c t w)
    (hi : Leads i s (s.dev.stepOn s.now c p f)) (hp : p w = true) (hf : f t w = packed spans t a n m r) :
    Packs i s c t spans a n m r := by
  refine ⟨fun hnone => stepsTo_of_go h hi hp ?_, fun y hy => stepAborts_of_abort h hi hp ?_⟩
  · rw [hf, packed, hnone]
  · rw [hf, packed, hy]
    rfl

theorem packs_of_free {f : Nat → Tile → StepWord → StepOut} (h : AtStep s.dev c t w)
    (hi : Leads i s (s.dev.stepFree s.now c p f)) (hp : p w = true) (hf : f s.dev.fresh t w = packed spans t a n m r) :
    Packs i s c t spans a n m r := by
  refine ⟨fun hnone => stepsTo_of_free h hi hp ?_, fun y hy => stepAborts_of_free h hi hp ?_⟩
  · rw [hf, packed, hnone]
  · rw [hf, packed, hy]
    rfl

/-- Packed results read back. -/
theorem Packs.results (h : Packs i s c t spans a n m r) :
    (badSpan spans = none → ∃ t', StepsTo i s c t' ∧ t'.step = t.step + 1 ∧
      (∀ k, k < m → t'.val (a + n * k) n = (r k).1 % 2 ^ (8 * n)) ∧
      (∀ y, (y < a ∨ a + n * m ≤ y) → Tbl.look 0 t'.spad y = Tbl.look 0 t.spad y) ∧
      t'.flags = (List.range m).foldl (fun l k => l ||| (r k).2) t.flags) ∧
    (∀ y, badSpan spans = some y → StepAborts i s c t 0x0109 0x04 [t.step, y]) := by
  refine ⟨fun hnone => ⟨_, h.1 hnone, rfl, fun k hk => ?_, fun y hy => ?_, ?_⟩, h.2⟩
  · exact t.val_results a n m r hk
  · exact t.look_results_out a n m r hy
  · exact t.results_flags a n m r

end

/-! ### Lane-wise operations -/

/-- A lane-wise operation of one, two or three operands answers packed results. -/
theorem doLanes_one (f : StepWord → Nat → Nat → Nat → Nat → Flagged) (t : Tile) (w : StepWord) :
    doLanes .one f t w = packed [(opD t w, groupBytes (sN w) 32), (opA t w, groupBytes (sN w) 32)] t (opD t w) 4 (64 * sN w)
      fun k => f w k (t.lane (opA t w) false k) 0 0 := rfl

theorem doLanes_two (f : StepWord → Nat → Nat → Nat → Nat → Flagged) (t : Tile) (w : StepWord) :
    doLanes .two f t w = packed [(opD t w, groupBytes (sN w) 32), (opA t w, groupBytes (sN w) 32),
      (opB t w, groupBytes (groupsB w) 32)] t (opD t w) 4 (64 * sN w)
      fun k => f w k (t.lane (opA t w) false k) (t.lane (opB t w) (sBcb w) k) 0 := rfl

theorem doLanes_three (f : StepWord → Nat → Nat → Nat → Nat → Flagged) (t : Tile) (w : StepWord) :
    doLanes .three f t w = packed [(opD t w, groupBytes (sN w) 32), (opA t w, groupBytes (sN w) 32),
      (opB t w, groupBytes (groupsB w) 32), (opC t w, groupBytes (groupsC w) 32)] t (opD t w) 4 (64 * sN w)
      fun k => f w k (t.lane (opA t w) false k) (t.lane (opB t w) (sBcb w) k) (t.lane (opC t w) (sBcc w) k) := rfl

/-- A transcendental step answers packed results (R58). -/
theorem packs_transc {i : Instr} {s : State} {c op : Nat} {t : Tile} {w : StepWord} (h : AtStep s.dev c t w)
    (hop : sOp w = 0x30) (hvop : sVop w = op) (hi : Leads i s (s.dev.transc s.now c op)) :
    Packs i s c t [(opD t w, groupBytes (sN w) 32), (opA t w, groupBytes (sN w) 32)] (opD t w) 4 (64 * sN w)
      fun k => vTransc op (Config.free (if op = 0x19 ∨ op = 0x1A then .trigFar else .ulpError) s.dev.fresh k) (sFtz w)
        (t.lane (opA t w) false k) :=
  packs_of_free h hi (isVop_iff.2 ⟨hop, hvop⟩) (doLanes_one _ t w)

/-- Settles O34: each operation answers packed results, which read back. -/
theorem vectorLanes : Obligations.VectorLanes := by
  intro s c t w h hop n a b x one two three r z g i spans f hi
  have key : Packs i s c t spans (opD t w) 4 (64 * sN w) f := by
    rcases hi with ⟨rfl, hv, rfl, rfl⟩ | ⟨rfl, hv, rfl, rfl⟩ | ⟨rfl, hv, rfl, rfl⟩ | ⟨rfl, hv, rfl, rfl⟩ |
      ⟨rfl, hv, rfl, rfl⟩ | ⟨rfl, hv, rfl, rfl⟩ | ⟨rfl, hv, rfl, rfl⟩ | ⟨rfl, hv, rfl, rfl⟩ | ⟨rfl, hv, rfl, rfl⟩ |
      ⟨op, hmem, hv, rfl, rfl⟩
    · exact packs_of_step h rfl (isVop_iff.2 ⟨hop, hv⟩) (doLanes_three (fun w _ a b x => vFma (opRnd w) (sFtz w) a b x) t w)
    · exact packs_of_step h rfl (isVop_iff.2 ⟨hop, hv⟩) (doLanes_two (fun w _ a b _ => vAdd (opRnd w) (sFtz w) a b) t w)
    · exact packs_of_step h rfl (isVop_iff.2 ⟨hop, hv⟩) (doLanes_two (fun w _ a b _ => vSub (opRnd w) (sFtz w) a b) t w)
    · exact packs_of_step h rfl (isVop_iff.2 ⟨hop, hv⟩) (doLanes_two (fun w _ a b _ => vMul (opRnd w) (sFtz w) a b) t w)
    · exact packs_of_step h rfl (isVop_iff.2 ⟨hop, hv⟩) (doLanes_two (fun w _ a b _ => vMax (sFtz w) a b) t w)
    · exact packs_of_step h rfl (isVop_iff.2 ⟨hop, hv⟩) (doLanes_two (fun w _ a b _ => vMin (sFtz w) a b) t w)
    · exact packs_of_step h rfl (isVop_iff.2 ⟨hop, hv⟩) (doLanes_one (fun w _ a _ _ => vAbs (sFtz w) a) t w)
    · exact packs_of_step h rfl (isVop_iff.2 ⟨hop, hv⟩) (doLanes_one (fun w _ a _ _ => vNeg (sFtz w) a) t w)
    · exact packs_of_step h rfl (isVop_iff.2 ⟨hop, hv⟩)
        (doLanes_one (fun w _ a _ _ => vScale (opRnd w) (sFtz w) (signed 16 (sImm16 w)) a) t w)
    · have hlead : Leads i s (s.dev.transc s.now c op) := by
        simp only [List.mem_cons, Prod.mk.injEq, List.not_mem_nil, or_false] at hmem
        rcases hmem with ⟨rfl, rfl⟩ | ⟨rfl, rfl⟩ | ⟨rfl, rfl⟩ | ⟨rfl, rfl⟩ | ⟨rfl, rfl⟩ | ⟨rfl, rfl⟩ | ⟨rfl, rfl⟩ |
          ⟨rfl, rfl⟩ | ⟨rfl, rfl⟩ | ⟨rfl, rfl⟩ | ⟨rfl, rfl⟩ <;> rfl
      exact packs_transc h hop hv hlead
  refine ⟨fun hnone => ⟨_, key.1 hnone, rfl, rfl, rfl, fun k hk => t.val_results _ 4 _ f hk, fun y hy => ?_, ?_⟩, key.2⟩
  · exact t.look_results_out (opD t w) 4 (64 * sN w) f (by change y < opD t w ∨ opD t w + 256 * sN w ≤ y at hy; omega)
  · exact t.results_flags (opD t w) 4 (64 * sN w) f

/-! ### Operations of other shapes -/

/-- Settles O35: the packed shapes by the same rule; FLAGS and QBS by the frame of a step. -/
theorem vectorBlocks : Obligations.VectorBlocks := by
  intro s c t w h hop n a b d z m wide tail
  refine ⟨fun hv => ?cmp, fun hv => ?sel, fun fs fd hv hs hd => ?cvt, fun f hv hf => ?dqbs, fun hv => ?rsum, fun hv => ?rmax,
    fun hv hok => ⟨_, stepsTo_of_go h rfl (isVop_iff.2 ⟨hop, hv⟩) (if_pos hok), t.val_put_same (opD t w) 4 t.flags, rfl⟩,
    fun hv hbad => stepAborts_of_abort h rfl (isVop_iff.2 ⟨hop, hv⟩) (if_neg (by rw [hbad]; decide)),
    fun f hv hf => ⟨fun hnone => ?qbs, fun y hy => ?qbsRange⟩⟩
  case cmp => exact (packs_of_step h rfl (isVop_iff.2 ⟨hop, hv⟩) (i := .cmp c) (f := doCmp) rfl).results
  case sel => exact (packs_of_step h rfl (isVop_iff.2 ⟨hop, hv⟩) (i := .sel c) (f := doSel) rfl).results
  case cvt => exact (packs_of_free h rfl (isVop_iff.2 ⟨hop, hv⟩) (i := .cvt c) (f := doCvt) (by simp only [doCvt, hs, hd]; rfl)).results
  case dqbs => exact (packs_of_step h rfl (isVop_iff.2 ⟨hop, hv⟩) (i := .dqbs c) (f := doDqbs) (by simp only [doDqbs, hf]; rfl)).results
  case rsum =>
    exact (packs_of_free (i := .rsum c) h rfl (isVop_iff.2 ⟨hop, hv⟩) (f := fun n => doRows fun w g xs =>
      vRsum (opRnd w) (sFtz w) (fun k => Config.free .sumOrder n (g * 128 + k)) xs) rfl).results
  case rmax =>
    exact (packs_of_step (i := .rmax c) h rfl (isVop_iff.2 ⟨hop, hv⟩) (f := doRows fun w _ xs => vRmax (sFtz w) xs) rfl).results
  case qbs =>
    refine stepsTo_of_free h rfl (isVop_iff.2 ⟨hop, hv⟩) ?_
    simp only [doQbs, hf]
    rw [hnone]
  case qbsRange =>
    refine stepAborts_of_free h rfl (isVop_iff.2 ⟨hop, hv⟩) ?_
    simp only [doQbs, hf]
    rw [hy]
    rfl

/-! ### Data steps -/

/-- A row of `m` elements of `e` bytes each, cut at element `k`. -/
theorem row_elem (m e k : Nat) (f : Nat → List Byte) (hf : ∀ k, (f k).length = e) (hk : k < m) :
    (((List.range m).flatMap f).drop (k * e)).take e = f k := by
  have h := flatMap_drop_take f e (List.range m) hf k (by simpa using hk)
  rwa [List.getElem_range, Nat.mul_comm] at h

theorem row_length (m e : Nat) (f : Nat → List Byte) (hf : ∀ k, (f k).length = e) : ((List.range m).flatMap f).length = m * e := by
  rw [flatMap_length_const f e _ hf, List.length_range, Nat.mul_comm]

/-- Element `k` of row `r`, where rows at a pitch do not meet. -/
theorem Tile.rd_pitched (t : Tile) (a p rows m e : Nat) (f : Nat → Nat → List Byte) (hf : ∀ r k, (f r k).length = e)
    (hp : m * e ≤ p) {r k : Nat} (hr : r < rows) (hk : k < m) :
    (t.wrRows (fun r => a + r * p) (fun r => (List.range m).flatMap (f r)) (List.range rows)).rd (a + r * p + k * e) e = f r k := by
  rw [← row_elem m e k (f r) (hf r) hk]
  refine t.rd_wrRows_range (fun r => a + r * p) (fun r => (List.range m).flatMap (f r)) rows r (k * e) e hr ?_
    fun r' hlt _ => ?_
  · rw [row_length m e (f r) (hf r), ← Nat.succ_mul]
    exact Nat.mul_le_mul_right e hk
  · rw [row_length m e (f r) (hf r), row_length m e (f r') (hf r')]
    have := rows_apart hp (Nat.ne_of_lt hlt)
    omega

theorem Tile.look_pitched_out (t : Tile) (at_ : Nat → Nat) (rows len : Nat) (bs : Nat → List Byte)
    (hbs : ∀ r, (bs r).length = len) {y : Nat} (h : ∀ r, r < rows → y < at_ r ∨ at_ r + len ≤ y) :
    Tbl.look 0 (t.wrRows at_ bs (List.range rows)).spad y = Tbl.look 0 t.spad y :=
  t.look_wrRows_out at_ bs _ y fun r hr => by
    rw [hbs]
    exact h r (List.mem_range.1 hr)

/-- VFILL writes its rows. -/
theorem doVfill_eq {t : Tile} {w : StepWord}
    (h : badSpan [(opD t w, rowsSpan (sTen w) (sN w) (eszBytes w) (pitchOr (sImm16 w) (sN w) (eszBytes w)))] = none) :
    doVfill t w = .go (t.wrRows (fun r => opD t w + r * pitchOr (sImm16 w) (sN w) (eszBytes w))
      (fun _ => (List.range (sN w)).flatMap fun _ => toBytes (eszBytes w) (sEight w + 65536 * sValHi w))
      (List.range (sTen w))).bump := by
  simp only [doVfill, h]
  rfl

/-- VMOV writes `dr` rows of `dc` elements. -/
theorem doVmov_eq {t : Tile} {w : StepWord} {dr dc : Nat} (hd : (if sTr w then (sN w, sTen w) else (sTen w, sN w)) = (dr, dc))
    (h : badSpan [(opD t w, rowsSpan dr dc (eszBytes w) (pitchOr (sEight w) dc (eszBytes w))),
      (opA t w, rowsSpan (sTen w) (sN w) (eszBytes w) (pitchOr (sImm16 w) (sN w) (eszBytes w)))] = none) :
    doVmov t w = .go (t.wrRows (fun r => opD t w + r * pitchOr (sEight w) dc (eszBytes w))
      (fun r => (List.range dc).flatMap fun k => t.rd (opA t w + (if sTr w
        then k * pitchOr (sImm16 w) (sN w) (eszBytes w) + r * eszBytes w
        else r * pitchOr (sImm16 w) (sN w) (eszBytes w) + k * eszBytes w)) (eszBytes w)) (List.range dr)).bump := by
  simp only [doVmov, hd, h]
  rfl

theorem doVmov_range {t : Tile} {w : StepWord} {dr dc y : Nat} (hd : (if sTr w then (sN w, sTen w) else (sTen w, sN w)) = (dr, dc))
    (h : badSpan [(opD t w, rowsSpan dr dc (eszBytes w) (pitchOr (sEight w) dc (eszBytes w))),
      (opA t w, rowsSpan (sTen w) (sN w) (eszBytes w) (pitchOr (sImm16 w) (sN w) (eszBytes w)))] = some y) :
    doVmov t w = spadRange t 0x04 y := by
  simp only [doVmov, hd, h]

/-- A run of writes over an indexed list is one over its positions. -/
theorem foldl_zipIdx_wr (t : Tile) (xs : List Nat) (at_ : Nat → Nat → Nat) (bs : Nat → Nat → List Byte) :
    xs.zipIdx.foldl (fun acc (i, r) => acc.wr (at_ i r) (bs i r)) t =
      t.wrRows (fun r => at_ (xs.getD r 0) r) (fun r => bs (xs.getD r 0) r) (List.range xs.length) := by
  have hzip : xs.zipIdx = (List.range xs.length).map fun r => (xs.getD r 0, r) := by
    apply List.ext_getElem (by simp)
    intro r h1 h2
    have hr : r < xs.length := by simpa using h1
    simp [List.getD_eq_getElem?_getD, List.getElem?_eq_getElem hr]
  rw [hzip, List.foldl_map]
  rfl

theorem Tile.indices_length (t : Tile) (a n : Nat) : (t.indices a n).length = n := by simp [Tile.indices]

theorem doVgath_eq {t : Tile} {w : StepWord}
    (h : badSpan [(opB t w, 4 * sTen w), (opD t w, sTen w * sN w * eszBytes w), (opA t w, indexSpan (t.indices (opB t w) (sTen w))
      (sN w) (eszBytes w) (pitchOr (sImm16 w) (sN w) (eszBytes w)))] = none) :
    doVgath t w = .go (t.wrRows (fun r => opD t w + r * sN w * eszBytes w)
      (fun r => t.rd (opA t w + (t.indices (opB t w) (sTen w)).getD r 0 * pitchOr (sImm16 w) (sN w) (eszBytes w))
        (sN w * eszBytes w)) (List.range (sTen w))).bump := by
  have hrun := foldl_zipIdx_wr t (t.indices (opB t w) (sTen w)) (fun _ r => opD t w + r * sN w * eszBytes w)
    fun i _ => t.rd (opA t w + i * pitchOr (sImm16 w) (sN w) (eszBytes w)) (sN w * eszBytes w)
  rw [Tile.indices_length] at hrun
  simp only [doVgath, h]
  rw [hrun]

theorem doVscat_eq {t : Tile} {w : StepWord}
    (h : badSpan [(opB t w, 4 * sTen w), (opA t w, sTen w * sN w * eszBytes w), (opD t w, indexSpan (t.indices (opB t w) (sTen w))
      (sN w) (eszBytes w) (pitchOr (sImm16 w) (sN w) (eszBytes w)))] = none) :
    doVscat t w = .go (t.wrRows
      (fun r => opD t w + (t.indices (opB t w) (sTen w)).getD r 0 * pitchOr (sImm16 w) (sN w) (eszBytes w))
      (fun r => t.rd (opA t w + r * sN w * eszBytes w) (sN w * eszBytes w)) (List.range (sTen w))).bump := by
  have hrun := foldl_zipIdx_wr t (t.indices (opB t w) (sTen w))
    (fun i _ => opD t w + i * pitchOr (sImm16 w) (sN w) (eszBytes w))
    fun _ r => t.rd (opA t w + r * sN w * eszBytes w) (sN w * eszBytes w)
  rw [Tile.indices_length] at hrun
  simp only [doVscat, h]
  rw [hrun]

/-- Settles O36: every data step is a run of row writes. -/
theorem dataSteps : Obligations.DataSteps := by
  intro s c t w h e rows cols d p xs q fill move gather scatter same
  refine ⟨fun hop hok => ?fill, fun y hop hbad => ?fillRange, fun hop htr hok => ?move, fun hop htr hok => ?transpose,
    fun y hop hbad => ?moveRange, fun hop hok => ?gather, fun y hop hbad => ?gatherRange, fun hop hok => ?scatter,
    fun y hop hbad => ?scatterRange⟩
  case fill =>
    have hlen := row_length cols e (fun _ => toBytes e (sEight w + 65536 * sValHi w)) fun _ => toBytes_length _ _
    refine ⟨_, stepsTo_of_go h rfl (isOp_iff.2 hop) (doVfill_eq hok), fun y hy => ?_, fun hp r k hr hk => ?_⟩
    · exact t.look_pitched_out (fun r => d + r * p) rows (cols * e) _ (fun _ => hlen) hy
    · exact t.rd_pitched d p rows cols e (fun _ _ => toBytes e (sEight w + 65536 * sValHi w)) (fun _ _ => toBytes_length _ _)
        hp hr hk
  case fillRange =>
    refine stepAborts_of_abort h rfl (isOp_iff.2 hop) (f := doVfill) ?_
    simp only [doVfill]
    rw [show badSpan _ = some y from hbad]
    rfl
  case move =>
    have hgo := doVmov_eq (t := t) (w := w) (dr := rows) (dc := cols) (by simp [htr, rows, cols])
      (by simpa [move, q, htr] using hok)
    have hq : q = pitchOr (sEight w) cols e := by simp [q, htr, cols]
    simp only [htr, Bool.false_eq_true, if_false] at hgo
    refine ⟨_, stepsTo_of_go h rfl (isOp_iff.2 hop) hgo, fun y hy => ?_, fun hp r k hr hk => ?_⟩
    · rw [hq] at hy
      exact t.look_pitched_out _ rows (cols * e) _ (fun r => row_length cols e _ fun _ => t.rd_length _ _) hy
    · rw [hq] at hp ⊢
      exact t.rd_pitched d _ rows cols e (fun r k => t.rd (opA t w + (r * p + k * e)) e) (fun _ _ => t.rd_length _ _) hp hr hk
  case transpose =>
    have hgo := doVmov_eq (t := t) (w := w) (dr := cols) (dc := rows) (by simp [htr, rows, cols])
      (by simpa [move, q, htr] using hok)
    have hq : q = pitchOr (sEight w) rows e := by simp [q, htr, rows]
    simp only [htr, if_true] at hgo
    refine ⟨_, stepsTo_of_go h rfl (isOp_iff.2 hop) hgo, fun y hy => ?_, fun hp r k hr hk => ?_⟩
    · rw [hq] at hy
      exact t.look_pitched_out _ cols (rows * e) _ (fun r => row_length rows e _ fun _ => t.rd_length _ _) hy
    · rw [hq] at hp ⊢
      exact t.rd_pitched d _ cols rows e (fun r k => t.rd (opA t w + (k * p + r * e)) e) (fun _ _ => t.rd_length _ _) hp hr hk
  case moveRange =>
    refine stepAborts_of_abort h rfl (isOp_iff.2 hop) (f := doVmov) ?_
    cases htr : sTr w
    · exact doVmov_range (dr := rows) (dc := cols) (by simp [htr, rows, cols]) (by simpa [move, q, htr] using hbad)
    · exact doVmov_range (dr := cols) (dc := rows) (by simp [htr, rows, cols]) (by simpa [move, q, htr] using hbad)
  case gather =>
    refine ⟨_, stepsTo_of_go h rfl (isOp_iff.2 hop) (doVgath_eq hok), fun y hy => ?_, fun r hr => ?_⟩
    · exact t.look_pitched_out (fun r => d + r * cols * e) rows (cols * e) _ (fun _ => t.rd_length _ _) hy
    · have hread := t.rd_wrRows_range (fun r => d + r * cols * e) (fun r => t.rd (opA t w + xs.getD r 0 * p) (cols * e)) rows r
        0 (cols * e) hr (by simp) fun r' hlt _ => by
          have := rows_apart (Nat.le_refl (cols * e)) (Nat.ne_of_lt hlt)
          simp only [Tile.rd_length, Nat.mul_assoc]
          omega
      rw [List.drop_zero, List.take_of_length_le (by simp)] at hread
      exact hread
  case gatherRange =>
    refine stepAborts_of_abort h rfl (isOp_iff.2 hop) (f := doVgath) ?_
    simp only [doVgath]
    rw [show badSpan _ = some y from hbad]
    rfl
  case scatter =>
    refine ⟨_, stepsTo_of_go h rfl (isOp_iff.2 hop) (doVscat_eq hok), fun y hy => ?_, fun hp r hr hlast => ?_⟩
    · exact t.look_pitched_out (fun r => d + xs.getD r 0 * p) rows (cols * e) _ (fun _ => t.rd_length _ _) hy
    · have hread := t.rd_wrRows_range (fun r => d + xs.getD r 0 * p) (fun r => t.rd (opA t w + r * cols * e) (cols * e)) rows r
        0 (cols * e) hr (by simp) fun r' hlt hr' => by
          have := rows_apart hp (hlast r' hlt hr').symm
          simp only [Tile.rd_length]
          omega
      rw [List.drop_zero, List.take_of_length_le (by simp)] at hread
      exact hread
  case scatterRange =>
    refine stepAborts_of_abort h rfl (isOp_iff.2 hop) (f := doVscat) ?_
    simp only [doVscat]
    rw [show badSpan _ = some y from hbad]
    rfl

end Sys2Proof.Machine
end

section
/-!
PROOFS. The matrix and accumulator steps (R50 to R54, R80, R81): what each leaves in the accumulators.
-/

namespace Sys2Proof.Machine

/-! ### Accumulator rows -/

/-- Row `row` of engine `e` holds the values set; every other row keeps its own. -/
theorem Tile.accAt_setRow (t : Tile) (e row : Nat) (vs : List Nat) (hvs : vs.length = 16) (r j : Nat) (hj : j < 16) :
    (t.setRow e row vs).accAt e r j = if r = row then vs.getD j 0 else t.accAt e r j := by
  have hkey : accKey e r j = e * 4096 + r * 16 + j := rfl
  refine (look_putRun 0 vs (e * 4096 + row * 16) 0 (accKey e r j) t.acc).trans ?_
  by_cases hr : r = row
  · subst hr
    have hj' : accKey e r j - (e * 4096 + r * 16 + 0) = j := by omega
    rw [dif_pos (by omega), if_pos rfl, List.getD_eq_getElem _ _ (by omega)]
    simp only [hj']
  · rw [dif_neg (by omega), if_neg hr]
    rfl

/-- A run of steps that set row after row, whatever else each does beside the accumulators. -/
theorem accAt_rows {g : Tile → Nat → Tile} {e r0 : Nat} {vs : Nat → List Nat} (hvs : ∀ i, (vs i).length = 16)
    (hg : ∀ t i, (g t i).acc = (t.setRow e (r0 + i) (vs i)).acc) (t : Tile) (m r j : Nat) (hj : j < 16) :
    ((List.range m).foldl g t).accAt e r j =
      if r0 ≤ r ∧ r < r0 + m then (vs (r - r0)).getD j 0 else t.accAt e r j := by
  induction m with
  | zero => rw [if_neg (by omega)]; rfl
  | succ m ih =>
    rw [List.range_succ, List.foldl_append, List.foldl_cons, List.foldl_nil]
    have hacc : (g ((List.range m).foldl g t) m).accAt e r j =
        (((List.range m).foldl g t).setRow e (r0 + m) (vs m)).accAt e r j := by
      unfold Tile.accAt
      rw [hg]
    rw [hacc, Tile.accAt_setRow _ e _ _ (hvs m) r j hj, ih]
    by_cases hr : r = r0 + m
    · subst hr
      rw [if_pos rfl, if_pos (by omega), Nat.add_sub_cancel_left]
    · rw [if_neg hr]
      by_cases hin : r0 ≤ r ∧ r < r0 + m
      · rw [if_pos hin, if_pos (by omega)]
      · rw [if_neg hin, if_neg (by omega)]

/-- A run of steps that each set a row of the accumulators and raise flags. -/
def Tile.rowsSet (t : Tile) (e r0 m : Nat) (vs : Nat → List Nat) (fl : Nat → Nat) : Tile :=
  (List.range m).foldl (fun acc i => (acc.setRow e (r0 + i) (vs i)).raiseFlags (fl i)) t

/-- Setting rows leaves all but the accumulators, their valid bits and the flags. -/
theorem Tile.rowsSet_rest (t : Tile) (e r0 m : Nat) (vs : Nat → List Nat) (fl : Nat → Nat) :
    t.SameRest (t.rowsSet e r0 m vs fl) ∧ (t.rowsSet e r0 m vs fl).spad = t.spad := by
  unfold Tile.rowsSet
  induction m with
  | zero => exact ⟨.refl t, rfl⟩
  | succ m ih =>
    rw [List.range_succ, List.foldl_append, List.foldl_cons, List.foldl_nil]
    exact ⟨ih.1.trans rfl, ih.2⟩

theorem Tile.accAt_rowsSet (t : Tile) (e r0 m : Nat) (vs : Nat → List Nat) (fl : Nat → Nat) (hvs : ∀ i, (vs i).length = 16)
    (r j : Nat) (hj : j < 16) : (t.rowsSet e r0 m vs fl).accAt e r j =
      if r0 ≤ r ∧ r < r0 + m then (vs (r - r0)).getD j 0 else t.accAt e r j :=
  accAt_rows (g := fun acc i => (acc.setRow e (r0 + i) (vs i)).raiseFlags (fl i)) hvs (fun _ _ => rfl) t m r j hj

/-- Flags of 0 raise nothing. -/
theorem foldl_setRow (t : Tile) (e r0 m : Nat) (vs : Nat → List Nat) :
    (List.range m).foldl (fun acc i => acc.setRow e (r0 + i) (vs i)) t = t.rowsSet e r0 m vs fun _ => 0 := by
  have hzero : ∀ u : Tile, u.raiseFlags 0 = u := fun u => by
    unfold Tile.raiseFlags
    rw [Nat.or_zero]
  simp only [Tile.rowsSet, hzero]

/-- What the rows hold inside and outside the run. -/
theorem Tile.rowsSet_spec (t : Tile) (e r0 m : Nat) (vs : Nat → List Nat) (fl : Nat → Nat) (hvs : ∀ i, (vs i).length = 16) :
    (∀ i j, i < m → j < 16 → (t.rowsSet e r0 m vs fl).accAt e (r0 + i) j = (vs i).getD j 0) ∧
    (∀ r j, j < 16 → (r < r0 ∨ r0 + m ≤ r) → (t.rowsSet e r0 m vs fl).accAt e r j = t.accAt e r j) := by
  refine ⟨fun i j hi hj => ?_, fun r j hj hr => ?_⟩
  · rw [t.accAt_rowsSet e r0 m vs fl hvs _ j hj, if_pos (by omega), Nat.add_sub_cancel_left]
  · rw [t.accAt_rowsSet e r0 m vs fl hvs r j hj, if_neg (by omega)]

/-! ### The steps -/

/-- The 16 results of a row of an MMA. -/
def Tile.mmaVals (t : Tile) (w : StepWord) (fa fb : Fmt) (n i : Nat) : List Flagged :=
  t.mmaRow w fa fb n ((List.range 16).map (t.mmaLine fb (spaAddr t.ar (sSix w)) (spaAddr t.ar (sTen w)) (sK w))) i

theorem Tile.mmaVals_length (t : Tile) (w : StepWord) (fa fb : Fmt) (n i : Nat) : (t.mmaVals w fa fb n i).length = 16 := by
  simp [Tile.mmaVals, Tile.mmaRow]

theorem Tile.mmaVals_getD (t : Tile) (w : StepWord) (fa fb : Fmt) (n i j : Nat) (hj : j < 16) :
    ((t.mmaVals w fa fb n i).map (·.1)).getD j 0 = (mmaDot fa fb (sMmaRnd w == 1)
      (fun g => Config.free .groupOrder n ((i * 16 + j) * 4096 + g))
      (t.mmaLine fa (spaAddr t.ar (sSpa w)) (spaAddr t.ar (sEight w)) (sK w) i)
      (t.mmaLine fb (spaAddr t.ar (sSix w)) (spaAddr t.ar (sTen w)) (sK w) j)
      (if sZero w then 0 else t.accAt (sEng w) (sI0 w + i) j)).1 := by
  rw [List.getD_eq_getElem _ _ (by rw [List.length_map, Tile.mmaVals_length]; exact hj)]
  simp [Tile.mmaVals, Tile.mmaRow]

theorem doMma_go {n : Nat} {t : Tile} {w : StepWord} {fa fb : Fmt} (ha : Fmt.ofCode (sFmtA w) = some fa)
    (hb : Fmt.ofCode (sFmtB w) = some fb) (hr : mmaRange t w fa fb = none) :
    doMma n t w = .go { t.rowsSet (sEng w) (sI0 w) (sM w) (fun i => (t.mmaVals w fa fb n i).map Prod.fst)
        (fun i => (t.mmaVals w fa fb n i).foldl (fun f (x : Flagged) => f ||| x.2) 0) with
      engines := modifyAt t.engines (sEng w) fun e => e.run t.cy (mmaCycles fa fb (sM w) (sK w))
      activity := t.activity + mmaCycles fa fb (sM w) (sK w) }.bump := by
  simp only [doMma, ha, hb, hr]
  rfl

theorem doMma_range {n : Nat} {t : Tile} {w : StepWord} {fa fb : Fmt} {a : Nat} (ha : Fmt.ofCode (sFmtA w) = some fa)
    (hb : Fmt.ofCode (sFmtB w) = some fb) (hr : mmaRange t w fa fb = some a) : doMma n t w = spadRange t (sEng w) a := by
  simp only [doMma, ha, hb, hr]

/-- The FP32 values that ACCLD loads into a row. -/
def Tile.accLine (t : Tile) (w : StepWord) (i : Nat) : List Nat :=
  (List.range 16).map fun j => t.val (accRowAddr t w 4 i + 4 * j) 4

theorem doAccld_go {t : Tile} {w : StepWord} (h : accRange t w 4 = true) :
    doAccld t w = .go (t.rowsSet (sEng w) (sI0 w) (sM w) (t.accLine w) fun _ => 0).bump := by
  unfold doAccld
  rw [if_pos h, ← foldl_setRow]
  rfl

theorem doAccz_go (t : Tile) (w : StepWord) :
    doAccz t w = .go (t.rowsSet (sEng w) (sI0 w) (sM w) (fun _ => List.replicate 16 0) fun _ => 0).bump := by
  rw [← foldl_setRow]
  rfl

/-- Settles O33: an MMA, ACCLD or ACCZ sets rows of its engine; ACCRD writes the scratchpad. -/
theorem matrixSteps : Obligations.MatrixSteps := by
  intro s c t w h e n
  refine ⟨fun fa fb hop ha hb hr => ?mma, fun fa fb a hop ha hb hr => ?mmaRange, fun hop hr => ?accld, fun hop hr => ?accldRange,
    fun hop => ?accz, fun f r hop hf hrnd => ⟨fun hr => ?accrd, fun hr => ?accrdRange⟩⟩
  case mma =>
    have hvs : ∀ i, ((t.mmaVals w fa fb n i).map (·.1)).length = 16 := fun i => by
      rw [List.length_map, Tile.mmaVals_length]
    obtain ⟨hrest, hspad⟩ := t.rowsSet_rest e (sI0 w) (sM w) (fun i => (t.mmaVals w fa fb n i).map (·.1))
      fun i => (t.mmaVals w fa fb n i).foldl (fun f x => f ||| x.2) 0
    obtain ⟨hin, hout⟩ := t.rowsSet_spec e (sI0 w) (sM w) (fun i => (t.mmaVals w fa fb n i).map (·.1))
      (fun i => (t.mmaVals w fa fb n i).foldl (fun f x => f ||| x.2) 0) hvs
    refine ⟨_, stepsTo_of_free h rfl (isOp_iff.2 hop) (doMma_go ha hb hr), ?_, hspad, ?_, fun i j hi hj => ?_,
      fun r j hj hr => hout r j hj hr, rfl⟩
    · exact congrArg (· + 1) hrest.step
    · exact hrest.ar
    · exact (hin i j hi hj).trans (t.mmaVals_getD w fa fb n i j hj)
  case mmaRange => exact stepAborts_of_free h rfl (isOp_iff.2 hop) (doMma_range ha hb hr)
  case accld =>
    obtain ⟨hrest, hspad⟩ := t.rowsSet_rest e (sI0 w) (sM w) (t.accLine w) fun _ => 0
    obtain ⟨hin, hout⟩ := t.rowsSet_spec e (sI0 w) (sM w) (t.accLine w) (fun _ => 0) fun i => by simp [Tile.accLine]
    refine ⟨_, stepsTo_of_go h rfl (isOp_iff.2 hop) (doAccld_go hr), ?_, hspad, fun i j hi hj => ?_,
      fun r j hj hr => hout r j hj hr⟩
    · exact congrArg (· + 1) hrest.step
    · refine (hin i j hi hj).trans ?_
      rw [List.getD_eq_getElem _ _ (by simpa [Tile.accLine] using hj)]
      simp [Tile.accLine]
  case accldRange =>
    exact stepAborts_of_abort h rfl (isOp_iff.2 hop) (f := doAccld) (if_neg (by rw [hr]; decide))
  case accz =>
    obtain ⟨hrest, hspad⟩ := t.rowsSet_rest e (sI0 w) (sM w) (fun _ => List.replicate 16 0) fun _ => 0
    obtain ⟨hin, hout⟩ := t.rowsSet_spec e (sI0 w) (sM w) (fun _ => List.replicate 16 0) (fun _ => 0) fun i => by simp
    refine ⟨_, stepsTo_of_go h rfl (isOp_iff.2 hop) (doAccz_go t w), ?_, hspad, fun i j hi hj => ?_,
      fun r j hj hr => hout r j hj hr⟩
    · exact congrArg (· + 1) hrest.step
    · refine (hin i j hi hj).trans ?_
      rw [List.getD_eq_getElem _ _ (by simpa using hj), List.getElem_replicate]
  case accrd =>
    refine stepsTo_of_free h rfl (isOp_iff.2 hop) ?_
    simp only [doAccrd, hf, hrnd]
    rw [if_pos hr]
  case accrdRange =>
    refine stepAborts_of_free h rfl (isOp_iff.2 hop) ?_
    simp only [doAccrd, hf, hrnd]
    rw [if_neg (by rw [hr]; decide)]
    rfl

end Sys2Proof.Machine
end

section
/-!
PROOFS. What the scratchpad and the stacks merge (R62, R112, R121, R142), the bytes that units race over (R75), and what an
abort spoils (R96, R227, R237).
-/

namespace Sys2Proof.Machine

/-! ### Written bits of the scratchpad -/

theorem mem_insertNew (x y : Nat) (l : List Nat) : y ∈ insertNew x l ↔ y = x ∨ y ∈ l := by
  induction l with
  | nil => simp [insertNew]
  | cons z l ih =>
    unfold insertNew
    split
    · simp
    · split
      · rename_i hxz
        subst hxz
        simp
      · simp [ih, or_left_comm]

theorem mem_insertRun (a n y : Nat) (l : List Nat) :
    y ∈ (List.range n).foldl (fun l i => insertNew (a + i) l) l ↔ y ∈ l ∨ ∃ i, i < n ∧ y = a + i := by
  induction n with
  | zero => simp
  | succ n ih =>
    rw [List.range_succ, List.foldl_append, List.foldl_cons, List.foldl_nil, mem_insertNew, ih]
    constructor
    · rintro (rfl | h | ⟨i, hi, rfl⟩)
      · exact .inr ⟨n, Nat.lt_succ_self n, rfl⟩
      · exact .inl h
      · exact .inr ⟨i, by omega, rfl⟩
    · rintro (h | ⟨i, hi, rfl⟩)
      · exact .inr (.inl h)
      · rcases Nat.eq_or_lt_of_le (Nat.le_of_lt_succ hi) with rfl | hlt
        · exact .inl rfl
        · exact .inr (.inr ⟨i, hlt, rfl⟩)

/-- A write sets the written bits of the lines it touches. -/
theorem Tile.mem_written_wr (t : Tile) (a : Nat) (bs : List Byte) (l : Nat) :
    l ∈ (t.wr a bs).written ↔ l ∈ t.written ∨ ∃ i, i < bs.length + a % 64 ∧ l = a / 64 + i / 64 := by
  refine (mem_insertRun (a / 64) (ceilDiv (a % 64 + bs.length) 64) l t.written).trans (or_congr_right ?_)
  unfold ceilDiv
  constructor
  · rintro ⟨i, hi, rfl⟩
    exact ⟨64 * i, by omega, by omega⟩
  · rintro ⟨i, hi, rfl⟩
    exact ⟨i / 64, by omega, rfl⟩

/-! ### Merged granules -/

/-- A line with some of its `w`-bit fields replaced. -/
def mergeFields (w n : Nat) (p : Nat → Bool) (v : Nat → Nat) (x : Line) : Line :=
  (List.range n).foldl (fun acc i => if p i then BitVec.ofNat 512 (setBits acc.toNat (w * i) w (v i)) else acc) x

theorem bits_ofNat {n x lo w : Nat} (h : lo + w ≤ n) : bits (BitVec.ofNat n x).toNat lo w = bits x lo w := by
  rw [BitVec.toNat_ofNat, bits_mod _ _ _ _ h]

/-- A field of a line with another field set. -/
theorem bits_setField (w i j v : Nat) (x : Line) (hj : w * j + w ≤ 512) :
    bits (BitVec.ofNat 512 (setBits x.toNat (w * i) w v)).toNat (w * j) w =
      if j = i then v % 2 ^ w else bits x.toNat (w * j) w := by
  rw [bits_ofNat hj]
  split
  · rename_i h
    subst h
    exact bits_setBits_same _ _ _ _
  · rename_i h
    rcases Nat.lt_or_gt_of_ne h with h | h
    · refine bits_setBits_below _ _ _ _ _ _ ?_
      rw [← Nat.mul_succ]
      exact Nat.mul_le_mul_left w h
    · refine bits_setBits_above _ _ _ _ _ _ ?_
      rw [← Nat.mul_succ]
      exact Nat.mul_le_mul_left w h

theorem bits_mergeFields (w n : Nat) (p : Nat → Bool) (v : Nat → Nat) (x : Line) (j : Nat) (hj : w * j + w ≤ 512) :
    bits (mergeFields w n p v x).toNat (w * j) w =
      if j < n ∧ p j = true then v j % 2 ^ w else bits x.toNat (w * j) w := by
  unfold mergeFields
  induction n with
  | zero => rw [if_neg (by omega)]; rfl
  | succ n ih =>
    rw [List.range_succ, List.foldl_append, List.foldl_cons, List.foldl_nil]
    by_cases hp : p n = true
    · rw [if_pos hp, bits_setField w n j (v n) _ hj]
      by_cases hjn : j = n
      · subst hjn
        rw [if_pos rfl, if_pos ⟨Nat.lt_succ_self j, hp⟩]
      · rw [if_neg hjn, ih]
        exact if_congr ⟨fun h => ⟨by omega, h.2⟩, fun h => ⟨by omega, h.2⟩⟩ rfl rfl
    · rw [if_neg hp, ih]
      refine if_congr ⟨fun h => ⟨by omega, h.2⟩, fun h => ⟨?_, h.2⟩⟩ rfl rfl
      rcases Nat.eq_or_lt_of_le (Nat.le_of_lt_succ h.1) with rfl | hlt
      · exact absurd h.2 hp
      · exact hlt

/-- A masked write takes the bytes its mask names from the new data. -/
theorem fld_mergeBytes (m : Nat) (x y : Line) (i : Nat) (hi : i < 64) :
    fld (mergeBytes m x y) i 0 8 = if bit m i then fld y i 0 8 else fld x i 0 8 := by
  have h := bits_mergeFields 8 64 (bit m) (fun i => fld y i 0 8) x i (by omega)
  refine h.trans (if_congr (by simp [hi]) ?_ rfl)
  exact Nat.mod_eq_of_lt (bits_lt _ _ _)

/-- A MODE 1 add sums the FP32 elements its mask names. -/
theorem fld_addElems (m : Nat) (x y : Line) (i : Nat) (hi : i < 16) :
    fld (addElems m x y) (4 * i) 0 32 =
      if bit m (4 * i) then addF32 (fld x (4 * i) 0 32) (fld y (4 * i) 0 32) % 2 ^ 32 else fld x (4 * i) 0 32 := by
  have h := bits_mergeFields 32 16 (fun i => bit m (4 * i)) (fun i => addF32 (fld x (4 * i) 0 32) (fld y (4 * i) 0 32)) x i
    (by omega)
  have hplace : 8 * (4 * i) + 0 = 32 * i := by omega
  simp only [fld, hplace, hi, true_and] at h ⊢
  exact h

/-- A fetch-and-add bumps its word and leaves every other. -/
theorem fld_bumpWord (x : Line) (o : Nat) (ho : o % 4 = 0) (ho' : o < 64) :
    fld (bumpWord o x) o 0 32 = (fld x o 0 32 + 1) % 2 ^ 32 ∧
      ∀ j, j % 4 = 0 → j < 64 → j ≠ o → fld (bumpWord o x) j 0 32 = fld x j 0 32 := by
  have key : ∀ j, j % 4 = 0 → j < 64 → fld (bumpWord o x) j 0 32 =
      if j / 4 = o / 4 then (fld x o 0 32 + 1) % 2 ^ 32 else fld x j 0 32 := by
    intro j hj hj'
    have hplace : 8 * o = 32 * (o / 4) := by omega
    have hplace' : 8 * j + 0 = 32 * (j / 4) := by omega
    have h := bits_setField 32 (o / 4) (j / 4) (fld x o 0 32 + 1) x (by omega)
    unfold bumpWord
    rw [hplace]
    simp only [fld] at h ⊢
    rw [hplace']
    exact h
  refine ⟨(key o ho ho').trans (if_pos rfl), fun j hj hj' hne => (key j hj hj').trans (if_neg (by omega))⟩

/-! ### Races -/

/-- A byte is in one of the spans. -/
def Among (y : Nat) (l : List Span) : Prop := ∃ x ∈ l, x.1 ≤ y ∧ y < x.1 + x.2

theorem among_append {y : Nat} {a b : List Span} : Among y (a ++ b) ↔ Among y a ∨ Among y b := by
  simp [Among, or_and_right, exists_or]

theorem meetSpan_of_mem {a b : Span} {y : Nat} (ha : a.1 ≤ y ∧ y < a.1 + a.2) (hb : b.1 ≤ y ∧ y < b.1 + b.2) :
    ∃ z, meetSpan a b = some z ∧ z.1 ≤ y ∧ y < z.1 + z.2 := by
  unfold meetSpan
  dsimp only
  rw [if_pos (by omega)]
  exact ⟨_, rfl, by simp; omega⟩

/-- A byte in a span of each of two lists is in a span they share. -/
theorem among_overlaps {a b : List Span} {y : Nat} (ha : Among y a) (hb : Among y b) : Among y (overlaps a b) := by
  obtain ⟨x, hx, hxy⟩ := ha
  obtain ⟨z, hz, hzy⟩ := hb
  obtain ⟨m, hm, hmy⟩ := meetSpan_of_mem hxy hzy
  exact ⟨m, List.mem_flatMap.2 ⟨x, hx, List.mem_filterMap.2 ⟨z, hz, hm⟩⟩, hmy⟩

/-- What a logged access of another unit shares with a step races, where nothing orders it before the step. -/
theorem Tile.among_racing {t : Tile} {n y : Nat} {f : Foot} {e : Touch} (he : e ∈ t.order.log) (hunit : e.unit ≠ f.unit)
    (hafter : e.after = none) (hy : Among y (overlaps f.reads e.writes ++ overlaps f.writes (e.reads ++ e.writes))) :
    Among y (t.racing n f) := by
  have hclash : e ∈ t.clashes n f := by
    simp [Tile.clashes, he, hunit, hafter]
  obtain ⟨x, hx, hxy⟩ := hy
  exact ⟨x, List.mem_append_left _ (List.mem_flatMap.2 ⟨e, hclash, hx⟩), hxy⟩

/-- A byte of the scratchpad holds a free value. -/
def Tile.FreeAt (t : Tile) (m y : Nat) : Prop :=
  ∃ i, Tbl.look 0 t.spad y = BitVec.ofNat 8 (Config.free .undefinedByte m i)

theorem foldl_setRow_spad {α : Type} (g : Tile → α → Tile) (hg : ∀ t a, (g t a).spad = t.spad) (l : List α) (t : Tile) :
    (l.foldl g t).spad = t.spad := by
  induction l generalizing t with
  | nil => rfl
  | cons a l ih => exact (ih _).trans (hg t a)

/-- Free bytes in a span of the scratchpad; a span of accumulators leaves it. -/
theorem Tile.look_blur1 (m b : Nat) (t : Tile) (x : Span) (y : Nat) :
    (x.1 ≤ y ∧ y < x.1 + x.2 → y < accBase → (t.blur1 m b x).FreeAt m y) ∧
    (¬(x.1 ≤ y ∧ y < x.1 + x.2) → Tbl.look 0 (t.blur1 m b x).spad y = Tbl.look 0 t.spad y) ∧
    (t.FreeAt m y → (t.blur1 m b x).FreeAt m y) := by
  unfold Tile.blur1
  by_cases hx : x.1 < accBase
  · have hlook := t.look_wr x.1 ((List.range x.2).map fun i =>
      BitVec.ofNat 8 (Config.free .undefinedByte m (b * 2 ^ 24 + x.1 + i))) y
    rw [if_pos hx]
    simp only [List.length_map, List.length_range] at hlook
    by_cases hin : x.1 ≤ y ∧ y < x.1 + x.2
    · rw [dif_pos hin] at hlook
      have hfree := hlook.trans (by rw [List.getElem_map, List.getElem_range])
      exact ⟨fun _ _ => ⟨_, hfree⟩, fun hnot => absurd hin hnot, fun _ => ⟨_, hfree⟩⟩
    · rw [dif_neg hin] at hlook
      refine ⟨fun h => absurd h hin, fun _ => hlook, fun ⟨i, hi⟩ => ⟨i, hlook.trans hi⟩⟩
  · rw [if_neg hx]
    have hspad := foldl_setRow_spad (fun (t : Tile) i =>
      t.setRow (((x.1 - accBase) / 64 + i) / 256) (((x.1 - accBase) / 64 + i) % 256) ((List.range 16).map fun j =>
        Config.free .undefinedByte m (b * 2 ^ 24 + x.1 + 64 * i + j) % 2 ^ 32)) (fun _ _ => rfl) (List.range (x.2 / 64)) t
    simp only [Tile.FreeAt]
    rw [hspad]
    exact ⟨fun h hy => absurd (Nat.lt_of_le_of_lt h.1 hy) hx, fun _ => rfl, id⟩

/-- Free bytes in a list of spans: those named hold free values, the others are left. -/
theorem Tile.look_blur (m b : Nat) (l : List Span) (t : Tile) (y : Nat) :
    (Among y l → y < accBase → (t.blur m b l).FreeAt m y) ∧
    (¬Among y l → Tbl.look 0 (t.blur m b l).spad y = Tbl.look 0 t.spad y) ∧
    (t.FreeAt m y → (t.blur m b l).FreeAt m y) := by
  unfold Tile.blur
  induction l generalizing t with
  | nil => exact ⟨fun ⟨x, hx, _⟩ => (List.not_mem_nil hx).elim, fun _ => rfl, id⟩
  | cons x l ih =>
    obtain ⟨hin, hout, hkeep⟩ := Tile.look_blur1 m b t x y
    obtain ⟨ihin, ihout, ihkeep⟩ := ih (Tile.blur1 m b t x)
    refine ⟨fun ⟨z, hz, hzy⟩ hy => ?_, fun hnot => ?_, fun h => ihkeep (hkeep h)⟩
    · rcases List.mem_cons.1 hz with rfl | hz
      · exact ihkeep (hin hzy hy)
      · exact ihin ⟨z, hz, hzy⟩ hy
    · exact (ihout fun ⟨z, hz, hzy⟩ => hnot ⟨z, List.mem_cons_of_mem _ hz, hzy⟩).trans
        (hout fun h => hnot ⟨x, List.mem_cons_self, h⟩)

/-- The scratchpad of a tile that collided: the bytes raced over free, then the outputs drawn from them. -/
theorem Tile.spad_collide (t : Tile) (m n : Nat) (f : Foot) (h : t.racing n f ≠ []) : (t.collide m n f).spad =
    ((t.blur m 1 (t.racing n f)).blur m 2 ((t.drawn n f).flatMap (·.writes))).spad := by
  have hne : (t.racing n f).isEmpty = false := by
    cases hl : t.racing n f with
    | nil => exact absurd hl h
    | cons _ _ => rfl
  unfold Tile.collide
  simp only [hne]
  cases hd : (t.drawn n f).isEmpty <;> rfl

/-- Bytes raced over hold free values. -/
theorem Tile.freeAt_collide {t : Tile} {n y : Nat} {f : Foot} (m : Nat) (hy : y < accBase) (h : Among y (t.racing n f)) :
    (t.collide m n f).FreeAt m y := by
  have hne : t.racing n f ≠ [] := by
    rintro hnil
    rw [hnil] at h
    obtain ⟨x, hx, -⟩ := h
    exact List.not_mem_nil hx
  have hblur := (Tile.look_blur m 1 (t.racing n f) t y).1 h hy
  unfold Tile.FreeAt
  rw [Tile.spad_collide t m n f hne]
  exact (Tile.look_blur m 2 _ _ y).2.2 hblur

/-- Bytes not raced over, and not drawn from such, are left. -/
theorem Tile.look_collide {t : Tile} {n y : Nat} {f : Foot} (m : Nat) (h : ¬Among y (t.racing n f))
    (hdrawn : ∀ e ∈ t.drawn n f, ¬Among y e.writes) : Tbl.look 0 (t.collide m n f).spad y = Tbl.look 0 t.spad y := by
  by_cases hne : t.racing n f = []
  · rw [t.collide_nil m n f hne]
  · have hout : ¬Among y ((t.drawn n f).flatMap (·.writes)) := by
      rintro ⟨x, hx, hxy⟩
      obtain ⟨e, he, hxe⟩ := List.mem_flatMap.1 hx
      exact hdrawn e he ⟨x, hxe, hxy⟩
    rw [Tile.spad_collide t m n f hne, (Tile.look_blur m 2 _ _ y).2.1 hout, (Tile.look_blur m 1 _ _ y).2.1 h]

/-- FENCE, WAITC and XDRAIN differ the order alone. -/
theorem Tile.orders_shape (t : Tile) (w : StepWord) : ∃ o, t.orders w = { t with order := o } := by
  unfold Tile.orders
  split <;> exact ⟨_, rfl⟩

theorem Tile.touch_shape (t : Tile) (n : Nat) (f : Foot) (x : Nat) (e : Ends) : ∃ o, t.touch n f x e = { t with order := o } := by
  unfold Tile.touch
  split <;> exact ⟨_, rfl⟩

/-- A step that does not race leaves what it made of the tile, but for the log. -/
theorem Tile.settle_of_not_races {t u : Tile} {w : StepWord} (m : Nat) (h : t.races w = false) (horder : u.order = t.order)
    (hins : u.ins = t.ins) : ∃ o, t.settle m w u = { u with order := o } := by
  have hracing : u.racing t.order.nth (footOf t w) = [] := by
    have hsame : u.racing t.order.nth (footOf t w) = t.racing t.order.nth (footOf t w) := by
      simp only [Tile.racing, Tile.clashes, Tile.danger, Tile.loose, horder, hins]
    rw [hsame]
    simpa [Tile.races] using h
  obtain ⟨o, ho⟩ := u.orders_shape w
  unfold Tile.settle
  dsimp only
  rw [u.collide_nil m _ _ hracing, ho]
  split
  · obtain ⟨o', ho'⟩ := Tile.touch_shape { u with order := o } t.order.nth (footOf t w)
      (({ u with order := o } : Tile).flags ^^^ t.flags) (.unit (footOf t w).unit)
    rw [ho']
    exact ⟨_, rfl⟩
  · exact ⟨_, rfl⟩

/-- What is left in the log unordered was not picked. -/
theorem Tile.after_ordered {t : Tile} {p : Ends → Bool} {e : Touch} (he : e ∈ (t.ordered p).order.log) (hp : p e.ends = true) :
    e.after ≠ none := by
  obtain ⟨hmem, -⟩ := List.mem_filter.1 he
  obtain ⟨e0, -, rfl⟩ := List.mem_map.1 hmem
  by_cases hpick : (e0.after.isNone && p e0.ends) = true
  · rw [if_pos hpick]
    simp
  · rw [if_neg hpick] at hp ⊢
    intro hnone
    exact hpick (by simp [hnone, hp])

/-- A FENCE orders the accesses of the units in its mask. -/
theorem Tile.after_fence {t : Tile} {w : StepWord} (hop : sOp w = 0x08) {e : Touch} (he : e ∈ (t.orders w).order.log) {k : Nat}
    (hends : e.ends = .unit k) (hbit : bit (sFA w) k = true) : e.after ≠ none := by
  simp only [Tile.orders, hop] at he
  exact Tile.after_ordered he (by rw [hends]; exact hbit)

/-! ### What an abort spoils -/

/-- Of the device no more than stored granules and the count of free values differ. -/
def Dev.SameButStored (d e : Dev) : Prop := { e with mem := d.mem, slice := d.slice, fresh := d.fresh } = d

theorem Dev.SameButStored.trans {d e f : Dev} (h : d.SameButStored e) (g : e.SameButStored f) : d.SameButStored f := by
  unfold Dev.SameButStored at h g ⊢
  rw [← g] at h
  exact h

theorem Dev.sameButStored_foldl {α : Type} {f : Dev → α → Dev} (hf : ∀ (d : Dev) a, d.SameButStored (f d a)) (l : List α) (d : Dev) :
    d.SameButStored (l.foldl f d) := by
  induction l generalizing d with
  | nil => rfl
  | cons a l ih => exact (hf d a).trans (ih _)

theorem Dev.sameButStored_putSlot (d : Dev) (l g : Nat) (gr : Gran) : d.SameButStored (d.putSlot l g gr) := by
  unfold Dev.putSlot
  dsimp only
  (repeat' split) <;> rfl

theorem Dev.sameButStored_putGran (d : Dev) (l g : Nat) (gr : Gran) : d.SameButStored (d.putGran l g gr) :=
  (d.sameButStored_putSlot l g gr).trans (Dev.sameButStored_foldl (fun _ _ => Dev.sameButStored_putSlot _ _ _ _) _ _)

theorem Dev.sameButStored_setSgran1 (d : Dev) (k : Nat) (g : SliceGran) : d.SameButStored (d.setSgran1 k g) := rfl

theorem Dev.sameButStored_setSgran (d : Dev) (k : Nat) (g : SliceGran) : d.SameButStored (d.setSgran k g) :=
  (d.sameButStored_setSgran1 k g).trans (Dev.sameButStored_foldl (fun _ _ => Dev.sameButStored_setSgran1 _ _ _) _ _)

theorem Dev.sameButStored_spoilLine (d : Dev) (t : Tags) (space va len : Nat) :
    d.SameButStored (d.spoilLine t space va len) := by
  have hdraw : d.SameButStored { d with fresh := d.fresh + 1 } := rfl
  unfold Dev.spoilLine Dev.draw
  dsimp only
  split
  · split
    · exact hdraw
    · split
      · exact hdraw
      · exact hdraw.trans (Dev.sameButStored_putGran _ _ _ _)
  · split
    · exact hdraw
    · split
      · exact hdraw
      · exact hdraw.trans (Dev.sameButStored_setSgran _ _ _)

theorem Dev.sameButStored_spoil (t : Tags) (n : Nat) (g : Target) (d : Dev) : d.SameButStored (Dev.spoil t n g d) := by
  induction n generalizing g d with
  | zero => rfl
  | succ n ih =>
    unfold Dev.spoil
    split
    · rfl
    · exact (d.sameButStored_spoilLine _ _ _ _).trans (ih _ _)

theorem Dev.sameButStored_spoilAll (d : Dev) (t : Tags) (l : List Target) : d.SameButStored (d.spoilAll t l) :=
  Dev.sameButStored_foldl (fun d (g : Target) => Dev.sameButStored_spoil t g.len g d) l d

/-- A slice granule reads as what was stored, whatever spares mirror its slice. -/
theorem Dev.sgran_setSgran_same (d : Dev) (k : Nat) (g : SliceGran) : (d.setSgran k g).sgran k = g := by
  refine foldl_keeps (fun e : Dev => e.sgran k = g) _ (fun e w he => ?_) _ _ (d.sgran_setSgran1_same k g)
  by_cases hk : k = sliceKey w.spare (k % 2 ^ 16)
  · have h := e.sgran_setSgran1_same (sliceKey w.spare (k % 2 ^ 16)) g
    rwa [← hk] at h ⊢
  · rw [Dev.sgran_setSgran1_other _ _ _ _ hk, he]

theorem bit_eq_testBit (x i : Nat) : bit x i = x.testBit i := by
  rw [Nat.testBit_eq_decide_div_mod_eq]
  rfl

/-- A mask of `len` bytes from byte `o` on. -/
theorem bit_maskOf (o len i : Nat) : bit (maskOf o len) i = decide (o ≤ i ∧ i < o + len) := by
  rw [bit_eq_testBit, maskOf, Nat.testBit_mul_two_pow, Nat.testBit_two_pow_sub_one, Bool.decide_and]
  by_cases h : o ≤ i
  · simp only [h, decide_true, Bool.true_and]
    exact decide_eq_decide.2 (by omega)
  · simp [h]

/-- A slice's granule in the window, once a part of it is spoiled. -/
theorem Dev.spoilLine_slice {d : Dev} {t : Tags} {o len k g : Nat} (hat : d.sliceAt t.ast t.epoch o = some (k, g))
    (hp : (d.sgran (sliceKey k g)).poison = false) : d.spoilLine t 1 o len =
      ({ d with fresh := d.fresh + 1 } : Dev).setSgran (sliceKey k g) ⟨mergeBytes (maskOf (o % 64) len)
        (d.sgran (sliceKey k g)).data (BitVec.ofNat 512 (Config.free .undefinedByte d.fresh 0)), false⟩ := by
  have hat' : ({ d with fresh := d.fresh + 1 } : Dev).sliceAt t.ast t.epoch o = some (k, g) := hat
  have hp' : (({ d with fresh := d.fresh + 1 } : Dev).sgran (sliceKey k g)).poison = false := hp
  unfold Dev.spoilLine Dev.draw
  simp only [hat', hp', Nat.one_ne_zero, if_false, Bool.false_eq_true]
  rfl

theorem Dev.spoilLine_slice_poisoned {d : Dev} {t : Tags} {o len k g : Nat} (hat : d.sliceAt t.ast t.epoch o = some (k, g))
    (hp : (d.sgran (sliceKey k g)).poison = true) : d.spoilLine t 1 o len = { d with fresh := d.fresh + 1 } := by
  have hat' : ({ d with fresh := d.fresh + 1 } : Dev).sliceAt t.ast t.epoch o = some (k, g) := hat
  have hp' : (({ d with fresh := d.fresh + 1 } : Dev).sgran (sliceKey k g)).poison = true := hp
  unfold Dev.spoilLine Dev.draw
  simp only [hat', hp', Nat.one_ne_zero, if_false, if_true]

/-- Without a spare at work only the granule named differs. -/
theorem Dev.sgran_spoilLine_other {d : Dev} {t : Tags} {o len k g j : Nat} (hat : d.sliceAt t.ast t.epoch o = some (k, g))
    (hj : j ≠ sliceKey k g) (hswaps : d.comp.swaps = []) : (d.spoilLine t 1 o len).sgran j = d.sgran j := by
  cases hp : (d.sgran (sliceKey k g)).poison
  · rw [Dev.spoilLine_slice hat hp, Dev.setSgran]
    simp only [hswaps, List.filter_nil, List.foldl_nil]
    exact Dev.sgran_setSgran1_other _ _ _ _ hj
  · rw [Dev.spoilLine_slice_poisoned hat hp]
    rfl

/-- Settles O31: the laws of the scratchpad, of merged fields, of races and of spoiling. -/
theorem scratchpadAndMerging : Obligations.ScratchpadAndMerging := by
  refine ⟨fun t a bs => ?spad, ⟨fld_mergeBytes, fld_addElems, fun x o ho ho' => fld_bumpWord x o ho ho'⟩,
    fun t u w f m n => ?races, fun d t l o len k g i hi ho => ?spoil⟩
  case spad =>
    exact ⟨fun i h => t.look_wr_in a bs i h, t.rd_wr_same a bs, fun x hx => t.look_wr_out a bs x hx,
      fun l => t.mem_written_wr a bs l, rfl⟩
  case races =>
    intro among
    refine ⟨fun h => ⟨t.seen_of_not_races m w h, fun horder hins => Tile.settle_of_not_races m h horder hins⟩,
      fun e he hunit hafter y hw hf => ?_, fun e he hunit hafter y hr hf => ?_, fun y hy h => Tile.freeAt_collide m hy h,
      fun y h hdrawn => Tile.look_collide m h hdrawn, fun hop e he k hends hbit => Tile.after_fence hop he hends hbit⟩
    · refine Tile.among_racing he hunit hafter (among_append.2 ?_)
      rcases among_append.1 (show Among y (f.reads ++ f.writes) from hf) with h | h
      · exact .inl (among_overlaps h hw)
      · exact .inr (among_overlaps h (among_append.2 (.inr hw)))
    · exact Tile.among_racing he hunit hafter (among_append.2 (.inr (among_overlaps hf (among_append.2 (.inl hr)))))
  case spoil =>
    refine ⟨d.sameButStored_spoilAll t l, fun hmem hslice => d.memWf_spoilAll t l ⟨hmem, hslice⟩, fun hat hp => ?_,
      fun j hj hat hswaps => Dev.sgran_spoilLine_other hat hj hswaps, fun c t ht => ?_⟩
    · rw [Dev.spoilLine_slice hat hp, Dev.sgran_setSgran_same, fld_mergeBytes _ _ _ _ hi]
      exact if_congr (by rw [bit_maskOf]; exact decide_eq_true_iff) rfl rfl
    · simp [Dev.spoilTile, Dev.spoilAll, ht]

end Sys2Proof.Machine
end

section
/-!
PROOFS. A stack looks after itself: patrol, refresh, temperature, pulls (R145, R147, R148, R154, R155, R182, R183).
-/

namespace Sys2Proof.Machine

/-! ### Waking the package -/

/-- Waking the package changes registers, the package's state and the links' lanes alone. -/
theorem Dev.wakePkg_shape (d : Dev) (src : Nat) : ∃ (regs : Tbl Word) (pwr : Power) (cxl : Cxl),
    d.wakePkg src = { d with regs := regs, pwr := pwr, cxl := cxl } := by
  unfold Dev.wakePkg
  split
  · exact ⟨_, _, _, rfl⟩
  · exact ⟨d.regs, d.pwr, d.cxl, rfl⟩

@[simp] theorem Dev.stk_wakePkg (d : Dev) (src : Nat) : (d.wakePkg src).stk = d.stk := by
  obtain ⟨regs, pwr, cxl, h⟩ := d.wakePkg_shape src
  rw [h]

theorem Dev.get_setPkg (d : Dev) (p : Pwr) (f : Fld) (hreq : f.off ≠ PWR_STATE_REQ.off) (hdown : f.off ≠ MGT_STATUS.off) :
    (d.setPkg p).get f = d.get f := by
  unfold Dev.setPkg
  rw [Dev.get_set_other _ _ _ _ hdown, Dev.get_set_other _ _ _ _ hreq]
  exact Dev.get_congr rfl f

theorem Dev.get_lastWake (d : Dev) (src : Nat) (left : Pwr) (f : Fld) (h : f.off ≠ PWR_LAST_WAKE.off) :
    (d.lastWake src left).get f = d.get f := by
  unfold Dev.lastWake
  rw [Dev.get_set_other _ _ _ _ h, Dev.get_set_other _ _ _ _ h, Dev.get_set_other _ _ _ _ h]

theorem Dev.get_allLanes (d : Dev) (narrow : Bool) (f : Fld) : (d.allLanes narrow).get f = d.get f := rfl

/-- Of the registers a wake writes those of the power state, of the last wake and PKG_DOWN. -/
theorem Dev.get_wakePkg (d : Dev) (src : Nat) (f : Fld) (hreq : f.off ≠ PWR_STATE_REQ.off) (hwake : f.off ≠ PWR_LAST_WAKE.off)
    (hdown : f.off ≠ MGT_STATUS.off) : (d.wakePkg src).get f = d.get f := by
  unfold Dev.wakePkg
  split
  · rw [Dev.get_allLanes, Dev.get_setPkg _ _ _ hreq hdown, Dev.get_lastWake _ _ _ _ hwake]
  · rfl

/-! ### Patrol -/

/-- The patrol pointer of stack `s` is that of `d`, and so is every other stack. -/
def Dev.PatrolsAs (d : Dev) (s : Nat) (e : Dev) : Prop :=
  (e.stack s).patrol = (d.stack s).patrol ∧ ∀ k, k ≠ s → e.stack k = d.stack k

theorem Dev.PatrolsAs.trans {d e f : Dev} {s : Nat} (h : d.PatrolsAs s e) (g : e.PatrolsAs s f) : d.PatrolsAs s f :=
  ⟨g.1.trans h.1, fun k hk => (g.2 k hk).trans (h.2 k hk)⟩

theorem Dev.PatrolsAs.of_stk {d e : Dev} (h : e.stk = d.stk) (s : Nat) : d.PatrolsAs s e := by
  have hstack : ∀ k, e.stack k = d.stack k := fun k => by rw [Dev.stack, h]; rfl
  exact ⟨by rw [hstack], fun k _ => hstack k⟩

theorem Dev.PatrolsAs.onStack (d : Dev) (s : Nat) {f : Stack → Stack} (h : ∀ t, (f t).patrol = t.patrol) :
    d.PatrolsAs s (d.onStack s f) :=
  ⟨by rw [Dev.stack_onStack_same, h], fun k hk => Dev.stack_onStack_other d s k f hk⟩

theorem Dev.patrolsAs_eccCorrected (d : Dev) (now s phys g : Nat) : d.PatrolsAs s (d.eccCorrected now s phys g) := by
  unfold Dev.eccCorrected
  dsimp only
  refine Dev.PatrolsAs.trans (e := ((d.wrap (STK_ECC_COUNT.CE s) 1).sat (STK_CHAN_HEALTH.CE_24H s (phys % 34)) 1).onStack s
    fun t => { t with rowCe := Tbl.upd 0 t.rowCe (rowKey phys g) (· + 1) }) ?_ ?_
  · exact Dev.PatrolsAs.onStack (((d.wrap (STK_ECC_COUNT.CE s) 1).sat (STK_CHAN_HEALTH.CE_24H s (phys % 34)) 1)) s fun _ => rfl
  · generalize (((d.wrap (STK_ECC_COUNT.CE s) 1).sat (STK_CHAN_HEALTH.CE_24H s (phys % 34)) 1).onStack s
      fun t => { t with rowCe := Tbl.upd 0 t.rowCe (rowKey phys g) (· + 1) }) = e
    have hlog : ∀ x : Stack → Tbl Rate, e.PatrolsAs s (e.onStack s fun t => { t with rates := x t }) := fun _ => .onStack e s fun _ => rfl
    exact iteInduction (motive := e.PatrolsAs s) (fun _ => (hlog _).trans (.of_stk (Dev.raise_stk ..) s)) fun _ => hlog _

theorem Dev.patrolsAs_eccPoison (d : Dev) (s phys g : Nat) : d.PatrolsAs s (d.eccPoison s phys g) := by
  have hcounted : d.PatrolsAs s ((d.sat (STK_ECC_COUNT.UE s) 1).sat (STK_CHAN_HEALTH.UE_24H s (phys % 34)) 1) := .of_stk rfl s
  refine hcounted.trans ?_
  unfold Dev.eccPoison
  dsimp only
  generalize (d.sat (STK_ECC_COUNT.UE s) 1).sat (STK_CHAN_HEALTH.UE_24H s (phys % 34)) 1 = e
  refine Dev.PatrolsAs.trans (e := e.onStack s fun t => { t with
    bankUe := Tbl.upd 0 t.bankUe (bankKey phys g) (· + 1), rowBad := t.rowBad ++ [rowKey phys g] }) ?_ ?_
  · exact .onStack e s fun _ => rfl
  · refine .of_stk ((Dev.stk_wakePkg _ 7).trans ?_) s
    rw [Dev.raise_stk]
    rfl

theorem Dev.patrolsAs_eccRead (d : Dev) (now s phys g : Nat) (ecc : Ecc) : d.PatrolsAs s (d.eccRead now s phys g ecc) := by
  cases ecc with
  | clean => exact .of_stk rfl s
  | corrected => exact d.patrolsAs_eccCorrected now s phys g
  | uncorrectable =>
    unfold Dev.eccRead
    dsimp only
    split
    · exact .of_stk rfl s
    · exact d.patrolsAs_eccPoison s phys g

/-- Poisoning changes the granule it finds, and no other. -/
theorem Dev.gran_eccPoison (d : Dev) (s phys g : Nat) :
    (d.eccPoison s phys g).gran (granKey phys g) = { d.gran (granKey phys g) with poison := true } ∧
      ∀ k, k ≠ granKey phys g → (d.eccPoison s phys g).gran k = d.gran k := by
  unfold Dev.eccPoison
  dsimp only
  refine ⟨?_, fun k hk => ?_⟩
  · refine (Dev.gran_of_stored ((Dev.stored_wakePkg _ 7).trans (Dev.stored_raise ..)) _).trans ?_
    rw [Dev.gran_setGran_same]
    rfl
  · refine (Dev.gran_of_stored ((Dev.stored_wakePkg _ 7).trans (Dev.stored_raise ..)) _).trans ?_
    exact (Dev.gran_setGran_other _ _ _ _ hk).trans rfl

/-- What ECC leaves of the granules: the one read is POISON where it was uncorrectable. -/
theorem Dev.gran_eccRead (d : Dev) (now s phys g : Nat) (ecc : Ecc) :
    ((d.eccRead now s phys g ecc).gran (granKey phys g) =
      if ecc = .uncorrectable then { d.gran (granKey phys g) with poison := true } else d.gran (granKey phys g)) ∧
      ∀ k, k ≠ granKey phys g → (d.eccRead now s phys g ecc).gran k = d.gran k := by
  cases ecc with
  | clean => exact ⟨rfl, fun _ _ => rfl⟩
  | corrected =>
    exact ⟨Dev.gran_of_stored (d.stored_eccCorrected now s phys g) _,
      fun k _ => Dev.gran_of_stored (d.stored_eccCorrected now s phys g) k⟩
  | uncorrectable =>
    unfold Dev.eccRead
    dsimp only
    rw [if_pos rfl]
    split
    case isTrue hp => exact ⟨by rw [← hp], fun _ _ => rfl⟩
    case isFalse => exact d.gran_eccPoison s phys g

/-! ### Temperature -/

theorem foldl_max_le {l : List Nat} {a b : Nat} (h : l.foldl max a ≤ b) : a ≤ b ∧ ∀ x ∈ l, x ≤ b := by
  induction l generalizing a with
  | nil => exact ⟨h, fun x hx => (List.not_mem_nil hx).elim⟩
  | cons y l ih =>
    obtain ⟨hmax, hl⟩ := ih h
    exact ⟨le_trans (le_max_left _ _) hmax, fun x hx => (List.mem_cons.1 hx).elim (fun hxy => hxy ▸ le_trans (le_max_right _ _) hmax) (hl x)⟩

theorem foldl_max_mem (l : List Nat) (a : Nat) : l.foldl max a = a ∨ l.foldl max a ∈ l := by
  induction l generalizing a with
  | nil => exact .inl rfl
  | cons y l ih =>
    rcases ih (max a y) with h | h
    · rcases max_choice a y with hm | hm
      · exact .inl (h.trans hm)
      · exact .inr (List.mem_cons.2 (.inl (h.trans hm)))
    · exact .inr (List.mem_cons_of_mem _ h)

/-- A band whose threshold is reached is entered. -/
theorem Dev.le_bandAt {d : Dev} {st t b : Nat} (old : Nat) (hb : 1 ≤ b) (hb' : b ≤ 4) (h : d.bandFrom st b ≤ t) :
    b ≤ d.bandAt st old t := by
  have hmem : b ∈ [1, 2, 3, 4].filter fun b => d.bandFrom st b ≤ t := by
    refine List.mem_filter.2 ⟨?_, by simpa using h⟩
    interval_cases b <;> simp
  exact le_trans ((foldl_max_le le_rfl).2 b hmem) (le_max_left _ _)

/-- A band above 0 is one whose threshold is reached, or the old one or below it and not 2 °C under its threshold. -/
theorem Dev.bandAt_cause {d : Dev} {st old t b : Nat} (hb : 1 ≤ b) (h : d.bandAt st old t = b) :
    d.bandFrom st b ≤ t ∨ b ≤ old ∧ d.bandFrom st b < t + 2 := by
  unfold Dev.bandAt at h
  dsimp only at h
  rcases max_choice (([1, 2, 3, 4].filter fun b => d.bandFrom st b ≤ t).foldl max 0)
    (([1, 2, 3, 4].filter fun b => b ≤ old && d.bandFrom st b < t + 2).foldl max 0) with hm | hm
  · rcases foldl_max_mem ([1, 2, 3, 4].filter fun b => d.bandFrom st b ≤ t) 0 with h0 | hmem
    · omega
    · rw [← hm, h] at hmem
      exact .inl (by simpa using (List.mem_filter.1 hmem).2)
  · rcases foldl_max_mem ([1, 2, 3, 4].filter fun b => b ≤ old && d.bandFrom st b < t + 2) 0 with h0 | hmem
    · omega
    · rw [← hm, h] at hmem
      exact .inr (by simpa using (List.mem_filter.1 hmem).2)

theorem Dev.bandAt_le (d : Dev) (st old t : Nat) : d.bandAt st old t ≤ 4 := by
  have hle : ∀ p : Nat → Bool, ([1, 2, 3, 4].filter p).foldl max 0 ≤ 4 := by
    intro p
    rcases foldl_max_mem ([1, 2, 3, 4].filter p) 0 with h | h
    · omega
    · have := (List.mem_filter.1 h).1
      simp only [List.mem_cons, List.not_mem_nil, or_false] at this
      omega
  exact max_le (hle _) (hle _)

/-- Registers of a stack lie above those a wake writes. -/
theorem Dev.get_wakePkg_of_high (d : Dev) (src : Nat) (f : Fld) (h : 0xC00000 ≤ f.off) : (d.wakePkg src).get f = d.get f := by
  have hne : ∀ n, n < 0xC00000 → f.off ≠ n := fun n hn => by omega
  exact d.get_wakePkg src f (hne _ (by decide)) (hne _ (by decide)) (hne _ (by decide))

/-- The deliverable fraction reads the band, the copy in progress and the slots' states. -/
theorem Dev.deliverable_congr {d e : Dev} {s : Nat} (hband : e.get (STK_STATUS.BAND s) = d.get (STK_STATUS.BAND s))
    (hcopy : (e.stack s).copy = (d.stack s).copy)
    (hslots : ∀ k < 32, e.get (STK_SLOT_MAP.STATE ((32 * s + k) / 32) ((32 * s + k) % 32)) =
      d.get (STK_SLOT_MAP.STATE ((32 * s + k) / 32) ((32 * s + k) % 32))) : e.deliverable s = d.deliverable s := by
  have hretired : e.retiredSlots s = d.retiredSlots s := by
    unfold Dev.retiredSlots
    refine congrArg List.length (List.filter_congr fun k hk => ?_)
    unfold Dev.retired
    rw [hslots k (List.mem_range.1 hk)]
  unfold Dev.deliverable
  rw [hband, hcopy, hretired]

theorem Dev.deliverable_le (d : Dev) (s : Nat) : d.deliverable s ≤ 955 := by
  have hband : ∀ b, bandDeliv b ≤ 955 := by
    intro b
    rcases Nat.lt_or_ge b 5 with h | h
    · interval_cases b <;> decide
    · simp [bandDeliv, List.getD_eq_getElem?_getD, List.getElem?_eq_none_iff.2 (show [955, 910, 680, 450, 220].length ≤ b from h)]
  have hb := hband (d.get (STK_STATUS.BAND s))
  unfold Dev.deliverable
  dsimp only
  refine (Nat.div_le_div_right (Nat.mul_le_mul_left _ (Nat.sub_le 32 _))).trans ?_
  omega

/-- Another register of stack `s`, or another field of STK_STATUS. -/
theorem Dev.get_redeliver (d : Dev) (s : Nat) (f : Fld) (h : (STK_STATUS.DELIV s).apart f = true) :
    (d.redeliver s).get f = d.get f := by
  unfold Dev.redeliver
  dsimp only
  split
  · rfl
  · exact (Dev.get_congr rfl f).trans (Dev.get_set_of_apart d _ f _ h)

@[simp] theorem Dev.stk_redeliver (d : Dev) (s : Nat) : (d.redeliver s).stk = d.stk := by
  unfold Dev.redeliver
  dsimp only
  split <;> rfl

/-- After it DELIV shows the deliverable fraction. -/
theorem Dev.get_deliv_redeliver (d : Dev) (s : Nat) : (d.redeliver s).get (STK_STATUS.DELIV s) = d.deliverable s := by
  have hle := d.deliverable_le s
  unfold Dev.redeliver
  dsimp only
  split
  case isTrue h => exact h.symm
  case isFalse =>
    refine (Dev.get_congr rfl _).trans ((Dev.get_set_same d (STK_STATUS.DELIV s) _ (by simp [STK_STATUS.DELIV])).trans (Nat.mod_eq_of_lt ?_))
    exact Nat.lt_of_le_of_lt hle (by simp [STK_STATUS.DELIV])

/-- THERMAL_READ once the temperature, the band and the trip stand: what follows writes no register of the stack but DELIV. -/
def Dev.thermalTail (d : Dev) (s b : Nat) (trip was : Bool) (l : List Nat) (up : Bool) : Dev :=
  let d := d.redeliver s
  let d := if 2 ≤ b then d.wakePkg 7 else d
  if trip then (if was then d else d.raise 0x020B (stackUnit s) 0x03 .fatal l)
  else if up then d.raise 0x020B (stackUnit s) 0x03 .degraded l
  else d

theorem Dev.stk_thermalTail (d : Dev) (s b : Nat) (trip was : Bool) (l : List Nat) (up : Bool) :
    (d.thermalTail s b trip was l up).stk = d.stk := by
  have hwake : (if 2 ≤ b then (d.redeliver s).wakePkg 7 else d.redeliver s).stk = d.stk :=
    iteInduction (motive := fun e : Dev => e.stk = d.stk) (fun _ => by simp) fun _ => by simp
  unfold Dev.thermalTail
  cases trip <;> cases was <;> cases up <;> exact hwake

theorem Dev.get_thermalTail (d : Dev) (s b : Nat) (trip was : Bool) (l : List Nat) (up : Bool) (f : Fld) (h : 0xC00000 ≤ f.off) :
    (d.thermalTail s b trip was l up).get f = (d.redeliver s).get f := by
  have hwake : (if 2 ≤ b then (d.redeliver s).wakePkg 7 else d.redeliver s).get f = (d.redeliver s).get f :=
    iteInduction (motive := fun e : Dev => e.get f = (d.redeliver s).get f) (fun _ => Dev.get_wakePkg_of_high _ 7 f h) fun _ => rfl
  unfold Dev.thermalTail
  cases trip <;> cases was <;> cases up <;> exact hwake

theorem Dev.thermalRead_eq (d : Dev) (s : Nat) (temps : List Nat) : d.thermalRead s temps =
    let t := (hottest temps).2
    let b := d.bandAt s (d.get (STK_STATUS.BAND s)) t
    let trip := decide (d.get (STK_THERM_CTRL.TRIP s) ≤ t)
    (((d.set (STK_STATUS.TEMP s) (min t 255)).set (STK_STATUS.BAND s) b).onStack s fun k => { k with trips := trip }).thermalTail
      s b trip (d.stack s).trips [b, (hottest temps).1, t] (d.get (STK_STATUS.BAND s) < b ∧ 2 ≤ b) := by
  unfold Dev.thermalRead Dev.thermalTail
  dsimp only
  simp only [decide_eq_true_eq]

/-! ### Pulls and reports -/

theorem Dev.pullDone_eq {d : Dev} {st tok : Nat} {p : Pend} (hp : Tbl.find (d.stack st).pend tok = some p)
    (hpull : p.pull = some []) : d.pullDone st tok =
      (d.onStack st fun t => { t with
        table := Tbl.adj t.table p.page fun e => { e with p := true }
        cache := Tbl.adj t.cache p.page fun e => { e with p := true } }).endPending st tok (.presence st tok) := by
  simp [Dev.pullDone, hp, hpull]

@[simp] theorem Dev.stack_notes (d : Dev) (l : List Note) (k : Nat) : (d.notes l).stack k = d.stack k := rfl

theorem Dev.stack_pullDone {d : Dev} {st tok : Nat} {p : Pend} (hp : Tbl.find (d.stack st).pend tok = some p)
    (hpull : p.pull = some []) : (d.pullDone st tok).stack st = { d.stack st with
      table := Tbl.adj (d.stack st).table p.page fun e => { e with p := true }
      cache := Tbl.adj (d.stack st).cache p.page fun e => { e with p := true }
      pend := Tbl.del (d.stack st).pend tok } := by
  simp [Dev.pullDone_eq hp hpull, Dev.endPending]

theorem Dev.patrol_law (d : Dev) (now st : Nat) (ecc : Ecc) :
    ((d.patrol now st ecc).stack st).patrol = ((d.stack st).patrol + 1) % (34 * chanGranules) ∧
      (∀ k, k ≠ st → (d.patrol now st ecc).stack k = d.stack k) ∧
      let key := granKey (st * 34 + (d.stack st).patrol / chanGranules) ((d.stack st).patrol % chanGranules)
      (∀ k, k ≠ key → (d.patrol now st ecc).gran k = d.gran k) ∧
        (d.patrol now st ecc).gran key = if ecc = .uncorrectable then { d.gran key with poison := true } else d.gran key := by
  unfold Dev.patrol
  dsimp only
  generalize st * 34 + (d.stack st).patrol / chanGranules = phys
  generalize (d.stack st).patrol % chanGranules = g
  have hact := fun k => Dev.gran_of_stored (d.stored_activate st phys g) k
  obtain ⟨hsame, hother⟩ := (d.activate st phys g).gran_eccRead now st phys g ecc
  refine ⟨by rw [Dev.stack_onStack_same], fun k hk => ?_, fun k hk => ?_, ?_⟩
  · rw [Dev.stack_onStack_other _ _ _ _ hk, ((d.activate st phys g).patrolsAs_eccRead now st phys g ecc).2 k hk]
    exact Dev.stack_onStack_other _ _ _ _ hk
  · exact (Dev.gran_of_stored (Dev.stored_onStack ..) k).trans ((hother k hk).trans (hact k))
  · exact (Dev.gran_of_stored (Dev.stored_onStack ..) _).trans (hsame.trans (by rw [hact]))

/-- A stack's registers and trips once a temperature, a band and a trip are set and the tail has run. -/
theorem Dev.thermalTail_law (d : Dev) (st t b : Nat) (trip was : Bool) (l : List Nat) (up : Bool) (hband : b ≤ 4) :
    let x := ((d.set (STK_STATUS.TEMP st) (min t 255)).set (STK_STATUS.BAND st) b).onStack st fun k => { k with trips := trip }
    let e := x.thermalTail st b trip was l up
    e.get (STK_STATUS.TEMP st) = min t 255 ∧ e.get (STK_STATUS.BAND st) = b ∧ e.get (STK_STATUS.DELIV st) = e.deliverable st ∧
      (e.stack st).trips = trip ∧ ∀ k, k ≠ st → e.stack k = d.stack k := by
  intro x e
  have hstk : e.stk = x.stk := Dev.stk_thermalTail ..
  have hstack : ∀ k, e.stack k = x.stack k := fun k => by rw [Dev.stack, hstk]; rfl
  have hget : ∀ f : Fld, 0xC00000 ≤ f.off → e.get f = (x.redeliver st).get f := fun f hf =>
    Dev.get_thermalTail _ _ _ _ _ _ _ f hf
  have hstatus : 0xC00000 ≤ STK_STATUS.off st := by unfold STK_STATUS.off; omega
  have hx : ∀ f : Fld, x.get f = ((d.set (STK_STATUS.TEMP st) (min t 255)).set (STK_STATUS.BAND st) b).get f := fun f =>
    Dev.get_congr rfl f
  have hBand : e.get (STK_STATUS.BAND st) = x.get (STK_STATUS.BAND st) :=
    (hget _ hstatus).trans (x.get_redeliver st _ (by simp [Fld.apart, STK_STATUS.DELIV, STK_STATUS.BAND]))
  refine ⟨?_, ?_, ?_, ?_, fun k hk => ?_⟩
  · rw [hget _ hstatus, Dev.get_redeliver _ _ _ (by simp [Fld.apart, STK_STATUS.DELIV, STK_STATUS.TEMP]), hx,
      Dev.get_set_of_apart _ _ _ _ (by simp [Fld.apart, STK_STATUS.BAND, STK_STATUS.TEMP]),
      Dev.get_set_same _ _ _ (by simp [STK_STATUS.TEMP])]
    exact Nat.mod_eq_of_lt (Nat.lt_of_le_of_lt (Nat.min_le_right _ _) (by simp [STK_STATUS.TEMP]))
  · rw [hBand, hx, Dev.get_set_same _ _ _ (by simp [STK_STATUS.BAND])]
    exact Nat.mod_eq_of_lt (Nat.lt_of_le_of_lt hband (by simp [STK_STATUS.BAND]))
  · rw [hget _ hstatus, Dev.get_deliv_redeliver]
    refine (Dev.deliverable_congr hBand (by rw [hstack]) fun k hk => ?_).symm
    refine (hget _ ?_).trans (x.get_redeliver st _ ?_)
    · simp only [STK_SLOT_MAP.STATE, STK_SLOT_MAP.off]
      omega
    · simp [Fld.apart, STK_SLOT_MAP.STATE, STK_STATUS.DELIV]
  · rw [hstack, Dev.stack_onStack_same]
  · rw [hstack]
    exact Dev.stack_onStack_other _ _ _ _ hk

theorem Dev.thermalRead_law (d : Dev) (st : Nat) (temps : List Nat) :
    let t := (hottest temps).2
    let e := d.thermalRead st temps
    e.get (STK_STATUS.TEMP st) = min t 255 ∧ e.get (STK_STATUS.BAND st) = d.bandAt st (d.get (STK_STATUS.BAND st)) t ∧
      e.get (STK_STATUS.DELIV st) = e.deliverable st ∧
      (e.stack st).trips = decide (d.get (STK_THERM_CTRL.TRIP st) ≤ t) ∧ ∀ k, k ≠ st → e.stack k = d.stack k := by
  intro t e
  have he : e = _ := d.thermalRead_eq st temps
  rw [he]
  exact d.thermalTail_law st t _ _ _ _ _ (d.bandAt_le st _ t)

/-- Settles O20: each operation of a stack on itself, and the registers a temperature reading leaves. -/
theorem stackUpkeep : Obligations.StackUpkeep := by
  intro s st hst d
  refine ⟨fun ecc => ⟨_, rfl, d.patrol_law s.now st ecc⟩, fun row hrow => ?refresh, fun temps => ⟨_, rfl, d.thermalRead_law st temps⟩,
    fun old t b hb hb' => ⟨Dev.le_bandAt old hb hb', Dev.bandAt_cause hb⟩, fun tok p hp hpull => ?pull,
    fun p hp hnone => ?quiet, fun p hp => ?report⟩
  case refresh =>
    refine ⟨d.targetedRefresh st row, rfl, ?_⟩
    rw [Dev.targetedRefresh, if_neg (Nat.not_lt.2 hrow)]
    exact ⟨by simp, by simp, rfl⟩
  case pull =>
    refine ⟨d.pullDone st tok, rfl, ?_⟩
    dsimp only
    rw [Dev.stack_pullDone hp hpull]
    refine ⟨Tbl.find_del_same _ _, fun x hx => ?_, fun k hk => Tbl.find_adj_other _ _ _ _ hk, ?_, ?_⟩
    · rw [Tbl.find_adj_same, hx]
      rfl
    · rw [Dev.pullDone_eq hp hpull]
      rfl
    · rw [Dev.pullDone_eq hp hpull]
      rfl
  case report =>
    have hlead : Leads (.deliverableChange st p) s (d.deliverableAt st p) := rfl
    rwa [Dev.deliverableAt, if_pos (by simpa using hp)] at hlead
  case quiet => 
    refine ⟨d.deliverableAt st p, rfl, ?_⟩
    rw [Dev.deliverableAt, if_pos (by simpa using hp)]
    have hnone' : ((d.onNet fun n => { n with notes := n.notes.erase (.deliverable st p) }).comp.asts.filter
      fun e => (d.onNet fun n => { n with notes := n.notes.erase (.deliverable st p) }).home e.1 == p) = [] := hnone
    dsimp only
    rw [hnone']
    exact ⟨rfl, rfl⟩

end Sys2Proof.Machine
end

section
/-!
PROOFS. Cores: their errors, fences and resets (R63, R92, R102, R103, R291, R407, R451).
-/

namespace Sys2Proof.Machine

/-! ### A core's reset -/

/-- A started reset leaves the core fenced, with the time and the cause. -/
theorem Dev.startReset_core (d : Dev) (now c : Nat) (cause : ResetCause) (k : Abort) (err : Nat) :
    ((d.startReset now c cause k err).coreAt c).svc = .fenced ∧ ((d.startReset now c cause k err).coreAt c).resetAt = some now ∧
      ((d.startReset now c cause k err).coreAt c).resetCause = cause := by
  unfold Dev.startReset
  dsimp only
  rw [Dev.coreAt_onCore_same]
  exact ⟨rfl, rfl, rfl⟩

theorem sameMemory_of_stored {d e : Dev} (h : e.stored = d.stored) : SameMemory d e :=
  ⟨fun k => Dev.gran_of_stored h k, fun k => Dev.sgran_of_stored h k⟩

theorem Dev.onlyCore_onCore (d : Dev) (c : Nat) (f : Core → Core) : OnlyCore c d (d.onCore c f) :=
  ⟨rfl, fun k hk => Dev.coreAt_onCore_other d c k f hk⟩

/-- A core that fails: FAILED, without tile and reset; every other core as it was. -/
theorem Dev.failCore_law (d : Dev) (c : Nat) :
    ((d.failCore c).coreAt c).svc = .failed ∧ ((d.failCore c).coreAt c).tile = none ∧ ((d.failCore c).coreAt c).resetAt = none ∧
      (∀ j, j ≠ c → (d.failCore c).coreAt j = d.coreAt j) ∧ (d.failCore c).stored = d.stored := by
  have hcore : ∀ j, (d.failCore c).coreAt j = (d.onCore c fun k => { k with
    svc := .failed, tile := none, pwr := .night, resetAt := none, waking := false }).coreAt j := fun _ => rfl
  refine ⟨?_, ?_, ?_, fun j hj => ?_, rfl⟩
  · rw [hcore, Dev.coreAt_onCore_same]
  · rw [hcore, Dev.coreAt_onCore_same]
  · rw [hcore, Dev.coreAt_onCore_same]
  · rw [hcore, Dev.coreAt_onCore_other _ _ _ _ hj]

/-- A core as steps 4 to 6 of its reset leave it. -/
def Core.restarted (k : Core) : Core :=
  { k with svc := .idle, pwr := .night, gate := false, tile := none, resets := satAdd 8 k.resets 1, resetAt := none, waking := false }

theorem Dev.resetDone_eq {d : Dev} {c t : Nat} (hat : (d.coreAt c).resetAt = some t) (hcause : (d.coreAt c).resetCause ≠ .sparSwap) :
    d.resetDone c = ((d.onCore c Core.restarted).resetStatus 1 (d.coreAt c).resetCause.err).raise 0x0106 (coreUnit c) 0xFF
      .contained [(d.coreAt c).resetCause.code, 0] := by
  simp only [Dev.resetDone, hat, hcause, if_false]
  rfl

theorem Dev.resetDone_of_swap {d : Dev} {c t : Nat} (hat : (d.coreAt c).resetAt = some t)
    (hcause : (d.coreAt c).resetCause = .sparSwap) :
    d.resetDone c = (d.raise 0x0106 (coreUnit c) 0xFF .contained [(d.coreAt c).resetCause.code, 1]).failCore c := by
  simp only [Dev.resetDone, hat]
  exact if_pos hcause

/-- A finished reset: the core as CORE_RESET leaves it, the level noted, the record 0x0106. -/
theorem Dev.resetDone_law {d : Dev} {c t : Nat} (hat : (d.coreAt c).resetAt = some t) (hcause : (d.coreAt c).resetCause ≠ .sparSwap) :
    (d.resetDone c).coreAt c = (d.coreAt c).restarted ∧
      (∀ j, j ≠ c → (d.resetDone c).coreAt j = d.coreAt j) ∧ (d.resetDone c).get RAS_RESET_STATUS.LEVEL = 1 ∧
      (∃ r, (d.resetDone c).ras.box = d.ras.box ++ [r] ∧ r.code = 0x0106 ∧ r.unit = coreUnit c ∧
        r.detail = [(d.coreAt c).resetCause.code, 0]) ∧ (d.resetDone c).stored = d.stored := by
  rw [Dev.resetDone_eq hat hcause]
  refine ⟨d.coreAt_onCore_same c Core.restarted, fun j hj => d.coreAt_onCore_other c j Core.restarted hj, ?_,
    ⟨_, rfl, rfl, rfl, rfl⟩, rfl⟩
  refine (Dev.get_congr (Dev.raise_regs ..) _).trans ?_
  unfold Dev.resetStatus
  rw [Dev.get_set_of_apart _ _ _ _ (by decide), Dev.get_set_same _ _ _ (by decide)]
  rfl

/-- An unconfirmed fence leaves the cores, and with no reset waiting asks for a package reset. -/
theorem Dev.requestReset_of_none {d : Dev} (h : d.ras.resets = []) (now unit cause : Nat) :
    d.requestReset now 5 unit cause = { d with ras := { d.ras with resets := [⟨5, unit, cause, now, 0⟩] } } := by
  simp [Dev.requestReset, h]

/-! ### Night -/

theorem Dev.coreNight_eq {d : Dev} {now c : Nat} (htile : (d.coreAt c).tile = none) (hpwr : (d.coreAt c).pwr = .dusk)
    (hsvc : (d.coreAt c).svc = .idle) (hafter : (d.coreAt c).duskAt + d.get PWR_CTRL.NIGHT_AFTER_US * 1000 ≤ now)
    (hbound : (d.coreAt c).bound = none) (hkept : (d.coreAt c).kept = none) :
    d.coreNight now c = d.onCore c fun k => { k with pwr := .night, kept := none } := by
  simp [Dev.coreNight, htile, hpwr, hsvc, hafter, hbound, hkept]

theorem Dev.coreNight_stays {d : Dev} {now c : Nat} (h : (d.coreAt c).pwr ≠ .dusk ∨ (d.coreAt c).tile ≠ none ∨
    now < (d.coreAt c).duskAt + d.get PWR_CTRL.NIGHT_AFTER_US * 1000) : d.coreNight now c = d := by
  have hcond : ((d.coreAt c).tile.isNone && (d.coreAt c).pwr == .dusk && (d.coreAt c).svc == .idle &&
      decide ((d.coreAt c).duskAt + d.get PWR_CTRL.NIGHT_AFTER_US * 1000 ≤ now)) = false := by
    rcases h with h | h | h
    · simp [h]
    · simp [h]
    · simp [Nat.not_le.2 h]
  simp [Dev.coreNight, hcond]

/-! ### Errors -/

theorem Dev.watchdog_eq {d : Dev} {c : Nat} {t : Tile} (now : Nat) (ht : (d.coreAt c).tile = some t)
    (hwd : d.get ADM_TILE_LIMIT.WATCHDOG ≤ t.wdTicks) (hs : (d.coreAt c).svc ≠ .stalled) (hf : (d.coreAt c).svc ≠ .fenced) :
    d.watchdog now c = ((d.sat (DSP_COUNTS.WATCHDOGS (coreDp c)) 1).raise 0x0102 (coreUnit c) 0x06 .contained
      [t.step, (d.coreAt c).svc.code] (some (t.own.ast, t.own.ctx))).startReset now c .watchdog .watchdog 0x0102 := by
  unfold Dev.watchdog
  simp only [ht]
  rw [if_neg (by simp [Nat.not_lt.2 hwd, hs, hf])]

theorem Dev.watchdog_stays {d : Dev} {c : Nat} {t : Tile} (now : Nat) (ht : (d.coreAt c).tile = some t)
    (h : t.wdTicks < d.get ADM_TILE_LIMIT.WATCHDOG ∨ (d.coreAt c).svc = .stalled) : d.watchdog now c = d := by
  unfold Dev.watchdog
  simp only [ht]
  exact if_pos (h.imp_right .inl)

theorem Dev.coreError_eq {d : Dev} {c : Nat} {t : Tile} (ht : d.worker c = some t) (now code sub : Nat) (det : List Nat)
    (cause : ResetCause) : d.coreError now c code sub det cause =
      ((d.almCount (coreUnit c) true).raise code (coreUnit c) sub .contained det (some (t.own.ast, t.own.ctx))).startReset now c
        cause .error code := by
  simp [Dev.coreError, ht]

theorem Dev.coreError_core {d : Dev} {c : Nat} {t : Tile} (ht : d.worker c = some t) (now code sub : Nat) (det : List Nat)
    (cause : ResetCause) :
    ((d.coreError now c code sub det cause).coreAt c).svc = .fenced ∧
      ((d.coreError now c code sub det cause).coreAt c).resetAt = some now ∧
      ((d.coreError now c code sub det cause).coreAt c).resetCause = cause := by
  rw [Dev.coreError_eq ht]
  exact Dev.startReset_core ..

theorem spadUe_leads (s : State) (c line : Nat) :
    Leads (.spadUe c line) s (s.dev.coreError s.now c 0x0104 0x07 [line % 6144 * 64] .spadUe) := rfl

theorem engineParity_leads (s : State) (c eng row : Nat) :
    Leads (.engineParity c eng row) s (s.dev.coreError s.now c 0x0105 (eng % 4) [eng % 4, row % 256] .parity) := rfl

theorem fenceUnconfirmed_leads (s : State) (c : Nat) : Leads (.fenceUnconfirmed c) s
    (if (s.dev.coreAt c).resetAt.isNone then s.dev
     else (s.dev.raise 0x0A07 (svcUnit (coreDp c)) 0x03 .fatal [c]).requestReset s.now 5 (svcUnit (coreDp c)) 0x0A07) := rfl

/-- Settles O29: the laws of a core's errors, of its reset and of Night. -/
theorem coresFenceAndReset : Obligations.CoresFenceAndReset := by
  refine ⟨fun s c t => ?errors, fun s c => ?reset⟩
  case errors =>
    intro d
    refine ⟨fun ht hwd hs hf => ⟨d.watchdog s.now c, rfl, ?_⟩, fun ht h => ?_, fun hw => ⟨fun line => ?_, fun eng row => ?_,
      fun line => ?_, fun eng row => ?_⟩, fun hw line => ?_⟩
    · rw [Dev.watchdog_eq s.now ht hwd hs hf]
      exact Dev.startReset_core ..
    · have hlead : Leads (.tileWatchdog c) s (d.watchdog s.now c) := rfl
      rwa [Dev.watchdog_stays s.now ht h] at hlead
    · exact ⟨_, spadUe_leads s c line, Dev.coreError_core hw _ _ _ _ _⟩
    · exact ⟨_, engineParity_leads s c eng row, Dev.coreError_core hw _ _ _ _ _⟩
    · rw [← Dev.coreError_eq hw]
      exact spadUe_leads s c line
    · rw [← Dev.coreError_eq hw]
      exact engineParity_leads s c eng row
    · have hlead := spadUe_leads s c line
      rwa [Dev.coreError, show s.dev.worker c = none from hw] at hlead
  case reset =>
    intro d k
    refine ⟨fun hat => ?_, fun t hat => ⟨fun hcause => ?_, fun hcause => ?_, ?_, fun hresets => ?_⟩,
      fun ht hpwr hsvc hafter hbound hkept => ?_, fun h => ?_⟩
    · have hreset : Leads (.coreReset c) s (d.resetDone c) := rfl
      have htimeout : Leads (.coreResetTimeout c) s (d.coreFailed c) := rfl
      have hat' : (d.coreAt c).resetAt = none := hat
      refine ⟨?_, ?_, ?_⟩
      · simpa only [Dev.resetDone, hat'] using hreset
      · simpa only [Dev.coreFailed, hat', Option.isNone_none, if_true] using htimeout
      · have hfence := fenceUnconfirmed_leads s c
        rwa [show (s.dev.coreAt c).resetAt = none from hat] at hfence
    · obtain ⟨hcore, hother, hlevel, hbox, hstored⟩ := Dev.resetDone_law hat hcause
      exact ⟨d.resetDone c, rfl, hcore, hother, hlevel, hbox, sameMemory_of_stored hstored⟩
    · obtain ⟨hsvc, -, -, hother, hstored⟩ := Dev.failCore_law
        (d.raise 0x0106 (coreUnit c) 0xFF .contained [(d.coreAt c).resetCause.code, 1]) c
      refine ⟨d.resetDone c, rfl, ?_⟩
      rw [Dev.resetDone_of_swap hat hcause]
      exact ⟨hsvc, hother, sameMemory_of_stored hstored⟩
    · obtain ⟨hsvc, htile, hnone, hother, hstored⟩ := d.failCore_law c
      refine ⟨d.coreFailed c, rfl, ?_⟩
      rw [Dev.coreFailed, show (d.coreAt c).resetAt = some t from hat]
      exact ⟨hsvc, htile, hnone, hother, sameMemory_of_stored hstored⟩
    · have hfence := fenceUnconfirmed_leads s c
      have hsome : (s.dev.coreAt c).resetAt.isNone = false := by rw [show (s.dev.coreAt c).resetAt = some t from hat]; rfl
      rw [if_neg (by simp [hsome]), Dev.requestReset_of_none (by exact hresets)] at hfence
      exact ⟨_, hfence, rfl, rfl⟩
    · refine ⟨d.coreNight s.now c, rfl, ?_⟩
      rw [Dev.coreNight_eq ht hpwr hsvc hafter hbound hkept]
      refine ⟨?_, d.onlyCore_onCore c _⟩
      rw [Dev.coreAt_onCore_same, ← hkept]
    · have hlead : Leads (.coreNight c) s (d.coreNight s.now c) := rfl
      rwa [Dev.coreNight_stays h] at hlead

end Sys2Proof.Machine
end

section
/-!
PROOFS. What the end of a command leaves of the device: nothing but registers, free values, the host interface, error records on
their way, the asterisms' entries and notices differs (R327 to R333), and of the cores no more than the leave they kept (R426).
-/

namespace Sys2Proof.Machine

/-- All of the device that the end of a command leaves as it is. -/
def Dev.beside (d : Dev) : Tbl Core × Memory × List (Nat × Nat) × SliceMem × Tbl Stack × Tbl SweepJob × Power × Cxl × Alm ×
    Lcs × Fw × Mod × Comp × Network × Ras :=
  (d.core, d.mem, d.lost, d.slice, d.stk, d.sweeps, d.pwr, d.cxl, d.alm, d.lcs, d.fw, d.mod, { d.comp with asts := [] },
    { d.net with notes := [] }, { d.ras with box := [] })

@[simp] theorem Dev.beside_onHif (d : Dev) (f : Hif → Hif) : (d.onHif f).beside = d.beside := rfl
@[simp] theorem Dev.beside_onCtx (d : Dev) (k : Nat) (f : Ctx → Ctx) : (d.onCtx k f).beside = d.beside := rfl
@[simp] theorem Dev.beside_onQueue (d : Dev) (k : Nat) (f : Queue → Queue) : (d.onQueue k f).beside = d.beside := rfl
@[simp] theorem Dev.beside_onObj (d : Dev) (k : Nat) (f : Obj → Obj) : (d.onObj k f).beside = d.beside := rfl
@[simp] theorem Dev.beside_onEvent (d : Dev) (k : Nat) (f : Event → Event) : (d.onEvent k f).beside = d.beside := rfl
@[simp] theorem Dev.beside_onCmd (d : Dev) (k : Nat) (f : Cmd → Cmd) : (d.onCmd k f).beside = d.beside := rfl
@[simp] theorem Dev.beside_onAst (d : Dev) (a : Nat) (f : Ast → Ast) : (d.onAst a f).beside = d.beside := rfl
@[simp] theorem Dev.beside_notes (d : Dev) (l : List Note) : (d.notes l).beside = d.beside := rfl
@[simp] theorem Dev.beside_wrap (d : Dev) (f : Fld) (k : Nat) : (d.wrap f k).beside = d.beside := rfl
@[simp] theorem Dev.beside_sat (d : Dev) (f : Fld) (k : Nat) : (d.sat f k).beside = d.beside := rfl
@[simp] theorem Dev.beside_draw (d : Dev) (k : Free) : (d.draw k).2.beside = d.beside := rfl
@[simp] theorem Dev.beside_interrupt (d : Dev) (fn vec : Nat) : (d.interrupt fn vec).beside = d.beside := rfl
@[simp] theorem Dev.beside_raise (d : Dev) (code unit sub : Nat) (sev : Sev) (l : List Nat) (who : Option (Nat × Nat)) :
    (d.raise code unit sub sev l who).beside = d.beside := rfl

/-! ### Records, events, objects -/

@[simp] theorem Dev.beside_putRec (d : Dev) (now q : Nat) (r : CRec) (intr : Bool) : (d.putRec now q r intr).beside = d.beside := by
  unfold Dev.putRec
  dsimp only
  split
  · rfl
  · simp [apply_ite Dev.beside]

@[simp] theorem Dev.beside_writeRec (d : Dev) (now q : Nat) (r : CRec) (intr : Bool) : (d.writeRec now q r intr).beside = d.beside := by
  unfold Dev.writeRec
  dsimp only
  split
  · rfl
  · simp [apply_ite Dev.beside]

@[simp] theorem Dev.beside_flagEvent (d : Dev) (e : Nat) : (d.flagEvent e).beside = d.beside := rfl

@[simp] theorem Dev.beside_addEvent (d : Dev) (e k : Nat) (aband : Bool) : (d.addEvent e k aband).beside = d.beside := rfl

@[simp] theorem Dev.beside_completionEvent (d : Dev) (a ctx : Nat) (x : Line) (q pos : Nat) (admitted : Bool) (st : CStatus) :
    (d.completionEvent a ctx x q pos admitted st).beside = d.beside := by
  unfold Dev.completionEvent
  split
  · rfl
  · split <;> simp [apply_ite Dev.beside]

@[simp] theorem Dev.beside_faultCtx (d : Dev) (ctx : Nat) : (d.faultCtx ctx).beside = d.beside := rfl

@[simp] theorem Dev.beside_kidDone (d : Dev) (call : Option Nat) (index : Nat) (st : CStatus) :
    (d.kidDone call index st).beside = d.beside := by
  unfold Dev.kidDone
  split <;> simp

@[simp] theorem Dev.beside_dropObj (d : Dev) (now o : Nat) : (d.dropObj now o).beside = d.beside := by
  unfold Dev.dropObj
  dsimp only
  split
  · rfl
  · split
    · split <;> simp
    · simp

theorem Dev.beside_foldl {α : Type} {f : Dev → α → Dev} (hf : ∀ (d : Dev) a, (f d a).beside = d.beside) (l : List α) (d : Dev) :
    (l.foldl f d).beside = d.beside :=
  foldl_keeps (fun e : Dev => e.beside = d.beside) f (fun e a he => (hf e a).trans he) l d rfl

/-! ### The completion point -/

@[simp] theorem Dev.beside_withTraffic (d : Dev) (c : Cmd) : (d.withTraffic c).2.beside = d.beside := by
  unfold Dev.withTraffic
  split
  · rfl
  · exact d.beside_draw .choice

@[simp] theorem Dev.beside_settle (d : Dev) (now : Nat) (c : Cmd) (st : CStatus) : (d.settle now c st).beside = d.beside := by
  simp [Dev.settle, apply_ite Dev.beside]

@[simp] theorem Dev.beside_endLoan (d : Dev) (id : Nat) : (d.endLoan id).beside = d.beside := rfl

@[simp] theorem Dev.beside_finish (d : Dev) (now id : Nat) (st : CStatus) (aux : Nat) (edit : CRec → CRec) :
    (d.finish now id st aux edit).beside = d.beside := by
  unfold Dev.finish
  dsimp only
  split
  · rfl
  · rw [Dev.beside_kidDone, Dev.beside_foldl fun _ _ => Dev.beside_dropObj ..]
    simp [apply_ite Dev.beside]

@[simp] theorem Dev.beside_endTiles (d : Dev) (now id : Nat) : (d.endTiles now id).beside = d.beside := by
  unfold Dev.endTiles
  split <;> simp [apply_ite Dev.beside]

/-! ### What an end sets going -/

@[simp] theorem Dev.beside_applySignal (d : Dev) (x : Line) (aband : Bool) : (d.applySignal x aband).beside = d.beside := rfl

@[simp] theorem Dev.beside_endLoanTo (d : Dev) (ctx e : Nat) : (d.endLoanTo ctx e).beside = d.beside := rfl

@[simp] theorem Dev.beside_takeEffect (d : Dev) (now id : Nat) (c : Cmd) : (d.takeEffect now id c).beside = d.beside := by
  unfold Dev.takeEffect
  dsimp only
  split <;> simp [apply_ite Dev.beside]

@[simp] theorem Dev.beside_acquireTake (d : Dev) (now id e : Nat) : (d.acquireTake now id e).beside = d.beside := by
  unfold Dev.acquireTake
  split <;> simp

@[simp] theorem Dev.beside_finishCall (d : Dev) (now id : Nat) : (d.finishCall now id).beside = d.beside := by
  unfold Dev.finishCall
  split <;> simp

@[simp] theorem Dev.beside_advanceN (now n : Nat) (d : Dev) : (Dev.advanceN now n d).beside = d.beside := by
  induction n generalizing d with
  | zero => rfl
  | succ n ih =>
    unfold Dev.advanceN
    split
    · rfl
    · split <;> simp [ih]
    · simp [ih]
    · simp [ih]

@[simp] theorem Dev.beside_advance (d : Dev) (now : Nat) : (d.advance now).beside = d.beside := Dev.beside_advanceN now _ d

theorem Dev.core_of_beside {d e : Dev} (h : e.beside = d.beside) : e.core = d.core := congrArg (·.1) h

/-! ### Cores through what follows an end -/

/-- Every core is as in `d` but for the leave it keeps. -/
def Dev.KeepsCores (d e : Dev) : Prop := ∀ c, { e.coreAt c with kept := (d.coreAt c).kept } = d.coreAt c

theorem Dev.KeepsCores.trans {d e f : Dev} (h : d.KeepsCores e) (g : e.KeepsCores f) : d.KeepsCores f := by
  intro c
  rw [← h c, ← g c]

theorem Dev.KeepsCores.of_core {d e : Dev} (h : e.core = d.core) : d.KeepsCores e := by
  intro c
  rw [show e.coreAt c = d.coreAt c by rw [Dev.coreAt, h]; rfl]

theorem Dev.KeepsCores.foldl {α : Type} {f : Dev → α → Dev} (hf : ∀ (d : Dev) a, d.KeepsCores (f d a)) (l : List α) (d : Dev) :
    d.KeepsCores (l.foldl f d) := by
  induction l generalizing d with
  | nil => exact .of_core rfl
  | cons a l ih => exact (hf d a).trans (ih _)

@[simp] theorem Dev.returnLeave_core (d : Dev) (dp p : Nat) (b : Option Nat) : (d.returnLeave dp p b).core = d.core := by
  unfold Dev.returnLeave
  cases b <;> rfl

theorem Dev.keepsCores_dropKept (d : Dev) (c : Nat) : d.KeepsCores (d.onCore c fun k => { k with kept := none }) := by
  intro k
  by_cases hk : k = c
  · subst hk
    rw [Dev.coreAt_onCore_same]
  · rw [Dev.coreAt_onCore_other _ _ _ _ hk]

theorem Dev.keepsCores_dropLeave (d : Dev) : d.KeepsCores d.dropLeave := by
  unfold Dev.dropLeave
  dsimp only
  refine Dev.KeepsCores.trans (e := List.foldl _ (List.foldl _ d d.core) _) (Dev.KeepsCores.trans (e := List.foldl _ d d.core)
    (Dev.KeepsCores.foldl (fun e x => ?_) _ _) (Dev.KeepsCores.foldl (fun _ _ => .of_core (Dev.returnLeave_core ..)) _ _)) (.of_core rfl)
  split
  · exact iteInduction (motive := e.KeepsCores) (fun _ => .of_core rfl) fun _ =>
      Dev.KeepsCores.trans (.of_core (Dev.returnLeave_core ..)) (Dev.keepsCores_dropKept _ _)
  · exact .of_core rfl

theorem Dev.sendArrivals_core (d : Dev) : d.sendArrivals.core = d.core := by
  unfold Dev.sendArrivals
  refine foldl_keeps (fun e : Dev => e.core = d.core) _ (fun e b he => ?_) _ _ rfl
  exact he

theorem Dev.keepsCores_after (d : Dev) (now : Nat) : d.KeepsCores (d.after now) :=
  (Dev.KeepsCores.of_core (Dev.core_of_beside (d.beside_advance now))).trans
    ((Dev.KeepsCores.of_core (Dev.sendArrivals_core _)).trans (Dev.keepsCores_dropLeave _))

end Sys2Proof.Machine
end

section
/-!
PROOFS. Dispatch and the end of tiles: states in which leave kept on another core goes back (R426), or a SPARE_SWAP waits for the
core (R291).
-/

namespace Sys2Proof.Machine

/-- A TILE command of one tile, for context 1 of asterism 0. -/
def oneTile : Cmd where
  queue := 0
  pos := 0
  index := 0
  call := none
  slot := 1
  ctx := 1
  ast := 0
  dom := 0
  label := 0
  cls := 0
  guar := false
  phase := .running
  acceptAt := 0
  boundUs := 0
  deadline := 0
  resv := Resv.none
  inBook := false
  shed := none
  noted := none
  lent := none
  forced := none
  err := 0
  inherited := false
  replayed := false
  energy := 0
  objs := []
  hdr := 0
  prog := []
  segs := none
  tiles := 1
  next := 0
  running := 0
  ended := 0
  redo := []
  granted := [0, 0, 0, 0]
  barrier := none
  timeoutAt := 0
  abandoned := false
  timedOut := false
  kids := 0
  kidStatus := none
  notRun := 0
  inval := none
  keepPages := []

/-- An ACTIVE resident context of asterism 0. -/
def oneCtx : Ctx where
  ast := 0
  fn := 1
  state := .active
  blocked := false
  flagNext := false
  prio := 0
  pasid := 0
  pasidEn := false
  resident := true
  resAt := 0
  waitAt := 0
  energy := 0
  infl := 64
  overruns := 0
  clean := 0
  decays := 0
  inflRec := none
  revoke := none
  inherit := none

/-- Asterism 0 with cores 0 and 1; the command's one tile is still to come, and core 1 kept leave from it. -/
def keptDev : Dev := { Dev.reset with
  core := [(0, { Core.reset with svc := .idle, pwr := .run, bound := some 0 }),
    (1, { Core.reset with svc := .idle, pwr := .run, bound := some 0, kept := some (0, 5, none) })]
  comp := { Comp.reset with asts := [(0, { Ast.reset with state := .active, cur := some { CMap.empty 0 0 with cores := [0, 1] } })] }
  hif := { Hif.reset with ctxs := [(1, oneCtx)], cmds := [(0, oneTile)], nextCmd := 1 } }

theorem tileDispatch_leads (s : State) (id c : Nat) : Leads (.tileDispatch id c) s (s.dev.dispatch s.now id c false) := rfl

theorem tileEnd_leads (s : State) (c cycles uj : Nat) : Leads (.tileEnd c cycles uj) s (s.dev.endTile s.now c cycles uj) := rfl

/-- Refutes O27: a core that kept leave from the command gives it back once the command's last tile is sent. -/
theorem not_tilesAreDispatched : ¬ Obligations.TilesAreDispatched := by
  intro h
  obtain ⟨hfirst, -⟩ := h ⟨[], 0, keptDev⟩ 0 0 oneTile rfl
  obtain ⟨hdispatch, -⟩ := hfirst (by decide +kernel) (by decide +kernel) (by decide +kernel) rfl
  obtain ⟨e, hlead, -, -, -, hother, -⟩ := hdispatch 0 none [0, 0, 0, 0] (by decide +kernel) (by decide +kernel)
  have he : e = keptDev.dispatch 0 0 0 false := leads_unique (tileDispatch_leads ⟨[], 0, keptDev⟩ 0 0) hlead
  have hkept : ((keptDev.dispatch 0 0 0 false).coreAt 1).kept = none := by decide +kernel
  have hwas : (keptDev.coreAt 1).kept = some (0, 5, none) := by decide +kernel
  have hsame : (keptDev.dispatch 0 0 0 false).coreAt 1 = keptDev.coreAt 1 := he ▸ hother 1 (by decide)
  rw [hsame, hwas] at hkept
  exact absurd hkept (by decide)

/-! ### The end of a tile -/

theorem Dev.KeepsCores.svc {d e : Dev} (h : d.KeepsCores e) (c : Nat) : (e.coreAt c).svc = (d.coreAt c).svc := by
  rw [← h c]

/-- What follows the end of a tile leaves every core's service state. -/
theorem Dev.svc_after_endTiles (d : Dev) (now id c : Nat) : (((d.endTiles now id).after now).coreAt c).svc = (d.coreAt c).svc := by
  have hends : d.KeepsCores (d.endTiles now id) := .of_core (Dev.core_of_beside (d.beside_endTiles now id))
  exact (hends.trans (Dev.keepsCores_after _ now)).svc c

/-- The command's tile, ended. -/
def swapTile : Tile := { oneTile.tile 0 0 0 [0, 0, 0, 0] 0 none with ended := true }

/-- The tile ended on core 0, which drains while a SPARE_SWAP waits for it to be idle. -/
def swapDev : Dev := { Dev.reset with
  core := [(0, { Core.reset with
    svc := .draining, pwr := .run, bound := some 0, tile := some swapTile })]
  comp := { Comp.reset with
    asts := [(0, { Ast.reset with state := .active, cur := some { CMap.empty 0 0 with cores := [0] } })]
    swaps := [{ slice := false, unit := 0, spare := 0, wait := true, copied := false, cmd := none }] }
  hif := { Hif.reset with ctxs := [(1, oneCtx)], cmds := [(0, { oneTile with next := 1, running := 1 })], nextCmd := 1 } }

/-- Refutes O28: a core that a SPARE_SWAP waits for is fenced as its tile ends, not idle (R291). -/
theorem not_tilesStartAndEnd : ¬ Obligations.TilesStartAndEnd := by
  intro h
  obtain ⟨-, -, -, hend, -⟩ := h ⟨[], 0, swapDev⟩ 0 swapTile (by decide +kernel)
  obtain ⟨e, hlead, -, hidle, -⟩ := hend { oneTile with next := 1, running := 1 } 0 0 (by decide +kernel) (by decide +kernel)
    (by decide +kernel)
  have he : (e.endTiles 0 0).after 0 = swapDev.endTile 0 0 0 0 := leads_unique (tileEnd_leads ⟨[], 0, swapDev⟩ 0 0 0) hlead
  have hfenced : ((swapDev.endTile 0 0 0 0).coreAt 0).svc = .fenced := by decide +kernel
  rw [← he, Dev.svc_after_endTiles, hidle] at hfenced
  exact absurd hfenced (by decide)

end Sys2Proof.Machine
end

section
/-!
PROOFS. Queue commands: the head of a queue (R318, R320), ordered effects and events (R323 to R325), completion records (R329,
R333), hints (R428), ABORT, CALL and FREE_OBJECT (R322, R327, R338).
-/

namespace Sys2Proof.Machine

/-! ### The head of a queue -/

/-- What stands at the head of a queue: the queue's own entry, its context's, and the first slot fetched. -/
theorem Dev.head_some {d : Dev} {q : Nat} {h : Head} (hh : d.head q = some h) : h.q = q ∧ Tbl.find d.hif.queues q = some h.queue ∧
    Tbl.find d.hif.ctxs h.queue.ctx = some h.ctx ∧ ∃ l, h.queue.fetched = h.f :: l := by
  unfold Dev.head at hh
  split at hh
  case h_1 => exact absurd hh (by simp)
  case h_2 k hk =>
    split at hh
    case h_1 f l c hf hc =>
      split at hh
      · obtain rfl := Option.some.inj hh
        exact ⟨rfl, hk, hc, l, hf⟩
      · exact absurd hh (by simp)
    case h_2 => exact absurd hh (by simp)

/-- A command at the head of its queue is taken: its own effect, and what follows it. -/
theorem Dev.takeHead_of_atHead {d : Dev} {q op : Nat} {h : Head} (hat : AtHead d q op h) (now : Nat) (p : Line → Bool)
    (f : Dev → Head → Dev) (hp : p h.f.slot = true) : d.takeHead now q p f = (f d h).afterHead now q := by
  obtain ⟨hhead, hform, -⟩ := hat
  simp [Dev.takeHead, hhead, hform, hp]

theorem firstNamed_fine {l : List Named} (h : firstNamed l = .fine) : firstNamed (.fine :: l) = .fine := h

/-! ### What an end leaves of the events -/

/-- The events. -/
def Dev.evs (d : Dev) : Tbl Event := d.hif.events

@[simp] theorem Dev.evs_onHif (d : Dev) (f : Hif → Hif) : (d.onHif f).evs = (f d.hif).events := rfl
@[simp] theorem Dev.evs_onCtx (d : Dev) (k : Nat) (f : Ctx → Ctx) : (d.onCtx k f).evs = d.evs := rfl
@[simp] theorem Dev.evs_onQueue (d : Dev) (k : Nat) (f : Queue → Queue) : (d.onQueue k f).evs = d.evs := rfl
@[simp] theorem Dev.evs_onObj (d : Dev) (k : Nat) (f : Obj → Obj) : (d.onObj k f).evs = d.evs := rfl
@[simp] theorem Dev.evs_onCmd (d : Dev) (k : Nat) (f : Cmd → Cmd) : (d.onCmd k f).evs = d.evs := rfl
@[simp] theorem Dev.evs_onAst (d : Dev) (a : Nat) (f : Ast → Ast) : (d.onAst a f).evs = d.evs := rfl
@[simp] theorem Dev.evs_onNet (d : Dev) (f : Network → Network) : (d.onNet f).evs = d.evs := rfl
@[simp] theorem Dev.evs_wrap (d : Dev) (f : Fld) (k : Nat) : (d.wrap f k).evs = d.evs := rfl
@[simp] theorem Dev.evs_sat (d : Dev) (f : Fld) (k : Nat) : (d.sat f k).evs = d.evs := rfl
@[simp] theorem Dev.evs_interrupt (d : Dev) (fn vec : Nat) : (d.interrupt fn vec).evs = d.evs := rfl
@[simp] theorem Dev.evs_raise (d : Dev) (code unit sub : Nat) (sev : Sev) (l : List Nat) (who : Option (Nat × Nat)) :
    (d.raise code unit sub sev l who).evs = d.evs := rfl

@[simp] theorem Dev.evs_putRec (d : Dev) (now q : Nat) (r : CRec) (intr : Bool) : (d.putRec now q r intr).evs = d.evs := by
  unfold Dev.putRec
  dsimp only
  split
  · rfl
  · simp [apply_ite Dev.evs]
    rfl

@[simp] theorem Dev.evs_writeRec (d : Dev) (now q : Nat) (r : CRec) (intr : Bool) : (d.writeRec now q r intr).evs = d.evs := by
  unfold Dev.writeRec
  dsimp only
  split
  · rfl
  · simp [apply_ite Dev.evs]

@[simp] theorem Dev.evs_dropObj (d : Dev) (now o : Nat) : (d.dropObj now o).evs = d.evs := by
  unfold Dev.dropObj
  dsimp only
  split
  · rfl
  · split
    · split
      · exact Dev.evs_writeRec ..
      · rfl
    · rfl

@[simp] theorem Dev.hif_withTraffic (d : Dev) (c : Cmd) : (d.withTraffic c).2.hif = d.hif := by
  unfold Dev.withTraffic
  split <;> rfl

/-- Measuring its energy changes nothing else of a command. -/
theorem Dev.withTraffic_shape (d : Dev) (c : Cmd) : ∃ n, (d.withTraffic c).1 = { c with energy := n } := by
  unfold Dev.withTraffic
  split
  · exact ⟨c.energy, rfl⟩
  · exact ⟨_, rfl⟩

@[simp] theorem Dev.evs_settle (d : Dev) (now : Nat) (c : Cmd) (st : CStatus) : (d.settle now c st).evs = d.evs := by
  simp [Dev.settle, apply_ite Dev.evs]

@[simp] theorem Dev.evs_endLoan (d : Dev) (id : Nat) : (d.endLoan id).evs = d.evs := rfl

@[simp] theorem Dev.evs_faultCtx (d : Dev) (ctx : Nat) : (d.faultCtx ctx).evs = d.evs := rfl

@[simp] theorem Dev.evs_kidDone (d : Dev) (call : Option Nat) (index : Nat) (st : CStatus) :
    (d.kidDone call index st).evs = d.evs := by
  unfold Dev.kidDone
  split <;> simp

theorem Dev.completionEvent_of_none {x : Line} (h : hEvent x = 0) (d : Dev) (a ctx q pos : Nat) (admitted : Bool) (st : CStatus) :
    d.completionEvent a ctx x q pos admitted st = d := if_pos h

/-- A command without a completion event ends and leaves every event. -/
theorem Dev.evs_finish {d : Dev} {id : Nat} {c : Cmd} (hc : Tbl.find d.hif.cmds id = some c) (hev : hEvent c.slot = 0)
    (now : Nat) (st : CStatus) (aux : Nat) (edit : CRec → CRec) : (d.finish now id st aux edit).evs = d.evs := by
  obtain ⟨n, hn⟩ := d.withTraffic_shape c
  unfold Dev.finish
  simp only [hc, hn]
  rw [Dev.completionEvent_of_none hev, Dev.evs_kidDone]
  refine foldl_keeps (fun e : Dev => e.evs = d.evs) _ (fun e o he => (Dev.evs_dropObj e now o).trans he) _ _ ?_
  simp [apply_ite Dev.evs]
  rfl

/-! ### Acceptance -/

/-- The head leaves the fetched list of its queue. -/
theorem Dev.hif_pop (d : Dev) (h : Head) :
    (d.pop h).hif = { d.hif with queues := Tbl.adj d.hif.queues h.q fun k => { k with fetched := k.fetched.drop 1 } } := by
  unfold Dev.pop
  dsimp only
  split
  · rfl
  · split <;> rfl

/-- What the host interface holds once a command is taken: its queue without the head, the command under the next identifier,
its objects held. -/
theorem Dev.hif_accept (d : Dev) (h : Head) (m : Cmd) : ∃ objs, (d.accept h m).1.hif = { d.hif with
    queues := Tbl.adj d.hif.queues h.q fun k => { k with fetched := k.fetched.drop 1 }
    cmds := Tbl.put d.hif.cmds d.hif.nextCmd { m with barrier := d.barrierOf h, lent := d.loanFor h.q h.queue.ctx }
    nextCmd := d.hif.nextCmd + 1, objs := objs } := by
  unfold Dev.accept
  dsimp only
  refine foldl_keeps (fun e : Dev => ∃ objs, e.hif = { d.hif with
    queues := Tbl.adj d.hif.queues h.q fun k => { k with fetched := k.fetched.drop 1 }
    cmds := Tbl.put d.hif.cmds d.hif.nextCmd { m with barrier := d.barrierOf h, lent := d.loanFor h.q h.queue.ctx }
    nextCmd := d.hif.nextCmd + 1, objs := objs }) _ ?_ _ _ ⟨d.hif.objs, ?_⟩
  · rintro e o ⟨objs, he⟩
    exact ⟨_, by rw [Dev.holdObj, Dev.onObj, Dev.onHif, he]⟩
  · rw [Dev.onHif, Dev.hif_pop]
    split <;> rfl

theorem Dev.find_queue_accept {d : Dev} {h : Head} {k : Queue} (hk : Tbl.find d.hif.queues h.q = some k) (m : Cmd) :
    Tbl.find (d.accept h m).1.hif.queues h.q = some { k with fetched := k.fetched.drop 1 } := by
  obtain ⟨objs, hhif⟩ := d.hif_accept h m
  rw [hhif]
  exact (Tbl.find_adj_same _ _ _).trans (congrArg (Option.map _) hk)

/-! ### What follows an end -/

theorem Dev.hif_sendArrivals (d : Dev) : d.sendArrivals.hif = d.hif := by
  unfold Dev.sendArrivals
  refine foldl_keeps (fun e : Dev => e.hif = d.hif) _ (fun e b he => ?_) _ _ rfl
  exact he

@[simp] theorem Dev.hif_returnLeave (d : Dev) (dp p : Nat) (b : Option Nat) : (d.returnLeave dp p b).hif = d.hif := by
  unfold Dev.returnLeave
  cases b <;> rfl

theorem Dev.hif_dropLeave (d : Dev) : d.dropLeave.hif = d.hif := by
  unfold Dev.dropLeave
  dsimp only
  refine foldl_keeps (fun e : Dev => e.hif = d.hif) _ (fun e g he => (Dev.hif_returnLeave e g.dp g.p g.booking).trans he) _ _ ?_
  refine foldl_keeps (fun e : Dev => e.hif = d.hif) _ (fun e x he => ?_) _ _ rfl
  split
  · exact iteInduction (motive := fun f : Dev => f.hif = d.hif) (fun _ => he) fun _ => (Dev.hif_returnLeave e ..).trans he
  · exact he

theorem Dev.hif_after (d : Dev) (now : Nat) : (d.after now).hif = (d.advance now).hif :=
  (Dev.hif_dropLeave _).trans (Dev.hif_sendArrivals _)

/-- With nothing more fetched only what an end sets going follows. -/
theorem Dev.afterHead_of_empty {d : Dev} {q : Nat} {k : Queue} (hk : Tbl.find d.hif.queues q = some k) (hf : k.fetched = [])
    (now : Nat) : d.afterHead now q = d.after now := by
  simp [Dev.afterHead, hk, hf, Dev.settleHead]

/-! ### Ordered effects -/

/-- The one command in flight is ordered: its effect is all that is ready. -/
theorem Dev.advance_of_ordered {d : Dev} {id : Nat} {c : Cmd} (hcmds : d.hif.cmds = [(id, c)]) (hphase : c.phase = .ordered)
    (now : Nat) : d.advance now = d.takeEffect now id c := by
  have hover : d.earlierOver id c = true := by simp [Dev.earlierOver, hcmds]
  have hready : d.ready = some (.effect id) := by simp [Dev.ready, hcmds, hphase, hover]
  simp [Dev.advance, hcmds, Dev.advanceN, hready, Tbl.find]

/-- A SIGNAL's event holds its operation's value; ABANDONED ends with SET. -/
theorem Dev.find_applySignal {d : Dev} {x : Line} {v : Event} (hv : Tbl.find d.hif.events (fld x 0x10 0 20) = some v) :
    Tbl.find (d.applySignal x false).hif.events (fld x 0x10 0 20) = some { v with
      value := signalOp (fld x 0x10 20 2) v.value (fld x 0x18 0 63)
      abandoned := if fld x 0x10 20 2 = 0 then false else v.abandoned } := by
  refine (Tbl.find_adj_same _ _ _).trans ?_
  rw [hv]
  rfl

theorem fld_lt (x : Line) (o lo w : Nat) : fld x o lo w < 2 ^ w := bits_lt _ _ _

theorem signalOp_fld (op v : Nat) (x : Line) (o : Nat) : signalOp op v (fld x o 0 63) =
    if op = 0 then fld x o 0 63 else if op = 1 then (v + fld x o 0 63) % 2 ^ 63 else max v (fld x o 0 63) := by
  have hlt : fld x o 0 63 % 2 ^ 63 = fld x o 0 63 := Nat.mod_eq_of_lt (fld_lt x o 0 63)
  unfold signalOp
  split
  · simpa using hlt
  · simp
  · rw [hlt, if_neg (by assumption), if_neg (by assumption)]

/-- An ordered SIGNAL on a counter of its asterism applies its operation and completes. -/
theorem Dev.takeEffect_signal {d : Dev} {id : Nat} {c : Cmd} {v : Event}
    (hv : Tbl.find d.hif.events (fld c.slot 0x10 0 20) = some v) (hast : v.ast = c.ast) (hop : hOp c.slot = 4) (hsem : v.sem = false)
    (now : Nat) : d.takeEffect now id c = (d.applySignal c.slot false).finish now id .completed := by
  simp [Dev.takeEffect, hv, hast, hop, hsem]

/-- An ordered RELEASE of a unit its context holds returns it and completes. -/
theorem Dev.takeEffect_release {d : Dev} {id : Nat} {c : Cmd} {v : Event}
    (hv : Tbl.find d.hif.events (fld c.slot 0x10 0 20) = some v) (hast : v.ast = c.ast) (hop : hOp c.slot = 7) (hsem : v.sem = true)
    (hheld : c.ctx ∈ v.holders) (now : Nat) : d.takeEffect now id c =
      ((d.onEvent (fld c.slot 0x10 0 20) fun v => v.release c.ctx).endLoanTo c.ctx (fld c.slot 0x10 0 20)).finish now id .completed := by
  simp [Dev.takeEffect, hv, hast, hop, hsem, hheld]

/-- Loans that end change nothing else of a command. -/
theorem Dev.find_endLoanTo {d : Dev} {id : Nat} {c : Cmd} (hc : Tbl.find d.hif.cmds id = some c) (ctx e : Nat) :
    ∃ l, Tbl.find (d.endLoanTo ctx e).hif.cmds id = some { c with lent := l } := by
  unfold Dev.endLoanTo
  dsimp only [Dev.onHif]
  rw [Tbl.find_mapV, hc]
  dsimp only [Option.map]
  split
  · split
    · exact ⟨none, rfl⟩
    · exact ⟨c.lent, rfl⟩
  · exact ⟨c.lent, rfl⟩

theorem Dev.evs_takeEffect_signal {d : Dev} {id : Nat} {c : Cmd} {v : Event} (hc : Tbl.find d.hif.cmds id = some c)
    (hev : hEvent c.slot = 0) (hv : Tbl.find d.hif.events (fld c.slot 0x10 0 20) = some v) (hast : v.ast = c.ast)
    (hop : hOp c.slot = 4) (hsem : v.sem = false) (now : Nat) :
    (d.takeEffect now id c).evs = (d.applySignal c.slot false).evs := by
  rw [Dev.takeEffect_signal hv hast hop hsem]
  exact Dev.evs_finish (d := d.applySignal c.slot false) hc hev now .completed 0 fun r => r

theorem Dev.evs_takeEffect_release {d : Dev} {id : Nat} {c : Cmd} {v : Event} (hc : Tbl.find d.hif.cmds id = some c)
    (hev : hEvent c.slot = 0) (hv : Tbl.find d.hif.events (fld c.slot 0x10 0 20) = some v) (hast : v.ast = c.ast)
    (hop : hOp c.slot = 7) (hsem : v.sem = true) (hheld : c.ctx ∈ v.holders) (now : Nat) :
    (d.takeEffect now id c).evs = (d.onEvent (fld c.slot 0x10 0 20) fun v => v.release c.ctx).evs := by
  rw [Dev.takeEffect_release hv hast hop hsem hheld]
  obtain ⟨l, hl⟩ := Dev.find_endLoanTo (d := d.onEvent (fld c.slot 0x10 0 20) fun v => v.release c.ctx) hc c.ctx (fld c.slot 0x10 0 20)
  exact Dev.evs_finish hl hev now .completed 0 fun r => r

/-- An ordered command at the head of its queue, with none in flight before it: the events after it are those its effect
leaves. -/
theorem Dev.evs_ordered {d : Dev} {q : Nat} {h : Head} {v : Event} (hat : AtHead d q (hOp h.f.slot) h) (hcmds : d.hif.cmds = [])
    (hfetched : h.queue.fetched = [h.f]) (hev : hEvent h.f.slot = 0) (hast : v.ast = h.ctx.ast)
    (hv : Tbl.find d.hif.events (fld h.f.slot 0x10 0 20) = some v) (now : Nat) {p : Line → Bool} (hp : p h.f.slot = true) :
    ∃ (e : Dev) (c : Cmd), (d.takeHead now q p fun d h => d.doOrdered now h).evs = (e.takeEffect now d.hif.nextCmd c).evs ∧
      e.evs = d.evs ∧ Tbl.find e.hif.cmds d.hif.nextCmd = some c ∧ c.slot = h.f.slot ∧ c.ast = h.ctx.ast ∧ c.ctx = h.queue.ctx := by
  obtain ⟨hq, hqueue, -, -⟩ := Dev.head_some hat.1
  have hnames : firstNamed [d.nameCompletion h.ctx.ast h.f.slot, d.nameEvent h.ctx.ast (fld h.f.slot 0x10 0 20)] = .fine := by
    simp [Dev.nameCompletion, hev, Dev.nameEvent, hv, hast, firstNamed]
  obtain ⟨objs, hhif⟩ := d.hif_accept h { d.newCmd now h with phase := .ordered }
  refine ⟨(d.accept h { d.newCmd now h with phase := .ordered }).1, { d.newCmd now h with
    phase := .ordered, barrier := d.barrierOf h, lent := d.loanFor h.q h.queue.ctx }, ?_, ?_, ?_, rfl, rfl, rfl⟩
  · rw [Dev.takeHead_of_atHead hat now p _ hp, Dev.doOrdered, hnames]
    show ((d.accept h _).1.afterHead now q).evs = _
    generalize (d.accept h { d.newCmd now h with phase := .ordered }).1 = e at hhif ⊢
    have hempty : Tbl.find e.hif.queues q = some { h.queue with fetched := [] } := by
      rw [hhif, ← hq]
      simp [hq, hqueue, hfetched]
    have hone : e.hif.cmds = [(d.hif.nextCmd, { d.newCmd now h with
        phase := .ordered, barrier := d.barrierOf h, lent := d.loanFor h.q h.queue.ctx })] := by
      rw [hhif, hcmds]
      rfl
    rw [Dev.afterHead_of_empty hempty rfl, Dev.evs, Dev.hif_after, Dev.advance_of_ordered hone rfl]
    rfl
  · rw [Dev.evs, hhif]
    rfl
  · rw [hhif]
    exact Tbl.find_put_same _ _ _

/-- Settles O8: ordered effects at the head of a queue, time-outs, and the operations on an event. -/
theorem orderedAndEvents : Obligations.OrderedAndEvents := by
  refine ⟨fun s q h v hat hcmds hbar hfetched hcall hev hast hv => ⟨fun c w hop hsem hc => ?signal, fun hop hsem hheld => ?release⟩,
    fun s id m hm hphase ht hle c hc => ?timeout, fun d x v hv => ⟨?_, fun e he => ?_⟩, fun v ctx hheld => ⟨rfl, rfl, fun hone => ?_⟩,
    fun d e k v hv => ?_⟩
  case signal =>
    have hlead : ∀ op, fld h.f.slot 0x10 20 2 = op → ∃ e, (e : Dev) = s.dev.takeHead s.now q (signalIs op) (fun d h => d.doOrdered s.now h) ∧
        Tbl.find e.hif.events (fld h.f.slot 0x10 0 20) = some { v with
          value := signalOp op v.value (fld h.f.slot 0x18 0 63), abandoned := if op = 0 then false else v.abandoned } := by
      rintro op rfl
      obtain ⟨e, c, hevs, he, hfind, hslot, hcast, -⟩ := Dev.evs_ordered hat hcmds hfetched hev hast hv s.now
        (p := signalIs (fld h.f.slot 0x10 20 2)) (by simp [signalIs, hop])
      have hv' : Tbl.find e.hif.events (fld c.slot 0x10 0 20) = some v := by rw [hslot]; exact (congrArg (Tbl.find · _) he).trans hv
      refine ⟨_, rfl, ?_⟩
      refine (congrArg (Tbl.find · _) hevs).trans ?_
      rw [Dev.evs_takeEffect_signal hfind (hslot ▸ hev) hv' (hast.trans hcast.symm) (hslot ▸ hop) hsem, ← hslot]
      exact Dev.find_applySignal hv'
    obtain ⟨rfl, hm, rfl⟩ | ⟨rfl, hm, rfl⟩ | ⟨rfl, hm, rfl⟩ := hc
    · obtain ⟨e, he, hfind⟩ := hlead 0 hm
      refine ⟨e, he ▸ rfl, hfind.trans ?_⟩
      rw [signalOp_fld]
      rfl
    · obtain ⟨e, he, hfind⟩ := hlead 1 hm
      refine ⟨e, he ▸ rfl, hfind.trans ?_⟩
      rw [signalOp_fld]
      rfl
    · obtain ⟨e, he, hfind⟩ := hlead 2 hm
      refine ⟨e, he ▸ rfl, hfind.trans ?_⟩
      rw [signalOp_fld]
      rfl
  case release =>
    obtain ⟨e, c, hevs, he, hfind, hslot, hcast, hctx⟩ := Dev.evs_ordered hat hcmds hfetched hev hast hv s.now
      (p := opIs 0x07) (by simp [opIs, hop])
    have hv' : Tbl.find e.hif.events (fld c.slot 0x10 0 20) = some v := by rw [hslot]; exact (congrArg (Tbl.find · _) he).trans hv
    refine ⟨s.dev.takeHead s.now q (opIs 0x07) (fun d h => d.doOrdered s.now h), rfl, ?_⟩
    refine (congrArg (Tbl.find · _) hevs).trans ?_
    rw [Dev.evs_takeEffect_release hfind (hslot ▸ hev) hv' (hast.trans hcast.symm) (hslot ▸ hop) hsem (hctx ▸ hheld), hslot, hctx]
    refine (Tbl.find_adj_same _ _ _).trans ?_
    rw [← hslot, hv']
    rfl
  case timeout =>
    have hlead : ∀ op, hOp m.slot = op → s.dev.parkedOut s.now id op = ((((s.dev.onEvent (fld m.slot 0x10 0 20) fun v => { v with
        waiters := v.waiters - 1 }).onCmd id fun m => { m with timedOut := true }).finish s.now id .aborted).afterHead s.now m.queue) := by
      rintro op rfl
      simp [Dev.parkedOut, hm, hphase, ht, hle, Dev.unpark]
    obtain ⟨rfl, hop⟩ | ⟨rfl, hop⟩ := hc
    · rw [← hlead 5 hop]
      rfl
    · rw [← hlead 6 hop]
      rfl
  · rw [Dev.find_applySignal hv, signalOp_fld]
  · exact Tbl.find_adj_other _ _ _ _ he
  · simp [Event.release, hone]
  · refine (Tbl.find_adj_same _ _ _).trans ?_
    rw [hv]
    simp

/-! ### Completion records -/

/-- A record written: at the ring's tail, with the PHASE of its position; the tail is one further. -/
theorem Dev.putRec_law {d : Dev} {q : Nat} {k : Queue} (hk : Tbl.find d.hif.queues q = some k) (now : Nat) (r : CRec) (intr : Bool) :
    Tbl.find (d.putRec now q r intr).hif.cq (cqKey q (k.cqTail % 2 ^ k.clog2n)) =
        some { r with phase := phaseOf k.clog2n k.cqTail } ∧
      (∃ k', Tbl.find (d.putRec now q r intr).hif.queues q = some k' ∧ k'.cqTail = (k.cqTail + 1) % 2 ^ 32) ∧
      (d.putRec now q r intr).hif.cmds = d.hif.cmds := by
  unfold Dev.putRec
  simp only [hk]
  refine iteInduction (motive := fun e : Dev => Tbl.find e.hif.cq (cqKey q (k.cqTail % 2 ^ k.clog2n)) =
        some { r with phase := phaseOf k.clog2n k.cqTail } ∧
      (∃ k', Tbl.find e.hif.queues q = some k' ∧ k'.cqTail = (k.cqTail + 1) % 2 ^ 32) ∧ e.hif.cmds = d.hif.cmds)
    (fun _ => ⟨Tbl.find_put_same _ _ _, ⟨_, (Tbl.find_adj_same _ _ _).trans (congrArg (Option.map _) ((Tbl.find_adj_same _ _ _).trans
      (congrArg (Option.map _) hk))), rfl⟩, rfl⟩) fun _ => ?_
  exact ⟨Tbl.find_put_same _ _ _, ⟨_, (Tbl.find_adj_same _ _ _).trans (congrArg (Option.map _) hk), rfl⟩, rfl⟩

/-- A command that ends COMPLETED, quiet of nothing: its record goes to its queue's ring. -/
theorem Dev.finish_plain {d : Dev} {id : Nat} {c : Cmd} {k : Queue} (hc : Tbl.find d.hif.cmds id = some c)
    (hk : Tbl.find d.hif.queues c.queue = some k) (hheld : k.held = []) (hroom : k.cqRoom = true) (hev : hEvent c.slot = 0)
    (hobjs : c.objs = []) (hcall : c.call = none) (hguar : c.guar = false) (hquiet : hQuiet c.slot = false)
    (htiles : c.tiles = 0) (hblocks : c.resv.blocks = 0) (now : Nat) :
    d.finish now id .completed = ((((d.onHif fun h => { h with cmds := Tbl.del h.cmds id }).onCtx c.ctx fun x => { x with
      energy := x.energy + c.energy }).endLoan id).putRec now c.queue (c.record now .completed 0) (hIntr c.slot)) := by
  have htraffic : d.withTraffic c = (c, d) := by simp [Dev.withTraffic, htiles, hblocks]
  have hlate : c.late now = false := by simp [Cmd.late, hguar]
  unfold Dev.finish
  simp only [hc, htraffic, Dev.completionEvent_of_none hev, hobjs, hcall, hquiet, Dev.kidDone, List.foldl_nil, Bool.false_and]
  have hsettle : ∀ e : Dev, e.settle now c .completed = e.onCtx c.ctx fun x => { x with energy := x.energy + c.energy } := by
    intro e
    simp [Dev.settle, hlate]
  rw [hsettle]
  have hwrite : ∀ (e : Dev) (r : CRec), e.hif.queues = d.hif.queues → e.writeRec now c.queue r (hIntr c.slot) =
      e.putRec now c.queue r (hIntr c.slot) := by
    intro e r he
    simp [Dev.writeRec, he, hk, hheld, hroom]
  exact hwrite _ _ rfl

/-- The record of a command that ends COMPLETED, neither shed nor late nor in error. -/
theorem Cmd.record_plain {c : Cmd} (herr : c.err = 0) (hshed : c.shed = none) (hguar : c.guar = false) (now : Nat) :
    (c.record now .completed 0).status = .completed ∧ (c.record now .completed 0).error = 0 := by
  have hverdict : c.verdict now .completed = (.completed, .none, 0) := by simp [Cmd.verdict, hshed, Cmd.late, hguar]
  simp [Cmd.record, hverdict, herr]

/-- The booking a HINT asks for (R428). -/
def Dev.hintBooking (d : Dev) (now : Nat) (h : Head) : Booking where
  id := d.pwr.nextBook
  cmd := d.hif.nextCmd
  ast := h.ctx.ast
  ctx := h.queue.ctx
  powerMw := fld h.f.slot 0x14 0 16 * 1000
  openAt := now + fld h.f.slot 0x16 0 16 * 1000
  closeAt := now + fld h.f.slot 0x16 0 16 * 1000 + fld h.f.slot 0x18 0 32 * 1000
  opened := false
  drawn := 0
  usedPj := 0
  limitMj := fld h.f.slot 0x10 0 32

theorem Dev.doHint_eq {d : Dev} {h : Head} (hname : d.nameCompletion h.ctx.ast h.f.slot = .fine)
    (h4 : (d.pwr.bookings.filter fun b => b.ast == h.ctx.ast).length < 4) (h16 : d.pwr.bookings.length < 16)
    (henergy : d.energyOk (fld h.f.slot 0x14 0 16 * 1000) = true) (hbuffer : d.bufferTest (fld h.f.slot 0x14 0 16 * 1000) = true)
    (now : Nat) : d.doHint now h = ({ d with pwr := { d.pwr with
      bookings := d.pwr.bookings ++ [d.hintBooking now h], nextBook := d.pwr.nextBook + 1 } }).acceptDone now h (d.newCmd now h)
        .completed := by
  unfold Dev.doHint
  dsimp only
  rw [hname]
  refine if_neg ?_
  simp [Nat.not_le.2 h4, Nat.not_le.2 h16, henergy, hbuffer]

theorem Dev.find_endLoan_none {d : Dev} {id : Nat} (h : Tbl.find d.hif.cmds id = none) (w : Nat) :
    Tbl.find (d.endLoan w).hif.cmds id = none := by
  unfold Dev.endLoan
  dsimp only [Dev.onHif]
  rw [Tbl.find_mapV, h]
  rfl

/-- Settles O9: the record of a plain end, and what HINT, HINT_OPEN and HINT_CLOSE make of the bookings. -/
theorem completionAndHints : Obligations.CompletionAndHints := by
  refine ⟨fun d now id c k hc hk hheld hroom hev hobjs hcall herr hshed hguar hquiet htiles hblocks => ?record, fun s =>
    ⟨fun q h hat hname h4 h16 henergy hbuffer => ?hint, fun b => ?hintOpen, fun b => ?hintClose⟩⟩
  case record =>
    obtain ⟨hstatus, herror⟩ := c.record_plain herr hshed hguar now
    have hkept : Tbl.find (((d.onHif fun h => { h with cmds := Tbl.del h.cmds id }).onCtx c.ctx fun x => { x with
      energy := x.energy + c.energy }).endLoan id).hif.queues c.queue = some k := hk
    obtain ⟨hrec, hqueue, hcmds⟩ := Dev.putRec_law hkept now (c.record now .completed 0) (hIntr c.slot)
    intro e
    have he : e = _ := Dev.finish_plain hc hk hheld hroom hev hobjs hcall hguar hquiet htiles hblocks now
    rw [he]
    refine ⟨?_, ⟨_, hrec, hstatus, rfl, rfl, rfl, herror, rfl, rfl⟩, hqueue⟩
    rw [hcmds]
    exact Dev.find_endLoan_none (Tbl.find_del_same d.hif.cmds id) id
  case hint =>
    have hlead : Leads (.hint q) s (s.dev.takeHead s.now q (opIs 0x09) fun d h => d.doHint s.now h) := rfl
    rw [Dev.takeHead_of_atHead hat _ _ _ (by simpa [opIs] using hat.2.2), Dev.doHint_eq hname h4 h16 henergy hbuffer] at hlead
    exact ⟨_, _, hlead, rfl, rfl, rfl, rfl, rfl, rfl⟩
  case hintOpen =>
    refine ⟨_, rfl, rfl, fun x hx hid ht => ?_, fun x hx hnot => ?_⟩
    · exact List.mem_map.2 ⟨x, hx, if_pos ⟨hid, ht⟩⟩
    · exact List.mem_map.2 ⟨x, hx, if_neg fun h => hnot.elim (fun hne => hne h.1) fun hlt => absurd h.2 (Nat.not_le.2 hlt)⟩
  case hintClose =>
    refine ⟨_, rfl, rfl, fun x => ?_⟩
    simp only [List.mem_filter, Bool.not_eq_true', Bool.and_eq_false_iff, beq_eq_false_iff_ne]
    cases x.opened <;> cases x.over s.now <;> simp

/-! ### ABORT, CALL, FREE_OBJECT -/

theorem Dev.doAbort_eq {d : Dev} {h : Head} {k : Queue} {c : Ctx} {id : Nat} {t : Cmd}
    (hname : d.nameCompletion h.ctx.ast h.f.slot = .fine) (hk : Tbl.find d.hif.queues (fld h.f.slot 0x10 0 18) = some k)
    (hc : Tbl.find d.hif.ctxs k.ctx = some c) (hast : c.ast = h.ctx.ast)
    (ht : (d.hif.cmds.find? fun e => e.2.queue == fld h.f.slot 0x10 0 18 && e.2.pos == fld h.f.slot 0x14 0 32 &&
      e.2.call.isNone) = some (id, t)) (hforced : t.forced = none) (now : Nat) :
    d.doAbort now h = (d.latch now id .aborted).acceptDone now h (d.newCmd now h) .completed 0 (abortRec true true .aborted) := by
  unfold Dev.doAbort
  simp [hname, hk, hc, hast, ht, hforced, firstNamed, Dev.named]

/-- A called command as it comes to stand in the queue. -/
def Head.kid (h : Head) (id : Nat) (bs : List Byte) (i : Nat) : Fetched where
  pos := h.f.pos
  index := i
  call := some id
  slot := BitVec.ofNat 512 (ofBytes ((bs.drop (64 * i)).take 64))

theorem Dev.doCall_eq {d : Dev} {h : Head} {b : Obj} {bs : List Byte} (hname : d.nameCompletion h.ctx.ast h.f.slot = .fine)
    (hobjs : firstNamed ((callObjs h.f.slot).map (d.nameObj h.ctx.ast)) = .fine)
    (hb : Tbl.find d.hif.objs (fld h.f.slot 0x10 0 24) = some b)
    (hsize : fld h.f.slot 0x14 0 32 + 64 * fld h.f.slot 0x18 0 16 ≤ b.size)
    (hbs : d.peekBytes (d.headTags h) (b.va + fld h.f.slot 0x14 0 32) (64 * fld h.f.slot 0x18 0 16) = .inr bs) (now : Nat) :
    d.doCall now h = ((d.accept h { d.newCmd now h with objs := callObjs h.f.slot, kids := fld h.f.slot 0x18 0 16 }).1).onQueue h.q
      fun k => { k with fetched := (List.range (fld h.f.slot 0x18 0 16)).map (h.kid d.hif.nextCmd bs) ++ k.fetched } := by
  unfold Dev.doCall
  dsimp only
  rw [hname, firstNamed_fine hobjs]
  simp only [Dev.named, hb, Nat.not_lt.2 hsize, if_false, hbs]
  rfl

theorem Dev.doFreeObject_eq {d : Dev} {h : Head} {b : Obj} (hname : d.nameCompletion h.ctx.ast h.f.slot = .fine)
    (hb : Tbl.find d.hif.objs (fld h.f.slot 0x10 0 24) = some b) (hast : b.ast = h.ctx.ast) (hlive : b.state = .live) (now : Nat) :
    d.doFreeObject now h = (((d.acceptDone now h (d.newCmd now h) .completed).onObj (fld h.f.slot 0x10 0 24) fun b => { b with
      state := .retiring, freer := some (h.q, h.f.pos), inflight := b.inflight + 1 }).dropObj now (fld h.f.slot 0x10 0 24)) := by
  unfold Dev.doFreeObject
  simp [hname, hb, hast, hlive, firstNamed, Dev.named]

/-- Settles O10: ABORT latches, CALL puts its commands in its place, FREE_OBJECT retires. -/
theorem callsAndLifetime : Obligations.CallsAndLifetime := by
  intro s q h hname
  refine ⟨fun k c id t hat hk hc hast ht hforced => ?abort, fun b bs hat hobjs hb hsize hbs => ?call, fun b hat hb hast hlive => ?free⟩
  case abort =>
    have hlead : Leads (.abort q) s (s.dev.takeHead s.now q (opIs 0x0A) fun d h => d.doAbort s.now h) := rfl
    rwa [Dev.takeHead_of_atHead hat _ _ _ (by simpa [opIs] using hat.2.2), Dev.doAbort_eq hname hk hc hast ht hforced] at hlead
  case call =>
    obtain ⟨rfl, hqueue, -, -⟩ := Dev.head_some hat.1
    have hlead : Leads (.call h.q) s (s.dev.takeHead s.now h.q (opIs 0x0B) fun d h => d.doCall s.now h) := rfl
    rw [Dev.takeHead_of_atHead hat _ _ _ (by simpa [opIs] using hat.2.2), Dev.doCall_eq hname hobjs hb hsize hbs] at hlead
    refine ⟨_, hlead, _, (Tbl.find_adj_same _ _ _).trans (congrArg (Option.map _) (Dev.find_queue_accept hqueue _)), ?_⟩
    simp [Head.kid]
  case free =>
    have hlead : Leads (.freeObject q) s (s.dev.takeHead s.now q (opIs 0x0C) fun d h => d.doFreeObject s.now h) := rfl
    rwa [Dev.takeHead_of_atHead hat _ _ _ (by simpa [opIs] using hat.2.2), Dev.doFreeObject_eq hname hb hast hlive] at hlead

end Sys2Proof.Machine
end

section
/-!
PROOFS. Requests at a stack and table walks (R171, R172, R174, R177), and the records of management commands (R333, R549).
-/

namespace Sys2Proof.Machine

/-! ### Requests -/

/-- A request that stands at its stack is taken. -/
theorem Dev.stackTakes_of_reaches {d : Dev} {i l : Nat} {r : Req} (h : Reaches d i r l) (now : Nat) {p : Acc → Bool}
    (hp : p r.acc = true) (ecc : Ecc) : d.stackTakes now i p ecc = (d.dropReq i).arrive now l r ecc := by
  obtain ⟨hreq, ⟨x, y, hdest⟩, hhop, htakes, hmove⟩ := h
  simp [Dev.stackTakes, hreq, hdest, hp, hhop, htakes, hmove]

/-- The five rows of requests differ in the access they take alone. -/
theorem request_leads {s : State} {c : Instr} {i l : Nat} {r : Req} {ecc : Ecc} (h : Reaches s.dev i r l)
    (hc : c = .stackRead i ecc ∧ r.acc = .read ∨ c = .stackWrite i ecc ∧ r.acc = .write ∨
      c = .stackMaskedWrite i ecc ∧ r.acc = .masked ∨ c = .stackAdd i ecc ∧ r.acc = .add ∨
      c = .fetchAndAdd i ecc ∧ r.acc = .fetchAdd) :
    Leads c s ((s.dev.dropReq i).arrive s.now l r ecc) ∧ (r.acc = .read ∨ r.acc ≠ .read ∧ r.acc.writes = true) := by
  have hlead : ∀ (c : Instr) (p : Acc → Bool), Leads c s (s.dev.stackTakes s.now i p ecc) → p r.acc = true →
      Leads c s ((s.dev.dropReq i).arrive s.now l r ecc) := fun c p hl hp => Dev.stackTakes_of_reaches h s.now hp ecc ▸ hl
  obtain ⟨rfl, ha⟩ | ⟨rfl, ha⟩ | ⟨rfl, ha⟩ | ⟨rfl, ha⟩ | ⟨rfl, ha⟩ := hc
  · exact ⟨hlead _ (· == .read) rfl (by simp [ha]), .inl ha⟩
  · exact ⟨hlead _ (· == .write) rfl (by simp [ha]), .inr (by simp [ha, Acc.writes])⟩
  · exact ⟨hlead _ (· == .masked) rfl (by simp [ha]), .inr (by simp [ha, Acc.writes])⟩
  · exact ⟨hlead _ (· == .add) rfl (by simp [ha]), .inr (by simp [ha, Acc.writes])⟩
  · exact ⟨hlead _ (· == .fetchAdd) rfl (by simp [ha]), .inr (by simp [ha, Acc.writes])⟩

/-- A request whose slot check fails. -/
theorem Dev.arrive_refused {d : Dev} {l code unit : Nat} {r : Req} (h : d.atSlot l r = .inr (code, unit)) (now : Nat) (ecc : Ecc) :
    d.arrive now l r ecc = d.stackHard (chanStack l) r code unit := by
  simp [Dev.arrive, h]

/-- A request that misses the translation cache waits for a walk. -/
theorem Dev.arrive_miss {d : Dev} {l : Nat} {r : Req} {w : Route} (h : d.atSlot l r = .inl w)
    (hmiss : entryAt (d.stack (chanStack l)).cache r.tags.ast r.va = none) (now : Nat) (ecc : Ecc) :
    d.arrive now l r ecc = (d.wrap (TRN_MISSES.MISSES (chanStack l)) 1).onStack (chanStack l) fun t => { t with
      walks := t.walks ++ [⟨r, now⟩] } := by
  simp [Dev.arrive, h, hmiss]

/-- A request that hits goes on with its entry. -/
theorem Dev.arrive_hit {d : Dev} {l k : Nat} {r : Req} {w : Route} {x : TEntry} (h : d.atSlot l r = .inl w)
    (hhit : entryAt (d.stack (chanStack l)).cache r.tags.ast r.va = some (k, x)) (now : Nat) (ecc : Ecc) :
    d.arrive now l r ecc = (d.wrap (TRN_HITS.HITS (chanStack l)) 1).resolve now l r w (some (k, x)) ecc := by
  simp [Dev.arrive, h, hhit]

/-- The hit counter shares no register with the slot map. -/
theorem Dev.physChan_hit (d : Dev) (s l k : Nat) : (d.wrap (TRN_HITS.HITS s) k).physChan l = d.physChan l := by
  unfold Dev.physChan
  rw [Dev.get_wrap_of_apart _ _ _ _ ?_]
  have hoff : STK_SLOT_MAP.off (l / 32) (l % 32) ≠ TRN_HITS.off s := by
    unfold STK_SLOT_MAP.off TRN_HITS.off
    omega
  simp [Fld.apart, STK_SLOT_MAP.PHYS, TRN_HITS.HITS, hoff]

theorem Dev.tracked_hit (d : Dev) (s l o k : Nat) : (d.wrap (TRN_HITS.HITS s) k).tracked l o = d.tracked l o := by
  unfold Dev.tracked
  dsimp only
  rw [Dev.physChan_hit]
  rfl

/-- What the checks on an entry make of a request. -/
theorem Dev.resolve_serve {d : Dev} {l o k : Nat} {r : Req} {w : Route} {x : TEntry}
    (h : d.entryVerdict r.tags r.acc l r.va w (some x) = .serve l o) (now : Nat) (ecc : Ecc) :
    d.resolve now l r w (some (k, x)) ecc = d.serveAt now l o r ecc := by
  simp [Dev.resolve, h]

theorem Dev.resolve_redirect {d : Dev} {l k p a : Nat} {r : Req} {w : Route} {x : TEntry}
    (h : d.entryVerdict r.tags r.acc l r.va w (some x) = .redirect p a) (now : Nat) (ecc : Ecc) :
    d.resolve now l r w (some (k, x)) ecc = d.answer r (.redirect p a) := by
  simp [Dev.resolve, h]

theorem Dev.resolve_hard {d : Dev} {l code : Nat} {r : Req} {w : Route} {x : Option (Nat × TEntry)}
    (h : d.entryVerdict r.tags r.acc l r.va w (x.map (·.2)) = .hard code) (now : Nat) (ecc : Ecc) :
    d.resolve now l r w x ecc = d.stackHard (chanStack l) r code := by
  simp [Dev.resolve, h]

theorem Dev.resolve_soft {d : Dev} {l k code : Nat} {r : Req} {w : Route} {x : TEntry}
    (h : d.entryVerdict r.tags r.acc l r.va w (some x) = .soft code) (now : Nat) (ecc : Ecc) :
    d.resolve now l r w (some (k, x)) ecc = d.softFault now (chanStack l) k x r code := by
  simp [Dev.resolve, h]

/-! ### Walks -/

/-- The slot check reads which asterisms a stack is closed to. -/
theorem Dev.atSlot_onStack (d : Dev) (st l : Nat) (r : Req) {f : Stack → Stack} (hf : ∀ t, (f t).closed = t.closed) :
    (d.onStack st f).atSlot l r = d.atSlot l r := by
  have hclosed : ∀ k, ((d.onStack st f).stack k).closed = (d.stack k).closed := by
    intro k
    by_cases hk : k = st
    · subst hk
      rw [Dev.stack_onStack_same, hf]
    · rw [Dev.stack_onStack_other _ _ _ _ hk]
  unfold Dev.atSlot Dev.slotOk
  simp only [hclosed]
  rfl

/-- The checks on an entry read which tags a stack purges. -/
theorem Dev.entryVerdict_onStack (d : Dev) (st : Nat) (t : Tags) (acc : Acc) (l va : Nat) (r : Route) (e : Option TEntry)
    {f : Stack → Stack} (hf : ∀ t, (f t).purge = t.purge) :
    (d.onStack st f).entryVerdict t acc l va r e = d.entryVerdict t acc l va r e := by
  have hpurge : ∀ k, ((d.onStack st f).stack k).purge = (d.stack k).purge := by
    intro k
    by_cases hk : k = st
    · subst hk
      rw [Dev.stack_onStack_same, hf]
    · rw [Dev.stack_onStack_other _ _ _ _ hk]
  unfold Dev.entryVerdict
  simp only [hpurge]
  rfl

/-- A walk under way that ends clean: the request goes on with the entry the table holds, which the cache keeps. -/
theorem Dev.walkDone_eq {d : Dev} {st i l : Nat} {w : Walk} {x : Route} (hw : (d.stack st).walks[i]? = some w) (hi : i < 64)
    (hingress : (d.stack st).ingress = true) (hdest : ∃ a b, w.req.dest = .chan l a b) (hslot : d.atSlot l w.req = .inl x)
    {e : Option (Nat × TEntry)} (he : entryAt (d.stack st).table w.req.tags.ast w.req.va = e) (now : Nat) :
    d.walkDone now st i .clean = Dev.resolve (match e with
      | some (k, y) => (d.onStack st fun t => { t with walks := dropAt t.walks i }).cacheEntry st k y
      | none => d.onStack st fun t => { t with walks := dropAt t.walks i }) now l w.req x e .clean := by
  obtain ⟨a, b, hdest⟩ := hdest
  have hslot' := (d.atSlot_onStack st l w.req (f := fun t => { t with walks := dropAt t.walks i }) fun _ => rfl).trans hslot
  have he' : entryAt ((d.onStack st fun t => { t with walks := dropAt t.walks i }).stack st).table w.req.tags.ast w.req.va = e := by
    rw [Dev.stack_onStack_same, ← he]
  unfold Dev.walkDone
  simp only [hw, hingress, hdest, Dev.walkEcc, hslot', he', Nat.not_le.2 hi]
  cases e <;> rfl

/-- Settles O16: a request by its slot check, the cache and its entry's verdict, and a walk by the table. -/
theorem requestsAndWalks : Obligations.RequestsAndWalks := by
  refine ⟨fun s c i l r ecc hreach hc => ?requests, fun s st i l w x hw hi hingress hdest hst hslot => ?walks⟩
  case requests =>
    intro d hit
    obtain ⟨hlead, hacc⟩ := request_leads hreach hc
    refine ⟨fun code unit hslot => ?_, fun w hslot => ⟨fun hmiss => ?_, fun k x hhit => ?_⟩⟩
    · rwa [Dev.arrive_refused (show (s.dev.dropReq i).atSlot l r = _ from hslot)] at hlead
    · rw [Dev.arrive_miss (show (s.dev.dropReq i).atSlot l r = _ from hslot) hmiss] at hlead
      refine ⟨_, hlead, ?_, ?_, rfl, fun j hj => ?_, fun _ => rfl, fun _ => rfl⟩
      · rw [Dev.stack_onStack_same]
        rfl
      · exact (Dev.get_congr rfl _).trans (Dev.get_wrap_same _ _ _ (by simp [TRN_MISSES.MISSES]))
      · exact Dev.stack_onStack_other _ _ _ _ hj
    · rw [Dev.arrive_hit (show (s.dev.dropReq i).atSlot l r = _ from hslot) hhit] at hlead
      refine ⟨fun o hv hread => ?_, fun o hv hread htracked => ?_, fun p a hv => ?_, fun code hv => ?_, fun code hv => ?_⟩
      · have hno : (r.acc.writes && hit.tracked l o) = false := by
          have htr : hit.tracked l o = s.dev.tracked l o := Dev.tracked_hit d (chanStack l) l o 1
          rcases hread with hr | hr
          · simp [hr, Acc.writes]
          · simp [htr, hr]
        rw [Dev.resolve_serve (d := hit) hv, Dev.serveAt, hno] at hlead
        exact hlead
      · have hyes : (r.acc.writes && hit.tracked l o) = true := by
          have htr : hit.tracked l o = s.dev.tracked l o := Dev.tracked_hit d (chanStack l) l o 1
          rw [htr, htracked, (hacc.resolve_left hread).2]
          rfl
        rw [Dev.resolve_serve (d := hit) hv, Dev.serveAt, hyes] at hlead
        exact hlead
      · rw [Dev.resolve_redirect (d := hit) hv] at hlead
        exact hlead
      · rw [Dev.resolve_hard (d := hit) (x := some (k, x)) hv] at hlead
        exact hlead
      · rw [Dev.resolve_soft (d := hit) hv] at hlead
        exact hlead
  case walks =>
    intro d
    have hlead : Leads (.walkComplete st i .clean) s (s.dev.walkDone s.now st i .clean) := rfl
    refine ⟨fun hnone => ?_, fun k y o hsome hlen hv hread => ?_⟩
    · rw [Dev.walkDone_eq hw hi hingress hdest hslot hnone, Dev.resolve_hard rfl, hst] at hlead
      exact hlead
    · have hcache : d.cacheEntry st k y = d.onStack st fun t => { t with cache := Tbl.put t.cache k y } := by
        refine if_pos ?_
        rw [Dev.stack_onStack_same]
        exact hlen
      have hv' : (d.cacheEntry st k y).entryVerdict w.req.tags w.req.acc l w.req.va x (some y) = .serve l o := by
        rw [hcache]
        refine (d.entryVerdict_onStack st _ _ _ _ _ _ ?_).trans ((s.dev.entryVerdict_onStack st _ _ _ _ _ _ ?_).trans hv)
        · exact fun _ => rfl
        · exact fun _ => rfl
      rw [Dev.walkDone_eq hw hi hingress hdest hslot hsome] at hlead
      refine ⟨?_, ?_⟩
      · rw [Dev.resolve_serve hv', Dev.serveAt, hread] at hlead
        exact hlead
      · rw [hcache, Dev.stack_onStack_same]
        exact Tbl.find_put_same _ _ _

/-! ### Records of management commands -/

/-- A management record written at the ring's tail, with the PHASE of its position; the tail is one further. -/
theorem Dev.mgtPut_law (d : Dev) (now : Nat) (r : CRec) :
    (d.mgtPut now r).get MGT_CQ_TAIL.TAIL = (d.get MGT_CQ_TAIL.TAIL + 1) % 2 ^ 32 ∧
      Tbl.find (d.mgtPut now r).hif.mcq (d.get MGT_CQ_TAIL.TAIL % 2 ^ d.mgtClog) =
        some { r with phase := phaseOf d.mgtClog (d.get MGT_CQ_TAIL.TAIL) } := by
  unfold Dev.mgtPut
  dsimp only
  have htail : ∀ e : Dev, (e.set MGT_CQ_TAIL.TAIL (d.get MGT_CQ_TAIL.TAIL + 1)).get MGT_CQ_TAIL.TAIL =
      (d.get MGT_CQ_TAIL.TAIL + 1) % 2 ^ 32 := fun e => Dev.get_set_same e _ _ (by decide)
  refine iteInduction (motive := fun e : Dev => e.get MGT_CQ_TAIL.TAIL = (d.get MGT_CQ_TAIL.TAIL + 1) % 2 ^ 32 ∧
    Tbl.find e.hif.mcq (d.get MGT_CQ_TAIL.TAIL % 2 ^ d.mgtClog) =
      some { r with phase := phaseOf d.mgtClog (d.get MGT_CQ_TAIL.TAIL) }) (fun _ => ⟨?_, Tbl.find_put_same _ _ _⟩)
    fun _ => ⟨htail _, Tbl.find_put_same _ _ _⟩
  exact (Dev.get_congr rfl _).trans (htail _)

/-- Settles O12: the record of a management command that completes, in the ring or back to its port. -/
theorem managementRecords : Obligations.ManagementRecords := by
  intro d now k m st r err hm e
  refine ⟨Reports.mgtDone .., mgtDone_gone .., fun hring hdead hheld hroom => ?_, fun p hport => ?_⟩
  · have he : e = (d.onHif fun h => { h with mgt := Tbl.del h.mgt k }).mgtPut now (m.record now st r err 3 0 0) := by
      have hheld' : (d.onHif fun h => { h with mgt := Tbl.del h.mgt k }).hif.mheld.isEmpty = true := by
        rw [show (d.onHif fun h => { h with mgt := Tbl.del h.mgt k }).hif.mheld = d.hif.mheld from rfl, hheld]
        rfl
      have hdead' : (d.onHif fun h => { h with mgt := Tbl.del h.mgt k }).mgtDead = false := hdead
      have hroom' : (d.onHif fun h => { h with mgt := Tbl.del h.mgt k }).mgtCqRoom = true := hroom
      simp only [e, Dev.mgtDone, hm, hring, Dev.mgtWrite, hdead', hheld', hroom', Bool.and_self, if_true, Bool.false_eq_true, if_false]
    obtain ⟨htail, hrec⟩ := Dev.mgtPut_law (d.onHif fun h => { h with mgt := Tbl.del h.mgt k }) now (m.record now st r err 3 0 0)
    rw [he]
    exact ⟨htail, _, hrec, rfl, rfl, rfl, rfl, rfl, rfl, rfl⟩
  · simp only [e, Dev.mgtDone, hm, hport]
    exact ⟨_, rfl, rfl, rfl, rfl, rfl⟩

end Sys2Proof.Machine
end

section
/-!
PROOFS. Management commands whose turn it is, and the mode commits.
-/

namespace Sys2Proof.Machine

/-! ### What a command leads to, rewritten -/

theorem leads_of_eq {c : Instr} {s : State} {d e : Dev} (h : Leads c s d) (hde : d = e) : Leads c s e := hde ▸ h

theorem answers_of_eq {c : Instr} {s : State} {d e : Dev} {P : Dev → Prop} (h : Leads c s d) (hde : d = e) (hp : P e) :
    Answers c s P := ⟨e, leads_of_eq h hde, hp⟩

/-! ### A management command that is begun -/

/-- A command whose turn it is runs, begun. -/
theorem Dev.mgtRun_of_turn {d : Dev} {k op : Nat} {m : Mgt} (h : Turn d k op m) (f : Dev → Mgt → Dev) :
    d.mgtRun k op f = f (begun d k) m := by
  obtain ⟨hm, hop, hstart, hwait⟩ := h
  simp [Dev.mgtRun, hm, hop, hstart, hwait, begun]

/-- A command that ends refused without an error code leaves records alone, and is gone from firmware's hands. -/
theorem reports_mgtDone_gone (d : Dev) (now k : Nat) (st : CStatus) (r : Reason) (err kind energy aux : Nat) :
    Reports d (d.mgtDone now k st r err kind energy aux) ∧
      Tbl.find (d.mgtDone now k st r err kind energy aux).hif.mgt k = none :=
  ⟨Reports.mgtDone .., mgtDone_gone ..⟩

/-! ### The staged copies become active -/

/-- The staged registers lie in 0x80100 to 0x80500, below their active copies. -/
theorem mem_classRegs_bounds {o : Nat} (h : o ∈ classRegs) : 0x80100 ≤ o ∧ o < 0x80500 := by
  simp only [classRegs, ADM_CLASS_TABLE.off, ADM_CLASS_PARAM_A.off, ADM_CLASS_PARAM_B.off, ADM_CLASS_PORT.off,
    List.mem_append, List.mem_map, List.mem_flatMap, List.mem_range, List.mem_cons, List.not_mem_nil, or_false] at h
  obtain (⟨l, hl, rfl⟩ | ⟨k, hk, rfl | rfl⟩) | ⟨q, hq, rfl⟩ := h <;> omega

/-- Copying registers to places outside those copied leaves the sources. -/
theorem Dev.reg_copies_other {δ : Nat} {p : Nat} (l : List Nat) (h : ∀ o ∈ l, p ≠ o + δ) (d : Dev) :
    (l.foldl (fun d o => d.setReg (o + δ) (d.reg o)) d).reg p = d.reg p := by
  induction l generalizing d with
  | nil => rfl
  | cons o l ih =>
    exact (ih (fun x hx => h x (List.mem_cons_of_mem _ hx)) _).trans
      (Dev.reg_setReg_other d _ _ _ (h o List.mem_cons_self))

/-- Each register of the list is copied, as 64 bits. -/
theorem Dev.reg_copies_same {δ p : Nat} (l : List Nat) (hp : p ∈ l) (hsrc : ∀ o ∈ l, p ≠ o + δ) (d : Dev) :
    (l.foldl (fun d o => d.setReg (o + δ) (d.reg o)) d).reg (p + δ) = d.reg p % 2 ^ 64 := by
  induction l generalizing d with
  | nil => cases hp
  | cons o l ih =>
    have hsrc' : ∀ x ∈ l, p ≠ x + δ := fun x hx => hsrc x (List.mem_cons_of_mem _ hx)
    by_cases hl : p ∈ l
    · refine (ih hl hsrc' _).trans (congrArg (· % 2 ^ 64) ?_)
      exact Dev.reg_setReg_other d _ _ _ (hsrc o List.mem_cons_self)
    · obtain rfl : p = o := (List.mem_cons.mp hp).resolve_right hl
      refine (Dev.reg_copies_other l (fun x hx h => hl ?_) _).trans (Dev.reg_setReg_same d _ _)
      rwa [Nat.add_right_cancel h]

/-- Fields of one place in registers that agree in 64 bits have one value. -/
theorem Dev.get_of_reg {d e : Dev} {f g : Fld} (hlo : f.lo = g.lo) (hw : f.w = g.w) (h64 : g.lo + g.w ≤ 64)
    (h : d.reg f.off = e.reg g.off % 2 ^ 64) : d.get f = e.get g := by
  unfold Dev.get bits
  rw [hlo, hw, h]
  apply Nat.eq_of_testBit_eq
  intro i
  simp only [Nat.testBit_mod_two_pow, Nat.testBit_div_two_pow]
  by_cases hi : i < g.w
  · simp [hi, show i + g.lo < 64 by omega]
  · simp [hi]

/-- A class register's active copy is the staged one, once the class table is adopted. -/
theorem Dev.get_adoptMode_class (d : Dev) {f g : Fld} (hg : g.off ∈ classRegs) (hoff : f.off = g.off + 0x400) (hlo : f.lo = g.lo)
    (hw : f.w = g.w) (h64 : g.lo + g.w ≤ 64) : (d.adoptMode none).get f = d.get g := by
  have hsrc : ∀ o ∈ classRegs, g.off ≠ o + 0x400 := fun o ho h => by
    have hlow := mem_classRegs_bounds ho
    have hhigh := mem_classRegs_bounds hg
    omega
  have hcopy := Dev.reg_copies_same (δ := 0x400) (p := g.off) classRegs hg hsrc d
  rw [← hoff] at hcopy
  exact Dev.get_of_reg hlo hw h64 hcopy

/-! ### Pauses -/

/-- A pause touches nothing but the asterisms' own state. -/
theorem Dev.pause_shape (d : Dev) (scope : Option Nat) (on : Bool) :
    ∃ asts, d.pause scope on = { d with comp := { d.comp with asts := asts } } := by
  cases scope <;> exact ⟨_, rfl⟩

/-- A unit that acknowledges is taken from those waited for. -/
theorem Dev.modeAck_of_left {d : Dev} {r : ModeRun} {u : Nat} (hr : d.comp.mode = some r) (hu : u ∈ r.wait)
    (hleft : r.wait.filter (· != u) ≠ []) (now : Nat) :
    d.modeAck now u = d.onComp fun c => { c with mode := some { r with wait := r.wait.filter (· != u) } } := by
  have hc : r.wait.contains u = true := by simpa using hu
  have hne : (r.wait.filter (· != u)).isEmpty = false := by simpa using hleft
  simp only [Dev.modeAck, hr, hc, hne, Bool.not_true, Bool.false_eq_true, if_false]

/-- The last acknowledgement makes the staged copies active. -/
theorem Dev.modeAck_of_last {d : Dev} {r : ModeRun} {u : Nat} (hr : d.comp.mode = some r) (hw : r.wait = [u]) (now : Nat) :
    d.modeAck now u =
      ((((d.adoptMode r.scope).onComp fun c => { c with mode := none }).pause r.scope false).mgtDone now r.cmd .completed).after
        now := by
  simp [Dev.modeAck, hr, hw]

/-- Settles O15: a commit of one asterism's slice or of the class table, its acknowledgements, and its roll-back. -/
theorem modesCommit : Obligations.ModesCommit := by
  intro s k m
  refine ⟨fun ht a ha hfree => ?slice, fun ht ha => ⟨fun hbad => ?bad, fun hgood => ?table⟩, fun r u hr hu hleft => ?ack,
    fun r u hr hw => ?last, fun d a => ⟨?_, fun l hl => ?_, fun c hc => ?_⟩, fun r hr => ⟨fun hnow => ?early, fun hnow => ?late⟩⟩
  case slice =>
    refine ⟨_, rfl, ?_⟩
    dsimp only
    rw [Dev.mgtRun_of_turn ht]
    have hfree' : (begun s.dev k).lockedFn a = none := hfree
    simp only [Dev.commitMode, ha, Option.bind_some, hfree', Option.isNone_some, Bool.false_eq_true, false_and, if_false]
    exact ⟨rfl, by simp [Dev.pause], rfl, rfl⟩
  case bad =>
    refine ⟨_, rfl, ?_⟩
    have hbad' : (begun s.dev k).classBad = true := hbad
    simp only [Dev.mgtRun_of_turn ht, Dev.commitMode, ha, Option.bind_none, Option.isNone_none, hbad', true_and, if_true]
    exact reports_mgtDone_gone ..
  case table =>
    refine ⟨_, rfl, ?_⟩
    have hgood' : (begun s.dev k).classBad = false := hgood
    simp only [Dev.mgtRun_of_turn ht, Dev.commitMode, ha, Option.bind_none, Option.isNone_none, hgood', Bool.false_eq_true,
      and_false, if_false]
    refine ⟨_, rfl, rfl, rfl, rfl, rfl, rfl, fun x hx => ?_⟩
    obtain ⟨y, -, rfl⟩ := List.mem_map.mp hx
    rfl
  case ack => exact answers_of_eq rfl (Dev.modeAck_of_left hr hu hleft s.now) ⟨rfl, rfl⟩
  case last => exact leads_of_eq rfl (Dev.modeAck_of_last hr hw s.now)
  · exact Dev.get_of_reg rfl rfl (by simp [CMP_AST_MODE_S.TSLICE_US]) (Dev.reg_setReg_same d _ _)
  · refine Dev.get_adoptMode_class d ?_ ?_ rfl rfl (by simp [ADM_CLASS_TABLE.CLASS])
    · simp only [classRegs, List.mem_append, List.mem_map, List.mem_range]
      exact .inl (.inl ⟨l, hl, rfl⟩)
    · simp only [ADM_CLASS_TABLE_ACT.CLASS, ADM_CLASS_TABLE.CLASS, ADM_CLASS_TABLE_ACT.off, ADM_CLASS_TABLE.off]
      omega
  · refine Dev.get_adoptMode_class d ?_ ?_ rfl rfl (by simp [ADM_CLASS_PARAM_A.TARGET])
    · simp only [classRegs, List.mem_append, List.mem_flatMap, List.mem_range]
      exact .inl (.inr ⟨c, hc, List.mem_cons_self⟩)
    · simp only [ADM_CLASS_PARAM_A_ACT.TARGET, ADM_CLASS_PARAM_A.TARGET, ADM_CLASS_PARAM_A_ACT.off, ADM_CLASS_PARAM_A.off]
      omega
  case early =>
    have : s.dev.modeRollback s.now = s.dev := by simp only [Dev.modeRollback, hr, hnow, if_true]
    exact leads_of_eq rfl this
  case late =>
    refine leads_of_eq rfl ?_
    have hep : ∀ d : Dev, (d.pause r.scope false).comp.modeEpoch = d.comp.modeEpoch := fun d => by
      obtain ⟨asts, h⟩ := d.pause_shape r.scope false
      rw [h]
    simp only [Dev.modeRollback, hr, Nat.not_lt.mpr hnow, if_false, hep]
    rfl

end Sys2Proof.Machine
end

section
/-!
PROOFS. BIND and UNBIND: what is refused, and what is staged.
-/

namespace Sys2Proof.Machine

/-- Management command `k` has ended with records and nothing else. -/
def EndedBy (d e : Dev) (k : Nat) : Prop := Reports d e ∧ Tbl.find e.hif.mgt k = none

theorem EndedBy.mgtDone (d : Dev) (now k : Nat) (st : CStatus) (r : Reason) (err kind energy aux : Nat) :
    EndedBy d (d.mgtDone now k st r err kind energy aux) k := ⟨Reports.mgtDone .., mgtDone_gone ..⟩

theorem EndedBy.mgtRefuse (d : Dev) (now k err : Nat) (l : List Nat) (r : Reason) (who : Option (Nat × Nat)) :
    EndedBy d (d.mgtRefuse now k err l r who) k := ⟨Reports.mgtRefuse .., mgtRefuse_gone ..⟩

/-! ### Refusals -/

/-- A header or an entry that a check refuses leaves records only, at whichever check the command ends. -/
theorem Dev.compose_entryBad {d : Dev} {x : Mgt} {unbind : Bool} {f : Nat × Nat}
    (hbad : firstEntry (entryBad unbind) x.entries = some f) (now k : Nat) : EndedBy d (d.compose now k x unbind) k := by
  unfold Dev.compose
  dsimp only
  refine iteInduction (motive := fun e => EndedBy d e k) (fun _ => .mgtRefuse ..) fun _ => ?_
  generalize (if cApply x.slot then d.lockedFn (fld x.slot 0x10 0 6) else none) = locked
  cases locked with
  | some f => exact .mgtRefuse ..
  | none =>
    dsimp only
    cases firstEntry (entryDirty unbind) x.entries with
    | some g => exact .mgtRefuse ..
    | none =>
      rw [hbad]
      exact .mgtRefuse ..

/-- A delta that applies to the staged map and fails check 4 leaves records only. -/
theorem Dev.compose_check4 {d : Dev} {x : Mgt} {p : CMap} (hcreate : cCreate x.slot = false) (hhome : cSetHome x.slot = false)
    (happly : applyAll (d.bindEntry (fld x.slot 0x10 0 6)) x.entries (d.ast (fld x.slot 0x10 0 6)).staged = .inr p)
    (hcheck : (d.check4 (fld x.slot 0x10 0 6) p).isSome) (now k : Nat) : EndedBy d (d.compose now k x false) k := by
  obtain ⟨det, hdet⟩ := Option.isSome_iff_exists.mp hcheck
  cases hbad : firstEntry (entryBad false) x.entries with
  | some f => exact Dev.compose_entryBad hbad now k
  | none =>
    unfold Dev.compose
    simp only [hcreate, hhome, Bool.not_false, Bool.and_false, Bool.false_eq_true, false_and, if_false, happly, hdet, hbad]
    refine iteInduction (motive := fun e => EndedBy d e k) (fun _ => .mgtRefuse ..) fun _ => ?_
    generalize (if cApply x.slot = true then d.lockedFn (fld x.slot 0x10 0 6) else none) = locked
    cases locked with
    | some f => exact .mgtRefuse ..
    | none =>
      dsimp only
      cases firstEntry (entryDirty false) x.entries <;> exact .mgtRefuse ..

/-! ### What passes is staged -/

/-- The map a BIND or UNBIND starts from. -/
def Dev.mapBefore (d : Dev) (x : Line) (unbind : Bool) : CMap :=
  let st := if !unbind && cCreate x then CMap.empty (cDom x) (cHome x) else (d.ast (fld x 0x10 0 6)).staged
  if cSetHome x then { st with home := cHome x } else st

/-- A command that passes every check stages its map. -/
theorem Dev.compose_staged {d : Dev} {x : Mgt} {unbind : Bool} {p : CMap}
    (hclean : composeClean unbind x.slot (d.ast (fld x.slot 0x10 0 6)).state = true)
    (hbusy : (!unbind && cCreate x.slot) = true → d.lcBusy = false)
    (hlock : cApply x.slot = true → d.lockedFn (fld x.slot 0x10 0 6) = none)
    (hdirty : firstEntry (entryDirty unbind) x.entries = none) (hbad : firstEntry (entryBad unbind) x.entries = none)
    (hpol : (!unbind && cCreate x.slot) = true →
      d.flag (LCS_POLICY_DOM_A.EN (cDom x.slot)) = true ∧ d.lcs.state ≠ 0 ∧ d.lcs.state ≠ 3)
    (happly : applyAll (if unbind then d.unbindEntry (fld x.slot 0x10 0 6) else d.bindEntry (fld x.slot 0x10 0 6)) x.entries
      (d.mapBefore x.slot unbind) = .inr p)
    (hmap : d.check4 (fld x.slot 0x10 0 6) p = none)
    (hdis : ¬((unbind && cCreate x.slot) = true ∧ (d.ast (fld x.slot 0x10 0 6)).state = .composing))
    (hchecks : cApply x.slot = true → d.applyChecks now (fld x.slot 0x10 0 6) p x (unbind && cCreate x.slot) = none) (k : Nat) :
    d.compose now k x unbind = (if !unbind && cCreate x.slot then d.astCreate (fld x.slot 0x10 0 6) else d).stage now k
      (fld x.slot 0x10 0 6) p x.slot (unbind && cCreate x.slot) := by
  have hbusy' : ((!unbind && cCreate x.slot) && d.lcBusy) = false := by
    cases hc : (!unbind && cCreate x.slot) with
    | false => rfl
    | true => simpa using hbusy hc
  have hlock' : (if cApply x.slot then d.lockedFn (fld x.slot 0x10 0 6) else none) = none := by
    split_ifs with h
    · exact hlock h
    · rfl
  have hpol' : ¬((!unbind && cCreate x.slot) = true ∧
      ((!d.flag (LCS_POLICY_DOM_A.EN (cDom x.slot))) = true ∨ d.lcs.state = 0 ∨ d.lcs.state = 3)) := by
    rintro ⟨hc, h⟩
    obtain ⟨hen, h0, h3⟩ := hpol hc
    simp [hen, h0, h3] at h
  have hchecks' : (if cApply x.slot then d.applyChecks now (fld x.slot 0x10 0 6) p x (unbind && cCreate x.slot) else none) =
      none := by
    split_ifs with h
    · exact hchecks h
    · rfl
  unfold Dev.mapBefore at happly
  unfold Dev.compose
  dsimp only at happly ⊢
  rw [if_neg (by simp [hclean, hbusy']), hlock']
  dsimp only
  rw [hdirty]
  dsimp only
  rw [hbad]
  dsimp only
  rw [if_neg hpol', happly]
  dsimp only
  rw [hmap]
  dsimp only
  rw [if_neg hdis, hchecks']

/-- What staging a map sets: the map itself, and the publication that waits or the command's end. -/
theorem Dev.stage_law (d : Dev) (now k a : Nat) (p : CMap) (x : Line) (dissolve : Bool) :
    (d.stage now k a p x dissolve).ast a = { d.ast a with staged := p } ∧
    (∀ c, c ≠ a → (d.stage now k a p x dissolve).ast c = d.ast c) ∧ (d.stage now k a p x dissolve).core = d.core ∧
    (cApply x = true → (d.stage now k a p x dissolve).comp.waiting = d.comp.waiting ++
      [{ ast := a, edit := none, map := p, dissolve := dissolve, shed := cShed x, cmd := some k }] ∧
      (d.stage now k a p x dissolve).hif = d.hif) ∧
    (cApply x = false → (d.stage now k a p x dissolve).comp.waiting = d.comp.waiting ∧
      Tbl.find (d.stage now k a p x dissolve).hif.mgt k = none) := by
  have hsame : (d.onAst a fun s => { s with staged := p }).ast a = { d.ast a with staged := p } := Dev.ast_onAst_same d a _
  have hother : ∀ c, c ≠ a → (d.onAst a fun s => { s with staged := p }).ast c = d.ast c :=
    fun c hc => Dev.ast_onAst_other d a c _ hc
  unfold Dev.stage
  by_cases happ : cApply x = true
  · simp only [happ, if_true]
    exact ⟨hsame, hother, rfl, fun _ => ⟨rfl, rfl⟩, nofun⟩
  · simp only [happ, Bool.false_eq_true, if_false, mgtDone_ast, mgtDone_core, mgtDone_comp]
    exact ⟨hsame, hother, rfl, nofun, fun _ => ⟨rfl, mgtDone_gone ..⟩⟩

/-- An asterism that leaves FREE: its state alone, besides its registers. -/
theorem Dev.astCreate_shape (d : Dev) (a : Nat) :
    ∃ regs, d.astCreate a = { d.onAst a fun _ => { Ast.reset with state := .composing } with regs := regs } := by
  unfold Dev.astCreate
  dsimp only
  generalize d.onAst a (fun _ => { Ast.reset with state := .composing }) = e
  induction admRegs a generalizing e with
  | nil => exact ⟨_, rfl⟩
  | cons o l ih =>
    obtain ⟨regs, h⟩ := ih { e with regs := Tbl.del e.regs o }
    exact ⟨regs, h⟩

/-- A command that is begun stands in firmware's hands still. -/
theorem begun_isSome {d : Dev} {k op : Nat} {m : Mgt} (h : Turn d k op m) : (Tbl.find (begun d k).hif.mgt k).isSome := by
  obtain ⟨hm, -⟩ := h
  simp [begun, Dev.onHif, hm]

/-- Settles O13: what BIND and UNBIND stage, and their refusals. -/
theorem compositionIsStaged : Obligations.CompositionIsStaged := by
  intro s k m x a b
  refine ⟨fun ht => ⟨fun p hclean hbusy hlock hdirty hbad hpol happly hmap hchecks => ?bind, fun d hd => ?bindBad⟩,
    fun ht => ⟨fun p hclean hlock hdirty hbad happly hmap hdis hchecks => ?unbind, fun d hd => ?unbindBad⟩⟩
  case bind =>
    have hrun : (s.dev.mgtRun k 0x80 fun d x => d.compose s.now k x false) =
        (if cCreate x then b.astCreate a else b).stage s.now k a p x false :=
      (Dev.mgtRun_of_turn ht _).trans
        (Dev.compose_staged hclean (fun _ => hbusy) hlock hdirty hbad hpol happly hmap (fun h => nomatch h.1) hchecks k)
    refine answers_of_eq rfl hrun ?_
    obtain ⟨hsame, hother, hcore, hwaits, hdone⟩ :=
      (if cCreate x then b.astCreate a else b).stage_law s.now k a p x false
    have hstart : ((if cCreate x then b.astCreate a else b).comp.waiting = s.dev.comp.waiting) ∧
        ((if cCreate x then b.astCreate a else b).core = s.dev.core) ∧ ((if cCreate x then b.astCreate a else b).hif = b.hif) ∧
        (∀ c, c ≠ a → (if cCreate x then b.astCreate a else b).ast c = s.dev.ast c) ∧
        (cCreate x = true → (if cCreate x then b.astCreate a else b).ast a = { Ast.reset with state := .composing }) := by
      obtain ⟨regs, hshape⟩ := b.astCreate_shape a
      by_cases hc : cCreate x = true
      · rw [if_pos hc, hshape]
        exact ⟨rfl, rfl, rfl, fun c hne => Dev.ast_onAst_other b a c _ hne, fun _ => Dev.ast_onAst_same b a _⟩
      · rw [if_neg hc]
        exact ⟨rfl, rfl, rfl, fun _ _ => rfl, fun h => absurd h hc⟩
    obtain ⟨hw, hk, hh, ho, hs⟩ := hstart
    refine ⟨by rw [hsame], fun c hc => (hother c hc).trans (ho c hc), fun hc => ?_, hcore.trans hk, fun happ => ?_, fun happ => ?_⟩
    · rw [hsame, hs hc]
      exact ⟨rfl, rfl⟩
    · obtain ⟨h1, h2⟩ := hwaits happ
      exact ⟨h1.trans (by rw [hw]), by rw [h2, hh]; exact begun_isSome ht⟩
    · obtain ⟨h1, h2⟩ := hdone happ
      exact ⟨h1.trans hw, h2⟩
  case bindBad =>
    refine answers_of_eq rfl (Dev.mgtRun_of_turn ht _) ?_
    obtain hbad | ⟨p, happly, hcreate, hhome, hcheck⟩ := hd
    · exact Dev.compose_entryBad hbad _ _
    · exact Dev.compose_check4 hcreate hhome happly hcheck _ _
  case unbind =>
    have hrun : (s.dev.mgtRun k 0x81 fun d x => d.compose s.now k x true) = b.stage s.now k a p x (cCreate x) :=
      (Dev.mgtRun_of_turn ht _).trans
        (Dev.compose_staged hclean nofun hlock hdirty hbad nofun happly hmap hdis hchecks k)
    refine answers_of_eq rfl hrun ?_
    obtain ⟨hsame, hother, hcore, hwaits, hdone⟩ := b.stage_law s.now k a p x (cCreate x)
    have hcur : (b.ast a).cur = (s.dev.ast a).cur := rfl
    refine ⟨by rw [hsame], hother, by rw [hsame]; exact hcur, hcore, fun happ => ?_, hdone⟩
    obtain ⟨h1, h2⟩ := hwaits happ
    exact ⟨h1, by rw [h2]; exact begun_isSome ht⟩
  case unbindBad => exact answers_of_eq rfl (Dev.mgtRun_of_turn ht _) (Dev.compose_entryBad hd _ _)

end Sys2Proof.Machine
end

section
/-!
PROOFS. The invalidation of an UNMAP or INVALIDATE: a state in which an older one has its number.
-/

namespace Sys2Proof.Machine

/-! ### Invalidations through what follows a head -/

theorem Dev.invals_of_beside {d e : Dev} (h : e.beside = d.beside) : e.net.invals = d.net.invals := by
  simp only [Dev.beside, Prod.mk.injEq] at h
  obtain ⟨-, -, -, -, -, -, -, -, -, -, -, -, -, hnet, -⟩ := h
  have hinv := congrArg Network.invals hnet
  exact hinv

theorem Dev.invals_pop (d : Dev) (h : Head) : (d.pop h).net.invals = d.net.invals := by
  unfold Dev.pop
  dsimp only
  split_ifs
  · rfl
  · split <;> rfl

theorem Dev.beside_endFetched (d : Dev) (now q : Nat) (f : Fetched) (st : CStatus) (r : Reason) (err aux : Nat) :
    (d.endFetched now q f st r err aux).beside = d.beside := by
  unfold Dev.endFetched
  split
  · rfl
  · dsimp only
    split <;> simp

theorem Dev.invals_reject (d : Dev) (now : Nat) (h : Head) (st : CStatus) (r : Reason) (err : Nat)
    (rec_ : Option (Sev × List Nat)) : (d.reject now h st r err rec_).net.invals = d.net.invals := by
  unfold Dev.reject
  dsimp only
  rw [Dev.invals_of_beside (Dev.beside_endFetched ..), Dev.invals_pop]
  cases rec_ <;> rfl

theorem Dev.invals_settleHead (now q n : Nat) (d : Dev) : (Dev.settleHead now q n d).net.invals = d.net.invals := by
  induction n generalizing d with
  | zero => rfl
  | succ n ih =>
    unfold Dev.settleHead
    split
    · rfl
    · split
      · rw [ih, Dev.invals_reject]
      · rfl

theorem Dev.invals_sendArrivals (d : Dev) : d.sendArrivals.net.invals = d.net.invals := by
  unfold Dev.sendArrivals
  refine foldl_keeps (fun e : Dev => e.net.invals = d.net.invals) _ (fun e b he => ?_) _ _ rfl
  exact he

@[simp] theorem Dev.net_returnLeave (d : Dev) (dp p : Nat) (b : Option Nat) : (d.returnLeave dp p b).net = d.net := by
  unfold Dev.returnLeave
  cases b <;> rfl

theorem Dev.invals_dropLeave (d : Dev) : d.dropLeave.net.invals = d.net.invals := by
  unfold Dev.dropLeave
  dsimp only
  refine foldl_keeps (fun e : Dev => e.net.invals = d.net.invals) _
    (fun e g he => (congrArg (·.invals) (Dev.net_returnLeave e g.dp g.p g.booking)).trans he) _ _ ?_
  refine foldl_keeps (fun e : Dev => e.net.invals = d.net.invals) _ (fun e x he => ?_) _ _ rfl
  split
  · exact iteInduction (motive := fun f : Dev => f.net.invals = d.net.invals) (fun _ => he) fun _ =>
      (congrArg (·.invals) (Dev.net_returnLeave e ..)).trans he
  · exact he

/-- What follows a command that left the head of a queue leaves the invalidations. -/
theorem Dev.invals_afterHead (d : Dev) (now q : Nat) : (d.afterHead now q).net.invals = d.net.invals := by
  unfold Dev.afterHead Dev.after
  rw [Dev.invals_dropLeave, Dev.invals_sendArrivals, Dev.invals_of_beside (Dev.beside_advance ..), Dev.invals_settleHead]

/-! ### The state -/

/-- An INVALIDATE of context 0 on stack 0: SCOPE 1. -/
def tagInval : Fetched := { pos := 0, index := 0, call := none, slot := BitVec.ofNat 512 (0x0F + 2 ^ 224 + 2 ^ 256) }

/-- A resident queue of context 1 with that INVALIDATE at its head. -/
def invalQueue : Queue where
  ctx := 1
  fn := 1
  dbidx := 0
  log2n := 4
  clog2n := 4
  vector := 0
  ring := 0
  cq := 0
  tail := 1
  head := 1
  cqHead := 0
  cqTail := 0
  fetched := [tagInval]
  held := []
  mapTag := none
  resident := true
  resAt := 0
  lastIntr := none
  cqEpisode := false

/-- The queue, and an invalidation that waits for no stack and has the number the next one takes. -/
def staleDev : Dev := { Dev.reset with
  hif := { Hif.reset with ctxs := [(1, oneCtx)], queues := [(0, invalQueue)] }
  net := { Network.reset with
    invals := [{ id := 0, ast := 0, ctx := none, lo := 0, hi := 0, wait := [], at_ := 0, cmd := none, doorbell := false
                 late := [] }]
    invId := 0 } }

/-- The head of that queue. -/
def invalHead : Head := ⟨0, invalQueue, oneCtx, tagInval⟩

theorem invalidate_leads (s : State) (q : Nat) :
    Leads (.invalidate q) s (s.dev.takeHead s.now q (opIs 0x0F) fun d h => d.doInvalidate s.now h) := rfl

/-- Refutes O11: where an older invalidation that waits for no stack has the new one's number, the INVALIDATE ends with it, and
neither is left. -/
theorem not_tablesAndInvalidation : ¬ Obligations.TablesAndInvalidation := by
  intro h
  obtain ⟨-, -, hinval⟩ := h.1 ⟨[], 0, staleDev⟩ 0 invalHead (by decide +kernel)
  obtain ⟨e, hlead, v, hnew, -⟩ := hinval ⟨by decide +kernel, by decide +kernel, by decide +kernel⟩ (by decide +kernel) (by decide +kernel) (by decide +kernel)
    (by decide +kernel)
  have he : e.afterHead 0 0 = staleDev.takeHead 0 0 (opIs 0x0F) fun d h => d.doInvalidate 0 h :=
    leads_unique (invalidate_leads ⟨[], 0, staleDev⟩ 0) hlead
  have hnone : (staleDev.takeHead 0 0 (opIs 0x0F) fun d h => d.doInvalidate 0 h).net.invals = [] := by decide +kernel
  rw [← he, Dev.invals_afterHead, hnew] at hnone
  exact absurd hnone (by simp)

end Sys2Proof.Machine
end

section
/-!
PROOFS. Admission of work: TILE, XFER and SWEEP, best-effort and guaranteed.
-/

namespace Sys2Proof.Machine

/-! ### Acceptance -/

/-- A command accepted stands in flight under the next identifier. -/
theorem Dev.find_accept (d : Dev) (h : Head) (m : Cmd) : Tbl.find (d.accept h m).1.hif.cmds d.hif.nextCmd =
    some { m with barrier := d.barrierOf h, lent := d.loanFor h.q h.queue.ctx } := by
  obtain ⟨objs, hhif⟩ := d.hif_accept h m
  rw [hhif]
  exact Tbl.find_put_same _ _ _

/-- Best-effort work is accepted as it is. -/
theorem Dev.admitWork_bestEffort {d : Dev} {m : Cmd} (h : d.guaranteed m.cls (hOp m.slot) = false) (now : Nat) (hd : Head)
    (bound : Dev → Option Nat) : d.admitWork now hd m bound = (d.accept hd m).1 := by
  simp [Dev.admitWork, h]

/-! ### What each command of work is admitted as -/

/-- The command that a TILE stands as. -/
def Dev.tileWork (d : Dev) (now : Nat) (h : Head) (hd : Line) (st : List StepWord) : Cmd :=
  { d.workCmd now h (tCount h.f.slot) (pCost hd * h.ctx.infl) (tCount h.f.slot * pEnergy hd * 125) with
    objs := [tObj h.f.slot], hdr := hd, prog := st }

/-- The command that an XFER stands as. -/
def Dev.xferWork (d : Dev) (now : Nat) (h : Head) (src dst : Desc) : Cmd :=
  { d.workCmd now h (ceilDiv src.total segBytes) (16000 * 64) (ceilDiv (src.total * 12) 100) with
    objs := [tObj h.f.slot], segs := some { src := src, dst := dst, lo := 0, hi := src.total, mode := xMode h.f.slot } }

/-- The command that a SWEEP stands as. -/
def Dev.sweepWorkCmd (d : Dev) (now : Nat) (h : Head) : Cmd :=
  let x := h.f.slot
  let ss := d.stacksOf h.ctx.ast
  let m := d.workCmd now h 0 0 (250 * 16 * wMaxBlk x * ss.length)
  { m with resv := { m.resv with
      sweep := ss.map fun s => (s, sweepWork x h.ctx.infl (d.rate h.ctx.ast m.cls)), blocks := 16 * wMaxBlk x } }

theorem Dev.doTile_admits {d : Dev} {h : Head} {b : Obj} {hd : Line} {st : List StepWord}
    (hcheck : d.tileCheck1 h.ctx.ast h.f.slot = true) (hname : d.nameCompletion h.ctx.ast h.f.slot = .fine)
    (hobj : d.nameObj h.ctx.ast (tObj h.f.slot) = .fine) (hb : Tbl.find d.hif.objs (tObj h.f.slot) = some b)
    (hprog : d.readProgram (d.headTags h) b (tOff h.f.slot) = .ok hd st) (now : Nat) :
    d.doTile now h = d.admitWork now h (d.tileWork now h hd st) fun e => e.chooseBound now (d.tileWork now h hd st) := by
  simp only [Dev.doTile, hcheck, Bool.not_true, Bool.false_eq_true, if_false, hobj, hb, hprog, hname, firstNamed, Dev.named]
  rfl

theorem Dev.doXfer_admits {d : Dev} {h : Head} {b : Obj} {src dst : Desc} {l1 l2 : List Byte} (hclean : xClean h.f.slot = true)
    (hoff : tOff h.f.slot % 64 = 0) (hdst : xDst h.f.slot % 64 = 0) (hcores : d.coresIn h.ctx.ast (xDpMask h.f.slot) ≠ [])
    (hname : d.nameCompletion h.ctx.ast h.f.slot = .fine) (hobj : d.nameObj h.ctx.ast (tObj h.f.slot) = .fine)
    (hb : Tbl.find d.hif.objs (tObj h.f.slot) = some b) (hsize1 : tOff h.f.slot + 64 ≤ b.size)
    (hsize2 : xDst h.f.slot + 64 ≤ b.size) (hl1 : d.peekBytes (d.headTags h) (b.va + tOff h.f.slot) 64 = .inr l1)
    (hl2 : d.peekBytes (d.headTags h) (b.va + xDst h.f.slot) 64 = .inr l2)
    (hsrc : d.xferDesc h.ctx.ast b (tOff h.f.slot) 0 false (BitVec.ofNat 512 (ofBytes l1)) = .inr src)
    (htgt : d.xferDesc h.ctx.ast b (xDst h.f.slot) (xMode h.f.slot) true (BitVec.ofNat 512 (ofBytes l2)) = .inr dst)
    (htotal : src.total = dst.total) (now : Nat) :
    d.doXfer now h = d.admitWork now h (d.xferWork now h src dst) fun e => e.chooseBound now (d.xferWork now h src dst) := by
  have hcores' : (d.coresIn h.ctx.ast (xDpMask h.f.slot)).isEmpty = false := by simpa using hcores
  unfold Dev.doXfer
  dsimp only
  rw [if_neg (by simp [hclean, hoff, hdst, hcores'])]
  simp only [hobj, hb, Nat.not_lt.mpr hsize1, Nat.not_lt.mpr hsize2, if_false, hl1, hl2, hsrc, htgt, htotal, ne_eq,
    not_true_eq_false, hname, firstNamed, Dev.named, Dev.xferWork]

theorem Dev.doSweep_admits {d : Dev} {h : Head} {now : Nat} (hcheck : d.sweepCheck h.ctx.ast h.f.slot = none)
    (hname : d.nameCompletion h.ctx.ast h.f.slot = .fine)
    (hbest : d.guaranteed (d.newCmd now h).cls (hOp h.f.slot) = false) :
    d.doSweep now h = { (d.accept h (d.sweepWorkCmd now h)).1 with
      sweeps := Tbl.put (d.accept h (d.sweepWorkCmd now h)).1.sweeps d.hif.nextCmd (d.sweepJob h d.hif.nextCmd) } := by
  have hstart : d.doSweep now h =
      (let e := d.admitWork now h (d.sweepWorkCmd now h) fun e => e.sweepBound now (d.sweepWorkCmd now h)
       if (Tbl.find e.hif.cmds d.hif.nextCmd).isSome then
         { e with sweeps := Tbl.put e.sweeps d.hif.nextCmd (d.sweepJob h d.hif.nextCmd) }
       else e) := by
    simp only [Dev.doSweep, hcheck, hname, Dev.named]
    rfl
  rw [hstart, Dev.admitWork_bestEffort (m := d.sweepWorkCmd now h) hbest]
  exact if_pos (by rw [Dev.find_accept]; rfl)

/-- Guaranteed work that passes its steps is accepted with its bound. -/
theorem Dev.admitWork_guaranteed {d : Dev} {h : Head} {m : Cmd} {bound : Dev → Option Nat} {b : Nat}
    (hguar : d.guaranteed m.cls (hOp m.slot) = true)
    (hsteps : d.earlySteps h { m with guar := true, resv := { m.resv with credits := (List.range 4).map (d.lp m.ast) } } = none)
    (hbound : bound d = some b) (henergy : d.energyOk (ceilDiv m.resv.energy b) = true) (now : Nat) :
    d.admitWork now h m bound = ((d.accept h { m with
      guar := true, boundUs := b, deadline := now + b * 1000, inBook := true
      resv := { m.resv with
        credits := (List.range 4).map (d.lp m.ast), power := ceilDiv m.resv.energy b } }).1).wrap
          (ADM_AST_BOOK1.ACCEPTED m.ast) 1 := by
  simp [Dev.admitWork, hguar, hsteps, hbound, henergy]

/-- Guaranteed work that fails a step is refused, and counted. -/
theorem Dev.admitWork_refused {d : Dev} {h : Head} {m : Cmd} {r : Reason} {err : Nat}
    (hguar : d.guaranteed m.cls (hOp m.slot) = true)
    (hsteps : d.earlySteps h { m with guar := true, resv := { m.resv with credits := (List.range 4).map (d.lp m.ast) } } =
      some (r, err)) (now : Nat) (bound : Dev → Option Nat) :
    d.admitWork now h m bound = (d.wrap (ADM_AST_BOOK2.REFUSED h.ctx.ast) 1).reject now h .refused r err none := by
  simp [Dev.admitWork, hguar, hsteps, Dev.refuse]

/-- Settles O6: what best-effort and guaranteed work stands as once it is admitted, and what is refused. -/
theorem admissionDecides : Obligations.AdmissionDecides := by
  refine ⟨fun s q h => ⟨fun b hd st hat hcheck hname hobj hb hprog hbest => ?tile,
    fun c src dst b l1 l2 hc hat hclean hoff hdst hcores hname hobj hb hsize1 hsize2 hl1 hl2 hsrc htgt htotal hbest => ?xfer,
    fun hat hcheck hname hbest => ?sweep⟩,
    fun d now h m bound b hguar hobjs => ⟨fun hsteps hbound henergy => ?accepted, fun r err hsteps => ?refused⟩⟩
  case tile =>
    have hop : hOp h.f.slot = 1 := hat.2.2
    have hlead : Leads (.tile q) s (s.dev.takeHead s.now q (opIs 0x01) fun d h => d.doTile s.now h) := rfl
    have hbest' : s.dev.guaranteed (s.dev.tileWork s.now h hd st).cls (hOp (s.dev.tileWork s.now h hd st).slot) = false := by
      rw [← hop] at hbest
      exact hbest
    rw [Dev.takeHead_of_atHead hat _ _ _ (by simpa [opIs] using hop), Dev.doTile_admits hcheck hname hobj hb hprog,
      Dev.admitWork_bestEffort hbest'] at hlead
    exact ⟨_, hlead, _, Dev.find_accept .., rfl, rfl, rfl, rfl, rfl, rfl⟩
  case xfer =>
    have hop : hOp h.f.slot = 2 := hat.2.2
    have hbest' : s.dev.guaranteed (s.dev.xferWork s.now h src dst).cls (hOp (s.dev.xferWork s.now h src dst).slot) = false := by
      rw [← hop] at hbest
      exact hbest
    have hlead : Leads c s (((s.dev.accept h (s.dev.xferWork s.now h src dst)).1).afterHead s.now q) := by
      rw [← Dev.admitWork_bestEffort hbest' s.now h, ← Dev.doXfer_admits hclean hoff hdst hcores hname hobj hb hsize1 hsize2 hl1
        hl2 hsrc htgt htotal]
      obtain ⟨rfl, hmode⟩ | ⟨rfl, hmode⟩ := hc
      · exact leads_of_eq (d := s.dev.takeHead s.now q (xferIs false) fun d h => d.doXfer s.now h) rfl
          (Dev.takeHead_of_atHead hat _ _ _ (by simp [xferIs, hop, hmode]))
      · exact leads_of_eq (d := s.dev.takeHead s.now q (xferIs true) fun d h => d.doXfer s.now h) rfl
          (Dev.takeHead_of_atHead hat _ _ _ (by simp [xferIs, hop, hmode]))
    exact ⟨_, hlead, _, Dev.find_accept .., rfl, rfl⟩
  case sweep =>
    have hop : hOp h.f.slot = 3 := hat.2.2
    have hlead : Leads (.sweep q) s (s.dev.takeHead s.now q (opIs 0x03) fun d h => d.doSweep s.now h) := rfl
    rw [Dev.takeHead_of_atHead hat _ _ _ (by simpa [opIs] using hop), Dev.doSweep_admits hcheck hname (hop ▸ hbest)] at hlead
    exact ⟨_, hlead, Tbl.find_put_same _ _ _, _, Dev.find_accept .., rfl⟩
  case accepted =>
    rw [Dev.admitWork_guaranteed hguar hsteps hbound henergy now]
    obtain ⟨objs, hhif⟩ := d.hif_accept h { m with
      guar := true, boundUs := b, deadline := now + b * 1000, inBook := true
      resv := { m.resv with credits := (List.range 4).map (d.lp m.ast), power := ceilDiv m.resv.energy b } }
    refine ⟨⟨_, Dev.find_accept .., rfl, rfl, rfl, rfl⟩, ?_⟩
    exact congrArg Hif.nextCmd hhif
  case refused => exact Dev.admitWork_refused hguar hsteps now bound

end Sys2Proof.Machine
end

section
/-!
PROOFS. Map epochs: what a publication sets and leaves, the end of the previous epoch, and scrubs.
-/

namespace Sys2Proof.Machine

/-! ### What folds over units, asterisms and die pairs leave -/

/-- A step that keeps a projection of the device keeps it over a list. -/
theorem Dev.foldl_proj {α β : Type} {π : Dev → β} {f : Dev → α → Dev} (hf : ∀ d a, π (f d a) = π d) (l : List α) (d : Dev) :
    π (l.foldl f d) = π d :=
  foldl_keeps (fun e => π e = π d) f (fun e a he => (hf e a).trans he) l d rfl

/-- The epochs, and what waits to be published. -/
def Dev.epochs (d : Dev) : Nat × Nat × Bool × List Publ := (d.comp.epoch, d.comp.prevEpoch, d.comp.twoLive, d.comp.waiting)

theorem Dev.wakeDp_shape (d : Dev) (now src dp : Nat) : ∃ regs pwr, d.wakeDp now src dp = { d with regs := regs, pwr := pwr } := by
  unfold Dev.wakeDp
  split
  · exact ⟨_, _, rfl⟩
  · exact ⟨_, _, rfl⟩

theorem Dev.wakeDps_shape (now src : Nat) (l : List Nat) (d : Dev) :
    ∃ regs pwr, l.foldl (fun d p => d.wakeDp now src p) d = { d with regs := regs, pwr := pwr } := by
  induction l generalizing d with
  | nil => exact ⟨_, _, rfl⟩
  | cons p l ih =>
    obtain ⟨regs, pwr, h⟩ := d.wakeDp_shape now src p
    obtain ⟨regs', pwr', h'⟩ := ih (d.wakeDp now src p)
    exact ⟨regs', pwr', by rw [List.foldl_cons, h', h]⟩

theorem Dev.onOwner_shape (d : Dev) (u : Nat) (f : Owner → Owner) :
    ∃ chans slices, d.onOwner u f = { d with comp := { d.comp with chans := chans, slices := slices } } := by
  unfold Dev.onOwner
  split
  · exact ⟨_, _, rfl⟩
  · split
    · exact ⟨_, _, rfl⟩
    · exact ⟨_, _, rfl⟩

/-- The owner of a channel or slice is as it was changed. -/
theorem Dev.ownerOf_onOwner_same (d : Dev) {u : Nat} (hu : 8192 ≤ u) (f : Owner → Owner) :
    (d.onOwner u f).ownerOf u = f (d.ownerOf u) := by
  by_cases h : u < 16384
  · simp [Dev.onOwner, Dev.ownerOf, Nat.not_lt.mpr hu, h, Dev.chanOwner, Dev.onComp]
  · simp [Dev.onOwner, Dev.ownerOf, Nat.not_lt.mpr hu, h, Dev.sliceOwner, Dev.onComp]

/-- Every other channel or slice keeps its owner. -/
theorem Dev.ownerOf_onOwner_other (d : Dev) {u v : Nat} (hv : 8192 ≤ v) (h : v ≠ u) (f : Owner → Owner) :
    (d.onOwner u f).ownerOf v = d.ownerOf v := by
  unfold Dev.onOwner
  split
  · rfl
  · rename_i hu
    split
    · rename_i hu'
      unfold Dev.ownerOf Dev.onComp
      split
      · exact Tbl.look_upd_other _ _ _ _ _ (by omega)
      · rfl
    · rename_i hu'
      unfold Dev.ownerOf Dev.onComp
      split
      · rfl
      · exact Tbl.look_upd_other _ _ _ _ _ (by omega)

/-! ### Units leave and join -/

/-- Units that leave await the drain. -/
theorem Dev.unitsLeave_shape (a dom : Nat) (scrub l : List Nat) (d : Dev) : ∃ (chans slices : Tbl Owner) (f : Nat → Bool),
    l.foldl (fun d u => d.unitLeaves a dom scrub u) d = { d with comp := { d.comp with
      chans := chans, slices := slices, leaving := d.comp.leaving ++ l.map fun u => (u, a, f u) } } := by
  refine ⟨(l.foldl (fun d u => d.unitLeaves a dom scrub u) d).comp.chans, (l.foldl (fun d u => d.unitLeaves a dom scrub u) d).comp.slices,
    fun u => decide (8192 ≤ u) && (scrub.contains u || d.flag (LCS_POLICY_DOM_A.SCRUB_ALWAYS dom)), ?_⟩
  induction l generalizing d with
  | nil => simp
  | cons u l ih =>
    obtain ⟨chans, slices, h⟩ := d.onOwner_shape u fun o => { o with st := 2, lastDom := dom, dirty := true }
    have hu : d.unitLeaves a dom scrub u = { d with comp := { d.comp with
        chans := chans, slices := slices
        leaving := d.comp.leaving ++
          [(u, a, decide (8192 ≤ u) && (scrub.contains u || d.flag (LCS_POLICY_DOM_A.SCRUB_ALWAYS dom)))] } } := by
      unfold Dev.unitLeaves
      rw [h]
      rfl
    rw [List.foldl_cons, ih, hu]
    simp [Dev.flag, Dev.get, Dev.reg]

/-- Units that join are bound: of the device only cores and owners differ. -/
theorem Dev.unitsJoin_shape (a : Nat) (l : List Nat) (d : Dev) : ∃ core chans slices,
    l.foldl (fun d u => d.unitJoins a u) d = { d with core := core, comp := { d.comp with chans := chans, slices := slices } } := by
  induction l generalizing d with
  | nil => exact ⟨_, _, _, rfl⟩
  | cons u l ih =>
    have hu : ∃ core chans slices, d.unitJoins a u =
        { d with core := core, comp := { d.comp with chans := chans, slices := slices } } := by
      unfold Dev.unitJoins
      split
      · exact ⟨_, _, _, rfl⟩
      · obtain ⟨chans, slices, h⟩ := d.onOwner_shape u fun o => { o with ast := a, st := 1 }
        exact ⟨_, _, _, h⟩
    obtain ⟨core, chans, slices, hu⟩ := hu
    obtain ⟨core', chans', slices', h⟩ := ih (d.unitJoins a u)
    exact ⟨core', chans', slices', by rw [List.foldl_cons, h, hu]⟩

theorem Dev.bound_unitJoins (d : Dev) (a u c : Nat) (h : (d.coreAt c).bound = some a) :
    ((d.unitJoins a u).coreAt c).bound = some a := by
  unfold Dev.unitJoins
  split
  · by_cases hc : c = u
    · subst hc
      rw [Dev.coreAt_onCore_same]
    · rw [Dev.coreAt_onCore_other _ _ _ _ hc, h]
  · obtain ⟨chans, slices, hs⟩ := d.onOwner_shape u fun o => { o with ast := a, st := 1 }
    rw [hs]
    exact h

/-- A core among the units that join is bound to the asterism. -/
theorem Dev.bound_unitsJoin {a u : Nat} {l : List Nat} (hu : u ∈ l) (hcore : u < 8192) (d : Dev) :
    ((l.foldl (fun d u => d.unitJoins a u) d).coreAt u).bound = some a := by
  induction l generalizing d with
  | nil => cases hu
  | cons v l ih =>
    by_cases hl : u ∈ l
    · exact ih hl _
    · obtain rfl : u = v := (List.mem_cons.mp hu).resolve_right hl
      refine foldl_keeps (fun e : Dev => (e.coreAt u).bound = some a) _ (fun e v he => Dev.bound_unitJoins e a v u he) l _ ?_
      simp [Dev.unitJoins, hcore]

/-- What the new map of one asterism sets and leaves. -/
theorem Dev.publishAst_law (d : Dev) (now a : Nat) (m : CMap) (dissolve : Bool) (cmd : Option Nat) :
    ((d.publishAst now a m dissolve cmd).ast a).cur = some { m with scrub := [] } ∧
    ((d.publishAst now a m dissolve cmd).ast a).staged = { m with scrub := [] } ∧
    ((d.publishAst now a m dissolve cmd).ast a).prev = (d.ast a).cur ∧
    (∀ c, c ≠ a → (d.publishAst now a m dissolve cmd).ast c = d.ast c) ∧
    (∀ u ∈ m.units, u < 8192 → u ∉ d.boundUnits a → ((d.publishAst now a m dissolve cmd).coreAt u).bound = some a) ∧
    (∀ u ∈ d.boundUnits a, u ∉ m.units → ∃ b, (u, a, b) ∈ (d.publishAst now a m dissolve cmd).comp.leaving) ∧
    (d.publishAst now a m dissolve cmd).stored = d.stored ∧ (d.publishAst now a m dissolve cmd).epochs = d.epochs := by
  have hcur : ∀ f : Ast → Ast, (d.onAst a f).ast a = f (d.ast a) := fun f => Dev.ast_onAst_same d a f
  have hother : ∀ (f : Ast → Ast) c, c ≠ a → (d.onAst a f).ast c = d.ast c := fun f c hc => Dev.ast_onAst_other d a c f hc
  unfold Dev.publishAst
  dsimp only
  generalize hd1 : d.onAst a _ = d1
  have hcur1 := hcur fun x => { x with
    prev := (d.ast a).cur, cur := some { m with scrub := [] }, staged := { m with scrub := [] }, epoch := d.comp.epoch
    state := if dissolve then .dissolving else if x.state = .composing then .active else x.state }
  have hother1 := hother fun x => { x with
    prev := (d.ast a).cur, cur := some { m with scrub := [] }, staged := { m with scrub := [] }, epoch := d.comp.epoch
    state := if dissolve then .dissolving else if x.state = .composing then .active else x.state }
  rw [hd1] at hcur1 hother1
  have hsame1 : d1.stored = d.stored ∧ d1.epochs = d.epochs := by
    rw [← hd1]
    exact ⟨rfl, rfl⟩
  obtain ⟨chans, slices, f, hleave⟩ :=
    Dev.unitsLeave_shape a m.dom m.scrub ((d.boundUnits a).filter fun u => !m.units.contains u) d1
  rw [hleave]
  generalize hd2 : ({ d1 with comp := _ } : Dev) = d2
  have hkeep2 : (∀ c, d2.ast c = d1.ast c) ∧ d2.stored = d1.stored ∧ d2.epochs = d1.epochs ∧
      (∀ u ∈ d.boundUnits a, u ∉ m.units → ∃ b, (u, a, b) ∈ d2.comp.leaving) := by
    rw [← hd2]
    refine ⟨fun _ => rfl, rfl, rfl, fun u hu hm => ⟨f u, List.mem_append_right _ (List.mem_map.mpr ⟨u, ?_, rfl⟩)⟩⟩
    simpa [hu] using hm
  have hjoins := fun u hu (hcore : u < 8192) =>
    Dev.bound_unitsJoin (a := a) (l := m.units.filter fun u => !(d.boundUnits a).contains u) (u := u) hu hcore d2
  obtain ⟨core, chans', slices', hjoin⟩ := Dev.unitsJoin_shape a (m.units.filter fun u => !(d.boundUnits a).contains u) d2
  rw [hjoin] at hjoins ⊢
  obtain ⟨hast2, hstored2, hepochs2, hleaving2⟩ := hkeep2
  generalize hd3 : Dev.onComp _ _ = d3
  have hkeep3 : d3.core = core ∧ (∀ c, d3.ast c = d2.ast c) ∧ d3.stored = d2.stored ∧ d3.epochs = d2.epochs ∧
      d3.comp.leaving = d2.comp.leaving := by
    rw [← hd3]
    exact ⟨rfl, fun _ => rfl, rfl, rfl, rfl⟩
  obtain ⟨hcore3, hast3, hstored3, hepochs3, hleaving3⟩ := hkeep3
  obtain ⟨regs, pwr, hwake⟩ := Dev.wakeDps_shape now 8 ((m.cores.map coreDp).dedup) d3
  rw [hwake]
  have hown : (({ d3 with regs := regs, pwr := pwr } : Dev).snapshot now a).ast a = ((d3.ast a).sumMeters) :=
    Dev.ast_onAst_same _ a Ast.sumMeters
  rw [hown, hast3, hast2, hcur1]
  refine ⟨rfl, rfl, rfl, fun c hc => ?_, fun u hu hcore hb => ?_, fun u hu hm => ?_,
    hstored3.trans (hstored2.trans hsame1.1), hepochs3.trans (hepochs2.trans hsame1.2)⟩
  · exact (Dev.ast_onAst_other _ a c Ast.sumMeters hc).trans ((hast3 c).trans ((hast2 c).trans (hother1 c hc)))
  · have hbound := hjoins u (by simpa [hu] using hb) hcore
    rw [← hcore3] at hbound
    exact hbound
  · obtain ⟨b, hb⟩ := hleaving2 u hu hm
    exact ⟨b, hleaving3 ▸ hb⟩

/-! ### Service changes -/

@[simp] theorem Dev.epochs_mgtDone (d : Dev) (now k : Nat) (st : CStatus) : (d.mgtDone now k st).epochs = d.epochs := by
  simp [Dev.epochs]

@[simp] theorem Dev.epochs_onCore (d : Dev) (c : Nat) (f : Core → Core) : (d.onCore c f).epochs = d.epochs := rfl

@[simp] theorem Dev.epochs_substituted (d : Dev) (old new : Nat) : (d.substituted old new).epochs = d.epochs := rfl

@[simp] theorem Dev.epochs_groupEmpty (d : Dev) (kind holder side : Nat) : (d.groupEmpty kind holder side).epochs = d.epochs := by
  unfold Dev.groupEmpty
  dsimp only
  split <;> rfl

@[simp] theorem Dev.epochs_swapDone (d : Dev) (now : Nat) (slice : Bool) (u : Nat) :
    (d.swapDone now slice u).epochs = d.epochs := by
  unfold Dev.swapDone
  split
  · dsimp only
    split
    · exact Dev.epochs_mgtDone ..
    · rfl
  · rfl

@[simp] theorem Dev.epochs_slicesLeft (d : Dev) (dp : Nat) : (d.slicesLeft dp).epochs = d.epochs := by
  unfold Dev.slicesLeft
  split <;> simp

theorem Dev.epochs_serviceDone (d : Dev) (now : Nat) (p : Publ) : (d.serviceDone now p).epochs = d.epochs := by
  unfold Dev.serviceDone
  split
  · dsimp only
    split <;> simp
  · simp only [Dev.epochs_slicesLeft, Dev.epochs_swapDone, Dev.epochs_substituted]
    rfl
  · rfl
  · rfl

theorem Dev.epochs_logService (d : Dev) (a : Nat) : (d.logService a).epochs = d.epochs := by
  refine Dev.foldl_proj (π := Dev.epochs) ?_ _ _
  intro e f
  rfl

theorem Dev.epochs_publishAst (d : Dev) (now a : Nat) (m : CMap) (dissolve : Bool) (cmd : Option Nat) :
    (d.publishAst now a m dissolve cmd).epochs = d.epochs := by
  obtain ⟨-, -, -, -, -, -, -, h⟩ := d.publishAst_law now a m dissolve cmd
  exact h

/-- The new maps of a service change leave the epoch that carries them. -/
theorem Dev.epochs_publishAsts (now : Nat) (f : Nat → CMap → CMap) (l : List Nat) (d : Dev) :
    (l.foldl (fun d a => match (d.ast a).cur with
      | some m => (d.publishAst now a (f a m) false none).logService a
      | none => d) d).epochs = d.epochs := by
  refine Dev.foldl_proj (π := Dev.epochs) (fun e a => ?_) l d
  split
  · rw [Dev.epochs_logService, Dev.epochs_publishAst]
  · rfl

/-- A service change goes first, as one epoch. -/
theorem Dev.publish_service {d : Dev} (hlive : d.comp.twoLive = false) (hedit : ∃ p ∈ d.comp.waiting, p.edit.isSome = true)
    (now : Nat) : ∃ e : Dev, d.publish now = e.after now ∧ e.comp.epoch = (d.comp.epoch + 1) % 65536 ∧
      e.comp.prevEpoch = d.comp.epoch ∧ e.comp.twoLive = true ∧ ∀ p ∈ e.comp.waiting, p.edit = none := by
  obtain ⟨p, hp, hedit⟩ := hedit
  have hany : (d.comp.waiting.any fun p => p.edit.isSome) = true := List.any_eq_true.mpr ⟨p, hp, hedit⟩
  have hne : (d.comp.waiting.filter fun p => p.edit.isSome).isEmpty = false := by
    rw [List.isEmpty_eq_false_iff_exists_mem]
    exact ⟨p, List.mem_filter.mpr ⟨hp, hedit⟩⟩
  simp only [Dev.publish, hlive, Bool.false_eq_true, if_false, hany, if_true]
  unfold Dev.publishService
  dsimp only
  rw [hne, if_neg Bool.false_ne_true]
  generalize hd1 : (d.onComp _).nextEpoch now 0 = d1
  have hepochs1 : d1.comp.epoch = (d.comp.epoch + 1) % 65536 ∧ d1.comp.prevEpoch = d.comp.epoch ∧ d1.comp.twoLive = true ∧
      ∀ p ∈ d1.comp.waiting, p.edit = none := by
    rw [← hd1]
    refine ⟨rfl, rfl, rfl, fun q hq => ?_⟩
    obtain ⟨r, hr, rfl⟩ := List.mem_map.mp hq
    exact Option.isNone_iff_eq_none.mp (List.mem_filter.mp hr).2
  refine ⟨_, rfl, ?_⟩
  have hsame := (Dev.foldl_proj (π := Dev.epochs) (fun e p => Dev.epochs_serviceDone e now p)
    (d.comp.waiting.filter fun p => p.edit.isSome) _).trans (Dev.epochs_publishAsts now
      (fun a m => (d.comp.waiting.filter fun p => p.edit.isSome).foldl (fun m p => if p.ast = a then
        (match p.edit with | some e => e.apply m | none => m) else m) m)
      (((d.comp.waiting.filter fun p => p.edit.isSome).map (·.ast)).dedup) d1)
  simp only [Dev.epochs, Prod.mk.injEq] at hsame
  obtain ⟨h1, h2, h3, h4⟩ := hsame
  exact ⟨h1.trans hepochs1.1, h2.trans hepochs1.2.1, h3.trans hepochs1.2.2.1, h4 ▸ hepochs1.2.2.2⟩

/-! ### A BIND or UNBIND is published -/

/-- What is left to do once a command's map is published: shed, complete, set going. -/
def Dev.afterPublish (d : Dev) (now : Nat) (p : Publ) : Dev :=
  let d := if p.shed then ((d.shedCores now p.ast).shedChannels p.ast fun _ => true).shedBridges p.map.home else d
  (match p.cmd with
    | some k => if d.comp.moves.any fun m => m.cmd == some k then d else d.mgtDone now k .completed
    | none => d).after now

/-- The publication of a command: the next epoch, its map, and what both leave. -/
theorem Dev.publishCmd_law (d : Dev) (now : Nat) (p : Publ) : ∃ e : Dev, d.publishCmd now p = e.afterPublish now p ∧
    e.comp.epoch = (d.comp.epoch + 1) % 65536 ∧ e.comp.prevEpoch = d.comp.epoch ∧ e.comp.twoLive = true ∧
    (e.ast p.ast).cur = some { p.next with scrub := [] } ∧ (e.ast p.ast).staged = { p.next with scrub := [] } ∧
    (e.ast p.ast).prev = (d.ast p.ast).cur ∧ (∀ a, a ≠ p.ast → e.ast a = d.ast a) ∧
    e.comp.waiting = d.comp.waiting.filter (fun x => x != p) ∧
    (∀ u ∈ p.next.units, u < 8192 → u ∉ d.boundUnits p.ast → (e.coreAt u).bound = some p.ast) ∧
    (∀ u ∈ d.boundUnits p.ast, u ∉ p.next.units → ∃ b, (u, p.ast, b) ∈ e.comp.leaving) ∧ e.stored = d.stored := by
  unfold Dev.publishCmd
  dsimp only
  generalize hd1 : (d.onComp _).nextEpoch now _ = d1
  have hkeep : d1.epochs = ((d.comp.epoch + 1) % 65536, d.comp.epoch, true, d.comp.waiting.filter fun x => x != p) ∧
      d1.stored = d.stored ∧ (∀ a, d1.ast a = d.ast a) ∧ ∀ a, d1.boundUnits a = d.boundUnits a := by
    rw [← hd1]
    exact ⟨rfl, rfl, fun _ => rfl, fun _ => rfl⟩
  obtain ⟨hepochs, hstored, hast, hunits⟩ := hkeep
  obtain ⟨hcur, hstaged, hprev, hother, hjoin, hleave, hstored', hepochs'⟩ :=
    d1.publishAst_law now p.ast { p.next with scrub := p.map.scrub } p.dissolve p.cmd
  rw [hepochs] at hepochs'
  simp only [Dev.epochs, Prod.mk.injEq] at hepochs'
  obtain ⟨h1, h2, h3, h4⟩ := hepochs'
  rw [hunits] at hjoin hleave
  exact ⟨_, rfl, h1, h2, h3, hcur, hstaged, hprev.trans (by rw [hast]), fun a ha => (hother a ha).trans (hast a), h4,
    hjoin, hleave, hstored'.trans hstored⟩

/-! ### Scrubs and key loads before it -/

/-- Scrubs that start: their units are listed in order, their owners in state 3. -/
theorem Dev.startScrubs_law (now : Nat) (l : List Nat) (hl : ∀ u ∈ l, 8192 ≤ u) (d : Dev) :
    (l.foldl (fun d u => d.startScrub now u) d).comp.scrubbing = d.comp.scrubbing ++ l ∧
    (∀ u, 8192 ≤ u → u ∈ l ∨ (d.ownerOf u).st = 3 → ((l.foldl (fun d u => d.startScrub now u) d).ownerOf u).st = 3) ∧
    (l.foldl (fun d u => d.startScrub now u) d).comp.waiting = d.comp.waiting ∧
    (l.foldl (fun d u => d.startScrub now u) d).comp.epoch = d.comp.epoch ∧
    (l.foldl (fun d u => d.startScrub now u) d).stored = d.stored := by
  induction l generalizing d with
  | nil => exact ⟨by simp, fun u _ h => h.resolve_left (by simp), rfl, rfl, rfl⟩
  | cons v l ih =>
    obtain ⟨chans, slices, hshape⟩ := d.onOwner_shape v fun o => { o with st := 3 }
    have hsame := d.ownerOf_onOwner_same (hl v List.mem_cons_self) fun o => { o with st := 3 }
    have hother := fun u (hu : 8192 ≤ u) (h : u ≠ v) => d.ownerOf_onOwner_other hu h fun o => { o with st := 3 }
    have hone : (d.startScrub now v).comp.scrubbing = d.comp.scrubbing ++ [v] ∧
        (∀ u, (d.startScrub now v).ownerOf u = (d.onOwner v fun o => { o with st := 3 }).ownerOf u) ∧
        (d.startScrub now v).comp.waiting = d.comp.waiting ∧ (d.startScrub now v).comp.epoch = d.comp.epoch ∧
        (d.startScrub now v).stored = d.stored := by
      unfold Dev.startScrub
      dsimp only
      rw [hshape]
      split
      · obtain ⟨regs, pwr, hw⟩ := Dev.wakeDp_shape (({ d with comp := { d.comp with chans := chans, slices := slices } } : Dev).onComp
          fun c => { c with scrubbing := c.scrubbing ++ [v] }) now 8 ((v - 16384) / 68)
        rw [hw]
        exact ⟨rfl, fun _ => rfl, rfl, rfl, rfl⟩
      · exact ⟨rfl, fun _ => rfl, rfl, rfl, rfl⟩
    obtain ⟨hlist, howner, hwait, hepoch, hstored⟩ := hone
    obtain ⟨ihlist, ihowner, ihwait, ihepoch, ihstored⟩ := ih (fun u hu => hl u (List.mem_cons_of_mem _ hu)) (d.startScrub now v)
    refine ⟨?_, fun u hu h => ihowner u hu ?_, ihwait.trans hwait, ihepoch.trans hepoch, ihstored.trans hstored⟩
    · rw [List.foldl_cons, ihlist, hlist, List.append_assoc]
      rfl
    · by_cases huv : u = v
      · exact .inr (by rw [howner, huv, hsame])
      · refine h.imp (fun h => (List.mem_cons.mp h).resolve_left huv) fun h => ?_
        rw [howner, hother u hu huv, h]

/-- Keys that are sent: each stack has a load under way, and the composition and memory stand. -/
theorem Dev.sendKeys_law (now n : Nat) (l : List Nat) (d : Dev) (hup : d.lcs.drbgUp = true) :
    (∀ s ∈ l, ∃ x ∈ (l.foldl (fun d s => d.sendKey now n s) d).lcs.loads, x.1 = s * 32 + n) ∧
    (∀ x ∈ d.lcs.loads, x ∈ (l.foldl (fun d s => d.sendKey now n s) d).lcs.loads) ∧
    (l.foldl (fun d s => d.sendKey now n s) d).comp = d.comp ∧ (l.foldl (fun d s => d.sendKey now n s) d).stored = d.stored := by
  induction l generalizing d with
  | nil => exact ⟨by simp, fun _ h => h, rfl, rfl⟩
  | cons v l ih =>
    have hone : (∃ x ∈ (d.sendKey now n v).lcs.loads, x.1 = v * 32 + n) ∧ (∀ x ∈ d.lcs.loads, x ∈ (d.sendKey now n v).lcs.loads) ∧
        (d.sendKey now n v).comp = d.comp ∧ (d.sendKey now n v).stored = d.stored ∧ (d.sendKey now n v).lcs.drbgUp = true := by
      unfold Dev.sendKey
      by_cases h : (d.lcs.loads.any fun e => e.1 == v * 32 + n) = true
      · rw [if_pos (by simp [h])]
        obtain ⟨x, hx, he⟩ := List.any_eq_true.mp h
        exact ⟨⟨x, hx, by simpa using he⟩, fun _ h => h, rfl, rfl, hup⟩
      · rw [if_neg (by simpa [hup] using h)]
        exact ⟨⟨_, List.mem_append_right _ (List.mem_singleton.mpr rfl), rfl⟩, fun x hx => List.mem_append_left _ hx, rfl, rfl, hup⟩
    obtain ⟨⟨x, hx, hxv⟩, hold, hcomp, hstored, hup'⟩ := hone
    obtain ⟨ihnew, ihold, ihcomp, ihstored⟩ := ih (d.sendKey now n v) hup'
    refine ⟨fun s hs => ?_, fun y hy => ihold y (hold y hy), ihcomp.trans hcomp, ihstored.trans hstored⟩
    obtain rfl | hs := List.mem_cons.mp hs
    · exact ⟨x, ihold x hx, hxv⟩
    · exact ihnew s hs

/-! ### The end of the previous epoch -/

/-- No asterism has a previous map. -/
def Dev.NoPrev (d : Dev) : Prop := ∀ a, (d.ast a).prev = none

/-- An asterism that became FREE. -/
def Ast.freed (x : Ast) : Ast := { x.sumMeters with
  state := .free, cur := none, prev := none, staged := CMap.empty 0 0, quiesce := none, paused := false, tileAt := none }

theorem Dev.astFree_shape (d : Dev) (a : Nat) : ∃ chans slices, d.astFree a =
    (d.onAst a Ast.freed).onComp fun c => { c with chans := chans, slices := slices } := by
  unfold Dev.astFree
  dsimp only
  split
  · exact ⟨_, _, rfl⟩
  · exact ⟨_, _, rfl⟩

/-- What of the epochs and of memory the releases of an epoch leave, with no asterism's previous map brought back. -/
def Dev.Drains (d e : Dev) : Prop := e.NoPrev ∧ e.epochs = d.epochs ∧ e.comp.moves = d.comp.moves ∧
  e.comp.lastDrainUs = d.comp.lastDrainUs ∧ e.stored = d.stored

theorem Dev.Drains.settleAst {d e : Dev} (h : d.Drains e) (a : Nat) : d.Drains (e.settleAst a) := by
  obtain ⟨hprev, hepochs, hmoves, hus, hstored⟩ := h
  unfold Dev.settleAst
  split
  · obtain ⟨chans, slices, hfree⟩ := e.astFree_shape a
    rw [hfree]
    refine ⟨fun c => ?_, hepochs, hmoves, hus, hstored⟩
    by_cases hc : c = a
    · subst hc
      exact congrArg Ast.prev (Dev.ast_onAst_same e c Ast.freed)
    · exact (congrArg Ast.prev (Dev.ast_onAst_other e a c Ast.freed hc)).trans (hprev c)
  · exact ⟨hprev, hepochs, hmoves, hus, hstored⟩

theorem Dev.Drains.releaseCore {d e : Dev} (h : d.Drains e) (c : Nat) : d.Drains (e.releaseCore c) := by
  unfold Dev.releaseCore
  split
  · exact h
  · split
    · exact Dev.Drains.settleAst (e := (e.unlist c).onCore c fun k => { k with bound := none }) h _
    · exact h

theorem Dev.Drains.releaseMem {d e : Dev} (h : d.Drains e) (u a : Nat) (scrub : Bool) : d.Drains (e.releaseMem u a scrub) := by
  unfold Dev.releaseMem
  split
  · obtain ⟨chans, slices, hs⟩ := e.onOwner_shape u fun o => { o with st := 3 }
    rw [hs]
    exact h
  · refine Dev.Drains.settleAst ?_ a
    obtain ⟨chans, slices, hs⟩ := (e.unlist u).onOwner_shape u fun o => { o with ast := 0, st := 0 }
    rw [hs]
    exact h

/-- The moves of an epoch that is over: the switched ones end, the others start. -/
theorem Dev.movesDrained_law (d : Dev) (now : Nat) : (d.movesDrained now).comp = { d.comp with
      moves := (d.comp.moves.filter fun m => !m.switched).map fun m => { m with started := true } } ∧
    (d.movesDrained now).stored = d.stored := by
  have hkeep : ∀ (left : List MoveRun) (l : List Nat) (e : Dev),
      (l.foldl (fun d k => if left.any fun m => m.cmd == some k then d else d.mgtDone now k .completed) e).comp = e.comp ∧
      (l.foldl (fun d k => if left.any fun m => m.cmd == some k then d else d.mgtDone now k .completed) e).stored = e.stored := by
    intro left l e
    refine ⟨Dev.foldl_proj (π := Dev.comp) (fun e k => ?_) l e, Dev.foldl_proj (π := Dev.stored) (fun e k => ?_) l e⟩
    · split
      · rfl
      · exact mgtDone_comp ..
    · split
      · rfl
      · obtain ⟨⟨r, x, h⟩, -⟩ := Reports.mgtDone e now k .completed .none 0 3 0 0
        rw [← h]
        rfl
  exact hkeep _ _ _

/-- The previous epoch is over. -/
theorem Dev.drained_law {d : Dev} (hlive : d.comp.twoLive = true) (hheld : d.epochHeld d.comp.prevEpoch = false) (now : Nat) :
    (d.drained now).comp.twoLive = false ∧ (d.drained now).comp.epoch = d.comp.epoch ∧ (d.drained now).NoPrev ∧
    (d.drained now).comp.moves = (d.comp.moves.filter fun m => !m.switched).map (fun m => { m with started := true }) ∧
    (d.drained now).comp.lastDrainUs = (now - d.comp.adoptAt) / 1000 ∧ (d.drained now).stored = d.stored := by
  unfold Dev.drained
  simp only [hlive, hheld, Bool.not_true, Bool.or_self, Bool.false_eq_true, if_false]
  generalize hd1 : d.onComp _ = d1
  have hkeep : d1.NoPrev ∧ d1.comp.twoLive = false ∧ d1.comp.epoch = d.comp.epoch ∧ d1.comp.moves = d.comp.moves ∧
      d1.comp.lastDrainUs = (now - d.comp.adoptAt) / 1000 ∧ d1.stored = d.stored := by
    rw [← hd1]
    refine ⟨fun a => ?_, rfl, rfl, rfl, rfl, rfl⟩
    exact Tbl.look_mapV (d := Ast.reset) (P := fun x : Ast => x.prev = none) (f := fun _ x => { x with prev := none }) rfl (fun _ => rfl) _
  obtain ⟨hprev, htwo, hepoch, hmoves, hus, hstored⟩ := hkeep
  have hstart : d1.Drains d1 := ⟨hprev, rfl, rfl, rfl, rfl⟩
  have hunits := foldl_keeps (fun e => d1.Drains e) (fun (d : Dev) (e : Nat × Nat × Bool) => if e.1 < 8192 then d.releaseCore e.1
      else if d.comp.scrubbing.contains e.1 then d else d.releaseMem e.1 e.2.1 e.2.2) (fun e u he => by
    split
    · exact he.releaseCore u.1
    · split
      · exact he
      · exact he.releaseMem ..) d.comp.leaving d1 hstart
  generalize hd2 : d.comp.leaving.foldl _ d1 = d2 at hunits ⊢
  have hasts := foldl_keeps (fun e => d1.Drains e) (fun (d : Dev) a => d.settleAst a) (fun e a he => he.settleAst a)
    (d2.comp.asts.map (·.1)) d2 hunits
  generalize hd3 : (d2.comp.asts.map (·.1)).foldl _ d2 = d3 at hasts ⊢
  obtain ⟨hprev3, hepochs3, hmoves3, hus3, hstored3⟩ := hasts
  simp only [Dev.epochs, Prod.mk.injEq] at hepochs3
  obtain ⟨hepoch3, -, htwo3, -⟩ := hepochs3
  obtain ⟨hcomp, hst⟩ := d3.movesDrained_law now
  refine ⟨?_, ?_, fun a => ?_, ?_, ?_, hst.trans (hstored3.trans hstored)⟩
  · rw [hcomp]; exact htwo3.trans htwo
  · rw [hcomp]; exact hepoch3.trans hepoch
  · rw [Dev.ast, hcomp]; exact hprev3 a
  · rw [hcomp]; simp only [hmoves3, hmoves]
  · rw [hcomp]; exact hus3.trans hus

/-! ### The drain limit -/

/-- What the limit does to the sweeps and cores that hold requests of the epoch. -/
def Dev.endHolders (d : Dev) (now : Nat) (cores sweeps : List Nat) : Dev :=
  sweeps.foldl (fun d j => (((d.endSweep j).onCmd j fun m => { m with err := 0x05C8 }).finish now j .fenced).after now)
    (cores.foldl (fun d c => d.fenceCore now c .recovery .fence 0x05C8) d)

/-- At the limit the holders are recorded, and no request of the epoch is left. -/
theorem Dev.drainLimit_law {d : Dev} {now : Nat} (hlive : d.comp.twoLive = true) (hlate : d.comp.drainLate = false)
    (hnow : d.comp.adoptAt + 100000000 ≤ now) (hheld : d.epochHeld d.comp.prevEpoch = true) :
    ∃ e : Dev, d.drainLimit now = e.endHolders now (d.epochCores d.comp.prevEpoch) (d.epochSweeps d.comp.prevEpoch) ∧
      e.comp.drainLate = true ∧ (∀ r ∈ e.net.reqs, r.tags.epoch ≠ d.comp.prevEpoch) ∧
      (∀ r ∈ e.net.resps, r.req.tags.epoch ≠ d.comp.prevEpoch) ∧
      (∀ x ∈ e.stk, ∀ w ∈ x.2.walks, w.req.tags.epoch ≠ d.comp.prevEpoch) ∧ e.comp.epoch = d.comp.epoch ∧
      ∃ r, e.ras.box = d.ras.box ++ [r] ∧ r.code = 0x05C8 ∧ r.sev = 3 ∧ r.detail.head? = some d.comp.prevEpoch := by
  have hnow' : decide (now < d.comp.adoptAt + 100000000) = false := by simpa using hnow
  unfold Dev.drainLimit
  simp only [hlive, hlate, hnow', hheld, Bool.not_true, Bool.or_self, Bool.false_eq_true, if_false]
  refine ⟨_, rfl, rfl, fun r hr => ?_, fun r hr => ?_, fun x hx w hw => ?_, rfl, _, rfl, rfl, rfl, rfl⟩
  · simpa using (List.mem_filter.mp hr).2
  · simpa using (List.mem_filter.mp hr).2
  · obtain ⟨y, -, rfl⟩ := List.mem_map.mp hx
    simpa using (List.mem_filter.mp hw).2

/-! ### Scrubs that complete -/

theorem find_filter_kept {α : Type} (t : Tbl α) (p : Nat × α → Bool) (k : Nat) (h : ∀ v, p (k, v) = true) :
    Tbl.find (t.filter p) k = Tbl.find t k := by
  induction t with
  | nil => rfl
  | cons e t ih =>
    obtain ⟨i, a⟩ := e
    by_cases hi : i = k
    · subst hi
      simp [h a, Tbl.find]
    · rw [List.filter_cons]
      split <;> simp [Tbl.find, hi, ih]

/-- A granule outside a wiped range is left. -/
theorem Dev.gran_wipe_out (d : Dev) (lo hi k : Nat) (lost : Bool) (h : k < lo ∨ hi ≤ k) : (d.wipe lo hi lost).gran k = d.gran k := by
  have hblank : blankOf (d.lost.flatMap (cutRange lo hi) ++ if lost then [(lo, hi)] else []) k = blankOf d.lost k := by
    unfold blankOf
    congr 2
    apply Bool.eq_iff_iff.mpr
    simp only [List.any_eq_true, decide_eq_true_eq, List.mem_append, List.mem_flatMap, cutRange, List.mem_filter, List.mem_cons,
      List.not_mem_nil, or_false]
    constructor
    · rintro ⟨r, ⟨x, hx, hr | hr, hlt⟩ | hr, hk⟩
      · subst hr
        exact ⟨x, hx, by simp only at hk; omega⟩
      · subst hr
        exact ⟨x, hx, by simp only at hk; omega⟩
      · cases lost with
        | true => simp only [if_true, List.mem_singleton] at hr; subst hr; simp only at hk; omega
        | false => simp at hr
    · rintro ⟨x, hx, hk⟩
      obtain hlo | hhi := h
      · exact ⟨(x.1, min x.2 lo), .inl ⟨x, hx, .inl rfl, by simp only; omega⟩, by simp only; omega⟩
      · exact ⟨(max x.1 hi, x.2), .inl ⟨x, hx, .inr rfl, by simp only; omega⟩, by simp only; omega⟩
  unfold Dev.gran Tbl.look
  have hlost : (d.wipe lo hi lost).lost = d.lost.flatMap (cutRange lo hi) ++ if lost then [(lo, hi)] else [] := rfl
  rw [hlost, hblank]
  refine congrArg (Option.getD · _) (find_filter_kept _ _ _ fun v => ?_)
  simp only [Bool.not_eq_true', Bool.and_eq_false_iff, decide_eq_false_iff_not]
  omega

/-- Every granule of a scrubbed slice reads as zero. -/
theorem Dev.sgran_scrubSlice (d : Dev) {k g : Nat} (hg : g < 2 ^ 16) : (d.scrubSlice k).sgran (sliceKey k g) = SliceGran.zero := by
  unfold Dev.sgran Dev.scrubSlice Tbl.look
  rw [find_filter_out _ _ _ fun v => ?_]
  · rfl
  · simp [sliceKey]
    omega

/-- A scrub of a unit that awaits no release: the unit is wiped, and free. -/
theorem Dev.scrubDone_free {d : Dev} {u : Nat} (hu : 8192 ≤ u) (hscrub : u ∈ d.comp.scrubbing)
    (hleave : ∀ b ∈ d.comp.leaving, b.1 ≠ u)
    (hheld : d.trackedIn (chanStack (u - 8192)) (d.scrubKeys u).1 (d.scrubKeys u).2 = false) (now : Nat) :
    u ∉ (d.scrubDone now u).comp.scrubbing ∧ ((d.scrubDone now u).ownerOf u).st = 0 ∧ ((d.scrubDone now u).ownerOf u).dirty = false ∧
      (d.scrubDone now u).stored =
        (if u < 16384 then d.scrubChan (d.physChan (u - 8192)) else d.scrubSlice (u - 16384)).stored := by
  have hc : d.comp.scrubbing.contains u = true := by simpa using hscrub
  unfold Dev.scrubDone
  dsimp only
  rw [hc, hheld]
  simp only [Bool.not_true, Bool.false_eq_true, if_false]
  generalize hd1 : (if u < 16384 then d.scrubChan (d.physChan (u - 8192)) else d.scrubSlice (u - 16384)) = d1
  have hcomp : d1.comp = d.comp := by
    rw [← hd1]
    split <;> rfl
  have hsame := d1.ownerOf_onOwner_same hu fun o => { o with ast := 0, st := 0, dirty := false, always := false }
  obtain ⟨chans, slices, hshape⟩ := d1.onOwner_shape u fun o => { o with ast := 0, st := 0, dirty := false, always := false }
  rw [hshape] at hsame ⊢
  have hnone : ((({ d1 with comp := { d1.comp with chans := chans, slices := slices } } : Dev).onComp fun c => { c with
      scrubbing := c.scrubbing.filter (· != u) }).comp.leaving.find? fun e => e.1 == u) = none := by
    rw [List.find?_eq_none]
    intro b hb
    have hb' : b ∈ d.comp.leaving := by
      rw [← hcomp]
      exact hb
    simpa using hleave b hb'
  rw [hnone]
  refine ⟨?_, (congrArg Owner.st hsame).trans rfl, (congrArg Owner.dirty hsame).trans rfl, rfl⟩
  exact fun h => by simpa using (List.mem_filter.mp h).2

/-- Settles O22: publications, the end of an epoch, its limit, and scrubs. -/
theorem publicationsAndEpochs : Obligations.PublicationsAndEpochs := by
  refine ⟨fun s => ?publication, fun s => ?epoch⟩
  case publication =>
    intro d
    refine ⟨fun hlive => ?_, fun hlive hedit => ?_, fun p hlive hnone hready => ?_⟩
    · exact leads_of_eq rfl (by simp only [Dev.publish, d, hlive, if_true])
    · obtain ⟨e, he, hsets⟩ := Dev.publish_service hlive hedit s.now
      exact ⟨e, leads_of_eq rfl he, hsets⟩
    · intro dirty
      have hany : (d.comp.waiting.any fun p => p.edit.isSome) = false := by
        rw [List.any_eq_false]
        intro x hx
        simp [hnone x hx]
      have hrun : d.publish s.now =
          if !dirty.isEmpty then dirty.foldl (fun d u => d.startScrub s.now u) d
          else if (d.keysNeeded p).isEmpty then d.publishCmd s.now p
          else (d.keysNeeded p).foldl (fun d st => d.sendKey s.now p.map.dom st) d := by
        simp only [Dev.publish, hlive, hany, Bool.false_eq_true, if_false, hready, dirty]
      refine ⟨fun hdirty => ?_, fun hdirty hkeys hup => ?_, fun hdirty hkeys => ?_⟩
      · rw [if_pos (by simpa using hdirty)] at hrun
        obtain ⟨hlist, howner, hwait, hepoch, hstored⟩ := Dev.startScrubs_law s.now dirty (fun u hu => by
          have := (List.mem_filter.mp hu).2
          simp only [Dev.needsScrub, Bool.and_eq_true, decide_eq_true_eq] at this
          exact this.1.1) d
        refine answers_of_eq rfl hrun ⟨hlist, fun u hu => howner u ?_ (.inl hu), hwait, hepoch, sameMemory_of_stored hstored⟩
        have := (List.mem_filter.mp hu).2
        simp only [Dev.needsScrub, Bool.and_eq_true, decide_eq_true_eq] at this
        exact this.1.1
      · rw [if_neg (by simp [hdirty]), if_neg (by simpa using hkeys)] at hrun
        obtain ⟨hnew, -, hcomp, hstored⟩ := Dev.sendKeys_law s.now p.map.dom (d.keysNeeded p) d hup
        exact answers_of_eq rfl hrun ⟨hnew, hcomp, sameMemory_of_stored hstored⟩
      · rw [if_neg (by simp [hdirty]), if_pos (by simp [hkeys])] at hrun
        obtain ⟨e, he, h1, h2, h3, h4, h5, h6, h7, h8, h9, h10, h11⟩ := d.publishCmd_law s.now p
        exact ⟨e, leads_of_eq rfl (hrun.trans he), h1, h2, h3, h4, h5, h6, h7, h8, h9, h10, sameMemory_of_stored h11⟩
  case epoch =>
    intro d p
    refine ⟨fun hnot => ?_, fun hlive hheld => ?_, fun hnot => ?_, fun hlive hlate hnow hheld => ?_,
      fun l hl hscrub hleave hheld => ?_, fun k hk hscrub hleave => ?_⟩
    · refine leads_of_eq rfl (if_pos ?_)
      obtain h | h := hnot
      · simp [d, h]
      · simp [p, d] at h
        simp [h]
    · obtain ⟨h1, h2, h3, h4, h5, h6⟩ := Dev.drained_law hlive hheld s.now
      exact answers_of_eq rfl rfl ⟨h1, h2, h3, h4, h5, sameMemory_of_stored h6⟩
    · refine leads_of_eq rfl (if_pos ?_)
      obtain h | h | h | h := hnot
      · simp [d, h]
      · simp [d, h]
      · simp [d, h]
      · simp [p, d] at h
        simp [h]
    · obtain ⟨e, he, hsets⟩ := Dev.drainLimit_law hlive hlate hnow hheld
      exact ⟨e, leads_of_eq rfl he, hsets⟩
    · have hlow : chanNo l < 16384 := by unfold chanNo; omega
      have hsub : chanNo l - 8192 = l := by unfold chanNo; omega
      obtain ⟨h1, h2, h3, h4⟩ := Dev.scrubDone_free (u := chanNo l) (by unfold chanNo; omega) hscrub hleave
        (by simpa [Dev.scrubKeys, hlow, hsub] using hheld) s.now
      rw [if_pos hlow, hsub] at h4
      have howner : (d.scrubDone s.now (chanNo l)).ownerOf (chanNo l) = (d.scrubDone s.now (chanNo l)).chanOwner l := by
        rw [Dev.ownerOf, if_pos hlow, hsub]
      rw [howner] at h2 h3
      refine answers_of_eq rfl rfl ⟨h1, h2, h3, fun g hg => ?_, fun j hj => ?_⟩
      · rw [Dev.gran_of_stored h4, Dev.scrubChan, Dev.gran_wipe_in _ _ _ _ _ (by unfold granKey; omega) (by unfold granKey; omega)]
        rfl
      · rw [Dev.gran_of_stored h4, Dev.scrubChan, Dev.gran_wipe_out _ _ _ _ _ hj]
    · have hhigh : ¬sliceNo k < 16384 := by unfold sliceNo; omega
      have hsub : sliceNo k - 16384 = k := by unfold sliceNo; omega
      obtain ⟨h1, h2, h3, h4⟩ := Dev.scrubDone_free (u := sliceNo k) (by unfold sliceNo; omega) hscrub hleave
        (by simp [Dev.scrubKeys, hhigh, Dev.trackedIn]) s.now
      rw [if_neg hhigh, hsub] at h4
      have howner : (d.scrubDone s.now (sliceNo k)).ownerOf (sliceNo k) = (d.scrubDone s.now (sliceNo k)).sliceOwner k := by
        rw [Dev.ownerOf, if_neg hhigh, hsub]
      rw [howner] at h2 h3
      refine answers_of_eq rfl rfl ⟨h1, h2, h3, fun g hg => ?_, congrArg (·.1) h4⟩
      rw [Dev.sgran_of_stored h4, Dev.sgran_scrubSlice _ hg]

end Sys2Proof.Machine
end

section
/-!
PROOFS. Moves: a memory in which a granule is listed twice.
-/

namespace Sys2Proof.Machine

/-- Granule 0 of the first channel stands twice in the memory's table: poisoned, which is what it reads as, then cleared. -/
def twiceDev : Dev := { Dev.reset with mem := [(0, Gran.lost), (0, Gran.cleared)] }

/-- Refutes O23: where the memory's table lists a granule twice, what a move carries across is the last entry, and what the granule
reads as is the first. -/
theorem not_movesAndSpares : ¬ Obligations.MovesAndSpares := by
  intro h
  obtain ⟨⟨hcarry, -⟩, -⟩ := h
  obtain ⟨hsame, hpoison⟩ := hcarry twiceDev 0 1 0 1 0 (by decide +kernel) (by decide) (by decide) (by decide)
  obtain ⟨hkept, -⟩ := hpoison (twiceDev.gran (granKey (twiceDev.physChan 0) 0))
  have hread : (twiceDev.gran (granKey (twiceDev.physChan 0) 0)).poison = true := by decide +kernel
  have hcarried : ((twiceDev.carry 0 1 (0, 1)).gran (granKey (twiceDev.physChan 1) 0)).poison = false := by decide +kernel
  rw [hsame, hkept, hread] at hcarried
  exact absurd hcarried (by decide)

end Sys2Proof.Machine
end

section
/-!
PROOFS. Revocation of a context, and metering.
-/

namespace Sys2Proof.Machine

/-! ### Answers of a control page -/

/-- A listed control operation is run, and answered. -/
theorem Dev.ctl_of_code {code : Nat} (hlisted : ctlListed code = true) {op : Line} (hop : fld op 0 0 8 = code) (d : Dev) (fn : Nat)
    (f : Dev → Dev × CtlAns) : d.ctl fn code op f = (f d).1.ctlAnswer fn (f d).2 := by
  simp [Dev.ctl, hop, hlisted]

/-- A refused operation: the page shows it, and of the rest only a record is new. -/
theorem Dev.ctlAnswer_refused (d : Dev) (fn : Nat) (r : Reason) (err : Nat) (det : List Nat) :
    CtlRefused (d.ctlAnswer fn (.refused r err det)) fn err ∧
      ∃ fns, (d.ctlAnswer fn (.refused r err det)).hif = { d.hif with fns := fns } := by
  have hfn := d.fn_onFn_same fn fun f => { f with done := true, status := CStatus.refused.code, reason := r.code, err := err }
  refine ⟨⟨congrArg Fn.done hfn, congrArg Fn.status hfn, congrArg Fn.err hfn, ?_⟩, _, rfl⟩
  exact ⟨_, List.getLast?_concat, rfl⟩

/-! ### CONTEXT_REVOKE -/

theorem Dev.ctlRevoke_fine {d : Dev} {fn a : Nat} {op : Line} {rest : List Line}
    (hclean : allZero op [ctlHead, (0x12, 6, 10), (0x14, 18, 14), (0x18, 0, 320)] = true) (hfn : (d.fn fn).ast = some a)
    (hast : fld op 0x12 0 6 = a) (hrev : d.revocable a (fld op 0x10 0 16) = true)
    (hok : d.reportOk a (fld op 0x10 0 16) (fld op 0x14 0 18) = true) (now : Nat) :
    d.ctlRevoke now fn op rest =
      ((d.revokeCtx now (fld op 0x10 0 16) (some (fld op 0x14 0 18)) none none rest).revokeGoOn now (fld op 0x10 0 16), .done) := by
  simp [Dev.ctlRevoke, hclean, hfn, hast, hrev, hok]

theorem Dev.ctlRevoke_refused {d : Dev} {fn a : Nat} {op : Line} (hfn : (d.fn fn).ast = some a)
    (hrev : d.revocable a (fld op 0x10 0 16) = false) (now : Nat) (rest : List Line) :
    d.ctlRevoke now fn op rest = bad d 0x0603 [0, fld op 0x10 0 16] := by
  unfold Dev.ctlRevoke
  dsimp only
  split
  · rfl
  · simp [hfn, hrev]

/-! ### The end of a revocation -/

theorem Dev.ctxs_putRec (d : Dev) (now q : Nat) (r : CRec) (intr : Bool) : (d.putRec now q r intr).hif.ctxs = d.hif.ctxs := by
  unfold Dev.putRec
  dsimp only
  split
  · rfl
  · exact iteInduction (motive := fun e : Dev => e.hif.ctxs = d.hif.ctxs) (fun _ => rfl) fun _ => rfl

theorem Dev.ctxs_writeRec (d : Dev) (now q : Nat) (r : CRec) (intr : Bool) : (d.writeRec now q r intr).hif.ctxs = d.hif.ctxs := by
  unfold Dev.writeRec
  dsimp only
  split
  · rfl
  · split
    · exact Dev.ctxs_putRec ..
    · exact iteInduction (motive := fun e : Dev => e.hif.ctxs = d.hif.ctxs) (fun _ => rfl) fun _ => rfl

theorem Dev.hif_count16 (d : Dev) (n : Nat) : (d.count16 n).2.hif = d.hif := by
  unfold Dev.count16
  split <;> rfl

/-- The last step frees the context: it alone leaves the table, before what follows. -/
theorem Dev.revokeEnd_law (d : Dev) (now x : Nat) (c : Ctx) (r : Revoke) : ∃ e : Dev,
    d.revokeEnd now x c r = (e.after now).detachGoOn now ∧ e.hif.ctxs = Tbl.del d.hif.ctxs x := by
  unfold Dev.revokeEnd
  dsimp only
  refine ⟨_, rfl, ?_⟩
  have hreport : ∀ f : Dev, (match r.report with
      | some q => f.writeRec now q { CRec.blank with
          kind := 2, energy := min (c.energy / 1000) (2 ^ 32 - 1), aux := x + (d.count16 r.objs).1 * 2 ^ 16 } false
      | none => f).hif.ctxs = f.hif.ctxs := by
    intro f
    cases r.report with
    | some q => exact Dev.ctxs_writeRec ..
    | none => rfl
  have hstart : ((d.count16 r.objs).2.onHif fun h => { h with
      queues := h.queues.filter fun e => e.2.ctx != x
      ctxs := Tbl.del h.ctxs x
      blockedQ := h.blockedQ.filter (· != x) }).hif.ctxs = Tbl.del d.hif.ctxs x := by
    rw [← Dev.hif_count16 d r.objs]
    rfl
  cases r.mgt with
  | some m => exact (mgtDone_ctxs ..).trans ((hreport _).trans hstart)
  | none => exact (hreport _).trans hstart

/-- With step 5 done and no object of its own left, the revocation of a context ends. -/
theorem Dev.revokeGoOn_ends {d : Dev} {x : Nat} {c : Ctx} {r : Revoke} (hc : Tbl.find d.hif.ctxs x = some c)
    (hr : c.revoke = some r) (hstep : r.step5 = true) (hobjs : d.ownObjs x = []) (now : Nat) : ∃ e : Dev,
    d.revokeGoOn now x = (e.after now).detachGoOn now ∧ Tbl.find e.hif.ctxs x = none ∧
      ∀ y, y ≠ x → Tbl.find e.hif.ctxs y = Tbl.find d.hif.ctxs y := by
  have hpurge : d.revokePurge now x c r = d := by simp [Dev.revokePurge, hstep]
  have hretire : d.revokeObjs now x = d.onCtx x fun c => { c with revoke := c.revoke.map fun r => { r with objs := r.objs + 0 } } := by
    simp [Dev.revokeObjs, hobjs]
  have hfind : Tbl.find (d.revokeObjs now x).hif.ctxs x = some { c with revoke := some { r with objs := r.objs + 0 } } := by
    rw [hretire]
    exact (Tbl.find_adj_same _ _ _).trans (by simp [hc, hr])
  have hown : (d.revokeObjs now x).ownObjs x = [] := by
    rw [hretire]
    exact hobjs
  obtain ⟨e, he, hctxs⟩ := (d.revokeObjs now x).revokeEnd_law now x { c with revoke := some { r with objs := r.objs + 0 } }
    { r with objs := r.objs + 0 }
  refine ⟨e, ?_, ?_, fun y hy => ?_⟩
  · unfold Dev.revokeGoOn
    simp only [hc, hr, hpurge, hstep, if_true, hfind, hown, List.isEmpty_nil, Bool.and_self]
    exact he
  · rw [hctxs, Tbl.find_del_same]
  · rw [hctxs, Tbl.find_del_other _ _ _ hy, hretire]
    exact Tbl.find_adj_other _ _ _ _ hy

/-- A context that nobody revokes: neither the end nor the limit of a revocation changes anything. -/
theorem Dev.revoke_of_none {d : Dev} {x : Nat} {c : Ctx} (hc : Tbl.find d.hif.ctxs x = some c) (hr : c.revoke = none) (now : Nat) :
    d.revokeGoOn now x = d ∧ d.revokeLate now x = d := by
  simp [Dev.revokeGoOn, Dev.revokeLate, hc, hr]

/-- Step 5 not done at 10 ms: the record, and the asterism's reset. -/
theorem Dev.revokeLate_eq {d : Dev} {x now : Nat} {c : Ctx} {r : Revoke} (hc : Tbl.find d.hif.ctxs x = some c)
    (hr : c.revoke = some r) (hstep : r.step5 = false) (hnow : r.at_ + 10000000 ≤ now) (hresets : d.ras.resets = []) :
    d.revokeLate now x = (d.raise 0x0A03 (svcUnit (d.home c.ast)) 0x00 .contained
      [c.ast, x, if r.inval.isSome then 5 else 3] (some (c.ast, x))).requestReset now 4 c.ast 0x0A03 := by
  have hnow' : decide (now < r.at_ + 10000000) = false := by simpa using hnow
  simp [Dev.revokeLate, hc, hr, hstep, hnow', hresets]

/-! ### Metering -/

/-- A snapshot adds one entry and touches nothing outside the composition. -/
theorem Dev.snapshots_law (now : Nat) (l : List Nat) (d : Dev) :
    (l.foldl (fun d a => d.snapshot now a) d).comp.snaps.length = d.comp.snaps.length + l.length ∧
    (l.foldl (fun d a => d.snapshot now a) d).comp.snapAt = d.comp.snapAt ∧
    { l.foldl (fun d a => d.snapshot now a) d with comp := d.comp } = d := by
  induction l generalizing d with
  | nil => exact ⟨rfl, rfl, rfl⟩
  | cons a l ih =>
    obtain ⟨hlen, hat, hrest⟩ := ih (d.snapshot now a)
    refine ⟨?_, hat, ?_⟩
    · rw [List.foldl_cons, hlen]
      simp only [Dev.snapshot, Dev.onComp, Dev.onAst, List.length_cons]
      omega
    · have hcomp := congrArg (fun e : Dev => { e with comp := d.comp }) hrest
      exact hcomp

/-- An asterism after firmware has summed the counters. -/
theorem Dev.ast_meterSum (d : Dev) (a : Nat) :
    (d.onComp fun c => { c with asts := Tbl.mapV (fun _ x => if x.state = .free then x else x.sumMeters) c.asts }).ast a =
      if (d.ast a).state = .free then d.ast a else (d.ast a).sumMeters := by
  unfold Dev.ast Dev.onComp Tbl.look
  dsimp only
  rw [Tbl.find_mapV]
  cases Tbl.find d.comp.asts a with
  | none => rfl
  | some x => rfl

/-- Settles O24: a revocation's answers, its end and its limit; the sums, snapshots and reads of the meters. -/
theorem revocationAndMeters : Obligations.RevocationAndMeters := by
  refine ⟨fun s => ?revoke, fun s => ?meters⟩
  case revoke =>
    intro d
    refine ⟨fun fn k op rest a q hop hclean hfn hast hrev hq hok => ?_, fun fn k op rest a hop hfn hrev => ?_,
      fun k m op rest ht => ⟨fun hrev => ?_, fun hrev => ?_⟩, fun x c r hc hr hstep hobjs => ?_, fun x c hc hr => ?_,
      fun x c r hc hr hstep hnow hresets => ?_⟩
    · subst hq
      refine leads_of_eq rfl ((Dev.ctl_of_code (by decide) hop d fn _).trans ?_)
      rw [Dev.ctlRevoke_fine hclean hfn hast hrev hok]
    · refine answers_of_eq rfl ((Dev.ctl_of_code (by decide) hop d fn _).trans (congrArg (fun x : Dev × CtlAns =>
        x.1.ctlAnswer fn x.2) (Dev.ctlRevoke_refused hfn hrev s.now rest))) ?_
      obtain ⟨⟨hdone, hstatus, herr, -⟩, fns, hhif⟩ := d.ctlAnswer_refused fn .policy 0x0603 [0, fld op 0x10 0 16]
      have hctxs := congrArg Hif.ctxs hhif
      have hcmds := congrArg Hif.cmds hhif
      exact ⟨hdone, herr, hstatus, hctxs, hcmds⟩
    · refine leads_of_eq rfl ((Dev.mgtRun_of_turn ht _).trans ?_)
      have hrev' : (begun d k).revocable (fld m.slot 0x12 0 6) (fld m.slot 0x10 0 16) = true := hrev
      simp [Dev.mgtRevoke, hrev']
    · refine answers_of_eq rfl (Dev.mgtRun_of_turn ht _) ?_
      have hrev' : (begun d k).revocable (fld m.slot 0x12 0 6) (fld m.slot 0x10 0 16) = false := hrev
      simp only [Dev.mgtRevoke, hrev', Bool.not_false, if_true]
      exact EndedBy.mgtRefuse ..
    · obtain ⟨e, he, hnone, hother⟩ := Dev.revokeGoOn_ends hc hr hstep hobjs s.now
      exact ⟨e, leads_of_eq rfl he, hnone, hother⟩
    · obtain ⟨hgo, hlate⟩ := Dev.revoke_of_none hc hr s.now
      exact ⟨leads_of_eq rfl hgo, leads_of_eq rfl hlate⟩
    · refine answers_of_eq rfl (Dev.revokeLate_eq hc hr hstep hnow hresets) ?_
      have hreset : ∀ e : Dev, e.ras.resets = [] →
          e.requestReset s.now 4 c.ast 0x0A03 = { e with ras := { e.ras with resets := [⟨4, c.ast, 0x0A03, s.now, 0⟩] } } := by
        intro e he
        simp [Dev.requestReset, he]
      rw [hreset _ (by exact hresets)]
      exact ⟨⟨_, rfl, rfl, rfl, rfl⟩, rfl, rfl⟩
  case meters =>
    refine ⟨⟨_, rfl, fun a ha => ?_, fun a ha => ?_, rfl⟩, fun hnow => ?_, fun hnow => ?_, fun a ha => ?_⟩
    · rw [Dev.ast_meterSum, if_neg ha]
      exact ⟨rfl, rfl, rfl, rfl, rfl, rfl, rfl⟩
    · rw [Dev.ast_meterSum, if_pos ha]
    · exact leads_of_eq rfl (if_pos hnow)
    · refine answers_of_eq rfl (if_neg (Nat.not_lt.mpr hnow)) ?_
      obtain ⟨hlen, hat, hrest⟩ := Dev.snapshots_law s.now
        ((s.dev.comp.asts.filter fun e => e.2.state != .free).map (·.1)) (s.dev.onComp fun c => { c with snapAt := s.now })
      refine ⟨hat, hlen.trans (by simp [Dev.onComp]), ?_⟩
      have hcomp := congrArg (fun e : Dev => { e with comp := s.dev.comp }) hrest
      exact hcomp
    · refine answers_of_eq rfl rfl ?_
      obtain ⟨regs, pwr, cxl, h⟩ := s.dev.wakePkg_shape 3
      dsimp only
      rw [h]
      refine ⟨?_, rfl⟩
      simp only [Dev.reply, Nat.min_eq_left (by decide : 1 ≤ 64), List.range_one, List.flatMap_cons, List.flatMap_nil, Nat.add_zero,
        ha, if_true, List.append_nil]

end Sys2Proof.Machine
end

section
/-!
PROOFS. Control operations: identifiers, creations, removals, QUERY; doorbells and fetch.
-/

namespace Sys2Proof.Machine

/-! ### Identifiers -/

/-- An identifier found is free and in range. -/
theorem freeFrom_spec {used : Nat → Bool} {size n i j : Nat} (h : freeFrom used size n i = some j) (hsize : 0 < size) :
    used j = false ∧ j < size := by
  induction n generalizing i with
  | zero => cases h
  | succ n ih =>
    unfold freeFrom at h
    split at h
    · exact ih h
    · rename_i hfree
      obtain rfl := Option.some.inj h
      exact ⟨by simpa using hfree, Nat.mod_lt _ hsize⟩

/-- With none found every identifier tried is in use. -/
theorem used_of_freeFrom_none {used : Nat → Bool} {size n i : Nat} (h : freeFrom used size n i = none) :
    ∀ j < n, used ((i + j) % size) = true := by
  induction n generalizing i with
  | zero => intro j hj; omega
  | succ n ih =>
    unfold freeFrom at h
    split at h
    · rename_i hused
      intro j hj
      cases j with
      | zero => exact hused
      | succ j =>
        have := ih h j (by omega)
        rwa [Nat.add_assoc, Nat.add_comm 1 j] at this
    · cases h

/-- With fewer identifiers in use than there are, one is found. -/
theorem freeFrom_isSome {used : Nat → Bool} {size n i : Nat} (l : List Nat) (hused : ∀ j, used j = true → j ∈ l)
    (hlen : l.length < n) (hn : n ≤ size) : ∃ j, freeFrom used size n i = some j := by
  cases hnone : freeFrom used size n i with
  | some j => exact ⟨j, rfl⟩
  | none =>
    have hall := used_of_freeFrom_none hnone
    have hinj : ((List.range n).map fun j => (i + j) % size).Nodup := by
      refine List.Nodup.map_on (fun a ha b hb hab => ?_) List.nodup_range
      have hmod : a % size = b % size := Nat.ModEq.add_left_cancel' i hab
      rwa [Nat.mod_eq_of_lt (by have := List.mem_range.mp ha; omega),
        Nat.mod_eq_of_lt (by have := List.mem_range.mp hb; omega)] at hmod
    have hsub : ((List.range n).map fun j => (i + j) % size) ⊆ l := fun x hx => by
      obtain ⟨j, hj, rfl⟩ := List.mem_map.mp hx
      exact hused _ (hall j (List.mem_range.mp hj))
    have := (List.subperm_of_subset hinj hsub).length_le
    simp only [List.length_map, List.length_range] at this
    omega

/-- The device picks an identifier that is not in use, and draws one free value. -/
theorem Dev.allocId_some (d : Dev) {used : Nat → Bool} {size taken : Nat} (l : List Nat) (hused : ∀ j, used j = true → j ∈ l)
    (hlen : l.length ≤ taken) (hsize : taken < size) : ∃ i fresh, d.allocId used size taken = some (i, { d with fresh := fresh }) ∧
      used i = false ∧ i < size := by
  obtain ⟨i, hi⟩ := freeFrom_isSome (i := (d.draw .allocId).1) l hused (Nat.lt_succ_of_le hlen) (by omega : taken + 1 ≤ size)
  obtain ⟨hfree, hlt⟩ := freeFrom_spec hi (by omega)
  refine ⟨i, d.fresh + 1, ?_, hfree, hlt⟩
  unfold Dev.allocId
  dsimp only
  rw [hi]
  rfl

/-- A key that is listed is among the table's keys. -/
theorem mem_keys_of_find {α : Type} {t : Tbl α} {k : Nat} (h : (Tbl.find t k).isSome = true) : k ∈ t.map (·.1) := by
  induction t with
  | nil => cases h
  | cons e t ih =>
    obtain ⟨i, a⟩ := e
    by_cases hi : i = k
    · simp [hi]
    · simp only [Tbl.find, hi, if_false] at h
      exact List.mem_cons_of_mem _ (ih h)

/-! ### Answers -/

theorem Dev.ctlAnswer_done (d : Dev) (fn : Nat) : CtlDone (d.ctlAnswer fn .done) fn ∧
    ∃ fns, d.ctlAnswer fn .done = { d with hif := { d.hif with fns := fns } } := by
  have hfn := d.fn_onFn_same fn fun f => { f with done := true, status := CStatus.completed.code, reason := 0, err := 0 }
  exact ⟨⟨congrArg Fn.done hfn, congrArg Fn.status hfn, congrArg Fn.reason hfn, congrArg Fn.err hfn⟩, _, rfl⟩

theorem Dev.ctlAnswer_value (d : Dev) (fn v v2 : Nat) : CtlDone (d.ctlAnswer fn (.value v v2)) fn ∧
    ((d.ctlAnswer fn (.value v v2)).fn fn).value = v ∧ ((d.ctlAnswer fn (.value v v2)).fn fn).value2 = v2 ∧
    ∃ fns, d.ctlAnswer fn (.value v v2) = { d with hif := { d.hif with fns := fns } } := by
  have hfn := d.fn_onFn_same fn fun f => { f with
    done := true, status := CStatus.completed.code, reason := 0, err := 0, value := v, value2 := v2 }
  exact ⟨⟨congrArg Fn.done hfn, congrArg Fn.status hfn, congrArg Fn.reason hfn, congrArg Fn.err hfn⟩,
    congrArg Fn.value hfn, congrArg Fn.value2 hfn, _, rfl⟩

/-! ### Creations -/

/-- A creation beyond its quota is refused. -/
theorem Dev.roomFor_full {d : Dev} {kind n limit total size : Nat} (h : limit ≤ n) (f : Dev → Dev × CtlAns) :
    d.roomFor kind n limit total size f = (d, .refused .policy 0x0608 [kind, limit]) := by
  simp [Dev.roomFor, h]

/-- With room under quota and table a creation goes on. -/
theorem Dev.roomFor_room {d : Dev} {kind n limit total size : Nat} (h : n < limit) (ht : total < size) (f : Dev → Dev × CtlAns) :
    d.roomFor kind n limit total size f = f d := by
  simp [Dev.roomFor, Nat.not_le.mpr h, Nat.not_le.mpr ht]

theorem Dev.ctxCreate_clean {d : Dev} {fn a : Nat} {op : Line} (hclean : allZero op [ctlHead, (0x10, 24, 8), (0x14, 0, 352)] = true)
    (hfn : (d.fn fn).ast = some a) (hhosts : (d.ast a).state.hosts = true) (now : Nat) : d.ctxCreate now fn op =
      d.roomFor 0 (d.hif.ctxs.filter fun e => e.2.ast == a).length (d.get (HIF_QUOTA_A.CTX_LIMIT a)) d.hif.ctxs.length 65536 fun d =>
        match d.allocId d.ctxUsed 65536 d.ctxTaken with
        | none => (d, .refused .memory 0x0608 [0, 65536])
        | some (i, d) => (d.onHif fun h => { h with ctxs := Tbl.put h.ctxs i (Ctx.new a fn now op) }, .value i 0) := by
  simp only [Dev.ctxCreate, hclean, hfn, hhosts, Bool.not_true, Bool.false_eq_true, if_false] <;> rfl

/-- Identifiers of contexts that may not be given out. -/
def Dev.ctxIds (d : Dev) : List Nat := d.hif.ctxs.map (·.1) ++ d.stk.flatMap fun e => e.2.purge.map (·.2)

theorem Dev.mem_ctxIds {d : Dev} {i : Nat} (h : d.ctxUsed i = true) : i ∈ d.ctxIds := by
  simp only [Dev.ctxUsed, Bool.or_eq_true, List.any_eq_true, beq_iff_eq] at h
  obtain h | ⟨e, he, p, hp, rfl⟩ := h
  · exact List.mem_append_left _ (mem_keys_of_find h)
  · exact List.mem_append_right _ (List.mem_flatMap.mpr ⟨e, he, List.mem_map.mpr ⟨p, hp, rfl⟩⟩)

theorem Dev.length_ctxIds (d : Dev) : d.ctxIds.length = d.ctxTaken := by
  have hfold : ∀ (l : Tbl Stack) (n : Nat), l.foldl (fun n e => n + e.2.purge.length) n =
      n + (l.flatMap fun e => e.2.purge.map (·.2)).length := by
    intro l
    induction l with
    | nil => intro n; rfl
    | cons e l ih =>
      intro n
      rw [List.foldl_cons, ih]
      simp only [List.flatMap_cons, List.length_append, List.length_map]
      omega
  simp [Dev.ctxIds, Dev.ctxTaken, hfold]

/-- A context is created under an identifier that is not in use. -/
theorem Dev.ctxCreate_some {d : Dev} {fn a : Nat} {op : Line}
    (hclean : allZero op [ctlHead, (0x10, 24, 8), (0x14, 0, 352)] = true) (hfn : (d.fn fn).ast = some a)
    (hhosts : (d.ast a).state.hosts = true) (hquota : (d.hif.ctxs.filter fun e => e.2.ast == a).length < d.get (HIF_QUOTA_A.CTX_LIMIT a))
    (htable : d.hif.ctxs.length < 65536) (htaken : d.ctxTaken < 65536) (now : Nat) : ∃ i fresh, i < 65536 ∧ d.ctxUsed i = false ∧
      d.ctxCreate now fn op = ({ d with
        fresh := fresh, hif := { d.hif with ctxs := Tbl.put d.hif.ctxs i (Ctx.new a fn now op) } }, .value i 0) := by
  obtain ⟨i, fresh, halloc, hfree, hlt⟩ := d.allocId_some d.ctxIds (fun j => Dev.mem_ctxIds) (d.length_ctxIds).le htaken
  refine ⟨i, fresh, hlt, hfree, ?_⟩
  rw [Dev.ctxCreate_clean hclean hfn hhosts, Dev.roomFor_room hquota htable, halloc]
  rfl

/-- The fields of QUEUE_CREATE that hold nothing. -/
def queueZeros : List (Nat × Nat × Nat) :=
  [ctlHead, (0x12, 5, 3), (0x13, 5, 3), (0x14, 11, 21), (0x18, 0, 12), (0x20, 0, 12), (0x28, 0, 192)]

/-- A ring of a size out of range is refused. -/
theorem Dev.queueCreate_badSize {d : Dev} {fn a : Nat} {op : Line} {c : Ctx} (hclean : allZero op queueZeros = true)
    (hfn : (d.fn fn).ast = some a) (hc : Tbl.find d.hif.ctxs (fld op 0x10 0 16) = some c) (hast : c.ast = a)
    (hname : c.nameable = true) (hsize : fld op 0x12 0 5 < 6 ∨ 16 < fld op 0x12 0 5) :
    d.queueCreate fn op = bad d 0x0609 [0xC2, fld op 0x10 0 16] := by
  have hrange : (decide (6 ≤ fld op 0x12 0 5) && decide (fld op 0x12 0 5 ≤ 16)) = false := by
    rw [Bool.and_eq_false_iff, decide_eq_false_iff_not, decide_eq_false_iff_not]
    omega
  unfold queueZeros at hclean
  unfold Dev.queueCreate
  simp only [hclean, hfn, hc, hast, hname, hrange, Bool.not_true, Bool.not_false, Bool.true_or, Bool.false_eq_true, ne_eq,
    not_true_eq_false, or_self, if_false, if_true]

/-- A queue is created under an identifier and a doorbell that are not in use. -/
theorem Dev.queueCreate_some {d : Dev} {fn a : Nat} {op : Line} {c : Ctx} (hclean : allZero op queueZeros = true)
    (hfn : (d.fn fn).ast = some a) (hc : Tbl.find d.hif.ctxs (fld op 0x10 0 16) = some c) (hast : c.ast = a)
    (hname : c.nameable = true) (hlo : 6 ≤ fld op 0x12 0 5) (hhi : fld op 0x12 0 5 ≤ 16) (hclo : 6 ≤ fld op 0x13 0 5)
    (hchi : fld op 0x13 0 5 ≤ 16)
    (hquota : (d.hif.queues.filter fun e => d.queueAst e.2 == some a).length < d.get (HIF_QUOTA_A.QUEUE_LIMIT a))
    (htable : d.hif.queues.length < 262144)
    (hmine : (d.hif.queues.filter fun e => e.2.fn == fn).length < d.get (HIF_QUOTA_A.QUEUE_LIMIT a)) :
    ∃ q b fresh cq, q < 262144 ∧ b < d.get (HIF_QUOTA_A.QUEUE_LIMIT a) ∧ Tbl.find d.hif.queues q = none ∧
      (∀ k ∈ d.hif.queues, k.2.fn = fn → k.2.dbidx ≠ b) ∧ d.queueCreate fn op = ({ d with
        fresh := fresh
        hif := { d.hif with queues := Tbl.put d.hif.queues q (Queue.new (fld op 0x10 0 16) fn b op), cq := cq } },
        .value (q + b * 2 ^ 32) 0) := by
  obtain ⟨q, fresh, hq, hqfree, hqlt⟩ := d.allocId_some (used := fun i => (Tbl.find d.hif.queues i).isSome)
    (d.hif.queues.map (·.1)) (fun j => mem_keys_of_find) (by simp) htable
  obtain ⟨b, fresh', hb, hbfree, hblt⟩ := ({ d with fresh := fresh } : Dev).allocId_some
    (used := fun i => (d.hif.queues.filter fun e => e.2.fn == fn).any fun e => e.2.dbidx == i)
    ((d.hif.queues.filter fun e => e.2.fn == fn).map (·.2.dbidx)) (fun j hj => by
      obtain ⟨e, he, heq⟩ := List.any_eq_true.mp hj
      exact List.mem_map.mpr ⟨e, he, by simpa using heq⟩) (by simp) hmine
  refine ⟨q, b, fresh', d.hif.cq.filter fun e => e.1 / 2 ^ 16 != q, hqlt, hblt, by simpa using hqfree, fun k hk hkfn hkb => ?_, ?_⟩
  · rw [List.any_eq_false] at hbfree
    exact hbfree k (List.mem_filter.mpr ⟨hk, by simp [hkfn]⟩) (by simp [hkb])
  · unfold queueZeros at hclean
    unfold Dev.queueCreate
    simp only [hclean, hfn, hc, hast, hname, hlo, hhi, hclo, hchi, decide_true, Bool.and_self, Bool.not_true, Bool.or_self,
      Bool.false_eq_true, ne_eq, not_true_eq_false, or_self, if_false]
    rw [Dev.roomFor_room hquota htable, hq]
    dsimp only
    rw [hb]
    rfl

/-- The fields of OBJ_CREATE that hold nothing. -/
def objZeros : List (Nat × Nat × Nat) :=
  [ctlHead, (0x10, 22, 10), (0x14, 0, 32), (0x18, 56, 8), (0x20, 57, 7), (0x28, 0, 192)]

/-- The object an OBJ_CREATE of an asterism describes. -/
def Obj.new (a : Nat) (op : Line) : Obj where
  va := fld op 0x18 0 56
  size := fld op 0x20 0 57
  ast := a
  state := .live
  ctx := fld op 0x10 0 16
  shared := fld op 0x10 16 1 == 1
  poolb := fld op 0x10 17 1 == 1
  pidx := fld op 0x10 18 4
  inflight := 0
  freer := none

/-- An object with a sound name: a size that is out of range is refused, else quota and table decide. -/
theorem Dev.objCreate_named {d : Dev} {fn a : Nat} {op : Line} (hclean : allZero op objZeros = true) (hfn : (d.fn fn).ast = some a)
    (hname : fld op 0x10 16 1 = 1 ∨ ∃ c, Tbl.find d.hif.ctxs (fld op 0x10 0 16) = some c ∧ c.ast = a ∧ c.nameable = true) :
    d.objCreate fn op = if fld op 0x20 0 57 = 0 ∨ 2 ^ 56 - fld op 0x18 0 56 < fld op 0x20 0 57 then
        bad d 0x0609 [0xC4, fld op 0x10 0 16]
      else d.roomFor 2 (d.hif.objs.filter fun e => e.2.ast == a).length (d.get (HIF_QUOTA_B.OBJ_LIMIT a)) d.hif.objs.length 16777216
        fun d => match d.allocId (fun i => (Tbl.find d.hif.objs i).isSome) 16777216 d.hif.objs.length with
          | none => (d, .refused .memory 0x0608 [2, 16777216])
          | some (o, d) => (d.onHif fun h => { h with objs := Tbl.put h.objs o (Obj.new a op) }, .value o 0) := by
  unfold objZeros at hclean
  unfold Dev.objCreate
  obtain hshared | ⟨c, hc, hast, hnm⟩ := hname
  · have hs : (fld op 0x10 16 1 == 1) = true := by simp [hshared]
    dsimp only
    rw [hclean, if_neg (by decide), hfn]
    dsimp only
    rw [if_pos hs]
    rfl
  · simp only [hclean, hfn, hc, hast, hnm, Bool.not_true, Bool.false_eq_true, ne_eq, not_true_eq_false, if_false, if_true, ite_self]
    rfl

theorem Dev.objCreate_some {d : Dev} {fn a : Nat} {op : Line} (hclean : allZero op objZeros = true) (hfn : (d.fn fn).ast = some a)
    (hname : fld op 0x10 16 1 = 1 ∨ ∃ c, Tbl.find d.hif.ctxs (fld op 0x10 0 16) = some c ∧ c.ast = a ∧ c.nameable = true)
    (hpos : 0 < fld op 0x20 0 57) (hfits : fld op 0x20 0 57 ≤ 2 ^ 56 - fld op 0x18 0 56)
    (hquota : (d.hif.objs.filter fun e => e.2.ast == a).length < d.get (HIF_QUOTA_B.OBJ_LIMIT a))
    (htable : d.hif.objs.length < 16777216) : ∃ o fresh, o < 16777216 ∧ Tbl.find d.hif.objs o = none ∧
      d.objCreate fn op = ({ d with
        fresh := fresh, hif := { d.hif with objs := Tbl.put d.hif.objs o (Obj.new a op) } }, .value o 0) := by
  obtain ⟨o, fresh, ho, hfree, hlt⟩ := d.allocId_some (used := fun i => (Tbl.find d.hif.objs i).isSome)
    (d.hif.objs.map (·.1)) (fun j => mem_keys_of_find) (by simp) htable
  refine ⟨o, fresh, hlt, by simpa using hfree, ?_⟩
  rw [Dev.objCreate_named hclean hfn hname, if_neg (by omega), Dev.roomFor_room hquota htable]
  dsimp only
  rw [ho]
  rfl

/-- The fields of EVENT_CREATE that hold nothing. -/
def eventZeros : List (Nat × Nat × Nat) := [ctlHead, (0x10, 1, 31), (0x14, 0, 32), (0x18, 63, 1), (0x20, 0, 256)]

theorem Dev.eventCreate_badValue {d : Dev} {fn a : Nat} {op : Line} (hclean : allZero op eventZeros = true)
    (hfn : (d.fn fn).ast = some a) (hsem : fld op 0x10 0 1 = 1) (hv : fld op 0x18 0 63 = 0 ∨ 8 < fld op 0x18 0 63) :
    d.eventCreate fn op = bad d 0x0609 [0xC5, 0] := by
  unfold eventZeros at hclean
  simp [Dev.eventCreate, hclean, hfn, hsem, hv]

theorem Dev.eventCreate_some {d : Dev} {fn a : Nat} {op : Line} (hclean : allZero op eventZeros = true)
    (hfn : (d.fn fn).ast = some a) (hv : fld op 0x10 0 1 = 0 ∨ 1 ≤ fld op 0x18 0 63 ∧ fld op 0x18 0 63 ≤ 8)
    (hquota : (d.hif.events.filter fun e => e.2.ast == a).length < d.get (HIF_QUOTA_B.EVT_LIMIT a))
    (htable : d.hif.events.length < 1048575) : ∃ v fresh, 0 < v ∧ v < 1048576 ∧ Tbl.find d.hif.events v = none ∧
      d.eventCreate fn op = ({ d with
        fresh := fresh
        hif := { d.hif with events := Tbl.put d.hif.events v {
          value := fld op 0x18 0 63, abandoned := false, ast := a, sem := fld op 0x10 0 1 == 1, holders := [], waiters := 0 } } },
        .value v 0) := by
  obtain ⟨v, fresh, ho, hfree, hlt⟩ := d.allocId_some (used := fun i => i == 0 || (Tbl.find d.hif.events i).isSome)
    (size := 1048576) (taken := d.hif.events.length + 1) (0 :: d.hif.events.map (·.1)) (fun j hj => by
      rw [Bool.or_eq_true, beq_iff_eq] at hj
      obtain rfl | hj := hj
      · exact List.mem_cons_self
      · exact List.mem_cons_of_mem _ (mem_keys_of_find hj)) (by simp) (by omega)
  simp only [Bool.or_eq_false_iff, beq_eq_false_iff_ne, ne_eq] at hfree
  have hok : ¬((fld op 0x10 0 1 == 1) = true ∧ (fld op 0x18 0 63 = 0 ∨ 8 < fld op 0x18 0 63)) := by
    rw [beq_iff_eq]
    omega
  refine ⟨v, fresh, Nat.pos_of_ne_zero hfree.1, hlt, by simpa using hfree.2, ?_⟩
  unfold eventZeros at hclean
  unfold Dev.eventCreate
  dsimp only
  rw [hclean, if_neg (by decide), hfn]
  dsimp only
  rw [if_neg hok, Dev.roomFor_room hquota htable, ho]
  rfl

/-! ### Removals, and a context that goes on -/

theorem Dev.queueDestroy_eq {d : Dev} {fn a : Nat} {op : Line} {k : Queue}
    (hclean : allZero op [ctlHead, (0x10, 18, 14), (0x14, 0, 352)] = true) (hfn : (d.fn fn).ast = some a)
    (hk : Tbl.find d.hif.queues (fld op 0x10 0 18) = some k) : d.queueDestroy fn op =
      if d.queueAst k ≠ some a then bad d 0x0603 [1, fld op 0x10 0 18]
      else if d.queueWaits (fld op 0x10 0 18) k then bad d 0x0609 [0xC3, fld op 0x10 0 18]
      else (d.dropQueue (fld op 0x10 0 18), .done) := by
  simp only [Dev.queueDestroy, hclean, hfn, hk, Bool.not_true, Bool.false_eq_true, if_false]

theorem Dev.eventDestroy_eq {d : Dev} {fn a : Nat} {op : Line} {v : Event}
    (hclean : allZero op [ctlHead, (0x10, 20, 12), (0x14, 0, 352)] = true) (hfn : (d.fn fn).ast = some a)
    (hv : Tbl.find d.hif.events (fld op 0x10 0 20) = some v) : d.eventDestroy fn op =
      if v.ast ≠ a then bad d 0x0603 [3, fld op 0x10 0 20]
      else if v.waiters ≠ 0 ∨ !v.holders.isEmpty then bad d 0x0609 [0xC6, fld op 0x10 0 20]
      else (d.onHif fun h => { h with events := Tbl.del h.events (fld op 0x10 0 20) }, .done) := by
  simp only [Dev.eventDestroy, hclean, hfn, hv, Bool.not_true, Bool.false_eq_true, if_false]

/-- What follows the resumption of a context: what waited on its tiles and at the heads of its queues. -/
def Dev.afterResume (d : Dev) (now x : Nat) : Dev :=
  let d := d.after now
  (d.hif.queues.filter fun e => e.2.ctx == x).foldl (fun d e => d.afterHead now e.1) d

theorem Dev.ctxResume_eq {d : Dev} {fn a : Nat} {op : Line} {c : Ctx} (hclean : allZero op [ctlHead, (0x12, 0, 368)] = true)
    (hfn : (d.fn fn).ast = some a) (hc : Tbl.find d.hif.ctxs (fld op 0x10 0 16) = some c) (hast : c.ast = a) (now : Nat) :
    d.ctxResume now fn op = if c.state ≠ .faulted ∧ c.state ≠ .retained then bad d 0x0609 [0xC1, fld op 0x10 0 16]
      else ((((d.onCtx (fld op 0x10 0 16) fun c => { c with state := .active }).resumeTiles (fld op 0x10 0 16)).afterResume now
        (fld op 0x10 0 16)), .done) := by
  simp only [Dev.ctxResume, hclean, hfn, hc, hast, Bool.not_true, Bool.false_eq_true, ne_eq, not_true_eq_false, if_false]
  rfl

/-- A resumed context's tiles are kept back no longer. -/
theorem Dev.resumeTiles_retained {d : Dev} {x k : Nat} {t : Tile} (ht : ((d.resumeTiles x).coreAt k).tile = some t)
    (hx : t.own.ctx = x) : t.retained = false := by
  unfold Dev.resumeTiles Dev.coreAt Tbl.look at ht
  dsimp only at ht
  rw [Tbl.find_mapV] at ht
  cases hk : Tbl.find d.core k with
  | none =>
    rw [hk] at ht
    cases ht
  | some c =>
    rw [hk] at ht
    obtain ⟨u, -, rfl⟩ := Option.map_eq_some_iff.mp ht
    by_cases hu : u.own.ctx = x ∧ u.retained = true
    · rw [if_pos hu]
    · rw [if_neg hu] at hx ⊢
      simpa [hx] using hu

/-! ### QUERY -/

theorem Dev.query_clean {d : Dev} {fn a i : Nat} {op : Line} (hclean : allZero op [ctlHead, (0x10, 2, 30), (0x14, 24, 8), (0x18, 0, 320)] = true)
    (hfn : (d.fn fn).ast = some a) (hi : fld op 0x14 0 24 = i) :
    (∀ v, fld op 0x10 0 2 = 3 → Tbl.find d.hif.events i = some v → v.ast = a →
      d.query fn op = (d, .value (v.value + v.abandoned.toNat * 2 ^ 63) v.word)) ∧
    (∀ b, fld op 0x10 0 2 = 2 → Tbl.find d.hif.objs i = some b → b.ast = a → d.query fn op = (d, .value b.word b.va)) ∧
    (∀ k, fld op 0x10 0 2 = 1 → Tbl.find d.hif.queues i = some k → d.queueAst k = some a →
      d.query fn op = (d, .value (k.head + k.tail * 2 ^ 32) (k.ctx + k.resident.toNat * 2 ^ 16))) ∧
    (∀ c, fld op 0x10 0 2 = 0 → Tbl.find d.hif.ctxs i = some c → c.ast = a →
      (d.hif.queues.filter fun e => e.2.ctx == i).length < 65536 → d.query fn op =
        (d, .value (c.state.code + c.blocked.toNat * 8 + c.resident.toNat * 16 + (d.pinned i).toNat * 32 + c.prio * 64 +
          (d.hif.queues.filter fun e => e.2.ctx == i).length * 2 ^ 32) (c.energy / 1000))) := by
  subst hi
  refine ⟨fun v hkind hv hast => ?_, fun b hkind hb hast => ?_, fun k hkind hk hast => ?_, fun c hkind hc hast hlen => ?_⟩
  · simp only [Dev.query, hclean, hfn, hkind, hv, hast, Bool.not_true, Bool.false_eq_true, ne_eq, not_true_eq_false, if_false]
  · simp only [Dev.query, hclean, hfn, hkind, hb, hast, Bool.not_true, Bool.false_eq_true, ne_eq, not_true_eq_false, if_false]
  · simp only [Dev.query, hclean, hfn, hkind, hk, hast, Bool.not_true, Bool.false_eq_true, ne_eq, not_true_eq_false, if_false]
  · simp only [Dev.query, hclean, hfn, hkind, hc, hast, Bool.not_true, Bool.false_eq_true, ne_eq, not_true_eq_false, if_false,
      Dev.count16, hlen, if_true]

theorem CtxState.code_lt (s : CtxState) : s.code < 8 := by cases s <;> decide

/-! ### Control operations that answer -/

/-- An operation that is refused and leaves the device: the page shows it, and of the host interface only the page differs. -/
theorem answers_refused {s : State} {c : Instr} {fn code err : Nat} {op : Line} {det : List Nat} {f : Dev → Dev × CtlAns} {P : Dev → Prop}
    (hlead : Leads c s (s.dev.ctl fn code op f)) (hlisted : ctlListed code = true) (hop : fld op 0 0 8 = code)
    (hf : f s.dev = bad s.dev err det)
    (hP : ∀ e : Dev, CtlRefused e fn err → (∃ fns, e.hif = { s.dev.hif with fns := fns }) → P e) : Answers c s P := by
  refine answers_of_eq hlead ((Dev.ctl_of_code hlisted hop s.dev fn f).trans (congrArg (fun x : Dev × CtlAns =>
    x.1.ctlAnswer fn x.2) hf)) ?_
  obtain ⟨hrefused, hhif⟩ := s.dev.ctlAnswer_refused fn .policy err det
  exact hP _ hrefused hhif

/-- An operation that is done. -/
theorem answers_done {s : State} {c : Instr} {fn code : Nat} {op : Line} {f : Dev → Dev × CtlAns} {e : Dev} {P : Dev → Prop}
    (hlead : Leads c s (s.dev.ctl fn code op f)) (hlisted : ctlListed code = true) (hop : fld op 0 0 8 = code)
    (hf : f s.dev = (e, .done)) (hP : ∀ fns, CtlDone { e with hif := { e.hif with fns := fns } } fn →
      P { e with hif := { e.hif with fns := fns } }) : Answers c s P := by
  refine answers_of_eq hlead ((Dev.ctl_of_code hlisted hop s.dev fn f).trans (congrArg (fun x : Dev × CtlAns =>
    x.1.ctlAnswer fn x.2) hf)) ?_
  obtain ⟨hdone, fns, he⟩ := e.ctlAnswer_done fn
  dsimp only
  rw [he] at hdone ⊢
  exact hP fns hdone

/-- An operation that gives values. -/
theorem answers_value {s : State} {c : Instr} {fn code v v2 : Nat} {op : Line} {f : Dev → Dev × CtlAns} {e : Dev} {P : Dev → Prop}
    (hlead : Leads c s (s.dev.ctl fn code op f)) (hlisted : ctlListed code = true) (hop : fld op 0 0 8 = code)
    (hf : f s.dev = (e, .value v v2)) (hP : ∀ fns, let r : Dev := { e with hif := { e.hif with fns := fns } }
      CtlDone r fn → (r.fn fn).value = v → (r.fn fn).value2 = v2 → P r) : Answers c s P := by
  refine answers_of_eq hlead ((Dev.ctl_of_code hlisted hop s.dev fn f).trans (congrArg (fun x : Dev × CtlAns =>
    x.1.ctlAnswer fn x.2) hf)) ?_
  obtain ⟨hdone, hv, hv2, fns, he⟩ := e.ctlAnswer_value fn v v2
  dsimp only
  rw [he] at hdone hv hv2 ⊢
  exact hP fns hdone hv hv2

/-! ### Doorbells and fetch -/

/-- A DB_TAIL value within the ring is the new tail; only the context's waiting time may change with it. -/
theorem Dev.dbTail_fine {d : Dev} {fn b v q : Nat} {k : Queue} (hat : d.queueAt fn b = some (q, k))
    (hok : k.tailOk (v % 2 ^ 32) = true) (now : Nat) : ∃ ctxs, d.dbTail now fn b v =
      { d with hif := { d.hif with queues := Tbl.adj d.hif.queues q fun k => { k with tail := v % 2 ^ 32 }, ctxs := ctxs } } := by
  unfold Dev.dbTail
  dsimp only
  rw [hat]
  dsimp only
  rw [hok, Bool.not_true, if_neg Bool.false_ne_true]
  split
  · exact ⟨_, rfl⟩
  · exact ⟨_, rfl⟩

theorem Dev.dbTail_out {d : Dev} {fn b v q : Nat} {k : Queue} (hat : d.queueAt fn b = some (q, k))
    (hok : k.tailOk (v % 2 ^ 32) = false) (now : Nat) : d.dbTail now fn b v =
      d.raise 0x0605 (svcUnit (d.home ((d.queueAst k).getD 0))) 0x00 .info [q, v % 2 ^ 32, k.head]
        (some ((d.queueAst k).getD 0, k.ctx)) := by
  simp only [Dev.dbTail, hat, hok, Bool.not_false, if_true]

theorem Dev.cqHead_eq {d : Dev} {fn b q : Nat} {k : Queue} (hat : d.queueAt fn b = some (q, k)) (now v : Nat) : d.cqHead now fn b v =
    if (k.cqTail + 2 ^ 32 - k.cqHead) % 2 ^ 32 < (v % 2 ^ 32 + 2 ^ 32 - k.cqHead) % 2 ^ 32 then d
    else Dev.drainHeld now q (k.held.length + 1) (d.onQueue q fun k => { k with cqHead := v % 2 ^ 32 }) := by
  simp only [Dev.cqHead, hat]

/-- With no record held the episode ends. -/
theorem Dev.drainHeld_nil {d : Dev} {q n : Nat} {k : Queue} (hk : Tbl.find d.hif.queues q = some k) (hheld : k.held = []) (now : Nat) :
    Dev.drainHeld now q (n + 1) d = d.onQueue q fun k => { k with cqEpisode := false } := by
  simp [Dev.drainHeld, hk, hheld]

theorem Dev.find_onQueue_same {d : Dev} {q : Nat} {k : Queue} (hk : Tbl.find d.hif.queues q = some k) (f : Queue → Queue) :
    Tbl.find (d.onQueue q f).hif.queues q = some (f k) :=
  (Tbl.find_adj_same _ _ _).trans (congrArg (Option.map f) hk)

theorem Dev.fetch_fetches {d : Dev} {q : Nat} {k : Queue} (hk : Tbl.find d.hif.queues q = some k) (hfetch : d.fetches k = true)
    (slots : List Line) (now : Nat) : ∃ f : Queue → Queue,
      f k = { k with
        head := (k.head + (slots.take (min 16 ((k.tail + 2 ^ 32 - k.head) % 2 ^ 32))).length) % 2 ^ 32
        fetched := k.fetched ++ (slots.take (min 16 ((k.tail + 2 ^ 32 - k.head) % 2 ^ 32))).zipIdx.map fun x =>
          { pos := (k.head + x.2) % 2 ^ 32, index := 0xFFFF, call := none, slot := x.1 } } ∧
      d.fetch now q slots = (d.onQueue q f).afterHead now q := by
  simp only [Dev.fetch, hk, hfetch, Bool.not_true, Bool.false_eq_true, if_false]
  exact ⟨_, rfl, rfl⟩

/-! ### The obligation's three parts -/

/-- What the four creations answer. -/
theorem creations_answer (s : State) (fn a : Nat) (op : Line) (hfn : (s.dev.fn fn).ast = some a) :
    let d := s.dev
    (fld op 0 0 8 = 0xC0 → allZero op [ctlHead, (0x10, 24, 8), (0x14, 0, 352)] = true → (d.ast a).state.hosts = true →
      (d.get (HIF_QUOTA_A.CTX_LIMIT a) ≤ (d.hif.ctxs.filter fun e => e.2.ast == a).length → Answers (.ctxCreate fn op) s fun e =>
        CtlRefused e fn 0x0608 ∧ e.hif.ctxs = d.hif.ctxs) ∧
      ((d.hif.ctxs.filter fun e => e.2.ast == a).length < d.get (HIF_QUOTA_A.CTX_LIMIT a) → d.hif.ctxs.length < 65536 →
        d.ctxTaken < 65536 → Answers (.ctxCreate fn op) s fun e => CtlDone e fn ∧ ∃ i, (e.fn fn).value = i ∧ i < 65536 ∧
          d.ctxUsed i = false ∧ e.hif.ctxs = Tbl.put d.hif.ctxs i (Ctx.new a fn s.now op) ∧ (Ctx.new a fn s.now op).infl = 64 ∧
          (Ctx.new a fn s.now op).state = .active ∧ (Ctx.new a fn s.now op).prio = fld op 0x10 21 3 ∧
          { e with hif := d.hif, fresh := d.fresh } = d)) := by
  intro d hop hclean hhosts
  refine ⟨fun hfull => ?_, fun hquota htable htaken => ?_⟩
  · refine answers_refused (f := fun d => d.ctxCreate s.now fn op) (det := [0, d.get (HIF_QUOTA_A.CTX_LIMIT a)]) rfl (by decide) hop
      ?_ fun e he hhif => ⟨he, ?_⟩
    · exact (Dev.ctxCreate_clean hclean hfn hhosts s.now).trans (Dev.roomFor_full hfull _)
    · obtain ⟨fns, h⟩ := hhif
      rw [h]
  · obtain ⟨i, fresh, hlt, hfree, hcreate⟩ := Dev.ctxCreate_some hclean hfn hhosts hquota htable htaken s.now
    exact answers_value (f := fun d => d.ctxCreate s.now fn op) rfl (by decide) hop hcreate fun fns hdone hv _ =>
      ⟨hdone, i, hv, hlt, hfree, rfl, rfl, rfl, rfl, rfl⟩

/-- Settles O25: the control operations, QUERY, the doorbells and the fetch. -/
theorem controlAndDoorbells : Obligations.ControlAndDoorbells := by
  refine ⟨fun s fn a op hfn => ?create, fun s fn a op hfn => ?control, fun s => ?doorbells⟩
  case create =>
    intro d x
    refine ⟨creations_answer s fn a op hfn, fun c hop hclean hc hast hname => ⟨fun hsize => ?_, fun hlo hhi hclo hchi hquota htable hmine => ?_⟩,
      fun hop hclean hname => ⟨fun hzero => ?_, fun hpos hfits hquota htable => ?_⟩,
      fun hop hclean => ⟨fun hsem hv => ?_, fun hv hquota htable => ?_⟩⟩
    · refine answers_refused (f := fun d => d.queueCreate fn op) rfl (by decide) hop
        (Dev.queueCreate_badSize hclean hfn hc hast hname hsize) fun e he hhif => ⟨he, ?_⟩
      obtain ⟨fns, h⟩ := hhif
      rw [h]
    · obtain ⟨q, b, fresh, cq, hqlt, hblt, hqfree, hbfree, hcreate⟩ :=
        Dev.queueCreate_some hclean hfn hc hast hname hlo hhi hclo hchi hquota htable hmine
      exact answers_value (f := fun d => d.queueCreate fn op) rfl (by decide) hop hcreate fun fns hdone hv _ =>
        ⟨hdone, q, b, hv, hqlt, hblt, hqfree, hbfree, rfl, rfl, rfl, rfl, rfl⟩
    · refine answers_refused (f := fun d => d.objCreate fn op) (det := [0xC4, x]) rfl (by decide) hop ?_ fun e he hhif => ⟨he, ?_⟩
      · exact (Dev.objCreate_named hclean hfn hname).trans (if_pos (.inl hzero))
      · obtain ⟨fns, h⟩ := hhif
        rw [h]
    · obtain ⟨o, fresh, hlt, hfree, hcreate⟩ := Dev.objCreate_some hclean hfn hname hpos hfits hquota htable
      exact answers_value (f := fun d => d.objCreate fn op) rfl (by decide) hop hcreate fun fns hdone hv _ =>
        ⟨hdone, o, hv, hlt, hfree, rfl, rfl⟩
    · refine answers_refused (f := fun d => d.eventCreate fn op) rfl (by decide) hop
        (Dev.eventCreate_badValue hclean hfn hsem hv) fun e he hhif => ⟨he, ?_⟩
      obtain ⟨fns, h⟩ := hhif
      rw [h]
    · obtain ⟨v, fresh, hpos, hlt, hfree, hcreate⟩ := Dev.eventCreate_some hclean hfn hv hquota htable
      exact answers_value (f := fun d => d.eventCreate fn op) rfl (by decide) hop hcreate fun fns hdone hval _ =>
        ⟨hdone, v, hval, hpos, hlt, hfree, rfl, rfl⟩
  case control =>
    intro d
    refine ⟨fun k q hq hop hclean hk => ?_, fun v i hi hop hclean hv => ?_, fun c x hx hop hclean hc hast => ?_,
      fun i hop hclean hi => ?_⟩
    · subst hq
      have heq := Dev.queueDestroy_eq hclean hfn hk
      refine ⟨fun hast hwait => ?_, fun hast hwait => ?_, fun hast => ?_⟩
      · rw [if_neg (fun h => h hast), if_neg (fun h => Bool.false_ne_true (hwait.symm.trans h))] at heq
        exact answers_done (f := fun d => d.queueDestroy fn op) rfl (by decide) hop heq fun fns hdone => ⟨hdone, rfl, rfl⟩
      · rw [if_neg (fun h => h hast), if_pos hwait] at heq
        refine answers_refused (f := fun d => d.queueDestroy fn op) rfl (by decide) hop heq fun e he hhif => ⟨he, ?_⟩
        obtain ⟨fns, h⟩ := hhif
        rw [h]
      · rw [if_pos hast] at heq
        refine answers_refused (f := fun d => d.queueDestroy fn op) rfl (by decide) hop heq fun e he hhif => ⟨he, ?_⟩
        obtain ⟨fns, h⟩ := hhif
        rw [h]
    · subst hi
      have heq := Dev.eventDestroy_eq hclean hfn hv
      refine ⟨fun hast hwaiters hholders => ?_, fun hnot => ?_⟩
      · rw [if_neg (by simp [hast]), if_neg (by simp [hwaiters, hholders])] at heq
        exact answers_done (f := fun d => d.eventDestroy fn op) rfl (by decide) hop heq fun fns hdone => ⟨hdone, rfl, rfl⟩
      · by_cases hast : v.ast ≠ a
        · rw [if_pos hast] at heq
          refine answers_refused (f := fun d => d.eventDestroy fn op) rfl (by decide) hop heq fun e he hhif => ?_
          obtain ⟨fns, h⟩ := hhif
          rw [if_pos hast, h]
          exact ⟨he, rfl⟩
        · rw [if_neg hast, if_pos (by simpa [List.isEmpty_iff] using hnot.resolve_left hast)] at heq
          refine answers_refused (f := fun d => d.eventDestroy fn op) rfl (by decide) hop heq fun e he hhif => ?_
          obtain ⟨fns, h⟩ := hhif
          rw [if_neg hast, h]
          exact ⟨he, rfl⟩
    · subst hx
      have heq := Dev.ctxResume_eq hclean hfn hc hast s.now
      refine ⟨fun hstate => ?_, fun hf hr => ?_⟩
      · rw [if_neg (fun h => hstate.elim h.1 h.2)] at heq
        refine ⟨(d.onCtx (fld op 0x10 0 16) fun c => { c with state := .active }).resumeTiles (fld op 0x10 0 16),
          leads_of_eq rfl ((Dev.ctl_of_code (by decide) hop d fn _).trans (congrArg (fun x : Dev × CtlAns =>
            x.1.ctlAnswer fn x.2) heq)), (Tbl.find_adj_same _ _ _).trans (congrArg (Option.map _) hc), fun k t ht hx => ?_⟩
        exact Dev.resumeTiles_retained ht hx
      · rw [if_pos ⟨hf, hr⟩] at heq
        refine answers_refused (f := fun d => d.ctxResume s.now fn op) rfl (by decide) hop heq fun e he hhif => ⟨he, ?_⟩
        obtain ⟨fns, h⟩ := hhif
        rw [h]
    · obtain ⟨hevent, hobj, hqueue, hctx⟩ := Dev.query_clean hclean hfn hi
      refine ⟨fun v hkind hv hast => ?_, fun b hkind hb hast => ?_, fun k hkind hk hast => ?_, fun c hkind hc hast hlen => ?_⟩
      · exact answers_value (f := fun d => d.query fn op) rfl (by decide) hop (hevent v hkind hv hast) fun fns hdone h1 h2 =>
          ⟨hdone, h1, h2, rfl⟩
      · exact answers_value (f := fun d => d.query fn op) rfl (by decide) hop (hobj b hkind hb hast) fun fns hdone h1 h2 =>
          ⟨hdone, h1, h2, rfl⟩
      · exact answers_value (f := fun d => d.query fn op) rfl (by decide) hop (hqueue k hkind hk hast) fun fns hdone h1 h2 =>
          ⟨hdone, h1, h2, rfl⟩
      · refine answers_value (f := fun d => d.query fn op) rfl (by decide) hop (hctx c hkind hc hast hlen) fun fns hdone h1 h2 =>
          ⟨hdone, h2, ?_, rfl⟩
        have hcode := c.state.code_lt
        rw [h1]
        omega
  case doorbells =>
    intro d
    refine ⟨fun fn b v q k hat hk => ⟨fun hok => ?_, fun hok => ?_, fun hpast => ?_, fun hwithin => ⟨?_, fun hheld => ?_⟩⟩,
      fun q k slots hk hfetch => ?_, fun q k slots hk hfetch => ?_⟩
    · obtain ⟨ctxs, he⟩ := Dev.dbTail_fine hat hok s.now
      exact answers_of_eq rfl he ⟨(Tbl.find_adj_same _ _ _).trans (congrArg (Option.map _) hk),
        fun j hj => Tbl.find_adj_other _ _ _ _ hj, rfl⟩
    · exact answers_of_eq rfl (Dev.dbTail_out hat hok s.now) ⟨rfl, _, rfl, rfl, rfl⟩
    · exact leads_of_eq rfl ((Dev.cqHead_eq hat s.now v).trans (if_pos hpast))
    · exact leads_of_eq rfl ((Dev.cqHead_eq hat s.now v).trans (if_neg (Nat.not_lt.mpr hwithin)))
    · have hk1 := Dev.find_onQueue_same hk fun k => { k with cqHead := v % 2 ^ 32 }
      refine answers_of_eq rfl ((Dev.cqHead_eq hat s.now v).trans ((if_neg (Nat.not_lt.mpr hwithin)).trans
        (Dev.drainHeld_nil hk1 hheld s.now))) ⟨Dev.find_onQueue_same hk1 _, rfl⟩
    · obtain ⟨f, hf, heq⟩ := Dev.fetch_fetches hk hfetch slots s.now
      exact ⟨d.onQueue q f, leads_of_eq rfl heq, _, rfl, (Dev.find_onQueue_same hk f).trans (congrArg some hf),
        fun j hj => Tbl.find_adj_other _ _ _ _ hj, rfl⟩
    · exact leads_of_eq rfl (by simp [Dev.fetch, d, hk, hfetch])

end Sys2Proof.Machine
end

section
/-!
PROOFS. Residency slots, time slices, and what a lowered guarantee sheds (R201, R342 to R345, R368, R375).
-/

namespace Sys2Proof.Machine

/-! ### Folds -/

/-- A fold reaches what one of its members brings about and no member undoes. -/
theorem foldl_reaches {α β : Type} {I P : β → Prop} {f : β → α → β} {l : List α} {a : α} (ha : a ∈ l)
    (hI : ∀ b x, I b → I (f b x)) (hP : ∀ b x, P b → P (f b x)) (hhit : ∀ b, I b → P (f b a)) {b : β} (hb : I b) : P (l.foldl f b) := by
  obtain ⟨l1, l2, rfl⟩ := List.append_of_mem ha
  rw [List.foldl_append, List.foldl_cons]
  exact foldl_keeps P f hP l2 _ (hhit _ (foldl_keeps I f hI l1 _ hb))

theorem indexWhere_eq_none {α : Type} {p : α → Bool} {l : List α} (h : ∀ a ∈ l, p a = false) : indexWhere p l = none := by
  induction l with
  | nil => rfl
  | cons a l ih =>
    rw [indexWhere, h a List.mem_cons_self, if_neg Bool.false_ne_true, ih fun b hb => h b (List.mem_cons_of_mem _ hb)]
    rfl

/-! ### Slots (R342, R344) -/

/-- The device but for the host interface's tables. -/
def Dev.noHif (d : Dev) : Dev := { d with hif := Dev.reset.hif }

theorem Dev.with_hif_of_noHif {d e : Dev} (h : e.noHif = d.noHif) : { e with hif := d.hif } = d :=
  congrArg (fun x : Dev => { x with hif := d.hif }) h

theorem Dev.loadQueue_of_full {d : Dev} {dp : Nat} (h : 48 ≤ (d.residentQueues dp).length) (now q : Nat) : d.loadQueue now dp q = d :=
  if_neg (Nat.not_lt.mpr h)

@[simp] theorem Dev.noHif_loadQueue (d : Dev) (now dp q : Nat) : (d.loadQueue now dp q).noHif = d.noHif := by
  unfold Dev.loadQueue
  split
  · rfl
  · rfl

@[simp] theorem Dev.ctxs_loadQueue (d : Dev) (now dp q : Nat) : (d.loadQueue now dp q).hif.ctxs = d.hif.ctxs := by
  unfold Dev.loadQueue
  split
  · rfl
  · rfl

/-- With a slot free the context takes it, and its waiting queues take queue slots. -/
theorem Dev.makeResident_free {d : Dev} {x : Nat} {c : Ctx} (hc : Tbl.find d.hif.ctxs x = some c) (hres : c.resident = false)
    (hfree : (d.residents (d.home c.ast)).length < ctxSlots) (now : Nat) :
    (d.makeResident now x).noHif = d.noHif ∧ (d.makeResident now x).hif.ctxs = (d.loadCtx now x).hif.ctxs := by
  unfold Dev.makeResident
  simp only [hc, hres, Bool.false_eq_true, if_false]
  rw [if_pos hfree]
  exact ⟨Dev.foldl_proj (π := Dev.noHif) (fun d (e : Nat × Queue) => d.noHif_loadQueue now _ e.1) _ _,
    Dev.foldl_proj (π := fun d => d.hif.ctxs) (fun d (e : Nat × Queue) => d.ctxs_loadQueue now _ e.1) _ _⟩

/-! ### A time slice (R344, R345) -/

theorem Dev.noHif_unload (d : Dev) (now x : Nat) : (d.unload now x).noHif = d.noHif := rfl

theorem Dev.ctx_unload_same {d : Dev} {now x : Nat} {c : Ctx} (h : Tbl.find (d.unload now x).hif.ctxs x = some c) : c.resident = false := by
  obtain ⟨_, _, rfl⟩ := Option.map_eq_some_iff.mp ((Tbl.find_adj_same _ _ _).symm.trans h)
  rfl

theorem Dev.ctx_unload_other (d : Dev) (now : Nat) {x j : Nat} (h : j ≠ x) :
    Tbl.find (d.unload now x).hif.ctxs j = Tbl.find d.hif.ctxs j := Tbl.find_adj_other _ _ _ _ h

/-- A queue after `unload` is one of before, out of its slot where the context was its own. -/
theorem Dev.mem_queues_unload {d : Dev} {now x : Nat} {k : Nat × Queue} (h : k ∈ (d.unload now x).hif.queues) :
    ∃ k0 ∈ d.hif.queues, k.2 = if k0.2.ctx = x then { k0.2 with resident := false } else k0.2 := by
  obtain ⟨k0, hk0, rfl⟩ := List.mem_map.mp h
  exact ⟨k0, hk0, rfl⟩

/-- Context `x` holds no context slot. -/
def Dev.CtxOut (x : Nat) (d : Dev) : Prop := ∀ c, Tbl.find d.hif.ctxs x = some c → c.resident = false

/-- No queue of context `x` holds a queue slot. -/
def Dev.QueuesOut (x : Nat) (d : Dev) : Prop := ∀ k ∈ d.hif.queues, x = k.2.ctx → k.2.resident = false

theorem Dev.ctxOut_unload {d : Dev} {x : Nat} (now y : Nat) (h : d.CtxOut x) : (d.unload now y).CtxOut x := by
  intro c hc
  by_cases hxy : x = y
  · subst hxy
    exact Dev.ctx_unload_same hc
  · exact h c ((d.ctx_unload_other now hxy).symm.trans hc)

theorem Dev.queuesOut_unload_same (d : Dev) (now x : Nat) : (d.unload now x).QueuesOut x := by
  intro k hk hx
  obtain ⟨k0, _, heq⟩ := Dev.mem_queues_unload hk
  rw [heq] at hx ⊢
  by_cases h0 : k0.2.ctx = x
  · rw [if_pos h0]
  · rw [if_neg h0] at hx
    exact absurd hx.symm h0

theorem Dev.queuesOut_unload {d : Dev} {x : Nat} (now y : Nat) (h : d.QueuesOut x) : (d.unload now y).QueuesOut x := by
  intro k hk hx
  obtain ⟨k0, hk0, heq⟩ := Dev.mem_queues_unload hk
  rw [heq] at hx ⊢
  by_cases h0 : k0.2.ctx = y
  · rw [if_pos h0]
  · rw [if_neg h0] at hx ⊢
    exact h k0 hk0 hx

/-- The contexts that leave their slots leave them with their queues, and no other context does. -/
theorem Dev.unloads_law (now : Nat) (out : List (Nat × Ctx)) (d : Dev) :
    { out.foldl (fun d e => d.unload now e.1) d with hif := d.hif } = d ∧
    (∀ x ∈ out, (out.foldl (fun d e => d.unload now e.1) d).CtxOut x.1) ∧
    (∀ x ∈ out, (out.foldl (fun d e => d.unload now e.1) d).QueuesOut x.1) ∧
    ∀ j, (∀ x ∈ out, x.1 ≠ j) → Tbl.find (out.foldl (fun d e => d.unload now e.1) d).hif.ctxs j = Tbl.find d.hif.ctxs j := by
  refine ⟨Dev.with_hif_of_noHif (Dev.foldl_proj (π := Dev.noHif) (fun d e => d.noHif_unload now e.1) out d), fun x hx => ?_,
    fun x hx => ?_, fun j hj => ?_⟩
  · exact foldl_reaches (I := fun _ => True) hx (fun _ _ _ => trivial) (fun _ y h => Dev.ctxOut_unload now y.1 h)
      (fun _ _ _ hc => Dev.ctx_unload_same hc) trivial
  · exact foldl_reaches (I := fun _ => True) hx (fun _ _ _ => trivial) (fun _ y h => Dev.queuesOut_unload now y.1 h)
      (fun b _ => b.queuesOut_unload_same now x.1) trivial
  · exact List.foldlRecOn (motive := fun e : Dev => Tbl.find e.hif.ctxs j = Tbl.find d.hif.ctxs j) out _ rfl
      fun e he x hx => (e.ctx_unload_other now (hj x hx).symm).trans he

/-! ### What a blocked context sheds (R201, R376) -/

/-- The device but for the host interface's tables, the registers and the error records. -/
def Dev.noBooks (d : Dev) : Dev := { d with hif := Dev.reset.hif, regs := Dev.reset.regs, ras := Dev.reset.ras }

theorem Dev.with_books_of_noBooks {d e : Dev} (h : e.noBooks = d.noBooks) : { e with hif := d.hif, regs := d.regs, ras := d.ras } = d :=
  congrArg (fun x : Dev => { x with hif := d.hif, regs := d.regs, ras := d.ras }) h

theorem Dev.home_of_noBooks {d e : Dev} (h : e.noBooks = d.noBooks) (a : Nat) : e.home a = d.home a := by
  change e.noBooks.home a = d.noBooks.home a
  rw [h]

@[simp] theorem Dev.noBooks_shed (d : Dev) (id : Nat) (r : Reason) : (d.shed id r).noBooks = d.noBooks := by
  unfold Dev.shed
  split
  · rfl
  · split
    · rfl
    · rfl

/-- Command `id` stands among those in flight. -/
def Dev.Stands (id : Nat) (d : Dev) : Prop := ∃ m, Tbl.find d.hif.cmds id = some m

/-- Command `id` stands and is shed. -/
def Dev.IsShed (id : Nat) (d : Dev) : Prop := ∃ m, Tbl.find d.hif.cmds id = some m ∧ m.shed.isSome = true

/-- A command that stands is shed. -/
theorem Dev.isShed_shed {d : Dev} {id : Nat} (h : d.Stands id) (r : Reason) : (d.shed id r).IsShed id := by
  obtain ⟨m, hm⟩ := h
  unfold Dev.shed
  simp only [hm]
  split
  next hs => exact ⟨m, hm, hs⟩
  next => exact ⟨_, (Tbl.find_adj_same _ _ _).trans (congrArg _ hm), rfl⟩

/-- Shedding another leaves a command as it is. -/
theorem Dev.find_shed_other (d : Dev) {id j : Nat} (h : id ≠ j) (r : Reason) :
    Tbl.find (d.shed j r).hif.cmds id = Tbl.find d.hif.cmds id := by
  unfold Dev.shed
  split
  · rfl
  · split
    · rfl
    · exact Tbl.find_adj_other _ _ _ _ h

theorem Dev.isShed_shed_any {d : Dev} {id : Nat} (h : d.IsShed id) (j : Nat) (r : Reason) : (d.shed j r).IsShed id := by
  obtain ⟨m, hm, hs⟩ := h
  by_cases hj : id = j
  · subst hj
    exact Dev.isShed_shed ⟨m, hm⟩ r
  · exact ⟨m, (d.find_shed_other hj r).trans hm, hs⟩

theorem Dev.stands_shed {d : Dev} {id : Nat} (h : d.Stands id) (j : Nat) (r : Reason) : (d.shed j r).Stands id := by
  obtain ⟨m, hm⟩ := h
  by_cases hj : id = j
  · subst hj
    obtain ⟨m', hm', _⟩ := Dev.isShed_shed ⟨m, hm⟩ r
    exact ⟨m', hm'⟩
  · exact ⟨m, (d.find_shed_other hj r).trans hm⟩

/-- Those of `due` at home on die pair `p` are shed, and one episode counted and recorded where there are any. -/
def Dev.shedHome (due : List (Nat × Cmd)) (d : Dev) (p : Nat) : Dev :=
  let l := due.filter fun e => d.home e.2.ast == p
  if l.isEmpty then d
  else ((l.foldl (fun d e => d.shed e.1 .faultQueue) d).sat ADM_STATUS.SHED_EPISODES 1).raise 0x0507 (svcUnit p) 0
    .degraded [svcUnit p, Reason.faultQueue.code, l.length]

/-- What every shedding keeps and neither a record nor a counter touches, a die pair's turn keeps. -/
theorem Dev.shedHome_keeps {P : Dev → Prop} (hshed : ∀ d j, P d → P (d.shed j .faultQueue))
    (hrec : ∀ d regs ras, P d → P { d with regs := regs, ras := ras }) {due : List (Nat × Cmd)} {d : Dev} {p : Nat} (h : P d) :
    P (d.shedHome due p) := by
  unfold Dev.shedHome
  dsimp only
  split
  · exact h
  · exact hrec (List.foldl _ d _) _ _ (foldl_keeps P _ (fun d (e : Nat × Cmd) => hshed d e.1) _ _ h)

/-- The turn of a due command's home die pair sheds it. -/
theorem Dev.shedHome_sheds {due : List (Nat × Cmd)} {d : Dev} {id : Nat} {m : Cmd} (hdue : (id, m) ∈ due) (h : d.Stands id) :
    (d.shedHome due (d.home m.ast)).IsShed id := by
  have hmem : (id, m) ∈ due.filter fun e => d.home e.2.ast == d.home m.ast := List.mem_filter.mpr ⟨hdue, beq_self_eq_true _⟩
  unfold Dev.shedHome
  dsimp only
  rw [if_neg (fun he => List.ne_nil_of_mem hmem (List.isEmpty_iff.mp he))]
  exact foldl_reaches (I := Dev.Stands id) (P := Dev.IsShed id) hmem (fun d e h => Dev.stands_shed h e.1 _)
    (fun d e h => Dev.isShed_shed_any h e.1 _) (fun d h => Dev.isShed_shed h _) h

/-- Every due command whose home is a die pair is shed, and nothing but books, counters and records differs. -/
theorem Dev.shedHomes_law (due : List (Nat × Cmd)) (d : Dev) :
    (diePairs.foldl (Dev.shedHome due) d).noBooks = d.noBooks ∧
    ∀ id m, (id, m) ∈ due → d.home m.ast < 8 → d.Stands id → (diePairs.foldl (Dev.shedHome due) d).IsShed id := by
  have hbooks : ∀ (e : Dev) p, (e.shedHome due p).noBooks = e.noBooks := fun e p =>
    Dev.shedHome_keeps (P := fun x => x.noBooks = e.noBooks) (fun x j h => (x.noBooks_shed j _).trans h) (fun _ _ _ h => h) rfl
  refine ⟨Dev.foldl_proj hbooks _ _, fun id m hdue hhome hstands => ?_⟩
  have hp : d.home m.ast ∈ diePairs := by
    revert hhome
    generalize d.home m.ast = p
    intro hp
    interval_cases p <;> decide
  refine foldl_reaches (I := fun e : Dev => e.Stands id ∧ e.home m.ast = d.home m.ast) (P := Dev.IsShed id) hp ?_ ?_ ?_ ⟨hstands, rfl⟩
  · rintro e p ⟨hs, hh⟩
    exact ⟨Dev.shedHome_keeps (P := Dev.Stands id) (fun _ j h => Dev.stands_shed h j _) (fun _ _ _ h => h) hs,
      (Dev.home_of_noBooks (hbooks e p) m.ast).trans hh⟩
  · exact fun e p h => Dev.shedHome_keeps (P := Dev.IsShed id) (fun _ j h => Dev.isShed_shed_any h j _) (fun _ _ _ h => h) h
  · rintro e ⟨hs, hh⟩
    rw [← hh]
    exact Dev.shedHome_sheds hdue hs

/-! ### The obligation -/

/-- Settles O26: context and queue slots, the time slice, and what a blocked context, a bridge and a derating shed. -/
theorem booksAndSlots : Obligations.BooksAndSlots := by
  refine ⟨fun s => ?slots, fun s => ?books⟩
  case slots =>
    intro d
    refine ⟨fun q k c hk hc hwaits hnot => ⟨fun hres hfree => ?_, fun hres hfull => ?_, fun hres hfree hnext => ?_⟩, fun a => ?_⟩
    · have heq : d.contextLoad s.now q = d.loadQueue s.now (d.home c.ast) q := by
        simp [Dev.contextLoad, hk, hc, hwaits, hnot, hres]
      exact answers_of_eq rfl (heq.trans (if_pos hfree)) ⟨(Tbl.find_adj_same _ _ _).trans (congrArg _ hk), rfl,
        fun j hj => Tbl.find_adj_other _ _ _ _ hj, rfl⟩
    · have heq : d.contextLoad s.now q = d.loadQueue s.now (d.home c.ast) q := by
        simp [Dev.contextLoad, hk, hc, hwaits, hnot, hres]
      exact leads_of_eq rfl (heq.trans (Dev.loadQueue_of_full hfull s.now q))
    · have heq : d.contextLoad s.now q = (d.makeResident s.now k.ctx).loadQueue s.now (d.home c.ast) q := by
        simp only [Dev.contextLoad, hk, hc, hwaits, hnot, hres, Bool.not_true, Bool.or_self, Bool.false_eq_true, if_false]
        exact if_pos ⟨hfree, hnext⟩
      obtain ⟨hrest, hctxs⟩ := Dev.makeResident_free hc hres hfree s.now
      have hctxs := (Dev.ctxs_loadQueue _ s.now (d.home c.ast) q).trans hctxs
      refine answers_of_eq rfl heq ⟨?_, fun j hj => ?_, Dev.with_hif_of_noHif ((Dev.noHif_loadQueue _ _ _ _).trans hrest)⟩
      · rw [hctxs]
        exact (Tbl.find_adj_same _ _ _).trans (congrArg _ hc)
      · rw [hctxs]
        exact Tbl.find_adj_other _ _ _ _ hj
    · intro dp slice r out
      refine ⟨fun hnone => leads_of_eq rfl (if_pos (List.isEmpty_iff.mpr hnone)), fun hsome => ?_⟩
      obtain ⟨hrest, hctx, hqueue, hother⟩ := Dev.unloads_law s.now out r
      exact ⟨_, leads_of_eq rfl (if_neg fun h => hsome (List.isEmpty_iff.mp h)), hrest, hctx,
        fun k hk ⟨x, hx, heq⟩ => hqueue x hx k hk heq, hother⟩
  case books =>
    intro d
    refine ⟨?_, fun b p i hi => ?_, fun b p hno => ?_, fun path v hmay => ?_, fun x c hc => ?_⟩
    · obtain ⟨hrest, hshed⟩ := Dev.shedHomes_law (d.committed.filter fun e => e.2.tooLate s.now &&
        (match Tbl.find d.hif.ctxs e.2.ctx with | some c => c.blocked | none => false)) d
      refine answers_of_eq rfl rfl ⟨Dev.with_books_of_noBooks hrest, fun id m c hm hbook hlate hhome hc hblocked => ?_⟩
      refine hshed id m (List.mem_filter.mpr ⟨List.mem_filter.mpr ⟨Tbl.mem_of_find hm, hbook⟩, ?_⟩) hhome ⟨m, hm⟩
      simp [hlate, hc, hblocked]
    · refine leads_of_eq rfl ?_
      dsimp only
      rw [hi]
    · refine leads_of_eq rfl ?_
      dsimp only
      rw [indexWhere_eq_none fun n hn => beq_eq_false_iff_ne.mpr fun h : n = Note.bridgeRate b p => hno (h ▸ hn)]
    · have heq : d.writeThrough s.now path ADM_DERATE.off (fun d => d.derate v) = d.derate v := Dev.writeThrough_of_mayWrite hmay _ _
      refine ⟨fun hbad => ?_, fun hup hle hne => ?_, fun hdown hle hne => ?_⟩
      · exact leads_of_eq rfl (heq.trans (if_pos hbad))
      · exact leads_of_eq rfl (heq.trans ((if_neg (by omega)).trans (if_pos hup)))
      · exact leads_of_eq rfl (heq.trans ((if_neg (by omega)).trans (if_neg (Nat.not_le.mpr hdown))))
    · exact answers_of_eq rfl rfl ⟨rfl, (Tbl.find_adj_same _ _ _).trans (congrArg _ hc), fun j hj => Tbl.find_adj_other _ _ _ _ hj⟩

end Sys2Proof.Machine
end

section
/-!
PROOFS. The issue of transfer steps, and the execution of XIN and XOUT (R74, R75, R83, R84, R107).
-/

namespace Sys2Proof.Machine

/-! ### A transfer step settles as it is: it touches nothing when it issues -/

/-- The operation codes of XSTOP, XIN and XOUT. -/
def isTransfer (op : Nat) : Prop := op = 0x0F ∨ op = 0x10 ∨ op = 0x11

theorem footOf_transfer {w : StepWord} (h : isTransfer (sOp w)) (t : Tile) : footOf t w = Foot.none := by
  obtain h | h | h := h <;> simp only [footOf, h]

theorem Tile.racing_none (t : Tile) (n : Nat) : t.racing n Foot.none = [] := by
  simp [Tile.racing, Foot.none, overlaps]

theorem Tile.orders_transfer {w : StepWord} (h : isTransfer (sOp w)) (t : Tile) : t.orders w = t := by
  obtain h | h | h := h <;> simp only [Tile.orders, h]

theorem Tile.settle_transfer {w : StepWord} (h : isTransfer (sOp w)) (t : Tile) (m : Nat) (u : Tile) :
    t.settle m w u = { u with order := { u.order with nth := t.order.nth + 1 } } := by
  unfold Tile.settle
  dsimp only
  rw [footOf_transfer h, Tile.collide_nil _ _ _ _ (u.racing_none _), Tile.orders_transfer h]
  rfl

theorem Tile.races_transfer {w : StepWord} (h : isTransfer (sOp w)) (t : Tile) : t.races w = false := by
  rw [Tile.races, footOf_transfer h, Tile.racing_none]
  rfl

theorem issues_of_atStep {d : Dev} {c : Nat} {t : Tile} {w : StepWord} (h : AtStep d c t w) (p : StepWord → Bool) :
    d.issues c p = p w := by
  obtain ⟨t0, hissuer, -, hcur, -⟩ := atStep_issuer h
  simp [Dev.issues, hissuer, hcur]

/-- With room in the queue of four, a transfer step leaves its tile settled, and nothing else differs. -/
theorem stepOn_transfer_go {d : Dev} {c : Nat} {t t' : Tile} {w : StepWord} {p : StepWord → Bool} {f : Tile → StepWord → StepOut}
    (hop : isTransfer (sOp w)) (h : AtStep d c t w) (hp : p w = true) (hf : f t w = .go t') (now : Nat) :
    d.stepOn now c p f = d.onCore c fun k => { k with
      tile := some { t' with order := { t'.order with nth := t.order.nth + 1 } }, svc := .running } := by
  obtain ⟨hissuer, -, hcur⟩ := atStep_issuer_of_unit h fun t => congrArg Foot.unit (footOf_transfer hop t)
  have hseen : t.seen d.fresh w = t := t.seen_of_unit _ w (congrArg Foot.unit (footOf_transfer hop t))
  unfold Dev.stepOn
  simp only [hissuer, hcur, hp, if_true, hseen, hf, t.settle_transfer hop, t.races_transfer hop, Bool.false_eq_true, if_false]

/-- A transfer step issues, and the engine runs. -/
theorem sets_of_go {i : Instr} {s : State} {c : Nat} {t t' : Tile} {w : StepWord} {p : StepWord → Bool} {stop inb : Bool}
    (hop : isTransfer (sOp w)) (h : AtStep s.dev c t w) (hp : p w = true) (hf : doTransfer stop inb t w = .go t')
    (hi : Leads i s (s.dev.xferStep s.now c p stop inb)) {P : Tile → Prop}
    (hP : P { t' with order := { t'.order with nth := t.order.nth + 1 } }) :
    Sets i s (Dev.xferRun s.now c 5) fun e => OnlyCore c s.dev e ∧ ∃ u, (e.coreAt c).tile = some u ∧ P u := by
  refine ⟨_, leads_of_eq hi ((if_pos ((issues_of_atStep h p).trans hp)).trans
    (congrArg (Dev.xferRun s.now c 5) (stepOn_transfer_go hop h hp hf s.now))), ⟨rfl, fun k hk => ?_⟩, _, ?_, hP⟩
  · exact Dev.coreAt_onCore_other _ _ _ _ hk
  · rw [Dev.coreAt_onCore_same]

/-- With four steps queued a transfer step waits, and the engine runs. -/
theorem sets_of_full {i : Instr} {s : State} {c : Nat} {t : Tile} {w : StepWord} {p : StepWord → Bool} {stop inb : Bool}
    (hop : isTransfer (sOp w)) (h : AtStep s.dev c t w) (hp : p w = true) (hfull : 4 ≤ t.xq.length)
    (hi : Leads i s (s.dev.xferStep s.now c p stop inb)) :
    Sets i s (Dev.xferRun s.now c 5) fun e => OnlyCore c s.dev e ∧ (e.coreAt c).tile = some { t with held := false } := by
  refine ⟨_, leads_of_eq hi ((if_pos ((issues_of_atStep h p).trans hp)).trans
    (congrArg (Dev.xferRun s.now c 5) (stepOn_hold s.now h (fun t => congrArg Foot.unit (footOf_transfer hop t)) hp (if_pos hfull)))),
    ⟨rfl, fun k hk => ?_⟩, ?_⟩
  · exact Dev.coreAt_onCore_other _ _ _ _ hk
  · rw [Dev.coreAt_onCore_same]

/-! ### Executing XIN and XOUT (R75, R83) -/

/-- What the transfer engine races with depends on the log alone. -/
theorem Tile.racing_of_log {t u : Tile} {f : Foot} (hunit : f.unit = 5)
    (h : u.order.log.filter (fun e => e.unit != 5) = t.order.log.filter fun e => e.unit != 5) (n : Nat) : u.racing n f = t.racing n f := by
  have hclash : ∀ v : Tile, v.clashes n f = (v.order.log.filter fun e => e.unit != 5).filter fun e => !e.after.any (· < n) := by
    intro v
    rw [Tile.clashes, List.filter_filter, hunit]
    exact List.filter_congr fun e _ => Bool.and_comm _ _
  rw [Tile.racing, Tile.racing, hclash u, hclash t, h, if_pos hunit, if_pos hunit]

/-- The log without the transfer engine's own accesses is as before a note of one. -/
theorem Tile.log_touch (t : Tile) (n : Nat) (rs ws : List Span) (x : Nat) (e : Ends) :
    (t.touch n ⟨5, rs, ws⟩ x e).order.log.filter (fun e => e.unit != 5) = t.order.log.filter fun e => e.unit != 5 := by
  unfold Tile.touch
  split
  · rfl
  · rw [List.filter_append]
    exact List.append_nil _

theorem Tile.startIn_rest (t : Tile) (m : Nat) (q : XStep) (x : Desc) :
    ({ t with ins := modifyAt t.ins q.stream fun s => s.start x q } : Tile).SameRest (t.startIn m q x) := by
  unfold Tile.startIn
  refine Tile.SameRest.trans ?_ (Tile.collide_rest _ _ _ _)
  unfold Tile.touch
  split
  · rfl
  · rfl

theorem Tile.startOut_rest (t : Tile) (m : Nat) (q : XStep) (x : Desc) :
    ({ t with outs := modifyAt t.outs q.stream fun o => o.start x q t.xouts, xouts := t.xouts + 1 } : Tile).SameRest
      (t.startOut m q x) := by
  unfold Tile.startOut
  refine .trans (Tile.collide_rest _ m q.nth (footXout t x q)) (.trans ?_ ((Tile.touch_rest _ _ _ _ _).trans (Tile.touch_rest _ _ _ _ _)))
  split
  · rfl
  · rfl

/-- Scratchpad, accumulators and flags of a tile. -/
def Tile.pad (t : Tile) := (t.spad, t.written, t.acc, t.valid, t.flags)

@[simp] theorem Tile.pad_touch (t : Tile) (n : Nat) (f : Foot) (x : Nat) (e : Ends) : (t.touch n f x e).pad = t.pad := by
  unfold Tile.touch
  split
  · rfl
  · rfl

theorem Tile.pad_collide {t : Tile} {n : Nat} {f : Foot} (h : t.racing n f = []) (m : Nat) : (t.collide m n f).pad = t.pad := by
  rw [t.collide_nil m n f h]

/-- An XIN that does not race leaves scratchpad, accumulators and flags. -/
theorem Tile.pad_startIn {t : Tile} {q : XStep} {x : Desc} (h : t.racing q.nth (footXin (t.ins.getD q.stream InStream.init) x q) = [])
    (m : Nat) : (t.startIn m q x).pad = t.pad := by
  unfold Tile.startIn
  dsimp only
  generalize hu : t.touch q.nth _ 0 (.waited q.stream) = u
  have hlog : u.order.log.filter (fun e => e.unit != 5) = t.order.log.filter fun e => e.unit != 5 := by
    rw [← hu]
    exact t.log_touch _ _ _ _ _
  have hpad : u.pad = t.pad := by
    rw [← hu]
    exact t.pad_touch _ _ _ _
  refine Eq.trans (Tile.pad_collide ?_ m) hpad
  exact Eq.trans (Tile.racing_of_log (t := t) rfl hlog q.nth) h

/-- An XOUT that does not race leaves scratchpad, accumulators and flags. -/
theorem Tile.pad_startOut {t : Tile} {q : XStep} {x : Desc} (h : t.racing q.nth (footXout t x q) = []) (m : Nat) :
    (t.startOut m q x).pad = t.pad := by
  have hcollide := Tile.pad_collide (t := { t with outs := modifyAt t.outs q.stream fun o => o.start x q t.xouts, xouts := t.xouts + 1 })
    ((Tile.racing_of_log rfl rfl _).trans h) m
  unfold Tile.startOut
  dsimp only
  rw [Tile.pad_touch, Tile.pad_touch]
  split
  · exact hcollide
  · exact hcollide

theorem Tile.pad_eq {t u : Tile} (h : u.pad = t.pad) :
    u.spad = t.spad ∧ u.written = t.written ∧ u.acc = t.acc ∧ u.valid = t.valid ∧ u.flags = t.flags := by
  simpa [Tile.pad] using h

/-- The tile of a core with one in work stands on the core. -/
theorem Dev.tile_of_worker {d : Dev} {c : Nat} {t : Tile} (h : d.worker c = some t) : (d.coreAt c).tile = some t := by
  unfold Dev.worker at h
  split at h
  · exact h
  · exact h
  · exact h
  · exact absurd h nofun

section
variable {d : Dev} {now c : Nat} {t : Tile} {q : XStep} {l : List XStep} {x : Desc} {ls : List Line}

/-- An XIN or XOUT at the head of the transfer queue, its descriptor sound, starts its stream. -/
theorem Dev.xferRun_starts (ht : d.worker c = some t) (hq : t.xq = q :: l) (hstop : q.stop = false) (hok : q.rangeOk = true)
    (hover : q.inbound = true → (t.ins.getD q.stream InStream.init).over = true)
    (hpeek : d.peeks (d.tileTags c t) (if q.desc + 128 ≤ t.own.progLen then 2 else 1) ((d.progVa t + q.desc) % 2 ^ 56) = .inr ls)
    (hdesc : d.checkDesc t q (ls.getD 0 0) (ls.getD 1 0) = .inr x) :
    ((Dev.xferRun now c 1 d).coreAt c).tile = some (if q.inbound then ({ t with xq := l } : Tile).startIn d.fresh q x
      else ({ t with xq := l } : Tile).startOut d.fresh q x) := by
  have hhead : d.xferHead c t q = .done ({ d with fresh := d.fresh + 1 }.onTile c fun t =>
      if q.inbound then ({ t with xq := t.xq.drop 1 } : Tile).startIn d.fresh q x
      else ({ t with xq := t.xq.drop 1 } : Tile).startOut d.fresh q x) := by
    unfold Dev.xferHead
    dsimp only
    rw [hstop, if_neg Bool.false_ne_true, if_neg (fun h => by rw [hover h.1] at h; exact Bool.false_ne_true h.2), hok, Bool.not_true, if_neg Bool.false_ne_true, hpeek]
    dsimp only
    rw [hdesc]
  unfold Dev.xferRun
  simp only [ht, hq, hhead]
  rw [Dev.xferRun, Dev.coreAt_onTile_same]
  refine (congrArg (Option.map _) (Dev.tile_of_worker ht)).trans ?_
  simp only [Option.map_some, hq, List.drop_one, List.tail_cons]

/-- An XIN of a stream that has yet to deliver waits. -/
theorem Dev.xferRun_waits (ht : d.worker c = some t) (hq : t.xq = q :: l) (hstop : q.stop = false) (hin : q.inbound = true)
    (hover : (t.ins.getD q.stream InStream.init).over = false) : Dev.xferRun now c 1 d = d := by
  have hhead : d.xferHead c t q = .wait := by
    unfold Dev.xferHead
    dsimp only
    rw [hstop, if_neg Bool.false_ne_true, if_pos ⟨hin, by rw [hover]; rfl⟩]
  unfold Dev.xferRun
  simp only [ht, hq, hhead]

end

/-! ### The obligation -/

/-- Settles O32: transfer steps wait or issue, and an XIN or XOUT executed starts its stream. -/
theorem transferStepsIssue : Obligations.TransferStepsIssue := by
  refine ⟨fun s c t w h => ?issue, fun d now c t q l x ls ht hq hstop hok hpeek hdesc => ?execute⟩
  case issue =>
    intro on q now
    refine ⟨fun hop hroom => ?_, fun hop hroom => ?_, fun i m hop hmode hi hroom => ?_, fun hfull i hi => ?_⟩
    · obtain ⟨e, hi, hcore, u, hu, hP⟩ := sets_of_go (i := .xstop c) (p := isOp 0x0F) (stop := true) (inb := true) (P := fun u => ∃ q, u = { on q with
        order := { t.order with nth := t.order.nth + 1 } } ∧ q.stop = true ∧ q.stream = sFA w) (.inl hop) h (beq_iff_eq.mpr hop)
        (if_neg (Nat.not_le.mpr hroom)) rfl ⟨_, rfl, rfl, rfl⟩
      obtain ⟨q, rfl, hstop, hstream⟩ := hP
      exact ⟨e, hi, hcore, q, hu, hstop, hstream⟩
    · obtain ⟨e, hi, hcore, u, hu, hP⟩ := sets_of_go (i := .xin c) (p := isOp 0x10) (stop := false) (inb := true) (P := fun u => u = { on (q true) with
        ins := modifyAt t.ins (sStream w) fun x => { x with issued := true, pending := x.pending + 1 }
        order := { t.order with nth := t.order.nth + 1 } }) (.inr (.inl hop)) h (beq_iff_eq.mpr hop)
        (if_neg (Nat.not_le.mpr hroom)) rfl rfl
      exact ⟨e, hi, hcore, hu.trans (congrArg some hP)⟩
    · have hissue : ∀ (i : Instr) p, p w = true → Leads i s (s.dev.xferStep s.now c p false false) →
          Sets i s (Dev.xferRun s.now c 5) fun e => OnlyCore c s.dev e ∧ now e { on (q false) with
            outs := modifyAt t.outs (sStream w) fun o => { o with count := o.count + 1 } } := by
        intro i p hp hi
        obtain ⟨e, hi, hcore, u, hu, hP⟩ := sets_of_go (P := fun u => u = { on (q false) with
          outs := modifyAt t.outs (sStream w) fun o => { o with count := o.count + 1 }
          order := { t.order with nth := t.order.nth + 1 } }) (.inr (.inr hop)) h hp (if_neg (Nat.not_le.mpr hroom)) hi rfl
        exact ⟨e, hi, hcore, hu.trans (congrArg some hP)⟩
      obtain ⟨rfl, rfl⟩ | ⟨rfl, rfl⟩ | ⟨rfl, rfl⟩ := hi
      · exact hissue _ (isXout 0) (by simp [isXout, hop, hmode]) rfl
      · exact hissue _ (isXout 1) (by simp [isXout, hop, hmode]) rfl
      · exact hissue _ (isXout 2) (by simp [isXout, hop, hmode]) rfl
    · obtain ⟨rfl, hop⟩ | ⟨rfl, hop⟩ | ⟨rfl, hop, hmode⟩ := hi
      · exact sets_of_full (p := isOp 0x10) (.inr (.inl hop)) h (beq_iff_eq.mpr hop) hfull rfl
      · exact sets_of_full (p := isOp 0x0F) (.inl hop) h (beq_iff_eq.mpr hop) hfull rfl
      · exact sets_of_full (p := isXout 0) (.inr (.inr hop)) h (by simp [isXout, hop, hmode]) hfull rfl
  case execute =>
    intro i is
    have hstart := fun hover => Dev.xferRun_starts (now := now) ht hq hstop hok hover hpeek hdesc
    refine ⟨fun hin hover => ?_, fun hout => ?_, fun hin hover => Dev.xferRun_waits ht hq hstop hin hover⟩
    · have h := hstart fun _ => hover
      rw [if_pos hin] at h
      exact ⟨_, h, Tile.startIn_rest { t with xq := l } d.fresh q x,
        fun hcalm => Tile.pad_eq (Tile.pad_startIn (t := { t with xq := l }) hcalm d.fresh)⟩
    · have h := hstart fun hin => absurd (hout.symm.trans hin) Bool.false_ne_true
      rw [hout, if_neg Bool.false_ne_true] at h
      exact ⟨_, h, Tile.startOut_rest { t with xq := l } d.fresh q x,
        fun hcalm => Tile.pad_eq (Tile.pad_startOut (t := { t with xq := l }) hcalm d.fresh)⟩

end Sys2Proof.Machine
end

section
/-!
PROOFS. Transfer engines at work: requests sent, data and acknowledgements landed, transactions counted, ages raised
(R84, R105 to R107, R115, R258, R262).
-/

namespace Sys2Proof.Machine

theorem modifyAt_of_getElem {α : Type} {l : List α} {i : Nat} {a : α} (h : l[i]? = some a) {f g : α → α} (hfg : f a = g a) :
    modifyAt l i f = modifyAt l i g := by
  induction l generalizing i with
  | nil => rfl
  | cons b l ih =>
    cases i with
    | zero =>
      rw [List.getElem?_cons_zero, Option.some.injEq] at h
      rw [modifyAt, modifyAt, h, hfg]
    | succ i => rw [modifyAt, modifyAt, ih (by simpa using h)]

/-! ### Requests sent (R105 to R107) -/

theorem Tile.rowOf_strided {x : Desc} (h : x.kind = 0) (t : Tile) (segs : Tbl Seg) (inb : Bool) (b : Nat) :
    t.rowOf x segs inb b = .at_ (x.j1 b) := by
  simp only [Tile.rowOf, h]

theorem Dev.sendTo_routed {d : Dev} {space dp : Nat} {r : Req} {p : Route} (h0 : space = 0)
    (hp : (d.mapOf r.tags.ast r.tags.epoch).bind (·.route r.va) = some p) :
    d.sendTo dp space r = some (d.sendReq { r with dest := .chan p.l p.region p.r }) := by
  rw [Dev.sendTo, if_pos h0, Dev.sendMem, hp]

/-- With no answer to redirect, the engine issues its stream's own next request. -/
theorem Dev.xferIssue_own {d : Dev} {c k : Nat} {t : Tile} {inb : Bool} (ht : d.worker c = some t) (h : d.redirectFor t c inb k = none)
    (now : Nat) : d.xferIssue now c inb k = if inb then d.issueIn now c k t else d.issueOut now c k t := by
  simp only [Dev.xferIssue, ht, h]

section
variable {d : Dev} {now c k : Nat} {t : Tile} {x : Desc} {p : Route}

/-- An inbound stream that may send sends: the bytes left of its row, of its run, of its chunk, and of the granule. -/
theorem Dev.issueIn_sends {i : InStream} {b va len : Nat} (hi : t.ins.getD k InStream.init = i) (hb : t.base + i.next = b)
    (hva : x.addr b (x.j1 b) = va)
    (hlen : min (min (min (x.n0 - (x.index b).1) (i.total - i.next)) (chunkBytes - i.next % chunkBytes)) (64 - va % 64) = len)
    (hdesc : i.desc = some x) (hkind : x.kind = 0) (hspace : x.space = 0) (hstop : i.stopped = false) (hholds : i.holds = [])
    (hask : i.asking = false) (hnext : i.next < i.total) (hret : t.retained = false) (hwin : i.next / chunkBytes < i.cr + i.win)
    (hroom : t.readsOut < min 2048 (d.get (ADM_CLASS_PARAM_A_ACT.READ_BUDGET t.own.cls)))
    (hp : (d.mapOf t.own.ast (d.epochAt (coreDp c))).bind (·.route va) = some p) :
    d.issueIn now c k t = (d.sendReq { d.tileReq now c t (.engine c true k i.run i.next len) .read va 0 0 false with
      dest := .chan p.l p.region p.r }).onTile c fun t => { t with
        activity := t.activity + 1, ins := modifyAt t.ins k fun y => { y with next := y.next + len, out := y.out + 1 } } := by
  subst hlen hva hb hi
  have hgo : ¬((t.ins.getD k InStream.init).stopped = true ∨ (t.ins.getD k InStream.init).faulted = true ∨
      (t.ins.getD k InStream.init).asking = true ∨ (t.ins.getD k InStream.init).total ≤ (t.ins.getD k InStream.init).next ∨
      t.retained = true ∨ (t.ins.getD k InStream.init).cr + (t.ins.getD k InStream.init).win ≤
        (t.ins.getD k InStream.init).next / chunkBytes ∨ (!d.readRoom t) = true) := by
    have hread : d.readRoom t = true := decide_eq_true hroom
    have hfault : (t.ins.getD k InStream.init).faulted = false := by rw [InStream.faulted, hholds]; rfl
    rw [hstop, hask, hret, hread, hfault]
    simp only [Bool.false_eq_true, Bool.not_true, false_or, or_false, not_or]
    exact ⟨Nat.not_le.mpr hnext, Nat.not_le.mpr hwin⟩
  unfold Dev.issueIn
  dsimp only
  rw [hdesc]
  dsimp only
  rw [if_neg hgo, Tile.rowOf_strided hkind]
  dsimp only
  rw [Dev.sendTo_routed hspace hp]

/-- An outbound stream that may send sends the next bytes of its first XOUT that has any left. -/
theorem Dev.issueOut_sends {o : OutStream} {x : Xout} {va len : Nat} (ho : t.outs.getD k OutStream.init = o)
    (hva : x.desc.addr x.next (x.desc.j1 x.next) = va)
    (hlen : min (min (x.desc.n0 - (x.desc.index x.next).1) (x.total - x.next)) (64 - va % 64) = len)
    (hholds : o.holds = []) (hret : t.retained = false) (hagain : ∀ p ∈ o.pieces, p.again = false) (hseg : t.seg = none)
    (hx : (o.xouts.find? fun y => decide (y.next < y.total)) = some x) (hask : x.asking = false) (hkind : x.desc.kind = 0)
    (hspace : x.desc.space = 0) (hroom : t.writesOut < min 1024 (d.get (ADM_CLASS_PARAM_A_ACT.WRITE_BUDGET t.own.cls)))
    (hp : (d.mapOf t.own.ast (d.epochAt (coreDp c))).bind (·.route va) = some p) : ∃ f : Tile → Tile,
    d.issueOut now c k t = (d.sendReq { d.tileReq now c t (.engine c false k x.id x.next len) (writeAcc x.mode (maskOf (va % 64) len)) va
      (placeBytes (va % 64) ((List.range len).flatMap fun j => t.rd (x.spa + (x.next + j)) 1)) (maskOf (va % 64) len) (x.mode == 2) with
        dest := .chan p.l p.region p.r }).onTile c f := by
  subst hlen hva ho
  have hfault : (t.outs.getD k OutStream.init).faulted = false := by rw [OutStream.faulted, hholds]; rfl
  have hwrite : d.writeRoom t = true := decide_eq_true hroom
  have hnone : (t.outs.getD k OutStream.init).pieces.find? (·.again) = none := List.find?_eq_none.mpr fun p hp => by simp [hagain p hp]
  have hleft : ¬x.total ≤ x.next := Nat.not_le.mpr (of_decide_eq_true (List.find?_some hx :))
  have hbase : t.base + x.next = x.next := by rw [Tile.base, hseg]; exact Nat.zero_add _
  have hready : t.sourceReady x = x.total := by rw [Tile.sourceReady, hseg]
  have hsource : ∀ b, t.source x b = x.spa + b := fun b => by rw [Tile.source, hseg]
  unfold Dev.issueOut
  dsimp only
  rw [hfault, hret, hwrite, if_neg (by decide), hnone]
  dsimp only
  rw [hx]
  dsimp only
  rw [hready, hask, if_neg (fun h => h.elim nofun hleft), hbase, Tile.rowOf_strided hkind]
  simp only [hsource]
  rw [Dev.sendPiece, Dev.sendTo_routed hspace hp]
  exact ⟨_, rfl⟩

end

/-! ### Transactions counted (R262) -/

/-- The counts of a transaction's escalation steps. -/
def Dev.countEsc (d : Dev) (dp : Nat) (r : Req) : Dev :=
  let d := if 1 ≤ r.esc then d.sat (XBR_CLASS_CNT3.ESC50 dp r.tags.cls) 1 else d
  let d := if 2 ≤ r.esc then d.sat (XBR_CLASS_CNT3.ESC75 dp r.tags.cls) 1 else d
  if 3 ≤ r.esc then d.sat (XBR_CLASS_CNT3.ESC90 dp r.tags.cls) 1 else d

theorem Dev.countTxn_eq (d : Dev) (now dp : Nat) (r : Req) (n : Nat) : d.countTxn now dp r n =
    let e := (((d.wrap (XBR_CLASS_CNT0.TXNS dp r.tags.cls) 1).wrap (XBR_CLASS_CNT1.BYTES dp r.tags.cls) n).wrap
      (XBR_CLASS_CNT2.LATSUM dp r.tags.cls) (r.age now)).countEsc dp r
    if e.flag (ADM_CLASS_PARAM_A_ACT.GUAR r.tags.cls) ∧ (e.get (ADM_CLASS_PARAM_A_ACT.TARGET r.tags.cls) < r.age now ∨ r.age now = 4095)
    then e.missed now dp r.tags.cls (r.age now) else e := rfl

/-- What no step of a class's fourth counter register touches, the escalation counts keep. -/
theorem Dev.countEsc_keeps {P : Dev → Prop} {dp : Nat} {r : Req}
    (hP : ∀ (d : Dev) (f : Fld), f.off = XBR_CLASS_CNT3.off dp r.tags.cls → P d → P (d.sat f 1)) {d : Dev} (h : P d) :
    P (d.countEsc dp r) := by
  have step : ∀ (c : Prop) [Decidable c] (d : Dev) (f : Fld), f.off = XBR_CLASS_CNT3.off dp r.tags.cls → P d →
      P (if c then d.sat f 1 else d) := by
    intro c _ d f hf hd
    split
    · exact hP d f hf hd
    · exact hd
  exact step _ _ _ rfl (step _ _ _ rfl (step _ _ _ rfl h))

theorem Dev.missed_shape (d : Dev) (now dp cls age : Nat) : ∃ regs misses intr box, d.missed now dp cls age = { d with
    regs := regs, net := { d.net with misses := misses }, hif := { d.hif with intr := intr }, ras := { d.ras with box := box } } := by
  unfold Dev.missed
  dsimp only
  split
  · split
    · exact ⟨_, _, _, _, rfl⟩
    · exact ⟨_, _, _, _, rfl⟩
  · exact ⟨_, _, _, _, rfl⟩

/-- Counting a transaction touches registers and the network's tallies of misses, and with a miss interrupts and records. -/
theorem Dev.countTxn_shape (d : Dev) (now dp : Nat) (r : Req) (n : Nat) : ∃ regs misses intr box, d.countTxn now dp r n = { d with
    regs := regs, net := { d.net with misses := misses }, hif := { d.hif with intr := intr }, ras := { d.ras with box := box } } := by
  rw [Dev.countTxn_eq]
  obtain ⟨regs, he⟩ := Dev.countEsc_keeps (P := fun e => ∃ regs, e = { d with regs := regs }) (dp := dp) (r := r)
    (by rintro _ f - ⟨regs, rfl⟩; exact ⟨_, rfl⟩) (d := ((d.wrap (XBR_CLASS_CNT0.TXNS dp r.tags.cls) 1).wrap
      (XBR_CLASS_CNT1.BYTES dp r.tags.cls) n).wrap (XBR_CLASS_CNT2.LATSUM dp r.tags.cls) (r.age now)) ⟨_, rfl⟩
  dsimp only
  rw [he]
  split
  · exact Dev.missed_shape { d with regs := regs } _ _ _ _
  · exact ⟨regs, _, _, _, rfl⟩

theorem Dev.get_countEsc {dp : Nat} {r : Req} {g : Fld} (h : g.off ≠ XBR_CLASS_CNT3.off dp r.tags.cls) (d : Dev) :
    (d.countEsc dp r).get g = d.get g :=
  Dev.countEsc_keeps (P := fun e => e.get g = d.get g) (fun e f hf he => (Dev.get_set_other e f g _ (hf ▸ h)).trans he) rfl

/-- A transaction of a best-effort class counts itself, its bytes and its age. -/
theorem Dev.countTxn_counts {d : Dev} {dp : Nat} {r : Req} (hdp : dp < 8) (hcls : r.tags.cls < 8)
    (hguar : d.flag (ADM_CLASS_PARAM_A_ACT.GUAR r.tags.cls) = false) (now n : Nat) :
    (d.countTxn now dp r n).get (XBR_CLASS_CNT0.TXNS dp r.tags.cls) = (d.get (XBR_CLASS_CNT0.TXNS dp r.tags.cls) + 1) % 2 ^ 64 ∧
    (d.countTxn now dp r n).get (XBR_CLASS_CNT1.BYTES dp r.tags.cls) = (d.get (XBR_CLASS_CNT1.BYTES dp r.tags.cls) + n) % 2 ^ 64 ∧
    (d.countTxn now dp r n).get (XBR_CLASS_CNT2.LATSUM dp r.tags.cls) =
      (d.get (XBR_CLASS_CNT2.LATSUM dp r.tags.cls) + r.age now) % 2 ^ 64 := by
  have h01 : XBR_CLASS_CNT0.off dp r.tags.cls ≠ XBR_CLASS_CNT1.off dp r.tags.cls := by unfold XBR_CLASS_CNT0.off XBR_CLASS_CNT1.off; omega
  have h02 : XBR_CLASS_CNT0.off dp r.tags.cls ≠ XBR_CLASS_CNT2.off dp r.tags.cls := by unfold XBR_CLASS_CNT0.off XBR_CLASS_CNT2.off; omega
  have h03 : XBR_CLASS_CNT0.off dp r.tags.cls ≠ XBR_CLASS_CNT3.off dp r.tags.cls := by unfold XBR_CLASS_CNT0.off XBR_CLASS_CNT3.off; omega
  have h12 : XBR_CLASS_CNT1.off dp r.tags.cls ≠ XBR_CLASS_CNT2.off dp r.tags.cls := by unfold XBR_CLASS_CNT1.off XBR_CLASS_CNT2.off; omega
  have h13 : XBR_CLASS_CNT1.off dp r.tags.cls ≠ XBR_CLASS_CNT3.off dp r.tags.cls := by unfold XBR_CLASS_CNT1.off XBR_CLASS_CNT3.off; omega
  have h23 : XBR_CLASS_CNT2.off dp r.tags.cls ≠ XBR_CLASS_CNT3.off dp r.tags.cls := by unfold XBR_CLASS_CNT2.off XBR_CLASS_CNT3.off; omega
  have hadm : ADM_CLASS_PARAM_A_ACT.off r.tags.cls < 0x400000 := by unfold ADM_CLASS_PARAM_A_ACT.off; omega
  have hlow : ∀ i < 4, ADM_CLASS_PARAM_A_ACT.off r.tags.cls ≠ 0x400000 + 0x100000 * dp + (0x1000 + 8 * i) + 0x20 * r.tags.cls := by
    omega
  rw [Dev.countTxn_eq]
  dsimp only
  rw [if_neg]
  · refine ⟨?_, ?_, ?_⟩
    · rw [Dev.get_countEsc h03, Dev.wrap, Dev.get_set_other _ _ _ _ h02, Dev.wrap, Dev.get_set_other _ _ _ _ h01,
        Dev.get_wrap_same _ (XBR_CLASS_CNT0.TXNS dp r.tags.cls) _ (Nat.le_refl 64)]
      rfl
    · rw [Dev.get_countEsc h13, Dev.wrap, Dev.get_set_other _ _ _ _ h12,
        Dev.get_wrap_same _ (XBR_CLASS_CNT1.BYTES dp r.tags.cls) _ (Nat.le_refl 64), Dev.wrap, Dev.get_set_other _ _ _ _ h01.symm]
      rfl
    · rw [Dev.get_countEsc h23, Dev.get_wrap_same _ (XBR_CLASS_CNT2.LATSUM dp r.tags.cls) _ (Nat.le_refl 64), Dev.wrap,
        Dev.get_set_other _ _ _ _ h12.symm, Dev.wrap, Dev.get_set_other _ _ _ _ h02.symm]
      rfl
  · rintro ⟨hflag, -⟩
    rw [Dev.flag, Dev.get_countEsc (hlow 3 (by decide)), Dev.wrap, Dev.get_set_other _ _ _ _ (hlow 2 (by decide)), Dev.wrap,
      Dev.get_set_other _ _ _ _ (hlow 1 (by decide)), Dev.wrap, Dev.get_set_other _ _ _ _ (hlow 0 (by decide))] at hflag
    exact Bool.false_ne_true (hguar.symm.trans hflag)

/-! ### Answers landed (R84, R115) -/

/-- A single piece that lands at the end of the complete part grows it by its length. -/
theorem InStream.landed1_next {i : InStream} {pos len : Nat} (hl : i.landed = []) (hpos : pos = i.done) (hlen : 0 < len) :
    (i.landed1 pos len).done = pos + len ∧
      (i.landed1 pos len).cc = if i.total ≤ pos + len then ceilDiv i.total chunkBytes else (pos + len) / chunkBytes := by
  have hgrow : growPrefix (i.landed ++ [(pos, len)]).length i.done (i.landed ++ [(pos, len)]) = pos + len := by
    rw [hl, ← hpos]
    simp [growPrefix, hlen]
  unfold InStream.landed1
  dsimp only
  rw [hgrow]
  exact ⟨rfl, rfl⟩

theorem Dev.coreAt_spent (d : Dev) (t : Tile) (k c : Nat) : (d.spent t k).coreAt c = d.coreAt c := by
  unfold Dev.spent
  split
  · rfl
  · rfl

theorem Dev.net_spent (d : Dev) (t : Tile) (k : Nat) : (d.spent t k).net = d.net := by
  unfold Dev.spent
  split
  · rfl
  · rfl

theorem Dev.coreAt_countTxn (d : Dev) (now dp : Nat) (r : Req) (n c : Nat) : (d.countTxn now dp r n).coreAt c = d.coreAt c := by
  obtain ⟨regs, misses, intr, box, h⟩ := d.countTxn_shape now dp r n
  rw [h]
  rfl

theorem Dev.resps_countTxn (d : Dev) (now dp : Nat) (r : Req) (n : Nat) : (d.countTxn now dp r n).net.resps = d.net.resps := by
  obtain ⟨regs, misses, intr, box, h⟩ := d.countTxn_shape now dp r n
  rw [h]

section
variable {d : Dev} {c k run pos len : Nat} {t : Tile} {r : Req}

/-- Data for the run that is on lands, and the engine runs. -/
theorem Dev.landRead_engine (hwho : r.who = .engine c true k run pos len) (ht : (d.coreAt c).tile = some t)
    (hrun : (t.ins.getD k InStream.init).run = run) (now : Nat) (data : Line) : d.landRead now r data =
      Dev.xferRun now c 5 (((d.countTxn now (coreDp c) r 64).spent t k).onTile c fun t =>
        let t := (t.credit r).land k pos (t.smear d.fresh k pos (pickBytes data (r.va % 64) len))
        { t with ins := modifyAt t.ins k fun s => { s with out := s.out - 1 } }) := by
  simp only [Dev.landRead, hwho, ht, hrun, if_true]

/-- An acknowledgement marks its piece, and the engine acknowledges what it completes. -/
theorem Dev.landAck_engine (hwho : r.who = .engine c false k run pos len) (ht : (d.coreAt c).tile = some t) (now : Nat) :
    d.landAck now r = Dev.ackOut c k 8 ((d.countTxn now (coreDp c) r len).onTile c fun t =>
      { t.credit r with outs := modifyAt t.outs k fun o => { o with
          pieces := (o.pieces.map fun p => if p.xout = run ∧ p.pos = pos then { p with acked := true } else p).dropWhile
            fun p => p.acked && !p.again && !o.faulted } }) := by
  simp only [Dev.landAck, hwho, ht]

end

theorem Dev.readAnswer_ok {d : Dev} {i : Nat} {r : Resp} (hr : d.net.resps[i]? = some r) (hok : r.status = .ok)
    (hread : r.req.acc.writes = false) (now : Nat) : d.readAnswer now i none = (d.dropResp i).landRead now r.req r.data := by
  simp only [Dev.readAnswer, hr, hok, hread, Bool.not_false, or_true, and_self, if_true]

theorem Dev.writeAnswer_ok {d : Dev} {i : Nat} {r : Resp} (hr : d.net.resps[i]? = some r) (hok : r.status = .ok)
    (hwrite : r.req.acc.writes = true) (hacc : r.req.acc ≠ .fetchAdd) (hwho : r.req.who.isEngine = true) (now : Nat) :
    d.writeAnswer now i false = (d.dropResp i).landAck now r.req := by
  simp only [Dev.writeAnswer, hr, Bool.false_eq_true, if_false]
  exact if_pos ⟨hok, hwrite, hacc, hwho⟩

/-! ### The obligation -/

/-- Settles O37: requests sent, data and acknowledgements landed, transactions counted and aged. -/
theorem enginesTransfer : Obligations.EnginesTransfer := by
  intro s d
  refine ⟨fun c k t x p ht hredirect => ?_, fun c k t x p ht hredirect => ?_, fun i r c k run pos len t hr hok hread hwho htile hrun => ?_,
    fun i pos len hl hpos _ hlen => InStream.landed1_next hl hpos hlen, fun i r c k run pos len t hr hok hwrite hacc hwho htile => ?_,
    fun dp r n hdp hcls hguar => Dev.countTxn_counts hdp hcls hguar s.now n, fun i r hr => ?_⟩
  · intro i b va len hdesc hkind hspace hstop hholds hask hnext hret hwin hroom hp
    have heq : d.xferIssue s.now c true k = _ := (Dev.xferIssue_own ht hredirect s.now).trans ((if_pos rfl).trans
      (Dev.issueIn_sends rfl rfl rfl rfl hdesc hkind hspace hstop hholds hask hnext hret hwin hroom hp))
    refine answers_of_eq rfl heq ⟨⟨_, rfl, rfl, rfl, rfl, rfl, rfl⟩, ?_, rfl, fun j hj => Dev.coreAt_onTile_other _ _ _ _ hj⟩
    rw [Dev.coreAt_onTile_same]
    exact congrArg (Option.map _) (Dev.tile_of_worker ht)
  · intro o va len hholds hret hagain hseg hx hask hkind hspace hroom hp
    obtain ⟨f, hf⟩ := Dev.issueOut_sends (now := s.now) (k := k) rfl rfl rfl hholds hret hagain hseg hx hask hkind hspace hroom hp
    have heq : d.xferIssue s.now c false k = _ := (Dev.xferIssue_own ht hredirect s.now).trans ((if_neg Bool.false_ne_true).trans hf)
    refine answers_of_eq rfl heq ⟨⟨_, rfl, rfl, rfl, rfl, rfl, rfl, ?_, rfl, rfl⟩, rfl, fun j hj => Dev.coreAt_onTile_other _ _ _ _ hj⟩
    exact if_congr beq_iff_eq rfl rfl
  · have heq : d.readAnswer s.now i none = _ := (Dev.readAnswer_ok hr hok hread s.now).trans
      (Dev.landRead_engine (d := d.dropResp i) hwho htile hrun s.now r.data)
    refine ⟨_, leads_of_eq rfl heq, ?_, ?_, fun j hj => ?_⟩
    · exact (congrArg (·.resps) (Dev.net_spent _ _ _)).trans (Dev.resps_countTxn _ _ _ _ _)
    · rw [Dev.coreAt_onTile_same, Dev.coreAt_spent, Dev.coreAt_countTxn]
      exact congrArg (Option.map _) htile
    · rw [Dev.coreAt_onTile_other _ _ _ _ hj, Dev.coreAt_spent, Dev.coreAt_countTxn]
      rfl
  · have heq : d.writeAnswer s.now i false = _ := (Dev.writeAnswer_ok hr hok hwrite hacc (by rw [hwho]; rfl) s.now).trans
      (Dev.landAck_engine (d := d.dropResp i) hwho htile s.now)
    refine ⟨_, leads_of_eq rfl heq, Dev.resps_countTxn _ _ _ _ _, ?_⟩
    rw [Dev.coreAt_onTile_same, Dev.coreAt_countTxn]
    exact congrArg (Option.map _) htile
  · intro due
    have hat : escalateAt (d.get (ADM_CLASS_PARAM_A_ACT.TARGET r.tags.cls)) r.esc =
        if r.esc = 0 then d.get (ADM_CLASS_PARAM_A_ACT.TARGET r.tags.cls) / 2
        else if r.esc = 1 then 3 * d.get (ADM_CLASS_PARAM_A_ACT.TARGET r.tags.cls) / 4
        else 9 * d.get (ADM_CLASS_PARAM_A_ACT.TARGET r.tags.cls) / 10 := by
      match r.esc with
      | 0 => rfl
      | 1 => rfl
      | n + 2 => rfl
    have heq : d.escalate s.now i = if due then d.onNet fun n => { n with
        reqs := modifyAt n.reqs i fun r => { r with esc := r.esc + 1 } } else d := by
      simp only [Dev.escalate, hr, hat]
      rfl
    refine ⟨fun hdue => leads_of_eq rfl (heq.trans ((if_pos hdue).trans ?_)), fun hnot => leads_of_eq rfl (heq.trans (if_neg hnot))⟩
    exact congrArg (fun l => d.onNet fun n => { n with reqs := l }) (modifyAt_of_getElem hr rfl)

end Sys2Proof.Machine
end

section
/-!
PROOFS. Holds of streams and their end (R130, R131, R133 to R135, R183, R198, R389).
-/

namespace Sys2Proof.Machine

/-! ### One stream's holds -/

theorem addHold_mem (l : List Hold) (h : Hold) : h ∈ addHold l h := by
  unfold addHold
  split
  next hc => exact List.contains_iff_mem.mp hc
  next => exact List.mem_append_right _ (List.mem_singleton_self h)

theorem filter_released {l : List Hold} {p : Hold → Bool} (h : ∀ x ∈ l, p x = true) : l.filter (fun h => !p h) = [] :=
  List.filter_eq_nil_iff.mpr fun x hx => by simp [h x hx]

/-- The last hold's end sets an inbound stream back to its resume point. -/
theorem InStream.release_last {i : InStream} {p : Hold → Bool} {r : Nat} (hne : i.holds ≠ []) (hall : ∀ h ∈ i.holds, p h = true)
    (hr : i.resume = some r) : i.release p = { i with
      holds := [], resume := none, next := r, landed := i.landed.filter fun x => decide (x.1 < r) } := by
  have hlast : (([] : List Hold).isEmpty && !i.holds.isEmpty) = true := by simp [hne]
  unfold InStream.release
  dsimp only
  rw [filter_released hall, if_pos hlast, hr]

/-- With a hold left nothing of an inbound stream but its holds differs. -/
theorem InStream.release_some {i : InStream} {p : Hold → Bool} (h : ∃ h ∈ i.holds, p h = false) :
    i.release p = { i with holds := i.holds.filter fun h => !p h } ∧ (i.holds.filter fun h => !p h) ≠ [] := by
  obtain ⟨x, hx, hp⟩ := h
  have hne : (i.holds.filter fun h => !p h) ≠ [] := List.ne_nil_of_mem (List.mem_filter.mpr ⟨hx, by rw [hp]; rfl⟩)
  refine ⟨?_, hne⟩
  unfold InStream.release
  dsimp only
  rw [if_neg (by simp [List.isEmpty_iff, hne])]

/-- A kept write after its stream's resume: below the resume point, or an add acknowledged, it stays; else it goes out again. -/
def OutStream.resumed (o : OutStream) (x q : Nat) (w : OutPiece) : OutPiece :=
  if pointLt w.xout w.pos x q || (w.acked && ((o.xouts.find? fun y => y.id == w.xout).map (·.mode)).getD 0 != 0) then w
  else { w with again := true, acked := false }

theorem OutStream.release_last {o : OutStream} {p : Hold → Bool} {x q : Nat} (hne : o.holds ≠ []) (hall : ∀ h ∈ o.holds, p h = true)
    (hr : o.resume = some (x, q)) : o.release p = { o with
      holds := [], resume := none, pieces := o.pieces.map (o.resumed x q) } := by
  have hlast : (([] : List Hold).isEmpty && !o.holds.isEmpty) = true := by simp [hne]
  unfold OutStream.release
  dsimp only
  rw [filter_released hall, if_pos hlast, hr]
  rfl

/-- Among stores alone every kept write at or above the resume point goes out again. -/
theorem OutStream.resumed_store {o : OutStream} (h : ∀ y ∈ o.xouts, y.mode = 0) (x q : Nat) (w : OutPiece) :
    o.resumed x q w = if pointLt w.xout w.pos x q then w else { w with again := true, acked := false } := by
  have hmode : ((o.xouts.find? fun y => y.id == w.xout).map (·.mode)).getD 0 = 0 := by
    cases hf : o.xouts.find? fun y => y.id == w.xout with
    | none => rfl
    | some y => exact h y (List.mem_of_find?_eq_some hf)
  unfold OutStream.resumed
  rw [hmode]
  simp

/-! ### What looking again at a held step leaves -/

/-- Nothing but the cores differs, and of their tiles nothing but the STALLED look. -/
def Dev.HeldOnly (d e : Dev) : Prop :=
  { e with core := d.core } = d ∧ ∀ c t, (d.coreAt c).tile = some t → ∃ h, (e.coreAt c).tile = some { t with held := h }

theorem Dev.HeldOnly.refl (d : Dev) : d.HeldOnly d := ⟨rfl, fun _ t h => ⟨t.held, h⟩⟩

theorem Dev.HeldOnly.trans {d e f : Dev} (h : d.HeldOnly e) (k : e.HeldOnly f) : d.HeldOnly f := by
  obtain ⟨hrest, htile⟩ := h
  obtain ⟨krest, ktile⟩ := k
  refine ⟨?_, fun c t ht => ?_⟩
  · rw [← hrest, ← krest]
  · obtain ⟨x, hx⟩ := htile c t ht
    obtain ⟨y, hy⟩ := ktile c _ hx
    exact ⟨y, hy⟩

theorem Dev.heldOnly_restall (d : Dev) (c : Nat) : d.HeldOnly (d.restall c) := by
  unfold Dev.restall
  split
  · exact .refl d
  next t ht =>
    split
    · exact .refl d
    · refine ⟨rfl, fun k u hu => ?_⟩
      by_cases hk : k = c
      · subst hk
        have htu : t = u := by
          unfold Dev.issuer at ht
          dsimp only at ht
          split at ht
          · exact Option.some.inj (ht.symm.trans hu)
          · exact absurd ht nofun
        subst htu
        rw [Dev.coreAt_onCore_same]
        exact ⟨_, rfl⟩
      · rw [Dev.coreAt_onCore_other _ _ _ _ hk]
        exact ⟨u.held, hu⟩

theorem Dev.stk_restall (d : Dev) (c : Nat) : (d.restall c).stk = d.stk := by
  have h := congrArg (fun x : Dev => x.stk) (d.heldOnly_restall c).1
  exact h

theorem Dev.hif_restall (d : Dev) (c : Nat) : (d.restall c).hif = d.hif := by
  have h := congrArg (fun x : Dev => x.hif) (d.heldOnly_restall c).1
  exact h

/-- Releasing holds on every core releases them on every tile. -/
theorem Dev.releaseHolds_law (d : Dev) (p : Tile → Hold → Bool) : { d.releaseHolds p with core := d.core } = d ∧
    ∀ c t, (d.coreAt c).tile = some t → ∃ h, ((d.releaseHolds p).coreAt c).tile = some { t.release (p t) with held := h } := by
  have hfold : ∀ (l : List Nat) (e : Dev), e.HeldOnly (l.foldl (fun x c => x.restall c) e) := fun l e =>
    foldl_keeps (fun x => e.HeldOnly x) _ (fun x c hx => hx.trans (x.heldOnly_restall c)) l e (.refl e)
  obtain ⟨hrest, htile⟩ := hfold (d.core.map Prod.fst) { d with core := Tbl.mapV (fun _ (k : Core) => k.release p) d.core }
  refine ⟨congrArg (fun x : Dev => { x with core := d.core }) hrest, fun c t ht => htile c _ ?_⟩
  have hcore : ({ d with core := Tbl.mapV (fun _ (k : Core) => k.release p) d.core } : Dev).coreAt c = (d.coreAt c).release p := by
    unfold Dev.coreAt Tbl.look
    rw [Tbl.find_mapV]
    cases Tbl.find d.core c with
    | none => rfl
    | some k => rfl
  rw [hcore, Core.release, ht]
  rfl

/-- The device but for its sweeps. -/
def Dev.noSweeps (d : Dev) : Dev := { d with sweeps := [] }

theorem Dev.noSweeps_rerouteGrant (d : Dev) (job s : Nat) (j : SweepJob) (g : Grant) : (d.rerouteGrant job s j g).noSweeps = d.noSweeps := by
  unfold Dev.rerouteGrant
  dsimp only
  split
  · split
    · rfl
    · rfl
  · rfl

theorem Dev.noSweeps_releaseGrants (d : Dev) (p : SweepJob → Nat → Hold → Bool) : (d.releaseGrants p).noSweeps = d.noSweeps := by
  refine Dev.foldl_proj (π := Dev.noSweeps) (fun x (e : Nat × SweepJob) => ?_) _ _
  refine Dev.foldl_proj (π := Dev.noSweeps) (fun y (q : SweepPart) => ?_) _ _
  exact Dev.foldl_proj (π := Dev.noSweeps) (fun z g => z.noSweeps_rerouteGrant e.1 q.stack e.2 g) _ _

/-- Letting go of holds releases them on every tile; nothing but cores and sweeps differs. -/
theorem Dev.letGo_law (d : Dev) (p : Nat → Hold → Bool) : Released d (d.letGo p) p ∧ (d.letGo p).net = d.net ∧
    (d.letGo p).cxl = d.cxl := by
  obtain ⟨hrest, htile⟩ := d.releaseHolds_law fun t h => p t.own.ctx h
  have hsweeps := Dev.noSweeps_releaseGrants (d.releaseHolds fun t h => p t.own.ctx h) fun j _ h => p j.tags.ctx h
  have hnet := congrArg (fun x : Dev => x.net) hrest
  have hcxl := congrArg (fun x : Dev => x.cxl) hrest
  refine ⟨fun c t ht => ?_, (congrArg (fun x : Dev => x.net) hsweeps).trans hnet, (congrArg (fun x : Dev => x.cxl) hsweeps).trans hcxl⟩
  obtain ⟨h, hh⟩ := htile c t ht
  exact ⟨h, (congrArg (fun x : Dev => (x.coreAt c).tile) hsweeps).trans hh⟩

/-! ### Answers that hold a stream (R130, R181, R198) -/

/-- A faulted request of an inbound stream, answered: the stream of its run is held. -/
def Tile.heldIn (t : Tile) (r : Req) (k run pos : Nat) (h : Hold) : Tile :=
  if (t.ins.getD k InStream.init).run = run ∧ !(t.ins.getD k InStream.init).stopped then
    { t.credit r with ins := modifyAt t.ins k fun s => { s.hold pos h with out := s.out - 1 } }
  else t.credit r

section
variable {d : Dev} {i : Nat} {r : Resp} {c k run pos len : Nat} {t : Tile}

theorem Dev.holdOr_engine {r : Req} (hwho : r.who = .engine c true k run pos len) (h : Hold) (st : Status) (soft : Bool) :
    d.holdOr r h st soft = (d.onTile c fun t => t.heldIn r k run pos h).restall c := by
  simp only [Dev.holdOr, Dev.holdReq, Dev.holdStream, hwho]
  rfl

theorem Dev.softAnswer_soft {st tok : Nat} (hr : d.net.resps[i]? = some r) (hwho : r.req.who = .engine c true k run pos len)
    (hst : r.status = .soft st tok) (hpend : (Tbl.find (d.stack st).pend tok).isSome = true) (now : Nat) :
    d.softAnswer now i = ((d.dropResp i).onTile c fun t => t.heldIn r.req k run pos (.soft st tok)).restall c := by
  have hstk : ((((d.dropResp i).onTile c fun t => t.heldIn r.req k run pos (.soft st tok)).restall c).stack st) = d.stack st :=
    congrArg (Tbl.look Stack.reset · st) (Dev.stk_restall _ _)
  simp only [Dev.softAnswer, hr, hst, Dev.holdOr_engine hwho]
  rw [hstk, if_neg]
  rw [Option.isNone_eq_false_iff.mpr hpend]
  exact Bool.false_ne_true

theorem Dev.softAnswer_retry (hr : d.net.resps[i]? = some r) (hwho : r.req.who = .engine c true k run pos len)
    (hst : r.status = .retry) (now : Nat) :
    d.softAnswer now i = ((d.dropResp i).onTile c fun t => t.heldIn r.req k run pos (.retry now)).restall c := by
  simp only [Dev.softAnswer, hr, hst, Dev.holdOr_engine hwho]

theorem Dev.blockedAnswer_held {x : Ctx} (hr : d.net.resps[i]? = some r) (hwho : r.req.who = .engine c true k run pos len)
    (hst : r.status = .blocked) (hx : Tbl.find d.hif.ctxs r.req.tags.ctx = some x) (hb : x.blocked = true) :
    d.blockedAnswer i = ((d.dropResp i).onTile c fun t => t.heldIn r.req k run pos .blocked).restall c := by
  have hhif : (((d.dropResp i).onTile c fun t => t.heldIn r.req k run pos .blocked).restall c).hif = d.hif := Dev.hif_restall _ _
  simp only [Dev.blockedAnswer, hr, hst, Dev.holdOr_engine hwho, if_true, hhif, hx, Option.map_some, Option.getD_some, hb, Bool.true_or]

/-- The held tile, as the statement says it. -/
theorem Dev.held_onTile (ht : (d.coreAt c).tile = some t) (hrun : (t.ins.getD k InStream.init).run = run)
    (hstop : (t.ins.getD k InStream.init).stopped = false) (h : Hold) :
    (((d.dropResp i).onTile c fun t => t.heldIn r.req k run pos h).coreAt c).tile = some { t.credit r.req with
      ins := modifyAt t.ins k fun y => { y.hold pos h with out := y.out - 1 } } := by
  rw [Dev.coreAt_onTile_same]
  exact (congrArg (Option.map _) ht).trans (congrArg some (if_pos ⟨hrun, by rw [hstop]; rfl⟩))

end

/-! ### Page responses and the stall allowance -/

theorem Dev.hardFaults_law (l : List Req) (code unit : Nat) (d : Dev) :
    (l.foldl (fun d r => d.hardFault r code unit) d).net.faults.length = d.net.faults.length + l.length ∧
      (l.foldl (fun d r => d.hardFault r code unit) d).ras = d.ras ∧ (l.foldl (fun d r => d.hardFault r code unit) d).cxl = d.cxl := by
  induction l generalizing d with
  | nil => exact ⟨rfl, rfl, rfl⟩
  | cons r l ih =>
    obtain ⟨hlen, hras, hcxl⟩ := ih (d.hardFault r code unit)
    refine ⟨hlen.trans ?_, hras, hcxl⟩
    simp [Dev.hardFault, Dev.fault, Dev.onNet, Nat.add_assoc, Nat.add_comm 1]

/-- The record of a page request refused. -/
def Dev.pageRefused (d : Dev) (port page : Nat) (rs : List Req) : Dev :=
  let pasid := match Tbl.find d.hif.ctxs (((rs.head?).map (·.tags.ctx)).getD 0) with
    | some c => if c.pasidEn then c.pasid else 0
    | none => 0
  d.raise 0x070A (unitId 5 port) 0x00 .contained [pasid, page * 4096] ((rs.head?).map fun r => (r.tags.ast, r.tags.ctx))

theorem Dev.pageAnswer_eq {d : Dev} {port page : Nat} {half : Bool} {r : Req} {l : List (Nat × Req)}
    (h : (d.link (port * 2 + half.toNat)).pri = (page, r) :: l) (ok : Bool) : d.pageAnswer port half ok =
      let k := port * 2 + half.toNat
      let rs := ((d.link k).pri.filter fun p => p.1 == page).map (·.2)
      let d := d.onLink k fun l => { l with pri := l.pri.filter fun p => p.1 != page }
      if ok then d.letGo fun _ h => h == .host (k * 2 ^ 52 + page)
      else rs.foldl (fun d r => d.hardFault r 0x070A (unitId 5 port)) (d.pageRefused port page rs) := by
  unfold Dev.pageAnswer
  dsimp only
  rw [h]
  rfl

theorem Dev.stallSpent_kept {d : Dev} {c : Nat} {t : Tile} (ht : (d.coreAt c).tile = some t) (hdue : 625 ≤ t.stallTicks)
    (hret : t.retained = false) (hrep : t.own.replay = false) (now : Nat) : d.stallSpent now c =
      (((d.raise 0x0110 (coreUnit c) 0x05 .contained t.heldStream (some (t.own.ast, t.own.ctx))).onTile c fun t =>
        { t with retained := true }).onCtx t.own.ctx fun k => if k.state = .active then { k with state := .retained } else k).onCmd
        t.own.cmd fun m => if m.guar ∧ m.shed.isNone then { m with shed := some (false, .faultStall) } else m := by
  have hgo : ¬(t.stallTicks < stallLimit ∨ t.retained = true) := by
    rw [hret]
    exact fun h => h.elim (Nat.not_lt.mpr hdue) nofun
  simp only [Dev.stallSpent, ht]
  rw [if_neg hgo, hrep, if_neg (fun h => Bool.false_ne_true h.1), if_neg Bool.false_ne_true]

/-! ### The obligation -/

/-- Settles O38: what holds a stream, what releases it, and what ends its tile. -/
theorem holdsEnd : Obligations.HoldsEnd := by
  refine ⟨fun i p r hne hall hr => ?_, fun o p x q hne hall hr => ?_, fun i p h => ?_, fun i pos h => ⟨addHold_mem _ _, ?_⟩, fun s => ?_⟩
  · rw [InStream.release_last hne hall hr]
    exact ⟨rfl, rfl, rfl, rfl⟩
  · rw [OutStream.release_last hne hall hr]
    refine ⟨rfl, rfl, List.length_map .., fun n w hw hmode => ⟨o.resumed x q w, ?_, ?_⟩⟩
    · exact (List.getElem?_map ..).trans (congrArg (Option.map _) hw)
    · rw [OutStream.resumed_store hmode]
      split
      next hlt => exact ⟨rfl, rfl, fun _ => rfl, fun h => absurd (hlt.symm.trans h) (by decide)⟩
      next hnot => exact ⟨rfl, rfl, fun h => absurd h hnot, fun _ => ⟨rfl, rfl⟩⟩
  · obtain ⟨heq, hne⟩ := InStream.release_some h
    rw [heq]
    exact ⟨rfl, hne, rfl⟩
  · unfold InStream.hold
    cases hr : i.resume with
    | none => exact ⟨pos, rfl, Nat.le_refl _, nofun⟩
    | some r =>
      refine ⟨min r pos, rfl, Nat.min_le_right _ _, fun r' h => ?_⟩
      rw [← Option.some.inj h]
      exact Nat.min_le_left _ _
  · intro d held
    refine ⟨fun i r c k run pos len t hr hwho ht hrun hstop => ⟨fun st tok hst hpend => ?_, fun hst => ?_, fun x hst hx hb => ?_⟩,
      fun i r c inb k run pos len hr hwho => ⟨fun code hst => ?_, fun hst => ?_⟩, fun i r hr hst => ?_, fun i r hr hst => ⟨?_, ?_, ?_⟩,
      fun i st tok => ⟨fun hn => ?_, fun hn => ?_⟩, fun i st hn => ?_, fun i x hn => ?_, fun c k t ht => ?_, fun c t ht => ?_,
      fun port half page r l hpri => ?_⟩
    · exact ⟨_, leads_of_eq rfl (Dev.softAnswer_soft hr hwho hst hpend s.now), rfl, Dev.held_onTile ht hrun hstop _⟩
    · exact ⟨_, leads_of_eq rfl (Dev.softAnswer_retry hr hwho hst s.now), rfl, Dev.held_onTile ht hrun hstop _⟩
    · exact ⟨_, leads_of_eq rfl (Dev.blockedAnswer_held hr hwho hst hx hb), rfl, Dev.held_onTile ht hrun hstop _⟩
    · exact leads_of_eq (d := d.hardAnswer s.now i) rfl (by simp only [Dev.hardAnswer, hr, hst, Dev.endsHard, hwho]; rfl)
    · exact leads_of_eq (d := d.hardAnswer s.now i) rfl (by simp only [Dev.hardAnswer, hr, hst, Dev.endsHard, hwho]; rfl)
    · exact leads_of_eq (d := d.hardAnswer s.now i) rfl (by simp only [Dev.hardAnswer, hr, hst]; rfl)
    · exact leads_of_eq (d := d.softAnswer s.now i) rfl (by simp only [Dev.softAnswer, hr, hst])
    · exact leads_of_eq (d := d.hardAnswer s.now i) rfl (by simp only [Dev.hardAnswer, hr, hst])
    · exact leads_of_eq (d := d.blockedAnswer i) rfl (by simp [Dev.blockedAnswer, hr, hst])
    · obtain ⟨hrel, hnet, -⟩ := (d.dropNote i).letGo_law fun _ h => h == .soft st tok
      exact answers_of_eq (d := _) rfl (by dsimp only; rw [hn]; rfl) ⟨congrArg (·.notes) hnet, hrel⟩
    · obtain ⟨hrel, hnet, -⟩ := (d.dropNote i).letGo_law fun _ h => h == .soft st tok
      exact answers_of_eq (d := _) rfl (by dsimp only; rw [hn]; rfl) ⟨congrArg (·.notes) hnet, hrel⟩
    · obtain ⟨hrel, hnet, -⟩ := (d.dropNote i).letGo_law fun _ h => match h with | .soft k _ => k == st | _ => false
      exact answers_of_eq (d := _) rfl (by dsimp only; rw [hn] <;> rfl) ⟨congrArg (·.notes) hnet, hrel⟩
    · obtain ⟨hrel, hnet, -⟩ := (d.dropNote i).letGo_law fun y h => y == x && h == .blocked
      exact answers_of_eq (d := _) rfl (by dsimp only; rw [hn]) ⟨congrArg (·.notes) hnet, hrel⟩
    · refine ⟨⟨_, leads_of_eq rfl rfl, ?_⟩, ⟨_, leads_of_eq rfl rfl, ?_⟩⟩
      · exact (congrArg (·.tile) (Dev.coreAt_onTile_same d c _)).trans (congrArg (Option.map _) ht)
      · exact (congrArg (·.tile) (Dev.coreAt_onTile_same d c _)).trans (congrArg (Option.map _) ht)
    · intro rec0
      refine ⟨fun hlt => ?_, fun hdue hret hrep hfew => ?_, fun hdue hret hrep => ?_⟩
      · exact leads_of_eq (d := d.stallSpent s.now c) rfl (by simp only [Dev.stallSpent, ht]; exact if_pos (.inl hlt))
      · refine leads_of_eq (d := d.stallSpent s.now c) rfl ?_
        simp only [Dev.stallSpent, ht]
        rw [if_neg (by rw [hret]; exact fun h => h.elim (Nat.not_lt.mpr hdue) nofun), if_pos ⟨hrep, hfew⟩]
      · refine answers_of_eq rfl (Dev.stallSpent_kept ht hdue hret hrep s.now) ⟨⟨_, rfl, rfl, rfl⟩, ?_, fun x hx hactive => ?_⟩
        · refine (congrArg (·.tile) (Dev.coreAt_onTile_same _ c _)).trans ?_
          exact congrArg (Option.map _) ht
        · refine (Tbl.find_adj_same _ _ _).trans ((congrArg (Option.map _) hx).trans ?_)
          exact congrArg some (if_pos hactive)
    · intro x
      have hfilter : ((d.link x).pri.filter fun p => p.1 != page) = l.filter fun p => p.1 != page := by
        rw [hpri, List.filter_cons_of_neg (by simp)]
      have hlink : (((d.onLink x fun l => { l with pri := l.pri.filter fun p => p.1 != page }).link x).pri) = l.filter fun p => p.1 != page := by
        rw [Dev.link_onLink_same]
        exact hfilter
      refine ⟨?_, ?_⟩
      · obtain ⟨hrel, -, hcxl⟩ := (d.onLink x fun l => { l with pri := l.pri.filter fun p => p.1 != page }).letGo_law
          fun _ h => h == .host (x * 2 ^ 52 + page)
        refine answers_of_eq rfl ((Dev.pageAnswer_eq hpri true).trans (if_pos rfl)) ⟨?_, hrel⟩
        rw [Dev.link, hcxl]
        exact hlink
      · obtain ⟨hlen, hras, hcxl⟩ := Dev.hardFaults_law (((d.link x).pri.filter fun p => p.1 == page).map (·.2)) 0x070A (unitId 5 port)
          ((d.onLink x fun l => { l with pri := l.pri.filter fun p => p.1 != page }).pageRefused port page
            (((d.link x).pri.filter fun p => p.1 == page).map (·.2)))
        refine answers_of_eq rfl ((Dev.pageAnswer_eq hpri false).trans (if_neg Bool.false_ne_true)) ⟨?_, ?_, ?_⟩
        · rw [Dev.link, hcxl]
          exact hlink
        · rw [hras]
          exact ⟨_, rfl, rfl⟩
        · rw [hlen, List.length_map, hpri]
          rfl

end Sys2Proof.Machine
end

section
/-!
PROOFS. The fault collector: records written, merged, held or refused, and what a drained ring sets free (R196 to R202).
-/

namespace Sys2Proof.Machine

/-! ### Taking the first of a list -/

theorem takeFirst_none {α : Type} {p : α → Bool} {l : List α} (h : ∀ a ∈ l, p a = false) : takeFirst p l = none := by
  induction l with
  | nil => rfl
  | cons a l ih =>
    rw [takeFirst, h a List.mem_cons_self, if_neg Bool.false_ne_true, ih fun b hb => h b (List.mem_cons_of_mem _ hb)]
    rfl

theorem takeFirst_cons {α : Type} {p : α → Bool} {a : α} (h : p a = true) (l : List α) : takeFirst p (a :: l) = some (a, l) := by
  rw [takeFirst, if_pos h]

theorem any_false {α : Type} {p : α → Bool} {l : List α} (h : ∀ a ∈ l, p a = false) : l.any p = false :=
  List.any_eq_false.mpr fun a ha hp => Bool.false_ne_true ((h a ha).symm.trans hp)

/-! ### One record at the collector (R196 to R199) -/

/-- Writing a record into a function's ring moves its TAIL on, and may interrupt. -/
theorem Dev.ringPut_law {r : FaultRec} {f : Nat} (h : r.ring = some f) (d : Dev) (now : Nat) : ∃ fns intr, d.ringPut now r = { d with
      hif := { d.hif with fr := Tbl.put d.hif.fr (cqKey f ((d.fn f).frTail % 2 ^ (d.fn f).frLog2n)) r, fns := fns, intr := intr } } ∧
    (Tbl.look Fn.reset fns f).frTail = ((d.fn f).frTail + 1) % 2 ^ 32 ∧ (Tbl.look Fn.reset fns f).frHead = (d.fn f).frHead := by
  unfold Dev.ringPut
  rw [h]
  dsimp only
  refine iteInduction (motive := fun e : Dev => ∃ fns intr, e = { d with
      hif := { d.hif with fr := Tbl.put d.hif.fr (cqKey f ((d.fn f).frTail % 2 ^ (d.fn f).frLog2n)) r, fns := fns, intr := intr } } ∧
    (Tbl.look Fn.reset fns f).frTail = ((d.fn f).frTail + 1) % 2 ^ 32 ∧ (Tbl.look Fn.reset fns f).frHead = (d.fn f).frHead)
    (fun _ => ?_) (fun _ => ?_)
  · refine ⟨_, _, rfl, ?_, ?_⟩
    · simp [Dev.onFn, Dev.onHif, Dev.fn]
    · simp [Dev.onFn, Dev.onHif, Dev.fn]
  · refine ⟨_, _, rfl, ?_, ?_⟩
    · simp [Dev.onHif, Dev.fn]
    · simp [Dev.onHif, Dev.fn]

theorem mergeInto_length (r : FaultRec) (l : List FaultRec) : (mergeInto r l).length = l.length := by
  induction l with
  | nil => rfl
  | cons x l ih =>
    unfold mergeInto
    split
    · rfl
    · exact congrArg (· + 1) ih

theorem Dev.markBlocked_plain {d : Dev} {r : FaultRec} (h : ∀ c, Tbl.find d.hif.ctxs r.ctx = some c → c.flagNext = false) :
    d.markBlocked r = (d, r) := by
  unfold Dev.markBlocked
  split
  next c hc => rw [h c hc]; rfl
  next => rfl

section
variable {d : Dev} {m : FaultMsg} {l : List FaultMsg} {r : Req} {f : Nat}

/-- A record for a function's ring is always taken. -/
theorem Dev.faultNext_takes (hf : d.net.faults = m :: l) (hring : m.fr.ring = some f) (now : Nat) :
    d.faultNext now = (d.onNet fun n => { n with faults := l }).collect now m := by
  have htakes : d.takes m = true := by simp [Dev.takes, FaultRec.mgt, hring]
  simp only [Dev.faultNext, hf, takeFirst_cons htakes]

theorem Dev.collect_eq (hring : m.fr.ring = some f) (hkeep : d.discards m.fr = false)
    (hplain : ∀ c, Tbl.find d.hif.ctxs m.fr.ctx = some c → c.flagNext = false) (now : Nat) : d.collect now m =
      if (d.fn f).room && !d.hif.hold.any fun x => x.ring == some f then (d.ringPut now m.fr).faultAnswer m
      else if d.hif.hold.any fun x => m.fr.merges x then (d.onHif fun h => { h with hold := mergeInto m.fr h.hold }).faultAnswer m
      else if canHold d.hif.hold m.fr then (d.onHif fun h => { h with hold := h.hold ++ [{ m.fr with held := true }] }).faultAnswer m
      else d.shareFull m := by
  unfold Dev.collect
  rw [hkeep, if_neg Bool.false_ne_true, Dev.markBlocked_plain hplain]
  dsimp only
  rw [hring]
  rfl

theorem Dev.faultAnswer_req (hr : m.req = some r) : d.faultAnswer m = d.answer r m.status := by
  rw [Dev.faultAnswer, hr]

/-- With the share full, a hard fault's request is answered BLOCKED and its context blocked, with one record an episode. -/
theorem Dev.shareFull_law {code : Nat} (hr : m.req = some r) (hst : m.status = .hard code) (h5 : m.fr.acc ≠ 5) (h6 : m.fr.acc ≠ 6) :
    ∃ episodes n box, d.shareFull m = (({ d with hif := { d.hif with episodes := episodes, nEpisodes := n }, ras :=
        { d.ras with box := box } } : Dev).blockCtx m.fr.ctx).answer r .blocked ∧ m.fr.ast ∈ episodes ∧
      (m.fr.ast ∈ d.hif.episodes → box = d.ras.box) ∧
      (m.fr.ast ∉ d.hif.episodes → ∃ b, box = d.ras.box ++ [b] ∧ b.code = 0x030C) := by
  have hunreport : ∀ e : Dev, e.unreport m = e := by
    intro e
    simp only [Dev.unreport, hst]
  unfold Dev.shareFull
  dsimp only
  by_cases hin : m.fr.ast ∈ d.hif.episodes
  · rw [if_pos (List.contains_iff_mem.mpr hin), if_neg (not_or.mpr ⟨h5, h6⟩), hunreport, hr]
    exact ⟨_, _, _, rfl, hin, fun _ => rfl, fun h => absurd hin h⟩
  · rw [if_neg (fun h => hin (List.contains_iff_mem.mp h)), if_neg (not_or.mpr ⟨h5, h6⟩), hunreport, hr]
    exact ⟨_, _, _, rfl, List.mem_append_right _ (List.mem_singleton_self _), fun h => absurd h hin, fun _ => ⟨_, rfl, rfl⟩⟩

end

/-- A context blocked stands blocked, and in the order of the blocked. -/
theorem Dev.blockCtx_law {d : Dev} {x : Nat} {c : Ctx} (hc : Tbl.find d.hif.ctxs x = some c) :
    Tbl.find (d.blockCtx x).hif.ctxs x = some { c with blocked := true } ∧ x ∈ (d.blockCtx x).hif.blockedQ := by
  refine ⟨(Tbl.find_adj_same _ _ _).trans (congrArg _ hc), ?_⟩
  unfold Dev.blockCtx Dev.onHif
  dsimp only
  split
  next h => exact List.contains_iff_mem.mp h
  next => exact List.mem_append_right _ (List.mem_singleton_self _)

/-! ### Draining and unblocking (R196, R199, R200) -/

/-- A context unblocked. -/
def Ctx.unblocked (c : Ctx) : Ctx := { c with blocked := false, flagNext := true }

theorem onCtx_foldl (g : Ctx → Ctx) (l : List Nat) (d : Dev) :
    l.foldl (fun d x => d.onCtx x g) d = { d with hif := { d.hif with ctxs := l.foldl (fun t x => Tbl.adj t x g) d.hif.ctxs } } := by
  induction l generalizing d with
  | nil => rfl
  | cons x l ih => exact ih _

/-- Changes that are the same when done twice, done at a list of keys. -/
theorem find_foldl_adj {α : Type} {g : α → α} (hg : ∀ a, g (g a) = g a) (l : List Nat) (t : Tbl α) {x : Nat} {a : α}
    (hx : Tbl.find t x = some a) : Tbl.find (l.foldl (fun t x => Tbl.adj t x g) t) x = some (if x ∈ l then g a else a) := by
  induction l generalizing t a with
  | nil => exact hx
  | cons y l ih =>
    rw [List.foldl_cons]
    by_cases hxy : x = y
    · subst hxy
      rw [ih _ ((Tbl.find_adj_same _ _ _).trans (congrArg _ hx)), if_pos List.mem_cons_self, hg, ite_self]
    · rw [ih _ ((Tbl.find_adj_other _ _ _ _ hxy).trans hx)]
      simp [hxy]

/-- What an empty holding buffer sets free. -/
def Dev.Freed (d e : Dev) : Prop := e.hif.hold = [] ∧ e.hif.blockedQ = [] ∧ e.hif.episodes = [] ∧
  e.net.notes = d.net.notes ++ d.hif.blockedQ.map .unblock ∧
  ∀ x ∈ d.hif.blockedQ, ∀ c, Tbl.find d.hif.ctxs x = some c → Tbl.find e.hif.ctxs x = some { c with blocked := false, flagNext := true }

/-- With no record held every episode ends and every blocked context is unblocked, with a notice each. -/
theorem Dev.unblock_law {d : Dev} (h : d.hif.hold = []) : d.Freed d.unblock ∧ d.unblock.hif.fns = d.hif.fns ∧ d.unblock.hif.fr = d.hif.fr ∧
    d.unblock.regs = d.regs := by
  have hlow : ∀ a, decide (heldOf d.hif.hold a ≤ 34) = true := by
    intro a
    rw [h]
    rfl
  have hgo : d.hif.blockedQ.filter (fun c => decide (heldOf d.hif.hold (((Tbl.find d.hif.ctxs c).map (·.ast)).getD 0) ≤ 34)) =
      d.hif.blockedQ := List.filter_eq_self.mpr fun c _ => hlow _
  have heq : d.unblock = { d with
      hif := { d.hif with
        episodes := [], blockedQ := [], ctxs := d.hif.blockedQ.foldl (fun t x => Tbl.adj t x Ctx.unblocked) d.hif.ctxs }
      net := { d.net with notes := d.net.notes ++ d.hif.blockedQ.map .unblock } } := by
    have hq : d.hif.blockedQ.filter (fun c => !d.hif.blockedQ.contains c) = [] :=
      List.filter_eq_nil_iff.mpr fun c hc => by simp [hc]
    have he : d.hif.episodes.filter (fun a => !decide (heldOf d.hif.hold a ≤ 34)) = [] :=
      List.filter_eq_nil_iff.mpr fun a _ => by rw [hlow]; decide
    unfold Dev.unblock
    dsimp only
    rw [hgo]
    dsimp only [Dev.onHif]
    rw [hq, he]
    exact congrArg (fun e : Dev => e.notes (d.hif.blockedQ.map Note.unblock))
      (onCtx_foldl Ctx.unblocked _ { d with hif := { d.hif with episodes := [], blockedQ := [] } })
  rw [heq]
  refine ⟨⟨h, rfl, rfl, rfl, fun x hx c hc => ?_⟩, rfl, rfl, rfl⟩
  exact (find_foldl_adj (g := Ctx.unblocked) (fun _ => rfl) _ _ hc).trans (congrArg some (if_pos hx))

/-- Draining a ring with no record held only unblocks. -/
theorem Dev.drain_empty {d : Dev} (h : d.hif.hold = []) (now : Nat) (ring : Option Nat) : d.drain now ring = d.unblock := by
  rw [Dev.drain, h]
  rfl

/-- A single held record is written where its ring has room. -/
theorem Dev.drain_one {d : Dev} {r : FaultRec} {f : Nat} (h : d.hif.hold = [r]) (hring : r.ring = some f) (hroom : (d.fn f).room = true)
    (now : Nat) : d.drain now (some f) = (({ d with hif := { d.hif with hold := [] } } : Dev).ringPut now r).unblock := by
  have htake : takeFirst (fun r : FaultRec => r.ring == some f) d.hif.hold = some (r, []) := by
    rw [h]
    exact takeFirst_cons (p := fun r : FaultRec => r.ring == some f) (beq_iff_eq.mpr hring) []
  have hlen : d.hif.hold.length = 1 := by rw [h]; rfl
  rw [Dev.drain, hlen, Dev.drainRing, show d.ringRoom (some f) = true from hroom, Bool.not_true, if_neg Bool.false_ne_true, htake]
  rfl

theorem Dev.drain_one_law {d : Dev} {r : FaultRec} {f : Nat} (h : d.hif.hold = [r]) (hring : r.ring = some f) (hroom : (d.fn f).room = true)
    (now : Nat) : Tbl.find (d.drain now (some f)).hif.fr (cqKey f ((d.fn f).frTail % 2 ^ (d.fn f).frLog2n)) = some r ∧
      (d.drain now (some f)).hif.hold = [] ∧ ((d.drain now (some f)).fn f).frHead = (d.fn f).frHead ∧
      ((d.drain now (some f)).fn f).frTail = ((d.fn f).frTail + 1) % 2 ^ 32 := by
  obtain ⟨fns, intr, hput, htail, hhead⟩ := Dev.ringPut_law hring { d with hif := { d.hif with hold := [] } } now
  rw [Dev.drain_one h hring hroom]
  generalize ({ d with hif := { d.hif with hold := [] } } : Dev).ringPut now r = x at hput ⊢
  obtain ⟨⟨hhold, -⟩, hfns, hfr, -⟩ := Dev.unblock_law (d := x) (by rw [hput])
  have hfn : x.unblock.fn f = Tbl.look Fn.reset fns f := by rw [Dev.fn, hfns, hput]
  rw [hfn, hfr, hput]
  rw [hput] at hhold
  exact ⟨Tbl.find_put_same _ _ _, hhold, hhead, htail⟩

/-! ### The obligation -/

/-- Settles O39: records collected, and rings drained. -/
theorem faultsAreCollected : Obligations.FaultsAreCollected := by
  intro s d
  refine ⟨fun h => ?_, fun m l r f hfaults hr hring hkeep hplain => ?collected, fun hhold => ?freed, fun f v r hhold hring hen hle hroom => ?_,
    fun f v hpast => leads_of_eq rfl (if_neg (Nat.not_le.mpr hpast))⟩
  · refine leads_of_eq (d := d.faultNext s.now) rfl ?_
    rw [Dev.faultNext, takeFirst_none h]
  case collected =>
    have heq : d.faultNext s.now = _ := (Dev.faultNext_takes hfaults hring s.now).trans
      (Dev.collect_eq (d := d.onNet fun n => { n with faults := l }) hring hkeep hplain s.now)
    refine ⟨fun hroom hnone => ?_, fun hroom hsome => ?_, fun hroom hnone hcan => ?_, fun code c hroom hnone hcan hst h5 h6 hc => ?_⟩
    · obtain ⟨fns, intr, hput, htail, -⟩ := Dev.ringPut_law hring (d.onNet fun n => { n with faults := l }) s.now
      have hempty : d.hif.hold.any (fun x => x.ring == some f) = false := any_false fun x hx => beq_eq_false_iff_ne.mpr (hnone x hx)
      have hgo : ((d.fn f).room && !d.hif.hold.any fun x => x.ring == some f) = true := by rw [hroom, hempty]; rfl
      exact answers_of_eq rfl (heq.trans ((if_pos hgo).trans ((Dev.faultAnswer_req hr).trans
        (congrArg (fun e : Dev => e.answer r m.status) hput)))) ⟨rfl, Tbl.find_put_same _ _ _, htail, rfl, rfl⟩
    · have hno : ((d.fn f).room && !d.hif.hold.any fun x => x.ring == some f) = false := by rw [hroom]; rfl
      have hmerge : d.hif.hold.any (fun x => m.fr.merges x) = true := List.any_eq_true.mpr hsome
      exact answers_of_eq rfl (heq.trans ((if_neg (ne_true_of_eq_false hno)).trans ((if_pos hmerge).trans (Dev.faultAnswer_req hr)))) ⟨rfl, mergeInto_length _ _, rfl, rfl⟩
    · have hno : ((d.fn f).room && !d.hif.hold.any fun x => x.ring == some f) = false := by rw [hroom]; rfl
      have hmerge : d.hif.hold.any (fun x => m.fr.merges x) = false := any_false hnone
      exact answers_of_eq rfl (heq.trans ((if_neg (ne_true_of_eq_false hno)).trans ((if_neg (ne_true_of_eq_false hmerge)).trans
        ((if_pos hcan).trans (Dev.faultAnswer_req hr))))) ⟨rfl, rfl, rfl, rfl⟩
    · have hno : ((d.fn f).room && !d.hif.hold.any fun x => x.ring == some f) = false := by rw [hroom]; rfl
      have hmerge : d.hif.hold.any (fun x => m.fr.merges x) = false := any_false hnone
      obtain ⟨episodes, n, box, hfull, hin, hsame, hnew⟩ := Dev.shareFull_law (d := d.onNet fun n => { n with faults := l }) hr hst h5 h6
      obtain ⟨hctx, hq⟩ := Dev.blockCtx_law (d := { d.onNet fun n => { n with faults := l } with
        hif := { d.hif with episodes := episodes, nEpisodes := n }, ras := { d.ras with box := box } }) hc
      exact answers_of_eq rfl (heq.trans ((if_neg (ne_true_of_eq_false hno)).trans ((if_neg (ne_true_of_eq_false hmerge)).trans
        ((if_neg (ne_true_of_eq_false hcan)).trans hfull)))) ⟨hctx, hq, hin, rfl, rfl, hsame, hnew⟩
  case freed =>
    intro freed
    have hfreed : ∀ (e : Dev) ring, e.hif.hold = [] → e.hif.blockedQ = d.hif.blockedQ → e.hif.ctxs = d.hif.ctxs → e.net = d.net →
        freed (e.drain s.now ring) := by
      intro e ring hempty hq hctxs hnet
      obtain ⟨⟨h1, h2, h3, h4, h5⟩, -⟩ := Dev.unblock_law hempty
      rw [hq, hnet] at h4
      rw [hq, hctxs] at h5
      rw [Dev.drain_empty hempty]
      exact ⟨h1, h2, h3, h4, h5⟩
    have hfn : ∀ (e : Dev) ring f, e.hif.hold = [] → (e.drain s.now ring).fn f = e.fn f := by
      intro e ring f hempty
      obtain ⟨-, hfns, -⟩ := Dev.unblock_law hempty
      rw [Dev.drain_empty hempty, Dev.fn, hfns, Dev.fn]
    have hregs : ∀ (e : Dev) ring (g : Fld), e.hif.hold = [] → (e.drain s.now ring).get g = e.get g := by
      intro e ring g hempty
      obtain ⟨-, -, -, hregs⟩ := Dev.unblock_law hempty
      rw [Dev.drain_empty hempty]
      exact Dev.get_congr hregs g
    refine ⟨fun f v hle => ?_, fun f v => ?_, fun f v w => ?_, fun path v hmay => ?_, fun path v hmay hen => ?_⟩
    · refine answers_of_eq rfl (if_pos hle) ⟨?_, hfreed _ _ hhold rfl rfl rfl⟩
      rw [hfn _ _ f ?_, Dev.fn_onFn_same]
      exact hhold
    · have heq : d.faultBase s.now f v none = (d.onFn f fun k => { k with
          frEn := bit v.toNat 0, pullRec := bit v.toNat 1, frBase := v.toNat / 64 }).drain s.now (some f) := rfl
      refine answers_of_eq rfl heq ⟨?_, ?_, ?_, ?_, hfreed _ _ hhold rfl rfl rfl⟩
      all_goals
        rw [hfn _ _ f ?_, Dev.fn_onFn_same]
        exact hhold
    · have heq : d.faultBase s.now f v (some w) = ((d.onFn f fun k => { k with
          frLog2n := bits w.toNat 0 5, vector := bits w.toNat 16 11 }).onFn f fun k => { k with
          frEn := bit v.toNat 0, pullRec := bit v.toNat 1, frBase := v.toNat / 64 }).drain s.now (some f) := rfl
      refine answers_of_eq rfl heq ⟨?_, ?_, ?_, hfreed _ _ hhold rfl rfl rfl⟩
      all_goals
        rw [hfn _ _ f ?_, Dev.fn_onFn_same, Dev.fn_onFn_same]
        exact hhold
    · intro h hle
      refine answers_of_eq rfl ((Dev.writeThrough_of_mayWrite hmay _ _).trans (if_pos hle)) ⟨?_, ?_, hfreed _ _ hhold rfl rfl rfl⟩
      · rw [hregs _ _ _ ?_, Dev.get_set_same _ HIF_FAULTQ_SIZE.HEAD _ (by decide)]
        · exact Nat.mod_mod _ _
        · exact hhold
      · rw [hregs _ _ _ ?_, Dev.get_set_of_apart _ _ _ _ (by decide)]
        exact hhold
    · refine answers_of_eq rfl ((Dev.writeThrough_of_mayWrite hmay _ _).trans (if_pos hen)) ⟨?_, ?_, hfreed _ _ hhold rfl rfl rfl⟩
      · rw [Dev.flag, hregs _ _ _ ?_, Dev.get_set_same _ HIF_FAULTQ_BASE.EN _ (by decide)]
        · rfl
        · exact hhold
      · rw [hregs _ _ _ ?_, Dev.get_set_of_apart _ _ _ _ (by decide), Dev.get_set_same _ HIF_FAULTQ_BASE.BASE _ (by decide)]
        · have hv := v.isLt
          exact Nat.mod_eq_of_lt (by simp only [HIF_FAULTQ_BASE.BASE]; omega)
        · exact hhold
  have hfn := Dev.fn_onFn_same d f fun k => { k with frHead := v % 2 ^ 32 }
  have hroom' : ((d.onFn f fun k => { k with frHead := v % 2 ^ 32 }).fn f).room = true := by
    rw [hfn, Fn.room, hen, Bool.true_and]
    exact decide_eq_true hroom
  obtain ⟨hput, hempty, hhead, htail⟩ := Dev.drain_one_law (d := d.onFn f fun k => { k with frHead := v % 2 ^ 32 }) hhold hring hroom' s.now
  rw [hfn] at hput hhead htail
  exact answers_of_eq rfl (if_pos hle) ⟨hput, hempty, hhead, htail⟩

end Sys2Proof.Machine
end

section
/-!
PROOFS. Attention sweeps at work: jobs, grants, blocks, the merge and the records (R206 to R227).
-/

namespace Sys2Proof.Machine

/-! ### Rows of a block (R216) -/

theorem mapIdx_self {α : Type} {f : α × Nat → α} (l : List α) (h : ∀ r i, f (r, i) = r) : l.zipIdx.map f = l := by
  have hfst : f = Prod.fst := funext fun x => h x.1 x.2
  rw [hfst, List.zipIdx_map_fst]

theorem scoreBlock_length (x : Line) (free : Free → Nat → Nat) (q : List (List Byte)) (h b : Nat) (blk : List Byte)
    (rows : List SweepRow) : (scoreBlock x free q h b blk rows).length = rows.length := by
  simp [scoreBlock]

/-- A block updates the rows of its own head only. -/
theorem scoreBlock_other {x : Line} {h i : Nat} {rows : List SweepRow} {r : SweepRow} (hr : rows[i]? = some r) (hi : i / wRows x ≠ h)
    (free : Free → Nat → Nat) (q : List (List Byte)) (b : Nat) (blk : List Byte) : (scoreBlock x free q h b blk rows)[i]? = some r := by
  unfold scoreBlock
  simp [hr, hi]

/-- No token of a block that lies outside the range is used. -/
theorem tokensOf_outside {x : Line} {b : Nat} (h : wLen x ≤ b * wTpb x ∨ (b + 1) * wTpb x ≤ wFirst x) (blk : List Byte) :
    tokensOf x blk b = [] := by
  have hnone : ((List.range (wTpb x)).filter fun j =>
      decide (wFirst x ≤ b * wTpb x + j) && decide (b * wTpb x + j < wLen x)) = [] := by
    refine List.filter_eq_nil_iff.mpr fun j hj hin => ?_
    have hlt := List.mem_range.mp hj
    simp only [Bool.and_eq_true, decide_eq_true_eq] at hin
    rw [Nat.add_mul, Nat.one_mul] at h
    omega
  rw [tokensOf, hnone, List.map_nil]

theorem scoreBlock_outside {x : Line} {b : Nat} (h : wLen x ≤ b * wTpb x ∨ (b + 1) * wTpb x ≤ wFirst x) (free : Free → Nat → Nat)
    (q : List (List Byte)) (hd : Nat) (blk : List Byte) (rows : List SweepRow) : scoreBlock x free q hd b blk rows = rows := by
  unfold scoreBlock
  dsimp only
  rw [tokensOf_outside h]
  exact mapIdx_self rows fun r i => ite_self r

/-! ### Jobs and their parts -/

/-- A part changed in place, its stack kept. -/
theorem SweepJob.part_onPart {j : SweepJob} {s : Nat} {p : SweepPart} {f : SweepPart → SweepPart} (h : j.part s = some p)
    (hf : ∀ p, (f p).stack = p.stack) : (j.onPart s f).part s = some (f p) := by
  have hp : p.stack = s := by simpa using List.find?_some h
  have hsame : (fun p : SweepPart => (if p.stack = s then f p else p).stack == s) = fun p => p.stack == s := by
    funext p
    split
    · rw [hf]
    · rfl
  unfold SweepJob.part SweepJob.onPart
  rw [List.find?_map]
  refine (congrArg (fun q => (j.parts.find? q).map _) hsame).trans ?_
  rw [show j.parts.find? (fun p => p.stack == s) = some p from h, Option.map_some, if_pos hp]

theorem Dev.find_onSweep {d : Dev} {job : Nat} {j : SweepJob} (h : Tbl.find d.sweeps job = some j) (f : SweepJob → SweepJob) :
    Tbl.find (d.onSweep job f).sweeps job = some (f j) :=
  (Tbl.find_adj_same _ _ _).trans (congrArg _ h)

/-! ### What reading a block leaves of the sweeps -/

theorem Dev.sweeps_stackRate (d : Dev) (now s a code : Nat) (l : List Nat) (ctx : Nat) :
    (d.stackRate now s a code l ctx).sweeps = d.sweeps := by
  unfold Dev.stackRate
  dsimp only
  split
  · split
    · rfl
    · rfl
  · rfl

theorem Dev.sweeps_metaRecord (d : Dev) (now s off : Nat) (g : Gran) (code : Nat) (who : Access) :
    (d.metaRecord now s off g code who).sweeps = d.sweeps := by
  unfold Dev.metaRecord
  split
  · rfl
  · split
    · exact d.sweeps_stackRate ..
    · exact d.sweeps_stackRate ..
    · exact d.sweeps_stackRate ..
    · exact d.sweeps_stackRate ..
    · rfl

theorem Dev.sweeps_readGran (d : Dev) (now l off : Nat) (who : Access) : (d.readGran now l off who .clean).1.sweeps = d.sweeps := by
  unfold Dev.readGran
  dsimp only
  split
  · exact d.sweeps_metaRecord ..
  · split
    · exact Dev.sweeps_metaRecord ..
    · rfl

theorem Dev.sweeps_readBlock (now l off : Nat) (who : Access) (n i : Nat) (d : Dev) :
    (Dev.readBlock now l off who n i d).1.sweeps = d.sweeps := by
  induction n generalizing i d with
  | zero => rfl
  | succ n ih =>
    have hread := d.sweeps_readGran now l (off + 64 * i) who
    unfold Dev.readBlock
    split
    next e code he => rwa [he] at hread
    next e x he =>
      rw [he] at hread
      have hrest := (ih (i + 1) e).trans hread
      split
      next f code hf => rwa [hf] at hrest
      next f xs hf => rwa [hf] at hrest

/-- A block read is scored into its part, and counted. -/
theorem Dev.scored_law {d : Dev} {job s : Nat} {j k : SweepJob} {p : SweepPart} (hk : Tbl.find d.sweeps job = some k)
    (hp : k.part s = some p) (g : Grant) (blk : List Byte) (pool : Bool) : ∃ e : Dev, d.scored job s j g blk pool = e.sendMaxima job ∧
      ∃ (n : Nat) (j' : SweepJob) (p' : SweepPart), Tbl.find e.sweeps job = some j' ∧ j'.part s = some p' ∧ p'.queue = p.queue ∧ p'.blocks = p.blocks + 1 ∧
        p'.rows = scoreBlock j.slot (fun k i => Config.free k n i) j.query g.head g.blk blk p.rows := by
  refine ⟨_, rfl, d.fresh, _, _, ?_, SweepJob.part_onPart (f := fun p => { p with
    rows := scoreBlock j.slot (fun k i => Config.free k d.fresh i) j.query g.head g.blk blk p.rows
    blocks := p.blocks + 1, poolBlk := p.poolBlk + pool.toNat }) hp fun _ => rfl, rfl, rfl, rfl⟩
  cases pool
  · exact Dev.find_onSweep (d := { d with fresh := d.fresh + 1 }) hk _
  · exact Dev.find_onSweep (d := { d with fresh := d.fresh + 1 }) hk _

/-! ### Grants (R210, R215) -/

section
variable {d : Dev} {now job : Nat} {j : SweepJob} {bs : List Byte} {va : Nat} {r : Route} {p : SweepPart}

theorem Dev.find_grantTo (hj : Tbl.find d.sweeps job = some j) (s va epoch : Nat) :
    Tbl.find (d.grantTo job s j va epoch).sweeps job = some (j.onPart s fun p => { p with
      queue := p.queue ++ [⟨j.head, j.blk, va, epoch, none⟩] }) := by
  unfold Dev.grantTo
  dsimp only
  split
  · exact Dev.find_onSweep hj _
  · exact Dev.find_onSweep hj _

/-- An entry of the list goes to its stack, where the job is active, has room and holds its leave. -/
theorem Dev.routeGrant_grants (hj : Tbl.find d.sweeps job = some j) (hr : (d.mapOf j.tags.ast (d.epochAt j.home)).bind (·.route va) = some r)
    (hp : j.part (chanStack r.l) = some p) (hactive : p.active = true) (hqueue : p.queue.length < 1024) (hheld : p.heldBlocks < 65536)
    (hleave : (Tbl.find d.pwr.sweepLeave (chanStack r.l)).isSome = true) (hmore : j.advance.head < wHeads j.slot) :
    Tbl.find (d.routeGrant now job j va).sweeps job = some ((j.onPart (chanStack r.l) fun p => { p with
      queue := p.queue ++ [⟨j.head, j.blk, va, d.epochAt j.home, none⟩] }).advance) := by
  have hheld' : d.sweepLeaveFor job (chanStack r.l) j = (true, d) := if_pos hleave
  have hroom : (!p.active || decide (1024 ≤ p.queue.length) || decide (65536 ≤ p.heldBlocks)) = false := by
    rw [hactive, decide_eq_false (Nat.not_le.mpr hqueue), decide_eq_false (Nat.not_le.mpr hheld)]
    rfl
  have hfind := Dev.find_onSweep (d.find_grantTo hj (chanStack r.l) va (d.epochAt j.home)) SweepJob.advance
  have hhead : ∀ f, (j.onPart (chanStack r.l) f).advance.head = j.advance.head := by
    intro f
    unfold SweepJob.advance
    rw [apply_ite SweepJob.head, apply_ite SweepJob.head]
    rfl
  have hslot : ∀ f, (j.onPart (chanStack r.l) f).advance.slot = j.slot := by
    intro f
    unfold SweepJob.advance
    rw [apply_ite SweepJob.slot]
    exact ite_self _
  unfold Dev.routeGrant
  simp only [hr, hp, hroom, hheld', hfind, Bool.false_eq_true, if_false, Bool.not_true, hhead]
  rw [if_neg]
  · exact hfind
  · rw [hslot]
    exact Nat.not_le.mpr hmore

end

/-! ### A block of the queue (R216, R225) -/

theorem Dev.sweepEntry_hit {d : Dev} {s a va : Nat} {e : Nat × TEntry} (h : entryAt (d.stack s).cache a va = some e) :
    d.sweepEntry s a va = (d.wrap (TRN_HITS.HITS s) 1, some e) := by
  simp only [Dev.sweepEntry, h]

section
variable {d : Dev} {now job st : Nat} {j : SweepJob} {p : SweepPart} {g : Grant} {l : List Grant}

/-- With nothing streamed and nothing set aside that is ready, the unit takes the next grant of the queue. -/
theorem Dev.sweepBlock_next (hj : Tbl.find d.sweeps job = some j) (hp : j.part st = some p) (hactive : p.active = true)
    (hq : j.queried = true) (hin : (d.stack st).ingress = true) (hstream : p.stream.find? p.staged = none)
    (haside : takeFirst (Grant.ready now) p.aside = none) (hheld : p.heldBlocks < 65536) (hqueue : p.queue = g :: l) :
    d.sweepBlock now job st = (d.onPart job st fun p => { p with queue := l }).readGrant now job st j g := by
  unfold Dev.sweepBlock
  simp only [hj, hp, hactive, hq, hin, hstream, haside, hqueue, Bool.not_true, Bool.or_self, Bool.false_eq_true, if_false]
  exact if_neg (Nat.not_le.mpr hheld)

/-- A grant whose block is served through a cached entry, and read whole, is scored. -/
theorem Dev.readGrant_scores {w x : Route} {k o : Nat} {y : TEntry} {xs : List Line} {e : Dev}
    (hw : (d.mapOf j.tags.ast g.epoch).bind (·.route g.va) = some w) (hst : chanStack w.l = st)
    (hslot : d.atSlot w.l (d.sweepReq now job j (.sweep job st) .sweepRead g.epoch g.va) = .inl x)
    (hcache : entryAt (d.stack st).cache j.tags.ast g.va = some (k, y))
    (hserve : (d.wrap (TRN_HITS.HITS st) 1).entryVerdict (d.sweepReq now job j (.sweep job st) .sweepRead g.epoch g.va).tags .sweepRead x.l
      g.va x (some y) = .serve x.l o)
    (hcompat : (d.wrap (TRN_HITS.HITS st) 1).compatBad j.slot y = false)
    (hread : Dev.readBlock now x.l o (d.sweepReq now job j (.sweep job st) .sweepRead g.epoch g.va).tags.access 64 0
      (d.wrap (TRN_HITS.HITS st) 1) = (e, .inr xs)) : ∃ f : Dev, d.readGrant now job st j g = f.scored job st j g (lineBytes xs) y.pool ∧
        f.sweeps = d.sweeps := by
  have hsweeps : e.sweeps = d.sweeps := by
    have h := Dev.sweeps_readBlock now x.l o (d.sweepReq now job j (.sweep job st) .sweepRead g.epoch g.va).tags.access 64 0
      (d.wrap (TRN_HITS.HITS st) 1)
    rwa [hread] at h
  unfold Dev.readGrant
  simp only [hw, hst, hslot, Dev.sweepEntry_hit hcache, Option.map_some, hserve, hcompat, hread, ne_eq, not_true, if_false,
    Option.getD_some, Bool.false_eq_true]
  exact ⟨_, rfl, hsweeps⟩

end

/-! ### The merge and the records (R218 to R222, R248) -/

section
variable {d : Dev} {i job st : Nat} {j : SweepJob}

theorem Dev.gotMaxima_complete (hn : d.net.notes[i]? = some (.maxima job st)) (hj : Tbl.find d.sweeps job = some j)
    (hphase : j.phase = .merging) (hall : (d.dropNote i).allMaxima job j = true) : d.gotMaxima i = (d.dropNote i).mergeOrSplit job j := by
  have hj' : Tbl.find (d.dropNote i).sweeps job = some j := hj
  simp only [Dev.gotMaxima, Dev.noteAt, hn, Option.bind_some, hj']
  exact if_pos ⟨hphase, hall⟩

/-- A unit that gets mm scales its rows by it and sends its contribution. -/
theorem Dev.gotMm_eq (hn : d.net.notes[i]? = some (.mm job st)) (hj : Tbl.find d.sweeps job = some j) : d.gotMm i =
    (({ d.dropNote i with fresh := d.fresh + 1 } : Dev).onPart job st fun p => { p with
      gotMm := true
      rows := p.rows.zipIdx.map fun (r, k) => SweepRow.scaleBy (Config.free .ulpError d.fresh k) (j.mm.getD k 0) r }).notes [.merge job st] := by
  simp only [Dev.gotMm, Dev.noteAt, hn, Option.bind_some, hj]

/-- The job with one more contribution. -/
def SweepJob.contributed (j : SweepJob) (st : Nat) (rows : List SweepRow) : SweepJob :=
  { j with merged := j.merged ++ [st], sums := addRows j.sums rows }

/-- The bytes of the merged record. -/
def Dev.mergedRecord (d : Dev) (j k : SweepJob) : List Byte :=
  let total := fun (f : SweepPart → Nat) => j.parts.foldl (fun n p => n + f p) 0
  sweepRecord 0xFF d.comp.epoch (total (·.blocks)) (total (·.poolBlk)) (total (·.faults))
    (List.zipWith (fun (r : SweepRow) (mm : Nat) => { r with m := mm }) k.sums j.mm)

/-- A store that goes through leads to what follows it. -/
theorem Dev.sweepStore_ok {e : Dev} {now va : Nat} {bs : List Byte}
    (h : Dev.storeBytes now (d.sweepTags j) (wSlice j.slot) (bs.length / 64 + 2) va bs d = .ok e) (k : Dev → Dev) :
    d.sweepStore now job j va bs k = k e := by
  rw [Dev.sweepStore, h]

section
variable {p : SweepPart} (hn : d.net.notes[i]? = some (.merge job st)) (hj : Tbl.find d.sweeps job = some j) (hp : j.part st = some p)
include hn hj hp

theorem Dev.contribution_more (hmore : (j.contributed st p.rows).merged.length < j.parts.length) (now : Nat) : d.contribution now i =
    (d.dropNote i).onSweep job fun _ => j.contributed st p.rows := by
  simp only [Dev.contribution, Dev.noteAt, hn, Option.bind_some, hj, hp, Option.map_some, Option.getD_some]
  exact if_pos hmore

theorem Dev.contribution_last (hlast : j.parts.length ≤ (j.contributed st p.rows).merged.length) {now : Nat} {e : Dev}
    (hstore : Dev.storeBytes now (d.sweepTags (j.contributed st p.rows)) (wSlice j.slot)
      ((d.mergedRecord j (j.contributed st p.rows)).length / 64 + 2) (recordVa j.slot 0) (d.mergedRecord j (j.contributed st p.rows)) d = .ok e) :
    d.contribution now i = ((e.dropNote i).onSweep job fun _ =>
      { j.contributed st p.rows with phase := .writing }).freeEntries job j.home := by
  simp only [Dev.contribution, Dev.noteAt, hn, Option.bind_some, hj, hp, Option.map_some, Option.getD_some]
  exact (if_neg (Nat.not_lt.mpr hlast)).trans (Dev.sweepStore_ok hstore _)

end

end

/-- A sweep that has waited its allowance is recorded, and its guarantee is void. -/
theorem Dev.sweepStalled_law {d : Dev} {job : Nat} {j : SweepJob} (hj : Tbl.find d.sweeps job = some j) (hdue : 625 ≤ j.stallTicks)
    (hvoid : j.voided = false) : ∃ e : Dev, d.sweepStalled job = e.voidNow job .faultStall ∧
      Tbl.find e.sweeps job = some { j with voided := true } ∧ ∃ b, e.ras.box = d.ras.box ++ [b] ∧ b.code = 0x0121 := by
  have hgo : ¬(j.stallTicks < 625 ∨ j.voided = true) := fun h => h.elim (Nat.not_lt.mpr hdue) fun h => Bool.false_ne_true (hvoid.symm.trans h)
  have hcount := Dev.foldl_proj (π := fun e : Dev => (e.sweeps, e.ras)) (f := fun e (p : SweepPart) => e.sat (SWP_HELD.STALLS p.stack) 1)
    (fun _ _ => rfl) (j.parts.filter (·.waits)) d
  simp only [Dev.sweepStalled, hj]
  rw [if_neg hgo]
  generalize (j.parts.filter (·.waits)).foldl (fun (e : Dev) (p : SweepPart) => e.sat (SWP_HELD.STALLS p.stack) 1) d = e at hcount
  obtain ⟨hsweeps, hras⟩ := Prod.mk.inj hcount
  refine ⟨_, rfl, Dev.find_onSweep ?_ _, _, congrArg (· ++ [_]) (congrArg (·.box) hras), rfl⟩
  exact (congrArg (Tbl.find · job) hsweeps).trans hj

/-! ### The obligation -/

/-- Settles O40: jobs, grants, blocks, the merge and the records of a sweep. -/
theorem sweepsRun : Obligations.SweepsRun := by
  refine ⟨fun x free q h b blk rows => ⟨scoreBlock_length .., fun i r hr hi => scoreBlock_other hr hi .., fun hout => scoreBlock_outside hout ..⟩,
    fun j => ⟨fun hmore => ?_, fun hlast => ?_⟩, fun s job j hj => ?run⟩
  · rw [SweepJob.advance, if_pos hmore]
    exact ⟨rfl, rfl⟩
  · rw [SweepJob.advance, if_neg (Nat.not_lt.mpr hlast)]
    exact ⟨rfl, rfl⟩
  case run =>
    intro d
    refine ⟨fun st => ⟨fun hroom hfirst => ?_, fun hnot => ?_⟩, fun q hphase hcount hq hread => ?_, fun bs hphase hcount hq hread => ?_,
      ?block, ?maxima, ?mm, ?merge, fun d1 d2 hphase hidle => ?_, fun hphase => ?_, fun hnot => ?_, fun hdue hvoid => ?_⟩
    · exact answers_of_eq rfl (if_pos (by rw [hfirst, decide_eq_true hroom]; rfl)) ⟨Dev.find_onSweep hj _, rfl⟩
    · refine leads_of_eq rfl (if_neg fun h => ?_)
      rw [Bool.and_eq_true, decide_eq_true_eq, Bool.not_eq_true'] at h
      exact hnot.elim (Nat.not_le.mpr h.1) fun hw => Bool.false_ne_true (h.2.symm.trans hw)
    · have heq : d.distribute s.now job = d.onSweep job fun j => { j with
          query := q, queried := true, parts := j.parts.map fun p => { p with rows := blankRows j.slot } } := by
        simp only [Dev.distribute, show Tbl.find d.sweeps job = some j from hj, hphase, hcount, hq, hread]
        simp
      exact answers_of_eq rfl heq (Dev.find_onSweep hj _)
    · intro va
      have heq : d.distribute s.now job = d.nextGrant s.now job j := by
        simp only [Dev.distribute, show Tbl.find d.sweeps job = some j from hj, hphase, hcount, hq]
        simp
      refine ⟨fun hbad => ?_, fun r p hhi hlow hr hp hactive hqueue hheld hleave hmore => ?_⟩
      · refine leads_of_eq rfl (heq.trans ?_)
        unfold Dev.nextGrant
        simp only [hread]
        exact if_pos hbad
      · have hgrant : d.nextGrant s.now job j = d.routeGrant s.now job j va := by
          unfold Dev.nextGrant
          simp only [hread]
          exact if_neg fun h => h.elim (fun h => h hhi) fun h => h hlow
        exact answers_of_eq rfl (heq.trans hgrant) (Dev.routeGrant_grants hj hr hp hactive hqueue hheld hleave hmore)
    case block =>
      intro st p g l w x k y o e xs hp hactive hq hin hstream haside hheld hqueue d1 d2 r hw hst hslot hcache hserve _ hcompat hread
      obtain ⟨f, hscored, hsweeps⟩ := Dev.readGrant_scores (d := d1) hw hst hslot hcache hserve hcompat hread
      obtain ⟨f', hf', hlaw⟩ := Dev.scored_law (j := j) (hsweeps ▸ Dev.find_onSweep hj _)
        (SweepJob.part_onPart (f := fun p => { p with queue := l }) hp fun _ => rfl) g (lineBytes xs) y.pool
      exact ⟨f', leads_of_eq rfl ((Dev.sweepBlock_next hj hp hactive hq hin hstream haside hheld hqueue).trans (hscored.trans hf')), hlaw⟩
    case maxima =>
      intro i st hn hphase hall dps
      have heq := Dev.gotMaxima_complete hn hj hphase hall
      refine ⟨fun hfew hroom => ?_, fun hfew hfull => ?_, fun hmany => ?_⟩
      · refine answers_of_eq rfl (heq.trans ((if_neg (Nat.not_lt.mpr hfew)).trans (if_pos hroom)))
          ⟨⟨_, Dev.find_onSweep hj _, rfl, List.length_replicate .., rfl⟩, rfl, Tbl.look_upd_same [] d.net.merges j.home (· ++ [job])⟩
      · exact answers_of_eq rfl (heq.trans ((if_neg (Nat.not_lt.mpr hfew)).trans (if_neg (Nat.not_lt.mpr hfull))))
          ⟨Tbl.look_upd_same [] d.net.mergeWait j.home (· ++ [job]), rfl⟩
      · exact answers_of_eq rfl (heq.trans (if_pos hmany)) ⟨Dev.find_onSweep hj _, _, rfl, rfl⟩
    case mm =>
      intro i st p hn hp
      exact answers_of_eq rfl (Dev.gotMm_eq hn hj) ⟨⟨d.fresh, _, _, Dev.find_onSweep hj _,
        SweepJob.part_onPart hp fun _ => rfl, rfl, rfl, rfl⟩, rfl⟩
    case merge =>
      intro i st p hn hp k
      refine ⟨fun hmore => ?_, fun e hlast => ?_⟩
      · exact answers_of_eq rfl (Dev.contribution_more hn hj hp hmore s.now) ⟨Dev.find_onSweep hj _, rfl, fun _ => rfl, fun _ => rfl⟩
      · intro total bs hstore
        exact leads_of_eq rfl (Dev.contribution_last hn hj hp hlast hstore)
    · intro bs h1 h2
      refine leads_of_eq (d := d.sweepOver s.now job) rfl ?_
      simp only [Dev.sweepOver, show Tbl.find d.sweeps job = some j from hj]
      rw [if_neg (fun h => h.elim (fun h => h hphase) fun h => by rw [hidle] at h; exact Bool.false_ne_true h)]
      exact (Dev.sweepStore_ok h1 _).trans (Dev.sweepStore_ok h2 _)
    · refine leads_of_eq (d := d.sweepOver s.now job) rfl ?_
      simp only [Dev.sweepOver, show Tbl.find d.sweeps job = some j from hj]
      exact if_pos (.inl hphase)
    · refine leads_of_eq (d := d.sweepStalled job) rfl ?_
      simp only [Dev.sweepStalled, show Tbl.find d.sweeps job = some j from hj]
      exact if_pos hnot
    · obtain ⟨e, heq, hvoided, hbox⟩ := Dev.sweepStalled_law hj hdue hvoid
      exact ⟨e, leads_of_eq rfl heq, hvoided, hbox⟩

end Sys2Proof.Machine
end

section
/-!
PROOFS. CXL links: down, degraded, trained, narrowed and widened, and translations dropped (R382, R389 to R394, R482).
-/

namespace Sys2Proof.Machine

/-! ### A link goes DOWN (R391, R394, R482) -/

/-- The device but for its partners. -/
def Dev.noPartners (d : Dev) : Dev := { d with cxl := { d.cxl with partners := [] } }

/-- A partner that has failed just now. -/
def Partner.failed (now : Nat) (p : Partner) : Prop := p.state = .suspect ∧ p.failAt = now

theorem Dev.partner_suspect {d : Dev} {now x : Nat} (h : (d.partner x).live = true) : ((d.suspect now x).partner x).failed now := by
  rw [Dev.suspect, Dev.partner_onPartner_same, if_pos h]
  exact ⟨rfl, rfl⟩

theorem Partner.live_of_failed {now : Nat} {p : Partner} (h : p.failed now) : p.live = true := by
  rw [Partner.live, h.1]
  rfl

/-- Noting another failure keeps a partner live. -/
theorem Dev.live_suspect {d : Dev} {now x y : Nat} (h : (d.partner x).live = true) : ((d.suspect now y).partner x).live = true := by
  by_cases hxy : x = y
  · subst hxy
    exact Partner.live_of_failed (Dev.partner_suspect h)
  · rwa [Dev.suspect, Dev.partner_onPartner_other _ _ _ _ hxy]

theorem Dev.failed_suspect {d : Dev} {now x y : Nat} (h : ((d.partner x).failed now)) : ((d.suspect now y).partner x).failed now := by
  by_cases hxy : x = y
  · subst hxy
    exact Dev.partner_suspect (Partner.live_of_failed h)
  · rwa [Dev.suspect, Dev.partner_onPartner_other _ _ _ _ hxy]

/-- A link as it goes DOWN. -/
def Link.downed (now : Nat) (l : Link) : Link :=
  { l with state := 0, width := 0, rate := 0, lanes := 0, l0p := false, downAt := now, ideKeys := false, atc := [] }

/-- Failures noted of live partners. -/
theorem Dev.suspects_law (l : List Nat) (d : Dev) (now : Nat) : (l.foldl (fun d e => d.suspect now e) d).noPartners = d.noPartners ∧
    ∀ x ∈ l, (d.partner x).live = true → ((l.foldl (fun d e => d.suspect now e) d).partner x).failed now :=
  ⟨Dev.foldl_proj (π := Dev.noPartners) (f := fun d e => d.suspect now e) (fun _ _ => rfl) l d, fun x hx hlive =>
    foldl_reaches (f := fun (d : Dev) e => d.suspect now e) (I := fun e : Dev => (e.partner x).live = true)
      (P := fun e : Dev => (e.partner x).failed now) hx (fun _ _ h => Dev.live_suspect h) (fun _ _ h => Dev.failed_suspect h)
      (fun _ h => Dev.partner_suspect h) hlive⟩

/-- A link that is up goes DOWN, with a record, and its LIVE partners have failed. -/
theorem Dev.linkDown_law {d : Dev} {k : Nat} (hup : (d.link k).state ≠ 0) (now cause : Nat) :
    ∃ e : Dev, d.linkDown now k cause = e.shedLink k ∧ e.link k = (d.link k).downed now ∧
      (∃ b, e.ras.box = d.ras.box ++ [b] ∧ b.code = 0x0701) ∧
      ∀ x p, Tbl.find d.cxl.partners x = some p → p.link = k → p.state = .live → (e.partner x).failed now := by
  obtain ⟨hrest, hfailed⟩ := Dev.suspects_law ((d.cxl.partners.filter fun e => e.2.link == k && e.2.state == .live).map (·.1))
    (d.onLink k (Link.downed now)) now
  refine ⟨_, if_neg hup, ?_, ?_, fun x p hx hlink hlive => hfailed x ?_ ?_⟩
  · have hlink := congrArg (fun e : Dev => e.link k) hrest
    exact hlink.trans (d.link_onLink_same k (Link.downed now))
  · have hbox := congrArg (fun e : Dev => e.ras.box) hrest
    exact ⟨_, congrArg (· ++ [_]) hbox, rfl⟩
  · exact List.mem_map.mpr ⟨(x, p), List.mem_filter.mpr ⟨Tbl.mem_of_find hx, by simp [hlink, hlive]⟩, rfl⟩
  · have hpartner : (d.onLink k (Link.downed now)).partner x = p := by
      rw [Dev.partner, Tbl.look, show Tbl.find (d.onLink k (Link.downed now)).cxl.partners x = some p from hx, Option.getD_some]
    rw [hpartner, Partner.live, hlive]
    rfl

theorem Dev.linkDown_down {d : Dev} {k : Nat} (h : (d.link k).state = 0) (now cause : Nat) : d.linkDown now k cause = d := if_pos h

/-! ### Lanes lost and links trained (R382, Table 12-1) -/

/-- What a lost lane notes before the link changes. -/
def Dev.laneNoted (d : Dev) (port lane : Nat) : Dev :=
  (d.set (CXP_STATUS.LOST port) (d.get (CXP_STATUS.LOST port) ||| 2 ^ lane)).almEntry (unitId 5 port) 0x0702

/-- An unsplit port of full width goes on with half. -/
def Dev.degraded (d : Dev) (port lane : Nat) : Dev :=
  (((d.laneNoted port lane).onLink (linkNo port false) fun l => { l with state := 2, width := 8, lanes := 8, l0p := false }).sat
    (CXP_COUNTS.RETRAINS port) 1).raiseLink (linkNo port false) 0x0702 .degraded [lane]

theorem Dev.get_raiseLink (d : Dev) (k code : Nat) (sev : Sev) (detail : List Nat) (f : Fld) :
    (d.raiseLink k code sev detail).get f = d.get f := rfl

theorem Dev.get_onLink (d : Dev) (k : Nat) (g : Link → Link) (f : Fld) : (d.onLink k g).get f = d.get f := rfl

theorem Dev.link_raiseLink (d : Dev) (k code : Nat) (sev : Sev) (detail : List Nat) (j : Nat) :
    (d.raiseLink k code sev detail).link j = d.link j := rfl

theorem Dev.link_set (d : Dev) (f : Fld) (v j : Nat) : (d.set f v).link j = d.link j := rfl

theorem Dev.box_set (d : Dev) (f : Fld) (v : Nat) : (d.set f v).ras.box = d.ras.box := rfl

theorem Dev.box_raiseLink (d : Dev) (k code : Nat) (sev : Sev) (detail : List Nat) :
    ∃ b, (d.raiseLink k code sev detail).ras.box = d.ras.box ++ [b] ∧ b.code = code ∧ b.detail = detail := ⟨_, rfl, rfl, rfl⟩

theorem CXP_COUNTS.off_ne_status (port : Nat) : CXP_STATUS.off port ≠ CXP_COUNTS.off port := by
  unfold CXP_STATUS.off CXP_COUNTS.off
  omega

theorem CXP_COUNTS.off_ne_ctrl (port : Nat) : CXP_CTRL.off port ≠ CXP_COUNTS.off port := by
  unfold CXP_CTRL.off CXP_COUNTS.off
  omega

theorem CXP_STATUS.off_ne_ctrl (port : Nat) : CXP_CTRL.off port ≠ CXP_STATUS.off port := by
  unfold CXP_CTRL.off CXP_STATUS.off
  omega

theorem Dev.box_laneNoted (d : Dev) (port lane : Nat) : (d.laneNoted port lane).ras.box = d.ras.box := by
  unfold Dev.laneNoted
  generalize CXP_STATUS.LOST port = f
  rfl

theorem Dev.link_laneNoted (d : Dev) (port lane k : Nat) : (d.laneNoted port lane).link k = d.link k := by
  unfold Dev.laneNoted
  generalize CXP_STATUS.LOST port = f
  rfl

theorem Dev.degraded_law (d : Dev) (port lane : Nat) :
    (d.degraded port lane).link (linkNo port false) =
      { d.link (linkNo port false) with state := 2, width := 8, lanes := 8, l0p := false } ∧
    (d.degraded port lane).get (CXP_STATUS.LOST port) = (d.laneNoted port lane).get (CXP_STATUS.LOST port) ∧
    ∃ b, (d.degraded port lane).ras.box = d.ras.box ++ [b] ∧ b.code = 0x0702 ∧ b.detail = [lane] := by
  unfold Dev.degraded
  refine ⟨?_, ?_, ?_⟩
  · rw [Dev.link_raiseLink, Dev.sat, Dev.link_set, Dev.link_onLink_same, Dev.link_laneNoted]
  · rw [Dev.get_raiseLink, Dev.sat, Dev.get_set_other _ _ _ _ (CXP_COUNTS.off_ne_status port), Dev.get_onLink]
  · obtain ⟨b, hbox, hb⟩ := Dev.box_raiseLink (((d.laneNoted port lane).onLink (linkNo port false)
      fun l => { l with state := 2, width := 8, lanes := 8, l0p := false }).sat (CXP_COUNTS.RETRAINS port) 1) (linkNo port false)
      0x0702 .degraded [lane]
    refine ⟨b, hbox.trans ?_, hb⟩
    rw [Dev.sat, Dev.box_set]
    exact congrArg (· ++ [b]) (d.box_laneNoted port lane)

/-- On an unsplit port every lane is the one link's. -/
theorem Dev.laneLost_unsplit {d : Dev} {port lane : Nat} (hsplit : d.flag (CXP_CTRL.SPLIT port) = false) (hlane : lane < 16) (now : Nat) :
    d.laneLost now port lane =
      if (d.link (linkNo port false)).state = 0 then d
      else if (d.link (linkNo port false)).state = 2 then (d.laneNoted port lane).linkDown now (linkNo port false) 1
      else (d.degraded port lane).shedLink (linkNo port false) := by
  have hsame : (d.laneNoted port lane).link (linkNo port false) = d.link (linkNo port false) := rfl
  unfold Dev.laneLost
  dsimp only
  rw [hsplit, Bool.false_and]
  by_cases h0 : (d.link (linkNo port false)).state = 0
  · rw [if_pos (.inr h0), if_pos h0]
  · rw [if_neg (fun h => h.elim (Nat.not_le.mpr hlane) h0), if_neg h0]
    by_cases h2 : (d.link (linkNo port false)).state = 2
    · rw [if_pos h2]
      exact if_pos (.inr h2)
    · rw [if_neg h2]
      exact if_neg fun h => h.elim Bool.false_ne_true h2

/-- The lost lane's bit is set. -/
theorem Dev.bit_laneNoted {d : Dev} {port lane : Nat} (h : lane < 16) :
    bit ((d.laneNoted port lane).get (CXP_STATUS.LOST port)) lane = true := by
  have hlt : d.get (CXP_STATUS.LOST port) ||| 2 ^ lane < 2 ^ 16 :=
    Nat.or_lt_two_pow (d.get_lt (CXP_STATUS.LOST port)) (Nat.pow_lt_pow_right (by decide) h)
  have hget : (d.laneNoted port lane).get (CXP_STATUS.LOST port) = d.get (CXP_STATUS.LOST port) ||| 2 ^ lane :=
    (Dev.get_set_same d (CXP_STATUS.LOST port) _ (by simp [CXP_STATUS.LOST])).trans (Nat.mod_eq_of_lt hlt)
  rw [hget, bit_eq_testBit, Nat.testBit_or, Nat.testBit_two_pow_self, Bool.or_true]

/-- The counts of a link that has trained: retrains, and the lanes found again. -/
def Dev.trainCounts (d : Dev) (port : Nat) (again half split : Bool) (width : Nat) : Dev :=
  let d := if again then d.sat (CXP_COUNTS.RETRAINS port) 1 else d
  if width = 16 ∨ split then d.set (CXP_STATUS.LOST port)
    (if width = 16 then 0 else setBits (d.get (CXP_STATUS.LOST port)) (if half then 8 else 0) 8 0) else d

theorem Dev.trainCounts_law (d : Dev) (port : Nat) (again half split : Bool) (width : Nat) : ∃ regs,
    d.trainCounts port again half split width = { d with regs := regs } ∧
    (d.trainCounts port again half split width).get (CXP_CTRL.MAXRATE port) = d.get (CXP_CTRL.MAXRATE port) := by
  have hcount : ∃ regs, (if again then d.sat (CXP_COUNTS.RETRAINS port) 1 else d) = { d with regs := regs } ∧
      (if again then d.sat (CXP_COUNTS.RETRAINS port) 1 else d).get (CXP_CTRL.MAXRATE port) = d.get (CXP_CTRL.MAXRATE port) := by
    cases again
    · exact ⟨d.regs, rfl, rfl⟩
    · exact ⟨_, rfl, Dev.get_set_other _ _ _ _ (by simp [CXP_CTRL.MAXRATE, CXP_COUNTS.RETRAINS, CXP_CTRL.off, CXP_COUNTS.off])⟩
  obtain ⟨regs, heq, hget⟩ := hcount
  unfold Dev.trainCounts
  dsimp only
  rw [heq] at hget ⊢
  split
  · refine ⟨_, rfl, (Dev.get_set_other _ _ _ _ ?_).trans hget⟩
    simp [CXP_CTRL.MAXRATE, CXP_STATUS.LOST, CXP_CTRL.off, CXP_STATUS.off]
  · exact ⟨regs, rfl, hget⟩

/-- A link as it has trained. -/
def Link.trained (width rate now : Nat) (split : Bool) (l : Link) : Link :=
  { l with
    state := if width = 8 ∧ !split then 2 else 1
    width := width, lanes := width, rate := rate, l0p := false, trainedAt := some now }

/-- The record of a link that trains below the rate it may run at. -/
def Dev.rateNoted (d : Dev) (k port rate : Nat) : Dev :=
  if rate < d.get (CXP_CTRL.MAXRATE port) then d.raiseLink k 0x0703 .degraded [rate] else d

theorem Dev.rateNoted_law (d : Dev) (k port rate : Nat) : (∀ j, (d.rateNoted k port rate).link j = d.link j) ∧
    (rate < d.get (CXP_CTRL.MAXRATE port) → ∃ b, (d.rateNoted k port rate).ras.box = d.ras.box ++ [b] ∧ b.code = 0x0703) ∧
    (rate = d.get (CXP_CTRL.MAXRATE port) → (d.rateNoted k port rate).ras.box = d.ras.box) := by
  unfold Dev.rateNoted
  refine ⟨fun j => ?_, fun hlow => ?_, fun hfull => ?_⟩
  · split <;> rfl
  · rw [if_pos hlow]
    exact ⟨_, rfl, rfl⟩
  · rw [if_neg (hfull ▸ Nat.lt_irrefl _)]

theorem Dev.portReady_law (d : Dev) (port : Nat) : (∀ j, (d.portReady port).link j = d.link j) ∧
    (d.portReady port).ras.box = d.ras.box ∧ (d.portReady port).flag (CXP_STATUS.READY port) = true := by
  refine ⟨fun j => rfl, rfl, ?_⟩
  have hget : (d.portReady port).get (CXP_STATUS.READY port) = 1 :=
    (Dev.get_set_apart (d.set (CXP_STATUS.READY port) 1) (CXP_STATUS.MEM_ACTIVE port) (CXP_STATUS.READY port) _ rfl
      (.inl (Nat.le_refl 23)) (by simp [CXP_STATUS.READY])).trans
      (Dev.get_set_same d (CXP_STATUS.READY port) 1 (by simp [CXP_STATUS.READY]))
  unfold Dev.flag
  rw [hget]
  rfl

theorem Dev.linkTrained_eq {d : Dev} {port width rate : Nat} {half : Bool} (hlock : d.flag MGT_LOCKDOWN.LOCK = true)
    (htrains : d.trains port width rate = true) (hperst : d.mod.perst.getD port false = true)
    (hhalf : half = true → d.flag (CXP_CTRL.SPLIT port) = true) (now : Nat) : d.linkTrained now port half width rate =
      let k := linkNo port half
      let split := d.flag (CXP_CTRL.SPLIT port)
      let d := (d.onLink k (Link.trained width rate now split)).trainCounts port (d.link k).trainedAt.isSome half split width
      ((d.rateNoted k port rate).portReady port).shedLink k := by
  have hgo : (!d.flag MGT_LOCKDOWN.LOCK || !d.trains port width rate || !(d.mod.perst.getD port false) ||
      (half && !d.flag (CXP_CTRL.SPLIT port))) = false := by
    rw [hlock, htrains, hperst]
    cases half
    · rfl
    · rw [hhalf rfl]
      rfl
  exact if_neg (ne_true_of_eq_false hgo)

theorem linkNo_false_ne_true (port : Nat) : linkNo port false ≠ linkNo port true := by
  unfold linkNo
  simp

/-! ### A lost reference clock, narrowing and translations (R389, R390, R529) -/

theorem Dev.refclkGone_down {d : Dev} {port : Nat} (h0 : (d.link (linkNo port false)).state = 0)
    (h1 : (d.link (linkNo port true)).state = 0) (now : Nat) :
    (((d.onLink (linkNo port false) fun l => { l with refclk := false }).linkDown now (linkNo port false) 2).onLink
      (linkNo port true) fun l => { l with refclk := false }).linkDown now (linkNo port true) 2 =
    (d.onLink (linkNo port false) fun l => { l with refclk := false }).onLink (linkNo port true) fun l => { l with refclk := false } := by
  have hne := linkNo_false_ne_true port
  rw [Dev.linkDown_down (d := d.onLink (linkNo port false) _), Dev.linkDown_down]
  · rw [Dev.link_onLink_same, Dev.link_onLink_other _ _ _ _ hne.symm]
    exact h1
  · rw [Dev.link_onLink_same]
    exact h0

theorem Dev.narrowTo_law {d : Dev} {k : Nat} (hup : (d.link k).state ≠ 0) (n : Nat) :
    (d.narrowTo k n).link k = { d.link k with l0p := true, lanes := n } ∧ ∀ j, j ≠ k → (d.narrowTo k n).link j = d.link j :=
  ⟨(Dev.link_onLink_same d k _).trans (if_neg hup), fun j hj => Dev.link_onLink_other d k j _ hj⟩

/-- A width a link may narrow to is below its own, and its rate covers the guaranteed credits. -/
theorem Dev.narrowOk_bounds {d : Dev} {k n : Nat} (h : d.narrowOk k n = true) :
    n < (d.link k).width ∧ 64 * d.linkGuar k ≤ laneRate (d.link k).rate n := by
  unfold Dev.narrowOk at h
  dsimp only at h
  rw [Bool.and_eq_true, Bool.and_eq_true, decide_eq_true_eq, decide_eq_true_eq] at h
  exact ⟨h.1.2, h.2⟩

/-- Does a request in flight use a page of the host behind a link? -/
def Dev.usesPage (d : Dev) (k page : Nat) : Bool :=
  d.net.reqs.any fun r => match r.dest with | .host l a => l == k && a / 4096 == page | _ => false

theorem Dev.usesPage_iff {d : Dev} {k page : Nat} :
    d.usesPage k page = true ↔ ∃ r ∈ d.net.reqs, ∃ a, r.dest = .host k a ∧ a / 4096 = page := by
  unfold Dev.usesPage
  rw [List.any_eq_true]
  refine exists_congr fun r => and_congr_right fun _ => ?_
  cases r.dest <;> simp

/-! ### The obligation -/

/-- Settles O42: links go down, degrade, train, narrow and widen, and drop translations. -/
theorem linksChange : Obligations.LinksChange := by
  intro s port half hport k w
  refine ⟨fun now cause hup => ⟨rfl, ?_⟩, fun hdown => leads_of_eq rfl (Dev.linkDown_down hdown _ _), fun lane hlane hsplit hhalf => ?_,
    fun width rate hlock htrains hperst hhalf => ?_, fun width rate hlock => ?_, fun h0 h1 => ?_, fun hup => rfl,
    fun n hen hl0p hup hn => ?_, fun hen => ?_, ?_, fun n hup => ⟨fun hok => ?_, fun hno => ?_⟩, fun page => ⟨fun hfree => ?_, fun huse => ?_⟩⟩
  · obtain ⟨e, heq, hlink, hbox, hpartners⟩ := Dev.linkDown_law hup now cause
    refine ⟨e, heq, ?_, ?_, ?_, ?_, hbox, fun x p hx _ hpk hlive => hpartners x p hx hpk hlive⟩
    all_goals rw [hlink]; rfl
  · subst hhalf
    have heq := Dev.laneLost_unsplit hsplit hlane s.now
    refine ⟨fun h1 => ?_, fun h2 => ?_, fun h0 => leads_of_eq rfl (heq.trans (if_pos h0))⟩
    · have hbit := Dev.bit_laneNoted (d := w) (port := port) hlane
      have h0 : (w.link k).state ≠ 0 := by rw [h1]; decide
      have h2 : (w.link k).state ≠ 2 := by rw [h1]; decide
      obtain ⟨hlink, hlost, hbox⟩ := w.degraded_law port lane
      rw [← hlost] at hbit
      exact ⟨_, leads_of_eq rfl (heq.trans ((if_neg h0).trans (if_neg h2))), congrArg (·.state) hlink, congrArg (·.width) hlink,
        congrArg (·.lanes) hlink, hbit, hbox⟩
    · have h0 : (w.link k).state ≠ 0 := by rw [h2]; decide
      exact leads_of_eq rfl (heq.trans ((if_neg h0).trans (if_pos h2)))
  · have heq := Dev.linkTrained_eq hlock htrains hperst hhalf s.now
    obtain ⟨regs, hcount, hrate⟩ := Dev.trainCounts_law (w.onLink k (Link.trained width rate s.now (w.flag (CXP_CTRL.SPLIT port)))) port
      (w.link k).trainedAt.isSome half (w.flag (CXP_CTRL.SPLIT port)) width
    dsimp only at heq
    generalize hc : Dev.trainCounts _ port _ half _ width = c at heq hcount hrate
    obtain ⟨hlink, hlow, hfull⟩ := c.rateNoted_law k port rate
    obtain ⟨hplink, hpbox, hready⟩ := (c.rateNoted k port rate).portReady_law port
    have hthis : c.link k = Link.trained width rate s.now (w.flag (CXP_CTRL.SPLIT port)) (w.link k) := by
      rw [hcount]
      exact Dev.link_onLink_same w k _
    have hbox : c.ras.box = w.ras.box := by
      rw [hcount]
      rfl
    have hmax : c.get (CXP_CTRL.MAXRATE port) = w.get (CXP_CTRL.MAXRATE port) := hrate
    have hdone := ((hplink k).trans (hlink k)).trans hthis
    rw [hbox, hmax] at hlow
    rw [hbox, hmax] at hfull
    refine ⟨_, leads_of_eq rfl heq, (congrArg (·.state) hdone).trans ?_, congrArg (·.width) hdone, congrArg (·.lanes) hdone,
      congrArg (·.rate) hdone, congrArg (·.l0p) hdone, hready, fun h => ?_, fun h => hpbox.trans (hfull h)⟩
    · simp [Link.trained]
    · rw [hpbox]
      exact hlow h
  · refine leads_of_eq rfl (if_pos ?_)
    rw [hlock]
    rfl
  · have hne := linkNo_false_ne_true port
    refine answers_of_eq rfl (Dev.refclkGone_down h0 h1 s.now) ⟨?_, ?_, rfl⟩
    · exact (congrArg (·.refclk) (Dev.link_onLink_other _ _ _ _ hne)).trans (congrArg (·.refclk) (Dev.link_onLink_same _ _ _))
    · exact congrArg (·.refclk) (Dev.link_onLink_same _ _ _)
  · have hok := List.find?_some hn
    have hgo : s.dev.flag (CXP_CTRL.L0P_EN port) = true ∧ (!(s.dev.link k).l0p) = true := ⟨hen, by rw [hl0p]; rfl⟩
    have heq : (match s.dev.narrowest k with
      | some n => s.dev.narrowTo k n
      | none => s.dev) = s.dev.narrowTo k n := by rw [hn]
    obtain ⟨hlink, hother⟩ := Dev.narrowTo_law hup n
    obtain ⟨hwidth, hrate⟩ := Dev.narrowOk_bounds hok
    refine answers_of_eq rfl ((if_pos hgo).trans heq) ⟨?_, ?_, ?_, ?_, hother⟩
    all_goals rw [hlink]
    · exact hwidth
    · exact hrate
  · refine leads_of_eq rfl (if_neg fun h => ?_)
    exact Bool.false_ne_true (hen.symm.trans h.1)
  · exact answers_of_eq rfl rfl ⟨Dev.link_onLink_same _ _ _, fun j hj => Dev.link_onLink_other _ _ _ _ hj⟩
  · obtain ⟨hlink, -⟩ := Dev.narrowTo_law hup n
    refine answers_of_eq rfl (if_pos hok) ⟨?_, ?_⟩
    all_goals rw [hlink]
  · exact leads_of_eq rfl (if_neg (ne_true_of_eq_false hno))
  · refine answers_of_eq rfl (if_neg (mt Dev.usesPage_iff.mp ?_)) (congrArg (·.atc) (Dev.link_onLink_same _ _ _))
    rintro ⟨r, hr, a, hdest, hpage⟩
    exact hfree r hr a hdest hpage
  · exact leads_of_eq rfl (if_pos (Dev.usesPage_iff.mpr huse))

end Sys2Proof.Machine
end

section
/-!
PROOFS. Shared slices: a write to a slice whose contents a spare is taking over (R233, R290).
-/

namespace Sys2Proof.Machine

/-- A write of one to granule 0 of slice 0. -/
def sliceWrite : Req where
  who := .engine 0 false 0 0 0 64
  acc := .write
  va := 0
  tags := { ast := 0, dom := 0, ctx := 1, cls := 0, epoch := 0, host := false }
  dest := .slice 0 0
  data := 1
  mask := 0
  hop := none
  guar := false
  born := 0
  esc := 0
  queue := 0
  slot := 0

/-- The write under way to a slice of its asterism whose contents have been carried to spare slice 1. -/
def sparedDev : Dev := { Dev.reset with
  comp := { Comp.reset with
    asts := [(0, { Ast.reset with state := .active, cur := some { CMap.empty 0 0 with slices := [0] } })]
    swaps := [{ slice := true, unit := 0, spare := 1, wait := false, copied := true, cmd := none }] }
  net := { Network.reset with reqs := [sliceWrite] } }

theorem sliceAccess_leads (s : State) (i : Nat) (ecc : Ecc) : Leads (.sliceAccess i ecc) s (s.dev.sliceTakes s.now i ecc) := rfl

/-- Refutes O44: a granule written to a slice that is being replaced is written to its spare as well (R290). -/
theorem not_interconnectServes : ¬ Obligations.InterconnectServes := by
  intro h
  obtain ⟨-, hbound⟩ := (h.2.2.2 ⟨[], 0, sparedDev⟩).1 0 sliceWrite 0 0 .clean rfl rfl (by decide +kernel) rfl
  obtain ⟨e, hlead, -, hother, -⟩ := (hbound (by decide +kernel)).1 rfl
  have he : e = sparedDev.sliceTakes 0 0 .clean :=
    leads_unique (sliceAccess_leads ⟨[], 0, sparedDev⟩ 0 .clean) hlead
  have hsame : (sparedDev.sliceTakes 0 0 .clean).sgran (sliceKey 1 0) = sparedDev.sgran (sliceKey 1 0) := by
    rw [← he]
    exact hother _ (by decide)
  exact absurd hsame (by decide +kernel)

end Sys2Proof.Machine
end

section
/-!
PROOFS. Barriers: arrivals, the wave plan, releases and their acknowledgements, and flag notices (R249 to R252, R326, R429).
-/

namespace Sys2Proof.Machine

/-! ### The wave plan (R429) -/

/-- Starts of a die pair of `c` cores in waves of `p`, after `n` waves. -/
theorem starts_after_waves (c p n : Nat) : (List.range n).foldl (fun t k => t + min p (c - k * p)) 0 = min c (n * p) := by
  induction n with
  | zero => simp
  | succ n ih =>
    rw [List.range_succ, List.foldl_concat, ih, Nat.succ_mul]
    omega

/-- Waves enough to start them all. -/
theorem le_ceilDiv_mul (c p : Nat) (hp : 0 < p) : c ≤ ceilDiv c p * p := by
  unfold ceilDiv
  have h := Nat.div_add_mod (c + p - 1) p
  have hlt := Nat.mod_lt (c + p - 1) hp
  rw [Nat.mul_comm]
  omega

/-- What a die pair starts in wave `j`. -/
theorem wave_getD (counts per : List Nat) (j k : Nat) (hlen : counts.length = per.length) (hk : k < counts.length) :
    (List.zipWith (fun c p => min p (c - j * p)) counts per).getD k 0 = min (per.getD k 0) (counts.getD k 0 - j * per.getD k 0) := by
  have hkp : k < per.length := hlen ▸ hk
  simp [List.getD_eq_getElem?_getD, hk, hkp]

/-- No wave passes a die pair's share, and together they start each core once. -/
theorem wavePlan_law (counts per : List Nat) (k : Nat) (hlen : counts.length = per.length) (hper : ∀ p ∈ per, 0 < p)
    (hk : k < counts.length) : (∀ w ∈ wavePlan counts per, w.getD k 0 ≤ per.getD k 0) ∧
      (wavePlan counts per).foldl (fun n w => n + w.getD k 0) 0 = counts.getD k 0 := by
  have hkp : k < per.length := hlen ▸ hk
  unfold wavePlan
  dsimp only
  generalize hn : (List.zipWith (fun c p => ceilDiv c (max 1 p)) counts per).foldl max 0 = n
  refine ⟨fun w hw => ?_, ?_⟩
  · obtain ⟨j, -, rfl⟩ := List.mem_map.mp hw
    rw [wave_getD counts per j k hlen hk]
    exact Nat.min_le_left _ _
  · have hwaves : (fun t j => t + (List.zipWith (fun c p => min p (c - j * p)) counts per).getD k 0) =
        fun t j => t + min (per.getD k 0) (counts.getD k 0 - j * per.getD k 0) := by
      funext t j
      rw [wave_getD counts per j k hlen hk]
    rw [List.foldl_map, hwaves, starts_after_waves]
    have hpos : 0 < per.getD k 0 := by
      rw [List.getD_eq_getElem _ _ hkp]
      exact hper _ (List.getElem_mem hkp)
    have hmem : ceilDiv (counts.getD k 0) (per.getD k 0) ∈ List.zipWith (fun c p => ceilDiv c (max 1 p)) counts per := by
      rw [List.mem_iff_getElem]
      refine ⟨k, by simpa using ⟨hk, hkp⟩, ?_⟩
      rw [List.getElem_zipWith, List.getD_eq_getElem _ _ hkp, List.getD_eq_getElem _ _ hk]
      rw [List.getD_eq_getElem _ _ hkp] at hpos
      rw [Nat.max_eq_right hpos]
    exact Nat.min_eq_left ((le_ceilDiv_mul _ _ hpos).trans (Nat.mul_le_mul_right _ (hn ▸ (foldl_max_le (Nat.le_refl _)).2 _ hmem)))

/-! ### Barrier groups (R250, R326) -/

/-- The changed group stands under its own number. -/
theorem Dev.barrier_onBarrier {d : Dev} {id : Nat} {b : Barrier} (hb : d.barrier id = some b) {f : Barrier → Barrier}
    (hf : ∀ x, (f x).id = x.id) : (d.onBarrier id f).barrier id = some (f b) := by
  have hid : b.id = id := by
    have hbeq := List.find?_some (p := fun x : Barrier => x.id == id) hb
    exact eq_of_beq hbeq
  have hsame : (fun x : Barrier => (if x.id = id then f x else x).id == id) = fun x => x.id == id := by
    funext x
    split
    · rw [hf]
    · rfl
  have hfind : (d.onBarrier id f).barrier id = (d.barrier id).map fun x => if x.id = id then f x else x := by
    unfold Dev.barrier Dev.onBarrier Dev.onNet
    rw [List.find?_map]
    exact congrArg (fun p => (d.net.barriers.find? p).map _) hsame
  rw [hfind, hb, Option.map_some, if_pos hid]

theorem Dev.barrier_of_barriers {d e : Dev} (h : e.net.barriers = d.net.barriers) (id : Nat) : e.barrier id = d.barrier id := by
  unfold Dev.barrier
  rw [h]

/-- The device but for the PMUs, the bookings and the leave granted. -/
def Dev.noLeave (d : Dev) : Dev := { d with pwr := { d.pwr with pmus := [], bookings := [], grants := [] } }

theorem Dev.noLeave_drawBooking (d : Dev) (b : Option Nat) (p : Nat) : (d.drawBooking b p).noLeave = d.noLeave := by
  cases b <;> rfl

/-- A group's leave granted: its waves are planned. -/
theorem Dev.grantGroup_law {d : Dev} {id : Nat} {b : Barrier} (hb : d.barrier id = some b) (book : Option Nat)
    (groups : List (List Nat)) : (d.grantGroup id book groups).barrier id = some { b with
      planned := true, waves := wavePlan (groups.map (·.length)) (groups.map d.perWave), delta := d.get PWR_WAVE.DELTA * 100 } ∧
    (d.grantGroup id book groups).hif = d.hif ∧ (d.grantGroup id book groups).core = d.core := by
  unfold Dev.grantGroup
  dsimp only
  generalize hx : List.foldl _ d groups.zipIdx = x
  have hrest : x.noLeave = d.noLeave := by
    rw [← hx]
    refine Dev.foldl_proj (π := Dev.noLeave) (fun e g => ?_) _ _
    exact Dev.noLeave_drawBooking (e.onPmu g.2 fun u => { u with leave := u.leave + g.1.foldl (· + ·) 0 }) book
      (g.1.foldl (· + ·) 0)
  have hnet := congrArg (fun e : Dev => e.net) hrest
  have hhif := congrArg (fun e : Dev => e.hif) hrest
  have hcore := congrArg (fun e : Dev => e.core) hrest
  have hbx : x.barrier id = some b := (Dev.barrier_of_barriers (e := x) (congrArg (·.barriers) hnet) id).trans hb
  exact ⟨Dev.barrier_onBarrier hbx fun _ => rfl, hhif, hcore⟩

/-! ### Releases and their acknowledgements (R249 to R251) -/

/-- A wave's release as it goes out. -/
def Barrier.waveSent (now : Nat) (dps : List Nat) (b : Barrier) : Barrier :=
  { b with sent := b.sent + 1, lastAt := now, unacked := b.unacked ++ dps.map fun dp => ⟨b.sent, dp, now, 1⟩ }

theorem Dev.sendWave_eq {d : Dev} {id : Nat} {b : Barrier} (hb : d.barrier id = some b) (now : Nat) : d.sendWave now id =
    if !b.planned || decide (b.waves.length ≤ b.sent) || (decide (0 < b.sent) && decide (now < b.lastAt + b.delta)) then d
    else (d.notes ((diePairs.filter fun dp => decide (0 < (b.waves.getD b.sent []).getD dp 0)).map fun dp =>
      .release id b.sent dp)).onBarrier id
        (Barrier.waveSent now (diePairs.filter fun dp => decide (0 < (b.waves.getD b.sent []).getD dp 0))) := by
  unfold Dev.sendWave
  rw [hb]
  rfl

/-- A wave waits when it is not planned, sent already or too early. -/
theorem Barrier.waits_iff {b : Barrier} {now : Nat} :
    (!b.planned || decide (b.waves.length ≤ b.sent) || (decide (0 < b.sent) && decide (now < b.lastAt + b.delta))) = true ↔
      b.planned = false ∨ b.waves.length ≤ b.sent ∨ (0 < b.sent ∧ now < b.lastAt + b.delta) := by
  rw [Bool.or_eq_true, Bool.or_eq_true, Bool.and_eq_true, decide_eq_true_eq, decide_eq_true_eq, decide_eq_true_eq,
    Bool.not_eq_true', or_assoc]

/-- A release taken for the second time is only acknowledged. -/
theorem Dev.gotRelease_again {d : Dev} {i id w dp : Nat} (hnote : d.net.notes[i]? = some (.release id w dp))
    (hacted : (id, w, dp) ∈ d.net.acted) : d.gotRelease i = (d.dropNote i).notes [.releaseAck id w dp] := by
  unfold Dev.gotRelease
  rw [hnote]
  exact if_pos (List.contains_iff_mem.mpr hacted)

/-- A release of a die pair taken for the first time, where none of its barrier was acted on: its cores may start. -/
theorem Dev.gotRelease_first {d : Dev} {i id w dp : Nat} {b : Barrier} (hnote : d.net.notes[i]? = some (.release id w dp))
    (hb : d.barrier id = some b) (hacted : (id, w, dp) ∉ d.net.acted) (hwave : ∀ x ∈ d.net.wave, ¬(x.1 = id ∧ x.2.1 = dp)) :
    d.gotRelease i = ((d.dropNote i).notes [.releaseAck id w dp]).onNet fun t => { t with
      acted := t.acted ++ [(id, w, dp)], wave := t.wave ++ [(id, dp, (b.waves.getD w []).getD dp 0)] } := by
  have hhas : (d.net.wave.any fun x => x.1 == id && x.2.1 == dp) = false := by
    rw [List.any_eq_false]
    intro x hx
    simpa using hwave x hx
  have hfound : ((d.dropNote i).notes [.releaseAck id w dp]).barrier id = some b := hb
  have hnot : ¬ ((d.dropNote i).notes [.releaseAck id w dp]).net.acted.contains (id, w, dp) = true :=
    fun h => hacted (List.contains_iff_mem.mp h)
  unfold Dev.gotRelease
  rw [hnote]
  dsimp only
  rw [if_neg hnot, hfound]
  dsimp only
  rw [show ((d.dropNote i).notes [.releaseAck id w dp]).net.wave = d.net.wave from rfl, hhas]
  rfl

/-- What stands of a group once a die pair's release of a wave is acknowledged. -/
def Barrier.less (w dp : Nat) (b : Barrier) : Barrier :=
  { b with unacked := b.unacked.filter fun u => !(u.wave == w && u.dp == dp) }

/-- An acknowledgement strikes its release off, and completes the barrier with the last one. -/
theorem Dev.gotAck_eq {d : Dev} {i id w dp : Nat} {b : Barrier} (hnote : d.net.notes[i]? = some (.releaseAck id w dp))
    (hb : d.barrier id = some b) (now : Nat) : d.gotAck now i =
      if (b.less w dp).acked then ((d.dropNote i).onBarrier id (Barrier.less w dp)).barrierOver now (b.less w dp)
      else (d.dropNote i).onBarrier id (Barrier.less w dp) := by
  have hless : ((d.dropNote i).onBarrier id (Barrier.less w dp)).barrier id = some (b.less w dp) :=
    Dev.barrier_onBarrier (d := d.dropNote i) hb fun _ => rfl
  have hgot : d.gotAck now i = ((d.dropNote i).onBarrier id (Barrier.less w dp)).barrierAcked now id := by
    unfold Dev.gotAck
    rw [hnote]
    rfl
  rw [hgot, Dev.barrierAcked, hless]

theorem Barrier.acked_iff {b : Barrier} : b.acked = true ↔ b.planned = true ∧ b.waves.length ≤ b.sent ∧ b.unacked = [] := by
  rw [Barrier.acked, Bool.and_eq_true, Bool.and_eq_true, decide_eq_true_eq, List.isEmpty_iff, and_assoc]

/-- A release is sent once more. -/
def Barrier.again (now : Nat) (u : Unacked) (b : Barrier) : Barrier :=
  { b with unacked := b.unacked.map fun x => if x = u then { x with at_ := now, tries := x.tries + 1 } else x }

/-- A die pair's releases are given up. -/
def Barrier.without (dp : Nat) (b : Barrier) : Barrier := { b with unacked := b.unacked.filter fun x => x.dp != dp }

theorem Dev.resendRelease_eq {d : Dev} {now id dp : Nat} {b : Barrier} {u : Unacked} (hb : d.barrier id = some b)
    (hu : (b.unacked.find? fun u => u.dp == dp && decide (u.at_ + 2000 ≤ now)) = some u) : d.resendRelease now id dp =
      if u.tries < 3 then (d.notes [.release id u.wave dp]).onBarrier id (Barrier.again now u)
      else (((d.onBarrier id (Barrier.without dp)).raise 0x0409 (svcUnit dp) 0x02 .contained [dp, id]
        (some (b.ast, b.ctx))).requestReset now 3 dp 0x0409).barrierAcked now id := by
  unfold Dev.resendRelease
  rw [hb]
  dsimp only
  rw [hu]
  rfl

theorem Dev.resendRelease_none {d : Dev} {now id dp : Nat} {b : Barrier} (hb : d.barrier id = some b)
    (hu : ∀ u ∈ b.unacked, u.dp = dp → now < u.at_ + 2000) : d.resendRelease now id dp = d := by
  have hnone : (b.unacked.find? fun u => u.dp == dp && decide (u.at_ + 2000 ≤ now)) = none := by
    rw [List.find?_eq_none]
    intro u hmem hdue
    rw [Bool.and_eq_true, decide_eq_true_eq] at hdue
    exact Nat.not_le.mpr (hu u hmem (eq_of_beq hdue.1)) hdue.2
  unfold Dev.resendRelease
  rw [hb]
  dsimp only
  rw [hnone]

/-! ### Flag notices (R252) -/

/-- A flag notice wakes WAITs that are parked and whose condition holds. -/
theorem Dev.mem_wokenBy {d : Dev} {dp ev id : Nat} {v : Event} (hv : Tbl.find d.hif.events ev = some v)
    (hid : id ∈ d.wokenBy dp ev) : ∃ m, (id, m) ∈ d.hif.cmds ∧ m.phase = .parked ∧ waitHolds m.slot v = true := by
  unfold Dev.wokenBy at hid
  rw [hv] at hid
  obtain ⟨⟨x, m⟩, hmem, rfl⟩ := List.mem_map.mp hid
  obtain ⟨hin, hwoken⟩ := List.mem_filter.mp hmem
  simp only [Bool.and_eq_true] at hwoken
  exact ⟨m, hin, eq_of_beq hwoken.1.1.1.1, hwoken.2⟩

theorem Dev.gotFlag_eq {d : Dev} {i dp ev : Nat} {v : Event} (hnote : d.net.notes[i]? = some (.flag dp ev))
    (hv : Tbl.find d.hif.events ev = some v) (now : Nat) : d.gotFlag now i = ((d.wokenBy dp ev).foldl (fun (d : Dev) id =>
      (d.onCmd id fun m => { m with abandoned := v.abandoned }).unpark now id .completed false) (d.dropNote i)).after now := by
  have hab : ((Tbl.find (d.dropNote i).hif.events ev).map (·.abandoned)).getD false = v.abandoned := by
    rw [show Tbl.find (d.dropNote i).hif.events ev = some v from hv]
    rfl
  unfold Dev.gotFlag
  rw [hnote]
  dsimp only
  rw [hab]
  rfl

/-! ### The obligation -/

/-- Settles O45: barriers count arrivals, plan and release waves, and flag notices wake WAITs. -/
theorem barriersRelease : Obligations.BarriersRelease := by
  refine ⟨wavePlan_law, fun s => ?_⟩
  intro d
  refine ⟨fun i id dp b hnote hb => ?_, fun id b hb => ?_, fun i dp ev v hnote hv => ⟨?_, fun id hid => ?_⟩⟩
  · have heq : d.arrivalAt i = (d.dropNote i).onBarrier id fun b => { b with waitArr := b.waitArr.filter (· != dp) } := by
      unfold Dev.arrivalAt
      rw [hnote]
    exact answers_of_eq rfl heq ⟨rfl, Dev.barrier_onBarrier (d := d.dropNote i) hb fun _ => rfl⟩
  · intro groups sum book
    have hplan : d.planWaves s.now id = if b.planned || !b.ready then d
        else if groups.all (·.isEmpty) then d.barrierOver s.now b
        else if sum ≠ 0 ∧ !((book.isSome || d.capTest sum) && d.bufferTest sum) then d else d.grantGroup id book groups := by
      unfold Dev.planWaves
      rw [hb]
    have hgo (hp : b.planned = false) (hr : b.ready = true) : ¬ (b.planned || !b.ready) = true := by
      rw [hp, hr]
      exact Bool.false_ne_true
    refine ⟨fun h => leads_of_eq rfl (hplan.trans (if_pos ?_)), fun hp hr hall => ?_, fun hp hr hall htests => ?_,
      fun hp hr hall hsum htests => ?_, ?_⟩
    · rcases h with h | h
      · rw [h, Bool.true_or]
      · rw [h, Bool.not_false, Bool.or_true]
    · exact leads_of_eq rfl (hplan.trans ((if_neg (hgo hp hr)).trans (if_pos hall)))
    · obtain ⟨hplanned, hhif, hcore⟩ := Dev.grantGroup_law hb book groups
      refine answers_of_eq rfl (hplan.trans ((if_neg (hgo hp hr)).trans ((if_neg (ne_true_of_eq_false hall)).trans (if_neg ?_))))
        ⟨⟨_, hplanned, rfl, rfl, rfl, rfl, rfl⟩, hhif, hcore⟩
      rintro ⟨hsum, hfail⟩
      obtain ⟨hpower, hbuffer⟩ := htests.resolve_left hsum
      rw [Bool.not_eq_true', Bool.and_eq_false_iff, Bool.or_eq_false_iff, hbuffer] at hfail
      obtain ⟨hbook, hcap⟩ := hfail.resolve_right Bool.noConfusion
      exact hpower.elim (ne_true_of_eq_false hbook) (ne_true_of_eq_false hcap)
    · refine leads_of_eq rfl (hplan.trans ((if_neg (hgo hp hr)).trans ((if_neg (ne_true_of_eq_false hall)).trans
        (if_pos ⟨hsum, ?_⟩))))
      rw [Bool.not_eq_true', Bool.and_eq_false_iff, Bool.or_eq_false_iff]
      exact htests.symm.imp_left fun h => ⟨by rw [h.1]; rfl, h.2⟩
    · have hsend := Dev.sendWave_eq hb s.now
      refine ⟨fun hp hmore hdue => ?_, fun hwait => leads_of_eq rfl (hsend.trans (if_pos (Barrier.waits_iff.mpr hwait))),
        fun i w dp hnote => ⟨fun hacted => ?_, fun hacted hwave => ?_⟩, fun i w dp hnote => ?_, fun dp u hu => ?_,
        fun dp hnone => leads_of_eq rfl (Dev.resendRelease_none hb hnone)⟩
      · refine answers_of_eq rfl (hsend.trans (if_neg (mt Barrier.waits_iff.mp ?_))) ⟨rfl, ?_⟩
        · rw [hp]
          rintro (h | h | h)
          · exact Bool.noConfusion h
          · exact Nat.not_le.mpr hmore h
          · exact Nat.not_le.mpr h.2 (hdue.resolve_left (Nat.ne_of_gt h.1))
        · exact Dev.barrier_onBarrier (d := d.notes _) hb fun _ => rfl
      · exact answers_of_eq rfl (Dev.gotRelease_again hnote hacted) ⟨rfl, rfl⟩
      · exact answers_of_eq rfl (Dev.gotRelease_first hnote hb hacted hwave)
          ⟨rfl, List.mem_append_right _ (List.mem_singleton.mpr rfl), rfl⟩
      · have hack := Dev.gotAck_eq hnote hb s.now
        refine ⟨fun hmore => ?_, fun hp hsent hleft => ?_⟩
        · exact answers_of_eq rfl (hack.trans (if_neg fun h => hmore (Barrier.acked_iff.mp h)))
            ⟨rfl, Dev.barrier_onBarrier (d := d.dropNote i) hb fun _ => rfl⟩
        · have hempty : b.less w dp = { b with unacked := [] } := congrArg (fun l => { b with unacked := l }) hleft
          have hover := hack.trans (if_pos (Barrier.acked_iff (b := b.less w dp).mpr ⟨hp, hsent, hleft⟩))
          rw [hempty] at hover
          exact leads_of_eq rfl hover
      · have hresend := Dev.resendRelease_eq hb hu
        refine ⟨fun hfew => ?_, fun hmany => ?_⟩
        · exact answers_of_eq rfl (hresend.trans (if_pos hfew)) ⟨rfl, Dev.barrier_onBarrier (d := d.notes _) hb fun _ => rfl⟩
        · exact ⟨_, leads_of_eq rfl (hresend.trans (if_neg (Nat.not_lt.mpr hmany))),
            Dev.barrier_onBarrier (d := d) hb fun _ => rfl, _, rfl, rfl, rfl⟩
  · exact leads_of_eq rfl (Dev.gotFlag_eq hnote hv s.now)
  · exact Dev.mem_wokenBy hv hid

end Sys2Proof.Machine
end

section
/-!
PROOFS. The leave governor: leave granted and shared, input, buffer and rail energy as measured (R420 to R428, R435, R436).
-/

namespace Sys2Proof.Machine

/-! ### What the governor's operations leave alone -/

@[simp] theorem Dev.get_onPwr (d : Dev) (g : Power → Power) (f : Fld) : (d.onPwr g).get f = d.get f := rfl
@[simp] theorem Dev.get_onPmu (d : Dev) (p : Nat) (g : Pmu → Pmu) (f : Fld) : (d.onPmu p g).get f = d.get f := rfl
@[simp] theorem Dev.get_onMod (d : Dev) (g : Mod → Mod) (f : Fld) : (d.onMod g).get f = d.get f := rfl

/-- The device but for the die pairs' PMUs and the time since when the input has been below the cap. -/
def Dev.noPoints (d : Dev) : Dev := { d with pwr := { d.pwr with pmus := [], capBelowAt := none } }

/-- Nothing but goals, raises and the cap's watch differs. -/
def Dev.SamePoints (d e : Dev) : Prop :=
  e.noPoints = d.noPoints ∧ ∀ p, (e.pmu p).op = (d.pmu p).op ∧ (e.pmu p).leave = (d.pmu p).leave

theorem Dev.SamePoints.refl (d : Dev) : d.SamePoints d := ⟨rfl, fun _ => ⟨rfl, rfl⟩⟩

theorem Dev.SamePoints.trans {d e f : Dev} (h : d.SamePoints e) (h' : e.SamePoints f) : d.SamePoints f :=
  ⟨h'.1.trans h.1, fun p => ⟨(h'.2 p).1.trans (h.2 p).1, (h'.2 p).2.trans (h.2 p).2⟩⟩

/-- A PMU's change that keeps point and leave. -/
theorem Dev.samePoints_onPmu (d : Dev) (q : Nat) {f : Pmu → Pmu} (hop : ∀ u, (f u).op = u.op) (hleave : ∀ u, (f u).leave = u.leave) :
    d.SamePoints (d.onPmu q f) := by
  refine ⟨rfl, fun p => ?_⟩
  by_cases hp : p = q
  · subst hp
    rw [Dev.pmu_onPmu_same]
    exact ⟨hop _, hleave _⟩
  · rw [Dev.pmu_onPmu_other _ _ _ _ hp]
    exact ⟨rfl, rfl⟩

theorem Dev.samePoints_opTo (d : Dev) (now q k : Nat) : d.SamePoints (d.opTo now q k) :=
  d.samePoints_onPmu q (fun _ => by split <;> rfl) (fun _ => by split <;> rfl)

theorem Dev.samePoints_opDown (d : Dev) (now q : Nat) : d.SamePoints (d.opDown now q) := by
  unfold Dev.opDown
  split
  · exact .refl d
  · split
    · exact d.samePoints_opTo _ _ _
    · exact .refl d

/-- Since when a raise of a die pair has had headroom. -/
def Dev.watchRaise (d : Dev) (now p : Nat) (room : Bool) : Dev :=
  d.onPmu p fun u => { u with raiseAt := if room then (u.raiseAt <|> some now) else none }

theorem Dev.samePoints_watchRaise (d : Dev) (now p : Nat) (room : Bool) : d.SamePoints (d.watchRaise now p room) :=
  d.samePoints_onPmu p (fun _ => rfl) (fun _ => rfl)

theorem Dev.watchPoints_eq (d : Dev) (now : Nat) : d.watchPoints now = diePairs.foldl (fun d p =>
    let e := d.watchRaise now p (d.raiseRoom p)
    if e.topOp p (e.get PWR_CTRL.OPMAX) < (e.pmu p).op ∧ (e.pmu p).goal.isNone then
      e.opTo now p (e.topOp p (e.get PWR_CTRL.OPMAX)) else e) d := rfl

theorem Dev.samePoints_watchPoints (d : Dev) (now : Nat) : d.SamePoints (d.watchPoints now) := by
  rw [Dev.watchPoints_eq]
  refine foldl_keeps (d.SamePoints ·) _ (fun e p h => h.trans ?_) _ d (.refl d)
  generalize e.raiseRoom p = room
  have hwatch := e.samePoints_watchRaise now p room
  generalize e.watchRaise now p room = x at hwatch ⊢
  dsimp only
  split
  · exact hwatch.trans (x.samePoints_opTo _ _ _)
  · exact hwatch

theorem Dev.samePoints_capPoints (d : Dev) (now : Nat) : d.SamePoints (d.capPoints now) := by
  unfold Dev.capPoints
  split
  · exact .refl d
  · exact foldl_keeps (d.SamePoints ·) _ (fun e q h => h.trans (e.samePoints_opDown now q)) _ d (.refl d)

theorem Dev.samePoints_capWatch (d : Dev) (now : Nat) : d.SamePoints (d.capWatch now) := ⟨rfl, fun _ => ⟨rfl, rfl⟩⟩

theorem Dev.drawBooking_shape (d : Dev) (b : Option Nat) (p : Nat) :
    ∃ l, d.drawBooking b p = { d with pwr := { d.pwr with bookings := l } } := by
  cases b
  · exact ⟨d.pwr.bookings, rfl⟩
  · exact ⟨_, rfl⟩

/-! ### Leave granted (R422, R425, R428) -/

theorem Dev.capTest_iff (d : Dev) (p : Nat) : d.capTest p = true ↔
    d.pwr.pBase + d.leaveMw + d.openMw + p ≤ (d.get PWR_CAP.CAP_W - d.get PWR_CAP.MARGIN_W) * 1000 := decide_eq_true_iff

theorem Dev.bufferTest_low {d : Dev} (h : d.get PWR_BUFFER_ENERGY.ENERGY < d.get PWR_BUFFER_ENERGY.RESERVE * 1000) (p : Nat) :
    d.bufferTest p = false := by
  have hlow : decide (d.get PWR_BUFFER_ENERGY.RESERVE * 1000 ≤ d.get PWR_BUFFER_ENERGY.ENERGY) = false :=
    decide_eq_false (Nat.not_le.mpr h)
  unfold Dev.bufferTest
  dsimp only
  rw [hlow, Bool.false_and]

/-- May a request be granted: it passes, and none before it does? -/
def Dev.grantable (d : Dev) (r : LeaveReq) : Prop :=
  d.leavePasses r = true ∧ ∀ x ∈ d.pwr.reqs, d.leaveFirst x r = true → d.leavePasses x = false

theorem Dev.not_grantable_iff {d : Dev} {r : LeaveReq} :
    (!d.leavePasses r || d.pwr.reqs.any (fun x => d.leaveFirst x r && d.leavePasses x)) = true ↔ ¬d.grantable r := by
  unfold Dev.grantable
  simp only [Bool.or_eq_true, Bool.not_eq_true', List.any_eq_true, Bool.and_eq_true, not_and_or, Bool.not_eq_true, not_forall,
    Bool.not_eq_false, exists_prop]

/-- The request leaves the list, and its booking is drawn on. -/
def Dev.drawn (d : Dev) (i : Nat) (r : LeaveReq) : Dev :=
  (d.onPwr fun w => { w with reqs := dropAt w.reqs i }).drawBooking (d.openBooking r.ctx r.p) r.p

theorem Dev.drawn_shape (d : Dev) (i : Nat) (r : LeaveReq) :
    ∃ l, d.drawn i r = { d with pwr := { d.pwr with reqs := dropAt d.pwr.reqs i, bookings := l } } := by
  obtain ⟨l, h⟩ := (d.onPwr fun w => { w with reqs := dropAt w.reqs i }).drawBooking_shape (d.openBooking r.ctx r.p) r.p
  exact ⟨l, h⟩

/-- Leave of a die pair's share or a booking, granted. -/
def Dev.granted (d : Dev) (r : LeaveReq) (b : Option Nat) : Dev :=
  (d.onPmu r.dp fun u => { u with leave := u.leave + r.p, share := if b.isNone then u.share - r.p else u.share }).onPwr fun w =>
    { w with grants := w.grants ++ [{ why := r.why, dp := r.dp, p := r.p, booking := b }] }

theorem Dev.granted_law (d : Dev) (r : LeaveReq) (b : Option Nat) :
    ((d.granted r b).pmu r.dp).leave = (d.pmu r.dp).leave + r.p ∧
    ((d.granted r b).pmu r.dp).share = (if b = none then (d.pmu r.dp).share - r.p else (d.pmu r.dp).share) ∧
    ∀ p, p ≠ r.dp → (d.granted r b).pmu p = d.pmu p := by
  have hpmu (p : Nat) : (d.granted r b).pmu p = (d.onPmu r.dp fun u => { u with
    leave := u.leave + r.p, share := if b.isNone then u.share - r.p else u.share }).pmu p := rfl
  refine ⟨?_, ?_, fun p hp => (hpmu p).trans (Dev.pmu_onPmu_other _ _ _ _ hp)⟩
  all_goals rw [hpmu, Dev.pmu_onPmu_same]
  simp only [Option.isNone_iff_eq_none]

theorem Dev.leaveGrant_sweep {d : Dev} {i job st : Nat} {r : LeaveReq} (hr : d.pwr.reqs[i]? = some r) (h : d.grantable r)
    (hwhy : r.why = .sweep job st) : d.leaveGrant i =
      (d.drawn i r).onPwr fun w => { w with sweepLeave := Tbl.put w.sweepLeave st (r.p, d.openBooking r.ctx r.p) } := by
  unfold Dev.leaveGrant
  rw [hr]
  dsimp only
  rw [if_neg fun hno => Dev.not_grantable_iff.mp hno h, hwhy]
  rfl

theorem Dev.leaveGrant_share {d : Dev} {i : Nat} {r : LeaveReq} (hr : d.pwr.reqs[i]? = some r) (h : d.grantable r)
    (hwhy : ∀ job st, r.why ≠ .sweep job st) : d.leaveGrant i = (d.drawn i r).granted r (d.openBooking r.ctx r.p) := by
  unfold Dev.leaveGrant
  rw [hr]
  dsimp only
  rw [if_neg fun hno => Dev.not_grantable_iff.mp hno h]
  unfold Dev.granted
  cases hw : r.why with
  | sweep job st => exact absurd hw (hwhy job st)
  | tile id c => rfl
  | barrier b => rfl

theorem Dev.leaveGrant_of_not {d : Dev} {i : Nat} {r : LeaveReq} (hr : d.pwr.reqs[i]? = some r) (h : ¬d.grantable r) :
    d.leaveGrant i = d := by
  unfold Dev.leaveGrant
  rw [hr]
  exact if_pos (Dev.not_grantable_iff.mpr h)

/-! ### Measurements (R420, R425) -/

/-- Input voltage, current, power and slew as they are shown. -/
def Dev.showInput (d : Dev) (vin iin pin : Nat) : Dev :=
  ((d.set PWR_INPUT.VIN vin).set PWR_INPUT.IIN iin).set PWR_INPUT.PIN pin

theorem Dev.showInput_law (d : Dev) {vin iin pin : Nat} (hvin : vin < 2 ^ 16) (hiin : iin < 2 ^ 16) (hpin : pin < 2 ^ 16) :
    (d.showInput vin iin pin).get PWR_INPUT.VIN = vin ∧ (d.showInput vin iin pin).get PWR_INPUT.IIN = iin ∧
    (d.showInput vin iin pin).get PWR_INPUT.PIN = pin ∧
    (d.showInput vin iin pin).get PWR_BUFFER_ENERGY.MIN = d.get PWR_BUFFER_ENERGY.MIN := by
  unfold Dev.showInput
  refine ⟨?_, ?_, ?_, ?_⟩
  · rw [Dev.get_set_of_apart _ _ _ _ (by decide), Dev.get_set_of_apart _ _ _ _ (by decide), Dev.get_set_same _ _ _ (by decide)]
    exact Nat.mod_eq_of_lt hvin
  · rw [Dev.get_set_of_apart _ _ _ _ (by decide), Dev.get_set_same _ _ _ (by decide)]
    exact Nat.mod_eq_of_lt hiin
  · rw [Dev.get_set_same _ _ _ (by decide)]
    exact Nat.mod_eq_of_lt hpin
  · rw [Dev.get_set_of_apart _ _ _ _ (by decide), Dev.get_set_of_apart _ _ _ _ (by decide), Dev.get_set_of_apart _ _ _ _ (by decide)]

theorem Dev.inputNow_eq (d : Dev) (mv ma : Nat) : d.inputNow mv ma =
    let x := ((d.showInput (min 65535 (mv / 10)) (min 65535 (ma / 10)) (min 65535 (mv * ma / 1000 / 1000))).onPwr
      fun w => { w with inputMw := mv * ma / 1000 }).onMod fun m => { m with vinMv := mv }
    x.set PWR_SLEW_LIMIT.SLEW (x.slew / 100) := rfl

theorem Dev.inputNow_law (d : Dev) (mv ma : Nat) : (d.inputNow mv ma).get PWR_INPUT.VIN = min 65535 (mv / 10) ∧
    (d.inputNow mv ma).get PWR_INPUT.IIN = min 65535 (ma / 10) ∧
    (d.inputNow mv ma).get PWR_INPUT.PIN = min 65535 (mv * ma / 1000 / 1000) ∧
    (d.inputNow mv ma).get PWR_BUFFER_ENERGY.MIN = d.get PWR_BUFFER_ENERGY.MIN := by
  obtain ⟨hvin, hiin, hpin, hmin⟩ := d.showInput_law (vin := min 65535 (mv / 10)) (iin := min 65535 (ma / 10))
    (pin := min 65535 (mv * ma / 1000 / 1000)) (by omega) (by omega) (by omega)
  rw [Dev.inputNow_eq]
  generalize d.showInput (min 65535 (mv / 10)) (min 65535 (ma / 10)) (min 65535 (mv * ma / 1000 / 1000)) = x at hvin hiin hpin hmin ⊢
  have hget (f : Fld) (hf : PWR_SLEW_LIMIT.SLEW.apart f = true) (v : Nat) :
      (((x.onPwr fun w => { w with inputMw := mv * ma / 1000 }).onMod fun m => { m with vinMv := mv }).set
        PWR_SLEW_LIMIT.SLEW v).get f = x.get f := by
    rw [Dev.get_set_of_apart _ _ _ _ hf, Dev.get_onMod, Dev.get_onPwr]
  exact ⟨(hget _ (by decide) _).trans hvin, (hget _ (by decide) _).trans hiin, (hget _ (by decide) _).trans hpin,
    (hget _ (by decide) _).trans hmin⟩

/-- The buffer's least energy, once it has been measured as `mj`. -/
def Dev.leastEnergy (d : Dev) (mj : Nat) : Nat :=
  if d.pwr.measured then min (d.get PWR_BUFFER_ENERGY.MIN) (min mj 65535) else min mj 65535

theorem Dev.leastEnergy_lt (d : Dev) (mj : Nat) : d.leastEnergy mj < 2 ^ 16 := by
  unfold Dev.leastEnergy
  split <;> omega

/-- The buffer's energy and its least as they are shown. -/
def Dev.showBuffer (d : Dev) (energy low : Nat) : Dev := (d.set PWR_BUFFER_ENERGY.ENERGY energy).set PWR_BUFFER_ENERGY.MIN low

theorem Dev.showBuffer_law (d : Dev) {energy low : Nat} (henergy : energy < 2 ^ 16) (hlow : low < 2 ^ 16) :
    (d.showBuffer energy low).get PWR_BUFFER_ENERGY.ENERGY = energy ∧ (d.showBuffer energy low).get PWR_BUFFER_ENERGY.MIN = low ∧
    ∀ f, PWR_BUFFER_ENERGY.ENERGY.apart f = true → PWR_BUFFER_ENERGY.MIN.apart f = true →
      (d.showBuffer energy low).get f = d.get f := by
  refine ⟨?_, ?_, fun f he hm => ?_⟩
  · exact (Dev.get_set_of_apart _ PWR_BUFFER_ENERGY.MIN _ _ (by decide)).trans
      ((Dev.get_set_same d _ _ (by decide)).trans (Nat.mod_eq_of_lt henergy))
  · exact (Dev.get_set_same _ PWR_BUFFER_ENERGY.MIN _ (by decide)).trans (Nat.mod_eq_of_lt hlow)
  · exact (Dev.get_set_of_apart _ PWR_BUFFER_ENERGY.MIN _ _ hm).trans (Dev.get_set_of_apart d _ _ _ he)

theorem Dev.bufferNow_eq (d : Dev) (mj : Nat) :
    d.bufferNow mj = (d.showBuffer (min mj 65535) (d.leastEnergy mj)).onPwr fun w => { w with measured := true } := rfl

theorem Dev.bufferNow_law (d : Dev) (mj : Nat) : (d.bufferNow mj).get PWR_BUFFER_ENERGY.ENERGY = min mj 65535 ∧
    (d.bufferNow mj).get PWR_BUFFER_ENERGY.MIN = d.leastEnergy mj ∧
    ∀ f, PWR_BUFFER_ENERGY.ENERGY.apart f = true → PWR_BUFFER_ENERGY.MIN.apart f = true → (d.bufferNow mj).get f = d.get f := by
  rw [Dev.bufferNow_eq]
  simp only [Dev.get_onPwr]
  exact d.showBuffer_law (by omega) (d.leastEnergy_lt mj)

/-- Showing what is granted changes PWR_GRANTED alone. -/
theorem Dev.showGranted_law (d : Dev) : (∃ regs, d.showGranted = { d with regs := regs }) ∧
    ∀ f : Fld, f.off ≠ PWR_GRANTED.off → d.showGranted.get f = d.get f := by
  refine ⟨⟨_, rfl⟩, fun f hf => ?_⟩
  unfold Dev.showGranted
  dsimp only
  rw [Dev.get_set_other _ _ _ _ hf, Dev.get_set_other _ _ _ _ hf, Dev.get_set_other _ _ _ _ hf, Dev.get_set_other _ _ _ _ hf]

/-- What a sample has measured, before points, cap and range are watched. -/
def Dev.measured (d : Dev) (mv ma mj : Nat) : Dev :=
  let d := ((d.inputNow mv ma).bufferNow mj).inputEnergy
  d.onPwr fun w => { w with
    pBase := w.inputMw - d.leaveMw
    rangeRec := w.rangeRec && (decide (mv < 48000) || decide (58000 < mv)) }

theorem Dev.governorSample_eq (d : Dev) (now mv ma mj : Nat) : d.governorSample now mv ma mj =
    ((((d.measured mv ma mj).capWatch now).watchPoints now).capPoints now).showGranted := rfl

/-- Measuring changes registers, the governor's figures and the input voltage. -/
theorem Dev.measured_shape (d : Dev) (mv ma mj : Nat) : ∃ regs x mod,
    d.measured mv ma mj = { d with regs := regs, pwr := x, mod := mod } ∧ x.pmus = d.pwr.pmus ∧
    x.pBase = mv * ma / 1000 - d.leaveMw ∧ x.inputMw = mv * ma / 1000 := ⟨_, _, _, rfl, rfl, rfl, rfl⟩

theorem Dev.get_inputEnergy (d : Dev) {f : Fld} (hf : PWR_ENERGY.INPUT_MJ.apart f = true) : d.inputEnergy.get f = d.get f :=
  Dev.get_wrap_of_apart d _ f _ hf

theorem Dev.measured_get (d : Dev) (mv ma mj : Nat) : (d.measured mv ma mj).get PWR_INPUT.VIN = min 65535 (mv / 10) ∧
    (d.measured mv ma mj).get PWR_INPUT.IIN = min 65535 (ma / 10) ∧
    (d.measured mv ma mj).get PWR_INPUT.PIN = min 65535 (mv * ma / 1000 / 1000) ∧
    (d.measured mv ma mj).get PWR_BUFFER_ENERGY.ENERGY = min mj 65535 ∧
    (d.measured mv ma mj).get PWR_BUFFER_ENERGY.MIN = d.leastEnergy mj := by
  obtain ⟨hvin, hiin, hpin, hmin⟩ := d.inputNow_law mv ma
  obtain ⟨henergy, hleast, hother⟩ := (d.inputNow mv ma).bufferNow_law mj
  have hget (f : Fld) (hf : PWR_ENERGY.INPUT_MJ.apart f = true) : (d.measured mv ma mj).get f =
      ((d.inputNow mv ma).bufferNow mj).get f := by
    unfold Dev.measured
    generalize (d.inputNow mv ma).bufferNow mj = x
    exact (Dev.get_onPwr _ _ f).trans (x.get_inputEnergy hf)
  refine ⟨?_, ?_, ?_, ?_, ?_⟩
  · rw [hget _ (by decide), hother _ (by decide) (by decide), hvin]
  · rw [hget _ (by decide), hother _ (by decide) (by decide), hiin]
  · rw [hget _ (by decide), hother _ (by decide) (by decide), hpin]
  · rw [hget _ (by decide), henergy]
  · rw [hget _ (by decide), hleast, Dev.leastEnergy, Dev.leastEnergy, hmin]
    rw [show (d.inputNow mv ma).pwr.measured = d.pwr.measured from rfl]

/-- Watching points and cap leaves what was measured. -/
theorem Dev.watched_law (d : Dev) (now : Nat) :
    let e := (((d.capWatch now).watchPoints now).capPoints now).showGranted
    (∀ f : Fld, f.off ≠ PWR_GRANTED.off → e.get f = d.get f) ∧ e.pwr.pBase = d.pwr.pBase ∧ e.pwr.inputMw = d.pwr.inputMw ∧
    e.core = d.core ∧ e.mem = d.mem ∧ ∀ p, (e.pmu p).op = (d.pmu p).op ∧ (e.pmu p).leave = (d.pmu p).leave := by
  have hpoints := ((d.samePoints_capWatch now).trans (Dev.samePoints_watchPoints _ now)).trans (Dev.samePoints_capPoints _ now)
  generalize ((d.capWatch now).watchPoints now).capPoints now = x at hpoints ⊢
  obtain ⟨⟨regs, hshow⟩, hshown⟩ := x.showGranted_law
  obtain ⟨hrest, hpmu⟩ := hpoints
  have hregs := congrArg (fun e : Dev => e.regs) hrest
  have hbase := congrArg (fun e : Dev => e.pwr.pBase) hrest
  have hinput := congrArg (fun e : Dev => e.pwr.inputMw) hrest
  have hcore := congrArg (fun e : Dev => e.core) hrest
  have hmem := congrArg (fun e : Dev => e.mem) hrest
  refine ⟨fun f hf => (hshown f hf).trans (Dev.get_congr hregs f), ?_⟩
  rw [hshow]
  exact ⟨hbase, hinput, hcore, hmem, hpmu⟩

theorem governorSample_leads (s : State) (mv ma mj : Nat) :
    Leads (.governorSample mv ma mj) s (s.dev.governorSample s.now mv ma mj) := rfl

/-- What a sample leaves. -/
theorem Dev.governorSample_law (d : Dev) (now mv ma mj : Nat) :
    let e := d.governorSample now mv ma mj
    e.get PWR_INPUT.VIN = min 65535 (mv / 10) ∧ e.get PWR_INPUT.IIN = min 65535 (ma / 10) ∧
    e.get PWR_INPUT.PIN = min 65535 (mv * ma / 1000 / 1000) ∧ e.get PWR_BUFFER_ENERGY.ENERGY = min mj 65535 ∧
    e.get PWR_BUFFER_ENERGY.MIN = d.leastEnergy mj ∧
    e.pwr.pBase = mv * ma / 1000 - d.leaveMw ∧ e.pwr.inputMw = mv * ma / 1000 ∧ e.core = d.core ∧ e.mem = d.mem ∧
    ∀ p, (e.pmu p).op = (d.pmu p).op ∧ (e.pmu p).leave = (d.pmu p).leave := by
  obtain ⟨regs, w, mod, hshape, hpmus, hbase, hinput⟩ := d.measured_shape mv ma mj
  obtain ⟨hvin, hiin, hpin, henergy, hmin⟩ := d.measured_get mv ma mj
  rw [Dev.governorSample_eq]
  generalize d.measured mv ma mj = m at hshape hvin hiin hpin henergy hmin ⊢
  obtain ⟨hget, hbase', hinput', hcore, hmem, hpmu⟩ := m.watched_law now
  generalize (((m.capWatch now).watchPoints now).capPoints now).showGranted = e at hget hbase' hinput' hcore hmem hpmu ⊢
  rw [← hvin, ← hiin, ← hpin, ← henergy, ← hmin]
  subst hshape
  refine ⟨hget _ (by decide), hget _ (by decide), hget _ (by decide), hget _ (by decide), hget _ (by decide), hbase'.trans hbase,
    hinput'.trans hinput, hcore, hmem, fun p => ?_⟩
  have hsame : Tbl.look Pmu.reset w.pmus p = d.pmu p := congrArg (fun t => Tbl.look Pmu.reset t p) hpmus
  rw [← hsame]
  exact hpmu p

/-! ### Energies (R435, R436) -/

/-- What an asterism has been charged with. -/
def Ast.charged (uj : Nat) (x : Ast) : Ast := { x with pendMeters := { x.pendMeters with energy := x.pendMeters.energy + uj } }

/-- An energy shared out among asterisms: a free part for each but the last, which takes the rest (R435). -/
def Dev.shareOut : List Nat → Nat → Dev → Dev
  | [], _, d => d
  | [a], uj, d => d.onAst a (Ast.charged uj)
  | a :: b :: l, uj, d =>
    Dev.shareOut (b :: l) (uj - (d.draw .choice).1 % (uj + 1))
      ((d.draw .choice).2.onAst a (Ast.charged ((d.draw .choice).1 % (uj + 1))))

/-- A function that deals out shares as `shareOut` does is it, where there is an asterism to charge. -/
theorem Dev.eq_shareOut {f : List Nat → Nat → Dev → Dev} (hone : ∀ a uj d, f [a] uj d = d.onAst a (Ast.charged uj))
    (hmore : ∀ a b l uj d, f (a :: b :: l) uj d = f (b :: l) (uj - (d.draw .choice).1 % (uj + 1))
      ((d.draw .choice).2.onAst a (Ast.charged ((d.draw .choice).1 % (uj + 1))))) (a : Nat) (l : List Nat) (uj : Nat) (d : Dev) :
    f (a :: l) uj d = Dev.shareOut (a :: l) uj d := by
  induction l generalizing a uj d with
  | nil => exact hone a uj d
  | cons b l ih => exact (hmore a b l uj d).trans (ih b _ _)

/-- Sharing an energy out touches the asterisms alone. -/
theorem Dev.shareOut_shape (l : List Nat) (uj : Nat) (d : Dev) : ∃ comp fresh,
    Dev.shareOut l uj d = { d with comp := comp, fresh := fresh } := by
  induction l generalizing uj d with
  | nil => exact ⟨d.comp, d.fresh, rfl⟩
  | cons a l ih =>
    cases l with
    | nil => exact ⟨_, d.fresh, rfl⟩
    | cons b l =>
      obtain ⟨comp, fresh, h⟩ := ih (uj - (d.draw .choice).1 % (uj + 1))
        ((d.draw .choice).2.onAst a (Ast.charged ((d.draw .choice).1 % (uj + 1))))
      exact ⟨comp, fresh, h⟩

theorem Dev.shareOut_one (a uj : Nat) (d : Dev) :
    ((Dev.shareOut [a] uj d).ast a).pendMeters.energy = (d.ast a).pendMeters.energy + uj := by
  exact congrArg (fun x : Ast => x.pendMeters.energy) (d.ast_onAst_same a (Ast.charged uj))

/-- The parts of two asterisms add up to the whole. -/
theorem Dev.shareOut_two {a b : Nat} (hab : a ≠ b) (uj : Nat) (d : Dev) :
    ((Dev.shareOut [a, b] uj d).ast a).pendMeters.energy + ((Dev.shareOut [a, b] uj d).ast b).pendMeters.energy =
      (d.ast a).pendMeters.energy + (d.ast b).pendMeters.energy + uj := by
  have hpart : (d.draw .choice).1 % (uj + 1) ≤ uj := Nat.le_of_lt_succ (Nat.mod_lt _ (Nat.succ_pos uj))
  generalize hv : (d.draw .choice).1 % (uj + 1) = part at hpart
  have heq : Dev.shareOut [a, b] uj d =
      ((d.draw .choice).2.onAst a (Ast.charged part)).onAst b (Ast.charged (uj - part)) := by rw [← hv]; rfl
  have ha : (Dev.shareOut [a, b] uj d).ast a = Ast.charged part (d.ast a) := by
    rw [heq, Dev.ast_onAst_other _ _ _ _ hab, Dev.ast_onAst_same]
    rfl
  have hb : (Dev.shareOut [a, b] uj d).ast b = Ast.charged (uj - part) (d.ast b) := by
    rw [heq, Dev.ast_onAst_same, Dev.ast_onAst_other _ _ _ _ hab.symm]
    rfl
  rw [ha, hb]
  simp only [Ast.charged]
  omega

/-- A die pair's rail energy is counted before it is shared out. -/
def Dev.railCounted (d : Dev) (p uj : Nat) : Dev :=
  (d.wrap (PMU_ENERGY.RAIL_MJ p) ((Tbl.look 0 d.pwr.railUj p + uj) / 1000)).onPwr fun w => { w with
    railUj := Tbl.putD 0 w.railUj p ((Tbl.look 0 d.pwr.railUj p + uj) % 1000) }

theorem Tbl.look_putD_zero (t : Tbl Nat) (k v : Nat) : Tbl.look 0 (Tbl.putD 0 t k v) k = v := by
  unfold Tbl.putD Tbl.look
  split
  next h => rw [Tbl.find_del_same, h, Option.getD_none]
  next h => rw [Tbl.find_put_same, Option.getD_some]

theorem Dev.railCounted_law (d : Dev) (p uj : Nat) :
    (d.railCounted p uj).get (PMU_ENERGY.RAIL_MJ p) =
      (d.get (PMU_ENERGY.RAIL_MJ p) + (Tbl.look 0 d.pwr.railUj p + uj) / 1000) % 2 ^ 64 ∧
    Tbl.look 0 (d.railCounted p uj).pwr.railUj p = (Tbl.look 0 d.pwr.railUj p + uj) % 1000 ∧
    (d.railCounted p uj).get PWR_ENERGY_UNATTR.UNATTR_MJ = d.get PWR_ENERGY_UNATTR.UNATTR_MJ := by
  refine ⟨?_, Tbl.look_putD_zero _ _ _, ?_⟩
  · exact d.get_wrap_same (PMU_ENERGY.RAIL_MJ p) _ (by simp [PMU_ENERGY.RAIL_MJ])
  · have hoff : PWR_ENERGY_UNATTR.off ≠ PMU_ENERGY.off p := by
      unfold PWR_ENERGY_UNATTR.off PMU_ENERGY.off
      omega
    exact Dev.get_set_other d (PMU_ENERGY.RAIL_MJ p) PWR_ENERGY_UNATTR.UNATTR_MJ _ hoff

theorem Dev.energySample_nobody {d : Dev} {p : Nat} (h : d.boundOn p = []) (uj : Nat) : d.energySample p uj =
    ((d.railCounted p uj).wrap PWR_ENERGY_UNATTR.UNATTR_MJ ((d.pwr.unattrUj + uj) / 1000)).onPwr fun w => { w with
      unattrUj := (d.pwr.unattrUj + uj) % 1000 } := by
  have hnone : (d.railCounted p uj).boundOn p = [] := h
  unfold Dev.railCounted at hnone
  unfold Dev.energySample
  dsimp only
  rw [hnone]
  rfl

theorem Dev.energySample_bound {d : Dev} {p : Nat} (h : d.boundOn p ≠ []) (uj : Nat) :
    d.energySample p uj = Dev.shareOut (d.boundOn p) uj (d.railCounted p uj) := by
  have hsame : (d.railCounted p uj).boundOn p = d.boundOn p := rfl
  obtain ⟨a, l, hl⟩ := List.exists_cons_of_ne_nil h
  rw [hl] at hsame ⊢
  unfold Dev.railCounted at hsame
  unfold Dev.energySample
  dsimp only
  rw [hsame]
  exact Dev.eq_shareOut (fun _ _ _ => rfl) (fun _ _ _ _ _ => rfl) a l uj (d.railCounted p uj)

/-- The rail's figures stand whoever is charged. -/
theorem Dev.energySample_rail (d : Dev) (p uj : Nat) :
    (d.energySample p uj).get (PMU_ENERGY.RAIL_MJ p) =
      (d.get (PMU_ENERGY.RAIL_MJ p) + (Tbl.look 0 d.pwr.railUj p + uj) / 1000) % 2 ^ 64 ∧
    Tbl.look 0 (d.energySample p uj).pwr.railUj p = (Tbl.look 0 d.pwr.railUj p + uj) % 1000 := by
  obtain ⟨hrail, hrest, -⟩ := d.railCounted_law p uj
  by_cases h : d.boundOn p = []
  · rw [Dev.energySample_nobody h]
    have hoff : PMU_ENERGY.off p ≠ PWR_ENERGY_UNATTR.off := by
      unfold PWR_ENERGY_UNATTR.off PMU_ENERGY.off
      omega
    exact ⟨(Dev.get_set_other (d.railCounted p uj) PWR_ENERGY_UNATTR.UNATTR_MJ (PMU_ENERGY.RAIL_MJ p) _ hoff).trans hrail, hrest⟩
  · obtain ⟨comp, fresh, heq⟩ := Dev.shareOut_shape (d.boundOn p) uj (d.railCounted p uj)
    rw [Dev.energySample_bound h, heq]
    exact ⟨hrail, hrest⟩

/-! ### The shares and the brake (R422, R425) -/

/-- The device under another governor. -/
def Dev.withPwr (d : Dev) (w : Power) : Dev := { d with pwr := w }

/-- The shares of all die pairs set. -/
theorem Dev.shares_law (d : Dev) (f : Nat → Nat) :
    let e := diePairs.foldl (fun (x : Dev) p => x.onPmu p fun u => { u with share := f p }) d
    (∀ p < 8, (e.pmu p).share = f p) ∧ (∀ p, (e.pmu p).leave = (d.pmu p).leave) ∧ { e with pwr := d.pwr } = d := by
  have hsame (x : Dev) (p q : Nat) : ((x.onPmu q fun u => { u with share := f q }).pmu p).share =
      if p = q then f p else (x.pmu p).share := by
    split
    next h => rw [h, Dev.pmu_onPmu_same]
    next h => rw [Dev.pmu_onPmu_other _ _ _ _ h]
  intro e
  refine ⟨fun p hp => ?_, fun p => ?_, ?_⟩
  · refine foldl_reaches (f := fun (x : Dev) p => x.onPmu p fun u => { u with share := f p }) (I := fun _ => True)
      (P := fun x : Dev => (x.pmu p).share = f p) (a := p) ?_ (fun _ _ _ => trivial) (fun x q h => ?_) (fun x _ => ?_) trivial
    · have hall : ∀ p < 8, p ∈ diePairs := by decide
      exact hall p hp
    · rw [hsame]
      split
      · rfl
      · exact h
    · rw [hsame, if_pos rfl]
  · refine foldl_keeps (fun x : Dev => (x.pmu p).leave = (d.pmu p).leave) _ (fun x q h => ?_) diePairs d rfl
    by_cases hq : p = q
    · subst hq
      rw [Dev.pmu_onPmu_same]
      exact h
    · rw [Dev.pmu_onPmu_other _ _ _ _ hq]
      exact h
  · have hrest : e.withPwr d.pwr = d.withPwr d.pwr := Dev.foldl_proj (π := fun x : Dev => x.withPwr d.pwr)
      (f := fun (x : Dev) p => x.onPmu p fun u => { u with share := f p }) (fun _ _ => rfl) diePairs d
    exact hrest

/-- Every core clock brakes, with a record once an episode. -/
def Dev.braked (d : Dev) (mj : Nat) : Dev :=
  let e := d.set PWR_BUFFER_ENERGY.BRAKE 1
  if e.pwr.bufEpisode then e
  else (e.onPwr fun w => { w with bufEpisode := true }).raise 0x0804 moduleUnit 0x02 .degraded [mj, e.ticks]

theorem Dev.braked_law (d : Dev) (mj : Nat) : (d.braked mj).flag PWR_BUFFER_ENERGY.BRAKE = true ∧
    (d.braked mj).get PWR_BUFFER_ENERGY.ENERGY = d.get PWR_BUFFER_ENERGY.ENERGY ∧ (d.braked mj).pwr.bufEpisode = true ∧
    (d.pwr.bufEpisode = true → (d.braked mj).ras = d.ras) ∧
    (d.pwr.bufEpisode = false → ∃ b, (d.braked mj).ras.box = d.ras.box ++ [b] ∧ b.code = 0x0804) := by
  have hregs : (d.braked mj).regs = (d.set PWR_BUFFER_ENERGY.BRAKE 1).regs := by
    unfold Dev.braked
    dsimp only
    split <;> rfl
  have hbrake : (d.braked mj).get PWR_BUFFER_ENERGY.BRAKE = 1 :=
    (Dev.get_congr hregs _).trans (Dev.get_set_same d _ 1 (by decide))
  refine ⟨?_, (Dev.get_congr hregs _).trans (Dev.get_set_of_apart d _ _ _ (by decide)), ?_, fun h => ?_, fun h => ?_⟩
  · unfold Dev.flag
    rw [hbrake]
    rfl
  · unfold Dev.braked
    dsimp only
    split
    next h => exact h
    next h => rfl
  · have hsame : (d.set PWR_BUFFER_ENERGY.BRAKE 1).pwr.bufEpisode = true := h
    unfold Dev.braked
    dsimp only
    rw [if_pos hsame]
    rfl
  · have hsame : ¬ (d.set PWR_BUFFER_ENERGY.BRAKE 1).pwr.bufEpisode = true := ne_true_of_eq_false h
    unfold Dev.braked
    dsimp only
    rw [if_neg hsame]
    exact ⟨_, rfl, rfl⟩

theorem Dev.released_flag (d : Dev) : ((d.set PWR_BUFFER_ENERGY.BRAKE 0).onPwr fun w => { w with bufEpisode := false }).flag
    PWR_BUFFER_ENERGY.BRAKE = false := by
  have hget : (d.set PWR_BUFFER_ENERGY.BRAKE 0).get PWR_BUFFER_ENERGY.BRAKE = 0 := Dev.get_set_same d _ 0 (by decide)
  unfold Dev.flag
  rw [Dev.get_onPwr, hget]
  rfl

/-! ### The obligation -/

/-- Settles O46: the governor measures, grants and shares leave, attributes energy and brakes. -/
theorem leaveIsGranted : Obligations.LeaveIsGranted := by
  intro s d
  refine ⟨d.capTest_iff, fun p h => Dev.bufferTest_low h p, fun i r hr => ?_, fun mv ma mj => ?_, ?_, fun p uj => ?_, fun mj => ?_⟩
  · refine ⟨fun hno => leads_of_eq rfl (Dev.leaveGrant_of_not hr hno), fun job st hgo hwhy => ?_, fun hgo hwhy => ?_⟩
    · have heq := Dev.leaveGrant_sweep hr hgo hwhy
      obtain ⟨l, hdraw⟩ := d.drawn_shape i r
      rw [hdraw] at heq
      exact answers_of_eq rfl heq ⟨rfl, Tbl.find_put_same _ _ _, fun _ => rfl⟩
    · have heq := Dev.leaveGrant_share hr hgo hwhy
      obtain ⟨l, hdraw⟩ := d.drawn_shape i r
      rw [hdraw] at heq
      generalize d.openBooking r.ctx r.p = b at heq ⊢
      obtain ⟨hleave, hshare, hother⟩ := Dev.granted_law
        { d with pwr := { d.pwr with reqs := dropAt d.pwr.reqs i, bookings := l } } r b
      exact answers_of_eq rfl heq ⟨rfl, hleave, hshare, rfl, hother, rfl⟩
  · obtain ⟨hvin, hiin, hpin, henergy, hmin, hrest⟩ := d.governorSample_law s.now mv ma mj
    have hlead : Leads (.governorSample mv ma mj) s (d.governorSample s.now mv ma mj) := governorSample_leads s mv ma mj
    exact ⟨_, hlead, hvin, hiin, hpin, henergy, hmin, hrest⟩
  · intro total
    refine ⟨fun h => leads_of_eq rfl (if_pos h), fun h => ?_⟩
    obtain ⟨hshare, hleave, hrest⟩ := d.shares_law fun p => d.headroom * d.unmet p / total
    exact answers_of_eq rfl (if_neg h) ⟨hshare, fun p _ => hleave p, hrest⟩
  · obtain ⟨hrail, hrest⟩ := d.energySample_rail p uj
    obtain ⟨-, -, hunattr⟩ := d.railCounted_law p uj
    refine answers_of_eq (e := d.energySample p uj) rfl rfl ⟨fun hnone => ?_, fun a hone => ?_, fun a b hab htwo => ?_, hrail, hrest⟩
    · rw [Dev.energySample_nobody hnone]
      refine ⟨(Dev.get_wrap_same (d.railCounted p uj) PWR_ENERGY_UNATTR.UNATTR_MJ _ (by decide)).trans ?_, rfl, rfl⟩
      rw [hunattr]
      rfl
    · rw [Dev.energySample_bound (hone ▸ List.cons_ne_nil a []), hone]
      exact ⟨(Dev.shareOut_one a uj _), rfl⟩
    · rw [Dev.energySample_bound (htwo ▸ List.cons_ne_nil a [b]), htwo]
      exact Dev.shareOut_two hab uj (d.railCounted p uj)
  · have hreserve : (d.bufferNow mj).get PWR_BUFFER_ENERGY.RESERVE = d.get PWR_BUFFER_ENERGY.RESERVE :=
      (d.bufferNow_law mj).2.2 _ (by decide) (by decide)
    have henergy := (d.bufferNow_law mj).1
    refine ⟨fun hlow => ?_, fun hok => ?_, fun hback => ?_, fun hlow => ?_⟩
    · have hgo : ¬ (d.bufferNow mj).get PWR_BUFFER_ENERGY.RESERVE * 500 ≤ mj := by
        rw [hreserve]
        exact Nat.not_le.mpr hlow
      obtain ⟨hbrake, hkept, hepisode, hras, hbox⟩ := (d.bufferNow mj).braked_law mj
      exact answers_of_eq rfl (if_neg hgo) ⟨hbrake, hepisode, hkept.trans henergy, hras, hbox⟩
    · exact leads_of_eq rfl (if_pos (hreserve ▸ hok))
    · have hgo : (d.bufferNow mj).get PWR_BUFFER_ENERGY.RESERVE * 1000 < mj := by
        rw [hreserve]
        exact hback
      exact answers_of_eq rfl (if_pos hgo) ⟨(d.bufferNow mj).released_flag, rfl, rfl⟩
    · exact leads_of_eq rfl (if_neg (hreserve ▸ Nat.not_lt.mpr hlow))

end Sys2Proof.Machine
end

section
/-!
PROOFS. Operating points: a die pair at a point beyond the table, whose entry is the die pair's own status register.
-/

namespace Sys2Proof.Machine

/-- What a droop's stretch notes before points are lowered. -/
def Dev.stretched (d : Dev) (now p ns : Nat) : Dev :=
  ((d.wrap PWR_DROOP.EVENTS 1).wrap (PMU_STATUS.STRETCH p) 1).onPmu p fun u =>
    let u := { u with stretchEnd := max u.stretchEnd (now + ns) }
    if now < u.stretchAt + 1000000 then { u with stretches := u.stretches + 1 }
    else { u with stretchAt := now, stretches := 1 }

/-- A long stretch lowers the point once it may. -/
theorem Dev.droop_goal {d : Dev} {now p ns : Nat} (hns : 4000 < ns) (hlow : ((d.stretched now p ns).pmu p).lowUntil ≤ now) :
    ((d.droop now p ns).pmu p).goal = (((d.stretched now p ns).opDown now p).pmu p).goal := by
  have hdroop : d.droop now p ns =
      let x := d.stretched now p ns
      if ns ≤ 4000 ∧ (x.pmu p).stretches ≤ 256 then x
      else
        let y := (if now < (x.pmu p).lowUntil then x else x.opDown now p).onPmu p fun u => { u with lowUntil := now + 10000000 }
        if (match (x.pmu p).droopRec with | some t => decide (t + second ≤ now) | none => true) then
          (y.onPmu p fun u => { u with droopRec := some now }).raise 0x0805 (svcUnit p) 0x01 .degraded [p, (x.pmu p).stretches]
        else y := rfl
  rw [hdroop]
  generalize d.stretched now p ns = x at hlow ⊢
  dsimp only
  rw [if_neg fun h => Nat.not_le.mpr hns h.1, if_neg (Nat.not_lt.mpr hlow)]
  generalize x.opDown now p = y
  have hgoal : ((y.onPmu p fun u => { u with lowUntil := now + 10000000 }).pmu p).goal = (y.pmu p).goal := by
    rw [Dev.pmu_onPmu_same]
  generalize (y.onPmu p fun u => { u with lowUntil := now + 10000000 }) = z at hgoal ⊢
  rw [← hgoal]
  refine iteInduction (motive := fun e : Dev => (e.pmu p).goal = (z.pmu p).goal) (fun _ => ?_) (fun _ => rfl)
  exact congrArg (·.goal) (z.pmu_onPmu_same p fun u => { u with droopRec := some now })

/-- The next available point below, where it is the one just below. -/
theorem Dev.opBelow_pred {d : Dev} {p n : Nat} (hop : (d.pmu p).op = n + 1) (hn : d.opAvail p n = true) : d.opBelow p = some n := by
  rw [Dev.opBelow, hop, List.range_succ, List.filter_append, List.filter_cons_of_pos hn, List.filter_nil, List.getLast?_concat]

/-- Where the point just below is not available, it is the one below that. -/
theorem Dev.opBelow_pred_pred {d : Dev} {p n : Nat} (hop : (d.pmu p).op = n + 2) (hno : d.opAvail p (n + 1) = false)
    (hn : d.opAvail p n = true) : d.opBelow p = some n := by
  rw [Dev.opBelow, hop, List.range_succ, List.filter_append, List.filter_cons_of_neg (ne_true_of_eq_false hno), List.filter_nil,
    List.append_nil, List.range_succ, List.filter_append, List.filter_cons_of_pos hn, List.filter_nil, List.getLast?_concat]

theorem Dev.opDown_goal {d : Dev} {now p k : Nat} (hgoal : (d.pmu p).goal = none) (hbelow : d.opBelow p = some k)
    (hk : (d.pmu p).op ≠ k) : ((d.opDown now p).pmu p).goal = some (k, now + 40000) := by
  have hnone : ¬ (d.pmu p).goal.isSome = true := by
    rw [hgoal]
    exact Bool.false_ne_true
  unfold Dev.opDown
  rw [if_neg hnone, hbelow]
  dsimp only
  rw [Dev.opTo, Dev.pmu_onPmu_same, if_neg hk]

/-- Die pair 0 at a point whose entry below is PMU_STATUS of the die pair, not available while STRETCH is below 2^31. -/
def highDev : Dev := { Dev.reset with
  regs := [(0x450000, BitVec.ofNat 64 ((2 ^ 31 - 1) * 2 ^ 32)), (0x44FFF8, BitVec.ofNat 64 (2 ^ 63))]
  pwr := { Power.reset with pmus := [(0, { Pmu.reset with op := 548353 })] } }

theorem droopStretch_leads (s : State) (p ns : Nat) : Leads (.droopStretch p ns) s (s.dev.droop s.now p ns) := rfl

/-- Refutes O47: at a point beyond the table's, the count of a stretch makes the entry below an available one, so that the droop
leads to another point than the one that was next. -/
theorem not_capsAndPoints : ¬ Obligations.CapsAndPoints := by
  intro h
  obtain ⟨-, -, -, -, -, -, -, -, hpoints⟩ := h.2 ⟨[], 0, highDev⟩
  obtain ⟨-, -, -, -, -, -, -, hdroop⟩ := hpoints 0
  obtain ⟨e, hlead, -, -, -, -, hlong⟩ := hdroop 4001
  have hbelow : highDev.opBelow 0 = some 548351 :=
    Dev.opBelow_pred_pred (by decide +kernel) (by decide +kernel) (by decide +kernel)
  have hgoal := (hlong (by decide)).2 548351 hbelow (by decide +kernel) (by decide +kernel)
  have hdone : ((highDev.droop 0 0 4001).pmu 0).goal = some (548352, 40000) := by
    rw [Dev.droop_goal (by decide) (by decide +kernel)]
    exact Dev.opDown_goal (by decide +kernel) (Dev.opBelow_pred (by decide +kernel) (by decide +kernel)) (by decide +kernel)
  have he : e = highDev.droop 0 0 4001 := leads_unique (droopStretch_leads ⟨[], 0, highDev⟩ 0 4001) hlead
  rw [he, hdone] at hgoal
  exact absurd hgoal (by decide)

end Sys2Proof.Machine
end

section
/-!
PROOFS. Power states: entries asked for, answered and timed out, wakes, and the input's range (R408, R410 to R413, R522).
-/

namespace Sys2Proof.Machine

/-! ### Entries begin and end (R410, R411) -/

/-- An entry as it begins. -/
def Entry.begins (now req mask : Nat) : Entry where
  req := req
  dpmask := mask
  at_ := now
  wait := (entryBlocks req mask).map fun u => (u, 0, none)

theorem Dev.enter_law (d : Dev) (now req mask : Nat) : (d.enter now req mask).get PWR_STATE_REQ.STATUS = 1 ∧
    (d.enter now req mask).pwr = { d.pwr with entry := some (Entry.begins now req mask) } ∧
    (d.enter now req mask).core = d.core ∧
    ∀ f, PWR_STATE_REQ.STATUS.apart f = true → (d.enter now req mask).get f = d.get f := by
  refine ⟨Dev.get_set_same _ PWR_STATE_REQ.STATUS 1 (by decide), rfl, rfl, fun f hf => ?_⟩
  exact (Dev.get_set_of_apart (d.onPwr _) PWR_STATE_REQ.STATUS f 1 hf).trans (Dev.get_onPwr d _ f)

/-- An entry that is over shows its status, and the block and reason. -/
theorem Dev.entryOver_law (d : Dev) {status reason : Nat} (hstatus : status < 2 ^ 3) (hreason : reason < 2 ^ 4) (unit : Nat) :
    (d.entryOver status unit reason).get PWR_STATE_REQ.STATUS = status ∧
    (d.entryOver status unit reason).get PWR_STATE_REQ.UNIT = unit % 2 ^ 16 ∧
    (d.entryOver status unit reason).get PWR_STATE_REQ.REASON = reason ∧
    (∃ regs, d.entryOver status unit reason = { d with regs := regs, pwr := { d.pwr with entry := none } }) ∧
    ∀ f : Fld, f.off ≠ PWR_STATE_REQ.off → (d.entryOver status unit reason).get f = d.get f := by
  unfold Dev.entryOver
  refine ⟨?_, ?_, ?_, ⟨_, rfl⟩, fun f hf => ?_⟩
  · rw [Dev.get_set_of_apart _ _ _ _ (by decide), Dev.get_set_of_apart _ _ _ _ (by decide), Dev.get_set_same _ _ _ (by decide)]
    exact Nat.mod_eq_of_lt hstatus
  · rw [Dev.get_set_of_apart _ _ _ _ (by decide), Dev.get_set_same _ _ _ (by decide)]
    rfl
  · rw [Dev.get_set_same _ _ _ (by decide)]
    exact Nat.mod_eq_of_lt hreason
  · rw [Dev.get_set_other _ _ _ _ hf, Dev.get_set_other _ _ _ _ hf, Dev.get_set_other _ _ _ _ hf, Dev.get_onPwr]

/-- The request is noted before it is acted on. -/
def Dev.asked (d : Dev) (req mask : Nat) : Dev := (d.set PWR_STATE_REQ.REQ req).set PWR_STATE_REQ.DPMASK mask

theorem Dev.asked_law (d : Dev) {req : Nat} (hreq : req < 2 ^ 3) (mask : Nat) : (∃ regs, d.asked req mask = { d with regs := regs }) ∧
    (d.asked req mask).get PWR_STATE_REQ.REQ = req ∧
    (d.asked req mask).get PWR_STATE_REQ.STATE = d.get PWR_STATE_REQ.STATE ∧
    ∀ f : Fld, f.off ≠ PWR_STATE_REQ.off → (d.asked req mask).get f = d.get f := by
  unfold Dev.asked
  refine ⟨⟨_, rfl⟩, ?_, ?_, fun f hf => ?_⟩
  · rw [Dev.get_set_of_apart _ _ _ _ (by decide), Dev.get_set_same _ _ _ (by decide)]
    exact Nat.mod_eq_of_lt hreq
  · rw [Dev.get_set_of_apart _ _ _ _ (by decide), Dev.get_set_of_apart _ _ _ _ (by decide)]
  · rw [Dev.get_set_other _ _ _ _ hf, Dev.get_set_other _ _ _ _ hf]

theorem Dev.stateReq_idle {d : Dev} {path : Nat} (h : MayWrite d path PWR_STATE_REQ.off) (hentry : d.pwr.entry = none)
    (htrip : d.mod.tripLatch = false) (now req mask : Nat) (f : Dev → Dev) : d.stateReq now path req mask f = f (d.asked req mask) := by
  unfold Dev.stateReq
  rw [Dev.writeThrough_of_mayWrite h, hentry, htrip]
  rfl

theorem Dev.stateReq_busy {d : Dev} {path : Nat} (h : MayWrite d path PWR_STATE_REQ.off)
    (hbusy : d.pwr.entry.isSome = true ∨ d.mod.tripLatch = true) (now req mask : Nat) (f : Dev → Dev) :
    d.stateReq now path req mask f = d := by
  unfold Dev.stateReq
  rw [Dev.writeThrough_of_mayWrite h, if_pos]
  rw [Bool.or_eq_true]
  exact hbusy

/-- A request for a deeper state asks the blocks in scope. -/
theorem Dev.asks_law {d : Dev} {req : Nat} (hreq : req < 2 ^ 3) (now shown mask : Nat) :
    let e := (d.asked req shown).enter now req mask
    e.get PWR_STATE_REQ.STATUS = 1 ∧ e.get PWR_STATE_REQ.REQ = req ∧ e.pwr.entry = some (Entry.begins now req mask) ∧
    e.pwr.pkg = d.pwr.pkg ∧ e.core = d.core ∧ e.get PWR_STATE_REQ.STATE = d.get PWR_STATE_REQ.STATE := by
  obtain ⟨⟨regs, hasked⟩, hreqGet, hstate, -⟩ := d.asked_law hreq shown
  obtain ⟨hstatus, hpwr, hcore, hother⟩ := (d.asked req shown).enter_law now req mask
  intro e
  have hpwr' : e.pwr = { d.pwr with entry := some (Entry.begins now req mask) } := by
    rw [hpwr, hasked]
  refine ⟨hstatus, (hother _ (by decide)).trans hreqGet, congrArg (·.entry) hpwr', congrArg (·.pkg) hpwr', ?_,
    (hother _ (by decide)).trans hstate⟩
  rw [hcore, hasked]

/-! ### Wakes (R413) -/

theorem Dev.lastWake_law (d : Dev) (src : Nat) (hsrc : src < 2 ^ 4) : (d.lastWake src .deepNight).get PWR_LAST_WAKE.SOURCE = src ∧
    (d.lastWake src .deepNight).get PWR_LAST_WAKE.FROM = Pwr.deepNight.code ∧
    (d.lastWake src .deepNight).get PWR_LAST_WAKE.TICKS = d.ticks % 2 ^ 56 := by
  unfold Dev.lastWake
  refine ⟨?_, ?_, ?_⟩
  · rw [Dev.get_set_of_apart _ _ _ _ (by decide), Dev.get_set_of_apart _ _ _ _ (by decide), Dev.get_set_same _ _ _ (by decide)]
    exact Nat.mod_eq_of_lt hsrc
  · rw [Dev.get_set_of_apart _ _ _ _ (by decide), Dev.get_set_same _ _ _ (by decide)]
    rfl
  · rw [Dev.get_set_same _ _ _ (by decide), show PWR_LAST_WAKE.TICKS.w = 56 from rfl]

theorem Dev.pwr_allLanes (d : Dev) (narrow : Bool) : (d.allLanes narrow).pwr = d.pwr := rfl

theorem Dev.setPkg_law (d : Dev) (p : Pwr) : (d.setPkg p).pwr = { d.pwr with pkg := p } ∧
    (d.setPkg p).get PWR_STATE_REQ.STATE = p.code ∧ (d.setPkg p).flag MGT_STATUS.PKG_DOWN = decide (p = .deepNight) := by
  refine ⟨rfl, ?_, ?_⟩
  · unfold Dev.setPkg
    rw [Dev.get_set_of_apart _ _ _ _ (by decide), Dev.get_set_same _ _ _ (by decide)]
    cases p <;> rfl
  · unfold Dev.setPkg Dev.flag
    rw [Dev.get_set_same _ _ _ (by decide)]
    cases p <;> rfl

/-- A package in Deep Night wakes. -/
theorem Dev.wakePkg_deep {d : Dev} (h : d.pwr.pkg = .deepNight) {src : Nat} (hsrc : src < 2 ^ 4) :
    (d.wakePkg src).pwr = { d.pwr with pkg := .run } ∧ (d.wakePkg src).flag MGT_STATUS.PKG_DOWN = false ∧
    (d.wakePkg src).get PWR_LAST_WAKE.SOURCE = src ∧ (d.wakePkg src).get PWR_LAST_WAKE.FROM = Pwr.deepNight.code ∧
    (d.wakePkg src).get PWR_LAST_WAKE.TICKS = d.ticks % 2 ^ 56 := by
  have heq : d.wakePkg src = ((d.lastWake src .deepNight).setPkg .run).allLanes false := if_pos h
  obtain ⟨hsource, hfrom, hticks⟩ := d.lastWake_law src hsrc
  have hpwr : (d.lastWake src .deepNight).pwr = d.pwr := rfl
  generalize d.lastWake src .deepNight = x at heq hsource hfrom hticks hpwr
  obtain ⟨hrun, -, hdown⟩ := x.setPkg_law .run
  have hget (f : Fld) (hf : f.off = PWR_LAST_WAKE.off) : (x.setPkg .run).get f = x.get f :=
    Dev.get_setPkg x .run f (hf ▸ by decide) (hf ▸ by decide)
  rw [heq]
  generalize x.setPkg .run = y at hrun hdown hget ⊢
  refine ⟨?_, ?_, ?_, ?_, ?_⟩
  · rw [Dev.pwr_allLanes, hrun, hpwr]
  · rw [Dev.flag, Dev.get_allLanes]
    exact hdown
  · rw [Dev.get_allLanes, hget _ rfl, hsource]
  · rw [Dev.get_allLanes, hget _ rfl, hfrom]
  · rw [Dev.get_allLanes, hget _ rfl, hticks]

theorem Dev.wakePkg_awake {d : Dev} (h : d.pwr.pkg ≠ .deepNight) (src : Nat) : d.wakePkg src = d := if_neg h

/-- A die pair that is woken: from Night to Run. -/
theorem Dev.pmu_wakeDp (d : Dev) (now src q p : Nat) :
    (p = q → ((d.wakeDp now src q).pmu p).pwr = if (d.pmu p).pwr = .night then .run else (d.pmu p).pwr) ∧
    (p ≠ q → (d.wakeDp now src q).pmu p = d.pmu p) := by
  have hpmu (e : Dev) (left : Pwr) (k : Nat) : (e.lastWake src left).pmu k = e.pmu k := rfl
  unfold Dev.wakeDp
  refine ⟨fun h => ?_, fun h => ?_⟩
  · subst h
    split
    next hnight => rw [hpmu, Dev.pmu_onPmu_same]
    next hnight => rfl
  · split
    · rw [hpmu, Dev.pmu_onPmu_other _ _ _ _ h]
    · rfl

/-- Waking a die pair changes its PMU and PWR_LAST_WAKE. -/
theorem Dev.wakeDp_rest (d : Dev) (now src q : Nat) : (d.wakeDp now src q).pwr.pkg = d.pwr.pkg ∧
    ∀ f : Fld, f.off ≠ PWR_LAST_WAKE.off → (d.wakeDp now src q).get f = d.get f := by
  unfold Dev.wakeDp
  split
  · exact ⟨rfl, fun f hf => (Dev.get_lastWake _ _ _ _ hf).trans (Dev.get_onPmu _ _ _ _)⟩
  · exact ⟨rfl, fun _ _ => rfl⟩

/-- The die pairs a mask names wake. -/
def Dev.wakeMasked (d : Dev) (now mask : Nat) : Dev :=
  diePairs.foldl (fun d p => if maskAllows mask p then d.wakeDp now 1 p else d) d

theorem Dev.wakeMasked_law (d : Dev) (now mask : Nat) : (d.wakeMasked now mask).pwr.pkg = d.pwr.pkg ∧
    (∀ f : Fld, f.off ≠ PWR_LAST_WAKE.off → (d.wakeMasked now mask).get f = d.get f) ∧
    (∀ p < 8, maskAllows mask p = true → ((d.wakeMasked now mask).pmu p).pwr =
      if (d.pmu p).pwr = .night then .run else (d.pmu p).pwr) ∧
    ∀ p < 8, maskAllows mask p = false → (d.wakeMasked now mask).pmu p = d.pmu p := by
  unfold Dev.wakeMasked
  refine ⟨?_, fun f hf => ?_, fun p hp hmask => ?_, fun p hp hmask => ?_⟩
  · refine foldl_keeps (fun x : Dev => x.pwr.pkg = d.pwr.pkg) _ (fun x q h => ?_) diePairs d rfl
    split
    · exact (x.wakeDp_rest now 1 q).1.trans h
    · exact h
  · refine foldl_keeps (fun x : Dev => x.get f = d.get f) _ (fun x q h => ?_) diePairs d rfl
    split
    · exact ((x.wakeDp_rest now 1 q).2 f hf).trans h
    · exact h
  · have hmem : p ∈ diePairs := by
      have hall : ∀ p < 8, p ∈ diePairs := by decide
      exact hall p hp
    generalize hgoal : (if (d.pmu p).pwr = .night then .run else (d.pmu p).pwr) = goal
    have hnot : goal ≠ .night := by
      rw [← hgoal]
      split
      · decide
      next h => exact h
    have hwoken (x : Dev) (h : (x.pmu p).pwr = (d.pmu p).pwr ∨ (x.pmu p).pwr = goal) :
        ((x.wakeDp now 1 p).pmu p).pwr = goal := by
      rw [(x.pmu_wakeDp now 1 p p).1 rfl]
      rcases h with h | h
      · rw [h]
        exact hgoal
      · rw [h, if_neg hnot]
    have hkept (x : Dev) (q : Nat) (h : (x.pmu p).pwr = goal) :
        ((if maskAllows mask q then x.wakeDp now 1 q else x).pmu p).pwr = goal := by
      split
      · by_cases hq : p = q
        · subst hq
          exact hwoken x (.inr h)
        · rw [(x.pmu_wakeDp now 1 q p).2 hq]
          exact h
      · exact h
    refine foldl_reaches (f := fun (x : Dev) q => if maskAllows mask q then x.wakeDp now 1 q else x)
      (I := fun x : Dev => (x.pmu p).pwr = (d.pmu p).pwr ∨ (x.pmu p).pwr = goal) (P := fun x : Dev => (x.pmu p).pwr = goal) hmem
      (fun x q h => ?_) (fun x q h => hkept x q h) (fun x h => ?_) (.inl rfl)
    · rcases h with h | h
      · by_cases hq : p = q
        · subst hq
          rw [if_pos hmask]
          exact .inr (hwoken x (.inl h))
        · refine .inl ?_
          split
          · rw [(x.pmu_wakeDp now 1 q p).2 hq]
            exact h
          · exact h
      · exact .inr (hkept x q h)
    · rw [if_pos hmask]
      exact hwoken x h
  · refine foldl_keeps (fun x : Dev => x.pmu p = d.pmu p) _ (fun x q h => ?_) diePairs d rfl
    split
    next hq =>
      have hne : p ≠ q := fun heq => ne_true_of_eq_false hmask (heq ▸ hq)
      exact ((x.pmu_wakeDp now 1 q p).2 hne).trans h
    next hq => exact h

/-- A write that asks for Run. -/
theorem Dev.toRun_law (d : Dev) (now mask : Nat) : (d.toRun now mask).pwr.entry = none ∧
    (d.toRun now mask).get PWR_STATE_REQ.STATUS = 2 ∧
    (d.pwr.pkg = .deepNight → (d.toRun now mask).pwr.pkg = .run ∧ (d.toRun now mask).flag MGT_STATUS.PKG_DOWN = false) ∧
    (d.pwr.pkg ≠ .deepNight → (d.toRun now mask).pwr.pkg = d.pwr.pkg) ∧
    (∀ p < 8, maskAllows mask p = true → ((d.toRun now mask).pmu p).pwr = if (d.pmu p).pwr = .night then .run else (d.pmu p).pwr) ∧
    ∀ p < 8, maskAllows mask p = false → (d.toRun now mask).pmu p = d.pmu p := by
  have heq : d.toRun now mask = ((d.wakePkg 1).wakeMasked now mask).entryOver 2 0 0 := rfl
  have hpmu (p : Nat) : (d.wakePkg 1).pmu p = d.pmu p := by
    by_cases h : d.pwr.pkg = .deepNight
    · rw [Dev.pmu, (Dev.wakePkg_deep h (by decide)).1]
      rfl
    · rw [Dev.wakePkg_awake h]
  obtain ⟨hpkg, hget, hwoken, hkept⟩ := (d.wakePkg 1).wakeMasked_law now mask
  rw [heq]
  generalize (d.wakePkg 1).wakeMasked now mask = x at hpkg hget hwoken hkept ⊢
  obtain ⟨hstatus, -, -, ⟨regs, hover⟩, hother⟩ := x.entryOver_law (status := 2) (reason := 0) (by decide) (by decide) 0
  have hflag : (x.entryOver 2 0 0).flag MGT_STATUS.PKG_DOWN = (d.wakePkg 1).flag MGT_STATUS.PKG_DOWN := by
    rw [Dev.flag, hother _ (by decide), hget _ (by decide), Dev.flag]
  refine ⟨by rw [hover], hstatus, fun h => ?_, fun h => ?_, fun p hp hmask => ?_, fun p hp hmask => ?_⟩
  · obtain ⟨hpwr, hdown, -⟩ := Dev.wakePkg_deep h (src := 1) (by decide)
    rw [hflag]
    refine ⟨?_, hdown⟩
    rw [hover, hpkg, hpwr]
  · rw [hover, hpkg, Dev.wakePkg_awake h]
  · have hw := hwoken p hp hmask
    rw [hpmu] at hw
    rw [hover]
    exact hw
  · have hk := hkept p hp hmask
    rw [hpmu] at hk
    rw [hover]
    exact hk

/-! ### Night and Deep Night (R410, steps 5 and 6) -/

/-- Die pairs gone into Night: those named are in it, the others' PMUs are as they were. -/
theorem Dev.nights_law (l : List Nat) (d : Dev) :
    (∀ p ∈ l, ((l.foldl (fun d p => d.nightDp p) d).pmu p).pwr = .night) ∧
    (∀ p, p ∉ l → (l.foldl (fun d p => d.nightDp p) d).pmu p = d.pmu p) ∧
    (l.foldl (fun d p => d.nightDp p) d).pwr.entry = d.pwr.entry ∧ (l.foldl (fun d p => d.nightDp p) d).regs = d.regs := by
  have hsame (x : Dev) (q : Nat) : ((x.nightDp q).pmu q).pwr = .night := by
    have h := x.pmu_onPmu_same q fun u => { u with pwr := .night, goal := none, unboundAt := none }
    exact congrArg (·.pwr) h
  have hother (x : Dev) (p q : Nat) (h : p ≠ q) : (x.nightDp q).pmu p = x.pmu p :=
    x.pmu_onPmu_other q p (fun u => { u with pwr := .night, goal := none, unboundAt := none }) h
  refine ⟨fun p hp => ?_, fun p hp => ?_, ?_, ?_⟩
  · refine foldl_reaches (f := fun (d : Dev) p => d.nightDp p) (I := fun _ => True) (P := fun x : Dev => (x.pmu p).pwr = .night) hp
      (fun _ _ _ => trivial) (fun x q h => ?_) (fun x _ => hsame x p) trivial
    by_cases hq : p = q
    · subst hq
      exact hsame x p
    · rw [hother x p q hq]
      exact h
  · induction l generalizing d with
    | nil => rfl
    | cons q l ih =>
      rw [List.mem_cons, not_or] at hp
      rw [List.foldl_cons, ih _ hp.2, hother d p q hp.1]
  · exact Dev.foldl_proj (π := fun x : Dev => x.pwr.entry) (f := fun (d : Dev) p => d.nightDp p) (fun _ _ => rfl) l d
  · exact Dev.foldl_proj (π := fun x : Dev => x.regs) (f := fun (d : Dev) p => d.nightDp p) (fun _ _ => rfl) l d

/-- Cores off and translation caches empty, before the package's state is set. -/
def Dev.emptied (d : Dev) : Dev := { d with
  core := Tbl.mapV (fun _ k => { k with pwr := .night }) d.core
  stk := Tbl.mapV (fun _ (t : Stack) => { t with cache := [] }) d.stk }

theorem Dev.stack_emptied (d : Dev) (st : Nat) : (d.emptied.stack st).cache = [] ∨ d.emptied.stack st = Stack.reset := by
  have hlook : d.emptied.stack st = ((Tbl.find d.stk st).map fun t => { t with cache := [] }).getD Stack.reset :=
    congrArg (·.getD Stack.reset) (Tbl.find_mapV (fun _ (t : Stack) => { t with cache := [] }) d.stk st)
  rw [hlook]
  cases Tbl.find d.stk st with
  | none => exact .inr rfl
  | some t => exact .inl rfl

theorem Dev.deepNight_law (d : Dev) : d.deepNight.pwr = { d.pwr with pkg := .deepNight } ∧
    d.deepNight.get PWR_STATE_REQ.STATE = Pwr.deepNight.code ∧ d.deepNight.flag MGT_STATUS.PKG_DOWN = true ∧
    (∀ st, (d.deepNight.stack st).cache = [] ∨ d.deepNight.stack st = Stack.reset) ∧ d.deepNight.stored = d.stored := by
  have heq : d.deepNight = (d.emptied.setPkg .deepNight).allLanes true := rfl
  have hpwr : d.emptied.pwr = d.pwr := rfl
  have hstored : d.emptied.stored = d.stored := rfl
  have hstack := d.stack_emptied
  rw [heq]
  generalize d.emptied = x at hpwr hstored hstack ⊢
  obtain ⟨hset, hstate, hdown⟩ := x.setPkg_law .deepNight
  have hstk : (x.setPkg .deepNight).stk = x.stk := rfl
  have hkept : (x.setPkg .deepNight).stored = x.stored := rfl
  generalize x.setPkg .deepNight = y at hset hstate hdown hstk hkept ⊢
  refine ⟨?_, ?_, ?_, fun st => ?_, ?_⟩
  · rw [Dev.pwr_allLanes, hset, hpwr]
  · rw [Dev.get_allLanes, hstate]
  · rw [Dev.flag, Dev.get_allLanes]
    exact hdown
  · have hsame : (y.allLanes true).stack st = x.stack st := congrArg (fun t => Tbl.look Stack.reset t st) hstk
    rw [hsame]
    exact hstack st
  · exact hkept.trans hstored

/-! ### Answers to an entry -/

theorem Dev.get_raise (d : Dev) (code unit sub : Nat) (sev : Sev) (l : List Nat) (who : Option (Nat × Nat)) (f : Fld) :
    (d.raise code unit sub sev l who).get f = d.get f := Dev.get_congr (Dev.raise_regs ..) f

theorem Dev.get_entryRefused (d : Dev) (e : Entry) (unit reason : Nat) (f : Fld) :
    (d.entryRefused e unit reason).get f = (d.entryOver 3 unit reason).get f := Dev.get_raise _ _ _ _ _ _ _ _

section
variable {d : Dev} {en : Entry} {u n t : Nat} {r : Option Nat} (hen : d.pwr.entry = some en)
  (hu : (en.wait.find? fun w => w.1 == u && w.2.2.isNone) = some (n, t, r)) (now : Nat)
include hen hu

theorem Dev.enterAnswer_refuse (y : Nat) : d.enterAnswer now u (.refuse y) =
    if d.refuseWhy en = 0 then d else d.entryRefused en u (d.refuseWhy en) := by
  unfold Dev.enterAnswer
  rw [hen]
  dsimp only
  rw [hu]

theorem Dev.enterAnswer_accept : d.enterAnswer now u .accept =
    if d.refuseWhy en ≠ 0 then d
    else if (en.wait.filter (·.1 != u)).isEmpty then d.goDown { en with wait := en.wait.filter (·.1 != u) }
    else d.onPwr fun w => { w with entry := some { en with wait := en.wait.filter (·.1 != u) } } := by
  unfold Dev.enterAnswer
  rw [hen]
  dsimp only
  rw [hu]

theorem Dev.enterAnswer_delay (us : Nat) : d.enterAnswer now u (.delay us) =
    if 1000 < us ∨ 10000 < t + us then d
    else d.onPwr fun w => { w with entry := some { en with
      wait := en.wait.map fun w => if w.1 = u then (u, t + us, some (now + us * 1000)) else w } } := by
  unfold Dev.enterAnswer
  rw [hen]
  dsimp only
  rw [hu]

end

theorem Dev.goDown_night (d : Dev) {en : Entry} (h : en.req = 2) : d.goDown en =
    (diePairs.filter (bit en.dpmask)).foldl (fun d p => d.nightDp p) (d.entryOver 2 0 0) := by
  unfold Dev.goDown
  dsimp only
  rw [h]
  rfl

theorem Dev.goDown_deep (d : Dev) {en : Entry} (h : en.req = 3) : d.goDown en = (d.entryOver 2 0 0).deepNight := by
  unfold Dev.goDown
  dsimp only
  rw [h]
  rfl

theorem Dev.goDown_dark (d : Dev) {en : Entry} (h : en.req = 4) : d.goDown en = (d.entryOver 2 0 0).powerOff := by
  unfold Dev.goDown
  dsimp only
  rw [h]
  rfl

theorem mem_diePairs {p : Nat} (hp : p < 8) : p ∈ diePairs := by
  have hall : ∀ p < 8, p ∈ diePairs := by decide
  exact hall p hp

theorem Dev.enterAnswer_none {d : Dev} (h : d.pwr.entry = none) (now u : Nat) (a : EnterAnswer) : d.enterAnswer now u a = d := by
  unfold Dev.enterAnswer
  rw [h]

theorem Dev.entryLate_none {d : Dev} (h : d.pwr.entry = none) (now : Nat) : d.entryLate now = d := by
  unfold Dev.entryLate
  rw [h]

theorem Dev.askAgain_none {d : Dev} (h : d.pwr.entry = none) (now u : Nat) : d.askAgain now u = d := by
  unfold Dev.askAgain
  rw [h]

/-- A block whose delay is over waits without one. -/
def askedAgain (now u : Nat) (w : Nat × Nat × Option Nat) : Nat × Nat × Option Nat :=
  match w.2.2 with
  | some t => if w.1 = u ∧ t ≤ now then (w.1, w.2.1, none) else w
  | none => w

theorem Dev.askAgain_some {d : Dev} {en : Entry} (h : d.pwr.entry = some en) (now u : Nat) : d.askAgain now u =
    d.onPwr fun w => { w with entry := some { en with wait := en.wait.map (askedAgain now u) } } := by
  unfold Dev.askAgain
  rw [h]
  rfl

theorem Dev.entryLate_some {d : Dev} {en : Entry} {u : Nat} {r : Nat × Option Nat} {l : List (Nat × Nat × Option Nat)}
    (h : d.pwr.entry = some en) (hw : en.wait = (u, r) :: l) (now : Nat) : d.entryLate now =
      if now < en.at_ + 10000000 then d else (d.entryOver 4 u 0).raise 0x0803 moduleUnit 0x02 .degraded [en.req, u] := by
  unfold Dev.entryLate
  rw [h]
  dsimp only
  rw [hw]
  rfl

/-- Has a die pair been unbound for 1 ms? -/
def Dev.longUnbound (d : Dev) (now p : Nat) : Bool :=
  match (d.pmu p).unboundAt with | some t => decide (t + 1000000 ≤ now) | none => false

theorem Dev.longUnbound_of {d : Dev} {now p t : Nat} (h : (d.pmu p).unboundAt = some t) (ht : t + 1000000 ≤ now) :
    d.longUnbound now p = true := by
  unfold Dev.longUnbound
  rw [h]
  exact decide_eq_true ht

theorem Dev.autoNight_eq (d : Dev) (now p : Nat) : d.autoNight now p =
    if d.pwr.entry.isSome || (d.pmu p).pwr != .run || d.pwr.pkg != .run || !d.unbound p || !(d.longUnbound now p || d.capPressed)
    then d else d.enter now 2 (2 ^ p) := rfl

/-- A die pair unbound long enough, or under cap pressure, enters Night by itself. -/
theorem Dev.autoNight_due {d : Dev} {now p : Nat} (hentry : d.pwr.entry = none) (hrun : (d.pmu p).pwr = .run)
    (hpkg : d.pwr.pkg = .run) (hunbound : d.unbound p = true)
    (hdue : d.capPressed = true ∨ ∃ t, (d.pmu p).unboundAt = some t ∧ t + 1000000 ≤ now) :
    d.autoNight now p = d.enter now 2 (2 ^ p) := by
  have hgo : (d.longUnbound now p || d.capPressed) = true := by
    rcases hdue with h | ⟨t, ht, hle⟩
    · rw [h, Bool.or_true]
    · rw [Dev.longUnbound_of ht hle, Bool.true_or]
  rw [Dev.autoNight_eq, hentry, hrun, hpkg, hunbound, hgo]
  rfl

theorem Dev.autoNight_bound {d : Dev} {p : Nat} (h : d.unbound p = false) (now : Nat) : d.autoNight now p = d := by
  rw [Dev.autoNight_eq, h, Bool.not_false, Bool.or_true, Bool.true_or]
  rfl

/-- A block refuses only for a reason of Table 13-3. -/
theorem Dev.refuseWhy_lt (d : Dev) (e : Entry) : d.refuseWhy e < 2 ^ 4 := by
  unfold Dev.refuseWhy
  dsimp only
  repeat' split
  all_goals decide

/-! ### The input (R522) -/

theorem Dev.seeVin_law (d : Dev) (mv : Nat) : (∃ regs, d.seeVin mv = { d with regs := regs, mod := { d.mod with vinMv := mv } }) ∧
    (d.pwr.pkg ≠ .dark → (d.seeVin mv).get PWR_INPUT.VIN = min 65535 (mv / 10)) := by
  unfold Dev.seeVin
  refine ⟨?_, fun h => ?_⟩
  · split
    · exact ⟨_, rfl⟩
    · exact ⟨_, rfl⟩
  · rw [if_neg h, Dev.get_onMod, Dev.get_set_same _ _ _ (by decide)]
    exact Nat.mod_eq_of_lt (by simp only [PWR_INPUT.VIN]; omega)

/-- The input stage opens. -/
def Dev.inputOpened (d : Dev) (mv : Nat) : Dev :=
  ((d.seeVin mv).onMod fun m => { m with inputOn := false }).onPwr fun w => { w with lockout := true }

theorem Dev.pkg_inputOpened (d : Dev) (mv : Nat) : (d.inputOpened mv).pwr.pkg = d.pwr.pkg := by
  obtain ⟨⟨regs, hsee⟩, -⟩ := d.seeVin_law mv
  unfold Dev.inputOpened
  rw [hsee]
  rfl

theorem Dev.inputLockout_dark {d : Dev} {mv : Nat} (hout : ¬(44000 ≤ mv ∧ mv ≤ 60000)) (hdark : d.pwr.pkg = .dark) (now : Nat) :
    d.inputLockout now mv = d.inputOpened mv :=
  (if_neg hout).trans (if_pos ((d.pkg_inputOpened mv).trans hdark))

theorem Dev.inputLockout_up {d : Dev} {mv : Nat} (hout : ¬(44000 ≤ mv ∧ mv ≤ 60000)) (hup : d.pwr.pkg ≠ .dark) (now : Nat) :
    d.inputLockout now mv = ({ (d.inputOpened mv).reportNow now 0x0809 moduleUnit 0x02 .contained [mv] true with
      alm := { ((d.inputOpened mv).reportNow now 0x0809 moduleUnit 0x02 .contained [mv] true).alm with
        lastWrite := now } }).powerOff :=
  (if_neg hout).trans (if_neg fun h => hup ((d.pkg_inputOpened mv).symm.trans h))

/-- The excursion is noted, with a record the first time. -/
def Dev.rangeNoted (d : Dev) (mv : Nat) : Dev :=
  if (48000 ≤ mv ∧ mv ≤ 58000) ∨ d.pwr.rangeRec ∨ d.pwr.pkg = Pwr.dark then d
  else (d.onPwr fun w => { w with rangeRec := true }).raise 0x0809 moduleUnit 0x02 .info [mv]

theorem Dev.rangeNoted_law (d : Dev) {mv : Nat} (hout : ¬(48000 ≤ mv ∧ mv ≤ 58000)) (hup : d.pwr.pkg ≠ .dark) :
    (d.rangeNoted mv).pwr.rangeRec = true ∧ (d.rangeNoted mv).mod = d.mod ∧ (∀ f, (d.rangeNoted mv).get f = d.get f) ∧
    (d.pwr.rangeRec = true → (d.rangeNoted mv).ras = d.ras) ∧
    (d.pwr.rangeRec = false → ∃ b, (d.rangeNoted mv).ras.box = d.ras.box ++ [b] ∧ b.code = 0x0809 ∧ b.detail = [mv]) := by
  cases hrec : d.pwr.rangeRec with
  | true =>
    have heq : d.rangeNoted mv = d := if_pos (.inr (.inl hrec))
    rw [heq]
    exact ⟨hrec, rfl, fun _ => rfl, fun _ => rfl, fun h => absurd h (by decide)⟩
  | false =>
    have heq : d.rangeNoted mv = (d.onPwr fun w => { w with rangeRec := true }).raise 0x0809 moduleUnit 0x02 .info [mv] :=
      if_neg fun h => h.elim hout fun h => h.elim (ne_true_of_eq_false hrec) hup
    rw [heq]
    exact ⟨rfl, rfl, fun f => (Dev.get_raise _ _ _ _ _ _ _ f).trans (Dev.get_onPwr d _ f), fun h => absurd h (by decide),
      fun _ => ⟨_, rfl, rfl, rfl⟩⟩

/-! ### The obligation -/

/-- Settles O48: entries are asked for, answered and timed out, wakes bring the package back, and the input's range is watched. -/
theorem powerStatesChange : Obligations.PowerStatesChange := by
  intro s d asks
  refine ⟨fun path hmay => ⟨fun hentry htrip => ⟨fun mask hmask => ?_, ?_, ?_, fun mask => ?_⟩, fun hbusy mask => ?_⟩,
    fun p => ⟨fun hentry hrun hpkg hunbound hdue => ?_, fun hbound => ?_⟩, fun hnone => ?_, fun en hen => ?_, ?_, fun mv => ?_⟩
  · have heq := Dev.stateReq_idle hmay hentry htrip s.now 2 (mask % 256) fun d =>
      if mask % 256 = 0 then d.entryOver 2 0 0 else d.enter s.now 2 (mask % 256)
    exact answers_of_eq rfl (heq.trans (if_neg hmask)) (Dev.asks_law (by decide) s.now (mask % 256) (mask % 256))
  · have heq := Dev.stateReq_idle hmay hentry htrip s.now 3 (d.get PWR_STATE_REQ.DPMASK) fun d => d.enter s.now 3 0
    exact answers_of_eq rfl heq (Dev.asks_law (by decide) s.now (d.get PWR_STATE_REQ.DPMASK) 0)
  · have heq := Dev.stateReq_idle hmay hentry htrip s.now 4 (d.get PWR_STATE_REQ.DPMASK) fun d => d.enter s.now 4 0
    exact answers_of_eq rfl heq (Dev.asks_law (by decide) s.now (d.get PWR_STATE_REQ.DPMASK) 0)
  · have heq := Dev.stateReq_idle hmay hentry htrip s.now 0 (mask % 256) fun d => d.toRun s.now (mask % 256)
    obtain ⟨⟨regs, hasked⟩, -⟩ := d.asked_law (req := 0) (by decide) (mask % 256)
    have hlaw := (d.asked 0 (mask % 256)).toRun_law s.now (mask % 256)
    rw [hasked] at heq hlaw
    exact answers_of_eq rfl heq hlaw
  · exact ⟨leads_of_eq rfl (Dev.stateReq_busy hmay hbusy _ _ _ _), leads_of_eq rfl (Dev.stateReq_busy hmay hbusy _ _ _ _),
      leads_of_eq rfl (Dev.stateReq_busy hmay hbusy _ _ _ _), leads_of_eq rfl (Dev.stateReq_busy hmay hbusy _ _ _ _)⟩
  · obtain ⟨hstatus, hpwr, hcore, -⟩ := d.enter_law s.now 2 (2 ^ p)
    exact answers_of_eq rfl (Dev.autoNight_due hentry hrun hpkg hunbound hdue) ⟨hstatus, hcore, congrArg (·.entry) hpwr⟩
  · exact leads_of_eq rfl (Dev.autoNight_bound hbound s.now)
  · exact ⟨leads_of_eq rfl (Dev.entryLate_none hnone _), fun u a => ⟨leads_of_eq rfl (Dev.enterAnswer_none hnone _ _ _),
      leads_of_eq rfl (Dev.askAgain_none hnone _ _)⟩⟩
  · refine ⟨fun u n t r hu => ?_, fun u => ?_, fun u r l hw => ⟨fun hearly => ?_, fun hlate => ?_⟩⟩
    · intro left
      have hrefuse := Dev.enterAnswer_refuse hen hu s.now
      have hdelay := Dev.enterAnswer_delay hen hu s.now
      refine ⟨fun hwhy => ⟨leads_of_eq rfl ((Dev.enterAnswer_accept hen hu s.now).trans (if_pos hwhy)), fun y => ?_⟩, fun hwhy => ?_,
        fun us hshort hfew => ?_, fun us hlong => leads_of_eq rfl ((hdelay us).trans (if_pos hlong))⟩
      · obtain ⟨hstatus, hunit, hreason, -⟩ := d.entryOver_law (status := 3) (by decide) (d.refuseWhy_lt en) u
        exact answers_of_eq rfl ((hrefuse y).trans (if_neg hwhy))
          ⟨rfl, (Dev.get_entryRefused _ _ _ _ _).trans hstatus, (Dev.get_entryRefused _ _ _ _ _).trans hunit,
            (Dev.get_entryRefused _ _ _ _ _).trans hreason, rfl, rfl, _, rfl, rfl, rfl⟩
      · have haccept := (Dev.enterAnswer_accept hen hu s.now).trans (if_neg (not_not.mpr hwhy))
        refine ⟨fun y => leads_of_eq rfl ((hrefuse y).trans (if_pos hwhy)), fun hmore => ?_, fun hlast hreq => ?_,
          fun hlast hreq => ?_, fun hlast hreq => ?_⟩
        · exact leads_of_eq rfl (haccept.trans (if_neg (mt List.isEmpty_iff.mp hmore)))
        · have hdown := haccept.trans (if_pos (List.isEmpty_iff.mpr hlast))
          have hgo := hdown.trans (Dev.goDown_night d (en := { en with wait := left }) hreq)
          obtain ⟨hnight, hkept, hentry, hregs⟩ := Dev.nights_law (diePairs.filter (bit en.dpmask)) (d.entryOver 2 0 0)
          obtain ⟨hstatus, -⟩ := d.entryOver_law (status := 2) (reason := 0) (by decide) (by decide) 0
          refine answers_of_eq rfl hgo ⟨hentry, (Dev.get_congr hregs _).trans hstatus, fun p hp hbit => hnight p ?_,
            fun p hp hbit => hkept p ?_⟩
          · exact List.mem_filter.mpr ⟨mem_diePairs hp, hbit⟩
          · exact fun h => ne_true_of_eq_false hbit (List.mem_filter.mp h).2
        · have hdown := haccept.trans (if_pos (List.isEmpty_iff.mpr hlast))
          obtain ⟨hpwr, hstate, hflag, hstacks, hstored⟩ := (d.entryOver 2 0 0).deepNight_law
          refine answers_of_eq rfl (hdown.trans (Dev.goDown_deep d (en := { en with wait := left }) hreq))
            ⟨?_, ?_, hstate, hflag, hstacks, sameMemory_of_stored hstored⟩
          · rw [hpwr]
            rfl
          · rw [hpwr]
        · have hdown := haccept.trans (if_pos (List.isEmpty_iff.mpr hlast))
          exact leads_of_eq rfl (hdown.trans (Dev.goDown_dark d (en := { en with wait := left }) hreq))
      · exact answers_of_eq rfl ((hdelay us).trans (if_neg fun h => h.elim (Nat.not_lt.mpr hshort) (Nat.not_lt.mpr hfew)))
          ⟨_, rfl, rfl, rfl⟩
    · exact answers_of_eq rfl (Dev.askAgain_some hen _ _) ⟨_, rfl, rfl, rfl⟩
    · exact leads_of_eq rfl ((Dev.entryLate_some hen hw _).trans (if_pos hearly))
    · obtain ⟨hstatus, hunit, -⟩ := d.entryOver_law (status := 4) (reason := 0) (by decide) (by decide) u
      exact answers_of_eq rfl ((Dev.entryLate_some hen hw _).trans (if_neg (Nat.not_lt.mpr hlate)))
        ⟨rfl, (Dev.get_raise _ _ _ _ _ _ _ _).trans hstatus, (Dev.get_raise _ _ _ _ _ _ _ _).trans hunit, rfl, rfl, _, rfl, rfl⟩
  · intro woken
    refine ⟨fun hdeep => ⟨?_, fun hset hdue => ?_⟩, fun hawake => ⟨?_, ?_⟩, fun hearly => ?_⟩
    · obtain ⟨hpwr, hwoken⟩ := Dev.wakePkg_deep hdeep (src := 7) (by decide)
      exact ⟨d.wakePkg 7, rfl, congrArg (·.pkg) hpwr, hwoken⟩
    · obtain ⟨hpwr, hwoken⟩ := Dev.wakePkg_deep hdeep (src := 6) (by decide)
      exact ⟨d.wakePkg 6, leads_of_eq rfl (if_pos ⟨hset, hdue⟩), congrArg (·.pkg) hpwr, hwoken⟩
    · exact leads_of_eq rfl (Dev.wakePkg_awake hawake 7)
    · refine leads_of_eq rfl (e := d) ?_
      exact iteInduction (motive := fun e : Dev => e = d) (fun _ => Dev.wakePkg_awake hawake 6) (fun _ => rfl)
    · exact leads_of_eq rfl (if_neg fun h => Nat.not_le.mpr hearly h.2)
  · obtain ⟨⟨regs, hsee⟩, hvin⟩ := d.seeVin_law mv
    have hmod : (d.seeVin mv).mod = { d.mod with vinMv := mv } := by rw [hsee]
    have hpwr : (d.seeVin mv).pwr = d.pwr := by rw [hsee]
    have hras : (d.seeVin mv).ras = d.ras := by rw [hsee]
    refine ⟨fun hout hup => ?_, fun hlow hhigh => ?_, fun hlow hhigh => ?_, fun hout hdark => ?_, fun hout hup => ?_,
      fun hoff hlow hhigh => ?_, fun hstay => ?_⟩
    · have hrange := hvin hup
      obtain ⟨hrec, hmodSame, hget, hold, hnew⟩ := (d.seeVin mv).rangeNoted_law (mv := mv) (fun h => by omega)
        (hpwr ▸ hup)
      rw [hpwr, hras] at hold hnew
      exact ⟨d.inputRange mv, rfl, hrec, (congrArg (·.vinMv) hmodSame).trans (congrArg (·.vinMv) hmod), (hget _).trans hrange, hold,
        hnew⟩
    · exact answers_of_eq rfl (if_pos (.inl ⟨hlow, hhigh⟩)) ⟨congrArg (·.vinMv) hmod, hras⟩
    · exact leads_of_eq rfl (if_pos ⟨hlow, hhigh⟩)
    · have hopen := Dev.inputLockout_dark (d := d) (mv := mv) (by omega) hdark s.now
      refine answers_of_eq rfl hopen ⟨rfl, rfl, ?_⟩
      exact (congrArg (·.pkg) hpwr).trans hdark
    · exact ⟨_, leads_of_eq rfl (Dev.inputLockout_up (d := d) (mv := mv) (by omega) hup s.now), rfl, rfl⟩
    · have hon : (!(d.seeVin mv).mod.inputOn && decide (46000 < mv) && decide (mv < 59000)) = true := by
        rw [hmod]
        simp [hoff, hlow, hhigh]
      exact answers_of_eq rfl (if_pos hon) ⟨rfl, rfl, rfl, rfl, congrArg (·.pkg) hpwr⟩
    · refine leads_of_eq rfl (if_neg (ne_true_of_eq_false ?_))
      have hon : (d.seeVin mv).mod.inputOn = d.mod.inputOn := by rw [hmod]
      rw [hon]
      rcases hstay with h | h | h
      · rw [h]
        rfl
      · rw [decide_eq_false (Nat.not_lt.mpr h), Bool.and_false]
        rfl
      · rw [decide_eq_false (Nat.not_lt.mpr h), Bool.and_false]

end Sys2Proof.Machine
end

section
/-!
PROOFS. The stall-cycle detector, resets, the crash dump (R447 to R461), and what a record that firmware takes leaves alone.
-/

namespace Sys2Proof.Machine

/-! ### What a record that firmware takes leaves alone -/

/-- The device but for what firmware's records write: registers, the interrupts, events and notices on their way, the flash log. -/
def Dev.unreported (d : Dev) : Dev := { d with
  regs := []
  comp := { d.comp with snaps := [] }
  hif := { d.hif with intr := [] }
  fw := { d.fw with events := [] }
  mod := { d.mod with alerts := [], alertN := true }
  ras := { Ras.reset with
    resets := d.ras.resets, powerCycle := d.ras.powerCycle, sets := d.ras.sets, dump := d.ras.dump } }

theorem Dev.unreported_logFlash (d : Dev) (r : ErrRec) : (d.logFlash r).unreported = d.unreported := by
  obtain ⟨fl, dumps, snaps, h⟩ := d.logFlash_shape r
  rw [h]
  rfl

theorem Dev.unreported_flashTrim (n : Nat) (d : Dev) : (Dev.flashTrim n d).unreported = d.unreported := by
  obtain ⟨fl, dumps, snaps, h⟩ := Dev.flashTrim_shape n d
  rw [h]
  rfl

theorem Dev.unreported_notify (d : Dev) (now : Nat) (r : Option ErrRec) (l : List Nat) : (d.notify now r l).unreported = d.unreported := by
  obtain ⟨⟨regs, ev, al, an, ns, box, nseq, h⟩, -⟩ := d.notify_shape now r l
  rw [h]
  rfl

theorem Dev.unreported_received (d : Dev) (now : Nat) (r : ErrRec) (flash : Bool) :
    (d.received now r flash).unreported = d.unreported := by
  unfold Dev.received
  dsimp only
  generalize hx : (if r.noticed then _ else _) = x
  have hsame : x.unreported = d.unreported := by
    rw [← hx]
    split
    · exact Dev.unreported_notify _ now _ []
    · rfl
  split
  · exact (x.unreported_logFlash _).trans hsame
  · exact hsame

theorem Dev.unreported_errqPut (d : Dev) (now : Nat) (r : ErrRec) : (d.errqPut now r).unreported = d.unreported := by
  obtain ⟨rates, intr, h⟩ := d.errqPut_shape now r
  rw [h]
  rfl

theorem Dev.unreported_errqLose (d : Dev) (r : ErrRec) : (d.errqLose r).unreported = d.unreported := by
  obtain ⟨⟨regs, lost, crit, fl, dumps, snaps, h⟩, -⟩ := d.errqLose_shape r
  rw [h]
  rfl

/-- A record differs nothing else, and of the registers RAS_ERRQ_TAIL and RAS_ERRQ_LOST. -/
theorem Dev.report_law (d : Dev) (now : Nat) (r : ErrRec) (log : Bool) : (d.report now r log).unreported = d.unreported ∧
    ∀ f : Fld, f.off ≠ RAS_ERRQ_TAIL.off → f.off ≠ RAS_ERRQ_LOST.off → (d.report now r log).get f = d.get f := by
  have hrest := d.unreported_received now r (d.flashes r log)
  obtain ⟨-, hget⟩ := d.received_shape now r (d.flashes r log)
  rw [Dev.report_eq]
  generalize d.received now r (d.flashes r log) = x at hrest hget ⊢
  split
  · unfold Dev.errqWrite
    split
    · exact ⟨(x.unreported_errqPut now _).trans hrest, fun f ht hl => (x.errqPut_get now _ ht).trans (hget f hl)⟩
    · exact ⟨(x.unreported_errqLose _).trans hrest, fun f _ hl => ((x.errqLose_shape _).2 f hl).trans (hget f hl)⟩
  · split
    · exact ⟨hrest, fun f _ hl => hget f hl⟩
    · exact ⟨(x.unreported_errqLose _).trans hrest, fun f _ hl => ((x.errqLose_shape _).2 f hl).trans (hget f hl)⟩

theorem Dev.reportNow_law (d : Dev) (now code unit sub : Nat) (sev : Sev) (l : List Nat) (log : Bool) (who : Option (Nat × Nat)) :
    (d.reportNow now code unit sub sev l log who).unreported = d.unreported ∧
    ∀ f : Fld, f.off ≠ RAS_ERRQ_TAIL.off → f.off ≠ RAS_ERRQ_LOST.off → (d.reportNow now code unit sub sev l log who).get f = d.get f := by
  unfold Dev.reportNow
  dsimp only
  split
  next r _ =>
    obtain ⟨hrest, hget⟩ := Dev.report_law { d.raise code unit sub sev l who with ras :=
      { (d.raise code unit sub sev l who).ras with box := (d.raise code unit sub sev l who).ras.box.dropLast } } now r log
    exact ⟨hrest, fun f ht hl => (hget f ht hl).trans (d.get_raise code unit sub sev l who f)⟩
  next _ => exact ⟨rfl, fun f _ _ => d.get_raise code unit sub sev l who f⟩

/-! ### The crash dump (R458 to R460) -/

/-- What outlasts a package reset and is no register's: the Almanac, partners, the journal, resets on their way, RESET_n. -/
def Dev.outlasts (d : Dev) : Alm × Tbl Partner × List JRow × List ResetRun × Bool :=
  (d.alm, d.cxl.partners, d.lcs.journal, d.ras.resets, d.mod.resetN)

theorem Dev.of_outlasts {d : Dev} {alm : Alm} {partners : Tbl Partner} {journal : List JRow} {resets : List ResetRun} {low : Bool}
    (h : d.outlasts = (alm, partners, journal, resets, low)) :
    d.alm = alm ∧ d.cxl.partners = partners ∧ d.lcs.journal = journal ∧ d.ras.resets = resets ∧ d.mod.resetN = low := by
  simpa only [Dev.outlasts, Prod.mk.injEq] using h

theorem Dev.outlasts_of_unreported {d e : Dev} (h : e.unreported = d.unreported) : e.outlasts = d.outlasts := by
  have hall := congrArg (fun x : Dev => (x.alm, x.cxl.partners, x.lcs.journal, x.ras.resets, x.mod.resetN)) h
  exact hall

/-- A dump that is taken: its header, and VALID and PAGES. -/
def Dev.dumped (d : Dev) (h : DumpHdr) : Dev :=
  ({ d with fresh := d.fresh + 1, ras := { d.ras with dump := some h, dumps := h :: d.ras.dumps } }.set RAS_DUMP_BASE.VALID 1).set
    RAS_DUMP_BASE.PAGES h.pages

theorem Dev.dumped_law (d : Dev) {h : DumpHdr} (hpages : h.pages < 2 ^ 32) : (d.dumped h).get RAS_DUMP_BASE.VALID = 1 ∧
    (d.dumped h).get RAS_DUMP_BASE.PAGES = h.pages ∧ (d.dumped h).outlasts = d.outlasts ∧ (d.dumped h).ras.dump = some h := by
  unfold Dev.dumped
  refine ⟨?_, ?_, rfl, rfl⟩
  · rw [Dev.get_set_of_apart _ _ _ _ (by decide), Dev.get_set_same _ _ _ (by decide)]
    rfl
  · rw [Dev.get_set_same _ _ _ (by decide)]
    exact Nat.mod_eq_of_lt hpages

/-- A dump is taken, or skipped while one is held. -/
theorem Dev.dump_outlasts (d : Dev) (now level cause unit ast : Nat) : (d.dump now level cause unit ast).outlasts = d.outlasts := by
  unfold Dev.dump
  split
  · exact Dev.outlasts_of_unreported (d.reportNow_law _ _ _ _ _ _ _ _).1
  · dsimp only
    refine (Dev.outlasts_of_unreported ((Dev.unreported_flashTrim _ _).trans (Dev.reportNow_law _ _ _ _ _ _ _ _ _).1)).trans ?_
    rfl

/-- Where none is held, a dump is. -/
theorem Dev.dump_law {d : Dev} (hfree : d.flag RAS_DUMP_BASE.VALID = false) (now level cause unit ast : Nat) :
    (d.dump now level cause unit ast).flag RAS_DUMP_BASE.VALID = true ∧
    1 ≤ (d.dump now level cause unit ast).get RAS_DUMP_BASE.PAGES ∧ (d.dump now level cause unit ast).ras.dump.isSome = true := by
  obtain ⟨h, hpages, hpos, heq⟩ : ∃ h : DumpHdr, h.pages < 2 ^ 32 ∧ 1 ≤ h.pages ∧ d.dump now level cause unit ast =
      Dev.flashTrim 1024 ((d.dumped h).reportNow now 0x0A0A moduleUnit 0x00 .info [level, h.pages]) := by
    refine ⟨{ level := level, cause := cause, unit := unit, ast := ast, seq := d.ras.seq
              pages := (d.draw .choice).1 % 65536 + 1, at_ := d.ticks }, ?_, Nat.succ_pos _, ?_⟩
    · have hlt := Nat.mod_lt (d.draw .choice).1 (y := 65536) (by decide)
      simp only
      omega
    · unfold Dev.dump
      rw [if_neg (ne_true_of_eq_false hfree)]
      rfl
  obtain ⟨hvalid, hshown, -, hdump⟩ := d.dumped_law hpages
  obtain ⟨hrest, hget⟩ := (d.dumped h).reportNow_law now 0x0A0A moduleUnit 0x00 .info [level, h.pages] false none
  rw [heq]
  generalize (d.dumped h).reportNow now 0x0A0A moduleUnit 0x00 .info [level, h.pages] = x at hrest hget ⊢
  obtain ⟨fl, dumps, snaps, htrim⟩ := Dev.flashTrim_shape 1024 x
  have hregs : (Dev.flashTrim 1024 x).regs = x.regs := by rw [htrim]
  have hheld : x.ras.dump = some h := (congrArg (fun e : Dev => e.ras.dump) hrest).trans hdump
  refine ⟨?_, ?_, ?_⟩
  · rw [Dev.flag, Dev.get_congr hregs, hget _ (by decide) (by decide), hvalid]
    rfl
  · rw [Dev.get_congr hregs, hget _ (by decide) (by decide), hshown]
    exact hpos
  · rw [htrim]
    exact Option.isSome_of_eq_some hheld

/-! ### What a package reset clears (R456) -/

/-- The device but for its registers. -/
def Dev.noRegs (d : Dev) : Dev := { d with regs := [] }

theorem Dev.noRegs_set (d : Dev) (f : Fld) (v : Nat) : (d.set f v).noRegs = d.noRegs := rfl

theorem Dev.noRegs_alert (d : Dev) (a : Alert) (on : Bool) : (d.alert a on).noRegs = d.noRegs.alert a on := rfl

theorem Dev.noRegs_foldl {α : Type} {f : Dev → α → Dev} (hf : ∀ d x, (f d x).noRegs = d.noRegs) (l : List α) (d : Dev) :
    (l.foldl f d).noRegs = d.noRegs := Dev.foldl_proj (π := Dev.noRegs) hf l d

theorem Dev.noRegs_carryOver (d old : Dev) (l : List Fld) : (d.carryOver old l).noRegs = d.noRegs := by
  unfold Dev.carryOver
  rw [Dev.noRegs_foldl]
  intro e f
  split
  · rfl
  · exact e.noRegs_set _ _

theorem Dev.noRegs_fillSlots (d : Dev) (s : Nat) : (d.fillSlots s).noRegs = d.noRegs := by
  unfold Dev.fillSlots
  dsimp only
  rw [Dev.noRegs_foldl, Dev.noRegs_foldl]
  · exact fun e k => e.noRegs_set _ _
  · intro e x
    split
    · rw [Dev.noRegs_set, Dev.noRegs_set]
    · exact e.noRegs_set _ _

theorem Dev.noRegs_loadAge (d : Dev) (p : Nat) : (d.loadAge p).noRegs = d.noRegs := by
  unfold Dev.loadAge
  dsimp only
  split
  · rfl
  · rw [Dev.noRegs_foldl]
    intro e k
    rw [Dev.noRegs_set, Dev.noRegs_set, Dev.noRegs_set]

/-- The package's tables as a bring-up finds them, before registers are carried over. -/
def Dev.cleared (d : Dev) (cold : Bool) : Dev :=
  let r := d.ras
  { d with
    regs := [], core := [], mem := [], lost := [], slice := [], sweeps := []
    stk := Tbl.mapV (fun _ t => t.restart cold) d.stk
    net := { Network.reset with bridges := Tbl.mapV (fun _ b => b.restart) d.net.bridges }
    comp := { Comp.reset with
      snaps := d.comp.snaps, snapAt := d.comp.snapAt, sliceOut := d.comp.sliceOut, sliceIn := d.comp.sliceIn }
    hif := { Hif.reset with
      cq := d.hif.cq, fr := d.hif.fr, mcq := d.hif.mcq, submitted := d.hif.submitted, intr := d.hif.intr }
    pwr := { Power.reset with lockout := d.pwr.lockout, rangeRec := d.pwr.rangeRec }
    cxl := { Cxl.reset with partners := if cold then [] else d.cxl.partners, answers := d.cxl.answers }
    ras := if cold then { Ras.reset with ring := r.ring, flash := r.flash, dumps := r.dumps, noticeBox := r.noticeBox }
      else { r with lost := 0, critLost := 0, overflow := false, rates := [], sets := [], noProg := [] }
    lcs := { d.lcs with sessions := [], negotiated := [], loads := [], token := [] } }

/-- Registers, and the alert of the cap's floor, are all that is put back. -/
theorem Dev.noRegs_pkgClear (d : Dev) (cold : Bool) : (d.pkgClear cold).noRegs = ((d.cleared cold).alert .belowFloor false).noRegs := by
  have hkept : (if cold then d.cleared cold else (d.cleared cold).carryOver d (pkgSurvivors ++ allStacks.map STK_KEYSTAT.DEV_VALID)).noRegs =
      (d.cleared cold).noRegs := by
    split
    · rfl
    · exact Dev.noRegs_carryOver _ _ _
  have heq : d.pkgClear cold = (diePairs.foldl (fun n p => n.loadAge p) (allStacks.foldl (fun n s =>
      (n.carryOver d (repairFields s)).fillSlots s) (if cold then d.cleared cold else
        (d.cleared cold).carryOver d (pkgSurvivors ++ allStacks.map STK_KEYSTAT.DEV_VALID)))).alert .belowFloor false := rfl
  rw [heq]
  generalize (if cold then d.cleared cold else
    (d.cleared cold).carryOver d (pkgSurvivors ++ allStacks.map STK_KEYSTAT.DEV_VALID)) = x at hkept ⊢
  rw [Dev.noRegs_alert, Dev.noRegs_alert, Dev.noRegs_foldl fun n p => n.noRegs_loadAge p, Dev.noRegs_foldl fun n s =>
    (Dev.noRegs_fillSlots _ s).trans (n.noRegs_carryOver d _), hkept]

/-- A device with no asterism data: memories, cores, sweeps, the host interface's tables and the asterisms are empty. -/
structure Dev.Blank (d : Dev) : Prop where
  mem : d.mem = []
  slice : d.slice = []
  core : d.core = []
  sweeps : d.sweeps = []
  ctxs : d.hif.ctxs = []
  queues : d.hif.queues = []
  objs : d.hif.objs = []
  asts : d.comp.asts = []

theorem Dev.blank_cleared (d : Dev) (cold : Bool) : (d.cleared cold).Blank := ⟨rfl, rfl, rfl, rfl, rfl, rfl, rfl, rfl⟩

theorem Dev.outlasts_cleared (d : Dev) : (d.cleared false).outlasts = d.outlasts := rfl

theorem Dev.alert_law (d : Dev) (a : Alert) (on : Bool) : (d.alert a on).outlasts = d.outlasts ∧ (d.Blank → (d.alert a on).Blank) :=
  ⟨rfl, fun h => ⟨h.1, h.2, h.3, h.4, h.5, h.6, h.7, h.8⟩⟩

theorem Dev.noRegs_law {d e : Dev} (h : e.noRegs = d.noRegs) : e.outlasts = d.outlasts ∧ (d.Blank → e.Blank) := by
  have houtlasts := congrArg (fun e : Dev => e.outlasts) h
  have hmem := congrArg (fun e : Dev => e.mem) h
  have hslice := congrArg (fun e : Dev => e.slice) h
  have hcore := congrArg (fun e : Dev => e.core) h
  have hsweeps := congrArg (fun e : Dev => e.sweeps) h
  have hhif := congrArg (fun e : Dev => e.hif) h
  have hasts := congrArg (fun e : Dev => e.comp.asts) h
  exact ⟨houtlasts, fun hb => ⟨hmem.trans hb.mem, hslice.trans hb.slice, hcore.trans hb.core, hsweeps.trans hb.sweeps,
    (congrArg (·.ctxs) hhif).trans hb.ctxs, (congrArg (·.queues) hhif).trans hb.queues, (congrArg (·.objs) hhif).trans hb.objs,
    hasts.trans hb.asts⟩⟩

/-- A package reset leaves no asterism data, and what outlasts it. -/
theorem Dev.pkgClear_law (d : Dev) : (d.pkgClear false).Blank ∧ (d.pkgClear false).outlasts = d.outlasts := by
  obtain ⟨houtlasts, hblank⟩ := Dev.noRegs_law (d.noRegs_pkgClear false)
  obtain ⟨halert, hstill⟩ := (d.cleared false).alert_law .belowFloor false
  exact ⟨hblank (hstill (d.blank_cleared false)), houtlasts.trans (halert.trans d.outlasts_cleared)⟩

/-- The package reset's first steps, after its record and its dump. -/
def Dev.pkgCleared (d : Dev) (cause : Nat) : Dev :=
  ((((d.sat RAS_RESET_STATUS.PKG_RESETS 1).pkgClear false).resetStatus 5 cause).pkgStep 4).atStep 5

/-- A level 5 reset's step is noted. -/
def ResetRun.stepTo (n : Nat) (r : ResetRun) : ResetRun := if r.level = 5 then { r with step := n } else r

theorem Dev.set_law (d : Dev) (f : Fld) (v : Nat) : (d.set f v).outlasts = d.outlasts ∧ (d.Blank → (d.set f v).Blank) :=
  Dev.noRegs_law (d.noRegs_set f v)

theorem Dev.pkgStep_law (d : Dev) (n : Nat) : (d.pkgStep n).outlasts =
    (d.alm, d.cxl.partners, d.lcs.journal, d.ras.resets.map (ResetRun.stepTo n), d.mod.resetN) ∧ (d.Blank → (d.pkgStep n).Blank) :=
  ⟨rfl, fun h => ⟨h.1, h.2, h.3, h.4, h.5, h.6, h.7, h.8⟩⟩

theorem Dev.onFw_law (d : Dev) (f : Fw → Fw) : (d.onFw f).outlasts = d.outlasts ∧ (d.Blank → (d.onFw f).Blank) :=
  ⟨rfl, fun h => ⟨h.1, h.2, h.3, h.4, h.5, h.6, h.7, h.8⟩⟩

theorem Dev.pkgCleared_law (d : Dev) (cause : Nat) : (d.pkgCleared cause).Blank ∧ (d.pkgCleared cause).outlasts =
    (d.alm, d.cxl.partners, d.lcs.journal, d.ras.resets.map (ResetRun.stepTo 4), d.mod.resetN) := by
  obtain ⟨hblank, hclear⟩ := (d.sat RAS_RESET_STATUS.PKG_RESETS 1).pkgClear_law
  have hstart := hclear.trans (d.set_law RAS_RESET_STATUS.PKG_RESETS _).1
  have heq : d.pkgCleared cause = (((((d.sat RAS_RESET_STATUS.PKG_RESETS 1).pkgClear false).resetStatus 5 cause).pkgStep 4).onFw
    fun f => { f with bootStep := 5 }).set MGT_BOOT_STATUS.STAGE 5 := rfl
  rw [heq]
  generalize (d.sat RAS_RESET_STATUS.PKG_RESETS 1).pkgClear false = x at hblank hstart ⊢
  have hstatus : (x.resetStatus 5 cause).outlasts = d.outlasts ∧ (x.resetStatus 5 cause).Blank := by
    obtain ⟨h1, hb1⟩ := x.set_law RAS_RESET_STATUS.LEVEL 5
    obtain ⟨h2, hb2⟩ := (x.set RAS_RESET_STATUS.LEVEL 5).set_law RAS_RESET_STATUS.CAUSE cause
    exact ⟨h2.trans (h1.trans hstart), hb2 (hb1 hblank)⟩
  generalize x.resetStatus 5 cause = y at hstatus ⊢
  obtain ⟨hlasts, hb⟩ := hstatus
  obtain ⟨h3, hb3⟩ := y.pkgStep_law 4
  obtain ⟨h4, hb4⟩ := (y.pkgStep 4).onFw_law fun f => { f with bootStep := 5 }
  obtain ⟨h5, hb5⟩ := ((y.pkgStep 4).onFw fun f => { f with bootStep := 5 }).set_law MGT_BOOT_STATUS.STAGE 5
  refine ⟨hb5 (hb4 (hb3 hb)), h5.trans (h4.trans (h3.trans ?_))⟩
  obtain ⟨halm, hpartners, hjournal, hresets, hlow⟩ := Dev.of_outlasts hlasts
  rw [halm, hpartners, hjournal, hresets, hlow]

/-- A package reset asked for by RESET_n low, with no other on its way. -/
def Dev.lowAsked (d : Dev) (now unit : Nat) : Dev :=
  let low := d.onMod fun m => { m with resetN := false }
  { low with ras := { low.ras with resets := [⟨5, unit, 0, now, 0⟩] } }

theorem Dev.outlasts_lowAsked (d : Dev) (now unit : Nat) : (d.lowAsked now unit).outlasts =
    (d.alm, d.cxl.partners, d.lcs.journal, [⟨5, unit, 0, now, 0⟩], false) := rfl

/-- The package reset is recorded and, where it is enabled, dumped. -/
def Dev.toldReset (d : Dev) (now cause unit : Nat) : Dev :=
  let d := d.reportNow now 0x0A05 moduleUnit 0x00 .fatal [cause, unit]
  if d.flag RAS_DUMP_BASE.EN then d.dump now 5 cause unit 0 else d

theorem Dev.outlasts_toldReset (d : Dev) (now cause unit : Nat) : (d.toldReset now cause unit).outlasts = d.outlasts := by
  have htold := Dev.outlasts_of_unreported (d.reportNow_law now 0x0A05 moduleUnit 0x00 .fatal [cause, unit] false none).1
  unfold Dev.toldReset
  generalize d.reportNow now 0x0A05 moduleUnit 0x00 .fatal [cause, unit] = x at htold ⊢
  dsimp only
  split
  · exact (x.dump_outlasts _ _ _ _ _).trans htold
  · exact htold

theorem Dev.pkgRun_eq {d : Dev} {r : ResetRun} {cause unit : Nat} (hcause : r.cause = cause) (hunit : r.unit = unit) (hr : (d.ras.resets.find? fun r => r.level == 5 && r.step == 0) = some r) (now : Nat)
    (bad : List Nat) : d.pkgRun now bad =
      if ((d.toldReset now cause unit).pkgCleared cause).mod.resetN then
        ((d.toldReset now cause unit).pkgCleared cause).pkgUp now bad
      else (d.toldReset now cause unit).pkgCleared cause := by
  subst hcause hunit
  unfold Dev.pkgRun Dev.pkgCleared Dev.toldReset
  simp only [hr]

theorem Dev.pkgReset_eq {d : Dev} (hmay : d.mayReset = true) (hresets : d.ras.resets = []) (now : Nat) (bad : List Nat) :
    d.pkgReset now true bad = (d.lowAsked now moduleUnit).pkgRun now bad := by
  have hlow : (d.onMod fun m => { m with resetN := false }).mayReset = true := hmay
  have hasked := Dev.requestReset_of_none (d := d.onMod fun m => { m with resetN := false }) hresets now moduleUnit 0
  unfold Dev.pkgReset Dev.lowAsked
  generalize moduleUnit = unit at hasked ⊢
  generalize (d.onMod fun m => { m with resetN := false }) = x at hlow hasked ⊢
  simp only [if_true, hlow, Bool.not_true, Bool.false_eq_true, if_false, hasked]

theorem Dev.pkgRun_lowAsked (d : Dev) (now unit : Nat) (bad : List Nat) :
    ((d.lowAsked now unit).pkgRun now bad).Blank ∧ ((d.lowAsked now unit).pkgRun now bad).outlasts =
      (d.alm, d.cxl.partners, d.lcs.journal, [(⟨5, unit, 0, now, 0⟩ : ResetRun).stepTo 4], false) := by
  have hlasts := ((d.lowAsked now unit).outlasts_toldReset now 0 unit).trans (d.outlasts_lowAsked now unit)
  have hfind : ((d.lowAsked now unit).ras.resets.find? fun r => r.level == 5 && r.step == 0) = some ⟨5, unit, 0, now, 0⟩ := rfl
  rw [Dev.pkgRun_eq rfl rfl hfind]
  generalize (d.lowAsked now unit).toldReset now 0 unit = x at hlasts ⊢
  obtain ⟨halm, hpartners, hjournal, hreset, hlow⟩ := Dev.of_outlasts hlasts
  obtain ⟨hblank, hcleared⟩ := x.pkgCleared_law 0
  rw [halm, hpartners, hjournal, hreset, hlow, List.map_singleton] at hcleared
  generalize x.pkgCleared 0 = e at hblank hcleared ⊢
  have hstay : e.mod.resetN = false := (Dev.of_outlasts hcleared).2.2.2.2
  rw [if_neg (ne_true_of_eq_false hstay)]
  exact ⟨hblank, hcleared⟩

/-- RESET_n low on a module that may be reset, with no reset on its way: the package is cleared, and waits at its step 4. -/
theorem Dev.pkgReset_low {d : Dev} (hmay : d.mayReset = true) (hresets : d.ras.resets = []) (now : Nat) (bad : List Nat) :
    (d.pkgReset now true bad).Blank ∧ (d.pkgReset now true bad).outlasts =
      (d.alm, d.cxl.partners, d.lcs.journal, [(⟨5, moduleUnit, 0, now, 0⟩ : ResetRun).stepTo 4], false) := by
  rw [Dev.pkgReset_eq hmay hresets]
  exact d.pkgRun_lowAsked now moduleUnit bad

/-! ### The stall-cycle detector (R447 to R449) -/

/-- One deadlocked set, where it is recorded or known. -/
theorem Dev.hangCycle_one {d : Dev} {now : Nat} {set : List Nat} (hen : d.flag RAS_HANG_CTRL.EN = true)
    (hset : d.deadSets now = [set]) : d.hangCycle now =
      { d.deadSet now (d.parked now) set with ras := { (d.deadSet now (d.parked now) set).ras with sets := [set] } } := by
  unfold Dev.hangCycle
  rw [hen, hset]
  rfl

/-- The record of a deadlocked set. -/
def Dev.setNoted (d : Dev) (p : Parked) (set : List Nat) (act : Bool) : Dev :=
  (d.sat RAS_HANG_STATUS.SETS 1).raise 0x0A01 (svcUnit (d.home p.ast)) 0x00 (if act then .contained else .info)
    (p.ast :: listItem 32 set ++ [p.queue]) (some (p.ast, p.ctx))

theorem Dev.deadSet_eq {d : Dev} {now : Nat} {l : List Parked} {set : List Nat} {p : Parked} (hp : latestOf l set = some p) :
    d.deadSet now l set =
      if !d.flag RAS_HANG_CTRL.ACTION && d.ras.sets.contains set then d
      else if d.flag RAS_HANG_CTRL.ACTION then
        ((((d.setNoted p set (d.flag RAS_HANG_CTRL.ACTION)).sat RAS_HANG_STATUS.BROKEN 1).onCmd p.id fun m =>
          { m with err := 0x0A01 }).unpark now p.id .aborted true).afterHead now p.queue
      else d.setNoted p set (d.flag RAS_HANG_CTRL.ACTION) := by
  unfold Dev.deadSet
  rw [hp]
  rfl

/-! ### Stack, service and asterism resets (R453 to R455) -/

theorem Dev.stackReset_some {d : Dev} {st : Nat} {r : ResetRun} (h : d.resetOf 2 st = some r) (now : Nat) : d.stackReset now st =
    (((((d.fenceInside now st).sweepsEnd now st).onStack st Stack.reboot).notes [.reset st]).resetOver r).raise 0x0A08 (stackUnit st)
      0x02 .contained [st, r.cause] := by
  unfold Dev.stackReset
  rw [h]

theorem Dev.stackReset_none {d : Dev} {st : Nat} (h : d.resetOf 2 st = none) (now : Nat) : d.stackReset now st = d := by
  unfold Dev.stackReset
  rw [h]

theorem Dev.serviceReset_some {d : Dev} {p : Nat} {r : ResetRun} (h : d.resetOf 3 p = some r) (now : Nat) : d.serviceReset now p =
    ((((List.range 672).map (p * 672 + ·)).foldl (fun d c => Dev.serviceCore d now c) d).resetOver r).raise 0x0A09 (svcUnit p) 0x00
      .contained [p, r.cause, (((List.range 672).map (p * 672 + ·)).filter fun c => (d.coreAt c).tile.isSome).length] := by
  unfold Dev.serviceReset
  rw [h]

theorem Dev.serviceReset_none {d : Dev} {p : Nat} (h : d.resetOf 3 p = none) (now : Nat) : d.serviceReset now p = d := by
  unfold Dev.serviceReset
  rw [h]

theorem Dev.astReset_none {d : Dev} {a : Nat} (h : d.resetOf 4 a = none) (now : Nat) (rest : List Line) : d.astReset now a rest = d := by
  unfold Dev.astReset
  rw [h]

theorem Dev.astReset_some {d : Dev} {a : Nat} {r : ResetRun} (h : d.resetOf 4 a = some r) (now : Nat) (rest : List Line) :
    d.astReset now a rest =
      if !(d.ast a).state.hosts && (d.ast a).state != .resetting then d.resetOver r
      else if (d.astResetting a).comp.waiting.any fun p => p.ast == a then d.astResetting a
      else
        let x := (d.astResetting a).astCores now a
        let l := (x.hif.ctxs.filter fun e => e.2.ast == a).map (·.1)
        (((l.foldl (fun p x => Dev.astCtx now a p x) (x, rest)).1).astFaults now a).astResetDone now a l.length r := by
  unfold Dev.astReset
  rw [h]

/-- A reset's first step: the asterism is RESETTING and its functions' TDIs in ERROR. -/
theorem Dev.astResetting_law (d : Dev) (a : Nat) : ((d.astResetting a).ast a).state = .resetting ∧
    (∀ f ∈ d.functions a, ((d.astResetting a).fn f).tdi = .error) ∧ (∀ c, c ≠ a → (d.astResetting a).ast c = d.ast c) ∧
    (d.astResetting a).ras = d.ras ∧ (d.astResetting a).core = d.core ∧ (d.astResetting a).comp.waiting = d.comp.waiting := by
  let failed (d : Dev) (f : Nat) : Dev := d.onFn f fun n => { n with tdi := .error }
  have hfns : ∀ f ∈ d.functions a, (((d.functions a).foldl failed d).fn f).tdi = .error := fun f hf =>
    foldl_reaches (f := failed) (I := fun _ => True) (P := fun x : Dev => (x.fn f).tdi = .error) hf (fun _ _ _ => trivial)
      (fun x g h => by
        by_cases hg : f = g
        · subst hg
          exact congrArg (·.tdi) (x.fn_onFn_same f _)
        · exact (congrArg (·.tdi) (x.fn_onFn_other g f _ hg)).trans h)
      (fun x _ => congrArg (·.tdi) (x.fn_onFn_same f _)) trivial
  have hcomp : ((d.functions a).foldl failed d).comp = d.comp := Dev.foldl_proj (π := fun x : Dev => x.comp) (f := failed) (fun _ _ => rfl) _ d
  have hras : ((d.functions a).foldl failed d).ras = d.ras := Dev.foldl_proj (π := fun x : Dev => x.ras) (f := failed) (fun _ _ => rfl) _ d
  have hcore : ((d.functions a).foldl failed d).core = d.core := Dev.foldl_proj (π := fun x : Dev => x.core) (f := failed) (fun _ _ => rfl) _ d
  have heq : d.astResetting a = ((d.functions a).foldl failed d).onAst a fun x => { x with state := .resetting } := rfl
  rw [heq]
  generalize (d.functions a).foldl failed d = x at hfns hcomp hras hcore ⊢
  have hast (c : Nat) : x.ast c = d.ast c := congrArg (fun t : Comp => Tbl.look Ast.reset t.asts c) hcomp
  refine ⟨congrArg (·.state) (x.ast_onAst_same a _), hfns, fun c hc => (x.ast_onAst_other a c _ hc).trans (hast c), hras, hcore,
    congrArg (·.waiting) hcomp⟩

/-! ### RAS_RESET_CTRL, power cycles and dumps released (R451, R457, R460) -/

theorem Dev.requestReset_idle {d : Dev} (h : d.ras.resets = []) (now level unit cause : Nat) :
    (d.requestReset now level unit cause).ras.resets = [⟨level, unit, cause, now, 0⟩] ∧
    (level = 2 → ((d.requestReset now level unit cause).stack unit).ingress = false) := by
  have heq : d.requestReset now level unit cause = if level = 2 then
      ({ d with ras := { d.ras with resets := [⟨level, unit, cause, now, 0⟩] } } : Dev).onStack unit fun t => { t with ingress := false }
      else { d with ras := { d.ras with resets := [⟨level, unit, cause, now, 0⟩] } } := by
    simp [Dev.requestReset, h]
  rw [heq]
  refine ⟨?_, fun hl => ?_⟩
  · split <;> rfl
  · rw [if_pos hl]
    exact congrArg (·.ingress) (Dev.stack_onStack_same _ unit _)

/-- A write of RAS_RESET_CTRL without DUMP, where no reset runs. -/
theorem Dev.resetCtrl_idle {d : Dev} {v : Nat} (h : d.ras.resets = []) (hdump : bit v 3 = false) (now : Nat) :
    (bits v 0 3 = 2 → bits v 16 16 / 8192 = 4 → bits v 16 16 % 8192 < 32 →
      d.resetCtrl now v = d.requestReset now 2 (bits v 16 16 % 8192) 0) ∧
    (bits v 0 3 = 3 → bits v 16 16 / 8192 = 6 → bits v 16 16 % 8192 < 8 →
      d.resetCtrl now v = d.requestReset now 3 (bits v 16 16 % 8192) 0) ∧
    (bits v 0 3 = 4 → (d.ast (bits v 32 6)).state.hosts = true → d.resetCtrl now v = d.requestReset now 4 (bits v 32 6) 0) ∧
    (bits v 0 3 = 5 → d.resetCtrl now v = d.requestReset now 5 moduleUnit 0) := by
  unfold Dev.resetCtrl
  rw [h, hdump]
  refine ⟨fun hl hk hi => ?_, fun hl hk hi => ?_, fun hl hh => ?_, fun hl => ?_⟩
  · rw [hl]
    exact if_pos (And.intro hk hi)
  · rw [hl]
    exact if_pos (And.intro hk hi)
  · rw [hl]
    exact if_pos hh
  · rw [hl]
    rfl

theorem Dev.resetCtrl_busy {d : Dev} (h : d.ras.resets ≠ []) (now v : Nat) : d.resetCtrl now v = d := by
  refine if_pos ?_
  cases hr : d.ras.resets with
  | nil => exact absurd hr h
  | cons r l => rfl

/-- A dump alone. -/
theorem Dev.resetCtrl_dump {d : Dev} {v : Nat} (h : d.ras.resets = []) (hdump : bit v 3 = true) (hlevel : bits v 0 3 = 0) (now : Nat) :
    d.resetCtrl now v = d.dump now 0 0 (bits v 16 16) 0 := by
  unfold Dev.resetCtrl
  rw [h, hdump, hlevel]
  rfl

theorem Dev.dumpRelease_law (d : Dev) : d.dumpRelease.flag RAS_DUMP_BASE.VALID = false ∧ d.dumpRelease.get RAS_DUMP_BASE.PAGES = 0 ∧
    d.dumpRelease.ras.dump = none ∧ d.dumpRelease.core = d.core := by
  unfold Dev.dumpRelease Dev.flag
  refine ⟨?_, ?_, rfl, rfl⟩
  · rw [Dev.get_set_of_apart _ _ _ _ (by decide), Dev.get_set_same _ _ _ (by decide)]
    rfl
  · rw [Dev.get_set_same _ _ _ (by decide)]
    rfl

/-- A package reset that is not done at 4 s asks for power. -/
theorem Dev.wantPowerCycle_some {d : Dev} {r : ResetRun} (h : (d.ras.resets.find? fun r => r.level == 5) = some r) (now : Nat) :
    d.wantPowerCycle now = if now < r.at_ + resetBound 5 ∨ d.ras.powerCycle then d
      else (({ d with ras := { d.ras with powerCycle := true } }).alert .powerCycle true).reportNow now 0x0A06 moduleUnit 0x00 .fatal
        [r.step] := by
  unfold Dev.wantPowerCycle
  rw [h]

theorem find_package_none {l : List ResetRun} (h : ∀ r ∈ l, r.level ≠ 5) : (l.find? fun r => r.level == 5) = none :=
  List.find?_eq_none.mpr fun r hr => by simpa using h r hr

theorem Dev.wantPowerCycle_none {d : Dev} (h : ∀ r ∈ d.ras.resets, r.level ≠ 5) (now : Nat) : d.wantPowerCycle now = d := by
  unfold Dev.wantPowerCycle
  rw [find_package_none h]

/-- Nothing runs where no package reset is on its way. -/
theorem Dev.pkgRun_none {d : Dev} (h : ∀ r ∈ d.ras.resets, r.level ≠ 5) (now : Nat) (bad : List Nat) : d.pkgRun now bad = d := by
  have hnone : (d.ras.resets.find? fun r => r.level == 5 && r.step == 0) = none :=
    List.find?_eq_none.mpr fun r hr => by simp [h r hr]
  unfold Dev.pkgRun
  rw [hnone]

theorem Dev.wantPowerCycle_law {d : Dev} {r : ResetRun} {now : Nat} (h : (d.ras.resets.find? fun r => r.level == 5) = some r)
    (hgo : ¬(now < r.at_ + resetBound 5 ∨ d.ras.powerCycle = true)) : (d.wantPowerCycle now).ras.powerCycle = true ∧
    (d.wantPowerCycle now).ras.resets = d.ras.resets ∧ (d.wantPowerCycle now).core = d.core := by
  rw [Dev.wantPowerCycle_some h, if_neg hgo]
  obtain ⟨hrest, -⟩ := Dev.reportNow_law (({ d with ras := { d.ras with powerCycle := true } } : Dev).alert .powerCycle true) now
    0x0A06 moduleUnit 0x00 .fatal [r.step] false none
  generalize (Dev.reportNow _ now 0x0A06 moduleUnit 0x00 .fatal [r.step] false none) = e at hrest ⊢
  have hcycle := congrArg (fun e : Dev => e.ras.powerCycle) hrest
  have hresets := congrArg (fun e : Dev => e.ras.resets) hrest
  have hcore := congrArg (fun e : Dev => e.core) hrest
  exact ⟨hcycle, hresets, hcore⟩

/-- A module that may not be reset takes RESET_n alone. -/
theorem Dev.pkgReset_stays {d : Dev} (h : d.mayReset = false) (now : Nat) (low : Bool) (bad : List Nat) :
    d.pkgReset now low bad = if low then d.onMod fun m => { m with resetN := false } else d := by
  have hlow : (d.onMod fun m => { m with resetN := false }).mayReset = false := h
  unfold Dev.pkgReset
  generalize (d.onMod fun m => { m with resetN := false }) = x at hlow ⊢
  cases low
  · simp only [Bool.false_eq_true, if_false, h, Bool.not_false, if_true]
  · simp only [if_true, hlow, Bool.not_false]

theorem Dev.pkgReset_asked {d : Dev} (h : d.mayReset = true) (now : Nat) (bad : List Nat) :
    d.pkgReset now false bad = d.pkgRun now bad := by
  unfold Dev.pkgReset
  simp only [Bool.false_eq_true, if_false, h, Bool.not_true]

/-! ### The obligation -/

/-- Settles O50: deadlocks are found and broken, resets run, and dumps are held until released. -/
theorem resetsRun : Obligations.ResetsRun := by
  intro s d
  refine ⟨fun hoff => ?_, fun hen => ⟨fun hnone => ?_, fun set p hset hp => ?_⟩, fun st => ⟨fun hnone => ?_, fun r hr => ?_⟩,
    fun p => ⟨fun hnone => ?_, fun r hr => ?_⟩, fun a rest => ⟨fun hnone => ?_, fun r hr => ⟨fun hfree hst => ?_, fun hh hw => ?_,
      fun hh hw => ?_⟩⟩, fun low bad hmay => ?_, fun bad hmay hresets => ?_, fun bad hmay hresets => ?_, fun hresets => ?_,
    fun r hr => ⟨fun hlate hno => ?_, fun hwait => ?_⟩, fun path v hmay => ?_, fun path hmay => ?_⟩
  · refine leads_of_eq rfl (if_pos ?_)
    rw [hoff]
    rfl
  · refine leads_of_eq rfl (e := { d with ras := { d.ras with sets := [] } }) ?_
    have heq : d.hangCycle s.now = { d with ras := { d.ras with sets := [] } } := by
      unfold Dev.hangCycle
      rw [hen, hnone]
      rfl
    exact heq
  · have heq := (Dev.hangCycle_one hen hset)
    have hdead := Dev.deadSet_eq (d := d) (now := s.now) hp
    refine ⟨fun hact hnew => ?_, fun hact hknown => ?_, fun hact => ?_⟩
    · have hnot : ¬ (!d.flag RAS_HANG_CTRL.ACTION && d.ras.sets.contains set) = true := by
        rw [Bool.and_eq_true, List.contains_iff_mem]
        exact fun h => hnew h.2
      rw [if_neg hnot, if_neg (ne_true_of_eq_false hact)] at hdead
      rw [hdead] at heq
      exact answers_of_eq rfl heq ⟨rfl, ⟨_, rfl, rfl, rfl⟩, rfl⟩
    · have hin : (!d.flag RAS_HANG_CTRL.ACTION && d.ras.sets.contains set) = true := by
        rw [hact, List.contains_iff_mem.mpr hknown]
        rfl
      rw [if_pos hin] at hdead
      rw [hdead] at heq
      exact answers_of_eq rfl heq ⟨rfl, rfl, rfl⟩
    · have hnot : ¬ (!d.flag RAS_HANG_CTRL.ACTION && d.ras.sets.contains set) = true := by
        rw [hact]
        exact Bool.false_ne_true
      rw [if_neg hnot, if_pos hact] at hdead
      rw [hdead] at heq
      refine ⟨_, leads_of_eq rfl heq, ⟨_, rfl, rfl⟩, fun m hm => ?_⟩
      exact (Tbl.find_adj_same _ _ _).trans (congrArg (Option.map _) hm)
  · exact leads_of_eq rfl (Dev.stackReset_none hnone _)
  · refine ⟨_, leads_of_eq rfl (Dev.stackReset_some hr _), ?_⟩
    have hstack := Dev.stack_onStack_same ((d.fenceInside s.now st).sweepsEnd s.now st) st Stack.reboot
    exact ⟨congrArg (·.ingress) hstack, congrArg (·.cache) hstack, congrArg (·.walks) hstack, congrArg (·.pend) hstack,
      congrArg (·.closed) hstack⟩
  · exact leads_of_eq rfl (Dev.serviceReset_none hnone _)
  · exact leads_of_eq rfl (Dev.serviceReset_some hr _)
  · exact leads_of_eq rfl (Dev.astReset_none hnone _ _)
  · have hgo : (!(d.ast a).state.hosts && (d.ast a).state != .resetting) = true := by
      rw [hfree, bne_iff_ne.mpr hst]
      rfl
    exact leads_of_eq rfl ((Dev.astReset_some hr _ _).trans (if_pos hgo))
  · have hgo : ¬ (!(d.ast a).state.hosts && (d.ast a).state != .resetting) = true := by
      rw [hh]
      exact Bool.false_ne_true
    obtain ⟨hstate, hfns, hother, hras, hcore, hwaiting⟩ := d.astResetting_law a
    have hwaits : ((d.astResetting a).comp.waiting.any fun p => p.ast == a) = true := by
      rw [hwaiting, List.any_eq_true]
      simpa using hw
    exact answers_of_eq rfl ((Dev.astReset_some hr _ _).trans ((if_neg hgo).trans (if_pos hwaits))) ⟨hstate, hfns, hother, hras, hcore⟩
  · have hgo : ¬ (!(d.ast a).state.hosts && (d.ast a).state != .resetting) = true := by
      rw [hh]
      exact Bool.false_ne_true
    obtain ⟨-, -, -, -, -, hwaiting⟩ := d.astResetting_law a
    have hwaits : ¬ ((d.astResetting a).comp.waiting.any fun p => p.ast == a) = true := by
      rw [hwaiting, List.any_eq_true]
      rintro ⟨p, hp, ha⟩
      exact hw p hp (eq_of_beq ha)
    exact leads_of_eq rfl ((Dev.astReset_some hr _ _).trans ((if_neg hgo).trans (if_neg hwaits)))
  · have hstay := Dev.pkgReset_stays hmay s.now low bad
    cases low
    · exact answers_of_eq rfl hstay ⟨rfl, rfl, rfl⟩
    · exact answers_of_eq rfl hstay ⟨rfl, rfl, rfl⟩
  · obtain ⟨hblank, houtlasts⟩ := Dev.pkgReset_low hmay hresets s.now bad
    obtain ⟨halm, hpartners, hjournal, hreset, -⟩ := Dev.of_outlasts houtlasts
    have hlead : Leads (.packageReset true bad) s (d.pkgReset s.now true bad) := rfl
    exact ⟨_, hlead, hblank.mem, hblank.slice, hblank.core, hblank.sweeps, hblank.ctxs, hblank.queues, hblank.objs,
      fun a => congrArg (fun t => Tbl.look Ast.reset t a) hblank.asts, halm, hpartners, hjournal, _, hreset, rfl, rfl⟩
  · exact leads_of_eq rfl ((Dev.pkgReset_asked hmay s.now bad).trans (Dev.pkgRun_none hresets _ _))
  · exact leads_of_eq rfl (Dev.wantPowerCycle_none hresets _)
  · have hgo : ¬ (s.now < r.at_ + resetBound 5 ∨ d.ras.powerCycle = true) := fun h =>
      h.elim (Nat.not_lt.mpr hlate) (ne_true_of_eq_false hno)
    have hlead : Leads .powerCycleRequest s (d.wantPowerCycle s.now) := rfl
    obtain ⟨hasked, hreset, hcore⟩ := Dev.wantPowerCycle_law hr hgo
    exact ⟨_, hlead, hasked, hreset, hcore⟩
  · exact leads_of_eq rfl ((Dev.wantPowerCycle_some hr _).trans (if_pos hwait))
  · intro x
    have hwrite := Dev.writeThrough_of_mayWrite hmay s.now fun d => d.resetCtrl s.now x
    refine ⟨fun hbusy => leads_of_eq rfl (hwrite.trans (Dev.resetCtrl_busy hbusy _ _)), fun hidle hbit => ?_,
      fun hidle hbit hlevel hfree => ?_⟩
    · obtain ⟨h2, h3, h4, h5⟩ := Dev.resetCtrl_idle (v := x) hidle hbit s.now
      refine ⟨fun hl hk hi => ?_, fun hl hk hi => ?_, fun hl hh => ?_, fun hl => ?_⟩
      · obtain ⟨hreset, hin⟩ := Dev.requestReset_idle hidle s.now 2 (bits x 16 16 % 8192) 0
        exact answers_of_eq rfl (hwrite.trans (h2 hl hk hi)) ⟨hreset, hin rfl⟩
      · exact answers_of_eq rfl (hwrite.trans (h3 hl hk hi)) (Dev.requestReset_idle hidle s.now 3 _ 0).1
      · exact answers_of_eq rfl (hwrite.trans (h4 hl hh)) (Dev.requestReset_idle hidle s.now 4 _ 0).1
      · exact answers_of_eq rfl (hwrite.trans (h5 hl)) (Dev.requestReset_idle hidle s.now 5 _ 0).1
    · obtain ⟨hvalid, hpages, hheld⟩ := Dev.dump_law hfree s.now 0 0 (bits x 16 16) 0
      have hlasts := d.dump_outlasts s.now 0 0 (bits x 16 16) 0
      have hresets : (d.dump s.now 0 0 (bits x 16 16) 0).ras.resets = [] := (Dev.of_outlasts hlasts).2.2.2.1.trans hidle
      exact answers_of_eq rfl (hwrite.trans (Dev.resetCtrl_dump hidle hbit hlevel _)) ⟨hvalid, hpages, hheld, hresets⟩
  · exact answers_of_eq rfl (Dev.writeThrough_of_mayWrite hmay _ _) d.dumpRelease_law

end Sys2Proof.Machine
end

section
/-!
PROOFS. The Almanac: a second's monitoring, retirement, projections and the writing to flash (R416, R463 to R468).
-/

namespace Sys2Proof.Machine

/-! ### A second's monitoring -/

theorem Dev.age_addStress (d : Dev) (p : Nat) : (d.addStress p).alm.age = d.alm.age := by
  unfold Dev.addStress
  split <;> rfl

theorem Dev.addStress_run {d : Dev} {p : Nat} (hpkg : d.pwr.pkg = .run) (hp : (d.pmu p).pwr = .run) :
    d.addStress p = d.onAlm fun m => { m with stress := modifyAt m.stress p (· + stressOf (d.pmu p).tj (d.railMv p)) } :=
  if_pos ⟨hpkg, hp⟩

/-- The points' voltages are all that a new AGE differs. -/
theorem Dev.loadAge_law (d : Dev) (p : Nat) : (d.loadAge p).noRegs = d.noRegs ∧ (p < 8 → ∀ f : Fld, 0x22000 ≤ f.off →
    (d.loadAge p).get f = d.get f) := by
  refine ⟨d.noRegs_loadAge p, fun hp f hf => ?_⟩
  have hoff : ∀ k, k < 8 → PWR_OPP_TABLE.off (8 * p + k) < f.off := by
    intro k hk
    unfold PWR_OPP_TABLE.off
    omega
  have hset : ∀ (e : Dev) (k v a : Nat) (b : Nat), k < 8 → (((e.set (PWR_OPP_TABLE.AGE (8 * p + k)) a).set
      (PWR_OPP_TABLE.VSET (8 * p + k)) v).set (PWR_OPP_TABLE.AVAIL (8 * p + k)) b).get f = e.get f := by
    intro e k v a b hk
    have hne := (hoff k hk).ne'
    exact (Dev.get_set_other _ _ _ _ hne).trans ((Dev.get_set_other _ _ _ _ hne).trans (Dev.get_set_other _ _ _ _ hne))
  unfold Dev.loadAge
  dsimp only
  split
  · rfl
  · refine List.foldlRecOn _ _ (motive := fun e : Dev => e.get f = d.get f) rfl fun e he k hk => ?_
    exact (hset e k _ _ _ (List.mem_range.mp hk)).trans he

/-- Points that go are recorded, and nothing else differs. -/
theorem Dev.pointsLost_law (d old : Dev) (p age : Nat) : ∃ l, d.pointsLost old p age = { d with ras := { d.ras with
    box := d.ras.box ++ l } } ∧ ∀ x ∈ l, x.code = 0x0807 := by
  unfold Dev.pointsLost
  refine foldl_keeps (fun e : Dev => ∃ l, e = { d with ras := { d.ras with box := d.ras.box ++ l } } ∧ ∀ x ∈ l, x.code = 0x0807)
    _ ?_ _ d ⟨[], ?_, fun _ h => absurd h List.not_mem_nil⟩
  · rintro e k ⟨l, rfl, hl⟩
    refine ⟨l ++ [d.found 0x0807 moduleUnit 0x00 .degraded [p, k, age] none], ?_, fun x hx => ?_⟩
    · rw [← List.append_assoc]
      rfl
    · obtain h | h := List.mem_append.mp hx
      · exact hl x h
      · rw [List.mem_singleton.mp h]
        rfl
  · rw [List.append_nil]

/-- A margin report below the last step: AGE rises, one record tells it, and one more each point that goes. -/
theorem Dev.marginLow_law {d : Dev} {p : Nat} (hage : d.alm.age.getD p 0 < 60) :
    (d.marginLow p).alm = { d.alm with age := modifyAt d.alm.age p fun _ => d.alm.age.getD p 0 + 5 } ∧
    (∃ b l, (d.marginLow p).ras.box = d.ras.box ++ b :: l ∧ b.code = 0x0A0F ∧ ∀ x ∈ l, x.code = 0x0807) ∧
    (d.marginLow p).core = d.core ∧ (p < 8 → ∀ f : Fld, 0x22000 ≤ f.off → (d.marginLow p).get f = d.get f) := by
  unfold Dev.marginLow
  dsimp only
  rw [if_neg (Nat.not_le.mpr hage)]
  obtain ⟨hsame, hget⟩ := Dev.loadAge_law (d.onAlm fun m => { m with age := modifyAt m.age p fun _ => d.alm.age.getD p 0 + 5 }) p
  generalize Dev.loadAge _ p = x at hsame hget ⊢
  have halm := congrArg Dev.alm hsame
  have hras := congrArg Dev.ras hsame
  have hcore := congrArg Dev.core hsame
  change x.alm = { d.alm with age := modifyAt d.alm.age p fun _ => d.alm.age.getD p 0 + 5 } at halm
  change x.ras = d.ras at hras
  change x.core = d.core at hcore
  generalize hy : x.raise 0x0A0F moduleUnit 0x00 .info _ = y
  have hbox : y.ras.box = d.ras.box ++ [x.found 0x0A0F moduleUnit 0x00 .info
      [p, d.alm.age.getD p 0 + 5, d.alm.stress.getD p 0 / 1000000000] none] := by
    rw [← hy, ← hras]
    rfl
  have hrest : y.alm = x.alm ∧ y.core = x.core ∧ y.regs = x.regs := by
    rw [← hy]
    exact ⟨rfl, rfl, rfl⟩
  obtain ⟨hyalm, hycore, hyregs⟩ := hrest
  obtain ⟨l, hlost, hl⟩ := y.pointsLost_law d p (d.alm.age.getD p 0 + 5)
  rw [hlost]
  refine ⟨hyalm.trans halm, ⟨x.found 0x0A0F moduleUnit 0x00 .info [p, d.alm.age.getD p 0 + 5, d.alm.stress.getD p 0 / 1000000000]
    none, l, ?_, rfl, hl⟩, hycore.trans hcore, fun hp f hf => ?_⟩
  · show y.ras.box ++ l = _
    rw [hbox, List.append_assoc]
    rfl
  · exact (Dev.get_congr hyregs f).trans (hget hp f hf)

/-- Which units err depends on the Almanac's units and on ALM_CTRL. -/
theorem Dev.erring_congr {d e : Dev} (hunits : e.alm.units = d.alm.units) (hget : ∀ f : Fld, 0x22000 ≤ f.off → e.get f = d.get f)
    (p : Nat) : e.erring p = d.erring p := by
  unfold Dev.erring
  rw [hunits, hget ALM_CTRL.CORE_UE_LIMIT (by decide), hget ALM_CTRL.SLICE_CE_LIMIT (by decide)]

/-- The monitors of a die pair that ages less than 60 mV retire no core. -/
theorem Dev.monitorRead_young {d : Dev} {p : Nat} (hp : (d.pmu p).pwr = .run) (hpkg : d.pwr.pkg = .run)
    (hage : d.alm.age.getD p 0 < 60) (now : Nat) (margin : Bool) (cores : List Nat) :
    d.monitorRead now p margin cores =
      ((if margin then (d.addStress p).marginLow p else d.addStress p).erring p).foldl
        (fun d u => d.retireUnit now u (1 + u / 8192)) (if margin then (d.addStress p).marginLow p else d.addStress p) := by
  have hrun : ¬((d.pmu p).pwr ≠ .run ∨ d.pwr.pkg ≠ .run) := fun h => h.elim (· hp) (· hpkg)
  unfold Dev.monitorRead
  rw [if_neg hrun, if_neg (Nat.not_le.mpr hage)]
  rfl

theorem Dev.monitorRead_off {d : Dev} {p : Nat} (h : (d.pmu p).pwr ≠ .run ∨ d.pwr.pkg ≠ .run) (now : Nat) (margin : Bool)
    (cores : List Nat) : d.monitorRead now p margin cores = d := if_pos h

theorem almanacMonitorRead_leads (s : State) (p : Nat) (margin : Bool) (cores : List Nat) :
    Leads (.almanacMonitorRead p margin cores) s (s.dev.monitorRead s.now p margin cores) := rfl

/-! ### Retirement -/

/-- A unit whose errors reach their limit is only marked where retirement is not automatic. -/
theorem Dev.retireUnit_watch {d : Dev} {u : Nat} (hnew : d.judged u = false) (hauto : d.flag ALM_CTRL.AUTO_RETIRE = false)
    (now n : Nat) : d.retireUnit now u n = (d.almMark u .watch).raise 0x0A0E moduleUnit 0x00 .info
      [u, Config.code 0x0A0E n, d.spareFor u] := by
  unfold Dev.retireUnit
  rw [hnew, hauto]
  rfl

theorem Dev.mark_almMark (d : Dev) (u : Nat) (m : Mark) : (Tbl.look Health.new (d.almMark u m).alm.units u).mark = some m :=
  congrArg Health.mark (Tbl.look_upd_same Health.new d.alm.units u fun h => { h with mark := some m })

/-! ### Projections -/

theorem Dev.report_seq (d : Dev) (now : Nat) (r : ErrRec) (log : Bool) : (d.report now r log).ras.seq = (d.ras.seq + 1) % 2 ^ 32 := by
  obtain ⟨⟨regs, fw, mod, ns, box, nseq, fl, dumps, snaps, hshape⟩, -⟩ := d.received_shape now r (d.flashes r log)
  have hseq : (d.received now r (d.flashes r log)).ras.seq = (d.ras.seq + 1) % 2 ^ 32 := by
    rw [hshape]
    rfl
  rw [Dev.report_eq]
  generalize d.received now r (d.flashes r log) = x at hseq ⊢
  have hlose : ∀ q, (x.errqLose q).ras.seq = (d.ras.seq + 1) % 2 ^ 32 := by
    intro q
    obtain ⟨⟨regs, lost, crit, fl, dumps, snaps, h⟩, -⟩ := x.errqLose_shape q
    rw [h]
    exact hseq
  split
  · unfold Dev.errqWrite
    split
    · obtain ⟨rates, intr, h⟩ := x.errqPut_shape now (d.numbered r (d.flashes r log))
      rw [h]
      exact hseq
    · exact hlose _
  · split
    · exact hseq
    · exact hlose _

theorem Dev.reportNow_seq (d : Dev) (now code unit sub : Nat) (sev : Sev) (l : List Nat) (log : Bool) (who : Option (Nat × Nat)) :
    (d.reportNow now code unit sub sev l log who).ras.seq = (d.ras.seq + 1) % 2 ^ 32 := by
  rw [Dev.reportNow_eq]
  exact d.report_seq now _ log

/-- The health words are all that today's projections differ. -/
theorem Dev.almUnits_shape (d : Dev) : ∃ units, d.almUnits = { d with alm := { d.alm with units := units } } := by
  unfold Dev.almUnits
  refine foldl_keeps (fun e : Dev => ∃ units, e = { d with alm := { d.alm with units := units } }) _ ?_ _ d ⟨_, rfl⟩
  rintro e p ⟨units, rfl⟩
  exact ⟨_, rfl⟩

/-- The least projection falls below HORIZON_DAYS (R468). -/
def Dev.wornSoon (d : Dev) : Bool := decide ((leastProj d.almUnits.projections).days < d.get ALM_CTRL.HORIZON_DAYS)

/-- 0x0A0D is due: RUL_DAYS is below HORIZON_DAYS, and it was last told never or 30 days ago. -/
def Dev.wornDue (d : Dev) (now : Nat) : Bool :=
  d.wornSoon && (match d.alm.eolAt with | some t => decide (t + 30 * (86400 * second) ≤ now) | none => true)

/-- The device with an end of life noted, and 0x0A0D sent where it is due. -/
def Dev.foretold (d : Dev) (now : Nat) (p : Proj) (low due : Bool) : Dev :=
  let x := d.onAlm fun m => { m with eolAt := if due then some now else if low then d.alm.eolAt else none }
  if due then x.reportNow now 0x0A0D moduleUnit 0x00 .info [p.days, p.limiter, p.unit] else x

/-- The device with its projections judged. -/
def Dev.foreseen (d : Dev) (now : Nat) : Dev :=
  d.almUnits.foretold now (leastProj d.almUnits.projections) d.wornSoon (d.wornDue now)

/-- The device with the day's figures kept once a day. -/
def Dev.dayKept (d : Dev) (now : Nat) : Dev :=
  if now < d.alm.lastPredict + 86400 * second ∧ !d.alm.days.isEmpty then d
  else d.onAlm fun m => { m with days := (d.almDay :: m.days).take 90, lastPredict := now }

theorem Dev.predict_eq (d : Dev) (now : Nat) : d.predict now = (d.foreseen now).dayKept now := by
  have hsame : ∀ x : Dev, x.get ALM_CTRL.HORIZON_DAYS = d.get ALM_CTRL.HORIZON_DAYS → x.alm.eolAt = d.alm.eolAt → x = d.almUnits →
      d.predict now = (d.foreseen now).dayKept now := by
    intro x hget heol hx
    unfold Dev.predict Dev.foreseen Dev.wornDue Dev.wornSoon
    rw [← hx, ← hget, ← heol]
    rfl
  obtain ⟨units, h⟩ := d.almUnits_shape
  exact hsame d.almUnits (Dev.get_congr (congrArg Dev.regs h) _) (by rw [h]) rfl

/-- Judging the projections: the Almanac's end of life, its units, and no more than the one record. -/
theorem Dev.foreseen_law (d : Dev) (now : Nat) :
    (∃ units, (d.foreseen now).alm = { d.alm with
      units := units
      eolAt := if d.wornDue now then some now else if d.wornSoon then d.alm.eolAt else none }) ∧
    (d.wornDue now = false → (d.foreseen now).ras = d.ras) ∧
    (d.wornDue now = true → (d.foreseen now).ras.seq = (d.ras.seq + 1) % 2 ^ 32) := by
  obtain ⟨units, hunits⟩ := d.almUnits_shape
  unfold Dev.foreseen Dev.foretold
  dsimp only
  generalize leastProj d.almUnits.projections = p
  rw [hunits]
  cases hdue : d.wornDue now with
  | false => exact ⟨⟨units, rfl⟩, fun _ => rfl, fun h => absurd h Bool.false_ne_true⟩
  | true =>
    refine ⟨⟨units, ?_⟩, fun h => absurd h.symm Bool.false_ne_true, fun _ => Dev.reportNow_seq _ now _ _ _ _ _ _ _⟩
    have hrest := (Dev.reportNow_law (Dev.onAlm { d with alm := { d.alm with units := units } } fun m => { m with eolAt := some now })
      now 0x0A0D moduleUnit 0x00 .info [p.days, p.limiter, p.unit] false none).1
    have hsame := congrArg Dev.alm hrest
    exact hsame

theorem almanacPredict_leads (s : State) : Leads .almanacPredict s (s.dev.predict s.now) := rfl

/-- The day's figures are kept once a day. -/
theorem Dev.predict_kept {d : Dev} {now : Nat} (h : d.alm.lastPredict + 86400 * second ≤ now ∨ d.alm.days = []) :
    (d.predict now).alm.lastPredict = now ∧ ∃ t, (d.predict now).alm.days = (t :: d.alm.days).take 90 ∧ t.age = d.alm.age ∧
      t.stress = d.alm.stress ∧ t.buffer = d.alm.buffer := by
  obtain ⟨⟨units, halm⟩, -⟩ := d.foreseen_law now
  have hnot : ¬(now < (d.foreseen now).alm.lastPredict + 86400 * second ∧ !(d.foreseen now).alm.days.isEmpty) := by
    rw [halm]
    rintro ⟨hlt, hdays⟩
    obtain h | h := h
    · exact absurd hlt (Nat.not_lt.mpr h)
    · simp [h] at hdays
  rw [Dev.predict_eq, Dev.dayKept, if_neg hnot]
  refine ⟨rfl, (d.foreseen now).almDay, ?_, ?_, ?_, ?_⟩
  · show ((d.foreseen now).almDay :: (d.foreseen now).alm.days).take 90 = _
    rw [halm]
  · show (d.foreseen now).alm.age = _
    rw [halm]
  · show (d.foreseen now).alm.stress = _
    rw [halm]
  · show (d.foreseen now).alm.buffer = _
    rw [halm]

theorem Dev.predict_today {d : Dev} {now : Nat} (hnow : now < d.alm.lastPredict + 86400 * second) (hdays : d.alm.days ≠ []) :
    (d.predict now).alm.days = d.alm.days ∧ (d.predict now).alm.lastPredict = d.alm.lastPredict := by
  obtain ⟨⟨units, halm⟩, -⟩ := d.foreseen_law now
  have hyes : now < (d.foreseen now).alm.lastPredict + 86400 * second ∧ !(d.foreseen now).alm.days.isEmpty := by
    rw [halm]
    exact ⟨hnow, by simpa using hdays⟩
  rw [Dev.predict_eq, Dev.dayKept, if_pos hyes]
  rw [halm]
  exact ⟨rfl, rfl⟩

/-- A day's figures differ neither the end of life nor the records. -/
theorem Dev.predict_foreseen (d : Dev) (now : Nat) : (d.predict now).alm.eolAt = (d.foreseen now).alm.eolAt ∧
    (d.predict now).ras = (d.foreseen now).ras := by
  rw [Dev.predict_eq]
  unfold Dev.dayKept
  split <;> exact ⟨rfl, rfl⟩

theorem Dev.predict_fresh {d : Dev} (h : d.wornSoon = false) (now : Nat) : (d.predict now).alm.eolAt = none ∧
    (d.predict now).ras = d.ras := by
  have hdue : d.wornDue now = false := by
    unfold Dev.wornDue
    rw [h, Bool.false_and]
  obtain ⟨⟨units, halm⟩, hras, -⟩ := d.foreseen_law now
  obtain ⟨heol, hsame⟩ := d.predict_foreseen now
  rw [heol, hsame, halm, hdue, h]
  exact ⟨rfl, hras hdue⟩

theorem Dev.predict_first {d : Dev} (h : d.wornSoon = true) (hnone : d.alm.eolAt = none) (now : Nat) :
    (d.predict now).alm.eolAt = some now ∧ (d.predict now).ras.seq = (d.ras.seq + 1) % 2 ^ 32 := by
  have hdue : d.wornDue now = true := by
    unfold Dev.wornDue
    rw [h, hnone]
    rfl
  obtain ⟨⟨units, halm⟩, -, hseq⟩ := d.foreseen_law now
  obtain ⟨heol, hsame⟩ := d.predict_foreseen now
  rw [heol, hsame, halm, hdue]
  exact ⟨rfl, hseq hdue⟩

theorem Dev.predict_again {d : Dev} {t now : Nat} (h : d.wornSoon = true) (hsome : d.alm.eolAt = some t)
    (hnow : now < t + 30 * (86400 * second)) : (d.predict now).alm.eolAt = some t ∧ (d.predict now).ras = d.ras := by
  have hdue : d.wornDue now = false := by
    unfold Dev.wornDue
    rw [h, hsome, Bool.true_and]
    generalize 30 * (86400 * second) = month at hnow ⊢
    exact decide_eq_false (Nat.not_le.mpr hnow)
  obtain ⟨⟨units, halm⟩, hras, -⟩ := d.foreseen_law now
  obtain ⟨heol, hsame⟩ := d.predict_foreseen now
  rw [heol, hsame, halm, hdue, h, hsome]
  exact ⟨rfl, hras hdue⟩

/-- Settles O51: a second's monitoring, the marking of a unit, the projections judged, and the hourly write. -/
theorem almanacKeeps : Obligations.AlmanacKeeps := by
  unfold Obligations.AlmanacKeeps
  intro s
  refine ⟨?_, ?_, ?_, ?_, ⟨?_, ?_, ?_⟩, fun mj => ⟨_, rfl, rfl, rfl⟩⟩
  · intro p margin cores hoff
    exact leads_of_eq (almanacMonitorRead_leads s p margin cores) (Dev.monitorRead_off hoff s.now margin cores)
  · intro p cores hp hpkg hage herring
    have hnone : (s.dev.addStress p).erring p = [] := by
      rw [Dev.addStress_run hpkg hp]
      exact herring
    constructor
    · refine answers_of_eq (almanacMonitorRead_leads s p false cores) (Dev.monitorRead_young hp hpkg hage s.now false cores) ?_
      rw [if_neg Bool.false_ne_true, hnone, List.foldl_nil, Dev.addStress_run hpkg hp]
      exact ⟨rfl, rfl, rfl, rfl⟩
    · intro hp8
      refine answers_of_eq (almanacMonitorRead_leads s p true cores) (Dev.monitorRead_young hp hpkg hage s.now true cores) ?_
      have hsame := Dev.age_addStress s.dev p
      obtain ⟨halm, hbox, hcore, hget⟩ := Dev.marginLow_law (d := s.dev.addStress p) (p := p) (hsame.symm ▸ hage)
      have herr : ((s.dev.addStress p).marginLow p).erring p = [] :=
        (Dev.erring_congr (by rw [halm]) (hget hp8) p).trans hnone
      rw [if_pos rfl, herr, List.foldl_nil]
      have hadd : (s.dev.addStress p).ras = s.dev.ras ∧ (s.dev.addStress p).core = s.dev.core := by
        rw [Dev.addStress_run hpkg hp]
        exact ⟨rfl, rfl⟩
      rw [hadd.1] at hbox
      rw [hsame] at halm
      exact ⟨by rw [halm], hbox, hcore.trans hadd.2⟩
  · intro now u n hjudged
    exact if_pos hjudged
  · intro now u n hnew hauto
    simp only [Dev.retireUnit_watch hnew hauto]
    exact ⟨s.dev.mark_almMark u .watch, _, rfl, rfl⟩
  · intro h
    exact ⟨_, almanacPredict_leads s, Dev.predict_kept h⟩
  · intro hnow hdays
    exact ⟨_, almanacPredict_leads s, Dev.predict_today hnow hdays⟩
  · refine ⟨_, almanacPredict_leads s, fun hlow => ?_, fun hlow hnone => ?_, fun t hlow hsome hnow => ?_⟩
    · exact Dev.predict_fresh (decide_eq_false hlow) s.now
    · exact Dev.predict_first (decide_eq_true hlow) hnone s.now
    · exact Dev.predict_again (decide_eq_true hlow) hsome hnow

end Sys2Proof.Machine
end

section
/-!
PROOFS. The life cycle, owners, debug and the DRBG (R479, R488, R490 to R499).
-/

namespace Sys2Proof.Machine

/-! ### Records and challenges -/

/-- A device that differs from another in what records write at most. -/
theorem Dev.of_unreported {d e : Dev} (h : e.unreported = d.unreported) :
    e.lcs = d.lcs ∧ e.mem = d.mem ∧ e.stk = d.stk ∧ e.core = d.core ∧ e.slice = d.slice ∧ e.ras.resets = d.ras.resets := by
  have hlcs := congrArg Dev.lcs h
  have hmem := congrArg Dev.mem h
  have hstk := congrArg Dev.stk h
  have hcore := congrArg Dev.core h
  have hslice := congrArg Dev.slice h
  have hresets := congrArg (fun x : Dev => x.ras.resets) h
  exact ⟨hlcs, hmem, hstk, hcore, hslice, hresets⟩

/-- The security block but for its challenge. -/
def Lcs.rechallenged (l : Lcs) (ch : Nat) (due : Bool) (reqs : Nat) : Lcs := { l with challenge := ch, chalDue := due, drbgReqs := reqs }

theorem Dev.newChallenge_shape (d : Dev) : ∃ fresh ch due reqs,
    d.newChallenge = { d with fresh := fresh, lcs := d.lcs.rechallenged ch due reqs } := by
  unfold Dev.newChallenge
  split <;> exact ⟨_, _, _, _, rfl⟩

/-- The log keeps no snapshot where none is left. -/
theorem Dev.snaps_flashTrim (n : Nat) {d : Dev} (h : d.comp.snaps = []) : (Dev.flashTrim n d).comp.snaps = [] := by
  induction n generalizing d with
  | zero => exact h
  | succ n ih =>
    have hdrop : d.flashDrop.comp.snaps = [] := by
      unfold Dev.flashDrop
      simp only [h, List.isEmpty_nil, Bool.not_true, Bool.false_eq_true, if_false]
      split
      · exact h
      · split <;> exact h
    unfold Dev.flashTrim
    split
    · exact h
    · exact ih hdrop

theorem Dev.snaps_logFlash {d : Dev} (h : d.comp.snaps = []) (r : ErrRec) : (d.logFlash r).comp.snaps = [] :=
  Dev.snaps_flashTrim 1024 (d := { d with ras := { d.ras with flash := r :: d.ras.flash } }) h

theorem Dev.snaps_notify (d : Dev) (now : Nat) (r : Option ErrRec) (l : List Nat) : (d.notify now r l).comp = d.comp := by
  obtain ⟨⟨regs, ev, al, an, ns, box, nseq, h⟩, -⟩ := d.notify_shape now r l
  rw [h]

theorem Dev.snaps_errqLose {d : Dev} (h : d.comp.snaps = []) (r : ErrRec) : (d.errqLose r).comp.snaps = [] := by
  have hcrit : (if r.crit then (d.sat RAS_ERRQ_LOST.LOST 1).sat RAS_ERRQ_LOST.CRIT_LOST 1 else d.sat RAS_ERRQ_LOST.LOST 1).comp.snaps = [] := by
    split <;> exact h
  unfold Dev.errqLose
  dsimp only
  generalize (if r.crit then (d.sat RAS_ERRQ_LOST.LOST 1).sat RAS_ERRQ_LOST.CRIT_LOST 1 else d.sat RAS_ERRQ_LOST.LOST 1) = x at hcrit ⊢
  split
  · refine Dev.snaps_logFlash ?_ _
    exact hcrit
  · exact hcrit

theorem Dev.snaps_report {d : Dev} (h : d.comp.snaps = []) (now : Nat) (r : ErrRec) (log : Bool) : (d.report now r log).comp.snaps = [] := by
  have hreceived : (d.received now r (d.flashes r log)).comp.snaps = [] := by
    unfold Dev.received
    dsimp only
    generalize hx : (if r.noticed then _ else _) = x
    have hsame : x.comp.snaps = [] := by
      rw [← hx]
      split
      · rw [Dev.snaps_notify]
        exact h
      · exact h
    split
    · exact Dev.snaps_logFlash hsame _
    · exact hsame
  rw [Dev.report_eq]
  generalize d.received now r (d.flashes r log) = x at hreceived ⊢
  split
  · unfold Dev.errqWrite
    split
    · obtain ⟨rates, intr, hput⟩ := x.errqPut_shape now (d.numbered r (d.flashes r log))
      rw [hput]
      exact hreceived
    · exact Dev.snaps_errqLose hreceived _
  · split
    · exact hreceived
    · exact Dev.snaps_errqLose hreceived _

theorem Dev.snaps_reportNow {d : Dev} (h : d.comp.snaps = []) (now code unit sub : Nat) (sev : Sev) (l : List Nat) (log : Bool)
    (who : Option (Nat × Nat)) : (d.reportNow now code unit sub sev l log who).comp.snaps = [] := by
  rw [Dev.reportNow_eq]
  exact Dev.snaps_report h now _ log

/-! ### GO (R494) -/

theorem Dev.go_of_cause {d : Dev} {path action c : Nat} {causes : Dev → List (Nat × Bool)} (hwrite : MayWrite d path LCS_TRANSITION.off)
    (hcause : firstCause (causes (d.set LCS_TRANSITION.ACTION action)) = some c) (now : Nat) (f : Dev → Dev) :
    d.go now path action causes f = (d.set LCS_TRANSITION.ACTION action).goRefused now action c := by
  obtain ⟨hmay, hup⟩ := hwrite
  simp [Dev.go, Dev.writeThrough, hmay, hup, hcause]

/-- A cause of refusal is one of those asked. -/
theorem mem_of_firstCause {l : List (Nat × Bool)} {c : Nat} (h : firstCause l = some c) : c ∈ l.map (·.1) := by
  obtain ⟨e, he, rfl⟩ := Option.map_eq_some_iff.mp h
  exact List.mem_map_of_mem (List.mem_of_find?_eq_some he)

theorem Dev.goRefused_law (d : Dev) {now action c : Nat} (hc : c < 16) :
    (d.goRefused now action c).get LCS_TRANSITION.STATUS = 3 ∧ (d.goRefused now action c).get LCS_TRANSITION.CAUSE = c ∧
    (d.goRefused now action c).ras.seq = (d.ras.seq + 1) % 2 ^ 32 ∧ (d.goRefused now action c).mem = d.mem ∧
    (d.goRefused now action c).stk = d.stk ∧ (d.goRefused now action c).core = d.core ∧
    { d.lcs with challenge := (d.goRefused now action c).lcs.challenge, chalDue := (d.goRefused now action c).lcs.chalDue
                 drbgReqs := (d.goRefused now action c).lcs.drbgReqs } = (d.goRefused now action c).lcs := by
  unfold Dev.goRefused
  dsimp only
  have hstatus : ((d.set LCS_TRANSITION.STATUS 3).set LCS_TRANSITION.CAUSE c).get LCS_TRANSITION.STATUS = 3 :=
    (Dev.get_set_of_apart _ LCS_TRANSITION.CAUSE LCS_TRANSITION.STATUS c (by decide)).trans
      (Dev.get_set_same d LCS_TRANSITION.STATUS 3 (by decide))
  have hcause : ((d.set LCS_TRANSITION.STATUS 3).set LCS_TRANSITION.CAUSE c).get LCS_TRANSITION.CAUSE = c :=
    (Dev.get_set_same _ LCS_TRANSITION.CAUSE c (by decide)).trans (Nat.mod_eq_of_lt hc)
  have hrest : ((d.set LCS_TRANSITION.STATUS 3).set LCS_TRANSITION.CAUSE c).noRegs = d.noRegs := rfl
  generalize (d.set LCS_TRANSITION.STATUS 3).set LCS_TRANSITION.CAUSE c = x at hstatus hcause hrest ⊢
  obtain ⟨hsame, hget⟩ := x.reportNow_law now 0x0902 moduleUnit 0x00 .info [action, c] true none
  have hseq := x.reportNow_seq now 0x0902 moduleUnit 0x00 .info [action, c] true none
  generalize x.reportNow now 0x0902 moduleUnit 0x00 .info [action, c] true = y at hsame hget hseq ⊢
  obtain ⟨hlcs, hmem, hstk, hcore, -⟩ := Dev.of_unreported hsame
  have hxlcs := congrArg Dev.lcs hrest
  have hxmem := congrArg Dev.mem hrest
  have hxstk := congrArg Dev.stk hrest
  have hxcore := congrArg Dev.core hrest
  have hxseq := congrArg (fun e : Dev => e.ras.seq) hrest
  change x.lcs = d.lcs at hxlcs
  change x.ras.seq = d.ras.seq at hxseq
  obtain ⟨fresh, ch, due, reqs, hnew⟩ := y.newChallenge_shape
  rw [hnew]
  refine ⟨(hget _ (by decide) (by decide)).trans hstatus, (hget _ (by decide) (by decide)).trans hcause, ?_,
    hmem.trans hxmem, hstk.trans hxstk, hcore.trans hxcore, ?_⟩
  · rw [← hxseq]
    exact hseq
  · rw [← hxlcs, ← hlcs]
    rfl

/-- An action done: its status, and no more than a new challenge. -/
theorem Dev.goDone_law (d : Dev) : d.goDone.get LCS_TRANSITION.STATUS = 2 ∧ d.goDone.get LCS_TRANSITION.CAUSE = 0 ∧
    ∃ regs fresh ch due reqs, d.goDone = { d with regs := regs, fresh := fresh, lcs := d.lcs.rechallenged ch due reqs } := by
  have hstatus : ((d.set LCS_TRANSITION.STATUS 2).set LCS_TRANSITION.CAUSE 0).get LCS_TRANSITION.STATUS = 2 :=
    (Dev.get_set_of_apart _ LCS_TRANSITION.CAUSE LCS_TRANSITION.STATUS 0 (by decide)).trans
      (Dev.get_set_same d LCS_TRANSITION.STATUS 2 (by decide))
  have hcause : ((d.set LCS_TRANSITION.STATUS 2).set LCS_TRANSITION.CAUSE 0).get LCS_TRANSITION.CAUSE = 0 :=
    Dev.get_set_same _ LCS_TRANSITION.CAUSE 0 (by decide)
  obtain ⟨fresh, ch, due, reqs, hnew⟩ := ((d.set LCS_TRANSITION.STATUS 2).set LCS_TRANSITION.CAUSE 0).newChallenge_shape
  unfold Dev.goDone
  rw [hnew]
  exact ⟨hstatus, hcause, _, fresh, ch, due, reqs, rfl⟩

/-- An action done and recorded. -/
theorem Dev.goDone_reported (d : Dev) (now code : Nat) (sev : Sev) (l : List Nat) :
    (d.goDone.reportNow now code moduleUnit 0x00 sev l).get LCS_TRANSITION.STATUS = 2 ∧
    (d.goDone.reportNow now code moduleUnit 0x00 sev l).get LCS_TRANSITION.CAUSE = 0 ∧
    (d.goDone.reportNow now code moduleUnit 0x00 sev l).ras.seq = (d.ras.seq + 1) % 2 ^ 32 ∧
    (∃ ch due reqs, (d.goDone.reportNow now code moduleUnit 0x00 sev l).lcs = d.lcs.rechallenged ch due reqs) ∧
    (d.goDone.reportNow now code moduleUnit 0x00 sev l).exposed = d.exposed ∧
    (d.goDone.reportNow now code moduleUnit 0x00 sev l).ras.resets = d.ras.resets ∧
    (d.comp.snaps = [] → (d.goDone.reportNow now code moduleUnit 0x00 sev l).comp.snaps = []) := by
  have hexposed := (d.goDone.exposed_reportNow now code moduleUnit 0x00 sev l false none).trans d.exposed_goDone
  obtain ⟨hstatus, hcause, regs, fresh, ch, due, reqs, hdone⟩ := d.goDone_law
  have hseq : d.goDone.ras.seq = d.ras.seq := by rw [hdone]
  have hresets : d.goDone.ras.resets = d.ras.resets := by rw [hdone]
  have hsnaps : d.goDone.comp = d.comp := by rw [hdone]
  have hlcs : d.goDone.lcs = d.lcs.rechallenged ch due reqs := by rw [hdone]
  generalize d.goDone = x at *
  obtain ⟨hsame, hget⟩ := x.reportNow_law now code moduleUnit 0x00 sev l false none
  obtain ⟨hylcs, -, -, -, -, hyresets⟩ := Dev.of_unreported hsame
  refine ⟨(hget _ (by decide) (by decide)).trans hstatus, (hget _ (by decide) (by decide)).trans hcause, ?_, ⟨ch, due, reqs, hylcs.trans hlcs⟩,
    hexposed, hyresets.trans hresets, fun h => Dev.snaps_reportNow (hsnaps ▸ h) now code moduleUnit 0x00 sev l false none⟩
  rw [← hseq]
  exact x.reportNow_seq now code moduleUnit 0x00 sev l false none

/-! ### The wipes -/

/-- No wipe differs the journal, the owners, the debug level, or a reset on its way. -/
def Dev.unwiped (d : Dev) : List JRow × List OwnerRow × Nat × Nat × Bool × List ResetRun × Nat :=
  (d.lcs.journal, d.lcs.owners, d.lcs.debug, d.lcs.debugMax, d.lcs.drbgUp, d.ras.resets, d.ras.seq)

theorem Dev.of_unwiped {d e : Dev} (h : e.unwiped = d.unwiped) : e.lcs.journal = d.lcs.journal ∧ e.lcs.owners = d.lcs.owners ∧
    e.lcs.debug = d.lcs.debug ∧ e.lcs.debugMax = d.lcs.debugMax ∧ e.lcs.drbgUp = d.lcs.drbgUp ∧ e.ras.resets = d.ras.resets ∧
    e.ras.seq = d.ras.seq := by
  simpa only [Dev.unwiped, Prod.mk.injEq] using h

theorem Stack.keys_wiped (t : Tbl Stack) (s : Nat) :
    (Tbl.look Stack.reset (Tbl.mapV (fun _ (t : Stack) => { t with keys := [] }) t) s).keys = [] :=
  Tbl.look_mapV (P := fun t : Stack => t.keys = []) rfl (fun _ => rfl) t

theorem Dev.wipeNo_two (d : Dev) : ∃ regs, d.wipeNo 2 = { d with
    regs := regs, stk := Tbl.mapV (fun _ (t : Stack) => { t with keys := [] }) d.stk
    cxl := { d.cxl with links := Tbl.mapV (fun _ (l : Link) => { l with ideKeys := false }) d.cxl.links }
    lcs := { d.lcs with drbgReqs := 0 } } := by
  have hclear : ∀ e : Dev, ∃ regs, allStacks.foldl (fun d s => if d.reg (STK_KEYSTAT.off s) = 0 then d else d.setReg (STK_KEYSTAT.off s) 0) e =
      { e with regs := regs } := by
    intro e
    refine foldl_keeps (fun x : Dev => ∃ regs, x = { e with regs := regs }) _ ?_ _ e ⟨_, rfl⟩
    rintro x k ⟨regs, rfl⟩
    split <;> exact ⟨_, rfl⟩
  obtain ⟨regs, h⟩ := hclear { d with
    stk := Tbl.mapV (fun _ (t : Stack) => { t with keys := [] }) d.stk
    cxl := { d.cxl with links := Tbl.mapV (fun _ (l : Link) => { l with ideKeys := false }) d.cxl.links } }
  refine ⟨regs, ?_⟩
  unfold Dev.wipeNo
  dsimp only
  rw [h]
  rfl

/-- A wipe other than W2 leaves stacks and links, and none leaves less wiped. -/
theorem Dev.wipeNo_law (d : Dev) (k : Nat) : (d.wipeNo k).unwiped = d.unwiped ∧ (d.mem = [] → (d.wipeNo k).mem = []) ∧
    (d.slice = [] → (d.wipeNo k).slice = []) ∧ ((∀ s, (d.stack s).keys = []) → ∀ s, ((d.wipeNo k).stack s).keys = []) ∧
    (d.comp.snaps = [] → (d.wipeNo k).comp.snaps = []) ∧ (Tbl.find d.lcs.certs 1 = none → Tbl.find (d.wipeNo k).lcs.certs 1 = none) ∧
    (d.lcs.udsGone = true → (d.wipeNo k).lcs.udsGone = true) := by
  match k with
  | 1 => exact ⟨rfl, fun _ => rfl, fun _ => rfl, id, id, id, id⟩
  | 2 =>
    obtain ⟨regs, h⟩ := d.wipeNo_two
    rw [h]
    exact ⟨rfl, id, id, fun _ s => Stack.keys_wiped d.stk s, id, id, id⟩
  | 3 => exact ⟨rfl, id, id, id, fun _ => rfl, fun _ => Tbl.find_del_same d.lcs.certs 1, id⟩
  | 4 => exact ⟨rfl, id, id, id, id, id, id⟩
  | 5 => exact ⟨rfl, id, id, id, id, fun h => (Tbl.find_del_other d.lcs.certs 0 1 (by decide)).trans h, fun _ => rfl⟩
  | 0 | _ + 6 => exact ⟨rfl, id, id, id, id, id, id⟩

theorem Dev.unwiped_foldl (l : List Nat) (d : Dev) : (l.foldl Dev.wipeNo d).unwiped = d.unwiped :=
  Dev.foldl_proj (π := Dev.unwiped) (fun e k => (e.wipeNo_law k).1) l d

/-- What each wipe of a list leaves wiped. -/
theorem Dev.wipes_law (l : List Nat) (d : Dev) : (1 ∈ l → (l.foldl Dev.wipeNo d).mem = [] ∧ (l.foldl Dev.wipeNo d).slice = []) ∧
    (2 ∈ l → ∀ s, ((l.foldl Dev.wipeNo d).stack s).keys = []) ∧
    (3 ∈ l → (l.foldl Dev.wipeNo d).comp.snaps = [] ∧ Tbl.find (l.foldl Dev.wipeNo d).lcs.certs 1 = none) ∧
    (5 ∈ l → (l.foldl Dev.wipeNo d).lcs.udsGone = true) := by
  refine ⟨fun h => ?_, fun h => ?_, fun h => ?_, fun h => ?_⟩
  · refine foldl_reaches (I := fun _ => True) (P := fun e : Dev => e.mem = [] ∧ e.slice = []) h (fun _ _ h => h) ?_
      (fun _ _ => ⟨rfl, rfl⟩) trivial
    rintro e k ⟨hmem, hslice⟩
    obtain ⟨-, hm, hs, -⟩ := e.wipeNo_law k
    exact ⟨hm hmem, hs hslice⟩
  · refine foldl_reaches (I := fun _ => True) (P := fun e : Dev => ∀ s, (e.stack s).keys = []) h (fun _ _ h => h) ?_ ?_ trivial
    · intro e k he
      obtain ⟨-, -, -, hk, -⟩ := e.wipeNo_law k
      exact hk he
    · intro e _ s
      obtain ⟨regs, h⟩ := e.wipeNo_two
      rw [h]
      exact Stack.keys_wiped e.stk s
  · refine foldl_reaches (I := fun _ => True) (P := fun e : Dev => e.comp.snaps = [] ∧ Tbl.find e.lcs.certs 1 = none) h (fun _ _ h => h) ?_
      (fun e _ => ⟨rfl, Tbl.find_del_same e.lcs.certs 1⟩) trivial
    rintro e k ⟨hsnaps, hcert⟩
    obtain ⟨-, -, -, -, hs, hc, -⟩ := e.wipeNo_law k
    exact ⟨hs hsnaps, hc hcert⟩
  · refine foldl_reaches (I := fun _ => True) (P := fun e : Dev => e.lcs.udsGone = true) h (fun _ _ h => h) ?_ (fun _ _ => rfl) trivial
    intro e k he
    obtain ⟨-, -, -, -, -, -, hu⟩ := e.wipeNo_law k
    exact hu he

/-- A row's wipes are those its WIPES names, and W5 with End-of-life. -/
theorem JRow.mem_wipeList {r : JRow} {k : Nat} (hk : 1 ≤ k) (h4 : k ≤ 4) (hbit : bit r.wipes (k - 1) = true) : k ∈ r.wipeList := by
  refine List.mem_append.mpr (.inl (List.mem_filter.mpr ⟨?_, hbit⟩))
  have : k = 1 ∨ k = 2 ∨ k = 3 ∨ k = 4 := by omega
  simpa using this

theorem JRow.mem_wipeList_five {r : JRow} (h : r.target = 3) : 5 ∈ r.wipeList := by
  unfold JRow.wipeList
  rw [if_pos h]
  exact List.mem_append.mpr (.inr List.mem_cons_self)

/-- Every transition wipes memories and keys, and one past Test the flash log and the owner's certificate (Table 15-6). -/
theorem wipesOf_law (t : Nat) : bit (wipesOf t) 0 = true ∧ bit (wipesOf t) 1 = true ∧ (2 ≤ t → bit (wipesOf t) 2 = true) := by
  unfold wipesOf
  split
  case isTrue h => exact ⟨by decide, by decide, fun h2 => by omega⟩
  case isFalse =>
    split
    · exact ⟨by decide, by decide, fun _ => by decide⟩
    · exact ⟨by decide, by decide, fun _ => by decide⟩

/-! ### Transitions (R495) -/

/-- The row pair a transition programs, its intent not yet whole. -/
def intentRow (target : Nat) : JRow := { target := target, wipes := wipesOf target, valid := false, void := false, commit := false }

/-- The journal with its row pair `i` edited. -/
def Dev.editRow (d : Dev) (i : Nat) (f : JRow → JRow) : Dev := d.onLcs fun l => { l with journal := modifyAt l.journal i f }

/-- The device with a transition's intent row whole. -/
def Dev.intended (d : Dev) (target : Nat) : Dev :=
  (d.onLcs fun l => { l with journal := l.journal ++ [intentRow target] }).editRow d.lcs.journal.length fun r => { r with valid := true }

theorem modifyAt_append_last {α : Type} (l : List α) (a : α) (f : α → α) : modifyAt (l ++ [a]) l.length f = l ++ [f a] := by
  induction l with
  | nil => rfl
  | cons b l ih => exact congrArg (b :: ·) ih

theorem Dev.intended_law (d : Dev) (t : Nat) : (d.intended t).lcs = { d.lcs with journal := d.lcs.journal ++ [{ intentRow t with valid := true }] } ∧
    (d.intended t).ras = d.ras := by
  refine ⟨?_, rfl⟩
  have hjournal := modifyAt_append_last d.lcs.journal (intentRow t) fun r => { r with valid := true }
  exact congrArg (fun j => ({ d.lcs with journal := j } : Lcs)) hjournal

/-- A transition's work: its intent, its wipes and its commit row. -/
theorem Dev.lcWork_eq (d : Dev) (t : Nat) : d.lcWork t =
    (fun d => d.onLcs fun l => { l with journal := l.journal ++ [intentRow t] }) ::
      (fun x => x.editRow d.lcs.journal.length fun r => { r with valid := true }) ::
      ((intentRow t).wipeList.map (fun k x => x.wipeNo k) ++ [fun x => x.editRow d.lcs.journal.length fun r => { r with commit := true }]) := rfl

theorem foldl_wipes (l : List Nat) (d : Dev) : (l.map fun k (x : Dev) => x.wipeNo k).foldl (fun d f => f d) d = l.foldl Dev.wipeNo d := by
  rw [List.foldl_map]

/-- The whole work. -/
theorem Dev.lcWork_whole (d : Dev) (t : Nat) {x : Dev} (hj : x.lcs.journal = d.lcs.journal) : (d.lcWork t).foldl (fun d f => f d) x =
    ((intentRow t).wipeList.foldl Dev.wipeNo (x.intended t)).editRow d.lcs.journal.length fun r => { r with commit := true } := by
  rw [Dev.lcWork_eq, List.foldl_cons, List.foldl_cons, List.foldl_append, foldl_wipes]
  unfold Dev.intended
  rw [hj]
  rfl

/-- The work that is done when power goes before its commit row. -/
theorem Dev.lcWork_part (d : Dev) (t : Nat) {x : Dev} (hj : x.lcs.journal = d.lcs.journal) {cut : Nat} (hcut : cut < (d.lcWork t).length) :
    ((d.lcWork t).take cut).foldl (fun d f => f d) x =
      if cut = 0 then x else if cut = 1 then x.onLcs fun l => { l with journal := l.journal ++ [intentRow t] }
      else ((intentRow t).wipeList.take (cut - 2)).foldl Dev.wipeNo (x.intended t) := by
  rw [Dev.lcWork_eq] at hcut ⊢
  match cut with
  | 0 => rfl
  | 1 => rfl
  | n + 2 =>
    have hn : n ≤ ((intentRow t).wipeList.map fun k (x : Dev) => x.wipeNo k).length := by
      simp only [List.length_cons, List.length_append, List.length_nil] at hcut
      omega
    rw [List.take_succ_cons, List.take_succ_cons, List.take_append_of_le_length hn, List.foldl_cons, List.foldl_cons, ← List.map_take,
      foldl_wipes, if_neg (by omega), if_neg (by omega)]
    unfold Dev.intended
    rw [hj]
    rfl

theorem Dev.alerts_law (l : List Alert) (d : Dev) : (l.foldl (fun d a => d.alert a false) d).pwr = d.pwr ∧
    (l.foldl (fun d a => d.alert a false) d).fw = d.fw ∧ (l.foldl (fun d a => d.alert a false) d).lcs = d.lcs ∧
    (l.foldl (fun d a => d.alert a false) d).mod.inputOn = d.mod.inputOn :=
  foldl_keeps (fun e : Dev => e.pwr = d.pwr ∧ e.fw = d.fw ∧ e.lcs = d.lcs ∧ e.mod.inputOn = d.mod.inputOn) (fun d a => d.alert a false) (fun _ _ h => h) l d
    ⟨rfl, rfl, rfl, rfl⟩

/-- Firmware, the DRBG and the package's state with power removed. -/
def Dev.darkened (d : Dev) : Dev := { d with
  fw := { d.fw with
    update := none, bootStep := 0, stopped := false, recovery := false, refused := 0, tid := 0, eid := 0, events := []
    answer := none }
  lcs := { d.lcs with drbgUp := true, drbgReqs := 0, drbgFails := 0 }
  pwr := { d.pwr with pkg := .dark } }

theorem Dev.powerOff_eq (d : Dev) : d.powerOff =
    ([Alert.belowFloor, .powerCycle, .bootStopped, .recovery, .event].foldl (fun d a => d.alert a false) (d.pkgClear true).darkened).set
      PWR_STATE_REQ.STATE Pwr.dark.code := rfl

theorem Dev.kept_of_noRegs {d e : Dev} (h : e.noRegs = d.noRegs) :
    e.mod.inputOn = d.mod.inputOn ∧ e.lcs.journal = d.lcs.journal := by
  have hmod := congrArg (fun e : Dev => e.mod.inputOn) h
  have hjournal := congrArg (fun e : Dev => e.lcs.journal) h
  exact ⟨hmod, hjournal⟩

theorem Dev.darkened_law {d x z : Dev} (hz : z.pwr = x.darkened.pwr ∧ z.fw = x.darkened.fw ∧ z.lcs = x.darkened.lcs ∧
    z.mod.inputOn = x.darkened.mod.inputOn) (hmod : x.mod.inputOn = d.mod.inputOn) (hjournal : x.lcs.journal = d.lcs.journal) (f : Fld) (v : Nat) :
    (z.set f v).pwr.pkg = .dark ∧ (z.set f v).fw.bootStep = 0 ∧ (z.set f v).mod.inputOn = d.mod.inputOn ∧
    (z.set f v).lcs.journal = d.lcs.journal := by
  obtain ⟨hpwr, hfw, hlcs, hinput⟩ := hz
  exact ⟨congrArg (·.pkg) hpwr, congrArg (·.bootStep) hfw, hinput.trans hmod, (congrArg (·.journal) hlcs).trans hjournal⟩

/-- Power removed leaves the journal, and the input as it is. -/
theorem Dev.powerOff_law (d : Dev) : d.powerOff.pwr.pkg = .dark ∧ d.powerOff.fw.bootStep = 0 ∧ d.powerOff.mod.inputOn = d.mod.inputOn ∧
    d.powerOff.lcs.journal = d.lcs.journal := by
  obtain ⟨hmod, hjournal⟩ := Dev.kept_of_noRegs (d.noRegs_pkgClear true)
  have hcleared : ((d.cleared true).alert .belowFloor false).mod.inputOn = d.mod.inputOn ∧
      ((d.cleared true).alert .belowFloor false).lcs.journal = d.lcs.journal := ⟨rfl, rfl⟩
  replace hmod := hmod.trans hcleared.1
  replace hjournal := hjournal.trans hcleared.2
  rw [Dev.powerOff_eq]
  generalize d.pkgClear true = x at hmod hjournal ⊢
  exact Dev.darkened_law (Dev.alerts_law _ x.darkened) hmod hjournal PWR_STATE_REQ.STATE Pwr.dark.code

/-- The state is that of the last committed row pair (R490). -/
theorem Lcs.state_append {l : Lcs} {j : List JRow} {r : JRow} (h : l.journal = j ++ [r]) :
    l.state = if r.commit then r.target else (((j.filter (·.commit)).getLast?).map (·.target)).getD 0 := by
  unfold Lcs.state
  rw [h, List.filter_append]
  cases hr : r.commit <;> simp [hr]

/-- A GO for a transition: the device before its work. -/
def Dev.lcAsked (d : Dev) (arm : Bool) : Dev := ((d.onMod fun m => { m with lcArm := arm }).set LCS_TRANSITION.ACTION 1).set LCS_TRANSITION.STATUS 1

/-- What LC_TRANSITION makes of the device. -/
def Dev.lcTransition (d : Dev) (now path : Nat) (arm sig dev : Bool) (cut : Nat) : Dev :=
  (d.onMod fun m => { m with lcArm := arm }).go now path 1 (fun d => d.lcCauses arm sig dev) fun d => d.lcRun now cut

theorem lcTransition_leads (s : State) (path : Nat) (arm sig dev : Bool) (cut : Nat) :
    Leads (.lcTransition path arm sig dev cut) s (s.dev.lcTransition s.now path arm sig dev cut) := rfl

theorem Dev.lcTransition_accepted {d : Dev} {path : Nat} {arm sig dev : Bool} (hwrite : MayWrite d path LCS_TRANSITION.off)
    (h : firstCause (d.lcCauses arm sig dev) = none) (now cut : Nat) : d.lcTransition now path arm sig dev cut =
      ((d.onMod fun m => { m with lcArm := arm }).set LCS_TRANSITION.ACTION 1).lcRun now cut :=
  Dev.go_of_no_cause (d := d.onMod fun m => { m with lcArm := arm }) hwrite h

/-- With power kept, all the work is done, recorded, and the package reset asked for. -/
theorem Dev.lcRun_whole {d : Dev} {now cut : Nat} (hcut : (d.lcWork d.lcs.target).length ≤ cut) : d.lcRun now cut =
    ((((((intentRow d.lcs.target).wipeList.foldl Dev.wipeNo ((d.set LCS_TRANSITION.STATUS 1).intended d.lcs.target)).editRow d.lcs.journal.length
      fun r => { r with commit := true }).goDone).reportNow now 0x0901 moduleUnit 0x00 .fatal
        [d.lcs.state, d.lcs.target, d.lcs.journal.length]).requestReset now 5 moduleUnit 0x0901) := by
  have hj : (d.set LCS_TRANSITION.STATUS 1).lcs.journal = d.lcs.journal := rfl
  unfold Dev.lcRun
  dsimp only
  rw [if_neg (Nat.not_lt.mpr hcut), List.take_of_length_le hcut, d.lcWork_whole d.lcs.target hj]

/-- Without it, the module is dark with what was done. -/
theorem Dev.lcRun_part {d : Dev} {now cut : Nat} (hcut : cut < (d.lcWork d.lcs.target).length) : d.lcRun now cut =
    ((((d.lcWork d.lcs.target).take cut).foldl (fun d f => f d) (d.set LCS_TRANSITION.STATUS 1)).onMod fun m =>
      { m with inputOn := false, vinMv := 0 }).powerOff := if_pos hcut

/-- A package reset asked for is under way. -/
theorem Dev.requestReset_package (d : Dev) (now unit cause : Nat) :
    (∃ resets, d.requestReset now 5 unit cause = { d with ras := { d.ras with resets := resets } }) ∧
    ((∀ r ∈ d.ras.resets, r.level ≠ 5) → (d.requestReset now 5 unit cause).ras.resets = [⟨5, unit, cause, now, 0⟩]) ∧
    ∃ r ∈ (d.requestReset now 5 unit cause).ras.resets, r.level = 5 := by
  unfold Dev.requestReset
  split
  case isTrue h =>
    obtain ⟨r, hr, habs⟩ := List.any_eq_true.mp h
    have hlevel : r.level = 5 := by
      simp only [ResetRun.absorbs, Bool.or_eq_true, Bool.and_eq_true, beq_iff_eq] at habs
      exact habs.elim id (·.1)
    exact ⟨⟨_, rfl⟩, fun hnone => absurd hlevel (hnone r hr), r, hr, hlevel⟩
  case isFalse => exact ⟨⟨_, rfl⟩, fun _ => rfl, _, List.mem_cons_self, rfl⟩

/-- The device with a transition's rows programmed and its wipes done. -/
def Dev.transited (d : Dev) (t : Nat) : Dev :=
  ((intentRow t).wipeList.foldl Dev.wipeNo (d.intended t)).editRow d.lcs.journal.length fun r => { r with commit := true }

theorem Dev.transited_law (d : Dev) (t : Nat) :
    (d.transited t).lcs.journal = d.lcs.journal ++ [{ intentRow t with valid := true, commit := true }] ∧
    (d.transited t).exposed.mem = [] ∧ (d.transited t).exposed.slice = [] ∧
    (∀ k, (Tbl.look Stack.reset (d.transited t).exposed.stk k).keys = []) ∧
    (2 ≤ t → (d.transited t).comp.snaps = [] ∧ Tbl.find (d.transited t).lcs.certs 1 = none) ∧
    (t = 3 → (d.transited t).lcs.udsGone = true) ∧ (d.transited t).ras.resets = d.ras.resets := by
  obtain ⟨h1, h2, h3⟩ := wipesOf_law t
  obtain ⟨hmem, hkeys, hflash, huds⟩ := Dev.wipes_law (intentRow t).wipeList (d.intended t)
  obtain ⟨hlcs, hras⟩ := d.intended_law t
  obtain ⟨hjournal, -, -, -, -, hresets, -⟩ := Dev.of_unwiped (Dev.unwiped_foldl (intentRow t).wipeList (d.intended t))
  have hw1 : 1 ∈ (intentRow t).wipeList := JRow.mem_wipeList (Nat.le_refl 1) (by decide) h1
  have hw2 : 2 ∈ (intentRow t).wipeList := JRow.mem_wipeList (by decide) (by decide) h2
  have hw3 : 2 ≤ t → 3 ∈ (intentRow t).wipeList := fun h => JRow.mem_wipeList (by decide) (by decide) (h3 h)
  have hw5 : t = 3 → 5 ∈ (intentRow t).wipeList := fun h => JRow.mem_wipeList_five h
  unfold Dev.transited
  generalize List.foldl Dev.wipeNo (d.intended t) (intentRow t).wipeList = x at *
  refine ⟨?_, (hmem hw1).1, (hmem hw1).2, hkeys hw2, fun h => hflash (hw3 h), fun h => huds (hw5 h), hresets.trans (by rw [hras])⟩
  rw [hlcs] at hjournal
  show modifyAt x.lcs.journal d.lcs.journal.length _ = _
  rw [hjournal]
  exact modifyAt_append_last d.lcs.journal { intentRow t with valid := true } fun r => { r with commit := true }

theorem Dev.lcRun_whole_law {d : Dev} {now cut t : Nat} (ht : d.lcs.target = t) (hcut : (d.lcWork t).length ≤ cut) :
    (d.lcRun now cut).lcs.state = t ∧
    (d.lcRun now cut).lcs.journal = d.lcs.journal ++ [{ intentRow t with valid := true, commit := true }] ∧
    (d.lcRun now cut).mem = [] ∧ (d.lcRun now cut).slice = [] ∧ (∀ k, ((d.lcRun now cut).stack k).keys = []) ∧
    (d.lcRun now cut).get LCS_TRANSITION.STATUS = 2 ∧ (d.lcRun now cut).get LCS_TRANSITION.CAUSE = 0 ∧
    (2 ≤ t → (d.lcRun now cut).comp.snaps = [] ∧ Tbl.find (d.lcRun now cut).lcs.certs 1 = none) ∧
    (t = 3 → (d.lcRun now cut).lcs.udsGone = true) ∧
    ((∀ r ∈ d.ras.resets, r.level ≠ 5) → (d.lcRun now cut).ras.resets = [⟨5, moduleUnit, 0x0901, now, 0⟩]) := by
  subst ht
  have heq : d.lcRun now cut = ((((d.set LCS_TRANSITION.STATUS 1).transited d.lcs.target).goDone).reportNow now 0x0901 moduleUnit 0x00 .fatal
      [d.lcs.state, d.lcs.target, d.lcs.journal.length]).requestReset now 5 moduleUnit 0x0901 := Dev.lcRun_whole hcut
  rw [heq]
  obtain ⟨hjournal, hmem, hslice, hkeys, hflash, huds, hresets⟩ := (d.set LCS_TRANSITION.STATUS 1).transited_law d.lcs.target
  obtain ⟨hstatus, hcause, -, ⟨ch, due, reqs, hlcs⟩, hexposed, hstill, hsnaps⟩ :=
    ((d.set LCS_TRANSITION.STATUS 1).transited d.lcs.target).goDone_reported now 0x0901 .fatal
      [d.lcs.state, d.lcs.target, d.lcs.journal.length]
  generalize (((d.set LCS_TRANSITION.STATUS 1).transited d.lcs.target).goDone).reportNow now 0x0901 moduleUnit 0x00 .fatal
      [d.lcs.state, d.lcs.target, d.lcs.journal.length] = y at *
  generalize (d.set LCS_TRANSITION.STATUS 1).transited d.lcs.target = x at *
  obtain ⟨⟨resets, hreset⟩, hasked, -⟩ := y.requestReset_package now moduleUnit 0x0901
  have hyjournal : y.lcs.journal = d.lcs.journal ++ [{ intentRow d.lcs.target with valid := true, commit := true }] := by
    rw [hlcs]
    exact hjournal
  have hres : (∀ r ∈ d.ras.resets, r.level ≠ 5) → ∀ r ∈ y.ras.resets, r.level ≠ 5 := by
    rw [hstill, hresets]
    exact id
  have hask := fun h => hasked (hres h)
  rw [hreset] at hask ⊢
  rw [← hexposed] at hmem hslice hkeys
  refine ⟨Lcs.state_append hyjournal, hyjournal, hmem, hslice, hkeys, hstatus, hcause, fun h => ⟨hsnaps (hflash h).1, ?_⟩, fun h => ?_, hask⟩
  · show Tbl.find y.lcs.certs 1 = none
    rw [hlcs]
    exact (hflash h).2
  · show y.lcs.udsGone = true
    rw [hlcs]
    exact huds h

theorem Dev.lcRun_part_law {d : Dev} {now cut t : Nat} (ht : d.lcs.target = t) (hcut : cut < (d.lcWork t).length) :
    (d.lcRun now cut).pwr.pkg = .dark ∧ (d.lcRun now cut).fw.bootStep = 0 ∧ (d.lcRun now cut).mod.inputOn = false ∧
    (d.lcRun now cut).lcs.state = d.lcs.state ∧ (cut = 0 → (d.lcRun now cut).lcs.journal = d.lcs.journal) ∧
    (cut = 1 → (d.lcRun now cut).lcs.journal = d.lcs.journal ++ [intentRow t]) ∧
    (2 ≤ cut → (d.lcRun now cut).lcs.journal = d.lcs.journal ++ [{ intentRow t with valid := true }]) := by
  subst ht
  have hdone : ∃ j : List JRow, (((d.lcWork d.lcs.target).take cut).foldl (fun d f => f d) (d.set LCS_TRANSITION.STATUS 1)).lcs.journal = j ∧
      (cut = 0 → j = d.lcs.journal) ∧ (cut = 1 → j = d.lcs.journal ++ [intentRow d.lcs.target]) ∧
      (2 ≤ cut → j = d.lcs.journal ++ [{ intentRow d.lcs.target with valid := true }]) := by
    rw [d.lcWork_part d.lcs.target (x := d.set LCS_TRANSITION.STATUS 1) rfl hcut]
    match cut with
    | 0 => exact ⟨_, rfl, fun _ => rfl, fun h => absurd h (by decide), fun h => absurd h (by decide)⟩
    | 1 => exact ⟨_, rfl, fun h => absurd h (by decide), fun _ => rfl, fun h => absurd h (by decide)⟩
    | n + 2 =>
      rw [if_neg (by omega), if_neg (by omega)]
      obtain ⟨hjournal, -⟩ := Dev.of_unwiped (Dev.unwiped_foldl ((intentRow d.lcs.target).wipeList.take (n + 2 - 2))
        ((d.set LCS_TRANSITION.STATUS 1).intended d.lcs.target))
      refine ⟨_, hjournal, fun h => absurd h (by omega), fun h => absurd h (by omega), fun _ => ?_⟩
      rw [((d.set LCS_TRANSITION.STATUS 1).intended_law d.lcs.target).1]
      rfl
  obtain ⟨j, hj, h0, h1, h2⟩ := hdone
  rw [Dev.lcRun_part hcut]
  generalize ((d.lcWork d.lcs.target).take cut).foldl (fun d f => f d) (d.set LCS_TRANSITION.STATUS 1) = x at hj ⊢
  obtain ⟨hdark, hboot, hinput, hjournal⟩ := (x.onMod fun m => { m with inputOn := false, vinMv := 0 }).powerOff_law
  replace hjournal := hjournal.trans hj
  generalize (x.onMod fun m => { m with inputOn := false, vinMv := 0 }).powerOff = y at *
  refine ⟨hdark, hboot, hinput, ?_, fun h => hjournal.trans (h0 h), fun h => hjournal.trans (h1 h), fun h => hjournal.trans (h2 h)⟩
  have hcut3 : cut = 0 ∨ cut = 1 ∨ 2 ≤ cut := by omega
  obtain h | h | h := hcut3
  · unfold Lcs.state
    rw [hjournal, h0 h]
  · exact (Lcs.state_append (hjournal.trans (h1 h))).trans rfl
  · exact (Lcs.state_append (hjournal.trans (h2 h))).trans rfl

/-! ### Owners (R488) -/

/-- What OWNER_INSTALL makes of the device. -/
def Dev.ownerInstall (d : Dev) (now path : Nat) (arm sig dev : Bool) : Dev :=
  (d.onMod fun m => { m with lcArm := arm }).go now path 2 (fun d => d.ownerCauses arm sig dev) fun d => d.installOwner now

theorem ownerInstall_leads (s : State) (path : Nat) (arm sig dev : Bool) :
    Leads (.ownerInstall path arm sig dev) s (s.dev.ownerInstall s.now path arm sig dev) := rfl

/-- The newest owner row, not revoked, is the active one. -/
theorem Lcs.owner_append {l : Lcs} {j : List OwnerRow} {o : OwnerRow} (h : l.owners = j ++ [o]) (ho : o.revoked = false) :
    l.owner = some (j.length, o) := by
  unfold Lcs.owner
  rw [h, List.zipIdx_append, List.reverse_append]
  simp [ho]

theorem Dev.installOwner_law (d : Dev) (now : Nat) :
    (d.installOwner now).lcs.owners = (d.lcs.owners.map fun o => { o with revoked := true }) ++ [⟨d.lcs.tokField 0x048 64, false⟩] ∧
    (d.installOwner now).lcs.owner = some (d.lcs.owners.length, ⟨d.lcs.tokField 0x048 64, false⟩) ∧
    (d.installOwner now).lcs.ownerReq = (d.lcs.ownerReq || bit d.lcs.tokTarget 0) ∧
    (d.installOwner now).lcs.bootOwner = d.lcs.bootOwner ∧ (d.installOwner now).lcs.journal = d.lcs.journal ∧
    (d.installOwner now).get LCS_TRANSITION.STATUS = 2 ∧ (d.installOwner now).mem = d.mem := by
  unfold Dev.installOwner
  dsimp only
  generalize hx : d.onLcs _ = x
  have hlcs : x.lcs = { d.lcs with
      owners := (d.lcs.owners.map fun o => { o with revoked := true }) ++ [⟨d.lcs.tokField 0x048 64, false⟩]
      ownerReq := d.lcs.ownerReq || bit d.lcs.tokTarget 0 } := by
    rw [← hx]
    rfl
  have hmem : x.exposed.mem = d.mem := by
    rw [← hx]
    rfl
  obtain ⟨hstatus, -, -, ⟨ch, due, reqs, hdone⟩, hexposed, -⟩ := x.goDone_reported now 0x0906 .info
    [d.lcs.owners.length, (d.lcs.ownerReq || bit d.lcs.tokTarget 0).toNat]
  generalize x.goDone.reportNow now 0x0906 moduleUnit 0x00 .info
    [d.lcs.owners.length, (d.lcs.ownerReq || bit d.lcs.tokTarget 0).toNat] = y at *
  rw [hlcs] at hdone
  have howners : y.lcs.owners = (d.lcs.owners.map fun o => { o with revoked := true }) ++ [⟨d.lcs.tokField 0x048 64, false⟩] := by
    rw [hdone]
    rfl
  refine ⟨howners, (Lcs.owner_append howners rfl).trans (by rw [List.length_map]), ?_, ?_, ?_, hstatus,
    (congrArg (·.mem) hexposed).trans hmem⟩ <;> rw [hdone] <;> rfl

/-! ### Debug (R498, R499) -/

/-- The device wiped before level 2 opens in Test. -/
def Dev.debugWiped (d : Dev) : Dev := if d.lcs.state = 1 ∧ d.lcs.tokTarget = 2 then (d.wipeNo 1).wipeNo 2 else d

theorem Dev.debugWiped_law (d : Dev) : d.debugWiped.unwiped = d.unwiped ∧
    d.debugWiped.mem = if d.lcs.state = 1 ∧ d.lcs.tokTarget = 2 then [] else d.mem := by
  unfold Dev.debugWiped
  split
  · exact ⟨((d.wipeNo 1).wipeNo_law 2).1.trans (d.wipeNo_law 1).1, ((d.wipeNo 1).wipeNo_law 2).2.1 rfl⟩
  · exact ⟨rfl, rfl⟩

theorem Dev.debugUp_le {d : Dev} (h : d.lcs.tokTarget ≤ d.lcs.debug) (now path : Nat) : d.debugUp now path = d.goDone := if_pos h

theorem Dev.debugUp_lt {d : Dev} (h : d.lcs.debug < d.lcs.tokTarget) (now path : Nat) : d.debugUp now path =
    ((d.debugWiped.onLcs fun l => { l with debug := d.lcs.tokTarget, debugMax := max l.debugMax d.lcs.tokTarget }).goDone).reportNow now 0x0905
      moduleUnit 0x00 .info [d.lcs.tokTarget, d.lcs.tokSigner, path] := if_neg (Nat.not_le.mpr h)

theorem Dev.debugUp_law (d : Dev) (now path : Nat) :
    (d.debugUp now path).lcs.debug = max d.lcs.debug d.lcs.tokTarget ∧ (d.debugUp now path).get LCS_TRANSITION.STATUS = 2 ∧
    (d.debugUp now path).lcs.journal = d.lcs.journal ∧
    (d.lcs.debug < d.lcs.tokTarget → (d.debugUp now path).lcs.debugMax = max d.lcs.debugMax d.lcs.tokTarget ∧
      (d.debugUp now path).ras.seq = (d.ras.seq + 1) % 2 ^ 32) ∧
    (d.lcs.tokTarget ≤ d.lcs.debug → (d.debugUp now path).ras = d.ras ∧ (d.debugUp now path).lcs.debugMax = d.lcs.debugMax) ∧
    (d.debugUp now path).mem = if d.lcs.debug < d.lcs.tokTarget ∧ d.lcs.state = 1 ∧ d.lcs.tokTarget = 2 then [] else d.mem := by
  obtain h | h := Nat.lt_or_ge d.lcs.debug d.lcs.tokTarget
  · obtain ⟨hsame, hmem⟩ := d.debugWiped_law
    obtain ⟨hjournal, -, -, hmax, -, -, hseq⟩ := Dev.of_unwiped hsame
    rw [Dev.debugUp_lt h]
    generalize d.debugWiped = x at *
    obtain ⟨hstatus, -, hnum, ⟨ch, due, reqs, hlcs⟩, hexposed, -⟩ := Dev.goDone_reported (x.onLcs fun l => { l with
      debug := d.lcs.tokTarget, debugMax := max l.debugMax d.lcs.tokTarget }) now 0x0905 .info [d.lcs.tokTarget, d.lcs.tokSigner, path]
    generalize Dev.reportNow _ now 0x0905 moduleUnit 0x00 .info [d.lcs.tokTarget, d.lcs.tokSigner, path] = y at *
    refine ⟨?_, hstatus, ?_, fun _ => ⟨?_, hnum.trans ?_⟩, fun hle => absurd h (Nat.not_lt.mpr hle), ?_⟩
    · rw [hlcs, Nat.max_eq_right h.le]
      rfl
    · rw [hlcs]
      exact hjournal
    · rw [hlcs]
      exact congrArg (max · d.lcs.tokTarget) hmax
    · exact congrArg (fun n => (n + 1) % 2 ^ 32) hseq
    · refine ((congrArg (·.mem) hexposed).trans hmem).trans ?_
      simp only [h, true_and]
  · obtain ⟨hstatus, -, regs, fresh, ch, due, reqs, hdone⟩ := d.goDone_law
    rw [Dev.debugUp_le h]
    refine ⟨?_, hstatus, ?_, fun hlt => absurd hlt (Nat.not_lt.mpr h), fun _ => ?_, ?_⟩
    · rw [hdone, Nat.max_eq_left h]
      rfl
    · rw [hdone]
      rfl
    · rw [hdone]
      exact ⟨rfl, rfl⟩
    · rw [if_neg fun hn => absurd hn.1 (Nat.not_lt.mpr h), hdone]

/-- What DEBUG_LOCK makes of the device. -/
def Dev.debugLock (d : Dev) (now path : Nat) : Dev :=
  d.go now path 4 (fun d => [(6, d.lcBusy)]) fun d => (d.onLcs fun l => { l with debug := 0 }).goDone

theorem debugLock_leads (s : State) (path : Nat) : Leads (.debugLock path) s (s.dev.debugLock s.now path) := rfl

theorem firstCause_one (n : Nat) (b : Bool) : firstCause [(n, b)] = if b then some n else none := by
  cases b <;> rfl

/-! ### The journal at boot (R497) -/

theorem getElem_modifyAt {α : Type} {l : List α} {i : Nat} {a : α} (h : l[i]? = some a) (f : α → α) : (modifyAt l i f)[i]? = some (f a) := by
  induction l generalizing i with
  | nil => simp at h
  | cons b l ih =>
    cases i with
    | zero =>
      obtain rfl : b = a := by simpa using h
      rfl
    | succ i => exact ih (by simpa using h)

theorem Dev.bootRow_some {d : Dev} {i : Nat} {r : JRow} (h : d.lcs.journal[i]? = some r) (now : Nat) : d.bootRow now i =
    if !r.valid && !r.void then
      (d.onLcs fun l => { l with journal := modifyAt l.journal i fun r => { r with void := true } }).reportNow now 0x0904
        moduleUnit 0x00 .info [i]
    else if r.valid && !r.commit then
      (((r.wipeList.foldl Dev.wipeNo d).onLcs fun l => { l with journal := modifyAt l.journal i fun r => { r with commit := true } }).set
        LCS_JOURNAL.ROLLED 1).reportNow now 0x0903 moduleUnit 0x00 .info [i, r.target, r.wipes] true
    else d := by
  unfold Dev.bootRow
  rw [h]

theorem Dev.bootRow_void {d : Dev} {i : Nat} {r : JRow} (h : d.lcs.journal[i]? = some r) (hvalid : r.valid = false) (hvoid : r.void = false)
    (now : Nat) : (d.bootRow now i).lcs.journal[i]? = some { r with void := true } ∧ (d.bootRow now i).mem = d.mem := by
  rw [Dev.bootRow_some h, if_pos (by rw [hvalid, hvoid]; rfl)]
  obtain ⟨hsame, -⟩ := Dev.reportNow_law (d.onLcs fun l => { l with journal := modifyAt l.journal i fun r => { r with void := true } }) now 0x0904
    moduleUnit 0x00 .info [i] false none
  obtain ⟨hlcs, hmem, -⟩ := Dev.of_unreported hsame
  rw [hlcs]
  exact ⟨getElem_modifyAt h _, hmem⟩

theorem Dev.bootRow_forward {d : Dev} {i : Nat} {r : JRow} (h : d.lcs.journal[i]? = some r) (hvalid : r.valid = true) (hcommit : r.commit = false)
    (now : Nat) : (d.bootRow now i).lcs.journal[i]? = some { r with commit := true } ∧ (d.bootRow now i).flag LCS_JOURNAL.ROLLED = true ∧
    (bit r.wipes 0 = true → (d.bootRow now i).mem = []) := by
  rw [Dev.bootRow_some h, if_neg (by simp [hvalid]), if_pos (by rw [hvalid, hcommit]; rfl)]
  obtain ⟨hjournal, -⟩ := Dev.of_unwiped (Dev.unwiped_foldl r.wipeList d)
  have hmem := (Dev.wipes_law r.wipeList d).1
  generalize List.foldl Dev.wipeNo d r.wipeList = x at hjournal hmem ⊢
  have hrolled := Dev.get_set_same (x.onLcs fun l => { l with journal := modifyAt l.journal i fun r => { r with commit := true } })
    LCS_JOURNAL.ROLLED 1 (by decide)
  obtain ⟨hsame, hget⟩ := Dev.reportNow_law ((x.onLcs fun l => { l with journal := modifyAt l.journal i fun r => { r with commit := true } }).set
    LCS_JOURNAL.ROLLED 1) now 0x0903 moduleUnit 0x00 .info [i, r.target, r.wipes] true none
  obtain ⟨hlcs, hmem', -⟩ := Dev.of_unreported hsame
  refine ⟨?_, ?_, fun hbit => hmem'.trans (hmem (JRow.mem_wipeList (Nat.le_refl 1) (by decide) hbit)).1⟩
  · rw [hlcs]
    exact getElem_modifyAt (l := x.lcs.journal) (hjournal ▸ h) _
  · rw [Dev.flag, hget _ (by decide) (by decide), hrolled]
    rfl

theorem Dev.bootRow_done {d : Dev} {i : Nat} {r : JRow} (h : d.lcs.journal[i]? = some r)
    (hdone : r.valid = true ∧ r.commit = true ∨ r.valid = false ∧ r.void = true) (now : Nat) : d.bootRow now i = d := by
  rw [Dev.bootRow_some h]
  obtain ⟨hvalid, hcommit⟩ | ⟨hvalid, hvoid⟩ := hdone
  · rw [if_neg (by simp [hvalid]), if_neg (by simp [hcommit])]
  · rw [if_neg (by simp [hvoid]), if_neg (by simp [hvalid])]

/-! ### The DRBG (R479) -/

/-- The security block with one more failed test. -/
def Lcs.stopped (l : Lcs) (now : Nat) : Lcs := { l with drbgUp := false, drbgFails := l.drbgFails + 1, drbgFailAt := now }

theorem Dev.drbgStop_law (d : Dev) (now test : Nat) : (d.drbgStop now test).lcs = d.lcs.stopped now ∧
    (d.lcs.drbgFails < 2 → (d.drbgStop now test).ras.resets = d.ras.resets) ∧
    (2 ≤ d.lcs.drbgFails → ∃ r ∈ (d.drbgStop now test).ras.resets, r.level = 5) := by
  unfold Dev.drbgStop
  dsimp only
  split
  case isTrue h =>
    obtain ⟨hsame, -⟩ := Dev.reportNow_law (d.onLcs fun l => l.stopped now) now 0x090B moduleUnit 0x00 .info
      [test, d.lcs.drbgFails + 1] false none
    obtain ⟨hlcs, -, -, -, -, hresets⟩ := Dev.of_unreported hsame
    exact ⟨hlcs, fun _ => hresets, fun h2 => absurd h (by omega)⟩
  case isFalse h =>
    obtain ⟨hsame, -⟩ := Dev.reportNow_law (d.onLcs fun l => l.stopped now) now 0x090B moduleUnit 0x00 .fatal
      [test, d.lcs.drbgFails + 1] false none
    obtain ⟨hlcs, -⟩ := Dev.of_unreported hsame
    obtain ⟨⟨resets, hreset⟩, -, hlevel⟩ := Dev.requestReset_package ((d.onLcs fun l => l.stopped now).reportNow now 0x090B moduleUnit 0x00
      .fatal [test, d.lcs.drbgFails + 1]) now moduleUnit 0x090B
    refine ⟨?_, fun h2 => absurd h (by omega), fun _ => hlevel⟩
    have hsec := congrArg Dev.lcs hreset
    exact hsec.trans hlcs

theorem entropyFailure_leads (s : State) (test : Nat) :
    Leads (.entropyFailure test) s (if s.dev.lcs.drbgUp then s.dev.drbgStop s.now test else s.dev) := rfl

theorem drbgRetry_leads (s : State) (ok : Bool) : Leads (.drbgRetry ok) s (s.dev.drbgRetry s.now ok) := rfl

/-- A retry is due a second after a failure that was not the third. -/
theorem Dev.drbgRetry_due {d : Dev} {now : Nat} (hup : d.lcs.drbgUp = false) (hfails : d.lcs.drbgFails < 3)
    (hat : d.lcs.drbgFailAt + second ≤ now) (ok : Bool) : d.drbgRetry now ok =
      if !ok then d.drbgStop now (Config.code 0x090B 0)
      else if d.lcs.chalDue then (d.onLcs fun l => { l with drbgUp := true, drbgFails := 0 }).newChallenge
      else d.onLcs fun l => { l with drbgUp := true, drbgFails := 0 } := by
  have hno : ¬(d.lcs.drbgUp = true ∨ 3 ≤ d.lcs.drbgFails ∨ now < d.lcs.drbgFailAt + second) := by
    rw [hup]
    simp only [Bool.false_eq_true, false_or]
    omega
  exact if_neg hno

theorem Dev.drbgRetry_not_due {d : Dev} {now : Nat} (h : ¬(d.lcs.drbgUp = false ∧ d.lcs.drbgFails < 3 ∧ d.lcs.drbgFailAt + second ≤ now))
    (ok : Bool) : d.drbgRetry now ok = d := by
  refine if_pos ?_
  cases hup : d.lcs.drbgUp with
  | true => exact .inl rfl
  | false =>
    have : ¬(d.lcs.drbgFails < 3 ∧ d.lcs.drbgFailAt + second ≤ now) := fun hn => h ⟨hup, hn⟩
    exact .inr (by omega)

theorem Dev.newChallenge_up {d : Dev} (h : d.lcs.drbgUp = true) : ∃ fresh ch reqs,
    d.newChallenge = { d with fresh := fresh, lcs := d.lcs.rechallenged ch false reqs } := by
  unfold Dev.newChallenge
  rw [h]
  exact ⟨_, _, _, rfl⟩

theorem Dev.drbgRetry_ok {d : Dev} {now : Nat} (hup : d.lcs.drbgUp = false) (hfails : d.lcs.drbgFails < 3)
    (hat : d.lcs.drbgFailAt + second ≤ now) : (d.drbgRetry now true).lcs.drbgUp = true ∧ (d.drbgRetry now true).lcs.drbgFails = 0 ∧
    (d.drbgRetry now true).lcs.chalDue = false ∧ (d.drbgRetry now true).ras = d.ras := by
  rw [Dev.drbgRetry_due hup hfails hat, if_neg (by decide)]
  split
  case isTrue =>
    obtain ⟨fresh, ch, reqs, h⟩ := Dev.newChallenge_up (d := d.onLcs fun l => { l with drbgUp := true, drbgFails := 0 }) rfl
    rw [h]
    exact ⟨rfl, rfl, rfl, rfl⟩
  case isFalse h => exact ⟨rfl, rfl, Bool.eq_false_of_not_eq_true h, rfl⟩

theorem drbgReseed_leads (s : State) :
    Leads .drbgReseed s (if 2 ^ 20 ≤ s.dev.lcs.drbgReqs ∧ s.dev.lcs.drbgUp then s.dev.reseed else s.dev) := rfl

/-- Settles O52: refusals, transitions whole and cut short, owners, debug, the journal at boot, and the DRBG. -/
theorem lifeCycleMoves : Obligations.LifeCycleMoves := by
  unfold Obligations.LifeCycleMoves
  intro s
  refine ⟨fun path hwrite => ⟨fun arm sig dev => ⟨?_, ?_, ?_, ?_, ?_⟩, fun sig dev => ⟨?_, ?_⟩, ?_, ?_⟩, ?_, ?_, ?_, ⟨?_, ?_⟩, ?_, ?_⟩
  · intro cut c hc
    have hmem := mem_of_firstCause hc
    have hlt : c < 16 := by
      simp only [Dev.lcCauses, List.map_cons, List.map_nil, List.mem_cons, List.not_mem_nil, or_false] at hmem
      omega
    exact answers_of_eq (lcTransition_leads s path arm sig dev cut)
      (Dev.go_of_cause (d := s.dev.onMod fun m => { m with lcArm := arm }) hwrite hc s.now _) (Dev.goRefused_law _ hlt)
  · intro cut hnone hcut
    refine answers_of_eq (lcTransition_leads s path arm sig dev cut) (Dev.lcTransition_accepted hwrite hnone s.now cut) ?_
    obtain ⟨hstate, hjournal, hmem, hslice, hkeys, hstatus, hcause, hflash, huds, hresets⟩ :=
      Dev.lcRun_whole_law (d := (s.dev.onMod fun m => { m with lcArm := arm }).set LCS_TRANSITION.ACTION 1) (now := s.now)
        (t := s.dev.lcs.target) rfl hcut
    exact ⟨hstate, hjournal, hmem, hslice, hkeys, hstatus, hcause, hflash, huds, hresets⟩
  · intro cut hnone hcut
    exact answers_of_eq (lcTransition_leads s path arm sig dev cut) (Dev.lcTransition_accepted hwrite hnone s.now cut)
      (Dev.lcRun_part_law (d := (s.dev.onMod fun m => { m with lcArm := arm }).set LCS_TRANSITION.ACTION 1) rfl hcut)
  · intro c hc
    have hmem := mem_of_firstCause hc
    have hlt : c < 16 := by
      simp only [Dev.ownerCauses, List.map_cons, List.map_nil, List.mem_cons, List.not_mem_nil, or_false] at hmem
      omega
    exact answers_of_eq (ownerInstall_leads s path arm sig dev)
      (Dev.go_of_cause (d := s.dev.onMod fun m => { m with lcArm := arm }) hwrite hc s.now _) (Dev.goRefused_law _ hlt)
  · intro hnone
    exact answers_of_eq (ownerInstall_leads s path arm sig dev)
      (Dev.go_of_no_cause (d := s.dev.onMod fun m => { m with lcArm := arm }) hwrite hnone) (Dev.installOwner_law _ s.now)
  · intro c hc
    have hmem := mem_of_firstCause hc
    have hlt : c < 16 := by
      simp only [Dev.debugCauses, List.map_cons, List.map_nil, List.mem_cons, List.not_mem_nil, or_false] at hmem
      omega
    rw [← s.dev.debugCauses_set_action 3] at hc
    exact answers_of_eq (debugUnlock_leads s path sig dev) (Dev.go_of_cause hwrite hc s.now _) (Dev.goRefused_law _ hlt)
  · intro hnone
    rw [← s.dev.debugCauses_set_action 3] at hnone
    exact answers_of_eq (debugUnlock_leads s path sig dev) (Dev.go_of_no_cause hwrite hnone)
      (Dev.debugUp_law (s.dev.set LCS_TRANSITION.ACTION 3) s.now path)
  · intro hbusy
    have hc : firstCause [(6, (s.dev.set LCS_TRANSITION.ACTION 4).lcBusy)] = some 6 := (firstCause_one 6 _).trans (if_pos hbusy)
    exact answers_of_eq (debugLock_leads s path) (Dev.go_of_cause (causes := fun d => [(6, d.lcBusy)]) hwrite hc s.now _)
      (Dev.goRefused_law _ (by decide))
  · intro hfree
    have hc : firstCause [(6, (s.dev.set LCS_TRANSITION.ACTION 4).lcBusy)] = none :=
      (firstCause_one 6 _).trans (if_neg (ne_true_of_eq_false hfree))
    refine answers_of_eq (debugLock_leads s path) (Dev.go_of_no_cause (causes := fun d => [(6, d.lcBusy)]) hwrite hc) ?_
    obtain ⟨hstatus, -, regs, fresh, ch, due, reqs, hdone⟩ :=
      ((s.dev.set LCS_TRANSITION.ACTION 4).onLcs fun l => { l with debug := 0 }).goDone_law
    refine ⟨?_, ?_, hstatus, ?_, ?_⟩ <;> rw [hdone] <;> rfl
  · intro now i r hr
    exact ⟨fun hvalid hvoid => Dev.bootRow_void hr hvalid hvoid now, fun hvalid hcommit => Dev.bootRow_forward hr hvalid hcommit now,
      fun hdone => Dev.bootRow_done hr hdone now⟩
  · intro hdown test
    exact leads_of_eq (entropyFailure_leads s test) (if_neg (ne_true_of_eq_false hdown))
  · intro hup test
    obtain ⟨hlcs, hfew, hmany⟩ := s.dev.drbgStop_law s.now test
    refine answers_of_eq (entropyFailure_leads s test) (if_pos hup) ⟨?_, ?_, ?_, hfew, hmany⟩ <;> rw [hlcs] <;> rfl
  · intro hnot ok
    exact leads_of_eq (drbgRetry_leads s ok) (Dev.drbgRetry_not_due hnot ok)
  · rintro ⟨hup, hfails, hat⟩
    refine ⟨⟨_, drbgRetry_leads s true, Dev.drbgRetry_ok hup hfails hat⟩, ?_⟩
    refine answers_of_eq (drbgRetry_leads s false) ((Dev.drbgRetry_due hup hfails hat false).trans (if_pos rfl)) ?_
    obtain ⟨hlcs, -⟩ := s.dev.drbgStop_law s.now (Config.code 0x090B 0)
    rw [hlcs]
    exact ⟨rfl, rfl, rfl, rfl⟩
  · intro hreqs hup
    exact leads_of_eq (drbgReseed_leads s) (if_pos ⟨hreqs, hup⟩)
  · intro hno
    refine leads_of_eq (drbgReseed_leads s) (if_neg ?_)
    rintro ⟨hreqs, hup⟩
    obtain h | h := hno
    · exact absurd hreqs (Nat.not_le.mpr h)
    · exact absurd hup (ne_true_of_eq_false h)

end Sys2Proof.Machine
end

section
/-!
PROOFS. Attestation, sessions, TDIs and IDE keys (R397, R398, R482, R484 to R486, R499).
-/

namespace Sys2Proof.Machine

/-! ### Responders (R485) -/

theorem Dev.spdm_silent {d : Dev} {rsp : Nat} (h : d.responds rsp = false) (f : Dev → Dev) : d.spdm rsp f = d := by
  unfold Dev.spdm
  rw [h]
  rfl

theorem Dev.spdm_refused {d : Dev} {rsp : Nat} (h : d.responds rsp = true) (hno : rsp ∉ d.lcs.negotiated) (f : Dev → Dev) :
    d.spdm rsp f = d.say .refused := by
  unfold Dev.spdm
  simp [h, hno]

theorem Dev.spdm_served {d : Dev} {rsp : Nat} (h : d.responds rsp = true) (hyes : rsp ∈ d.lcs.negotiated) (f : Dev → Dev) :
    d.spdm rsp f = f d := by
  unfold Dev.spdm
  simp [h, hyes]

theorem isFn0_iff (rsp : Nat) : isFn0 rsp = true ↔ 1024 ≤ rsp := decide_eq_true_iff

/-! ### What each request does, once negotiated -/

/-- GET_CERTIFICATE's answer. -/
def Dev.certificate (d : Dev) (slot : Nat) : Dev :=
  match d.chain slot with
  | some c => d.reply 0xE020 [slot, c]
  | none => d.say .refused

/-- CHALLENGE's answer. -/
def Dev.challenged (d : Dev) (slot : Nat) : Dev :=
  if !d.signs then d.say .unspecified
  else match d.chain slot with
    | some c => ({ d with fresh := d.fresh + 1 }).reply 0xE021 [slot, c, d.sign.1]
    | none => d.say .refused

/-- GET_MEASUREMENTS' answer. -/
def Dev.attested (d : Dev) (rsp : Nat) : Dev :=
  if !d.signs then d.say .unspecified
  else match d.chain 0 with
    | some _ => ({ d with fresh := d.fresh + 1 }).reply 0xE022 ((d.measures ++ (if isFn0 rsp then [] else d.vfMeasures rsp)) ++ [d.sign.1])
    | none => d.reply 0xE022 (d.measures ++ (if isFn0 rsp then [] else d.vfMeasures rsp))

/-- KEY_EXCHANGE's effect. -/
def Dev.keyExchanged (d : Dev) (rsp : Nat) : Dev :=
  if !d.signs then d.say .unspecified
  else if sessionMax rsp ≤ (d.lcs.sessions.filter fun x => x.responder == rsp).length then d.say .busy
  else (({ d with fresh := d.fresh + 1 }).onLcs fun l => { l with
    sessions := l.sessions ++ [(⟨rsp, d.lcs.nextSession, false⟩ : Session)], nextSession := d.lcs.nextSession + 1 }).reply 0xE023
      [d.lcs.nextSession, d.sign.1]

/-- SET_CERTIFICATE's effect. -/
def Dev.certificateSet (d : Dev) (rsp slot chain root : Nat) : Dev :=
  if !isFn0 rsp then d.say .unsupported
  else if !d.certMay slot root then d.say .refused
  else (d.onLcs fun l => { l with
    certs := Tbl.put l.certs slot chain
    certHash := if slot = 0 then some (l.certHash.getD chain) else l.certHash }).say .done

theorem getCertificate_leads (s : State) (rsp slot : Nat) :
    Leads (.getCertificate rsp slot) s (s.dev.spdm rsp fun d => d.certificate slot) := rfl

theorem challenge_leads (s : State) (rsp slot : Nat) : Leads (.challenge rsp slot) s (s.dev.spdm rsp fun d => d.challenged slot) := rfl

theorem getMeasurements_leads (s : State) (rsp : Nat) : Leads (.getMeasurements rsp) s (s.dev.spdm rsp fun d => d.attested rsp) := rfl

theorem keyExchange_leads (s : State) (rsp : Nat) : Leads (.keyExchange rsp) s (s.dev.spdm rsp fun d => d.keyExchanged rsp) := rfl

theorem setCertificate_leads (s : State) (rsp slot chain root : Nat) :
    Leads (.setCertificate rsp slot chain root) s (s.dev.spdm rsp fun d => d.certificateSet rsp slot chain root) := rfl

/-- What NEGOTIATE_ALGORITHMS makes of the device. -/
def Dev.negotiate (d : Dev) (rsp : Nat) (ok : Bool) : Dev :=
  if !d.responds rsp then d
  else if !ok then d.say .refused
  else (d.onLcs fun l => { l with negotiated := rsp :: l.negotiated.filter (· != rsp) }).say .done

theorem negotiateAlgorithms_leads (s : State) (rsp : Nat) (ok : Bool) :
    Leads (.negotiateAlgorithms rsp ok) s (s.dev.negotiate rsp ok) := rfl

theorem Dev.certificate_some {d : Dev} {slot c : Nat} (h : d.chain slot = some c) : d.certificate slot = d.reply 0xE020 [slot, c] := by
  unfold Dev.certificate
  rw [h]

theorem Dev.certificate_none {d : Dev} {slot : Nat} (h : d.chain slot = none) : d.certificate slot = d.say .refused := by
  unfold Dev.certificate
  rw [h]

theorem Dev.challenged_some {d : Dev} {slot c : Nat} (hsigns : d.signs = true) (h : d.chain slot = some c) :
    d.challenged slot = ({ d with fresh := d.fresh + 1 }).reply 0xE021 [slot, c, d.sign.1] := by
  unfold Dev.challenged
  rw [hsigns, h]
  rfl

theorem Dev.challenged_none {d : Dev} {slot : Nat} (hsigns : d.signs = true) (h : d.chain slot = none) :
    d.challenged slot = d.say .refused := by
  unfold Dev.challenged
  rw [hsigns, h]
  rfl

theorem Dev.attested_none {d : Dev} (hsigns : d.signs = true) (h : d.chain 0 = none) (rsp : Nat) :
    d.attested rsp = d.reply 0xE022 (d.measures ++ (if isFn0 rsp then [] else d.vfMeasures rsp)) := by
  unfold Dev.attested
  rw [hsigns, h]
  rfl

theorem Dev.attested_some {d : Dev} (hsigns : d.signs = true) {c : Nat} (h : d.chain 0 = some c) (rsp : Nat) : d.attested rsp =
    ({ d with fresh := d.fresh + 1 }).reply 0xE022 ((d.measures ++ (if isFn0 rsp then [] else d.vfMeasures rsp)) ++ [d.sign.1]) := by
  unfold Dev.attested
  rw [hsigns, h]
  rfl

theorem Dev.unsigned_law {d : Dev} (h : d.signs = false) (rsp slot : Nat) : d.attested rsp = d.say .unspecified ∧
    d.keyExchanged rsp = d.say .unspecified ∧ d.challenged slot = d.say .unspecified := by
  unfold Dev.attested Dev.keyExchanged Dev.challenged
  rw [h]
  exact ⟨rfl, rfl, rfl⟩

theorem Dev.keyExchanged_busy {d : Dev} {rsp : Nat} (hsigns : d.signs = true)
    (h : sessionMax rsp ≤ (d.lcs.sessions.filter fun x => x.responder == rsp).length) : d.keyExchanged rsp = d.say .busy := by
  unfold Dev.keyExchanged
  rw [hsigns, if_neg (by decide), if_pos h]

theorem Dev.keyExchanged_open {d : Dev} {rsp : Nat} (hsigns : d.signs = true)
    (h : (d.lcs.sessions.filter fun x => x.responder == rsp).length < sessionMax rsp) : d.keyExchanged rsp =
      (({ d with fresh := d.fresh + 1 }).onLcs fun l => { l with
        sessions := l.sessions ++ [(⟨rsp, d.lcs.nextSession, false⟩ : Session)], nextSession := d.lcs.nextSession + 1 }).reply 0xE023
          [d.lcs.nextSession, d.sign.1] := by
  unfold Dev.keyExchanged
  rw [hsigns, if_neg (by decide), if_neg (Nat.not_le.mpr h)]

theorem Dev.certificateSet_unsupported {d : Dev} {rsp : Nat} (h : rsp < 1024) (slot chain root : Nat) :
    d.certificateSet rsp slot chain root = d.say .unsupported := by
  have hno : isFn0 rsp = false := decide_eq_false (Nat.not_le.mpr h)
  unfold Dev.certificateSet
  rw [hno]
  rfl

theorem Dev.certificateSet_refused {d : Dev} {rsp slot root : Nat} (h : 1024 ≤ rsp) (hmay : d.certMay slot root = false) (chain : Nat) :
    d.certificateSet rsp slot chain root = d.say .refused := by
  unfold Dev.certificateSet
  rw [(isFn0_iff rsp).mpr h, hmay]
  rfl

theorem Dev.certificateSet_done {d : Dev} {rsp slot root : Nat} (h : 1024 ≤ rsp) (hmay : d.certMay slot root = true) (chain : Nat) :
    d.certificateSet rsp slot chain root = (d.onLcs fun l => { l with
      certs := Tbl.put l.certs slot chain
      certHash := if slot = 0 then some (l.certHash.getD chain) else l.certHash }).say .done := by
  unfold Dev.certificateSet
  rw [(isFn0_iff rsp).mpr h, hmay]
  rfl

/-! ### Sessions -/

/-- What FINISH makes of the device. -/
def Dev.finished (d : Dev) (rsp id : Nat) : Dev :=
  if !d.session rsp id then d.say .refused
  else (d.onLcs fun l => { l with
    sessions := l.sessions.map fun x => if x.responder = rsp ∧ x.id = id then { x with up := true } else x }).say .done

/-- What END_SESSION makes of the device. -/
def Dev.sessionEnded (d : Dev) (rsp id : Nat) : Dev :=
  if !d.session rsp id then d.say .refused
  else (d.onLcs fun l => { l with sessions := l.sessions.filter fun x => !(x.responder == rsp && x.id == id) }).say .done

theorem finish_leads (s : State) (rsp id : Nat) : Leads (.finish rsp id) s (s.dev.finished rsp id) := rfl

theorem endSession_leads (s : State) (rsp id : Nat) : Leads (.endSession rsp id) s (s.dev.sessionEnded rsp id) := rfl

theorem Dev.session_iff (d : Dev) (rsp id : Nat) : d.session rsp id = true ↔ ∃ x ∈ d.lcs.sessions, x.responder = rsp ∧ x.id = id := by
  simp [Dev.session]

theorem Dev.finished_law {d : Dev} {rsp id : Nat} (h : d.session rsp id = true) : (⟨rsp, id, true⟩ ∈ (d.finished rsp id).lcs.sessions) ∧
    (d.finished rsp id).lcs.sessions.length = d.lcs.sessions.length ∧ (d.finished rsp id).fw = (d.say .done).fw := by
  obtain ⟨x, hx, rfl, rfl⟩ := (d.session_iff rsp id).mp h
  have heq : d.finished x.responder x.id = (d.onLcs fun l => { l with sessions := l.sessions.map fun y =>
      if y.responder = x.responder ∧ y.id = x.id then { y with up := true } else y }).say .done := if_neg (by rw [h]; decide)
  rw [heq]
  refine ⟨List.mem_map.mpr ⟨x, hx, if_pos ⟨rfl, rfl⟩⟩, List.length_map _, rfl⟩

theorem Dev.sessionEnded_law {d : Dev} {rsp id : Nat} (h : d.session rsp id = true) : (d.sessionEnded rsp id).session rsp id = false ∧
    (d.sessionEnded rsp id).fw = (d.say .done).fw ∧
    ∀ x ∈ d.lcs.sessions, x.responder ≠ rsp ∨ x.id ≠ id → x ∈ (d.sessionEnded rsp id).lcs.sessions := by
  have heq : d.sessionEnded rsp id = (d.onLcs fun l => { l with
      sessions := l.sessions.filter fun x => !(x.responder == rsp && x.id == id) }).say .done := if_neg (by rw [h]; decide)
  rw [heq]
  refine ⟨?_, rfl, fun x hx hother => List.mem_filter.mpr ⟨hx, ?_⟩⟩
  · refine Bool.eq_false_of_not_eq_true fun hsome => ?_
    obtain ⟨x, hx, hrsp, hid⟩ := (Dev.session_iff _ rsp id).mp hsome
    have hkept := (List.mem_filter.mp hx).2
    simp [hrsp, hid] at hkept
  · simpa [Bool.and_eq_false_iff, Classical.or_iff_not_imp_left] using hother

/-! ### TDIs (R397) -/

theorem Dev.tsp_unbound {d : Dev} {n : Nat} (h : (d.fn n).ast = none) (ok : Tdi → Bool) (f : Dev → Dev) : d.tsp n ok f = d := by
  unfold Dev.tsp
  rw [h]
  rfl

theorem Dev.tsp_bound {d : Dev} {n a : Nat} (h : (d.fn n).ast = some a) (ok : Tdi → Bool) (f : Dev → Dev) :
    d.tsp n ok f = if ok (d.fn n).tdi then (f d).say .done else d.say .refused := by
  unfold Dev.tsp
  rw [h]
  rfl

/-- The device with the TDI of a function in a state. -/
def Dev.setTdi (d : Dev) (n : Nat) (t : Tdi) : Dev := d.onFn n fun f => { f with tdi := t }

theorem Dev.setTdi_law (d : Dev) (n : Nat) (t : Tdi) (cxl : Cxl) : (({ d.setTdi n t with cxl := cxl }).say .done).fn n = { d.fn n with tdi := t } ∧
    (∀ k, k ≠ n → (({ d.setTdi n t with cxl := cxl }).say .done).fn k = d.fn k) ∧
    (({ d.setTdi n t with cxl := cxl }).say .done).fw = (d.say .done).fw ∧
    (({ d.setTdi n t with cxl := cxl }).say .done).core = d.core ∧ (({ d.setTdi n t with cxl := cxl }).say .done).regs = d.regs :=
  ⟨d.fn_onFn_same n fun f => { f with tdi := t }, fun k hk => d.fn_onFn_other n k (fun f => { f with tdi := t }) hk, rfl, rfl, rfl⟩

theorem tdiLockRequest_leads (s : State) (n : Nat) : Leads (.tdiLockRequest n) s (s.dev.tsp n
    (fun t => t == .unlocked && s.dev.lcs.debug == 0) fun d =>
      { d.setTdi n .locked with cxl := { d.cxl with tdiLog := Tbl.del d.cxl.tdiLog n } }) := rfl

theorem tdiRunRequest_leads (s : State) (n : Nat) : Leads (.tdiRunRequest n) s (s.dev.tsp n (· == .locked) fun d => d.setTdi n .run) := rfl

theorem tdiRelease_leads (s : State) (n : Nat) :
    Leads (.tdiRelease n) s (s.dev.tsp n (fun t => t != .unlocked) fun d => d.setTdi n .unlocked) := rfl

/-! ### IDE keys and failures (R398, R482) -/

/-- What IDE_KEY_SET makes of the device. -/
def Dev.ideKeySet (d : Dev) (port : Nat) (half : Bool) (id : Nat) : Dev :=
  if (d.lcs.sessions.any fun x => x.responder == 1024 + port && x.id == id && x.up) && (d.link (linkNo port half)).state != 0 then
    d.onLink (linkNo port half) fun l => { l with ideKeys := true, insecure := false }
  else d

theorem ideKeySet_leads (s : State) (port : Nat) (half : Bool) (id : Nat) :
    Leads (.ideKeySet port half id) s (s.dev.ideKeySet port half id) := rfl

theorem ideKeySet_may (d : Dev) (port : Nat) (half : Bool) (id : Nat) :
    ((d.lcs.sessions.any fun x => x.responder == 1024 + port && x.id == id && x.up) && (d.link (linkNo port half)).state != 0) = true ↔
      (∃ x ∈ d.lcs.sessions, x.responder = 1024 + port ∧ x.id = id ∧ x.up = true) ∧ (d.link (linkNo port half)).state ≠ 0 := by
  simp [and_assoc]

/-- The TDI of a function of an insecure link. -/
def Fn.insecure (f : Fn) : Fn := { f with tdi := if f.tdi = .locked ∨ f.tdi = .run then .error else f.tdi }

theorem Fn.insecure_insecure (f : Fn) : f.insecure.insecure = f.insecure := by
  have hstill : ∀ t : Tdi, (if (if t = .locked ∨ t = .run then Tdi.error else t) = .locked ∨
      (if t = .locked ∨ t = .run then Tdi.error else t) = .run then Tdi.error else (if t = .locked ∨ t = .run then Tdi.error else t)) =
      if t = .locked ∨ t = .run then Tdi.error else t := by
    intro t
    cases t <;> rfl
  exact congrArg (fun t => ({ f with tdi := t } : Fn)) (hstill f.tdi)

/-- The functions of a list become insecure, each once or again, and no other. -/
theorem Dev.insecure_law (l : List Nat) (d : Dev) :
    (∀ f, (l.foldl (fun d f => d.onFn f Fn.insecure) d).fn f = if f ∈ l then (d.fn f).insecure else d.fn f) ∧
    ∃ hif, l.foldl (fun d f => d.onFn f Fn.insecure) d = { d with hif := hif } := by
  induction l generalizing d with
  | nil => exact ⟨fun f => rfl, _, rfl⟩
  | cons a l ih =>
    obtain ⟨hfn, hif, hrest⟩ := ih (d.onFn a Fn.insecure)
    rw [List.foldl_cons]
    refine ⟨fun f => ?_, hif, hrest⟩
    rw [hfn f]
    by_cases ha : f = a
    · subst ha
      rw [Dev.fn_onFn_same, if_pos List.mem_cons_self, Fn.insecure_insecure]
      exact ite_self _
    · simp only [Dev.fn_onFn_other d a f Fn.insecure ha, List.mem_cons, ha, false_or]

/-- An insecure link, its failure counted and recorded. -/
def Dev.ideLost (d : Dev) (port : Nat) (half : Bool) (x : Nat) : Dev :=
  (((d.onLink (linkNo port half) fun l => { l with insecure := true, ideKeys := false }).sat (CXP_COUNTS.IDE_FAIL port) 1).sat
    (CXP_COUNTS.RETRAINS port) 1).raiseLink (linkNo port half) 0x0704
      (if d.core.any fun c => d.onLinkReq (linkNo port half) c.1 then .contained else .degraded) [x]

theorem Dev.ideFailure_down {d : Dev} {port : Nat} {half : Bool} (h : (d.link (linkNo port half)).state = 0) (now x : Nat) :
    d.ideFailure now port half x = d := if_pos h

theorem Dev.ideFailure_up {d : Dev} {port : Nat} {half : Bool} (h : (d.link (linkNo port half)).state ≠ 0) (now x : Nat) :
    d.ideFailure now port half x = ((((d.ideLost port half x).fnsOn (linkNo port half)).foldl (fun d f => d.onFn f Fn.insecure)
      (d.ideLost port half x)).peerLost now (linkNo port half) 0x0704).shedLink (linkNo port half) := if_neg h

theorem ideFailure_leads (s : State) (port : Nat) (half : Bool) (x : Nat) :
    Leads (.ideFailure port half x) s (s.dev.ideFailure s.now port half x) := rfl

theorem Dev.ideLost_law (d : Dev) (port : Nat) (half : Bool) (x : Nat) :
    (d.ideLost port half x).link (linkNo port half) = { d.link (linkNo port half) with ideKeys := false, insecure := true } ∧
    (∀ j, j ≠ linkNo port half → (d.ideLost port half x).link j = d.link j) ∧ (d.ideLost port half x).hif = d.hif ∧
    (d.ideLost port half x).core = d.core ∧
    ∃ b, (d.ideLost port half x).ras.box = d.ras.box ++ [b] ∧ b.code = 0x0704 ∧ b.detail = [x] ∧
      b.sev = (if (d.core.any fun c => d.onLinkReq (linkNo port half) c.1) = true then Sev.contained.code else Sev.degraded.code) := by
  unfold Dev.ideLost
  refine ⟨?_, fun j hj => ?_, rfl, rfl, _, rfl, rfl, rfl, ?_⟩
  · rw [Dev.link_raiseLink, Dev.sat, Dev.link_set, Dev.sat, Dev.link_set, Dev.link_onLink_same]
  · rw [Dev.link_raiseLink, Dev.sat, Dev.link_set, Dev.sat, Dev.link_set, Dev.link_onLink_other _ _ _ _ hj]
  · exact apply_ite Sev.code _ _ _

/-- Settles O53: the requests of attestation answered or refused, sessions, the moves of a TDI, and a link's keys and failures. -/
theorem sessionsAndTdis : Obligations.SessionsAndTdis := by
  unfold Obligations.SessionsAndTdis
  intro s
  refine ⟨fun rsp => ⟨?_, ?_, ?_, ?_, ?_⟩, ?_, ?_, ?_, ?_⟩
  · intro slot chain root ok hno
    exact ⟨leads_of_eq (negotiateAlgorithms_leads s rsp ok) (if_pos (by rw [hno]; decide)),
      leads_of_eq (getCertificate_leads s rsp slot) (Dev.spdm_silent hno _), leads_of_eq (challenge_leads s rsp slot) (Dev.spdm_silent hno _),
      leads_of_eq (getMeasurements_leads s rsp) (Dev.spdm_silent hno _), leads_of_eq (keyExchange_leads s rsp) (Dev.spdm_silent hno _),
      leads_of_eq (setCertificate_leads s rsp slot chain root) (Dev.spdm_silent hno _)⟩
  · intro hyes
    have hthere : ¬(!s.dev.responds rsp) = true := by rw [hyes]; decide
    refine ⟨leads_of_eq (negotiateAlgorithms_leads s rsp false) ((if_neg hthere).trans (if_pos rfl)), ?_⟩
    refine answers_of_eq (negotiateAlgorithms_leads s rsp true) ((if_neg hthere).trans (if_neg (by decide)))
      ⟨rfl, List.mem_cons_self, fun x hx => ?_, rfl⟩
    show x ∈ rsp :: s.dev.lcs.negotiated.filter (· != rsp) ↔ _
    simp [hx]
  · intro slot chain root hyes hno
    exact ⟨leads_of_eq (getCertificate_leads s rsp slot) (Dev.spdm_refused hyes hno _),
      leads_of_eq (challenge_leads s rsp slot) (Dev.spdm_refused hyes hno _), leads_of_eq (getMeasurements_leads s rsp) (Dev.spdm_refused hyes hno _),
      leads_of_eq (keyExchange_leads s rsp) (Dev.spdm_refused hyes hno _),
      leads_of_eq (setCertificate_leads s rsp slot chain root) (Dev.spdm_refused hyes hno _)⟩
  · intro hyes hin
    refine ⟨fun slot => ⟨fun c hc => ⟨?_, fun hsigns => ⟨s.dev.sign.1, ?_⟩⟩, fun hc => ⟨?_, fun hsigns => ?_⟩⟩, ?_, ?_, ?_⟩
    · exact leads_of_eq (getCertificate_leads s rsp slot) ((Dev.spdm_served hyes hin _).trans (Dev.certificate_some hc))
    · exact leads_of_eq (challenge_leads s rsp slot) ((Dev.spdm_served hyes hin _).trans (Dev.challenged_some hsigns hc))
    · exact leads_of_eq (getCertificate_leads s rsp slot) ((Dev.spdm_served hyes hin _).trans (Dev.certificate_none hc))
    · exact leads_of_eq (challenge_leads s rsp slot) ((Dev.spdm_served hyes hin _).trans (Dev.challenged_none hsigns hc))
    · intro hsigns
      refine ⟨?_, ?_, fun slot => ?_⟩
      · exact leads_of_eq (getMeasurements_leads s rsp) ((Dev.spdm_served hyes hin _).trans (Dev.unsigned_law hsigns rsp 0).1)
      · exact leads_of_eq (keyExchange_leads s rsp) ((Dev.spdm_served hyes hin _).trans (Dev.unsigned_law hsigns rsp 0).2.1)
      · exact leads_of_eq (challenge_leads s rsp slot) ((Dev.spdm_served hyes hin _).trans (Dev.unsigned_law hsigns rsp slot).2.2)
    · intro hsigns
      simp only [← isFn0_iff]
      refine ⟨fun hc => ?_, fun hc => ?_, fun hbusy => ?_, fun hopen => ?_⟩
      · exact leads_of_eq (getMeasurements_leads s rsp) ((Dev.spdm_served hyes hin _).trans (Dev.attested_none hsigns hc rsp))
      · obtain ⟨c, hc⟩ := Option.ne_none_iff_exists'.mp hc
        exact ⟨_, leads_of_eq (getMeasurements_leads s rsp) ((Dev.spdm_served hyes hin _).trans (Dev.attested_some hsigns hc rsp))⟩
      · exact leads_of_eq (keyExchange_leads s rsp) ((Dev.spdm_served hyes hin _).trans (Dev.keyExchanged_busy hsigns hbusy))
      · exact answers_of_eq (keyExchange_leads s rsp) ((Dev.spdm_served hyes hin _).trans (Dev.keyExchanged_open hsigns hopen))
          ⟨rfl, _, rfl⟩
    · intro slot chain root
      refine ⟨fun hlt => ?_, fun hge hmay => ?_, fun hge hmay => ?_⟩
      · exact leads_of_eq (setCertificate_leads s rsp slot chain root)
          ((Dev.spdm_served hyes hin _).trans (Dev.certificateSet_unsupported hlt slot chain root))
      · exact leads_of_eq (setCertificate_leads s rsp slot chain root)
          ((Dev.spdm_served hyes hin _).trans (Dev.certificateSet_refused hge hmay chain))
      · exact answers_of_eq (setCertificate_leads s rsp slot chain root)
          ((Dev.spdm_served hyes hin _).trans (Dev.certificateSet_done hge hmay chain))
          ⟨Tbl.find_put_same _ _ _, fun x hx => Tbl.find_put_other _ _ _ _ hx, rfl, rfl⟩
  · intro id
    refine ⟨fun hno => ⟨?_, ?_⟩, fun hyes => ⟨?_, ?_⟩⟩
    · exact leads_of_eq (finish_leads s rsp id) (if_pos (by rw [hno]; decide))
    · exact leads_of_eq (endSession_leads s rsp id) (if_pos (by rw [hno]; decide))
    · exact ⟨_, finish_leads s rsp id, Dev.finished_law hyes⟩
    · exact ⟨_, endSession_leads s rsp id, Dev.sessionEnded_law hyes⟩
  · intro n hnone
    exact ⟨leads_of_eq (tdiLockRequest_leads s n) (Dev.tsp_unbound hnone _ _), leads_of_eq (tdiRunRequest_leads s n) (Dev.tsp_unbound hnone _ _),
      leads_of_eq (tdiRelease_leads s n) (Dev.tsp_unbound hnone _ _)⟩
  · intro n a hast
    refine ⟨fun htdi hdebug => ?_, fun hno => ?_, fun htdi => ?_, fun htdi => ?_, fun htdi => ?_, fun htdi => ?_⟩
    · have heq := (Dev.tsp_bound hast (fun t => t == .unlocked && s.dev.lcs.debug == 0) fun d =>
        { d.setTdi n .locked with cxl := { d.cxl with tdiLog := Tbl.del d.cxl.tdiLog n } }).trans (if_pos (by rw [htdi, hdebug]; rfl))
      exact ⟨answers_of_eq (tdiLockRequest_leads s n) heq (s.dev.setTdi_law n .locked _),
        answers_of_eq (tdiLockRequest_leads s n) heq (Tbl.find_del_same _ _)⟩
    · refine leads_of_eq (tdiLockRequest_leads s n) ((Dev.tsp_bound hast _ _).trans (if_neg ?_))
      simpa [Classical.or_iff_not_imp_left] using hno
    · exact answers_of_eq (tdiRunRequest_leads s n) ((Dev.tsp_bound hast _ _).trans (if_pos (by rw [htdi]; rfl)))
        (s.dev.setTdi_law n .run s.dev.cxl)
    · exact leads_of_eq (tdiRunRequest_leads s n) ((Dev.tsp_bound hast _ _).trans (if_neg (by simpa using htdi)))
    · exact answers_of_eq (tdiRelease_leads s n) ((Dev.tsp_bound hast _ _).trans (if_pos (by simpa using htdi)))
        (s.dev.setTdi_law n .unlocked s.dev.cxl)
    · exact leads_of_eq (tdiRelease_leads s n) ((Dev.tsp_bound hast _ _).trans (if_neg (by rw [htdi]; decide)))
  · intro port half id
    refine ⟨fun hmay => ?_, fun hno => ?_⟩
    · exact answers_of_eq (ideKeySet_leads s port half id) (if_pos ((ideKeySet_may s.dev port half id).mpr hmay))
        ⟨Dev.link_onLink_same _ _ _, fun j hj => Dev.link_onLink_other _ _ _ _ hj, rfl⟩
    · exact leads_of_eq (ideKeySet_leads s port half id) (if_neg fun h => hno ((ideKeySet_may s.dev port half id).mp h))
  · intro port half x
    refine ⟨fun hdown => leads_of_eq (ideFailure_leads s port half x) (Dev.ideFailure_down hdown s.now x), fun hup => ?_⟩
    obtain ⟨hlink, hother, hhif, hcore, b, hbox, hb⟩ := s.dev.ideLost_law port half x
    have hfns : (s.dev.ideLost port half x).fnsOn (linkNo port half) = s.dev.fnsOn (linkNo port half) := by
      unfold Dev.fnsOn
      rw [hhif]
    have hfn : ∀ f, (s.dev.ideLost port half x).fn f = s.dev.fn f := fun f => by
      unfold Dev.fn
      rw [hhif]
    obtain ⟨hins, hif, hrest⟩ := Dev.insecure_law (s.dev.fnsOn (linkNo port half)) (s.dev.ideLost port half x)
    refine ⟨_, leads_of_eq (ideFailure_leads s port half x) (Dev.ideFailure_up hup s.now x), ?_⟩
    rw [hfns]
    refine ⟨?_, fun j hj => ?_, fun f hf => ?_, fun f hf => ?_, ?_, b, ?_, hb⟩
    · rw [hrest]
      exact hlink
    · rw [hrest]
      exact hother j hj
    · rw [hins f, if_pos hf, hfn f]
      rfl
    · rw [hins f, if_neg hf, hfn f]
    · rw [hrest]
      exact hcore
    · rw [hrest]
      exact hbox

end Sys2Proof.Machine
end

section
/-!
PROOFS. The ROM: power removed, the journal and the image at a cold boot, recovery and bring-up (R502 to R508, R512, R535).
-/

namespace Sys2Proof.Machine

/-! ### Firmware's state past a record -/

/-- Firmware but for the events it holds. -/
def Fw.quiet (f : Fw) : Fw := { f with events := [] }

/-- The fields of firmware that events are none of. -/
structure Fw.Same (f g : Fw) : Prop where
  image : f.image = g.image
  imageState : f.imageState = g.imageState
  ram : f.ram = g.ram
  floorB : f.floorB = g.floorB
  floorR : f.floorR = g.floorR
  update : f.update = g.update
  bootStep : f.bootStep = g.bootStep
  bootAt : f.bootAt = g.bootAt
  cold : f.cold = g.cold
  stopped : f.stopped = g.stopped
  recovery : f.recovery = g.recovery
  refused : f.refused = g.refused
  answer : f.answer = g.answer

theorem Fw.same_of_quiet {f g : Fw} (h : f.quiet = g.quiet) : f.Same g := by
  simp only [Fw.quiet, Fw.mk.injEq, true_and] at h
  obtain ⟨h1, h2, h3, h4, h5, h6, h7, h8, h9, h10, h11, h12, -, -, h15⟩ := h
  exact ⟨h2, h1, h3, h4, h5, h6, h7, h8, h9, h10, h11, h12, h15⟩

theorem Dev.fw_of_unreported {d e : Dev} (h : e.unreported = d.unreported) : e.fw.Same d.fw := by
  have hfw := congrArg Dev.fw h
  exact Fw.same_of_quiet hfw

theorem Dev.pwr_of_unreported {d e : Dev} (h : e.unreported = d.unreported) : e.pwr = d.pwr := by
  have hpwr := congrArg Dev.pwr h
  exact hpwr

/-! ### Power removed (R406) -/

theorem Dev.alerts_shape (l : List Alert) (d : Dev) : ∃ a n, l.foldl (fun d a => d.alert a false) d =
    { d with mod := { d.mod with alerts := a, alertN := n } } := by
  refine foldl_keeps (fun e : Dev => ∃ a n, e = { d with mod := { d.mod with alerts := a, alertN := n } }) (fun d a => d.alert a false)
    ?_ l d ⟨_, _, rfl⟩
  rintro e x ⟨a, n, rfl⟩
  exact ⟨_, _, rfl⟩

theorem Dev.eq_of_noRegs {d e : Dev} (h : e.noRegs = d.noRegs) : e = { d with regs := e.regs } := by
  have heq := congrArg (fun x : Dev => { x with regs := e.regs }) h
  exact heq

theorem Dev.darkened_shape {d x y z : Dev} {a : List Nat} {n : Bool} (hx : x = { (d.cleared true).alert .belowFloor false with regs := y.regs })
    (hz : z = { x.darkened with mod := { x.darkened.mod with alerts := a, alertN := n } }) (f : Fld) (v : Nat) :
    ∃ regs, z.set f v = { (d.cleared true).darkened with regs := regs, mod := { d.mod with alerts := a, alertN := n } } := by
  subst hz hx
  exact ⟨_, rfl⟩

/-- What power removed leaves: registers and pins, and what flash and OTP hold. -/
theorem Dev.powerOff_shape (d : Dev) : ∃ regs a n, d.powerOff =
    { (d.cleared true).darkened with regs := regs, mod := { d.mod with alerts := a, alertN := n } } := by
  obtain ⟨a, n, hz⟩ := Dev.alerts_shape [Alert.belowFloor, .powerCycle, .bootStopped, .recovery, .event] (d.pkgClear true).darkened
  obtain ⟨regs, h⟩ := Dev.darkened_shape (Dev.eq_of_noRegs (d.noRegs_pkgClear true)) hz PWR_STATE_REQ.STATE Pwr.dark.code
  exact ⟨regs, a, n, d.powerOff_eq.trans h⟩

/-! ### The ROM (R496, R507) -/

/-- A device on which the ROM has begun, after power was removed from another. -/
structure Dev.Rom (d : Dev) (now : Nat) (y : Dev) : Prop where
  image : y.fw.image = d.fw.image
  imageState : y.fw.imageState = d.fw.imageState
  floorB : y.fw.floorB = d.fw.floorB
  floorR : y.fw.floorR = d.fw.floorR
  recovery : y.fw.recovery = false
  cold : y.fw.cold = true
  bootAt : y.fw.bootAt = now
  journal : y.lcs.journal = d.lcs.journal
  owners : y.lcs.owners = d.lcs.owners
  ownerReq : y.lcs.ownerReq = d.lcs.ownerReq
  devGone : y.lcs.devGone = d.lcs.devGone
  resetN : y.mod.resetN = d.mod.resetN
  mem : y.mem = []
  core : y.core = []
  pkg : y.pwr.pkg = .dark

/-- The ROM's start on a device without power. -/
def Dev.romFrom (p : Dev) (now src : Nat) : Dev :=
  let x := ((p.onFw fun f => { f with bootAt := now, cold := true }).set CLK_STATUS.OSC_OK 1).atStep 3
  if src = 0 then x else x.lastWake src .dark

theorem Dev.rom_of_shape {d p : Dev} {regs : Tbl Word} {a : List Nat} {n : Bool}
    (h : p = { (d.cleared true).darkened with regs := regs, mod := { d.mod with alerts := a, alertN := n } }) (now src : Nat) :
    d.Rom now (p.romFrom now src) := by
  subst h
  unfold Dev.romFrom
  dsimp only
  split
  · exact ⟨rfl, rfl, rfl, rfl, rfl, rfl, rfl, rfl, rfl, rfl, rfl, rfl, rfl, rfl, rfl⟩
  · exact ⟨rfl, rfl, rfl, rfl, rfl, rfl, rfl, rfl, rfl, rfl, rfl, rfl, rfl, rfl, rfl⟩

theorem Dev.rom_powerOff (d : Dev) (now src : Nat) : d.Rom now (d.powerOff.romFrom now src) := by
  obtain ⟨regs, a, n, h⟩ := d.powerOff_shape
  exact Dev.rom_of_shape h now src

theorem Dev.coldBoot_may {d : Dev} {src : Nat} (h : d.mayBoot src = true) (now : Nat) (bad : List Nat) :
    d.coldBoot now src bad = (d.powerOff.romFrom now src).romCold now bad := by
  have hyes : ¬(!d.mayBoot src) = true := by rw [h]; decide
  exact if_neg hyes

theorem Dev.coldBoot_may_not {d : Dev} {src : Nat} (h : d.mayBoot src = false) (now : Nat) (bad : List Nat) :
    d.coldBoot now src bad = d := by
  have hno : (!d.mayBoot src) = true := by rw [h]; rfl
  exact if_pos hno

/-- Every row pair of the journal is committed or void. -/
def Dev.Settled (d : Dev) : Prop := ∀ r ∈ d.lcs.journal, r.valid = true ∧ r.commit = true ∨ r.valid = false ∧ r.void = true

theorem Dev.bootJournal_settled {d : Dev} (h : d.Settled) (now : Nat) : d.bootJournal now = d := by
  unfold Dev.bootJournal
  refine foldl_keeps (fun e => e = d) _ ?_ _ d rfl
  rintro e i rfl
  cases hr : e.lcs.journal[i]? with
  | none =>
    unfold Dev.bootRow
    rw [hr]
  | some r => exact Dev.bootRow_done hr (h r (List.mem_of_getElem? hr)) now

/-- The checks read the image, the floors, the state and the owner. -/
theorem Dev.imageBad_dice {d y : Dev} {now : Nat} (h : d.Rom now y) : y.dice.imageBad = d.dice.imageBad := by
  have hstate : y.lcs.state = d.lcs.state := by
    unfold Lcs.state
    rw [h.journal]
  have howner : y.lcs.owner = d.lcs.owner := by
    unfold Lcs.owner
    rw [h.owners]
  have hlcs : ∀ x : Dev, x.dice.lcs.state = x.lcs.state ∧ x.dice.lcs.devGone = x.lcs.devGone ∧
      x.dice.lcs.bootOwner = x.lcs.owner.map (·.2) ∧ x.dice.lcs.bootReq = x.lcs.ownerReq ∧ x.dice.fw = x.fw :=
    fun _ => ⟨rfl, rfl, rfl, rfl, rfl⟩
  obtain ⟨hy1, hy2, hy3, hy4, hy5⟩ := hlcs y
  obtain ⟨hd1, hd2, hd3, hd4, hd5⟩ := hlcs d
  unfold Dev.imageBad Dev.manifestBad
  simp only [hy1, hy2, hy3, hy4, hy5, hd1, hd2, hd3, hd4, hd5, h.image, h.imageState, h.floorB, h.floorR, h.devGone, h.ownerReq, hstate, howner]

theorem Dev.romCold_bad {d y : Dev} {now c : Nat} (h : d.Rom now y) (hs : d.Settled) (hbad : d.dice.imageBad = some c) (bad : List Nat) :
    y.romCold now bad = y.dice.recover now c := by
  have hsettled : y.Settled := fun r hr => hs r (h.journal ▸ hr)
  unfold Dev.romCold
  rw [Dev.bootJournal_settled hsettled]
  simp only [Dev.imageBad_dice h, hbad]

/-- The ROM with a good image: it runs, its identity taken in. -/
def Dev.imageTaken (y : Dev) : Dev := ((y.dice.onFw fun f => { f with ram := f.image }).showImage).atStep 5

theorem Dev.romCold_good {d y : Dev} {now : Nat} (h : d.Rom now y) (hs : d.Settled) (hgood : d.dice.imageBad = none) (bad : List Nat) :
    y.romCold now bad = if d.mod.resetN then y.imageTaken.bringUp now bad else y.imageTaken := by
  have hsettled : y.Settled := fun r hr => hs r (h.journal ▸ hr)
  unfold Dev.romCold
  rw [Dev.bootJournal_settled hsettled]
  simp only [Dev.imageBad_dice h, hgood, ← h.resetN]
  rfl

theorem Dev.imageTaken_law {d y : Dev} {now : Nat} (h : d.Rom now y) : y.imageTaken.fw.bootStep = 5 ∧ y.imageTaken.fw.ram = d.fw.image ∧
    y.imageTaken.fw.recovery = false ∧ y.imageTaken.fw.cold = true ∧ y.imageTaken.pwr.pkg = .dark ∧ y.imageTaken.mem = [] ∧
    y.imageTaken.core = [] ∧ y.imageTaken.fw.bootAt = now :=
  ⟨rfl, h.image, h.recovery, h.cold, h.pkg, h.mem, h.core, h.bootAt⟩

theorem Dev.get_alert (d : Dev) (a : Alert) (on : Bool) (f : Fld) : (d.alert a on).get f = d.get f := rfl

/-- The device in recovery, before the record of it. -/
def Dev.recovering (x : Dev) (step : Nat) : Dev :=
  (((((x.onFw fun f => { f with recovery := true, refused := 0, events := 0x0910 :: f.events }).onPwr fun w => { w with
    pkg := .dark }).atStep step).set MGT_STATUS.RECOVERY 1).alert .recovery true).alert .event true

theorem Dev.recovering_law (x : Dev) (step : Nat) : (x.recovering step).fw.recovery = true ∧ (x.recovering step).fw.bootStep = step ∧
    (x.recovering step).pwr.pkg = .dark ∧ (x.recovering step).mem = x.mem ∧ (x.recovering step).core = x.core ∧
    (x.recovering step).lcs = x.lcs ∧ (x.recovering step).get MGT_STATUS.RECOVERY = 1 := by
  refine ⟨rfl, rfl, rfl, rfl, rfl, rfl, ?_⟩
  unfold Dev.recovering
  rw [Dev.get_alert, Dev.get_alert]
  exact Dev.get_set_same _ MGT_STATUS.RECOVERY 1 (by decide)

theorem Dev.recover_eq (x : Dev) (now c : Nat) : x.recover now c = (x.recovering (if c ≤ 5 then 4 else 5)).reportNow now 0x0910 moduleUnit 0x00
    .info [if c ≤ 5 then 4 else 5, c] true := rfl

theorem Dev.recovering_reported {x y e : Dev} {step : Nat} (hy : y.fw.recovery = true ∧ y.fw.bootStep = step ∧ y.pwr.pkg = .dark ∧
    y.mem = x.mem ∧ y.core = x.core ∧ y.lcs = x.lcs ∧ y.get MGT_STATUS.RECOVERY = 1) (hsame : e.unreported = y.unreported)
    (hget : e.get MGT_STATUS.RECOVERY = y.get MGT_STATUS.RECOVERY) : e.fw.recovery = true ∧ e.fw.bootStep = step ∧ e.pwr.pkg = .dark ∧
    e.flag MGT_STATUS.RECOVERY = true ∧ e.mem = x.mem ∧ e.core = x.core ∧ e.lcs.journal = x.lcs.journal := by
  obtain ⟨hrec, hstep, hpkg, hmem, hcore, hlcs, hflag⟩ := hy
  have hfw := Dev.fw_of_unreported hsame
  obtain ⟨helcs, hemem, -, hecore, -⟩ := Dev.of_unreported hsame
  refine ⟨hfw.recovery.trans hrec, hfw.bootStep.trans hstep, ?_, ?_, hemem.trans hmem, hecore.trans hcore, ?_⟩
  · rw [Dev.pwr_of_unreported hsame]
    exact hpkg
  · rw [Dev.flag, hget, hflag]
    rfl
  · rw [helcs, hlcs]

/-- Recovery: the step it stopped at, RECOVERY set, the package dark. -/
theorem Dev.recover_law (x : Dev) (now c : Nat) : (x.recover now c).fw.recovery = true ∧
    (x.recover now c).fw.bootStep = (if c ≤ 5 then 4 else 5) ∧ (x.recover now c).pwr.pkg = .dark ∧
    (x.recover now c).flag MGT_STATUS.RECOVERY = true ∧ (x.recover now c).mem = x.mem ∧ (x.recover now c).core = x.core ∧
    (x.recover now c).lcs.journal = x.lcs.journal := by
  rw [Dev.recover_eq]
  obtain ⟨hsame, hget⟩ := (x.recovering (if c ≤ 5 then 4 else 5)).reportNow_law now 0x0910 moduleUnit 0x00 .info
    [if c ≤ 5 then 4 else 5, c] true none
  exact Dev.recovering_reported (x.recovering_law _) hsame (hget _ (by decide) (by decide))

/-- What BootAndUpdate says of a cold boot that starts. -/
theorem Dev.coldBoot_law {d : Dev} {src : Nat} (hmay : d.mayBoot src = true) (hs : d.Settled) (now : Nat) (bad : List Nat) :
    (∀ c, d.dice.imageBad = some c → (d.coldBoot now src bad).fw.recovery = true ∧
      (d.coldBoot now src bad).fw.bootStep = (if c ≤ 5 then 4 else 5) ∧ (d.coldBoot now src bad).pwr.pkg = .dark ∧
      (d.coldBoot now src bad).flag MGT_STATUS.RECOVERY = true ∧ (d.coldBoot now src bad).mem = [] ∧
      (d.coldBoot now src bad).core = [] ∧ (d.coldBoot now src bad).lcs.journal = d.lcs.journal) ∧
    (d.dice.imageBad = none → ∃ e : Dev, d.coldBoot now src bad = (if d.mod.resetN then e.bringUp now bad else e) ∧ e.fw.bootStep = 5 ∧
      e.fw.ram = d.fw.image ∧ e.fw.recovery = false ∧ e.fw.cold = true ∧ e.pwr.pkg = .dark ∧ e.mem = [] ∧ e.core = [] ∧
      e.fw.bootAt = now) := by
  have hrom := d.rom_powerOff now src
  rw [Dev.coldBoot_may hmay]
  generalize d.powerOff.romFrom now src = y at hrom ⊢
  refine ⟨fun c hc => ?_, fun hgood => ⟨_, Dev.romCold_good hrom hs hgood bad, Dev.imageTaken_law hrom⟩⟩
  rw [Dev.romCold_bad hrom hs hc]
  obtain ⟨hrec, hstep, hpkg, hflag, hmem, hcore, hjournal⟩ := y.dice.recover_law now c
  exact ⟨hrec, hstep, hpkg, hflag, hmem.trans hrom.mem, hcore.trans hrom.core, hjournal.trans hrom.journal⟩

/-- What COLD_BOOT makes of the device. -/
def Dev.coldBootAsked (d : Dev) (now src : Nat) (bad : List Nat) : Dev :=
  if src = 0 then (d.onMod fun m => { m with pwrEn := true, pwrEnLowAt := none }).coldBoot now 0 bad
  else if src = 9 ∧ d.mod.pwrEn then d.coldBoot now 9 bad
  else d

theorem coldBoot_leads (s : State) (src : Nat) (bad : List Nat) : Leads (.coldBoot src bad) s (s.dev.coldBootAsked s.now src bad) := rfl

theorem Dev.coldBootAsked_pin (d : Dev) (now : Nat) (bad : List Nat) : d.coldBootAsked now 0 bad =
    (d.onMod fun m => { m with pwrEn := true, pwrEnLowAt := none }).coldBoot now 0 bad := if_pos rfl

theorem Dev.coldBootAsked_wake {d : Dev} (h : d.mod.pwrEn = true) (now : Nat) (bad : List Nat) : d.coldBootAsked now 9 bad =
    d.coldBoot now 9 bad := (if_neg (by decide)).trans (if_pos ⟨rfl, h⟩)

theorem Dev.coldBootAsked_off {d : Dev} (h : d.mod.pwrEn = false) (now : Nat) (bad : List Nat) : d.coldBootAsked now 9 bad = d :=
  (if_neg (by decide)).trans (if_neg fun hn => absurd hn.2 (ne_true_of_eq_false h))

end Sys2Proof.Machine
end

section
/-!
PROOFS. Bring-up, the lockdown, memory pass 2, and the update of the image (R502 to R505, R513 to R515, R544).
-/

namespace Sys2Proof.Machine

/-! ### Bring-up (R502 to R505) -/

theorem Dev.get_setReg_other (d : Dev) (off w : Nat) (f : Fld) (h : f.off ≠ off) : (d.setReg off w).get f = d.get f :=
  congrArg (bits · f.lo f.w) (d.reg_setReg_other off f.off w h)

/-- The policy's registers are all that is loaded. -/
theorem Dev.loadPolicy_law (d : Dev) : d.loadPolicy.noRegs = d.noRegs ∧ ∀ f : Fld, 0x12000 ≤ f.off → d.loadPolicy.get f = d.get f := by
  have hboth : d.loadPolicy.noRegs = d.noRegs ∧ (∀ f : Fld, 0x12000 ≤ f.off → d.loadPolicy.get f = d.get f) := by
    unfold Dev.loadPolicy
    dsimp only
    refine List.foldlRecOn _ _ (motive := fun e : Dev => e.noRegs = d.noRegs ∧ ∀ f : Fld, 0x12000 ≤ f.off → e.get f = d.get f) ?_ ?_
    · refine List.foldlRecOn _ _ (motive := fun e : Dev => e.noRegs = d.noRegs ∧ ∀ f : Fld, 0x12000 ≤ f.off → e.get f = d.get f)
        ⟨rfl, fun _ _ => rfl⟩ ?_
      rintro e ⟨hsame, hget⟩ n hn
      have hn16 := List.mem_range.mp hn
      refine ⟨hsame, fun f hf => ?_⟩
      rw [Dev.get_setReg_other _ _ _ _ (by unfold LCS_POLICY_DOM_B.off; omega),
        Dev.get_setReg_other _ _ _ _ (by unfold LCS_POLICY_DOM_A.off; omega), hget f hf]
    · rintro e ⟨hsame, hget⟩ n hn
      have hn4 := List.mem_range.mp hn
      refine ⟨hsame, fun f hf => ?_⟩
      rw [Dev.get_setReg_other _ _ _ _ (by unfold LCS_POLICY_PORT.off; omega), hget f hf]
  exact hboth

/-- The device key of a stack. -/
def Dev.loadKey (k : Nat) (d : Dev) (s : Nat) : Dev :=
  (d.onStack s fun t => { t with keys := Tbl.put t.keys 16 (k + s) }).set (STK_KEYSTAT.DEV_VALID s) 1

theorem Dev.onLcs_kept {d x : Dev} {n : Nat} (hpwr : x.pwr = d.pwr) (hget : ∀ f : Fld, f.off < n → x.get f = d.get f) (g : Lcs → Lcs) :
    (x.onLcs g).pwr = d.pwr ∧ ∀ f : Fld, f.off < n → (x.onLcs g).get f = d.get f := ⟨hpwr, hget⟩

/-- Device keys differ the stacks, their key status and the next key's number only. -/
theorem Dev.loadDeviceKeys_law (d : Dev) : d.loadDeviceKeys.pwr = d.pwr ∧
    ∀ f : Fld, f.off < 0xC00000 → d.loadDeviceKeys.get f = d.get f := by
  have hkeys : ∀ (k : Nat) (l : List Nat), (l.foldl (Dev.loadKey k) d).pwr = d.pwr ∧
      ∀ f : Fld, f.off < 0xC00000 → (l.foldl (Dev.loadKey k) d).get f = d.get f := by
    intro k l
    refine foldl_keeps (fun x : Dev => x.pwr = d.pwr ∧ ∀ f : Fld, f.off < 0xC00000 → x.get f = d.get f) _ ?_ l d ⟨rfl, fun _ _ => rfl⟩
    rintro x n ⟨hpwr, hget⟩
    refine ⟨hpwr, fun f hf => ?_⟩
    have hoff : f.off ≠ (STK_KEYSTAT.DEV_VALID n).off := by
      show f.off ≠ STK_KEYSTAT.off n
      unfold STK_KEYSTAT.off
      omega
    exact (Dev.get_set_other _ _ _ _ hoff).trans (hget f hf)
  have heq : d.loadDeviceKeys = (allStacks.foldl (Dev.loadKey d.lcs.nextKey) d).onLcs fun l => { l with nextKey := d.lcs.nextKey + 32 } := rfl
  obtain ⟨hpwr, hget⟩ := hkeys d.lcs.nextKey allStacks
  rw [heq]
  exact Dev.onLcs_kept hpwr hget _

theorem Dev.bootStopper_none {d : Dev} (h : 752 ≤ d.usableChans) : d.bootStopper [] = none := by
  unfold Dev.bootStopper
  rw [List.find?_nil]
  dsimp only
  rw [List.filter_nil, List.dedup_nil]
  dsimp only
  rw [if_neg (Nat.not_lt.mpr h)]

theorem Dev.bootStopper_pair (d : Dev) {p : Nat} (h : p < 8) : d.bootStopper [svcUnit p] = some (svcUnit p, 6) := by
  have hkind : svcUnit p / 8192 = 6 := by
    unfold svcUnit unitId
    omega
  unfold Dev.bootStopper
  simp [hkind]

/-- The package up: rails, clocks and keys. -/
def Dev.railed (d : Dev) : Dev :=
  ((((((d.onPwr fun w => { w with pkg := .run }).set PWR_STATE_REQ.STATE 0).onLcs fun l => { l with drbgUp := true, drbgFails := 0 }).setReg
    CLK_STATUS.off 0x3FFFFFFFFFFFF).set MGT_STATUS.PKG_DOWN 0).reseed).newChallenge

/-- The cores in service. -/
def Dev.withCores (d : Dev) : Dev := { d with core := diePairs.flatMap fun p => d.bootCores p }

theorem Dev.core_law (d : Dev) (c : Tbl Core) : ({ d with core := c } : Dev).pwr = d.pwr ∧
    ∀ f : Fld, ({ d with core := c } : Dev).get f = d.get f := ⟨rfl, fun _ => rfl⟩

theorem Dev.withCores_law (d : Dev) : d.withCores.pwr = d.pwr ∧ ∀ f : Fld, d.withCores.get f = d.get f := d.core_law _

/-- The package up, with device keys and cores. -/
def Dev.manned (d : Dev) : Dev := (if d.railed.fw.cold then d.railed.loadDeviceKeys else d.railed).withCores

theorem Dev.bringUp_good {d : Dev} (h : 752 ≤ d.usableChans) (now : Nat) : d.bringUp now [] = d.manned.loadPolicy.atStep 8 := by
  unfold Dev.bringUp
  simp only [List.foldl_nil, Dev.bootStopper_none h]
  rfl

theorem Dev.unitBad_pair (d : Dev) (now : Nat) {p : Nat} (h : p < 8) : d.unitBad now (svcUnit p) = d := by
  have hkind : svcUnit p / 8192 = 6 := by
    unfold svcUnit unitId
    omega
  unfold Dev.unitBad
  simp only [hkind]

theorem Dev.bringUp_pair (d : Dev) (now : Nat) {p : Nat} (h : p < 8) : d.bringUp now [svcUnit p] = d.bootStop now (svcUnit p) 6 := by
  unfold Dev.bringUp
  simp only [List.foldl_cons, List.foldl_nil, Dev.unitBad_pair d now h, Dev.bootStopper_pair d h]

theorem Dev.railed_law (d : Dev) : d.railed.pwr.pkg = .run ∧ d.railed.get PWR_STATE_REQ.STATE = 0 := by
  unfold Dev.railed
  obtain ⟨fresh, ch, due, reqs, h⟩ := Dev.newChallenge_shape (((((d.onPwr fun w => { w with pkg := .run }).set PWR_STATE_REQ.STATE 0).onLcs
    fun l => { l with drbgUp := true, drbgFails := 0 }).setReg CLK_STATUS.off 0x3FFFFFFFFFFFF).set MGT_STATUS.PKG_DOWN 0).reseed
  rw [h]
  refine ⟨rfl, ?_⟩
  have hstate := Dev.get_set_same (d.onPwr fun w => { w with pkg := .run }) PWR_STATE_REQ.STATE 0 (by decide)
  refine (Dev.get_set_other _ MGT_STATUS.PKG_DOWN PWR_STATE_REQ.STATE 0 (by decide)).trans ?_
  exact (Dev.get_setReg_other _ CLK_STATUS.off _ PWR_STATE_REQ.STATE (by decide)).trans hstate

theorem Dev.manned_law (d : Dev) : d.manned.pwr.pkg = .run ∧ d.manned.get PWR_STATE_REQ.STATE = 0 := by
  obtain ⟨hpkg, hstate⟩ := d.railed_law
  unfold Dev.manned
  obtain ⟨hpwr, hget⟩ := (if d.railed.fw.cold then d.railed.loadDeviceKeys else d.railed).withCores_law
  rw [hpwr, hget]
  split
  · obtain ⟨hkpwr, hkget⟩ := d.railed.loadDeviceKeys_law
    rw [hkpwr, hkget PWR_STATE_REQ.STATE (by decide)]
    exact ⟨hpkg, hstate⟩
  · exact ⟨hpkg, hstate⟩

theorem Dev.pwr_of_noRegs {d e : Dev} (h : e.noRegs = d.noRegs) : e.pwr = d.pwr := by
  have hpwr := congrArg Dev.pwr h
  exact hpwr

theorem Dev.atStep_law (d : Dev) (n : Nat) : (d.atStep n).fw.bootStep = n ∧ (d.atStep n).pwr = d.pwr ∧
    ∀ f : Fld, f.off ≠ MGT_BOOT_STATUS.off → (d.atStep n).get f = d.get f :=
  ⟨rfl, rfl, fun f hf => Dev.get_set_other (d.onFw fun f => { f with bootStep := n }) MGT_BOOT_STATUS.STAGE f n hf⟩

theorem Dev.bringUp_good_law {d : Dev} (h : 752 ≤ d.usableChans) (now : Nat) : (d.bringUp now []).fw.bootStep = 8 ∧
    (d.bringUp now []).pwr.pkg = .run ∧ (d.bringUp now []).get PWR_STATE_REQ.STATE = 0 := by
  rw [Dev.bringUp_good h]
  obtain ⟨hpkg, hstate⟩ := d.manned_law
  obtain ⟨hsame, hget⟩ := d.manned.loadPolicy_law
  obtain ⟨hstep, hpwr, hat⟩ := d.manned.loadPolicy.atStep_law 8
  refine ⟨hstep, ?_, ?_⟩
  · rw [hpwr, Dev.pwr_of_noRegs hsame, hpkg]
  · rw [hat PWR_STATE_REQ.STATE (by decide), hget PWR_STATE_REQ.STATE (by decide), hstate]

/-- Boot stopped: it stays so, with the package dark. -/
theorem Dev.bootStop_law (d : Dev) (now u n : Nat) : (d.bootStop now u n).fw.stopped = true ∧ (d.bootStop now u n).pwr.pkg = .dark := by
  obtain ⟨hsame, -⟩ := Dev.reportNow_law (((d.onFw fun f => { f with stopped := true }).onPwr fun w => { w with pkg := .dark }).alert
    .bootStopped true) now 0x0916 moduleUnit 0x00 .fatal [u, n] false none
  exact ⟨(Dev.fw_of_unreported hsame).stopped, congrArg (·.pkg) (Dev.pwr_of_unreported hsame)⟩

/-! ### The lockdown (R544) -/

theorem mgtLockdown_leads (s : State) : Leads .mgtLockdown s s.dev.lockdown := rfl

theorem Dev.lockdown_early {d : Dev} (h : d.fw.bootStep ≠ 8) : d.lockdown = d := if_pos h

theorem Dev.lockdown_eight {d : Dev} (h : d.fw.bootStep = 8) :
    d.lockdown = ((d.set MGT_LOCKDOWN.LOCK 1).set MGT_STATUS.LOCKED 1).atStep 9 := if_neg fun hn => hn h

theorem Dev.lockdown_law {d : Dev} (h : d.fw.bootStep = 8) : d.lockdown.fw.bootStep = 9 ∧ d.lockdown.flag MGT_LOCKDOWN.LOCK = true ∧
    d.lockdown.flag MGT_STATUS.LOCKED = true ∧ d.lockdown.get MGT_BOOT_STATUS.STAGE = 9 ∧ d.lockdown.core = d.core := by
  rw [Dev.lockdown_eight h]
  have hlock : ((d.set MGT_LOCKDOWN.LOCK 1).set MGT_STATUS.LOCKED 1).get MGT_LOCKDOWN.LOCK = 1 :=
    (Dev.get_set_other _ MGT_STATUS.LOCKED MGT_LOCKDOWN.LOCK 1 (by decide)).trans (Dev.get_set_same d MGT_LOCKDOWN.LOCK 1 (by decide))
  have hlocked : ((d.set MGT_LOCKDOWN.LOCK 1).set MGT_STATUS.LOCKED 1).get MGT_STATUS.LOCKED = 1 :=
    Dev.get_set_same _ MGT_STATUS.LOCKED 1 (by decide)
  have hat : ∀ (x : Dev) (f : Fld), f.off ≠ MGT_BOOT_STATUS.off → (x.atStep 9).get f = x.get f := fun x f hf =>
    Dev.get_set_other (x.onFw fun f => { f with bootStep := 9 }) MGT_BOOT_STATUS.STAGE f 9 hf
  refine ⟨rfl, ?_, ?_, Dev.get_set_same _ MGT_BOOT_STATUS.STAGE 9 (by decide), rfl⟩
  · rw [Dev.flag, hat _ _ (by decide), hlock]
    rfl
  · rw [Dev.flag, hat _ _ (by decide), hlocked]
    rfl

/-! ### Memory pass 2 (R504) -/

theorem memoryPass2Done_leads (s : State) (bad : List Nat) : Leads (.memoryPass2Done bad) s (s.dev.pass2Done s.now bad) := rfl

/-- Memories cleared, and the links' memory shown, where no channel fails. -/
def Dev.pass2Set (d : Dev) : Dev :=
  ((List.range 4).foldl (fun d p => if d.flag (CXP_STATUS.READY p) then d.set (CXP_STATUS.MEM_ACTIVE p) 1 else d)
    { d with mem := [], lost := [], slice := [], cxl := { d.cxl with memInfoValid := true } })

theorem Dev.pass2Set_shape (d : Dev) : ∃ regs, d.pass2Set =
    { d with regs := regs, mem := [], lost := [], slice := [], cxl := { d.cxl with memInfoValid := true } } := by
  unfold Dev.pass2Set
  refine foldl_keeps (fun e : Dev => ∃ regs, e =
    { d with regs := regs, mem := [], lost := [], slice := [], cxl := { d.cxl with memInfoValid := true } }) _ ?_ _ _ ⟨_, rfl⟩
  rintro e p ⟨regs, rfl⟩
  split <;> exact ⟨_, rfl⟩

/-- Pass 2 over, before what follows a cold boot or a package reset. -/
def Dev.pass2Over (d : Dev) (now : Nat) : Dev := ((d.pass2Set.atStep 12).set MGT_STATUS.READY 1).fuseFloors now

theorem Dev.pass2Done_eq {d : Dev} (h : d.fw.bootStep = 9) (now : Nat) : d.pass2Done now [] =
    if (d.pass2Over now).fw.cold then (d.pass2Over now).coldDone now else (d.pass2Over now).pkgDone now := if_neg fun hn => hn h

theorem Fw.Same.refl (f : Fw) : f.Same f := ⟨rfl, rfl, rfl, rfl, rfl, rfl, rfl, rfl, rfl, rfl, rfl, rfl, rfl⟩

theorem Fw.Same.trans {f g h : Fw} (hfg : f.Same g) (hgh : g.Same h) : f.Same h :=
  ⟨hfg.image.trans hgh.image, hfg.imageState.trans hgh.imageState, hfg.ram.trans hgh.ram, hfg.floorB.trans hgh.floorB,
    hfg.floorR.trans hgh.floorR, hfg.update.trans hgh.update, hfg.bootStep.trans hgh.bootStep, hfg.bootAt.trans hgh.bootAt,
    hfg.cold.trans hgh.cold, hfg.stopped.trans hgh.stopped, hfg.recovery.trans hgh.recovery, hfg.refused.trans hgh.refused,
    hfg.answer.trans hgh.answer⟩

theorem Dev.lost_of_unreported {d e : Dev} (h : e.unreported = d.unreported) : e.lost = d.lost := by
  have hlost := congrArg Dev.lost h
  exact hlost

/-- The floors rise to the running image's, and no register but the error queue's differs. -/
theorem Dev.fuseFloors_law (d : Dev) (now : Nat) : (d.fuseFloors now).fw.Same { d.fw with
      floorB := max d.fw.floorB d.fw.ram.man.floorB, floorR := max d.fw.floorR d.fw.ram.man.floorR } ∧
    (d.fuseFloors now).mem = d.mem ∧ (d.fuseFloors now).lost = d.lost ∧ (d.fuseFloors now).slice = d.slice ∧
    ∀ f : Fld, f.off ≠ RAS_ERRQ_TAIL.off → f.off ≠ RAS_ERRQ_LOST.off → (d.fuseFloors now).get f = d.get f := by
  unfold Dev.fuseFloors
  dsimp only
  split
  case isTrue h =>
    obtain ⟨hb, hr⟩ := h
    rw [hb, hr]
    exact ⟨Fw.Same.refl _, rfl, rfl, rfl, fun _ _ _ => rfl⟩
  case isFalse =>
    obtain ⟨hsame, hget⟩ := Dev.reportNow_law (d.onFw fun f => { f with
      floorB := max d.fw.floorB d.fw.ram.man.floorB, floorR := max d.fw.floorR d.fw.ram.man.floorR }) now 0x0917 moduleUnit 0x00 .info
      [max d.fw.floorB d.fw.ram.man.floorB, max d.fw.floorR d.fw.ram.man.floorR] false none
    obtain ⟨-, hmem, -, -, hslice, -⟩ := Dev.of_unreported hsame
    have hlost := Dev.lost_of_unreported hsame
    exact ⟨Dev.fw_of_unreported hsame, hmem, hlost, hslice, hget⟩

/-- A device after pass 2: memories clear, boot at its last step, READY, the floors fused. -/
structure Dev.Passed (d e : Dev) : Prop where
  mem : e.mem = []
  lost : e.lost = []
  slice : e.slice = []
  bootStep : e.fw.bootStep = 12
  ready : e.flag MGT_STATUS.READY = true
  floorB : e.fw.floorB = max d.fw.floorB d.fw.ram.man.floorB
  floorR : e.fw.floorR = max d.fw.floorR d.fw.ram.man.floorR
  cold : e.fw.cold = d.fw.cold
  bootAt : e.fw.bootAt = d.fw.bootAt

theorem Dev.passed_fuseFloors {d x : Dev} (hmem : x.mem = []) (hlost : x.lost = []) (hslice : x.slice = [])
    (hfw : x.fw = { d.fw with bootStep := 12 }) (hready : x.get MGT_STATUS.READY = 1) (now : Nat) : d.Passed (x.fuseFloors now) := by
  obtain ⟨hsame, hm, hl, hs, hget⟩ := x.fuseFloors_law now
  rw [hfw] at hsame
  refine ⟨hm.trans hmem, hl.trans hlost, hs.trans hslice, hsame.bootStep, ?_, hsame.floorB, hsame.floorR, hsame.cold, hsame.bootAt⟩
  rw [Dev.flag, hget _ (by decide) (by decide), hready]
  rfl

theorem Dev.passed_pass2Over (d : Dev) (now : Nat) : d.Passed (d.pass2Over now) := by
  obtain ⟨regs, h⟩ := d.pass2Set_shape
  unfold Dev.pass2Over
  refine Dev.passed_fuseFloors ?_ ?_ ?_ ?_ (Dev.get_set_same _ MGT_STATUS.READY 1 (by decide)) now
  · show d.pass2Set.mem = []
    rw [h]
  · show d.pass2Set.lost = []
    rw [h]
  · show d.pass2Set.slice = []
    rw [h]
  · show ({ d.pass2Set.fw with bootStep := 12 } : Fw) = _
    rw [h]

theorem Dev.passed_notify {d x : Dev} (h : d.Passed x) (now : Nat) (r : Option ErrRec) (l : List Nat) : d.Passed (x.notify now r l) := by
  obtain ⟨⟨regs, ev, al, an, ns, box, nseq, hshape⟩, hget⟩ := x.notify_shape now r l
  have hready : (x.notify now r l).flag MGT_STATUS.READY = true := by
    rw [Dev.flag, hget _ (by decide)]
    exact h.ready
  rw [hshape] at hready ⊢
  exact ⟨h.mem, h.lost, h.slice, h.bootStep, hready, h.floorB, h.floorR, h.cold, h.bootAt⟩

theorem Dev.passed_coldDone {d x : Dev} (h : d.Passed x) (now : Nat) : d.Passed (x.coldDone now) ∧
    (x.coldDone now).get MGT_BOOT_STATUS.BOOT_MS = (now - d.fw.bootAt) / 1000000 % 2 ^ MGT_BOOT_STATUS.BOOT_MS.w := by
  have hms : (x.set MGT_BOOT_STATUS.BOOT_MS ((now - x.fw.bootAt) / 1000000)).get MGT_BOOT_STATUS.BOOT_MS =
      (now - d.fw.bootAt) / 1000000 % 2 ^ MGT_BOOT_STATUS.BOOT_MS.w := by
    rw [Dev.get_set_same x MGT_BOOT_STATUS.BOOT_MS _ (by decide), h.bootAt]
  have hset : d.Passed (x.set MGT_BOOT_STATUS.BOOT_MS ((now - x.fw.bootAt) / 1000000)) := by
    refine ⟨h.mem, h.lost, h.slice, h.bootStep, ?_, h.floorB, h.floorR, h.cold, h.bootAt⟩
    rw [Dev.flag, Dev.get_set_other x MGT_BOOT_STATUS.BOOT_MS MGT_STATUS.READY _ (by decide)]
    exact h.ready
  unfold Dev.coldDone
  dsimp only
  split
  next r _ =>
    refine ⟨Dev.passed_notify hset now (some r) [], ?_⟩
    obtain ⟨-, hget⟩ := (x.set MGT_BOOT_STATUS.BOOT_MS ((now - x.fw.bootAt) / 1000000)).notify_shape now (some r) []
    exact (hget _ (by decide)).trans hms
  next _ => exact ⟨hset, hms⟩

theorem Dev.passed_pkgDone {d x : Dev} (h : d.Passed x) (now : Nat) : d.Passed (x.pkgDone now) ∧ (x.pkgDone now).ras.resets = [] ∧
    (x.pkgDone now).ras.powerCycle = false := by
  have halert : d.Passed (({ x with ras := { x.ras with resets := [], powerCycle := false } } : Dev).alert .powerCycle false) :=
    ⟨h.mem, h.lost, h.slice, h.bootStep, h.ready, h.floorB, h.floorR, h.cold, h.bootAt⟩
  refine ⟨Dev.passed_notify halert now none _, ?_⟩
  obtain ⟨⟨regs, ev, al, an, ns, box, nseq, hshape⟩, -⟩ :=
    (({ x with ras := { x.ras with resets := [], powerCycle := false } } : Dev).alert .powerCycle false).notify_shape now none
      [x.reg RAS_RESET_STATUS.off, ((x.ras.dump).map (·.seq)).getD 0]
  have heq : x.pkgDone now = (({ x with ras := { x.ras with resets := [], powerCycle := false } } : Dev).alert .powerCycle false).notify now none
      [x.reg RAS_RESET_STATUS.off, ((x.ras.dump).map (·.seq)).getD 0] := rfl
  rw [heq, hshape]
  exact ⟨rfl, rfl⟩

theorem Dev.pass2Done_law {d : Dev} (h : d.fw.bootStep = 9) (now : Nat) : d.Passed (d.pass2Done now []) ∧
    (d.fw.cold = true → (d.pass2Done now []).get MGT_BOOT_STATUS.BOOT_MS = (now - d.fw.bootAt) / 1000000 % 2 ^ MGT_BOOT_STATUS.BOOT_MS.w) ∧
    (d.fw.cold = false → (d.pass2Done now []).ras.resets = [] ∧ (d.pass2Done now []).ras.powerCycle = false) := by
  have hpassed := d.passed_pass2Over now
  have hcold := hpassed.cold
  rw [Dev.pass2Done_eq h]
  split
  case isTrue hc =>
    obtain ⟨hall, hms⟩ := Dev.passed_coldDone hpassed now
    exact ⟨hall, fun _ => hms, fun hno => absurd (hcold.symm.trans hc) (ne_true_of_eq_false hno)⟩
  case isFalse hc =>
    obtain ⟨hall, hdone⟩ := Dev.passed_pkgDone hpassed now
    exact ⟨hall, fun hyes => absurd (hcold.trans hyes) hc, fun _ => hdone⟩

/-! ### A channel that fails pass 2 (R504) -/

/-- The failed channel of a slot marked. -/
def Dev.chanFailed (d : Dev) (l : Nat) : Dev :=
  ((d.set (STK_CHAN_HEALTH.PSTATE (l / 32) (d.physChan l % 34)) 3).almEntry (chanUnit (d.physChan l)) 0x0206).almMark
    (chanUnit (d.physChan l)) .failed

theorem Dev.get_chanFailed (d : Dev) (l : Nat) (f : Fld) : (d.chanFailed l).get f =
    (d.set (STK_CHAN_HEALTH.PSTATE (l / 32) (d.physChan l % 34)) 3).get f := rfl

theorem Dev.spareChannel_chanFailed {d : Dev} {l : Nat} (h : d.get (STK_CHAN_HEALTH.PSTATE (l / 32) (d.physChan l % 34)) ≠ 1) :
    (d.chanFailed l).spareChannel (l / 32) = d.spareChannel (l / 32) := by
  have hsame : (fun k => (d.chanFailed l).get (STK_CHAN_HEALTH.PSTATE (l / 32) k) == 1) =
      fun k => d.get (STK_CHAN_HEALTH.PSTATE (l / 32) k) == 1 := by
    funext k
    rw [Dev.get_chanFailed]
    by_cases hk : k = d.physChan l % 34
    · subst hk
      rw [Dev.get_set_same _ _ _ (by simp [STK_CHAN_HEALTH.PSTATE]), beq_eq_false_iff_ne.mpr h]
      rfl
    · rw [Dev.get_set_other]
      show STK_CHAN_HEALTH.off (l / 32) k ≠ STK_CHAN_HEALTH.off (l / 32) (d.physChan l % 34)
      unfold STK_CHAN_HEALTH.off
      omega
  unfold Dev.spareChannel
  rw [hsame]

/-- A spare channel entered in a slot. -/
def Dev.spareEntered (d : Dev) (l k : Nat) : Dev :=
  ((d.set (STK_SLOT_MAP.PHYS (l / 32) (l % 32)) k).set (STK_CHAN_HEALTH.PSTATE (l / 32) k) 0).sat (STK_SPARE.CHANS (l / 32)) 1

theorem Dev.get_chansLeft (d : Dev) (s : Nat) (f : Fld) : (d.chansLeft s).get f = d.get f := by
  unfold Dev.chansLeft Dev.groupEmpty
  split
  · dsimp only
    split
    · rfl
    · exact Dev.get_raise _ _ _ _ _ _ _ _
  · rfl

theorem Dev.phys_spareEntered (d : Dev) {l k : Nat} (hk : k < 34) :
    (d.spareEntered l k).get (STK_SLOT_MAP.PHYS (l / 32) (l % 32)) = k := by
  have hphys : (d.set (STK_SLOT_MAP.PHYS (l / 32) (l % 32)) k).get (STK_SLOT_MAP.PHYS (l / 32) (l % 32)) = k :=
    (Dev.get_set_same d _ _ (by simp [STK_SLOT_MAP.PHYS])).trans (Nat.mod_eq_of_lt (show k < 2 ^ 6 by omega))
  refine (Dev.get_set_other _ (STK_SPARE.CHANS (l / 32)) _ _ ?_).trans ((Dev.get_set_other _ (STK_CHAN_HEALTH.PSTATE (l / 32) k) _ _ ?_).trans hphys)
  · show STK_SLOT_MAP.off (l / 32) (l % 32) ≠ STK_SPARE.off (l / 32)
    unfold STK_SLOT_MAP.off STK_SPARE.off
    omega
  · show STK_SLOT_MAP.off (l / 32) (l % 32) ≠ STK_CHAN_HEALTH.off (l / 32) k
    unfold STK_SLOT_MAP.off STK_CHAN_HEALTH.off
    omega

theorem Dev.pass2Bad_spare {d : Dev} {l k : Nat} (hserves : d.retired l = false) (hk : (d.chanFailed l).spareChannel (l / 32) = some k) (now : Nat) :
    d.pass2Bad now l = (((d.chanFailed l).spareEntered l k).raise 0x0206 (chanUnit (l / 32 * 34 + k)) 0xFF .degraded
      [l % 32, d.physChan l, l / 32 * 34 + k, 0]).chansLeft (l / 32) := by
  have heq : d.pass2Bad now l = (match (d.chanFailed l).spareChannel (l / 32) with
      | some k => (((d.chanFailed l).spareEntered l k).raise 0x0206 (chanUnit (l / 32 * 34 + k)) 0xFF .degraded
          [l % 32, d.physChan l, l / 32 * 34 + k, 0]).chansLeft (l / 32)
      | none => ((d.chanFailed l).retireSlot now (l / 32) (l % 32)).raise 0x0207 (chanUnit (d.physChan l)) 0xFF .contained [l % 32, 0]) :=
    if_neg (ne_true_of_eq_false hserves)
  rw [heq, hk]

theorem Dev.pass2Bad_none {d : Dev} {l : Nat} (hserves : d.retired l = false) (hk : (d.chanFailed l).spareChannel (l / 32) = none) (now : Nat) :
    d.pass2Bad now l = ((d.chanFailed l).retireSlot now (l / 32) (l % 32)).raise 0x0207 (chanUnit (d.physChan l)) 0xFF .contained [l % 32, 0] := by
  have heq : d.pass2Bad now l = (match (d.chanFailed l).spareChannel (l / 32) with
      | some k => (((d.chanFailed l).spareEntered l k).raise 0x0206 (chanUnit (l / 32 * 34 + k)) 0xFF .degraded
          [l % 32, d.physChan l, l / 32 * 34 + k, 0]).chansLeft (l / 32)
      | none => ((d.chanFailed l).retireSlot now (l / 32) (l % 32)).raise 0x0207 (chanUnit (d.physChan l)) 0xFF .contained [l % 32, 0]) :=
    if_neg (ne_true_of_eq_false hserves)
  rw [heq, hk]

/-- A slot retires; with no move and nothing to publish that is all. -/
theorem Dev.retireSlot_state {d : Dev} (hmoves : d.comp.moves = []) (hwait : d.comp.waiting = []) (now s j : Nat) :
    (d.retireSlot now s j).get (STK_SLOT_MAP.STATE s j) = 2 := by
  have hset : ((d.onStack s fun t => { t with waiting := t.waiting.filter (· != .channel j) }).set (STK_SLOT_MAP.STATE s j) 2).get
      (STK_SLOT_MAP.STATE s j) = 2 := Dev.get_set_same _ _ 2 (by simp [STK_SLOT_MAP.STATE])
  have hlose : ∀ x : Dev, x.comp.moves = [] → x.comp.waiting = [] → x.movesLose now (32 * s + j) = x := by
    intro x hm hw
    unfold Dev.movesLose Dev.publishService
    simp [hm, hw]
  unfold Dev.retireSlot
  dsimp only
  rw [hlose ((d.onStack s fun t => { t with waiting := t.waiting.filter (· != .channel j) }).set (STK_SLOT_MAP.STATE s j) 2) hmoves hwait,
    Dev.get_redeliver]
  · exact hset
  · have hoff : STK_SLOT_MAP.off s j ≠ STK_STATUS.off s := by
      unfold STK_SLOT_MAP.off STK_STATUS.off
      omega
    simp [Fld.apart, STK_STATUS.DELIV, STK_SLOT_MAP.STATE, hoff]

end Sys2Proof.Machine
end

section
/-!
PROOFS. The update of the image by PLDM and by mailbox (R512 to R515), and the obligation of boot and update.
-/

namespace Sys2Proof.Machine

/-! ### A message wakes the package -/

theorem Dev.mctp_law (d : Dev) (over_ : Bool) : (d.mctp over_).fw = d.fw ∧ (d.mctp over_).lcs = d.lcs := by
  unfold Dev.mctp
  split
  · obtain ⟨regs, pwr, cxl, h⟩ := d.wakePkg_shape 3
    rw [h]
    exact ⟨rfl, rfl⟩
  · exact ⟨rfl, rfl⟩

theorem Dev.manifestBad_congr {d e : Dev} (hfw : e.fw = d.fw) (hlcs : e.lcs = d.lcs) (m : Manifest) : e.manifestBad m = d.manifestBad m := by
  unfold Dev.manifestBad
  rw [hfw, hlcs]

/-! ### REQUEST_UPDATE and ACTIVATE_FIRMWARE (R514, R515) -/

theorem requestUpdate_leads (s : State) (mailbox : Bool) (port : Nat) :
    Leads (.requestUpdate mailbox port) s ((s.dev.mctp (!mailbox)).requestUpdate s.now mailbox port) := rfl

theorem activateFirmware_leads (s : State) (mailbox : Bool) (port : Nat) (online : Bool) :
    Leads (.activateFirmware mailbox port online) s ((s.dev.mctp (!mailbox)).activateFw mailbox port online) := rfl

theorem Dev.mctp_not (d : Dev) (mailbox : Bool) : d.mctp (!mailbox) = if mailbox then d else d.wakePkg 3 := by
  cases mailbox <;> rfl

/-- A closed mailbox carries neither. -/
theorem Dev.update_closed {d : Dev} {port : Nat} (h : d.mailboxOpen port = false) (now : Nat) (online : Bool) :
    d.requestUpdate now true port = d.say .unsupported ∧ d.activateFw true port online = d.say .unsupported := by
  unfold Dev.requestUpdate Dev.activateFw
  rw [h]
  exact ⟨rfl, rfl⟩

/-- A path that carries updates. -/
theorem Dev.path_open {w : Dev} {mailbox : Bool} {port : Nat} (h : mailbox = true → w.mailboxOpen port = true) :
    ¬(mailbox && !w.mailboxOpen port) = true := by
  cases mailbox with
  | false => exact Bool.false_ne_true
  | true =>
    rw [h rfl]
    decide

theorem Dev.requestUpdate_busy {w : Dev} {mailbox : Bool} {port : Nat} (h : mailbox = true → w.mailboxOpen port = true)
    (hbusy : w.fw.update ≠ none) (now : Nat) : w.requestUpdate now mailbox port = w.say (if mailbox then .busy else .inUpdate) :=
  (if_neg (Dev.path_open h)).trans (if_pos (Option.isSome_iff_ne_none.mpr hbusy))

theorem Dev.requestUpdate_early {w : Dev} {mailbox : Bool} {port : Nat} (h : mailbox = true → w.mailboxOpen port = true)
    (hfree : w.fw.update = none) (hearly : w.fw.bootStep < 4) (now : Nat) : w.requestUpdate now mailbox port = w.say .notReady :=
  (if_neg (Dev.path_open h)).trans ((if_neg (by rw [hfree]; decide)).trans (if_pos hearly))

/-- The device with an update begun. -/
def Dev.updateBegun (d : Dev) (now : Nat) (mailbox : Bool) (port : Nat) : Dev :=
  ((((d.onFw fun f => { f with
    update := some { port := if mailbox then some port else none, manifest := none, blocks := 0, lastAt := now } }).set
      MGT_FW_UPDATE.PATH (if mailbox then 2 else 1)).set MGT_FW_UPDATE.PORT (if mailbox then port else 0)).set MGT_FW_UPDATE.PROGRESS 0).say .done

theorem Dev.requestUpdate_begins {w : Dev} {mailbox : Bool} {port : Nat} (h : mailbox = true → w.mailboxOpen port = true)
    (hfree : w.fw.update = none) (hup : 4 ≤ w.fw.bootStep) (now : Nat) : w.requestUpdate now mailbox port = w.updateBegun now mailbox port :=
  (if_neg (Dev.path_open h)).trans ((if_neg (by rw [hfree]; decide)).trans (if_neg (Nat.not_lt.mpr hup)))

theorem Dev.updateBegun_law (d : Dev) (now : Nat) (mailbox : Bool) (port : Nat) :
    (d.updateBegun now mailbox port).fw.update = some { port := if mailbox then some port else none, manifest := none, blocks := 0, lastAt := now } ∧
    (d.updateBegun now mailbox port).get MGT_FW_UPDATE.PATH = (if mailbox then 2 else 1) ∧
    (d.updateBegun now mailbox port).get MGT_FW_UPDATE.PROGRESS = 0 ∧ (d.updateBegun now mailbox port).fw.image = d.fw.image ∧
    (d.updateBegun now mailbox port).fw.imageState = d.fw.imageState := by
  refine ⟨rfl, ?_, Dev.get_set_same _ MGT_FW_UPDATE.PROGRESS 0 (by decide), rfl, rfl⟩
  refine (Dev.get_set_of_apart _ MGT_FW_UPDATE.PROGRESS MGT_FW_UPDATE.PATH 0 (by decide)).trans ?_
  refine (Dev.get_set_of_apart _ MGT_FW_UPDATE.PORT MGT_FW_UPDATE.PATH _ (by decide)).trans ?_
  refine (Dev.get_set_same _ MGT_FW_UPDATE.PATH _ (by decide)).trans ?_
  cases mailbox <;> rfl

theorem Dev.activateFw_online {w : Dev} {port : Nat} (h : w.mailboxOpen port = true) : w.activateFw true port true = w.say .refused :=
  (if_neg (Dev.path_open fun _ => h)).trans (if_pos rfl)

theorem Dev.activateFw_next {w : Dev} {mailbox : Bool} {port : Nat} {online : Bool} (h : mailbox = true → w.mailboxOpen port = true)
    (hoff : mailbox = false ∨ online = false) : w.activateFw mailbox port online =
      if w.fw.bootStep < 4 then w.say .notReady else w.reply 0xE010 [1] := by
  have hno : ¬(mailbox && online) = true := by
    obtain rfl | rfl := hoff
    · exact Bool.false_ne_true
    · rw [Bool.and_false]
      decide
  exact (if_neg (Dev.path_open h)).trans (if_neg hno)

theorem getFwInfo_leads (s : State) (port : Nat) : Leads (.getFwInfo port) s (if s.dev.mailboxOpen port then
    s.dev.reply 0xE011 [1, s.dev.fw.ram.man.svnB, s.dev.fw.ram.man.svnR, s.dev.fw.imageState] else s.dev.say .unsupported) := rfl

/-! ### UPDATE_COMPONENT and FW_BLOCK (R514) -/

theorem updateComponent_leads (s : State) (man : Manifest) :
    Leads (.updateComponent man) s ((s.dev.mctp s.dev.pldmUpdate).updateComponent s.now man) := rfl

theorem fwBlock_leads (s : State) (bad : Nat) (pol : List Nat) :
    Leads (.fwBlock bad pol) s ((s.dev.mctp s.dev.pldmUpdate).fwBlock s.now bad pol) := rfl

theorem updateFailed_leads (s : State) : Leads .updateFailed s (s.dev.updateLate s.now) := rfl

theorem Dev.updateComponent_none {w : Dev} (h : w.fw.update = none ∨ ∃ u, w.fw.update = some u ∧ u.manifest ≠ none) (now : Nat) (man : Manifest) :
    w.updateComponent now man = w := by
  unfold Dev.updateComponent
  obtain h | ⟨u, hu, hm⟩ := h
  · rw [h]
  · rw [hu]
    exact if_pos (Option.isSome_iff_ne_none.mpr hm)

/-- The device with an update refused for a check, its count in recovery still to come. -/
def Dev.updateRefused (d : Dev) (c : Nat) : Dev := (d.onFw fun f => { f with update := none }).set MGT_FW_UPDATE.CAUSE c

theorem Dev.updateComponent_refused {w : Dev} {u : Update} {man : Manifest} {c : Nat} (hu : w.fw.update = some u) (hm : u.manifest = none)
    (hbad : w.manifestBad man = some c) (now : Nat) : w.updateComponent now man =
      (((w.updateRefused c).imageRefused now c).reportNow now 0x0913 moduleUnit 0x00 .info [u.path, c]).say .refused := by
  have hno : ¬u.manifest.isSome = true := by rw [hm]; decide
  unfold Dev.updateComponent
  rw [hu]
  simp only [if_neg hno, hbad]
  rfl

theorem Dev.updateComponent_taken {w : Dev} {u : Update} {man : Manifest} (hu : w.fw.update = some u) (hm : u.manifest = none)
    (hgood : w.manifestBad man = none) (now : Nat) : w.updateComponent now man =
      (w.onFw fun f => { f with imageState := 1, update := some { u with manifest := some man, lastAt := now } }).say .done := by
  have hno : ¬u.manifest.isSome = true := by rw [hm]; decide
  unfold Dev.updateComponent
  rw [hu]
  simp only [if_neg hno, hgood]

/-- A refused image counts in recovery, and differs nothing else of firmware. -/
theorem Dev.imageRefused_law (d : Dev) (now c : Nat) : (d.imageRefused now c).fw.Same { d.fw with
      refused := if d.fw.recovery then d.fw.refused + 1 else d.fw.refused } ∧
    ∀ f : Fld, f.off ≠ RAS_ERRQ_TAIL.off → f.off ≠ RAS_ERRQ_LOST.off → (d.imageRefused now c).get f = d.get f := by
  unfold Dev.imageRefused
  cases hrec : d.fw.recovery with
  | false => exact ⟨Fw.Same.refl _, fun _ _ _ => rfl⟩
  | true =>
    obtain ⟨hsame, hget⟩ := Dev.reportNow_law (d.onFw fun f => { f with refused := f.refused + 1 }) now 0x0911 moduleUnit 0x00 .info
      [d.fw.refused + 1, c] true none
    refine ⟨?_, hget⟩
    have hfw := Dev.fw_of_unreported hsame
    rw [if_pos rfl]
    exact hfw

theorem Dev.refused_reported {d x : Dev} {now c : Nat} {l : List Nat} (hc : c < 2 ^ 8) (hx : x = d.updateRefused c) :
    let e := ((x.imageRefused now c).reportNow now 0x0913 moduleUnit 0x00 .info l).say .refused
    e.fw.update = none ∧ e.get MGT_FW_UPDATE.CAUSE = c ∧ e.fw.imageState = d.fw.imageState ∧ e.fw.answer = (d.say .refused).fw.answer ∧
    e.fw.refused = (if d.fw.recovery then d.fw.refused + 1 else d.fw.refused) := by
  obtain ⟨hfw, hget⟩ := x.imageRefused_law now c
  obtain ⟨hsame, hget'⟩ := (x.imageRefused now c).reportNow_law now 0x0913 moduleUnit 0x00 .info l false none
  have hall := (Dev.fw_of_unreported hsame).trans hfw
  have hcause : x.get MGT_FW_UPDATE.CAUSE = c := by
    rw [hx]
    exact (Dev.get_set_same _ MGT_FW_UPDATE.CAUSE c (by decide)).trans (Nat.mod_eq_of_lt hc)
  have hxfw : x.fw = { d.fw with update := none } := by rw [hx]; rfl
  rw [hxfw] at hall
  exact ⟨hall.update, (hget' _ (by decide) (by decide)).trans ((hget _ (by decide) (by decide)).trans hcause), hall.imageState, rfl, hall.refused⟩

theorem Dev.manifestBad_lt {d : Dev} {m : Manifest} {c : Nat} (h : d.manifestBad m = some c) : c < 2 ^ 8 := by
  have hone : ∀ {p : Prop} [Decidable p] {n : Nat} {o : Option Nat}, n < 2 ^ 8 → (o = some c → c < 2 ^ 8) →
      (if p then some n else o) = some c → c < 2 ^ 8 := by
    intro p _ n o hn ho hif
    split at hif
    · obtain rfl := Option.some.inj hif
      exact hn
    · exact ho hif
  exact hone (by decide) (hone (by decide) (hone (by decide) (hone (by decide) fun hn => absurd hn (by simp)))) h

theorem Dev.fwBlock_none {w : Dev} (h : w.fw.update = none ∨ ∃ u, w.fw.update = some u ∧ u.manifest = none) (now bad : Nat) (pol : List Nat) :
    w.fwBlock now bad pol = w := by
  unfold Dev.fwBlock
  obtain h | ⟨⟨port, man, blocks, lastAt⟩, hu, hm⟩ := h
  · rw [h]
  · obtain rfl : man = none := hm
    rw [hu]

/-- The device with one block more of an update. -/
def Dev.blockIn (d : Dev) (now : Nat) (u : Update) : Dev :=
  (d.onFw fun f => { f with update := some { u with blocks := u.blocks + 1, lastAt := now } }).set MGT_FW_UPDATE.PROGRESS (u.blocks + 1)

/-- The device with the whole image VALID in flash. -/
def Dev.imageValid (d : Dev) (now : Nat) (u : Update) (man : Manifest) (pol : List Nat) : Dev :=
  (((d.blockIn now u).onFw fun f => { f with imageState := 2, image := ⟨man, none, pol⟩, update := none }).set MGT_FW_UPDATE.CAUSE 0).reportNow
    now 0x0914 moduleUnit 0x00 .info [u.path, man.svnB, man.svnR]

theorem Dev.fwBlock_some {w : Dev} {u : Update} {man : Manifest} (hu : w.fw.update = some u) (hm : u.manifest = some man) (now bad : Nat)
    (pol : List Nat) : w.fwBlock now bad pol = if (u.blocks + 1) * 65536 < man.total then w.blockIn now u
      else if bad = 6 ∨ bad = 7 then (((w.blockIn now u).set MGT_FW_UPDATE.CAUSE bad).imageRefused now bad).updateFails now
        { u with blocks := u.blocks + 1, lastAt := now }
      else if (w.imageValid now u man pol).fw.recovery then (w.imageValid now u man pol).recovered now else w.imageValid now u man pol := by
  obtain ⟨port, m, n, at_⟩ := u
  obtain rfl : m = some man := hm
  unfold Dev.fwBlock
  rw [hu]
  rfl

theorem Dev.blockIn_law (d : Dev) (now : Nat) (u : Update) : (d.blockIn now u).fw =
      { d.fw with update := some { u with blocks := u.blocks + 1, lastAt := now } } ∧
    (d.blockIn now u).get MGT_FW_UPDATE.PROGRESS = (u.blocks + 1) % 2 ^ MGT_FW_UPDATE.PROGRESS.w :=
  ⟨rfl, Dev.get_set_same _ MGT_FW_UPDATE.PROGRESS _ (by decide)⟩

/-- An update that fails past its last block, or for want of one. -/
theorem Dev.updateFails_law (d : Dev) (now : Nat) (u : Update) : (d.updateFails now u).fw.Same { d.fw with imageState := 0, update := none } ∧
    (d.updateFails now u).ras.seq = (d.ras.seq + 1) % 2 ^ 32 ∧
    ∀ f : Fld, f.off ≠ RAS_ERRQ_TAIL.off → f.off ≠ RAS_ERRQ_LOST.off → (d.updateFails now u).get f = d.get f := by
  obtain ⟨hsame, hget⟩ := Dev.reportNow_law (d.onFw fun f => { f with imageState := 0, update := none }) now 0x0915 moduleUnit 0x01 .info
    [u.path, u.blocks] true none
  exact ⟨Dev.fw_of_unreported hsame, Dev.reportNow_seq _ now 0x0915 moduleUnit 0x01 .info [u.path, u.blocks] true none, hget⟩

theorem Dev.imageBroken_law (d : Dev) {now bad : Nat} (hbad : bad = 6 ∨ bad = 7) (u v : Update) :
    let e := (((d.blockIn now u).set MGT_FW_UPDATE.CAUSE bad).imageRefused now bad).updateFails now v
    e.fw.imageState = 0 ∧ e.fw.update = none ∧ e.get MGT_FW_UPDATE.CAUSE = bad ∧ e.fw.ram = d.fw.ram := by
  obtain ⟨hfw, hget⟩ := ((d.blockIn now u).set MGT_FW_UPDATE.CAUSE bad).imageRefused_law now bad
  obtain ⟨hfail, -, hget'⟩ := Dev.updateFails_law (((d.blockIn now u).set MGT_FW_UPDATE.CAUSE bad).imageRefused now bad) now v
  have hlt : bad < 2 ^ 8 := by omega
  have hcause : ((d.blockIn now u).set MGT_FW_UPDATE.CAUSE bad).get MGT_FW_UPDATE.CAUSE = bad :=
    (Dev.get_set_same _ MGT_FW_UPDATE.CAUSE bad (by decide)).trans (Nat.mod_eq_of_lt hlt)
  exact ⟨hfail.imageState, hfail.update, (hget' _ (by decide) (by decide)).trans ((hget _ (by decide) (by decide)).trans hcause),
    hfail.ram.trans hfw.ram⟩

theorem Dev.imageValid_law (d : Dev) (now : Nat) (u : Update) (man : Manifest) (pol : List Nat) : (d.imageValid now u man pol).fw.Same { d.fw with
      imageState := 2, image := ⟨man, none, pol⟩, update := none } ∧ (d.imageValid now u man pol).get MGT_FW_UPDATE.CAUSE = 0 := by
  obtain ⟨hsame, hget⟩ := Dev.reportNow_law (((d.blockIn now u).onFw fun f => { f with
    imageState := 2, image := ⟨man, none, pol⟩, update := none }).set MGT_FW_UPDATE.CAUSE 0) now 0x0914 moduleUnit 0x00 .info
    [u.path, man.svnB, man.svnR] false none
  exact ⟨Dev.fw_of_unreported hsame, (hget _ (by decide) (by decide)).trans (Dev.get_set_same _ MGT_FW_UPDATE.CAUSE 0 (by decide))⟩

/-- The device before its boot goes on from recovery. -/
def Dev.recoveryOver (d : Dev) (now : Nat) : Dev :=
  ((((d.onFw fun f => { f with recovery := false }).set MGT_STATUS.RECOVERY 0).alert .recovery false).reportNow now 0x0912 moduleUnit 0x00 .info
    [d.fw.image.man.svnB, d.fw.image.man.svnR]).set MGT_BOOT_STATUS.RECOVERED 1

theorem Dev.recovered_eq (d : Dev) (now : Nat) : d.recovered now = (d.recoveryOver now).romCold now [] := rfl

theorem Dev.recoveryOver_law (d : Dev) (now : Nat) : (d.recoveryOver now).fw.Same { d.fw with recovery := false } ∧
    (d.recoveryOver now).flag MGT_BOOT_STATUS.RECOVERED = true := by
  obtain ⟨hsame, -⟩ := Dev.reportNow_law (((d.onFw fun f => { f with recovery := false }).set MGT_STATUS.RECOVERY 0).alert .recovery false) now
    0x0912 moduleUnit 0x00 .info [d.fw.image.man.svnB, d.fw.image.man.svnR] false none
  refine ⟨Dev.fw_of_unreported hsame, ?_⟩
  unfold Dev.recoveryOver
  rw [Dev.flag, Dev.get_set_same _ MGT_BOOT_STATUS.RECOVERED 1 (by decide)]
  rfl

theorem Dev.updateLate_due {d : Dev} {u : Update} {now : Nat} (hu : d.fw.update = some u) (hm : u.manifest ≠ none)
    (hat : u.lastAt + 60 * second ≤ now) : d.updateLate now = d.updateFails now u := by
  unfold Dev.updateLate
  rw [hu]
  exact if_pos ⟨Option.isSome_iff_ne_none.mpr hm, hat⟩

theorem Dev.updateLate_not_due {d : Dev} {now : Nat}
    (h : d.fw.update = none ∨ ∃ u, d.fw.update = some u ∧ (u.manifest = none ∨ now < u.lastAt + 60 * second)) : d.updateLate now = d := by
  unfold Dev.updateLate
  obtain h | ⟨u, hu, hno⟩ := h
  · rw [h]
  · rw [hu]
    refine if_neg ?_
    rintro ⟨hsome, hle⟩
    obtain hm | hlt := hno
    · rw [hm] at hsome
      exact absurd hsome (by decide)
    · exact absurd hle (Nat.not_le.mpr hlt)

/-- What the obligation says of a cold boot that may start. -/
theorem coldBoot_go {i : Instr} {s : State} {src : Nat} {bad : List Nat} {d : Dev} (hlead : Leads i s (d.coldBoot s.now src bad))
    (hd : d.mayBoot src = true) (hs : d.Settled) :
    (∀ c, d.dice.imageBad = some c → Answers i s fun e => e.fw.recovery = true ∧ e.fw.bootStep = (if c ≤ 5 then 4 else 5) ∧
      e.pwr.pkg = .dark ∧ e.flag MGT_STATUS.RECOVERY = true ∧ e.mem = [] ∧ e.core = [] ∧ e.lcs.journal = d.lcs.journal) ∧
    (d.dice.imageBad = none → d.mod.resetN = false → Answers i s fun e => e.fw.bootStep = 5 ∧ e.fw.ram = d.fw.image ∧
      e.fw.recovery = false ∧ e.pwr.pkg = .dark ∧ e.mem = [] ∧ e.fw.bootAt = s.now) ∧
    (d.dice.imageBad = none → d.mod.resetN = true → Sets i s (fun e => e.bringUp s.now bad) fun e => e.fw.bootStep = 5 ∧
      e.fw.ram = d.fw.image ∧ e.fw.cold = true ∧ e.mem = [] ∧ e.core = [] ∧ e.fw.bootAt = s.now) := by
  obtain ⟨hbad, hgood⟩ := Dev.coldBoot_law hd hs s.now bad
  refine ⟨fun c hc => ⟨_, hlead, hbad c hc⟩, fun hnone hlow => ?_, fun hnone hhigh => ?_⟩
  · obtain ⟨e, heq, hstep, hram, hrec, -, hpkg, hmem, -, hat⟩ := hgood hnone
    exact answers_of_eq hlead (heq.trans (if_neg (ne_true_of_eq_false hlow))) ⟨hstep, hram, hrec, hpkg, hmem, hat⟩
  · obtain ⟨e, heq, hstep, hram, -, hcold, -, hmem, hcore, hat⟩ := hgood hnone
    exact ⟨e, leads_of_eq hlead (heq.trans (if_pos hhigh)), hstep, hram, hcold, hmem, hcore, hat⟩

/-- Settles O54: a cold boot's three ends, bring-up, the lockdown, memory pass 2, and an update from its request to its end. -/
theorem bootAndUpdate : Obligations.BootAndUpdate := by
  unfold Obligations.BootAndUpdate
  intro s
  refine ⟨fun bad => ⟨?_, ?_, ?_, ?_⟩, ?_, ?_, ?_, ?_, ?_, ?_, ?_, ?_, ?_, ?_, ?_, ?_, ?_, ?_, ?_⟩
  · intro hno
    exact leads_of_eq (coldBoot_leads s 0 bad) ((s.dev.coldBootAsked_pin s.now bad).trans
      (Dev.coldBoot_may_not (d := s.dev.onMod fun m => { m with pwrEn := true, pwrEnLowAt := none }) hno s.now bad))
  · intro hmay hs
    exact coldBoot_go (d := s.dev.onMod fun m => { m with pwrEn := true, pwrEnLowAt := none })
      (leads_of_eq (coldBoot_leads s 0 bad) (s.dev.coldBootAsked_pin s.now bad)) hmay hs
  · intro hno
    cases hen : s.dev.mod.pwrEn with
    | false => exact leads_of_eq (coldBoot_leads s 9 bad) (Dev.coldBootAsked_off hen s.now bad)
    | true =>
      have hmay : s.dev.mayBoot 9 = false := hno.resolve_right (by rw [hen]; decide)
      exact leads_of_eq (coldBoot_leads s 9 bad) ((Dev.coldBootAsked_wake hen s.now bad).trans (Dev.coldBoot_may_not hmay s.now bad))
  · intro hen hmay hs
    exact coldBoot_go (leads_of_eq (coldBoot_leads s 9 bad) (Dev.coldBootAsked_wake hen s.now bad)) hmay hs
  · intro husable now
    exact Dev.bringUp_good_law husable now
  · intro now p hp
    rw [s.dev.bringUp_pair now hp]
    exact s.dev.bootStop_law now (svcUnit p) 6
  · intro hstep
    exact leads_of_eq (mgtLockdown_leads s) (Dev.lockdown_early hstep)
  · intro hstep
    exact ⟨_, mgtLockdown_leads s, Dev.lockdown_law hstep⟩
  · intro bad hstep
    exact leads_of_eq (memoryPass2Done_leads s bad) (if_pos hstep)
  · intro hstep
    obtain ⟨hpassed, hcold, hwarm⟩ := Dev.pass2Done_law hstep s.now
    exact ⟨_, memoryPass2Done_leads s [], hpassed.mem, hpassed.lost, hpassed.slice, hpassed.bootStep, hpassed.ready, hpassed.floorB,
      hpassed.floorR, hcold, hwarm⟩
  · intro now l _ hserves hstate
    have hspare := Dev.spareChannel_chanFailed hstate
    refine ⟨fun k hk => ?_, fun hk hmoves hwait => ?_⟩
    · have hk34 : k < 34 := List.mem_range.mp (List.mem_of_find?_eq_some hk)
      rw [Dev.pass2Bad_spare hserves (hspare.trans hk), Dev.get_chansLeft, Dev.get_raise]
      exact Dev.phys_spareEntered _ hk34
    · rw [Dev.pass2Bad_none hserves (hspare.trans hk)]
      have hstate2 := Dev.retireSlot_state (d := s.dev.chanFailed l) hmoves hwait now (l / 32) (l % 32)
      unfold Dev.retired
      rw [Dev.get_raise, hstate2]
      rfl
  · intro mailbox port
    have hw : (if mailbox then s.dev else s.dev.wakePkg 3).fw = s.dev.fw := by
      rw [← s.dev.mctp_not mailbox]
      exact (s.dev.mctp_law (!mailbox)).1
    have hpath : (mailbox = true → s.dev.mailboxOpen port = true) →
        mailbox = true → (if mailbox then s.dev else s.dev.wakePkg 3).mailboxOpen port = true := by
      intro h hm
      rw [if_pos hm]
      exact h hm
    have hreq := leads_of_eq (requestUpdate_leads s mailbox port) (congrArg (·.requestUpdate s.now mailbox port) (s.dev.mctp_not mailbox))
    have hact := fun online => leads_of_eq (activateFirmware_leads s mailbox port online)
      (congrArg (·.activateFw mailbox port online) (s.dev.mctp_not mailbox))
    generalize hwdef : (if mailbox then s.dev else s.dev.wakePkg 3) = w at hw hpath hreq hact ⊢
    refine ⟨fun hclosed => ?_, fun hopen hbusy => ?_, fun hopen hfree hearly => ?_, fun hopen hfree hup => ?_, fun hm hopen => ?_,
      fun online hopen hoff => ?_⟩
    · obtain ⟨rfl, hno⟩ := Classical.not_imp.mp hclosed
      have hno' : s.dev.mailboxOpen port = false := Bool.eq_false_of_not_eq_true hno
      obtain rfl : s.dev = w := hwdef
      exact ⟨leads_of_eq hreq (Dev.update_closed hno' s.now true).1, fun online =>
        leads_of_eq (hact online) (Dev.update_closed hno' s.now online).2⟩
    · exact leads_of_eq hreq (Dev.requestUpdate_busy (hpath hopen) (hw ▸ hbusy) s.now)
    · exact leads_of_eq hreq (Dev.requestUpdate_early (hpath hopen) (hw ▸ hfree) (hw ▸ hearly) s.now)
    · refine answers_of_eq hreq (Dev.requestUpdate_begins (hpath hopen) (hw ▸ hfree) (hw ▸ hup) s.now) ?_
      obtain ⟨hupdate, hpathreg, hprogress, himage, hstate⟩ := w.updateBegun_law s.now mailbox port
      exact ⟨hupdate, hpathreg, hprogress, himage.trans (by rw [hw]), hstate.trans (by rw [hw])⟩
    · subst hm
      exact leads_of_eq (hact true) (Dev.activateFw_online (hpath hopen rfl))
    · rw [← hw]
      exact leads_of_eq (hact online) (Dev.activateFw_next (hpath hopen) hoff)
  · intro port
    exact getFwInfo_leads s port
  · intro man hnone
    obtain ⟨hfw, -⟩ := s.dev.mctp_law s.dev.pldmUpdate
    exact leads_of_eq (updateComponent_leads s man) (Dev.updateComponent_none (by rw [hfw]; exact hnone) s.now man)
  · intro man u hu hm
    obtain ⟨hfw, hlcs⟩ := s.dev.mctp_law s.dev.pldmUpdate
    have hbadsame := Dev.manifestBad_congr hfw hlcs man
    have hlead := updateComponent_leads s man
    generalize s.dev.mctp s.dev.pldmUpdate = w at hfw hlcs hbadsame hlead
    rw [← hfw] at hu
    refine ⟨fun c hc => ?_, fun hgood => ?_⟩
    · obtain ⟨hupdate, hcause, hstate, hanswer, hrefused⟩ := Dev.refused_reported (d := w) (now := s.now) (l := [u.path, c])
        (Dev.manifestBad_lt hc) rfl
      exact answers_of_eq hlead (Dev.updateComponent_refused hu hm (hbadsame.trans hc) s.now)
        ⟨hupdate, hcause, hstate.trans (by rw [hfw]), hanswer, hrefused.trans (by rw [hfw])⟩
    · exact answers_of_eq hlead (Dev.updateComponent_taken hu hm (hbadsame.trans hgood) s.now)
        ⟨rfl, rfl, congrArg (·.ram) hfw, rfl⟩
  · intro bad pol hnone
    obtain ⟨hfw, -⟩ := s.dev.mctp_law s.dev.pldmUpdate
    exact leads_of_eq (fwBlock_leads s bad pol) (Dev.fwBlock_none (by rw [hfw]; exact hnone) s.now bad pol)
  · intro bad pol u man hu hm
    obtain ⟨hfw, -⟩ := s.dev.mctp_law s.dev.pldmUpdate
    have hlead := fwBlock_leads s bad pol
    generalize s.dev.mctp s.dev.pldmUpdate = w at hfw hlead
    rw [← hfw] at hu ⊢
    have heq := Dev.fwBlock_some hu hm s.now bad pol
    obtain ⟨hvalid, hcause⟩ := w.imageValid_law s.now u man pol
    refine ⟨fun hmore => ?_, fun hlast hbad => ?_, fun hlast h6 h7 hrec => ?_, fun hlast h6 h7 hrec => ?_⟩
    · obtain ⟨hin, hprogress⟩ := w.blockIn_law s.now u
      exact answers_of_eq hlead (heq.trans (if_pos hmore)) ⟨by rw [hin], by rw [hin], hprogress⟩
    · exact answers_of_eq hlead (heq.trans ((if_neg (Nat.not_lt.mpr hlast)).trans (if_pos hbad)))
        (w.imageBroken_law hbad u _)
    · have hgood : ¬(bad = 6 ∨ bad = 7) := fun h => h.elim h6 h7
      have hno := hvalid.recovery.trans hrec
      exact answers_of_eq hlead (heq.trans ((if_neg (Nat.not_lt.mpr hlast)).trans ((if_neg hgood).trans (if_neg (ne_true_of_eq_false hno)))))
        ⟨hvalid.imageState, hvalid.update, hvalid.image, hcause, hvalid.ram⟩
    · have hgood : ¬(bad = 6 ∨ bad = 7) := fun h => h.elim h6 h7
      have hyes := hvalid.recovery.trans hrec
      obtain ⟨hover, hflag⟩ := (w.imageValid s.now u man pol).recoveryOver_law s.now
      exact ⟨_, leads_of_eq hlead (heq.trans ((if_neg (Nat.not_lt.mpr hlast)).trans ((if_neg hgood).trans ((if_pos hyes).trans
          (Dev.recovered_eq _ s.now))))), hover.imageState.trans hvalid.imageState, hover.update.trans hvalid.update,
        hover.image.trans hvalid.image, hover.recovery, hflag⟩
  · intro u hu hm hat
    obtain ⟨hfail, hseq, -⟩ := s.dev.updateFails_law s.now u
    exact answers_of_eq (updateFailed_leads s) (Dev.updateLate_due hu hm hat) ⟨hfail.imageState, hfail.update, hfail.image, hseq⟩
  · intro hno
    exact leads_of_eq (updateFailed_leads s) (Dev.updateLate_not_due hno)

end Sys2Proof.Machine
end

section
/-!
PROOFS. Writes of set-up registers and the management ring.
-/

namespace Sys2Proof.Machine

/-! ### Bits of a word that is written -/

/-- Numbers that share no bit add up as their bits do. -/
theorem add_eq_lor {a b : Nat} (h : a &&& b = 0) : a + b = a ||| b := by
  have hlt : a + b < 2 ^ (a + b) := Nat.lt_two_pow_self
  have ha : a < 2 ^ (a + b) := by omega
  have hb : b < 2 ^ (a + b) := by omega
  have hz : BitVec.ofNat (a + b) a &&& BitVec.ofNat (a + b) b = 0#(a + b) := by
    rw [← BitVec.ofNat_and, h]
  have := congrArg BitVec.toNat (BitVec.add_eq_or_of_and_eq_zero _ _ hz)
  simpa [Nat.mod_eq_of_lt hlt, Nat.mod_eq_of_lt ha, Nat.mod_eq_of_lt hb] using this

/-- What is left of a number without the bits a mask keeps of it. -/
theorem sub_land_eq_xor (x m : Nat) : x - (x &&& m) = x ^^^ (x &&& m) := by
  have hsum : (x &&& m) + (x ^^^ (x &&& m)) = x := by
    rw [add_eq_lor] <;>
    · refine Nat.eq_of_testBit_eq fun i => ?_
      cases hx : x.testBit i <;> simp [hx]
  omega

theorem bit_sub_land (x m i : Nat) : bit (x - (x &&& m)) i = (bit x i && !bit m i) := by
  simp only [sub_land_eq_xor, bit_eq_testBit, Nat.testBit_xor, Nat.testBit_and]
  cases x.testBit i <;> simp

theorem bit_land (x m i : Nat) : bit (x &&& m) i = (bit x i && bit m i) := by
  simp only [bit_eq_testBit, Nat.testBit_and]

/-- A merged word takes the new value's bits under the mask and the old one's elsewhere. -/
theorem bit_merge (old v m i : Nat) : bit (merge old v m) i = if bit m i then bit v i else bit old i := by
  have hz : (old - (old &&& m)) &&& (v &&& m) = 0 := by
    refine Nat.eq_of_testBit_eq fun i => ?_
    rw [sub_land_eq_xor]
    cases hm : m.testBit i <;> simp [hm]
  have h := bit_sub_land old m i
  have h' := bit_land v m i
  rw [bit_eq_testBit] at h h'
  rw [merge, add_eq_lor hz, bit_eq_testBit, Nat.testBit_or, h, h']
  cases bit m i <;> simp

/-- A bit that no write may change, and that is not cleared by writing 1, keeps its value. -/
theorem Dev.bit_written {d : Dev} {r : RegSpec} {off v cov i : Nat} (hw : bit (d.writable r &&& cov) i = false)
    (hc : bit (v &&& cov &&& r.w1c) i = false) (hr : ranges off = []) : bit (d.written r off v cov) i = bit (d.reg off) i := by
  simp only [Dev.written, inRange, hr, List.foldl_nil, bit_sub_land, bit_merge, hw, hc]
  simp

/-! ### Writes through a path -/

/-- A write that its path may not make is dropped. -/
theorem Dev.writeThrough_of_denied {d : Dev} {path off : Nat} (h : d.mayWrite path off = false) (now : Nat) (f : Dev → Dev) :
    d.writeThrough now path off f = d.deny now path off := by
  simp [Dev.writeThrough, h]

/-- A write to a block that is down changes nothing. -/
theorem Dev.writeThrough_of_down {d : Dev} {path off : Nat} (h : d.mayWrite path off = true) (hdown : d.blockDown off = true)
    (now : Nat) (f : Dev → Dev) : d.writeThrough now path off f = d := by
  simp [Dev.writeThrough, h, hdown]

/-- A record that is raised at most once in a while changes no register. -/
theorem Dev.get_raiseLimited (d : Dev) (now key ns code unit sub : Nat) (sev : Sev) (l : List Nat) (f : Fld) :
    (d.raiseLimited now key ns fun d => d.raise code unit sub sev l).get f = d.get f := by
  unfold Dev.raiseLimited
  split
  · exact iteInduction (motive := fun e : Dev => e.get f = d.get f) (fun _ => rfl) fun _ => rfl
  · rfl

/-- A denied write is counted. -/
theorem Dev.get_deny (d : Dev) (now path off : Nat) :
    (d.deny now path off).get LCS_STATE.DENIED = satAdd LCS_STATE.DENIED.w (d.get LCS_STATE.DENIED) 1 := by
  rw [Dev.deny, Dev.get_raiseLimited]
  refine (Dev.get_set_same d _ _ (by decide)).trans (Nat.mod_eq_of_lt ?_)
  have := d.get_lt LCS_STATE.DENIED
  simp only [satAdd]
  simp only [LCS_STATE.DENIED] at this ⊢
  omega

theorem registerWrite_leads (s : State) (path off size : Nat) (v : Word) :
    Leads (.registerWrite path off size v) s (s.dev.regWrite s.now path off size v.toNat) := rfl

theorem mgtDoorbellWrite_leads (s : State) (path v : Nat) : Leads (.mgtDoorbellWrite path v) s
    (s.dev.writeThrough s.now path MGT_DOORBELL.off fun d => d.ringDoorbell path (v % 2 ^ 32)) := rfl

theorem mgtCqHeadWrite_leads (s : State) (path v : Nat) : Leads (.mgtCqHeadWrite path v) s
    (s.dev.writeThrough s.now path MGT_CQ_HEAD.off fun d => d.ringCqHead s.now path (v % 2 ^ 32)) := rfl

/-- A write that sets EN goes through its path; MGT_RING_ENABLE does nothing with another. -/
theorem mgtRingEnable_leads (s : State) (path : Nat) (v : Word) : Leads (.mgtRingEnable path v) s
    (if bit v.toNat 0 then s.dev.writeThrough s.now path MGT_RING_BASE.off fun d => d.ringBase path v.toNat else s.dev) := rfl

theorem mgtRingDisable_leads (s : State) (path : Nat) (v : Word) : Leads (.mgtRingDisable path v) s
    (if bit v.toNat 0 then s.dev else s.dev.writeThrough s.now path MGT_RING_BASE.off fun d => d.ringBase path v.toNat) := rfl

theorem mgtRingFetch_leads (s : State) (slot : Line) (delta : List Line) :
    Leads (.mgtRingFetch slot delta) s (s.dev.ringFetch s.now slot delta) := rfl

theorem mgtSubmit_leads (s : State) (port : Nat) (slot : Line) (delta : List Line) : Leads (.mgtSubmit port slot delta) s
    (if 2048 < delta.length then s.dev else (s.dev.wakePkg 3).mgtTake s.now 0 (some port) slot delta) := rfl

/-! ### A write of one register -/

theorem Dev.regWrite_of_denied {d : Dev} {path off : Nat} (h : d.mayWrite path off = false) (now size v : Nat) :
    d.regWrite now path off size v = d.deny now path off := by
  unfold Dev.regWrite
  exact Dev.writeThrough_of_denied h ..

theorem Dev.regWrite_of_down {d : Dev} {path off : Nat} (h : d.mayWrite path off = true) (hdown : d.blockDown off = true)
    (now size v : Nat) : d.regWrite now path off size v = d := by
  unfold Dev.regWrite
  exact Dev.writeThrough_of_down h hdown ..

/-- A write of a wrong size or place within the word is counted. -/
theorem Dev.regWrite_bad {d : Dev} {path off : Nat} (h : MayWrite d path off) {size : Nat}
    (hbad : (size ≠ 4 ∧ size ≠ 8) ∨ off % size ≠ 0) (now v : Nat) :
    d.regWrite now path off size v = d.sat MGT_STATUS.BAD_ACCESS 1 := by
  simp only [Dev.regWrite, Dev.writeThrough_of_mayWrite h, if_pos hbad]

section
variable {d : Dev} {path off size : Nat} (h : MayWrite d path off) (hsize : size = 4 ∨ size = 8) (hal : off % size = 0)
include h hsize hal

/-- A write where no register lies changes nothing. -/
theorem Dev.regWrite_reserved (hwin : byteWindow off = none) (hspec : regSpec (off / 8 * 8) = none) (now v : Nat) :
    d.regWrite now path off size v = d := by
  have hfine : ¬((size ≠ 4 ∧ size ≠ 8) ∨ off % size ≠ 0) := by omega
  simp only [Dev.regWrite, Dev.writeThrough_of_mayWrite h, if_neg hfine, hwin, hspec]
  cases regPlace (off / 8 * 8) <;> rfl

/-- A write into LCS_TOKEN goes to its bytes. -/
theorem Dev.regWrite_token (hwin : byteWindow off = some 2) (now v : Nat) :
    d.regWrite now path off size v = d.tokenWrite off size (if size = 8 then v else v % 2 ^ 32) := by
  have hfine : ¬((size ≠ 4 ∧ size ≠ 8) ∨ off % size ≠ 0) := by omega
  simp only [Dev.regWrite, Dev.writeThrough_of_mayWrite h, if_neg hfine, hwin]
  rcases hsize with rfl | rfl
  · simp only [show ¬(4 = 8) by decide, if_false, Nat.mul_div_cancel _ (Nat.two_pow_pos _)]
  · simp only [if_true, hal, Nat.mul_zero, Nat.pow_zero, Nat.div_one]
end

/-- The bytes of LCS_TOKEN after a write, one by one. -/
theorem find_token (t : Tbl (BitVec 8)) (a : Nat) (b : Nat → BitVec 8) (n i : Nat) (h : i < n) :
    Tbl.find ((List.range n).foldl (fun t i => Tbl.put t (a + i) (b i)) t) (a + i) = some (b i) := by
  induction n with
  | zero => omega
  | succ n ih =>
    rw [List.range_succ, List.foldl_append, List.foldl_cons, List.foldl_nil]
    by_cases hi : i = n
    · rw [hi, Tbl.find_put_same]
    · rw [Tbl.find_put_other _ _ _ _ (by omega), ih (by omega)]

/-- A byte of the low four of a word is one of the word. -/
theorem byte_of_low (v i : Nat) (h : i < 4) : BitVec.ofNat 8 (v % 2 ^ 32 / 2 ^ (8 * i)) = BitVec.ofNat 8 (v / 2 ^ (8 * i)) := by
  refine BitVec.eq_of_toNat_eq ?_
  rw [BitVec.toNat_ofNat, BitVec.toNat_ofNat, show 2 ^ 32 = 2 ^ (8 * i) * 2 ^ (32 - 8 * i) from by rw [← Nat.pow_add]; congr 1; omega,
    Nat.mod_mul_right_div_self]
  exact Nat.mod_mod_of_dvd _ (Nat.pow_dvd_pow 2 (by omega))

/-- A whole register is written by its own rule, where it has one, and a locked field of it is counted. -/
theorem Dev.regWrite_whole {d : Dev} {path off : Nat} (h : MayWrite d path off) (hal : off % 8 = 0) (hwin : byteWindow off = none)
    {p : RegPlace} (hp : regPlace off = some p) {r : RegSpec} {a b : Nat} (hr : regSpec off = some (r, a, b))
    (hlock : off ≠ MGT_LOCKDOWN.off) (now v : Nat) : d.regWrite now path off 8 v =
      (d.wordWrite now path r p.inst p.rel off v (2 ^ 64 - 1)).lockCount r (2 ^ 64 - 1) := by
  have hbase : off / 8 * 8 = off := by omega
  have hnot4 : ¬((8 : Nat) = 4 ∧ (off = MGT_DOORBELL.off ∨ (r.wo ≠ 0 ∧ r.rw = 0))) := fun h => absurd h.1 (by decide)
  have hfine : ¬(((8 : Nat) ≠ 4 ∧ (8 : Nat) ≠ 8) ∨ off % 8 ≠ 0) := by omega
  simp only [Dev.regWrite, Dev.writeThrough_of_mayWrite h, if_neg hfine, hwin, hbase, hp, hr, if_neg hnot4, if_neg hlock, if_true]

/-- Registers whose writes are plain. -/
def plainOffs : List Nat := [PWR_SLEW_LIMIT.off, PWR_BUFFER_ENERGY.off, PWR_WAVE.off, PWR_CTRL.off, PWR_DROOP.off,
  PWR_WAKE_TIMER.off, ALM_CTRL.off, RAS_HANG_CTRL.off, ADM_CTRL.off, CMP_VIEW.off]

/-- Registers of the package with a rule of their own. -/
def ruledOffs : List Nat := [MGT_RING_BASE.off, MGT_RING_SIZE.off, MGT_CQ_BASE.off, MGT_DOORBELL.off, MGT_CQ_HEAD.off,
  MGT_LOCKDOWN.off, LCS_TRANSITION.off, PWR_STATE_REQ.off, RAS_ERRQ_BASE.off, RAS_ERRQ_HEAD.off, RAS_RESET_CTRL.off,
  RAS_DUMP_BASE.off, ADM_DERATE.off, HIF_FAULTQ_BASE.off, HIF_FAULTQ_SIZE.off, HIF_INV_DOORBELL.off]

/-- Below the ports' blocks, a register without a rule of its own takes what is written to it. -/
theorem Dev.wordWrite_plain (d : Dev) (now path : Nat) (r : RegSpec) (inst rel off v cov : Nat) (h : off ∉ ruledOffs)
    (hmem : ¬(ADM_MEMRES.off 0 ≤ off ∧ off < ADM_MEMRES.off 512)) (hlow : off < 0x180000) :
    d.wordWrite now path r inst rel off v cov = d.plainWrite r off v cov := by
  simp only [ruledOffs, List.mem_cons, List.not_mem_nil, or_false, not_or] at h
  have hport : ¬(0x180000 ≤ off ∧ off < 0x1C0000) := by omega
  have hcor : ¬(0x400000 ≤ off ∧ off < 0xC00000 ∧ 0x20000 ≤ off % 0x100000 ∧ off % 0x100000 < 0x2A800) := by omega
  have hstk : ¬(0xC00000 ≤ off ∧ rel = 0x20 ∧ r.rwb = 0xFFFFFFFFFF) := by omega
  simp only [Dev.wordWrite, h, hmem, hport, hcor, hstk, if_false, or_self]

theorem plainOffs_law : ∀ off ∈ plainOffs, off ∉ ruledOffs ∧ ¬(ADM_MEMRES.off 0 ≤ off ∧ off < ADM_MEMRES.off 512) ∧
    off < 0x180000 ∧ off % 8 = 0 ∧ byteWindow off = none ∧ (regSpec off).isSome = true := by
  decide

/-- A plain register takes the whole word that is written. -/
theorem Dev.regWrite_plain {d : Dev} {path off : Nat} (h : MayWrite d path off) (hoff : off ∈ plainOffs) (now v : Nat) :
    ∃ r a b, regSpec off = some (r, a, b) ∧
      d.regWrite now path off 8 v = (d.plainWrite r off v (2 ^ 64 - 1)).lockCount r (2 ^ 64 - 1) := by
  obtain ⟨hruled, hmem, hlow, hal, hwin, hsome⟩ := plainOffs_law off hoff
  obtain ⟨⟨r, a, b⟩, hr⟩ := Option.isSome_iff_exists.1 hsome
  obtain ⟨p, hp, -⟩ := Option.bind_eq_some_iff.1 hr
  have hlock : off ≠ MGT_LOCKDOWN.off := fun h => hruled (h ▸ by decide)
  exact ⟨r, a, b, hr, (Dev.regWrite_whole h hal hwin hp hr hlock now v).trans (by rw [Dev.wordWrite_plain d _ _ _ _ _ _ _ _ hruled hmem hlow])⟩

/-! ### The management ring -/

/-- A path that does not own the ring is denied. -/
theorem Dev.ringBase_taken {d : Dev} {path : Nat} (h : d.ringTaken path = true) (v : Nat) :
    d.ringBase path v = d.sat MGT_STATUS.RING_DENIED 1 := if_pos h

theorem Dev.ringTaken_of_disabled {d : Dev} (h : d.flag MGT_RING_BASE.EN = false) (path : Nat) : d.ringTaken path = false := by
  rw [Dev.ringTaken, h, Bool.false_and]

/-- A ring with records due is not enabled again. -/
theorem Dev.ringBase_due {d : Dev} {v : Nat} (hen : d.flag MGT_RING_BASE.EN = false) (hdue : d.mgtDue = true)
    (hv : bit v 0 = true) (path : Nat) : d.ringBase path v = d := by
  simp [Dev.ringBase, Dev.ringTaken_of_disabled hen, hen, hdue, hv]

/-- The path that sets EN owns the ring. -/
theorem Dev.ringBase_enable {d : Dev} {v : Nat} (hen : d.flag MGT_RING_BASE.EN = false) (hdue : d.mgtDue = false)
    (hv : bit v 0 = true) (hready : d.flag MGT_STATUS.READY = true) (path : Nat) :
    d.ringBase path v = (d.set MGT_RING_BASE.BASE (bits v 12 52)).ringEnable path := by
  have hready' : (d.set MGT_RING_BASE.BASE (bits v 12 52)).flag MGT_STATUS.READY = true := by
    rw [Dev.flag, Dev.get_set_of_apart _ _ _ _ (by decide)]
    exact hready
  simp [Dev.ringBase, Dev.ringTaken_of_disabled hen, hen, hdue, hv, hready']

/-- Clearing EN keeps the ring's base and what firmware has in its hands; the old completion ring takes what is due. -/
theorem Dev.mgtDisable_law {d : Dev} (h : d.flag MGT_RING_BASE.EN = true) : d.mgtDisable.flag MGT_RING_BASE.EN = false ∧
    d.mgtDisable.get MGT_RING_BASE.BASE = d.get MGT_RING_BASE.BASE ∧
    d.mgtDisable.hif.mold = some (d.get MGT_RING_SIZE.CLOG2N) ∧ d.mgtDisable.hif.mgt = d.hif.mgt := by
  rw [Dev.mgtDisable, if_pos h]
  refine ⟨?_, Dev.get_set_of_apart _ _ _ _ (by decide), rfl, rfl⟩
  rw [Dev.flag, Dev.get_set_same _ _ _ (by decide)]
  rfl

/-- A denied write of the ring changes no field of another register. -/
theorem Dev.get_ringDenied (d : Dev) (f : Fld) (h : MGT_STATUS.RING_DENIED.apart f = true) : d.ringDenied.get f = d.get f :=
  Dev.get_sat_of_apart d _ f 1 h

/-- The ring's owner clears EN. -/
theorem Dev.ringBase_disable {d : Dev} {path v : Nat} (hen : d.flag MGT_RING_BASE.EN = true) (hown : d.ringTaken path = false)
    (hv : bit v 0 = false) : (d.ringBase path v).flag MGT_RING_BASE.EN = false ∧
    (d.ringBase path v).get MGT_RING_BASE.BASE = d.get MGT_RING_BASE.BASE ∧
    (d.ringBase path v).hif.mold = some (d.get MGT_RING_SIZE.CLOG2N) ∧ (d.ringBase path v).hif.mgt = d.hif.mgt := by
  simp only [Dev.ringBase, hown, hen, hv, if_true, Bool.false_eq_true, if_false]
  refine iteInduction (motive := fun e : Dev => e.mgtDisable.flag MGT_RING_BASE.EN = false ∧
    e.mgtDisable.get MGT_RING_BASE.BASE = d.get MGT_RING_BASE.BASE ∧
    e.mgtDisable.hif.mold = some (d.get MGT_RING_SIZE.CLOG2N) ∧ e.mgtDisable.hif.mgt = d.hif.mgt)
    (fun _ => Dev.mgtDisable_law hen) fun _ => ?_
  have hget := d.get_ringDenied
  obtain ⟨hoff, hbase, hmold, hmgt⟩ := Dev.mgtDisable_law (d := d.ringDenied) (by rw [Dev.flag, hget _ (by decide)]; exact hen)
  exact ⟨hoff, hbase.trans (hget _ (by decide)), hmold.trans (by rw [hget _ (by decide)]), hmgt⟩

/-- Every field of a register that is cleared reads 0. -/
theorem Dev.get_setReg_zero (d : Dev) {f : Fld} {off : Nat} (h : f.off = off) : (d.setReg off 0).get f = 0 := by
  subst h
  rw [Dev.get, Dev.reg_setReg_same, bits, Nat.zero_mod, Nat.zero_div, Nat.zero_mod]

/-- What the registers of an enabled ring hold. -/
theorem Dev.ringEnable_law (d : Dev) {path : Nat} (h : path ≤ 4) : (d.ringEnable path).flag MGT_RING_BASE.EN = true ∧
    (d.ringEnable path).get MGT_RING_BASE.BASE = d.get MGT_RING_BASE.BASE ∧
    (d.ringEnable path).get MGT_RING_BASE.SPACE = spaceOf path ∧ (d.ringEnable path).get MGT_RING_HEAD.HEAD = 0 ∧
    (d.ringEnable path).get MGT_DOORBELL.TAIL = 0 ∧ (d.ringEnable path).get MGT_CQ_HEAD.HEAD = 0 ∧
    (d.ringEnable path).get MGT_CQ_TAIL.TAIL = 0 := by
  have hspace : spaceOf path < 2 ^ 3 := by unfold spaceOf; split <;> omega
  have hbase : ∀ f : Fld, f.off = MGT_RING_BASE.off → (d.ringEnable path).get f =
      ((d.set MGT_RING_BASE.SPACE (spaceOf path)).set MGT_RING_BASE.EN 1).get f := fun f hf => by
    simp only [Dev.ringEnable]
    rw [Dev.get_setReg_other, Dev.get_setReg_other, Dev.get_setReg_other, Dev.get_setReg_other]
    · rfl
    all_goals rw [hf]; decide
  refine ⟨?_, ?_, ?_, ?_, ?_, ?_, ?_⟩
  · rw [Dev.flag, hbase _ rfl, Dev.get_set_same _ _ _ (by decide)]
    rfl
  · rw [hbase _ rfl, Dev.get_set_of_apart _ _ _ _ (by decide), Dev.get_set_of_apart _ _ _ _ (by decide)]
  · rw [hbase _ rfl, Dev.get_set_of_apart _ _ _ _ (by decide), Dev.get_set_same _ _ _ (by decide)]
    exact Nat.mod_eq_of_lt hspace
  · simp only [Dev.ringEnable]
    rw [Dev.get_setReg_other _ _ _ _ (by decide), Dev.get_setReg_other _ _ _ _ (by decide)]
    exact Dev.get_setReg_zero _ rfl
  · simp only [Dev.ringEnable]
    rw [Dev.get_setReg_other _ _ _ _ (by decide), Dev.get_setReg_other _ _ _ _ (by decide), Dev.get_setReg_other _ _ _ _ (by decide)]
    exact Dev.get_setReg_zero _ rfl
  · simp only [Dev.ringEnable]
    rw [Dev.get_setReg_other _ _ _ _ (by decide)]
    exact Dev.get_setReg_zero _ rfl
  · simp only [Dev.ringEnable]
    exact Dev.get_setReg_zero _ rfl

/-- A doorbell moves the tail under the conditions of R315, and wakes the package either way. -/
theorem Dev.ringDoorbell_eq (d : Dev) (path t : Nat) :
    let ok := d.ringTaken path = false ∧ (t + 2 ^ 32 - d.get MGT_DOORBELL.TAIL) % 2 ^ 32 < 2 ^ 31 ∧
      (t + 2 ^ 32 - d.get MGT_RING_HEAD.HEAD) % 2 ^ 32 ≤ 2 ^ d.get MGT_RING_SIZE.LOG2N
    (ok → d.ringDoorbell path t = (d.set MGT_DOORBELL.TAIL t).wakePkg 2) ∧
      (¬ok → d.ringDoorbell path t = (d.sat MGT_STATUS.RING_DENIED 1).wakePkg 2) := by
  intro ok
  refine ⟨fun ⟨hown, htail, hroom⟩ => ?_, fun hno => ?_⟩
  · simp only [Dev.ringDoorbell, hown, htail, hroom, decide_true, Bool.and_self, Bool.not_true, Bool.or_self, Bool.false_eq_true,
      if_false]
  · have hdenied : (d.ringTaken path || !(decide ((t + 2 ^ 32 - d.get MGT_DOORBELL.TAIL) % 2 ^ 32 < 2 ^ 31) &&
        decide ((t + 2 ^ 32 - d.get MGT_RING_HEAD.HEAD) % 2 ^ 32 ≤ 2 ^ d.get MGT_RING_SIZE.LOG2N))) = true := by
      by_contra h
      exact hno (by simpa [ok] using h)
    exact congrArg (Dev.wakePkg · 2) (if_pos hdenied)

/-- Held records that are written change nothing but records: not the head, nor what firmware has in its hands. -/
theorem Dev.mgtDrain_law (now n : Nat) (d : Dev) : (Dev.mgtDrain now n d).get MGT_CQ_HEAD.HEAD = d.get MGT_CQ_HEAD.HEAD ∧
    (Dev.mgtDrain now n d).hif.mgt = d.hif.mgt ∧ (Dev.mgtDrain now n d).core = d.core := by
  induction n generalizing d with
  | zero => exact ⟨rfl, rfl, rfl⟩
  | succ n ih =>
    unfold Dev.mgtDrain
    split
    case h_1 r l hl =>
      refine iteInduction (motive := fun e : Dev => e.get MGT_CQ_HEAD.HEAD = d.get MGT_CQ_HEAD.HEAD ∧
        e.hif.mgt = d.hif.mgt ∧ e.core = d.core) (fun _ => ?_) fun _ => ⟨rfl, rfl, rfl⟩
      obtain ⟨hget, hmgt, hcore⟩ := ih ((d.onHif fun h => { h with mheld := l }).mgtPut now r)
      have hput : ((d.onHif fun h => { h with mheld := l }).mgtPut now r).hif.mgt = d.hif.mgt := by
        unfold Dev.mgtPut
        exact iteInduction (motive := fun e : Dev => e.hif.mgt = d.hif.mgt) (fun _ => rfl) fun _ => rfl
      obtain ⟨⟨_, _, hrep⟩, hrepGet⟩ := Reports.mgtPut (d.onHif fun h => { h with mheld := l }) now r
      refine ⟨hget.trans (hrepGet _ (by decide)), hmgt.trans hput, hcore.trans ?_⟩
      rw [← hrep]
      rfl
    case h_2 => exact ⟨rfl, rfl, rfl⟩

section
variable {d : Dev} {path : Nat} (hown : d.ringTaken path = false)
include hown

/-- A head past the tail is ignored. -/
theorem Dev.ringCqHead_past {h : Nat} (hpast : (d.get MGT_CQ_TAIL.TAIL + 2 ^ 32 - d.get MGT_CQ_HEAD.HEAD) % 2 ^ 32 <
    (h + 2 ^ 32 - d.get MGT_CQ_HEAD.HEAD) % 2 ^ 32) (now : Nat) : d.ringCqHead now path h = d := by
  simp only [Dev.ringCqHead, hown, Bool.false_eq_true, if_false, if_pos hpast]

/-- A head within the ring lets held records be written. -/
theorem Dev.ringCqHead_within {h : Nat} (hpast : ¬(d.get MGT_CQ_TAIL.TAIL + 2 ^ 32 - d.get MGT_CQ_HEAD.HEAD) % 2 ^ 32 <
    (h + 2 ^ 32 - d.get MGT_CQ_HEAD.HEAD) % 2 ^ 32) (now : Nat) :
    d.ringCqHead now path h = Dev.mgtDrain now d.hif.mheld.length (d.set MGT_CQ_HEAD.HEAD h) := by
  simp only [Dev.ringCqHead, hown, Bool.false_eq_true, if_false, if_neg hpast]
end

theorem Dev.ringCqHead_taken {d : Dev} {path : Nat} (h : d.ringTaken path = true) (now v : Nat) :
    d.ringCqHead now path v = d.sat MGT_STATUS.RING_DENIED 1 := if_pos h

/-! ### Slots that firmware takes -/

/-- A slot with a good header waits for its turn. -/
theorem Dev.mgtTake_fine {x : Line} (h : mgtFine x = true) (d : Dev) (now pos : Nat) (submit : Option Nat) (delta : List Line) :
    d.mgtTake now pos submit x delta = d.onHif fun h => { h with
      mgt := Tbl.put h.mgt d.hif.nextMgt ⟨pos, submit, x, deltaOf delta, now, false, 0⟩, nextMgt := d.hif.nextMgt + 1 } := if_pos h

/-- A slot with another header is refused at once, with a record. -/
theorem Dev.mgtTake_bad {x : Line} (h : mgtFine x = false) (d : Dev) (now pos : Nat) (submit : Option Nat) (delta : List Line) :
    d.mgtTake now pos submit x delta = (d.onHif fun h => { h with
      mgt := Tbl.put h.mgt d.hif.nextMgt ⟨pos, submit, x, deltaOf delta, now, false, 0⟩
      nextMgt := d.hif.nextMgt + 1 }).mgtRefuse now d.hif.nextMgt 0x0601 [0x3FFFF, pos, 0xFFFF] :=
  if_neg (Bool.eq_false_iff.1 h)

/-- A refused management command: its record in the box, its entry gone, no core and no field but the ring's tail changed. -/
theorem Dev.mgtRefuse_law (d : Dev) (now k err : Nat) (l : List Nat) (r : Reason) (who : Option (Nat × Nat)) :
    (∃ b, (d.mgtRefuse now k err l r who).ras.box = d.ras.box ++ [b] ∧ b.code = err) ∧
      Tbl.find (d.mgtRefuse now k err l r who).hif.mgt k = none ∧ (d.mgtRefuse now k err l r who).core = d.core ∧
      ∀ f : Fld, f.off ≠ MGT_CQ_TAIL.TAIL.off → (d.mgtRefuse now k err l r who).get f = d.get f := by
  obtain ⟨⟨_, _, hrep⟩, hget⟩ := Reports.mgtRefuse d now k err l r who
  refine ⟨?_, mgtRefuse_gone .., ?_, hget⟩
  · rw [Dev.mgtRefuse, mgtDone_ras]
    exact ⟨_, d.raise_box .., rfl⟩
  · rw [← hrep]

/-- A refused command that a port submitted answers its port. -/
theorem Dev.mgtRefuse_submitted {d : Dev} {k port : Nat} {m : Mgt} (hm : Tbl.find d.hif.mgt k = some m) (hp : m.submit = some port)
    (now err : Nat) (l : List Nat) (r : Reason) (who : Option (Nat × Nat)) :
    ∃ x, (d.mgtRefuse now k err l r who).hif.submitted = (port, x) :: d.hif.submitted ∧ x.status = .refused ∧ x.error = err := by
  have hm' : Tbl.find (d.raise err moduleUnit 0x00 .info l who).hif.mgt k = some m := hm
  simp only [Dev.mgtRefuse, Dev.mgtDone, hm', hp]
  exact ⟨_, rfl, rfl, rfl⟩

/-- Settles O56: writes through a path to set-up registers, and the management ring. -/
theorem ringAndRegisters : Obligations.RingAndRegisters := by
  intro s d
  refine ⟨fun path off hno => ?denied, fun path off size v hmay hdown =>
      leads_of_eq (registerWrite_leads ..) (Dev.regWrite_of_down hmay hdown ..), fun path off size v h => ?regs,
    fun r off v cov => ⟨fun i _ hw hc hr => Dev.bit_written hw hc hr, fun hlock => by rw [Dev.writable, if_pos hlock],
      fun hlock => by rw [Dev.writable, hlock]; rfl⟩,
    fun path v h => ?base, fun path v h => ?doorbell, fun path v h => ?head, fun slot delta => ?fetch⟩
  case denied =>
    have hden := d.get_deny s.now path off
    refine ⟨fun size v => ⟨leads_of_eq (registerWrite_leads ..) (Dev.regWrite_of_denied hno ..), hden⟩, ?_, ?_, ?_⟩
    · rintro rfl v
      exact ⟨fun hv => ⟨leads_of_eq (mgtRingEnable_leads ..) ((if_pos hv).trans (Dev.writeThrough_of_denied hno ..)), hden⟩,
        fun hv => ⟨leads_of_eq (mgtRingDisable_leads ..)
          ((if_neg (Bool.eq_false_iff.1 hv)).trans (Dev.writeThrough_of_denied hno ..)), hden⟩⟩
    · rintro rfl v
      exact ⟨leads_of_eq (mgtDoorbellWrite_leads ..) (Dev.writeThrough_of_denied hno ..), hden⟩
    · rintro rfl v
      exact ⟨leads_of_eq (mgtCqHeadWrite_leads ..) (Dev.writeThrough_of_denied hno ..), hden⟩
  case regs =>
    refine ⟨fun hbad => leads_of_eq (registerWrite_leads ..) (Dev.regWrite_bad h hbad ..), fun hsize hal hwin hspec =>
      leads_of_eq (registerWrite_leads ..) (Dev.regWrite_reserved h hsize hal hwin hspec ..), fun hsize hal hwin =>
      answers_of_eq (registerWrite_leads ..) (Dev.regWrite_token h hsize hal hwin ..) ⟨rfl, fun i hi => ?_⟩, ?_⟩
    · refine (find_token _ _ _ size i hi).trans (congrArg some ?_)
      rcases hsize with rfl | rfl
      · rw [if_neg (by decide), byte_of_low _ _ hi]
      · rfl
    · rintro hoff rfl
      obtain ⟨r, a, b, hr, heq⟩ := Dev.regWrite_plain h hoff s.now v.toNat
      exact ⟨r, a, b, hr, leads_of_eq (registerWrite_leads ..) heq⟩
  case base =>
    have hset : bit v.toNat 0 = true → Leads (.mgtRingEnable path v) s (d.ringBase path v.toNat) := fun hv =>
      leads_of_eq (mgtRingEnable_leads ..) ((if_pos hv).trans (Dev.writeThrough_of_mayWrite h ..))
    have hclear : bit v.toNat 0 = false → Leads (.mgtRingDisable path v) s (d.ringBase path v.toNat) := fun hv =>
      leads_of_eq (mgtRingDisable_leads ..) ((if_neg (Bool.eq_false_iff.1 hv)).trans (Dev.writeThrough_of_mayWrite h ..))
    refine ⟨fun hv => leads_of_eq (mgtRingEnable_leads ..) (if_neg (Bool.eq_false_iff.1 hv)),
      fun hv => leads_of_eq (mgtRingDisable_leads ..) (if_pos hv),
      fun htaken => ⟨fun hv => leads_of_eq (hset hv) (Dev.ringBase_taken htaken _),
        fun hv => leads_of_eq (hclear hv) (Dev.ringBase_taken htaken _)⟩,
      fun hv hen hdue hready hpath => ?_, fun hv hen hdue => leads_of_eq (hset hv) (Dev.ringBase_due hen hdue hv path),
      fun hv hen hown => ⟨_, hclear hv, Dev.ringBase_disable hen hown hv⟩⟩
    obtain ⟨hon, hbase, hrest⟩ := (d.set MGT_RING_BASE.BASE (bits v.toNat 12 52)).ringEnable_law hpath
    exact answers_of_eq (hset hv) (Dev.ringBase_enable hen hdue hv hready path)
      ⟨hon, hbase.trans (Dev.get_set_bits _ _ _ _ (by decide)), hrest⟩
  case doorbell =>
    have hlead := leads_of_eq (mgtDoorbellWrite_leads s path v) (Dev.writeThrough_of_mayWrite h ..)
    obtain ⟨hok, hbad⟩ := d.ringDoorbell_eq path (v % 2 ^ 32)
    exact ⟨fun h => leads_of_eq hlead (hok h), fun h => leads_of_eq hlead (hbad h)⟩
  case head =>
    have hlead := leads_of_eq (mgtCqHeadWrite_leads s path v) (Dev.writeThrough_of_mayWrite h ..)
    refine ⟨fun htaken => leads_of_eq hlead (Dev.ringCqHead_taken htaken ..),
      fun hown hpast => leads_of_eq hlead (Dev.ringCqHead_past hown hpast _), fun hown hpast hnone => ?_, fun hown hpast => ?_⟩
    · refine leads_of_eq hlead ((Dev.ringCqHead_within hown hpast _).trans ?_)
      rw [hnone]
      rfl
    · obtain ⟨hget, hmgt, hcore⟩ := Dev.mgtDrain_law s.now d.hif.mheld.length (d.set MGT_CQ_HEAD.HEAD (v % 2 ^ 32))
      refine answers_of_eq hlead (Dev.ringCqHead_within hown hpast _)
        ⟨hget.trans ((Dev.get_set_same _ _ _ (by decide)).trans (Nat.mod_mod _ _)), hmgt, hcore⟩
  case fetch =>
    have hsub : ∀ port, delta.length ≤ 2048 →
        Leads (.mgtSubmit port slot delta) s ((d.wakePkg 3).mgtTake s.now 0 (some port) slot delta) := fun port h =>
      leads_of_eq (mgtSubmit_leads ..) (if_neg (Nat.not_lt.2 h))
    obtain ⟨regs, pwr, cxl, hw⟩ := d.wakePkg_shape 3
    have hgo : (d.flag MGT_RING_BASE.EN = true ∧ d.get MGT_RING_HEAD.HEAD ≠ d.get MGT_DOORBELL.TAIL ∧ d.hif.mheld = [] ∧
        d.ringOwnerUp = true) ↔ (d.flag MGT_RING_BASE.EN && d.get MGT_RING_HEAD.HEAD != d.get MGT_DOORBELL.TAIL &&
        d.hif.mheld.isEmpty && d.ringOwnerUp) = true := by
      simp [and_assoc]
    refine ⟨fun hno => leads_of_eq (mgtRingFetch_leads ..) (if_neg (mt hgo.2 hno)), fun hmay hfine => ?_, fun hmay hbad => ?_,
      fun port => ⟨fun hlong => leads_of_eq (mgtSubmit_leads ..) (if_pos hlong), fun hlen hfine => ?_, fun hlen hbad => ?_⟩⟩
    · refine answers_of_eq (mgtRingFetch_leads ..) ((if_pos (hgo.1 hmay)).trans (Dev.mgtTake_fine hfine ..))
        ⟨Dev.get_set_same d _ _ (by decide), Tbl.find_put_same _ _ _, rfl, rfl⟩
    · obtain ⟨hbox, hgone, hcore, hget⟩ := Dev.mgtRefuse_law _ _ _ _ _ _ _
      exact answers_of_eq (mgtRingFetch_leads ..) ((if_pos (hgo.1 hmay)).trans (Dev.mgtTake_bad hbad ..))
        ⟨(hget _ (by decide)).trans (Dev.get_set_same d _ _ (by decide)), hgone, hbox, hcore⟩
    · refine answers_of_eq (hsub port hlen) (Dev.mgtTake_fine hfine ..) ?_
      rw [hw]
      exact ⟨Tbl.find_put_same _ _ _, rfl⟩
    · refine answers_of_eq (hsub port hlen) (Dev.mgtTake_bad hbad ..) ?_
      rw [hw]
      obtain ⟨hbox, hgone, -, -⟩ := Dev.mgtRefuse_law _ _ _ _ _ _ _
      exact ⟨hgone, hbox, Dev.mgtRefuse_submitted (Tbl.find_put_same _ _ _) rfl ..⟩

end Sys2Proof.Machine
end

section
/-!
PROOFS. PLDM over MCTP, the tray's cap and its requests of a power state.
-/

namespace Sys2Proof.Machine

/-! ### Services and their step of the boot (R516) -/

/-- A service that is available from a step of Table 16-1 on is up; recovery keeps what step 5 has. -/
def Dev.serves (d : Dev) (n : Nat) : Prop := n ≤ d.fw.bootStep ∨ d.fw.recovery = true ∧ n = 5

@[simp] theorem Dev.fw_wakePkg (d : Dev) (src : Nat) : (d.wakePkg src).fw = d.fw := by
  obtain ⟨regs, pwr, cxl, h⟩ := d.wakePkg_shape src
  rw [h]

@[simp] theorem Dev.mod_wakePkg (d : Dev) (src : Nat) : (d.wakePkg src).mod = d.mod := by
  obtain ⟨regs, pwr, cxl, h⟩ := d.wakePkg_shape src
  rw [h]

@[simp] theorem Dev.ras_wakePkg (d : Dev) (src : Nat) : (d.wakePkg src).ras = d.ras := by
  obtain ⟨regs, pwr, cxl, h⟩ := d.wakePkg_shape src
  rw [h]

@[simp] theorem Dev.core_wakePkg (d : Dev) (src : Nat) : (d.wakePkg src).core = d.core := by
  obtain ⟨regs, pwr, cxl, h⟩ := d.wakePkg_shape src
  rw [h]

@[simp] theorem Dev.almFile_wakePkg (d : Dev) (src : Nat) : (d.wakePkg src).almFile = d.almFile := by
  obtain ⟨regs, pwr, cxl, h⟩ := d.wakePkg_shape src
  rw [h]
  rfl

/-- A wake leaves an entry into a deeper state where it is. -/
theorem Dev.entry_wakePkg (d : Dev) (src : Nat) : (d.wakePkg src).pwr.entry = d.pwr.entry := by
  unfold Dev.wakePkg
  split <;> rfl

section
variable {i : Instr} {s : State} {n : Nat} {f : Dev → Dev} (hlead : Leads i s (s.dev.pldm n f))
include hlead

/-- A request whose service is not up answers NOT_READY. -/
theorem leads_notReady (h : ¬s.dev.serves n) : Leads i s ((s.dev.wakePkg 3).say .notReady) := by
  refine leads_of_eq hlead (if_pos ?_)
  rw [Dev.fw_wakePkg]
  simp only [Dev.serves, not_or, Nat.not_le] at h
  obtain ⟨hstep, hrec⟩ := h
  exact ⟨hstep, by simp [hrec]⟩

/-- A request whose service is up is served, and wakes the package. -/
theorem leads_served (h : s.dev.serves n) : Leads i s (f (s.dev.wakePkg 3)) := by
  refine leads_of_eq hlead (if_neg ?_)
  rw [Dev.fw_wakePkg]
  rintro ⟨hstep, hrec⟩
  rcases h with h | h
  · omega
  · simp [h] at hrec
end

theorem getTid_leads (s : State) : Leads .getTid s (s.dev.pldm 5 fun d => d.reply 0xE030 [d.fw.tid]) := rfl

theorem getPldmTypes_leads (s : State) : Leads .getPldmTypes s (s.dev.pldm 5 fun d => d.reply 0xE031 pldmTypes) := rfl

theorem setTid_leads (s : State) (x : Nat) : Leads (.setTid x) s (s.dev.pldm 5 fun d =>
    if 1 ≤ x ∧ x ≤ 254 then (d.onFw fun f => { f with tid := x }).say .done else d.say .refused) := rfl

theorem mctpSetEndpointId_leads (s : State) (x : Nat) : Leads (.mctpSetEndpointId x) s (s.dev.pldm 5 fun d =>
    if 8 ≤ x ∧ x ≤ 254 then (d.onFw fun f => { f with eid := x }).say .done else d.say .refused) := rfl

theorem getPldmCommands_leads (s : State) (x : Nat) : Leads (.getPldmCommands x) s (s.dev.pldm 5 fun d =>
    if pldmTypes.contains x then d.reply 0xE032 (x :: pldmCommands x) else d.say .unsupported) := rfl

theorem getPldmVersion_leads (s : State) (x : Nat) : Leads (.getPldmVersion x) s (s.dev.pldm 5 fun d =>
    if pldmTypes.contains x then d.reply 0xE033 [x, Config.code 0xE033 x] else d.say .unsupported) := rfl

/-- A file of a device: the Almanac, the flash log, the last dump summary. -/
def Dev.fileRead (d : Dev) : Nat → Dev
  | 0 => d.reply 0xE034 (0 :: d.almFile)
  | 1 => d.reply 0xE034 (1 :: d.ras.flash.map fun r => r.encode.toNat)
  | 2 => d.reply 0xE034 (2 :: ((d.ras.dumps.head?).map DumpHdr.nums).getD [])
  | _ => d.say .refused

theorem pldmFileRead_leads (s : State) (x : Nat) : Leads (.pldmFileRead x) s (s.dev.pldm 5 fun d => d.fileRead x) := rfl

theorem Dev.fileRead_none (d : Dev) {x : Nat} (h : 2 < x) : d.fileRead x = d.say .refused := by
  obtain ⟨n, rfl⟩ : ∃ n, x = n + 3 := ⟨x - 3, by omega⟩
  rfl

theorem trayCap_leads (s : State) (x : Nat) : Leads (.trayCap x) s (s.dev.pldm 12 fun d =>
    if capValid x then ((d.set PWR_CAP.TRAY_CAP_W x).capSet s.now).say .done
    else (d.raise 0x0808 moduleUnit 0x02 .info [Config.code 0x0808 1, x]).say .refused) := rfl

/-- The module controller's request of a power state. -/
def Dev.stateAsked (d : Dev) (now : Nat) : Nat → Dev
  | 0 => (d.stateReq now 4 0 0 fun d => d.toRun now 0).say .done
  | 3 => (d.stateReq now 4 3 (d.get PWR_STATE_REQ.DPMASK) fun d => d.enter now 3 0).say .done
  | 4 => (d.stateReq now 4 4 (d.get PWR_STATE_REQ.DPMASK) fun d => d.enter now 4 0).say .done
  | _ => d.say .refused

theorem pldmStateRequest_leads (s : State) (x : Nat) :
    Leads (.pldmStateRequest x) s (s.dev.pldm 12 fun d => d.stateAsked s.now x) := rfl

/-! ### The tray's cap (R432) -/

/-- The cap that is active once one has been set, before the reservations are tested again. -/
def Dev.capTaken (d : Dev) (now : Nat) : Dev :=
  ((d.set PWR_CAP.CAP_W (min (d.get PWR_CAP.FM_CAP_W) (d.get PWR_CAP.TRAY_CAP_W))).onPwr fun w => { w with
    capBelowAt := none }).capWatch now

theorem Dev.capSet_eq (d : Dev) (now : Nat) : d.capSet now = (d.capTaken now).shedPower := rfl

theorem Dev.get_capTaken (d : Dev) (now : Nat) (f : Fld) : (d.capTaken now).get f =
    (d.set PWR_CAP.CAP_W (min (d.get PWR_CAP.FM_CAP_W) (d.get PWR_CAP.TRAY_CAP_W))).get f := rfl

/-- The tray's cap is recorded, and the lower of the two caps is active. -/
theorem Dev.trayCap_law (d : Dev) (now : Nat) {x : Nat} (h : x ≤ 7500) :
    ((d.set PWR_CAP.TRAY_CAP_W x).capTaken now).get PWR_CAP.TRAY_CAP_W = x ∧
    ((d.set PWR_CAP.TRAY_CAP_W x).capTaken now).get PWR_CAP.FM_CAP_W = d.get PWR_CAP.FM_CAP_W ∧
    ((d.set PWR_CAP.TRAY_CAP_W x).capTaken now).get PWR_CAP.CAP_W = min (d.get PWR_CAP.FM_CAP_W) x := by
  have hx : x < 2 ^ 13 := by omega
  have htray : (d.set PWR_CAP.TRAY_CAP_W x).get PWR_CAP.TRAY_CAP_W = x :=
    (Dev.get_set_same d _ x (by decide)).trans (Nat.mod_eq_of_lt hx)
  have hfm : (d.set PWR_CAP.TRAY_CAP_W x).get PWR_CAP.FM_CAP_W = d.get PWR_CAP.FM_CAP_W := Dev.get_set_of_apart _ _ _ _ (by decide)
  refine ⟨?_, ?_, ?_⟩
  · exact (Dev.get_capTaken _ now _).trans ((Dev.get_set_of_apart _ _ _ _ (by decide)).trans htray)
  · exact (Dev.get_capTaken _ now _).trans ((Dev.get_set_of_apart _ _ _ _ (by decide)).trans hfm)
  · rw [Dev.get_capTaken, Dev.get_set_same _ _ _ (by decide), htray, hfm]
    exact Nat.mod_eq_of_lt (lt_of_le_of_lt (min_le_right _ _) hx)

/-! ### Requests of a power state (R410, R411) -/

/-- The module controller may write every register whose block is up. -/
theorem MayWrite.controller {d : Dev} {off : Nat} (h : d.blockDown off = false) : MayWrite d 4 off := ⟨rfl, h⟩

theorem Dev.stateAsked_other (d : Dev) (now : Nat) {x : Nat} (h : x ∉ [0, 3, 4]) : d.stateAsked now x = d.say .refused := by
  match x, h with
  | 0, h => exact absurd (List.mem_cons_self ..) h
  | 1, _ => rfl
  | 2, _ => rfl
  | 3, h => exact absurd (by decide) h
  | 4, h => exact absurd (by decide) h
  | _ + 5, _ => rfl

/-- While an entry runs or a trip is latched a request changes nothing. -/
theorem Dev.stateAsked_busy {d : Dev} {x : Nat} (h : x ∈ [0, 3, 4]) (hbusy : d.pwr.entry.isSome = true ∨ d.mod.tripLatch = true)
    (hup : d.blockDown PWR_STATE_REQ.off = false) (now : Nat) : d.stateAsked now x = d.say .done := by
  have hreq := fun req mask f => Dev.stateReq_busy (MayWrite.controller hup) hbusy now req mask f
  simp only [List.mem_cons, List.not_mem_nil, or_false] at h
  rcases h with rfl | rfl | rfl <;> exact congrArg (Dev.say · .done) (hreq ..)

section
variable {d : Dev} (hentry : d.pwr.entry = none) (htrip : d.mod.tripLatch = false) (hup : d.blockDown PWR_STATE_REQ.off = false)
include hentry htrip hup

/-- Else a request of a deeper state starts its entry. -/
theorem Dev.stateAsked_deeper {x : Nat} (h : x ∈ [3, 4]) (now : Nat) : d.stateAsked now x =
    ((d.asked x (d.get PWR_STATE_REQ.DPMASK)).enter now x 0).say .done := by
  have hreq := fun req mask f => Dev.stateReq_idle (MayWrite.controller hup) hentry htrip now req mask f
  simp only [List.mem_cons, List.not_mem_nil, or_false] at h
  rcases h with rfl | rfl <;> exact congrArg (Dev.say · .done) (hreq ..)

/-- And a request of Run wakes. -/
theorem Dev.stateAsked_run (now : Nat) : d.stateAsked now 0 = ((d.asked 0 0).toRun now 0).say .done :=
  congrArg (Dev.say · .done) (Dev.stateReq_idle (MayWrite.controller hup) hentry htrip now 0 0 _)
end

theorem Dev.fw_asked (d : Dev) (req mask : Nat) : (d.asked req mask).fw = d.fw := rfl

theorem Dev.fw_enter (d : Dev) (now req mask : Nat) : (d.enter now req mask).fw = d.fw := rfl

theorem Dev.fw_toRun (d : Dev) (now mask : Nat) : (d.toRun now mask).fw = d.fw := by
  have hdp : ∀ (e : Dev) (p : Nat), (if maskAllows mask p then e.wakeDp now 1 p else e).fw = e.fw := by
    intro e p
    unfold Dev.wakeDp
    split
    · split <;> rfl
    · rfl
  have hall := Dev.foldl_proj (π := Dev.fw) hdp diePairs (d.wakePkg 1)
  exact hall.trans (d.fw_wakePkg 1)

theorem Dev.get_say (d : Dev) (a : Answer) (f : Fld) : (d.say a).get f = d.get f := rfl

theorem Dev.pwr_say (d : Dev) (a : Answer) : (d.say a).pwr = d.pwr := rfl

theorem Dev.fw_say {d e : Dev} (h : e.fw = d.fw) (a : Answer) : (e.say a).fw = (d.say a).fw :=
  congrArg (fun f : Fw => { f with answer := some (a.code, []) }) h

/-- An entry of a deeper state that has started. -/
theorem Dev.deeper_law (d : Dev) {x : Nat} (h : x ∈ [3, 4]) (now : Nat) (e : Dev)
    (he : e = (d.asked x (d.get PWR_STATE_REQ.DPMASK)).enter now x 0) :
    (∃ y, (e.say .done).pwr.entry = some y ∧ y.req = x) ∧ (e.say .done).get PWR_STATE_REQ.STATUS = 1 ∧
      (e.say .done).pwr.pkg = d.pwr.pkg ∧ e.fw = d.fw := by
  have hx : x < 2 ^ 3 := by
    simp only [List.mem_cons, List.not_mem_nil, or_false] at h
    omega
  obtain ⟨hstatus, -, hen, hpkg, -⟩ := d.asks_law hx now (d.get PWR_STATE_REQ.DPMASK) 0
  have hfw : e.fw = d.fw := by
    rw [he, Dev.fw_enter, Dev.fw_asked]
  rw [← he] at hstatus hen hpkg
  rw [Dev.pwr_say, Dev.get_say]
  exact ⟨⟨_, hen, rfl⟩, hstatus, hpkg, hfw⟩

theorem Dev.run_law (d : Dev) (now : Nat) (e : Dev) (he : e = (d.asked 0 0).toRun now 0) :
    (e.say .done).pwr.entry = none ∧ (e.say .done).get PWR_STATE_REQ.STATUS = 2 ∧ e.fw = d.fw := by
  obtain ⟨hen, hstatus, -⟩ := (d.asked 0 0).toRun_law now 0
  have hfw : e.fw = d.fw := by
    rw [he, Dev.fw_toRun, Dev.fw_asked]
  rw [← he] at hstatus hen
  rw [Dev.pwr_say, Dev.get_say]
  exact ⟨hen, hstatus, hfw⟩

/-! ### Events (R527) -/

theorem Dev.alert_released (d : Dev) (a : Alert) : a.num ∉ (d.alert a false).mod.alerts := by
  simp [Dev.alert, Dev.onMod]

/-- The oldest event goes. -/
def Dev.acked (d : Dev) : Dev := (d.wakePkg 3).onFw fun f => { f with events := f.events.dropLast }

theorem pldmEventAck_leads (s : State) : Leads .pldmEventAck s
    (if s.dev.acked.fw.events.isEmpty then s.dev.acked.alert .event false else s.dev.acked) := rfl

theorem Dev.acked_law (d : Dev) : d.acked.fw.events = d.fw.events.dropLast ∧ d.acked.core = d.core ∧ d.acked.ras = d.ras := by
  refine ⟨?_, d.core_wakePkg 3, d.ras_wakePkg 3⟩
  rw [Dev.acked]
  exact congrArg (fun f : Fw => f.events.dropLast) (d.fw_wakePkg 3)

/-- With the last event ALERT_n lets go of it. -/
theorem eventAck_law (s : State) : Answers .pldmEventAck s fun e => e.fw.events = s.dev.fw.events.dropLast ∧ e.core = s.dev.core ∧
    e.ras = s.dev.ras ∧ (s.dev.fw.events.length ≤ 1 → Alert.event.num ∉ e.mod.alerts) := by
  obtain ⟨hevents, hcore, hras⟩ := s.dev.acked_law
  by_cases h : s.dev.acked.fw.events.isEmpty
  · exact answers_of_eq (pldmEventAck_leads s) (if_pos h) ⟨hevents, hcore, hras, fun _ => Dev.alert_released _ _⟩
  · refine answers_of_eq (pldmEventAck_leads s) (if_neg h) ⟨hevents, hcore, hras, fun hshort => absurd ?_ h⟩
    rw [hevents, List.isEmpty_iff_length_eq_zero, List.length_dropLast]
    omega

end Sys2Proof.Machine
end

section
/-!
PROOFS. The module's signals: PWR_EN, RESET_n, WAKE_n, PERST_n, the leak trace and the trip.
-/

namespace Sys2Proof.Machine

/-! ### A wake that waits (R535) -/

/-- Does a wake wait for RESET_n? -/
def Dev.wakeDue (d : Dev) : Bool := d.mod.wakeHeld

theorem Dev.wakeDue_of_unreported {d e : Dev} (h : e.unreported = d.unreported) : e.wakeDue = d.wakeDue := by
  have hdue := congrArg Dev.wakeDue h
  exact hdue

theorem Dev.wakeDue_of_noRegs {d e : Dev} (h : e.noRegs = d.noRegs) : e.wakeDue = d.wakeDue := by
  have hdue := congrArg Dev.wakeDue h
  exact hdue

theorem Dev.wakeDue_reportNow (d : Dev) (now code unit sub : Nat) (sev : Sev) (l : List Nat) (log : Bool) (who : Option (Nat × Nat)) :
    (d.reportNow now code unit sub sev l log who).wakeDue = d.wakeDue :=
  Dev.wakeDue_of_unreported (d.reportNow_law now code unit sub sev l log who).1

theorem Dev.wakeDue_requestReset (d : Dev) (now level unit cause : Nat) : (d.requestReset now level unit cause).wakeDue = d.wakeDue := by
  unfold Dev.requestReset
  split
  · rfl
  · dsimp only
    split <;> rfl

theorem Dev.wakeDue_bridgeFails (d : Dev) (now b cause : Nat) : (d.bridgeFails now b cause).wakeDue = d.wakeDue := by
  unfold Dev.bridgeFails
  dsimp only
  split
  · rfl
  · split
    · exact Dev.wakeDue_requestReset ..
    · rfl

theorem Dev.wakeDue_almMark (d : Dev) (u : Nat) (m : Mark) : (d.almMark u m).wakeDue = d.wakeDue := rfl

theorem Dev.wakeDue_sets (f : Nat → Fld) (v : Nat) (l : List Nat) (d : Dev) : (l.foldl (fun d j => d.set (f j) v) d).wakeDue = d.wakeDue :=
  Dev.foldl_proj (π := Dev.wakeDue) (f := fun (d : Dev) j => d.set (f j) v) (fun _ _ => rfl) l d

/-- A unit that fails its bring-up. -/
theorem Dev.wakeDue_unitBad (d : Dev) (now u : Nat) : (d.unitBad now u).wakeDue = d.wakeDue := by
  unfold Dev.unitBad
  dsimp only
  split
  · rfl
  · exact Dev.wakeDue_bridgeFails ..
  · exact (Dev.wakeDue_of_noRegs (Dev.noRegs_fillSlots _ _)).trans (d.wakeDue_almMark u _)
  · exact (Dev.wakeDue_sets _ 2 _ _).trans (d.wakeDue_almMark u _)
  · rfl
  · rfl

theorem Dev.wakeDue_railed (d : Dev) : d.railed.wakeDue = d.wakeDue := by
  unfold Dev.railed
  obtain ⟨fresh, ch, due, reqs, h⟩ := Dev.newChallenge_shape (((((d.onPwr fun w => { w with pkg := .run }).set PWR_STATE_REQ.STATE 0).onLcs
    fun l => { l with drbgUp := true, drbgFails := 0 }).setReg CLK_STATUS.off 0x3FFFFFFFFFFFF).set MGT_STATUS.PKG_DOWN 0).reseed
  rw [h]
  rfl

theorem Dev.wakeDue_loadDeviceKeys (d : Dev) : d.loadDeviceKeys.wakeDue = d.wakeDue := by
  have hkeys : ∀ (k : Nat) (l : List Nat), (l.foldl (Dev.loadKey k) d).wakeDue = d.wakeDue := fun k l =>
    Dev.foldl_proj (π := Dev.wakeDue) (f := Dev.loadKey k) (fun _ _ => rfl) l d
  have heq : d.loadDeviceKeys = (allStacks.foldl (Dev.loadKey d.lcs.nextKey) d).onLcs fun l => { l with nextKey := d.lcs.nextKey + 32 } := rfl
  have hlcs : ∀ (e : Dev) (f : Lcs → Lcs), (e.onLcs f).wakeDue = e.wakeDue := fun _ _ => rfl
  rw [heq, hlcs, hkeys]

theorem Dev.wakeDue_withCore (d : Dev) (c : Tbl Core) : ({ d with core := c } : Dev).wakeDue = d.wakeDue := rfl

theorem Dev.wakeDue_manned (d : Dev) : d.manned.wakeDue = d.wakeDue := by
  have hcores : ∀ e : Dev, e.withCores.wakeDue = e.wakeDue := fun e => e.wakeDue_withCore _
  unfold Dev.manned
  rw [hcores]
  split
  · exact (Dev.wakeDue_loadDeviceKeys _).trans d.wakeDue_railed
  · exact d.wakeDue_railed

/-- Bring-up leaves a wake that waits. -/
theorem Dev.wakeDue_bringUp (d : Dev) (now : Nat) (bad : List Nat) : (d.bringUp now bad).wakeDue = d.wakeDue := by
  have hbad := Dev.foldl_proj (π := Dev.wakeDue) (f := fun d u => Dev.unitBad d now u) (fun e u => e.wakeDue_unitBad now u) bad d
  unfold Dev.bringUp
  dsimp only
  generalize bad.foldl (fun d u => Dev.unitBad d now u) d = x at hbad ⊢
  rw [← hbad]
  split
  · exact Dev.wakeDue_reportNow ..
  · have hat : ∀ (e : Dev) (n : Nat), (e.atStep n).wakeDue = e.wakeDue := fun _ _ => rfl
    exact (hat _ 8).trans ((Dev.wakeDue_of_noRegs (Dev.loadPolicy_law _).1).trans x.wakeDue_manned)

theorem Dev.wakeDue_wipeNo (d : Dev) (k : Nat) : (d.wipeNo k).wakeDue = d.wakeDue := by
  match k with
  | 0 => rfl
  | 1 => rfl
  | 2 =>
    obtain ⟨regs, h⟩ := d.wipeNo_two
    rw [h]
    rfl
  | 3 => rfl
  | 4 => rfl
  | 5 => rfl
  | _ + 6 => rfl

theorem Dev.wakeDue_bootRow (d : Dev) (now i : Nat) : (d.bootRow now i).wakeDue = d.wakeDue := by
  cases hr : d.lcs.journal[i]? with
  | none =>
    unfold Dev.bootRow
    rw [hr]
  | some r =>
    have hwipes := Dev.foldl_proj (π := Dev.wakeDue) (f := Dev.wipeNo) Dev.wakeDue_wipeNo r.wipeList d
    rw [Dev.bootRow_some hr]
    split
    · exact Dev.wakeDue_reportNow ..
    · split
      · exact (Dev.wakeDue_reportNow ..).trans hwipes
      · rfl

/-- The end of a package reset leaves a wake that waits. -/
theorem Dev.wakeDue_pkgUp (d : Dev) (now : Nat) (bad : List Nat) : (d.pkgUp now bad).wakeDue = d.wakeDue := by
  have hjournal : ∀ e : Dev, (e.bootJournal now).wakeDue = e.wakeDue := fun e =>
    Dev.foldl_proj (π := Dev.wakeDue) (fun e i => e.wakeDue_bootRow now i) _ e
  have hdice : ∀ e : Dev, e.dice.wakeDue = e.wakeDue := fun _ => rfl
  have hfw : ∀ (e : Dev) (f : Fw → Fw), (e.onFw f).wakeDue = e.wakeDue := fun _ _ => rfl
  have himage : ∀ e : Dev, e.showImage.wakeDue = e.wakeDue := fun _ => rfl
  have hset : ∀ (e : Dev) (f : Fld) (v : Nat), (e.set f v).wakeDue = e.wakeDue := fun _ _ _ => rfl
  have hstep : (d.pkgStep 5).wakeDue = d.wakeDue := rfl
  unfold Dev.pkgUp Dev.pkgBoot
  dsimp only
  split <;> rw [Dev.wakeDue_bringUp]
  · rw [himage, hfw, hfw, hdice, hjournal, hstep]
  · rw [hset, himage, hfw, hdice, hjournal, hstep]

/-! ### RESET_n and WAKE_n (R526, R535) -/

theorem resetRelease_leads (s : State) (bad : List Nat) : Leads (.resetRelease bad) s (s.dev.resetRises s.now bad) := rfl

theorem wake_leads (s : State) (bad : List Nat) : Leads (.wake bad) s (s.dev.wakeFalls s.now bad) := rfl

/-- RESET_n is high. -/
def Dev.released (d : Dev) : Dev := { d with mod := { d.mod with resetN := true } }

/-- What was held goes on. -/
def Dev.goesOn (d : Dev) (now : Nat) (bad : List Nat) : Dev :=
  if d.ras.resets.any fun r => r.level == 5 && r.step == 4 then d.pkgUp now bad
  else if d.fw.bootStep = 5 ∧ d.fw.cold ∧ !d.fw.recovery ∧ !d.fw.stopped then d.bringUp now bad
  else d

theorem Dev.resetRises_eq (d : Dev) (now : Nat) (bad : List Nat) : d.resetRises now bad =
    if d.mod.tripLatch || !d.mod.pwrEn then d.released
    else if (d.released.goesOn now bad).mod.wakeHeld then
      ((d.released.goesOn now bad).onMod fun m => { m with wakeHeld := false }).wakePin now bad
    else d.released.goesOn now bad := rfl

/-- A package reset held at its step 4. -/
def Dev.resetHeld (d : Dev) : Prop := ∃ r ∈ d.ras.resets, r.level = 5 ∧ r.step = 4

/-- A cold boot held at its step 5. -/
def Dev.bootHeld (d : Dev) : Prop := d.fw.bootStep = 5 ∧ d.fw.cold = true ∧ d.fw.recovery = false ∧ d.fw.stopped = false

theorem Dev.resetHeld_iff (d : Dev) : (d.ras.resets.any fun r => r.level == 5 && r.step == 4) = true ↔ d.resetHeld := by
  simp [Dev.resetHeld]

theorem Dev.goesOn_reset {d : Dev} (h : d.resetHeld) (now : Nat) (bad : List Nat) : d.released.goesOn now bad = d.released.pkgUp now bad :=
  if_pos (d.resetHeld_iff.2 h)

section
variable {d : Dev} (h : ¬d.resetHeld) (now : Nat) (bad : List Nat)
include h

theorem Dev.goesOn_boot (hboot : d.bootHeld) : d.released.goesOn now bad = d.released.bringUp now bad := by
  refine (if_neg (mt d.resetHeld_iff.1 h)).trans (if_pos ?_)
  obtain ⟨hstep, hcold, hrec, hstop⟩ := hboot
  exact ⟨hstep, hcold, by rw [show d.released.fw.recovery = false from hrec]; rfl, by rw [show d.released.fw.stopped = false from hstop]; rfl⟩

theorem Dev.goesOn_none (hboot : ¬d.bootHeld) : d.released.goesOn now bad = d.released := by
  refine (if_neg (mt d.resetHeld_iff.1 h)).trans (if_neg ?_)
  rintro ⟨hstep, hcold, hrec, hstop⟩
  have hno : ∀ b : Bool, (!b) = true → b = false := by decide
  exact hboot ⟨hstep, hcold, hno _ hrec, hno _ hstop⟩
end

theorem Dev.wakeDue_goesOn (d : Dev) (now : Nat) (bad : List Nat) : (d.goesOn now bad).wakeDue = d.wakeDue := by
  unfold Dev.goesOn
  split
  · exact d.wakeDue_pkgUp now bad
  · split
    · exact d.wakeDue_bringUp now bad
    · rfl

/-- With a trip latched or PWR_EN low the signals do nothing. -/
theorem Dev.signals_off {d : Dev} (h : d.mod.tripLatch = true ∨ d.mod.pwrEn = false) (now : Nat) (bad : List Nat) :
    d.resetRises now bad = d.released ∧ d.wakeFalls now bad = d := by
  have hreset : (d.mod.tripLatch || !d.mod.pwrEn) = true := by
    rcases h with h | h <;> simp [h]
  have hwake : (!d.mod.pwrEn || d.mod.tripLatch) = true := by
    rcases h with h | h <;> simp [h]
  exact ⟨(d.resetRises_eq now bad).trans (if_pos hreset), if_pos hwake⟩

section
variable {d : Dev} (htrip : d.mod.tripLatch = false) (hen : d.mod.pwrEn = true) (now : Nat) (bad : List Nat)
include htrip hen

/-- RESET_n high lets go on what it held. -/
theorem Dev.resetRises_on (hheld : d.mod.wakeHeld = false) : d.resetRises now bad = d.released.goesOn now bad := by
  have hon : ¬(d.mod.tripLatch || !d.mod.pwrEn) = true := by simp [htrip, hen]
  have hdue : (d.released.goesOn now bad).mod.wakeHeld = false := (d.released.wakeDue_goesOn now bad).trans hheld
  rw [Dev.resetRises_eq, if_neg hon, hdue]
  rfl

/-- A wake that waited takes effect. -/
theorem Dev.resetRises_wakes (hheld : d.mod.wakeHeld = true) (hreset : ¬d.resetHeld) (hboot : ¬d.bootHeld) (hup : d.fw.bootStep ≠ 0) :
    d.resetRises now bad = Dev.wakePkg { d.released with mod := { d.released.mod with wakeHeld := false } } 4 := by
  have hon : ¬(d.mod.tripLatch || !d.mod.pwrEn) = true := by simp [htrip, hen]
  rw [Dev.resetRises_eq, if_neg hon, Dev.goesOn_none hreset now bad hboot, show d.released.mod.wakeHeld = true from hheld, if_pos rfl]
  exact if_neg hup

theorem Dev.wakeFalls_held (hlow : d.mod.resetN = false) : d.wakeFalls now bad =
    (d.lastWake 4 d.pwr.pkg).onMod fun m => { m with wakeHeld := true } := by
  simp only [Dev.wakeFalls, htrip, hen, hlow, Bool.not_true, Bool.or_self, Bool.false_eq_true, if_false, Bool.not_false, if_true]

theorem Dev.wakeFalls_pin (hhigh : d.mod.resetN = true) : d.wakeFalls now bad = d.wakePin now bad := by
  simp only [Dev.wakeFalls, htrip, hen, hhigh, Bool.not_true, Bool.or_self, Bool.false_eq_true, if_false]
end

/-- PWR_LAST_WAKE has the source of a wake. -/
theorem Dev.lastWake_source (d : Dev) {src : Nat} (h : src < 2 ^ 4) (left : Pwr) : (d.lastWake src left).get PWR_LAST_WAKE.SOURCE = src := by
  unfold Dev.lastWake
  rw [Dev.get_set_of_apart _ _ _ _ (by decide), Dev.get_set_of_apart _ _ _ _ (by decide), Dev.get_set_same _ _ _ (by decide)]
  exact Nat.mod_eq_of_lt h

/-! ### Power removed: PWR_EN and the trip (R528, R533) -/

/-- What power removed leaves, field by field. -/
structure Dev.Off (d e : Dev) : Prop where
  pkg : e.pwr.pkg = .dark
  bootStep : e.fw.bootStep = 0
  mem : e.mem = []
  core : e.core = []
  journal : e.lcs.journal = d.lcs.journal
  pwrEn : e.mod.pwrEn = d.mod.pwrEn
  pwrEnLowAt : e.mod.pwrEnLowAt = d.mod.pwrEnLowAt
  alm : e.alm = d.alm

theorem Dev.off_of_shape {d e : Dev} {regs : Tbl Word} {a : List Nat} {n : Bool}
    (h : e = { (d.cleared true).darkened with regs := regs, mod := { d.mod with alerts := a, alertN := n } }) : d.Off e := by
  subst h
  exact ⟨rfl, rfl, rfl, rfl, rfl, rfl, rfl, rfl⟩

theorem Dev.off_powerOff (d : Dev) : d.Off d.powerOff := by
  obtain ⟨regs, a, n, h⟩ := d.powerOff_shape
  exact Dev.off_of_shape h

theorem forcedPowerDown_leads (s : State) : Leads .forcedPowerDown s (s.dev.powerEnFalls s.now) := rfl

/-- PWR_EN noted low. -/
def Dev.enLow (d : Dev) (now : Nat) : Dev :=
  if d.mod.pwrEn then d.onMod fun m => { m with pwrEn := false, pwrEnLowAt := some now } else d

/-- Outside Dark, the record and the Almanac written as the rails go. -/
def Dev.enNoted (d : Dev) (now : Nat) (l : List Nat) : Dev :=
  { d.reportNow now 0x080B moduleUnit 0x02 .contained l true with
    alm := { (d.reportNow now 0x080B moduleUnit 0x02 .contained l true).alm with lastWrite := now } }

theorem Dev.powerEnFalls_eq (d : Dev) (now : Nat) : d.powerEnFalls now =
    (if d.pwr.pkg == Pwr.dark || d.fw.bootStep == 0 then d.enLow now
      else (d.enLow now).enNoted now [(d.enLow now).pwr.pkg.code, (d.enLow now).get PWR_INPUT.PIN]).powerOff := rfl

theorem Dev.enLow_law (d : Dev) (now : Nat) : (d.enLow now).mod.pwrEn = false ∧ (d.enLow now).lcs.journal = d.lcs.journal ∧
    (d.mod.pwrEn = true → (d.enLow now).mod.pwrEnLowAt = some now) := by
  unfold Dev.enLow
  split
  · exact ⟨rfl, rfl, fun _ => rfl⟩
  case isFalse h => exact ⟨Bool.eq_false_iff.2 h, rfl, fun hn => absurd hn h⟩

theorem Dev.enNoted_law (d : Dev) (now : Nat) (l : List Nat) : (d.enNoted now l).mod.pwrEn = d.mod.pwrEn ∧
    (d.enNoted now l).lcs.journal = d.lcs.journal ∧ (d.enNoted now l).mod.pwrEnLowAt = d.mod.pwrEnLowAt := by
  have hsame := (d.reportNow_law now 0x080B moduleUnit 0x02 .contained l true none).1
  have hen := congrArg (fun e : Dev => e.mod.pwrEn) hsame
  have hat := congrArg (fun e : Dev => e.mod.pwrEnLowAt) hsame
  have hjournal := congrArg (fun e : Dev => e.lcs.journal) hsame
  exact ⟨hen, hjournal, hat⟩

/-- PWR_EN low takes the rails down. -/
theorem Dev.powerEnFalls_law (d : Dev) (now : Nat) : (d.powerEnFalls now).pwr.pkg = .dark ∧ (d.powerEnFalls now).fw.bootStep = 0 ∧
    (d.powerEnFalls now).mod.pwrEn = false ∧ (d.powerEnFalls now).mem = [] ∧ (d.powerEnFalls now).core = [] ∧
    (d.powerEnFalls now).lcs.journal = d.lcs.journal ∧ (d.mod.pwrEn = true → (d.powerEnFalls now).mod.pwrEnLowAt = some now) := by
  obtain ⟨hen, hjournal, hat⟩ := d.enLow_law now
  obtain ⟨hen', hjournal', hat'⟩ := (d.enLow now).enNoted_law now [(d.enLow now).pwr.pkg.code, (d.enLow now).get PWR_INPUT.PIN]
  rw [Dev.powerEnFalls_eq]
  split
  · have hoff := (d.enLow now).off_powerOff
    exact ⟨hoff.pkg, hoff.bootStep, hoff.pwrEn.trans hen, hoff.mem, hoff.core, hoff.journal.trans hjournal, fun h => hoff.pwrEnLowAt.trans (hat h)⟩
  · have hoff := ((d.enLow now).enNoted now [(d.enLow now).pwr.pkg.code, (d.enLow now).get PWR_INPUT.PIN]).off_powerOff
    exact ⟨hoff.pkg, hoff.bootStep, hoff.pwrEn.trans (hen'.trans hen), hoff.mem, hoff.core, hoff.journal.trans (hjournal'.trans hjournal),
      fun h => hoff.pwrEnLowAt.trans (hat'.trans (hat h))⟩

/-- ALERT_n stays low while a record is made. -/
theorem Dev.alertN_notify (d : Dev) (now : Nat) (r : ErrRec) (l : List Nat) :
    (d.notify now (some r) l).mod.alertN = false := by
  unfold Dev.notify
  exact iteInduction (motive := fun e : Dev => e.mod.alertN = false) (fun _ => rfl) fun _ => rfl

theorem Dev.alertN_received {d : Dev} (h : d.mod.alertN = false) (now : Nat) (r : ErrRec) (flash : Bool) :
    (d.received now r flash).mod.alertN = false := by
  have hlog : ∀ (e : Dev) (r : ErrRec), (e.logFlash r).mod = e.mod := by
    intro e r
    obtain ⟨fl, dumps, snaps, hl⟩ := e.logFlash_shape r
    rw [hl]
  have hnote : ∀ (e : Dev) (x : ErrRec), e.mod.alertN = false → (if r.noticed then e.notify now (some x) [] else e).mod.alertN = false :=
    fun e x he => iteInduction (motive := fun e : Dev => e.mod.alertN = false) (fun _ => e.alertN_notify now x []) fun _ => he
  unfold Dev.received
  dsimp only
  cases flash
  · exact hnote _ _ h
  · exact (congrArg Mod.alertN (hlog _ _)).trans (hnote _ _ h)

theorem Dev.alertN_reportNow {d : Dev} (h : d.mod.alertN = false) (now code unit sub : Nat) (sev : Sev) (l : List Nat) (log : Bool)
    (who : Option (Nat × Nat)) : (d.reportNow now code unit sub sev l log who).mod.alertN = false := by
  rw [Dev.reportNow_eq, Dev.report_eq]
  have hrec := Dev.alertN_received h now (d.found code unit sub sev l who) (d.flashes (d.found code unit sub sev l who) log)
  split
  · obtain ⟨regs, ras, intr, snaps, hw⟩ := Dev.errqWrite_shape _ now _
    rw [hw]
    exact hrec
  · split
    · exact hrec
    · obtain ⟨⟨regs, lost, crit, fl, dumps, snaps, hl⟩, -⟩ := Dev.errqLose_shape _ _
      rw [hl]
      exact hrec

/-- The trip latched. -/
def Dev.latched (d : Dev) : Dev := (d.onMod fun m => { m with tripLatch := true }).alert .trip true

theorem Dev.latched_law (d : Dev) : d.latched.mod.tripLatch = true ∧ d.latched.mod.alertN = false ∧ d.latched.pwr = d.pwr ∧
    d.latched.fw = d.fw ∧ d.latched.alm = d.alm ∧ d.latched.core = d.core ∧ d.latched.mem = d.mem := ⟨rfl, rfl, rfl, rfl, rfl, rfl, rfl⟩

/-- The module as the trip leaves it, before the record. -/
def Dev.tripped (d : Dev) : Dev := (d.onAlm fun m => { m with trips := m.trips + 1 }).powerOff.latched

theorem thermalTrip_leads (s : State) (unit temp : Nat) : Leads (.thermalTrip unit temp) s (s.dev.trip s.now unit temp) := rfl

theorem Dev.trip_eq (d : Dev) (now unit temp : Nat) : d.trip now unit temp =
    if d.mod.tripLatch ∨ !d.tripsAt unit temp ∨ d.fw.bootStep = 0 then d
    else d.tripped.reportNow now 0x080C moduleUnit 0x03 .fatal [unit, temp] true := rfl

theorem Dev.tripped_law (d : Dev) : d.tripped.mod.tripLatch = true ∧ d.tripped.pwr.pkg = .dark ∧ d.tripped.fw.bootStep = 0 ∧
    d.tripped.alm.trips = d.alm.trips + 1 ∧ d.tripped.core = [] ∧ d.tripped.mem = [] ∧ d.tripped.mod.alertN = false := by
  have hoff := (d.onAlm fun m => { m with trips := m.trips + 1 }).off_powerOff
  obtain ⟨hlatch, halert, hpwr, hfw, halm, hcore, hmem⟩ := Dev.latched_law (d.onAlm fun m => { m with trips := m.trips + 1 }).powerOff
  unfold Dev.tripped
  rw [hpwr, hfw, halm, hcore, hmem, hoff.alm]
  exact ⟨hlatch, hoff.pkg, hoff.bootStep, rfl, hoff.core, hoff.mem, halert⟩

theorem Dev.tripped_reported {x e : Dev} {trips : Nat} (hx : x.mod.tripLatch = true ∧ x.pwr.pkg = .dark ∧ x.fw.bootStep = 0 ∧
    x.alm.trips = trips ∧ x.core = [] ∧ x.mem = [] ∧ x.mod.alertN = false) (hsame : e.unreported = x.unreported)
    (halert : e.mod.alertN = false) : e.mod.tripLatch = true ∧ e.pwr.pkg = .dark ∧ e.fw.bootStep = 0 ∧ e.alm.trips = trips ∧
    e.core = [] ∧ e.mem = [] ∧ e.mod.alertN = false := by
  obtain ⟨hlatch, hpkg, hstep, htrips, hcore, hmem, -⟩ := hx
  obtain ⟨-, hmem', -, hcore', -⟩ := Dev.of_unreported hsame
  have hlatch' := congrArg (fun e : Dev => e.mod.tripLatch) hsame
  have htrips' := congrArg (fun e : Dev => e.alm.trips) hsame
  exact ⟨hlatch'.trans hlatch, (congrArg (·.pkg) (Dev.pwr_of_unreported hsame)).trans hpkg, (Dev.fw_of_unreported hsame).bootStep.trans hstep,
    htrips'.trans htrips, hcore'.trans hcore, hmem'.trans hmem, halert⟩

/-- At a trip temperature the module goes dark and latches. -/
theorem thermalTrip_law (s : State) (unit temp : Nat) :
    let trips := s.dev.mod.tripLatch = false ∧ s.dev.tripsAt unit temp = true ∧ s.dev.fw.bootStep ≠ 0
    (¬trips → Leads (.thermalTrip unit temp) s s.dev) ∧
      (trips → Answers (.thermalTrip unit temp) s fun e => e.mod.tripLatch = true ∧ e.pwr.pkg = .dark ∧ e.fw.bootStep = 0 ∧
        e.alm.trips = s.dev.alm.trips + 1 ∧ e.core = [] ∧ e.mem = [] ∧ e.mod.alertN = false) := by
  intro trips
  have hiff : (s.dev.mod.tripLatch ∨ !s.dev.tripsAt unit temp ∨ s.dev.fw.bootStep = 0) ↔ ¬trips := by
    simp only [trips, Bool.not_eq_true', not_and_or, Bool.not_eq_false, Bool.not_eq_true, not_not, ne_eq]
  refine ⟨fun hno => leads_of_eq (thermalTrip_leads s unit temp) ((s.dev.trip_eq ..).trans (if_pos (hiff.2 hno))), fun hyes => ?_⟩
  have hx := s.dev.tripped_law
  exact answers_of_eq (thermalTrip_leads s unit temp) ((s.dev.trip_eq ..).trans (if_neg fun h => hiff.1 h hyes))
    (Dev.tripped_reported hx (Dev.reportNow_law ..).1 (Dev.alertN_reportNow hx.2.2.2.2.2.2 ..))

theorem Dev.tripsAt_pair (d : Dev) {p : Nat} (h : p < 8) (temp : Nat) : d.tripsAt (svcUnit p) temp = decide (110 ≤ temp) := by
  have hkind : svcUnit p / 8192 = 6 := by
    unfold svcUnit unitId
    omega
  simp only [Dev.tripsAt, hkind]

theorem Dev.tripsAt_stack (d : Dev) {k : Nat} (h : k < 32) (temp : Nat) :
    d.tripsAt (stackUnit k) temp = decide (d.get (STK_THERM_CTRL.TRIP k) ≤ temp) := by
  have hkind : stackUnit k / 8192 = 4 := by
    unfold stackUnit unitId
    omega
  have hindex : stackUnit k % 8192 = k := by
    unfold stackUnit unitId
    omega
  simp only [Dev.tripsAt, hkind, hindex]

/-- The latch opens. -/
def Dev.unlatched (d : Dev) : Dev := (d.onMod fun m => { m with tripLatch := false }).alert .trip false

theorem thermalTripLatchClear_cases (s : State) :
    let clears := s.dev.mod.tripLatch = true ∧ s.dev.mod.pwrEn = false ∧ ∃ t, s.dev.mod.pwrEnLowAt = some t ∧ t + second ≤ s.now
    (clears → Leads .thermalTripLatchClear s s.dev.unlatched) ∧ (¬clears → Leads .thermalTripLatchClear s s.dev) := by
  intro clears
  have hlead (e : Dev) (h : (match s.dev.mod.pwrEnLowAt with
      | some t => if s.dev.mod.tripLatch && !s.dev.mod.pwrEn && decide (t + second ≤ s.now) then s.dev.unlatched else s.dev
      | none => s.dev) = e) : Leads .thermalTripLatchClear s e := h ▸ rfl
  cases hat : s.dev.mod.pwrEnLowAt with
  | none =>
    refine ⟨fun ⟨_, _, t, ht, _⟩ => ?_, fun _ => hlead _ (by rw [hat])⟩
    rw [hat] at ht
    cases ht
  | some t =>
    have hiff : (s.dev.mod.tripLatch && !s.dev.mod.pwrEn && decide (t + second ≤ s.now)) = true ↔ clears := by
      simp [clears, hat, and_assoc]
    exact ⟨fun h => hlead _ (by rw [hat]; exact if_pos (hiff.2 h)), fun h => hlead _ (by rw [hat]; exact if_neg (mt hiff.1 h))⟩

end Sys2Proof.Machine
end

section
/-!
PROOFS. PERST_n and a port's links, and the module's signals as a whole.
-/

namespace Sys2Proof.Machine

/-! ### Sheddings change no link (R375) -/

theorem Dev.cxl_shed (d : Dev) (id : Nat) (r : Reason) : (d.shed id r).cxl = d.cxl := by
  unfold Dev.shed
  split
  · rfl
  · split <;> rfl

theorem Dev.cxl_shedLoop (r : Reason) (test : Dev → Bool) (users : Dev → List (Nat × Cmd)) (n : Nat) (d : Dev) :
    (Dev.shedLoop r test users n d).2.cxl = d.cxl := by
  induction n generalizing d with
  | zero => rfl
  | succ n ih =>
    unfold Dev.shedLoop
    split
    · rfl
    · split
      · rfl
      · exact (ih _).trans (d.cxl_shed _ r)

theorem Dev.cxl_shedEpisode (d : Dev) (dp resource : Nat) (r : Reason) (test : Dev → Bool) (users : Dev → List (Nat × Cmd)) :
    (d.shedEpisode dp resource r test users).cxl = d.cxl := by
  have hloop := Dev.cxl_shedLoop r test users d.hif.cmds.length d
  unfold Dev.shedEpisode
  dsimp only
  split
  · exact hloop
  · exact hloop

theorem Dev.cxl_shedLink (d : Dev) (k : Nat) : (d.shedLink k).cxl = d.cxl := by
  unfold Dev.shedLink
  split
  · rfl
  · exact Dev.cxl_shedEpisode ..

/-! ### A port's links (R526) -/

/-- A link that goes DOWN leaves the others. -/
theorem Dev.link_linkDown_other (d : Dev) (now cause : Nat) {j k : Nat} (h : j ≠ k) : (d.linkDown now k cause).link j = d.link j := by
  unfold Dev.linkDown
  split
  · rfl
  · dsimp only
    have hshed : ∀ e : Dev, (e.shedLink k).link j = e.link j := fun e => by
      rw [Dev.link, e.cxl_shedLink k, ← Dev.link]
    obtain ⟨hrest, -⟩ := Dev.suspects_law ((d.cxl.partners.filter fun e => e.2.link == k && e.2.state == .live).map (·.1))
      (d.onLink k (Link.downed now)) now
    have hlink := congrArg (fun e : Dev => e.link j) hrest
    exact (hshed _).trans ((Dev.link_raiseLink ..).trans (hlink.trans (Dev.link_onLink_other _ _ _ _ h)))

/-- Lanes narrowed or in full leave a link that is DOWN, and one that is up. -/
theorem Dev.state_allLanes (d : Dev) (narrow : Bool) (k : Nat) : ((d.allLanes narrow).link k).state = (d.link k).state := by
  unfold Dev.link Dev.allLanes
  simp only [Tbl.look, Tbl.find_mapV]
  cases Tbl.find d.cxl.links k with
  | none => rfl
  | some l =>
    simp only [Option.map_some, Option.getD_some]
    split
    · rfl
    · split <;> rfl

/-- A wake leaves every link's state. -/
theorem Dev.state_wakePkg (d : Dev) (src k : Nat) : ((d.wakePkg src).link k).state = (d.link k).state := by
  have hset : ∀ (e : Dev) (left p : Pwr), ((e.lastWake src left).setPkg p).link k = e.link k := fun _ _ _ => rfl
  unfold Dev.wakePkg
  split
  · rw [Dev.state_allLanes, hset]
  · rfl

/-- PERST_n of a port as the module sees it, the package awake. -/
def Dev.perstSeen (d : Dev) (port : Nat) (high : Bool) : Dev :=
  (d.wakePkg 5).onMod fun m => { m with perst := modifyAt m.perst port fun _ => high }

/-- The port's readiness begins anew. -/
def Dev.unready (d : Dev) (port : Nat) : Dev := (d.set (CXP_STATUS.READY port) 0).set (CXP_STATUS.MEM_ACTIVE port) 0

theorem perstLow_leads (s : State) (port : Nat) : Leads (.perstLow port) s
    ((((s.dev.perstSeen port false).linkDown s.now (linkNo port false) 3).linkDown s.now (linkNo port true) 3).unready port) := rfl

theorem perstRise_leads (s : State) (port : Nat) : Leads (.perstRise port) s (s.dev.perstSeen port true) := rfl

theorem Dev.state_perstSeen (d : Dev) (port k : Nat) (high : Bool) : ((d.perstSeen port high).link k).state = (d.link k).state :=
  d.state_wakePkg 5 k

theorem Dev.partners_wakePkg (d : Dev) (src : Nat) : (d.wakePkg src).cxl.partners = d.cxl.partners := by
  unfold Dev.wakePkg
  split <;> rfl

theorem Dev.perstSeen_law (d : Dev) {port : Nat} (h : port < 4) (high : Bool) : (d.perstSeen port high).ras = d.ras ∧
    (d.perstSeen port high).cxl.partners = d.cxl.partners ∧
    (d.mod.perst.length = 4 → (d.perstSeen port high).mod.perst[port]? = some high) := by
  refine ⟨d.ras_wakePkg 5, d.partners_wakePkg 5, fun hlen => ?_⟩
  have hperst : (d.perstSeen port high).mod.perst = modifyAt (d.wakePkg 5).mod.perst port fun _ => high := rfl
  rw [hperst, Dev.mod_wakePkg]
  exact getElem_modifyAt (List.getElem?_eq_getElem (by omega)) _

theorem CXP_STATUS.ready_apart (port : Nat) : (CXP_STATUS.MEM_ACTIVE port).apart (CXP_STATUS.READY port) = true := by
  simp [Fld.apart, CXP_STATUS.READY, CXP_STATUS.MEM_ACTIVE]

theorem Dev.unready_law (d : Dev) (port : Nat) : (d.unready port).flag (CXP_STATUS.READY port) = false ∧
    (d.unready port).flag (CXP_STATUS.MEM_ACTIVE port) = false ∧ (d.unready port).mod = d.mod ∧ (d.unready port).ras = d.ras := by
  refine ⟨?_, ?_, rfl, rfl⟩
  · rw [Dev.flag, Dev.unready, Dev.get_set_of_apart _ _ _ _ (CXP_STATUS.ready_apart port), Dev.get_set_same _ _ _ (by simp [CXP_STATUS.READY]),
      Nat.zero_mod]
    rfl
  · rw [Dev.flag, Dev.unready, Dev.get_set_same _ _ _ (by simp [CXP_STATUS.MEM_ACTIVE]), Nat.zero_mod]
    rfl

theorem linkNo_ne (port : Nat) : linkNo port true ≠ linkNo port false := by
  unfold linkNo
  simp

/-- PERST_n low: the port is not ready, and a link that was up goes DOWN with a record. -/
theorem perst_law (s : State) {port : Nat} (h : port < 4) :
    Answers (.perstLow port) s (fun e => e.flag (CXP_STATUS.READY port) = false ∧ e.flag (CXP_STATUS.MEM_ACTIVE port) = false ∧
      ((s.dev.link (linkNo port false)).state = 0 → (s.dev.link (linkNo port true)).state = 0 →
        s.dev.mod.perst.length = 4 → e.mod.perst[port]? = some false ∧ e.ras = s.dev.ras)) ∧
    ((s.dev.link (linkNo port false)).state ≠ 0 → (s.dev.link (linkNo port true)).state = 0 → Sets (.perstLow port) s
      (fun e => (e.shedLink (linkNo port false)).unready port) fun e => (e.link (linkNo port false)).state = 0 ∧
        (e.link (linkNo port false)).ideKeys = false ∧ ∃ b, e.ras.box = s.dev.ras.box ++ [b] ∧ b.code = 0x0701) := by
  have hstate := fun k => s.dev.state_perstSeen port k false
  obtain ⟨hras, -, hperst⟩ := s.dev.perstSeen_law h false
  have hlead := perstLow_leads s port
  generalize s.dev.perstSeen port false = x at hstate hras hperst hlead
  refine ⟨?_, fun hup hdown => ?_⟩
  · obtain ⟨hready, hactive, hmod, hrest⟩ :=
      ((x.linkDown s.now (linkNo port false) 3).linkDown s.now (linkNo port true) 3).unready_law port
    refine ⟨_, hlead, hready, hactive, fun hl hr hlen => ?_⟩
    rw [hmod, hrest, Dev.linkDown_down (d := x) ((hstate _).trans hl), Dev.linkDown_down ((hstate _).trans hr)]
    exact ⟨hperst hlen, hras⟩
  · have hother := x.link_linkDown_other s.now 3 (linkNo_ne port)
    rw [Dev.linkDown_down (d := x.linkDown s.now (linkNo port false) 3) (by rw [hother, hstate, hdown])] at hlead
    obtain ⟨e, he, hlink, hbox, -⟩ := Dev.linkDown_law (d := x) (k := linkNo port false) (by rw [hstate]; exact hup) s.now 3
    rw [he] at hlead
    rw [hras] at hbox
    exact ⟨e, hlead, by rw [hlink]; rfl, by rw [hlink]; rfl, hbox⟩

/-! ### Hot insertion (R523) -/

/-- The input stage as a voltage leaves it. -/
def Dev.precharge (d : Dev) (mv : Nat) (on : Bool) : Dev :=
  (d.onMod fun m => { m with vinMv := mv, precharged := on, standby := on, inputOn := on }).onPwr fun w => { w with
    lockout := false, rangeRec := false }

theorem hotInsertionPrecharge_leads (s : State) (mv : Nat) : Leads (.hotInsertionPrecharge mv) s
    (if s.dev.mod.pwrEn then s.dev else s.dev.precharge mv (decide (46000 < mv) && decide (mv < 59000))) := rfl

theorem leakTraceDry_leads (s : State) : Leads .leakTraceDry s ((s.dev.onMod fun m => { m with leak := false }).alert .leak false) := rfl

/-- A dry leak trace lets LEAK_n go. -/
theorem leakTraceDry_law (s : State) : Answers .leakTraceDry s fun e =>
    e.mod.leak = false ∧ Alert.leak.num ∉ e.mod.alerts ∧ e.ras = s.dev.ras ∧ e.core = s.dev.core :=
  ⟨_, leakTraceDry_leads s, rfl, Dev.alert_released _ _, rfl, rfl⟩

theorem forcedPowerDown_law (s : State) : Answers .forcedPowerDown s fun e => e.pwr.pkg = .dark ∧ e.fw.bootStep = 0 ∧
    e.mod.pwrEn = false ∧ e.mem = [] ∧ e.core = [] ∧ e.lcs.journal = s.dev.lcs.journal ∧
    (s.dev.mod.pwrEn = true → e.mod.pwrEnLowAt = some s.now) :=
  ⟨_, forcedPowerDown_leads s, s.dev.powerEnFalls_law s.now⟩

/-- Settles O55: the module's transports and signals. -/
theorem moduleSignals : Obligations.ModuleSignals := by
  intro s d w up
  have hup5 : ∀ n, up n = d.serves n := fun _ => rfl
  refine ⟨fun hno => ⟨?early, fun x => ?earlyOf⟩, fun hno x => ⟨leads_notReady (trayCap_leads s x) hno,
      leads_notReady (pldmStateRequest_leads s x) hno⟩, fun hyes => ⟨?tid, leads_served (getPldmTypes_leads s) hyes, fun x => ?ids⟩,
    fun hyes => ?files, fun hyes x => ?power, eventAck_law s, forcedPowerDown_law s, fun bad => ?pins,
    fun port hport => ?perst, fun mv => ?hot, leakTraceDry_law s,
    thermalTrip_law s, fun temp => ⟨fun p hp => d.tripsAt_pair hp temp, fun k hk => d.tripsAt_stack hk temp⟩, ?clear⟩
  case early =>
    simp only [List.mem_cons, List.not_mem_nil, or_false, forall_eq_or_imp, forall_eq]
    exact ⟨leads_notReady (getTid_leads s) hno, leads_notReady (getPldmTypes_leads s) hno⟩
  case earlyOf =>
    simp only [List.mem_cons, List.not_mem_nil, or_false, forall_eq_or_imp, forall_eq]
    exact ⟨leads_notReady (setTid_leads s x) hno, leads_notReady (mctpSetEndpointId_leads s x) hno,
      leads_notReady (getPldmCommands_leads s x) hno, leads_notReady (getPldmVersion_leads s x) hno,
      leads_notReady (pldmFileRead_leads s x) hno⟩
  case tid =>
    refine leads_of_eq (leads_served (getTid_leads s) hyes) ?_
    rw [Dev.fw_wakePkg]
  case ids =>
    have hmem : pldmTypes.contains x = true ↔ x ∈ [0, 2, 4, 5, 7] := List.contains_iff_mem
    refine ⟨fun h1 h2 => leads_of_eq (leads_served (setTid_leads s x) hyes) (if_pos ⟨h1, h2⟩),
      fun hbad => leads_of_eq (leads_served (setTid_leads s x) hyes) (if_neg (by omega)),
      fun h1 h2 => leads_of_eq (leads_served (mctpSetEndpointId_leads s x) hyes) (if_pos ⟨h1, h2⟩),
      fun hbad => leads_of_eq (leads_served (mctpSetEndpointId_leads s x) hyes) (if_neg (by omega)), fun hx => ⟨?_, ?_⟩,
      fun hx => ⟨?_, ?_⟩, fun hx => leads_of_eq (leads_served (pldmFileRead_leads s x) hyes) (Dev.fileRead_none _ hx)⟩
    · exact leads_of_eq (leads_served (getPldmCommands_leads s x) hyes) (if_pos (hmem.2 hx))
    · exact leads_of_eq (leads_served (getPldmVersion_leads s x) hyes) (if_pos (hmem.2 hx))
    · exact leads_of_eq (leads_served (getPldmCommands_leads s x) hyes) (if_neg (mt hmem.1 hx))
    · exact leads_of_eq (leads_served (getPldmVersion_leads s x) hyes) (if_neg (mt hmem.1 hx))
  case files =>
    refine ⟨leads_of_eq (leads_served (pldmFileRead_leads s 0) hyes) ?_, leads_of_eq (leads_served (pldmFileRead_leads s 1) hyes) ?_,
      leads_of_eq (leads_served (pldmFileRead_leads s 2) hyes) ?_⟩
    · rw [Dev.fileRead, Dev.almFile_wakePkg]
    · rw [Dev.fileRead, Dev.ras_wakePkg]
    · rw [Dev.fileRead, Dev.ras_wakePkg]
  case power =>
    have hcap := leads_served (trayCap_leads s x) hyes
    have hreq := leads_served (pldmStateRequest_leads s x) hyes
    have hentry : w.pwr.entry = d.pwr.entry := d.entry_wakePkg 3
    have hmod : w.mod = d.mod := d.mod_wakePkg 3
    have hfw : w.fw = d.fw := d.fw_wakePkg 3
    refine ⟨fun h1 h2 => ?_, fun hbad => leads_of_eq hcap (if_neg ?_), fun hx => leads_of_eq hreq (Dev.stateAsked_other _ _ hx),
      fun hx hbusy hdown => leads_of_eq hreq (Dev.stateAsked_busy hx (by rwa [hentry, hmod]) hdown _),
      fun hx hen htrip hdown => ?_, fun hx hen htrip hdown => ?_⟩
    · have hvalid : capValid x = true := by simp [capValid, h1, h2]
      obtain ⟨htray, hfm, hmin⟩ := w.trayCap_law s.now h2
      have hkept : w.get PWR_CAP.FM_CAP_W = d.get PWR_CAP.FM_CAP_W := d.get_wakePkg 3 _ (by decide) (by decide) (by decide)
      refine ⟨_, leads_of_eq hcap ((if_pos hvalid).trans (congrArg (Dev.say · .done) (Dev.capSet_eq _ s.now))), htray, hfm.trans hkept, ?_⟩
      rw [hmin, hkept]
    · simp only [capValid, Bool.and_eq_true, decide_eq_true_eq]
      omega
    · obtain ⟨hrun, hstatus, hpkg, hkept⟩ := w.deeper_law hx s.now _ rfl
      exact answers_of_eq hreq (Dev.stateAsked_deeper (hentry.trans hen) (by rw [hmod, htrip]) hdown hx _)
        ⟨hrun, hstatus, hpkg, Dev.fw_say (hkept.trans hfw) .done⟩
    · subst hx
      obtain ⟨hover, hstatus, hkept⟩ := w.run_law s.now _ rfl
      exact answers_of_eq hreq (Dev.stateAsked_run (hentry.trans hen) (by rw [hmod, htrip]) hdown _)
        ⟨hover, hstatus, Dev.fw_say (hkept.trans hfw) .done⟩
  case pins =>
    refine ⟨fun hoff => ?_, fun htrip hen => ⟨fun hheld => ⟨fun hreset => ?_, fun hreset hboot => ?_, fun hreset hboot => ?_⟩,
      fun hheld hreset hboot hnz => ?_, fun hlow => ?_, fun hhigh hnz => ?_, fun hhigh hz => ?_⟩⟩
    · obtain ⟨hreset, hwake⟩ := Dev.signals_off hoff s.now bad
      exact ⟨leads_of_eq (resetRelease_leads s bad) hreset, leads_of_eq (wake_leads s bad) hwake⟩
    · exact leads_of_eq (resetRelease_leads s bad) ((Dev.resetRises_on htrip hen _ _ hheld).trans (Dev.goesOn_reset hreset _ _))
    · exact leads_of_eq (resetRelease_leads s bad) ((Dev.resetRises_on htrip hen _ _ hheld).trans (Dev.goesOn_boot hreset _ _ hboot))
    · exact leads_of_eq (resetRelease_leads s bad) ((Dev.resetRises_on htrip hen _ _ hheld).trans (Dev.goesOn_none hreset _ _ hboot))
    · exact leads_of_eq (resetRelease_leads s bad) (Dev.resetRises_wakes htrip hen _ _ hheld hreset hboot hnz)
    · exact answers_of_eq (wake_leads s bad) (Dev.wakeFalls_held htrip hen _ _ hlow) ⟨rfl, rfl, Dev.lastWake_source _ (by decide) _⟩
    · exact leads_of_eq (wake_leads s bad) ((Dev.wakeFalls_pin htrip hen _ _ hhigh).trans (if_neg hnz))
    · exact leads_of_eq (wake_leads s bad) ((Dev.wakeFalls_pin htrip hen _ _ hhigh).trans (if_pos hz))
  case perst =>
    obtain ⟨hlow, hsets⟩ := perst_law s hport
    obtain ⟨hras, hpartners, hperst⟩ := d.perstSeen_law hport true
    exact ⟨hlow, hsets, _, perstRise_leads s port, hperst, hras, hpartners⟩
  case hot =>
    exact ⟨fun hen => leads_of_eq (hotInsertionPrecharge_leads s mv) (if_pos hen), fun hlow =>
      answers_of_eq (hotInsertionPrecharge_leads s mv) (if_neg (ne_true_of_eq_false hlow)) ⟨rfl, rfl, rfl, rfl⟩⟩
  case clear =>
    obtain ⟨hyes, hno⟩ := thermalTripLatchClear_cases s
    exact ⟨fun h => ⟨_, hyes h, rfl, Dev.alert_released _ _, rfl⟩, hno⟩

end Sys2Proof.Machine
end
